-- ==== Sys2Proof/Word.lean ====
section
/-!
DEFINITION. The word types of the model and their plainest arithmetic: bytes, 32-bit FP32 patterns, 64-bit
registers, the 128-bit instruction words and crate tags, and little-endian assembly of bytes.
-/
namespace Sys2Proof

/-- One byte of memory. -/
abbrev Byte := BitVec 8
/-- The bit pattern of one FP32 value (02/R43). -/
abbrev F32 := BitVec 32
/-- A 32-bit register or packet field. -/
abbrev W32 := BitVec 32
/-- A 64-bit register, counter or packet field. -/
abbrev W64 := BitVec 64
/-- A station instruction word or a crate tag. -/
abbrev W128 := BitVec 128

namespace Word

/-- The number that `n` bytes, least significant first, spell. -/
def leNat : List Byte → Nat
  | [] => 0
  | b :: bs => b.toNat + 256 * leNat bs

/-- The `n` low bytes of a number, least significant first. -/
def toLe : Nat → Nat → List Byte
  | 0, _ => []
  | n + 1, v => BitVec.ofNat 8 v :: toLe n (v / 256)

/-- Bits `hi..lo` of a number, as a number. -/
def bitsOf (v hi lo : Nat) : Nat := v / 2 ^ lo % 2 ^ (hi + 1 - lo)

/-- Bit `n` of a number. -/
def bitOf (v n : Nat) : Bool := v / 2 ^ n % 2 == 1

/-- A Bool as a one-bit number. -/
def b2n (b : Bool) : Nat := if b then 1 else 0

end Word
end Sys2Proof
end

