-- ==== Sys2Proof/Syntax.lean ====
section
/-!
DEFINITION. The commands of the block: one constructor per row of the opcode table, with what the row needs from
outside (frame contents, data read over PCIe, measured values, observed physical faults) as operands.
-/
namespace Sys2Proof

/-- What the running of a station instruction, a move or a scrub met that no register of the module decides: nothing, a
timing condition of the schedule (03/R77, R79, R91, 04/R118, 06/R190; `waitEarly`: a wait on a bin, for space or for
data, that executes before the post or release it needs is seen), weighing disagreements of a pass (04/R125: bench
line, block and faulty column), or stored words that the memories' codes cannot correct (07/R200, R201, R211). DESIGN
CHOICE: log entry 2. -/
inductive Finding where
  | clean
  | bankConflict (bank station : Nat)
  | meshConflict
  | waitEarly (bin : Nat) (space : Bool)
  | arrayCond (code : Nat)
  | weigh (xs : List (Nat × Nat × Option Nat))
  | storeEntry
  | corrected (units : List Nat)
  | correctedSectors (xs : List (Nat × Nat))
  | uncorrectable (sectors : List Nat)
  | benchEntry (line column : Nat)
deriving DecidableEq, Repr

/-- One lane of a margining sweep as measured (07/R225-R227): the four margins, whether the sweep dropped, and whether
the lane is a spare in use. -/
structure SweepEntry where
  early : Byte
  late : Byte
  low : Byte
  high : Byte
  broken : Bool := false
  spare : Bool := false
deriving DecidableEq, Repr

/-- A fabric frame (11/R358, R359): its header fields, and for a crate frame the 16 tag bytes and the payload.
Fields that a frame type does not have are 0. -/
structure Frame where
  typ : Nat := 0
  last : Bool := false
  hops : Nat := 0
  dst : Nat := 0
  src : Nat := 0
  sid : Nat := 0
  ch : Nat := 0
  dctx : Nat := 0
  dgen : Nat := 0
  seq : Nat := 0
  opid : Nat := 0
  addr : Nat := 0
  aux : Nat := 0
  index : Nat := 0
  /-- tag and payload, 4,112 bytes; empty for a frame of one word -/
  data : List Byte := []
deriving DecidableEq, Repr

/-- The outcome of the boot-time retest of a fenced unit (08/R258): whether it fails again, and the duration and detail
of its record. -/
structure Retest where
  unit : W64
  fails : Bool
  dur : Nat := 0
  detail : List Byte := []
deriving DecidableEq, Repr

/-- The training of a memory channel as observed (07/R216, R217): lanes that failed the eye check, spare lanes that
passed it. -/
structure ChanTrain where
  chan : Nat
  ok : Bool := true
  bad : List Nat := []
  spares : Nat
deriving DecidableEq, Repr

/-- The training of a fabric port as observed (11/R354): failed lanes and the lanes chosen to carry data, as bit masks. -/
structure PortTrain where
  port : Nat
  answered : Bool
  failed : Nat := 0
  lanes : Nat := 0xFF
deriving DecidableEq, Repr

/-- The measurements of one microsecond (18/R550, R553, R560): module power averaged over 4 µs and of this microsecond
in mW, module current in mA, each die's core-rail current in mA, whether a die has been in droop for more than 2 µs, and
the part of the power that the core rails take. -/
structure BackSample where
  pAvg : Nat
  pNow : Nat
  iAvg : Nat
  dies : List Nat
  droop : Bool
  core : Nat
deriving DecidableEq, Repr

/-- The requester of a management operation: its source (0 the sideband, else an IPv4 address times 65,536 plus a UDP
port), its identifier, and the management port by which it came (19/R569, R570). -/
structure Req where
  source : Nat := 0
  ident : Nat := 0
  port : Nat := 0
deriving DecidableEq, Repr

/-- The sensors of 18/R560 as sampled: 32-bit voltages, currents and powers in mV, mA and mW, temperatures in 1/16 °C;
each die's rail voltage, rail current and junction temperatures. -/
structure Sensors where
  inV : Nat := 0
  inI : Nat := 0
  inP : Nat := 0
  auxV : Nat := 0
  auxI : Nat := 0
  hottest : Int := 0
  hotMem : Int := 0
  inlet : Int := 0
  outlet : Int := 0
  dies : List (Nat × Nat × List Int) := []
  hbm : List Int := []
  lpddr : List Int := []
deriving DecidableEq, Repr

/-- What a register write names: a BAR0 offset, or a field group of PCIe configuration space (09/R273). -/
inductive RegTarget where
  | bar0 (off : Nat)
  | command
  | msixControl
  | powerControl
deriving DecidableEq, Repr

/-- The commands: one constructor per row of spec/opcode_table.json, in the table's order. DESIGN CHOICE: log entry 2. -/
inductive Instr where
  -- stations (chapters 03 to 06)
  | delay (core st : Nat) (f : Finding)
  | fence (core st : Nat) (f : Finding)
  | fenceResume (core st : Nat)
  | lstream (core : Nat) (f : Finding)
  | lweight (core : Nat) (f : Finding)
  | ldiag (core : Nat) (f : Finding)
  | mpass (core : Nat) (f : Finding)
  | mdiag (core : Nat) (f : Finding)
  | mdrain (core : Nat) (f : Finding)
  | mfloor (core : Nat) (f : Finding)
  | pset (core : Nat) (f : Finding)
  | ppack (core : Nat) (f : Finding)
  | vloadc (core : Nat) (f : Finding)
  | vstorec (core : Nat) (f : Finding)
  | vrecv (core : Nat) (f : Finding)
  | vsplat (core : Nat) (f : Finding)
  | varith (core : Nat) (f : Finding)
  | vfunc (core : Nat) (f : Finding)
  | vred (core : Nat) (f : Finding)
  | vbcast (core : Nat) (f : Finding)
  | pmove (core : Nat) (f : Finding)
  | pacc (core : Nat) (f : Finding)
  | pgather (core : Nat) (f : Finding)
  | pscatter (core : Nat) (f : Finding)
  | pfabric (core : Nat) (f : Finding)
  | markedTransferComplete (core id : Nat) (f : Finding)
  | swait (core : Nat) (f : Finding)
  | swaitSatisfied (core : Nat)
  | ssignal (core : Nat) (f : Finding)
  | ssignalDrainDone (core : Nat)
  | srepeat (core : Nat) (f : Finding)
  | sphase (core : Nat) (f : Finding)
  | sophint (core : Nat) (f : Finding)
  | markedWaitSatisfied (core st : Nat) (f : Finding)
  | arrayHoldClear (core st : Nat) (f : Finding)
  | activityFrame (core : Nat) (due : List Nat)
  | housekeepingWindow (core : Nat) (f : Finding)
  | launchEdge (slot : Nat)
  | launchComplete (slot : Nat) (extra : List (Nat × Nat × Nat × Nat)) (cut : List Nat)
  -- host commands (chapters 09 to 14)
  | packetFetch (p : List Byte)
  | commandBegin (q : Nat)
  | completionRecordWrite (q : Nat)
  | memWrite (slot crates sectors : Nat) (data : List Byte)
  | memRead (slot crates : Nat) (f : Finding)
  | memCopy (slot crates sectors : Nat) (f : Finding)
  | memFill (slot crates sectors : Nat)
  | memRetag (slot crates : Nat) (f : Finding)
  | sliceMode (slot : Nat)
  | launch (slot : Nat)
  | launchAbort (slot : Nat)
  | tallyNop (slot : Nat)
  | tallyAdd (slot : Nat)
  | tallyRead (slot : Nat)
  | tallyEpoch (slot : Nat)
  | phaseMapLoad (slot : Nat)
  | phaseSwitch (slot : Nat)
  | allReduce (slot : Nat)
  | reduceScatter (slot : Nat)
  | allGather (slot : Nat)
  | broadcast (slot : Nat)
  | collectiveComplete (slot : Nat)
  | stepBegin (slot : Nat)
  | stepReplay (slot : Nat)
  | crossWeigh (slot : Nat)
  | crossWeighOutcome (slot : Nat) (o sb b : List Nat)
  | checkpoint (slot : Nat)
  | checkpointCommit (slot : Nat)
  | vacate (slot : Nat) (served : Bool)
  | takeover (slot : Nat) (handing : Bool)
  | stepConfig (slot : Nat)
  | identify (slot : Nat)
  | telemetryRead (slot : Nat) (x : Sensors)
  | ledgerRead (slot : Nat)
  | fwStage (slot : Nat) (image : List Byte) (fail : Option Nat)
  | fwHandover (slot : Nat)
  | fieldTest (slot : Nat)
  | chTestEnter (slot : Nat)
  | chTestExit (slot : Nat)
  | marginSweep (slot : Nat) (xs : List SweepEntry) (failed : Bool)
  | marginStop (slot : Nat)
  | captureRead (slot : Nat)
  | partCreate (slot : Nat)
  | partDestroy (slot : Nat)
  | ctxCreate (slot : Nat)
  | ctxSet (slot : Nat)
  | ctxDestroy (slot : Nat)
  -- ends of teardown (chapter 10)
  | teardownComplete (ctx : Nat)
  | revokeTimeout (ctx : Nat)
  | quarantineEnd (ctx : Nat)
  -- host registers, doorbells and the PCIe port (chapters 09, 10, 17, 20)
  | sqDoorbell (q : Nat) (v : BitVec 16)
  | cqDoorbell (q : Nat) (v : BitVec 16)
  | qEnable (q : Nat) (v : W64)
  | qDisable (q : Nat) (v : W64)
  | queueDrainDone (q : Nat)
  | resume (q : Nat) (v : W64)
  | queueResumed (q : Nat)
  | hostBackpressure (held : Bool)
  | aperWinEnable (i : Nat) (v : W64)
  | apertureRead (x n : Nat)
  | apertureWrite (x : Nat) (data : List Byte)
  | partEnable (p : Nat) (v : W64)
  | ctxEnable (n : Nat) (v : W64)
  | portEnable (p : Nat) (v : W64)
  | portDisable (p : Nat) (v : W64)
  | grpEnable (g : Nat) (v : W64)
  | grpDisable (g : Nat) (v : W64)
  | grpSubstEnable (i : Nat) (v : W64)
  | stepDirEnable (v : W64)
  | stepDirDisable (v : W64)
  | evtRingEnable (n : Nat) (v : W64)
  | evtRingDisable (n : Nat) (v : W64)
  | evtRingHead (n : Nat) (v : BitVec 16)
  | evtEoi (q : Nat) (own : Bool) (v : W64)
  | pendingClear (v : W64)
  | overflowClear (n : Nat) (v : W64)
  | hubEscReq (v : W64)
  | hangCfgWrite (v : W64)
  | pwrCfgWrite (v : W64)
  | genStart (ch : Nat) (v : W64)
  | genStop (ch : Nat) (v : W64)
  | registerWrite (t : RegTarget) (data : List Byte)
  | regReadRefused (off len : Nat)
  | functionLevelReset
  | perst
  | pcieLinkDown
  | pcieReadError (q : Nat) (slot : Option Nat)
  -- memories, tests and the ledger (chapters 07, 08)
  | dramRefresh (chan : Nat)
  | recalibration (ch : Nat) (late : Bool)
  | patrolScrubStep (ch : Nat) (late passDone : Bool) (f : Finding)
  | memoryLaneRetire (ch lane : Nat) (uncorr : Bool)
  | scrubStarved (core : Nat)
  | fieldTestDue (u : W64) (test : Nat)
  | standingRecovery (u : W64)
  | counterMirror
  | ledgerPageProgram
  | holdupStateChange (state charge : Nat)
  | ledgerFlashFail
  -- fabric and collectives (chapters 11, 12)
  | flitReceive (p : Nat) (corr : Option Nat) (b : List Byte)
  | frameSend (p lane : Nat)
  | put (p : Nat)
  | accPut (p : Nat)
  | getReq (p : Nat)
  | getData (p : Nat)
  | tallyAddFrame (p : Nat)
  | collGrant (p : Nat)
  | collData (p : Nat)
  | void (p : Nat)
  | error (p : Nat)
  | revoke (p : Nat)
  | revokeAck (p : Nat)
  | bind (p : Nat)
  | bindReply (p : Nat)
  | ack (p : Nat)
  | nak (p : Nat)
  | openReq (p : Nat)
  | openAck (p : Nat)
  | bell (p : Nat)
  | time (p rx tx : Nat)
  | discovery (p : Nat)
  | ackTimer (peer ch : Nat)
  | retransmitTimeout (peer ch : Nat)
  | openRetry (peer : Nat)
  | discoverySend (p : Nat)
  | discoveryTimeout (p : Nat)
  | portLinkLost (p : Nat)
  | portTrainingDone (p : Nat) (answered : Bool) (failed lanes : Nat)
  | portTrainingRetry (p : Nat)
  | fabricLaneRetire (p lane : Nat)
  | portBackpressure (p : Nat) (held : Bool)
  | timeExchange (p tx : Nat)
  | collectiveSilence (g a : Nat)
  | bellResend (g : Nat)
  | groupBackpressure (g : Nat) (held : Bool)
  -- vacating (chapters 10, 14)
  | vacateAuto
  | vacateNoTakeover
  | holderTimeout
  -- hangs and escalations (chapter 15)
  | hangEvaluation
  | escalationContext (ctx : Nat)
  | escalationEngine (u : W64) (hit cut lost : List Nat)
  | escalationPartition (part : Nat) (lost : List Nat)
  | escalationChip
  | escalationPowerCycle
  | coreStopTimeout (core : Nat)
  | heartbeatMissed (die proc : Nat)
  | engineNoAnswer (u : W64)
  | escalationOverrun (level target : Nat)
  | stewardWatchdog
  | readyTimeout
  -- reset and boot (chapter 16)
  | powerOn
  | resetNAsserted
  | assertionEnd (held : Bool)
  | fuseSense
  | optionLoading (samples : List Nat)
  | bootRom
  | firmwarePhase (torn : Bool) (routes : List (Nat × W64)) (rings : List W64) (tests : List Retest)
  | phyTraining (chans : List ChanTrain) (ports : List PortTrain)
  | ready
  -- events (chapter 17)
  | eventRecordWrite (n : Nat)
  | interruptTake (q : Nat)
  | pinChange (p : Nat) (level : Bool)
  -- clocks and power (chapter 18)
  | referenceLost
  | pllLockLost (ok : Bool)
  | opTargetChange
  | opSwitch
  | backstopTick (x : BackSample)
  | backstopLimitUpdate
  | droop (die : Nat)
  | thermalResponse (junction : Int) (jIndex : Nat) (mem : Int) (mIndex : Nat)
  | inputOutOfRange
  | inputLoss
  | auxLoss
  -- management (chapter 19)
  | mgmtIdentify (q : Req) (body : List Byte)
  | telemetry (q : Req) (body : List Byte) (x : Sensors)
  | mgmtDiscovery (q : Req) (body : List Byte)
  | setStall (q : Req) (body : List Byte)
  | assignChip (q : Req) (body : List Byte)
  | routeWrite (q : Req) (body : List Byte)
  | reclaim (q : Req) (body : List Byte)
  | reclaimStatus (q : Req) (body : List Byte)
  | vacatedResend
  | mgmtLedgerRead (q : Req) (body : List Byte)
  | totalsRead (q : Req) (body : List Byte)
  | fwChunk (q : Req) (body : List Byte) (fail : Option Nat)
  | fwCommit (q : Req) (body : List Byte) (fail : Option Nat)
  | mgmtFwHandover (q : Req) (body : List Byte)
  | escalate (q : Req) (body : List Byte)
  | limit (q : Req) (body : List Byte)
  | nonce (q : Req) (body : List Byte)
  | nonceLapse
  | keyRevocation (q : Req) (body : List Byte)
  | templateRevocation (q : Req) (body : List Byte)
  | debugRevocation (q : Req) (body : List Byte)
  | securityVersionRaise (q : Req) (body : List Byte)
  | scanUnlock (q : Req) (body : List Byte)
  | rmaEntry (q : Req) (body : List Byte)
  | provision (q : Req) (body : List Byte) (steps : Nat)
  | setAddr (q : Req) (body : List Byte)
  | alertClear (q : Req) (body : List Byte)
  | sidebandStuckSda (freed : Bool)
  | sidebandStuckScl
  | sidebandReconnect
  -- timers and other happenings
  | powerCycleTimeout
  | fieldTestResult (u : W64) (test result dur : Nat) (detail : List Byte)
  | genPassesDone (ch errors : Nat) (lo : W64) (hi : Nat)
  | pcieLinkUp
  | referenceRestored
  | inputBackInRange
  | pllLockTimeout
  | handoverTimeout
  | replayDrainTimeout
  | transferCancelTimeout (core id : Nat) (u : W64)
  | sliceScrubPass (slice : Nat) (f : Finding)
  | mgmtPortLinkChange (port : Nat) (up : Bool)
  | dynamicAddressAssignment
  | managementMessage (source port waiting : Nat) (message : List Byte)
deriving DecidableEq, Repr

end Sys2Proof
end

