-- ==== Sys2Proof/Decode.lean ====
section
/-!
DEFINITION. Reading a command from a word of the opcode table: no row of this table gives its command any bits, so no
word spells a command.
-/
namespace Sys2Proof

/-- The command that a word of `nbits` bits spells: none, for every row's list of fields is empty. DEDUCED: log entry 47.
-/
def decodeTableWord (_nbits _w : Nat) : Option Instr := none

end Sys2Proof
end

