-- ==== Sys2Proof/Config.lean ====
section
/-!
DEFINITION. What the specification leaves open and no rule fixes: one uninterpreted source of free values, and the
factory contents that the module ships with.
-/
namespace Sys2Proof.Config

/-- The free values: the value of the `n`-th draw is not constrained by anything (DESIGN CHOICE, log entry 6). A meaning that
needs an open value applies this constant to `State.freeCtr` and advances that counter. -/
opaque free : Nat → BitVec 256

/-- The firmware image in bank A as shipped, and the vendor key hash as burned (DESIGN CHOICE, log entry 7). -/
opaque factoryImage : List Byte
opaque vendorKey : Nat

end Sys2Proof.Config
end

