-- ==== Sys2Proof/Machine/Crc.lean ====
section
/-!
DEFINITION. The CRC-64 of a crate (08/R243), computed by the register's bit step, and the generator of stochastic
rounding (02/R61).
-/
namespace Sys2Proof.Machine

namespace Crc

/-- The generator polynomial of ECMA-182 (08/R243). -/
def poly : Nat := 0x42F0E1EBA9EA3693

/-- `k` shifts of the register. -/
def shifts : Nat → Nat → Nat
  | 0, c => c
  | k + 1, c =>
    let c' := c * 2
    shifts k (if c' ≥ 2 ^ 64 then Nat.xor (c' - 2 ^ 64) poly else c')

/-- One byte, most significant bit first. -/
def byte (c : Nat) (b : Byte) : Nat := shifts 8 (Nat.xor c (b.toNat * 2 ^ 56))

/-- The register after the bytes of a list. -/
def run (c : Nat) (bs : List Byte) : Nat := bs.foldl byte c

/-- CRC-64 with initial value and final exclusive-or of all ones (08/R243). -/
def crc64 (bs : List Byte) : W64 := BitVec.ofNat 64 (Nat.xor (run (2 ^ 64 - 1) bs) (2 ^ 64 - 1))

/-- The check of a zero payload of 4,096 bytes: the CHECK of the crates of 07/R206. -/
def zeroCheck : W64 := 0xa50f57a429cbcb64#64

end Crc

namespace Rng

/-- The mixing function of 02/R61. -/
def mix (z : W64) : W64 :=
  let z := z ^^^ (z >>> 31)
  let z := z * 0xA36E2F9B5C41D827#64
  let z := z ^^^ (z >>> 27)
  let z := z * 0xD1B54A327E9C60F5#64
  z ^^^ (z >>> 33)

/-- The 24-bit draw of an element (02/R60, R61). -/
def draw (seed step : W64) (layer tile elem : Nat) : Nat :=
  let w := BitVec.ofNat 64 (layer % 2 ^ 16 * 2 ^ 48 + tile % 2 ^ 32 * 2 ^ 16 + elem % 2 ^ 16)
  let h := mix (seed ^^^ 0x5C3AE1D926B8F473#64)
  let h := mix (h ^^^ step)
  let h := mix (h ^^^ w)
  h.toNat % 2 ^ 24

end Rng
end Sys2Proof.Machine
end

