-- ==== Sys2Proof/Machine/Flags.lean ====
section
/-!
DEFINITION. The crate tag of 08/R239-R241: field accessors, the FLAGS bits and lineage words.
-/
namespace Sys2Proof.Machine.Tag

/-- A tag of its fields (08/R239). -/
def mk (check : W64) (fmt zmap flags lineage : Nat) : W128 :=
  BitVec.ofNat 128 (check.toNat + fmt % 2 ^ 8 * 2 ^ 64 + zmap % 2 ^ 8 * 2 ^ 72 + flags % 2 ^ 16 * 2 ^ 80
    + lineage % 2 ^ 32 * 2 ^ 96)

def check (t : W128) : W64 := BitVec.ofNat 64 (t.toNat % 2 ^ 64)
def fmt (t : W128) : Nat := Word.bitsOf t.toNat 71 64
def zmap (t : W128) : Nat := Word.bitsOf t.toNat 79 72
def flags (t : W128) : Nat := Word.bitsOf t.toNat 95 80
def lineage (t : W128) : Nat := Word.bitsOf t.toNat 127 96
/-- FLAGS bits (08/R240). -/
def poisoned (t : W128) : Bool := Word.bitOf t.toNat 87
def audited (t : W128) : Bool := Word.bitOf t.toNat 86
def reweighed (t : W128) : Bool := Word.bitOf t.toNat 85
def zmapValid (t : W128) : Bool := Word.bitOf t.toNat 83

/-- The tag with POISONED set. -/
def poison (t : W128) : W128 := t ||| BitVec.ofNat 128 (2 ^ 87)
/-- The tag with POISONED set when `b`. -/
def poisonIf (b : Bool) (t : W128) : W128 := if b then poison t else t
/-- The tag with AUDITED set. -/
def audit (t : W128) : W128 := t ||| BitVec.ofNat 128 (2 ^ 86)

/-- FLAGS of a packed or computed crate (08/R240): SAT held at 255. -/
def flagsOf (sat : Nat) (poisoned reweighed predicted zmapValid assembled : Bool) : Nat :=
  min sat 255 * 256 + Word.b2n poisoned * 128 + Word.b2n reweighed * 32 + Word.b2n predicted * 16
    + Word.b2n zmapValid * 8 + Word.b2n assembled * 4

/-- Lineage of a core's crate (08/R241). -/
def coreLineage (core seq : Nat) : Nat := core % 2 ^ 10 * 2 ^ 20 + seq % 2 ^ 20
/-- Lineage of a host crate: queue and low 16 bits of the command tag. -/
def hostLineage (q tag : Nat) : Nat := 2 ^ 30 + q % 2 ^ 14 * 2 ^ 16 + tag % 2 ^ 16
/-- Lineage of module firmware. -/
def fwLineage (seq : Nat) : Nat := 2 ^ 31 + seq % 2 ^ 30

/-- The tag of a zero crate (07/R206). DESIGN CHOICE: log entry 4. -/
def zero : W128 := mk Crc.zeroCheck 6 0 0 0

/-- A tag computed over a payload (08/R244). -/
def computed (p : List Byte) (fmt zmap flags lineage : Nat) : W128 := mk (Crc.crc64 p) fmt zmap flags lineage

/-- The 16 bytes of a tag (08/R239). -/
def bytes (t : W128) : List Byte := Word.toLe 16 t.toNat
/-- The tag that 16 bytes spell. -/
def ofBytes (b : List Byte) : W128 := BitVec.ofNat 128 (Word.leNat b)

end Sys2Proof.Machine.Tag
end

