-- ==== Sys2Proof/Machine/Maps.lean ====
section
/-!
DEFINITION. Sparse tables as plain data: lists of (key, value) pairs with strictly rising keys, in which an entry equal
to the table's default is not listed, so that equal tables are equal data.
-/
namespace Sys2Proof.Machine

/-- A sparse table: keys strictly rising, no entry equal to the default of the table. -/
abbrev Tab (α : Type) := List (Nat × α)

/-- The value at a key; `d` where nothing is listed. -/
def tget {α : Type} (d : α) : Tab α → Nat → α
  | [], _ => d
  | (k, v) :: t, i => if i = k then v else tget d t i

/-- Drop the entry of a key. -/
def tdel {α : Type} : Tab α → Nat → Tab α
  | [], _ => []
  | (k, v) :: t, i => if i = k then tdel t i else (k, v) :: tdel t i

/-- Put a value at a key, whatever it is. -/
def tput {α : Type} : Tab α → Nat → α → Tab α
  | [], i, x => [(i, x)]
  | (k, v) :: t, i, x =>
    if i = k then (k, x) :: t else if i < k then (i, x) :: (k, v) :: t else (k, v) :: tput t i x

/-- Set the value at a key; the default is not listed. -/
def tset {α : Type} [DecidableEq α] (d : α) (t : Tab α) (i : Nat) (x : α) : Tab α :=
  if x = d then tdel t i else tput t i x

/-- Apply a function to the value at a key. -/
def tmod {α : Type} [DecidableEq α] (d : α) (t : Tab α) (i : Nat) (f : α → α) : Tab α :=
  tset d t i (f (tget d t i))

/-- The canonical form: keys strictly rising. -/
def tsorted {α : Type} : Tab α → Bool
  | [] => true
  | [_] => true
  | (k, _) :: (k', v) :: t => decide (k < k') && tsorted ((k', v) :: t)

/-- A sorted list of numbers without repeats: insert. -/
def ninsert : List Nat → Nat → List Nat
  | [], i => [i]
  | k :: t, i => if i = k then k :: t else if i < k then i :: k :: t else k :: ninsert t i

/-- Remove a number. -/
def nerase : List Nat → Nat → List Nat
  | [], _ => []
  | k :: t, i => if i = k then t else k :: nerase t i

/-- Replace element `i` of a list. -/
def lset {α : Type} : List α → Nat → α → List α
  | [], _, _ => []
  | _ :: t, 0, x => x :: t
  | h :: t, n + 1, x => h :: lset t n x

end Sys2Proof.Machine
end

