-- ==== Sys2Proof/Machine/Operands.lean ====
section
/-!
DEFINITION. The operand forms: fields of station instructions (05/R129-R150, 06/R163-R183), of command packets
(09/R290, R291) and of completion records (09/R298).
-/
namespace Sys2Proof.Machine

namespace Ins

/-- Bits `hi..lo` of an instruction. -/
def bits (w : W128) (hi lo : Nat) : Nat := Word.bitsOf w.toNat hi lo
def bit (w : W128) (n : Nat) : Bool := Word.bitOf w.toNat n
/-- The variable-time mark (05/R129). -/
def vt (w : W128) : Bool := bit w 127
def op (w : W128) : Nat := bits w 126 120

/-- A wait or signal slot (05/R130): enabled, kind, bin. -/
structure Slot where
  en : Bool
  kind : Bool
  bin : Nat
deriving DecidableEq, Repr

def slotOf (b : Nat) : Slot := { en := Word.bitOf b 7, kind := Word.bitOf b 6, bin := b % 64 }
def waits (w : W128) : List Slot := [slotOf (bits w 119 112), slotOf (bits w 111 104)]
def sigs (w : W128) : List Slot := [slotOf (bits w 103 96), slotOf (bits w 95 88)]

/-- Replace bits `hi..lo`. -/
def setBits (w : W128) (hi lo v : Nat) : W128 :=
  BitVec.ofNat 128 (w.toNat - bits w hi lo * 2 ^ lo + v % 2 ^ (hi + 1 - lo) * 2 ^ lo)

end Ins

/-- A little-endian field of a byte string. -/
def leAt (b : List Byte) (off n : Nat) : Nat := Word.leNat ((b.drop off).take n)

namespace Pkt

/-- Fields of a command packet (09/R290). -/
def opcode (p : List Byte) : Nat := leAt p 0 2
def flags (p : List Byte) : Nat := leAt p 2 2
def ctx (p : List Byte) : Nat := leAt p 4 1
def gen (p : List Byte) : Nat := leAt p 6 2
def tag (p : List Byte) : Nat := leAt p 8 4
def wait (p : List Byte) (i : Nat) : Nat := leAt p (0x10 + 8 * i) 8
def sig (p : List Byte) (i : Nat) : Nat := leAt p (0x20 + 4 * i) 4
def p0 (p : List Byte) : Nat := leAt p 0x28 8
def p1 (p : List Byte) : Nat := leAt p 0x30 8
def p2 (p : List Byte) : Nat := leAt p 0x38 8
/-- FLAGS bits (09/R291). -/
def waitEn (p : List Byte) (i : Nat) : Bool := Word.bitOf (flags p) i
def sigEn (p : List Byte) (i : Nat) : Bool := Word.bitOf (flags p) (2 + i)
def order (p : List Byte) : Bool := Word.bitOf (flags p) 4
/-- Tally and target of a wait; tally and increment of a signal. -/
def waitTally (p : List Byte) (i : Nat) : Nat := Word.bitsOf (wait p i) 63 48
def waitTarget (p : List Byte) (i : Nat) : Nat := Word.bitsOf (wait p i) 47 0
def sigTally (p : List Byte) (i : Nat) : Nat := Word.bitsOf (sig p i) 15 0
def sigInc (p : List Byte) (i : Nat) : Nat := Word.bitsOf (sig p i) 31 16

end Pkt

/-- Bits of a 64-bit register. -/
def rbits (w : W64) (hi lo : Nat) : Nat := Word.bitsOf w.toNat hi lo
def rbit (w : W64) (n : Nat) : Bool := Word.bitOf w.toNat n
/-- Replace bits `hi..lo` of a 64-bit register. -/
def rset (w : W64) (hi lo v : Nat) : W64 :=
  BitVec.ofNat 64 (w.toNat - rbits w hi lo * 2 ^ lo + v % 2 ^ (hi + 1 - lo) * 2 ^ lo)

/-- The UNIT word of 08/R262. -/
def unitW (cls die idx sub : Nat) : W64 :=
  BitVec.ofNat 64 (cls % 256 * 2 ^ 56 + die % 16 * 2 ^ 52 + idx % 4096 * 2 ^ 40 + sub % 2 ^ 40)

end Sys2Proof.Machine
end

