-- ==== Sys2Proof/Machine/StMem.lean ====
section
/-!
DEFINITION. The state of the memories (chapters 07 and 08): the cells of the local address space, tags, open bits,
uncorrectable marks, market-store slices, memory channels and scrub status.
-/
namespace Sys2Proof.Machine

/-- A crate line held by a cache-mode slice (07/R204): its crate number and, while dirty, what the tier still holds. -/
structure CacheLine where
  crate : Nat
  dirty : Bool
  oldBytes : List Byte := []
  oldTag : W128 := 0#128
deriving DecidableEq, Repr

/-- One market-store slice (07/R203, R204, R236). `lines` is kept most recently used first. -/
structure Slice where
  cache : Bool := false
  changing : Bool := false
  lines : List CacheLine := []
deriving DecidableEq, Repr

/-- One memory channel (07/R231-R235). -/
structure Chan where
  state : Nat := 0
  lastTrain : Nat := 0
  sparesUsed : Nat := 0
  sparesLeft : Nat := 0
  recalLate : Bool := false
  corrected : Nat := 0
  uncorrected : Nat := 0
  lastError : W64 := 0#64
  genCtrl : W64 := 0x100#64
  genRange : W64 := 0#64
  genErrors : Nat := 0
  genReason : Nat := 0
  genPasses : Nat := 0
  genRun : Nat := 0
  lanesLo : W64 := 0#64
  lanesHi : Nat := 0
  mReason : Nat := 0
  mLane : Nat := 0
  mLanesDone : Nat := 0
  mRun : Nat := 0
  /-- a MARGIN_STOP came before the sweep ended -/
  mStop : Bool := false
  /-- lanes whose retirement waits for the next recalibration slot (07/R218) -/
  retire : List Nat := []
  /-- lanes retired or replaced, with an uncorrectable error seen (07/R218) -/
  weak : List Nat := []
deriving DecidableEq, Repr

/-- MEM_SCRUB_STATUS of a die (07/R237). -/
structure Scrub where
  sramPasses : Nat := 0
  dramPasses : Nat := 0
  behind : Bool := false
  starved : Bool := false
deriving DecidableEq, Repr

/-- While a step is open: the shard extents (first crate, crates), the first crate of the record's preservation bitmap
and of its preserved area (14/R434, R436, R438). -/
structure Cow where
  extents : List (Nat × Nat)
  bitmap : Nat
  saved : Nat
deriving DecidableEq, Repr

/-- The memories. -/
structure Mem where
  /-- bytes that differ from zero, by local offset, offsets strictly rising -/
  cells : List Host.Cell := []
  /-- tags that differ from the tag of a zero crate, by crate number -/
  tags : Tab W128 := []
  /-- crates whose open bit is set (08/R247) -/
  opened : List Nat := []
  /-- 64-byte sectors or words whose stored code is uncorrectable (07/R200, R211), by offset / 64 -/
  bad : List Nat := []
  slices : Tab Slice := []
  chans : Tab Chan := []
  scrub : Tab Scrub := []
  /-- corrected errors per SRAM macro and row, not yet logged (07/R202) -/
  sramCorrected : Tab Nat := []
  /-- preservation on first write, while a step is open -/
  cow : Option Cow := none
  /-- the next firmware sequence number of origin-2 lineage (08/R241) -/
  fwSeq : Nat := 0
deriving DecidableEq, Repr

/-- The standing and totals of one physical unit (08/R258, R259, R265). -/
structure UnitRec where
  standing : Nat := 0
  fenced : Bool := false
  lastFailBoot : Nat := 0
  corrected : Nat := 0
  uncorrectable : Nat := 0
  weigh : Nat := 0
  checkFail : Nat := 0
  testPass : Nat := 0
  testFail : Nat := 0
  schedBroken : Nat := 0
  lastSeq : Nat := 0
  /-- (time, event reason, place) of the events counted in the sliding windows of 08/R259 -/
  counted : List (Nat × Nat × Nat) := []
  /-- (test, boot) of failed tests (08/R258) -/
  failed : List (Nat × Nat) := []
  /-- consecutive scheduled passes while watched -/
  passes : Nat := 0
  /-- (test, route, time at which it fell due) waiting, route as in 08/R263 -/
  due : List (Nat × Nat × Nat) := []
  /-- (test, route) under way, whose results are still to come -/
  running : List (Nat × Nat) := []
deriving DecidableEq, Repr

/-- One ledger record (08/R261). -/
structure LedgerRec where
  kind : Nat
  reason : Nat
  boot : Nat
  seq : Nat
  time : W64
  unit : W64
  data : List Byte
deriving DecidableEq, Repr

/-- The ledger and its hold-up bank (08/R260-R271). -/
structure Ledger where
  mode : Nat := 0
  records : List LedgerRec := []
  /-- records in the write buffer or in steward memory only -/
  buffered : Nat := 0
  reason : Nat := 0
  torn : Bool := false
  wrapped : Bool := false
  seq : W64 := 0#64
  boot : Nat := 0
  bank : Nat := 0
  faultSeen : Bool := false
  charge : Nat := 0
  units : Tab UnitRec := []
  /-- last mirrored value of each saturating counter (08/R264) -/
  mirrored : Tab Nat := []
  /-- no boot record has been written since power-on -/
  fresh : Bool := true
  /-- since the flash failed: totals and sequence number as the flash holds them (08/R269) -/
  saved : Option (Tab UnitRec × W64) := none
  /-- ticks of the power cycles before this one, for the windows of 08/R254, R258 and R259 (DESIGN CHOICE, log entry 1) -/
  past : Nat := 0
deriving DecidableEq, Repr

end Sys2Proof.Machine
end

