-- ==== Sys2Proof/Machine/MemOps.lean ====
section
/-!
DEFINITION. The address map (07/R195-R199) and the operations over memory bytes, tags, open bits, uncorrectable marks
and cache-mode slices (07/R200-R212, 08/R239-R247). Every access to memory goes through these.
-/
namespace Sys2Proof.Machine

/-- The memory cells hold the canonical form: offsets strictly rising, no zero byte listed. -/
def cellsWf : List Host.Cell → Bool
  | [] => true
  | (_, b) :: [] => b != 0#8
  | (a, b) :: (a', b') :: t => b != 0#8 && decide (a < a') && cellsWf ((a', b') :: t)

/-- Read `n` bytes from `a` on, given cells at or above `a`; an unlisted byte is 0 (DESIGN CHOICE, log entry 4). -/
def readFrom : Nat → Nat → List Host.Cell → List Byte
  | _, 0, _ => []
  | a, n + 1, [] => 0#8 :: readFrom (a + 1) n []
  | a, n + 1, (x, b) :: t => if x = a then b :: readFrom (a + 1) n t else 0#8 :: readFrom (a + 1) n ((x, b) :: t)

/-- The memories hold the canonical form: cells as above, and tags by rising crate number, none of them the tag that an
unlisted crate has. -/
def Memory.wf (m : Mem) : Bool := cellsWf m.cells && tsorted m.tags && m.tags.all (fun e => e.2 != Tag.zero)

/-- The bytes of a range. DESIGN CHOICE: log entry 4. -/
def readBytes (c : List Host.Cell) (a n : Nat) : List Byte := readFrom a n (c.dropWhile (fun x => decide (x.1 < a)))

/-- One byte. -/
def readByte (c : List Host.Cell) (a : Nat) : Byte :=
  match c.find? (fun x => x.1 == a) with | some x => x.2 | none => 0#8

/-- Cells of a byte string at `a`, zero bytes left out. -/
def mkCells : Nat → List Byte → List Host.Cell
  | _, [] => []
  | a, b :: bs => if b = 0#8 then mkCells (a + 1) bs else (a, b) :: mkCells (a + 1) bs

/-- Write a byte string at `a`. -/
def writeBytes (c : List Host.Cell) (a : Nat) (bs : List Byte) : List Host.Cell :=
  c.takeWhile (fun x => decide (x.1 < a)) ++ mkCells a bs ++ c.dropWhile (fun x => decide (x.1 < a + bs.length))

/-- The regions of the local offset space (07/R195). -/
inductive Region where
  | hbm (die : Nat)
  | bulk (die : Nat) (upper : Bool)
  | slice (s : Nat)
  | scratch (core : Nat) (mapped : Bool)
  | reg
  | reserved
deriving DecidableEq, Repr

/-- The region of a local offset. -/
def regionOf (a : Nat) : Region :=
  if a < 0x8000000000 then .hbm (a / 0x1000000000)
  else if a < 0xC000000000 then .bulk ((a - 0x8000000000) / 0x800000000) false
  else if a < 0x10000000000 then .bulk ((a - 0xC000000000) / 0x800000000) true
  else if a < 0x10080000000 then
    .slice ((a - 0x10000000000) / 0x800000)
  else if 0x20000000000 ≤ a && a < 0x20200000000 then
    .scratch ((a - 0x20000000000) / 0x800000) (decide ((a - 0x20000000000) % 0x800000 < 0x600000))
  else if 0x100000000000 ≤ a && a < 0x100004000000 then .reg
  else .reserved

/-- The die a region belongs to. -/
def Region.die : Region → Option Nat
  | .hbm d => some d
  | .bulk d _ => some d
  | .slice s => some (s / 32)
  | .scratch c _ => some (c / 128)
  | .reg => none
  | .reserved => none

/-- A crate of the HBM or bulk tier. -/
def Region.tier : Region → Bool
  | .hbm _ => true
  | .bulk _ _ => true
  | _ => false

/-- First local offset of a scratchpad and of a slice. -/
def scratchBase (core : Nat) : Nat := 0x20000000000 + core * 0x800000
def sliceBase (s : Nat) : Nat := 0x10000000000 + s * 0x800000

/-- Exclusive-or fold of `k` groups of `w` bits (07/R197, R198). -/
def fold (w : Nat) : Nat → Nat → Nat
  | 0, _ => 0
  | k + 1, c => Nat.xor (c % 2 ^ w) (fold w k (c / 2 ^ w))

/-- The module channel of a crate of the HBM or bulk tier (07/R197, R198). -/
def channelOf (a : Nat) : Option Nat :=
  if a < 0x8000000000 then
    some (a / 0x1000000000 * 64 + fold 6 4 (a / 4096 % 2 ^ 24))
  else if a < 0x10000000000 then
    let b := a - 0x8000000000
    some (512 + b / 0x800000000 % 8 * 16 + fold 4 6 (b / 4096 % 2 ^ 23))
  else none

/-- The die that holds a module channel. -/
def channelDie (ch : Nat) : Nat := if ch < 512 then ch / 64 else (ch - 512) / 16

/-- The cache key of a crate (07/R204). -/
def cacheKey (a : Nat) : Nat :=
  if a < 0x8000000000 then a / 4096 % 2 ^ 24
  else
    let b := a - 0x8000000000
    2 ^ 25 + b / 2 ^ 38 * 2 ^ 23 + b / 4096 % 2 ^ 23

/-- The set of a key within its slice. -/
def cacheSet (key : Nat) : Nat := Nat.xor (key % 128) (key / 128 % 128)

/-- The cache-mode slices of a die, ascending. -/
def cacheSlices (m : Mem) (die : Nat) : List Nat :=
  (List.range 32).map (fun i => die * 32 + i) |>.filter (fun s => (tget {} m.slices s).cache)

/-- The cache-mode slice that holds a tier crate, if its die has any. -/
def cacheHome (m : Mem) (crate : Nat) : Option Nat :=
  let a := crate * 4096
  match (regionOf a).tier, (regionOf a).die with
  | true, some d =>
    let ks := cacheSlices m d
    if ks = [] then none else ks[cacheKey a / 128 % ks.length]?
  | _, _ => none

/-- The stored tag of a crate; POISONED is forced by an open bit or an uncorrectable word (08/R247, 07/R200, R211). -/
def crateBad (m : Mem) (crate : Nat) : Bool := m.bad.any (fun x => x / 64 == crate)
def crateTag (m : Mem) (crate : Nat) : W128 :=
  Tag.poisonIf (m.opened.contains crate || crateBad m crate) (tget Tag.zero m.tags crate)
/-- The payload of a crate. -/
def crateBytes (m : Mem) (crate : Nat) : List Byte := readBytes m.cells (crate * 4096) 4096

/-- Use of a line of a cache-mode slice (07/R204): most recently used first; a write of a clean or absent line keeps
what the tier holds; the least recently used of 16 ways leaves. -/
def cacheTouch (m : Mem) (crate : Nat) (write : Bool) : Mem :=
  match cacheHome m crate with
  | none => m
  | some s =>
    let sl := tget {} m.slices s
    let set := cacheSet (cacheKey (crate * 4096))
    let old := sl.lines.find? (fun l => l.crate == crate)
    let rest := sl.lines.filter (fun l => l.crate != crate)
    let same := rest.filter (fun l => cacheSet (cacheKey (l.crate * 4096)) == set)
    let rest := if same.length < 16 then rest else
      match same.getLast? with
      | some v => rest.filter (fun l => l.crate != v.crate)
      | none => rest
    let dirtyNow : CacheLine :=
      { crate, dirty := true, oldBytes := crateBytes m crate, oldTag := tget Tag.zero m.tags crate }
    let line : CacheLine := match old with
      | some l => if l.dirty then l else if write then dirtyNow else l
      | none => if write then dirtyNow else { crate, dirty := false }
    { m with slices := tset {} m.slices s { sl with lines := line :: rest } }

/-- The ordinal of a crate in the shard extents (14/R433). -/
def shardOrdinal : List (Nat × Nat) → Nat → Option Nat
  | [], _ => none
  | (f, n) :: t, c =>
    if f ≤ c ∧ c < f + n then some (c - f) else (shardOrdinal t c).map (· + n)

/-- Write a crate of a record: payload and tag as given, without preservation. -/
def rawCrate (m : Mem) (crate : Nat) (p : List Byte) (t : W128) : Mem :=
  let m := cacheTouch m crate true
  { m with
    cells := writeBytes m.cells (crate * 4096) p
    tags := tset Tag.zero m.tags crate t
    opened := nerase m.opened crate
    bad := m.bad.filter (fun x => x / 64 != crate) }

/-- Write a crate as firmware does: format Untyped, a computed check, ORIGIN 2 (08/R241, R244). DEDUCED: log entry 16. -/
def fwCrate (m : Mem) (crate : Nat) (p : List Byte) : Mem :=
  { rawCrate m crate p (Tag.computed p 6 0 0 (Tag.fwLineage m.fwSeq)) with fwSeq := (m.fwSeq + 1) % 2 ^ 30 }

/-- Bit `r` of a bitmap that begins at a crate. -/
def bitmapBit (m : Mem) (first r : Nat) : Bool :=
  Word.bitOf (readByte m.cells (first * 4096 + r / 8)).toNat (r % 8)

/-- Set bit `r` of a bitmap that begins at a crate. -/
def setBitmapBit (m : Mem) (first r : Nat) : Mem :=
  let k := first + r / 32768
  let p := crateBytes m k
  let i := r % 32768 / 8
  fwCrate m k (lset p i ((p.getD i 0#8) ||| BitVec.ofNat 8 (2 ^ (r % 8))))

/-- Replace bytes of a firmware-written crate. -/
def patchFw (m : Mem) (crate off : Nat) (bs : List Byte) : Mem :=
  let p := crateBytes m crate
  fwCrate m crate (p.take off ++ bs ++ p.drop (off + bs.length))

/-- Before the first write to a shard crate in the open step, its contents and tag are preserved (14/R438). -/
def preserve (m : Mem) (crate : Nat) : Mem :=
  match m.cow with
  | none => m
  | some c =>
    match shardOrdinal c.extents crate with
    | none => m
    | some r =>
      if bitmapBit m c.bitmap r then m
      else
        let m := setBitmapBit (rawCrate m (c.saved + r) (crateBytes m crate) (crateTag m crate)) c.bitmap r
        -- PRESERVED of the record's header, the crate before the bitmap
        patchFw m (c.bitmap - 1) 0x34 (Word.toLe 4 (leAt (crateBytes m (c.bitmap - 1)) 0x34 4 + 1))

/-- Write a whole crate with its tag: fresh data and code, open bit clear (08/R247, 07/R200, R211). -/
def writeCrate (m : Mem) (crate : Nat) (p : List Byte) (t : W128) : Mem :=
  rawCrate (preserve m crate) crate p t

/-- Set a tag alone (08/R245). -/
def setTag (m : Mem) (crate : Nat) (t : W128) : Mem :=
  let m := cacheTouch (preserve m crate) crate true
  { m with tags := tset Tag.zero m.tags crate t }

/-- Write bytes without touching a tag (07/R212, 05/R154): sectors covered whole lose their uncorrectable mark. -/
def patchBytes (m : Mem) (a : Nat) (bs : List Byte) : Mem :=
  let m := cacheTouch (preserve m (a / 4096)) (a / 4096) true
  { m with
    cells := writeBytes m.cells a bs
    bad := m.bad.filter (fun x => !(decide (a ≤ x * 64) && decide (x * 64 + 64 ≤ a + bs.length))) }

/-- A zero payload. -/
def zeroPayload : List Byte := List.replicate 4096 0#8

/-- Zero crates over a range of crates (07/R206): nothing listed, tags back to the zero tag. DEDUCED: log entry 16. -/
def zeroCrates (m : Mem) (first n : Nat) : Mem :=
  { m with
    cells := m.cells.filter (fun x => !(decide (first * 4096 ≤ x.1) && decide (x.1 < (first + n) * 4096)))
    tags := m.tags.filter (fun x => !(decide (first ≤ x.1) && decide (x.1 < first + n)))
    opened := m.opened.filter (fun x => !(decide (first ≤ x) && decide (x < first + n)))
    bad := m.bad.filter (fun x => !(decide (first * 64 ≤ x) && decide (x < (first + n) * 64))) }

/-- Write back and invalidate every cache-mode slice of a die (07/R206): the newest bytes already stand. -/
def flushDie (m : Mem) (die : Nat) : Mem :=
  { m with slices := (List.range 32).foldl (fun t i =>
      tmod {} t (die * 32 + i) (fun sl => { sl with lines := [] })) m.slices }

/-- Restore what the tier holds under one dirty line. -/
def undoLine (m : Mem) (l : CacheLine) : Mem :=
  if l.dirty then
    { m with cells := writeBytes m.cells (l.crate * 4096) l.oldBytes
             tags := tset Tag.zero m.tags l.crate l.oldTag }
  else m

/-- Discard the dirty lines of a die without write-back (07/R207, 10/R329). -/
def discardDie (m : Mem) (die : Nat) : Mem :=
  let lines := (List.range 32).flatMap fun i => (tget {} m.slices (die * 32 + i)).lines
  flushDie (lines.foldl undoLine m) die

/-- The die has a dirty line. -/
def dieDirty (m : Mem) (die : Nat) : Bool :=
  (List.range 32).any fun i => (tget {} m.slices (die * 32 + i)).lines.any (·.dirty)

/-- Mark sectors uncorrectable. -/
def markBad (m : Mem) (sectors : List Nat) : Mem := { m with bad := sectors.foldl ninsert m.bad }

/-- Zero the scratchpads, slices, HBM and bulk regions of a die, as 10/R327 and R329 ask. -/
def zeroScratch (m : Mem) (die : Nat) : Mem := zeroCrates m (scratchBase (die * 128) / 4096) (128 * 2048)
def zeroSlices (m : Mem) (die : Nat) : Mem := zeroCrates m (sliceBase (die * 32) / 4096) (32 * 2048)
def zeroTiers (m : Mem) (die : Nat) : Mem :=
  let m := zeroCrates m (die * 0x1000000) 0x1000000
  let m := zeroCrates m ((0x8000000000 + die * 0x800000000) / 4096) 0x800000
  zeroCrates m ((0xC000000000 + die * 0x800000000) / 4096) 0x800000

end Sys2Proof.Machine
end

