-- ==== Sys2Proof/Machine/Num.lean ====
section
/-!
DEFINITION. FP32 arithmetic in exact integers (02/R43, R49-R53): every operation forms the exact result as an
integer times a power of two and rounds it once, to nearest even.
-/
namespace Sys2Proof.Machine.Num

/-- A decoded number: NaN, an infinity, or the exact value `± m * 2 ^ e` (`m = 0` is a signed zero). -/
inductive FVal where
  | nan
  | inf (neg : Bool)
  | fin (neg : Bool) (m : Nat) (e : Int)
deriving DecidableEq, Repr

/-- The canonical quiet NaN of FP32 (02/R43). -/
def nan32 : F32 := 0x7FC00000#32
/-- Positive zero. -/
def zero32 : F32 := 0#32
/-- 1.0. -/
def one32 : F32 := 0x3F800000#32
/-- The infinity of a sign. -/
def inf32 (neg : Bool) : F32 := if neg then 0xFF800000#32 else 0x7F800000#32

/-- Decode FP32, subnormals included (02/R43). -/
def decode32 (x : F32) : FVal :=
  let v := x.toNat
  let neg := Word.bitOf v 31
  let ex := Word.bitsOf v 30 23
  let fr := Word.bitsOf v 22 0
  if ex == 255 then (if fr == 0 then .inf neg else .nan)
  else if ex == 0 then .fin neg fr (-149)
  else .fin neg (fr + 2 ^ 23) ((ex : Int) - 150)

/-- NaN test. -/
def isNaN (x : F32) : Bool := decide (decode32 x = .nan)
/-- A NaN written becomes the canonical NaN (02/R43). -/
def canon (x : F32) : F32 := if isNaN x then nan32 else x
/-- Zero test, either sign. -/
def isZero (x : F32) : Bool := x == 0#32 || x == 0x80000000#32
/-- Finite test. -/
def isFinite (x : F32) : Bool := Word.bitsOf x.toNat 30 23 != 255

/-- A positive magnitude `m * 2^e` (plus less than `2^e` more when `sticky`) rounded to nearest even in a binary
format of `p` bits of precision whose smallest quantum is `2^qmin`: the integer and the quantum's exponent. -/
def roundTo (p : Nat) (qmin : Int) (m : Nat) (e : Int) (sticky : Bool) : Nat × Int :=
  let q : Int := max ((Nat.log2 m : Int) + e - ((p : Int) - 1)) qmin
  if q ≤ e then (m * 2 ^ (e - q).toNat, q)
  else
    let sh := (q - e).toNat
    let t := m / 2 ^ sh
    let r := m % 2 ^ sh
    let half := 2 ^ (sh - 1)
    let up := r > half || (r == half && (sticky || t % 2 == 1))
    (if up then t + 1 else t, q)

/-- Round `± m * 2^e` to FP32, nearest even; overflow gives the infinity (02/R49, R53). -/
def round32 (neg : Bool) (m : Nat) (e : Int) (sticky : Bool := false) : F32 :=
  let s : Nat := if neg then 2 ^ 31 else 0
  if m = 0 then BitVec.ofNat 32 s
  else
    let (t, q) := roundTo 24 (-149) m e sticky
    let v := (q + 149).toNat * 2 ^ 23 + t
    if v ≥ 0x7F800000 then inf32 neg else BitVec.ofNat 32 (s + v)

/-- Encode a decoded value, rounding to nearest even. -/
def encode32 : FVal → F32
  | .nan => nan32
  | .inf neg => inf32 neg
  | .fin neg m e => round32 neg m e

/-- The signed integer of a finite value over the common exponent `e0 ≤ e`. -/
def toInt (neg : Bool) (m : Nat) (e e0 : Int) : Int :=
  let k : Int := (m : Int) * 2 ^ (e - e0).toNat
  if neg then -k else k

/-- Exact sum of two finite values, rounded once; an exact zero sum is +0 unless both are negative zeros. -/
def addFin (n1 : Bool) (m1 : Nat) (e1 : Int) (n2 : Bool) (m2 : Nat) (e2 : Int) : F32 :=
  let e := min e1 e2
  let s := toInt n1 m1 e1 e + toInt n2 m2 e2 e
  if s = 0 then (if m1 = 0 && m2 = 0 && n1 && n2 then 0x80000000#32 else 0#32)
  else round32 (decide (s < 0)) s.natAbs e

/-- FP32 addition of decoded values. -/
def addV : FVal → FVal → F32
  | .nan, _ => nan32
  | _, .nan => nan32
  | .inf a, .inf b => if a == b then inf32 a else nan32
  | .inf a, .fin .. => inf32 a
  | .fin .., .inf b => inf32 b
  | .fin n1 m1 e1, .fin n2 m2 e2 => addFin n1 m1 e1 n2 m2 e2

/-- The exact product of two decoded values. -/
def mulV : FVal → FVal → FVal
  | .nan, _ => .nan
  | _, .nan => .nan
  | .inf a, .inf b => .inf (a != b)
  | .inf a, .fin b m _ => if m = 0 then .nan else .inf (a != b)
  | .fin a m _, .inf b => if m = 0 then .nan else .inf (a != b)
  | .fin a m e, .fin b m' e' => .fin (a != b) (m * m') (e + e')

/-- FP32 addition, nearest even (02/R51, R53). -/
def add (a b : F32) : F32 := addV (decode32 a) (decode32 b)
/-- Sign flip; a NaN stays the canonical NaN (02/R43). -/
def neg (a : F32) : F32 := if isNaN a then nan32 else a ^^^ 0x80000000#32
/-- Magnitude; a NaN stays the canonical NaN. -/
def abs (a : F32) : F32 := if isNaN a then nan32 else a &&& 0x7FFFFFFF#32
/-- FP32 subtraction. -/
def sub (a b : F32) : F32 := if isNaN b then nan32 else add a (neg b)
/-- FP32 multiplication, nearest even (02/R52). -/
def mul (a b : F32) : F32 := encode32 (mulV (decode32 a) (decode32 b))
/-- Fused multiply-add, one rounding (02/R53). -/
def fma (a b c : F32) : F32 := addV (mulV (decode32 a) (decode32 b)) (decode32 c)

/-- Quotient of finite magnitudes, rounded once. -/
def divFin (neg : Bool) (m1 : Nat) (e1 : Int) (m2 : Nat) (e2 : Int) : F32 :=
  let k := 28 + Nat.log2 m2
  let num := m1 * 2 ^ k
  round32 neg (num / m2) (e1 - e2 - (k : Int)) (num % m2 != 0)

/-- FP32 division, nearest even (02/R57). -/
def div (a b : F32) : F32 :=
  match decode32 a, decode32 b with
  | .nan, _ => nan32
  | _, .nan => nan32
  | .inf _, .inf _ => nan32
  | .inf x, .fin y _ _ => inf32 (x != y)
  | .fin x _ _, .inf y => round32 (x != y) 0 0
  | .fin x m e, .fin y m' e' =>
    if m' = 0 then (if m = 0 then nan32 else inf32 (x != y))
    else if m = 0 then round32 (x != y) 0 0
    else divFin (x != y) m e m' e'

/-- Integer square root, one result bit a step from bit `k` down. -/
def isqrtAux (n : Nat) : Nat → Nat → Nat
  | 0, r => r
  | k + 1, r => let c := r + 2 ^ k; isqrtAux n k (if c * c ≤ n then c else r)

/-- The integer square root. -/
def isqrt (n : Nat) : Nat := isqrtAux n (Nat.log2 n / 2 + 1) 0

/-- Square root of `m * 2^e`, rounded once. -/
def sqrtFin (m : Nat) (e : Int) : F32 :=
  let k : Nat := 64 + (if (e - 64) % 2 = 0 then 0 else 1)
  let n := m * 2 ^ k
  let r := isqrt n
  round32 false r ((e - (k : Int)) / 2) (r * r != n)

/-- FP32 square root. -/
def sqrt (a : F32) : F32 :=
  match decode32 a with
  | .nan => nan32
  | .inf n => if n then nan32 else inf32 false
  | .fin n m e => if m = 0 then a else if n then nan32 else sqrtFin m e

/-- Order of two decoded non-NaN values with -0 below +0, by the sign-and-magnitude bit pattern. -/
def key (a : F32) : Int :=
  let v : Int := Word.bitsOf a.toNat 30 0
  if a.msb then -v - 1 else v

/-- Maximum: the canonical NaN if either is NaN, -0 below +0 (02/R53). -/
def maxF (a b : F32) : F32 :=
  if isNaN a || isNaN b then nan32 else if key a < key b then b else a
/-- Minimum: the canonical NaN if either is NaN, -0 below +0 (02/R53). -/
def minF (a b : F32) : F32 :=
  if isNaN a || isNaN b then nan32 else if key b < key a then b else a

/-- Numeric comparison `a < b` of two non-NaN values (zeros equal). -/
def lt (a b : F32) : Bool :=
  !(isNaN a || isNaN b) && !(isZero a && isZero b) && decide (key a < key b)

/-- FP32 from an unsigned number, nearest even. -/
def ofNat32 (n : Nat) : F32 := round32 false n 0

/-- FP32 to BF16, nearest even (02/R53); NaN gives 0x7FC0 (02/R43). -/
def toBf16 (a : F32) : BitVec 16 :=
  match decode32 a with
  | .nan => 0x7FC0#16
  | .inf n => if n then 0xFF80#16 else 0x7F80#16
  | .fin n m e =>
    let s : Nat := if n then 2 ^ 15 else 0
    if m = 0 then BitVec.ofNat 16 s
    else
      let (t, q) := roundTo 8 (-133) m e false
      let v := (q + 133).toNat * 2 ^ 7 + t
      BitVec.ofNat 16 (s + min v 0x7F80)

/-- BF16 to FP32, exact (02/R43), a NaN becoming the canonical one. -/
def ofBf16 (h : BitVec 16) : F32 :=
  let x : F32 := BitVec.ofNat 32 (h.toNat * 65536)
  if isNaN x then nan32 else x

end Sys2Proof.Machine.Num
end

