-- ==== Sys2Proof/Machine/StCore.lean ====
section
/-!
DEFINITION. The state of one core (chapters 03 to 06): stations, bins, bench, feeder, tiles, registers and in-flight
transfers. Reset values are the field defaults.
-/
namespace Sys2Proof.Machine

/-- What a station is held on (03/R79, R88; 04/R118; 06/R177, R184, R185). -/
inductive Hold where
  | none
  | wait
  | array (code : Nat)
  | fence (scope seq : Nat)
  | tally
  | drain
deriving DecidableEq, Repr

/-- One armed repeat level (06/R186). -/
structure Repeat where
  level : Nat
  start : Nat
  stop : Nat
  count : Nat
  adv : Nat
  done : Nat := 0
deriving DecidableEq, Repr

/-- One station: its instruction store, position, hold and repeats. `prog` counts the units of the instruction at `pc`
that are already done (a marked instruction held part-way). DESIGN CHOICE: log entry 8. -/
structure Station where
  store : List W128 := []
  bad : List Nat := []
  pc : Nat := 0
  hold : Hold := .none
  repeats : List Repeat := []
  prog : Nat := 0
deriving DecidableEq, Repr

/-- A bin: the descriptor of 03/R83 and its two counters (R75). DESIGN CHOICE: log entry 8. -/
structure Bin where
  base : Nat := 0
  stride : Nat := 0
  slotCrates : Nat := 1
  slotCount : Nat := 1
  producer : Nat := 0
  consumer : Nat := 0
  startFull : Bool := false
  fill : Nat := 0
  empty : Nat := 0
deriving DecidableEq, Repr

/-- One entry of the feeder queues for a whole line (04/R102), or a skip entry (05/R141). -/
structure Feed where
  fmt : Nat
  elems : List Nat
  scales : List Nat
  outer : F32
  poison : Bool
  skip : Bool
  reweighed : Bool
deriving DecidableEq, Repr

/-- A weight column: `fmt` 0 is a column that no load wrote (04/R105). -/
structure Col where
  fmt : Nat := 0
  elems : List Nat := []
  scales : List Nat := []
deriving DecidableEq, Repr

/-- A weight tile (04/R105, R107; 05/R143). DESIGN CHOICE: log entry 8. -/
structure Tile where
  cols : Tab Col := []
  outer : F32 := 0x3F800000#32
  level : Nat := 0
  slice : Nat := 0
  loaded : Bool := false
  marked : Bool := false
  poisoned : Bool := false
  reweighed : Bool := false
deriving DecidableEq, Repr

/-- A bench line: 128 entries, σ and the poison bit (04/R99, R107, R111); `ecc` names entries whose code is
uncorrectable (07/R201). -/
structure BenchLine where
  vals : List F32 := List.replicate 128 0#32
  poison : Bool := false
  sigma : Option F32 := none
  ecc : List Nat := []
deriving DecidableEq, Repr

/-- The Packer's latched parameters (05/R149). -/
structure PackParams where
  outer : F32 := 0x3F800000#32
  th : Nat := 0
  layer : Nat := 0
  countBase : Nat := 0
  cbEn : Bool := false
deriving DecidableEq, Repr

/-- A Vector register (05/R155, R159). -/
structure VReg where
  lanes : List F32 := List.replicate 256 0#32
  poison : Bool := false
deriving DecidableEq, Repr

/-- A line on the drain path, or an FP32 line inside the Packer. -/
structure DLine where
  vals : List F32
  poison : Bool
deriving DecidableEq, Repr

/-- A marked Porter transfer in flight (06/R177). `instr` is the instruction word with its repeat advance applied,
`done` the crates moved, `slots` the local slots a fabric transfer reserved, `ops` its fabric operations still open. -/
structure Transfer where
  id : Nat
  instr : W128
  index : Nat
  /-- the launch that issued it, by `Core.load`, and its context -/
  launch : Nat
  ctx : Nat
  gen : Nat
  /-- first far crate, the bin it signals remotely, and the epoch its tally had at the launch edge -/
  far : Nat := 0
  remote : Option (Nat × Nat) := none
  epoch : Nat := 0
  /-- the step open when it was issued (14/R441) -/
  step : Nat := 0
  /-- every local slot and far crate is moved (or its frames are handed over); completion is due -/
  moved : Bool := false
  done : Nat := 0
  slot0 : Nat := 0
  ops : List Nat := []
  failed : Bool := false
deriving DecidableEq, Repr

/-- The fault registers CORE_OP_FAULT and CORE_MOVE_FAULT (05/R162, 06/R193). -/
structure FaultReg where
  valid : Bool := false
  station : Nat := 0
  index : Nat := 0
  reason : Nat := 0
deriving DecidableEq, Repr

/-- The state of one logical core. DESIGN CHOICE: log entry 8. -/
structure Core where
  /-- command-table number of the launch that binds the core, and the order number of that launch or of the last one
  plus 1: its bins stay until another launch binds the core -/
  launch : Option Nat := none
  load : Nat := 0
  /-- CORE_STATE (03/R96) -/
  run : Nat := 0
  faulted : Bool := false
  station : Nat := 0
  reason : Nat := 0
  object : Nat := 255
  /-- CORE_FAULT_CYCLE, CORE_REGION_START (03/R97) -/
  faultCycle : W64 := 0#64
  regionStart : W64 := 0#64
  opFault : FaultReg := {}
  moveFault : FaultReg := {}
  stations : List Station := List.replicate 6 {}
  bins : List Bin := []
  feeder : List Feed := []
  active : Tile := {}
  shadow : Tile := {}
  bench : Tab BenchLine := []
  diag : List F32 := List.replicate 128 0#32
  diagPoison : Bool := false
  /-- the next pass ordinal q (04/R99) -/
  pass : Nat := 0
  /-- CORE_ARRAY_STATUS (04/R126) -/
  activity : Nat := 0
  floor : Nat := 0
  level : Nat := 0
  cond : Nat := 0
  diagMode : Bool := false
  /-- frames without a real operation (04/R113) -/
  quiet : Nat := 0
  dummyCycles : W64 := 0#64
  weighChecks : W64 := 0#64
  weighMismatch : Nat := 0
  weighLast : W64 := 0#64
  drainPack : List DLine := []
  drainVec : List DLine := []
  packIn : List DLine := []
  packCnt : List Nat := [0, 0, 0, 0]
  params : PackParams := {}
  vregs : List VReg := List.replicate 32 {}
  inflight : List Transfer := []
  nextTransfer : Nat := 0
  token : Nat := 0
  hintValid : Bool := false
  hintOp : Nat := 0
  /-- crates written since the launch edge, modulo 2^20 (08/R241) -/
  crateSeq : Nat := 0
  /-- crate numbers whose 0xE0 or 0xE1 was raised in this launch (08/R248) -/
  seen : List Nat := []
  /-- housekeeping windows counted in the launch (07/R220) and words of the scrub pass done (R222) -/
  windows : Nat := 0
  scrubWords : Nat := 0
deriving DecidableEq, Repr

/-- A loaded launch (03/R84-R87). -/
structure Launch where
  ctx : Nat := 0
  gen : Nat := 0
  /-- the logical core of each program core -/
  cores : List Nat := []
  image : Nat := 0
  profile : Nat := 0
  hkPeriod : Nat := 0
  hkLength : Nat := 0
  /-- the launch edge has come -/
  running : Bool := false
  startCycle : W64 := 0#64
  /-- epochs the tallies had at the launch edge -/
  epochs : Tab W64 := []
  /-- market-store slices that unmarked Porter instructions name (06/R173) -/
  slices : List Nat := []
  /-- class and reason of a stop, once stopped -/
  stopped : Option (Nat × Nat) := none
  /-- a backstop bubble was inserted into one of its cores (18/R552) -/
  bubbles : Bool := false
  /-- logical core, station and index of the first fault -/
  first : Option (Nat × Nat × Nat) := none
deriving DecidableEq, Repr

end Sys2Proof.Machine
end

