-- ==== Sys2Proof/Machine/StFab.lean ====
section
/-!
DEFINITION. The state of the fabric and the collectives (chapters 11 and 12).
-/
namespace Sys2Proof.Machine

/-- A relayed frame keeps what its arrival occupied: port, virtual lane and words (11/R362). -/
structure Relay where
  port : Nat
  lane : Nat
deriving DecidableEq, Repr

/-- One fabric port (11/R386-R388). `cfg` holds ENABLE, ASYM and TIME_PARENT. -/
structure Port where
  cfg : W64 := 0#64
  reason : Nat := 0
  state : Nat := 0
  farPort : Nat := 0xFF
  farStall : Nat := 0x1F
  farChip : Nat := 0
  farValid : Bool := false
  miswired : Bool := false
  lanes : Nat := 0
  retired : Nat := 0
  backpressure : Bool := false
  farSerial : W64 := 0#64
  /-- the far end's count of chip-level resets, once discovered -/
  farResets : Option Nat := none
  corrSymbols : Nat := 0
  uncorrCw : Nat := 0
  retransmits : Nat := 0
  routeFaults : Nat := 0
  flitFail : Nat := 0
  /-- the link is trained: DISCOVERY frames pass, and the port is up once one has come -/
  trained : Bool := false
  /-- FSEQ expected; none before the first flit after training -/
  rxSeq : Option Nat := none
  /-- frame boundaries are known -/
  synced : Bool := false
  /-- bytes of the frame that is being received -/
  partialFrame : List Byte := []
  /-- frames addressed to this module, in order of arrival, not yet processed -/
  rx : List Frame := []
  /-- credits held for sending on each virtual lane -/
  credits : List Nat := [1920, 1920, 1920, 1920, 128, 128, 128, 128]
  /-- measured link delay, in 1/65,536 tick, once measured, and when the last request left -/
  delay : Option Int := none
  t1 : Option Nat := none
  /-- a MARGIN_STOP came before the sweep ended -/
  mStop : Bool := false
deriving DecidableEq, Repr

/-- A frame waiting to be sent. `ctx` is the sending context and generation of a sequenced frame of a context. -/
structure Item where
  frame : Frame
  ctx : Option (Nat × Nat) := none
  /-- the operation it belongs to -/
  op : Option Nat := none
  /-- the one port of a link-local frame -/
  port : Option Nat := none
  relay : Option Relay := none
  /-- a frame of the replay buffer that is sent again -/
  resend : Bool := false
deriving DecidableEq, Repr

/-- A sent frame that is not acknowledged: in the replay buffer of the port that sent it (11/R374); `port` 48 is a
frame that no port carried. -/
structure Sent where
  frame : Frame
  ctx : Option (Nat × Nat) := none
  op : Option Nat := none
  port : Nat
  time : Nat
  again : Bool := false
deriving DecidableEq, Repr

/-- One channel of a session: the transmit and the receive half (11/R371-R374). -/
structure SChan where
  next : Nat := 0
  unacked : List Sent := []
  expect : Nat := 0
  /-- frames completed since the last ACK -/
  doneSince : Nat := 0
  /-- (e, time) of the last NAK -/
  nak : Option (Nat × Nat) := none
deriving DecidableEq, Repr

/-- One session entry (11/R367-R370, R391). `rxSid` is the SID of the receive half, when one is held. -/
structure Session where
  peer : Nat
  state : Nat := 0
  retries : Nat := 0
  sid : Nat := 0
  srtt : Nat := 0
  opens : Nat := 0
  rxSid : Option Nat := none
  lastUse : Nat := 0
  chans : List SChan := [{}, {}, {}, {}]
deriving DecidableEq, Repr

/-- The binding of a local context to a peer chip (11/R376): 0 asked, 1 bound, 2 dead. -/
structure Binding where
  ctx : Nat
  gen : Nat
  chip : Nat
  state : Nat := 0
  dctx : Nat := 0
  dgen : Nat := 0
  opid : Nat := 0
deriving DecidableEq, Repr

/-- A peer's context that bound itself to a local one (11/R376). -/
structure Peer where
  chip : Nat
  pctx : Nat
  pgen : Nat
  ctx : Nat
  gen : Nat
deriving DecidableEq, Repr

/-- Whose transfer an operation is: a core's marked transfer, or the step machinery's. -/
inductive Owner where
  | porter (core transfer : Nat)
  /-- a stream to a mirror holder or the checkpoint buddy: step or generation, and what it is -/
  | stream (step : Nat) (what : Nat)
  /-- a read of a takeover: the local crates are given by the operation -/
  | takeover
  | none
deriving DecidableEq, Repr

/-- A transfer in progress on the fabric, keyed by OPID. `step` is the step open when it was issued. -/
structure Op where
  /-- 0 put, 1 get, 2 accumulate put, 3 tally add -/
  dir : Nat
  chip : Nat
  ch : Nat
  ctx : Nat
  gen : Nat
  owner : Owner
  tag : Nat := 0
  queue : Nat := 0
  /-- the launch that issued it, by `Core.load` -/
  launch : Nat := 0
  core : Nat := 0xFFFF
  index : Nat := 0
  step : Nat := 0
  /-- frames not yet acknowledged, and crates of a get not yet delivered -/
  left : Nat := 0
  /-- every frame is handed over -/
  all : Bool := false
  /-- first local crate of a takeover's read, or the crates a get has written -/
  first : Nat := 0
  written : List Nat := []
  /-- first far crate -/
  crate : Nat := 0
deriving DecidableEq, Repr

/-- The clock servo (11/R383, R384, R392). -/
structure TimeSt where
  root : Bool := false
  offset : W32 := 0#32
  rate : BitVec 24 := 0#24
  state : Nat := 0
  /-- the first lock since reset has happened -/
  lockedOnce : Bool := false
deriving DecidableEq, Repr

/-- The fabric. -/
structure Fab where
  chip : Option Nat := none
  stall : Option Nat := none
  routes : Tab W64 := []
  ports : Tab Port := []
  sessions : Tab (Option Session) := []
  binds : List Binding := []
  peers : List Peer := []
  ops : Tab (Option Op) := []
  nextOp : Nat := 0
  /-- frames waiting to be sent, oldest first -/
  sendq : List Item := []
  /-- frames of contexts waiting for a binding -/
  bindq : List Item := []
  /-- frames of sessions not yet open stay in `sendq` until OPEN_ACK -/
  timeSt : TimeSt := {}
  /-- chip-level resets since power-up -/
  resets : Nat := 0
  /-- channels each context has used: (context, generation, chip, channel) -/
  used : List (Nat × Nat × Nat × Nat) := []
deriving DecidableEq, Repr

/-! ### Collectives -/

/-- An axis descriptor (12/R394). -/
structure Axis where
  base : Nat := 0
  count : Nat := 0
  stride : Nat := 0
deriving DecidableEq, Repr

/-- One group entry of a phase map (12/R396, R398): the axes and the map check. -/
structure MapGroup where
  group : Nat
  x : Axis
  y : Axis
  z : Axis
  check : Nat
deriving DecidableEq, Repr

/-- One map slot (12/R397, R426). -/
structure PhaseMap where
  loaded : Bool := false
  active : Bool := false
  ctx : Nat := 0
  gen : Nat := 0
  groups : List MapGroup := []
  reason : Nat := 0
deriving DecidableEq, Repr

/-- One substitution entry (12/R395, R425). -/
structure Subst where
  enable : Bool := false
  reason : Nat := 0
  logical : Nat := 0
  phys : Nat := 0
deriving DecidableEq, Repr

/-- One crate taken in or folded: index, tag and payload. -/
structure CCrate where
  j : Nat
  tag : W128
  payload : List Byte
deriving DecidableEq, Repr

/-- What one sender has contributed to this member in one stage of one chunk (12/R411); stage 4 is this member's own
crates of the chunk. -/
structure Contrib where
  stage : Nat
  chunk : Nat
  ordinal : Nat
  crates : List CCrate := []
  complete : Bool := false
deriving DecidableEq, Repr

/-- A GRANT held (12/R405): its sender, stage and chunk. -/
structure Grant where
  count : Nat
  stage : Nat
  chunk : Nat
  ordinal : Nat
  mapCheck : Nat
  opCheck : Nat
deriving DecidableEq, Repr

/-- The collective in progress (12/R404). `members` are the physical chips by ordinal. -/
structure CollRun where
  slot : Nat
  op : Nat
  red : Nat
  crates : Nat
  root : Nat
  p0 : Nat
  p1 : Nat
  count : Nat
  members : List Nat
  ordinal : Nat
  nx : Nat
  blocks : Nat
  chunkC : Nat
  mapCheck : Nat
  opCheck : Nat
  /-- chunks begun, and contributions sent: (stage, chunk, receiver) -/
  begun : List Nat := []
  sent : List (Nat × Nat × Nat) := []
  contribs : List Contrib := []
  /-- chunks whose results are written -/
  chunksDone : List Nat := []
  /-- a result crate was written poisoned -/
  poisonedOut : Bool := false
deriving DecidableEq, Repr

/-- A bell to send again: count, reason, ordinal and chip of the ringing member, and times still to send. -/
structure BellOut where
  count : Nat
  reason : Nat
  ordinal : Nat
  chip : Nat
  left : Nat
  /-- the other members' physical chips -/
  members : List Nat
deriving DecidableEq, Repr

/-- One collective group (12/R422-R424). `cfg` holds the RW bits of GRP_CFG. -/
structure Group where
  cfg : W64 := 0#64
  gen : Nat := 0
  reason : Nat := 0
  state : Nat := 0
  count : Nat := 0
  lastReason : Nat := 0
  members : Nat := 0
  backpressure : Bool := false
  map : Nat := 0
  chunkC : Nat := 0
  ordinal : Nat := 0
  blocks : Nat := 0
  nx : Nat := 0
  bellValid : Bool := false
  bellChip : Nat := 0
  bellOrdinal : Nat := 0
  bellCount : Nat := 0
  run : Option CollRun := none
  grants : List Grant := []
  /-- a bell pending for the next collective: its reason -/
  pendingBell : Option Nat := none
  bells : List BellOut := []
  /-- physical chips of the last collective's members -/
  lastMembers : List Nat := []
deriving DecidableEq, Repr

end Sys2Proof.Machine
end

