-- ==== Sys2Proof/Machine/StHost.lean ====
section
/-!
DEFINITION. The state of the host port (chapter 09), the fuses, partitions and contexts (chapter 10) and the event
controller (chapter 17).
-/
namespace Sys2Proof.Machine

/-- One queue (09/R286, R287). `cfg` holds the RW bits of Q_CFG. -/
structure Queue where
  base : W64 := 0#64
  cfg : W64 := 0#64
  head : Nat := 0
  tail : Nat := 0
  reason : Nat := 0
  phase : Bool := false
  state : Nat := 0
  /-- the vector was signalled since the last HEAD doorbell (09/R300) -/
  signalled : Bool := false
  /-- reasons of the pending fabric failures (11/R379), oldest first -/
  fails : List Nat := []
  /-- command-table order number of the command whose failure moved the queue to error (09/R307) -/
  failAt : Nat := 0
deriving DecidableEq, Repr

/-- One command-table entry (09/R302). -/
structure Cmd where
  slot : Nat
  /-- order of entry, over all queues -/
  ord : Nat
  queue : Nat
  /-- the 64 bytes of the packet -/
  packet : List Byte
  /-- epochs of the wait and signal tallies when the packet entered -/
  epochs : List Nat := []
  /-- 0 waiting, 1 begun, 2 ended: its record is due -/
  phase : Nat := 0
  cls : Nat := 0
  reason : Nat := 0
  detail16 : Nat := 0
  detail32 : Nat := 0
  result : W64 := 0#64
  time : W64 := 0#64
  /-- progress of a command that ends in a row of its own; of a memory command, the crates done -/
  aux : Nat := 0
  /-- poisoned crates of a memory command so far -/
  found : Nat := 0
  /-- what the memory controller has gathered of the next crate of a memory command (08/R247) -/
  gather : List Byte := []
deriving DecidableEq, Repr

/-- The PCIe port (09/R273-R281). -/
structure Pcie where
  busMaster : Bool := false
  linkUp : Bool := false
  d3hot : Bool := false
  /-- MSI-X table entries: address, data, control by vector; pending bits -/
  msixEn : Bool := false
  msixMask : Bool := false
  msixAddr : Tab W64 := []
  msixData : Tab Nat := []
  msixCtrl : Tab Nat := []
  msixPending : List Nat := []
  aperWin : Tab W64 := []
  aperReason : Nat := 0
  aperWindow : Nat := 0
  aperOffset : Nat := 0
  /-- HUB_REG_ERR (20/R599) -/
  regErr : W64 := 0#64
deriving DecidableEq, Repr

/-- The fuse array as burned (10/R312). DESIGN CHOICE: log entry 5. -/
structure Fuses where
  serial : W64 := 0#64
  grade : Nat := 0x46
  /-- class of each site of each die: die * 136 + site, 1 spare, 2 disabled; unlisted active -/
  siteClass : Tab Nat := []
  /-- factory repairs: (die, index, site) -/
  repairs : List (Nat × Nat × Nat) := []
  vendorKey : Nat := 0
  lifecycle : Nat := 0
  keys : List Nat := [0, 0, 0, 0]
  keyRevoked : Nat := 0
  templates : Nat := 0
  templRevoked : Nat := 0
  t6 : Nat := 0
  t7 : Nat := 0
  debug : Nat := 0
  debugRevoked : Nat := 0
  svn : Nat := 0
  imageCheck : Nat := 0
deriving DecidableEq, Repr

/-- The fuse registers as latched at fuse sense (10/R318, R319), the nonce and the SCAN unlock. -/
structure FuseState where
  sensed : Bool := false
  f : Fuses := {}
  prov : Nat := 0
  nonce : Option (BitVec 128) := none
  scan : Bool := false
deriving DecidableEq, Repr

/-- One partition (10/R327-R331). -/
structure Part where
  enable : Bool := false
  dies : List Nat := []
  inst : Nat := 0
  templ : Nat := 0
  reason : Nat := 0
  state : Nat := 0
  /-- lifecycle state in which it was created (10/R328) -/
  life : Nat := 0
  keyA : BitVec 256 := 0#256
  keyB : BitVec 256 := 0#256
deriving DecidableEq, Repr

/-- One context (10/R332-R343). -/
structure Ctx where
  enable : Bool := false
  part : Nat := 0
  training : Bool := false
  state : Nat := 0
  gen : Nat := 0
  reason : Nat := 0
  tallyCount : Nat := 0
  tallyFirst : Nat := 0
  seed : W64 := 0#64
  budget : Nat := 2
  minLevel : Nat := 0
  cancelled : Nat := 0
  stale : Nat := 0
  /-- revokes not yet acknowledged: peer chip and identifier -/
  peers : List (Nat × Nat) := []
  /-- fabric frames accepted for the context (15/R466) -/
  accepted : Nat := 0
  /-- command-table slot of the CTX_DESTROY or VACATE that waits for the teardown -/
  destroyCmd : Option Nat := none
deriving DecidableEq, Repr

/-- One external event pin (17/R518-R520, R534). -/
structure Pin where
  cfg : W64 := 0x080000000000012C#64
  level : Bool := true
  pending : Bool := false
  edges : Nat := 0
deriving DecidableEq, Repr

/-- The priority stack of a processor (17/R526, R527, R536). -/
structure Proc where
  stack : Nat := 0
  asserted : Bool := false
  eoiErr : Bool := false
  /-- priorities of records written since the interrupt was last taken -/
  fresh : List Nat := []
deriving DecidableEq, Repr

/-- An event on its way to one ring (17/R521, R522). -/
structure Event where
  kind : Nat
  reason : Nat
  ctx : Nat := 255
  gen : Nat := 0
  prio : Nat
  standing : Bool := false
  unit : W64 := 0#64
  time : W64
  body : List Byte
deriving DecidableEq, Repr

/-- One event ring (17/R523-R531, R538, R539). `cfg` holds the RW bits of EVT_RING_CFG. -/
structure Ring where
  base : W64 := 0#64
  cfg : W64 := 0#64
  gen : Nat := 0
  reason : Nat := 0
  head : Nat := 0
  tail : Nat := 0
  nextSeq : Nat := 0
  armed : Bool := false
  overflow : Bool := false
  count : W64 := 0#64
  lost : Nat := 0
  /-- events pending for the ring, oldest first; at most eight of them form the holding queue while it is blocked -/
  pend : List Event := []
  /-- events raised after a loss, which wait for the Overflow record (17/R530) -/
  later : List Event := []
  /-- events lost since the last Overflow record, with the first and last times -/
  lostNow : Nat := 0
  lostFirst : W64 := 0#64
  lostLast : W64 := 0#64
  /-- records of rings 0 to 8, which lie in hub and die SRAM -/
  records : List (List Byte) := []
deriving DecidableEq, Repr

/-- The event controller. -/
structure Events where
  pins : List Pin := [{ cfg := 0x080200000000012C#64 }, {}, {}, { cfg := 0x080200000000012C#64 }, {}, {}, {}, {}]
  procs : Tab Proc := []
  rings : Tab Ring := []
  /-- EVT_ROUTE by reason; reset 0x8800_0000_0000_0000 (17/R537) -/
  routes : Tab W64 := []
deriving DecidableEq, Repr

end Sys2Proof.Machine
end

