-- ==== Sys2Proof/Machine/StStep.lean ====
section
/-!
DEFINITION. The state of the step machinery (chapter 14): the directory, the kept records, the mirrors held for clients
and the checkpoint.
-/
namespace Sys2Proof.Machine

/-- The step directory as checked at its enable (14/R433). -/
structure StepDir where
  shard : Nat := 0
  inputs : Nat := 0
  digests : Nat := 0
  records : List Nat := []
  mirror : List Nat := []
  pending : List Nat := []
  ckpt : Nat := 0
  /-- first crate, crates and MOMENTS of each extent -/
  extents : List (Nat × Nat × Bool) := []
deriving DecidableEq, Repr

/-- One kept record (14/R436): what its header holds, and what the module knows of its delta. -/
structure StepRec where
  slot : Nat
  step : Nat
  state : Nat := 1
  fault : Nat := 0
  seed : W64 := 0#64
  beginT : W64 := 0#64
  endT : W64 := 0#64
  inputDigest : W64 := 0#64
  digests : Nat := 0
  /-- mirror holders, 0 at s XOR 1 and 1 at s XOR 2, that have acknowledged the delta, and those it was resent to -/
  acked : List Nat := []
  resent : List Nat := []
deriving DecidableEq, Repr

/-- The mirror held for client k (14/R444, R461). `pend` lists (step, validated stream bytes' crates) by pending slot. -/
structure MirrorIn where
  valid : Bool := false
  client : Nat := 0
  state : Nat := 0
  mstep : W64 := 0#64
  /-- validated pending deltas: (step, pending slot) -/
  pend : List (Nat × Nat) := []
deriving DecidableEq, Repr

/-- The checkpoint (14/R454, R455, R462). `changed` are the shard ordinals changed since the committed generation. -/
structure Ckpt where
  gen : Nat := 0
  reason : Nat := 0
  trigger : Nat := 0
  state : Nat := 0
  changed : List Nat := []
  /-- generation 1 and every later one up to a first commit carries the whole shard -/
  carried : List Nat := []
  cmd : Option Nat := none
deriving DecidableEq, Repr

/-- A cross-weigh in progress (08/R251): its command, step, layer and subject stall. -/
structure CrossWeigh where
  cmd : Nat
  step : Nat
  layer : Nat
  subject : Nat
deriving DecidableEq, Repr

/-- A takeover in progress (14/R451): its command, the stall, which mirror is the source (0 at s XOR 1, 1 at s XOR 2,
2 the vacating stall itself), and whether the reads are asked for. -/
structure Takeover where
  cmd : Nat
  stall : Nat
  source : Nat
  asked : Bool := false
deriving DecidableEq, Repr

/-- A vacate in progress (10/R345, R346, 14/R458): its command; phase 1 completing the step, 2 waiting for the deltas'
acknowledgements, 3 offered, 4 serving, 5 tearing down; whether the step was abandoned. -/
structure Vacate where
  cmd : Option Nat
  phase : Nat
  abandoned : Bool := false
deriving DecidableEq, Repr

/-- The step machinery (14/R459-R462). `dirReg` holds ENABLE and BASE of HUB_STEP_DIR; `d` is the seal deadline less 1;
`act` is ACTIVITY. -/
structure StepSt where
  dirReg : W64 := 0#64
  dirReason : Nat := 0
  dir : StepDir := {}
  cur : Nat := 0
  sealedStep : Nat := 0
  reason : Nat := 0
  ackTally : Nat := 0
  stateStep : Nat := 0
  d : Nat := 0
  mirror2 : Bool := false
  narrow : Bool := false
  act : Nat := 0
  recs : List StepRec := []
  mirrors : List MirrorIn := [{}, {}]
  ckpt : Ckpt := {}
  /-- a replay in progress: its command, its step, and whether it is past the quiesce -/
  replay : Option (Nat × Nat × Bool) := none
  takeover : Option Takeover := none
  /-- a takeover's read failed -/
  takeFail : Option Nat := none
  /-- a takeover was made since reset -/
  took : Bool := false
  weigh : Option CrossWeigh := none
  vacate : Option Vacate := none
  /-- duration of the previous step, in ticks -/
  prevDur : Nat := 0
  /-- a synchronisation is owed to the holders -/
  syncOwed : Bool := false
  /-- the reclaim notice: its identifier and time (10/R345) -/
  notice : Option (W64 × Nat) := none
deriving DecidableEq, Repr

end Sys2Proof.Machine
end

