-- ==== Sys2Proof/Machine/StSys.lean ====
section
/-!
DEFINITION. The state of reset and boot (chapter 16), clocks and power (chapter 18), the hang detector and the
escalations (chapter 15) and the management path (chapter 19).
-/
namespace Sys2Proof.Machine

/-- Whose FW_HANDOVER is under way: a host command's slot, or a management request. -/
inductive HandBy where
  | host (slot : Nat)
  | mgmt (r : Req)
deriving DecidableEq, Repr

/-- Reset, options and boot (16/R492-R516). `arrived` is HUB_RST_CAUSE.PHASE. The banks hold the complement of each programmed byte, so that an erased bank lists nothing. -/
structure Boot where
  phase : Nat := 0
  cause : Nat := 0xC0
  level : Nat := 5
  held : Bool := false
  arrived : Nat := 0xF
  captured : Bool := false
  slot : Nat := 0
  romReason : Nat := 0
  restarts : Nat := 0
  fallback : Bool := false
  bank : Nat := 0
  tries : Nat := 0
  raw : Nat := 0
  code : Nat := 0
  unstable : Bool := false
  denied : Bool := false
  template : Nat := 0
  single : Bool := false
  bankB : Bool := false
  laneRev : Bool := false
  /-- the phase that follows the assertion phase -/
  from_ : Nat := 1
  /-- the 3.3 V auxiliary supply is out of range; the thermal trip; PWRCYC_REQ_N is driven low -/
  off : Bool := false
  tripped : Bool := false
  pwrCyc : Bool := false
  /-- the last reset followed loss of the 48 V input (18/R558) -/
  inputLost : Bool := false
  /-- times of the level-4 resets (15/R475), and when the assertion phase of the last one ended -/
  level4 : List Nat := []
  ended4 : Option Nat := none
  /-- the boot flash (16/R503) -/
  dir0 : List Byte := List.replicate 64 0xFF#8
  dir1 : List Byte := List.replicate 64 0xFF#8
  bankA : List Host.Cell := []
  bankBB : List Host.Cell := []
  /-- the running image, HUB_FW_STATUS and the staging (16/R509, R510, R516) -/
  svn : Nat := 0
  fwReason : Nat := 0
  staged : Bool := false
  handover : Nat := 0
  handBy : Option HandBy := none
  /-- a management FW_CHUNK has begun a staging that is not committed (19/R576) -/
  chunking : Bool := false
deriving DecidableEq, Repr

/-- One entry of the backstop log (18/R562). -/
structure BackEntry where
  seq : Nat
  start : W64
  stop : W64 := 0#64
  cycles : Nat := 0
  /-- it has been named as a hold point -/
  told : Bool := false
deriving DecidableEq, Repr

/-- One power sample of a phase token (18/R553): time, core-rail and other power in mW, point. -/
structure TokenPower where
  token : Nat
  time : Nat
  core : Nat
  rest : Nat
  op : Nat
deriving DecidableEq, Repr

/-- Clocks and power (chapter 18). Powers are in mW, currents in mA and temperatures in 1/16 °C. DESIGN CHOICE: log entry
9. -/
structure Pwr where
  cfg : W64 := 0x001E12C000140030#64
  reason : Nat := 0
  operCap : Nat := 4800
  operLimit : Nat := 0
  power : Nat := 0
  bubbles : Nat := 0
  /-- the count has been 4 or more since, and when firmware last moved the backstop limit -/
  slowSince : Option Nat := none
  slowAt : Nat := 0
  backLimit : Nat := 0
  history : List TokenPower := []
  log : List BackEntry := []
  backCycles : W64 := 0#64
  engagements : Nat := 0
  droop : Nat := 0
  dieDroop : Tab Nat := []
  energy : Nat := 0
  paused : Bool := false
  /-- the active point, and a step under way to `standbyOp` -/
  op : Nat := 3
  stepping : Bool := false
  retried : Bool := false
  standbyOp : Nat := 0
  active : Nat := 0
  lockA : Bool := false
  lockB : Bool := false
  refOk : Bool := false
  holdover : Bool := false
  switches : Nat := 0
  /-- time-base ticks at each point (18/R561) -/
  ticks : Tab Nat := []
  /-- thermal management (18/R556): limit, cap in W, the margin event, and the times its periods run from -/
  thermLimit : Nat := 0
  thermCap : Nat := 4800
  margin : Bool := false
  slowedAt : Nat := 0
  cappedAt : Nat := 0
  coolSince : Option Nat := none
  relaxedAt : Nat := 0
  raisedAt : Nat := 0
  trips : Nat := 0
  leakHeld : Bool := false
  leakClear : Option Nat := none
  coolantHeld : Bool := false
  /-- the 48 V input is out of range (18/R558) -/
  inputLow : Bool := false
  hottest : Int := 0
  hotMem : Int := 0
deriving DecidableEq, Repr

/-- A member of a hung set (15/R463): 0 a submission queue, 1 a launch, 2 a communication queue; its number; the order
number of the command that waits. -/
structure Waiter where
  kind : Nat
  num : Nat
  ord : Nat
  ctx : Nat
deriving DecidableEq, Repr

/-- A waiter that has been in a hung set of its context since a time; `mark` changes with a progress event. -/
structure HungSince where
  who : Waiter
  since : Nat
  mark : List Nat
deriving DecidableEq, Repr

/-- An escalation in progress (15/R474): level, context, partition or unit, generation, cause. -/
structure Esc where
  level : Nat
  target : Nat
  gen : Nat := 0
  cause : Nat
  /-- its target is being cleared -/
  run : Bool := false
deriving DecidableEq, Repr

/-- The hang detector, the captures and the escalations (chapter 15). DESIGN CHOICE: log entry 9. -/
structure Hang where
  cfg : W64 := 0x84000000000000C8#64
  reason : Nat := 0
  count : Nat := 0
  ctx : Nat := 0
  gen : Nat := 0
  members : Nat := 0
  slot : Nat := 0
  valid : Bool := false
  time : W64 := 0#64
  since : List HungSince := []
  /-- members of sets already declared that have not left the waiting state -/
  told : List Waiter := []
  target : W64 := 0#64
  escLevel : Nat := 0
  escSlot : Nat := 0
  escCause : Nat := 0
  escReason : Nat := 0
  escCount : Nat := 0
  escs : List Esc := []
  /-- capture memory (15/R470), and the captures since power-up -/
  capMem : List Host.Cell := []
  capSeq : Nat := 0
deriving DecidableEq, Repr

/-- A response that is held for a repeated request (19/R571). -/
structure Held where
  source : Nat
  ident : Nat
  time : Nat
  bytes : List Byte
deriving DecidableEq, Repr

/-- The management path (chapter 19). Source 0 is the sideband, another an IPv4 address times 65,536 plus a port. DESIGN
CHOICE: log entry 9. -/
structure Mgmt where
  addr : W64 := 0#64
  gw : Nat := 0
  dropped : Nat := 0
  isolated : Bool := false
  /-- a dynamic address is assigned -/
  addressed : Bool := false
  port0 : Nat := 0
  port1 : Nat := 0
  alert : Nat := 0
  reclaim : Nat := 0
  noticeTime : Nat := 0
  reclaimId : W64 := 0#64
  reclaimSrc : Nat := 0
  vacLeft : Nat := 0
  held : List Held := []
  /-- when the nonce was drawn -/
  nonceAt : Nat := 0
deriving DecidableEq, Repr

end Sys2Proof.Machine
end

