-- ==== Sys2Proof/Machine/State.lean ====
section
/-!
DEFINITION. The state of the module.
-/
namespace Sys2Proof.Machine

/-- What leaves the module and lies in no state of it: MSI-X messages, frames on the wire, read data, management responses
and line levels. DESIGN CHOICE: log entry 3. -/
inductive Out where
  | msix (vector : Nat)
  | pcieRead (data : List Byte)
  | frame (port : Nat) (f : Frame)
  /-- credits returned to the far end of a port for a virtual lane (11/R357) -/
  | credits (port lane words : Nat)
  /-- the credits of the frames that a discarded flit touched are returned (11/R357) -/
  | discarded (port : Nat)
  /-- a management message to a source, by the port of its request or, unsolicited, by both (19/R569, R570) -/
  | mgmt (source : Nat) (port : Option Nat) (message : List Byte)
deriving DecidableEq, Repr

/-- Why the machine would stop with a fault: no command of this hardware does. -/
inductive Fault where
  | none
deriving DecidableEq, Repr

/-- Why a command has no meaning. -/
inductive Refusal where
  | notModelled (mnemonic : String)
deriving DecidableEq, Repr

/-- One die's core map entry (01/R32) -/
structure MapEntry where
  avail : Bool := false
  source : Nat := 0
  site : Nat := 0
  repairs : Nat := 0
deriving DecidableEq, Repr

/-- The state. DESIGN CHOICE: log entry 9. -/
structure State where
  pending : List Instr := []
  out : List Out := []
  hostMem : List Host.Cell := []
  time : W64 := 0#64
  arrayCycles : W64 := 0#64
  freeCtr : Nat := 0
  pcie : Pcie := {}
  fuses : Fuses := {}
  fuse : FuseState := {}
  queues : Tab Queue := []
  cmds : List Cmd := []
  cmdOrd : Nat := 0
  highWater : Nat := 0
  backpressure : Bool := false
  rrQueue : Nat := 0
  rrLeft : Nat := 0
  launches : Tab Launch := []
  cores : Tab Core := []
  coreMap : Tab MapEntry := []
  /-- the physical control processor in use, 0 or 1, by die; die 8 is the steward (01/R27, R33) -/
  cpActive : Tab Nat := []
  mem : Mem := {}
  ledger : Ledger := {}
  tallies : Tab W64 := []
  parts : Tab Part := []
  ctxs : Tab Ctx := []
  events : Events := {}
  stepSt : StepSt := {}
  fab : Fab := {}
  groups : Tab Group := []
  maps : Tab PhaseMap := []
  substs : Tab Subst := []
  boot : Boot := {}
  pwr : Pwr := {}
  hang : Hang := {}
  mgmt : Mgmt := {}
deriving DecidableEq, Repr

/-- The spare sites of an F part (03/R94): the eighth position-16 site of each column, by die. DESIGN CHOICE: log entry 5.
-/
def factorySites : Tab Nat := (List.range 64).map (fun i => (i / 8 * 136 + i % 8 * 17 + 16, 1))

/-- The cells of an erased flash bank programmed from its start: the complement of each byte that is not 0xFF. DESIGN
CHOICE: log entry 7. -/
def flashCells : Nat → List Byte → List Host.Cell
  | _, [] => []
  | a, b :: t => if b = 0xFF#8 then flashCells (a + 1) t else (a, ~~~b) :: flashCells (a + 1) t

/-- The machine at power-on: the assertion phase of a power-on reset (16/R491, R492) of a module as it shipped, with
factory fuses of an F part and the factory image in bank A (log entries 5 and 7). Bank B and both directory copies are
erased. -/
def State.reset : State :=
  { fuses := { siteClass := factorySites, vendorKey := Config.vendorKey }
    boot := { bankA := flashCells 0 Config.factoryImage } }

end Sys2Proof.Machine
end

