-- ==== Sys2Proof/Machine/Ops.lean ====
section
/-!
DEFINITION. The named operations every meaning is written with: free values, outputs, events (chapter 17), ledger
records (chapter 08), tallies (chapter 10), cores, grades and access checks.
-/
namespace Sys2Proof.Machine

/-- A step's answer: the next state. -/
abbrev Res := Host.Outcome State Fault Refusal

/-- The next free value, 256 bits wide, and the state that has used it (DESIGN CHOICE, log entry 6). -/
def drawFree (s : State) : BitVec 256 × State := (Config.free s.freeCtr, { s with freeCtr := s.freeCtr + 1 })

/-- Something leaves the module. DESIGN CHOICE: log entry 3. -/
def emit (s : State) (o : Out) : State := { s with out := s.out ++ [o] }

/-- Write bytes into host memory (09/R300); discarded while the PCIe link is down (09/R276). DESIGN CHOICE: log entry 3.
-/
def hostWrite (s : State) (a : Nat) (bs : List Byte) : State :=
  if s.pcie.linkUp then { s with hostMem := writeBytes s.hostMem a bs } else s

/-- The vector is enabled in the MSI-X table: its entry is written and not masked (09/R273). PRESUMED: log entry 37. -/
def msixEnabled (s : State) (v : Nat) : Bool := s.pcie.msixEn && !Word.bitOf (tget 1 s.pcie.msixCtrl v) 0

/-- Signal an MSI-X vector; a masked vector becomes pending (09/R273). -/
def signalMsix (s : State) (v : Nat) : State :=
  if msixEnabled s v && !s.pcie.msixMask && s.pcie.linkUp then emit s (.msix v)
  else { s with pcie := { s.pcie with msixPending := ninsert s.pcie.msixPending v } }

/-- The host's accesses to BAR0, BAR2 and BAR4 act: the module is ready, its link is up and it is in D0 (09/R273, R276,
16/R499). -/
def hostOpen (s : State) : Bool := s.boot.phase == 6 && s.pcie.linkUp && !s.pcie.d3hot

/-- The effect of an access that the host makes. -/
def fromHost (s t : State) : Res := .next (if hostOpen s then t else s)

/-! ### Objects -/

def getCore (s : State) (c : Nat) : Core := tget {} s.cores c
def setCore (s : State) (c : Nat) (x : Core) : State := { s with cores := tset {} s.cores c x }
def modCore (s : State) (c : Nat) (f : Core → Core) : State := setCore s c (f (getCore s c))
def getCtx (s : State) (c : Nat) : Ctx := tget {} s.ctxs c
def setCtx (s : State) (c : Nat) (x : Ctx) : State := { s with ctxs := tset {} s.ctxs c x }
def modCtx (s : State) (c : Nat) (f : Ctx → Ctx) : State := setCtx s c (f (getCtx s c))
def getPart (s : State) (p : Nat) : Part := tget {} s.parts p
def setPart (s : State) (p : Nat) (x : Part) : State := { s with parts := tset {} s.parts p x }
def modPart (s : State) (p : Nat) (f : Part → Part) : State := setPart s p (f (getPart s p))
def getQueue (s : State) (q : Nat) : Queue := tget {} s.queues q
def setQueue (s : State) (q : Nat) (x : Queue) : State := { s with queues := tset {} s.queues q x }
def modQueue (s : State) (q : Nat) (f : Queue → Queue) : State := setQueue s q (f (getQueue s q))
def getLaunch (s : State) (l : Nat) : Launch := tget {} s.launches l
def setLaunch (s : State) (l : Nat) (x : Launch) : State := { s with launches := tset {} s.launches l x }
def modLaunch (s : State) (l : Nat) (f : Launch → Launch) : State := setLaunch s l (f (getLaunch s l))
def setMem (s : State) (m : Mem) : State := { s with mem := m }
def modMem (s : State) (f : Mem → Mem) : State := { s with mem := f s.mem }
def getChan (s : State) (c : Nat) : Chan := tget {} s.mem.chans c
def modChan (s : State) (c : Nat) (f : Chan → Chan) : State :=
  { s with mem := { s.mem with chans := tmod {} s.mem.chans c f } }
def getRing (s : State) (n : Nat) : Ring := tget {} s.events.rings n
def modRing (s : State) (n : Nat) (f : Ring → Ring) : State :=
  { s with events := { s.events with rings := tmod {} s.events.rings n f } }

/-- Saturating addition of a `w`-bit counter. -/
def satAdd (w n k : Nat) : Nat := min (n + k) (2 ^ w - 1)

/-! ### Grade and repair map (00/R3-R6, 01/R27-R33, 03/R94) -/

/-- Active cores per die of a grade (00/R3). -/
def activeCores (s : State) : Nat :=
  if s.fuse.f.grade = 0x46 then 128 else if s.fuse.f.grade = 0x47 then 120 else 112
/-- The grade leaves the upper bulk half unpopulated (00/R6). -/
def gradeH (s : State) : Bool := s.fuse.f.grade == 0x48

/-- The core map entry of a logical core (01/R32). -/
def mapEntry (s : State) (core : Nat) : MapEntry := tget {} s.coreMap core
/-- The logical core is available (01/R30, R32). -/
def coreAvail (s : State) (core : Nat) : Bool := (mapEntry s core).avail
/-- The UNIT of the site that a logical core is bound to (08/R262). -/
def coreUnit (s : State) (core : Nat) : W64 := unitW 1 (core / 128) (mapEntry s core).site 0

/-- The UNIT of the store that holds a local offset: slice, channel or core site (08/R262). -/
def holderUnit (s : State) (a : Nat) : W64 :=
  match regionOf a with
  | .scratch c _ => coreUnit s c
  | .slice x => unitW 7 (x / 32) (x % 32) 0
  | _ => match channelOf a with
    | some ch => unitW 5 (channelDie ch) (if ch < 512 then ch % 64 else 64 + (ch - 512) % 16) 0
    | none => 0#64

/-! ### Events (17/R517-R530) -/

def ringEnabled (r : Ring) : Bool := rbit r.cfg 63
def ringSize (r : Ring) : Nat := 2 ^ rbits r.cfg 59 56
def ringFull (r : Ring) : Bool := (r.tail + 1) % ringSize r == r.head

/-- A ring whose writes cannot proceed (17/R530): full, or a host ring without link or bus mastering. -/
def ringBlocked (s : State) (n : Nat) : Bool :=
  ringFull (getRing s n) || (n ≥ 9 && !(s.pcie.linkUp && s.pcie.busMaster))

/-- Count an event as lost (17/R530). -/
def ringLose (r : Ring) (t : W64) : Ring :=
  { r with lost := satAdd 32 r.lost 1, overflow := true, lostNow := r.lostNow + 1
           lostFirst := if r.lostNow = 0 then t else r.lostFirst, lostLast := t }

/-- The pending event that the holding queue would give up: lowest priority, the latest raised of these. -/
def lowestPrio (es : List Event) : Nat := es.foldl (fun m e => min m e.prio) 15
/-- Remove the last event of priority `p`. -/
def dropLastPrio (p : Nat) (es : List Event) : List Event :=
  let rec go : List Event → List Event
    | [] => []
    | e :: t => if e.prio = p then t else e :: go t
  (go es.reverse).reverse

/-- Put an event before a ring: kept pending, held while the ring is blocked, or lost (17/R530). -/
def ringPush (blocked : Bool) (r : Ring) (e : Event) : Ring :=
  if !ringEnabled r then ringLose r e.time
  else if blocked then
    if r.pend.length < 8 then { r with pend := r.pend ++ [e] }
    else if lowestPrio r.pend < e.prio then
      ringLose { r with pend := dropLastPrio (lowestPrio r.pend) r.pend ++ [e] } e.time
    else ringLose r e.time
  else if r.lostNow = 0 then { r with pend := r.pend ++ [e] }
  else { r with later := r.later ++ [e] }

def getProc (s : State) (q : Nat) : Proc := tget {} s.events.procs q
def modProc (s : State) (q : Nat) (f : Proc → Proc) : State :=
  { s with events := { s.events with procs := tmod {} s.events.procs q f } }

/-- The running priority of a processor is below `p` (17/R526). -/
def Proc.below (x : Proc) (p : Nat) : Bool := decide (x.stack < 2 ^ p)

/-- An event waits in the controller: its ring is blocked, or its processor's priority is not below its own. -/
def eventHeld (s : State) (n : Nat) (e : Event) : Bool :=
  ringBlocked s n || (decide (n < 9) && !(getProc s n).below e.prio)

/-- Deliver an event to ring `n`. -/
def deliver (s : State) (n : Nat) (e : Event) : State := modRing s n (fun r => ringPush (eventHeld s n e) r e)

/-- The host ring of a context and generation: the enabled ring bound to it, else ring 9 (17/R524). -/
def hostRing (s : State) (ctx gen : Nat) : Nat :=
  match (List.range 54).find? (fun i =>
      let r := getRing s (10 + i)
      ringEnabled r && rbit r.cfg 62 && rbits r.cfg 55 48 == ctx && r.gen == gen) with
  | some i => 10 + i
  | none => 9

/-- EVT_ROUTE of a reason (17/R537). -/
def routeOf (s : State) (reason : Nat) : W64 := tget 0x8800000000000000#64 s.events.routes reason

/-- The context and generation belong to the training context (08/R252, 14/R435). -/
def isTraining (s : State) (ctx gen : Nat) : Bool :=
  let c := getCtx s ctx
  c.training && (c.state == 2 || c.state == 3) && c.gen == gen

/-- The header crate of a record slot. -/
def recordHeader (s : State) (slot : Nat) : Nat := s.stepSt.dir.records.getD slot 0 / 4096

/-- Charge an error to step `n`: the first sets FAULT, and every later kept step is marked (14/R440). -/
def chargeStep (s : State) (n reason : Nat) : State :=
  let hit (r : StepRec) : Bool := decide (n ≤ r.step) && r.fault == 0 && (r.state == 1 || r.state == 2)
  let m := (s.stepSt.recs.filter hit).foldl (fun m r => patchFw m (recordHeader s r.slot) 7 [BitVec.ofNat 8 reason]) s.mem
  { s with mem := m
           stepSt := { s.stepSt with recs := s.stepSt.recs.map (fun r => if hit r then { r with fault := reason } else r) } }

/-- An error of the training context charged to the step now open. -/
def chargeNow (s : State) (ctx gen reason : Nat) : State :=
  if isTraining s ctx gen then chargeStep s s.stepSt.cur reason else s

/-- Integrity events of a context are charged to its step, but for the ledger codes and 0xE7 (14/R440). -/
def chargesStep (reason : Nat) : Bool :=
  decide (0xE0 ≤ reason) && !(decide (0xF6 ≤ reason) && decide (reason ≤ 0xFB)) && reason != 0xE7

/-- Raise an event by the route of its reason (17/R524): the steward's ring, the die's ring, the host's. -/
def raiseEvent (s : State) (e : Event) (die : Option Nat) : State :=
  let s := if chargesStep e.reason then chargeNow s e.ctx e.gen e.reason else s
  let r := routeOf s e.reason
  let s := if rbit r 52 then deliver s 0 { e with prio := rbits r 51 48 } else s
  let s := match die with
    | some d => if rbit r 44 then deliver s (1 + d) { e with prio := rbits r 43 40 } else s
    | none => s
  if rbit r 63 then deliver s (hostRing s e.ctx e.gen) { e with prio := rbits r 59 56 } else s

/-- A context and generation of an event; none is (0xFF, 0) (17/R521). -/
abbrev CtxGen := Nat × Nat
def noCtx : CtxGen := (255, 0)

/-- Kind 0x01 (17/R522). -/
def raiseUnit (s : State) (reason : Nat) (cg : CtxGen) (unit : W64) (arg : Nat) (die : Option Nat := none)
    (standing : Bool := false) : State :=
  raiseEvent s { kind := 1, reason, ctx := cg.1, gen := cg.2, prio := 0, standing, unit, time := s.time
                 body := Word.toLe 8 s.time.toNat ++ Word.toLe 8 unit.toNat ++ Word.toLe 8 arg } die

/-- Kind 0x03: a crate or sector (17/R522). -/
def raiseCrate (s : State) (reason : Nat) (cg : CtxGen) (offset lineage core chip : Nat) : State :=
  raiseEvent s { kind := 3, reason, ctx := cg.1, gen := cg.2, prio := 0, time := s.time, unit := holderUnit s offset
                 body := Word.toLe 8 s.time.toNat ++ Word.toLe 8 offset ++ Word.toLe 4 lineage ++ Word.toLe 2 core
                   ++ Word.toLe 2 chip } (regionOf offset).die

/-- Kind 0x04: a core (17/R522). -/
def raiseCore (s : State) (reason : Nat) (cg : CtxGen) (core st idx detail : Nat) : State :=
  raiseEvent s { kind := 4, reason, ctx := cg.1, gen := cg.2, prio := 0, time := s.time, unit := coreUnit s core
                 body := Word.toLe 8 s.time.toNat ++ Word.toLe 2 core ++ Word.toLe 1 st ++ Word.toLe 1 0
                   ++ Word.toLe 2 idx ++ Word.toLe 2 0 ++ Word.toLe 8 detail } (some (core / 128))

/-- Kind 0x05: a collective (17/R522). -/
def raiseColl (s : State) (reason : Nat) (cg : CtxGen) (grp ordinal chip count : Nat) : State :=
  raiseEvent s { kind := 5, reason, ctx := cg.1, gen := cg.2, prio := 0, time := s.time, unit := 0#64
                 body := Word.toLe 8 s.time.toNat ++ Word.toLe 2 grp ++ Word.toLe 2 ordinal ++ Word.toLe 2 chip
                   ++ Word.toLe 2 0 ++ Word.toLe 4 count ++ Word.toLe 4 0 } none

/-- Kind 0x08: a step (17/R522). -/
def raiseStep (s : State) (reason : Nat) (cg : CtxGen) (step : W64) (arg : Nat) : State :=
  raiseEvent s { kind := 8, reason, ctx := cg.1, gen := cg.2, prio := 0, time := s.time, unit := 0#64
                 body := Word.toLe 8 s.time.toNat ++ Word.toLe 8 step.toNat ++ Word.toLe 8 arg } none

/-- Kind 0x07: an operator notice, always to the host at priority 15 (17/R524). -/
def raiseNotice (s : State) (cg : CtxGen) (notice ident : Nat) : State :=
  deliver s (hostRing s cg.1 cg.2)
    { kind := 7, reason := 0, ctx := cg.1, gen := cg.2, prio := 15, time := s.time
      body := Word.toLe 8 s.time.toNat ++ Word.toLe 1 notice ++ Word.toLe 7 0 ++ Word.toLe 8 ident }

/-! ### The ledger (08/R261-R266) -/

def getUnit (s : State) (u : W64) : UnitRec := tget {} s.ledger.units u.toNat
def modUnit (s : State) (u : W64) (f : UnitRec → UnitRec) : State :=
  { s with ledger := { s.ledger with units := tmod {} s.ledger.units u.toNat f } }

/-- The ring region of a record kind and its size in records (08/R260); repairs never wrap. -/
def ledgerRegion (kind : Nat) : Nat :=
  if kind = 0x31 ∨ kind = 0x32 then 0 else if kind = 0x20 ∨ kind = 0x21 then 2 else if kind = 1 ∨ kind = 2 then 3 else 1
def regionSize (r : Nat) : Nat := if r = 1 then 25165824 else if r = 2 then 4194304 else 1048576

/-- Drop the oldest record of a region. -/
def dropOldest (r : Nat) : List LedgerRec → List LedgerRec
  | [] => []
  | x :: t => if ledgerRegion x.kind = r then t else x :: dropOldest r t

/-- The region of a kind is full, so its next record overwrites the oldest. -/
def regionFull (kind : Nat) (xs : List LedgerRec) : Bool :=
  let r := ledgerRegion kind
  r != 0 && decide (regionSize r ≤ (xs.filter (fun x => ledgerRegion x.kind == r)).length)

/-- Append a record (08/R261): buffered in mode 1, programmed in mode 2, kept in steward memory in mode 3; nothing is
recorded before the ledger is mounted. -/
def logRec (s : State) (kind reason : Nat) (unit : W64) (data : List Byte) : State :=
  let l := s.ledger
  if l.mode = 0 then s
  else
    let r : LedgerRec := { kind, reason, boot := l.boot, seq := l.seq.toNat, time := s.time, unit, data }
    let l := { l with
      records := (if regionFull kind l.records then dropOldest (ledgerRegion kind) l.records else l.records) ++ [r]
      seq := l.seq + 1#64
      buffered := if l.mode = 2 then l.buffered else l.buffered + 1
      wrapped := l.wrapped || (ledgerRegion kind == 1 && regionFull kind l.records) }
    modUnit { s with ledger := l } unit (fun u => { u with lastSeq := r.seq })

/-- 28 data bytes of a ledger record from the bytes of offsets 0x20 on. -/
def ldata (bs : List Byte) : List Byte := (bs ++ List.replicate 28 0#8).take 28

/-- The die of a UNIT, if it is a compute die. -/
def unitDie (u : W64) : Option Nat := if rbits u 55 52 < 8 then some (rbits u 55 52) else none

/-- Commit a change of standing before it takes effect, and raise 0xF8 or 0xF9 (08/R258, R266). -/
def setStanding (s : State) (u : W64) (new : Nat) (fenced : Bool) : State :=
  let r := getUnit s u
  let s := logRec s 0x30 0 u (ldata ([BitVec.ofNat 8 r.standing, BitVec.ofNat 8 new, BitVec.ofNat 8 (Word.b2n fenced)]
    ++ List.replicate 5 0#8 ++ Word.toLe 8 r.lastSeq))
  let s := modUnit s u (fun x => { x with standing := new, fenced, passes := if x.standing = new then x.passes else 0 })
  if r.standing = new then s
  else if new = 1 then raiseUnit s 0xF8 noCtx u 0 (unitDie u)
  else if new = 2 then raiseUnit s 0xF9 noCtx u 0 (unitDie u)
  else s

/-- Ticks the module has been powered, over all its power cycles: the time base counts from 0 at power-on (20/R598). -/
def poweredTicks (s : State) : Nat := s.ledger.past + s.time.toNat

/-- A test falls due on a unit by a route, once (08/R254). DEDUCED: log entry 48. -/
def addDue (s : State) (u : W64) (test route : Nat) : State :=
  modUnit s u (fun r => if r.due.any (fun d => d.1 == test) then r else { r with due := r.due ++ [(test, route, poweredTicks s)] })

/-- Watch count, retire count and window (in ticks of 10 ns) of an event of a unit class (08/R259). -/
def eventBudget (cls reason : Nat) : Option (Nat × Nat × Nat) :=
  let day := 8640000000000
  match cls, reason with
  | 1, 0xEE => some (1, 4, 7 * day)
  | 1, 0xE0 => some (2, 8, day)
  | 1, 0x49 => some (1, 3, 30 * day)
  | 2, _ => some (1, 2, 30 * day)
  | 3, _ => some (1, 2, 30 * day)
  | 5, 0x48 => some (1, 4, day)
  | _, _ => none

/-- Count an event against a unit, places counted once, and judge its budget (08/R258, R259); a channel that retires
goes out of service. -/
def countEvent (s : State) (u : W64) (reason place : Nat) : State :=
  let now := poweredTicks s
  let r := getUnit s u
  let cls := rbits u 63 56
  let seen := r.counted.any (fun c => c.2.1 == reason && c.2.2 == place) && (reason == 0x48 || reason == 0x49)
  let s := if seen then s else modUnit s u (fun r => { r with counted := r.counted ++ [(now, reason, place)] })
  match eventBudget cls reason with
  | none => s
  | some (watch, retire, window) =>
    let n := ((getUnit s u).counted.filter (fun c => c.2.1 == reason && decide (now < c.1 + window))).length
    if retire ≤ n && r.standing == 1 then
      let s := setStanding s u 2 r.fenced
      if cls = 5 then
        let i := rbits u 51 40
        let ch := if i < 64 then rbits u 55 52 * 64 + i else 512 + rbits u 55 52 * 16 + (i - 64)
        logRec (modChan s ch (fun c => { c with state := 4 })) 0x11 0x4D u (ldata [])
      else s
    else if watch ≤ n && r.standing == 0 then setStanding s u 1 r.fenced
    else s

/-! ### Tallies (02/R63, 10/R336-R338) -/

def tallyVal (s : State) (t : Nat) : Nat := (tget 0#64 s.tallies t).toNat % 2 ^ 48
def tallyEpochOf (s : State) (t : Nat) : Nat := (tget 0#64 s.tallies t).toNat / 2 ^ 48

/-- A tally word of epoch and value. -/
def tallyW (epoch val : Nat) : W64 := BitVec.ofNat 64 (epoch % 2 ^ 16 * 2 ^ 48 + val % 2 ^ 48)

/-- Add to a tally in its current epoch, holding at all ones (02/R63). -/
def addTally (s : State) (t inc : Nat) : State :=
  { s with tallies := tset 0#64 s.tallies t (tallyW (tallyEpochOf s t) (satAdd 48 (tallyVal s t) inc)) }

/-- Add with the epoch the issuer saw: an old epoch is discarded and counted (10/R337). -/
def addTallyAt (s : State) (ctx t inc epoch : Nat) : State :=
  if tallyEpochOf s t = epoch then addTally s t inc
  else modCtx s ctx (fun c => { c with stale := satAdd 32 c.stale 1 })

/-- The tally belongs to the context (10/R338). -/
def tallyOk (s : State) (ctx t : Nat) : Bool :=
  let c := getCtx s ctx
  decide (c.tallyFirst ≤ t) && decide (t ≤ c.tallyFirst + c.tallyCount)

/-! ### Access checks (07/R196) -/

/-- The paths that access memory, by the regions they allow. -/
inductive Path where
  /-- FAR_KIND 0 of the Porter and aperture windows: HBM, bulk, market store -/
  | tiers
  /-- host memory commands and fabric frames: also scratchpads -/
  | all
  /-- program images: HBM and bulk -/
  | image
deriving DecidableEq, Repr

def Path.allows : Path → Region → Bool
  | .tiers, .hbm _ => true
  | .tiers, .bulk _ _ => true
  | .tiers, .slice _ => true
  | .all, .hbm _ => true
  | .all, .bulk _ _ => true
  | .all, .slice _ => true
  | .all, .scratch _ _ => true
  | .image, .hbm _ => true
  | .image, .bulk _ _ => true
  | _, _ => false

/-- The reason with which R196 refuses an access to the crate of a local offset; `none` when it is allowed. -/
def refuse (s : State) (path : Path) (part : Nat) (a : Nat) : Option Nat :=
  let r := regionOf a
  let dies := (getPart s part).dies
  if r = .reserved then some 0x43
  else if !path.allows r then some 0x44
  else match r.die with
  | none => some 0x44
  | some d =>
    if !dies.contains d then some 0x46
    else match r with
    | .bulk _ true => if gradeH s then some 0x42 else chk
    | .scratch c m => if !coreAvail s c then some 0x41 else if !m then some 0x40 else none
    | .slice x => if (tget {} s.mem.slices x).cache then some 0x45 else none
    | _ => chk
where
  /-- the crate's channel is out of service or in test state -/
  chk : Option Nat :=
    match channelOf a with
    | some ch => let st := (getChan s ch).state; if st = 3 ∨ st = 4 then some 0x47 else none
    | none => none

/-- The first refusal over a range of crates. -/
def refuseRange (s : State) (path : Path) (part first n : Nat) : Option Nat :=
  (List.range n).findSome? (fun i => refuse s path part ((first + i) * 4096))

/-! ### Reading and writing crates with their checks (08/R244-R248) -/

/-- Event 0x48 or 0x49 for every uncorrectable word or sector of a crate that is read (07/R200, R211), counted in the
channel's error registers. -/
def reportBadIf (s : State) (cg : CtxGen) (crate core : Nat) (p : Nat → Bool) : State :=
  (s.mem.bad.filter (fun x => x / 64 == crate && p x)).foldl (fun s x =>
    let a := x * 64
    match channelOf a with
    | some ch =>
      let s := modChan s ch (fun c => { c with uncorrected := satAdd 32 c.uncorrected 1
                                               lastError := BitVec.ofNat 64 (3 * 2 ^ 62 + x * 64) })
      let s := raiseCrate s 0x48 cg a (Tag.lineage (crateTag s.mem crate)) core 0xFFFF
      countEvent (modUnit (logRec s 0x11 0x48 (holderUnit s a) (ldata (Word.toLe 8 a))) (holderUnit s a)
        (fun u => { u with uncorrectable := satAdd 32 u.uncorrectable 1 })) (holderUnit s a) 0x48 x
    | none =>
      let s := raiseCrate s 0x49 cg a (Tag.lineage (crateTag s.mem crate)) core 0xFFFF
      countEvent (modUnit (logRec s 0x11 0x49 (holderUnit s a) (ldata (Word.toLe 8 a))) (holderUnit s a)
        (fun u => { u with uncorrectable := satAdd 32 u.uncorrectable 1 })) (holderUnit s a) 0x49 x) s

def reportBad (s : State) (cg : CtxGen) (crate core : Nat) : State := reportBadIf s cg crate core (fun _ => true)

/-- A check failure is counted against the writer its lineage names and the store that held the crate (08/R259). -/
def countCheckFail (s : State) (a lineage : Nat) (chip : Nat) (reason : Nat) : State :=
  let bump (s : State) (u : W64) : State :=
    countEvent (modUnit s u (fun r => { r with checkFail := satAdd 32 r.checkFail 1 })) u 0xE0 0
  let s := logRec s 0x13 reason (holderUnit s a)
    (ldata (Word.toLe 8 a ++ Word.toLe 4 lineage ++ Word.toLe 2 chip))
  let s := bump s (holderUnit s a)
  if lineage / 2 ^ 30 = 0 then bump s (coreUnit s (lineage / 2 ^ 20 % 2 ^ 10)) else s

/-- Read a crate whole for a move (06/R180): the payload, and the tag with POISONED set when its check fails. -/
def moveRead (s : State) (cg : CtxGen) (core crate : Nat) : State × List Byte × W128 :=
  let t := crateTag s.mem crate
  let p := crateBytes s.mem crate
  let s := reportBad s cg crate core
  let s := setMem s (cacheTouch s.mem crate false)
  if Tag.poisoned t || Tag.check t == Crc.crc64 p then (s, p, t)
  else
    let s := raiseCrate s 0xE0 cg (crate * 4096) (Tag.lineage t) core 0xFFFF
    (countCheckFail s (crate * 4096) (Tag.lineage t) 0xFFFF 0xE0, p, Tag.poison t)

/-- Read a crate as a consumer (08/R244, R248): payload, tag, and whether the values are poisoned. At most one event
for each crate address in each launch of the core. -/
def consume (s : State) (cg : CtxGen) (core crate : Nat) : State × List Byte × W128 × Bool :=
  let t := crateTag s.mem crate
  let p := crateBytes s.mem crate
  let s := reportBad s cg crate core
  let s := setMem s (cacheTouch s.mem crate false)
  let seen := (getCore s core).seen.contains crate
  let mark (s : State) : State := modCore s core (fun c => { c with seen := ninsert c.seen crate })
  if Tag.poisoned t then
    (if seen then s else
      mark (logRec (raiseCrate s 0xE1 cg (crate * 4096) (Tag.lineage t) core 0xFFFF) 0x13 0xE1
        (holderUnit s (crate * 4096)) (ldata (Word.toLe 8 (crate * 4096) ++ Word.toLe 4 (Tag.lineage t)
          ++ Word.toLe 2 0xFFFF))), p, t, true)
  else if Tag.check t == Crc.crc64 p then (s, p, t, false)
  else
    (if seen then s else
      mark (countCheckFail (raiseCrate s 0xE0 cg (crate * 4096) (Tag.lineage t) core 0xFFFF)
        (crate * 4096) (Tag.lineage t) 0xFFFF 0xE0), p, t, true)

/-- Write a crate. -/
def putCrate (s : State) (crate : Nat) (p : List Byte) (t : W128) : State := setMem s (writeCrate s.mem crate p t)

/-- Move one crate (06/R180). -/
def moveCrate (s : State) (cg : CtxGen) (core src dst : Nat) : State :=
  let (s, p, t) := moveRead s cg core src
  putCrate s dst p t

/-- Lane-wise FP32 sum of two payloads, the first the far operand (06/R169). -/
def addPayload (far loc : List Byte) : List Byte :=
  (List.range 1024).flatMap fun i =>
    Word.toLe 4 (Num.add (BitVec.ofNat 32 (leAt far (4 * i) 4)) (BitVec.ofNat 32 (leAt loc (4 * i) 4))).toNat

/-- Take the next crate number of a core's lineage (08/R241). -/
def coreLineageNext (s : State) (core : Nat) : State × Nat :=
  let n := (getCore s core).crateSeq
  (modCore s core (fun c => { c with crateSeq := (c.crateSeq + 1) % 2 ^ 20 }), Tag.coreLineage core n)

end Sys2Proof.Machine
end

