-- ==== Sys2Proof/Machine/Stations.lean ====
section
/-!
DEFINITION. What every station instruction shares (chapters 03 and 05): fetching it from the station's store, its
waits and signals on bins, the schedule-broken fault and the station fault with their stops, repeats and the end of a
stream. The per-instruction meanings are the bodies that `issue` runs.
-/
namespace Sys2Proof.Machine

/-- How the body of an instruction ends. -/
inductive Run where
  /-- complete, its signals take effect -/
  | done (s : State)
  /-- complete at issue, its signals take effect later (a marked Porter transfer) -/
  | issued (s : State)
  /-- held (a marked instruction) -/
  | hold (h : Hold) (s : State)
  /-- a schedule-broken fault with its object, or with its array condition for 0xED -/
  | broken (reason object : Nat) (s : State)
  /-- a station fault -/
  | fault (reason : Nat) (s : State)
  /-- not due: nothing happens -/
  | notDue

/-! ### Bins (03/R75-R80) -/

def Bin.occ (b : Bin) : Nat := (2 ^ 32 + b.fill - b.empty) % 2 ^ 32
def getBin (c : Core) (b : Nat) : Bin := c.bins.getD b {}
def modBin (c : Core) (b : Nat) (f : Bin → Bin) : Core := { c with bins := lset c.bins b (f (getBin c b)) }
/-- The slot the producer writes and the slot the consumer reads (03/R76). -/
def Bin.fillSlot (b : Bin) : Nat := b.fill % b.slotCount
def Bin.emptySlot (b : Bin) : Nat := b.empty % b.slotCount
/-- A wait for data, a wait for space (03/R76). -/
def Bin.dataOk (b : Bin) : Bool := decide (1 ≤ b.occ)
def Bin.spaceOk (b : Bin) : Bool := decide (b.occ < b.slotCount)
/-- Local crate number of crate `i` of slot `slot` on a core. -/
def slotCrate (core : Nat) (b : Bin) (slot i : Nat) : Nat :=
  (scratchBase core + b.base + slot * (if b.slotCount = 1 then 0 else b.stride)) / 4096 + i

/-- A post (03/R76, R78): `none` is the bin fault 0xEB. -/
def post (c : Core) (b : Nat) : Option Core :=
  let x := getBin c b
  if x.occ = x.slotCount ∨ x.producer = 7 then none
  else some (modBin c b (fun x => { x with fill := (x.fill + 1) % 2 ^ 32 }))
/-- A release (03/R76, R78): `none` is the bin fault 0xEC. -/
def release (c : Core) (b : Nat) : Option Core :=
  let x := getBin c b
  if x.occ = 0 then none else some (modBin c b (fun x => { x with empty := (x.empty + 1) % 2 ^ 32 }))

/-! ### Stops and faults (03/R91-R93, 05/R160, R161) -/

/-- The context of the launch that binds a core. -/
def coreCtx (s : State) (core : Nat) : CtxGen :=
  match (getCore s core).launch with
  | some l => ((getLaunch s l).ctx, (getLaunch s l).gen)
  | none => noCtx

/-- Stop the stations of a core that has not stopped by fault (03/R92). -/
def idleCore (c : Core) : Core :=
  { c with run := if c.run = 3 then 3 else 0, stations := c.stations.map (fun st => { st with hold := .none }) }

/-- Stop every core of a launch (03/R92). DEDUCED: log entry 17. -/
def stopLaunch (s : State) (l cls reason : Nat) : State :=
  let s := modLaunch s l (fun x => { x with stopped := match x.stopped with | some y => some y | none => some (cls, reason) })
  (getLaunch s l).cores.foldl (fun s c =>
    modCore s c (fun x => if x.launch = some l then idleCore x else x)) s

/-- Record the first fault of a launch and stop it (03/R92). -/
def failLaunch (s : State) (core st idx reason : Nat) : State :=
  match (getCore s core).launch with
  | none => s
  | some l =>
    let s := modLaunch s l (fun x => { x with first := match x.first with | some y => some y | none => some (core, st, idx) })
    stopLaunch s l 3 reason

/-- The CORE_STATE register (03/R96). -/
def coreStateW (c : Core) : Nat :=
  c.object % 256 * 2 ^ 16 + c.reason % 256 * 2 ^ 8 + Word.b2n c.faulted * 128 + c.station % 8 * 16 + c.run % 4

/-- The schedule-broken fault (03/R91-R93). -/
def scheduleBroken (s : State) (core st idx reason object cond : Nat) : State :=
  let cg := coreCtx s core
  let img := match (getCore s core).launch with | some l => (getLaunch s l).image | none => 0
  let s := modCore s core (fun c => { c with faulted := true, reason, object, station := st, run := 3
                                             faultCycle := s.arrayCycles
                                             cond := if reason = 0xED then cond else c.cond })
  let s := failLaunch s core st idx reason
  let s := raiseCore s reason cg core st idx (coreStateW (getCore s core))
  let s := logRec s 0x14 reason (coreUnit s core) (ldata (Word.toLe 8 img ++ Word.toLe 2 core))
  let s := modUnit s (coreUnit s core) (fun u => { u with schedBroken := satAdd 32 u.schedBroken 1 })
  addDue (addDue s (coreUnit s core) 1 4) (coreUnit s core) 2 4

/-- The kind and event of a station fault's reason (17/R522). -/
def raiseFault (s : State) (reason : Nat) (cg : CtxGen) (core st idx : Nat) : State :=
  if 0xE8 ≤ reason && reason ≤ 0xF5 then raiseCore s reason cg core st idx 0
  else if reason = 0x49 then raiseCrate s reason cg 0 0 core 0xFFFF
  else raiseUnit s reason cg (coreUnit s core) 0 (some (core / 128))

/-- A station fault (05/R160-R162, 06/R190, R193): CORE_OP_FAULT for stations 0 to 3, CORE_MOVE_FAULT for 4 and 5.
DEDUCED: log entry 46. -/
def stationFault (s : State) (core st idx reason : Nat) : State :=
  let cg := coreCtx s core
  let r : FaultReg := { valid := true, station := st, index := idx, reason }
  let s := modCore s core (fun c =>
    if st < 4 then { c with run := 3, opFault := r } else { c with run := 3, moveFault := r })
  raiseFault (failLaunch s core st idx reason) reason cg core st idx

/-! ### Streams and repeats (06/R186-R188) -/

def getStation (c : Core) (st : Nat) : Station := c.stations.getD st {}
def modStation (c : Core) (st : Nat) (f : Station → Station) : Core :=
  { c with stations := lset c.stations st (f (getStation c st)) }

/-- The stream has ended. -/
def Station.ended (x : Station) : Bool := decide (x.store.length ≤ x.pc)

/-- Insert by level. -/
def insRepeat : List Repeat → Repeat → List Repeat
  | [], r => [r]
  | x :: t, r => if r.level < x.level then r :: x :: t else x :: insRepeat t r

/-- The position after the entry at `pc` has issued (06/R186): the first armed level that ends there acts. -/
def Station.next (x : Station) : Station :=
  let x := { x with prog := 0, hold := .none }
  match x.repeats.find? (fun r => r.stop == x.pc) with
  | none =>
    let x := { x with pc := x.pc + 1 }
    if x.ended then { x with repeats := [] } else x
  | some r =>
    if r.done + 1 < r.count then
      { x with pc := r.start, repeats := x.repeats.map (fun y => if y.level = r.level then { y with done := y.done + 1 } else y) }
    else
      let x := { x with pc := x.pc + 1, repeats := x.repeats.filter (fun y => y.level != r.level) }
      if x.ended then { x with repeats := [] } else x

/-- The advance added to an instruction (06/R188). -/
def Station.advance (x : Station) : Nat :=
  x.repeats.foldl (fun a r => if r.start ≤ x.pc && x.pc ≤ r.stop then a + r.done * r.adv else a) 0

/-- The instruction with its repeat advance (06/R188). -/
def withAdvance (st adv : Nat) (w : W128) : W128 :=
  if adv = 0 then w
  else
    let add (hi lo : Nat) : W128 := Ins.setBits w hi lo (Ins.bits w hi lo + adv)
    let o := Ins.op w
    if st = 2 then (if o = 0x21 then add 31 0 else w)
    else if st = 4 then
      if o = 0x40 ∨ o = 0x43 then (if Ins.bits w 57 56 = 0 then add 55 19 else add 45 35)
      else if o = 0x41 ∨ o = 0x42 then add 64 28
      else if o = 0x44 then (if Ins.bits w 87 86 = 3 then w else add 51 22)
      else w
    else if st = 5 then (if o = 0x50 then add 71 24 else w)
    else w

/-- The core runs: bound to a launch past its edge that has not stopped. -/
def coreRuns (s : State) (core : Nat) : Bool :=
  let c := getCore s core
  match c.launch with
  | none => false
  | some l => (getLaunch s l).running && decide ((getLaunch s l).stopped = none) && c.run != 3

/-- The instruction a station is at, with its repeat advance; `none` when the core does not run or the stream ended.
DESIGN CHOICE: log entry 14. -/
def fetchIns (s : State) (core st : Nat) : Option W128 :=
  if coreRuns s core then
    let x := getStation (getCore s core) st
    match x.store[x.pc]? with
    | some w => some (withAdvance st x.advance w)
    | none => none
  else none

/-! ### Waits, signals and the common issue (05/R129-R135) -/

/-- The first enabled wait that is not satisfied: reason and bin (03/R76, R79). DESIGN CHOICE: log entry 13. -/
def waitFail (c : Core) (w : W128) : Option (Nat × Nat) :=
  (Ins.waits w).findSome? fun x =>
    if !x.en then none
    else if x.kind then (if (getBin c x.bin).spaceOk then none else some (0xEA, x.bin))
    else (if (getBin c x.bin).dataOk then none else some (0xE9, x.bin))

/-- One signal slot: the core after it, or the bin fault (03/R76, R78). -/
def signal1 (c : Core) (x : Ins.Slot) : Except Nat Core :=
  if !x.en then .ok c
  else if x.kind then (match release c x.bin with | some c => .ok c | none => .error 0xEC)
  else (match post c x.bin with | some c => .ok c | none => .error 0xEB)

/-- Both signal slots of an instruction. -/
def signals (s : State) (core st idx : Nat) (w : W128) : State :=
  (Ins.sigs w).foldl (fun s x =>
    if (getCore s core).run = 3 then s
    else match signal1 (getCore s core) x with
      | .ok c => setCore s core c
      | .error r => scheduleBroken s core st idx r x.bin 0) s

/-- Set a station's hold; a fence shows in CORE_STATE.RUN (03/R96). -/
def setHold (s : State) (core st : Nat) (h : Hold) : State :=
  modCore s core fun c =>
    let c := modStation c st (fun x => { x with hold := h })
    { c with run := if c.run = 3 then 3
                    else if c.stations.any (fun x => match x.hold with | .fence _ _ => true | _ => false) then 2 else 1 }

/-- Move a station past its instruction. -/
def advanceSt (s : State) (core st : Nat) : State :=
  if (getCore s core).run = 3 then s else modCore s core (fun c => modStation c st Station.next)

/-- Finish an instruction by how its body ended. -/
def finish (s0 : State) (core st idx : Nat) (w : W128) : Run → State
  | .done s => advanceSt (signals s core st idx w) core st
  | .issued s => advanceSt s core st
  | .hold h s => setHold s core st h
  | .broken r o s => scheduleBroken s core st idx r (if r = 0xED then 255 else o) (if r = 0xED then o else 0)
  | .fault r s => stationFault s core st idx r
  | .notDue => s0

/-- Timing findings of an instruction (03/R91, 04/R118, 06/R190): an unmarked one faults, a marked one holds on an array
condition and meets no other. DESIGN CHOICE: log entry 2. -/
def findingRun (s : State) (st : Nat) (w : W128) : Finding → Option Run
  | .storeEntry => some (.fault 0x49 s)
  | .bankConflict b _ => if Ins.vt w then none else some (.broken 0xE8 b s)
  | .meshConflict => if !Ins.vt w && st == 4 then some (.fault 0xF3 s) else none
  | .arrayCond c =>
    if st > 1 || c = 0 || c > 8 then none
    else if Ins.vt w then (if c = 8 then none else some (.hold (.array c) s))
    else some (.broken 0xED c s)
  | _ => none

/-- Words a finding says are uncorrectable are marked before the instruction reads them (07/R200, R211). DESIGN CHOICE:
log entry 2. -/
def applyMarks (s : State) : Finding → State
  | .uncorrectable xs => modMem s (fun m => markBad m xs)
  | .corrected us => us.foldl (fun s u =>
      { s with mem := { s.mem with sramCorrected := tmod 0 s.mem.sramCorrected u (· + 1) } }) s
  | .correctedSectors xs => xs.foldl (fun s x =>
      match channelOf (x.1 * 64) with
      | some ch => modChan s ch (fun c =>
          { c with corrected := satAdd 32 c.corrected 1
                   lastError := BitVec.ofNat 64 (2 ^ 63 + x.2 % 4 * 2 ^ 56 + x.1 % 2 ^ 43 * 64) })
      | none => s) s
  | _ => s

/-- The bins on which an instruction makes implicit waits, and whether for space (05/R135, R136). -/
def implicitBins (w : W128) : List (Nat × Bool) :=
  let b (hi lo : Nat) : Nat := Ins.bits w hi lo
  match Ins.op w with
  | 0x01 => if Ins.bit w 61 then [] else [(b 87 82, false)]
  | 0x02 => if Ins.bit w 70 then [] else [(b 87 82, false)]
  | 0x03 => if Ins.bit w 78 then [] else [(b 87 82, false)]
  | 0x21 => (if Ins.bit w 87 then [(b 86 81, false)] else []) ++ [(b 80 75, true)]
  | 0x40 => if Ins.bit w 80 then [] else [(b 86 81, Ins.bit w 87)]
  | 0x41 => [(b 87 82, false), (b 81 76, true)]
  | 0x42 => [(b 87 82, false), (b 81 76, false)]
  | 0x43 => if Ins.bit w 80 then [] else [(b 86 81, false)]
  | 0x44 => if b 87 86 = 3 then [] else [(b 85 80, b 87 86 == 1)]
  | _ => []

/-- The wait that fails by the schedule's timing alone: it executes before the post or release it needs is seen (03/R77,
R79). DESIGN CHOICE: log entry 13. -/
def waitTiming (w : W128) : Finding → Option (Nat × Nat)
  | .waitEarly b space =>
    if (Ins.waits w).any (fun x => x.en && x.bin == b && x.kind == space) || (implicitBins w).contains (b, space) then
      some (if space then 0xEA else 0xE9, b)
    else none
  | _ => none

/-- Run one instruction of a station from its waits on. `body` gives its own effect. -/
def runIns (s : State) (core st : Nat) (w : W128) (f : Finding) (body : State → Nat → W128 → Finding → Run) : State :=
  let idx := (getStation (getCore s core) st).pc
  match (waitFail (getCore s core) w).or (waitTiming w f) with
  | some (r, b) =>
    if Ins.vt w then setHold s core st .wait else scheduleBroken s core st idx r b 0
  | none =>
    let s1 := setHold (applyMarks s f) core st .none
    match findingRun s1 st w f with
    | some (.broken 0xE8 b s') =>
      match f with
      | .bankConflict _ st' => scheduleBroken s' core st' idx 0xE8 b 0
      | _ => scheduleBroken s' core st idx 0xE8 b 0
    | some r => finish s core st idx w r
    | none => finish s core st idx w (body s1 core w f)

/-- Issue the instruction a station is at, when it is one of opcode `op` and the station is not held. -/
def issue (s : State) (core st op : Nat) (f : Finding) (body : State → Nat → W128 → Finding → Run) : State :=
  match fetchIns s core st with
  | none => s
  | some w =>
    if Ins.op w = op ∧ (getStation (getCore s core) st).hold = .none then runIns s core st w f body else s

/-- An implicit wait, per the instruction's mark (05/R135): the hold or the fault when it fails. -/
def implicitWait (s : State) (w : W128) (ok : Bool) (reason bin : Nat) : Option Run :=
  if ok then none
  else if Ins.vt w then some (.hold .wait s) else some (.broken reason bin s)

/-- An implicit release or post; they cannot fail after their wait unless a remote signal was made meanwhile. -/
def implicitRelease (s : State) (core b : Nat) : Except Run State :=
  match release (getCore s core) b with
  | some c => .ok (setCore s core c)
  | none => .error (.broken 0xEC b s)
def implicitPost (s : State) (core b : Nat) : Except Run State :=
  match post (getCore s core) b with
  | some c => .ok (setCore s core c)
  | none => .error (.broken 0xEB b s)

/-- The launch of a core, its record and its context. -/
def coreLaunch (s : State) (core : Nat) : Launch :=
  match (getCore s core).launch with | some l => getLaunch s l | none => {}

/-- The epoch a tally had at the launch edge (10/R337). -/
def launchEpoch (l : Launch) (t : Nat) : Nat := (tget 0#64 l.epochs t).toNat / 2 ^ 48

/-- An addition by a core, with the epoch of its launch edge (10/R337). -/
def coreTally (s : State) (core t inc : Nat) : State :=
  let l := coreLaunch s core
  addTallyAt s l.ctx t inc (launchEpoch l t)

end Sys2Proof.Machine
end

