-- ==== Sys2Proof/Machine/Queue.lean ====
section
/-!
DEFINITION. Queues and the command table (chapter 09): fetching and checking packets, beginning and ending commands,
completion records, doorbells, queue enables and the queue states.
-/
namespace Sys2Proof.Machine

/-! ### Queue fields (09/R286, R287) -/

def qEnabled (x : Queue) : Bool := rbit x.cfg 63
def qClass (q : Nat) (x : Queue) : Nat := if 15360 ≤ q then 2 else rbits x.cfg 62 61
def qSize (x : Queue) : Nat := 2 ^ rbits x.cfg 60 56
def qCq (x : Queue) : Nat := rbits x.cfg 49 36
/-- The ring is full (09/R283). -/
def qFull (x : Queue) : Bool := (x.tail + 1) % qSize x == x.head
/-- A submission or communication queue. -/
def qSubmits (q : Nat) (x : Queue) : Bool := qClass q x != 1

def getGroup (s : State) (g : Nat) : Group := tget {} s.groups g

/-- The context of a queue: none for queues 0 and 1, its group's for a communication queue (09/R282). -/
def queueCtx (s : State) (q : Nat) : Option Nat :=
  if q < 2 then none
  else if 15360 ≤ q then some (rbits (getGroup s (q - 15360)).cfg 55 48)
  else some (rbits (getQueue s q).cfg 35 28)

/-- Command-table entries of a queue, in queue order. -/
def queueCmds (s : State) (q : Nat) : List Cmd := s.cmds.filter (fun c => c.queue == q)
def maxInflight (x : Queue) : Nat := let m := rbits x.cfg 11 0; if m = 0 then 4096 else m

/-! ### Commands in the table -/

def findCmd (s : State) (slot : Nat) : Option Cmd := s.cmds.find? (fun c => c.slot == slot)
def modCmd (s : State) (slot : Nat) (f : Cmd → Cmd) : State :=
  { s with cmds := s.cmds.map (fun c => if c.slot = slot then f c else c) }

/-- A begun, unfinished command of an opcode. DESIGN CHOICE: log entry 14. -/
def begun (s : State) (slot op : Nat) : Option Cmd :=
  match findCmd s slot with
  | some c => if c.phase = 1 ∧ Pkt.opcode c.packet = op then some c else none
  | none => none

/-- What a command ends with (09/R298). -/
structure EndWith where
  cls : Nat := 0
  reason : Nat := 0
  detail16 : Nat := 0
  detail32 : Nat := 0
  result : Nat := 0
deriving DecidableEq, Repr

/-- The crate that a memory command writes next. -/
def nextCrate (c : Cmd) : Nat := Pkt.p1 c.packet % 2 ^ 49 / 4096 + c.aux

/-- A memory command cut short in a crate of a tier: the sectors gathered and zero for the rest, poisoned, with the
lineage of the interrupted writer (08/R247). DEDUCED: log entry 15. -/
def cutShort (s : State) (c : Cmd) : State :=
  if c.gather = [] then s
  else
    let p := c.gather ++ List.replicate (4096 - c.gather.length) 0#8
    putCrate s (nextCrate c) p (Tag.poison (Tag.computed p 6 0 0 (Tag.hostLineage c.queue (Pkt.tag c.packet))))

/-- Set a command ended with its record's fields; its record is due. -/
def setEnded (s : State) (slot : Nat) (e : EndWith) : State :=
  let s := match findCmd s slot with
    | some c => if c.phase = 1 then cutShort s c else s
    | none => s
  modCmd s slot fun c => { c with phase := 2, cls := e.cls, reason := e.reason, detail16 := e.detail16
                                  detail32 := e.detail32, result := BitVec.ofNat 64 e.result, time := s.time }

/-- The commands that follow a failed one: those not begun, and those begun without a row of their own that ends them,
are cancelled with 0x09; a launch stops and ends at its completion, a collective likewise (09/R307). -/
def cancelFollower (s : State) (c : Cmd) : State :=
  if c.phase = 2 then s
  else if c.phase = 1 ∧ Pkt.opcode c.packet = 0x0201 then stopLaunch s c.slot 4 0x09
  else setEnded s c.slot { cls := 4, reason := 0x09 }

/-- The queue of a command that ended with class 0x02 or 0x03 enters the error state (09/R307). -/
def failQueue (s : State) (c : Cmd) (reason : Nat) : State :=
  let s := modQueue s c.queue fun x =>
    if x.state = 1 ∨ x.state = 3 then { x with state := 2, reason, failAt := c.ord } else { x with reason }
  ((queueCmds s c.queue).filter (fun d => decide (c.ord < d.ord))).foldl cancelFollower s

/-- A command of the training context that ends with class 0x03, and a collective of it that ends other than in
success, are charged to the step (14/R440). -/
def chargeEnd (s : State) (c : Cmd) (e : EndWith) : State :=
  let op := Pkt.opcode c.packet
  if e.cls = 3 ∨ (0x0410 ≤ op ∧ op ≤ 0x0413 ∧ 2 ≤ e.cls) then chargeNow s (Pkt.ctx c.packet) (Pkt.gen c.packet) e.reason
  else s

/-- End a command (09/R298, R299, R307). DEDUCED: log entry 15. -/
def endCmd (s : State) (slot : Nat) (e : EndWith) : State :=
  match findCmd s slot with
  | none => s
  | some c =>
    let s := chargeEnd (setEnded s slot e) c e
    if e.cls = 2 ∨ e.cls = 3 ∨ (Pkt.opcode c.packet / 16 = 0x041 ∧ e.cls = 4) then failQueue s c e.reason else s

/-- Refuse a begun command with class 0x02 (09/R293). -/
def refuseCmd (s : State) (slot reason : Nat) : State := endCmd s slot { cls := 2, reason }

/-! ### Packet checks (09/R290-R296) -/

/-- The bits of P0, P1 and P2 that an opcode defines; `none` for an undefined opcode (09/R294-R296). -/
def paramMask (op : Nat) : Option (Nat × Nat × Nat) :=
  let lo (n : Nat) : Nat := 2 ^ n - 1
  let all := lo 64
  let fmtOff := lo 49 + lo 8 * 2 ^ 56
  match op with
  | 0x0101 => some (all, fmtOff, lo 24 + 2 ^ 32)
  | 0x0102 => some (all, lo 49, lo 24 + 2 ^ 32)
  | 0x0103 => some (lo 49, lo 49, lo 24)
  | 0x0104 => some (0, lo 49, lo 24)
  | 0x0105 => some (0, fmtOff, lo 24)
  | 0x0106 => some (7, lo 32, 0)
  | 0x0201 => some (lo 49, lo 25 + lo 25 * 2 ^ 32, lo 49)
  | 0x0202 => some (lo 14 + lo 32 * 2 ^ 32, 0, 0)
  | 0x0300 => some (0, 0, 0)
  | 0x0301 => some (lo 16, lo 48, 0)
  | 0x0302 => some (lo 16, 0, 0)
  | 0x0303 => some (lo 16, lo 17, 0)
  | 0x0401 => some (lo 49, 15, 0)
  | 0x0402 => some (0, 15, 0)
  | 0x0410 => some (lo 49, lo 49, lo 26)
  | 0x0411 => some (lo 49, lo 49, lo 26)
  | 0x0412 => some (lo 49, lo 49, lo 24)
  | 0x0413 => some (lo 49, lo 49, lo 24 + lo 10 * 2 ^ 32)
  | 0x0501 => some (all, 0, 0)
  | 0x0502 => some (all, 0, 0)
  | 0x0503 => some (all, lo 5 + lo 16 * 2 ^ 16, 0)
  | 0x0504 => some (lo 8, 0, 0)
  | 0x0505 => some (0, 0, 0)
  | 0x0506 => some (0, lo 5, 0)
  | 0x0507 => some (3, lo 8, 0)
  | 0x0601 => some (all, 0, 0)
  | 0x0602 => some (all, lo 16, 0)
  | 0x0603 => some (all, all, lo 24)
  | 0x0604 => some (all, lo 32, 0)
  | 0x0605 => some (1, 0, 0)
  | 0x0701 => some (all, lo 8, 0)
  | 0x0702 => some (lo 10, 0, 0)
  | 0x0703 => some (lo 10, 0, 0)
  | 0x0704 => some (lo 10 + 2 ^ 12 + 2 ^ 16, lo 49, lo 32)
  | 0x0705 => some (lo 10 + 2 ^ 12 + 2 ^ 16, 0, 0)
  | 0x0706 => some (all, lo 8, 0)
  | 0x0801 => some (0xF7, 0, 0)
  | 0x0802 => some (7, 0, 0)
  | 0x0803 => some (7 + 256, lo 16, lo 16)
  | 0x0804 => some (lo 8, all, 3 + lo 6 * 2 ^ 16 + 7 * 2 ^ 60)
  | 0x0805 => some (lo 8 + lo 16 * 2 ^ 16, 0, 0)
  | _ => none

/-- The opcode is accepted on queue `q` (09/R293 check 2). -/
def opAccepted (q op : Nat) : Bool :=
  let admin := decide (0x0600 ≤ op)
  let coll := decide (0x0410 ≤ op) && decide (op ≤ 0x0413)
  if q = 0 then admin else if 15360 ≤ q then coll else !admin && !coll

/-- A value has no bit outside a mask. -/
def within (v m : Nat) : Bool := Nat.land v m == v

/-- Reserved fields and flags of the header and reserved bits of parameters are zero (09/R293 check 5). -/
def reservedZero (p : List Byte) : Bool :=
  decide (Pkt.flags p < 32) && leAt p 5 1 == 0 && leAt p 0xC 4 == 0 &&
  match paramMask (Pkt.opcode p) with
  | some (a, b, c) => within (Pkt.p0 p) a && within (Pkt.p1 p) b && within (Pkt.p2 p) c
  | none => true

/-- Local offset, crate count and host address of a memory command. -/
def pktOff1 (p : List Byte) : Nat := Pkt.p1 p % 2 ^ 49
def pktOff0 (p : List Byte) : Nat := Pkt.p0 p % 2 ^ 49
def pktCrates (p : List Byte) : Nat := Pkt.p2 p % 2 ^ 24 + 1

/-- Parameters lie in the ranges their opcode gives (09/R293 check 6, R294-R296). -/
def rangeOk (p : List Byte) : Bool :=
  let p0 := Pkt.p0 p
  let p1 := Pkt.p1 p
  let p2 := Pkt.p2 p
  let host := p0 % 64 == 0
  let o0 := pktOff0 p % 4096 == 0
  let o1 := pktOff1 p % 4096 == 0
  let fmt := let f := p1 / 2 ^ 56; decide (1 ≤ f) && decide (f ≤ 6)
  let n := pktCrates p * 4096
  match Pkt.opcode p with
  | 0x0101 => host && o1 && (fmt || Word.bitOf p2 32)
  | 0x0102 => host && o1
  | 0x0103 => o0 && o1 && (decide (pktOff0 p + n ≤ pktOff1 p) || decide (pktOff1 p + n ≤ pktOff0 p))
  | 0x0104 => o1
  | 0x0105 => o1 && fmt
  | 0x0201 => o0
  | 0x0303 => decide (1 ≤ p1) && decide (p1 ≤ 65536)
  | 0x0401 => o0
  | 0x0410 => o0 && o1 && decide (Word.bitsOf p2 25 24 < 3)
  | 0x0411 => o0 && o1 && decide (Word.bitsOf p2 25 24 < 3)
  | 0x0412 => o0 && o1
  | 0x0413 => o0 && o1
  | 0x0503 => decide (p1 % 32 ≤ 16)
  | 0x0506 => decide (p1 ≤ 16)
  | 0x0601 => host
  | 0x0602 => host
  | 0x0603 => host
  | 0x0604 => host
  | 0x0701 => decide (1 ≤ p1) && decide (p1 ≤ 6)
  | 0x0702 => decide (p0 < 640)
  | 0x0703 => decide (p0 < 640)
  | 0x0704 => o1 && decide (p0 % 1024 < if Word.bitOf p0 12 then 48 else 640)
  | 0x0705 => decide (p0 % 1024 < if Word.bitOf p0 12 then 48 else 640)
  | 0x0706 => host && decide (p1 < 8)
  | 0x0804 => decide (Word.bitsOf p2 21 16 ≤ 50)
  | _ => true

/-- An enabled wait or signal of a packet names a tally outside the context's (09/R292, R293 check 7). -/
def tallyBad (s : State) (ctx : Option Nat) (p : List Byte) : Bool :=
  let ok (t : Nat) : Bool := match ctx with | some c => tallyOk s c t | none => false
  [0, 1].any fun i => (Pkt.waitEn p i && !ok (Pkt.waitTally p i)) ||
    (Pkt.sigEn p i && (!ok (Pkt.sigTally p i)))

/-- The increment of an enabled signal is 1 to 65,535 (09/R290). -/
def sigBad (p : List Byte) : Bool := [0, 1].any fun i => Pkt.sigEn p i && Pkt.sigInc p i == 0

/-- CTX and GEN match the queue's context and its current generation (09/R293 check 3). -/
def ctxMatches (s : State) (q : Nat) (p : List Byte) : Bool :=
  match queueCtx s q with
  | none => Pkt.ctx p == 0 && Pkt.gen p == 0
  | some c => Pkt.ctx p == c && Pkt.gen p == (getCtx s c).gen &&
      ((getCtx s c).state == 2 || (getCtx s c).state == 3)

/-- The first failing check of a packet that enters the table from queue `q` (09/R293). -/
def packetRefusal (s : State) (q : Nat) (p : List Byte) : Option Nat :=
  if (paramMask (Pkt.opcode p)).isNone then some 0x01
  else if !opAccepted q (Pkt.opcode p) then some 0x0A
  else if !ctxMatches s q p then some 0x21
  else if (match queueCtx s q with | some c => (getCtx s c).state == 3 | none => false) then some 0x27
  else if !reservedZero p then some 0x02
  else if !rangeOk p || sigBad p then some 0x03
  else if tallyBad s (queueCtx s q) p then some 0x26
  else none

/-! ### PACKET_FETCH (09/R285, R302) -/

/-- The queue may be fetched from now (09/R285). -/
def fetchable (s : State) (q : Nat) (x : Queue) : Bool :=
  qEnabled x && x.state == 1 && qSubmits q x && x.head != x.tail && decide ((queueCmds s q).length < maxInflight x)

/-- Fetching can proceed at all: a free entry, the PCIe link and bus mastering (09/R276, R289, R302). -/
def fetchOpen (s : State) : Bool := decide (s.cmds.length < 4096) && s.pcie.linkUp && s.pcie.busMaster

/-- The queue whose turn it is by weighted round robin (09/R285): the current one while its turn lasts, else the next
fetchable one in ascending order. -/
def nextQueue (s : State) : Option Nat :=
  let cand := (s.queues.filter (fun x => fetchable s x.1 x.2)).map (·.1)
  if s.rrLeft ≠ 0 ∧ cand.contains s.rrQueue then some s.rrQueue
  else match cand.find? (fun q => decide (s.rrQueue < q)) with
    | some q => some q
    | none => cand.head?

/-- The lowest free command-table entry. -/
def freeSlot (s : State) : Nat :=
  ((List.range 4096).find? (fun i => !(s.cmds.any (fun c => c.slot == i)))).getD 0

/-- Epochs of the four tallies a packet names, as they are now (09/R292, 10/R337). -/
def packetEpochs (s : State) (p : List Byte) : List Nat :=
  [tallyEpochOf s (Pkt.waitTally p 0), tallyEpochOf s (Pkt.waitTally p 1),
   tallyEpochOf s (Pkt.sigTally p 0), tallyEpochOf s (Pkt.sigTally p 1)]

/-- Take a packet of queue `q` into the command table and check it (09/R293, R302). -/
def enterPacket (s : State) (q : Nat) (p : List Byte) : State :=
  let slot := freeSlot s
  let c : Cmd := { slot, ord := s.cmdOrd, queue := q, packet := p, epochs := packetEpochs s p }
  let s := { s with cmds := s.cmds ++ [c], cmdOrd := s.cmdOrd + 1, highWater := max s.highWater (s.cmds.length + 1) }
  match packetRefusal s q p with
  | some r => refuseCmd s slot r
  | none => s

/-- PACKET_FETCH: the 64 bytes are those the host's ring holds at the queue's HEAD. -/
def packetFetch (s : State) (p : List Byte) : State :=
  if !fetchOpen s || p.length != 64 then s
  else match nextQueue s with
    | none => s
    | some q =>
      let x := getQueue s q
      let left := if q = s.rrQueue ∧ s.rrLeft ≠ 0 then s.rrLeft - 1 else rbits x.cfg 55 52
      let s := { s with rrQueue := q, rrLeft := left }
      let s := modQueue s q (fun x => { x with head := (x.head + 1) % qSize x })
      enterPacket s q p

def execPacketFetch (p : List Byte) (s : State) : Res := .next (packetFetch s p)

/-! ### COMMAND_BEGIN (09/R292) -/

/-- Both waits of a command by their entry epochs: an epoch that changed (0x0B), all satisfied, or not yet. -/
inductive WaitState where
  | epochChanged
  | satisfied
  | waiting
deriving DecidableEq, Repr

def waitState (s : State) (c : Cmd) : WaitState :=
  let en := [0, 1].filter (Pkt.waitEn c.packet)
  if en.any (fun i => tallyEpochOf s (Pkt.waitTally c.packet i) != c.epochs.getD i 0) then .epochChanged
  else if en.all (fun i => decide (Pkt.waitTarget c.packet i ≤ tallyVal s (Pkt.waitTally c.packet i))) then .satisfied
  else .waiting

/-- COMMAND_BEGIN: the earliest command of the queue that has not begun (09/R292, R304). An ORDER command waits for the
records of every earlier command of its queue; a pending fabric failure of the queue fails it (11/R379). DEDUCED: log
entry 24. -/
def commandBegin (s : State) (q : Nat) : State :=
  match (queueCmds s q).find? (fun c => c.phase == 0) with
  | none => s
  | some c =>
    match waitState s c with
    | .epochChanged => endCmd s c.slot { cls := 3, reason := 0x0B }
    | .waiting => s
    | .satisfied =>
      let earlier := (queueCmds s q).any (fun d => decide (d.ord < c.ord))
      if Pkt.order c.packet && earlier then s
      else if Pkt.order c.packet then
        match (getQueue s q).fails with
        | [] => modCmd s c.slot (fun c => { c with phase := 1 })
        | r :: t =>
          let s := modQueue s q (fun x => { x with fails := t })
          endCmd s c.slot { cls := 3, reason := r }
      else modCmd s c.slot (fun c => { c with phase := 1 })

def execCommandBegin (q : Nat) (s : State) : Res := .next (commandBegin s q)

/-! ### COMPLETION_RECORD_WRITE (09/R298-R301) -/

/-- The 32 bytes of a record (09/R298). -/
def recordBytes (c : Cmd) (phase : Bool) (sqHead : Nat) : List Byte :=
  Word.toLe 4 (Pkt.tag c.packet) ++ Word.toLe 2 (c.cls * 256 + c.reason)
    ++ Word.toLe 2 (Word.b2n phase * 32768 + c.queue) ++ Word.toLe 2 sqHead
    ++ Word.toLe 2 c.detail16 ++ Word.toLe 4 c.detail32 ++ Word.toLe 8 c.result.toNat ++ Word.toLe 8 c.time.toNat

/-- The signals of a command that completed in full, with the epochs of its entry (09/R292, 10/R337). -/
def cmdSignals (s : State) (c : Cmd) : State :=
  if c.cls ≤ 1 then
    [0, 1].foldl (fun s i =>
      if Pkt.sigEn c.packet i then
        match queueCtx s c.queue with
        | some ctx => addTallyAt s ctx (Pkt.sigTally c.packet i) (Pkt.sigInc c.packet i) (c.epochs.getD (2 + i) 0)
        | none => s
      else s) s
  else s

/-- The record can be written: the completion queue is enabled and has room, the link is up (09/R276, R301). -/
def recordOpen (s : State) (cq : Nat) : Bool :=
  let x := getQueue s cq
  qEnabled x && !qFull x && s.pcie.linkUp && s.pcie.busMaster

/-- The interrupt of a completion queue after a record (09/R300). -/
def cqInterrupt (s : State) (cq : Nat) : State :=
  let x := getQueue s cq
  if rbit x.cfg 27 && !x.signalled then
    modQueue (signalMsix s (rbits x.cfg 26 21)) cq (fun x => { x with signalled := true })
  else s

/-- COMPLETION_RECORD_WRITE for submission queue `q`: the oldest command of the queue, when it has ended (09/R300, R304). -/
def recordWrite (s : State) (q : Nat) : State :=
  match queueCmds s q with
  | [] => s
  | c :: _ =>
    let cq := qCq (getQueue s q)
    if c.phase ≠ 2 || !recordOpen s cq then s
    else
      let x := getQueue s cq
      let s := hostWrite s (x.base.toNat + 32 * x.tail) (recordBytes c x.phase (getQueue s q).head)
      let tail := (x.tail + 1) % qSize x
      let s := modQueue s cq (fun x => { x with tail, phase := if tail = 0 then !x.phase else x.phase })
      let s := { s with cmds := s.cmds.filter (fun d => d.slot != c.slot) }
      cqInterrupt (cmdSignals s c) cq

def execCompletionRecordWrite (q : Nat) (s : State) : Res := .next (recordWrite s q)

/-! ### Doorbells (09/R284) -/

/-- SQ_DOORBELL. DEDUCED: log entry 24. -/
def sqDoorbell (s : State) (q v : Nat) : State :=
  let x := getQueue s q
  if !qEnabled x then modQueue s q (fun x => { x with reason := 0x04 })
  else if !qSubmits q x || x.state = 4 then s
  else if qSize x ≤ v then
    raiseUnit (modQueue s q (fun x => { x with reason := 0x05 })) 0x05
      (match queueCtx s q with | some c => (c, (getCtx s c).gen) | none => noCtx) 0#64 q
  else modQueue s q (fun x => { x with tail := v })

def execSqDoorbell (q : Nat) (v : BitVec 16) (s : State) : Res := fromHost s (sqDoorbell s q v.toNat)

/-- CQ_DOORBELL: releases entries and arms the vector again (09/R284, R300). DEDUCED: log entry 24. -/
def cqDoorbell (s : State) (q v : Nat) : State :=
  let x := getQueue s q
  if !qEnabled x then modQueue s q (fun x => { x with reason := 0x04 })
  else if qSubmits q x || x.state = 4 then s
  else if qSize x ≤ v then raiseUnit (modQueue s q (fun x => { x with reason := 0x05 })) 0x05 noCtx 0#64 q
  else modQueue s q (fun x => { x with head := v, signalled := false })

def execCqDoorbell (q : Nat) (v : BitVec 16) (s : State) : Res := fromHost s (cqDoorbell s q v.toNat)

/-! ### Enables (09/R288, R289) -/

/-- The RW bits of Q_CFG. -/
def qCfgMask : Nat := 2 ^ 64 - 1 - (3 * 2 ^ 50) - (2 ^ 21 - 2 ^ 12)

/-- The class bits as they are held: read-only 2 on communication queues (09/R286). -/
def qCfgHeld (q : Nat) (v : W64) : W64 :=
  let v : W64 := v &&& BitVec.ofNat 64 qCfgMask
  if 15360 ≤ q then rset v 62 61 2 else v

/-- A group is defined for its communication queue (09/R289 check 7): enabled. -/
def groupDefined (s : State) (g : Nat) : Bool := rbit (getGroup s g).cfg 63

/-- The first failing condition of a queue enable (09/R289). -/
def queueRefusal (s : State) (q : Nat) (x : Queue) : Option Nat :=
  let cls := qClass q x
  let sz := rbits x.cfg 60 56
  let cqx := getQueue s (qCq x)
  if !s.pcie.busMaster then some 0x08
  else if sz < 4 ∨ 16 < sz ∨ x.base = 0#64 then some 0x06
  else if q = 0 ∧ ¬ (cls = 0 ∧ qCq x = 1) then some 0x06
  else if q = 1 ∧ cls ≠ 1 then some 0x06
  else if cls = 3 ∨ (cls = 2 ∧ q < 15360) then some 0x06
  else if cls ≠ 1 ∧ !(qEnabled cqx && qClass (qCq x) cqx == 1) then some 0x07
  else if cls = 0 ∧ q ≠ 0 ∧ (getCtx s (rbits x.cfg 35 28)).state ≠ 2 then some 0x20
  else if cls = 2 ∧ !groupDefined s (q - 15360) then some 0x67
  else if cls = 1 ∧ rbit x.cfg 27 ∧ !msixEnabled s (rbits x.cfg 26 21) then some 0x1B
  else none

/-- Q_ENABLE: a write of Q_CFG whose ENABLE is 1 (09/R286, R288, R289). DEDUCED: log entry 24. -/
def qEnable (s : State) (q : Nat) (v : W64) : State :=
  let x := getQueue s q
  let cfg := qCfgHeld q v
  if 16384 ≤ q || !rbit v 63 then s
  else if qEnabled x then (if cfg = x.cfg then s else modQueue s q (fun x => { x with reason := 0x1D }))
  else
    let x' := { x with cfg }
    match queueRefusal s q x' with
    | some r => setQueue s q { x with cfg := rset cfg 63 63 0, reason := r }
    | none => setQueue s q { x' with state := 1, head := 0, tail := 0, phase := !qSubmits q x', signalled := false }

def execQEnable (q : Nat) (v : W64) (s : State) : Res := fromHost s (qEnable s q v)

/-- A completion queue that an enabled queue names (09/R289). -/
def cqNamed (s : State) (q : Nat) : Bool :=
  s.queues.any (fun y => qEnabled y.2 && qSubmits y.1 y.2 && qCq y.2 == q)

/-- Q_DISABLE: a write of Q_CFG whose ENABLE is 0 (09/R289). On a disabled queue it only writes the fields. -/
def qDisable (s : State) (q : Nat) (v : W64) : State :=
  let x := getQueue s q
  let cfg := qCfgHeld q v
  if 16384 ≤ q || rbit v 63 then s
  else if !qEnabled x then modQueue s q (fun x => { x with cfg })
  else if rset x.cfg 63 63 0 ≠ cfg then modQueue s q (fun x => { x with reason := 0x1D })
  else if !qSubmits q x && cqNamed s q then modQueue s q (fun x => { x with reason := 0x07 })
  else modQueue s q (fun x => { x with state := 4 })

def execQDisable (q : Nat) (v : W64) (s : State) : Res := fromHost s (qDisable s q v)

/-- QUEUE_DRAIN_DONE (09/R289). -/
def queueDrainDone (s : State) (q : Nat) : State :=
  if (getQueue s q).state = 4 ∧ queueCmds s q = [] then
    modQueue s q (fun x => { x with state := 0, cfg := rset x.cfg 63 63 0 })
  else s

def execQueueDrainDone (q : Nat) (s : State) : Res := .next (queueDrainDone s q)

/-- RESUME: a write of Q_CTRL (09/R309). -/
def resumeQueue (s : State) (q : Nat) (v : W64) : State :=
  if rbit v 0 && (getQueue s q).state == 2 then modQueue s q (fun x => { x with state := 3 }) else s

def execResume (q : Nat) (v : W64) (s : State) : Res := fromHost s (resumeQueue s q v)

/-- QUEUE_RESUMED: every command before the failure point has written its record (09/R309). -/
def queueResumed (s : State) (q : Nat) : State :=
  let x := getQueue s q
  if x.state = 3 && !((queueCmds s q).any (fun c => decide (c.ord < x.failAt))) then
    modQueue s q (fun x => { x with state := 1 })
  else s

def execQueueResumed (q : Nat) (s : State) : Res := .next (queueResumed s q)

/-- Fetching is held by a full command table or a full completion queue (09/R310). -/
def fetchHeld (s : State) : Bool :=
  decide (4096 ≤ s.cmds.length) ||
    s.queues.any (fun x => qEnabled x.2 && qClass x.1 x.2 == 1 && qFull x.2)

/-- HOST_BACKPRESSURE: `held` says which of the two 10 ms conditions of 09/R310 has come. -/
def hostBackpressure (s : State) (held : Bool) : State :=
  if held then
    if fetchHeld s then raiseUnit { s with backpressure := true } 0x0E noCtx 0#64 0 none s.backpressure else s
  else { s with backpressure := false }

def execHostBackpressure (held : Bool) (s : State) : Res := .next (hostBackpressure s held)

end Sys2Proof.Machine
end

