-- ==== Sys2Proof/Machine/Ledger.lean ====
section
/-!
DEFINITION. Field tests, unit standing, repairs and swaps of core sites (08/R253-R258, 01/R27-R33), the ledger and its
hold-up bank (08/R260-R271).
-/
namespace Sys2Proof.Machine

/-! ### Dies, partitions and boundaries -/

/-- Created, enabled or tearing down. -/
def Ctx.live (x : Ctx) : Bool := x.state == 1 || x.state == 2 || x.state == 3

/-- Contexts of a partition that are neither free nor quarantined. -/
def partContexts (s : State) (p : Nat) : Nat :=
  (s.ctxs.filter (fun c => c.2.part == p && (c.2.state == 1 || c.2.state == 2 || c.2.state == 3))).length

/-- The partition that holds a die, if any. -/
def partOfDie (s : State) (d : Nat) : Option Nat := (s.parts.find? (fun p => p.2.state != 0 && p.2.dies.contains d)).map (·.1)

/-- A context exists in the partition that holds a die. -/
def dieInUse (s : State) (d : Nat) : Bool :=
  match partOfDie s d with | some p => partContexts s p != 0 | none => false

/-- The logical core bound to a site of a die. -/
def coreOfSite (s : State) (die site : Nat) : Option Nat :=
  (s.coreMap.find? (fun e => e.1 / 128 == die && e.2.avail && e.2.site == site)).map (·.1)

/-- The enabled training context that has a step directory, if any (08/R255, 14/R435). -/
def steppedCtx (s : State) : Option Nat :=
  if rbit s.stepSt.dirReg 63 then (s.ctxs.find? (fun c => c.2.training && c.2.live)).map (·.1) else none

/-- A context with steps covers a die. -/
def dieStepped (s : State) (d : Nat) : Bool :=
  match steppedCtx s with | some c => (getPart s (getCtx s c).part).dies.contains d | none => false

/-- A core site is bound (08/R254, R255): a launch binds its logical core, or a context with steps covers it. -/
def siteBound (s : State) (die site : Nat) : Bool :=
  match coreOfSite s die site with
  | none => false
  | some c => (getCore s c).launch.isSome || dieStepped s die

/-! ### The known-answer tests (08/R253) -/

/-- A test exists for a unit class. -/
def testFits (cls test : Nat) : Bool :=
  (cls == 1 && (test == 1 || test == 2 || test == 3)) || (cls == 7 && test == 4)
    || ((cls == 2 || cls == 3) && test == 5) || (cls == 8 && test == 6)

def destructive (test : Nat) : Bool := test == 3 || test == 4 || test == 6

/-- Longest duration in µs, and nominal interval in ticks of 10 ns. -/
def testDuration (test : Nat) : Nat :=
  match test with | 1 => 1500 | 2 => 1000 | 3 => 200 | 4 => 500 | 5 => 20000 | _ => 2000
def testInterval (test : Nat) : Nat := if destructive test then 7 * 8640000000000 else 8640000000000

/-- A unit of 08/R262 that the module has and that a test fits. -/
def unitExists (u : W64) (test : Nat) : Bool :=
  let cls := rbits u 63 56
  let die := rbits u 55 52
  let i := rbits u 51 40
  testFits cls test && rbits u 39 0 == 0 &&
    match cls with
    | 1 => decide (die < 8) && decide (i < 136)
    | 2 => decide (die < 8) && decide (i < 2)
    | 3 => die == 8 && decide (i < 2)
    | 7 => decide (die < 8) && decide (i < 32)
    | 8 => decide (die < 8) && i == 0
    | _ => false

/-- The unit is in use, so that a test of it waits; a control processor or steward hands over first and never waits. -/
def unitBound (s : State) (u : W64) (test : Nat) : Bool :=
  let die := rbits u 55 52
  match rbits u 63 56 with
  | 1 => siteBound s die (rbits u 51 40) || (destructive test && (coreOfSite s die (rbits u 51 40)).isSome && dieInUse s die)
  | 7 => dieInUse s die
  | 8 => dieInUse s die
  | _ => false

/-- Move a due test under way by a route. -/
def startTest (s : State) (u : W64) (test route : Nat) : State :=
  let s := match rbits u 63 56 with
    | 2 => { s with cpActive := tset 0 s.cpActive (rbits u 55 52) (1 - min 1 (rbits u 51 40)) }
    | 3 => { s with cpActive := tset 0 s.cpActive 8 (1 - min 1 (rbits u 51 40)) }
    | _ => s
  modUnit s u fun r => { r with due := r.due.filter (fun d => d.1 != test), running := r.running ++ [(test, route)] }

/-! ### What a destructive test, or a test of the array, leaves (08/R253) -/

/-- `n` free bytes and the state that has drawn them. DESIGN CHOICE: log entry 6. -/
def freeBytes (s : State) (n : Nat) : State × List Byte :=
  let c := s.freeCtr
  ({ s with freeCtr := c + (n + 31) / 32 },
    (List.range n).map (fun i => BitVec.ofNat 8 (Word.bitsOf (Config.free (c + i / 32)).toNat (8 * (i % 32) + 7) (8 * (i % 32)))))

/-- A range of crates holds nothing that is known: payload and tags are free values. DESIGN CHOICE: log entry 6. -/
def freeCrates (s : State) (first n : Nat) : State :=
  let (s, bs) := freeBytes s (n * 4096)
  let (s, ts) := freeBytes s (n * 16)
  modMem s fun m =>
    let m := zeroCrates m first n
    { m with
      cells := writeBytes m.cells (first * 4096) bs
      tags := (List.range n).foldl (fun t i => tset Tag.zero t (first + i) (Tag.ofBytes ((ts.drop (16 * i)).take 16))) m.tags }

/-- The bench and the Vector registers hold free values. -/
def freeBench (s : State) (core : Nat) : State :=
  let (s, bs) := freeBytes s (2048 * 512)
  let (s, vs) := freeBytes s (32 * 1024)
  modCore s core fun c =>
    { c with
      bench := (List.range 2048).foldl (fun t l => tset {} t l
        { vals := (List.range 128).map (fun k => BitVec.ofNat 32 (leAt bs (l * 512 + 4 * k) 4)) }) []
      vregs := (List.range 32).map (fun v =>
        { lanes := (List.range 256).map (fun k => BitVec.ofNat 32 (leAt vs (v * 1024 + 4 * k) 4)) }) }

/-- What a finished test leaves undefined of a unit that a logical number still names. -/
def testLeaves (s : State) (u : W64) (test : Nat) : State :=
  let die := rbits u 55 52
  if rbits u 63 56 = 1 then
    match coreOfSite s die (rbits u 51 40) with
    | some c => if test = 3 then freeCrates s (scratchBase c / 4096) 1536 else freeBench s c
    | none => s
  else if rbits u 63 56 = 7 then freeCrates s (sliceBase (die * 32 + rbits u 51 40) / 4096) 2048
  else s

/-! ### Repairs and swaps (01/R29, R30, 08/R256) -/

/-- Class of a site in the fuses: 0 active, 1 spare, 2 disabled. -/
def siteClass (s : State) (die site : Nat) : Nat := tget 0 s.fuse.f.siteClass (die * 136 + site)
def siteUnit (die site : Nat) : W64 := unitW 1 die site 0

/-- A healthy site that no index is bound to and no test occupies. -/
def siteFree (s : State) (die site : Nat) : Bool :=
  let r := getUnit s (siteUnit die site)
  siteClass s die site != 2 && (coreOfSite s die site).isNone && r.standing == 0 && !r.fenced && r.running.isEmpty

/-- The lowest-numbered healthy spare site of a die. -/
def spareSite (s : State) (die : Nat) : Option Nat := (List.range 136).find? (siteFree s die)

/-- Field repair record: die, index, retired site, replacing site (08/R263). -/
def logRepair (s : State) (die index old new : Nat) : State :=
  logRec s 0x31 0 (siteUnit die old)
    (ldata ([BitVec.ofNat 8 die, BitVec.ofNat 8 index, BitVec.ofNat 8 old, BitVec.ofNat 8 new] ++ List.replicate 4 0#8
      ++ Word.toLe 8 (getUnit s (siteUnit die old)).lastSeq))

/-- Live repair of a retired site (01/R29, R30). -/
def repairCore (s : State) (core : Nat) : State :=
  let e := mapEntry s core
  match spareSite s (core / 128) with
  | some n =>
    let s := logRepair s (core / 128) (core % 128) e.site n
    { s with coreMap := tset {} s.coreMap core { e with site := n, source := 2, repairs := min 255 (e.repairs + 1) } }
  | none =>
    let s := logRepair s (core / 128) (core % 128) e.site 0xFF
    { s with coreMap := tset {} s.coreMap core { e with avail := false } }

/-- A swap is in progress on a die: a site that no index is bound to is under test by route 2. -/
def swapping (s : State) (die : Nat) : Bool :=
  (List.range 136).any fun i => (coreOfSite s die i).isNone && (getUnit s (siteUnit die i)).running.any (fun t => t.2 == 2)

/-- The tests due on a unit that run when it is unbound. -/
def startAll (s : State) (u : W64) (route : Nat) : State :=
  (getUnit s u).due.foldl (fun s d => startTest s u d.1 route) s

/-- The due non-destructive tests of a unit that fit a budget in µs, most overdue first. -/
def fitTests : Nat → List (Nat × Nat × Nat) → List (Nat × Nat × Nat)
  | _, [] => []
  | b, d :: t =>
    if destructive d.1 then fitTests b t
    else if testDuration d.1 ≤ b then d :: fitTests (b - testDuration d.1) t
    else fitTests b t

/-- A test is overdue by more than twice its interval, a quarter of it on a watched unit; a demanded one counts so. -/
def overdue (s : State) (r : UnitRec) (d : Nat × Nat × Nat) : Bool :=
  let i := testInterval d.1 / (if r.standing = 1 then 4 else 1)
  d.2.1 == 4 || decide (d.2.2 + 2 * i < poweredTicks s)

/-- Swap a core site for a spare and test it off-line (08/R256). -/
def swapCore (s : State) (core budget : Nat) : State :=
  let die := core / 128
  let u := coreUnit s core
  let e := mapEntry s core
  if swapping s die then s
  else match spareSite s die with
  | some n =>
    let s := { s with coreMap := tset {} s.coreMap core { e with site := n, source := 2 } }
    startAll (raiseUnit s 0xFA noCtx u 0 (some die)) u 2
  | none =>
    let r := getUnit s u
    let s := raiseUnit s 0xFC noCtx u 0 (some die)
    -- an overdue non-destructive test runs whatever the budget
    let now := r.due.filter (fun d => !destructive d.1 && (overdue s r d || (fitTests budget r.due).contains d))
    now.foldl (fun s d => startTest s u d.1 (if d.2.1 = 4 then 4 else 1)) s

/-- The boundary of one core: repairs, swaps, then the due tests within the budget (08/R254-R256, 01/R29). -/
def coreBoundary (budget : Nat) (s : State) (core : Nat) : State :=
  if !coreAvail s core then s
  else
    let u := coreUnit s core
    let r := getUnit s u
    if r.standing = 2 then repairCore s core
    else if r.fenced || r.due.any (overdue s r) then swapCore s core budget
    else (fitTests budget r.due).foldl (fun s d => startTest s u d.1 1) s

/-- The cores of a list have tests under way. DEDUCED: log entry 48. -/
def testsRunning (s : State) (cores : List Nat) : Bool := cores.any (fun c => !(getUnit s (coreUnit s c)).running.isEmpty)

/-! ### FIELD_TEST, FIELD_TEST_DUE, FIELD_TEST_RESULT (08/R253-R258) -/

/-- A test falls due: it starts at once on a unit that is not bound, else it waits for a boundary. DEDUCED: log entry 48.
-/
def testDue (s : State) (u : W64) (test route : Nat) : State :=
  let s := addDue s u test route
  if unitBound s u test then s else startTest s u test route

/-- FIELD_TEST_DUE: a scheduled test. -/
def execFieldTestDue (u : W64) (test : Nat) (s : State) : Res :=
  .next (if unitExists u test then testDue s u test 0 else s)

/-- FIELD_TEST: demanded by the host; its command ends with the result. DEDUCED: log entry 48. -/
def fieldTest (s : State) (slot : Nat) : State :=
  match begun s slot 0x0701 with
  | none => s
  | some c =>
    if c.aux ≠ 0 then s
    else
      let u := BitVec.ofNat 64 (Pkt.p0 c.packet)
      let test := Pkt.p1 c.packet % 256
      if !unitExists u test then refuseCmd s slot 0x03
      else testDue (modCmd s slot (fun c => { c with aux := 1 })) u test 4

def execFieldTest (slot : Nat) (s : State) : Res := .next (fieldTest s slot)

/-- A failed test (08/R258): watched and fenced, or retired when the same test failed in an earlier power cycle. -/
def testFailed (s : State) (u : W64) (test : Nat) : State :=
  let r := getUnit s u
  let boot := s.ledger.boot
  let s := modUnit s u (fun r => { r with testFail := satAdd 32 r.testFail 1, lastFailBoot := boot
                                          failed := r.failed ++ [(test, boot)], passes := 0 })
  let s := raiseUnit s 0xE6 noCtx u test (unitDie u)
  if r.standing = 2 then s
  else if r.standing = 1 && r.failed.any (fun x => x.1 == test && x.2 != boot) then setStanding s u 2 r.fenced
  else setStanding s u 1 true

/-- A passed test: a scheduled pass of a watched unit counts towards its recovery. -/
def testPassed (s : State) (u : W64) (route : Nat) : State :=
  modUnit s u fun r => { r with testPass := satAdd 32 r.testPass 1
                                passes := if r.standing = 1 && route < 3 then r.passes + 1 else r.passes }

/-- The demanded test's command, if one waits for this result. -/
def fieldTestCmd (s : State) (u : W64) (test : Nat) : Option Cmd :=
  s.cmds.find? (fun c => c.phase == 1 && c.aux == 1 && Pkt.opcode c.packet == 0x0701
    && BitVec.ofNat 64 (Pkt.p0 c.packet) == u && Pkt.p1 c.packet % 256 == test)

/-- The data of a field test record (08/R263). -/
def testData (test result route dur : Nat) (detail : List Byte) : List Byte :=
  ldata ([BitVec.ofNat 8 test, BitVec.ofNat 8 result, BitVec.ofNat 8 route, 0#8] ++ Word.toLe 4 dur
    ++ (detail ++ List.replicate 16 0#8).take 16)

/-- FIELD_TEST_RESULT: result 0 pass, 1 fail, 2 aborted, as the unit's test gave it. -/
def fieldTestResult (s : State) (u : W64) (test result dur : Nat) (detail : List Byte) : State :=
  match (getUnit s u).running.find? (fun t => t.1 == test) with
  | none => s
  | some (_, route) =>
    let s := modUnit s u (fun r => { r with running := r.running.filter (fun t => t.1 != test) })
    let s := testLeaves s u test
    let s := logRec s 0x20 (if result = 1 then 0xE6 else 0) u (testData test result route dur detail)
    let s := if result = 0 then testPassed s u route else if result = 1 then testFailed s u test else s
    -- a site that is not bound is replaced at once; a retired one at once when nothing binds it
    let s := match coreOfSite s (rbits u 55 52) (rbits u 51 40) with
      | some c => if rbits u 63 56 = 1 && result == 1 && !siteBound s (rbits u 55 52) (rbits u 51 40)
          then coreBoundary 0 s c else s
      | none => s
    match fieldTestCmd s u test with
    | some c => endCmd s c.slot { result }
    | none => s

def execFieldTestResult (u : W64) (test result dur : Nat) (detail : List Byte) (s : State) : Res :=
  .next (fieldTestResult s u test (min result 2) dur detail)

/-- STANDING_RECOVERY: a watched unit with 16 scheduled passes and 30 days without a counted event (08/R258). -/
def standingRecovery (s : State) (u : W64) : State :=
  let r := getUnit s u
  if r.standing = 1 && !r.fenced && decide (16 ≤ r.passes)
      && r.counted.all (fun c => decide (c.1 + 30 * 8640000000000 ≤ poweredTicks s)) then setStanding s u 0 false
  else s

def execStandingRecovery (u : W64) (s : State) : Res := .next (standingRecovery s u)

/-! ### Counter mirrors (08/R264, R265) -/

/-- Mirror one counter: its increment since the last time, to a record and, for a corrected-error counter, to the
unit's totals. The spec gives counters no identifier: it is a free value, one for each counter. -/
def mirrorCounter (s : State) (id : Nat) (u : W64) (value : Nat) (corrected : Bool) : State :=
  let inc := value - tget 0 s.ledger.mirrored id
  if inc = 0 then s
  else
    let s := { s with ledger := { s.ledger with mirrored := tset 0 s.ledger.mirrored id value } }
    let name := (Config.free (2 ^ 64 + id)).toNat % 2 ^ 16
    let s := logRec s 0x40 0 u (ldata (Word.toLe 2 name ++ List.replicate 6 0#8 ++ Word.toLe 8 inc))
    if corrected then modUnit s u (fun r => { r with corrected := r.corrected + inc }) else s

/-- The counters of the memory channels and cores (07/R232, 04/R127). -/
def mirrorAll (s : State) : State :=
  let s := s.mem.chans.foldl (fun s c =>
    let u := unitW 5 (channelDie c.1) (if c.1 < 512 then c.1 % 64 else 64 + (c.1 - 512) % 16) 0
    mirrorCounter (mirrorCounter s c.1 u c.2.corrected true) (2 ^ 20 + c.1) u c.2.uncorrected false) s
  s.cores.foldl (fun s c => mirrorCounter s (2 ^ 21 + c.1) (coreUnit s c.1) c.2.weighMismatch false) s

/-! ### The ledger's flash and bank (08/R266-R271) -/

/-- Bytes of a record (08/R261). -/
def recBytes (r : LedgerRec) : List Byte :=
  let b := Word.toLe 2 r.kind ++ Word.toLe 1 1 ++ Word.toLe 1 r.reason ++ Word.toLe 4 r.boot ++ Word.toLe 8 r.seq
    ++ Word.toLe 8 r.time.toNat ++ Word.toLe 8 r.unit.toNat ++ r.data
  b ++ Word.toLe 4 ((Crc.crc64 b).toNat % 2 ^ 32)

/-- The 64 bytes of a unit's totals entry (08/R265). -/
def totalsBytes (u : W64) (r : UnitRec) : List Byte :=
  let b := Word.toLe 8 u.toNat ++ Word.toLe 1 r.standing ++ Word.toLe 1 (Word.b2n r.fenced) ++ Word.toLe 2 0
    ++ Word.toLe 4 r.lastFailBoot ++ Word.toLe 8 r.corrected ++ Word.toLe 4 r.uncorrectable ++ Word.toLe 4 r.weigh
    ++ Word.toLe 4 r.checkFail ++ Word.toLe 4 r.testPass ++ Word.toLe 4 r.testFail ++ Word.toLe 4 r.schedBroken
    ++ Word.toLe 8 r.lastSeq ++ Word.toLe 4 0
  b ++ Word.toLe 4 ((Crc.crc64 b).toNat % 2 ^ 32)

/-- LEDGER_PAGE_PROGRAM: the write buffer is programmed (08/R268). -/
def ledgerPageProgram (s : State) : State :=
  if s.ledger.mode = 1 then { s with ledger := { s.ledger with buffered := 0 } } else s

def execLedgerPageProgram (s : State) : Res := .next (ledgerPageProgram s)

/-- HOLDUP_STATE_CHANGE: to a state of 08/R267; faulty is left only at the next power-up. -/
def holdupStateChange (s : State) (state charge : Nat) : State :=
  let l := s.ledger
  if 4 < state ∨ l.bank = 3 ∨ state = l.bank then s
  else
    let flush := l.bank = 2
    let s := { s with ledger := { l with bank := state, charge := min charge 100, faultSeen := l.faultSeen || state == 3
                                         buffered := if flush && l.mode == 1 then 0 else l.buffered
                                         mode := if l.mode = 1 ∨ l.mode = 2 then (if state = 2 then 1 else 2) else l.mode
                                         reason := if state = 0 ∨ state = 3 then 0xF6 else l.reason }
                      mgmt := { s.mgmt with alert := if l.mode = 1 ∧ state ≠ 2 then Nat.lor s.mgmt.alert 8 else s.mgmt.alert } }
    let s := logRec s 0x50 0 (unitW 0x0B 8 0 0) (ldata [BitVec.ofNat 8 l.bank, BitVec.ofNat 8 state])
    if state = 0 ∨ state = 3 then raiseUnit s 0xF6 noCtx (unitW 0x0B 8 0 0) 0 none true else s

def execHoldupStateChange (state charge : Nat) (s : State) : Res := .next (holdupStateChange s state charge)

/-- LEDGER_FLASH_FAIL (08/R269). -/
def ledgerFlashFail (s : State) : State :=
  let l := s.ledger
  let saved := match l.saved with | some x => some x | none => some (l.units, l.seq - BitVec.ofNat 64 l.buffered)
  let s := { s with ledger := { l with mode := 3, reason := 0xFB, saved }
                    mgmt := { s.mgmt with alert := if l.mode = 1 then Nat.lor s.mgmt.alert 8 else s.mgmt.alert } }
  raiseUnit s 0xFB noCtx (unitW 0x0C 8 0 0) 0

def execLedgerFlashFail (s : State) : Res := .next (ledgerFlashFail s)

/-- The records from a sequence number on, at most `n`. -/
def recordsFrom (s : State) (seq n : Nat) : List LedgerRec :=
  (s.ledger.records.filter (fun r => decide (seq ≤ r.seq))).take n

/-- LEDGER_READ. -/
def ledgerRead (s : State) (slot : Nat) : State :=
  match begun s slot 0x0603 with
  | none => s
  | some c =>
    let rs := recordsFrom s (Pkt.p1 c.packet) (pktCrates c.packet)
    endCmd (hostWrite s (Pkt.p0 c.packet) (rs.flatMap recBytes)) slot { result := rs.length }

def execLedgerRead (slot : Nat) (s : State) : Res := .next (ledgerRead s slot)

end Sys2Proof.Machine
end

