-- ==== Sys2Proof/Machine/Event.lean ====
section
/-!
DEFINITION. The event controller (chapter 17): writing records, the processors' interrupts, host rings, pins.
-/
namespace Sys2Proof.Machine

/-! ### Records (17/R521, R522, R525, R528-R530) -/

/-- The 32 bytes of a record. -/
def eventBytes (seq : Nat) (e : Event) : List Byte :=
  Word.toLe 2 seq ++ Word.toLe 1 e.kind ++ Word.toLe 1 e.reason ++ Word.toLe 1 e.ctx
    ++ Word.toLe 1 (e.prio * 16 + 2 * Word.b2n e.standing) ++ Word.toLe 2 e.gen
    ++ (e.body ++ List.replicate 24 0#8).take 24

/-- The Overflow record of a ring (17/R530). -/
def overflowEvent (r : Ring) : Event :=
  let bound := rbit r.cfg 62
  { kind := 0x0F, reason := 0, ctx := if bound then rbits r.cfg 55 48 else 255, gen := if bound then r.gen else 0
    prio := 15, time := r.lostFirst
    body := Word.toLe 8 r.lostFirst.toNat ++ Word.toLe 4 r.lostNow ++ Word.toLe 4 0 ++ Word.toLe 8 r.lostLast.toNat }

/-- `a` goes before `b`, which was raised earlier or at the same time: higher priority, then a lower UNIT at one time. -/
def eventBefore (a b : Event) : Bool :=
  decide (b.prio < a.prio) || (a.prio == b.prio && a.time == b.time && decide (a.unit.toNat < b.unit.toNat))

/-- The event the controller selects among those that may be written (17/R525), with the rest. -/
def selectEvent (ok : Event → Bool) : List Event → Option (Event × List Event)
  | [] => none
  | e :: t =>
    match selectEvent ok t with
    | none => if ok e then some (e, t) else none
    | some (x, rest) => if ok e && !eventBefore x e then some (e, t) else some (x, e :: rest)

/-- Signal the vector of an armed, non-empty host ring once (17/R529). -/
def ringSignal (s : State) (n : Nat) : State :=
  let r := getRing s n
  if 9 ≤ n && ringEnabled r && r.armed && r.head != r.tail then
    modRing (signalMsix s (rbits r.cfg 21 16)) n (fun r => { r with armed := false })
  else s

/-- The interrupt of a processor is asserted while a fresh record exceeds its running priority (17/R526). -/
def Proc.assertNow (x : Proc) : Proc := { x with asserted := x.fresh.any x.below }

/-- Write one record into a ring at TAIL. -/
def writeEvent (s : State) (n : Nat) (e : Event) : State :=
  let r := getRing s n
  let bytes := eventBytes r.nextSeq e
  let tail := (r.tail + 1) % ringSize r
  let s := if 9 ≤ n then hostWrite s (r.base.toNat + 32 * r.tail) bytes else s
  let s := modRing s n fun r =>
    { r with tail, nextSeq := (r.nextSeq + 1) % 2 ^ 16, count := r.count + 1#64
             records := if n < 9 then r.records ++ [bytes] else r.records }
  if 9 ≤ n then ringSignal s n
  else modProc s n (fun x => { x with fresh := x.fresh ++ [e.prio] }.assertNow)

/-- EVENT_RECORD_WRITE: the event that R525 selects; the Overflow record once the held ones are written (17/R530). -/
def eventRecordWrite (s : State) (n : Nat) : State :=
  let r := getRing s n
  if 64 ≤ n || !ringEnabled r || ringBlocked s n then s
  else match selectEvent (fun e => !eventHeld s n e) r.pend with
  | some (e, rest) => writeEvent (modRing s n (fun r => { r with pend := rest })) n e
  | none =>
    if r.pend = [] ∧ r.lostNow ≠ 0 then
      let s := modRing s n (fun r => { r with pend := r.later, later := [], lostNow := 0 })
      writeEvent s n (overflowEvent r)
    else s

def execEventRecordWrite (n : Nat) (s : State) : Res := .next (eventRecordWrite s n)

/-! ### The processors (17/R526, R527) -/

/-- INTERRUPT_TAKE: the highest fresh priority is pushed; the processor reads its ring's records. DEDUCED: log entry 25.
-/
def interruptTake (s : State) (q : Nat) : State :=
  let x := getProc s q
  if 9 ≤ q || !x.asserted then s
  else
    let p := (x.fresh.filter x.below).foldl max 0
    let s := modProc s q (fun x => { x with stack := Nat.lor x.stack (2 ^ p), fresh := [] }.assertNow)
    modRing s q (fun r => { r with head := r.tail, records := [] })

def execInterruptTake (q : Nat) (s : State) : Res := .next (interruptTake s q)

/-- The highest set bit of a stack. -/
def topPrio (stack : Nat) : Nat := Nat.log2 stack

/-- EVT_EOI: a write with POP by the processor itself; `own` says whose write it is (17/R527). -/
def evtEoi (s : State) (q : Nat) (own : Bool) (v : W64) : State :=
  if 9 ≤ q || !own || !rbit v 0 then s
  else modProc s q fun x =>
    if x.stack = 0 then { x with eoiErr := true }
    else { x with stack := x.stack - 2 ^ topPrio x.stack }.assertNow

def execEvtEoi (q : Nat) (own : Bool) (v : W64) (s : State) : Res := .next (evtEoi s q own v)

/-! ### Host rings (17/R529, R531, R538, R539) -/

/-- The RW bits of EVT_RING_CFG. -/
def ringMask : W64 := BitVec.ofNat 64 (3 * 2 ^ 62 + 0xFFF * 2 ^ 48 + 0x3F * 2 ^ 16)

/-- Another enabled ring is bound to a context. -/
def ringBoundElse (s : State) (n ctx : Nat) : Bool :=
  s.events.rings.any fun y => y.1 != n && ringEnabled y.2 && rbit y.2.cfg 62 && rbits y.2.cfg 55 48 == ctx

/-- The first condition that refuses a ring enable (17/R531). -/
def ringRefusal (s : State) (n : Nat) (r : Ring) : Option Nat :=
  let lg := rbits r.cfg 59 56
  let ctx := rbits r.cfg 55 48
  if !s.pcie.busMaster then some 0x08
  else if lg < 4 ∨ 15 < lg ∨ r.base = 0#64 then some 0x06
  else if !msixEnabled s (rbits r.cfg 21 16) then some 0x1B
  else if rbit r.cfg 62 && n == 9 then some 0x06
  else if rbit r.cfg 62 && (getCtx s ctx).state != 2 then some 0x20
  else if rbit r.cfg 62 && ringBoundElse s n ctx then some 0x06
  else none

/-- Events held for a ring that is disabled are lost (17/R530, R531). -/
def loseHeld (r : Ring) : Ring := (r.pend ++ r.later).foldl (fun r e => ringLose r e.time) { r with pend := [], later := [] }

/-- A write of EVT_RING_CFG of a host ring. -/
def writeRingCfg (s : State) (n : Nat) (v : W64) : State :=
  let r := getRing s n
  let cfg := v &&& ringMask
  if n < 9 ∨ 64 ≤ n then s
  else if ringEnabled r then
    if rset r.cfg 63 63 0 ≠ rset cfg 63 63 0 then modRing s n (fun r => { r with reason := 0x1D })
    else if rbit v 63 then s
    else modRing s n (fun r => loseHeld { r with cfg })
  else if !rbit v 63 then modRing s n (fun r => { r with cfg })
  else match ringRefusal s n { r with cfg } with
    | some x => modRing s n (fun r => { r with cfg := rset cfg 63 63 0, reason := x })
    | none => modRing s n (fun r =>
        { r with cfg, head := 0, tail := 0, nextSeq := 0, armed := true
                 gen := if rbit cfg 62 then (getCtx s (rbits cfg 55 48)).gen else r.gen })

/-- EVT_RING_ENABLE and EVT_RING_DISABLE: writes of the register with ENABLE 1 or 0. -/
def execEvtRingEnable (n : Nat) (v : W64) (s : State) : Res := fromHost s (if rbit v 63 then writeRingCfg s n v else s)
def execEvtRingDisable (n : Nat) (v : W64) (s : State) : Res := fromHost s (if rbit v 63 then s else writeRingCfg s n v)

/-- EVT_RING_HEAD (17/R529). -/
def evtRingHead (s : State) (n v : Nat) : State :=
  let r := getRing s n
  if n < 9 ∨ 64 ≤ n then s
  else if !ringEnabled r then modRing s n (fun r => { r with reason := 0x04 })
  else if ringSize r ≤ v ∨ (r.tail + ringSize r - r.head) % ringSize r < (v + ringSize r - r.head) % ringSize r then
    modRing s n (fun r => { r with reason := 0x05 })
  else ringSignal (modRing s n (fun r => { r with head := v, armed := true })) n

def execEvtRingHead (n : Nat) (v : BitVec 16) (s : State) : Res := fromHost s (evtRingHead s n v.toNat)

/-- OVERFLOW_CLEAR: a write of 1 to OVERFLOW, bit 10 (17/R539). -/
def overflowClear (s : State) (n : Nat) (v : W64) : State :=
  if rbit v 10 && 9 ≤ n && n < 64 then modRing s n (fun r => { r with overflow := false }) else s

def execOverflowClear (n : Nat) (v : W64) (s : State) : Res := fromHost s (overflowClear s n v)

/-- The bindings of a context end; its rings stay enabled (17/R532). -/
def unbindRings (s : State) (ctx : Nat) : State :=
  { s with events := { s.events with rings := s.events.rings.map (fun y =>
      if rbit y.2.cfg 62 && rbits y.2.cfg 55 48 == ctx then (y.1, { y.2 with cfg := rset y.2.cfg 62 62 0 }) else y) } }

/-! ### Pins (17/R518-R520, R534, R535) -/

def getPin (s : State) (p : Nat) : Pin := s.events.pins.getD p {}
def setPin (s : State) (p : Nat) (x : Pin) : State := { s with events := { s.events with pins := lset s.events.pins p x } }

/-- Event 0xA1 with its source and sensor index, and its alert (18/R556, 19/R585). -/
def raiseHeat (s : State) (source index : Nat) : State :=
  raiseUnit { s with mgmt := { s.mgmt with alert := Nat.lor s.mgmt.alert 16 } } 0xA1 noCtx (unitW 0x0C 8 0 0) (source + index * 2 ^ 16)

/-- Firmware's response to the power and cooling pins (18/R557). -/
def pinResponse (s : State) (p : Nat) : State :=
  match p with
  | 0 => raiseUnit (ledgerPageProgram s) 0xA3 noCtx (unitW 0x0C 8 0 0) 1
  | 1 => raiseHeat { s with pwr := { s.pwr with thermLimit := 3, coolantHeld := true } } 2 0
  | 2 => raiseHeat { s with pwr := { s.pwr with thermLimit := 3, thermCap := 2000, leakHeld := true, leakClear := none } } 3 0
  | _ => s

/-- Raise the event of a pin: to the steward's ring, and to the host where the pin's route allows it (17/R524). DEDUCED:
log entry 25. -/
def raisePin (s : State) (p : Nat) : State :=
  let x := getPin s p
  let e : Event :=
    { kind := 6, reason := 0, prio := rbits x.cfg 59 56, time := s.time
      body := Word.toLe 8 s.time.toNat ++ Word.toLe 1 p ++ Word.toLe 1 (rbits x.cfg 49 48) ++ Word.toLe 1 (Word.b2n x.level)
        ++ Word.toLe 1 0 ++ Word.toLe 4 (min (x.edges + 1) (2 ^ 32 - 1)) }
  let s := deliver (setPin s p { x with edges := 0 }) 0 e
  let s := if rbit x.cfg 63 then deliver s 9 e else s
  if x.level then s else pinResponse s p

/-- A level or edge that its sense takes note of (17/R518, R520). -/
def pinQualifies (sense : Nat) (level : Bool) : Bool :=
  match sense with | 0 => !level | 1 => level | 2 => !level | _ => true

/-- PIN_CHANGE: a change of a pin's filtered level. Pins are not sampled in the assertion phase; before ready a pin only
has its level (17/R520). -/
def pinChange (s : State) (p : Nat) (level : Bool) : State :=
  let x := getPin s p
  if 8 ≤ p || x.level == level || s.boot.phase == 0 then s
  else if s.boot.phase ≠ 6 then setPin s p { x with level }
  else if pinQualifies (rbits x.cfg 49 48) level then
    if x.pending then setPin s p { x with level, edges := min (x.edges + 1) (2 ^ 32 - 1) }
    else raisePin (setPin s p { x with level, pending := true }) p
  else setPin s p { x with level }

def execPinChange (p : Nat) (level : Bool) (s : State) : Res := .next (pinChange s p level)

/-- PENDING_CLEAR: writes of 1 to PENDING bits (17/R520, R535). -/
def pendingClear (s : State) (v : W64) : State :=
  { s with events := { s.events with pins := s.events.pins.zipIdx.map (fun (x, p) =>
      if rbit v p && (rbits x.cfg 49 48 != 0 || x.level) then { x with pending := false } else x) } }

def execPendingClear (v : W64) (s : State) : Res := fromHost s (pendingClear s v)

/-- Pins that are low when the module reaches ready raise their events then (17/R520). -/
def lowPins (s : State) : State :=
  (List.range 8).foldl (fun s p =>
    let x := getPin s p
    if pinQualifies (rbits x.cfg 49 48) false && !x.level && !x.pending then raisePin (setPin s p { x with pending := true }) p else s) s

end Sys2Proof.Machine
end

