-- ==== Sys2Proof/Machine/Fabric.lean ====
section
/-!
DEFINITION. The fabric's links and sessions (11/R348-R375): ports, flits and frames, virtual lanes and credits, routes,
sessions, bindings, and the sending of frames.
-/
namespace Sys2Proof.Machine

/-! ### Ports (11/R348-R352) -/

def modFab (s : State) (f : Fab → Fab) : State := { s with fab := f s.fab }
def getPort (s : State) (p : Nat) : Port := tget {} s.fab.ports p
def modPort (s : State) (p : Nat) (f : Port → Port) : State :=
  modFab s (fun x => { x with ports := tmod {} x.ports p f })

/-- The grade does not power the port (00/R5). -/
def portOff (s : State) (p : Nat) : Bool := gradeH s && decide (32 ≤ p) && p % 2 == 1
/-- The die of a port (11/R386). -/
def portDie (p : Nat) : Nat := p / 6
/-- The UNIT of a port and of one of its lanes (08/R262). -/
def portUnit (p : Nat) : W64 := unitW 9 (p / 6) (p % 6) 0
def portLaneUnit (p lane : Nat) : W64 := unitW 10 (p / 6) (p % 6) lane
def portEnabled (x : Port) : Bool := rbit x.cfg 63
def portUp (s : State) (p : Nat) : Bool := (getPort s p).state == 2

/-- The chip number of this module, and the fields of a chip number (11/R363). -/
def ownChip (s : State) : Nat := s.fab.chip.getD 0
def chipStall (c : Nat) : Nat := c % 32
def chipSquare (c : Nat) : Nat := c / 32 % 16
def chipDistrict (c : Nat) : Nat := c / 512 % 64

/-- The far stall and far port of square port `p` of stall `st` (11/R349). -/
def farStallOf (st p : Nat) : Nat := (st + (p % 16 + 1)) % 17
def farPortOf (p : Nat) : Nat := p / 16 * 16 + (15 - p % 16)

/-- The two direct square ports to a stall (11/R349). -/
def directPorts (st far : Nat) : List Nat :=
  let o := (far + 17 - st) % 17
  if o = 0 then [] else [o - 1, 16 + (o - 1)]

/-! ### Frames (11/R358-R360) -/

/-- The defined frame types (11/R359). -/
def frameKnown (t : Nat) : Bool := (decide (1 ≤ t) && decide (t ≤ 12)) || (decide (16 ≤ t) && decide (t ≤ 22))
/-- A sequenced type. -/
def frameSeq (t : Nat) : Bool := decide (t < 16)
/-- Length in words. -/
def frameWords (f : Frame) : Nat := if f.data = [] then 1 else 65
/-- The virtual lane a frame travels on (11/R360). -/
def frameLane (f : Frame) : Nat := if frameSeq f.typ then f.hops else 4 + f.hops

/-- The bytes of a frame (11/R358). -/
def frameBytes (f : Frame) : List Byte :=
  Word.toLe 1 f.typ ++ Word.toLe 1 (Word.b2n f.last * 128 + f.hops % 8) ++ Word.toLe 2 (frameWords f)
    ++ Word.toLe 2 (f.dst % 2 ^ 15) ++ Word.toLe 2 (f.src % 2 ^ 15) ++ Word.toLe 2 f.sid ++ Word.toLe 1 (f.ch % 4)
    ++ Word.toLe 1 f.dctx ++ Word.toLe 2 f.dgen ++ Word.toLe 2 0 ++ Word.toLe 4 f.seq ++ Word.toLe 4 f.opid
    ++ Word.toLe 8 f.addr ++ Word.toLe 8 f.aux ++ Word.toLe 4 f.index ++ Word.toLe 4 0
    ++ (if f.data = [] then List.replicate 16 0#8 else f.data)

/-- The frame that bytes spell (11/R358); `words` is its LENGTH. DEDUCED: log entry 20. -/
def frameOf (b : List Byte) (words : Nat) : Frame :=
  { typ := leAt b 0 1, last := Word.bitOf (leAt b 1 1) 7, hops := leAt b 1 1 % 8, dst := leAt b 4 2 % 2 ^ 15
    src := leAt b 6 2 % 2 ^ 15, sid := leAt b 8 2, ch := leAt b 0xA 1 % 4, dctx := leAt b 0xB 1, dgen := leAt b 0xC 2
    seq := leAt b 0x10 4, opid := leAt b 0x14 4, addr := leAt b 0x18 8, aux := leAt b 0x20 8, index := leAt b 0x28 4
    data := if words = 65 then (b.drop 48).take 4112 else [] }

/-- Tag and payload of a crate frame. -/
def frameTag (f : Frame) : W128 := Tag.ofBytes (f.data.take 16)
def framePayload (f : Frame) : List Byte := f.data.drop 16
/-- The words of a crate in a frame. -/
def crateData (t : W128) (p : List Byte) : List Byte := Tag.bytes t ++ p

/-- Return the credits of a frame's words to the far end of the port it arrived on (11/R361, R362). -/
def freeWords (s : State) (p : Nat) (f : Frame) : State := emit s (.credits p (frameLane f) (frameWords f))

/-! ### FLIT_RECEIVE (11/R356, R357) -/

/-- Count a route fault of a port (11/R388). -/
def routeFault (s : State) (p : Nat) : State := modPort s p (fun x => { x with routeFaults := satAdd 16 x.routeFaults 1 })

/-- Put a frame into the send queue. -/
def enqueue (s : State) (i : Item) : State := modFab s (fun x => { x with sendq := x.sendq ++ [i] })

/-- Take in a received frame (11/R359, R360, R363): kept for processing when it is this module's, queued for relay, or
discarded. -/
def frameIn (s : State) (p : Nat) (f : Frame) : State :=
  if !frameKnown f.typ then freeWords (routeFault s p) p f
  else if f.typ = 0x15 ∨ f.typ = 0x16 then modPort s p (fun x => { x with rx := x.rx ++ [f] })
  else if s.fab.chip = none then freeWords s p f
  else if s.fab.chip = some f.dst then modPort s p (fun x => { x with rx := x.rx ++ [f] })
  else if 3 ≤ f.hops then freeWords (routeFault s p) p f
  else enqueue s { frame := { f with hops := f.hops + 1 }, relay := some { port := p, lane := frameLane f } }

/-- Cut whole frames from received bytes; what is left is an unfinished frame. A TYPE of 0 is fill: the rest of the
data area holds no frame (PRESUMED, log entry 40). -/
def cutFrames (p : Nat) : Nat → List Byte → State → State × List Byte × Bool
  | 0, b, s => (s, b, true)
  | fuel + 1, b, s =>
    if b.length < 64 then (s, b, true)
    else
      let n := leAt b 2 2
      if leAt b 0 1 = 0 ∨ (n ≠ 1 ∧ n ≠ 65) then (s, [], false)
      else if b.length < 64 * n then (s, b, true)
      else cutFrames p fuel (b.drop (64 * n)) (frameIn s p (frameOf b n))

/-- A flit is discarded with every frame it touched (11/R357). -/
def flitDrop (s : State) (p : Nat) : State :=
  emit (modPort s p (fun x => { x with flitFail := satAdd 16 x.flitFail 1, synced := false, partialFrame := []
                                       rxSeq := x.rxSeq.map (fun n => (n + 1) % 2 ^ 16) })) (.discarded p)

/-- FLIT_RECEIVE: `corr` symbols of the codeword were corrected, or none when it is uncorrectable; `b` are the 640 bytes
of the flit. PRESUMED: log entry 40. -/
def flitReceive (s : State) (p : Nat) (corr : Option Nat) (b : List Byte) : State :=
  let x := getPort s p
  if !x.trained || b.length != 640 then s
  else match corr with
  | none => flitDrop (modPort s p (fun x => { x with uncorrCw := satAdd 32 x.uncorrCw 1 })) p
  | some k =>
    if 15 < k then flitDrop (modPort s p (fun x => { x with uncorrCw := satAdd 32 x.uncorrCw 1 })) p
    else
      let s := modPort s p (fun x => { x with corrSymbols := satAdd 32 x.corrSymbols k })
      let fseq := leAt b 0 2
      if leAt b 632 8 ≠ (Crc.crc64 (b.take 632)).toNat then flitDrop s p
      else if (match x.rxSeq with | some n => n != fseq | none => false) then
        modPort (flitDrop s p) p (fun x => { x with rxSeq := some ((fseq + 1) % 2 ^ 16) })
      else
        let first := leAt b 6 2
        let lane := leAt b 4 2 / 2 ^ 12 % 8
        let cr := leAt b 4 2 % 2 ^ 12
        let area := (b.drop 8).take 624
        let buf := if x.synced then x.partialFrame ++ area else if first < 624 then area.drop first else []
        let s := modPort s p (fun x => { x with rxSeq := some ((fseq + 1) % 2 ^ 16)
                                                credits := lset x.credits lane (x.credits.getD lane 0 + cr) })
        let (s, rest, ok) := cutFrames p 80 buf s
        modPort s p (fun x => { x with partialFrame := rest, synced := ok && (x.synced || decide (first < 624)) })

def execFlitReceive (p : Nat) (corr : Option Nat) (b : List Byte) (s : State) : Res := .next (flitReceive s p corr b)

/-! ### Routes (11/R365) -/

/-- The candidate ports to a destination: the route entry, else the direct square ports; whether an entry names them.
DEDUCED: log entry 23. -/
def candidates (s : State) (dst : Nat) : List Nat × Bool :=
  let r := tget 0#64 s.fab.routes dst
  if rbit r 63 then ((List.range 48).filter (fun p => rbit r p), true)
  else
    let me := ownChip s
    if chipDistrict me = chipDistrict dst ∧ chipSquare me = chipSquare dst then
      (directPorts (chipStall me) (chipStall dst), false)
    else ([], false)

/-- The egress port of a frame (11/R351, R365): up ports ascending, of the sending context's partition at the source; a
miswired port carries a context's frames only where an entry names it (11/R382). DEDUCED: log entry 23. -/
def egress (s : State) (i : Item) : Option Nat :=
  match i.port with
  | some p => some p
  | none =>
    let (cand, named) := candidates s i.frame.dst
    let usable := cand.filter fun p => portUp s p && (match i.ctx with
      | some (c, _) => (getPart s (getCtx s c).part).dies.contains (portDie p) && (named || !(getPort s p).miswired)
      | none => true)
    if usable = [] then none else usable[i.frame.ch % usable.length]?

/-! ### Sessions (11/R367-R374) -/

def getSession (s : State) (n : Nat) : Option Session := tget none s.fab.sessions n
def setSession (s : State) (n : Nat) (x : Option Session) : State :=
  modFab s (fun f => { f with sessions := tset none f.sessions n x })
def modSession (s : State) (n : Nat) (g : Session → Session) : State := setSession s n ((getSession s n).map g)
/-- The entry of a peer. -/
def sessionOf (s : State) (peer : Nat) : Option Nat :=
  (s.fab.sessions.find? (fun e => match e.2 with | some x => x.peer == peer | none => false)).map (·.1)
def chanOf (x : Session) (c : Nat) : SChan := x.chans.getD c {}
def modChanOf (x : Session) (c : Nat) (g : SChan → SChan) : Session := { x with chans := lset x.chans c (g (chanOf x c)) }

/-- Unacknowledged frames of a session. -/
def sessUnacked (x : Session) : List Sent := x.chans.flatMap (·.unacked)
/-- Unacknowledged words (11/R391). -/
def unackedWords (x : Session) : Nat := ((sessUnacked x).map (fun u => frameWords u.frame)).foldl (· + ·) 0

/-- Bytes a port's replay buffer holds (11/R374). -/
def replayBytes (s : State) (p : Nat) : Nat :=
  (s.fab.sessions.map (fun e => match e.2 with
    | some x => (((sessUnacked x).filter (fun u => u.port == p)).map (fun u => 64 * frameWords u.frame)).foldl (· + ·) 0
    | none => 0)).foldl (· + ·) 0

/-- A free session entry: an unused one, else the one idle longest, idle for 100 ms at least and with nothing
unacknowledged (11/R368). -/
def freeSession (s : State) : Option Nat :=
  match (List.range 4096).find? (fun n => (getSession s n).isNone) with
  | some n => some n
  | none =>
    let idle := s.fab.sessions.filterMap fun e => match e.2 with
      | some x => if sessUnacked x = [] ∧ x.lastUse + 10000000 ≤ s.time.toNat
          ∧ !(s.fab.sendq.any (fun i => i.frame.dst == x.peer && i.relay.isNone)) then some (e.1, x.lastUse) else none
      | none => none
    idle.foldl (fun m e => match m with
      | none => some e
      | some y => if e.2 < y.2 then some e else m) (none : Option (Nat × Nat)) |>.map (·.1)

/-- A 32-bit slice of a free value. -/
def slice32 (v : BitVec 256) (i : Nat) : Nat := v.toNat / 2 ^ (32 * i) % 2 ^ 32

/-- An OPEN frame (11/R368): the four initial sequence numbers lie in SEQ, OPID, INDEX and AUX (DESIGN CHOICE, log entry 41). -/
def openFrame (s : State) (x : Session) : Frame :=
  { typ := 0x12, dst := x.peer, src := ownChip s, sid := x.sid, seq := (chanOf x 0).next, opid := (chanOf x 1).next
    index := (chanOf x 2).next, aux := (chanOf x 3).next }

/-- Open the transmit half of entry `n` with a fresh SID and sequence numbers (11/R368, log entry 6). -/
def openHalf (s : State) (n : Nat) : State :=
  let (v, s) := drawFree s
  let sid := slice32 v 4 % 65535 + 1
  let s := modSession s n fun x =>
    { x with state := 1, sid, retries := 0, opens := 1, lastUse := s.time.toNat
             chans := (List.range 4).map (fun c => { chanOf x c with next := slice32 v c, unacked := [] }) }
  match getSession s n with
  | some x => enqueue s { frame := openFrame s x }
  | none => s

/-- The session towards a peer, opened at the first use; none when every entry is in use (11/R368). -/
def useSession (s : State) (peer : Nat) : State × Option Nat :=
  match sessionOf s peer with
  | some n =>
    match getSession s n with
    | some x => if x.state = 1 ∨ x.state = 2 then (s, some n) else (openHalf s n, some n)
    | none => (s, none)
  | none => match freeSession s with
    | none => (s, none)
    | some n => (openHalf (setSession s n (some { peer })) n, some n)

/-! ### Bindings (11/R376) -/

def findBind (s : State) (ctx gen chip : Nat) : Option Binding :=
  s.fab.binds.find? (fun b => b.ctx == ctx && b.gen == gen && b.chip == chip)
def modBind (s : State) (ctx gen chip : Nat) (g : Binding → Binding) : State :=
  modFab s (fun x => { x with binds := x.binds.map (fun b => if b.ctx = ctx ∧ b.gen = gen ∧ b.chip = chip then g b else b) })

/-- Mark a session channel as used by a context (10/R341 step 6). -/
def markUsed (s : State) (ctx gen chip ch : Nat) : State :=
  modFab s (fun x => if x.used.contains (ctx, gen, chip, ch) then x else { x with used := x.used ++ [(ctx, gen, chip, ch)] })

/-- Ask for the binding of a context to a chip (11/R376): BIND with the job seed. -/
def askBind (s : State) (ctx gen chip ch : Nat) : State :=
  let s := modFab s (fun x => { x with binds := x.binds ++ [{ ctx, gen, chip, opid := x.nextOp }], nextOp := (x.nextOp + 1) % 2 ^ 32 })
  let s := markUsed s ctx gen chip ch
  enqueue s { ctx := some (ctx, gen)
              frame := { typ := 0x0B, dst := chip, src := ownChip s, ch, aux := (getCtx s ctx).seed.toNat
                         index := gen * 65536 + ctx, opid := (2 ^ 32 - 1 + s.fab.nextOp) % 2 ^ 32, last := true } }

/-- Hand over a sequenced frame of a context: into the send queue when the binding is known, into the binding queue
while it is asked for. The reason when the transfer fails at once: no chip number (0x6A), a full session or binding
table (0x61), a dead binding (0x63). -/
def sendCtx (s : State) (ctx gen : Nat) (op : Option Nat) (f : Frame) : State × Option Nat :=
  if s.fab.chip = none then (s, some 0x6A)
  else
    let f := { f with src := ownChip s }
    match findBind s ctx gen f.dst with
    | some b =>
      if b.state = 2 then (s, some 0x63)
      else match useSession s f.dst with
        | (s, none) => (s, some 0x61)
        | (s, some _) =>
          let s := markUsed s ctx gen f.dst f.ch
          if b.state = 1 then (enqueue s { frame := { f with dctx := b.dctx, dgen := b.dgen }, ctx := some (ctx, gen), op }, none)
          else (modFab s (fun x => { x with bindq := x.bindq ++ [{ frame := f, ctx := some (ctx, gen), op }] }), none)
    | none =>
      if 16384 ≤ s.fab.binds.length then (s, some 0x61)
      else match useSession s f.dst with
        | (s, none) => (s, some 0x61)
        | (s, some _) =>
          let s := askBind s ctx gen f.dst f.ch
          (modFab s (fun x => { x with bindq := x.bindq ++ [{ frame := f, ctx := some (ctx, gen), op }] }), none)

/-- A sequenced reply of the module itself, which no context of this module owns (11/R378). -/
def sendReply (s : State) (f : Frame) : State :=
  match useSession s f.dst with
  | (s, none) => s
  | (s, some _) => enqueue s { frame := { f with src := ownChip s } }

/-! ### FRAME_SEND (11/R360, R361, R365, R371, R374) -/

/-- An own sequenced frame goes behind every earlier one of its destination and channel. DEDUCED: log entry 23. -/
def behind (i : Item) (earlier : List Item) : Bool :=
  i.relay.isNone && frameSeq i.frame.typ &&
    earlier.any (fun e => e.relay.isNone && frameSeq e.frame.typ && e.frame.dst == i.frame.dst && e.frame.ch == i.frame.ch)

/-- The first frame of a virtual lane that may go through port `p` now, with its place in the queue; a frame with no
usable port also answers. DEDUCED: log entry 23. -/
def nextFrame (s : State) (p lane : Nat) : Nat → List Item → List Item → Option (Nat × Item)
  | _, _, [] => none
  | k, earlier, i :: t =>
    let ok := frameLane i.frame == lane && !behind i earlier
      && (match egress s i with | some q => q == p | none => i.port.isNone)
      && (!(i.relay.isNone && frameSeq i.frame.typ) || (match sessionOf s i.frame.dst with
          | some n => (match getSession s n with | some x => x.state == 2 | none => false)
          | none => false))
    if ok then some (k, i) else nextFrame s p lane (k + 1) (earlier ++ [i]) t

/-- The context of a frame of the replay buffer is torn down (11/R380). -/
def itemDead (s : State) (c : Option (Nat × Nat)) : Bool :=
  match c with
  | some (n, g) => (getCtx s n).gen != g || (getCtx s n).state != 2
  | none => false

/-- The VOID that stands in for a frame (11/R380). DESIGN CHOICE: log entry 42. -/
def voidOf (f : Frame) : Frame :=
  { typ := 0x07, last := f.last, dst := f.dst, src := f.src, sid := f.sid, ch := f.ch, dctx := f.dctx, dgen := f.dgen
    seq := f.seq, opid := f.opid, addr := f.addr, aux := frameWords f + f.typ * 2 ^ 8, index := f.index }

/-- Give a frame its sequence number and put it into the replay buffer of a port (11/R371, R374). -/
def takeSeq (s : State) (n p : Nat) (i : Item) : State × Frame :=
  match getSession s n with
  | none => (s, i.frame)
  | some x =>
    let c := chanOf x i.frame.ch
    if i.resend then
      (modSession s n (fun x => modChanOf x i.frame.ch (fun c =>
        { c with unacked := c.unacked.map (fun u => if u.frame.seq = i.frame.seq then
            { u with frame := i.frame, port := p, time := s.time.toNat, again := true } else u) })), i.frame)
    else
      let f := { i.frame with sid := x.sid, seq := c.next }
      (modSession s n (fun x => { modChanOf x f.ch (fun c =>
        { c with next := (c.next + frameWords f) % 2 ^ 32
                 unacked := c.unacked ++ [{ frame := f, ctx := i.ctx, op := i.op, port := p, time := s.time.toNat }] })
          with lastUse := s.time.toNat }), f)

/-- FRAME_SEND: the first frame of lane `lane` that port `p` may carry leaves, once credits for all of its words are
held and the replay buffer has room; one with no usable port is discarded and counted (11/R365). -/
def frameSend (s : State) (p lane : Nat) : State :=
  match nextFrame s p lane 0 [] s.fab.sendq with
  | none => s
  | some (k, i) =>
    let x := getPort s p
    let w := frameWords i.frame
    let own := i.relay.isNone && frameSeq i.frame.typ
    let drop (s : State) : State := modFab s (fun f => { f with sendq := f.sendq.eraseIdx k })
    match egress s i with
    | none =>
      let s := routeFault (drop s) (match i.relay with | some r => r.port | none => p)
      match i.relay with
      | some r => emit s (.credits r.port r.lane w)
      | none => if own then (match sessionOf s i.frame.dst with | some n => (takeSeq s n 48 i).1 | none => s) else s
    | some _ =>
      if !(x.trained && (x.state == 2 || i.port.isSome)) || x.credits.getD lane 0 < w
        || (own && !i.resend && decide (2097152 < replayBytes s p + 64 * w)) then s
      else
        let s := modPort (drop s) p (fun x =>
          { x with credits := lset x.credits lane (x.credits.getD lane 0 - w)
                   retransmits := if i.resend then satAdd 32 x.retransmits 1 else x.retransmits })
        match i.relay with
        | some r => emit (emit s (.frame p i.frame)) (.credits r.port r.lane w)
        | none =>
          if !own then emit s (.frame p i.frame)
          else match sessionOf s i.frame.dst with
            | none => s
            | some n =>
              let i := if i.resend && itemDead s i.ctx then { i with frame := voidOf i.frame } else i
              let (s, f) := takeSeq s n p i
              emit s (.frame p f)

def execFrameSend (p lane : Nat) (s : State) : Res := .next (frameSend s p lane)

/-! ### Acknowledging and receiving in order (11/R369, R372, R373) -/

/-- An acknowledgement of a session's channel (11/R373): the SID is that of the half it answers. -/
def sendAck (s : State) (peer ch : Nat) : State :=
  match sessionOf s peer with
  | none => s
  | some n => match getSession s n with
    | none => s
    | some x =>
      let s := modSession s n (fun x => modChanOf x ch (fun c => { c with doneSince := 0 }))
      enqueue s { frame := { typ := 0x10, dst := peer, src := ownChip s, sid := x.rxSid.getD 0, ch, seq := (chanOf x ch).expect } }

/-- A NAK, at most once per expected number in 2 µs. -/
def sendNak (s : State) (peer ch : Nat) : State :=
  match sessionOf s peer with
  | none => s
  | some n => match getSession s n with
    | none => s
    | some x =>
      let c := chanOf x ch
      let again := match c.nak with | some (e, t) => e == c.expect && decide (s.time.toNat < t + 200) | none => false
      if again then s
      else enqueue (modSession s n (fun x => modChanOf x ch (fun c => { c with nak := some (c.expect, s.time.toNat) })))
        { frame := { typ := 0x11, dst := peer, src := ownChip s, sid := x.rxSid.getD 0, ch, seq := c.expect } }

/-- A frame has taken effect: an ACK is sent after LAST and after 8 frames (11/R373). -/
def completeFrame (s : State) (f : Frame) : State :=
  match sessionOf s f.src with
  | none => s
  | some n => match getSession s n with
    | none => s
    | some x =>
      let k := (chanOf x f.ch).doneSince + 1
      let s := modSession s n (fun x => modChanOf x f.ch (fun c => { c with doneSince := k }))
      if f.last || decide (8 ≤ k) then sendAck s f.src f.ch else s

/-- The words a frame spans in its sequence: a VOID spans those of the frame it stands for (11/R380). -/
def frameSpan (f : Frame) : Nat := if f.typ = 0x07 then f.aux % 128 else frameWords f

/-- Accept a sequenced frame (11/R369, R372): whether it takes effect. DESIGN CHOICE: log entry 22. -/
def acceptFrame (s : State) (f : Frame) : State × Bool :=
  match sessionOf s f.src with
  | none => (s, false)
  | some n => match getSession s n with
    | none => (s, false)
    | some x =>
      if x.rxSid ≠ some f.sid then (s, false)
      else
        let e := (chanOf x f.ch).expect
        let d := (2 ^ 32 + e - f.seq) % 2 ^ 32
        if d = 0 then
          (modSession s n (fun x => { modChanOf x f.ch (fun c => { c with expect := (e + frameSpan f) % 2 ^ 32 })
                                        with lastUse := s.time.toNat }), true)
        else if d ≤ 2 ^ 31 then (sendAck s f.src f.ch, false)
        else (sendNak s f.src f.ch, false)

/-- The first received frame of a type on a port that no earlier frame of its source and channel precedes. DESIGN CHOICE:
log entry 22. -/
def firstOf (typ : Nat) : Nat → List Frame → List Frame → Option (Nat × Frame)
  | _, _, [] => none
  | k, earlier, f :: t =>
    if f.typ = typ && !(earlier.any (fun e => frameSeq e.typ && frameSeq f.typ && e.src == f.src && e.ch == f.ch)) then some (k, f)
    else firstOf typ (k + 1) (earlier ++ [f]) t

/-- Take the next frame of a type from a port, its words freed (11/R362). DESIGN CHOICE: log entry 22. -/
def takeFrame (s : State) (p typ : Nat) : Option (State × Frame) :=
  match firstOf typ 0 [] (getPort s p).rx with
  | none => none
  | some (k, f) => some (freeWords (modPort s p (fun x => { x with rx := x.rx.eraseIdx k })) p f, f)

/-- A frame accepted for a context is progress of it (15/R466). -/
def countAccepted (s : State) (f : Frame) : State :=
  if (getCtx s f.dctx).state = 2 ∧ (getCtx s f.dctx).gen = f.dgen then modCtx s f.dctx (fun c => { c with accepted := c.accepted + 1 })
  else s

/-- Process the next sequenced frame of a type: its effect when it is accepted, and what acknowledges it. DESIGN CHOICE:
log entry 22. -/
def recvSeq (s : State) (p typ : Nat) (eff : State → Frame → State) : State :=
  match takeFrame s p typ with
  | none => s
  | some (s, f) => match acceptFrame s f with
    | (s, true) => completeFrame (eff (countAccepted s f) f) f
    | (s, false) => s

/-- Process the next control frame of a type. -/
def recvCtl (s : State) (p typ : Nat) (eff : State → Frame → State) : State :=
  match takeFrame s p typ with
  | none => s
  | some (s, f) => eff s f

/-! ### What the far module refuses (11/R377, R378) -/

/-- The destination context of a frame is gone: the far reason (11/R376, R377). -/
def ctxGone (s : State) (f : Frame) : Option Nat :=
  let c := getCtx s f.dctx
  if c.state = 3 ∧ c.gen = f.dgen then some 0x28
  else if (c.state = 1 ∨ c.state = 2) ∧ c.gen = f.dgen then none
  else some 0x28

/-- An ERROR frame back to the initiator (11/R378). DEDUCED: log entry 20. -/
def sendError (s : State) (f : Frame) (reason far : Nat) : State :=
  sendReply s { typ := 0x08, dst := f.src, ch := f.ch, last := true, opid := f.opid, addr := f.addr, index := f.index
                aux := reason + far * 2 ^ 8 + f.typ * 2 ^ 16 }

/-- The context of a crate frame and the reason that refuses its crate, if any (11/R377). -/
def crateRefusal (s : State) (f : Frame) : Option (Nat × Nat) :=
  match ctxGone s f with
  | some r => some (0x63, r)
  | none =>
    if f.addr % 4096 ≠ 0 then some (0x62, 0x44)
    else match refuse s .all (getCtx s f.dctx).part f.addr with
    | some r => some (0x62, r)
    | none => none

/-- A received crate is verified; a failing one is poisoned and raises 0xE7 (08/R246, 11/R377). -/
def verifyRx (s : State) (f : Frame) : State × W128 :=
  let t := frameTag f
  if Tag.poisoned t || Tag.check t == Crc.crc64 (framePayload f) then (s, t)
  else
    (logRec (raiseCrate s 0xE7 (f.dctx, f.dgen) f.addr (Tag.lineage t) 0xFFFF f.src) 0x13 0xE7 (holderUnit s f.addr)
      (ldata (Word.toLe 8 f.addr ++ Word.toLe 4 (Tag.lineage t) ++ Word.toLe 2 f.src)), Tag.poison t)

end Sys2Proof.Machine
end

