-- ==== Sys2Proof/Machine/Formats.lean ====
section
/-!
DEFINITION. The element formats, crate layouts, block dots and bench additions of chapter 02 (R39-R52, R68).
-/
namespace Sys2Proof.Machine.Fmt
open Sys2Proof.Machine.Num

/-- The element formats of 02/R39 by identifier. -/
def m4 : Nat := 1
def e4m3 : Nat := 2
def e5m2 : Nat := 3
def bf16 : Nat := 4
def fp32 : Nat := 5
def untyped : Nat := 6

/-- A recognised format identifier (02/R39). -/
def known (f : Nat) : Bool := 1 ≤ f && f ≤ 6
/-- One of the two F8 formats. -/
def isF8 (f : Nat) : Bool := f == e4m3 || f == e5m2
/-- A format with block scales and an outer scale (02/R44). -/
def scaled (f : Nat) : Bool := f == m4 || isF8 f

/-- Lines per crate (02/R44). -/
def lines (f : Nat) : Nat :=
  if f = 1 then 56 else if f = 2 ∨ f = 3 then 28 else if f = 4 then 16 else if f = 5 then 8 else 0

/-- Words of 64 bytes per line (05/R138). -/
def lineWords (f : Nat) : Nat :=
  if f = 1 then 1 else if f = 2 ∨ f = 3 then 2 else if f = 4 then 4 else if f = 5 then 8 else 0

/-- The line interval of a line and the formats of the active columns (04/R101): the array cycles a line holds row 0. -/
def interval (line : Nat) (cols : List Nat) : Nat :=
  if line = 5 then 1 else if line = 4 then 4
  else if isF8 line || cols.any isF8 then 2 else 1

/-- M4 magnitudes in units of one half, by code bits [2:0] (02/R40). -/
def m4Mag (c : Nat) : Nat :=
  match c with | 0 => 0 | 1 => 1 | 2 => 2 | 3 => 3 | 4 => 4 | 5 => 6 | 6 => 8 | 7 => 12 | _ => 0

/-- The magnitude of an F8 code in units of the format's smallest subnormal: `eb` exponent bits above `mb`
mantissa bits (02/R42). -/
def f8Mag (mb c : Nat) : Nat :=
  let ex := c / 2 ^ mb
  let fr := c % 2 ^ mb
  if ex = 0 then fr else (2 ^ mb + fr) * 2 ^ (ex - 1)

/-- An M4 or F8 element in units of its format's least step; `none` is NaN (02/R40, R42). -/
def elem (f c : Nat) : Option Int :=
  let sgn (neg : Bool) (m : Nat) : Option Int := some (if neg then -(m : Int) else m)
  if f = 1 then sgn (c / 8 % 2 == 1) (m4Mag (c % 8))
  else if f = 2 then
    if c % 128 = 127 then none else sgn (c / 128 % 2 == 1) (f8Mag 3 (c % 128))
  else if f = 3 then
    if c % 128 ≥ 124 then none else sgn (c / 128 % 2 == 1) (f8Mag 2 (c % 128))
  else none

/-- The exponent of a format's least step: M4 2^-1, E4M3 2^-9, E5M2 2^-16 (02/R40, R42). -/
def unitExp (f : Nat) : Int := if f = 1 then -1 else if f = 2 then -9 else -16

/-- The exact sum of products of two element lists; `none` when an element is NaN. -/
def dotInt : List (Option Int) → List (Option Int) → Option Int
  | a :: as, w :: ws =>
    match a, w, dotInt as ws with
    | some x, some y, some s => some (x * y + s)
    | _, _, _ => none
  | _, _ => some 0

/-- Sum of decoded BF16 products: NaN and infinities by 02/R49, finite parts exact over 2^-266. -/
structure BSum where
  nan : Bool := false
  pinf : Bool := false
  ninf : Bool := false
  sum : Int := 0
deriving DecidableEq, Repr

/-- Add one product to the sum. -/
def BSum.acc (s : BSum) : FVal → BSum
  | .nan => { s with nan := true }
  | .inf n => if n then { s with ninf := true } else { s with pinf := true }
  | .fin n m e => { s with sum := s.sum + toInt n m e (-298) }

/-- The products of two BF16 lists, summed. -/
def dotBf : List Nat → List Nat → BSum → BSum
  | a :: as, w :: ws, s =>
    let d (c : Nat) := decode32 (BitVec.ofNat 32 (c * 65536))
    dotBf as ws (s.acc (mulV (d a) (d w)))
  | _, _, s => s

/-- A valid operand pair (02/R49): both BF16, or each M4 or F8. -/
def pairOk (fa fw : Nat) : Bool := (fa == bf16 && fw == bf16) || (scaled fa && scaled fw)

/-- The block result of two blocks of 16 codes with their scale bytes (02/R49). -/
def blockResult (fa ea : Nat) (a : List Nat) (fw ew : Nat) (w : List Nat) : F32 :=
  if fa = bf16 then
    let s := dotBf a w {}
    if s.nan || (s.pinf && s.ninf) then nan32
    else if s.pinf then inf32 false
    else if s.ninf then inf32 true
    else round32 (decide (s.sum < 0)) s.sum.natAbs (-298)
  else if ea = 255 || ew = 255 then nan32
  else match dotInt (a.map (elem fa)) (w.map (elem fw)) with
    | none => nan32
    | some s => round32 (decide (s < 0)) s.natAbs (unitExp fa + unitExp fw + (ea : Int) + (ew : Int) - 254)

/-- Adding a block result to a bench entry: a zero result leaves the entry as it is (02/R50, R51). -/
def benchAdd (acc d : F32) : F32 := if isZero d then acc else add acc d

/-- A slice of `n` entries from `i`. -/
def slice {α : Type} (l : List α) (i n : Nat) : List α := (l.drop i).take n

/-- One line: 128 raw codes and eight scale bytes (02/R44, R45). FP32 and BF16 lines have no scales. -/
structure Line where
  fmt : Nat
  elems : List Nat
  scales : List Nat
deriving DecidableEq, Repr

/-- Raw codes of a line of a crate (02/R45). -/
def lineElems (f : Nat) (p : List Byte) (l : Nat) : List Nat :=
  if f = 1 then
    ((p.drop (l * 64)).take 64).flatMap (fun b => [b.toNat % 16, b.toNat / 16])
  else if f = 2 ∨ f = 3 then ((p.drop (l * 128)).take 128).map (·.toNat)
  else if f = 4 then (List.range 128).map (fun k => Word.leNat ((p.drop (l * 256 + 2 * k)).take 2))
  else (List.range 128).map (fun k => Word.leNat ((p.drop (l * 512 + 4 * k)).take 4))

/-- Line `l` of a crate payload. -/
def line (f : Nat) (p : List Byte) (l : Nat) : Line :=
  { fmt := f, elems := lineElems f p l
    scales := if scaled f then ((p.drop (0xE00 + l * 8)).take 8).map (·.toNat) else [] }

/-- The outer scale of a crate; BF16 and FP32 crates count as 1.0 (02/R44, R52). -/
def outer (f : Nat) (p : List Byte) : F32 :=
  if scaled f then BitVec.ofNat 32 (Word.leNat ((p.drop 0xFC0).take 4)) else one32

/-- A legal outer scale: positive, finite and non-zero (02/R48). -/
def outerOk (t : F32) : Bool := 0 < t.toNat && t.toNat < 0x7F800000

/-- A zero code of a format (02/R68). -/
def zeroCode (f c : Nat) : Bool :=
  if f = 1 then c == 0 || c == 8 else if f = 4 then c == 0 || c == 0x8000
  else if f = 5 then c == 0 || c == 0x80000000 else c == 0 || c == 0x80

/-- An all-zero block (02/R68). -/
def zeroBlock (l : Line) (b : Nat) : Bool :=
  (slice l.elems (16 * b) 16).all (zeroCode l.fmt) && !(scaled l.fmt && l.scales.getD b 0 == 255)

/-- An all-zero line: its eight blocks are all zero. -/
def zeroLine (l : Line) : Bool := (List.range 8).all (zeroBlock l)

/-- The running value of one bench entry over the eight blocks of a line (02/R51). -/
def lineDot (a w : Line) (acc : F32) : F32 :=
  (List.range 8).foldl (fun acc b =>
    benchAdd acc (blockResult a.fmt (a.scales.getD b 0) (slice a.elems (16 * b) 16)
      w.fmt (w.scales.getD b 0) (slice w.elems (16 * b) 16))) acc

/-- A line of zero elements under scale 0x00 (04/R105). -/
def zeroLineOf (f : Nat) : Line :=
  { fmt := f, elems := List.replicate 128 0, scales := if scaled f then List.replicate 8 0 else [] }

/-- FP32 values of a line of an FP32 or BF16 crate. -/
def lineF32 (f : Nat) (p : List Byte) (l : Nat) : List F32 :=
  (lineElems f p l).map fun c => if f = 4 then ofBf16 (BitVec.ofNat 16 c) else BitVec.ofNat 32 c

end Sys2Proof.Machine.Fmt
end

