-- ==== Sys2Proof/Machine/Coll.lean ====
section
/-!
DEFINITION. Collectives and groups (chapter 12): phase maps, the group check, the running of a collective by chunks and
stages, digests, and the closing bell.
-/
namespace Sys2Proof.Machine

/-! ### Members (12/R393-R395) -/

def modGroup (s : State) (g : Nat) (f : Group → Group) : State := { s with groups := tmod {} s.groups g f }
def getMap (s : State) (n : Nat) : PhaseMap := tget {} s.maps n
def modMap (s : State) (n : Nat) (f : PhaseMap → PhaseMap) : State := { s with maps := tmod {} s.maps n f }
def grpEnabled (x : Group) : Bool := rbit x.cfg 63
def grpCtx (x : Group) : Nat := rbits x.cfg 55 48
def grpShare (x : Group) : Nat := rbits x.cfg 47 40

/-- The physical chip of a logical one (12/R395). -/
def physOf (s : State) (logical : Nat) : Nat :=
  match s.substs.find? (fun e => e.2.enable && e.2.logical == logical) with
  | some e => e.2.phys
  | none => logical

/-- This module's own logical chip (12/R395). -/
def ownLogical (s : State) : Nat :=
  match s.substs.find? (fun e => e.2.enable && e.2.phys == ownChip s) with
  | some e => e.2.logical
  | none => ownChip s

/-- The coordinates an axis selects (12/R394). -/
def Axis.coords (a : Axis) (own : Nat) : List Nat :=
  if a.base = 0xFF then [own] else (List.range a.count).map (fun i => a.base + i * a.stride)

/-- A descriptor obeys R394 with coordinates below `lim`. -/
def Axis.ok (a : Axis) (lim : Nat) : Bool :=
  if a.base = 0xFF then a.count == 1
  else decide (1 ≤ a.count) && (a.count == 1 || decide (1 ≤ a.stride)) && decide (a.base + (a.count - 1) * a.stride < lim)

/-- The logical chips of a group by ordinal (12/R394): x varies fastest, then y, then z. -/
def groupMembers (s : State) (m : MapGroup) : List Nat :=
  let me := ownLogical s
  (m.z.coords (chipDistrict me)).flatMap fun z => (m.y.coords (chipSquare me)).flatMap fun y =>
    (m.x.coords (chipStall me)).map fun x => z * 512 + y * 32 + x

/-- This module's ordinal in a group, if it is a member. -/
def ownOrdinal (s : State) (m : MapGroup) : Option Nat := (groupMembers s m).findIdx? (· == ownLogical s)

/-- The active map of a context, and its definition of a group (12/R399). -/
def activeMap (s : State) (ctx : Nat) : Option Nat :=
  (s.maps.find? (fun e => e.2.loaded && e.2.active && e.2.ctx == ctx && e.2.gen == (getCtx s ctx).gen)).map (·.1)
def mapEntryOf (x : PhaseMap) (g : Nat) : Option MapGroup := x.groups.find? (fun m => m.group == g)

/-- The chunk size C (12/R409). -/
def chunkSize (s : State) (ctx share members : Nat) : Nat :=
  4 * share * (getPart s (getCtx s ctx).part).dies.length / members

/-! ### PHASE_MAP_LOAD and PHASE_SWITCH (12/R396-R399) -/

/-- Read a crate as a consumer of firmware's own (08/R244): its payload, or the integrity code. -/
def readVerify (s : State) (cg : CtxGen) (crate : Nat) : State × List Byte × Option Nat :=
  let t := crateTag s.mem crate
  let p := crateBytes s.mem crate
  let s := setMem (reportBad s cg crate 0xFFFF) (cacheTouch s.mem crate false)
  if Tag.poisoned t then (raiseCrate s 0xE1 cg (crate * 4096) (Tag.lineage t) 0xFFFF 0xFFFF, p, some 0xE1)
  else if Tag.check t == Crc.crc64 p then (s, p, none)
  else (countCheckFail (raiseCrate s 0xE0 cg (crate * 4096) (Tag.lineage t) 0xFFFF 0xFFFF) (crate * 4096) (Tag.lineage t)
    0xFFFF 0xE0, p, some 0xE0)

/-- Read `n` crates as a consumer, with the first code met. -/
def readVerifyN (cg : CtxGen) : Nat → Nat → State → State × List Byte × Option Nat
  | 0, _, s => (s, [], none)
  | n + 1, c, s =>
    let (s, p, r) := readVerify s cg c
    let (s, q, r') := readVerifyN cg n (c + 1) s
    (s, p ++ q, r.or r')

def axisOf (b : List Byte) (o : Nat) : Axis := { base := leAt b o 1, count := leAt b (o + 1) 1, stride := leAt b (o + 2) 1 }

/-- Entry `e` of a table. -/
def mapGroupOf (b : List Byte) (e : Nat) : MapGroup :=
  let o := 0x40 + 16 * e
  { group := leAt b o 2, x := axisOf b (o + 4), y := axisOf b (o + 8), z := axisOf b (o + 12)
    check := (Crc.crc64 ((b.drop o).take 16)).toNat % 2 ^ 32 }

/-- The reserved bytes of an entry are zero. -/
def mapEntryZero (b : List Byte) (e : Nat) : Bool :=
  let o := 0x40 + 16 * e
  leAt b (o + 2) 2 == 0 && leAt b (o + 7) 1 == 0 && leAt b (o + 11) 1 == 0 && leAt b (o + 15) 1 == 0

/-- The table obeys R396 and R394, and this module is a member of each of its groups. -/
def mapOk (s : State) (b : List Byte) : Bool :=
  let n := leAt b 6 2
  let gs := (List.range n).map (mapGroupOf b)
  leAt b 0 4 == 0x4D505A4D && leAt b 4 2 == 1 && decide (1 ≤ n) && decide (n ≤ 1024) && leAt b 8 56 == 0
    && (List.range n).all (mapEntryZero b)
    && gs.all (fun m => decide (m.group < 1024) && m.x.ok 16 && m.y.ok 16 && m.z.ok 64)
    && decide ((gs.map (·.group)).eraseDups.length = n)
    && s.fab.chip.isSome && gs.all (fun m => (ownOrdinal s m).isSome)

/-- Refuse a map command and keep its reason in the slot (12/R426). -/
def mapRefuse (s : State) (slot n reason : Nat) : State := refuseCmd (modMap s n (fun x => { x with reason })) slot reason

def phaseMapLoad (s : State) (slot : Nat) : State :=
  match begun s slot 0x0401 with
  | none => s
  | some c =>
    let cg : CtxGen := (Pkt.ctx c.packet, Pkt.gen c.packet)
    let n := Pkt.p1 c.packet % 16
    let a := pktOff0 c.packet
    let part := (getCtx s cg.1).part
    match refuse s .all part a with
    | some r => mapRefuse s slot n r
    | none =>
      let (s, b, r) := readVerify s cg (a / 4096)
      match r with
      | some r => mapRefuse s slot n r
      | none =>
        let k := min 5 ((0x40 + 16 * leAt b 6 2 + 4095) / 4096)
        match refuseRange s .all part (a / 4096) k with
        | some r => mapRefuse s slot n r
        | none =>
          let (s, b', r) := readVerifyN cg (k - 1) (a / 4096 + 1) s
          match r with
          | some r => mapRefuse s slot n r
          | none =>
            let b := b ++ b'
            let x := getMap s n
            let other := x.loaded && !(x.ctx == cg.1 && x.gen == cg.2) && (getCtx s x.ctx).state != 0
            let mine := x.loaded && x.active && x.ctx == cg.1 && x.gen == cg.2
            if !mapOk s b || other || mine then mapRefuse s slot n 0x68
            else
              endCmd (modMap s n (fun _ => { loaded := true, ctx := cg.1, gen := cg.2
                                             groups := (List.range (leAt b 6 2)).map (mapGroupOf b) })) slot {}

def execPhaseMapLoad (slot : Nat) (s : State) : Res := .next (phaseMapLoad s slot)

/-- A collective of the context is in progress (12/R399). -/
def collRunning (s : State) (ctx : Nat) : Bool := s.groups.any (fun e => e.2.run.isSome && grpCtx e.2 == ctx)

/-- Ask for the bindings of a group's members that are not yet asked for (12/R399, R400). -/
def bindMembers (s : State) (ctx g : Nat) (m : MapGroup) : State :=
  ((groupMembers s m).map (physOf s)).foldl (fun s chip =>
    if chip = ownChip s ∨ (findBind s ctx (getCtx s ctx).gen chip).isSome ∨ 16384 ≤ s.fab.binds.length then s
    else match useSession s chip with
      | (s, some _) => askBind s ctx (getCtx s ctx).gen chip (g % 4)
      | (s, none) => s) s

def phaseSwitch (s : State) (slot : Nat) : State :=
  match begun s slot 0x0402 with
  | none => s
  | some c =>
    let ctx := Pkt.ctx c.packet
    let n := Pkt.p1 c.packet % 16
    let x := getMap s n
    if collRunning s ctx then s
    else if !x.loaded || x.ctx != ctx || x.gen != Pkt.gen c.packet then mapRefuse s slot n 0x68
    else
      let mine := s.groups.filter (fun e => grpEnabled e.2 && grpCtx e.2 == ctx)
      if mine.any (fun e => match mapEntryOf x e.1 with
          | some m => chunkSize s ctx (grpShare e.2) (groupMembers s m).length == 0
          | none => false) then mapRefuse s slot n 0x68
      else
        let s := { s with maps := s.maps.map (fun e =>
          if e.2.ctx = ctx ∧ e.2.gen = x.gen ∧ e.1 ≠ n then (e.1, { e.2 with active := false }) else e) }
        let s := modMap s n (fun x => { x with active := true })
        let s := mine.foldl (fun s e => match mapEntryOf x e.1 with
          | some m => bindMembers s ctx e.1 m
          | none => s) s
        endCmd s slot {}

def execPhaseSwitch (slot : Nat) (s : State) : Res := .next (phaseSwitch s slot)

/-! ### Groups and substitutions (12/R400, R401, R422, R425) -/

/-- The RW fields of GRP_CFG but ENABLE. -/
def grpFields (v : W64) : Nat := rbits v 55 32

/-- The group check (12/R400). -/
def grpRefusal (s : State) (g : Nat) (v : W64) : Option Nat :=
  let ctx := rbits v 55 48
  let share := rbits v 47 40
  let dies := (getPart s (getCtx s ctx).part).dies
  if (getCtx s ctx).state ≠ 2 then some 0x20
  else if s.fab.chip = none then some 0x6A
  else match activeMap s ctx with
  | none => some 0x67
  | some n => match mapEntryOf (getMap s n) g with
    | none => some 0x67
    | some m =>
      if share = 0 ∨ 192 < share then some 0x67
      else if dies.any (fun d => decide (192 < share + ((s.groups.filter (fun e => e.1 != g && grpEnabled e.2
          && (getPart s (getCtx s (grpCtx e.2)).part).dies.contains d)).map (fun e => grpShare e.2)).foldl (· + ·) 0))
        then some 0x2C
      else if chunkSize s ctx share (groupMembers s m).length = 0 then some 0x67
      else none

/-- A write of GRP_CFG with ENABLE 0 or of fields (12/R401): fields are taken only while the group is disabled. -/
def writeGrpFields (s : State) (g : Nat) (v : W64) : State :=
  modGroup s g fun x =>
    if grpEnabled x then (if grpFields v = grpFields x.cfg then x else { x with reason := 0x1D })
    else { x with cfg := rset 0#64 55 32 (grpFields v) }

/-- GRP_ENABLE. -/
def grpEnable (s : State) (g : Nat) (v : W64) : State :=
  if 1024 ≤ g || !rbit v 63 then s
  else if grpEnabled (getGroup s g) then writeGrpFields s g v
  else
    let s := writeGrpFields s g v
    match grpRefusal s g v with
    | some r => modGroup s g (fun x => { x with reason := r })
    | none =>
      let ctx := rbits v 55 48
      let s := modGroup s g fun x =>
        { x with cfg := rset x.cfg 63 63 1, gen := (getCtx s ctx).gen, state := 1, count := 0 }
      match activeMap s ctx with
      | some n => match mapEntryOf (getMap s n) g with
        | some m => bindMembers s ctx g m
        | none => s
      | none => s

def execGrpEnable (g : Nat) (v : W64) (s : State) : Res := fromHost s (grpEnable s g v)

/-- Disable a group: its share is free and a pending bell is gone (12/R401). -/
def disableGroup (s : State) (g : Nat) : State :=
  modGroup s g fun x => { x with cfg := rset x.cfg 63 63 0, state := 0, pendingBell := none, run := none, grants := []
                                 bells := [], backpressure := false }

/-- GRP_DISABLE: refused while the communication queue is enabled. -/
def grpDisable (s : State) (g : Nat) (v : W64) : State :=
  if 1024 ≤ g || rbit v 63 then s
  else if !grpEnabled (getGroup s g) then writeGrpFields s g v
  else if qEnabled (getQueue s (15360 + g)) then modGroup s g (fun x => { x with reason := 0x1D })
  else writeGrpFields (disableGroup s g) g v

def execGrpDisable (g : Nat) (v : W64) (s : State) : Res := fromHost s (grpDisable s g v)

/-- A write of GRP_SUBST entry `i`: LOGICAL and PHYS only while ENABLE is 0; an enable is checked (12/R425). -/
def writeSubst (s : State) (i : Nat) (v : W64) : State :=
  if 256 ≤ i then s
  else
    let x : Subst := tget {} s.substs i
    let put (y : Subst) : State := { s with substs := tset {} s.substs i y }
    let lg := rbits v 46 32
    let ph := rbits v 14 0
    if x.enable then
      if lg ≠ x.logical ∨ ph ≠ x.phys then put { x with reason := 0x1D, enable := x.enable }
      else put { x with enable := rbit v 63 }
    else if rbit v 63 then
      if s.substs.any (fun e => e.1 != i && e.2.enable && (e.2.logical == lg || e.2.phys == ph)) then
        put { x with logical := lg, phys := ph, reason := 0x68 }
      else put { x with enable := true, logical := lg, phys := ph }
    else put { x with logical := lg, phys := ph }

/-- GRP_SUBST_ENABLE. -/
def execGrpSubstEnable (i : Nat) (v : W64) (s : State) : Res := fromHost s (if rbit v 63 then writeSubst s i v else s)

/-! ### The shape of a collective (12/R402, R404, R409) -/

def CollRun.m (r : CollRun) : Nat := r.members.length
/-- R of a reduce-scatter. -/
def CollRun.share (r : CollRun) : Nat := r.crates / r.m
/-- The reducing operations. -/
def CollRun.reduces (r : CollRun) : Bool := r.op == 0x0410 || r.op == 0x0411
/-- Crates j of the operation. -/
def CollRun.total (r : CollRun) : Nat := if r.op = 0x0412 then r.m * r.crates else r.crates
/-- Home ordinal h(j) and position p(j). -/
def CollRun.home (r : CollRun) (j : Nat) : Nat :=
  if r.op = 0x0410 then j % r.m else if r.op = 0x0411 then j / r.share else if r.op = 0x0412 then j / r.crates else r.root
def CollRun.pos (r : CollRun) (j : Nat) : Nat :=
  if r.op = 0x0410 then j / r.m else if r.op = 0x0411 then j % r.share else if r.op = 0x0412 then j % r.crates else j
/-- Positions in all, and chunks. -/
def CollRun.positions (r : CollRun) : Nat :=
  if r.op = 0x0410 then (r.crates + r.m - 1) / r.m else if r.op = 0x0411 then r.share else r.crates
def CollRun.chunks (r : CollRun) : Nat := (r.positions + r.chunkC - 1) / r.chunkC
/-- Crates of a chunk, ascending. -/
def CollRun.chunkCrates (r : CollRun) (k : Nat) : List Nat := (List.range r.total).filter (fun j => r.pos j / r.chunkC == k)
/-- The stages of an operation (12/R404). -/
def CollRun.stages (r : CollRun) : List Nat :=
  if r.op = 0x0410 then [0, 1, 2, 3] else if r.op = 0x0411 then [0, 1] else [2, 3]

/-- Crate `j` belongs to the contribution of `a` to `b` in a stage. -/
def CollRun.carries (r : CollRun) (stage a b j : Nat) : Bool :=
  let within := a / r.nx == b / r.nx && a != b
  let across := a % r.nx == b % r.nx && a != b
  if stage = 0 then within && r.home j % r.nx == b % r.nx
  else if stage = 1 then across && r.home j == b
  else if stage = 2 then across && r.home j == a
  else within && r.home j % r.nx == a % r.nx

/-- A contribution's crates in ascending j. -/
def CollRun.contribution (r : CollRun) (stage k a b : Nat) : List Nat := (r.chunkCrates k).filter (r.carries stage a b)
/-- The members that contribute to this one in a stage of a chunk, and those it contributes to. -/
def CollRun.senders (r : CollRun) (stage k : Nat) : List Nat :=
  (List.range r.m).filter (fun a => !(r.contribution stage k a r.ordinal).isEmpty)
def CollRun.receivers (r : CollRun) (stage k : Nat) : List Nat :=
  (List.range r.m).filter (fun b => !(r.contribution stage k r.ordinal b).isEmpty)

/-- What a sender has contributed. -/
def CollRun.contrib (r : CollRun) (stage k a : Nat) : Option Contrib :=
  r.contribs.find? (fun c => c.stage == stage && c.chunk == k && c.ordinal == a)
/-- Every contribution of a stage of a chunk has agreed. -/
def CollRun.stageIn (r : CollRun) (stage k : Nat) : Bool :=
  (r.senders stage k).all (fun a => match r.contrib stage k a with | some c => c.complete | none => false)

/-- A crate of a contribution. -/
def CollRun.crateOf (r : CollRun) (stage k a j : Nat) : Option CCrate :=
  match r.contrib stage k a with
  | some c => c.crates.find? (fun x => x.j == j)
  | none => none

/-- One lane of a fold (12/R402, R408). -/
def collLane (red : Nat) (a b : F32) : F32 := if red = 0 then Num.add a b else if red = 1 then Num.maxF a b else Num.minF a b
def collFold2 (red : Nat) (a b : List Byte) : List Byte :=
  (List.range 1024).flatMap fun i =>
    Word.toLe 4 (collLane red (BitVec.ofNat 32 (leAt a (4 * i) 4)) (BitVec.ofNat 32 (leAt b (4 * i) 4))).toNat

/-- Fold operands in order, from the first (12/R408); the folded crate of 12/R412. -/
def collFold (r : CollRun) (j : Nat) (xs : List (Option CCrate)) : Option CCrate :=
  match xs.foldr (fun x acc => match x, acc with | some y, some t => some (y :: t) | _, _ => none) (some []) with
  | some (x :: t) =>
    let p := t.foldl (fun a y => collFold2 r.red a y.payload) x.payload
    let bad := (x :: t).any (fun y => Tag.poisoned y.tag)
    some { j, payload := p, tag := Tag.computed p 5 0 (Tag.flagsOf 0 bad false false false false) (Tag.fwLineage r.count) }
  | _ => none

/-- The partial of this member's block, and the result at this home (12/R408). -/
def CollRun.partialOf (r : CollRun) (k j : Nat) : Option CCrate :=
  let b := r.ordinal / r.nx
  collFold r j ((List.range r.nx).map fun x =>
    if b * r.nx + x = r.ordinal then r.crateOf 4 k r.ordinal j else r.crateOf 0 k (b * r.nx + x) j)
def CollRun.resultOf (r : CollRun) (k j : Nat) : Option CCrate :=
  let x := r.ordinal % r.nx
  let own := r.ordinal / r.nx
  match (List.range r.blocks).map (fun b => if b = own then r.partialOf k j else r.crateOf 1 k (b * r.nx + x) j) with
  | [x] => x
  | xs => collFold r j xs

/-- What this member holds of crate `j` once it has it at its home or through stage 2. -/
def CollRun.held (r : CollRun) (k j : Nat) : Option CCrate :=
  if r.home j = r.ordinal then (if r.reduces then r.resultOf k j else r.crateOf 4 k r.ordinal j)
  else r.crateOf 2 k (r.home j) j

/-- The crate sent in a stage. -/
def CollRun.outgoing (r : CollRun) (stage k j : Nat) : Option CCrate :=
  if stage = 0 then r.crateOf 4 k r.ordinal j else if stage = 1 then r.partialOf k j else r.held k j

/-- The data of a stage is there to be sent: every contribution it depends on has agreed (12/R412). -/
def CollRun.ready (r : CollRun) (stage k : Nat) : Bool := (r.stages.filter (· < stage)).all (fun st => r.stageIn st k)

/-- The crates of a chunk that this member writes at P1, with their place there. -/
def CollRun.outputs (r : CollRun) (k : Nat) : List (Nat × Nat) :=
  if r.op = 0x0411 then ((r.chunkCrates k).filter (fun j => r.home j == r.ordinal)).map (fun j => (j, r.pos j))
  else (r.chunkCrates k).map (fun j => (j, j))

/-- The final crate `j` at this member. -/
def CollRun.final (r : CollRun) (k j : Nat) : Option CCrate :=
  if r.home j % r.nx = r.ordinal % r.nx then r.held k j
  else r.crateOf 3 k (r.ordinal / r.nx * r.nx + r.home j % r.nx) j

/-- The digest of a list of crates (08/R249). -/
def digestOf (xs : List CCrate) : W64 := Crc.crc64 (xs.flatMap (·.payload))

/-! ### The closing bell (12/R415-R420) -/

/-- A frame of a collective of group `g` and count `n`. -/
def collFrame (g n : Nat) (f : Frame) : Bool := f.typ == 0x06 && f.aux % 1024 == g && f.opid == n

/-- Send a BELL to every other member (12/R416): the binding of the receiver, where it is known. -/
def sendBells (s : State) (g : Nat) (b : BellOut) : State :=
  let x := getGroup s g
  b.members.foldl (fun s chip =>
    let bd := (findBind s (grpCtx x) x.gen chip).getD { ctx := 0, gen := 0, chip := 0 }
    enqueue s { frame := { typ := 0x14, dst := chip, src := ownChip s, ch := g % 4, dctx := bd.dctx, dgen := bd.dgen
                           opid := b.count, aux := g + b.reason * 2 ^ 16 + b.ordinal * 2 ^ 24, index := b.chip } }) s

/-- Ring or relay a bell: now, and three times more (12/R417, R424). -/
def ringBell (s : State) (g : Nat) (b : BellOut) : State :=
  let s := modGroup s g fun x => { x with bellValid := true, bellChip := b.chip, bellOrdinal := b.ordinal, bellCount := b.count
                                          bells := x.bells ++ [{ b with left := 3 }] }
  sendBells s g b

/-- End the run of a group: its unsent frames are discarded and its buffers are free (12/R420). -/
def dropRun (s : State) (g : Nat) (r : CollRun) (reason : Nat) : State :=
  let keep (i : Item) : Bool := i.relay.isSome || i.resend || !collFrame g r.count i.frame
  let s := modFab s (fun f => { f with sendq := f.sendq.filter keep, bindq := f.bindq.filter keep })
  modGroup s g fun x => { x with run := none, state := if x.pendingBell.isSome then 3 else 1, lastReason := reason, lastMembers := r.members, backpressure := false
                                 grants := x.grants.filter (fun y => y.count != r.count) }

/-- The other members of a run. -/
def CollRun.others (r : CollRun) : List Nat := (r.members.zipIdx.filter (fun e => e.2 != r.ordinal)).map (·.1)

/-- The collective fails here: its command ends with class 0x03 and the reason, and the bell rings (12/R415). DEDUCED: log
entry 18. -/
def collFail (s : State) (g reason : Nat) : State :=
  match (getGroup s g).run with
  | none => s
  | some r =>
    let s := dropRun s g r reason
    let s := ringBell s g { count := r.count, reason, ordinal := r.ordinal, chip := ownChip s, left := 3, members := r.others }
    endCmd s r.slot { cls := 3, reason }

/-- The same with an event that names a member (12/R411, R414). -/
def collFailNaming (s : State) (g reason ordinal : Nat) : State :=
  match (getGroup s g).run with
  | none => s
  | some r =>
    let x := getGroup s g
    let chip := r.members.getD ordinal 0
    let s := if reason = 0xE4 then logRec s 0x15 0xE4 (unitW 12 8 0 0)
        (ldata (Word.toLe 8 s.stepSt.cur ++ Word.toLe 2 chip ++ Word.toLe 1 (chipStall chip))) else s
    collFail (raiseColl s reason (grpCtx x, x.gen) g ordinal chip r.count) g reason

/-! ### Running (12/R404, R405, R409, R411-R413) -/

def getRun (s : State) (g : Nat) : Option CollRun := (getGroup s g).run
def modRun (s : State) (g : Nat) (f : CollRun → CollRun) : State := modGroup s g (fun x => { x with run := x.run.map f })

/-- Send one COLL frame to an ordinal; a failure to send fails the collective. -/
def sendColl (s : State) (g : Nat) (r : CollRun) (dest : Nat) (f : Frame) : State :=
  let x := getGroup s g
  if x.run.isNone then s
  else match sendCtx s (grpCtx x) x.gen none { f with typ := 0x06, dst := r.members.getD dest 0, ch := g % 4, opid := r.count } with
    | (s, none) => s
    | (s, some reason) => collFail s g reason

/-- AUX of a COLL frame (12/R406). -/
def collAux (g kind stage chunk ordinal : Nat) : Nat :=
  g + kind * 2 ^ 10 + stage * 2 ^ 12 + chunk * 2 ^ 14 + ordinal * 2 ^ 38

/-- Read this member's own crate `j`: the crate at its place in P0, a consumption when the operation reduces. -/
def readOwn (s : State) (g : Nat) (r : CollRun) (j : Nat) : State × Except Nat CCrate :=
  let x := getGroup s g
  let cg : CtxGen := (grpCtx x, x.gen)
  let crate := r.p0 / 4096 + (if r.op = 0x0412 then j % r.crates else j)
  match refuse s .all (getCtx s cg.1).part (crate * 4096) with
  | some e => (s, .error e)
  | none =>
    if r.reduces then
      if Tag.fmt (crateTag s.mem crate) ≠ Fmt.fp32 then (s, .error 0xF1)
      else
        let t := crateTag s.mem crate
        let (s, p, bad) := readVerify s cg crate
        (s, .ok { j, payload := p, tag := Tag.poisonIf bad.isSome t })
    else
      let (s, p, t) := moveRead s cg 0xFFFF crate
      (s, .ok { j, payload := p, tag := t })

/-- Read the own crates of a list. -/
def readOwns (g : Nat) (r : CollRun) : List Nat → State → State × Except Nat (List CCrate)
  | [], s => (s, .ok [])
  | j :: t, s =>
    match readOwn s g r j with
    | (s, .error e) => (s, .error e)
    | (s, .ok c) => match readOwns g r t s with
      | (s, .error e) => (s, .error e)
      | (s, .ok cs) => (s, .ok (c :: cs))

/-- The crates of a chunk that this member contributes itself. -/
def CollRun.owns (r : CollRun) (k : Nat) : List Nat :=
  if r.reduces then r.chunkCrates k else (r.chunkCrates k).filter (fun j => r.home j == r.ordinal)

/-- Begin a chunk: its own crates are read and its GRANTs sent (12/R405, R409). -/
def beginChunk (s : State) (g k : Nat) : State :=
  match getRun s g with
  | none => s
  | some r =>
    match readOwns g r (r.owns k) s with
    | (s, .error e) => collFail s g e
    | (s, .ok cs) =>
      let own : Contrib := { stage := 4, chunk := k, ordinal := r.ordinal, crates := cs, complete := true }
      let s := modRun s g (fun r => { r with begun := r.begun ++ [k], contribs := r.contribs ++ [own] })
      r.stages.foldl (fun s st => (r.senders st k).foldl (fun s a =>
        sendColl s g r a { last := false, aux := collAux g 0 st k r.ordinal, addr := r.mapCheck + r.opCheck * 2 ^ 32 }) s) s

/-- Send one contribution: crates in ascending j, the digest on the last (12/R411). -/
def sendContribution (s : State) (g st k dest : Nat) : State :=
  match getRun s g with
  | none => s
  | some r =>
    let js := r.contribution st k r.ordinal dest
    let xs := js.filterMap (fun j => r.outgoing st k j)
    if xs.length ≠ js.length then s
    else
      let s := modRun s g (fun r => { r with sent := r.sent ++ [(st, k, dest)] })
      xs.zipIdx.foldl (fun s e =>
        let last := e.2 + 1 == xs.length
        let digest := if last then (digestOf xs).toNat else 0
        let f : Frame := { last, index := e.1.j, aux := collAux g 1 st k r.ordinal, data := crateData e.1.tag e.1.payload, addr := digest }
        sendColl s g r dest f) s

/-- A GRANT of the current collective from a receiver. -/
def granted (x : Group) (r : CollRun) (st k dest : Nat) : Bool :=
  x.grants.any (fun y => y.count == r.count && y.stage == st && y.chunk == k && y.ordinal == dest)

/-- Send what is granted and ready in a chunk. -/
def sendReady (s : State) (g k : Nat) : State :=
  match getRun s g with
  | none => s
  | some r => r.stages.foldl (fun s st =>
      if r.ready st k then (r.receivers st k).foldl (fun s dest =>
        if !r.sent.contains (st, k, dest) && granted (getGroup s g) r st k dest then sendContribution s g st k dest else s) s
      else s) s

/-- Write one result crate (12/R412): AUDITED unless it is poisoned. -/
def writeResult (s : State) (g : Nat) (r : CollRun) (place : Nat) (c : CCrate) : State :=
  let crate := r.p1 / 4096 + place
  if (getGroup s g).run.isNone then s
  else match refuse s .all (getCtx s (grpCtx (getGroup s g))).part (crate * 4096) with
  | some e => collFail s g e
  | none =>
    let bad := Tag.poisoned c.tag
    let t := if bad then c.tag &&& ~~~(BitVec.ofNat 128 (2 ^ 86)) else Tag.audit c.tag
    modRun (putCrate s crate c.payload t) g (fun r => { r with poisonedOut := r.poisonedOut || bad })

/-- Finish a chunk whose every stage is done here: results are written and the buffer is free (12/R409, R412). -/
def finishChunk (s : State) (g k : Nat) : State :=
  match getRun s g with
  | none => s
  | some r =>
    if !r.stages.all (fun st => r.stageIn st k && (r.receivers st k).all (fun dest => r.sent.contains (st, k, dest))) then s
    else
      let s := (r.outputs k).foldl (fun s e => match r.final k e.1 with
        | some c => writeResult s g r e.2 c
        | none => s) s
      modRun s g (fun r => { r with chunksDone := r.chunksDone ++ [k]
                                    contribs := r.contribs.filter (fun c => c.chunk != k || c.stage == 4) })

/-- One pass: begin chunks while a buffer is free, send, finish. -/
def pumpOnce (s : State) (g : Nat) : State :=
  match getRun s g with
  | none => s
  | some r =>
    let next := r.begun.length
    let s := if next < r.chunks ∧ next < r.chunksDone.length + 2 then beginChunk s g next else s
    match getRun s g with
    | none => s
    | some r =>
      (r.begun.filter (fun k => !r.chunksDone.contains k)).foldl (fun s k => finishChunk (sendReady s g k) g k) s

/-- Let a collective go as far as it can. -/
def pump : Nat → State → Nat → State
  | 0, s, _ => s
  | n + 1, s, g => pump n (pumpOnce s g) g

/-- Passes that suffice for a run. DEDUCED: log entry 18. -/
def pumpAll (s : State) (g : Nat) : State :=
  match getRun s g with
  | none => s
  | some r => pump (2 * r.chunks + 2) s g

/-- The operation check (12/R405). -/
def opCheckOf (op red crates root : Nat) : Nat :=
  (Crc.crc64 (Word.toLe 2 op ++ Word.toLe 1 red ++ Word.toLe 1 0 ++ Word.toLe 4 crates ++ Word.toLe 2 root
    ++ Word.toLe 6 0)).toNat % 2 ^ 32

/-- The first mismatch of a GRANT with this member's own checks (12/R405). -/
def grantBad (r : CollRun) (y : Grant) : Option Nat :=
  if y.mapCheck ≠ r.mapCheck then some 0x68 else if y.opCheck ≠ r.opCheck then some 0x67 else none

/-- Two crate ranges overlap. -/
def overlaps (a n b m : Nat) : Bool := decide (a < b + m) && decide (b < a + n)

/-- The refusal of a collective with its definition at hand (12/R403). DEDUCED: log entry 18. -/
def collRefusal (s : State) (r : CollRun) (part : Nat) : Option Nat :=
  let n := r.crates
  let m := if r.op = 0x0411 then n / r.m else if r.op = 0x0412 then r.m * n else n
  let a := r.p0 / 4096
  let b := r.p1 / 4096
  let uses := r.op != 0x0413 || r.root == r.ordinal
  let same := if r.op = 0x0410 ∨ r.op = 0x0413 then a == b else r.op == 0x0412 && a == b + r.ordinal * n
  if (r.op == 0x0411 && n % r.m != 0) || (r.op == 0x0413 && decide (r.m ≤ r.root)) then some 0x03
  else if uses && overlaps a n b m && !same then some 0x03
  else match if uses then refuseRange s .all part a n else none with
    | some e => some e
    | none => refuseRange s .all part b m

/-- Begin a collective (12/R402-R406). DEDUCED: log entry 18. -/
def collBegin (s : State) (slot op : Nat) : State :=
  match begun s slot op with
  | none => s
  | some c =>
    let g := c.queue - 15360
    let x := getGroup s g
    let ctx := grpCtx x
    let p2 := Pkt.p2 c.packet
    if x.run.isSome || (queueCmds s c.queue).any (fun d => decide (d.ord < c.ord) && d.phase != 2) then s
    else match activeMap s ctx with
    | none => refuseCmd s slot 0x67
    | some mapN => match mapEntryOf (getMap s mapN) g with
      | none => refuseCmd s slot 0x67
      | some m =>
        if s.fab.chip = none then endCmd s slot { cls := 3, reason := 0x6A }
        else
        let members := (groupMembers s m).map (physOf s)
        let nx := (m.x.coords 0).length
        let red := if op = 0x0410 ∨ op = 0x0411 then p2 / 2 ^ 24 % 4 else 0
        let root := if op = 0x0413 then p2 / 2 ^ 32 % 1024 else 0
        let r : CollRun := { slot, op, red, crates := p2 % 2 ^ 24 + 1, root, p0 := pktOff0 c.packet, p1 := pktOff1 c.packet
                             count := x.count, members, ordinal := (ownOrdinal s m).getD 0, nx, blocks := members.length / nx
                             chunkC := chunkSize s ctx (grpShare x) members.length, mapCheck := m.check
                             opCheck := opCheckOf op red (p2 % 2 ^ 24 + 1) root }
        if r.chunkC = 0 then refuseCmd s slot 0x67
        else match collRefusal s r (getCtx s ctx).part with
        | some e => refuseCmd s slot e
        | none =>
          let bell := x.pendingBell
          let s := modGroup s g fun x =>
            { x with count := (x.count + 1) % 2 ^ 32, members := members.length, map := mapN, chunkC := r.chunkC
                     ordinal := r.ordinal, blocks := r.blocks, nx, pendingBell := none, lastMembers := members
                     grants := x.grants.filter (fun y => y.count == r.count || y.count == (r.count + 1) % 2 ^ 32) }
          match bell with
          | some _ => endCmd (modGroup s g (fun x => { x with state := 1, lastReason := 0x65 })) slot { cls := 4, reason := 0x65 }
          | none =>
            let s := modGroup s g (fun x => { x with state := 2, run := some r })
            match ((getGroup s g).grants.filter (fun y => y.count == r.count)).findSome? (grantBad r) with
            | some e => collFail s g e
            | none => pumpAll s g

def execAllReduce (slot : Nat) (s : State) : Res := .next (collBegin s slot 0x0410)
def execReduceScatter (slot : Nat) (s : State) : Res := .next (collBegin s slot 0x0411)
def execAllGather (slot : Nat) (s : State) : Res := .next (collBegin s slot 0x0412)
def execBroadcast (slot : Nat) (s : State) : Res := .next (collBegin s slot 0x0413)

/-! ### Receiving (12/R405, R411) -/

/-- A GRANT arrives: compared when its collective runs, kept for the next; others are discarded. -/
def takeGrant (s : State) (g : Nat) (f : Frame) : State :=
  let x := getGroup s g
  let y : Grant := { count := f.opid, stage := f.aux / 2 ^ 12 % 4, chunk := f.aux / 2 ^ 14 % 2 ^ 24
                     ordinal := f.aux / 2 ^ 38 % 2 ^ 14, mapCheck := f.addr % 2 ^ 32, opCheck := f.addr / 2 ^ 32 }
  let keep (s : State) : State := modGroup s g (fun x => { x with grants := if x.grants.contains y then x.grants else x.grants ++ [y] })
  match x.run with
  | some r =>
    if f.opid = r.count then
      match grantBad r y with
      | some e => collFail s g e
      | none => pumpAll (keep s) g
    else if f.opid = x.count then keep s else s
  | none => if f.opid = x.count then keep s else s

/-- The group a COLL frame names, when it is enabled for the frame's context (12/R406, R416). -/
def frameGroup (s : State) (f : Frame) : Option Nat :=
  let g := f.aux % 1024
  let x := getGroup s g
  if grpEnabled x && grpCtx x == f.dctx && x.gen == f.dgen && (getCtx s f.dctx).gen == f.dgen then some g else none

/-- Verify a received operand or moved crate (12/R412): a failing or poisoned operand of a fold raises 0xE0 or 0xE1, a
failing moved crate 0xE7. -/
def verifyColl (s : State) (r : CollRun) (cg : CtxGen) (st : Nat) (f : Frame) : State × W128 :=
  let t := frameTag f
  let good := Tag.check t == Crc.crc64 (framePayload f)
  if st < 2 then
    if Tag.poisoned t then (raiseCrate s 0xE1 cg 0 (Tag.lineage t) 0xFFFF f.src, t)
    else if good then (s, t) else (raiseCrate s 0xE0 cg 0 (Tag.lineage t) 0xFFFF f.src, Tag.poison t)
  else if Tag.poisoned t || good then (s, t)
  else (raiseCrate s 0xE7 cg (r.p1 % 2 ^ 49) (Tag.lineage t) 0xFFFF f.src, Tag.poison t)

/-- A DATA frame of the running collective: its INDEX is the next expected, and the digest agrees on LAST. -/
def takeData (s : State) (g : Nat) (f : Frame) : State :=
  match getRun s g with
  | none => s
  | some r =>
    if f.opid ≠ r.count then s
    else
      let st := f.aux / 2 ^ 12 % 4
      let k := f.aux / 2 ^ 14 % 2 ^ 24
      let a := f.aux / 2 ^ 38 % 2 ^ 14
      let x := getGroup s g
      let old : Contrib := (r.contrib st k a).getD { stage := st, chunk := k, ordinal := a }
      let js := r.contribution st k a r.ordinal
      let i := old.crates.length
      let last := i + 1 == js.length
      if !r.stages.contains st || js[i]? != some f.index || f.last != last || f.data.isEmpty then collFailNaming s g 0xE4 a
      else if st < 2 && Tag.fmt (frameTag f) != Fmt.fp32 then collFail s g 0xF1
      else
        let (s, t) := verifyColl s r (grpCtx x, x.gen) st f
        let new : Contrib := { old with crates := old.crates ++ [{ j := f.index, tag := t, payload := framePayload f }], complete := last }
        if last && digestOf new.crates != BitVec.ofNat 64 f.addr then collFailNaming s g 0xE4 a
        else
          let s := modRun s g fun r =>
            { r with contribs := r.contribs.filter (fun c => !(c.stage == st && c.chunk == k && c.ordinal == a)) ++ [new] }
          if last then pumpAll s g else s

/-- The effect of an accepted COLL frame of a kind: the context is checked first (11/R377). -/
def collEffect (s : State) (f : Frame) : State :=
  match ctxGone s f with
  | some r => sendError s f 0x63 r
  | none => match frameGroup s f with
    | none => s
    | some g => if f.aux / 2 ^ 10 % 4 = 0 then takeGrant s g f else if f.aux / 2 ^ 10 % 4 = 1 then takeData s g f else s

/-- Process the next COLL frame of port `p` when it is of the kind of the command. -/
def recvColl (s : State) (p kind : Nat) : State :=
  match firstOf 0x06 0 [] (getPort s p).rx with
  | some (_, f) => if (f.aux / 2 ^ 10 % 4 == 0) == (kind == 0) then recvSeq s p 0x06 collEffect else s
  | none => s

def execCollGrant (p : Nat) (s : State) : Res := .next (recvColl s p 0)
def execCollData (p : Nat) (s : State) : Res := .next (recvColl s p 1)

/-! ### COLLECTIVE_COMPLETE (12/R413) -/

/-- Some frame of a collective is not yet sent or not yet acknowledged. -/
def collOutstanding (s : State) (g n : Nat) : Bool :=
  s.fab.sendq.any (fun i => i.relay.isNone && collFrame g n i.frame) || s.fab.bindq.any (fun i => collFrame g n i.frame)
    || s.fab.sessions.any (fun e => match e.2 with
      | some x => (sessUnacked x).any (fun u => collFrame g n u.frame)
      | none => false)

/-- The open record, if a step is open. -/
def openRec (s : State) : Option StepRec := s.stepSt.recs.find? (fun r => r.state == 1)
def modRec (s : State) (step : Nat) (f : StepRec → StepRec) : State :=
  { s with stepSt := { s.stepSt with recs := s.stepSt.recs.map (fun r => if r.step = step then f r else r) } }
/-- Crates of the preservation bitmap (14/R434). -/
def bitmapCrates (d : StepDir) : Nat := (d.shard + 32767) / 32768
/-- First crates of a record's areas (14/R436). -/
def recBitmap (s : State) (slot : Nat) : Nat := recordHeader s slot + 1
def recInputs (s : State) (slot : Nat) : Nat := recBitmap s slot + bitmapCrates s.stepSt.dir
def recDigests (s : State) (slot : Nat) : Nat := recInputs s slot + s.stepSt.dir.inputs
def recSaved (s : State) (slot : Nat) : Nat := recDigests s slot + s.stepSt.dir.digests

/-- Append a digest entry to the open record (14/R437); one that does not fit charges the step with 0x81. -/
def appendDigest (s : State) (ctx gen : Nat) (entry : List Byte) : State :=
  if !isTraining s ctx gen then s
  else match openRec s with
  | none => s
  | some r =>
    let i := r.digests
    if s.stepSt.dir.digests * 128 ≤ i then chargeStep s r.step 0x81
    else
      let s := setMem s (patchFw s.mem (recDigests s r.slot + i / 128) (i % 128 * 32) entry)
      let s := setMem s (patchFw s.mem (recordHeader s r.slot) 0x30 (Word.toLe 4 (i + 1)))
      modRec s r.step (fun r => { r with digests := i + 1 })

/-- Both digests of a finished collective (12/R413). -/
def collDigests (s : State) (r : CollRun) : W64 × W64 :=
  let own := (List.range r.chunks).flatMap (fun k => match r.contrib 4 k r.ordinal with | some c => c.crates | none => [])
  let js := (List.range r.total).filterMap (fun j => own.find? (fun c => c.j == j))
  let n := if r.op = 0x0411 then r.share else r.total
  (digestOf js, Crc.crc64 ((List.range n).flatMap (fun i => crateBytes s.mem (r.p1 / 4096 + i))))

/-- COLLECTIVE_COMPLETE of the command in `slot`. -/
def collectiveComplete (s : State) (slot : Nat) : State :=
  match s.groups.find? (fun e => match e.2.run with | some r => r.slot == slot | none => false) with
  | none => s
  | some (g, x) => match x.run, findCmd s slot with
    | some r, some c =>
      if r.chunksDone.length < r.chunks || collOutstanding s g r.count then s
      else
        let (dc, dr) := collDigests s r
        let entry := Word.toLe 2 g ++ Word.toLe 2 r.op ++ Word.toLe 4 (Pkt.tag c.packet) ++ Word.toLe 4 r.count
          ++ Word.toLe 4 0 ++ Word.toLe 8 dc.toNat ++ Word.toLe 8 dr.toNat
        let s := appendDigest s (grpCtx x) x.gen entry
        let s := modGroup s g (fun x => { x with run := none, state := if x.pendingBell.isSome then 3 else 1
                                                 grants := x.grants.filter (fun y => y.count != r.count) })
        endCmd s slot { cls := Word.b2n r.poisonedOut, reason := if r.poisonedOut then 0xE1 else 0
                        detail32 := dr.toNat % 2 ^ 32, result := if r.op = 0x0411 then r.share else r.total }
    | _, _ => s

def execCollectiveComplete (slot : Nat) (s : State) : Res := .next (collectiveComplete s slot)

/-! ### Silence, bells and backpressure (12/R410, R414, R417, R418) -/

/-- Member `a` has begun: a GRANT or DATA frame of this collective came from it. -/
def memberBegun (x : Group) (r : CollRun) (a : Nat) : Bool :=
  x.grants.any (fun y => y.count == r.count && y.ordinal == a) || r.contribs.any (fun c => c.ordinal == a && c.stage != 4)

/-- Something is awaited from member `a`: a contribution, or a GRANT for one that is ready. -/
def memberAwaited (x : Group) (r : CollRun) (a : Nat) : Bool :=
  (r.begun.filter (fun k => !r.chunksDone.contains k)).any fun k => r.stages.any fun st =>
    ((r.senders st k).contains a && !(match r.contrib st k a with | some c => c.complete | none => false))
      || ((r.receivers st k).contains a && !granted x r st k a)

/-- COLLECTIVE_SILENCE of member `a` of group `g`. -/
def collectiveSilence (s : State) (g a : Nat) : State :=
  let x := getGroup s g
  match x.run with
  | none => s
  | some r => if a != r.ordinal && memberBegun x r a && memberAwaited x r a then collFailNaming s g 0x66 a else s

def execCollectiveSilence (g a : Nat) (s : State) : Res := .next (collectiveSilence s g a)

/-- A BELL frame (12/R416, R418). -/
def bellEffect (s : State) (f : Frame) : State :=
  match frameGroup s f with
  | none => s
  | some g =>
    let x := getGroup s g
    let n := f.opid
    let b : BellOut := { count := n, reason := f.aux / 2 ^ 16 % 2 ^ 8, ordinal := f.aux / 2 ^ 24 % 2 ^ 14
                         chip := f.index % 2 ^ 15, left := 3, members := [] }
    let others := (x.lastMembers.zipIdx.filter (fun e => e.2 != x.ordinal)).map (·.1)
    if x.bellValid && x.bellCount == n then s
    else match x.run with
    | some r =>
      if r.count = n then
        let s := ringBell (dropRun s g r 0x65) g { b with members := r.others }
        endCmd s r.slot { cls := 4, reason := 0x65 }
      else rest s g x b others n
    | none => rest s g x b others n
where
  rest (s : State) (g : Nat) (x : Group) (b : BellOut) (others : List Nat) (n : Nat) : State :=
    let d := (2 ^ 32 + x.count - n) % 2 ^ 32
    if d = 0 then
      let ms := match activeMap s (grpCtx x) with
        | some k => (match mapEntryOf (getMap s k) g with
          | some m => ((groupMembers s m).map (physOf s)).filter (fun c => c != ownChip s)
          | none => others)
        | none => others
      ringBell (modGroup s g (fun x => { x with pendingBell := some b.reason, state := if x.run.isSome then x.state else 3 })) g
        { b with members := ms }
    else if d < 2 ^ 31 ∧ d ≤ x.count then
      ringBell (raiseColl s 0x65 (grpCtx x, x.gen) g b.ordinal b.chip n) g { b with members := others }
    else s

def execBell (p : Nat) (s : State) : Res := .next (recvCtl s p 0x14 bellEffect)

/-- BELL_RESEND of group `g`: the oldest bell is sent once more. -/
def bellResend (s : State) (g : Nat) : State :=
  match (getGroup s g).bells with
  | [] => s
  | b :: t =>
    let b' : BellOut := { b with left := b.left - 1 }
    sendBells (modGroup s g (fun x => { x with bells := if b'.left = 0 then t else t ++ [b'] })) g b

def execBellResend (g : Nat) (s : State) : Res := .next (bellResend s g)

/-- GROUP_BACKPRESSURE: set with its event, or cleared. -/
def groupBackpressure (s : State) (g : Nat) (held : Bool) : State :=
  let x := getGroup s g
  if held then
    if x.run.isSome then raiseUnit (modGroup s g (fun x => { x with backpressure := true })) 0x0E (grpCtx x, x.gen) 0#64
      (2 + g * 2 ^ 16) none x.backpressure else s
  else modGroup s g (fun x => { x with backpressure := false })

def execGroupBackpressure (g : Nat) (held : Bool) (s : State) : Res := .next (groupBackpressure s g held)

end Sys2Proof.Machine
end

