-- ==== Sys2Proof/Machine/Porter.lean ====
section
/-!
DEFINITION. The Porter inside the module (06/R165-R180): PMOVE, PACC, PGATHER, PSCATTER and the completion of marked
transfers. PFABRIC stands with the fabric.
-/
namespace Sys2Proof.Machine

/-- The far crate of a PMOVE or PACC, before any check (06/R166): local crate number for FAR_KIND 0, the crate in
program core p's scratchpad for FAR_KIND 1. -/
def farCrate (l : Launch) (w : W128) : Nat :=
  if Ins.bits w 57 56 = 0 then Ins.bits w 55 19
  else scratchBase (l.cores.getD (Ins.bits w 55 46) 0) / 4096 + Ins.bits w 45 35

/-- The refusal of the far crates of a transfer at issue (06/R167, 07/R196). -/
def farRefusal (s : State) (l : Launch) (w : W128) (n : Nat) : Option Nat :=
  if Ins.bits w 57 56 = 0 then refuseRange s .tiers (getCtx s l.ctx).part (Ins.bits w 55 19) n
  else if 1536 < Ins.bits w 45 35 + n then some 0x40 else none

/-- Crates of a transfer (06/R168). -/
def moveCount (w : W128) : Nat := Ins.bits w 68 58 + 1

/-- The remote signal of a PMOVE or PACC (06/R168): core and bin, when RSIG is set. -/
def remoteSignal (l : Launch) (w : W128) : Option (Nat × Nat) :=
  if (Ins.op w = 0x40 ∨ Ins.op w = 0x43) ∧ Ins.bits w 57 56 = 1 ∧ Ins.bit w 28 then some (l.cores.getD (Ins.bits w 55 46) 0, Ins.bits w 34 29) else none

/-- A core still holds the bins of a launch, and has not stopped by fault (03/R92, 06/R182). -/
def coreHolds (s : State) (core load : Nat) : Bool := (getCore s core).load == load && (getCore s core).run != 3

/-- Make the remote signal: a post for a write of the far place, a release for a read; a breach is the bin fault at
the far core (06/R168). -/
def makeRemote (s : State) (load : Nat) (read : Bool) : Option (Nat × Nat) → State
  | none => s
  | some (c, b) =>
    if !coreHolds s c load then s
    else
      match if read then release (getCore s c) b else post (getCore s c) b with
      | some x => setCore s c x
      | none => scheduleBroken s c 4 (getStation (getCore s c) 4).pc (if read then 0xEC else 0xEB) b 0

/-- The tally of a Porter instruction, when TEN is set (06/R168). -/
def porterTally (w : W128) : Option Nat := if Ins.bit w 17 then some (Ins.bits w 16 1) else none

/-- The tally add of a Porter instruction at completion (06/R168, R178), with its launch's epoch (10/R337). -/
def makeTally (s : State) (ctx epoch : Nat) (w : W128) : State :=
  match porterTally w with
  | some t => addTallyAt s ctx t 1 epoch
  | none => s

/-- The epoch that the tally of a Porter instruction had at the launch edge. -/
def porterEpoch (l : Launch) (w : W128) : Nat := match porterTally w with | some t => launchEpoch l t | none => 0

/-- Add one local crate into a far crate (06/R169): `none` when either is not FP32. -/
def accCrate (s : State) (cg : CtxGen) (core loc far : Nat) : State × Bool :=
  if Tag.fmt (crateTag s.mem loc) ≠ Fmt.fp32 ∨ Tag.fmt (crateTag s.mem far) ≠ Fmt.fp32 then (s, false)
  else
    let (s, p, _, bad) := consume s cg core loc
    let (s, q, _, bad') := consume s cg core far
    let r := addPayload q p
    let (s, lin) := coreLineageNext s core
    (putCrate s far r (Tag.computed r Fmt.fp32 0 (Tag.flagsOf 0 (bad || bad') false false false false) lin), true)

/-- The reason of an operand that PACC does not take: 0xE2 for an unrecognised format, else 0xF1. -/
def accReason (s : State) (loc far : Nat) : Nat :=
  if !Fmt.known (Tag.fmt (crateTag s.mem loc)) || !Fmt.known (Tag.fmt (crateTag s.mem far)) then 0xE2 else 0xF1

/-- Move or accumulate the crates of one local slot. -/
def moveSlot (core : Nat) (cg : CtxGen) (w : W128) : Nat → Nat → Nat → State → Except Run State
  | 0, _, _, s => .ok s
  | n + 1, loc, far, s =>
    if Ins.op w = 0x43 then
      match accCrate s cg core loc far with
      | (s', true) => moveSlot core cg w n (loc + 1) (far + 1) s'
      | (_, false) => .error (.fault (accReason s loc far) s)
    else if Ins.bit w 87 then moveSlot core cg w n (loc + 1) (far + 1) (moveCrate s cg core far loc)
    else moveSlot core cg w n (loc + 1) (far + 1) (moveCrate s cg core loc far)

/-- The crates of a transfer from crate `k` of `total` on, slot by slot with the implicit waits, releases and posts of
05/R135; on an unsatisfied wait of a later slot of a marked transfer the count done so far. DEDUCED: log entry 11. -/
def moveSlots (core : Nat) (cg : CtxGen) (w : W128) (far total : Nat) : Nat → Nat → State → Except (Run × Nat) State
  | 0, _, s => .ok s
  | fuel + 1, k, s =>
    if total ≤ k then .ok s
    else
      let b := Ins.bits w 86 81
      let keep := Ins.bit w 80
      let write := Ins.op w == 0x40 && Ins.bit w 87
      let bin := getBin (getCore s core) b
      let slot := if keep then (Ins.bits w 79 69 + k / bin.slotCrates) % bin.slotCount
        else if write then bin.fillSlot else bin.emptySlot
      match if keep then none
        else implicitWait s w (if write then bin.spaceOk else bin.dataOk) (if write then 0xEA else 0xE9) b with
      | some r => .error (r, k)
      | none =>
        let n := min bin.slotCrates (total - k)
        match moveSlot core cg w n (slotCrate core bin slot 0) (far + k) s with
        | .error r => .error (r, k)
        | .ok s =>
          if keep then moveSlots core cg w far total fuel (k + n) s
          else match if write then implicitPost s core b else implicitRelease s core b with
            | .error r => .error (r, k)
            | .ok s => moveSlots core cg w far total fuel (k + n) s

/-- The in-flight entry of a marked transfer is free (06/R177). -/
def inflightFree (c : Core) : Bool := decide (c.inflight.length < 64)

/-- Put a marked transfer in flight (06/R177). -/
def addTransfer (s : State) (core : Nat) (w : W128) (k : Nat) (moved : Bool) : State :=
  modCore s core fun c =>
    { c with nextTransfer := c.nextTransfer + 1
             inflight := c.inflight ++ [{ id := c.nextTransfer, instr := w, index := (getStation c 4).pc, done := k, moved
                                          launch := c.load, ctx := (coreCtx s core).1, gen := (coreCtx s core).2
                                          far := farCrate (coreLaunch s core) w
                                          remote := remoteSignal (coreLaunch s core) w
                                          epoch := porterEpoch (coreLaunch s core) w, step := s.stepSt.cur }] }

/-- PMOVE and PACC: an unmarked one moves all its words and signals; a marked one issues and moves what its slots
allow, the rest when it completes (06/R168, R177, log entry 11). -/
def bodyMove (s : State) (core : Nat) (w : W128) : Run :=
  let l := coreLaunch s core
  let n := moveCount w
  if Ins.vt w && !inflightFree (getCore s core) then .hold .wait s
  else match farRefusal s l w n with
  | some r => .fault r s
  | none =>
    match moveSlots core (coreCtx s core) w (farCrate l w) n (n + 1) 0 s with
    | .ok s =>
      if Ins.vt w then .issued (addTransfer s core w n true)
      else
        let s := makeRemote s (getCore s core).load (Ins.op w == 0x40 && Ins.bit w 87) (remoteSignal l w)
        .done (makeTally s l.ctx (porterEpoch l w) w)
    | .error (.hold .wait s, k) => .issued (addTransfer s core w k false)
    | .error (r, _) => r

/-- PMOVE (06/R168). -/
def bodyPmove (s : State) (core : Nat) (w : W128) (_ : Finding) : Run := bodyMove s core w
/-- PACC (06/R169). -/
def bodyPacc (s : State) (core : Nat) (w : W128) (_ : Finding) : Run := bodyMove s core w

def execPmove (core : Nat) (f : Finding) (s : State) : Res := .next (issue s core 4 0x40 f bodyPmove)
def execPacc (core : Nat) (f : Finding) (s : State) : Res := .next (issue s core 4 0x43 f bodyPacc)

/-! ### PGATHER and PSCATTER (06/R170, R171) -/

/-- Index entry `i` of the list's payload. -/
def idxOf (p : List Byte) (i : Nat) : Nat := leAt p (4 * i) 4

/-- A 64-byte sector is uncorrectable. -/
def sectorBad (m : Mem) (a : Nat) : Bool := m.bad.contains (a / 64)

/-- Crate granularity: entry `i` of `n`, data slots waited for and posted or released in turn. -/
def idxCrates (core : Nat) (cg : CtxGen) (part : Nat) (w : W128) (idx : List Byte) (n : Nat) (scatter : Bool) :
    Nat → Nat → State → Except (Run × Nat) State
  | 0, _, s => .ok s
  | fuel + 1, i, s =>
    if n ≤ i then .ok s
    else
      let b := Ins.bits w 81 76
      let bin := getBin (getCore s core) b
      let pos := i % bin.slotCrates
      match if pos ≠ 0 then none
        else implicitWait s w (if scatter then bin.dataOk else bin.spaceOk) (if scatter then 0xE9 else 0xEA) b with
      | some r => .error (r, i)
      | none =>
        let far := Ins.bits w 64 28 + idxOf idx i
        let loc := slotCrate core bin (if scatter then bin.emptySlot else bin.fillSlot) pos
        match refuse s .tiers part (far * 4096) with
        | some r => .error (.fault r s, i)
        | none =>
          let s := if scatter then moveCrate s cg core loc far else moveCrate s cg core far loc
          if pos + 1 = bin.slotCrates then
            match if scatter then implicitRelease s core b else implicitPost s core b with
            | .error r => .error (r, i)
            | .ok s => idxCrates core cg part w idx n scatter fuel (i + 1) s
          else idxCrates core cg part w idx n scatter fuel (i + 1) s

/-- Sectors of one assembled crate: entries `i` on, at most `k`; the bytes, the poison flag, and a refusal if one
stopped it. -/
def idxSectors (s : State) (part : Nat) (w : W128) (idx : List Byte) : Nat → Nat → List Byte × Bool × Option Nat
  | 0, _ => ([], false, none)
  | k + 1, i =>
    let a := Ins.bits w 64 28 * 4096 + idxOf idx i * 64
    match refuse s .tiers part a with
    | some r => ([], false, some r)
    | none =>
      let (bs, bad, r) := idxSectors s part w idx k (i + 1)
      (readBytes s.mem.cells a 64 ++ bs, bad || sectorBad s.mem a || (s.mem.opened.contains (a / 4096)), r)

/-- Sector granularity: assemble the crates of one slot (06/R170, R171). -/
def gatherSectors (core part : Nat) (w : W128) (idx : List Byte) (n : Nat) : Nat → Nat → State → Except (Run × Nat) State
  | 0, _, s => .ok s
  | fuel + 1, j, s =>
    let bin := getBin (getCore s core) (Ins.bits w 81 76)
    if bin.slotCrates ≤ j then .ok s
    else
      let k := min 64 (n - 64 * j)
      let (bs, bad, r) := idxSectors s part w idx k (64 * j)
      let p := (bs ++ zeroPayload).take 4096
      match r with
      | some r =>
        -- a crate partly assembled when it reached the refused entry is written poisoned
        let s := if bs = [] then s else
          let (s, lin) := coreLineageNext s core
          putCrate s (slotCrate core bin bin.fillSlot j) p (Tag.computed p 6 0 (Tag.flagsOf 0 true false false false true) lin)
        .error (.fault r s, 0)
      | none =>
        let (s, lin) := coreLineageNext s core
        let s := putCrate s (slotCrate core bin bin.fillSlot j) p (Tag.computed p 6 0 (Tag.flagsOf 0 bad false false false true) lin)
        gatherSectors core part w idx n fuel (j + 1) s

/-- The data side of a gather or scatter from entry `i` on. -/
def idxRun (core : Nat) (cg : CtxGen) (part : Nat) (w : W128) (idx : List Byte) (i : Nat) (s : State) : Except (Run × Nat) State :=
  let n := Ins.bits w 75 66 + 1
  let scatter := Ins.op w == 0x42
  if !scatter && Ins.bit w 65 then
    let b := Ins.bits w 81 76
    match implicitWait s w (getBin (getCore s core) b).spaceOk 0xEA b with
    | some r => .error (r, 0)
    | none =>
      match gatherSectors core part w idx n (n + 1 + (getBin (getCore s core) b).slotCrates) 0 s with
      | .error r => .error r
      | .ok s => match implicitPost s core b with
        | .ok s => .ok s
        | .error r => .error (r, 0)
  else idxCrates core cg part w idx n scatter n i s

/-- PGATHER and PSCATTER: always marked (06/R170). The index list is the first crate of the EMPTY slot of IDX_BIN.
DEDUCED: log entry 11. -/
def bodyIdx (s : State) (core : Nat) (w : W128) : Run :=
  let l := coreLaunch s core
  let ib := Ins.bits w 87 82
  let ibin := getBin (getCore s core) ib
  if !inflightFree (getCore s core) then .hold .wait s
  else match implicitWait s w ibin.dataOk 0xE9 ib with
  | some r => r
  | none =>
    let cg := coreCtx s core
    let (s, p, t, _) := consume s cg core (slotCrate core ibin ibin.emptySlot 0)
    if !Fmt.known (Tag.fmt t) then .fault 0xE2 s
    else if Tag.fmt t ≠ Fmt.untyped then .fault 0xF1 s
    else match idxRun core cg (getCtx s l.ctx).part w p 0 s with
      | .ok s => .issued (addTransfer s core w (Ins.bits w 75 66 + 1) true)
      | .error (.hold .wait s, k) => .issued (addTransfer s core w k false)
      | .error (r, _) => r

/-- PGATHER (06/R170, R171). -/
def bodyPgather (s : State) (core : Nat) (w : W128) (_ : Finding) : Run := bodyIdx s core w
/-- PSCATTER (06/R170, R171). -/
def bodyPscatter (s : State) (core : Nat) (w : W128) (_ : Finding) : Run := bodyIdx s core w

def execPgather (core : Nat) (f : Finding) (s : State) : Res := .next (issue s core 4 0x41 f bodyPgather)
def execPscatter (core : Nat) (f : Finding) (s : State) : Res := .next (issue s core 4 0x42 f bodyPscatter)

/-! ### Completion of marked transfers (06/R177, R178) -/

/-- Replace a transfer of a core by identifier, or drop it. -/
def dropTransfer (s : State) (core id : Nat) : State :=
  modCore s core fun c => { c with inflight := c.inflight.filter (fun t => t.id != id) }
def modTransfer (s : State) (core id : Nat) (f : Transfer → Transfer) : State :=
  modCore s core fun c => { c with inflight := c.inflight.map (fun t => if t.id = id then f t else t) }

/-- What a background transfer still moves once its slots allow: the state and whether all is moved. DEDUCED: log entry
11. -/
def continueTransfer (s : State) (core : Nat) (t : Transfer) : State × Bool :=
  let w := t.instr
  let cg : CtxGen := (t.ctx, t.gen)
  let go (r : Except (Run × Nat) State) : State × Bool :=
    match r with
    | .ok s => (s, true)
    | .error (.hold _ s, k) => (modTransfer s core t.id (fun t => { t with done := k }), false)
    | .error (.fault r s, _) => (stationFault (modTransfer s core t.id (fun t => { t with failed := true })) core 4 t.index r, false)
    | .error (.broken r b s, _) => (scheduleBroken (modTransfer s core t.id (fun t => { t with failed := true })) core 4 t.index r b 0, false)
    | .error _ => (s, false)
  if Ins.op w = 0x40 ∨ Ins.op w = 0x43 then
    go (moveSlots core cg w t.far (moveCount w) (moveCount w + 1) t.done s)
  else
    let ibin := getBin (getCore s core) (Ins.bits w 87 82)
    let p := crateBytes s.mem (slotCrate core ibin ibin.emptySlot 0)
    go (idxRun core cg (getCtx s t.ctx).part w p t.done s)

/-- A transfer writes into its own core's bank: a read of a far place, and a gather. -/
def writesLocal (w : W128) : Bool := (Ins.op w == 0x40 && Ins.bit w 87) || Ins.op w == 0x41

/-- Completion makes the index list's release, the remote signal, the tally add and the signal slots. Those on the
core's own bins are made while the core still holds the launch's bins, which may be after the launch has ended; a core
that stopped by fault completes no transfer into its own bank (03/R92, 06/R177, R182). -/
def completeTransfer (s : State) (core : Nat) (t : Transfer) : State :=
  let w := t.instr
  let s := dropTransfer s core t.id
  if (getCore s core).load == t.launch && (getCore s core).run == 3 && writesLocal w then s
  else
    let s := if coreHolds s core t.launch && (Ins.op w == 0x41 || Ins.op w == 0x42) then
        (match implicitRelease s core (Ins.bits w 87 82) with | .ok s => s | .error _ => s) else s
    let s := makeRemote s t.launch (Ins.op w == 0x40 && Ins.bit w 87) t.remote
    let s := makeTally s t.ctx t.epoch w
    if coreHolds s core t.launch then signals s core 4 t.index w else s

/-- MARKED_TRANSFER_COMPLETE: the rest is moved if its slots allow, and a transfer whose words are all in place
completes; a fabric transfer completes once no operation of it is open. -/
def transferComplete (s : State) (core id : Nat) (f : Finding) : State :=
  match (getCore s core).inflight.find? (fun t => t.id == id) with
  | none => s
  | some t =>
    if t.failed then dropTransfer s core id
    else if Ins.op t.instr = 0x44 then (if t.ops = [] && t.moved then completeTransfer s core t else s)
    else if t.moved then completeTransfer (applyMarks s f) core t
    -- the slots it still needs are gone with the bins of its launch
    else if !coreHolds s core t.launch then dropTransfer s core id
    else match continueTransfer (applyMarks s f) core t with
      | (s, true) => completeTransfer s core t
      | (s, false) => s


end Sys2Proof.Machine
end

