-- ==== Sys2Proof/Machine/Launch.lean ====
section
/-!
DEFINITION. Program images and their checks (03/R81-R90, 05/R131, R133, 06/R164, R172), loading a launch, the launch
edge, the end of a launch, LAUNCH_ABORT and the housekeeping windows.
-/
namespace Sys2Proof.Machine

/-! ### Images (03/R81-R83) -/

/-- One core-table entry of an image (03/R82) with its bins and streams. -/
structure ImgCore where
  programCore : Nat
  binCount : Nat
  binTable : Nat
  reserved : Nat
  offs : List Nat
  lens : List Nat
  rawBins : List (List Byte)
  streams : List (List W128)
deriving DecidableEq, Repr

/-- An image header (03/R81). -/
structure ImgHead where
  n : Nat
  table : Nat
  size : Nat
  placeD : Nat
  bridges : Nat
  ok : Bool
deriving DecidableEq, Repr

/-- Read the header at local offset `a`. -/
def readHead (m : Mem) (a : Nat) : ImgHead :=
  let h := readBytes m.cells a 256
  let n := leAt h 8 2
  let d := leAt h 0x20 1
  let bridges := leAt h 0x28 16
  { n, table := leAt h 0xC 4, size := leAt h 0x10 8, placeD := d, bridges
    ok := leAt h 0 4 == 0x50445A4D && leAt h 4 2 == 1 && leAt h 6 2 == 0x100 && decide (1 ≤ n) && decide (n ≤ 1024)
      && leAt h 0xA 2 == 0 && leAt h 0xC 4 % 64 == 0 && decide (d ≤ 8) && leAt h 0x21 7 == 0
      && leAt h 0x38 200 == 0 && (d != 0 || bridges == 0)
      && decide (leAt h 0xC 4 + 64 * n ≤ leAt h 0x10 8) && decide (256 ≤ leAt h 0x10 8)
      && (List.range 64).all (fun k => (decide (k / 8 < d) && decide (k % 8 < d)) || Word.bitsOf bridges (2 * k + 1) (2 * k) == 0) }

/-- Read core entry `p` of an image at `a`. -/
def readImgCore (m : Mem) (a : Nat) (h : ImgHead) (p : Nat) : ImgCore :=
  let e := readBytes m.cells (a + h.table + 64 * p) 64
  let offs := (List.range 6).map fun s => leAt e (8 + 8 * s) 4
  let lens := (List.range 6).map fun s => leAt e (0xC + 8 * s) 4
  let binCount := leAt e 2 2
  { programCore := leAt e 0 2, binCount, binTable := leAt e 4 4, reserved := leAt e 0x38 8, offs, lens
    rawBins := (List.range (min binCount 64)).map fun j => readBytes m.cells (a + leAt e 4 4 + 16 * j) 16
    streams := (List.range 6).map fun s => (List.range (min (lens.getD s 0) 4096)).map fun i =>
      BitVec.ofNat 128 (Word.leNat (readBytes m.cells (a + offs.getD s 0 + 16 * i) 16)) }

/-- The entry is as R82 decides and its tables lie in the image. -/
def ImgCore.entryOk (c : ImgCore) (h : ImgHead) (p : Nat) : Bool :=
  c.programCore == p && decide (c.binCount ≤ 64) && c.binTable % 16 == 0 && c.reserved == 0
    && c.offs.all (· % 16 == 0)
    && (c.binCount == 0 || decide (c.binTable + 16 * c.binCount ≤ h.size))
    && (List.range 6).all (fun s => c.lens.getD s 0 == 0 || decide (c.offs.getD s 0 + 16 * c.lens.getD s 0 ≤ h.size))

/-- The bin of a descriptor (03/R83, R84). -/
def binOf (d : List Byte) : Bin :=
  let n := leAt d 0xA 2
  let full := Word.bitOf (leAt d 0xE 1) 0
  { base := leAt d 0 4, stride := leAt d 4 4, slotCrates := leAt d 8 2, slotCount := n, producer := leAt d 0xC 1
    consumer := leAt d 0xD 1, startFull := full, fill := if full then n else 0, empty := 0 }

/-- Slot `i` of a bin as a byte range. -/
def Bin.slotAt (b : Bin) (i : Nat) : Nat := b.base + i * (if b.slotCount = 1 then 0 else b.stride)

/-- A bin descriptor alone is as R83 and R84 decide. -/
def descOk (d : List Byte) : Bool :=
  let b := binOf d
  b.base % 4096 == 0 && (b.slotCount == 1 || (b.stride % 4096 == 0 && decide (b.slotCrates * 4096 ≤ b.stride)))
    && decide (1 ≤ b.slotCrates) && decide (b.slotCrates ≤ 1536) && decide (1 ≤ b.slotCount) && decide (b.slotCount ≤ 1536)
    && decide (b.producer ≤ 7) && decide (b.consumer ≤ 6) && decide (leAt d 0xE 1 ≤ 1) && leAt d 0xF 1 == 0
    && decide (b.slotAt (b.slotCount - 1) + b.slotCrates * 4096 ≤ 0x600000)
    && (b.producer != 7 || b.startFull) && (b.producer != b.consumer || b.producer == 6)

/-- The crates of a bin's slots within the scratchpad. -/
def Bin.crates (b : Bin) : List Nat :=
  (List.range b.slotCount).flatMap fun i => (List.range b.slotCrates).map fun k => b.slotAt i / 4096 + k

/-- No two slots of a core overlap. -/
def binsDisjoint (bs : List Bin) : Bool :=
  ((bs.flatMap Bin.crates).foldl (fun (acc : Nat × Bool) c =>
    (acc.1 ||| (1 <<< c), acc.2 && !Nat.testBit acc.1 c)) (0, true)).2

def ImgCore.bins (c : ImgCore) : List Bin := c.rawBins.map binOf
def ImgCore.binsOk (c : ImgCore) : Bool := c.rawBins.all descOk && binsDisjoint c.bins

/-! ### Binding and placement (03/R85, R86, 01/R20) -/

/-- The bridges that R20 gives between two dies. -/
def dieBridges (a b : Nat) : Nat :=
  let dist (x y : Nat) : Nat := (x - y) + (y - x)
  let cs := a % 4
  let ct := b % 4
  if a = b then 0
  else if a / 4 = b / 4 then dist cs ct
  else min (1 + dist cs ct) (min (dist cs 1 + 1 + dist 2 ct) (dist cs 2 + 1 + dist 1 ct))

/-- The logical core bound to program core `p` (03/R85). -/
def bindCore (dies : List Nat) (p : Nat) : Nat := dies.getD (p % dies.length) 0 * 128 + p / dies.length

/-- The placement of a bound image matches the partition (03/R86). -/
def placeOk (h : ImgHead) (dies : List Nat) : Bool :=
  h.placeD == 0 || (h.placeD == dies.length &&
    (List.range 64).all fun k =>
      if k / 8 < h.placeD ∧ k % 8 < h.placeD then
        Word.bitsOf h.bridges (2 * k + 1) (2 * k) == dieBridges (dies.getD (k / 8) 0) (dies.getD (k % 8) 0)
      else true)

/-! ### Instruction checks (05/R129-R134, R137-R158, 06/R163-R191) -/

/-- The operand bits [87:0] that an opcode of a station defines; `none` for an opcode the station does not have. -/
def operandMask (st op : Nat) : Option Nat :=
  let r (hi lo : Nat) : Nat := 2 ^ (hi + 1) - 2 ^ lo
  if op = 0x00 then some (r 31 0)
  else if op = 0x7F then some (r 17 0)
  else match st, op with
  | 0, 0x01 => some (r 87 50)
  | 0, 0x02 => some (r 87 59)
  | 0, 0x03 => some (r 87 56)
  | 1, 0x10 => some (r 87 61)
  | 1, 0x11 => some (r 87 64)
  | 1, 0x12 => some (r 87 64)
  | 1, 0x13 => some (r 8 0)
  | 2, 0x20 => some (r 87 7)
  | 2, 0x21 => some (r 87 44 + r 31 0)
  | 3, 0x30 => some (r 87 54)
  | 3, 0x31 => some (r 87 51)
  | 3, 0x32 => some (r 87 77)
  | 3, 0x33 => some (r 87 83 + r 31 0)
  | 3, 0x34 => some (r 87 64)
  | 3, 0x35 => some (r 87 78 + r 67 64)
  | 3, 0x36 => some (r 87 78 + r 72 55)
  | 3, 0x37 => some (r 87 78 + r 63 56)
  | 4, 0x40 => some (r 87 1)
  | 4, 0x41 => some (r 87 28 + r 17 1)
  | 4, 0x42 => some (r 87 66 + r 64 28 + r 17 1)
  | 4, 0x43 => some (r 86 1)
  | 4, 0x44 => some (r 87 22 + r 17 1)
  | 5, 0x50 => some (r 87 24)
  | 5, 0x51 => some (r 87 39)
  | 5, 0x52 => some (r 87 3)
  | 5, 0x53 => some (r 87 80)
  | 5, 0x54 => some (r 87 85)
  | _, _ => none

/-- What the checks of an instruction look at beside its word. -/
structure CheckCtx where
  s : State
  part : Nat
  ctx : Nat
  n : Nat
  p : Nat
  st : Nat
  bins : List Bin
  /-- the bins of every program core -/
  all : List (List Bin)
  unbound : Bool

/-- A station's instruction posts, releases, reads or writes bins as their descriptors allow (05/R131). -/
def CheckCtx.postOk (x : CheckCtx) (b : Nat) : Bool :=
  match x.bins[b]? with | some y => y.producer == x.st | none => false
def CheckCtx.releaseOk (x : CheckCtx) (b : Nat) : Bool :=
  match x.bins[b]? with | some y => y.consumer == x.st | none => false

def slotsOk (x : CheckCtx) (w : W128) : Bool :=
  (Ins.waits w).all (fun y => !y.en || decide (y.bin < x.bins.length)) &&
  (Ins.sigs w).all (fun y => !y.en || (if y.kind then x.releaseOk y.bin else x.postOk y.bin))

/-- Crates per slot of a bin of the core. -/
def CheckCtx.slotCrates (x : CheckCtx) (b : Nat) : Nat := match x.bins[b]? with | some y => y.slotCrates | none => 0

/-- R196 refuses a crate for a reason fixed at launch (06/R164). -/
def fixedRefusal (s : State) (part crate : Nat) : Bool :=
  match refuse s .tiers part (crate * 4096) with
  | some r => r == 0x42 || r == 0x43 || r == 0x44 || r == 0x46
  | none => false

/-- Far places of PMOVE and PACC (06/R164, R166, R168). -/
def farOk (x : CheckCtx) (w : W128) : Bool :=
  let n := moveCount w
  match Ins.bits w 57 56 with
  | 0 => (List.range n).all (fun i => !fixedRefusal x.s x.part (Ins.bits w 55 19 + i))
  | 1 =>
    let p := Ins.bits w 55 46
    let bin := (x.all.getD p [])[Ins.bits w 34 29]?
    let read := Ins.op w == 0x40 && Ins.bit w 87
    decide (p < x.n) && decide (Ins.bits w 45 35 + n ≤ 1536) && Ins.bits w 27 19 == 0 &&
      (!Ins.bit w 28 || match bin with | some b => (if read then b.consumer else b.producer) == 6 | none => false)
  | _ => false

/-- A scratch-mode market-store slice holds the crate. -/
def inScratchSlice (s : State) (crate : Nat) : Bool :=
  match regionOf (crate * 4096) with | .slice i => !(tget {} s.mem.slices i).cache | _ => false

/-- The operands of PMOVE and PACC allow it to be unmarked (06/R172). -/
def mayUnmark (x : CheckCtx) (w : W128) : Bool :=
  if Ins.bits w 57 56 = 1 then
    Ins.op w == 0x43 || !Ins.bit w 87 || Ins.bits w 55 46 == x.p
  else (List.range (moveCount w)).all (fun i => inScratchSlice x.s (Ins.bits w 55 19 + i))

/-- An unbound image has no unmarked transfer but loop-back ones, and no fence of die scope (03/R86). -/
def unboundOk (x : CheckCtx) (w : W128) : Bool :=
  let o := Ins.op w
  if o = 0x7F then Ins.bits w 17 16 != 1
  else if x.st = 4 ∧ (o = 0x40 ∨ o = 0x43) ∧ !Ins.vt w then Ins.bits w 57 56 == 1 && Ins.bits w 55 46 == x.p
  else true

/-- VT must be 1 (05/R133, 06/R191). -/
def mustMark (x : CheckCtx) (w : W128) : Bool :=
  let o := Ins.op w
  o == 0x7F || (x.st == 0 && o == 0x01 && (Ins.bit w 63 || Ins.bit w 62)) || (x.st == 0 && o == 0x02 && Ins.bit w 71)
    || (x.st == 1 && o == 0x10 && Ins.bit w 61) || (x.st == 2 && o == 0x21 && (Ins.bit w 58 || Ins.bit w 55))
    || (x.st == 4 && (o == 0x41 || o == 0x42 || o == 0x44)) || (x.st == 4 && (o == 0x40 || o == 0x43) && !mayUnmark x w)
    || (x.st == 5 && (o == 0x50 || (o == 0x51 && Ins.bit w 39)))

/-- Lines of one pack unit by target format (05/R150). -/
def unitLines (target : Nat) : Nat :=
  if target = 1 then 56 else if target = 2 ∨ target = 3 then 28 else if target = 4 then 16 else 8

/-- Operands lie in the ranges of their encoding tables, and the per-instruction checks of R131 and R164 hold. -/
def operandsOk (x : CheckCtx) (w : W128) : Bool :=
  let b (hi lo : Nat) : Nat := Ins.bits w hi lo
  let src (i : Nat) : Bool := x.releaseOk i
  let dst (i : Nat) : Bool := x.postOk i
  if Ins.op w = 0x00 then decide (1 ≤ b 31 0)
  else if Ins.op w = 0x7F then decide (b 17 16 ≤ 2)
  else match Ins.op w with
  | 0x01 => src (b 87 82) && decide (1 ≤ b 81 66)
  | 0x02 => src (b 87 82) && decide (1 ≤ b 81 78) && decide (b 81 78 ≤ 8) && (!Ins.bit w 77 || b 81 78 == 8)
  | 0x03 => src (b 87 82) && decide (b 66 56 < x.slotCrates (b 87 82))
  | 0x10 => decide (b 87 77 + b 76 66 ≤ 2047)
  | 0x11 => decide (b 87 77 + b 76 66 ≤ 2047) && b 65 64 != 3
  | 0x12 => decide (b 87 77 + b 76 66 ≤ 2047)
  | 0x13 => decide (b 8 0 ≤ 256)
  | 0x21 =>
    let count := b 74 64 + 1
    let target := b 63 61
    let rw := Ins.bit w 58
    let pred := Ins.bit w 55
    let tr := Ins.bit w 56
    let units := (count + unitLines target - 1) / unitLines target
    (!Ins.bit w 87 || src (b 86 81)) && dst (b 80 75) && decide (1 ≤ target) && decide (target ≤ 5)
      && (!tr || count % 128 == 0) && (!rw || (target == 1 && x.slotCrates (b 80 75) == 2)) && (!pred || tr)
      && decide (b 54 44 ≤ 1535) && (!pred || decide (b 54 44 * 4096 + units * 512 ≤ 0x600000))
  | 0x30 => src (b 82 77) && b 87 83 % 4 == 0 && decide (b 76 66 < x.slotCrates (b 82 77))
  | 0x31 => dst (b 82 77) && decide (b 76 66 < x.slotCrates (b 82 77)) &&
      ((b 53 51 == 5 && b 87 83 % 4 == 0) || (b 53 51 == 4 && b 87 83 % 8 == 0))
  | 0x32 => decide (b 87 83 + (b 82 77 + 2) / 2 ≤ 32)
  | 0x34 => decide (b 67 64 ≤ 10)
  | 0x35 => decide (b 67 64 ≤ 9)
  | 0x36 => decide (b 67 64 ≤ 2)
  | 0x40 => (if Ins.bit w 87 then dst (b 86 81) else src (b 86 81)) && decide (b 68 58 ≤ 1535)
      && (Ins.bit w 80 || moveCount w % x.slotCrates (b 86 81) == 0) && farOk x w
  | 0x43 => src (b 86 81) && decide (b 68 58 ≤ 1535)
      && (Ins.bit w 80 || moveCount w % x.slotCrates (b 86 81) == 0) && farOk x w
  | 0x41 => src (b 87 82) && dst (b 81 76) && !fixedRefusal x.s x.part (b 64 28) &&
      (if Ins.bit w 65 then decide (b 75 66 + 1 ≤ 64 * x.slotCrates (b 81 76))
       else (b 75 66 + 1) % x.slotCrates (b 81 76) == 0)
  | 0x42 => src (b 87 82) && src (b 81 76) && !fixedRefusal x.s x.part (b 64 28)
      && (b 75 66 + 1) % x.slotCrates (b 81 76) == 0
  | 0x44 =>
    if b 87 86 = 3 then b 85 80 == 0 && b 51 38 == 0
    else (if b 87 86 = 1 then dst (b 85 80) else src (b 85 80)) && decide (b 79 69 ≤ 1535)
      && (b 79 69 + 1) % x.slotCrates (b 85 80) == 0
  | 0x51 => decide (1 ≤ b 71 40)
  | 0x52 => decide (b 87 85 ≤ 5) && decide (b 82 71 ≤ b 70 59)
      && (b 34 3 == 0 || b 87 85 == 2 || b 87 85 == 4 || b 87 85 == 5)
  | _ => true

/-- The tallies an instruction names lie in the context's (06/R164, 10/R338). -/
def talliesOk (x : CheckCtx) (w : W128) : Bool :=
  let ok (t : Nat) : Bool := tallyOk x.s x.ctx t
  let o := Ins.op w
  if x.st = 4 ∧ 0x40 ≤ o ∧ o ≤ 0x44 then !Ins.bit w 17 || ok (Ins.bits w 16 1)
  else if x.st = 5 ∧ (o = 0x50 ∨ o = 0x51) then ok (Ins.bits w 87 72)
  else if x.st = 2 ∧ o = 0x20 then !Ins.bit w 7 || (ok (Ins.bits w 23 8) && ok (Ins.bits w 23 8 + 3))
  else true

/-- Check 8 of R84 for one instruction: 0x13, else 0x26. -/
def insRefusal (x : CheckCtx) (w : W128) : Option Nat :=
  match operandMask x.st (Ins.op w) with
  | none => some 0x13
  | some m =>
    if !within (Ins.bits w 87 0) m || !slotsOk x w || (mustMark x w && !Ins.vt w) || !operandsOk x w
        || (x.unbound && !unboundOk x w) then some 0x13
    else if !talliesOk x w then some 0x26 else none

/-- The region fences of one scope in a stream, in order. -/
def fencesOf (scope : Nat) (ws : List W128) : List Nat :=
  (ws.filter (fun w => Ins.op w == 0x7F && Ins.bits w 17 16 == scope)).map (fun w => Ins.bits w 15 0)

/-- The streams of a scope provably do not meet in their fences: none is repeated and their lists differ (03/R90). -/
def fenceMismatch (scope : Nat) (cores : List ImgCore) : Bool :=
  let ss := cores.flatMap (·.streams)
  let lists := ss.map (fencesOf scope)
  !(ss.any (fun ws => ws.any (fun w => Ins.op w == 0x52))) &&
    match lists with
    | [] => false
    | l :: t => t.any (· != l)

/-! ### The checks of a launch (03/R84) -/

/-- Where a refusal points: program core, station, index. -/
structure Refused where
  reason : Nat
  core : Option Nat := none
  station : Nat := 0
  index : Nat := 0

/-- The first refusal of an indexed list. -/
def firstIdx {α β : Type} (xs : List α) (f : α → Nat → Option β) : Option β := xs.zipIdx.findSome? (fun (x, i) => f x i)

/-- The integrity of an image crate: its stored tag is poisoned or its check fails. DEDUCED: log entry 17. -/
def imageBad (m : Mem) (crate : Nat) : Option Nat :=
  let t := crateTag m crate
  if Tag.poisoned t then some 0xE1
  else if Tag.check t == Crc.crc64 (crateBytes m crate) then none else some 0xE0

/-- R196 or integrity refusal over a run of bytes that a launch reads. -/
def imageRange (s : State) (part a len : Nat) : Option Nat :=
  let first := a / 4096
  let n := min ((a + len + 4095) / 4096 - first) (2 ^ 28)
  (List.range n).findSome? fun i =>
    match refuse s .image part ((first + i) * 4096) with
    | some r => some r
    | none => imageBad s.mem (first + i)

/-- The crates of the profile area can be written (07/R196). -/
def profileRefusal (s : State) (part a marked : Nat) : Option Nat :=
  if a = 0 then none
  else refuseRange s .all part (a / 4096) ((a + 16 + 16 * marked + 4095) / 4096 - a / 4096)

/-- The first failing check of a launch (03/R84). DEDUCED: log entry 17. -/
def launchRefusal (s : State) (ctx : Nat) (p : List Byte) : Option Refused :=
  let part := (getCtx s ctx).part
  let dies := (getPart s part).dies
  let a := pktOff0 p
  let hkP := Pkt.p1 p % 2 ^ 25
  let hkW := Word.bitsOf (Pkt.p1 p) 56 32
  let h := readHead s.mem a
  let why (r : Option Nat) : Option Refused := r.map (fun r => { reason := r })
  let cores := (List.range h.n).map (readImgCore s.mem a h)
  let bound := (List.range h.n).map (bindCore dies)
  let marked := (cores.flatMap (fun c => c.streams.flatMap (fun ws => ws.filter Ins.vt))).length
  let mk (i : Nat) : CheckCtx :=
    { s, part, ctx, n := h.n, p := i, st := 0, bins := [], all := cores.map ImgCore.bins, unbound := h.placeD == 0 }
  if (imageRange s part a 256).isSome then why (imageRange s part a 256)
  else if !(decide (4096 ≤ hkP) && decide (hkP ≤ 16777216) && decide (hkP ≤ 200 * hkW)) then some { reason := 0x16 }
  else if !h.ok then some { reason := 0x10 }
  else if (imageRange s part a h.size).isSome then why (imageRange s part a h.size)
  else if !(cores.zipIdx.all (fun (c, i) => c.entryOk h i)) then some { reason := 0x10 }
  else if dies.length * activeCores s < h.n || bound.any (fun c => !coreAvail s c) then
    some { reason := 0x14, core := bound.find? (fun c => !coreAvail s c) }
  else if bound.any (fun c => (getCore s c).launch.isSome) then
    some { reason := 0x18, core := bound.find? (fun c => (getCore s c).launch.isSome) }
  else if !placeOk h dies then some { reason := 0x19 }
  else
    let at_ (i : Nat) : Option Nat := bound[i]?
    match firstIdx cores (fun c i => firstIdx c.lens (fun n st =>
        if 4096 < n then some ({ reason := 0x11, core := at_ i, station := st } : Refused) else none)) with
    | some r => some r
    | none =>
      match firstIdx cores (fun c i => if c.binsOk then none else some ({ reason := 0x12, core := at_ i } : Refused)) with
      | some r => some r
      | none =>
        match firstIdx cores (fun c i => firstIdx c.streams (fun ws st => firstIdx ws (fun w k =>
            (insRefusal { mk i with st, bins := c.bins } w).map (fun r =>
              ({ reason := r, core := at_ i, station := st, index := k } : Refused))))) with
        | some r => some r
        | none =>
          if cores.any (fun c => fenceMismatch 0 [c]) || fenceMismatch 2 cores
              || dies.any (fun d => fenceMismatch 1 ((cores.zip bound).filter (fun x => x.2 / 128 == d) |>.map (·.1))) then
            some { reason := 0x13 }
          else match firstIdx cores (fun c i => firstIdx (c.streams.getD 1 []) (fun w k =>
              if Ins.op w = 0x10 ∧ Ins.bits w 63 62 < (getCtx s ctx).minLevel then
                some ({ reason := 0x15, core := at_ i, station := 1, index := k } : Refused) else none)) with
            | some r => some r
            | none => why (profileRefusal s part (Pkt.p2 p % 2 ^ 49) marked)

/-! ### Loading (03/R84, 05/R149, 06/R194) -/

/-- The launch-time state of a bound core. -/
def loadCore (slot load : Nat) (c : ImgCore) (x : Core) : Core :=
  { x with
    launch := some slot, load, run := 0, faulted := false, station := 0, reason := 0, object := 255, cond := 0
    opFault := {}, moveFault := {}
    stations := c.streams.map (fun ws => { store := ws }), bins := c.bins
    feeder := [], active := {}, shadow := {}, bench := [], diag := List.replicate 128 0#32, diagPoison := false
    pass := 0, diagMode := false, drainPack := [], drainVec := [], packIn := [], packCnt := [0, 0, 0, 0], params := {}
    vregs := List.replicate 32 {}, token := 0, hintValid := false, hintOp := 0, crateSeq := 0, seen := [], windows := 0 }

/-- Market-store slices that unmarked Porter instructions of an image name (06/R173). -/
def imageSlices (cores : List ImgCore) : List Nat :=
  (cores.flatMap (fun c => (c.streams.getD 4 []).flatMap (fun w =>
    if (Ins.op w = 0x40 ∨ Ins.op w = 0x43) ∧ !Ins.vt w ∧ Ins.bits w 57 56 = 0 then
      (List.range (moveCount w)).filterMap (fun i =>
        match regionOf ((Ins.bits w 55 19 + i) * 4096) with | .slice x => some x | _ => none)
    else []))).foldl ninsert []

/-- LAUNCH: refused by R84, or loaded and waiting for its edge. -/
def launchCmd (s : State) (slot : Nat) : State :=
  match begun s slot 0x0201 with
  | none => s
  | some c =>
    if c.aux ≠ 0 then s
    else
      let ctx := Pkt.ctx c.packet
      match launchRefusal s ctx c.packet with
      | some r => endCmd s slot { cls := 2, reason := r.reason, detail16 := r.core.getD 0xFFFF
                                  detail32 := r.station * 2 ^ 28 + r.index }
      | none =>
        let a := pktOff0 c.packet
        let h := readHead s.mem a
        let cores := (List.range h.n).map (readImgCore s.mem a h)
        let bound := (List.range h.n).map (bindCore (getPart s (getCtx s ctx).part).dies)
        -- the tests that run at the cores' boundary come first (08/R254, R255)
        if testsRunning s bound then s else
        let s := (cores.zip bound).foldl (fun s x => modCore s x.2 (loadCore slot (c.ord + 1) x.1)) s
        let l : Launch := { ctx, gen := (getCtx s ctx).gen, cores := bound, image := a
                            profile := Pkt.p2 c.packet % 2 ^ 49, hkPeriod := Pkt.p1 c.packet % 2 ^ 25
                            hkLength := Word.bitsOf (Pkt.p1 c.packet) 56 32, slices := imageSlices cores }
        modCmd (setLaunch s slot l) slot (fun c => { c with aux := 1 })

def execLaunch (slot : Nat) (s : State) : Res := .next (launchCmd s slot)

/-- LAUNCH_EDGE: every bound core starts (03/R87). -/
def launchEdge (s : State) (slot : Nat) : State :=
  let l := getLaunch s slot
  match findCmd s slot with
  | none => s
  | some c =>
    if c.aux = 1 ∧ !l.running ∧ l.stopped = none ∧ l.cores ≠ [] then
      let s := setLaunch s slot { l with running := true, startCycle := s.arrayCycles, epochs := s.tallies }
      l.cores.foldl (fun s k => modCore s k (fun x => { x with run := 1, regionStart := s.arrayCycles, floor := 0 })) s
    else s

def execLaunchEdge (slot : Nat) (s : State) : Res := .next (launchEdge s slot)

/-! ### The end of a launch (03/R92, 09/R294) -/

/-- Every stream of a launch has ended. -/
def launchEnded (s : State) (l : Launch) : Bool :=
  l.running && l.cores.all fun k => (getCore s k).stations.all (fun x => x.ended && x.hold == .none)

/-- The profile records (09/R294): logical core, station, index and extra cycles of each marked instruction. -/
def profileBytes (xs : List (Nat × Nat × Nat × Nat)) : List Byte :=
  Word.toLe 8 xs.length ++ xs.flatMap fun (c, st, i, n) =>
    Word.toLe 2 c ++ Word.toLe 1 st ++ Word.toLe 1 0 ++ Word.toLe 2 i ++ Word.toLe 2 0 ++ Word.toLe 8 n

/-- Write bytes as firmware does: the crates touched take computed tags, format Untyped, ORIGIN 2 (08/R241, R245). -/
def fwWrite (s : State) (a : Nat) (bs : List Byte) : State :=
  let s := modMem s (fun m => patchBytes m a bs)
  (List.range ((a + bs.length + 4095) / 4096 - a / 4096)).foldl (fun s i =>
    let k := a / 4096 + i
    let p := crateBytes s.mem k
    let q := s.mem.fwSeq
    modMem (putCrate s k p (Tag.computed p 6 0 0 (Tag.fwLineage q)))
      (fun m => { m with fwSeq := (m.fwSeq + 1) % 2 ^ 30 })) s

/-- A core is freed from its launch. -/
def freeCore (c : Core) : Core := { c with launch := none, run := if c.run = 3 then 3 else 0, floor := 0 }

/-- A tally of transfers in flight stays; cores are free for the next launch. -/
def freeCores (s : State) (slot : Nat) (l : Launch) : State :=
  l.cores.foldl (fun s k => modCore s k (fun x => if x.launch = some slot then freeCore x else x)) s

/-- The class and reason of a launch that ended: its stop, or bubbles (18/R552), or success. -/
def launchClass (l : Launch) : Nat × Nat :=
  match l.stopped with
  | some x => x
  | none => if l.bubbles then (1, 0xA0) else (0, 0)

/-- The end of a launch of a context without steps is a boundary of its cores (08/R255). -/
def launchBoundary (s : State) (l : Launch) : State :=
  if steppedCtx s = some l.ctx then s
  else l.cores.foldl (coreBoundary ((getCtx s l.ctx).budget * 1000)) s

/-- The crate lies in a scratchpad of one of the cores. -/
def inScratch (cores : List Nat) (k : Nat) : Bool :=
  match regionOf (k * 4096) with
  | .scratch core _ => cores.contains core
  | _ => false

/-- The crates of the launch's scratchpads whose write the stop cut short read as poisoned: their open bits are set
(03/R92, 08/R247). -/
def openCut (s : State) (l : Launch) (cut : List Nat) : State :=
  if l.stopped.isNone then s
  else modMem s fun m => { m with opened := (cut.filter (inScratch l.cores)).foldl ninsert m.opened }

/-- LAUNCH_COMPLETE: `extra` are the extra cycles of the marked instructions, which the model does not count; `cut` are
the crates that a stop left half written. -/
def launchComplete (s : State) (slot : Nat) (extra : List (Nat × Nat × Nat × Nat)) (cut : List Nat) : State :=
  match begun s slot 0x0201 with
  | none => s
  | some c =>
    let l := getLaunch s slot
    let s := openCut s l cut
    if c.aux = 1 ∧ (l.stopped.isSome ∨ launchEnded s l) then
      let s := if l.profile = 0 then s else fwWrite s l.profile (profileBytes extra)
      let s := launchBoundary { freeCores s slot l with launches := tdel s.launches slot } l
      let (cls, reason) := launchClass l
      let (core, st, i) := match l.first with | some x => x | none => (0xFFFF, 0, 0)
      endCmd s slot { cls, reason, detail16 := core, detail32 := st * 2 ^ 28 + i
                      result := if l.running then (s.arrayCycles - l.startCycle).toNat else 0 }
    else if c.aux = 0 ∧ l.stopped.isSome then
      -- cancelled before it was loaded
      let (cls, reason) := launchClass l
      endCmd { s with launches := tdel s.launches slot } slot { cls, reason, detail16 := 0xFFFF }
    else s

def execLaunchComplete (slot : Nat) (extra : List (Nat × Nat × Nat × Nat)) (cut : List Nat) (s : State) : Res :=
  .next (launchComplete s slot extra cut)

/-- LAUNCH_ABORT (09/R294): the launch it names, of its own context, stops with 0x17; else it is refused with 0x03.
DEDUCED: log entry 17. -/
def launchAbort (s : State) (slot : Nat) : State :=
  match begun s slot 0x0202 with
  | none => s
  | some c =>
    let q := Pkt.p0 c.packet % 2 ^ 14
    let tag := Pkt.p0 c.packet / 2 ^ 32
    match s.cmds.find? (fun d => d.queue == q && Pkt.tag d.packet == tag && Pkt.opcode d.packet == 0x0201
        && d.phase == 1 && d.aux == 1 && Pkt.ctx d.packet == Pkt.ctx c.packet) with
    | none => refuseCmd s slot 0x03
    | some d => endCmd (stopLaunch s d.slot 3 0x17) slot {}

def execLaunchAbort (slot : Nat) (s : State) : Res := .next (launchAbort s slot)

/-! ### Housekeeping windows (07/R220-R222) -/

def modScrub (s : State) (die : Nat) (f : Scrub → Scrub) : State :=
  modMem s (fun m => { m with scrub := tmod {} m.scrub die f })

/-- One housekeeping window of a core: four words of scrub per array cycle, what it met, and a pass when all 98,304
words are read (07/R221, R222). -/
def housekeepingWindow (s : State) (core : Nat) (f : Finding) : State :=
  if !coreRuns s core then s
  else
    let l := coreLaunch s core
    let s := applyMarks s f
    let s := match f with
      | .uncorrectable xs => (xs.foldl (fun a x => ninsert a (x / 64)) []).foldl (fun s k => reportBad s (coreCtx s core) k core) s
      | _ => s
    let n := (getCore s core).scrubWords + 4 * l.hkLength
    let s := modCore s core (fun c => { c with windows := c.windows + 1, scrubWords := n % 98304 })
    if 98304 ≤ n then
      modScrub s (core / 128) (fun x => { x with sramPasses := satAdd 32 x.sramPasses 1 })
    else s

def execHousekeepingWindow (core : Nat) (f : Finding) (s : State) : Res := .next (housekeepingWindow s core f)

end Sys2Proof.Machine
end

