-- ==== Sys2Proof/Machine/MemCmd.lean ====
section
/-!
DEFINITION. The host's memory and tally commands (09/R294, 08/R244, R245, 07/R203, R206, 10/R336) and the device-memory
aperture (09/R278-R281).
-/
namespace Sys2Proof.Machine

/-! ### Running over the crates of a command -/

/-- What a memory command has done so far: the crates finished, and how many of them were delivered poisoned. -/
structure Progress where
  s : State
  n : Nat := 0
  poisoned : Nat := 0
  refused : Option Nat := none

/-- Do crate after crate until one is refused. -/
def overCrates (f : State → Nat → Except Nat (State × Bool)) : Nat → Progress → Progress
  | 0, p => p
  | k + 1, p =>
    match p.refused with
    | some _ => p
    | none =>
      match f p.s p.n with
      | .error r => { p with refused := some r }
      | .ok (s, bad) => overCrates f k { s, n := p.n + 1, poisoned := p.poisoned + Word.b2n bad }

/-- How a memory command goes on in one step: the crates it finishes and the sectors it writes of the next one. -/
structure Piece where
  crates : Nat
  sectors : Nat := 0
deriving DecidableEq, Repr

/-- The sectors of the next crate are written (08/R247): a scratchpad or slice takes them and opens the crate, a tier's
controller gathers them. DEDUCED: log entry 15. -/
def openCrate (s : State) (c : Cmd) (bs : List Byte) : State :=
  let k := nextCrate c
  match refuse s .all (getCtx s (Pkt.ctx c.packet)).part (k * 4096) with
  | some _ => s
  | none =>
    if (regionOf (k * 4096)).tier then modCmd s c.slot (fun c => { c with gather := bs })
    else modMem s (fun m =>
      { m with cells := writeBytes m.cells (k * 4096) bs, opened := ninsert m.opened k })

/-- Run a memory command for a piece of its crates. A refusal of its first crate is judged when it begins (class 0x02),
one of a later crate ends it with class 0x03, and the crates done stand (09/R293, R299); the last crate ends it as
`fin` says; otherwise it stays begun with the next crate partly written (09/R307). DEDUCED: log entry 15. -/
def runPiece (s : State) (c : Cmd) (x : Piece) (f : State → Nat → Except Nat (State × Bool))
    (next : State → Nat → Nat → List Byte) (fin : Nat → EndWith) : State :=
  let total := pktCrates c.packet
  let s := modCmd s c.slot (fun c => { c with gather := [] })
  let p := overCrates f (min x.crates (total - c.aux)) { s, n := c.aux, poisoned := c.found }
  match p.refused with
  | some r => endCmd p.s c.slot { cls := if p.n = 0 then 2 else 3, reason := r, result := p.n }
  | none =>
    if total ≤ p.n then endCmd p.s c.slot { fin p.poisoned with result := p.n }
    else
      let s := modCmd p.s c.slot (fun c => { c with aux := p.n, found := p.poisoned })
      if x.sectors = 0 ∨ 64 ≤ x.sectors then s
      else openCrate s { c with aux := p.n } (next s p.n (64 * x.sectors))

/-- Context, generation and partition of a command. -/
def cmdCg (c : Cmd) : CtxGen := (Pkt.ctx c.packet, Pkt.gen c.packet)
def cmdPart (s : State) (c : Cmd) : Nat := (getCtx s (Pkt.ctx c.packet)).part

/-- How many crates of the command a piece finishes. -/
def pieceLen (c : Cmd) (x : Piece) : Nat := min x.crates (pktCrates c.packet - c.aux)
/-- How many bytes of the next crate it leaves written. -/
def pieceCut (c : Cmd) (x : Piece) : Nat :=
  if c.aux + pieceLen c x < pktCrates c.packet ∧ x.sectors < 64 then 64 * x.sectors else 0

/-- One crate of a MEM_WRITE (08/R245): computed or supplied tag. `data` holds the payloads of the piece, the sectors of a
crate it leaves open, then the supplied tags of the piece. DEDUCED: log entry 16. -/
def memWriteCrate (c : Cmd) (x : Piece) (data : List Byte) (s : State) (i : Nat) : Except Nat (State × Bool) :=
  let k := pktOff1 c.packet / 4096 + i
  let j := i - c.aux
  match refuse s .all (cmdPart s c) (k * 4096) with
  | some r => .error r
  | none =>
    let p := (data.drop (j * 4096)).take 4096
    if Word.bitOf (Pkt.p2 c.packet) 32 then
      let t := Tag.ofBytes ((data.drop (pieceLen c x * 4096 + pieceCut c x + 16 * j)).take 16)
      if Tag.check t == Crc.crc64 p then .ok (putCrate s k p t, false)
      else
        let s := putCrate s k p (Tag.poison t)
        .ok (raiseCrate s 0xE7 (cmdCg c) (k * 4096) (Tag.lineage t) 0xFFFF 0xFFFF, true)
    else .ok (putCrate s k p (Tag.computed p (Pkt.p1 c.packet / 2 ^ 56) 0 0 (Tag.hostLineage c.queue (Pkt.tag c.packet))), false)

/-- MEM_WRITE: `data` is what the host memory holds. -/
def memWrite (s : State) (slot : Nat) (x : Piece) (data : List Byte) : State :=
  match begun s slot 0x0101 with
  | none => s
  | some c =>
    runPiece s c x (memWriteCrate c x data) (fun _ _ n => (data.drop (pieceLen c x * 4096)).take n)
      (fun bad => { cls := if bad = 0 then 0 else 1, reason := if bad = 0 then 0 else 0xE7 })

def execMemWrite (slot crates sectors : Nat) (data : List Byte) (s : State) : Res :=
  .next (memWrite s slot { crates, sectors } data)

/-- One crate of a MEM_READ (08/R244): delivered with its tag, POISONED set when its check fails. -/
def memReadCrate (c : Cmd) (s : State) (i : Nat) : Except Nat (State × Bool) :=
  let k := pktOff1 c.packet / 4096 + i
  let n := pktCrates c.packet
  match refuse s .all (cmdPart s c) (k * 4096) with
  | some r => .error r
  | none =>
    let t := crateTag s.mem k
    let p := crateBytes s.mem k
    let s := setMem (reportBad s (cmdCg c) k 0xFFFF) (cacheTouch s.mem k false)
    let t := Tag.poisonIf (Tag.check t != Crc.crc64 p) t
    let s := hostWrite s (Pkt.p0 c.packet + i * 4096) p
    let s := if Word.bitOf (Pkt.p2 c.packet) 32 then hostWrite s (Pkt.p0 c.packet + n * 4096 + 16 * i) (Tag.bytes t) else s
    .ok (s, Tag.poisoned t)

/-- MEM_READ: RESULT counts crates read, DETAIL32 poisoned ones. -/
def memRead (s : State) (slot crates : Nat) (f : Finding) : State :=
  match begun s slot 0x0102 with
  | none => s
  | some c => runPiece (applyMarks s f) c { crates } (memReadCrate c) (fun _ _ _ => [])
      (fun bad => { cls := if bad = 0 then 0 else 1, reason := if bad = 0 then 0 else 0xE1, detail32 := bad })

def execMemRead (slot crates : Nat) (f : Finding) (s : State) : Res := .next (memRead s slot crates f)

/-- One crate of a MEM_COPY: its tag moves as in a Porter move (06/R180). DEDUCED: log entry 45. -/
def memCopyCrate (c : Cmd) (s : State) (i : Nat) : Except Nat (State × Bool) :=
  let a := pktOff0 c.packet / 4096 + i
  let b := pktOff1 c.packet / 4096 + i
  match (refuse s .all (cmdPart s c) (a * 4096)).or (refuse s .all (cmdPart s c) (b * 4096)) with
  | some r => .error r
  | none =>
    let (s, p, t) := moveRead s (cmdCg c) 0xFFFF a
    .ok (putCrate s b p t, false)

/-- MEM_COPY: a move delivers nothing to the host, so poisoned crates are no finding of it (DEDUCED, log entry 45). -/
def memCopy (s : State) (slot : Nat) (x : Piece) (f : Finding) : State :=
  match begun s slot 0x0103 with
  | none => s
  | some c => runPiece (applyMarks s f) c x (memCopyCrate c)
      (fun s i n => readBytes s.mem.cells (pktOff0 c.packet + i * 4096) n) (fun _ => {})

def execMemCopy (slot crates sectors : Nat) (f : Finding) (s : State) : Res :=
  .next (memCopy s slot { crates, sectors } f)

/-- One crate of a MEM_FILL: a zero crate with the tag of 07/R206. -/
def memFillCrate (c : Cmd) (s : State) (i : Nat) : Except Nat (State × Bool) :=
  let k := pktOff1 c.packet / 4096 + i
  match refuse s .all (cmdPart s c) (k * 4096) with
  | some r => .error r
  | none => .ok (putCrate s k zeroPayload Tag.zero, false)

/-- MEM_FILL. -/
def memFill (s : State) (slot : Nat) (x : Piece) : State :=
  match begun s slot 0x0104 with
  | none => s
  | some c => runPiece s c x (memFillCrate c) (fun _ _ n => List.replicate n 0#8) (fun _ => {})

def execMemFill (slot crates sectors : Nat) (s : State) : Res := .next (memFill s slot { crates, sectors })

/-- One crate of a MEM_RETAG: its check recomputed in computed mode (08/R245). DEDUCED: log entry 16. -/
def memRetagCrate (c : Cmd) (s : State) (i : Nat) : Except Nat (State × Bool) :=
  let k := pktOff1 c.packet / 4096 + i
  match refuse s .all (cmdPart s c) (k * 4096) with
  | some r => .error r
  | none =>
    let s := reportBad s (cmdCg c) k 0xFFFF
    let t := Tag.computed (crateBytes s.mem k) (Pkt.p1 c.packet / 2 ^ 56) 0 0 (Tag.hostLineage c.queue (Pkt.tag c.packet))
    .ok (modMem s (fun m => setTag m k t), false)

/-- MEM_RETAG: it writes no payload, so a cut leaves no crate open. -/
def memRetag (s : State) (slot crates : Nat) (f : Finding) : State :=
  match begun s slot 0x0105 with
  | none => s
  | some c => runPiece (applyMarks s f) c { crates } (memRetagCrate c) (fun _ _ _ => []) (fun _ => {})

def execMemRetag (slot crates : Nat) (f : Finding) (s : State) : Res := .next (memRetag s slot crates f)

/-! ### SLICE_MODE (07/R203-R206, 06/R173) -/

/-- A running launch keeps a slice of the die whose mode would change. -/
def sliceKept (s : State) (die mask : Nat) : Bool :=
  s.launches.any fun l => l.2.running && l.2.slices.any (fun x =>
    x / 32 == die && (tget {} s.mem.slices x).cache != Word.bitOf mask (x % 32))

/-- Set the modes of the slices of a die: write back and invalidate, then zero the slices that enter scratch mode. -/
def setModes (m : Mem) (die mask : Nat) : Mem :=
  let m := flushDie m die
  (List.range 32).foldl (fun m i =>
    let x := die * 32 + i
    let was := (tget {} m.slices x).cache
    let now := Word.bitOf mask i
    let m := if was && !now then zeroCrates m (sliceBase x / 4096) 2048 else m
    { m with slices := tmod {} m.slices x (fun sl => { sl with cache := now, changing := false }) }) m

/-- SLICE_MODE: waits while 06/R173 holds it, its slices reading CHANGING. -/
def sliceMode (s : State) (slot : Nat) : State :=
  match begun s slot 0x0106 with
  | none => s
  | some c =>
    let die := Pkt.p0 c.packet % 8
    let mask := Pkt.p1 c.packet % 2 ^ 32
    if !(getPart s (cmdPart s c)).dies.contains die then refuseCmd s slot 0x51
    else if sliceKept s die mask then
      modMem s (fun m => (List.range 32).foldl (fun m i =>
        { m with slices := tmod {} m.slices (die * 32 + i) (fun sl =>
            if sl.cache != Word.bitOf mask i then { sl with changing := true } else sl) }) m)
    else endCmd (modMem s (fun m => setModes m die mask)) slot {}

def execSliceMode (slot : Nat) (s : State) : Res := .next (sliceMode s slot)

/-! ### Tally commands (09/R294, 10/R336-R338) -/

/-- TALLY_NOP. -/
def tallyNop (s : State) (slot : Nat) : State :=
  match begun s slot 0x0300 with | none => s | some _ => endCmd s slot {}
def execTallyNop (slot : Nat) (s : State) : Res := .next (tallyNop s slot)

/-- TALLY_ADD. -/
def tallyAdd (s : State) (slot : Nat) : State :=
  match begun s slot 0x0301 with
  | none => s
  | some c =>
    let t := Pkt.p0 c.packet % 2 ^ 16
    if tallyOk s (Pkt.ctx c.packet) t then endCmd (addTally s t (Pkt.p1 c.packet % 2 ^ 48)) slot {}
    else refuseCmd s slot 0x26
def execTallyAdd (slot : Nat) (s : State) : Res := .next (tallyAdd s slot)

/-- TALLY_READ. -/
def tallyRead (s : State) (slot : Nat) : State :=
  match begun s slot 0x0302 with
  | none => s
  | some c =>
    let t := Pkt.p0 c.packet % 2 ^ 16
    if tallyOk s (Pkt.ctx c.packet) t then endCmd s slot { result := (tget 0#64 s.tallies t).toNat }
    else refuseCmd s slot 0x26
def execTallyRead (slot : Nat) (s : State) : Res := .next (tallyRead s slot)

/-- No launch of a context is in the table of launches and no marked Porter transfer of it is in flight (10/R336). -/
def ctxQuiet (s : State) (ctx : Nat) : Bool :=
  !(s.launches.any (fun l => l.2.ctx == ctx)) &&
    !(s.cores.any (fun c => c.2.inflight.any (fun t => t.ctx == ctx && !t.failed)))

/-- A new epoch of a tally: value 0. -/
def newEpoch (s : State) (t : Nat) : State :=
  { s with tallies := tset 0#64 s.tallies t (tallyW (tallyEpochOf s t + 1) 0) }

/-- TALLY_EPOCH (10/R336): begins only when the context is quiet. -/
def tallyEpoch (s : State) (slot : Nat) : State :=
  match begun s slot 0x0303 with
  | none => s
  | some c =>
    let t := Pkt.p0 c.packet % 2 ^ 16
    let n := Pkt.p1 c.packet % 2 ^ 17
    if !(tallyOk s (Pkt.ctx c.packet) t && tallyOk s (Pkt.ctx c.packet) (t + n - 1)) then refuseCmd s slot 0x26
    else if !ctxQuiet s (Pkt.ctx c.packet) then s
    else endCmd ((List.range n).foldl (fun s i => newEpoch s (t + i)) s) slot {}
def execTallyEpoch (slot : Nat) (s : State) : Res := .next (tallyEpoch s slot)

/-! ### The aperture (09/R278-R281) -/

def aperWin (s : State) (i : Nat) : W64 := tget 0#64 s.pcie.aperWin i
/-- The local offset of a BAR4 offset. -/
def aperOffset (s : State) (x : Nat) : Nat := rbits (aperWin s (x / 2 ^ 32)) 48 32 * 2 ^ 32 + x % 2 ^ 32

/-- The RW bits of HUB_APER_WIN. -/
def aperMask : W64 := BitVec.ofNat 64 (2 ^ 63 + 7 * 2 ^ 56 + (2 ^ 17 - 1) * 2 ^ 32)

/-- HUB_APER_STATUS after a refusal (09/R281). -/
def aperRefused (s : State) (reason win off : Nat) : State :=
  { s with pcie := { s.pcie with aperReason := reason, aperWindow := win, aperOffset := off } }

/-- The first condition that refuses a window (09/R280). -/
def winRefusal (s : State) (v : W64) : Option Nat :=
  let b := rbits v 48 32
  if !(decide (b < 0x100) || b == 0x100) then some 0x43
  else if 0xC0 ≤ b && b < 0x100 && gradeH s then some 0x42
  else if (getPart s (rbits v 58 56)).state = 0 then some 0x20
  else none

/-- A write of HUB_APER_WIN (09/R280, R288): an enabled window keeps its fields. -/
def writeAperWin (s : State) (i : Nat) (v : W64) : State :=
  let v := v &&& aperMask
  let old := aperWin s i
  let put (v : W64) : State := { s with pcie := { s.pcie with aperWin := tset 0#64 s.pcie.aperWin i v } }
  if 16 ≤ i then s
  else if rbit old 63 && rset old 63 63 0 ≠ rset v 63 63 0 then aperRefused s 0x1D i 0
  else if rbit v 63 && !rbit old 63 then
    match winRefusal s v with
    | some r => aperRefused (put (rset v 63 63 0)) r i 0
    | none => put v
  else put v

/-- APER_WIN_ENABLE. -/
def execAperWinEnable (i : Nat) (v : W64) (s : State) : Res := fromHost s (if rbit v 63 then writeAperWin s i v else s)

/-- The reason with which an aperture access is refused; for a disabled window the spec names none, so it is a free
value (DESIGN CHOICE, log entry 6). -/
def aperCheck (s : State) (x n : Nat) : State × Option Nat :=
  let w := aperWin s (x / 2 ^ 32)
  let a := aperOffset s x
  if !rbit w 63 then let (f, s) := drawFree s; (s, some (f.toNat % 256))
  else (s, refuseRange s .tiers (rbits w 58 56) (a / 4096) ((a + n + 4095) / 4096 - a / 4096))

/-- A refused aperture access: no data moves, the status and an event tell (09/R279). -/
def aperFail (s : State) (x r : Nat) : State :=
  raiseUnit (aperRefused s r (x / 2 ^ 32) (aperOffset s x)) r noCtx 0#64 0

/-- APERTURE_READ of `n` bytes at a BAR4 offset; before ready it returns all ones (16/R499). PRESUMED: log entry 36. -/
def apertureRead (s : State) (x n : Nat) : State :=
  if !hostOpen s then
    (if 4 ≤ s.boot.phase && s.pcie.linkUp && !s.pcie.d3hot then emit s (.pcieRead (List.replicate n 255#8)) else s)
  else match aperCheck s x n with
  | (s, some r) => emit (aperFail s x r) (.pcieRead (List.replicate n 255#8))
  | (s, none) =>
    let a := aperOffset s x
    let s := reportBadIf s noCtx (a / 4096) 0xFFFF (fun k => decide (a / 64 ≤ k) && decide (k * 64 < a + n))
    emit (setMem s (cacheTouch s.mem (a / 4096) false)) (.pcieRead (readBytes s.mem.cells a n))

def execApertureRead (x n : Nat) (s : State) : Res := .next (apertureRead s x n)

/-- APERTURE_WRITE: part of a sector is merged; an uncorrectable sector not covered whole stays so (07/R211, R212).
PRESUMED: log entry 36. -/
def apertureWrite (s : State) (x : Nat) (data : List Byte) : State :=
  match aperCheck s x data.length with
  | (s, some r) => aperFail s x r
  | (s, none) =>
    let a := aperOffset s x
    let n := data.length
    let s := reportBadIf s noCtx (a / 4096) 0xFFFF (fun k =>
      decide (a / 64 ≤ k) && decide (k * 64 < a + n) && !(decide (a ≤ k * 64) && decide (k * 64 + 64 ≤ a + n)))
    modMem s (fun m => patchBytes m a data)

def execApertureWrite (x : Nat) (data : List Byte) (s : State) : Res := fromHost s (apertureWrite s x data)

end Sys2Proof.Machine
end

