-- ==== Sys2Proof/Machine/Part.lean ====
section
/-!
DEFINITION. Partitions and contexts (10/R312-R340): what the fuses allow, PART_CREATE, PART_ENABLE, PART_DESTROY,
CTX_CREATE, CTX_ENABLE and CTX_SET. Teardown stands with the fabric, whose traffic it ends.
-/
namespace Sys2Proof.Machine

/-! ### What the fuses allow (10/R312, R313, R316, R323) -/

/-- Lifecycle 0 MANUFACTURED, 1 OWNED, 3 RMA. -/
def lifecycle (s : State) : Nat := s.fuse.f.lifecycle
def owned (s : State) : Bool := lifecycle s == 1

/-- Bits of `a` that `b` does not have, eight of them. -/
def without (a b : Nat) : Nat := Nat.land a (255 - b % 256)

/-- The effective allowed templates. -/
def templEff (s : State) : Nat := without s.fuse.f.templates s.fuse.f.templRevoked
/-- A template is effective in the current lifecycle state. -/
def templAllowed (s : State) (t : Nat) : Bool := if owned s then Word.bitOf (templEff s) t else t == 0

/-- A debug permission is effective (10/R313, R323): in RMA SCAN only, after its unlock. -/
def debugEff (s : State) : Nat :=
  if owned s then without s.fuse.f.debug s.fuse.f.debugRevoked % 16
  else if lifecycle s = 3 ∧ s.fuse.scan then 4 else 0
def debugAllowed (s : State) (bit : Nat) : Bool := Word.bitOf (debugEff s) bit

/-! ### Templates (10/R324) -/

/-- The instance that holds each die under a template; `none` where the template is not defined. -/
def templMap (s : State) (t : Nat) : Option (List Nat) :=
  let fused (x : Nat) : Option (List Nat) :=
    if Word.bitOf x 24 then some ((List.range 8).map (fun i => x / 8 ^ i % 8)) else none
  match t with
  | 0 => some [0, 0, 0, 0, 0, 0, 0, 0]
  | 1 => some [0, 0, 0, 0, 1, 1, 1, 1]
  | 2 => some [0, 0, 1, 1, 2, 2, 3, 3]
  | 3 => some [0, 1, 2, 3, 4, 5, 6, 7]
  | 4 => some [0, 0, 0, 1, 0, 0, 0, 1]
  | 5 => some [0, 0, 1, 2, 0, 0, 1, 2]
  | 6 => fused s.fuse.f.t6
  | _ => fused s.fuse.f.t7

/-- The dies of an instance, ascending. -/
def instDies (s : State) (t i : Nat) : List Nat :=
  match templMap s t with
  | some m => (List.range 8).filter (fun d => m.getD d 8 == i)
  | none => []

/-! ### PART_CREATE, PART_ENABLE, PART_DESTROY (10/R327-R331) -/

/-- Two independent keys; a pair with equal halves is drawn again (07/R230). DEDUCED: log entry 39. -/
def drawKeys (s : State) : State × BitVec 256 × BitVec 256 :=
  let (a, s) := drawFree s
  let (b, s) := drawFree s
  if a = b then
    let (a, s) := drawFree s
    let (b, s) := drawFree s
    (s, a, b)
  else (s, a, b)

/-- The plaintext stores of a core at zero (10/R329). -/
def zeroCore (c : Core) : Core :=
  { c with feeder := [], active := {}, shadow := {}, bench := [], diag := List.replicate 128 0#32, diagPoison := false
           drainPack := [], drainVec := [], packIn := [], packCnt := [0, 0, 0, 0], vregs := List.replicate 32 {} }

/-- Step 3 of 10/R329 for one die: scratchpads, slices and the cores' stores. -/
def zeroPlain (s : State) (die : Nat) : State :=
  let s := modMem s (fun m => zeroSlices (zeroScratch m die) die)
  { s with cores := (s.cores.map (fun c => if c.1 / 128 = die then (c.1, zeroCore c.2) else c)).filter (fun c => decide (c.2 ≠ {})) }

/-- Fill one die for a new partition (10/R327): tiers under the new key and plaintext stores. DEDUCED: log entry 39. -/
def fillDie (s : State) (die : Nat) : State :=
  zeroPlain (modMem s (fun m => zeroTiers (flushDie m die) die)) die

/-- Create the partition of an instance: number, dies, keys and fill (10/R327). -/
def makePart (s : State) (t i p : Nat) (dies : List Nat) : State :=
  let (s, ka, kb) := drawKeys s
  let s := dies.foldl fillDie s
  setPart s p { dies, inst := i, templ := t, state := 2, life := lifecycle s, keyA := ka, keyB := kb }

/-- A failed PART_CREATE: the reason also shows in the block of the partition that it names (10/R331). DEDUCED: log entry
39. -/
def failCreate (s : State) (slot reason : Nat) (dies : List Nat) : State :=
  refuseCmd (match dies with | p :: _ => modPart s p (fun x => { x with reason }) | [] => s) slot reason

/-- PART_CREATE. DEDUCED: log entry 39. -/
def partCreate (s : State) (slot : Nat) : State :=
  match begun s slot 0x0801 with
  | none => s
  | some c =>
    let t := Pkt.p0 c.packet % 8
    let i := Word.bitsOf (Pkt.p0 c.packet) 7 4
    let dies := instDies s t i
    if s.fuse.prov = 3 then failCreate s slot 0x2B dies
    else if !templAllowed s t then failCreate s slot 0x22 dies
    else match dies with
    | [] => refuseCmd s slot 0x03
    | p :: _ =>
      if s.parts.any (fun x => x.2.state != 0 && x.2.dies.any dies.contains) then
        failCreate s slot 0x23 dies
      else
        endCmd (makePart s t i p dies) slot { result := p }

def execPartCreate (slot : Nat) (s : State) : Res := .next (partCreate s slot)

/-- PART_ENABLE: a write of PART_CFG with ENABLE 1 (10/R328); ENABLE is the register's only RW bit. -/
def partEnable (s : State) (p : Nat) (v : W64) : State :=
  let x := getPart s p
  if 8 ≤ p || !rbit v 63 || x.enable then s
  else if x.state ≠ 2 then modPart s p (fun x => { x with reason := 0x20 })
  else if !templAllowed s x.templ && x.life == lifecycle s then modPart s p (fun x => { x with reason := 0x22 })
  else if x.life ≠ lifecycle s then modPart s p (fun x => { x with reason := 0x2B })
  else modPart s p (fun x => { x with state := 3, enable := true })

def execPartEnable (p : Nat) (v : W64) (s : State) : Res := fromHost s (partEnable s p v)

/-- Every slice of a die in scratch mode, dirty lines discarded (10/R329). -/
def scratchDie (m : Mem) (die : Nat) : Mem :=
  let m := discardDie m die
  { m with slices := (List.range 32).foldl (fun t i => tset {} t (die * 32 + i) {}) m.slices }

/-- Take a partition down (10/R329 steps 1 to 5). -/
def dropPart (s : State) (p : Nat) : State :=
  let dies := (getPart s p).dies
  let shut (w : Nat × W64) : Nat × W64 := if rbit w.2 63 && rbits w.2 58 56 == p then (w.1, rset w.2 63 63 0) else w
  let wins := (s.pcie.aperWin.map shut).filter (fun w => decide (w.2 ≠ 0#64))
  let s := { s with pcie := { s.pcie with aperWin := wins } }
  let s := dies.foldl (fun s d => zeroPlain (modMem s (fun m => scratchDie m d)) d) s
  setPart s p {}

/-- PART_DESTROY. -/
def partDestroy (s : State) (slot : Nat) : State :=
  match begun s slot 0x0802 with
  | none => s
  | some c =>
    let p := Pkt.p0 c.packet % 8
    if (getPart s p).state = 0 then refuseCmd s slot 0x20
    else if partContexts s p ≠ 0 then refuseCmd s slot 0x29
    else endCmd (dropPart s p) slot {}

def execPartDestroy (slot : Nat) (s : State) : Res := .next (partDestroy s slot)

/-! ### Contexts (10/R332-R335) -/

/-- The generation after a generation (10/R332). -/
def nextGen (g : Nat) : Nat := if g = 0xFFFF then 1 else g + 1

/-- The tally range overlaps that of a live context. -/
def talliesTaken (s : State) (first last : Nat) : Bool :=
  s.ctxs.any (fun c => c.2.live && decide (c.2.tallyFirst ≤ last) && decide (first ≤ c.2.tallyFirst + c.2.tallyCount))

/-- The lowest free context number. -/
def freeCtx (s : State) : Option Nat := (List.range 256).find? (fun i => (getCtx s i).state == 0)

/-- The refusal of a CTX_CREATE (10/R333). -/
def ctxRefusal (s : State) (part : Nat) (training : Bool) (first last : Nat) : Option Nat :=
  if (getPart s part).state ≠ 3 then some 0x20
  else if (freeCtx s).isNone then some 0x25
  else if 65535 < last || talliesTaken s first last then some 0x2C
  else if training && !owned s then some 0x2B
  else if training && (decide (1 < (getPart s part).templ) || s.ctxs.any (fun c => c.2.training && c.2.live)) then some 0x24
  else none

/-- Tallies of a range at epoch 0, value 0. -/
def clearTallies (s : State) (first last : Nat) : State :=
  { s with tallies := s.tallies.filter (fun t => !(decide (first ≤ t.1) && decide (t.1 ≤ last))) }

/-- CTX_CREATE. -/
def ctxCreate (s : State) (slot : Nat) : State :=
  match begun s slot 0x0803 with
  | none => s
  | some c =>
    let part := Pkt.p0 c.packet % 8
    let training := Word.bitOf (Pkt.p0 c.packet) 8
    let first := Pkt.p1 c.packet % 2 ^ 16
    let last := first + Pkt.p2 c.packet % 2 ^ 16
    match ctxRefusal s part training first last, freeCtx s with
    | some r, _ => refuseCmd s slot r
    | none, none => refuseCmd s slot 0x25
    | none, some n =>
      let gen := nextGen (getCtx s n).gen
      let s := setCtx (clearTallies s first last) n
        { part, training, state := 1, gen, tallyFirst := first, tallyCount := last - first }
      -- a later training context ends the reclaim state (19/R575)
      let s := if training then { s with mgmt := { s.mgmt with reclaim := 0 } } else s
      endCmd s slot { result := n + gen * 2 ^ 16 }

def execCtxCreate (slot : Nat) (s : State) : Res := .next (ctxCreate s slot)

/-- CTX_ENABLE: a write of CTX_CFG with ENABLE 1 (10/R334). -/
def ctxEnable (s : State) (n : Nat) (v : W64) : State :=
  let x := getCtx s n
  if 256 ≤ n || !rbit v 63 || x.enable then s
  else if x.state ≠ 1 ∨ (getPart s x.part).state ≠ 3 then modCtx s n (fun x => { x with reason := 0x20 })
  else if x.training && !owned s then modCtx s n (fun x => { x with reason := 0x2B })
  else modCtx s n (fun x => { x with state := 2, enable := true })

def execCtxEnable (n : Nat) (v : W64) (s : State) : Res := fromHost s (ctxEnable s n v)

/-- CTX_SET (10/R335). -/
def ctxSet (s : State) (slot : Nat) : State :=
  match begun s slot 0x0804 with
  | none => s
  | some c =>
    let n := Pkt.p0 c.packet % 256
    let p2 := Pkt.p2 c.packet
    let x := getCtx s n
    if x.state = 3 then refuseCmd s slot 0x27
    else if x.state ≠ 1 ∧ x.state ≠ 2 then refuseCmd s slot 0x20
    else if (Word.bitOf p2 61 || Word.bitOf p2 62) && s.launches.any (fun l => l.2.ctx == n) then refuseCmd s slot 0x2D
    else endCmd (modCtx s n (fun x =>
      { x with budget := if Word.bitOf p2 60 then Word.bitsOf p2 21 16 else x.budget
               minLevel := if Word.bitOf p2 61 then p2 % 4 else x.minLevel
               seed := if Word.bitOf p2 62 then BitVec.ofNat 64 (Pkt.p1 c.packet) else x.seed })) slot {}

def execCtxSet (slot : Nat) (s : State) : Res := .next (ctxSet s slot)

end Sys2Proof.Machine
end

