-- ==== Sys2Proof/Machine/MemBg.lean ====
section
/-!
DEFINITION. The memories' own operations (07/R216-R227): refresh, recalibration, patrol and slice scrub, lane
retirement, the test state of a channel, its generator and margining sweeps.
-/
namespace Sys2Proof.Machine

/-- DRAM_REFRESH of a channel (07/R219): no register, byte or tag changes. -/
def execDramRefresh (_chan : Nat) (s : State) : Res := .next s

/-- The UNIT of a lane of a module channel (08/R262). -/
def chanIndex (ch : Nat) : Nat := if ch < 512 then ch % 64 else 64 + (ch - 512) % 16
def laneUnit (ch lane : Nat) : W64 := unitW 6 (channelDie ch) (chanIndex ch) lane
def chanUnit (ch : Nat) : W64 := unitW 5 (channelDie ch) (chanIndex ch) 0

/-- Record that a lane gave way to a spare: a standing change of its unit to retired (07/R217, 08/R263). DEDUCED: log
entry 25. -/
def logLane (s : State) (unit : W64) (old new : Nat) (fenced : Bool) : State :=
  logRec s 0x30 0 unit (ldata ([BitVec.ofNat 8 old, BitVec.ofNat 8 new, BitVec.ofNat 8 (Word.b2n fenced)]))

/-- One waiting lane of a channel is replaced (07/R218). DEDUCED: log entry 49. -/
def replaceLane (ch : Nat) (s : State) (lane : Nat) : State :=
  let c := getChan s ch
  if c.sparesLeft = 0 then s
  else
    let s := modChan s ch (fun c => { c with sparesLeft := c.sparesLeft - 1, sparesUsed := c.sparesUsed + 1, lastTrain := 2 })
    let s := modUnit s (laneUnit ch lane) (fun u => { u with standing := 2 })
    logLane s (laneUnit ch lane) 0 2 false

/-- RECALIBRATION of a channel: RECAL_LATE at the 32 ms bound; lanes that wait are replaced (07/R218, R219). DEDUCED: log
entry 49. -/
def recalibration (s : State) (ch : Nat) (late : Bool) : State :=
  let lanes := (getChan s ch).retire
  let s := modChan s ch (fun c => { c with recalLate := c.recalLate || late, retire := [] })
  lanes.foldl (replaceLane ch) s

def execRecalibration (ch : Nat) (late : Bool) (s : State) : Res := .next (recalibration s ch late)

/-- What a scrub read meets: corrections counted, uncorrectable sectors reported (07/R200, R211). -/
def scrubFindings (s : State) (f : Finding) : State :=
  let s := applyMarks s f
  match f with
  | .uncorrectable xs => (xs.foldl (fun a x => ninsert a (x / 64)) []).foldl (fun s k => reportBad s noCtx k 0xFFFF) s
  | _ => s

/-- PATROL_SCRUB_STEP of a channel: `late` at its 32 ms bound, `passDone` when it completes a pass over all the die's
channels (07/R219, R237). -/
def patrolScrubStep (s : State) (ch : Nat) (late passDone : Bool) (f : Finding) : State :=
  modScrub (scrubFindings s f) (channelDie ch) fun x =>
    { x with behind := x.behind || late, dramPasses := if passDone then satAdd 16 x.dramPasses 1 else x.dramPasses }

def execPatrolScrubStep (ch : Nat) (late passDone : Bool) (f : Finding) (s : State) : Res :=
  .next (patrolScrubStep s ch late passDone f)

/-- MEMORY_LANE_RETIRE (07/R218): the lane waits for the next recalibration slot; with no spare the channel stays in
service and the event is logged, and goes out of service when an uncorrectable error recurs on the lane. DEDUCED: log
entry 49. -/
def memoryLaneRetire (s : State) (ch lane : Nat) (uncorr : Bool) : State :=
  let c := getChan s ch
  if c.retire.length < c.sparesLeft then modChan s ch (fun c => { c with retire := ninsert c.retire lane })
  else
    let s := logRec s 0x10 0 (laneUnit ch lane) (ldata (Word.toLe 8 1000))
    if uncorr && c.weak.contains lane then
      logRec (modChan s ch (fun c => { c with state := 4 })) 0x11 0x4D (chanUnit ch) (ldata [])
    else if uncorr then modChan s ch (fun c => { c with weak := ninsert c.weak lane })
    else s

def execMemoryLaneRetire (ch lane : Nat) (uncorr : Bool) (s : State) : Res := .next (memoryLaneRetire s ch lane uncorr)

/-- SCRUB_STARVED (07/R222). -/
def scrubStarved (s : State) (core : Nat) : State :=
  raiseCore (modScrub s (core / 128) (fun x => { x with starved := true })) 0x4E (coreCtx s core) core 0 0 0

def execScrubStarved (core : Nat) (s : State) : Res := .next (scrubStarved s core)

/-- SLICE_SCRUB_PASS of a scratch-mode slice (07/R222). -/
def execSliceScrubPass (slice : Nat) (f : Finding) (s : State) : Res :=
  .next (if (tget {} s.mem.slices slice).cache then s else scrubFindings s f)

/-! ### The test state (07/R223) -/

/-- CH_TEST_ENTER. -/
def chTestEnter (s : State) (slot : Nat) : State :=
  match begun s slot 0x0702 with
  | none => s
  | some c =>
    let ch := Pkt.p0 c.packet % 1024
    if !debugAllowed s 1 then refuseCmd s slot 0x2A
    else if dieInUse s (channelDie ch) then refuseCmd s slot 0x4A
    else endCmd (modChan s ch (fun c => { c with state := 3, genRun := 0, mRun := 0 })) slot {}

def execChTestEnter (slot : Nat) (s : State) : Res := .next (chTestEnter s slot)

/-- Zero-fill the crates of a channel (07/R223, R206). -/
def zeroChannel (m : Mem) (ch : Nat) : Mem :=
  { m with
    cells := m.cells.filter (fun x => decide (channelOf x.1 ≠ some ch))
    tags := m.tags.filter (fun x => decide (channelOf (x.1 * 4096) ≠ some ch))
    opened := m.opened.filter (fun x => decide (channelOf (x * 4096) ≠ some ch))
    bad := m.bad.filter (fun x => decide (channelOf (x * 64) ≠ some ch)) }

/-- CH_TEST_EXIT: only from the test state (0x4A). DEDUCED: log entry 49. -/
def chTestExit (s : State) (slot : Nat) : State :=
  match begun s slot 0x0703 with
  | none => s
  | some c =>
    let ch := Pkt.p0 c.packet % 1024
    if (getChan s ch).state ≠ 3 then refuseCmd s slot 0x4A
    else endCmd (modMem (modChan s ch (fun c => { c with state := 1, genRun := 0 })) (fun m => zeroChannel m ch)) slot {}

def execChTestExit (slot : Nat) (s : State) : Res := .next (chTestExit s slot)

/-! ### The generator (07/R224, R233, R234) -/

/-- The RW bits of MEM_GEN_CTRL. -/
def genMask : W64 := BitVec.ofNat 64 ((2 ^ 32 - 1) * 2 ^ 32 + 0xFFFF00)

/-- A write of MEM_GEN_CTRL: its fields, then STOP, then START. -/
def genWrite (s : State) (ch : Nat) (v : W64) : State :=
  modChan s ch fun c =>
    let c := { c with genCtrl := v &&& genMask }
    let c := if rbit v 1 && c.genRun == 1 then { c with genRun := 2, genReason := 0x4C } else c
    if !rbit v 0 then c
    else if c.state = 3 then { c with genRun := 1, genReason := 0, genPasses := 0, genErrors := 0, lanesLo := 0#64, lanesHi := 0 }
    else { c with genRun := 3, genReason := 0x4A }

/-- GEN_START and GEN_STOP: writes with START or STOP set. -/
def execGenStart (ch : Nat) (v : W64) (s : State) : Res := fromHost s (if rbit v 0 && ch < 640 then genWrite s ch v else s)
def execGenStop (ch : Nat) (v : W64) (s : State) : Res := fromHost s (if rbit v 1 && ch < 640 then genWrite s ch v else s)

/-- GEN_PASSES_DONE: the running generator has made PASSES passes; the mismatches and lanes are as observed. -/
def genPassesDone (s : State) (ch errors : Nat) (lo : W64) (hi : Nat) : State :=
  let c := getChan s ch
  if c.genRun = 1 ∧ rbits c.genCtrl 15 8 ≠ 0 then
    modChan s ch fun c => { c with genRun := 2, genPasses := rbits c.genCtrl 15 8, genErrors := min errors (2 ^ 32 - 1)
                                   genReason := if errors = 0 then 0 else 0x50, lanesLo := lo, lanesHi := hi % 4096 }
  else s

def execGenPassesDone (ch errors : Nat) (lo : W64) (hi : Nat) (s : State) : Res := .next (genPassesDone s ch errors lo hi)

/-! ### Margining (07/R225-R227) -/

/-- The result crate of a sweep (07/R227). `drop` is the reason of a dropped lane; lanes without an entry were not run. -/
def sweepBytes (channel dir dwell firstLane lanes : Nat) (t0 t1 : W64) (xs : List SweepEntry) (drop rest : Nat) : List Byte :=
  let status := if xs.any (·.broken) then drop else if xs.length < lanes then rest else 0
  let head := Word.toLe 2 channel ++ Word.toLe 1 lanes ++ Word.toLe 1 status ++ Word.toLe 1 dir ++ Word.toLe 1 0
    ++ Word.toLe 2 dwell ++ Word.toLe 8 t0.toNat ++ Word.toLe 8 t1.toNat ++ List.replicate 40 0#8
  let entry (i : Nat) : List Byte :=
    let lane := Word.toLe 1 (firstLane + i)
    match xs[i]? with
    | some e => lane ++ Word.toLe 1 (if e.broken then 2 + 8 * Word.b2n e.spare else 1 + 8 * Word.b2n e.spare)
        ++ [e.early, e.late, e.low, e.high] ++ Word.toLe 1 (if e.broken then drop else 0) ++ Word.toLe 1 0
    | none => lane ++ Word.toLe 1 4 ++ [0x80#8, 0x80#8, 0x80#8, 0x80#8] ++ Word.toLe 1 rest ++ Word.toLe 1 0
  (head ++ (List.range lanes).flatMap entry ++ zeroPayload).take 4096

/-- The reason of a sweep's first abort. -/
def sweepReason (lanes : Nat) (xs : List SweepEntry) (drop rest : Nat) : Nat :=
  if xs.any (·.broken) then drop else if xs.length < lanes then rest else 0

/-- The crate a sweep writes must be writable in the partition that holds its die (07/R196). -/
def sweepCrateRefusal (s : State) (a : Nat) : Option Nat :=
  match (regionOf a).die with
  | none => refuse s .all 0 a
  | some d => match partOfDie s d with
    | some p => refuse s .all p a
    | none => some 0x46

/-- MARGIN_SWEEP of a memory channel: `xs` the lanes measured, fewer than asked when the sweep stopped or `failed` to
retrain; a stop by command shows in the channel's state. -/
def marginMemory (s : State) (slot : Nat) (c : Cmd) (xs : List SweepEntry) (failed : Bool) : State :=
  let p := c.packet
  let ch := Pkt.p0 p % 1024
  let lanes := Word.bitsOf (Pkt.p2 p) 31 24
  let first := Word.bitsOf (Pkt.p2 p) 23 16
  let chan := getChan s ch
  let xs := if chan.mStop then [] else xs.take lanes
  let rest := if chan.mStop then 0x4C else 0x4B
  let reason := sweepReason lanes xs 0x4B rest
  if !debugAllowed s 1 then refuseCmd s slot 0x2A
  else if chan.state ≠ 3 then refuseCmd s slot 0x4A
  else match sweepCrateRefusal s (pktOff1 p) with
  | some r => refuseCmd s slot r
  | none =>
    let bytes := sweepBytes ch (Word.b2n (Word.bitOf (Pkt.p0 p) 16)) (Pkt.p2 p % 2 ^ 16) first lanes s.time s.time xs 0x4B rest
    let s := modMem s (fun m => fwCrate (preserve m (pktOff1 p / 4096)) (pktOff1 p / 4096) bytes)
    let s := modChan s ch (fun c =>
      { c with mReason := reason, mLane := first + xs.length - 1, mLanesDone := lanes, mRun := 3, mStop := false
               state := if failed then 4 else c.state, lastTrain := if failed then 3 else c.lastTrain })
    let s := if failed then logRec s 0x11 0x4D (chanUnit ch) (ldata []) else s
    endCmd s slot { result := reason }

end Sys2Proof.Machine
end

