-- ==== Sys2Proof/Machine/FabOps.lean ====
section
/-!
DEFINITION. Fabric transfers and what fails them (11/R374-R379), PFABRIC (06/R181, R182), the session, port and time
commands of chapter 11, and margining (07/R225, 11/R385).
-/
namespace Sys2Proof.Machine

/-! ### Transfers (11/R378, R379) -/

def getOp (s : State) (id : Nat) : Option Op := tget none s.fab.ops id
def setOp (s : State) (id : Nat) (o : Option Op) : State := modFab s (fun x => { x with ops := tset none x.ops id o })
def modOp (s : State) (id : Nat) (f : Op → Op) : State := setOp s id ((getOp s id).map f)

/-- Enter a transfer under a new identifier. -/
def newOp (s : State) (o : Op) : State × Nat :=
  let id := s.fab.nextOp
  (setOp (modFab s (fun x => { x with nextOp := (x.nextOp + 1) % 2 ^ 32 })) id (some o), id)

/-- Remove a transfer, and its frames that are not yet sent. -/
def dropOp (s : State) (id : Nat) : State :=
  let keep (i : Item) : Bool := i.resend || i.op != some id
  modFab (setOp s id none) (fun x => { x with sendq := x.sendq.filter keep, bindq := x.bindq.filter keep })

/-- A transfer is complete: its instruction no longer waits for it. -/
def opDone (s : State) (id : Nat) : State :=
  match getOp s id with
  | none => s
  | some o =>
    let s := setOp s id none
    match o.owner with
    | .porter core x => modTransfer s core x (fun t => { t with ops := t.ops.filter (· != id) })
    | _ => s

/-- The launch that issued a transfer is still running (06/R182, 11/R379). -/
def launchRuns (s : State) (core load : Nat) : Bool :=
  (getCore s core).load == load && (match (getCore s core).launch with
    | some l => (getLaunch s l).running && (getLaunch s l).stopped.isNone
    | none => false)

/-- The fabric error record (11/R378). -/
def errorRecord (o : Op) (reason far ftype crate : Nat) (running : Bool) : List Byte :=
  Word.toLe 1 reason ++ Word.toLe 1 far ++ Word.toLe 1 ftype ++ Word.toLe 1 o.ctx ++ Word.toLe 2 o.gen
    ++ Word.toLe 2 o.chip ++ Word.toLe 4 o.tag ++ Word.toLe 2 o.queue ++ Word.toLe 2 o.core
    ++ Word.toLe 2 (Word.b2n running * 32768 + o.index % 4096) ++ Word.toLe 6 crate

/-- The core stops as by a station fault with the record's reason, in CORE_MOVE_FAULT, which raises an event of its own
beside the record (06/R182, 05/R161, log entry 46). -/
def fabricFault (s : State) (core idx reason : Nat) : State := stationFault s core 4 idx reason

/-- A transfer has failed (11/R378, R379): its record is an event; a running launch stops, and otherwise its queue holds a
pending failure. Local crates that a get has written are poisoned. A stream to a mirror holder that cannot be
delivered raises 0x84 (14/R456), and the read of a takeover fails it. DEDUCED: log entry 19. -/
def failOp (s : State) (id reason far ftype crate : Nat) : State :=
  match getOp s id with
  | none => s
  | some o =>
    let s := dropOp s id
    match o.owner with
    | .porter core x =>
      let run := launchRuns s core o.launch
      let s := raiseEvent s { kind := 2, reason, ctx := o.ctx, gen := o.gen, prio := 0, time := s.time
                              body := errorRecord o reason far ftype crate run } none
      let s := if isTraining s o.ctx o.gen then chargeStep s o.step reason else s
      let s := o.written.foldl (fun s c => setMem s (setTag s.mem c (Tag.poison (crateTag s.mem c)))) s
      let s := modTransfer s core x (fun t => { t with failed := true, ops := t.ops.filter (· != id) })
      if run then fabricFault s core o.index reason
      else modQueue s o.queue (fun q => { q with fails := q.fails ++ [reason] })
    | .stream step what =>
      let s := if what = 3 then { s with stepSt := { s.stepSt with ckpt := { s.stepSt.ckpt with state := 3, reason } } } else s
      raiseStep s 0x84 (o.ctx, o.gen) (BitVec.ofNat 64 step) (chipStall o.chip)
    | .takeover => { s with stepSt := { s.stepSt with takeFail := some reason } }
    | .none => s

/-! ### Failing a session (11/R368, R369, R374) -/

/-- Frames to a peer that nothing will deliver: their transfers fail. -/
def failFrames (s : State) (fs : List (Frame × Option Nat)) (reason : Nat) : State :=
  fs.foldl (fun s e => match e.2 with
    | some id => failOp s id reason 0 e.1.typ (e.1.addr / 4096)
    | none => s) s

/-- Collectives in progress with a member at a chip fail (12/R415). -/
def failColls (s : State) (chip reason : Nat) (p : Group → Bool) : State :=
  (s.groups.filter (fun e => p e.2 && (match e.2.run with | some r => r.others.contains chip | none => false))).foldl
    (fun s e => collFail s e.1 reason) s

/-- The transmit half of entry `n` closes with a new state: unacknowledged frames fail; with `all`, so do the frames
that wait to be sent. -/
def closeHalf (s : State) (n state reason : Nat) (all : Bool) : State :=
  match getSession s n with
  | none => s
  | some x =>
    let mine (i : Item) : Bool := i.relay.isNone && i.frame.dst == x.peer
    let gone (i : Item) : Bool := mine i && ((frameSeq i.frame.typ && (all || i.resend)) || i.frame.typ == 0x12)
    let waiting := if all then s.fab.sendq.filter (fun i => mine i && frameSeq i.frame.typ) else []
    -- a frame that waits for a binding fails by the BIND
    let bound := if all then (s.fab.bindq.filter mine).map (fun i => ({ i.frame with typ := 0x0B, addr := 0 }, i.op)) else []
    let fs := (sessUnacked x).map (fun u => (u.frame, u.op)) ++ waiting.map (fun i => (i.frame, i.op)) ++ bound
    let s := setSession s n (some { x with state, retries := 0, chans := x.chans.map (fun c => { c with unacked := [] }) })
    let s := modFab s fun f =>
      { f with sendq := f.sendq.filter (fun i => !gone i), bindq := if all then f.bindq.filter (fun i => !mine i) else f.bindq
               binds := if all then f.binds.filter (fun b => !(b.chip == x.peer && b.state == 0)) else f.binds }
    failColls (failFrames s fs reason) x.peer reason (fun _ => true)

/-- Reopen a session that still has frames to send. -/
def reopen (s : State) (n : Nat) : State :=
  match getSession s n with
  | none => s
  | some x => if x.state ≠ 1 && x.state ≠ 2 && (s.fab.sendq ++ s.fab.bindq).any (fun i => i.relay.isNone
      && i.frame.dst == x.peer && frameSeq i.frame.typ) then openHalf s n else s

/-! ### Acknowledgements and retransmission (11/R373, R374) -/

/-- `a` is at or before `b` in sequence order. -/
def seqLe (a b : Nat) : Bool := decide ((2 ^ 32 + b - a) % 2 ^ 32 < 2 ^ 31)

/-- A frame of the replay buffer is acknowledged: its transfer has one less outstanding. -/
def ackOne (s : State) (u : Sent) : State :=
  match u.op with
  | none => s
  | some id => match getOp s id with
    | none => s
    | some o =>
      if o.dir = 1 then s
      else
        let s := modOp s id (fun o => { o with left := o.left - 1 })
        if o.left ≤ 1 && o.all && (match o.owner with | .stream _ 0 => false | _ => true) then opDone s id else s

/-- ACK: release the acknowledged frames of a channel (11/R374); a new measurement of the round trip is open. -/
def ackEffect (s : State) (f : Frame) : State :=
  match sessionOf s f.src with
  | none => s
  | some n => match getSession s n with
    | none => s
    | some x =>
      if x.sid ≠ f.sid ∨ x.state ≠ 2 then s
      else
        let past (u : Sent) : Bool := seqLe ((u.frame.seq + frameSpan u.frame) % 2 ^ 32) f.seq
        let gone := (chanOf x f.ch).unacked.filter past
        if gone = [] then s
        else
          let (v, s) := drawFree s
          let s := modSession s n fun x =>
            { modChanOf x f.ch (fun c => { c with unacked := c.unacked.filter (fun u => !past u) }) with
              retries := 0, srtt := if gone.any (fun u => !u.again) then slice32 v 0 else x.srtt }
          let s := modFab s fun y => { y with sendq := y.sendq.filter (fun i => !(i.resend && i.frame.dst == x.peer
              && i.frame.ch == f.ch && gone.any (fun u => u.frame.seq == i.frame.seq))) }
          gone.foldl ackOne s

def execAck (p : Nat) (s : State) : Res := .next (recvCtl s p 0x10 ackEffect)

/-- Queue every unacknowledged frame of a channel from `e` on to be sent again, ahead of new ones. -/
def resendFrom (s : State) (n ch e : Nat) (which : Sent → Bool) : State :=
  match getSession s n with
  | none => s
  | some x =>
    let us := (chanOf x ch).unacked.filter (fun u => seqLe e u.frame.seq && which u)
    let items : List Item := us.map (fun u => { frame := u.frame, ctx := u.ctx, op := u.op, resend := true })
    modFab s fun f => { f with sendq := items ++ f.sendq.filter (fun i => !(i.resend && i.frame.dst == x.peer && i.frame.ch == ch
      && us.any (fun u => u.frame.seq == i.frame.seq))) }

/-- A resend that has seen no acknowledgement: the sixteenth breaks the session (11/R374). DEDUCED: log entry 19. -/
def resendOrBreak (s : State) (n ch e : Nat) : State :=
  match getSession s n with
  | none => s
  | some x =>
    if 15 ≤ x.retries then closeHalf s n 3 0x6C true
    else resendFrom (modSession s n (fun x => { x with retries := x.retries + 1 })) n ch e (fun _ => true)

/-- NAK. -/
def nakEffect (s : State) (f : Frame) : State :=
  match sessionOf s f.src with
  | none => s
  | some n => match getSession s n with
    | none => s
    | some x => if x.sid ≠ f.sid ∨ x.state ≠ 2 ∨ (chanOf x f.ch).unacked = [] then s else resendOrBreak s n f.ch f.seq

def execNak (p : Nat) (s : State) : Res := .next (recvCtl s p 0x11 nakEffect)

/-- RETRANSMIT_TIMEOUT of channel `ch` towards a peer. DESIGN CHOICE: log entry 12. -/
def retransmitTimeout (s : State) (peer ch : Nat) : State :=
  match sessionOf s peer with
  | none => s
  | some n => match getSession s n with
    | none => s
    | some x => match (chanOf x ch).unacked with
      | [] => s
      | u :: _ => if x.state = 2 then resendOrBreak s n ch u.frame.seq else s

def execRetransmitTimeout (peer ch : Nat) (s : State) : Res := .next (retransmitTimeout s peer ch)

/-- ACK_TIMER: frames completed since the last ACK are acknowledged (11/R373). -/
def ackTimer (s : State) (peer ch : Nat) : State :=
  match sessionOf s peer with
  | none => s
  | some n => match getSession s n with
    | none => s
    | some x => if (chanOf x ch).doneSince = 0 then s else sendAck s peer ch

def execAckTimer (peer ch : Nat) (s : State) : Res := .next (ackTimer s peer ch)

/-- OPEN_RETRY: the OPEN is repeated; after 16 the waiting transfers fail (11/R368). -/
def openRetry (s : State) (peer : Nat) : State :=
  match sessionOf s peer with
  | none => s
  | some n => match getSession s n with
    | none => s
    | some x =>
      if x.state ≠ 1 then s
      else if 16 ≤ x.opens then closeHalf s n 0 0x60 true
      else enqueue (modSession s n (fun x => { x with opens := x.opens + 1 })) { frame := openFrame s x }

def execOpenRetry (peer : Nat) (s : State) : Res := .next (openRetry s peer)

/-- OPEN (11/R368-R370): the receive half is installed or replaced and OPEN_ACK answers; an OPEN that replaces a half
closes this module's own half to that chip. DESIGN CHOICE: log entry 41. -/
def openEffect (s : State) (f : Frame) : State :=
  let ack (s : State) : State := enqueue s { frame := { typ := 0x13, dst := f.src, src := ownChip s, sid := f.sid } }
  let install (s : State) (n : Nat) : State := modSession s n fun x =>
    { x with rxSid := some f.sid, lastUse := s.time.toNat
             chans := x.chans.zipIdx.map (fun e => { e.1 with expect := [f.seq, f.opid, f.index, f.aux % 2 ^ 32].getD e.2 0
                                                              doneSince := 0, nak := none }) }
  match sessionOf s f.src with
  | none => match freeSession s with
    | none => s
    | some n => ack (install (setSession s n (some { peer := f.src })) n)
  | some n => match getSession s n with
    | none => s
    | some x =>
      if x.rxSid = some f.sid then ack s
      else if x.rxSid.isSome then
        let s := if x.state = 1 ∨ x.state = 2 then closeHalf s n 0 0x60 false else s
        ack (reopen (install s n) n)
      else ack (install s n)

def execOpen (p : Nat) (s : State) : Res := .next (recvCtl s p 0x12 openEffect)

/-- OPEN_ACK (11/R368). -/
def openAckEffect (s : State) (f : Frame) : State :=
  match sessionOf s f.src with
  | none => s
  | some n => match getSession s n with
    | none => s
    | some x => if x.state = 1 ∧ x.sid = f.sid then modSession s n (fun x => { x with state := 2 }) else s

def execOpenAck (p : Nat) (s : State) : Res := .next (recvCtl s p 0x13 openAckEffect)

/-! ### PFABRIC (06/R181, R182) -/

/-- The slot-wise progress of a fabric transfer: done, waiting at crate `k`, stopped by a fabric reason at crate `k`, or
stopped as an instruction. -/
inductive FabRun where
  | all (s : State)
  | wait (k : Nat) (s : State)
  | failed (reason k : Nat) (s : State)
  | stop (r : Run)

/-- Send the crates of one local slot as PUT or ACC_PUT frames. -/
def putCrates (cg : CtxGen) (core id : Nat) (w : W128) (total : Nat) : Nat → Nat → Nat → State → FabRun
  | 0, _, _, s => .all s
  | n + 1, loc, k, s =>
    if Ins.bits w 87 86 = 2 ∧ Tag.fmt (crateTag s.mem loc) ≠ Fmt.fp32 then
      .stop (.fault (if Fmt.known (Tag.fmt (crateTag s.mem loc)) then 0xF1 else 0xE2) s)
    else
      let (s, p, t) := moveRead s cg core loc
      let s := modOp s id (fun o => { o with left := o.left + 1 })
      match sendCtx s cg.1 cg.2 (some id)
        { typ := if Ins.bits w 87 86 = 2 then 0x02 else 0x01, last := k + 1 == total, dst := Ins.bits w 66 52
          ch := Ins.bits w 68 67, opid := id, addr := (Ins.bits w 51 22 + k) * 4096, index := k, data := crateData t p } with
      | (s, some r) => .failed r k s
      | (s, none) => putCrates cg core id w total n (loc + 1) (k + 1) s

/-- Slot by slot from crate `k`: wait for data, send, release (05/R135). -/
def putSlots (cg : CtxGen) (core id : Nat) (w : W128) (total : Nat) : Nat → Nat → State → FabRun
  | 0, _, s => .all s
  | fuel + 1, k, s =>
    if total ≤ k then .all s
    else
      let b := Ins.bits w 85 80
      let bin := getBin (getCore s core) b
      if !bin.dataOk then .wait k s
      else
        let n := min bin.slotCrates (total - k)
        match putCrates cg core id w total n (slotCrate core bin bin.emptySlot 0) k s with
        | .all s => match implicitRelease s core b with
          | .ok s => putSlots cg core id w total fuel (k + n) s
          | .error r => .stop r
        | x => x

/-- Every frame of a transfer is handed over. -/
def handedOver (s : State) (core x id : Nat) : State :=
  let s := modTransfer s core x (fun t => { t with moved := true })
  match getOp s id with
  | some o => if o.left = 0 then opDone s id else modOp s id (fun o => { o with all := true })
  | none => s

/-- What a fabric transfer does from crate `k` on. -/
def fabricGo (s : State) (core x id k : Nat) (w : W128) (cg : CtxGen) : FabRun :=
  let n := Ins.bits w 79 69 + 1
  let dir := Ins.bits w 87 86
  let one (f : Frame) (left : Nat) : FabRun :=
    match sendCtx (modOp s id (fun o => { o with left })) cg.1 cg.2 (some id)
      { f with last := true, dst := Ins.bits w 66 52, ch := Ins.bits w 68 67, opid := id } with
    | (s, some r) => .failed r 0 s
    | (s, none) => .all (handedOver s core x id)
  if dir = 1 then one { typ := 0x03, addr := Ins.bits w 51 22 * 4096, aux := n - 1 } n
  else if dir = 3 then one { typ := 0x05, addr := Ins.bits w 37 22, aux := n } 1
  else match putSlots cg core id w n (n + 1) k s with
    | .all s => .all (handedOver s core x id)
    | r => r

/-- The frame type a transfer fails with. -/
def frameTypeOf (w : W128) : Nat := [0x01, 0x03, 0x02, 0x05].getD (Ins.bits w 87 86) 0

/-- The far crate number of crate `k` of a transfer; a tally add names none. -/
def goalCrate (w : W128) (k : Nat) : Nat := if Ins.bits w 87 86 = 3 then 0 else Ins.bits w 51 22 + k

/-- PFABRIC: it issues when its first slot is ready and an in-flight entry is free; a fabric reason that meets it at
once is reported as a failed transfer (11/R363, R368, R376). -/
def bodyPfabric (s : State) (core : Nat) (w : W128) (_ : Finding) : Run :=
  let b := Ins.bits w 85 80
  let dir := Ins.bits w 87 86
  let bin := getBin (getCore s core) b
  if !inflightFree (getCore s core) then .hold .wait s
  else match if dir = 3 then none else implicitWait s w (if dir = 1 then bin.spaceOk else bin.dataOk)
      (if dir = 1 then 0xEA else 0xE9) b with
  | some r => r
  | none =>
    let l := coreLaunch s core
    let cg := coreCtx s core
    let x := (getCore s core).nextTransfer
    let cmd := findCmd s ((getCore s core).launch.getD 0)
    let (s, id) := newOp (addTransfer s core w 0 false)
      { dir, chip := Ins.bits w 66 52, ch := Ins.bits w 68 67, ctx := l.ctx, gen := l.gen, owner := .porter core x
        tag := (cmd.map (fun c => Pkt.tag c.packet)).getD 0, queue := (cmd.map (·.queue)).getD 0
        launch := (getCore s core).load, core, index := (getStation (getCore s core) 4).pc
        step := s.stepSt.cur, crate := goalCrate w 0 }
    let s := modTransfer s core x (fun t => { t with ops := [id] })
    match fabricGo s core x id 0 w cg with
    | .all s => .issued s
    | .wait k s => .issued (modTransfer s core x (fun t => { t with done := k }))
    | .failed r k s => .issued (failOp s id r 0 (frameTypeOf w) (goalCrate w k))
    | .stop r => r

def execPfabric (core : Nat) (f : Finding) (s : State) : Res := .next (issue s core 4 0x44 f bodyPfabric)

/-- MARKED_TRANSFER_COMPLETE: a fabric transfer that waits at a slot goes on when the slot allows; every other case is
that of the Porter (06/R177). -/
def markedComplete (s : State) (core id : Nat) (f : Finding) : State :=
  match (getCore s core).inflight.find? (fun t => t.id == id) with
  | none => s
  | some t =>
    -- a transfer of a context that is torn down makes none of its effects (10/R341 step 4)
    if (getCtx s t.ctx).state ≠ 2 ∨ (getCtx s t.ctx).gen ≠ t.gen then dropTransfer s core id
    else if Ins.op t.instr = 0x44 && !t.moved && !t.failed && coreHolds s core t.launch then
      match t.ops with
      | [] => s
      | opid :: _ => match fabricGo s core t.id opid t.done t.instr (t.ctx, t.gen) with
        | .all s => s
        | .wait k s => modTransfer s core t.id (fun t => { t with done := k })
        | .failed r k s => failOp s opid r 0 (frameTypeOf t.instr) (goalCrate t.instr k)
        | .stop (.fault r s) => stationFault (dropOp (modTransfer s core t.id (fun t => { t with failed := true })) opid) core 4 t.index r
        | .stop (.broken r b s) => scheduleBroken (dropOp (modTransfer s core t.id (fun t => { t with failed := true })) opid) core 4 t.index r b 0
        | .stop _ => s
    else transferComplete s core id f

def execMarkedTransferComplete (core id : Nat) (f : Finding) (s : State) : Res := .next (markedComplete s core id f)

/-! ### Ports (11/R354, R355, R381, R382, R386) -/

/-- A port carries no more frames: its unacknowledged frames go through the ports that R365 now gives (11/R374); the
loss of the time parent is holdover (11/R384). -/
def portDown (s : State) (p state : Nat) (trained : Bool) : State :=
  let s := modPort s p (fun x =>
    { x with state, trained, rxSeq := none, synced := false, partialFrame := [], lanes := if trained then x.lanes else 0
             backpressure := false, credits := [1920, 1920, 1920, 1920, 128, 128, 128, 128] })
  let s := (List.range 4).foldl (fun s c => s.fab.sessions.foldl (fun s e =>
    match e.2 with
    | some x => match (chanOf x c).unacked with
      | [] => s
      | u :: _ => resendFrom s e.1 c u.frame.seq (fun u => u.port == p)
    | none => s) s) s
  if rbit (getPort s p).cfg 0 && s.fab.timeSt.state == 2 then
    modFab s (fun f => { f with timeSt := { f.timeSt with state := 3 } })
  else s

/-- PORT_ENABLE (11/R386). -/
def portEnable (s : State) (p : Nat) (v : W64) : State :=
  if 48 ≤ p || !rbit v 63 then s
  else
    let s := modPort s p (fun x => { x with cfg := rset (rset x.cfg 47 32 (rbits v 47 32)) 0 0 (rbits v 0 0) })
    if portEnabled (getPort s p) then s
    else if portOff s p then modPort s p (fun x => { x with reason := 0x69 })
    else if !owned s then modPort s p (fun x => { x with reason := 0x2B })
    else modPort s p (fun x => { x with cfg := rset x.cfg 63 63 1, state := if x.state = 0 then 1 else x.state })

def execPortEnable (p : Nat) (v : W64) (s : State) : Res := fromHost s (portEnable s p v)

/-- PORT_DISABLE (11/R386): the channels move as on port loss. -/
def portDisable (s : State) (p : Nat) (v : W64) : State :=
  if 48 ≤ p || rbit v 63 then s
  else
    let was := portEnabled (getPort s p)
    let s := modPort s p (fun x => { x with cfg := rset (rset 0#64 47 32 (rbits v 47 32)) 0 0 (rbits v 0 0) })
    if was then portDown s p (if (getPort s p).state = 4 then 4 else 0) false else s

def execPortDisable (p : Nat) (v : W64) (s : State) : Res := fromHost s (portDisable s p v)

/-- DISCOVERY frame of a port (11/R381). -/
def discoveryFrame (s : State) (p : Nat) : Frame :=
  { typ := 0x16, src := ownChip s, addr := s.fuse.f.serial.toNat, index := s.fab.resets
    aux := p + s.fab.stall.getD 0xFF * 2 ^ 8 + s.fuse.f.grade * 2 ^ 16 + ownChip s * 2 ^ 24 + Word.b2n s.fab.chip.isSome * 2 ^ 39 }

/-- DISCOVERY_SEND of a trained port. -/
def discoverySend (s : State) (p : Nat) : State :=
  if (getPort s p).trained then enqueue s { frame := discoveryFrame s p, port := some p } else s

def execDiscoverySend (p : Nat) (s : State) : Res := .next (discoverySend s p)

/-- The far end of a square port breaks R349. -/
def isMiswired (s : State) (p farStall farPort : Nat) : Bool :=
  match s.fab.stall with
  | some st => decide (p < 32) && farStall != 0xFF && !(farStall == farStallOf st p && farPort == farPortOf p)
  | none => false

/-- DISCOVERY (11/R381, R382). -/
def discoveryEffect (p : Nat) (s : State) (f : Frame) : State :=
  let x := getPort s p
  let serial := BitVec.ofNat 64 f.addr
  let port := f.aux % 256
  let stall := f.aux / 2 ^ 8 % 256
  let chip := f.aux / 2 ^ 24 % 2 ^ 15
  let valid := Word.bitOf f.aux 39
  let stall5 := if stall ≤ 16 then stall else 0x1F
  let changed := x.farResets.isSome && (x.farResets != some f.index || x.farSerial != serial || x.farStall != stall5)
  let s := if changed && x.farValid then
      match sessionOf s x.farChip with
      | some n => reopen (setRx (closeHalf s n 0 0x60 false) n) n
      | none => s
    else s
  let bad := isMiswired s p stall port
  let s := if bad && !x.miswired then raiseUnit s 0x6B noCtx (portUnit p) p (some (portDie p)) else s
  modPort s p (fun x =>
    { x with farSerial := serial, farPort := port, farStall := stall5, farChip := chip, farValid := valid, miswired := bad
             farResets := some f.index, state := if x.trained && (x.state == 1 || x.state == 0) then 2 else x.state })
where
  /-- the receive half is closed too -/
  setRx (s : State) (n : Nat) : State := modSession s n (fun x => { x with rxSid := none })

def execDiscovery (p : Nat) (s : State) : Res := .next (recvCtl s p 0x16 (discoveryEffect p))

/-- DISCOVERY_TIMEOUT: the port goes down and its channels move. -/
def execDiscoveryTimeout (p : Nat) (s : State) : Res :=
  .next (if portUp s p then portDown s p 0 true else s)

/-- PORT_LINK_LOST. -/
def execPortLinkLost (p : Nat) (s : State) : Res :=
  .next (if (getPort s p).trained then portDown s p 0 false else s)

/-- Lanes of a 9-bit map. -/
def laneCount (m : Nat) : Nat := ((List.range 9).filter (fun i => Word.bitOf m i)).length

/-- PORT_TRAINING_DONE (11/R354): lanes `failed` are retired; with 8 healthy ones the port carries data on `lanes`, and
says so with a DISCOVERY; without an answer from the far end, or with fewer, it stays down. -/
def portTrainingDone (s : State) (p : Nat) (answered : Bool) (failed lanes : Nat) : State :=
  let x := getPort s p
  if x.state ≠ 1 then s
  else
    let new := (List.range 9).filter (fun l => Word.bitOf failed l && !Word.bitOf x.retired l)
    let s := new.foldl (fun s l => logLane s (portLaneUnit p l) 0 2 false) s
    let retired := Nat.lor x.retired (failed % 512)
    let lanes := Nat.land lanes (511 - retired)
    let s := modPort s p (fun x => { x with retired })
    if !answered || laneCount (511 - retired) < 8 || laneCount lanes ≠ 8 then modPort s p (fun x => { x with state := 0, lanes := 0 })
    else discoverySend (modPort s p (fun x => { x with trained := true, lanes, rxSeq := none, synced := false, partialFrame := [] })) p

def execPortTrainingDone (p : Nat) (answered : Bool) (failed lanes : Nat) (s : State) : Res :=
  .next (portTrainingDone s p answered failed lanes)

/-- PORT_TRAINING_RETRY: an enabled port that is down trains again. -/
def execPortTrainingRetry (p : Nat) (s : State) : Res :=
  .next (if portEnabled (getPort s p) && (getPort s p).state == 0 && !(getPort s p).trained then
    modPort s p (fun x => { x with state := 1 }) else s)

/-- A port goes out of service with 0x6B (11/R355, R385). -/
def portOut (s : State) (p : Nat) : State :=
  let s := portDown s p 4 false
  setStanding (modPort s p (fun x => { x with reason := 0x6B })) (portUnit p) 2 false

/-- FABRIC_LANE_RETIRE (11/R355): the port retrains with its remaining lanes, or goes out of service. -/
def fabricLaneRetire (s : State) (p lane : Nat) : State :=
  let x := getPort s p
  if 9 ≤ lane || !x.trained || Word.bitOf x.retired lane then s
  else
    let s := logLane s (portLaneUnit p lane) 0 2 false
    let s := modPort s p (fun x => { x with retired := x.retired + 2 ^ lane })
    if laneCount (511 - (getPort s p).retired) < 8 then portOut s p else portDown s p 1 false

def execFabricLaneRetire (p lane : Nat) (s : State) : Res := .next (fabricLaneRetire s p lane)

/-- PORT_BACKPRESSURE (11/R362). -/
def portBackpressure (s : State) (p : Nat) (held : Bool) : State :=
  let x := getPort s p
  if held then
    if (List.range 4).any (fun l => x.credits.getD l 0 == 0) then
      raiseUnit (modPort s p (fun x => { x with backpressure := true })) 0x0E noCtx (portUnit p) (1 + p * 2 ^ 16) (some (portDie p)) x.backpressure
    else s
  else modPort s p (fun x => { x with backpressure := false })

def execPortBackpressure (p : Nat) (held : Bool) (s : State) : Res := .next (portBackpressure s p held)

/-! ### Time transfer (11/R383, R384) -/

/-- A timestamp of 1/65,536 tick as the fields of a TIME frame. DESIGN CHOICE: log entry 21. -/
def timeFrame (kind sent seen : Nat) : Frame :=
  { typ := 0x15, opid := kind, addr := sent / 65536, aux := seen / 65536, index := sent % 65536 + seen % 65536 * 65536 }

/-- ASYM of a port, in 1/65,536 tick. -/
def asymUnits (x : Port) : Int := (BitVec.ofNat 16 (rbits x.cfg 47 32)).toInt * 65536 / 10000

/-- TIME_EXCHANGE: a request leaves at the timestamp `tx`, and the parent end sends its time. DESIGN CHOICE: log entry 21.
-/
def timeExchange (s : State) (p tx : Nat) : State :=
  if !portUp s p then s
  else
    let s := enqueue (modPort s p (fun x => { x with t1 := some tx })) { frame := timeFrame 1 tx 0, port := some p }
    if rbit (getPort s p).cfg 0 then s else enqueue s { frame := timeFrame 3 tx 0, port := some p }

def execTimeExchange (p tx : Nat) (s : State) : Res := .next (timeExchange s p tx)

/-- The rate correction that the servo chooses: free, within 200 parts per million, against the offset (11/R384). -/
def servoRate (s : State) (offset : Int) : State × BitVec 24 :=
  if offset = 0 then (s, 0#24)
  else
    let (v, s) := drawFree s
    let r : Int := v.toNat % 200001
    (s, BitVec.ofInt 24 (if offset < 0 then r else -r))

/-- The child's synchronisation: offset, rate and state; before the first lock a forward step is made. DESIGN CHOICE: log
entry 21. -/
def timeSync (s : State) (p : Nat) (sent rx : Nat) : State :=
  let x := getPort s p
  match x.delay with
  | none => s
  | some d =>
    if !rbit x.cfg 0 || s.fab.timeSt.root then s
    else
      let off : Int := (rx : Int) - ((sent : Int) + d)
      let fwd := !s.fab.timeSt.lockedOnce && decide (off ≤ -65536)
      let s := if fwd then { s with time := s.time + BitVec.ofInt 64 (-off / 65536) } else s
      let (s, rate) := servoRate s off
      modFab s (fun f => { f with timeSt := { f.timeSt with offset := BitVec.ofInt 32 off, rate, state := 2, lockedOnce := true } })

/-- TIME: `rx` is the SerDes timestamp of the frame's arrival, `tx` that of a response. DESIGN CHOICE: log entry 21. -/
def timeEffect (p rx tx : Nat) (s : State) (f : Frame) : State :=
  let sent := f.addr * 65536 + f.index % 65536
  let seen := f.aux * 65536 + f.index / 65536 % 65536
  if f.opid = 1 then enqueue s { frame := timeFrame 2 tx rx, port := some p }
  else if f.opid = 2 then
    match (getPort s p).t1 with
    | some t1 =>
      let d : Int := (((rx : Int) - t1) - ((sent : Int) - seen)) / 2 + asymUnits (getPort s p)
      modPort s p (fun x => { x with delay := some d, t1 := none })
    | none => s
  else if f.opid = 3 then timeSync s p sent rx
  else s

def execTime (p rx tx : Nat) (s : State) : Res := .next (recvCtl s p 0x15 (timeEffect p rx tx))

/-! ### Margining (07/R225-R227, 11/R385) -/

/-- MARGIN_SWEEP of a fabric port. -/
def marginPort (s : State) (slot : Nat) (c : Cmd) (xs : List SweepEntry) (failed : Bool) : State :=
  let k := c.packet
  let p := Pkt.p0 k % 1024
  let x := getPort s p
  let training := match partOfDie s (portDie p) with
    | some n => s.ctxs.any (fun e => e.2.live && e.2.training && e.2.part == n)
    | none => false
  let xs := if x.mStop then [] else xs.take 9
  let rest := if x.mStop then 0x4C else 0x6D
  let reason := sweepReason 9 xs 0x6D rest
  if !debugAllowed s 1 then refuseCmd s slot 0x2A
  else if training then refuseCmd s slot 0x4A
  else match sweepCrateRefusal s (pktOff1 k) with
  | some r => refuseCmd s slot r
  | none =>
    let bytes := sweepBytes (0x800 + p) (Word.b2n (Word.bitOf (Pkt.p0 k) 16)) (Pkt.p2 k % 2 ^ 16) 0 9 s.time s.time xs 0x6D rest
    let s := modMem s (fun m => fwCrate (preserve m (pktOff1 k / 4096)) (pktOff1 k / 4096) bytes)
    let s := modPort s p (fun x => { x with mStop := false })
    let s := if failed then portOut s p else portDown s p (if portEnabled x && x.state != 4 then 1 else x.state) false
    endCmd s slot { result := reason }

/-- MARGIN_SWEEP. -/
def marginSweep (s : State) (slot : Nat) (xs : List SweepEntry) (failed : Bool) : State :=
  match begun s slot 0x0704 with
  | none => s
  | some c => if Word.bitOf (Pkt.p0 c.packet) 12 then marginPort s slot c xs failed else marginMemory s slot c xs failed

def execMarginSweep (slot : Nat) (xs : List SweepEntry) (failed : Bool) (s : State) : Res := .next (marginSweep s slot xs failed)

/-- A sweep of the same channel or port is in progress. -/
def sweeping (s : State) (p0 : Nat) : Bool :=
  s.cmds.any (fun c => c.phase == 1 && Pkt.opcode c.packet == 0x0704 && Pkt.p0 c.packet % 2 ^ 13 == p0 % 2 ^ 13)

/-- MARGIN_STOP: a sweep in progress ends with 0x4C for its remaining lanes. -/
def marginStop (s : State) (slot : Nat) : State :=
  match begun s slot 0x0705 with
  | none => s
  | some c =>
    let p0 := Pkt.p0 c.packet
    if !debugAllowed s 1 then refuseCmd s slot 0x2A
    else if !sweeping s p0 then endCmd s slot {}
    else if Word.bitOf p0 12 then endCmd (modPort s (p0 % 1024) (fun x => { x with mStop := true })) slot {}
    else endCmd (modChan s (p0 % 1024) (fun x => { x with mStop := true })) slot {}

def execMarginStop (slot : Nat) (s : State) : Res := .next (marginStop s slot)

end Sys2Proof.Machine
end

