-- ==== Sys2Proof/Machine/Pack.lean ====
section
/-!
DEFINITION. Packing FP32 lines into crates (02/R57-R67): scale rules, quantisation, stochastic rounding, counts,
re-weigh, and the zero-line map of the tag (08/R242).
-/
namespace Sys2Proof.Machine.Pack
open Sys2Proof.Machine.Num Sys2Proof.Machine.Fmt

/-- The identity of a pack unit in the generator (02/R60). -/
structure Ids where
  seed : W64
  step : W64
  layer : Nat
  tile : Nat
deriving DecidableEq, Repr

/-- The counts of a pack unit (02/R62). -/
structure Counts where
  clipped : Nat := 0
  under : Nat := 0
  nans : Nat := 0
deriving DecidableEq, Repr

/-- Sum of two counts. -/
def Counts.plus (a b : Counts) : Counts :=
  { clipped := a.clipped + b.clipped, under := a.under + b.under, nans := a.nans + b.nans }

/-- The largest finite magnitude V and the top exponent T of a target (02/R57). -/
def vMax (f : Nat) : Nat := if f = 1 then 6 else if f = 2 then 448 else 57344
def tTop (f : Nat) : Int := if f = 1 then 2 else if f = 2 then 8 else 15

/-- A magnitude `m * 2^e` is at most `v * 2^s`. -/
def leScaled (m : Nat) (e : Int) (v : Nat) (s : Int) : Bool :=
  if e ≤ s then decide (m ≤ v * 2 ^ (s - e).toNat) else decide (m * 2 ^ (e - s).toNat ≤ v)

/-- The block exponent chosen by a scale rule for a block maximum `m * 2^e` (02/R57). -/
def scaleExp (rule0 : Bool) (f m : Nat) (e : Int) : Int :=
  if m = 0 then -127
  else
    let top : Int := (Nat.log2 m : Int) + e
    let s0 := top - tTop f
    -- rule 0: the smallest s with max ≤ V 2^s; V lies in [2^T, 2^(T+1)), so s is top - T or one more
    let s := if rule0 then (if leScaled m e (vMax f) s0 then s0 else s0 + 1) else s0
    max (-127) (min 127 s)

/-- The largest finite magnitude of a block as `m * 2^e`. -/
def blockMax : List F32 → Nat × Int → Nat × Int
  | [], b => b
  | y :: ys, (m, e) =>
    match decode32 y with
    | .fin _ m' e' => blockMax ys (if leScaled m' e' m e then (m, e) else (m', e'))
    | _ => blockMax ys (m, e)

/-- The magnitude of code `c` (sign cleared) in units of the target's least step. -/
def mag (f c : Nat) : Nat := if f = 1 then m4Mag c else if f = 2 then f8Mag 3 c else f8Mag 2 c
/-- The code of the largest finite magnitude. -/
def topCode (f : Nat) : Nat := if f = 1 then 7 else if f = 2 then 0x7E else 0x7B

/-- The largest code at or below `n` whose magnitude times `2^k` is at most `x` times `2^j`. -/
def floorCode (f x : Nat) (j k : Nat) : Nat → Nat
  | 0 => 0
  | n + 1 => if mag f (n + 1) * 2 ^ k ≤ x * 2 ^ j then n + 1 else floorCode f x j k n

/-- One quantised element: its code and its class (clipped, underflowed, NaN) by 02/R58, R59. `y` is the divided
value, `v` the input, `r` the draw; the underflow count judges the input. -/
def quant (f : Nat) (stoch : Bool) (r : Nat) (s : Int) (v y : F32) : Nat × Counts :=
  let bitsgn (neg : Bool) : Nat := if neg then (if f = 1 then 8 else 128) else 0
  match decode32 y with
  | .nan => (0x7F, { nans := 1 })
  | .inf n => (topCode f + bitsgn n, { clipped := 1 })
  | .fin n m e =>
    -- |q| in units of the least step is m * 2^(e - s - u)
    let d := e - s - unitExp f
    let j := d.toNat
    let k := (-d).toNat
    if m = 0 then (0, if isZero v then {} else { under := 1 })
    else if mag f (topCode f) * 2 ^ k < m * 2 ^ j then (topCode f + bitsgn n, { clipped := 1 })
    else
      let c := floorCode f m j k (topCode f)
      let a := mag f c * 2 ^ k
      let x := m * 2 ^ j
      let code :=
        if a = x then c
        else
          let b := mag f (c + 1) * 2 ^ k
          if stoch then (if r * (b - a) + (x - a) * 2 ^ 24 ≥ 2 ^ 24 * (b - a) then c + 1 else c)
          else if 2 * (x - a) > b - a then c + 1
          else if 2 * (x - a) < b - a then c
          else if c % 2 = 0 then c else c + 1
      if code = 0 then (0, { under := 1 }) else (code + bitsgn n, {})

/-- The BF16 quantisation of 02/R58: infinities and overflow clip to the largest finite magnitude. -/
def quantBf (stoch : Bool) (r : Nat) (y : F32) : Nat × Counts :=
  match decode32 y with
  | .nan => (0x7FC0, { nans := 1 })
  | .inf n => ((if n then 0xFF7F else 0x7F7F), { clipped := 1 })
  | .fin n m _ =>
    let sg := if n then 0x8000 else 0
    let v := y.toNat % 2 ^ 31
    let a := v / 65536
    let fr := v % 65536
    if m = 0 then (0, {})
    -- above the largest finite magnitude 0x7F7F
    else if a ≥ 0x7F7F && fr > 0 then (0x7F7F + sg, { clipped := 1 })
    else
      let c :=
        if fr = 0 then a
        else if stoch then (if r + fr * 256 ≥ 2 ^ 24 then a + 1 else a)
        else if fr > 32768 then a + 1
        else if fr < 32768 then a
        else if a % 2 = 0 then a else a + 1
      if c = 0 then (0, { under := 1 }) else (c + sg, {})

/-- FP32 written unchanged, NaN made canonical; infinities count as clipped (02/R57, R64). -/
def quantFp (y : F32) : Nat × Counts :=
  if isNaN y then (nan32.toNat, { nans := 1 })
  else if isFinite y then (y.toNat, {}) else (y.toNat, { clipped := 1 })

/-- One packed block: codes, scale byte, counts. -/
structure PBlock where
  codes : List Nat
  scale : Nat
  cnt : Counts
deriving DecidableEq, Repr

/-- Pack one block of 16 inputs `vs` with their divided values `ys` whose first element has position `pos`
(02/R57-R59). -/
def packBlock (f : Nat) (rule0 stoch : Bool) (ids : Ids) (pos : Nat) (vs ys : List F32) : PBlock :=
  let draw (i : Nat) := Rng.draw ids.seed ids.step ids.layer ids.tile (pos + i)
  if f = bf16 then
    let qs := ys.zipIdx.map fun (y, i) => quantBf stoch (if stoch then draw i else 0) y
    { codes := qs.map (·.1), scale := 0, cnt := qs.foldl (fun c q => c.plus q.2) {} }
  else if f = fp32 then
    let qs := ys.map quantFp
    { codes := qs.map (·.1), scale := 0, cnt := qs.foldl (fun c q => c.plus q.2) {} }
  else
    let (m, e) := blockMax ys (0, 0)
    let s := scaleExp rule0 f m e
    let qs := ys.zipIdx.map fun (y, i) => quant f stoch (if stoch then draw i else 0) s (vs.getD i 0#32) y
    if f = m4 && ys.any isNaN then
      { codes := List.replicate 16 0, scale := 255, cnt := { nans := ys.length } }
    else { codes := qs.map (·.1), scale := (s + 127).toNat, cnt := qs.foldl (fun c q => c.plus q.2) {} }

/-- The true exponent byte of a block for the prediction table (02/R67). -/
def trueScale (f : Nat) (rule0 : Bool) (ys : List F32) : Nat :=
  let (m, e) := blockMax ys (0, 0)
  (scaleExp rule0 f m e + 127).toNat

/-- A packed line. -/
structure PLine where
  blocks : List PBlock
deriving DecidableEq, Repr

/-- Pack line `l` of a unit. -/
def packLine (f : Nat) (rule0 stoch : Bool) (ids : Ids) (t : F32) (l : Nat) (vs : List F32) : PLine :=
  let ys := if scaled f then vs.map (fun v => div v t) else vs
  { blocks := (List.range 8).map fun b =>
      packBlock f rule0 stoch ids (l * 128 + 16 * b) (slice vs (16 * b) 16) (slice ys (16 * b) 16) }

/-- Pack the lines of a unit, the first being line `l0` of the unit. -/
def packLines (f : Nat) (rule0 stoch : Bool) (ids : Ids) (t : F32) (l0 : Nat) (vs : List (List F32)) : List PLine :=
  vs.zipIdx.map fun (v, i) => packLine f rule0 stoch ids t (l0 + i) v

/-- The counts of packed lines. -/
def countLines (ls : List PLine) : Counts :=
  ls.foldl (fun c l => l.blocks.foldl (fun c b => c.plus b.cnt) c) {}

/-- The bytes of one line's elements (02/R45). -/
def lineBytes (f : Nat) (l : PLine) : List Byte :=
  let codes := l.blocks.flatMap (·.codes)
  if f = 1 then
    (List.range 64).map fun i => BitVec.ofNat 8 (codes.getD (2 * i) 0 + 16 * codes.getD (2 * i + 1) 0)
  else if f = 4 then codes.flatMap (Word.toLe 2)
  else if f = 5 then codes.flatMap (Word.toLe 4)
  else codes.map (BitVec.ofNat 8)

/-- Zero bytes. -/
def zeros (n : Nat) : List Byte := List.replicate n 0#8

/-- The payload of a crate of packed lines, padded by 02/R46. -/
def payload (f : Nat) (t : F32) (ls : List PLine) : List Byte :=
  let body := ls.flatMap (lineBytes f)
  if scaled f then
    let el := (body ++ zeros 0xE00).take 0xE00
    let sc := (ls.flatMap (fun l => l.blocks.map (fun b => BitVec.ofNat 8 b.scale)) ++ zeros 0x1C0).take 0x1C0
    el ++ sc ++ Word.toLe 4 t.toNat ++ zeros 0x3C
  else (body ++ zeros 4096).take 4096

/-- Lines per ZMAP group (08/R242). -/
def zgroup (f : Nat) : Nat := if f = 1 then 7 else if f = 4 then 2 else 4

/-- The zero-line map of a payload (08/R242): bit g says that every line of group g in the crate is all-zero. -/
def zmap (f : Nat) (p : List Byte) : Nat :=
  (List.range 8).foldl (fun acc g =>
    let ls := (List.range (zgroup f)).map (fun i => g * zgroup f + i) |>.filter (· < Fmt.lines f)
    if ls.all (fun l => zeroLine (Fmt.line f p l)) then acc + 2 ^ g else acc) 0

/-- The line is marked all-zero by a map (05/R141). -/
def zmapLine (f map l : Nat) : Bool := Word.bitOf map (l / zgroup f)

/-- Re-weigh is due (02/R65). -/
def reweighDue (c : Counts) (n th : Nat) : Bool := decide ((c.clipped + c.under) * 65536 > th * n)

end Sys2Proof.Machine.Pack
end

