-- ==== Sys2Proof/Machine/Replay.lean ====
section
/-!
DEFINITION. Step replay, mirrors, checkpoints, cross-weighs and takeover (chapter 14, 08/R251, R252).
-/
namespace Sys2Proof.Machine

def modStep (s : State) (f : StepSt → StepSt) : State := { s with stepSt := f s.stepSt }

/-- The enabled training context (14/R435). -/
def trainingCtx (s : State) : Option Nat := (s.ctxs.find? (fun c => c.2.training && c.2.state == 2)).map (·.1)
/-- The context and generation whose steps are kept. -/
def stepCg (s : State) : CtxGen := match trainingCtx s with | some c => (c, (getCtx s c).gen) | none => noCtx
/-- The seal deadline D, and the slots of records and pendings. -/
def deadline (s : State) : Nat := s.stepSt.d + 1
def slotOfStep (s : State) (n : Nat) : Nat := n % (deadline s + 1)
def dirOn (s : State) : Bool := rbit s.stepSt.dirReg 63

/-! ### The directory (14/R433-R435) -/

/-- Read the fields of a directory crate. -/
def dirOf (b : List Byte) : StepDir :=
  { shard := leAt b 8 4, inputs := leAt b 0xC 4, digests := leAt b 0x10 4
    records := (List.range 4).map (fun i => leAt b (0x20 + 8 * i) 8)
    mirror := (List.range 2).map (fun i => leAt b (0x40 + 8 * i) 8)
    pending := (List.range 2).map (fun i => leAt b (0x50 + 8 * i) 8)
    ckpt := leAt b 0x60 8
    extents := (List.range (leAt b 6 2)).map (fun e =>
      (leAt b (0x100 + 16 * e) 8 / 4096, leAt b (0x108 + 16 * e) 4, Word.bitOf (leAt b (0x10C + 16 * e) 4) 0)) }

/-- The delta maximum X, and the crates of a pending slot (14/R434). -/
def deltaMax (d : StepDir) : Nat := (d.shard * 4120 + 4095) / 4096 + 1
def pendCrates (d : StepDir) : Nat := 1 + d.inputs + deltaMax d

/-- The used areas: first crate and crates (14/R434). -/
def dirAreas (s : State) (d : StepDir) : List (Nat × Nat) :=
  let n := deadline s + 1
  let p := bitmapCrates d
  (d.records.take n).map (fun a => (a / 4096, 1 + p + d.inputs + d.digests + d.shard))
    ++ (d.mirror.take (if s.stepSt.mirror2 then 2 else 1)).map (fun a => (a / 4096, 1 + d.shard))
    ++ (d.pending.take (if s.stepSt.mirror2 then 2 else 1)).map (fun a => (a / 4096, n * pendCrates d))
    ++ (if d.ckpt = 0 then [] else [(d.ckpt / 4096, 2 * (1 + p + d.shard))])

/-- No range of a list meets another one. -/
def disjointRanges : List (Nat × Nat) → Bool
  | [] => true
  | x :: t => t.all (fun y => !overlaps x.1 x.2 y.1 y.2) && disjointRanges t

/-- The directory obeys R433, and unused offsets are zero (14/R434). -/
def dirWf (s : State) (b : List Byte) : Bool :=
  let d := dirOf b
  let n := leAt b 6 2
  let m2 := s.stepSt.mirror2
  leAt b 0 4 == 0x44535A4D && leAt b 4 2 == 1 && decide (1 ≤ n) && decide (n ≤ 240)
    && decide (1 ≤ d.shard) && decide (d.shard ≤ 2 ^ 24) && decide (d.inputs ≤ 65536)
    && decide (1 ≤ d.digests) && decide (d.digests ≤ 64) && leAt b 0x14 12 == 0 && leAt b 0x68 152 == 0
    && decide ((d.extents.map (fun e => e.2.1)).foldl (· + ·) 0 = d.shard)
    && (List.range n).all (fun e => leAt b (0x100 + 16 * e) 8 % 4096 == 0 && decide (1 ≤ leAt b (0x108 + 16 * e) 4)
        && decide (leAt b (0x10C + 16 * e) 4 < 2))
    && (d.records ++ d.mirror ++ d.pending ++ [d.ckpt]).all (fun a => a % 4096 == 0)
    && (d.records.drop (deadline s + 1)).all (· == 0)
    && (m2 || (d.mirror.getD 1 0 == 0 && d.pending.getD 1 0 == 0))
    && leAt b (0x100 + 16 * n) (4096 - (0x100 + 16 * n)) == 0

/-- The refusal of a directory (14/R435): the memory codes first found, then overlaps. -/
def dirRefusal (s : State) (part : Nat) (b : List Byte) : Option Nat :=
  let d := dirOf b
  if !dirWf s b then some 0x03
  else match d.extents.findSome? (fun e => refuseRange s .image part e.1 e.2.1) with
  | some r => some r
  | none => match (dirAreas s d).findSome? (fun a => refuseRange s .all part a.1 a.2) with
    | some r => some r
    | none =>
      let areas := dirAreas s d
      if !disjointRanges areas || d.extents.any (fun e => areas.any (fun a => overlaps e.1 e.2.1 a.1 a.2)) then some 0x03
      else none

/-- This module's logical stall. -/
def ownStall (s : State) : Nat := chipStall (ownLogical s)

/-- A write of HUB_STEP_DIR's BASE: taken only while ENABLE is 0 (14/R459). -/
def writeDirBase (s : State) (v : W64) : State :=
  modStep s fun x =>
    if rbit x.dirReg 63 then
      (if rbits v 48 12 = rbits x.dirReg 48 12 then x else { x with dirReason := 0x1D })
    else { x with dirReg := rset 0#64 48 12 (rbits v 48 12) }

/-- STEP_DIR_ENABLE. -/
def stepDirEnable (s : State) (v : W64) : State :=
  if !rbit v 63 then s
  else if dirOn s then writeDirBase s v
  else
    let s := writeDirBase s v
    let fail (s : State) (r : Nat) : State := modStep s (fun x => { x with dirReason := r })
    match trainingCtx s with
    | none => fail s 0x24
    | some c =>
      let part := (getCtx s c).part
      let base := rbits v 48 12
      match refuse s .image part (base * 4096) with
      | some r => fail s r
      | none =>
        let (s, b, bad) := readVerify s (c, (getCtx s c).gen) base
        match bad.or (dirRefusal s part b) with
        | some r => fail s r
        | none =>
          let st := ownStall s
          modStep s fun x =>
            { x with dirReg := rset x.dirReg 63 63 1, dirReason := 0, dir := dirOf b, syncOwed := true, act := 0, recs := []
                     mirrors := [{ valid := true, client := Nat.xor st 1 },
                       if x.mirror2 then { valid := true, client := Nat.xor st 2 } else {}] }

def execStepDirEnable (v : W64) (s : State) : Res := fromHost s (stepDirEnable s v)

/-- STEP_DIR_DISABLE: refused while a record is kept (14/R435). -/
def stepDirDisable (s : State) (v : W64) : State :=
  if rbit v 63 then s
  else if !dirOn s then writeDirBase s v
  else if s.stepSt.recs ≠ [] then modStep s (fun x => { x with dirReason := 0x1D })
  else
    let s := modMem s (fun m => { m with cow := none })
    writeDirBase (modStep s fun x => { x with dirReg := rset x.dirReg 63 63 0, dirReason := 0, act := 0, mirrors := [{}, {}] }) v

def execStepDirDisable (v : W64) (s : State) : Res := fromHost s (stepDirDisable s v)

/-! ### The shard (14/R433, R438, R439, R445, R447) -/

/-- The crate of a shard ordinal, and whether its extent holds moments. -/
def shardAt : List (Nat × Nat × Bool) → Nat → Nat × Bool
  | [], _ => (0, false)
  | (f, n, m) :: t, r => if r < n then (f + r, m) else shardAt t (r - n)
def shardCrate (s : State) (r : Nat) : Nat := (shardAt s.stepSt.dir.extents r).1
def isMoments (s : State) (r : Nat) : Bool := (shardAt s.stepSt.dir.extents r).2

/-- Bit `r` of a record's bitmap. -/
def recBit (s : State) (slot r : Nat) : Bool := bitmapBit s.mem (recBitmap s slot) r
/-- The ordinals a record has preserved. -/
def recOrds (s : State) (slot : Nat) : List Nat := (List.range s.stepSt.dir.shard).filter (recBit s slot)
/-- A crate with its tag. -/
def crateAt (s : State) (c : Nat) : List Byte × W128 := (crateBytes s.mem c, crateTag s.mem c)

/-- The value ordinal `r` had before the first of the given records in ascending order of step: the preserved copy of
the first that has one, else the shard crate (14/R439, R447). -/
def valueBefore (s : State) (r : Nat) : List StepRec → List Byte × W128
  | [] => crateAt s (shardCrate s r)
  | x :: t => if x.state != 5 && recBit s x.slot r then crateAt s (recSaved s x.slot + r) else valueBefore s r t

/-- Insert by step. -/
def insRec : StepRec → List StepRec → List StepRec
  | r, [] => [r]
  | r, x :: t => if r.step ≤ x.step then r :: x :: t else x :: insRec r t
/-- Kept records in ascending order of step. -/
def recsUp (s : State) : List StepRec := s.stepSt.recs.foldr insRec []
/-- Those of steps after `n`. -/
def recsAfter (s : State) (n : Nat) : List StepRec := (recsUp s).filter (fun r => decide (n < r.step))

/-- The digest of a state of the shard (14/R445): without the moments when they are narrow. -/
def postDigest (s : State) (val : Nat → List Byte × W128) : W64 :=
  Crc.crc64 (((List.range s.stepSt.dir.shard).filter (fun r => !(s.stepSt.narrow && isMoments s r))).flatMap (fun r => (val r).1))

/-! ### Deltas (14/R445, R446, R450) -/

/-- Exclusive-or of payloads. -/
def xorBytes (a b : List Byte) : List Byte := List.zipWith (· ^^^ ·) a b

/-- A bit mask of a list of flags, first least significant. -/
def maskOf : List Bool → Nat
  | [] => 0
  | b :: t => Word.b2n b + 2 * maskOf t

/-- Zero-mask coding (14/R446). -/
def zeroMask (z : List Byte) : List Byte :=
  let ws := (List.range 64).map (fun w => (z.drop (64 * w)).take 64)
  Word.toLe 8 (maskOf (ws.map (fun w => w.any (· != 0#8)))) ++ (ws.filter (fun w => w.any (· != 0#8))).flatMap (fun w =>
    Word.toLe 8 (maskOf (w.map (· != 0#8))) ++ w.filter (· != 0#8))

/-- One word decoded from its mask. -/
def maskWord (m : Nat) : Nat → List Byte → List Byte × List Byte
  | 0, b => ([], b)
  | n + 1, b =>
    let i := 64 - (n + 1)
    if Word.bitOf m i then
      let (w, rest) := maskWord m n (b.drop 1)
      (b.getD 0 0#8 :: w, rest)
    else
      let (w, rest) := maskWord m n b
      (0#8 :: w, rest)

/-- The decoding of R446. -/
def unmask (body : List Byte) : List Byte :=
  let wm := leAt body 0 8
  ((List.range 64).foldl (fun (acc : List Byte × List Byte) w =>
    if Word.bitOf wm w then
      let (x, rest) := maskWord (leAt acc.2 0 8) 64 (acc.2.drop 8)
      (acc.1 ++ x, rest)
    else (acc.1 ++ List.replicate 64 0#8, acc.2)) ([], body.drop 8)).1

/-- The narrow value of a crate of moments (14/R450): E4M3 by rule 0, nearest even, outer scale 1.0. -/
def narrowBody (p : List Byte) : List Byte :=
  let ls := Pack.packLines Fmt.e4m3 true false { seed := 0#64, step := 0#64, layer := 0, tile := 0 } Num.one32 0
    ((List.range 8).map (fun l => Fmt.lineF32 Fmt.fp32 p l))
  ls.flatMap (Pack.lineBytes Fmt.e4m3) ++ ls.flatMap (fun l => l.blocks.map (fun b => BitVec.ofNat 8 b.scale))

/-- One decoded E4M3 element (02/R47). -/
def e4m3Value (code scale : Nat) : F32 :=
  match Fmt.elem Fmt.e4m3 code with
  | none => Num.nan32
  | some v => Num.round32 (Word.bitOf code 7) v.natAbs (Fmt.unitExp Fmt.e4m3 + scale - 127)

/-- The crate a narrow body decodes to. -/
def narrowCrate (b : List Byte) : List Byte :=
  (List.range 1024).flatMap fun i => Word.toLe 4 (e4m3Value (b.getD i 0#8).toNat (b.getD (1024 + i / 16) 0#8).toNat).toNat

/-- One entry (14/R445). -/
def deltaEntry (s : State) (sync : Bool) (r : Nat) (v : List Byte × W128) (w : List Byte) : List Byte :=
  let narrow := s.stepSt.narrow && isMoments s r
  let z := xorBytes v.1 w
  let zm := zeroMask z
  let (form, body) : Nat × List Byte :=
    if narrow then (2, narrowBody v.1) else if sync then (3, v.1) else if zm.length < 4096 then (1, zm) else (0, z)
  Word.toLe 4 r ++ Word.toLe 2 form ++ Word.toLe 2 body.length ++ body ++ Tag.bytes v.2

/-- Zero padding to whole crates. -/
def padCrates (b : List Byte) : List Byte := b ++ List.replicate ((4096 - b.length % 4096) % 4096) 0#8
/-- The crates of padded bytes. -/
def cutCrates : Nat → List Byte → List (List Byte)
  | 0, _ => []
  | n + 1, b => b.take 4096 :: cutCrates n (b.drop 4096)
def cratesOf (b : List Byte) : List (List Byte) := cutCrates (b.length / 4096) b

/-- The header crate of a stream; its fields lie as log entry 44 says. -/
def streamHeader (step entries len : Nat) (post check : W64) (tally : Nat) : List Byte :=
  Word.toLe 4 0x4C445A4D ++ Word.toLe 4 entries ++ Word.toLe 8 step ++ Word.toLe 8 len ++ Word.toLe 8 post.toNat
    ++ Word.toLe 8 check.toNat ++ Word.toLe 2 tally ++ List.replicate 4054 0#8

/-- A stream's header and body crates. -/
def buildStream (s : State) (step : Nat) (sync : Bool) (ords : List Nat) (v : Nat → List Byte × W128) (w : Nat → List Byte) :
    List Byte × List (List Byte) :=
  let raw := ords.flatMap (fun r => deltaEntry s sync r (v r) (w r))
  let body := padCrates raw
  (streamHeader step ords.length raw.length (postDigest s v) (Crc.crc64 body) s.stepSt.ackTally, cratesOf body)

/-! ### Sending to mirror holders (14/R443, R445, R447) -/

/-- The physical chip of a logical stall of this module's square (12/R395). -/
def stallChip (s : State) (st : Nat) : Nat := physOf s (ownLogical s / 32 * 32 + st)
/-- The mirror holders: index and chip (14/R433, R444). -/
def holders (s : State) : List (Nat × Nat) :=
  (0, stallChip s (Nat.xor (ownStall s) 1)) :: (if s.stepSt.mirror2 then [(1, stallChip s (Nat.xor (ownStall s) 2))] else [])
/-- First crate of the pending slot of a step at holder `k`: its directory has the layout of ours. -/
def pendAt (s : State) (k step : Nat) : Nat :=
  s.stepSt.dir.pending.getD k 0 / 4096 + slotOfStep s step * pendCrates s.stepSt.dir

/-- A tag of firmware's own for a crate that leaves (08/R241). -/
def fwTag (s : State) (p : List Byte) : State × W128 :=
  (modMem s (fun m => { m with fwSeq := (m.fwSeq + 1) % 2 ^ 30 }), Tag.computed p 6 0 0 (Tag.fwLineage s.mem.fwSeq))

/-- Send crates to a chip as PUT frames on channel 3: (far crate, payload, tag); the last carries LAST. -/
def sendPuts (s : State) (cg : CtxGen) (chip : Nat) (owner : Owner) (xs : List (Nat × List Byte × W128)) : State :=
  let (s, id) := newOp s { dir := 0, chip, ch := 3, ctx := cg.1, gen := cg.2, owner, left := xs.length, all := true, step := s.stepSt.cur }
  (xs.zipIdx.foldl (fun (acc : State × Bool) e =>
    if acc.2 then acc
    else
      let f : Frame := { typ := 0x01, last := e.2 + 1 == xs.length, dst := chip, ch := 3, opid := id, addr := e.1.1 * 4096
                         index := e.2, data := crateData e.1.2.2 e.1.2.1 }
      match sendCtx acc.1 cg.1 cg.2 (some id) f with
      | (s, none) => (s, false)
      | (s, some r) => (failOp s id r 0 0x01 e.1.1, true)) (s, false)).1

/-- Tag payloads as firmware does. -/
def tagAll : List (Nat × List Byte) → State → State × List (Nat × List Byte × W128)
  | [], s => (s, [])
  | (c, p) :: t, s =>
    let (s, g) := fwTag s p
    let (s, xs) := tagAll t s
    (s, (c, p, g) :: xs)

/-- Send a stream: the body first, the header last with LAST (14/R447). What: 0 a delta, 2 a synchronisation. -/
def sendStream (s : State) (k chip step what : Nat) (x : List Byte × List (List Byte)) : State :=
  let base := pendAt s k step + 1 + s.stepSt.dir.inputs
  let (s, ys) := tagAll ((x.2.zipIdx.map (fun e => (base + 1 + e.2, e.1))) ++ [(base, x.1)]) s
  sendPuts s (stepCg s) chip (.stream step what) ys

/-- The delta of a kept step (14/R445). -/
def deltaOf (s : State) (r : StepRec) : List Byte × List (List Byte) :=
  buildStream s r.step false (recOrds s r.slot) (fun o => valueBefore s o (recsAfter s r.step))
    (fun o => crateBytes s.mem (recSaved s r.slot + o))

/-- Send a step's delta to every holder. -/
def sendDelta (s : State) (r : StepRec) : State :=
  let x := deltaOf s r
  (holders s).foldl (fun s h => sendStream s h.1 h.2 r.step 0 x) s

/-- The sealed image: the state before the oldest kept step (14/R447). -/
def sealedValue (s : State) (r : Nat) : List Byte × W128 := valueBefore s r (recsUp s)

/-- A synchronisation to every holder, naming the step before the oldest kept record (14/R447). -/
def sendSync (s : State) : State :=
  match recsUp s with
  | [] => s
  | o :: _ =>
    let x := buildStream s (o.step - 1) true (List.range s.stepSt.dir.shard) (sealedValue s) (fun _ => [])
    (holders s).foldl (fun s h => sendStream s h.1 h.2 (o.step - 1) 2 x) s

/-- The input area and header of a record to every holder (14/R443). -/
def sendInputs (s : State) (r : StepRec) : State :=
  let src := recordHeader s r.slot :: (List.range s.stepSt.dir.inputs).map (fun i => recInputs s r.slot + i)
  (holders s).foldl (fun s h =>
    sendPuts s (stepCg s) h.2 (.stream r.step 1) (src.zipIdx.map (fun e => (pendAt s h.1 r.step + e.2, crateAt s e.1)))) s

/-! ### At the mirror holder (14/R444, R447) -/

/-- One decoded entry: ordinal, form, body, tag. -/
structure DeltaEntry where
  ord : Nat
  form : Nat
  body : List Byte
  tag : W128
deriving DecidableEq, Repr

/-- The entries of a stream. -/
def parseEntries : Nat → List Byte → List DeltaEntry
  | 0, _ => []
  | n + 1, b =>
    let len := leAt b 6 2
    { ord := leAt b 0 4, form := leAt b 4 2, body := (b.drop 8).take len, tag := Tag.ofBytes ((b.drop (8 + len)).take 16) }
      :: parseEntries n (b.drop (24 + len))

/-- The bytes of crates in a row. -/
def bytesAt (s : State) (first n : Nat) : List Byte := (List.range n).flatMap (fun i => crateBytes s.mem (first + i))

/-- The stream whose header lies at a crate: header bytes, body bytes, entries. -/
def streamAt (s : State) (hdr : Nat) : List Byte × List Byte × List DeltaEntry :=
  let h := crateBytes s.mem hdr
  let n := (leAt h 0x10 8 + 4095) / 4096
  let body := bytesAt s (hdr + 1) (min n (deltaMax s.stepSt.dir - 1))
  (h, body, parseEntries (min (leAt h 4 4) s.stepSt.dir.shard) body)

/-- The stream is whole: signature, check, and ordinals within the shard. DESIGN CHOICE: log entry 44. -/
def streamOk (s : State) (hdr : Nat) : Bool :=
  let (h, body, es) := streamAt s hdr
  leAt h 0 4 == 0x4C445A4D && decide (leAt h 4 4 ≤ s.stepSt.dir.shard) && leAt h 0x20 8 == (Crc.crc64 body).toNat
    && es.all (fun e => decide (e.ord < s.stepSt.dir.shard) && decide (e.form < 4))

/-- The value an entry gives over an old one. -/
def applyEntry (old : List Byte) (e : DeltaEntry) : List Byte :=
  if e.form = 0 then xorBytes old e.body else if e.form = 1 then xorBytes old (unmask e.body)
  else if e.form = 2 then narrowCrate e.body else e.body

/-- Apply entries to crates given by their ordinal; a narrow value takes a computed tag (14/R447, R450). -/
def applyEntries (s : State) (at_ : Nat → Nat) (es : List DeltaEntry) : State :=
  es.foldl (fun s e =>
    let c := at_ e.ord
    let v := applyEntry (crateBytes s.mem c) e
    setMem s (rawCrate s.mem c v (if e.form = 2 then Tag.computed v 5 0 0 (Tag.fwLineage s.mem.fwSeq) else e.tag))) s

/-- The mirror crate of an ordinal for client `k`. -/
def mirrorCrate (s : State) (k r : Nat) : Nat := s.stepSt.dir.mirror.getD k 0 / 4096 + 1 + r
def modMirror (s : State) (k : Nat) (f : MirrorIn → MirrorIn) : State :=
  modStep s (fun x => { x with mirrors := lset x.mirrors k (f (x.mirrors.getD k {})) })

/-- The mirror's header crate (14/R444), with the digest it was last checked by (DESIGN CHOICE, log entry 44). -/
def mirrorHeader (s : State) (k : Nat) (step post : Nat) : State :=
  let chip := ownLogical s / 32 * 32 + (s.stepSt.mirrors.getD k {}).client
  modMem s (fun m => fwCrate m (s.stepSt.dir.mirror.getD k 0 / 4096)
    (Word.toLe 4 0x524D5A4D ++ Word.toLe 2 1 ++ Word.toLe 2 0 ++ Word.toLe 8 chip ++ Word.toLe 8 step ++ Word.toLe 8 post
      ++ List.replicate 4064 0#8))

/-- Apply a validated stream to the mirror of client `k` and check POST_DIGEST: the mirror is current at the step, or
lost with event 0x86 (14/R447). -/
def applyToMirror (s : State) (k step hdr : Nat) : State :=
  let (h, _, es) := streamAt s hdr
  let s := applyEntries s (mirrorCrate s k) es
  let post := leAt h 0x18 8
  if postDigest s (fun r => crateAt s (mirrorCrate s k r)) = BitVec.ofNat 64 post then
    modMirror (mirrorHeader s k step post) k (fun m => { m with state := 2, mstep := BitVec.ofNat 64 step })
  else
    modMirror (raiseStep s 0x86 (stepCg s) (BitVec.ofNat 64 step) (s.stepSt.mirrors.getD k {}).client) k (fun m => { m with state := 3 })

/-- The pending stream header that a crate is: client and pending slot. -/
def pendingOf (s : State) (crate : Nat) : Option (Nat × Nat) :=
  let d := s.stepSt.dir
  ((List.range 2).flatMap (fun k => (List.range (deadline s + 1)).map (fun i => (k, i)))).find? fun e =>
    (s.stepSt.mirrors.getD e.1 {}).valid && crate == d.pending.getD e.1 0 / 4096 + e.2 * pendCrates d + 1 + d.inputs

/-- A PUT with LAST has written a stream's header (14/R447): the stream is validated and acknowledged by a TALLY_ADD
to the sender's tally, or reported with 0x86; a synchronisation is applied at once; a header without signature
discards what was pending. -/
def streamArrived (s : State) (f : Frame) : State :=
  if !(dirOn s && f.last && f.ch == 3) then s
  else match pendingOf s (f.addr / 4096) with
  | none => s
  | some (k, i) =>
    let hdr := f.addr / 4096
    let drop (s : State) : State := modMirror s k (fun m => { m with pend := m.pend.filter (fun p => p.2 != i) })
    let (h, _, es) := streamAt s hdr
    if leAt h 0 4 = 0 then drop s
    else if !streamOk s hdr then sendError (drop s) f 0x86 0
    else
      let step := leAt h 8 8
      let s := if es.any (fun e => e.form == 3) then applyToMirror (drop s) k step hdr
        else modMirror (drop s) k (fun m => { m with pend := m.pend ++ [(step, i)], state := if m.state = 0 then 1 else m.state })
      let cg := stepCg s
      (sendCtx s cg.1 cg.2 none { typ := 0x05, dst := f.src, ch := 3, last := true, opid := f.opid, addr := leAt h 0x28 2, aux := 1 }).1

/-- The holder's seal of a step applies the pending delta of the step to each mirror. -/
def applyPending (s : State) (step : Nat) : State :=
  [0, 1].foldl (fun s k =>
    match ((s.stepSt.mirrors.getD k {}).pend.find? (fun p => p.1 == step)) with
    | none => s
    | some p =>
      let hdr := s.stepSt.dir.pending.getD k 0 / 4096 + p.2 * pendCrates s.stepSt.dir + 1 + s.stepSt.dir.inputs
      let s := modMirror s k (fun m => { m with pend := m.pend.filter (fun q => q.1 != step) })
      applyToMirror s k step hdr) s

/-! ### What comes back to the sender (14/R447) -/

/-- A TALLY_ADD that echoes a stream's identifier acknowledges it: a delta is acknowledged by its holder. -/
def streamAcked (s : State) (f : Frame) : State :=
  match getOp s f.opid with
  | some o => match o.owner with
    | .stream step 0 =>
      if o.chip ≠ f.src then s
      else
        let k := if (holders s).any (fun h => h.1 == 1 && h.2 == f.src) then 1 else 0
        modRec (opDone s f.opid) step (fun r => { r with acked := ninsert r.acked k })
    | _ => s
  | none => s

/-- An ERROR frame of a stream: a failed check has the whole stream sent again once, then charges the step (14/R447). -/
def streamError (s : State) (id : Nat) (o : Op) (step what reason : Nat) : State :=
  if what = 0 ∧ reason = 0x86 then
    let s := dropOp s id
    match s.stepSt.recs.find? (fun r => r.step == step), (holders s).find? (fun h => h.2 == o.chip) with
    | some r, some h =>
      if r.resent.contains h.1 then chargeStep s step 0x86
      else sendStream (modRec s step (fun r => { r with resent := ninsert r.resent h.1 })) h.1 h.2 step 0 (deltaOf s r)
    | _, _ => s
  else failOp s id reason 0 0x01 0

/-! ### STEP_BEGIN (14/R441, R443) -/

/-- A step command ends other than in success: its reason is kept (14/R460). -/
def stepEnd (s : State) (slot cls reason : Nat) : State :=
  endCmd (modStep s (fun x => { x with reason })) slot { cls, reason }

/-- The command comes from a submission queue bound to the training context (14/R443). -/
def fromTraining (s : State) (c : Cmd) : Bool := trainingCtx s == some (Pkt.ctx c.packet)

/-- Set the STATE of a record, in its header too. -/
def recState (s : State) (r : StepRec) (state : Nat) : State :=
  modRec (setMem s (patchFw s.mem (recordHeader s r.slot) 6 [BitVec.ofNat 8 state])) r.step (fun x => { x with state })

/-- Marked transfers and fabric transfers issued in a step that are still open (14/R441). -/
def stepTransfers (s : State) (step : Nat) : Bool :=
  let cg := stepCg s
  s.cores.any (fun c => c.2.inflight.any (fun t => t.ctx == cg.1 && t.gen == cg.2 && t.step == step && !t.failed))
    || s.fab.ops.any (fun e => match e.2 with
      | some o => o.ctx == cg.1 && o.gen == cg.2 && o.step == step && (match o.owner with | .porter _ _ => true | _ => false)
      | none => false)

/-- The open step ends: END_TIME, STATE ended, and its crates are no longer preserved. -/
def endOpen (s : State) : State :=
  match openRec s with
  | none => s
  | some r =>
    let s := setMem s (patchFw s.mem (recordHeader s r.slot) 0x20 (Word.toLe 8 s.time.toNat))
    let s := recState (modRec s r.step (fun x => { x with endT := s.time })) r 2
    modMem s (fun m => { m with cow := none })

/-- Seal a step that may seal: its record is released, its changes count for the next checkpoint, and pending deltas of
the step are applied. DEDUCED: log entry 43. -/
def sealStep (s : State) (r : StepRec) : State :=
  let changed := if r.state = 5 then [] else recOrds s r.slot
  let s := setMem s (patchFw s.mem (recordHeader s r.slot) 6 [3#8])
  let s := modStep s (fun x => { x with recs := x.recs.filter (fun y => y.step != r.step), sealedStep := r.step
                                        ckpt := { x.ckpt with changed := changed.foldl ninsert x.ckpt.changed } })
  applyPending s r.step

/-- What the seal of a step answers (14/R441): it seals, it must wait, or its reason. -/
inductive SealAns where
  | sealed
  | waits
  | fails (reason : Nat)
deriving DecidableEq, Repr

def sealAnswer (s : State) (r : StepRec) : SealAns :=
  if (match s.stepSt.weigh with | some w => w.step == r.step | none => false) then .waits
  else if r.fault ≠ 0 ∨ r.state = 4 then .fails 0x82
  else if stepTransfers s r.step then .waits
  else if !((holders s).all (fun h => r.acked.contains h.1)) then .fails 0x86
  else .sealed

/-- Open step `n` (14/R443 steps 3 to 5): header, cleared bitmap, INPUT_DIGEST. -/
def openStep (s : State) (n : Nat) : State :=
  let slot := slotOfStep s n
  let d := s.stepSt.dir
  let seed := (getCtx s (stepCg s).1).seed
  let digest := Crc.crc64 (bytesAt s (recInputs s slot) d.inputs)
  let hdr := Word.toLe 4 0x52535A4D ++ Word.toLe 2 1 ++ [1#8, 0#8] ++ Word.toLe 8 n ++ Word.toLe 8 seed.toNat
    ++ Word.toLe 8 s.time.toNat ++ Word.toLe 8 0 ++ Word.toLe 8 digest.toNat ++ List.replicate 4048 0#8
  let s := modMem s fun m => fwCrate ((List.range (bitmapCrates d)).foldl (fun m i => fwCrate m (recBitmap s slot + i) zeroPayload) m)
    (recordHeader s slot) hdr
  let s := modMem s fun m => { m with cow := some { extents := d.extents.map (fun e => (e.1, e.2.1)), bitmap := recBitmap s slot
                                                    saved := recSaved s slot } }
  modStep s fun x =>
    { x with cur := n, act := 1
             recs := x.recs.filter (fun r => r.slot != slot) ++ [{ slot, step := n, seed, beginT := s.time, inputDigest := digest }] }

/-- The step boundary: due tests and repairs of the training partition's cores that no launch binds (08/R254, R255). -/
def stepBoundary (s : State) : State :=
  let c := getCtx s (stepCg s).1
  ((getPart s c.part).dies.flatMap (fun d => (List.range 128).map (fun i => d * 128 + i))).foldl
    (fun s core => if (getCore s core).launch.isNone then coreBoundary (c.budget * 1000) s core else s) s

/-- STEP_BEGIN. DEDUCED: log entry 43. -/
def stepBegin (s : State) (slot : Nat) : State :=
  match begun s slot 0x0501 with
  | none => s
  | some c =>
    let n := Pkt.p0 c.packet
    if !fromTraining s c then stepEnd s slot 2 0x0A
    else if s.stepSt.recs ≠ [] ∧ n ≠ s.stepSt.cur + 1 then stepEnd s slot 2 0x80
    else if !dirOn s then stepEnd s slot 2 0x81
    else if s.stepSt.replay.isSome || s.stepSt.takeover.isSome then stepEnd s slot 2 0x83
    else
      let old := s.stepSt.recs.find? (fun r => r.step + deadline s + 1 == n)
      let ans : SealAns := match old with | some r => sealAnswer s r | none => .sealed
      if ans = .waits then s
      else
        let prev := openRec s
        let s := if (match prev with | some r => r.step != n | none => false) then endOpen s else s
        match ans, old with
        | .fails e, some r =>
          let s := if e = 0x82 then recState s r 4 else s
          stepEnd s slot 3 e
        | _, _ =>
          let s := match old with | some r => sealStep s r | none => s
          let s := modStep s (fun x => { x with prevDur := match prev with
            | some r => (s.time - r.beginT).toNat
            | none => x.prevDur })
          let s := openStep s n
          let s := match openRec s with | some r => sendInputs s r | none => s
          let s := match s.stepSt.recs.find? (fun r => r.step + 1 == n && r.state == 2) with
            | some r => sendDelta s r
            | none => s
          let s := if s.stepSt.syncOwed then modStep (sendSync s) (fun x => { x with syncOwed := false }) else s
          endCmd (stepBoundary s) slot {}

def execStepBegin (slot : Nat) (s : State) : Res := .next (stepBegin s slot)

/-! ### STEP_CONFIG (14/R441, R444) -/

def stepConfig (s : State) (slot : Nat) : State :=
  match begun s slot 0x0507 with
  | none => s
  | some c =>
    let p0 := Pkt.p0 c.packet
    let d := Pkt.p1 c.packet % 256
    if !fromTraining s c then stepEnd s slot 2 0x0A
    else if 3 < d then stepEnd s slot 2 0x03
    else if s.stepSt.recs ≠ [] then stepEnd s slot 2 0x83
    else endCmd (modStep s (fun x => { x with mirror2 := Word.bitOf p0 0, narrow := Word.bitOf p0 1, d := d - 1 })) slot {}

def execStepConfig (slot : Nat) (s : State) : Res := .next (stepConfig s slot)

/-! ### STEP_REPLAY (14/R439, R448) -/

/-- Cancel a context's local marked transfers (10/R341 step 4): crates already written stand. -/
def isLocal (ctx gen : Nat) (t : Transfer) : Bool := t.ctx == ctx && t.gen == gen && Ins.op t.instr != 0x44
def cancelLocals (s : State) (ctx gen : Nat) : State :=
  { s with cores := s.cores.map (fun c => (c.1, { c.2 with inflight := c.2.inflight.filter (fun t => !isLocal ctx gen t) })) }

/-- Sequenced frames of a context that are neither acknowledged nor failed: the peers they go to. -/
def silentPeers (s : State) (ctx gen : Nat) : List Nat :=
  let own (c : Option (Nat × Nat)) : Bool := c == some (ctx, gen)
  ((s.fab.sendq.filter (fun i => own i.ctx)).map (·.frame.dst) ++ (s.fab.bindq.filter (fun i => own i.ctx)).map (·.frame.dst)
    ++ s.fab.sessions.flatMap (fun e => match e.2 with
      | some x => ((sessUnacked x).filter (fun u => own u.ctx)).map (fun _ => x.peer)
      | none => [])).eraseDups

/-- Restore the crates of a record to the shard. DEDUCED: log entry 43. -/
def restoreRec (s : State) (r : StepRec) : State :=
  if r.state = 5 then s
  else (recOrds s r.slot).foldl (fun s o =>
    let (p, t) := crateAt s (recSaved s r.slot + o)
    setMem s (rawCrate s.mem (shardCrate s o) p t)) s

/-- Steps 3 to 6 of a replay of step `u`. DEDUCED: log entry 43. -/
def replayFinish (s : State) (cmd u : Nat) : State :=
  let cg := stepCg s
  let s := modMem s (fun m => { m with cow := none })
  let s := ((recsUp s).filter (fun r => decide (u ≤ r.step))).reverse.foldl restoreRec s
  let later := (recsUp s).filter (fun r => decide (u < r.step))
  let s := later.foldl (fun s r => setMem s (patchFw s.mem (recordHeader s r.slot) 6 [0#8])) s
  let slot := slotOfStep s u
  let d := s.stepSt.dir
  let s := modMem s fun m => (List.range (bitmapCrates d)).foldl (fun m i => fwCrate m (recBitmap s slot + i) zeroPayload) m
  let s := modMem s fun m => patchFw (patchFw m (recordHeader s slot) 6 [1#8, 0#8]) (recordHeader s slot) 0x34 (Word.toLe 4 0)
  let s := modMem s fun m => { m with cow := some { extents := d.extents.map (fun e => (e.1, e.2.1)), bitmap := recBitmap s slot
                                                    saved := recSaved s slot } }
  let s := modStep s fun x =>
    { x with cur := u - 1, replay := none, act := 1
             recs := (x.recs.filter (fun r => decide (r.step ≤ u))).map (fun r =>
               if r.step = u then { r with state := 1, fault := 0, acked := [], resent := [] } else r) }
  let s := { s with groups := s.groups.map (fun e => if grpEnabled e.2 && grpCtx e.2 == cg.1 then
      (e.1, { e.2 with count := 0, pendingBell := none, grants := [], bells := [], bellValid := false
                       state := if e.2.state = 3 then 1 else e.2.state }) else e) }
  -- holders discard the pending deltas of steps u and above: an empty stream header stands in their place
  let s := (holders s).foldl (fun s h => (List.range (deadline s + 1)).foldl (fun s i =>
    let (s, ys) := tagAll [(pendAt s h.1 (u + i) + 1 + d.inputs, zeroPayload)] s
    sendPuts s cg h.2 (.stream (u + i) 4) ys) s) s
  endCmd s cmd {}

/-- STEP_REPLAY: begins, quiesces, and finishes once the context's frames are acknowledged. -/
def stepReplay (s : State) (slot : Nat) : State :=
  match begun s slot 0x0502 with
  | none => s
  | some c =>
    let u := Pkt.p0 c.packet
    let cg := stepCg s
    let go (s : State) : State :=
      if s.launches.any (fun l => l.2.ctx == cg.1) || collRunning s cg.1 then s
      else
        let s := modStep (cancelLocals s cg.1 cg.2) (fun x => { x with replay := some (slot, u, true) })
        if silentPeers s cg.1 cg.2 = [] then replayFinish s slot u else s
    match s.stepSt.replay with
    | some (k, _, _) => if k = slot then go s else stepEnd s slot 2 0x83
    | none =>
      if !fromTraining s c then stepEnd s slot 2 0x0A
      else if s.stepSt.takeover.isSome then stepEnd s slot 2 0x83
      else if s.stepSt.cur < u ∨ (u ≤ s.stepSt.sealedStep ∧ !(s.stepSt.recs.any (fun r => r.step == u))) then stepEnd s slot 2 0x80
      else if !(s.stepSt.recs.any (fun r => r.step == u)) then stepEnd s slot 2 0x81
      else go (modStep s (fun x => { x with replay := some (slot, u, false), act := 2 }))

def execStepReplay (slot : Nat) (s : State) : Res := .next (stepReplay s slot)

/-- REPLAY_DRAIN_TIMEOUT: each silent peer is named in an event with 0x60, and the replay goes on (14/R448). -/
def replayDrainTimeout (s : State) : State :=
  match s.stepSt.replay with
  | some (slot, u, true) =>
    let cg := stepCg s
    let s := (silentPeers s cg.1 cg.2).foldl (fun s chip => raiseColl s 0x60 cg 0 0 chip 0) s
    replayFinish s slot u
  | _ => s

def execReplayDrainTimeout (s : State) : Res := .next (replayDrainTimeout s)

/-! ### CROSS_WEIGH (08/R251, R252) -/

/-- The digests the record kept for a layer: those of entries whose TAG names it (14/R437). -/
def layerDigests (s : State) (r : StepRec) (layer : Nat) : List Nat :=
  (List.range r.digests).filterMap fun i =>
    let e := ((crateBytes s.mem (recDigests s r.slot + i / 128)).drop (i % 128 * 32)).take 32
    if leAt e 4 4 / 2 ^ 16 = layer then some (leAt e 0x10 8) else none

/-- CROSS_WEIGH: it begins and holds the seal of its step. -/
def crossWeigh (s : State) (slot : Nat) : State :=
  match begun s slot 0x0503 with
  | none => s
  | some c =>
    let n := Pkt.p0 c.packet
    let subject := Pkt.p1 c.packet % 32
    let layer := Pkt.p1 c.packet / 2 ^ 16 % 2 ^ 16
    let mine := subject == ownStall s
    let rec? := s.stepSt.recs.find? (fun r => r.step == n)
    if !fromTraining s c then stepEnd s slot 2 0x0A
    else if s.stepSt.weigh.isSome then s
    else if !mine && Nat.xor subject 1 != ownStall s then stepEnd s slot 2 0x03
    else if mine && rec?.isNone then stepEnd s slot 2 0xFD
    else if mine && (match rec? with | some r => r.state == 5 | none => false) then stepEnd s slot 2 0x81
    else modStep s (fun x => { x with weigh := some { cmd := slot, step := n, layer, subject } })

def execCrossWeigh (slot : Nat) (s : State) : Res := .next (crossWeigh s slot)

/-- The row of R252 for the three digest sets. -/
def weighRow (o sb b : List Nat) : Nat :=
  if sb = b then (if o = sb then 1 else 2) else if sb = o then 3 else if o = b then 4 else 5

/-- A field test of every core of this module's training partition at the next boundary (08/R252). -/
def testOwnCores (s : State) (watch : Bool) : State :=
  let c := getCtx s (stepCg s).1
  ((getPart s c.part).dies.flatMap (fun d => (List.range 128).map (fun i => d * 128 + i))).foldl (fun s core =>
    if coreAvail s core then
      let u := coreUnit s core
      let s := addDue s u 0x01 1
      if watch && (getUnit s u).standing == 0 then setStanding s u 1 (getUnit s u).fenced else s
    else s) s

/-- CROSS_WEIGH_OUTCOME: `o` the original digests where this module is the buddy, `sb` and `b` those of the replays. -/
def crossWeighOutcome (s : State) (slot : Nat) (o sb b : List Nat) : State :=
  match s.stepSt.weigh with
  | none => s
  | some w =>
    if w.cmd ≠ slot then s
    else
      let mine := w.subject == ownStall s
      let o := if mine then (match s.stepSt.recs.find? (fun r => r.step == w.step) with
        | some r => layerDigests s r w.layer
        | none => o) else o
      let row := weighRow o sb b
      let u := unitW 12 8 0 0
      let s := modStep s (fun x => { x with weigh := none })
      let s := logRec s 0x21 (if row = 1 then 0 else 0xE5) u (ldata (Word.toLe 8 w.step ++ Word.toLe 2 w.layer ++ Word.toLe 1 row))
      let s := if row = 1 then s else chargeStep (raiseUnit s 0xE5 (stepCg s) u 0) w.step 0xE5
      let s := if row = 1 then s
        else if mine then (if row = 2 then testOwnCores s false else if row = 4 ∨ row = 5 then testOwnCores s true else s)
        else (if row = 3 then testOwnCores s false else if row = 5 then testOwnCores s true else s)
      endCmd s slot { result := row }

def execCrossWeighOutcome (slot : Nat) (o sb b : List Nat) (s : State) : Res := .next (crossWeighOutcome s slot o sb b)

/-! ### Checkpoints (14/R454, R455, R462) -/

def modCkpt (s : State) (f : Ckpt → Ckpt) : State := modStep s (fun x => { x with ckpt := f x.ckpt })

/-- A bitmap of ordinals as crates. -/
def ordBitmap (n : Nat) (ords : List Nat) : List (List Byte) :=
  (List.range ((n + 32767) / 32768)).map fun k => (List.range 4096).map fun i =>
    BitVec.ofNat 8 (maskOf ((List.range 8).map (fun b => ords.contains (k * 32768 + i * 8 + b))))

/-- Stage generation `g` at the buddy: bitmap and values first, the header last (14/R454). -/
def stageCkpt (s : State) (g : Nat) (ords : List Nat) : State :=
  let d := s.stepSt.dir
  let p := bitmapCrates d
  let base := d.ckpt / 4096 + g % 2 * (1 + p + d.shard)
  let hdr := Word.toLe 4 0x4B435A4D ++ Word.toLe 4 g ++ Word.toLe 8 s.stepSt.sealedStep ++ Word.toLe 4 ords.length ++ Word.toLe 4 0
    ++ Word.toLe 8 (Crc.crc64 ((List.range d.shard).flatMap (fun r => (sealedValue s r).1))).toNat ++ List.replicate 4064 0#8
  let vals := ords.map (fun r => (base + 1 + p + r, sealedValue s r))
  let (s, bm) := tagAll ((ordBitmap d.shard ords).zipIdx.map (fun e => (base + 1 + e.2, e.1))) s
  let (s, h) := tagAll [(base, hdr)] s
  sendPuts s (stepCg s) (stallChip s (Nat.xor (ownStall s) 1)) (.stream g 3) (bm ++ vals ++ h)

/-- The checkpoint's stream is still in flight. -/
def ckptOpen (s : State) (g : Nat) : Bool :=
  s.fab.ops.any (fun e => match e.2 with | some o => o.owner == .stream g 3 | none => false)

/-- CHECKPOINT with a trigger other than commit: staged, and complete once the buddy has acknowledged the slot; a
checkpoint that cannot be delivered is aborted with class 0x04 (14/R454-R456). -/
def checkpoint (s : State) (slot : Nat) : State :=
  match begun s slot 0x0504 with
  | none => s
  | some c =>
    let t := Pkt.p0 c.packet % 256
    let k := s.stepSt.ckpt
    let g := k.gen + 1
    let fail (s : State) (r : Nat) : State := stepEnd (modCkpt s (fun x => { x with reason := r })) slot 2 r
    if t = 0x80 then s
    else if k.cmd = some slot then
      if ckptOpen s g then s
      else if k.state = 3 then
        let s := modCkpt s (fun x => { x with cmd := none })
        stepEnd (modStep s (fun x => { x with act := Word.b2n (openRec s).isSome })) slot 4 k.reason
      else
        let s := modCkpt s (fun x => { x with cmd := none, state := 2, reason := 0 })
        endCmd (modStep s (fun x => { x with act := Word.b2n (openRec s).isSome })) slot { result := g }
    else if !fromTraining s c then fail s 0x0A
    else if t = 0 ∨ 5 < t then fail s 0x03
    else if !dirOn s || s.stepSt.dir.ckpt == 0 then fail s 0x81
    else if k.state = 1 ∨ k.state = 2 then fail s 0x87
    else
      let ords := if g = 1 then List.range s.stepSt.dir.shard else k.changed
      let s := modCkpt s (fun x => { x with cmd := some slot, state := 1, trigger := t, carried := ords })
      let s := stageCkpt (modStep s (fun x => { x with act := 5 })) g ords
      if ckptOpen s g then s else modCkpt s (fun x => { x with state := 3 })

def execCheckpoint (slot : Nat) (s : State) : Res := .next (checkpoint s slot)

/-- CHECKPOINT_COMMIT: the staged generation becomes the committed one (14/R455). -/
def checkpointCommit (s : State) (slot : Nat) : State :=
  match begun s slot 0x0504 with
  | none => s
  | some c =>
    let k := s.stepSt.ckpt
    if Pkt.p0 c.packet % 256 ≠ 0x80 then s
    else if !fromTraining s c then stepEnd s slot 2 0x0A
    else if k.state ≠ 2 then stepEnd (modCkpt s (fun x => { x with reason := 0x03 })) slot 2 0x03
    else endCmd (modCkpt s (fun x => { x with gen := x.gen + 1, state := 0, trigger := 0x80, reason := 0
                                              changed := x.changed.filter (fun r => !x.carried.contains r), carried := [] }))
      slot { result := k.gen + 1 }

def execCheckpointCommit (slot : Nat) (s : State) : Res := .next (checkpointCommit s slot)

/-! ### TAKEOVER (14/R451-R453) -/

/-- Read crates of a chip by GET_REQ, at most 2,048 at a time, into local crates. -/
def takeReads (cg : CtxGen) (chip : Nat) : Nat → Nat → Nat → Nat → State → State
  | 0, _, _, _, s => s
  | fuel + 1, far, loc, n, s =>
    if n = 0 then s
    else
      let k := min n 2048
      let (s, id) := newOp s { dir := 1, chip, ch := 3, ctx := cg.1, gen := cg.2, owner := .takeover, left := k, all := true, first := loc }
      let s := match sendCtx s cg.1 cg.2 (some id) { typ := 0x03, dst := chip, ch := 3, last := true, opid := id, addr := far * 4096, aux := k - 1 } with
        | (s, none) => s
        | (s, some r) => failOp s id r 0 0x03 far
      takeReads cg chip fuel (far + k) (loc + k) (n - k) s

/-- Ask the source for all that a takeover loads: from a mirror holder its mirror of the stall and the pending slots,
from the vacating stall its shard and the inputs and headers of its records. -/
def askTakeover (s : State) (t : Takeover) : State :=
  let d := s.stepSt.dir
  let cg := stepCg s
  let chip := stallChip s (if t.source = 0 then Nat.xor t.stall 1 else if t.source = 1 then Nat.xor t.stall 2 else t.stall)
  let read (s : State) (far loc n : Nat) : State := takeReads cg chip (n / 2048 + 1) far loc n s
  let s := modStep s (fun x => { x with takeover := some { t with asked := true }, takeFail := none })
  if t.source = 2 then
    let s := d.extents.foldl (fun s e => read s e.1 e.1 e.2.1) s
    (d.records.take (deadline s + 1)).foldl (fun s a =>
      read (read s (a / 4096) (a / 4096) 1) (a / 4096 + 1 + bitmapCrates d) (a / 4096 + 1 + bitmapCrates d) d.inputs) s
  else
    let m := d.mirror.getD t.source 0 / 4096
    let s := read s m (d.mirror.getD 0 0 / 4096) 1
    let s := (d.extents.foldl (fun (acc : State × Nat) e => (read acc.1 (m + 1 + acc.2) e.1 e.2.1, acc.2 + e.2.1)) (s, 0)).1
    read s (d.pending.getD t.source 0 / 4096) (d.pending.getD 0 0 / 4096) ((deadline s + 1) * pendCrates d)

/-- Reads of a takeover are still open. -/
def takeOpen (s : State) : Bool :=
  s.fab.ops.any (fun e => match e.2 with | some o => o.owner == .takeover | none => false)

/-- Insert a pair by its first part. -/
def insPair : Nat × Nat → List (Nat × Nat) → List (Nat × Nat)
  | p, [] => [p]
  | p, x :: t => if p.1 ≤ x.1 then p :: x :: t else x :: insPair p t

/-- The streams of the pending slots that are whole and later than a step: (step, header crate), ascending. DESIGN CHOICE:
log entry 44. -/
def takenStreams (s : State) (after : Nat) : List (Nat × Nat) :=
  let d := s.stepSt.dir
  let hs := (List.range (deadline s + 1)).map (fun i => d.pending.getD 0 0 / 4096 + i * pendCrates d + 1 + d.inputs)
  ((hs.filter (fun h => streamOk s h && decide (after < leAt (crateBytes s.mem h) 8 8))).map
    (fun h => (leAt (crateBytes s.mem h) 8 8, h))).foldr insPair []

/-- Remote records from headers at given crates: (header, first input crate) (14/R451 step 4). -/
def remoteRecs (s : State) (srcs : List (Nat × Nat)) : State :=
  srcs.foldl (fun s e =>
    let h := crateBytes s.mem e.1
    let n := leAt h 8 8
    if leAt h 0 4 ≠ 0x52535A4D ∨ n = 0 then s
    else
      let slot := slotOfStep s n
      let s := (List.range s.stepSt.dir.inputs).foldl (fun s i =>
        let (p, t) := crateAt s (e.2 + i)
        setMem s (rawCrate s.mem (recInputs s slot + i) p t)) s
      let s := modMem s (fun m => fwCrate m (recordHeader s slot) (h.take 6 ++ [5#8, 0#8] ++ h.drop 8))
      modStep s (fun x => { x with recs := x.recs.filter (fun r => r.slot != slot) ++
        [{ slot, step := n, state := 5, seed := BitVec.ofNat 64 (leAt h 0x10 8), acked := [0, 1] }] })) s

/-- All is read: apply, verify, and set the records (14/R451 steps 2 to 4). -/
def takeFinish (s : State) (t : Takeover) : State :=
  let d := s.stepSt.dir
  let n := deadline s + 1
  let done (s : State) (step : Nat) : State :=
    let s := modStep s (fun x => { x with takeover := none, took := true, stateStep := step, cur := step, act := 0, syncOwed := true
                                          mirrors := [{ valid := true, client := Nat.xor t.stall 1 },
                                            if x.mirror2 then { valid := true, client := Nat.xor t.stall 2 } else {}] })
    endCmd s t.cmd (if s.stepSt.narrow ∧ t.source ≠ 2 then { cls := 1, reason := 0x8A } else {})
  if t.source = 2 then
    let hs := (d.records.take n).map (fun a => (a / 4096, a / 4096 + 1 + bitmapCrates d))
    let steps := hs.map (fun e => leAt (crateBytes s.mem e.1) 8 8)
    done (remoteRecs s hs) (steps.foldl max 0)
  else
    let mh := crateBytes s.mem (d.mirror.getD 0 0 / 4096)
    let mstep := leAt mh 0x10 8
    let ds := takenStreams s mstep
    let s := ds.foldl (fun s e => applyEntries s (shardCrate s) (streamAt s e.2).2.2) s
    let want := match ds.getLast? with | some e => leAt (crateBytes s.mem e.2) 0x18 8 | none => leAt mh 0x18 8
    let last := match ds.getLast? with | some e => e.1 | none => mstep
    if leAt mh 0 4 ≠ 0x524D5A4D ∨ (postDigest s (fun r => crateAt s (shardCrate s r))).toNat ≠ want then
      stepEnd (modStep s (fun x => { x with takeover := none, act := 0 })) t.cmd 3 0x86
    else
      let ps := (List.range n).map (fun i => d.pending.getD 0 0 / 4096 + i * pendCrates d)
      done (remoteRecs s (ps.map (fun p => (p, p + 1)))) last

/-- The other holder serves, or there is none (14/R451 step 1). -/
def takeOther (s : State) (t : Takeover) : State :=
  let ids := s.fab.ops.filterMap (fun e => match e.2 with | some o => if o.owner = .takeover then some e.1 else none | none => none)
  let s := ids.foldl dropOp s
  if s.stepSt.mirror2 ∧ t.source = 0 then askTakeover s { t with source := 1 }
  else stepEnd (modStep s (fun x => { x with takeover := none, act := 0, takeFail := none })) t.cmd 3 0x85

/-- The substitution of the stall's logical chip by this module (14/R451, 12/R395). -/
def takeSubst (s : State) (stall : Nat) : State :=
  let lg := ownChip s / 32 * 32 + stall
  let i := ((List.range 256).find? (fun i => let e : Subst := tget {} s.substs i; e.enable && e.logical == lg)).getD
    (((List.range 256).find? (fun i => !(tget ({} : Subst) s.substs i).enable)).getD 0)
  { s with substs := tset {} s.substs i { enable := true, logical := lg, phys := ownChip s } }

/-- TAKEOVER: `handing` says that the stall is handing over and is the source itself. -/
def takeover (s : State) (slot : Nat) (handing : Bool) : State :=
  match begun s slot 0x0506 with
  | none => s
  | some c =>
    let stall := Pkt.p1 c.packet % 32
    match s.stepSt.takeover with
    | some t =>
      if t.cmd ≠ slot then stepEnd s slot 2 0x83
      else if s.stepSt.takeFail.isSome then takeOther s t
      else if takeOpen s then s
      else takeFinish s t
    | none =>
      if !fromTraining s c then stepEnd s slot 2 0x0A
      else if 15 < stall ∨ chipStall (ownChip s) ≠ 16 ∨ s.fab.chip = none then stepEnd s slot 2 0x03
      else if s.stepSt.replay.isSome then stepEnd s slot 2 0x83
      else if !dirOn s then stepEnd s slot 2 0x81
      else if s.stepSt.took then stepEnd s slot 3 0x89
      else askTakeover (modStep (takeSubst s stall) (fun x => { x with act := 3 }))
        { cmd := slot, stall, source := if handing then 2 else 0 }

def execTakeover (slot : Nat) (handing : Bool) (s : State) : Res := .next (takeover s slot handing)

/-- HOLDER_TIMEOUT: the holder has not answered within 100 ms (14/R451). -/
def holderTimeout (s : State) : State :=
  match s.stepSt.takeover with
  | some t => if t.source = 0 || t.source = 1 then takeOther s t else s
  | none => s

def execHolderTimeout (s : State) : Res := .next (holderTimeout s)

end Sys2Proof.Machine
end

