-- ==== Sys2Proof/Machine/Teardown.lean ====
section
/-!
DEFINITION. Teardown of contexts (10/R341-R344), CTX_DESTROY, and vacating a stall (10/R345-R347, 14/R458).
-/
namespace Sys2Proof.Machine

/-! ### Teardown (10/R341) -/

/-- A command of the context that a teardown ends: of its generation, and not ended. DESIGN CHOICE: log entry 14. -/
def cmdOf (s : State) (ctx gen : Nat) (c : Cmd) : Bool :=
  queueCtx s c.queue == some ctx && Pkt.gen c.packet == gen && c.phase != 2

/-- End one command of a context that is torn down: a launch stops and ends at its completion, a collective rings its
bell, any other command ends with class 0x04. -/
def endHeld (reason : Nat) (s : State) (c : Cmd) : State :=
  let op := Pkt.opcode c.packet
  if c.phase = 1 ∧ op = 0x0201 then stopLaunch s c.slot 4 reason
  else
    let s := match s.groups.find? (fun e => match e.2.run with | some r => r.slot == c.slot | none => false) with
      | some (g, x) => (match x.run with
        | some r => ringBell (dropRun s g r reason) g
            { count := r.count, reason, ordinal := r.ordinal, chip := ownChip s, left := 3, members := r.others }
        | none => s)
      | none => s
    setEnded s c.slot { cls := 4, reason }

/-- The fabric transfers of a context are forgotten: their frames that are not sent are discarded (10/R341 step 5). -/
def dropFabric (s : State) (ctx gen : Nat) : State :=
  let own (c : Option (Nat × Nat)) : Bool := c == some (ctx, gen)
  let keep (i : Item) : Bool := i.resend || !own i.ctx
  let s := modFab s fun f =>
    { f with sendq := f.sendq.filter keep, bindq := f.bindq.filter keep
             ops := f.ops.filter (fun e => match e.2 with | some o => !(o.ctx == ctx && o.gen == gen) | none => true) }
  let mine (t : Transfer) : Bool := t.ctx == ctx && t.gen == gen && Ins.op t.instr == 0x44
  { s with cores := s.cores.map (fun c => (c.1, { c.2 with inflight := c.2.inflight.filter (fun t => !mine t) })) }

/-- Marked transfers of a context (10/R340: CANCELLED). -/
def ctxTransfers (s : State) (ctx gen : Nat) : Nat :=
  (s.cores.map (fun c => (c.2.inflight.filter (fun t => t.ctx == ctx && t.gen == gen)).length)).foldl (· + ·) 0

/-- The step commands that the training context has in progress end with it. -/
def dropSteps (s : State) : State :=
  modMem (modStep s (fun x =>
    { x with replay := none, takeover := none, takeFail := none, weigh := none
             ckpt := if x.ckpt.cmd.isSome then { x.ckpt with cmd := none, state := 3 } else x.ckpt }))
    (fun m => { m with cow := none })

/-- Send a revoke on one channel that the context has used (10/R341 step 6). -/
def sendRevoke (ctx gen : Nat) (s : State) (u : Nat × Nat × Nat × Nat) : State :=
  let (_, _, chip, ch) := u
  let b := findBind s ctx gen chip
  let id := s.fab.nextOp
  let s := modFab s (fun f => { f with nextOp := (f.nextOp + 1) % 2 ^ 32 })
  let s := modCtx s ctx (fun c => { c with peers := c.peers ++ [(chip, id)] })
  sendReply s { typ := 0x09, last := true, dst := chip, ch, opid := id, aux := ctx + gen * 2 ^ 16
                dctx := (b.map (·.dctx)).getD 0, dgen := (b.map (·.dgen)).getD 0 }

/-- Begin the teardown of a live context (10/R341): its launches, commands and traffic end with `reason`; the command
`keep`, which began the teardown, ends with it. -/
def beginTeardown (s : State) (ctx reason : Nat) (keep : Option Nat) : State :=
  let x := getCtx s ctx
  if !(x.state == 1 || x.state == 2) then s
  else
    let gen := x.gen
    let held := s.cmds.filter (fun c => cmdOf s ctx gen c && keep != some c.slot)
    let n := held.length + ctxTransfers s ctx gen
    let s := modCtx s ctx (fun c => { c with state := 3, reason, cancelled := satAdd 32 0 n, destroyCmd := keep, peers := [] })
    let s := held.foldl (endHeld reason) s
    let s := dropFabric s ctx gen
    let s := if x.training then dropSteps s else s
    (s.fab.used.filter (fun u => u.1 == ctx && u.2.1 == gen)).foldl (sendRevoke ctx gen) s

/-! ### Reporting vacated (10/R346, 19/R575) -/

/-- A management message (19/R570). -/
def message (op ident status flags : Nat) (body : List Byte) : List Byte :=
  Word.toLe 4 0x4D475A4D ++ Word.toLe 2 1 ++ Word.toLe 2 op ++ Word.toLe 8 ident ++ Word.toLe 2 status ++ Word.toLe 2 flags
    ++ Word.toLe 4 body.length ++ Word.toLe 8 0 ++ body

/-- The unsolicited VACATED message. -/
def sendVacated (s : State) : State :=
  emit s (.mgmt s.mgmt.reclaimSrc none (message 0x0007 0 0 2 (Word.toLe 8 s.mgmt.reclaimId.toNat)))

def modMgmt (s : State) (f : Mgmt → Mgmt) : State := { s with mgmt := f s.mgmt }
/-- Set a bit of MGMT_ALERT (19/R585). -/
def setAlert (s : State) (bit : Nat) : State := modMgmt s (fun m => { m with alert := Nat.lor m.alert (2 ^ bit) })

/-- Vacated is reported as an event and over management. -/
def reportVacated (s : State) : State :=
  let told := s.mgmt.reclaim == 1
  let s := setAlert (modMgmt s (fun m => { m with reclaim := 2, vacLeft := if told then 29 else 0 })) 2
  let s := raiseNotice s noCtx 2 s.mgmt.reclaimId.toNat
  if told then sendVacated s else s

/-! ### Completion of a teardown (10/R342) -/

/-- Every submission queue bound to the context enters the error state. -/
def failQueues (s : State) (ctx : Nat) : State :=
  { s with queues := s.queues.map (fun e =>
      if 2 ≤ e.1 && e.1 < 15360 && qEnabled e.2 && qClass e.1 e.2 == 0 && rbits e.2.cfg 35 28 == ctx && e.2.state != 4 then
        (e.1, { e.2 with state := 2, reason := 0x28, failAt := s.cmdOrd })
      else e) }

/-- Launches of the context whose completion has not been written complete now. -/
def endLaunches (s : State) (ctx : Nat) : State :=
  ((s.launches.filter (fun l => l.2.ctx == ctx)).map (·.1)).foldl (fun s slot => launchComplete s slot [] []) s

/-- Records of a training context are released and its directory is disabled. -/
def closeSteps (s : State) : State :=
  modStep s (fun x => { x with dirReg := rset x.dirReg 63 63 0, recs := [], act := 0, mirrors := [{}, {}], vacate := none
                               notice := none, prevDur := 0, syncOwed := false, took := false })

/-- The teardown of a context is complete. -/
def finishTeardown (s : State) (ctx : Nat) : State :=
  let x := getCtx s ctx
  let s := endLaunches (cancelLocals s ctx x.gen) ctx
  let s := failQueues s ctx
  let s := (s.groups.filter (fun e => grpEnabled e.2 && grpCtx e.2 == ctx)).foldl (fun s e => disableGroup s e.1) s
  let s := { s with maps := s.maps.filter (fun e => !(e.2.ctx == ctx && e.2.gen == x.gen)) }
  let s := unbindRings s ctx
  let s := modFab s fun f =>
    { f with binds := f.binds.filter (fun b => !(b.ctx == ctx && b.gen == x.gen)), used := f.used.filter (fun u => !(u.1 == ctx && u.2.1 == x.gen))
             peers := f.peers.filter (fun p => !(p.ctx == ctx && p.gen == x.gen)) }
  let vac := s.stepSt.vacate
  let s := if x.training then closeSteps s else s
  let s := modCtx s ctx (fun c => { c with state := 4, enable := false, destroyCmd := none, peers := [] })
  let s := { s with hang := { s.hang with escs := s.hang.escs.filter (fun e => !((e.level == 1 && e.target == ctx && e.gen == x.gen)
    || (e.level == 3 && e.run && e.target == x.part && partContexts s x.part == 0))) } }
  let s := match x.destroyCmd with
    | some slot => endCmd s slot (match vac with
      | some v => if v.cmd = some slot ∧ v.abandoned then { cls := 1, reason := 0x88 } else {}
      | none => {})
    | none => s
  if x.training && (s.mgmt.reclaim == 1 || (match vac with | some v => v.phase == 5 | none => false)) then reportVacated s else s

/-- TEARDOWN_COMPLETE: local transfers have ended and every revoke is acknowledged. -/
def teardownComplete (s : State) (ctx : Nat) : State :=
  let x := getCtx s ctx
  if x.state = 3 ∧ x.peers = [] then finishTeardown s ctx else s

def execTeardownComplete (ctx : Nat) (s : State) : Res := .next (teardownComplete s ctx)

/-- REVOKE_TIMEOUT: each silent peer is named, and the teardown completes. -/
def revokeTimeout (s : State) (ctx : Nat) : State :=
  let x := getCtx s ctx
  if x.state = 3 ∧ x.peers ≠ [] then
    let s := (x.peers.map (·.1)).eraseDups.foldl (fun s chip => raiseColl s 0x60 (ctx, x.gen) 0 0 chip 0) s
    finishTeardown s ctx
  else s

def execRevokeTimeout (ctx : Nat) (s : State) : Res := .next (revokeTimeout s ctx)

/-- QUARANTINE_END (10/R332): the number is free; its generation counter and the counters of R340 stay. -/
def quarantineEnd (s : State) (ctx : Nat) : State :=
  if (getCtx s ctx).state = 4 then modCtx s ctx (fun c => { c with state := 0 }) else s

def execQuarantineEnd (ctx : Nat) (s : State) : Res := .next (quarantineEnd s ctx)

/-- CTX_DESTROY (10/R341, R343). -/
def ctxDestroy (s : State) (slot : Nat) : State :=
  match begun s slot 0x0805 with
  | none => s
  | some c =>
    let n := Pkt.p0 c.packet % 256
    let x := getCtx s n
    if x.destroyCmd = some slot then s
    else if Pkt.p0 c.packet / 2 ^ 16 % 2 ^ 16 ≠ x.gen then refuseCmd s slot 0x21
    else if x.state = 3 then refuseCmd s slot 0x27
    else if x.state = 1 ∨ x.state = 2 then beginTeardown s n 0x27 (some slot)
    else refuseCmd s slot 0x28

def execCtxDestroy (slot : Nat) (s : State) : Res := .next (ctxDestroy s slot)

/-! ### VACATE (10/R345, R346, 14/R458) -/

/-- Ticks of 10 ns in eight seconds. -/
def eightSeconds : Nat := 800000000

/-- The notice's time; a VACATE without a notice counts from its own beginning. -/
def noticeTime (s : State) : Nat := match s.stepSt.notice with | some n => n.2 | none => s.time.toNat

/-- The open step is expected to end within 8 s of the notice (R346). -/
def endsInTime (s : State) : Bool :=
  match openRec s with
  | some r => decide (r.beginT.toNat + s.stepSt.prevDur ≤ noticeTime s + eightSeconds)
  | none => true

def setVacate (s : State) (v : Option Vacate) : State := modStep s (fun x => { x with vacate := v })

/-- Abandon the open step: its launches and collectives stop with 0x88, and the crates it preserved are restored. -/
def abandonStep (s : State) (keep : Option Nat) : State :=
  let cg := stepCg s
  let held := s.cmds.filter (fun c => cmdOf s cg.1 cg.2 c && c.phase == 1 && keep != some c.slot)
  let s := held.foldl (endHeld 0x88) s
  let s := dropFabric (cancelLocals s cg.1 cg.2) cg.1 cg.2
  match openRec s with
  | none => s
  | some r =>
    let s := restoreRec (modMem s (fun m => { m with cow := none })) r
    let s := setMem s (patchFw s.mem (recordHeader s r.slot) 6 [0#8])
    modStep s (fun x => { x with recs := x.recs.filter (fun y => y.step != r.step), cur := r.step - 1 })

/-- A checkpoint or cross-weigh that has not ended within the 8 s is aborted (R346). -/
def abortLate (s : State) (c : Cmd) : State :=
  let op := Pkt.opcode c.packet
  if c.phase = 1 ∧ (op = 0x0503 ∨ op = 0x0504) ∧ noticeTime s + eightSeconds < s.time.toNat then
    setEnded (modStep s (fun x =>
      { x with weigh := if op = 0x0503 then none else x.weigh
               ckpt := if op = 0x0504 then { x.ckpt with cmd := none, state := 3 } else x.ckpt })) c.slot { cls := 4, reason := 0x88 }
  else s

/-- Work of the training context is still under way: its boundary has not come. -/
def stepBusy (s : State) (keep : Option Nat) : Bool :=
  let cg := stepCg s
  let ord := match keep.bind (findCmd s) with | some c => c.ord | none => s.cmdOrd
  s.cmds.any (fun c => cmdOf s cg.1 cg.2 c && keep != some c.slot && decide (c.ord < ord))
    || s.launches.any (fun l => l.2.ctx == cg.1) || collRunning s cg.1 || stepTransfers s s.stepSt.cur

/-- The deltas of every ended step are acknowledged by every holder. -/
def deltasAcked (s : State) : Bool :=
  s.stepSt.recs.all (fun r => r.state != 2 || (holders s).all (fun h => r.acked.contains h.1))

/-- Advance a vacate: to the step boundary, through the deltas, the offer and the serving, to the teardown. `served` says
that the spare has read all it asked for. -/
def vacateGo (s : State) (v : Vacate) (served : Bool) : State :=
  let cg := stepCg s
  let down (s : State) : State := beginTeardown (setVacate s (some { v with phase := 5 })) cg.1 0x27 v.cmd
  if v.phase = 1 then
    let s := s.cmds.foldl abortLate s
    if stepBusy s v.cmd then s
    else
      let prev := openRec s
      let s := endOpen s
      let s := match prev with
        | some r => (match s.stepSt.recs.find? (fun y => y.step == r.step) with | some y => sendDelta s y | none => s)
        | none => s
      setVacate s (some { v with phase := 2 })
  else if v.phase = 2 then
    if !deltasAcked s then s
    else if (holders s).isEmpty || s.fab.chip.isNone then down s
    else setVacate s (some { v with phase := 3 })
  else if v.phase = 4 then (if served then down s else s)
  else s

/-- Begin a vacate of the training context (R346). -/
def vacateBegin (s : State) (cmd : Option Nat) : State :=
  if endsInTime s then vacateGo (setVacate s (some { cmd, phase := 1 })) { cmd, phase := 1 } false
  else setVacate (abandonStep s cmd) (some { cmd, phase := 2, abandoned := true })

/-- VACATE. -/
def vacate (s : State) (slot : Nat) (served : Bool) : State :=
  match begun s slot 0x0505, s.stepSt.vacate with
  | none, some v => if v.cmd = none then vacateGo s v served else s
  | none, none => s
  | some _, some v => if v.cmd = some slot then vacateGo s v served else stepEnd s slot 2 0x27
  | some c, none => if !fromTraining s c then stepEnd s slot 2 0x0A else vacateBegin s (some slot)

def execVacate (slot : Nat) (served : Bool) (s : State) : Res := .next (vacate s slot served)

/-- The lowest-numbered enabled submission queue of a context. -/
def lowestQueue (s : State) (ctx : Nat) : Option Nat :=
  (s.queues.find? (fun e => decide (2 ≤ e.1) && decide (e.1 < 15360) && qEnabled e.2 && qClass e.1 e.2 == 0
    && rbits e.2.cfg 35 28 == ctx)).map (·.1)

/-- VACATE_AUTO: firmware begins a VACATE with TAG 0xFFFF_FFFF (R345). -/
def vacateAuto (s : State) : State :=
  match s.stepSt.notice, trainingCtx s with
  | some _, some ctx =>
    if s.stepSt.vacate.isSome then s
    else match lowestQueue s ctx with
    | none => vacateBegin s none
    | some q =>
      if 4096 ≤ s.cmds.length then vacateBegin s none
      else
        let slot := freeSlot s
        let p := Word.toLe 2 0x0505 ++ Word.toLe 2 0 ++ Word.toLe 1 ctx ++ Word.toLe 1 0 ++ Word.toLe 2 (getCtx s ctx).gen
          ++ Word.toLe 4 0xFFFFFFFF ++ List.replicate 52 0#8
        vacateBegin { s with cmds := s.cmds ++ [{ slot, ord := s.cmdOrd, queue := q, packet := p, epochs := [0, 0, 0, 0], phase := 1 }]
                             cmdOrd := s.cmdOrd + 1 } (some slot)
  | _, _ => s

def execVacateAuto (s : State) : Res := .next (vacateAuto s)

/-- VACATE_NO_TAKEOVER: no spare has taken the stall within 2 s of the offer (14/R458). -/
def vacateNoTakeover (s : State) : State :=
  match s.stepSt.vacate with
  | some v =>
    if v.phase = 3 then
      let cg := stepCg s
      let s := raiseStep s 0x89 cg (BitVec.ofNat 64 s.stepSt.cur) (ownStall s)
      beginTeardown (setVacate s (some { v with phase := 5 })) cg.1 0x27 v.cmd
    else s
  | none => s

def execVacateNoTakeover (s : State) : Res := .next (vacateNoTakeover s)

end Sys2Proof.Machine
end

