-- ==== Sys2Proof/Machine/Frames.lean ====
section
/-!
DEFINITION. What received frames do (11/R359, R376-R380, 10/R341, R344): data, tallies, voids, errors, revokes and
bindings.
-/
namespace Sys2Proof.Machine

/-! ### PUT, ACC_PUT, TALLY_ADD (11/R377) -/

/-- PUT: the crate is written as it came, poisoned when its check fails; it may complete a stream (14/R447). -/
def putEffect (s : State) (f : Frame) : State :=
  match crateRefusal s f with
  | some (i, far) => sendError s f i far
  | none =>
    let (s, t) := verifyRx s f
    streamArrived (putCrate s (f.addr / 4096) (framePayload f) t) f

def execPut (p : Nat) (s : State) : Res := .next (recvSeq s p 0x01 putEffect)

/-- ACC_PUT: the far crate, first operand, plus the frame's, under the sender's lineage (06/R169); a far crate that is
poisoned, fails its check or is not FP32 leaves a poisoned result and is reported with 0x64. -/
def accEffect (s : State) (f : Frame) : State :=
  match crateRefusal s f with
  | some (i, far) => sendError s f i far
  | none =>
    let k := f.addr / 4096
    let (s, t) := verifyRx s f
    let lin := Tag.lineage (frameTag f)
    let put (s : State) (p : List Byte) (bad : Bool) : State :=
      putCrate s k p (Tag.computed p Fmt.fp32 0 (Tag.flagsOf 0 bad false false false false) lin)
    if Tag.fmt (crateTag s.mem k) ≠ Fmt.fp32 then
      let (s, p) := freeBytes s 4096
      sendError (put s p true) f 0x64 0xF1
    else
      let (s, q, r) := readVerify s (f.dctx, f.dgen) k
      let s := put s (addPayload q (framePayload f)) (Tag.poisoned t || r.isSome)
      match r with
      | some far => sendError s f 0x64 far
      | none => s

def execAccPut (p : Nat) (s : State) : Res := .next (recvSeq s p 0x02 accEffect)

/-- TALLY_ADD: added in the current epoch (10/R337); one that echoes a stream acknowledges it. -/
def tallyEffect (s : State) (f : Frame) : State :=
  match ctxGone s f with
  | some r => sendError s f 0x63 r
  | none =>
    if !tallyOk s f.dctx (f.addr % 2 ^ 16) then sendError s f 0x62 0x26
    else streamAcked (addTally s (f.addr % 2 ^ 16) (f.aux % 2 ^ 48)) f

def execTallyAddFrame (p : Nat) (s : State) : Res := .next (recvSeq s p 0x05 tallyEffect)

/-! ### GET_REQ and GET_DATA -/

/-- A sequenced frame of a local context that answers a peer: it names the peer's context by the peer's own binding. -/
def sendFrom (s : State) (ctx gen : Nat) (f : Frame) : State :=
  let peer := s.fab.peers.find? (fun p => p.chip == f.dst && p.ctx == ctx && p.gen == gen)
  match useSession s f.dst with
  | (s, none) => s
  | (s, some _) =>
    enqueue (markUsed s ctx gen f.dst f.ch)
      { ctx := some (ctx, gen)
        frame := { f with src := ownChip s, dctx := (peer.map (·.pctx)).getD 0, dgen := (peer.map (·.pgen)).getD 0 } }

/-- Send the crates of a read; a crate that fails its check goes out poisoned (08/R244). -/
def sendCrates (f : Frame) (total : Nat) : Nat → Nat → State → State
  | 0, _, s => s
  | n + 1, k, s =>
    let crate := f.addr / 4096 + k
    let (s, p, t) := moveRead s (f.dctx, f.dgen) 0xFFFF crate
    sendCrates f total n (k + 1) (sendFrom s f.dctx f.dgen
      { typ := 0x04, last := k + 1 == total, dst := f.src, ch := f.ch, opid := f.opid, addr := crate * 4096, index := k
        data := crateData t p })

/-- The first crate of a read that is refused, with its reason. -/
def readRefusal (s : State) (f : Frame) (n : Nat) : Option (Nat × Nat) :=
  (List.range n).findSome? fun k =>
    match crateRefusal s { f with addr := f.addr + k * 4096 } with
    | some (_, r) => some (k, r)
    | none => none

/-- GET_REQ; the spare's read of an offered shard begins the serving (14/R458). DEDUCED: log entry 20. -/
def getReqEffect (s : State) (f : Frame) : State :=
  let n := f.aux % 2048 + 1
  match ctxGone s f with
  | some r => sendError s f 0x63 r
  | none => match readRefusal s f n with
    | some (k, r) => sendError s { f with addr := f.addr + k * 4096, index := k } 0x62 r
    | none =>
      let me := ownChip s
      let spare := chipStall f.src == 16 && chipSquare f.src == chipSquare me && chipDistrict f.src == chipDistrict me
      let s := match s.stepSt.vacate with
        | some v => if v.phase = 3 && spare && (getCtx s f.dctx).training then setVacate s (some { v with phase := 4 }) else s
        | none => s
      sendCrates f n n 0 s

def execGetReq (p : Nat) (s : State) : Res := .next (recvSeq s p 0x03 getReqEffect)

/-- The local crate that crate `k` of a get goes to, and whether it ends its slot: of the bin of the PFABRIC for a core
that still holds the launch's bins, as the takeover asked for it else. -/
def getPlace (s : State) (o : Op) (k : Nat) : Option (Nat × Option (Nat × Nat)) :=
  match o.owner with
  | .takeover => some (o.first + k, none)
  | .porter core x =>
    match (getCore s core).inflight.find? (fun t => t.id == x) with
    | none => none
    | some t =>
      if !coreHolds s core o.launch then none
      else
        let b := Ins.bits t.instr 85 80
        let bin := getBin (getCore s core) b
        let pos := k % bin.slotCrates
        some (slotCrate core bin bin.fillSlot pos,
          if pos + 1 = bin.slotCrates ∨ k + 1 = Ins.bits t.instr 79 69 + 1 then some (core, b) else none)
  | _ => none

/-- The next GET_DATA waits for space in its bin at the start of a slot (05/R135). -/
def getHeld (s : State) (f : Frame) : Bool :=
  match getOp s f.opid with
  | some o => (match o.owner with
    | .porter core x => (match (getCore s core).inflight.find? (fun t => t.id == x) with
      | some t =>
        let bin := getBin (getCore s core) (Ins.bits t.instr 85 80)
        coreHolds s core o.launch && o.dir == 1 && f.index % bin.slotCrates == 0 && !bin.spaceOk
      | none => false)
    | _ => false)
  | none => false

/-- One crate of a get has come or is void: counted, and the transfer ends with its last. -/
def getCounted (s : State) (id : Nat) (crate : Option Nat) : State :=
  let s := modOp s id (fun o => { o with left := o.left - 1
                                         written := match crate with | some c => o.written ++ [c] | none => o.written })
  match getOp s id with
  | some o => if o.left = 0 then opDone s id else s
  | none => s

/-- A slot of a get is full: it is posted (05/R135). -/
def getPost (s : State) (e : Option (Nat × Nat)) : State :=
  match e with
  | none => s
  | some (core, b) => match implicitPost s core b with
    | .ok s => s
    | .error (.broken r b s) => scheduleBroken s core 4 (getStation (getCore s core) 4).pc r b 0
    | .error (.fault r s) => stationFault s core 4 (getStation (getCore s core) 4).pc r
    | .error _ => s

/-- GET_DATA: the crate is written to its local place; data of a transfer that is not in flight is discarded. DEDUCED: log
entry 20. -/
def getDataEffect (s : State) (f : Frame) : State :=
  match ctxGone s f with
  | some r => sendError s f 0x63 r
  | none => match getOp s f.opid with
    | none => s
    | some o =>
      if o.dir ≠ 1 ∨ o.chip ≠ f.src then s
      else match getPlace s o f.index with
      | none => getCounted s f.opid none
      | some (crate, slot) =>
        let (s, t) := verifyRx s { f with addr := crate * 4096 }
        getCounted (getPost (putCrate s crate (framePayload f) t) slot) f.opid (some crate)

/-- GET_DATA of port `p`, unless its bin has no space for it yet. -/
def getData (s : State) (p : Nat) : State :=
  match firstOf 0x04 0 [] (getPort s p).rx with
  | some (_, f) => if getHeld s f then s else recvSeq s p 0x04 getDataEffect
  | none => s

def execGetData (p : Nat) (s : State) : Res := .next (getData s p)

/-! ### VOID (11/R380) -/

/-- VOID: a lost crate frame of a torn-down context leaves its destination poisoned (08/R247). DESIGN CHOICE: log entry
42. -/
def voidEffect (s : State) (f : Frame) : State :=
  let typ := f.aux / 2 ^ 8 % 2 ^ 8
  let spoil (s : State) (c : Nat) : State := setMem s (setTag s.mem c (Tag.poison (crateTag s.mem c)))
  if typ = 0x01 ∨ typ = 0x02 then
    match crateRefusal s f with
    | some _ => s
    | none => spoil s (f.addr / 4096)
  else if typ = 0x04 then
    match getOp s f.opid with
    | some o =>
      if o.dir ≠ 1 ∨ o.chip ≠ f.src then s
      else match getPlace s o f.index with
        | some (c, _) => getCounted (spoil s c) f.opid (some c)
        | none => getCounted s f.opid none
    | none => s
  else s

def execVoid (p : Nat) (s : State) : Res := .next (recvSeq s p 0x07 voidEffect)

/-! ### ERROR, REVOKE (11/R376, R378, 10/R341) -/

/-- The binding of a context to a chip is dead (11/R376). -/
def killBind (s : State) (ctx gen chip : Nat) : State := modBind s ctx gen chip (fun b => { b with state := 2 })

/-- A refused BIND: the transfers whose frames wait for it fail with the report of the BIND, and so do collectives that
need the peer (11/R376, R378). DEDUCED: log entry 19. -/
def bindRefused (s : State) (f : Frame) : State :=
  match s.fab.binds.find? (fun b => b.opid == f.opid && b.chip == f.src && b.state == 0) with
  | none => s
  | some b =>
    let mine (i : Item) : Bool := i.ctx == some (b.ctx, b.gen) && i.frame.dst == b.chip
    let ids := (s.fab.bindq.filter mine).filterMap (·.op)
    let s := modFab s fun x =>
      { x with bindq := x.bindq.filter (fun i => !mine i)
               binds := x.binds.filter (fun y => !(y.opid == b.opid && y.chip == b.chip && y.state == 0)) }
    let s := ids.foldl (fun s id => failOp s id 0x63 (f.aux / 2 ^ 8 % 2 ^ 8) 0x0B (f.addr / 4096)) s
    failColls s b.chip 0x63 (fun x => grpCtx x == b.ctx)

/-- ERROR: the failed transfer is the one that the echoed identifier names. -/
def errorEffect (s : State) (f : Frame) : State :=
  let reason := f.aux % 2 ^ 8
  let far := f.aux / 2 ^ 8 % 2 ^ 8
  let typ := f.aux / 2 ^ 16 % 2 ^ 8
  if typ = 0x0B then bindRefused s f
  else if typ = 0x06 then
    failColls s f.src reason (fun x => match x.run with | some r => r.count == f.opid | none => false)
  else match getOp s f.opid with
  | none => s
  | some o =>
    if o.chip ≠ f.src ∨ typ = 0x04 then s
    else
      let s := if far = 0x27 ∨ far = 0x28 then killBind s o.ctx o.gen o.chip else s
      match o.owner with
      | .stream step what => streamError s f.opid o step what reason
      | _ => failOp s f.opid reason far typ (f.addr / 4096)

def execError (p : Nat) (s : State) : Res := .next (recvSeq s p 0x08 errorEffect)

/-- REVOKE: transfers and collectives with the context fail with 0x63, its bindings are dead, and it is acknowledged.
DEDUCED: log entry 19. -/
def revokeEffect (s : State) (f : Frame) : State :=
  let pctx := f.aux % 2 ^ 8
  let pgen := f.aux / 2 ^ 16 % 2 ^ 16
  let bs := s.fab.binds.filter (fun b => b.chip == f.src && b.state == 1 && b.dctx == pctx && b.dgen == pgen)
  let s := bs.foldl (fun s b =>
    let s := killBind s b.ctx b.gen b.chip
    let ids := s.fab.ops.filterMap (fun e => match e.2 with
      | some o => if o.chip = b.chip ∧ o.ctx = b.ctx ∧ o.gen = b.gen then some (e.1, o) else none
      | none => none)
    let s := ids.foldl (fun s e => failOp s e.1 0x63 0x27 ([0x01, 0x03, 0x02, 0x05].getD e.2.dir 0) e.2.crate) s
    failColls s b.chip 0x63 (fun x => grpCtx x == b.ctx)) s
  let s := modFab s (fun x => { x with peers := x.peers.filter (fun p => !(p.chip == f.src && p.pctx == pctx && p.pgen == pgen)) })
  sendReply s { typ := 0x0A, last := true, dst := f.src, ch := f.ch, opid := f.opid, aux := f.aux }

def execRevoke (p : Nat) (s : State) : Res := .next (recvSeq s p 0x09 revokeEffect)

/-- REVOKE_ACK: one revoke less is pending. -/
def revokeAckEffect (s : State) (f : Frame) : State :=
  match s.ctxs.find? (fun c => c.2.state == 3 && c.2.peers.contains (f.src, f.opid)) with
  | some (n, _) => modCtx s n (fun c => { c with peers := c.peers.filter (fun p => p != (f.src, f.opid)) })
  | none => s

def execRevokeAck (p : Nat) (s : State) : Res := .next (recvSeq s p 0x0A revokeAckEffect)

/-! ### BIND (11/R376) -/

/-- BIND: answered with the one enabled context of that seed, else refused with 0x63. -/
def bindEffect (s : State) (f : Frame) : State :=
  let cs := s.ctxs.filter (fun c => c.2.state == 2 && c.2.seed.toNat == f.aux && f.aux != 0)
  match cs with
  | [(n, c)] =>
    let p : Peer := { chip := f.src, pctx := f.index % 2 ^ 8, pgen := f.index / 2 ^ 16 % 2 ^ 16, ctx := n, gen := c.gen }
    let s := modFab s (fun x => if x.peers.contains p then x else { x with peers := x.peers ++ [p] })
    sendReply s { typ := 0x0C, last := true, dst := f.src, ch := f.ch, opid := f.opid, aux := n + c.gen * 2 ^ 16
                  dctx := p.pctx, dgen := p.pgen }
  | _ => sendError s f 0x63 0x20

def execBind (p : Nat) (s : State) : Res := .next (recvSeq s p 0x0B bindEffect)

/-- BIND_REPLY: the binding is known, and the frames that waited for it may be sent. -/
def bindReplyEffect (s : State) (f : Frame) : State :=
  match s.fab.binds.find? (fun b => b.opid == f.opid && b.chip == f.src && b.state == 0) with
  | none => s
  | some b =>
    let dctx := f.aux % 2 ^ 8
    let dgen := f.aux / 2 ^ 16 % 2 ^ 16
    let s := modBind s b.ctx b.gen b.chip (fun b => { b with state := 1, dctx, dgen })
    let mine (i : Item) : Bool := i.ctx == some (b.ctx, b.gen) && i.frame.dst == b.chip
    modFab s fun x =>
      { x with bindq := x.bindq.filter (fun i => !mine i)
               sendq := x.sendq ++ (x.bindq.filter mine).map (fun i => { i with frame := { i.frame with dctx, dgen } }) }

def execBindReply (p : Nat) (s : State) : Res := .next (recvSeq s p 0x0C bindReplyEffect)

end Sys2Proof.Machine
end

