-- ==== Sys2Proof/Machine/RegRead.lean ====
section
/-!
DEFINITION. What every register of the map reads (chapter 20 and the chapters it names), and reads of register space
(20/R588-R590).
-/
namespace Sys2Proof.Machine
open Word (b2n)

/-- A field of a register at bit `lo`, `w` bits wide. -/
def fld (lo w v : Nat) : Nat := v % 2 ^ w * 2 ^ lo

/-! ### Clocks and power (18/R544, R545, R550, R563-R566) -/

/-- The contribution of a core of a running launch (R544). -/
def coreHint (s : State) (c : Nat) : Nat :=
  let x := getCore s c
  if x.hintValid then x.hintOp else rbits s.pwr.cfg 3 2

/-- The requested point (R544). -/
def reqOp (s : State) : Nat :=
  let cs := (s.launches.filter (fun l => l.2.running)).flatMap (fun l => l.2.cores)
  match cs with
  | [] => rbits s.pwr.cfg 5 4
  | c :: t => t.foldl (fun m c => min m (coreHint s c)) (coreHint s c)

/-- The four limits (R545): host, operator, thermal, backstop. -/
def opLimits (s : State) : List Nat := [rbits s.pwr.cfg 1 0, s.pwr.operLimit, s.pwr.thermLimit, s.pwr.backLimit]
def opLimit (s : State) : Nat := (opLimits s).foldl max 0
/-- The limits that set the limit; a limit of 0 is none. -/
def limitSrc (s : State) : Nat :=
  let l := opLimit s
  if l = 0 then 0 else ((opLimits s).zipIdx.map (fun e => if e.1 = l then 2 ^ e.2 else 0)).foldl (· + ·) 0
/-- The effective point. -/
def effOp (s : State) : Nat := max (reqOp s) (opLimit s)
/-- The effective cap in W (R550, R558). -/
def effCap (s : State) : Nat :=
  min (min (rbits s.pwr.cfg 47 32) s.pwr.operCap) (min s.pwr.thermCap (if s.pwr.inputLow then 2000 else 4800))
/-- PWR_STATUS.THERMAL (R564). -/
def thermalCode (s : State) : Nat :=
  let p := s.pwr
  if p.leakHeld then 5 else if p.coolantHeld then 4 else if p.thermCap < 4800 then 3 else if p.thermLimit != 0 then 2 else if p.margin then 1 else 0

def pwrStatus (s : State) : Nat :=
  let p := s.pwr
  fld 48 16 (p.power / 1000) + fld 32 16 (effCap s) + fld 26 6 p.bubbles + fld 25 1 (b2n (p.bubbles != 0)) + fld 24 1 (b2n p.paused)
    + fld 16 4 (limitSrc s) + fld 14 2 (opLimit s) + fld 12 2 (reqOp s) + fld 10 2 p.op
    + fld 9 1 (b2n p.stepping) + fld 8 1 (b2n s.boot.inputLost) + fld 4 4 (thermalCode s)

def clkStatus (s : State) : Nat :=
  let p := s.pwr
  fld 32 32 p.switches + fld 7 1 (b2n p.refOk) + fld 6 1 (b2n p.holdover) + fld 5 1 (b2n p.lockB) + fld 4 1 (b2n p.lockA)
    + fld 3 1 p.active + fld 0 2 p.standbyOp

/-! ### Core blocks (03/R96-R98, 04/R126-R128, 05/R162, 06/R192-R194, 18/R567) -/

def faultW (f : FaultReg) : Nat := fld 32 12 f.index + fld 24 8 f.reason + fld 8 3 f.station + b2n f.valid

def arrayStatusW (x : Core) : Nat :=
  let held := [0, 1].any (fun st => match (getStation x st).hold with | .array _ => true | .wait => true | _ => false)
  fld 23 9 x.activity + fld 14 9 x.floor + fld 12 2 x.level + fld 8 4 x.cond + fld 2 1 (b2n held) + fld 1 1 (b2n x.diagMode)

def seqStateW (x : Core) : Nat :=
  let armed := (x.stations.zipIdx.flatMap (fun e => e.1.repeats.map (fun r => 2 ^ (4 * e.2 + r.level)))).foldl (· + ·) 0
  let waiting := match (getStation x 5).hold with | .tally => true | .drain => true | _ => false
  fld 16 24 armed + fld 8 8 x.token + fld 4 1 (b2n x.hintValid) + fld 2 2 x.hintOp + b2n waiting

def porterW (x : Core) : Nat := fld 7 1 (b2n ((getStation x 4).hold == .wait)) + fld 0 7 x.inflight.length

/-- The register word at a core-block offset: its value, and which of its halves exist (bit 0 the low, bit 1 the high). -/
def coreReg (s : State) (c o : Nat) : Option (Nat × Nat) :=
  let x := getCore s c
  if 0x400 ≤ o ∧ o < 0x600 then
    let b := getBin x ((o - 0x400) / 8)
    some (if (o - 0x400) / 8 < x.bins.length then fld 32 32 b.empty + fld 0 32 b.fill else 0, 3)
  else match o with
  | 0x000 => some (coreStateW x, 1)
  | 0x008 => some (s.arrayCycles.toNat, 3)
  | 0x010 => some (x.faultCycle.toNat, 3)
  | 0x018 => some (x.regionStart.toNat, 3)
  | 0x020 => some (arrayStatusW x, 1)
  | 0x028 => some (x.dummyCycles.toNat, 3)
  | 0x030 => some (x.weighChecks.toNat, 3)
  | 0x038 => some (fld 0 32 x.weighMismatch, 3)
  | 0x040 => some (x.weighLast.toNat, 3)
  | 0x048 => some (faultW x.opFault, 3)
  | 0x050 => some (porterW x, 1)
  | 0x058 => some (faultW x.moveFault, 3)
  | 0x060 => some (seqStateW x, 3)
  | 0x068 => some (s.pwr.backCycles.toNat, 3)
  | _ => none

/-! ### Die blocks (01/R32, R33, 07/R231-R237, 11/R386-R388, 20/R600, R602) -/

/-- A die has a healthy spare of its control processor, or the module of its steward (die 8). -/
def cpSpareOk (s : State) (die : Nat) : Bool :=
  (getUnit s (unitW (if die = 8 then 3 else 2) die (1 - tget 0 s.cpActive die) 0)).standing != 2

/-- Spare sites not yet bound. -/
def sparesLeft (s : State) (die : Nat) : Nat := ((List.range 136).filter (siteFree s die)).length

/-- Logical cores of a die with AVAIL 1. -/
def availCores (s : State) (die : Nat) : Nat := ((List.range 128).filter (fun i => coreAvail s (die * 128 + i))).length

/-- The registers are loaded during boot: before the firmware phase has built the repair map they read 0. -/
def mapped (s : State) : Bool := decide (5 ≤ s.boot.phase) && decide (s.boot.phase ≤ 6)

def repairStatusW (s : State) (die : Nat) : Nat :=
  if !mapped s then 0
  else fld 16 8 (availCores s die) + fld 8 8 (sparesLeft s die) + fld 3 1 (b2n (cpSpareOk s die))
    + fld 2 1 (b2n (decide (availCores s die < activeCores s))) + fld 0 1 (tget 0 s.cpActive die)

def coreMapW (s : State) (c : Nat) : Nat :=
  let e := mapEntry s c
  fld 16 8 e.repairs + fld 15 1 (b2n e.avail) + fld 13 2 e.source + fld 0 8 e.site

/-- The module channel of a die-local channel. -/
def dieChannel (die m : Nat) : Nat := if m < 64 then die * 64 + m else 512 + die * 16 + (m - 64)

def chanReg (s : State) (ch o : Nat) : Option (Nat × Nat) :=
  let x := getChan s ch
  match o with
  | 0x00 => some (fld 16 4 x.sparesLeft + fld 12 4 x.sparesUsed + fld 8 4 x.lastTrain + fld 3 1 (b2n x.recalLate) + fld 0 3 x.state, 1)
  | 0x08 => some (fld 32 32 x.uncorrected + fld 0 32 x.corrected, 3)
  | 0x10 => some (x.lastError.toNat, 3)
  | 0x20 => some (x.genCtrl.toNat, 3)
  | 0x28 => some (x.genRange.toNat, 3)
  | 0x30 => some (fld 32 32 x.genErrors + fld 24 8 x.genReason + fld 16 8 x.genPasses + fld 0 2 x.genRun, 3)
  | 0x38 => some (x.lanesLo.toNat, 3)
  | 0x40 => some (fld 0 12 x.lanesHi, 3)
  | 0x48 => some (fld 24 8 x.mReason + fld 16 8 x.mLane + fld 8 8 x.mLanesDone + fld 0 2 x.mRun, 1)
  | _ => none

def portReg (s : State) (p o : Nat) : Option (Nat × Nat) :=
  let x := getPort s p
  match o with
  | 0x00 => some ((rset x.cfg 31 24 x.reason).toNat, 3)
  | 0x08 => some (fld 56 8 x.farPort + fld 51 5 x.farStall + fld 36 15 x.farChip + fld 35 1 (b2n x.farValid) + fld 34 1 (b2n x.miswired)
      + fld 25 9 x.lanes + fld 16 9 x.retired + fld 15 1 (b2n x.backpressure) + fld 0 3 (if portOff s p then 5 else x.state), 3)
  | 0x10 => some (x.farSerial.toNat, 3)
  | 0x18 => some (fld 32 32 x.uncorrCw + fld 0 32 x.corrSymbols, 3)
  | 0x20 => some (fld 32 32 x.retransmits + fld 16 16 x.routeFaults + fld 0 16 x.flitFail, 3)
  | _ => none

def sliceW (s : State) (n : Nat) : Nat :=
  let x := tget {} s.mem.slices n
  fld 16 12 (min (x.lines.filter (·.dirty)).length 2048) + fld 2 1 (b2n x.changing) + fld 0 2 (b2n x.cache)

def scrubW (s : State) (die : Nat) : Nat :=
  let x := tget ({} : Scrub) s.mem.scrub die
  fld 32 32 x.sramPasses + fld 16 16 x.dramPasses + fld 1 1 (b2n x.behind) + b2n x.starved

def dieReg (s : State) (die o : Nat) : Option (Nat × Nat) :=
  if o = 0 then some (0x000149445A4D + die * 2 ^ 48, 3)
  else if o = 0xF00 then some (repairStatusW s die, 1)
  else if 0x1000 ≤ o ∧ o < 0x1200 then
    let n := (o - 0x1000) / 4
    some (coreMapW s (die * 128 + n) + 2 ^ 32 * coreMapW s (die * 128 + n + 1), 3)
  else if 0x100000 ≤ o ∧ o < 0x180000 then
    let i := (o - 0x100000) / 0x1000
    if i < activeCores s then coreReg s (die * 128 + i) (o % 0x1000) else none
  else if 0x200000 ≤ o ∧ o < 0x205000 then chanReg s (dieChannel die ((o - 0x200000) / 0x100)) (o % 0x100)
  else if 0x210000 ≤ o ∧ o < 0x210200 then
    if o % 0x10 = 0 then some (sliceW s (die * 32 + (o - 0x210000) / 0x10), 1) else none
  else if o = 0x211000 then some (scrubW s die, 3)
  else if 0x300000 ≤ o ∧ o < 0x300600 then portReg s (6 * die + (o - 0x300000) / 0x100) (o % 0x100)
  else none

/-! ### Hub block (20/R595) -/

/-- The 8 bytes at `o` of a 48-byte hash area, byte 0 the most significant of the hash. -/
def hashWord (k o : Nat) : Nat :=
  Word.leNat ((List.range 8).map (fun i => if o + i < 48 then BitVec.ofNat 8 (k / 2 ^ (8 * (47 - (o + i)))) else 0#8))

/-- Bit per owner slot present and not revoked (10/R312). -/
def keyUsable (s : State) : Nat :=
  ((s.fuse.f.keys.zipIdx.filter (fun e => e.1 != 0 && !Word.bitOf s.fuse.f.keyRevoked e.2)).map (fun e => 2 ^ e.2)).foldl (· + ·) 0

def fuseStateW (s : State) : Nat :=
  if !s.fuse.sensed then 0
  else fld 48 8 (debugEff s) + fld 40 8 (templEff s) + fld 32 4 (keyUsable s) + fld 24 8 s.fuse.f.svn + fld 2 2 s.fuse.prov
    + fld 0 2 (lifecycle s)

def fuseTemplW (s : State) : Nat :=
  let f := s.fuse.f
  if !s.fuse.sensed then 0
  else fld 63 1 (f.t7 / 2 ^ 24) + fld 32 24 f.t7 + fld 31 1 (f.t6 / 2 ^ 24) + fld 0 24 f.t6

def fuseReg (s : State) (o : Nat) : Option (Nat × Nat) :=
  if o = 0 then some (fuseStateW s, 3)
  else if o = 8 then some (if s.fuse.sensed then s.fuse.f.serial.toNat else 0, 3)
  else if o = 0x10 then some (fuseTemplW s, 3)
  else if 0x100 ≤ o ∧ o < 0x200 ∧ o % 0x40 < 48 then
    some (if s.fuse.sensed then hashWord (s.fuse.f.keys.getD ((o - 0x100) / 0x40) 0) (o % 0x40) else 0, 3)
  else if 0x200 ≤ o ∧ o < 0x230 then some (if s.fuse.sensed then hashWord s.fuse.f.vendorKey (o - 0x200) else 0, 3)
  else none

def mgmtStatusW (s : State) : Nat :=
  let m := s.mgmt
  fld 32 32 m.dropped + fld 8 1 (b2n m.isolated) + fld 6 2 (if m.isolated then 3 else b2n m.addressed)
    + fld 2 2 m.port1 + fld 0 2 m.port0

def mgmtReg (s : State) (o : Nat) : Option (Nat × Nat) :=
  let m := s.mgmt
  match o with
  | 0x00 => some (m.addr.toNat, 3)
  | 0x08 => some (m.gw, 3)
  | 0x10 => some (mgmtStatusW s, 3)
  | 0x18 => some (m.alert, 3)
  | 0x20 => some (fld 32 32 m.noticeTime + fld 0 2 m.reclaim, 3)
  | 0x28 => some (m.reclaimId.toNat, 3)
  | _ => none

def pwrReg (s : State) (o : Nat) : Option (Nat × Nat) :=
  let p := s.pwr
  match o with
  | 0x00 => some ((rset p.cfg 31 24 p.reason).toNat, 3)
  | 0x08 => some (pwrStatus s, 3)
  | 0x10 => some (p.backCycles.toNat, 3)
  | 0x18 => some (fld 32 32 p.engagements + fld 0 32 p.droop, 3)
  | 0x20 => some (clkStatus s, 3)
  | 0x28 => some (p.energy / 1000000, 3)
  | 0x30 => some (fld 32 16 p.operCap + fld 0 2 p.operLimit, 3)
  | _ => none

def procW (s : State) (q : Nat) : Nat :=
  let x := getProc s q
  let depth := ((List.range 16).filter (fun i => Word.bitOf x.stack i)).length
  fld 25 1 (b2n x.eoiErr) + fld 24 1 (b2n x.asserted) + fld 16 5 depth + fld 0 16 x.stack

def pinStatusW (s : State) : Nat :=
  let bits (f : Pin → Bool) : Nat := (s.events.pins.zipIdx.map (fun e => if f e.1 then 2 ^ e.2 else 0)).foldl (· + ·) 0
  fld 16 8 (bits (·.level)) + fld 0 8 (bits (·.pending))

def ringReg (s : State) (n o : Nat) : Option (Nat × Nat) :=
  let r := getRing s n
  match o with
  | 0x00 => some (r.base.toNat, 3)
  | 0x08 => some ((rset (rset r.cfg 47 32 r.gen) 31 24 r.reason).toNat, 3)
  | 0x10 => some (fld 48 16 r.head + fld 32 16 r.tail + fld 16 16 r.nextSeq + fld 12 4 (if ringBlocked s n then min r.pend.length 8 else 0)
      + fld 11 1 (b2n r.armed) + fld 10 1 (b2n r.overflow), 3)
  | 0x18 => some (0, 3)
  | 0x20 => some (r.count.toNat, 3)
  | 0x28 => some (fld 0 32 r.lost, 3)
  | _ => none

def eventReg (s : State) (o : Nat) : Option (Nat × Nat) :=
  if o < 0x40 then some ((s.events.pins.getD (o / 8) {}).cfg.toNat, 3)
  else if o = 0x40 then some (pinStatusW s, 3)
  else if 0x100 ≤ o ∧ o < 0x190 then some (if o % 0x10 = 0 then procW s ((o - 0x100) / 0x10) else 0, 3)
  else if 0x800 ≤ o ∧ o < 0x1000 then some (if o = 0x800 then 0 else (routeOf s ((o - 0x800) / 8)).toNat, 3)
  else if 0x1000 ≤ o ∧ o < 0x2000 then ringReg s ((o - 0x1000) / 0x40) (o % 0x40)
  else none

def ledgerReg (s : State) (o : Nat) : Option (Nat × Nat) :=
  let l := s.ledger
  match o with
  | 0x00 => some (fld 32 32 l.buffered + fld 8 8 l.reason + fld 3 1 (b2n l.torn) + fld 2 1 (b2n l.wrapped) + fld 0 2 l.mode, 3)
  | 0x08 => some (l.seq.toNat, 3)
  | 0x10 => some (fld 16 8 l.charge + fld 3 1 (b2n l.faultSeen) + fld 0 3 l.bank, 3)
  | _ => none

def partReg (s : State) (p o : Nat) : Option (Nat × Nat) :=
  let x := getPart s p
  if o = 0 then some (fld 63 1 (b2n x.enable) + fld 48 8 (x.dies.map (2 ^ ·)).sum + fld 40 4 x.inst + fld 32 3 x.templ + fld 24 8 x.reason
    + fld 16 8 (partContexts s p) + fld 0 3 x.state, 3) else none

def ctxReg (s : State) (c o : Nat) : Option (Nat × Nat) :=
  let x := getCtx s c
  match o with
  | 0x00 => some (fld 63 1 (b2n x.enable) + fld 60 3 x.part + fld 59 1 (b2n x.training) + fld 56 3 x.state + fld 40 16 x.gen + fld 32 8 x.reason
      + fld 16 16 x.tallyCount + fld 0 16 x.tallyFirst, 3)
  | 0x08 => some (x.seed.toNat, 3)
  | 0x10 => some (fld 16 6 x.budget + fld 0 2 x.minLevel, 3)
  | 0x18 => some (fld 48 16 ((x.peers.map (·.1)).eraseDups.length) + fld 0 32 x.cancelled, 3)
  | 0x20 => some (fld 0 32 x.stale, 3)
  | _ => none

/-- HUB_FW_STATUS (16/R516): the standby bank is the one not running. -/
def fwStatusW (s : State) : Nat :=
  let b := s.boot
  fld 56 8 b.fwReason + fld 40 8 b.svn + fld 31 1 (b2n b.staged) + fld 30 1 (if b.phase = 4 ∨ b.phase = 5 ∨ b.phase = 6 then 1 - b.bank else 0)
    + fld 27 3 b.handover

def rstCauseW (s : State) : Nat :=
  let b := s.boot
  fld 24 8 b.cause + fld 21 3 b.level + fld 20 1 (b2n b.held) + fld 16 4 b.arrived + fld 7 1 (b2n b.captured) + fld 0 3 b.slot

def bootReg (s : State) (o : Nat) : Option (Nat × Nat) :=
  let b := s.boot
  match o with
  | 0x00 => some (rstCauseW s, 1)
  | 0x08 => some (fld 0 32 s.fab.resets, 3)
  | 0x10 => some (fld 40 8 b.romReason + fld 32 8 b.restarts + fld 31 1 (b2n b.fallback) + fld 30 1 b.bank + fld 28 2 b.tries + fld 0 4 b.phase, 3)
  | 0x18 => some (fld 32 10 b.raw + fld 16 4 b.code + fld 5 1 (b2n b.unstable) + fld 4 1 (b2n b.denied) + fld 3 1 b.template
      + fld 2 1 (b2n b.single) + fld 1 1 (b2n b.bankB) + fld 0 1 (b2n b.laneRev), 3)
  | 0x20 => some (fwStatusW s, 3)
  | _ => none

def chipReg (s : State) (o : Nat) : Option (Nat × Nat) :=
  let t := s.fab.timeSt
  if o = 0 then some (fld 63 1 (b2n s.fab.chip.isSome) + fld 32 1 (b2n t.root) + fld 16 5 (s.fab.stall.getD 0x1F) + fld 0 15 (ownChip s), 3)
  else if o = 0x100 then some (fld 32 32 t.offset.toNat + fld 8 24 t.rate.toNat + fld 0 2 (if t.root then 1 else t.state), 3)
  else none

def groupReg (s : State) (g o : Nat) : Option (Nat × Nat) :=
  let x := getGroup s g
  match o with
  | 0x00 => some ((rset (rset x.cfg 31 24 x.reason) 15 0 x.gen).toNat, 3)
  | 0x08 => some (fld 32 32 x.count + fld 24 8 x.lastReason + fld 8 15 x.members + fld 7 1 (b2n x.backpressure) + fld 3 4 x.map + fld 0 3 x.state, 3)
  | 0x10 => some (fld 40 24 x.chunkC + fld 26 14 x.ordinal + fld 15 11 x.blocks + fld 10 5 x.nx, 3)
  | 0x18 => some (fld 63 1 (b2n x.bellValid) + fld 48 15 x.bellChip + fld 34 14 x.bellOrdinal + fld 0 32 x.bellCount, 3)
  | _ => none

def substW (s : State) (e : Nat) : Nat :=
  let x := tget ({} : Subst) s.substs e
  fld 63 1 (b2n x.enable) + fld 48 8 x.reason + fld 32 15 x.logical + fld 0 15 x.phys

def mapW (s : State) (n : Nat) : Nat :=
  let x := getMap s n
  fld 63 1 (b2n x.loaded) + fld 62 1 (b2n x.active) + fld 48 8 x.ctx + fld 32 16 x.gen + fld 16 16 x.groups.length + fld 8 8 x.reason

def stepReg (s : State) (o : Nat) : Option (Nat × Nat) :=
  let x := s.stepSt
  let mirror (k : Nat) : Nat :=
    let m := x.mirrors.getD k {}
    fld 63 1 (b2n m.valid) + fld 58 5 m.client + fld 56 2 m.state + fld 48 8 m.pend.length + fld 0 48 m.mstep.toNat
  match o with
  | 0x00 => some ((rset x.dirReg 56 49 x.dirReason).toNat, 3)
  | 0x08 => some (x.cur % 2 ^ 64, 3)
  | 0x10 =>
    let old := match recsUp s with | r :: _ => r.fault | [] => 0
    some (fld 56 8 old + fld 48 8 x.reason + fld 32 16 x.ackTally + fld 24 8 x.stateStep + fld 18 2 x.d + fld 17 1 (b2n x.mirror2)
      + fld 16 1 (b2n x.narrow) + fld 12 4 x.recs.length + fld 0 3 (if x.vacate.isSome then 4 else if x.ckpt.state = 1 then 5 else x.act), 3)
  | 0x18 => some (x.sealedStep % 2 ^ 64, 3)
  | 0x20 => some (mirror 0, 3)
  | 0x28 => some (mirror 1, 3)
  | 0x30 => some (fld 32 32 x.ckpt.gen + fld 24 8 x.ckpt.reason + fld 16 8 x.ckpt.trigger + fld 0 2 x.ckpt.state, 3)
  | _ => none

def escStatusW (s : State) : Nat :=
  let h := s.hang
  fld 61 3 h.escLevel + fld 60 1 (b2n (h.escs != [])) + fld 57 3 h.escSlot + fld 40 8 h.escCause + fld 32 8 h.escReason + fld 0 32 h.escCount

def hangReg (s : State) (o : Nat) : Option (Nat × Nat) :=
  let h := s.hang
  match o with
  | 0x00 => some ((rset h.cfg 47 40 h.reason).toNat, 3)
  | 0x08 => some (fld 48 16 h.count + fld 40 8 h.ctx + fld 24 16 h.gen + fld 10 14 h.members + fld 7 3 h.slot + b2n h.valid, 3)
  | 0x10 => some (h.time.toNat, 3)
  | 0x18 => some (h.target.toNat, 3)
  | 0x20 => some (0, 3)
  | 0x28 => some (escStatusW s, 3)
  | _ => none

/-- Q_CFG as it reads: CLASS 2 at all times for queues 15,360 and above (09/R286). -/
def qCfgW (s : State) (q : Nat) : W64 :=
  let c := (getQueue s q).cfg
  if 15360 ≤ q then rset c 62 61 2 else c

def qStatusW (s : State) (q : Nat) : Nat :=
  let x := getQueue s q
  fld 48 16 x.head + fld 32 16 x.tail + fld 24 8 x.reason + fld 16 1 (b2n x.phase) + fld 13 3 x.state + fld 0 13 (queueCmds s q).length

def queueReg (s : State) (q o : Nat) : Option (Nat × Nat) :=
  match o with
  | 0x00 => some ((getQueue s q).base.toNat, 3)
  | 0x08 => some ((qCfgW s q).toNat, 3)
  | 0x10 => some (qStatusW s q, 3)
  | 0x18 => some (0, 3)
  | _ => none

def sessionReg (s : State) (n o : Nat) : Option (Nat × Nat) :=
  let x := (getSession s n).getD { peer := 0 }
  match o with
  | 0x00 => some (fld 61 3 x.state + fld 56 5 x.retries + fld 32 16 x.sid + fld 0 15 x.peer, 3)
  | 0x08 => some (fld 32 32 (unackedWords x) + fld 0 32 x.srtt, 3)
  | _ => none

def msixReg (s : State) (o : Nat) : Option (Nat × Nat) :=
  if o < 0x400 then
    let v := o / 16
    if o % 16 = 0 then some ((tget 0#64 s.pcie.msixAddr v).toNat, 3)
    else some (fld 0 32 (tget 0 s.pcie.msixData v) + fld 32 32 (tget 1 s.pcie.msixCtrl v), 3)
  else if o = 0x1000 then some ((s.pcie.msixPending.map (2 ^ ·)).sum, 3)
  else none

/-- HUB_APER_STATUS (09/R281). -/
def aperStatusW (s : State) : Nat := fld 56 8 s.pcie.aperReason + fld 52 4 s.pcie.aperWindow + fld 0 49 s.pcie.aperOffset

def hubReg (s : State) (o : Nat) : Option (Nat × Nat) :=
  if o = 0 then some (0x0000000148555A4D, 3)
  else if o = 8 then some (s.time.toNat, 3)
  else if o = 0x10 then some (s.pcie.regErr.toNat, 3)
  else if 0x10000 ≤ o ∧ o < 0x10080 then some ((aperWin s ((o - 0x10000) / 8)).toNat, 3)
  else if o = 0x10080 then some (aperStatusW s, 3)
  else if 0x20000 ≤ o ∧ o < 0x30000 then msixReg s (o - 0x20000)
  else if o = 0x30000 then some (fld 32 13 s.highWater + fld 13 1 (b2n s.backpressure) + fld 0 13 s.cmds.length, 3)
  else if 0x40000 ≤ o ∧ o < 0x50000 then mgmtReg s (o - 0x40000)
  else if 0x50000 ≤ o ∧ o < 0x60000 then fuseReg s (o - 0x50000)
  else if 0x60000 ≤ o ∧ o < 0x70000 then pwrReg s (o - 0x60000)
  else if 0x70000 ≤ o ∧ o < 0x80000 then eventReg s (o - 0x70000)
  else if 0x80000 ≤ o ∧ o < 0x90000 then ledgerReg s (o - 0x80000)
  else if 0x90000 ≤ o ∧ o < 0x90200 then partReg s ((o - 0x90000) / 0x40) (o % 0x40)
  else if 0xA0000 ≤ o ∧ o < 0xA4000 then ctxReg s ((o - 0xA0000) / 0x40) (o % 0x40)
  else if 0xB0000 ≤ o ∧ o < 0xC0000 then bootReg s (o - 0xB0000)
  else if 0xC0000 ≤ o ∧ o < 0xD0000 then chipReg s (o - 0xC0000)
  else if 0xD0000 ≤ o ∧ o < 0xD8000 then groupReg s ((o - 0xD0000) / 0x20) (o % 0x20)
  else if 0xD8000 ≤ o ∧ o < 0xD8800 then some (substW s ((o - 0xD8000) / 8), 3)
  else if 0xD9000 ≤ o ∧ o < 0xD9080 then some (mapW s ((o - 0xD9000) / 8), 3)
  else if 0xE0000 ≤ o ∧ o < 0xF0000 then stepReg s (o - 0xE0000)
  else if 0xF0000 ≤ o ∧ o < 0x100000 then hangReg s (o - 0xF0000)
  else if 0x400000 ≤ o ∧ o < 0x500000 then queueReg s ((o - 0x400000) / 0x40) (o % 0x40)
  else if 0x600000 ≤ o ∧ o < 0x640000 then some ((tget 0#64 s.fab.routes ((o - 0x600000) / 8)).toNat, 3)
  else if 0x700000 ≤ o ∧ o < 0x720000 then sessionReg s ((o - 0x700000) / 0x20) (o % 0x20)
  else none

/-- The register word at an 8-byte aligned BAR0 offset (20/R587): its value and its halves; `none` is reserved. -/
def regWord (s : State) (o : Nat) : Option (Nat × Nat) :=
  if o < 0x1000000 then hubReg s o
  else if o < 0x3000000 then dieReg s ((o - 0x1000000) / 0x400000) ((o - 0x1000000) % 0x400000)
  else none

/-- The value of the word at an offset; a reserved one reads 0 (R590). -/
def regValue (s : State) (o : Nat) : Nat := match regWord s (o / 8 * 8) with | some v => v.1 | none => 0

/-- BAR0 reads as the phase of boot allows (16/R499): reset values, but for the reset and boot registers, before ready. -/
def bar0Value (s : State) (o : Nat) : Nat :=
  if s.boot.phase = 6 then regValue s o
  else if 0xB0000 ≤ o ∧ o < 0xB0020 then regValue s o
  else regValue State.reset o

/-- Bytes of register space. -/
def regBytes (s : State) (o n : Nat) : List Byte :=
  (List.range n).map fun i => BitVec.ofNat 8 (bar0Value s ((o + i) / 8 * 8) / 2 ^ (8 * ((o + i) % 8)))

/-- HUB_REG_ERR (20/R599). -/
def setRegErr (s : State) (reason : Nat) (write : Bool) (len off : Nat) : State :=
  { s with pcie := { s.pcie with regErr := BitVec.ofNat 64 (2 ^ 63 + fld 48 8 reason + fld 47 1 (b2n write) + fld 32 10 (min len 1023) + fld 0 26 off) } }

/-- REG_READ_REFUSED: a read longer than 64 bytes, or one that crosses a 64-byte boundary, returns all ones and is
recorded (R588); a read of an allowed shape returns the registers and changes nothing. -/
def regRead (s : State) (off len : Nat) : State :=
  if s.boot.phase < 4 ∨ !s.pcie.linkUp ∨ s.pcie.d3hot then s
  else if len = 0 ∨ 64 < len ∨ off / 64 ≠ (off + len - 1) / 64 then
    emit (if s.boot.phase = 6 then setRegErr s 0x03 false len off else s) (.pcieRead (List.replicate len 0xFF#8))
  else emit s (.pcieRead (regBytes s off len))

def execRegReadRefused (off len : Nat) (s : State) : Res := .next (regRead s off len)

end Sys2Proof.Machine
end

