-- ==== Sys2Proof/Machine/Sha.lean ====
section
/-!
DEFINITION. SHA-384 and the verification of ECDSA signatures over P-384, with which firmware images and signed requests
are checked (10/R317, R320, 16/R506). The functions are those of the standards that the specification names.
-/
namespace Sys2Proof.Machine.Sha

/-- The round constants of the SHA-512 family. -/
def kTab : List W64 :=
  [0x428a2f98d728ae22#64, 0x7137449123ef65cd#64, 0xb5c0fbcfec4d3b2f#64, 0xe9b5dba58189dbbc#64,
   0x3956c25bf348b538#64, 0x59f111f1b605d019#64, 0x923f82a4af194f9b#64, 0xab1c5ed5da6d8118#64,
   0xd807aa98a3030242#64, 0x12835b0145706fbe#64, 0x243185be4ee4b28c#64, 0x550c7dc3d5ffb4e2#64,
   0x72be5d74f27b896f#64, 0x80deb1fe3b1696b1#64, 0x9bdc06a725c71235#64, 0xc19bf174cf692694#64,
   0xe49b69c19ef14ad2#64, 0xefbe4786384f25e3#64, 0x0fc19dc68b8cd5b5#64, 0x240ca1cc77ac9c65#64] ++
  [0x2de92c6f592b0275#64, 0x4a7484aa6ea6e483#64, 0x5cb0a9dcbd41fbd4#64, 0x76f988da831153b5#64,
   0x983e5152ee66dfab#64, 0xa831c66d2db43210#64, 0xb00327c898fb213f#64, 0xbf597fc7beef0ee4#64,
   0xc6e00bf33da88fc2#64, 0xd5a79147930aa725#64, 0x06ca6351e003826f#64, 0x142929670a0e6e70#64,
   0x27b70a8546d22ffc#64, 0x2e1b21385c26c926#64, 0x4d2c6dfc5ac42aed#64, 0x53380d139d95b3df#64,
   0x650a73548baf63de#64, 0x766a0abb3c77b2a8#64, 0x81c2c92e47edaee6#64, 0x92722c851482353b#64] ++
  [0xa2bfe8a14cf10364#64, 0xa81a664bbc423001#64, 0xc24b8b70d0f89791#64, 0xc76c51a30654be30#64,
   0xd192e819d6ef5218#64, 0xd69906245565a910#64, 0xf40e35855771202a#64, 0x106aa07032bbd1b8#64,
   0x19a4c116b8d2d0c8#64, 0x1e376c085141ab53#64, 0x2748774cdf8eeb99#64, 0x34b0bcb5e19b48a8#64,
   0x391c0cb3c5c95a63#64, 0x4ed8aa4ae3418acb#64, 0x5b9cca4f7763e373#64, 0x682e6ff3d6b2b8a3#64,
   0x748f82ee5defb2fc#64, 0x78a5636f43172f60#64, 0x84c87814a1f0ab72#64, 0x8cc702081a6439ec#64] ++
  [0x90befffa23631e28#64, 0xa4506cebde82bde9#64, 0xbef9a3f7b2c67915#64, 0xc67178f2e372532b#64,
   0xca273eceea26619c#64, 0xd186b8c721c0c207#64, 0xeada7dd6cde0eb1e#64, 0xf57d4f7fee6ed178#64,
   0x06f067aa72176fba#64, 0x0a637dc5a2c898a6#64, 0x113f9804bef90dae#64, 0x1b710b35131c471b#64,
   0x28db77f523047d84#64, 0x32caab7b40c72493#64, 0x3c9ebe0a15c9bebc#64, 0x431d67c49c100d4c#64,
   0x4cc5d4becb3e42b6#64, 0x597f299cfc657e2a#64, 0x5fcb6fab3ad6faec#64, 0x6c44198c4a475817#64]

/-- The initial value of SHA-384. -/
def init : List W64 :=
  [0xcbbb9d5dc1059ed8#64, 0x629a292a367cd507#64, 0x9159015a3070dd17#64, 0x152fecd8f70e5939#64, 0x67332667ffc00b31#64, 0x8eb44a8768581511#64, 0xdb0c2e0d64f98fa7#64, 0x47b5481dbefa4fa4#64]

def rotr (x : W64) (n : Nat) : W64 := x.rotateRight n
def ch (x y z : W64) : W64 := (x &&& y) ^^^ (~~~x &&& z)
def maj (x y z : W64) : W64 := (x &&& y) ^^^ (x &&& z) ^^^ (y &&& z)
def bs0 (x : W64) : W64 := rotr x 28 ^^^ rotr x 34 ^^^ rotr x 39
def bs1 (x : W64) : W64 := rotr x 14 ^^^ rotr x 18 ^^^ rotr x 41
def ss0 (x : W64) : W64 := rotr x 1 ^^^ rotr x 8 ^^^ (x >>> 7)
def ss1 (x : W64) : W64 := rotr x 19 ^^^ rotr x 61 ^^^ (x >>> 6)

/-- The number that bytes spell, most significant first. -/
def beNat (b : List Byte) : Nat := b.foldl (fun n x => n * 256 + x.toNat) 0
/-- `n` bytes of a number, most significant first. -/
def toBe (n v : Nat) : List Byte := (Word.toLe n v).reverse

/-- The message schedule: each step looks at the last sixteen words, kept latest first. -/
def schedule : Nat → List W64 → List W64 → List W64
  | 0, _, out => out.reverse
  | n + 1, w, out =>
    let x := ss1 (w.getD 1 0#64) + w.getD 6 0#64 + ss0 (w.getD 14 0#64) + w.getD 15 0#64
    schedule n (x :: w.take 15) (x :: out)

/-- One round. -/
def round (v : List W64) (kw : W64 × W64) : List W64 :=
  match v with
  | [a, b, c, d, e, f, g, h] =>
    let t1 := h + bs1 e + ch e f g + kw.1 + kw.2
    let t2 := bs0 a + maj a b c
    [t1 + t2, a, b, c, d + t1, e, f, g]
  | _ => v

/-- One block of 128 bytes. -/
def block (h : List W64) (b : List Byte) : List W64 :=
  let w := (List.range 16).map (fun i => BitVec.ofNat 64 (beNat ((b.drop (8 * i)).take 8)))
  let ws := w ++ schedule 64 w.reverse []
  List.zipWith (· + ·) h ((kTab.zip ws).foldl round h)

/-- The blocks of a padded message. -/
def blocks : Nat → List W64 → List Byte → List W64
  | 0, h, _ => h
  | n + 1, h, b => blocks n (block h (b.take 128)) (b.drop 128)

/-- SHA-384, as a 384-bit number, most significant byte first. -/
def sha384 (m : List Byte) : Nat :=
  let n := m.length
  let pad := (239 - n % 128) % 128
  let b := m ++ 0x80#8 :: List.replicate pad 0#8 ++ toBe 16 (8 * n)
  ((blocks (b.length / 128) init b).take 6).foldl (fun a x => a * 2 ^ 64 + x.toNat) 0

/-! ### P-384 -/

def p : Nat := 2 ^ 384 - 2 ^ 128 - 2 ^ 96 + 2 ^ 32 - 1
def n : Nat := 0xffffffffffffffffffffffffffffffffffffffffffffffffc7634d81f4372ddf581a0db248b0a77aecec196accc52973
def b : Nat := 0xb3312fa7e23ee7e4988e056be3f82d19181d9c6efe8141120314088f5013875ac656398d8a2ed19d2a85c8edd3ec2aef
def gx : Nat := 0xaa87ca22be8b05378eb1c71ef320ad746e1d3b628ba79b9859f741e082542a385502f25dbf55296c3a545e3872760ab7
def gy : Nat := 0x3617de4a96262c6f5d9e98bf9292dc29f8f41dbd289a147ce9da3113b5f0b8c00a60b1ce1d7e819d7a431d7c90ea0e5f

/-- `a` to the `e` modulo `m`, over `k` bits of `e` from the lowest. -/
def powMod (m : Nat) : Nat → Nat → Nat → Nat → Nat
  | 0, _, _, acc => acc
  | k + 1, a, e, acc => powMod m k (a * a % m) (e / 2) (if e % 2 = 1 then acc * a % m else acc)
def inv (m a : Nat) : Nat := powMod m 384 (a % m) (m - 2) 1
def sub (a b : Nat) : Nat := (a + p - b % p) % p

/-- A point of the curve; none is the point at infinity. -/
abbrev Pt := Option (Nat × Nat)

/-- The sum of two points. -/
def add : Pt → Pt → Pt
  | none, q => q
  | q, none => q
  | some (x, y), some (u, v) =>
    let slope (num den : Nat) : Pt :=
      let l := num * inv p den % p
      let z := sub (sub (l * l % p) x) u
      some (z, sub (l * sub x z % p) y)
    if x = u then (if (y + v) % p = 0 then none else slope ((3 * x * x + p - 3) % p) (2 * y % p))
    else slope (sub v y) (sub u x)

/-- A multiple of a point, over `k` bits of the factor from the lowest. -/
def mul : Nat → Nat → Pt → Pt → Pt
  | 0, _, _, acc => acc
  | k + 1, e, q, acc => mul k (e / 2) (add q q) (if e % 2 = 1 then add acc q else acc)

def onCurve (x y : Nat) : Bool :=
  decide (x < p) && decide (y < p) && y * y % p == (x * x * x + (p - 3) * x + b) % p

/-- The signature `sig` (r, s) over a message verifies under an uncompressed public key of 97 bytes. -/
def verify (key sig msg : List Byte) : Bool :=
  let x := beNat ((key.drop 1).take 48)
  let y := beNat ((key.drop 49).take 48)
  let r := beNat (sig.take 48)
  let s := beNat ((sig.drop 48).take 48)
  key.head? == some 0x04#8 && key.length == 97 && onCurve x y
    && decide (0 < r) && decide (r < n) && decide (0 < s) && decide (s < n) &&
    (let w := inv n s
     match add (mul 384 (sha384 msg * w % n) (some (gx, gy)) none) (mul 384 (r * w % n) (some (x, y)) none) with
     | none => false
     | some (u, _) => u % n == r)

end Sys2Proof.Machine.Sha
end

