-- ==== Sys2Proof/Machine/Boot.lean ====
section
/-!
DEFINITION. Reset and boot (chapter 16): the chip-level and power-on resets, the boot phases, the option resistor, the
boot flash and the verification of firmware images; function-level reset and the PCIe link (09/R275, R276).
-/
namespace Sys2Proof.Machine

def modBoot (s : State) (f : Boot → Boot) : State := { s with boot := f s.boot }
def modPwr (s : State) (f : Pwr → Pwr) : State := { s with pwr := f s.pwr }
def modLedger (s : State) (f : Ledger → Ledger) : State := { s with ledger := f s.ledger }

/-- Answer a management request, and hold the response for its repetition: the last 64 of each source (19/R570, R571). -/
def respond (s : State) (r : Req) (op cls reason : Nat) (body : List Byte) : State :=
  let bytes := message op r.ident (cls * 256 + reason) 1 body
  let mine := s.mgmt.held.filter (fun h => h.source == r.source)
  let keep := s.mgmt.held.filter (fun h => h.source != r.source) ++ mine.drop (mine.length - 63)
  emit (modMgmt s (fun m => { m with held := keep ++ [{ source := r.source, ident := r.ident, time := s.time.toNat, bytes }] }))
    (.mgmt r.source (some r.port) bytes)

/-! ### What a reset keeps (16/R500, R501) -/

/-- Pins keep their filtered level: it is the line's. DEDUCED: log entry 27. -/
def keepLevels (ps : List Pin) : List Pin := ({} : Events).pins.zipIdx.map (fun e => { e.1 with level := (ps.getD e.2 {}).level })

/-- What the ledger keeps over a chip-level reset; tests under way and tests that a command demanded are gone, and
counters start again. DEDUCED: log entry 27. -/
def keepLedger (l : Ledger) : Ledger :=
  { l with mode := 0, reason := 0, torn := false, mirrored := []
           units := l.units.map (fun u => (u.1, { u.2 with running := [], due := u.2.due.filter (fun d => d.2.1 != 4) })) }

/-- The phase that follows the assertion phase of a reset that arrives now. DEDUCED: log entry 27. -/
def restartPhase (b : Boot) : Nat := if b.phase = 2 ∨ (b.phase = 0 ∧ b.from_ = 2) then 2 else 1

/-- A chip-level reset (16/R500-R502): the assertion phase begins; `slot` is the capture's, when one was written. DEDUCED:
log entry 27. -/
def chipReset (s : State) (cause level : Nat) (slot : Option Nat) : State :=
  let b := s.boot
  { ({} : State) with
    pending := s.pending, out := s.out, hostMem := s.hostMem, time := s.time, freeCtr := s.freeCtr, fuses := s.fuses
    fuse := { s.fuse with nonce := none }
    ledger := keepLedger s.ledger
    events := { pins := keepLevels s.events.pins }
    fab := { stall := s.fab.stall, resets := satAdd 32 s.fab.resets 1 }
    hang := { capMem := s.hang.capMem, capSeq := s.hang.capSeq }
    mgmt := { addr := s.mgmt.addr, gw := s.mgmt.gw, isolated := s.mgmt.isolated, addressed := s.mgmt.addressed
              alert := s.mgmt.alert
              held := s.mgmt.held.filter (fun h => h.source == 0) }
    boot := { b with
      phase := 0, cause, level, held := false, arrived := b.phase, captured := slot.isSome, slot := slot.getD 0
      restarts := if b.phase = 2 then satAdd 8 b.restarts 1 else b.restarts
      from_ := restartPhase b, inputLost := false, level4 := if level = 4 then b.level4 ++ [s.time.toNat] else b.level4
      ended4 := none, svn := 0, fwReason := 0, staged := false, handover := 0, handBy := none, chunking := false } }

/-- Level-4 resets within the last hour. -/
def recentLevel4 (s : State) : Nat := (s.boot.level4.filter (fun t => decide (s.time.toNat < t + 360000000000))).length

/-- The power-cycle request line is driven, with level 5 in HUB_RST_CAUSE (15/R474, R475, 19/R578). -/
def requestPower (s : State) (cause : Nat) : State := modBoot s (fun b => { b with pwrCyc := true, cause, level := 5 })

/-- A level-4 reset; the third within one hour also requests a power cycle (15/R475), except from recovery (16/R507). -/
def levelFour (s : State) (cause : Nat) (slot : Option Nat) : State :=
  let recovery := s.boot.phase == 7
  let s := chipReset s cause 4 slot
  if 3 ≤ recentLevel4 s && !recovery && !s.boot.pwrCyc then requestPower s 0xC7 else s

/-- What flash that cannot be programmed loses with power (08/R269): the records and totals kept in steward memory. -/
def ledgerPowerLoss (l : Ledger) : Ledger :=
  match l.saved with
  | some (units, seq) => { l with records := l.records.take (l.records.length - l.buffered), buffered := 0, units, seq, saved := none }
  | none => { l with buffered := 0 }

/-- A power-on reset (16/R491, R501): fuses, ledger flash and boot flash are kept, and the outside. -/
def powerOn (s : State) : State :=
  { ({} : State) with
    pending := s.pending, out := s.out, hostMem := s.hostMem, freeCtr := s.freeCtr, fuses := s.fuses
    ledger := { keepLedger (ledgerPowerLoss s.ledger) with
      bank := 0, charge := 0, faultSeen := false, fresh := true, past := poweredTicks s }
    events := { pins := keepLevels s.events.pins }
    boot := { dir0 := s.boot.dir0, dir1 := s.boot.dir1, bankA := s.boot.bankA, bankBB := s.boot.bankBB } }

/-- POWER_ON. -/
def execPowerOn (s : State) : Res := .next (powerOn s)

/-- The reset controller has power and no trip holds the module off (18/R556). -/
def powered (s : State) : Bool := !s.boot.off && !s.boot.tripped

/-- RESET_N_ASSERTED by an outside agent. -/
def execResetNAsserted (s : State) : Res := .next (if powered s then levelFour s 0xC1 none else s)

/-- ASSERTION_END: `held` says that an outside agent held RESET_N beyond the 20 µs (16/R492). The root PLL has locked
to the reference. -/
def assertionEnd (s : State) (held : Bool) : State :=
  if s.boot.phase = 0 && powered s then
    let s := modBoot s (fun b => { b with phase := b.from_, held, ended4 := if b.level = 4 then some s.time.toNat else none })
    modPwr s (fun p => { p with refOk := true, lockA := true })
  else s

def execAssertionEnd (held : Bool) (s : State) : Res := .next (assertionEnd s held)

/-! ### Fuse sense (10/R313-R319) -/

/-- A hash as 48 bytes, most significant first. -/
def hashBytes (k : Nat) : List Byte := Sha.toBe 48 k

/-- The provisioning image without its image check (19/R579), from the fuses. -/
def provBytes (f : Fuses) : List Byte :=
  f.keys.flatMap hashBytes ++ Word.toLe 1 f.templates ++ Word.toLe 1 f.debug ++ [0#8, 0#8] ++ Word.toLe 4 f.t6 ++ Word.toLe 4 f.t7

/-- The image check over the provisioning fields (10/R314). -/
def provCheck (f : Fuses) : Nat := (Crc.crc64 (provBytes f)).toNat % 2 ^ 32

/-- HUB_FUSE_STATE.PROV of the fuses (10/R315, R316, R318). DEDUCED: log entry 26. -/
def provOf (f : Fuses) : Nat :=
  if f.lifecycle = 0 then (if (provBytes f).all (fun b => b == 0#8) ∧ f.imageCheck = 0 then 0 else 2)
  else if f.lifecycle = 1 ∧ provCheck f ≠ f.imageCheck then 3
  else 1

/-- FUSE_SENSE. -/
def fuseSense (s : State) : State :=
  if s.boot.phase = 1 then
    modBoot { s with fuse := { s.fuse with sensed := true, f := s.fuses, prov := provOf s.fuses } } (fun b => { b with phase := 2 })
  else s

def execFuseSense (s : State) : Res := .next (fuseSense s)

/-! ### Option loading (16/R495-R497) -/

/-- The CFGSEL code of a 10-bit reading: round(15 r). DEDUCED: log entry 26. -/
def cfgCode (raw : Nat) : Nat := min 15 ((30 * raw + 1023) / 2046)

/-- Insert into a list that rises. -/
def sortIn (x : Nat) : List Nat → List Nat
  | [] => [x]
  | y :: t => if x ≤ y then x :: y :: t else y :: sortIn x t

/-- The median of 16 samples: the eighth in rising order. DEDUCED: log entry 26. -/
def medianOf (xs : List Nat) : Nat := (xs.foldr sortIn []).getD 7 0

/-- OPTION_LOADING with the 16 converter samples. -/
def optionLoading (s : State) (samples : List Nat) : State :=
  if s.boot.phase = 2 ∧ samples.length = 16 then
    let xs := samples.map (· % 1024)
    let raw := medianOf xs
    let code := cfgCode raw
    let single := Word.bitOf code 2
    let s := modBoot s fun b =>
      { b with phase := 3, raw, code, unstable := xs.any (fun x => cfgCode x != code), denied := false, template := 0
               single, bankB := Word.bitOf code 1, laneRev := Word.bitOf code 0 }
    { s with mgmt := { s.mgmt with port1 := if single then 3 else if s.mgmt.port1 = 3 then 0 else s.mgmt.port1 } }
  else s

def execOptionLoading (samples : List Nat) (s : State) : Res := .next (optionLoading s samples)

/-! ### The boot flash (16/R503-R505) -/

/-- A directory copy (16/R504). -/
structure FlashDir where
  active : Nat := 0
  tries : Nat := 0
  seq : Nat := 0
  verA : Nat := 0
  verB : Nat := 0
  banks : Nat := 0
deriving DecidableEq, Repr

/-- The 64 bytes of a copy. -/
def dirBytes (d : FlashDir) : List Byte :=
  let b := Word.toLe 4 0x52445A4D ++ Word.toLe 2 1 ++ Word.toLe 1 d.active ++ Word.toLe 1 d.tries ++ Word.toLe 8 d.seq
    ++ Word.toLe 8 d.verA ++ Word.toLe 8 d.verB ++ Word.toLe 1 d.banks ++ List.replicate 27 0#8
  b ++ Word.toLe 4 ((Crc.crc64 b).toNat % 2 ^ 32)

/-- A copy that is valid: SIGNATURE, VERSION and RCHECK agree. -/
def flashDirOf (b : List Byte) : Option FlashDir :=
  if leAt b 0 4 = 0x52445A4D ∧ leAt b 4 2 = 1 ∧ leAt b 0x3C 4 = (Crc.crc64 (b.take 0x3C)).toNat % 2 ^ 32 then
    some { active := leAt b 6 1 % 2, tries := leAt b 7 1, seq := leAt b 8 8, verA := leAt b 0x10 8, verB := leAt b 0x18 8
           banks := leAt b 0x20 1 }
  else none

/-- The newest valid copy and its number. DESIGN CHOICE: log entry 7. -/
def newestDir (b : Boot) : Option (FlashDir × Nat) :=
  match flashDirOf b.dir0, flashDirOf b.dir1 with
  | some x, some y => if x.seq < y.seq then some (y, 1) else some (x, 0)
  | some x, none => some (x, 0)
  | none, some y => some (y, 1)
  | none, none => none

/-- The directory in force; an empty one when no copy is valid. DESIGN CHOICE: log entry 7. -/
def flashDir (s : State) : FlashDir := match newestDir s.boot with | some (d, _) => d | none => {}

/-- Update the directory: the other copy is written with SEQ + 1. -/
def updateDir (s : State) (f : FlashDir → FlashDir) : State :=
  let d := f (flashDir s)
  let bytes := dirBytes { d with seq := ((flashDir s).seq + 1) % 2 ^ 64 }
  match newestDir s.boot with
  | some (_, 0) => modBoot s (fun b => { b with dir1 := bytes })
  | _ => modBoot s (fun b => { b with dir0 := bytes })

/-- The cells of a bank; bytes of a bank: an unlisted byte is erased, 0xFF. -/
def bankCells (s : State) (bank : Nat) : List Host.Cell := if bank = 0 then s.boot.bankA else s.boot.bankBB
def setBank (s : State) (bank : Nat) (c : List Host.Cell) : State :=
  if bank = 0 then modBoot s (fun b => { b with bankA := c }) else modBoot s (fun b => { b with bankBB := c })
def bankBytes (s : State) (bank off n : Nat) : List Byte := (readBytes (bankCells s bank) off n).map (fun b => ~~~b)
/-- Program bytes into a bank: bits only fall from 1 to 0 in an erased bank. -/
def programBank (s : State) (bank off : Nat) (bs : List Byte) : State :=
  setBank s bank (writeBytes (bankCells s bank) off (bs.map (fun b => ~~~b)))
def eraseBank (s : State) (bank : Nat) : State := setBank s bank []

/-- 32 MiB less the header. -/
def maxBody : Nat := 2 ^ 25 - 512
def imgSvn (h : List Byte) : Nat := leAt h 0x10 4
def imgVersion (h : List Byte) : Nat := leAt h 8 8

/-- The image that a bank holds: header and body. -/
def bankImage (s : State) (bank : Nat) : List Byte :=
  let h := bankBytes s bank 0 512
  h ++ bankBytes s bank 512 (min (leAt h 0x14 4) maxBody)

/-- Bytes are zero. -/
def zeroAt (b : List Byte) (off n : Nat) : Bool := ((b.drop off).take n).all (fun x => x == 0#8)

/-- A public key hash that the lifecycle state trusts (10/R313, R316). PRESUMED: log entry 38. -/
def trustedKey (s : State) (h : Nat) : Bool :=
  if lifecycle s = 1 ∧ s.fuse.prov ≠ 3 then
    s.fuse.f.keys.zipIdx.any (fun e => e.1 != 0 && !Word.bitOf s.fuse.f.keyRevoked e.2 && e.1 == h)
  else s.fuse.f.vendorKey == h

/-- An image verifies (16/R505, R506). PRESUMED: log entry 38. -/
def verifyImage (s : State) (b : List Byte) : Bool :=
  let n := leAt b 0x14 4
  let key := (b.drop 0x100).take 97
  leAt b 0 4 == 0x57465A4D && leAt b 4 2 == 1 && leAt b 6 2 == 0x200 && decide (imgSvn b ≤ 128) && decide (n ≤ maxBody)
    && zeroAt b 0x50 176 && zeroAt b 0x161 31 && zeroAt b 0x1E0 32 && decide (512 + n ≤ b.length)
    && trustedKey s (Sha.sha384 key) && decide (s.fuse.f.svn ≤ imgSvn b)
    && Sha.verify key ((b.drop 0x180).take 96) (b.take 0x180)
    && Sha.beNat ((b.drop 0x20).take 48) == Sha.sha384 ((b.drop 512).take n)

/-! ### BOOT_ROM (16/R506-R508) -/

/-- Start the firmware of a bank that verified: the directory is written, and the phase is 4. -/
def startBank (s : State) (b : Nat) (fallback : Bool) (reason : Nat) : State :=
  let h := bankBytes s b 0 512
  let tries := match newestDir s.boot with
    | some (d, _) => if b = d.active then min 3 (d.tries + 1) else 1
    | none => 1
  let known := (newestDir s.boot).isSome
  let s := updateDir s fun d =>
    if known then { d with active := b, tries }
    else { d with active := b, tries, banks := 2 ^ b, verA := if b = 0 then imgVersion h else 0, verB := if b = 1 then imgVersion h else 0 }
  modBoot s (fun x => { x with phase := 4, bank := b, tries, fallback, romReason := reason, svn := imgSvn h })

/-- BOOT_ROM: choose and verify a bank, or enter recovery. -/
def bootRom (s : State) : State :=
  if s.boot.phase ≠ 3 then s
  else
    let d := (newestDir s.boot).map (·.1)
    let pref := match d with | some d => d.active | none => Word.b2n s.boot.bankB
    let swap := match d with | some d => decide (3 ≤ d.tries) && Word.bitOf d.banks (1 - pref) | none => false
    let first := if swap then 1 - pref else pref
    if verifyImage s (bankImage s first) then startBank s first swap 0
    else if verifyImage s (bankImage s (1 - first)) then startBank s (1 - first) true 0xC9
    else setAlert (modBoot s (fun b => { b with phase := 7, romReason := 0xCA, fallback := swap, tries := 0 })) 5

def execBootRom (s : State) : Res := .next (bootRom s)

/-! ### The repair map (01/R27-R32, 03/R94) -/

/-- The sites of a die that the fuses class as active, ascending. -/
def activeSites (s : State) (die : Nat) : List Nat := (List.range 136).filter (fun i => siteClass s die i == 0)

/-- The map of the fuses: the factory binding with the factory repairs. -/
def factoryMap (s : State) : Tab MapEntry :=
  let m := (List.range 8).flatMap fun d => ((activeSites s d).take (activeCores s)).zipIdx.map fun e =>
    (d * 128 + e.2, ({ avail := true, site := e.1 } : MapEntry))
  s.fuse.f.repairs.foldl (fun m r => tmod {} m (r.1 * 128 + r.2.1) (fun e => if e.avail then { e with site := r.2.2 } else e)) m

/-- Apply one field repair record; `ret` are the sites retired so far, as (die, site). An ignored one is logged. -/
def applyRepair (x : State × List (Nat × Nat)) (r : LedgerRec) : State × List (Nat × Nat) :=
  let (s, ret) := x
  let die := leAt r.data 0 1
  let core := die * 128 + leAt r.data 1 1
  let old := leAt r.data 2 1
  let new := leAt r.data 3 1
  let e := mapEntry s core
  let bad := new != 0xFF && (siteClass s die new == 2 || (coreOfSite s die new).isSome || ret.contains (die, new))
  if !(e.avail && e.site == old) || bad then (logRec s 0x32 0 r.unit r.data, ret)
  else
    let ret := (die, old) :: ret
    let s := modUnit s (siteUnit die old) (fun u => { u with standing := 2 })
    let set (e : MapEntry) : State := { s with coreMap := tset {} s.coreMap core { e with source := 1, repairs := min 255 (e.repairs + 1) } }
    if new ≠ 0xFF then (set { e with site := new }, ret)
    else match (List.range 136).find? (fun i => siteFree s die i && siteClass s die i == 1 && !ret.contains (die, i) && i != old) with
      | some i => (set { e with site := i }, ret)
      | none => (set { e with avail := false }, ret)

/-- The ledger records that the flash gives back at boot (08/R269). -/
def flashRecords (s : State) : List LedgerRec :=
  if s.ledger.saved.isSome then s.ledger.records.take (s.ledger.records.length - s.ledger.buffered) else s.ledger.records

/-- Build the core-site map (01/R28). -/
def buildMap (s : State) : State :=
  let recs := (flashRecords s).filter (fun r => r.kind == 0x31)
  let s := (recs.foldl applyRepair ({ s with coreMap := factoryMap s }, [])).1
  { s with coreMap := s.coreMap.map (fun e => if siteClass s (e.1 / 128) e.2.site = 2 then (e.1, { e.2 with avail := false }) else e) }

/-- Retest one fenced unit with the test it failed (08/R258). DEDUCED: log entry 26. -/
def retest (s : State) (t : Retest) : State :=
  let r := getUnit s t.unit
  match r.fenced, r.failed.getLast? with
  | true, some (test, _) =>
    let s := logRec s 0x20 (if t.fails then 0xE6 else 0) t.unit (testData test (Word.b2n t.fails) 3 t.dur t.detail)
    if t.fails then
      let boot := s.ledger.boot
      let s := modUnit s t.unit (fun r => { r with testFail := satAdd 32 r.testFail 1, lastFailBoot := boot, failed := r.failed ++ [(test, boot)] })
      setStanding (raiseUnit s 0xE6 noCtx t.unit test (unitDie t.unit)) t.unit 2 true
    else setStanding (modUnit s t.unit (fun r => { r with testPass := satAdd 32 r.testPass 1 })) t.unit 1 false
  | _, _ => s

/-- A core that is bound to a retired or fenced site: repaired, or moved to a spare while the fence lasts (08/R258, R30). -/
def bootCore (s : State) (core : Nat) : State :=
  let e := mapEntry s core
  let r := getUnit s (siteUnit (core / 128) e.site)
  if !e.avail then s
  else if r.standing = 2 then repairCore s core
  else if r.fenced then
    match spareSite s (core / 128) with
    | some n => { s with coreMap := tset {} s.coreMap core { e with site := n, source := 2 } }
    | none => { s with coreMap := tset {} s.coreMap core { e with avail := false } }
  else s

/-- The processor in use: 0, or 1 when 0 is retired or fenced (01/R27). -/
def bootProc (s : State) (die : Nat) : Nat :=
  let r := getUnit s (unitW (if die = 8 then 3 else 2) die 0 0)
  if r.standing = 2 ∨ r.fenced then 1 else 0

/-! ### FIRMWARE_PHASE (16/R498, R499, 08/R260-R269) -/

/-- Version of the image in a bank, as its header has it. -/
def bankVersion (s : State) (bank : Nat) : Nat := imgVersion (bankBytes s bank 0 512)

/-- Mount the ledger: the write buffer is programmed, and a torn last record is discarded (08/R266). -/
def mountLedger (s : State) (torn : Bool) : State :=
  let s := modLedger s fun l =>
    { l with mode := if l.saved.isSome then 3 else if l.bank = 2 then 1 else 2
             buffered := if l.saved.isSome then l.buffered else 0
             records := if torn then l.records.dropLast else l.records
             torn, reason := if torn then 0xF7 else l.reason }
  if torn then raiseUnit s 0xF7 noCtx (unitW 0x0C 8 0 0) 0 else s

/-- The boot record and the reset-cause record (08/R263, 16/R502, 18/R558). -/
def bootRecords (s : State) : State :=
  let prev := s.ledger.boot
  let s := if s.ledger.fresh then modLedger s (fun l => { l with boot := l.boot + 1, fresh := false }) else s
  let s := logRec s 1 0 (unitW 0x0C 8 0 0) (ldata (Word.toLe 4 prev ++ Word.toLe 8 (bankVersion s s.boot.bank)))
  logRec s 2 (if s.boot.inputLost then 0xA3 else 0) (unitW 0x0C 8 0 0) (ldata (Word.toLe 4 (rstCauseW s)))

/-- The RO fields of the routes and the configuration of rings 0 to 8, which the firmware brings (17/R523, R537). DEDUCED:
log entry 25. -/
def loadEvents (s : State) (routes : List (Nat × W64)) (rings : List W64) : State :=
  let ro : W64 := BitVec.ofNat 64 (0x1F * 2 ^ 48 + 0x1F * 2 ^ 40)
  let set (t : Tab W64) (e : Nat × W64) : Tab W64 :=
    if e.1 = 0 ∨ 256 ≤ e.1 then t else tmod 0x8800000000000000#64 t e.1 (fun v => (v &&& ~~~ro) ||| (e.2 &&& ro))
  let s := { s with events := { s.events with routes := routes.foldl set s.events.routes } }
  rings.zipIdx.foldl (fun s e => if e.2 < 9 then modRing s e.2 (fun r => { r with cfg := e.1 &&& ringMask }) else s) s

/-- The default boot template (16/R498). -/
def chooseTemplate (s : State) : State :=
  if !Word.bitOf s.boot.code 3 then modBoot s (fun b => { b with template := 0 })
  else if templAllowed s 1 then modBoot s (fun b => { b with template := 1 })
  else raiseUnit (modBoot s (fun b => { b with template := 0, denied := true })) 0xCB noCtx (unitW 0x0C 8 0 0) 1

/-- Lanes and ports that the ledger holds retired stay so (11/R355); firmware sets ENABLE of every port of the grade. -/
def bootPorts (s : State) : State :=
  (List.range 48).foldl (fun s p =>
    if portOff s p then s
    else
      let gone := (List.range 9).filter (fun l => (getUnit s (portLaneUnit p l)).standing == 2)
      let out := (getUnit s (portUnit p)).standing == 2
      let s := modPort s p (fun x => { x with retired := (gone.map (2 ^ ·)).sum, state := if out then 4 else x.state
                                              reason := if out then 0x6B else x.reason })
      portEnable s p (rset 0#64 63 63 1)) s

/-- FIRMWARE_PHASE. -/
def firmwarePhase (s : State) (torn : Bool) (routes : List (Nat × W64)) (rings : List W64) (tests : List Retest) : State :=
  if s.boot.phase ≠ 4 then s
  else
    let s := loadEvents s routes rings
    let s := bootRecords (mountLedger s torn)
    let s := if s.ledger.bank = 0 ∨ s.ledger.bank = 3 then
        raiseUnit (modLedger s (fun l => { l with reason := 0xF6 })) 0xF6 noCtx (unitW 0x0B 8 0 0) 0 none true else s
    let s := if s.fuse.prov = 3 then raiseUnit s 0xFF noCtx (unitW 0x0C 8 0 0) 0 else s
    let s := tests.foldl retest (buildMap s)
    let s := (List.range 1024).foldl bootCore s
    let s := { s with cpActive := (List.range 9).foldl (fun t d => tset 0 t d (bootProc s d)) [] }
    let s := bootPorts (chooseTemplate s)
    modBoot s (fun b => { b with phase := 5 })

def execFirmwarePhase (torn : Bool) (routes : List (Nat × W64)) (rings : List W64) (tests : List Retest) (s : State) : Res :=
  .next (firmwarePhase s torn routes rings tests)

/-! ### PHY_TRAINING (07/R216, R217, 11/R354) -/

/-- The spare lanes of a channel. -/
def chanSpares (ch : Nat) : Nat := if ch < 512 then 4 else 1

/-- Train one channel: `bad` are the lanes that failed the eye check, `spares` the spare lanes that passed it; `ok` is
false when its training failed twice. -/
def trainChan (s : State) (t : ChanTrain) : State :=
  let u := chanUnit t.chan
  let spares := min t.spares (chanSpares t.chan)
  if t.ok && decide (t.bad.length ≤ spares) && (getUnit s u).standing != 2 then
    let s := t.bad.foldl (fun s l => if (getUnit s (laneUnit t.chan l)).standing = 2 then s
      else logLane (modUnit s (laneUnit t.chan l) (fun r => { r with standing := 2 })) (laneUnit t.chan l) 0 2 false) s
    modChan s t.chan (fun c => { c with state := 1, lastTrain := if t.bad = [] then 1 else 2
                                        sparesUsed := t.bad.length, sparesLeft := spares - t.bad.length })
  else logRec (modChan s t.chan (fun c => { c with state := 4, lastTrain := 3 })) 0x11 0x4D u (ldata [])

/-- One port's training as observed (11/R354). -/
def trainPort (s : State) (t : PortTrain) : State := portTrainingDone s t.port t.answered t.failed t.lanes

/-- PHY_TRAINING: a channel that is not listed trains with every lane good. -/
def phyTraining (s : State) (chans : List ChanTrain) (ports : List PortTrain) : State :=
  if s.boot.phase = 5 ∧ (getChan s 0).state = 0 then
    let s := (List.range 640).foldl (fun s ch =>
      trainChan s ((chans.find? (fun t => t.chan == ch)).getD { chan := ch, spares := chanSpares ch })) s
    ports.foldl trainPort s
  else s

def execPhyTraining (chans : List ChanTrain) (ports : List PortTrain) (s : State) : Res := .next (phyTraining s chans ports)

/-! ### READY (16/R498, R499, R508) -/

/-- The default partitions, every instance of the template in ascending order. -/
def defaultParts (s : State) : State :=
  if s.fuse.prov = 3 then s
  else (List.range 8).foldl (fun s i =>
    match instDies s s.boot.template i with
    | [] => s
    | p :: t => makePart s s.boot.template i p (p :: t)) s

/-- READY. -/
def ready (s : State) : State :=
  if s.boot.phase = 5 ∧ (getChan s 0).state ≠ 0 then
    let s := updateDir (modBoot s (fun b => { b with phase := 6, ended4 := none })) (fun d => { d with tries := 0 })
    lowPins (defaultParts s)
  else s

def execReady (s : State) : Res := .next (ready s)

/-! ### Function-level reset and the PCIe link (09/R275, R276, 16/R494) -/

/-- The effects of a function-level reset: every command is aborted with 0x0C and leaves no record, every queue is
disabled, every context is torn down, and the registers of the PCIe block, the queues and the windows are reset. -/
def flrEffects (s : State) : State :=
  let s := s.ctxs.foldl (fun s c => beginTeardown s c.1 0x0C none) s
  let s := (s.cmds.filter (fun c => c.phase != 2)).foldl (endHeld 0x0C) s
  let s := (s.launches.map (·.1)).foldl (fun s l => launchComplete s l [] []) s
  let s : State := { s with ctxs := s.ctxs.map (fun (c : Nat × Ctx) => (c.1, { c.2 with destroyCmd := none })) }
  { s with cmds := [], queues := [], rrQueue := 0, rrLeft := 0, backpressure := false, pcie := { linkUp := s.pcie.linkUp } }

/-- The PCIe port answers: option loading has ended (16/R499). -/
def portAlive (s : State) : Bool := decide (3 ≤ s.boot.phase) && powered s

/-- FUNCTION_LEVEL_RESET. -/
def execFunctionLevelReset (s : State) : Res := .next (if 4 ≤ s.boot.phase && powered s then flrEffects s else s)

/-- PERST: as a function-level reset, and the link retrains. -/
def execPerst (s : State) : Res :=
  .next (if portAlive s then { flrEffects s with pcie := { linkUp := false } } else s)

/-- PCIE_LINK_DOWN and PCIE_LINK_UP (09/R276). -/
def execPcieLinkDown (s : State) : Res := .next { s with pcie := { s.pcie with linkUp := false } }
def execPcieLinkUp (s : State) : Res := .next (if portAlive s then { s with pcie := { s.pcie with linkUp := true } } else s)

/-- PCIE_READ_ERROR: of a packet fetch of queue `q`, or of the host data of a command. -/
def pcieReadError (s : State) (q : Nat) (slot : Option Nat) : State :=
  match slot with
  | none =>
    let x := getQueue s q
    if qEnabled x && qSubmits q x && x.state == 1 && x.head != x.tail then
      modQueue s q (fun x => { x with state := 2, reason := 0x08, failAt := s.cmdOrd })
    else s
  | some n =>
    match findCmd s n with
    | some c => if c.phase = 1 ∧ (Pkt.opcode c.packet = 0x0101 ∨ Pkt.opcode c.packet = 0x0604) then endCmd s n { cls := 3, reason := 0x0D }
                else s
    | none => s

def execPcieReadError (q : Nat) (slot : Option Nat) (s : State) : Res := .next (pcieReadError s q slot)

end Sys2Proof.Machine
end

