-- ==== Sys2Proof/Machine/Capture.lean ====
section
/-!
DEFINITION. State capture (15/R469-R473): the sections of a capture and the slots of capture memory.
-/
namespace Sys2Proof.Machine

/-- What a capture covers: one context, one partition, or the module. -/
inductive Scope where
  | ctx (n : Nat)
  | part (p : Nat)
  | all
deriving DecidableEq, Repr

/-- A context is covered. -/
def Scope.covers (x : Scope) (s : State) (ctx : Nat) : Bool :=
  match x with
  | .ctx n => n == ctx
  | .part p => (getCtx s ctx).live && (getCtx s ctx).part == p
  | .all => true

/-- A queue is covered. -/
def Scope.coversQueue (x : Scope) (s : State) (q : Nat) : Bool :=
  x == .all || (qSubmits q (getQueue s q) && (match queueCtx s q with | some c => x.covers s c | none => false))

/-- One section: kind, entries, and whether some did not fit. -/
structure Section where
  kind : Nat
  count : Nat
  bytes : List Byte
  cut : Bool := false

/-- A section of entries of one size, up to its limit. -/
def sectionOf (kind limit : Nat) (xs : List (List Byte)) : Section :=
  { kind, count := min limit xs.length, bytes := (xs.take limit).flatten, cut := decide (limit < xs.length) }

/-- Section 2: an enabled queue. -/
def captureQueue (s : State) (q : Nat) : List Byte :=
  Word.toLe 8 q ++ Word.toLe 8 (getQueue s q).base.toNat ++ Word.toLe 8 (qCfgW s q).toNat ++ Word.toLe 8 (qStatusW s q)
    ++ List.replicate 32 0#8 ++ (match queueCmds s q with | c :: _ => c.packet | [] => List.replicate 64 0#8)

/-- Section 3: a command-table entry. -/
def captureCmd (c : Cmd) : List Byte :=
  Word.toLe 2 c.queue ++ Word.toLe 1 (if c.phase = 0 then 0 else 1) ++ List.replicate 5 0#8 ++ c.packet.drop 8

/-- Section 4: the tallies of the covered contexts, or all of the module's. -/
def captureTallies (s : State) (x : Scope) : List Nat :=
  if x = .all then List.range 65536
  else (s.ctxs.filter (fun c => c.2.live && x.covers s c.1)).flatMap (fun c => List.range' c.2.tallyFirst (c.2.tallyCount + 1))

/-- The words of a core block from an offset on. -/
def coreWords (s : State) (c o n : Nat) : List Byte :=
  (List.range n).flatMap (fun i => Word.toLe 8 (match coreReg s c (o + 8 * i) with | some v => v.1 | none => 0))

/-- The cores bound to covered running launches, ascending. -/
def captureCores (s : State) (x : Scope) : List Nat :=
  ((s.launches.filter (fun l => l.2.running && x.covers s l.2.ctx)).flatMap (fun l => l.2.cores)).foldl ninsert []

/-- Section 5: a core. -/
def captureCore (s : State) (c : Nat) : List Byte :=
  Word.toLe 8 c ++ coreWords s c 0 32 ++ List.replicate 248 0#8 ++ coreWords s c 0x400 64

/-- Section 6: a group. -/
def captureGroup (s : State) (g : Nat) : List Byte :=
  (List.range 4).flatMap (fun i => Word.toLe 8 (match groupReg s g (8 * i) with | some v => v.1 | none => 0))

/-- Section 7: a core's Vector registers and the crates at the EMPTY slots of its defined bins (R473). DEDUCED: log entry
30. -/
def capturePayload (s : State) (c : Nat) : List Byte :=
  let x := getCore s c
  x.vregs.flatMap (fun v => v.lanes.flatMap (fun f => Word.toLe 4 f.toNat)) ++
    x.bins.flatMap (fun b =>
      let k := slotCrate c b b.emptySlot 0
      Tag.bytes (crateTag s.mem k) ++ crateBytes s.mem k)

/-- Queues in ascending order. -/
def capturedQueues (s : State) (x : Scope) : List Nat :=
  (s.queues.filter (fun e => qEnabled e.2 && x.coversQueue s e.1)).map (·.1)

/-- Sections 1 to 6. `hung` are the entries of a hung set; a capture that is not of a hang has no section 1. DEDUCED: log
entry 30. -/
def stateSections (s : State) (x : Scope) (hung : List (List Byte)) : List Section :=
  let qs := (s.cmds.map (·.queue)).foldl ninsert []
  (if hung = [] then [] else [sectionOf 1 4096 hung]) ++
    [sectionOf 2 2048 ((capturedQueues s x).map (captureQueue s)),
     sectionOf 3 4096 (((qs.filter (fun q => x.coversQueue s q)).flatMap (queueCmds s)).map captureCmd),
     sectionOf 4 65536 ((captureTallies s x).map (fun t => Word.toLe 8 (tallyVal s t))),
     sectionOf 5 1024 ((captureCores s x).map (captureCore s)),
     sectionOf 6 1024 ((s.groups.filter (fun g => grpEnabled g.2 && x.covers s (grpCtx g.2))).map (fun g => captureGroup s g.1))]

def roundUp64 (n : Nat) : Nat := (n + 63) / 64 * 64

/-- Lay sections out one after another from an offset: descriptors and bytes. -/
def laySections : Nat → List Section → List Byte × List Byte
  | _, [] => ([], [])
  | off, x :: t =>
    let n := x.bytes.length
    let pad := roundUp64 n - n
    let (ds, bs) := laySections (off + n + pad) t
    (Word.toLe 2 x.kind ++ Word.toLe 2 0 ++ Word.toLe 4 x.count ++ Word.toLe 4 off ++ Word.toLe 4 n ++ ds,
      x.bytes ++ List.replicate pad 0#8 ++ bs)

/-- Bytes of a slot (R470). -/
def slotSize : Nat := 2 ^ 22

/-- The bytes of a capture (R471). -/
def captureBytes (s : State) (level cause : Nat) (unit : W64) (ctx part gen : Nat) (x : Scope) (hung : List (List Byte)) : List Byte :=
  let secs := stateSections s x hung
  let pay := debugAllowed s 0
  let k := secs.length + (if pay then 1 else 0)
  let start := roundUp64 (0x40 + 16 * k)
  let used := start + (secs.map (fun y => roundUp64 y.bytes.length)).sum
  let cores := captureCores s x
  let body := cores.flatMap (capturePayload s)
  let room := slotSize - used
  let secs := if pay then secs ++ [{ kind := 7, count := cores.length, bytes := body.take room, cut := decide (room < body.length) }] else secs
  let (ds, bs) := laySections start secs
  let cut := secs.any (·.cut)
  let flags := (if pay then 2 else 0) + (if cut then 4 else 0)
  Word.toLe 4 0x43505A4D ++ Word.toLe 2 1 ++ Word.toLe 1 level ++ Word.toLe 1 cause ++ Word.toLe 8 (s.hang.capSeq + 1)
    ++ Word.toLe 8 s.time.toNat ++ Word.toLe 8 unit.toNat ++ Word.toLe 1 ctx ++ Word.toLe 1 part ++ Word.toLe 2 gen
    ++ Word.toLe 4 flags ++ Word.toLe 4 (start + bs.length) ++ Word.toLe 4 secs.length ++ List.replicate 16 0#8
    ++ ds ++ List.replicate (start - (0x40 + 16 * k)) 0#8 ++ bs

/-- Take a capture into the slot written least recently; the slot's number (R470). DEDUCED: log entry 30. -/
def takeCapture (s : State) (level cause : Nat) (unit : W64) (ctx part gen : Nat) (x : Scope) (hung : List (List Byte)) : State × Nat :=
  let slot := s.hang.capSeq % 8
  let base := slot * slotSize
  let bytes := captureBytes s level cause unit ctx part gen x hung
  let old := s.hang.capMem.filter (fun c => decide (c.1 < base) || decide (base + slotSize ≤ c.1))
  ({ s with hang := { s.hang with capSeq := s.hang.capSeq + 1, capMem := writeBytes old base bytes } }, slot)

/-- CAPTURE_READ (09/R296, 15/R470): a slot's bytes in use are copied to the host; reading changes nothing. -/
def captureRead (s : State) (slot : Nat) : State :=
  match begun s slot 0x0706 with
  | none => s
  | some c =>
    let base := Pkt.p1 c.packet % 8 * slotSize
    let n := min slotSize (leAt (readBytes s.hang.capMem base 64) 0x28 4)
    endCmd (hostWrite s (Pkt.p0 c.packet) (readBytes s.hang.capMem base n)) slot { result := n }

def execCaptureRead (slot : Nat) (s : State) : Res := .next (captureRead s slot)

end Sys2Proof.Machine
end

