-- ==== Sys2Proof/Machine/Hang.lean ====
section
/-!
DEFINITION. The hang detector and the escalation ladder (chapter 15).
-/
namespace Sys2Proof.Machine

def modHang (s : State) (f : Hang → Hang) : State := { s with hang := f s.hang }

/-! ### Waiters (15/R463-R465) -/

/-- The enabled waits of a command whose tallies are below their targets. -/
def openWaits (s : State) (c : Cmd) : List (Nat × Nat) :=
  ([0, 1].filter (fun i => Pkt.waitEn c.packet i && decide (tallyVal s (Pkt.waitTally c.packet i) < Pkt.waitTarget c.packet i))).map
    (fun i => (Pkt.waitTally c.packet i, Pkt.waitTarget c.packet i))

/-- The next command of a queue to begin. -/
def nextCmd (s : State) (q : Nat) : Option Cmd := (queueCmds s q).find? (fun c => c.phase == 0)

/-- A station that is held at a FENCE, an SWAIT, a DRAIN SSIGNAL or a marked bin wait. -/
def waitingHold (h : Hold) : Bool := match h with | .wait => true | .fence _ _ => true | .tally => true | .drain => true | _ => false

/-- Every station of a running launch has ended or is held, and at least one is held. DEDUCED: log entry 29. -/
def launchWaits (s : State) (l : Launch) : Bool :=
  let sts := l.cores.flatMap (fun c => (getCore s c).stations)
  l.running && l.stopped.isNone && sts.all (fun x => x.ended || waitingHold x.hold) && sts.any (fun x => waitingHold x.hold)

/-- A member that the collective awaits and that has not begun it: nothing of it has come (12/R414). -/
def awaitsBeginner (x : Group) (r : CollRun) : Bool :=
  let begun (o : Nat) : Bool := x.grants.any (fun g => g.count == r.count && g.ordinal == o) || r.contribs.any (fun c => c.stage != 4 && c.ordinal == o)
  (List.range r.chunks).any fun k => r.stages.any fun st =>
    (r.senders st k ++ r.receivers st k).any (fun o => o != r.ordinal && !begun o)

/-- The waiters of a context. DEDUCED: log entry 29. -/
def waitersOf (s : State) (ctx : Nat) : List Waiter :=
  let qs := s.queues.filterMap fun e =>
    if 2 ≤ e.1 && e.1 < 15360 && qEnabled e.2 && qClass e.1 e.2 == 0 && rbits e.2.cfg 35 28 == ctx then
      match nextCmd s e.1 with
      | some c => if waitState s c = .waiting then some ({ kind := 0, num := e.1, ord := c.ord, ctx } : Waiter) else none
      | none => none
    else none
  let ls := s.launches.filterMap fun e =>
    if e.2.ctx = ctx && launchWaits s e.2 then
      (findCmd s e.1).map (fun c => ({ kind := 1, num := e.1, ord := c.ord, ctx } : Waiter)) else none
  let gs := s.groups.filterMap fun e =>
    match e.2.run with
    | some r => if grpCtx e.2 = ctx && awaitsBeginner e.2 r then
        (findCmd s r.slot).map (fun c => ({ kind := 2, num := 15360 + e.1, ord := c.ord, ctx } : Waiter)) else none
    | none => none
  qs ++ ls ++ gs

/-- The SWAIT words in the Sequencer stores of a launch. DEDUCED: log entry 29. -/
def swaitTallies (s : State) (l : Launch) : List Nat :=
  (l.cores.flatMap (fun c => ((getStation (getCore s c) 5).store.filter (fun w => Ins.op w == 0x50)).map (fun w => Ins.bits w 87 72))).eraseDups

/-- The tallies a waiter waits on, with those that the SWAITs of a launch name (R464). -/
def waitTallies (s : State) (w : Waiter) : List Nat :=
  if w.kind = 0 then (match nextCmd s w.num with | some c => (openWaits s c).map (·.1) | none => [])
  else if w.kind = 1 then swaitTallies s (getLaunch s w.num)
  else []

/-- The tally that a marked Porter transfer adds to at its completion. -/
def transferTally (w : W128) : Option Nat := if Ins.bit w 17 then some (Ins.bits w 16 1) else none

/-- A launch signals a tally by an SSIGNAL of its streams, or by a marked transfer in flight (R464). -/
def launchSignals (s : State) (l : Launch) (t : Nat) : Bool :=
  l.running && l.cores.any fun c =>
    let x := getCore s c
    (getStation x 5).store.any (fun w => Ins.op w == 0x51 && Ins.bits w 87 72 == t)
      || x.inflight.any (fun y => transferTally y.instr == some t)

/-- A pending signaller of a tally: a command that names it in a signal, or a launch (by slot). DEDUCED: log entry 29. -/
def signallers (s : State) (t : Nat) : List Cmd × List Nat :=
  (s.cmds.filter (fun c => [0, 1].any (fun i => Pkt.sigEn c.packet i && Pkt.sigTally c.packet i == t)),
    (s.launches.filter (fun e => launchSignals s e.2 t)).map (·.1))

/-- The command is held within a set of waiters: behind the queue's next command, or as its launch or collective. -/
def heldIn (set : List Waiter) (c : Cmd) : Bool :=
  if c.phase = 0 then set.any (fun w => w.kind == 0 && w.num == c.queue)
  else if c.phase = 1 ∧ Pkt.opcode c.packet = 0x0201 then set.any (fun w => w.kind == 1 && w.num == c.slot)
  else if c.phase = 1 then set.any (fun w => w.kind == 2 && w.num == c.queue && w.ord == c.ord)
  else false

/-- A wait of a submission queue that only the host can satisfy (R465). -/
def externalWait (s : State) (w : Waiter) : Bool :=
  w.kind == 0 && (waitTallies s w).any (fun t => let x := signallers s t; x.1.isEmpty && x.2.isEmpty)

/-- Every pending signaller of every tally a waiter waits on lies in the set. -/
def closedIn (s : State) (set : List Waiter) (w : Waiter) : Bool :=
  (waitTallies s w).all fun t =>
    let x := signallers s t
    x.1.all (heldIn set) && x.2.all (fun l => set.any (fun y => y.kind == 1 && y.num == l))

/-- The greatest closed subset of a set, by removing waiters that are not closed. -/
def closeSet (s : State) : Nat → List Waiter → List Waiter
  | 0, set => set
  | n + 1, set => closeSet s n (set.filter (closedIn s set))

/-- The greatest closed subset without external waits. -/
def closure (s : State) (set : List Waiter) : List Waiter :=
  closeSet s set.length (set.filter (fun w => !externalWait s w))

/-- What a progress event of a waiter changes (R466): words moved by its transfers, frames accepted, tallies added to,
and its stations' positions. -/
def progressMark (s : State) (w : Waiter) : List Nat :=
  (getCtx s w.ctx).accepted :: (waitTallies s w).map (fun t => (tget 0#64 s.tallies t).toNat) ++
    (if w.kind = 1 then (getLaunch s w.num).cores.flatMap (fun c =>
        let x := getCore s c
        x.nextTransfer :: x.inflight.flatMap (fun t => [t.id, t.done, Word.b2n t.moved, t.ops.length]) ++ x.stations.map (·.pc)
          ++ (x.inflight.flatMap (·.ops)).map (fun o => match tget none s.fab.ops o with | some y => y.left + 2 ^ 32 * y.written.length | none => 0))
      else [])

/-! ### Escalations (15/R474-R476) -/

/-- The die of an engine's UNIT, and the partition that holds it. -/
def enginePart (s : State) (u : W64) : Option Nat := match unitDie u with | some d => partOfDie s d | none => none

/-- An escalation in progress covers another's target. -/
def Esc.over (s : State) (e x : Esc) : Bool :=
  if 4 ≤ e.level then true
  else if e.level = 3 then
    (x.level == 3 && x.target == e.target) || (x.level == 1 && (getCtx s x.target).part == e.target)
      || (x.level == 2 && enginePart s (BitVec.ofNat 64 x.target) == some e.target)
  else e.level == x.level && e.target == x.target && (e.level != 1 || e.gen == x.gen)

/-- Context, partition and UNIT fields of an escalation's capture, and what it covers. -/
def escScope (s : State) (x : Esc) : Nat × Nat × W64 × Scope :=
  match x.level with
  | 1 => (x.target, (getCtx s x.target).part, 0#64, .ctx x.target)
  | 2 => (0xFF, (enginePart s (BitVec.ofNat 64 x.target)).getD 0xFF, BitVec.ofNat 64 x.target,
      (match enginePart s (BitVec.ofNat 64 x.target) with | some p => .part p | none => .all))
  | 3 => (0xFF, x.target, 0#64, .part x.target)
  | _ => (0xFF, 0xFF, 0#64, .all)

/-- HUB_RST_CAUSE of an escalation that begins (16/R502, R512). -/
def noteCause (s : State) (level cause slot : Nat) : State :=
  modBoot s (fun b => { b with cause, level, held := false, arrived := b.phase, captured := true, slot })

/-- Begin an escalation (R474-R476): absorbed when covered; else lower ones stop, the capture is taken unless `slot` is
one already taken, and HUB_RST_CAUSE, HUB_ESC_STATUS, the ledger and the alert follow. DEDUCED: log entry 30. -/
def escalate (s : State) (x : Esc) (slot : Option Nat) : State :=
  if s.boot.phase < 4 || s.hang.escs.any (fun e => decide (x.level ≤ e.level) && e.over s x) then s
  else
    let s := modHang s (fun h => { h with escs := h.escs.filter (fun e => !(decide (e.level < x.level) && x.over s e)) })
    let (c, p, u, scope) := escScope s x
    let (s, n) := match slot with
      | some n => (s, n)
      | none => takeCapture s x.level x.cause u c p x.gen scope []
    let s := modHang s fun h => { h with escs := h.escs ++ [x], escLevel := x.level, escSlot := n, escCause := x.cause
                                         escCount := if x.level ≤ 3 then satAdd 32 h.escCount 1 else h.escCount }
    let s := noteCause s x.level x.cause n
    let s := if x.level ≤ 3 then logRec s 2 x.cause (if x.level = 2 then u else unitW 0x0C 8 0 0) (ldata (Word.toLe 4 (rstCauseW s))) else s
    if x.level = 1 then s
    else
      let s := setAlert s 0
      match trainingCtx s with
      | some c => chargeNow s c (getCtx s c).gen x.cause
      | none => s

/-- An engine that level 2 can reset (R480). -/
def engineExists (s : State) (u : W64) : Bool :=
  let die := rbits u 55 52
  let i := rbits u 51 40
  decide (die < 8) && rbits u 39 0 == 0 &&
    match rbits u 63 56 with
    | 1 => decide (i < 136) && siteClass s die i != 2
    | 2 => decide (i < 2)
    | 5 => decide (i < 80)
    | 7 => decide (i < 32)
    | 8 => i == 0
    | 9 => decide (i < 6)
    | _ => false

/-- The reason that refuses a requested target, if any (R489). -/
def targetRefusal (s : State) (level : Nat) (t : W64) : Option Nat :=
  if level = 1 then
    let x := getCtx s (rbits t 7 0)
    if !x.live then some 0x03 else if x.gen ≠ rbits t 31 16 then some 0x21 else none
  else if level = 2 then (if engineExists s t then none else some 0x03)
  else if level = 3 then (if (getPart s (rbits t 2 0)).state = 0 then some 0x03 else none)
  else none

/-- The escalation that a level and a TARGET name, with the requested cause (R475, R488). -/
def escOf (level : Nat) (t : W64) : Esc :=
  { level, cause := 0xC4 + min level 4 - 1
    target := if level = 1 then rbits t 7 0 else if level = 2 then t.toNat else if level = 3 then rbits t 2 0 else 0
    gen := if level = 1 then rbits t 31 16 else 0 }

/-- HUB_ESC_REQ (R489). -/
def hubEscReq (s : State) (v : W64) : State :=
  let level := rbits v 2 0
  let deny (r : Nat) : State := modHang s (fun h => { h with escReason := r })
  if level = 0 then s
  else if level = 5 then deny 0xCE
  else if 5 < level then deny 0x03
  else match targetRefusal s level s.hang.target with
    | some r => deny r
    | none => escalate s (escOf level s.hang.target) none

/-- HUB_HANG_CFG (R486). -/
def hangMask : W64 := BitVec.ofNat 64 (2 ^ 63 + 3 * 2 ^ 58 + 0x3FFF)
def hangCfgWrite (s : State) (v : W64) : State :=
  let hold := rbits v 13 0
  if hold = 0 ∨ 10000 < hold ∨ 2 ≤ rbits v 59 58 then modHang s (fun h => { h with reason := 0x03 })
  else modHang s (fun h => { h with cfg := v &&& hangMask })

/-! ### HANG_EVALUATION (15/R466-R468) -/

/-- An entry of section 1 of a capture (R472). -/
def hungEntry (s : State) (w : Waiter) : List Byte :=
  let cmd := if w.kind = 1 then findCmd s w.num else if w.kind = 0 then nextCmd s w.num else s.cmds.find? (fun c => c.ord == w.ord)
  let tag := match cmd with | some c => Pkt.tag c.packet | none => 0
  let wait : Nat × Nat :=
    if w.kind = 0 then (match cmd with | some c => (openWaits s c).headD (0xFFFF, 0) | none => (0xFFFF, 0))
    else if w.kind = 1 then
      let held := (getLaunch s w.num).cores.filterMap fun c =>
        let x := getStation (getCore s c) 5
        if x.hold == .tally then (fetchIns s c 5).map (fun i => (Ins.bits i 87 72, Ins.bits i 71 24)) else none
      held.headD (0xFFFF, 0)
    else (0xFFFF, 0)
  let q := if w.kind = 1 then (match cmd with | some c => c.queue | none => 0) else w.num
  Word.toLe 1 w.kind ++ Word.toLe 1 0 ++ Word.toLe 2 q ++ Word.toLe 4 tag ++ Word.toLe 2 wait.1 ++ Word.toLe 6 wait.2

/-- Bring the tracked waiters of the contexts up to date: a waiter that is new, or that has progressed, counts from now. -/
def trackHung (s : State) (g : List Waiter) : List HungSince :=
  g.map fun w =>
    let mark := progressMark s w
    match s.hang.since.find? (fun x => x.who == w && x.mark == mark) with
    | some x => x
    | none => { who := w, since := s.time.toNat, mark }

/-- Declare the hung set of a context (R468). -/
def declareHang (s : State) (ctx : Nat) (set : List Waiter) : State :=
  let gen := (getCtx s ctx).gen
  let act := rbits s.hang.cfg 59 58 == 1
  let (s, slot) := takeCapture s (Word.b2n act) 0xC8 0#64 ctx (getCtx s ctx).part gen (.ctx ctx) (set.map (hungEntry s))
  let s := modHang s fun h => { h with count := satAdd 16 h.count 1, ctx, gen, members := min 16383 set.length, slot, valid := true
                                       time := s.time, told := h.told ++ set }
  let s := raiseUnit s 0xC8 (ctx, gen) 0#64 slot
  if act then escalate s { level := 1, target := ctx, gen, cause := 0xC8 } (some slot) else s

/-- HANG_EVALUATION: sets that have been hung for the hold time, context by context. DESIGN CHOICE: log entry 12. -/
def hangEvaluation (s : State) : State :=
  if s.boot.phase ≠ 6 || !rbit s.hang.cfg 63 then modHang s (fun h => { h with since := [] })
  else
    let hold := rbits s.hang.cfg 13 0 * 100000
    let live := (s.ctxs.filter (fun c => c.2.state == 2)).map (·.1)
    let waiters := live.flatMap (waitersOf s)
    let tracked := trackHung s (live.flatMap (fun c => closure s (waitersOf s c)))
    let s := modHang s (fun h => { h with since := tracked, told := h.told.filter (fun w => waiters.contains w) })
    live.foldl (fun s c =>
      let old := (tracked.filter (fun x => x.who.ctx == c && decide (x.since + hold ≤ s.time.toNat))).map (·.who)
      let set := closure s old
      if set.any (fun w => !s.hang.told.contains w) then declareHang s c set else s) s

def execHangEvaluation (s : State) : Res := .next (hangEvaluation s)

/-! ### Level 1 (15/R474) -/

/-- ESCALATION_CONTEXT: the teardown of R341 with reason 0xC4; it ends with the teardown. -/
def escalationContext (s : State) (ctx : Nat) : State :=
  match s.hang.escs.find? (fun e => e.level == 1 && e.target == ctx && !e.run) with
  | none => s
  | some e =>
    let x := getCtx s ctx
    if x.live && x.gen == e.gen then
      beginTeardown (modHang s (fun h => { h with escs := h.escs.map (fun y => if y = e then { y with run := true } else y) })) ctx 0xC4 none
    else modHang s (fun h => { h with escs := h.escs.filter (· != e) })

def execEscalationContext (ctx : Nat) (s : State) : Res := .next (escalationContext s ctx)

/-! ### Level 2 (15/R477-R480) -/

/-- Open crates that satisfy a condition are left poisoned (08/R247, 15/R478). -/
def poisonOpen (s : State) (p : Nat → Bool) : State :=
  let ks := s.mem.opened.filter p
  let s := ks.foldl (fun s k => setMem s (setTag s.mem k (Tag.poison (crateTag s.mem k)))) s
  modMem s (fun m => { m with opened := m.opened.filter (fun k => !p k) })

/-- A transfer or command that receives an error response (R479): a launch stops, a collective rings its bell, any other
command fails. -/
def errorResponse (s : State) (slot : Nat) : State :=
  match findCmd s slot with
  | none => s
  | some c =>
    let op := Pkt.opcode c.packet
    if c.phase ≠ 1 then s
    else if op = 0x0201 then stopLaunch s slot 3 0xC5
    else if 0x0410 ≤ op ∧ op ≤ 0x0413 then
      match s.groups.find? (fun e => match e.2.run with | some r => r.slot == slot | none => false) with
      | some (g, _) => collFail s g 0xC5
      | none => endCmd s slot { cls := 3, reason := 0xC5 }
    else endCmd s slot { cls := 3, reason := 0xC5 }

/-- The transfers in flight on a core fail: their additions and posts are never made, and crates that a get has written
are poisoned. -/
def dropTransfers (s : State) (core : Nat) : State :=
  let ops := (getCore s core).inflight.flatMap (·.ops)
  let s := ops.foldl (fun s id => match getOp s id with
    | some o => dropOp (o.written.foldl (fun s c => setMem s (setTag s.mem c (Tag.poison (crateTag s.mem c)))) s) id
    | none => s) s
  modCore s core (fun c => { c with inflight := [] })

/-- Reset a core site: what R480 lists of it. The registers that count stay (03/R97). -/
def resetSite (s : State) (core : Nat) : State :=
  let s := match (getCore s core).launch with | some l => stopLaunch s l 3 0xC5 | none => s
  let s := dropTransfers s core
  let s := modCore s core fun c =>
    { c with run := 0, stations := List.replicate 6 {}, bins := [], feeder := [], active := {}, shadow := {}, bench := []
             vregs := List.replicate 32 {}, diag := List.replicate 128 0#32, diagPoison := false, drainPack := [], drainVec := []
             packIn := [], packCnt := [0, 0, 0, 0], params := {}, activity := 0, floor := 0, level := 0, cond := 0, diagMode := false
             quiet := 0, pass := 0, token := 0, hintValid := false, hintOp := 0 }
  poisonOpen s (fun k => match regionOf (k * 4096) with | .scratch c _ => c == core | _ => false)

/-- The processor of a die, and its spare (01/R27). -/
def spareProc (s : State) (die : Nat) : Bool :=
  let r := getUnit s (unitW 2 die (1 - tget 0 s.cpActive die) 0)
  r.standing != 2 && !r.fenced

/-- A live handover is abandoned with 0xCD (16/R510, R511): its command fails, or its request is answered. -/
def handoverFail (s : State) : State :=
  let by_ := s.boot.handBy
  let s := modBoot s (fun b => { b with handover := 5, fwReason := 0xCD, handBy := none })
  match by_ with
  | some (.host slot) => endCmd s slot { cls := 3, reason := 0xCD }
  | some (.mgmt r) => respond s r 0x000D 3 0xCD []
  | none => s

/-- Reset one engine (R480). `lost` are crates of a cache-mode slice that could not be written back. -/
def resetEngine (s : State) (u : W64) (lost : List Nat) : State :=
  let die := rbits u 55 52
  let i := rbits u 51 40
  match rbits u 63 56 with
  | 1 => (match coreOfSite s die i with | some c => resetSite s c | none => s)
  | 2 =>
    let s := if s.boot.handover = 1 ∨ s.boot.handover = 2 ∨ s.boot.handover = 3 then handoverFail s else s
    if tget 0 s.cpActive die = i ∧ spareProc s die then { s with cpActive := tset 0 s.cpActive die (1 - i) } else s
  | 5 =>
    let ch := dieChannel die i
    let s := modChan s ch (fun c => { c with genRun := 0, mRun := 0, mStop := false, state := if c.state = 4 then 4 else 1
                                             lastTrain := if c.state = 4 then c.lastTrain else if c.sparesUsed = 0 then 1 else 2 })
    poisonOpen s (fun k => channelOf (k * 4096) == some ch)
  | 7 =>
    let n := die * 32 + i
    let sl := tget {} s.mem.slices n
    let gone := sl.lines.filter (fun l => l.dirty && lost.contains l.crate)
    let s := modMem s (fun m =>
      let m := gone.foldl undoLine m
      { m with slices := tmod {} m.slices n (fun x => { x with lines := [], changing := false }) })
    let s := gone.foldl (fun s l =>
      let s := raiseUnit s 0x4F noCtx u (l.crate * 4096) (some die)
      match trainingCtx s with | some c => chargeNow s c (getCtx s c).gen 0x4F | none => s) s
    poisonOpen s (fun k => regionOf (k * 4096) == .slice n)
  | 8 => (s.groups.filter (fun e => e.2.run.isSome && (getPart s (getCtx s (grpCtx e.2)).part).dies.contains die)).foldl
      (fun s e => collFail s e.1 0xC5) s
  | 9 =>
    let p := die * 6 + i
    let x := getPort s p
    if x.state = 4 then s else portDown s p (if portEnabled x then 1 else 0) false
  | _ => s

/-- Finish an escalation. -/
def escDone (s : State) (e : Esc) : State := modHang s (fun h => { h with escs := h.escs.filter (fun y => !(y.level == e.level && y.target == e.target && y.gen == e.gen)) })

/-- ESCALATION_ENGINE (R477): `hit` are the commands that receive an error response, `cut` the crates whose writes into
the engine were cut short, `lost` the dirty lines that could not be written back. A control processor without a healthy
spare leads to level 3. -/
def escalationEngine (s : State) (u : W64) (hit cut lost : List Nat) : State :=
  match s.hang.escs.find? (fun e => e.level == 2 && e.target == u.toNat) with
  | none => s
  | some e =>
    let s := hit.foldl errorResponse s
    let s := cut.foldl (fun s k => setMem s (setTag s.mem k (Tag.poison (crateTag s.mem k)))) s
    let alone := rbits u 63 56 == 2 && tget 0 s.cpActive (rbits u 55 52) == rbits u 51 40 && !spareProc s (rbits u 55 52)
    let s := escDone (resetEngine s u lost) e
    if alone then match enginePart s u with
      | some p => escalate s { level := 3, target := p, cause := 0xC6 } none
      | none => escalate s { level := 4, target := 0, cause := 0xC7 } none
    else s

def execEscalationEngine (u : W64) (hit cut lost : List Nat) (s : State) : Res := .next (escalationEngine s u hit cut lost)

/-! ### Level 3 (15/R474) -/

/-- Every engine of a die. -/
def dieEngines (s : State) (die : Nat) : List W64 :=
  ((List.range 136).filter (fun i => (coreOfSite s die i).isSome)).map (fun i => unitW 1 die i 0)
    ++ [unitW 2 die (tget 0 s.cpActive die) 0] ++ (List.range 80).map (fun i => unitW 5 die i 0)
    ++ (List.range 32).map (fun i => unitW 7 die i 0) ++ [unitW 8 die 0 0] ++ (List.range 6).map (fun i => unitW 9 die i 0)

/-- ESCALATION_PARTITION: every context of the partition is torn down with 0xC6; the engines of its dies are reset, and
their slices, scratchpads and on-die stores are cleared. `lost` are dirty lines that could not be written back. -/
def escalationPartition (s : State) (part : Nat) (lost : List Nat) : State :=
  match s.hang.escs.find? (fun e => e.level == 3 && e.target == part && !e.run) with
  | none => s
  | some e =>
    let s := modHang s (fun h => { h with escs := h.escs.map (fun y => if y = e then { y with run := true } else y) })
    let s := ((s.ctxs.filter (fun c => c.2.live && c.2.part == part)).map (·.1)).foldl (fun s c => beginTeardown s c 0xC6 none) s
    let dies := (getPart s part).dies
    let s := dies.foldl (fun s d =>
      let s := (dieEngines s d).foldl (fun s u => resetEngine s u lost) s
      zeroPlain (modMem s (fun m => { m with slices := (List.range 32).foldl (fun t i => tset {} t (d * 32 + i) {}) m.slices })) d) s
    if partContexts s part = 0 then escDone s e else s

def execEscalationPartition (part : Nat) (lost : List Nat) (s : State) : Res := .next (escalationPartition s part lost)

/-! ### Levels 4 and 5 (15/R474, R475, R481, 19/R578) -/

/-- Send what waits through the ports that can send it now. -/
def sendAll : Nat → State → State
  | 0, s => s
  | n + 1, s => sendAll n ((List.range 48).foldl (fun s p => (List.range 8).foldl (fun s l => frameSend s p l) s) s)

/-- What level 4 sends before the reset: a bell for each collective in progress and a revoke for every context. -/
def sendFarewell (s : State) : State :=
  let s := modFab s (fun f => { f with sendq := [] })
  let s := (s.groups.filter (fun e => e.2.run.isSome)).foldl (fun s e => match e.2.run with
    | some r => ringBell s e.1 { count := r.count, reason := 0xC7, ordinal := r.ordinal, chip := ownChip s, left := 3, members := r.others }
    | none => s) s
  let s := (s.ctxs.filter (fun c => c.2.live)).foldl (fun s c =>
    (s.fab.used.filter (fun u => u.1 == c.1 && u.2.1 == c.2.gen)).foldl (sendRevoke c.1 c.2.gen) s) s
  sendAll s.fab.sendq.length s

/-- ESCALATION_CHIP. -/
def escalationChip (s : State) : State :=
  match s.hang.escs.find? (fun e => e.level == 4) with
  | some e => levelFour (sendFarewell s) e.cause (some s.hang.escSlot)
  | none => s

def execEscalationChip (s : State) : Res := .next (escalationChip s)

/-- ESCALATION_POWER_CYCLE: PWRCYC_REQ_N is driven low until the 3.3 V input falls. -/
def escalationPowerCycle (s : State) : State :=
  match s.hang.escs.find? (fun e => e.level == 5) with
  | some e => modBoot (sendFarewell s) (fun b => { b with pwrCyc := true, cause := e.cause, level := 5 })
  | none => s

def execEscalationPowerCycle (s : State) : Res := .next (escalationPowerCycle s)

/-- POWER_CYCLE_TIMEOUT: the line is released, the failure is logged with 0xCE, and a level-4 reset follows. -/
def powerCycleTimeout (s : State) : State :=
  if s.boot.pwrCyc && powered s then
    let s := modBoot s (fun b => { b with pwrCyc := false })
    chipReset (logRec s 2 0xCE (unitW 0x0C 8 0 0) (ldata (Word.toLe 4 (rstCauseW s)))) 0xC7 4 none
  else s

def execPowerCycleTimeout (s : State) : Res := .next (powerCycleTimeout s)

/-- READY_TIMEOUT: not ready 10 s after the end of a level-4 reset; a module in recovery asks for nothing (16/R507). -/
def readyTimeout (s : State) : State :=
  if s.boot.ended4.isSome && s.boot.phase != 0 && s.boot.phase != 6 && s.boot.phase != 7 && !s.boot.pwrCyc then
    setAlert (requestPower s 0xC7) 0 else s

def execReadyTimeout (s : State) : Res := .next (readyTimeout s)

/-- STEWARD_WATCHDOG: a level-4 reset without a capture (R469). -/
def stewardWatchdog (s : State) : State :=
  if 4 ≤ s.boot.phase && powered s && !s.hang.escs.any (fun e => decide (4 ≤ e.level)) then setAlert (levelFour s 0xC3 none) 0 else s

def execStewardWatchdog (s : State) : Res := .next (stewardWatchdog s)

/-! ### The other triggers (15/R475) -/

/-- CORE_STOP_TIMEOUT. -/
def execCoreStopTimeout (core : Nat) (s : State) : Res :=
  .next (if coreAvail s core then escalate s { level := 2, target := (coreUnit s core).toNat, cause := 0xC5 } none else s)

/-- HEARTBEAT_MISSED by a control processor of a die. -/
def execHeartbeatMissed (die proc : Nat) (s : State) : Res :=
  .next (if die < 8 && proc < 2 then escalate s { level := 2, target := (unitW 2 die proc 0).toNat, cause := 0xC5 } none else s)

/-- ENGINE_NO_ANSWER: a slice, a channel controller, a pool engine or a port. -/
def execEngineNoAnswer (u : W64) (s : State) : Res :=
  let c := rbits u 63 56
  .next (if engineExists s u && (c == 5 || c == 7 || c == 8 || c == 9) then escalate s { level := 2, target := u.toNat, cause := 0xC5 } none else s)

/-- TRANSFER_CANCEL_TIMEOUT: a marked transfer of a context that is torn down; `u` is the engine that holds it. -/
def execTransferCancelTimeout (core id : Nat) (u : W64) (s : State) : Res :=
  .next (if engineExists s u && (getCore s core).inflight.any (fun t => t.id == id && (getCtx s t.ctx).state == 3 && (getCtx s t.ctx).gen == t.gen) then
    escalate s { level := 2, target := u.toNat, cause := 0xC5 } none else s)

/-- ESCALATION_OVERRUN of a level-2 or level-3 escalation in progress. -/
def escalationOverrun (s : State) (level target : Nat) : State :=
  match s.hang.escs.find? (fun e => e.level == level && e.target == target) with
  | none => s
  | some e =>
    if level = 2 then match enginePart s (BitVec.ofNat 64 target) with
      | some p => escalate (escDone s e) { level := 3, target := p, cause := 0xC6 } none
      | none => escalate (escDone s e) { level := 4, target := 0, cause := 0xC7 } none
    else if level = 3 then escalate (escDone s e) { level := 4, target := 0, cause := 0xC7 } none
    else s

def execEscalationOverrun (level target : Nat) (s : State) : Res := .next (escalationOverrun s level target)

end Sys2Proof.Machine
end

