-- ==== Sys2Proof/Machine/Power.lean ====
section
/-!
DEFINITION. Clocks, operating points, the power-cap backstop, droop and thermal management (chapter 18).
-/
namespace Sys2Proof.Machine

/-- The UNIT of the module, which power events name. -/
def moduleUnit : W64 := unitW 0x0C 8 0 0
/-- The core clocks run: the assertion phase has ended. -/
def clocked (s : State) : Bool := s.boot.phase != 0 && powered s

/-! ### The reference and the root PLLs (18/R540-R542) -/

/-- REFERENCE_LOST. -/
def referenceLost (s : State) : State :=
  if !s.pwr.refOk then s
  else
    let s := modPwr s (fun p => { p with refOk := false, holdover := true })
    let s := if s.fab.timeSt.state = 2 then modFab s (fun f => { f with timeSt := { f.timeSt with state := 3 } }) else s
    raiseUnit s 0xA5 noCtx moduleUnit 0

def execReferenceLost (s : State) : Res := .next (referenceLost s)

/-- REFERENCE_RESTORED: present for 10 ms. -/
def execReferenceRestored (s : State) : Res :=
  .next (if clocked s then modPwr s (fun p => { p with refOk := true, holdover := false }) else s)

/-- Set the lock of a PLL, 0 A or 1 B. -/
def setLock (p : Pwr) (pll : Nat) (v : Bool) : Pwr := if pll = 0 then { p with lockA := v } else { p with lockB := v }

/-- PLL_LOCK_LOST of the active PLL: `ok` says that the standby locks at the current point. -/
def pllLockLost (s : State) (ok : Bool) : State :=
  if !clocked s then s
  else
    let s := modPwr s fun p =>
      let a := p.active
      let p := setLock p a false
      if ok then { setLock p (1 - a) true with active := 1 - a, standbyOp := p.op, stepping := false, paused := false, switches := satAdd 32 p.switches 1 }
      else { setLock p (1 - a) false with stepping := false, paused := true }
    raiseUnit s 0xA4 noCtx moduleUnit 0

def execPllLockLost (ok : Bool) (s : State) : Res := .next (pllLockLost s ok)

/-! ### Transitions (18/R543-R548) -/

/-- The adjacent point towards a target. DEDUCED: log entry 28. -/
def stepTo (op target : Nat) : Nat := if target < op then op - 1 else if op < target then op + 1 else op

/-- Begin a step to the adjacent point; refused without the reference (R541). DEDUCED: log entry 28. -/
def beginStep (s : State) : State :=
  if !s.pwr.refOk then raiseUnit (modPwr s (fun p => { p with stepping := false })) 0xA6 noCtx moduleUnit 0
  else
    let target := effOp s
    modPwr s fun p => { setLock p (1 - p.active) false with stepping := true, retried := false, standbyOp := stepTo p.op target }

/-- OP_TARGET_CHANGE: a transition begins, at once or after the dwell. -/
def opTargetChange (s : State) : State :=
  if s.boot.phase ≠ 6 || s.pwr.stepping || s.pwr.op == effOp s then s else beginStep s

def execOpTargetChange (s : State) : Res := .next (opTargetChange s)

/-- OP_SWITCH: the standby has locked and the rails are ready; the active PLL switches. A transition that has further to
go in its direction begins its next step (R547). DEDUCED: log entry 28. -/
def opSwitch (s : State) : State :=
  if !s.pwr.stepping then s
  else
    let old := s.pwr.op
    let s := modPwr s fun p =>
      { setLock p (1 - p.active) true with op := p.standbyOp, active := 1 - p.active, standbyOp := p.op, stepping := false
                                           switches := satAdd 32 p.switches 1 }
    let new := s.pwr.op
    if (new < old ∧ effOp s < new) ∨ (old < new ∧ new < effOp s) then beginStep s else s

def execOpSwitch (s : State) : Res := .next (opSwitch s)

/-- PLL_LOCK_TIMEOUT: one retry, then the step is refused with 0xA6 (R547). -/
def pllLockTimeout (s : State) : State :=
  if !s.pwr.stepping then s
  else if !s.pwr.retried then modPwr s (fun p => { p with retried := true })
  else raiseUnit (modPwr s (fun p => { p with stepping := false })) 0xA6 noCtx moduleUnit 0

def execPllLockTimeout (s : State) : Res := .next (pllLockTimeout s)

/-! ### The backstop (18/R550-R552) -/

/-- 64 times the excess of `a` over a limit `b`, rounded up; 0 when there is none. -/
def excess64 (a b : Nat) : Nat := if a ≤ b then 0 else (64 * (a - b) + b - 1) / b

/-- The next bubble count (R550). Powers are in mW and currents in mA. -/
def nextBubbles (n cap : Nat) (x : BackSample) : Nat :=
  let die := x.dies.foldl max 0
  let e := max (excess64 x.pAvg cap) (max (excess64 x.iAvg 120000) (excess64 die 640000))
  let e := if x.droop then max e 1 else e
  if 0 < e then min 32 (n + min 2 e)
  else if 32 * x.pAvg < 31 * cap ∧ 32 * x.iAvg < 31 * 120000 ∧ 32 * die < 31 * 640000 then n - 1
  else n

/-- The samples of a token that still matter: within 10 s, and not below a later one (R553). -/
def keepSamples (now : Nat) (xs : List TokenPower) : List TokenPower := xs.filter (fun x => decide (now < x.time + 1000000000))

/-- Add the sample of this microsecond for each token in use. -/
def addHistory (s : State) (x : BackSample) : List TokenPower :=
  let now := s.time.toNat
  let tokens := ((s.launches.filter (fun l => l.2.running)).flatMap (fun l => l.2.cores.map (fun c => (getCore s c).token))).eraseDups
  let rest := x.pNow - x.core
  let old := (keepSamples now s.pwr.history).filter (fun h => !(tokens.contains h.token && decide (h.core + h.rest ≤ x.core + rest)))
  old ++ tokens.map (fun t => { token := t, time := now, core := x.core, rest, op := s.pwr.op })

/-- The newest log entry, and what changes it. -/
def lastEntry (p : Pwr) : Option BackEntry := p.log.getLast?
def modEntry (p : Pwr) (f : BackEntry → BackEntry) : Pwr :=
  match p.log.getLast? with
  | some e => { p with log := p.log.dropLast ++ [f e] }
  | none => p

/-- Open an engagement (R552). -/
def engage (s : State) : State :=
  let seq := match lastEntry s.pwr with | some e => e.seq + 1 | none => 1
  let s := modPwr s fun p =>
    { p with log := p.log.drop (p.log.length - 126) ++ [{ seq, start := s.time }], engagements := satAdd 32 p.engagements 1 }
  raiseUnit s 0xA0 noCtx moduleUnit seq

/-- An engagement of 10 ms is named as a hold point, once (R552). -/
def engagedLong (s : State) : State :=
  match lastEntry s.pwr with
  | some e =>
    if s.pwr.bubbles ≠ 0 ∧ !e.told ∧ e.start.toNat + 1000000 ≤ s.time.toNat then
      raiseUnit (modPwr s (fun p => modEntry p (fun e => { e with told := true }))) 0x0E noCtx moduleUnit 3
    else s
  | none => s

/-- BACKSTOP_TICK with the measurements of a microsecond. -/
def backstopTick (s : State) (x : BackSample) : State :=
  if !clocked s then s
  else
    let n := s.pwr.bubbles
    let m := nextBubbles n (effCap s * 1000) x
    let h := addHistory s x
    let s := if n = 0 ∧ m ≠ 0 then engage s else s
    let s := modPwr s fun p =>
      let p := if n ≠ 0 ∧ m = 0 then modEntry p (fun e => { e with stop := s.time }) else p
      { p with bubbles := m, power := x.pAvg, energy := p.energy + x.pNow, history := h
               slowSince := if 4 ≤ m then (match p.slowSince with | some t => some t | none => some s.time.toNat) else none }
    engagedLong s

def execBackstopTick (x : BackSample) (s : State) : Res := .next (backstopTick s x)

/-! ### The backstop limit (18/R553) -/

/-- Array clock in 100 MHz and rail voltage in mV of a point (R543). -/
def opClock (op : Nat) : Nat := [18, 16, 14, 12].getD op 12
def opVolt (op : Nat) : Nat := [700, 665, 635, 605].getD op 605

/-- A token's power predicted at a point is less than 97% of a cap in mW. -/
def predictsBelow (cap op : Nat) (h : TokenPower) : Bool :=
  let a := opClock op * opVolt op ^ 2
  let b := opClock h.op * opVolt h.op ^ 2
  decide (100 * (h.core * a + h.rest * b) < 97 * cap * b)

/-- BACKSTOP_LIMIT_UPDATE: one point slower after 1 ms of 4 or more bubbles, at most once a millisecond; one point faster
when every token seen in 10 s predicts less than 97% of the cap there. DESIGN CHOICE: log entry 12. -/
def backstopLimitUpdate (s : State) : State :=
  let now := s.time.toNat
  let p := s.pwr
  let slow := match p.slowSince with | some t => decide (t + 100000 ≤ now) && (p.slowAt == 0 || decide (p.slowAt + 100000 ≤ now)) | none => false
  if s.boot.phase ≠ 6 then s
  else if slow then modPwr s (fun p => { p with backLimit := min 3 (p.backLimit + 1), slowAt := now })
  else if p.backLimit = 0 ∨ p.slowSince.isSome then s
  else if (keepSamples now p.history).all (predictsBelow (effCap s * 1000) (p.backLimit - 1)) then
    modPwr s (fun p => { p with backLimit := p.backLimit - 1 })
  else s

def execBackstopLimitUpdate (s : State) : Res := .next (backstopLimitUpdate s)

/-- DROOP of a die: every core clock pauses until the rail recovers; no array cycle is added (R554). -/
def droop (s : State) (die : Nat) : State :=
  if clocked s && die < 8 then modPwr s (fun p => { p with droop := satAdd 32 p.droop 1, dieDroop := tmod 0 p.dieDroop die (· + 1) }) else s

def execDroop (die : Nat) (s : State) : Res := .next (droop s die)

/-! ### Temperature (18/R556) -/

/-- The thermal trip: the module is off until a power cycle; what HUB_RST_CAUSE and HUB_RST_COUNT hold stays. -/
def thermalTrip (s : State) : State :=
  let r := chipReset s 0 4 none
  { r with
    boot := { r.boot with cause := s.boot.cause, level := s.boot.level, held := s.boot.held, arrived := s.boot.arrived
                          captured := s.boot.captured, slot := s.boot.slot, restarts := s.boot.restarts, level4 := s.boot.level4, tripped := true }
    fab := { r.fab with resets := s.fab.resets }
    mgmt := { r.mgmt with alert := Nat.lor r.mgmt.alert 16 } }

/-- °C as the sensors give them. -/
def degC (n : Int) : Int := 16 * n

/-- A sample at which the hardware trips when the next one is too. -/
def tripping (junction mem : Int) : Bool := decide (degC 110 ≤ junction) || decide (degC 105 ≤ mem)

/-- Whether a period in ticks has passed since a time; the first time counts. -/
def elapsed (now since period : Nat) : Bool := since == 0 || decide (since + period ≤ now)

/-- Firmware's response to the hottest junction and memory samples. DESIGN CHOICE: log entry 12. -/
def heatResponse (s : State) (junction : Int) (jIndex : Nat) (mem : Int) (mIndex : Nat) : State :=
  let now := s.time.toNat
  let warm := decide (degC 95 ≤ junction) || decide (degC 95 ≤ mem)
  let s := if warm && !s.pwr.margin then
      (if degC 95 ≤ junction then raiseHeat s 1 jIndex else raiseHeat s 4 mIndex) else s
  let pin1 := getPin s 1
  let pin2 := getPin s 2
  modPwr s fun p =>
    let cool := decide (junction < degC 92) && decide (mem < degC 92)
    let p := { p with margin := p.margin || warm }
    let p := match cool, p.coolSince with
      | true, none => { p with coolSince := some now }
      | true, some t => if t + 100000000 ≤ now then { p with margin := false } else p
      | false, _ => { p with coolSince := none }
    -- the pins' holds
    let p := { p with coolantHeld := p.coolantHeld && pin1.pending }
    let p := if !p.leakHeld then p
      else if !pin2.level || pin2.pending then { p with leakClear := none }
      else match p.leakClear with
        | none => { p with leakClear := some now }
        | some t => if t + 1000000000 ≤ now then { p with leakHeld := false, leakClear := none } else p
    -- the limit
    let p :=
      if degC 100 ≤ junction ∨ degC 100 ≤ mem then
        (if elapsed now p.slowedAt 1000000 then { p with thermLimit := min 3 (p.thermLimit + 1), slowedAt := now } else p)
      else if cool && !p.leakHeld && !p.coolantHeld && p.thermLimit != 0 && elapsed now p.relaxedAt 10000000 then
        { p with thermLimit := p.thermLimit - 1, relaxedAt := now }
      else p
    -- the cap
    if degC 103 ≤ junction ∧ p.op = 3 then
      (if elapsed now p.cappedAt 1000000 then { p with thermCap := max 2000 (p.thermCap - 240), cappedAt := now } else p)
    else if junction < degC 98 && !p.leakHeld && decide (p.thermCap < 4800) && elapsed now p.raisedAt 10000000 then
      { p with thermCap := min 4800 (p.thermCap + 240), raisedAt := now }
    else p

/-- THERMAL_RESPONSE with the hottest junction and the hottest memory, each with its sensor's index. -/
def thermalResponse (s : State) (junction : Int) (jIndex : Nat) (mem : Int) (mIndex : Nat) : State :=
  if !clocked s then s
  else
    let trip := tripping junction mem && tripping s.pwr.hottest s.pwr.hotMem
    let s := modPwr s (fun p => { p with hottest := junction, hotMem := mem })
    if trip then thermalTrip s
    else if s.boot.phase = 6 then heatResponse s junction jIndex mem mIndex
    else s

def execThermalResponse (junction : Int) (jIndex : Nat) (mem : Int) (mIndex : Nat) (s : State) : Res :=
  .next (thermalResponse s junction jIndex mem mIndex)

/-! ### The inputs (18/R558, 21/R611) -/

/-- INPUT_OUT_OF_RANGE for 100 µs, and INPUT_BACK_IN_RANGE for 10 ms. -/
def execInputOutOfRange (s : State) : Res :=
  .next (if clocked s then raiseUnit (modPwr s (fun p => { p with inputLow := true })) 0xA3 noCtx moduleUnit 0 else s)
def execInputBackInRange (s : State) : Res := .next (modPwr s (fun p => { p with inputLow := false }))

/-- The bank flushes what it covers (08/R267, R268). -/
def bankFlush (s : State) : State :=
  modLedger s (fun l => if l.bank = 2 then { l with bank := 4, buffered := if l.saved.isSome then l.buffered else 0 } else l)

/-- INPUT_LOSS: the core domains switch off; the auxiliary domain holds the module in the assertion phase. -/
def inputLoss (s : State) : State :=
  if !powered s || s.boot.phase == 0 then s
  else
    let s := chipReset (bankFlush s) 0xC0 5 none
    { s with boot := { s.boot with inputLost := true }, hang := {} }

def execInputLoss (s : State) : Res := .next (inputLoss s)

/-- AUX_LOSS: everything is off until the next power-on. -/
def auxLoss (s : State) : State :=
  let s := chipReset (bankFlush s) s.boot.cause 5 none
  { s with boot := { s.boot with off := true, pwrCyc := false } }

def execAuxLoss (s : State) : Res := .next (if s.boot.off then s else auxLoss s)

/-! ### PWR_CFG (18/R563) -/

def pwrMask : W64 := BitVec.ofNat 64 (0xFF * 2 ^ 48 + 0xFFFF * 2 ^ 32 + 0xFF * 2 ^ 16 + 0x3F)
def pwrCfgWrite (s : State) (v : W64) : State :=
  let cap := rbits v 47 32
  let mv := rbits v 55 48
  if cap < 2000 ∨ 4800 < cap ∨ mv < 15 ∨ 60 < mv then modPwr s (fun p => { p with reason := 0x03 })
  else modPwr s (fun p => { p with cfg := v &&& pwrMask })

end Sys2Proof.Machine
end

