-- ==== Sys2Proof/Machine/FwOps.lean ====
section
/-!
DEFINITION. What the steward's firmware serves on request: the identify page (09/R297), the telemetry pages (18/R561,
R562), staging and live handover of firmware (16/R509-R511), and the counter mirrors (08/R264).
-/
namespace Sys2Proof.Machine

/-! ### Pages -/

/-- A page of 4 KiB from pieces at their offsets; the rest is zero. -/
def pageOf (xs : List (Nat × List Byte)) : List Byte :=
  (xs.foldl (fun (b : List Byte) x => b.take x.1 ++ x.2 ++ b.drop (x.1 + x.2.length)) (List.replicate 4096 0#8)).take 4096

/-- Bytes from an offset of a page. -/
def pageFrom (b : List Byte) (off n : Nat) : List Byte := ((b.drop off).take n ++ List.replicate n 0#8).take n

/-- Version of the image that the standby bank holds, as the directory has it; 0 when it is not complete. -/
def standbyVersion (s : State) : Nat :=
  let d := flashDir s
  let b := 1 - s.boot.bank
  if Word.bitOf d.banks b then (if b = 0 then d.verA else d.verB) else 0

/-- The identify page (09/R297). -/
def identifyPage (s : State) : List Byte :=
  let stall := match s.fab.stall with | some x => x | none => 0xFF
  let chip := match s.fab.chip with | some x => x | none => 0xFFFF
  pageOf
    [(0, Word.toLe 8 s.fuse.f.serial.toNat ++ Word.toLe 1 s.fuse.f.grade ++ Word.toLe 1 (lifecycle s)
        ++ Word.toLe 1 (if owned s then templEff s else 1) ++ Word.toLe 1 stall ++ Word.toLe 2 chip),
     (0x10, (List.range 8).map (fun d => BitVec.ofNat 8 (availCores s d))),
     (0x18, Word.toLe 8 (((List.range 48).filter (fun p => !portOff s p)).map (2 ^ ·)).sum),
     (0x20, Word.toLe 8 (2 ^ 39)), (0x28, Word.toLe 8 (if gradeH s then 2 ^ 38 else 2 ^ 39)),
     (0x30, Word.toLe 8 (bankVersion s s.boot.bank)), (0x38, Word.toLe 8 (standbyVersion s))]

/-- What IDENTIFY answers before ready and in recovery (19/R572): the serial number and grade as last sensed. -/
def identifyEarly (s : State) : List Byte :=
  if s.fuse.sensed then pageOf [(0, Word.toLe 8 s.fuse.f.serial.toNat ++ Word.toLe 1 s.fuse.f.grade)] else pageOf []

/-- A signed 16-bit value. -/
def le16 (x : Int) : List Byte := Word.toLe 2 (x % 65536).toNat

/-- An entry of the backstop log (18/R562). -/
def backBytes (e : BackEntry) : List Byte :=
  Word.toLe 8 e.seq ++ Word.toLe 8 e.start.toNat ++ Word.toLe 8 e.stop.toNat ++ Word.toLe 8 e.cycles

/-- A telemetry page; `none` above 4 (18/R561). -/
def telemetryPage (s : State) (page : Nat) (x : Sensors) : Option (List Byte) :=
  let t := Word.toLe 8 s.time.toNat
  let p := s.pwr
  match page with
  | 0 => some (pageOf
      [(0, t ++ Word.toLe 4 x.inV ++ Word.toLe 4 x.inI ++ Word.toLe 4 x.inP ++ Word.toLe 4 x.auxV ++ Word.toLe 4 x.auxI),
       (0x20, Word.toLe 8 (pwrStatus s) ++ Word.toLe 8 (clkStatus s) ++ le16 x.hottest ++ le16 x.hotMem ++ le16 x.inlet ++ le16 x.outlet)])
  | 1 => some (pageOf ((0, t) :: (x.dies.take 8).zipIdx.map (fun (e : (Nat × Nat × List Int) × Nat) =>
      (0x40 + 0x80 * e.2, Word.toLe 4 e.1.1 ++ Word.toLe 4 e.1.2.1
        ++ (List.range 16).flatMap (fun i => le16 (e.1.2.2.getD i 0)) ++ Word.toLe 4 (tget 0 p.dieDroop e.2)))))
  | 2 => some (pageOf ((0, t ++ Word.toLe 8 p.engagements ++ Word.toLe 8 (match p.log.getLast? with | some e => e.seq | none => 0))
      :: (p.log.reverse.take 127).zipIdx.map (fun (e : BackEntry × Nat) => (0x20 + 0x20 * e.2, backBytes e.1))))
  | 3 => some (pageOf [(0, t), (0x40, (List.range 16).flatMap (fun i => le16 (x.hbm.getD i 0))),
      (0x80, (List.range 32).flatMap (fun i => le16 (x.lpddr.getD i 0)))])
  | 4 => some (pageOf [(0, t ++ (List.range 4).flatMap (fun i => Word.toLe 8 (tget 0 p.ticks i)) ++ Word.toLe 8 p.switches
      ++ Word.toLe 8 (p.energy / 1000000))])
  | _ => none

/-- What TELEMETRY answers in the assertion phase and the phases of boot (19/R572): the sensors alone. -/
def telemetryEarly (page : Nat) (x : Sensors) : Option (List Byte) :=
  match page with
  | 0 => some (pageOf [(8, Word.toLe 4 x.inV ++ Word.toLe 4 x.inI ++ Word.toLe 4 x.inP ++ Word.toLe 4 x.auxV ++ Word.toLe 4 x.auxI),
      (0x30, le16 x.hottest ++ le16 x.hotMem ++ le16 x.inlet ++ le16 x.outlet)])
  | 1 => some (pageOf ((x.dies.take 8).zipIdx.map (fun (e : (Nat × Nat × List Int) × Nat) =>
      (0x40 + 0x80 * e.2, Word.toLe 4 e.1.1 ++ Word.toLe 4 e.1.2.1 ++ (List.range 16).flatMap (fun i => le16 (e.1.2.2.getD i 0))))))
  | 3 => some (pageOf [(0x40, (List.range 16).flatMap (fun i => le16 (x.hbm.getD i 0))),
      (0x80, (List.range 32).flatMap (fun i => le16 (x.lpddr.getD i 0)))])
  | 2 => some (pageOf [])
  | 4 => some (pageOf [])
  | _ => none

/-- IDENTIFY. -/
def identify (s : State) (slot : Nat) : State :=
  match begun s slot 0x0601 with
  | some c => endCmd (hostWrite s (Pkt.p0 c.packet) (identifyPage s)) slot {}
  | none => s

def execIdentify (slot : Nat) (s : State) : Res := .next (identify s slot)

/-- TELEMETRY_READ. -/
def telemetryRead (s : State) (slot : Nat) (x : Sensors) : State :=
  match begun s slot 0x0602 with
  | none => s
  | some c =>
    match telemetryPage s (Pkt.p1 c.packet) x with
    | some b => endCmd (hostWrite s (Pkt.p0 c.packet) b) slot {}
    | none => refuseCmd s slot 0x03

def execTelemetryRead (slot : Nat) (x : Sensors) (s : State) : Res := .next (telemetryRead s slot x)

/-! ### Staging (16/R509) -/

/-- A handover is loading, waiting or switching. -/
def handingOver (s : State) : Bool := s.boot.handover == 1 || s.boot.handover == 2 || s.boot.handover == 3

/-- The standby bank: the one the module is not running. -/
def standbyBank (s : State) : Nat := 1 - s.boot.bank

/-- HUB_FW_STATUS.REASON. -/
def fwFailed (s : State) (reason : Nat) : State := modBoot s (fun b => { b with fwReason := reason })

/-- A bank loses its BANKS bit and is erased. DEDUCED: log entry 35. -/
def clearBank (s : State) (b : Nat) : State :=
  eraseBank (updateDir (modBoot s (fun x => { x with staged := false }))
    (fun d => { d with banks := if Word.bitOf d.banks b then d.banks - 2 ^ b else d.banks })) b

/-- A bank that was programmed and read back gets its BANKS bit and version. DEDUCED: log entry 35. -/
def completeBank (s : State) (b version : Nat) : State :=
  updateDir s fun d =>
    { d with banks := Nat.lor d.banks (2 ^ b), verA := if b = 0 then version else d.verA, verB := if b = 1 then version else d.verB }

/-- FW_STAGE of the bytes read from the host; `fail` is how many were programmed when the flash failed, if it did.
DEDUCED: log entry 35. -/
def fwStage (s : State) (slot : Nat) (image : List Byte) (fail : Option Nat) : State :=
  match begun s slot 0x0604 with
  | none => s
  | some c =>
    let len := Pkt.p1 c.packet
    let image := image.take len
    let b := standbyBank s
    let deny (s : State) (cls reason : Nat) : State := endCmd (fwFailed s reason) slot { cls, reason }
    if 2 ^ 25 < len then deny s 2 0x03
    else if handingOver s || s.boot.chunking then deny s 2 0xCD
    else if !verifyImage s image then deny s 3 0xC9
    else match fail with
      | some n => deny (programBank (clearBank s b) b 0 (image.take n)) 3 0xFF
      | none =>
        let s := completeBank (programBank (clearBank s b) b 0 image) b (imgVersion image)
        endCmd (modBoot s (fun x => { x with staged := true })) slot {}

def execFwStage (slot : Nat) (image : List Byte) (fail : Option Nat) (s : State) : Res := .next (fwStage s slot image fail)

/-! ### Live handover (16/R510, R511) -/

/-- The reason that refuses a handover to a bank, if any. -/
def handoverRefusal (s : State) (bank : Nat) : Option Nat :=
  if !owned s then some 0x2B
  else if handingOver s || bank ≠ standbyBank s || !s.boot.staged || !(List.range 9).all (cpSpareOk s) then some 0xCD
  else none

/-- The training context stands between its last launch of one step and its first of the next (08/R254): nothing of it
runs, and the next command that it has in the table begins a step. -/
def atStepBoundary (s : State) : Bool :=
  let cg := stepCg s
  let mine := s.cmds.filter (cmdOf s cg.1 cg.2)
  !s.launches.any (fun l => l.2.ctx == cg.1) && !collRunning s cg.1 && !stepTransfers s s.stepSt.cur
    && (match mine with | c :: _ => Pkt.opcode c.packet == 0x0501 | [] => true)

/-- The point of a handover has come (step 3). DEDUCED: log entry 35. -/
def handoverPoint (s : State) : Bool := (trainingCtx s).isNone || atStepBoundary s

/-- Whoever asked for the handover is answered. -/
def handoverAnswer (s : State) (by_ : Option HandBy) : State :=
  match by_ with
  | some (.host slot) => endCmd s slot {}
  | some (.mgmt r) => respond s r 0x000D 0 0 []
  | none => s

/-- The switch, and the settling after it (steps 4 to 6). -/
def handoverSwitch (s : State) : State :=
  let b := standbyBank s
  let by_ := s.boot.handBy
  let s := { s with cpActive := (List.range 9).foldl (fun t d => tset 0 t d (1 - tget 0 s.cpActive d)) s.cpActive }
  let s := updateDir s (fun d => { d with active := b, tries := 0 })
  let svn := imgSvn (bankBytes s b 0 512)
  handoverAnswer (modBoot s (fun x => { x with bank := b, svn, staged := false, handover := 4, handBy := none })) by_

/-- Advance a handover: the spares have reported, then the point has come. -/
def handoverGo (s : State) : State :=
  if s.boot.handover = 1 ∨ s.boot.handover = 2 then
    if handoverPoint s then handoverSwitch s else modBoot s (fun b => { b with handover := 2 })
  else s

/-- Begin a handover that passed its checks: the spares load the image. -/
def handoverBegin (s : State) (by_ : HandBy) : State := modBoot s (fun b => { b with handover := 1, handBy := some by_ })

/-- FW_HANDOVER: first its checks and the loading, then each of its later rows advances it. -/
def fwHandover (s : State) (slot : Nat) : State :=
  match begun s slot 0x0605 with
  | none => s
  | some c =>
    if s.boot.handBy = some (.host slot) then handoverGo s
    else match handoverRefusal s (Pkt.p0 c.packet) with
      | some r => refuseCmd (fwFailed s r) slot r
      | none => handoverBegin s (.host slot)

def execFwHandover (slot : Nat) (s : State) : Res := .next (fwHandover s slot)

/-- HANDOVER_TIMEOUT: 1 s without the spares' report, or 60 s without the point. -/
def execHandoverTimeout (s : State) : Res :=
  .next (if s.boot.handover = 1 ∨ s.boot.handover = 2 then handoverFail s else s)

/-! ### COUNTER_MIRROR (08/R264) -/

/-- The error counters of one port (11/R388). -/
def mirrorPort (s : State) (e : Nat × Port) : State :=
  let u := portUnit e.1
  let id := 2 ^ 22 + e.1
  let inc := e.2.uncorrCw - tget 0 s.ledger.mirrored (id + 64)
  let s := mirrorCounter (mirrorCounter s id u e.2.corrSymbols true) (id + 64) u e.2.uncorrCw false
  let s := if inc = 0 then s else modUnit s u (fun r => { r with uncorrectable := satAdd 32 r.uncorrectable inc })
  mirrorCounter s (id + 128) u e.2.retransmits false

/-- The lost-event counters of the rings (17/R539). -/
def mirrorRing (s : State) (e : Nat × Ring) : State := mirrorCounter s (2 ^ 23 + e.1) moduleUnit e.2.lost false

/-- COUNTER_MIRROR. -/
def counterMirror (s : State) : State :=
  s.events.rings.foldl mirrorRing (s.fab.ports.foldl mirrorPort (mirrorAll s))

def execCounterMirror (s : State) : Res := .next (if s.boot.phase = 6 then counterMirror s else s)

end Sys2Proof.Machine
end

