-- ==== Sys2Proof/Machine/Loader.lean ====
section
/-!
DEFINITION. The Loader's instructions and DELAY and FENCE, which every station has (05/R134-R145, 03/R88-R89).
-/
namespace Sys2Proof.Machine
open Fmt

/-! ### DELAY and FENCE -/

/-- DELAY does nothing but pass (05/R134). -/
def bodyDelay (s : State) (_ : Nat) (_ : W128) (_ : Finding) : Run := .done s

/-- FENCE: the station stops issuing until every station in scope has arrived (03/R88). -/
def bodyFence (s : State) (_ : Nat) (w : W128) (_ : Finding) : Run :=
  .hold (.fence (Ins.bits w 17 16) (Ins.bits w 15 0)) s

/-- The (core, station) pairs of a fence's scope (03/R88): 0 core, 1 the launch's cores on the die, 2 the launch. -/
def fenceScope (s : State) (core scope : Nat) : List Nat :=
  let l := coreLaunch s core
  if scope = 0 then [core]
  else if scope = 1 then l.cores.filter (fun c => c / 128 == core / 128)
  else l.cores

/-- Every station of the cores is held at a fence of the scope and sequence number. -/
def fenceReady (s : State) (cores : List Nat) (scope seq : Nat) : Bool :=
  cores.all fun c =>
    (getCore s c).run != 3 && (getCore s c).stations.all (fun x => decide (x.hold = .fence scope seq))

/-- One core resumes: the fence's signals take effect at the resume edge and a fixed region begins (03/R88, R89). -/
def resumeCore (s : State) (core : Nat) : State :=
  let s := (List.range 6).foldl (fun s st =>
    match fetchIns s core st with
    | none => s
    | some w => advanceSt (signals s core st (getStation (getCore s core) st).pc w) core st) s
  modCore s core fun c => if c.run = 3 then c else { c with run := 1, regionStart := s.arrayCycles }

/-- FENCE_RESUME: every station of the scope has arrived (03/R88). -/
def fenceResumeAll (s : State) (core st : Nat) : State :=
  match (getStation (getCore s core) st).hold with
  | .fence scope seq =>
    let cs := fenceScope s core scope
    if coreRuns s core && fenceReady s cs scope seq then cs.foldl resumeCore s else s
  | _ => s

def execDelay (core st : Nat) (f : Finding) (s : State) : Res := .next (issue s core st 0x00 f bodyDelay)
def execFence (core st : Nat) (f : Finding) (s : State) : Res := .next (issue s core st 0x7F f bodyFence)
def execFenceResume (core st : Nat) (s : State) : Res := .next (fenceResumeAll s core st)

/-! ### Reading crates for the array -/

/-- A crate read by the Loader or Packer: its payload, format, outer scale, and whether its lines are poisoned. -/
structure InCrate where
  bytes : List Byte
  tag : W128
  poison : Bool
deriving Repr

/-- Consume a crate of a core's bin. -/
def takeCrate (s : State) (core crate : Nat) : State × InCrate :=
  let (s, p, t, bad) := consume s (coreCtx s core) core crate
  (s, { bytes := p, tag := t, poison := bad })

/-- The refusal of a consumed crate by format and outer scale: 0xE2 (02/R39), 0xE3 (02/R48), 0xF1 for a format the
instruction does not take (05/R160). -/
def inputRefusal (x : InCrate) (accepts : Nat → Bool) : Option Nat :=
  let f := Tag.fmt x.tag
  if !known f then some 0xE2
  else if !accepts f then some 0xF1
  else if scaled f && !outerOk (outer f x.bytes) then some 0xE3
  else none

/-! ### LSTREAM (05/R138-R142) -/

/-- The feeder entry of one line: a skip entry when the stream skips, the line is predicted all-zero and it is
(05/R141). -/
def feedLine (skip : Bool) (x : InCrate) (l : Nat) : Feed :=
  let f := Tag.fmt x.tag
  let ln := Fmt.line f x.bytes l
  let predicted :=
    if Tag.zmapValid x.tag then Pack.zmapLine f (Tag.zmap x.tag) l
    else scaled f && ln.scales.all (· == 0)
  { fmt := f, elems := ln.elems, scales := ln.scales, outer := outer f x.bytes, poison := x.poison
    skip := skip && predicted && zeroLine ln, reweighed := Tag.reweighed x.tag }

/-- The first `n` lines of a crate as feeder entries. -/
def feedCrate (skip : Bool) (x : InCrate) (n : Nat) : List Feed := (List.range n).map (feedLine skip x)

/-- The lines of FP32 crates in groups of eight: line 8l + p of a group is line l of crate p (05/R140). -/
def interleave (xs : List InCrate) (n : Nat) : List Feed :=
  (List.range n).filterMap fun i =>
    let g := i / 64
    match xs[g * 8 + i % 8]? with
    | some x => some (feedLine false x (i % 64 / 8))
    | none => none

/-- What an LSTREAM has gathered: the state, the feeder entries (or FP32 crates) so far, and the stream's format. -/
structure Gather where
  s : State
  feeds : List Feed
  fps : List InCrate
  fmt : Nat

/-- The stream has its lines. -/
def Gather.enough (g : Gather) (lines : Nat) : Bool :=
  if g.fmt = fp32 then decide (lines / 64 * 8 + min 8 (lines % 64) ≤ g.fps.length)
  else decide (lines ≤ g.feeds.length)

/-- Take one crate into the stream, or end with its refusal. -/
def gatherCrate (core : Nat) (skip rw vt : Bool) (lines crate : Nat) (g : Gather) : Except Run Gather :=
  let (s, x) := takeCrate g.s core crate
  match inputRefusal x (fun f => f != untyped) with
  | some r => .error (.fault r s)
  | none =>
    let f := Tag.fmt x.tag
    if Tag.reweighed x.tag && !rw then
      .error (if vt then .fault 0xF1 s else .broken 0xED 8 s)
    else if rw && f != m4 && !Tag.reweighed x.tag then .error (.fault 0xF1 s)
    else if g.fmt ≠ 0 && g.fmt ≠ f && !(rw && (isF8 f || f = m4) && (isF8 g.fmt || g.fmt = m4)) then
      .error (.fault 0xF1 s)
    else if f = fp32 then .ok { g with s, fps := g.fps ++ [x], fmt := f }
    else .ok { g with s, feeds := g.feeds ++ feedCrate skip x (min (Fmt.lines f) (lines - g.feeds.length)), fmt := f }

/-- Take `n` crates from crate `first` on, until the stream has its lines. -/
def gatherSlot (core : Nat) (skip rw vt : Bool) (lines : Nat) : Nat → Nat → Gather → Except Run Gather
  | 0, _, g => .ok g
  | n + 1, c, g =>
    if g.enough lines then .ok g
    else match gatherCrate core skip rw vt lines c g with
      | .ok g' =>
        -- with RWPAIR the second crate is read only behind a re-weighed first one (05/R142)
        if rw && !Tag.reweighed (tget Tag.zero g'.s.mem.tags c) then .ok g'
        else gatherSlot core skip rw vt lines n (c + 1) g'
      | .error r => .error r

/-- The lines an LSTREAM pushes, given what it gathered. -/
def Gather.out (g : Gather) (lines : Nat) : List Feed :=
  if g.fmt = fp32 then interleave g.fps lines else g.feeds

/-- Slots taken in order until the stream has its lines (05/R135, R136, R138). `k` counts the slots taken. -/
def gatherSlots (core : Nat) (w : W128) (b : Nat) (keep : Bool) (slot0 lines : Nat) : Nat → Nat → Gather → Except (Run × Gather) Gather
  | 0, _, g => .ok g
  | n + 1, k, g =>
    if g.enough lines then .ok g
    else
      let bin := getBin (getCore g.s core) b
      let slot := if keep then (slot0 + k) % bin.slotCount else bin.emptySlot
      if !keep && !bin.dataOk then
        .error (if Ins.vt w then .hold .wait g.s else .broken 0xE9 b g.s, g)
      else match gatherSlot core (Ins.bit w 63) (Ins.bit w 62) (Ins.vt w) lines
          (if Ins.bit w 62 then 2 else bin.slotCrates) (slotCrate core bin slot 0) g with
        | .error r => .error (r, g)
        | .ok g' =>
          if keep then gatherSlots core w b keep slot0 lines n (k + 1) g'
          else match implicitRelease g'.s core b with
            | .error r => .error (r, g')
            | .ok s' => gatherSlots core w b keep slot0 lines n (k + 1) { g' with s := s' }

/-- Push lines into the feeder queues (04/R102; the order alone is modelled, log entry 10). -/
def pushFeeds (s : State) (core : Nat) (fs : List Feed) : State :=
  modCore s core fun c => { c with feeder := c.feeder ++ fs }

/-- LSTREAM (05/R138-R142). A marked stream that meets an empty bin keeps the lines already pushed and holds. -/
def bodyLstream (s : State) (core : Nat) (w : W128) (_ : Finding) : Run :=
  let b := Ins.bits w 87 82
  let prog := (getStation (getCore s core) 0).prog
  let lines := Ins.bits w 81 66 - prog
  match gatherSlots core w b (Ins.bit w 61) (Ins.bits w 60 50) lines (lines + 8) 0 { s, feeds := [], fps := [], fmt := 0 } with
  | .ok g => .done (pushFeeds g.s core (g.out lines))
  | .error (.hold h s', g) =>
    if g.fmt = fp32 then .hold h s
    else .hold h (modCore (pushFeeds s' core g.feeds) core
      (fun c => modStation c 0 (fun x => { x with prog := prog + g.feeds.length })))
  | .error (r, _) => r

def execLstream (core : Nat) (f : Finding) (s : State) : Res := .next (issue s core 0 0x01 f bodyLstream)

/-! ### LWEIGHT (05/R143, 04/R105-R107) -/

/-- The columns that a list of lines fills from column `c0` on. -/
def colsOf (c0 : Nat) (ls : List Line) : List (Nat × Col) :=
  (ls.zipIdx.map fun (l, i) => (c0 + i, ({ fmt := l.fmt, elems := l.elems, scales := l.scales } : Col))).filter (fun x => x.1 < 128)

/-- All lines of a crate. -/
def crateLines (x : InCrate) : List Line :=
  let f := Tag.fmt x.tag
  (List.range (Fmt.lines f)).map (Fmt.line f x.bytes)

/-- BF16 lines transposed: element k of line l becomes element l of column k (05/R143). -/
def transposeLines (ls : List Line) : List Line :=
  (List.range 128).map fun k =>
    { fmt := bf16, elems := ls.map (fun l => l.elems.getD k 0), scales := [] }

/-- Read the crates of a weight load in order; a refusal ends it before any word is written into the shadow tile. -/
def takeCrates (core : Nat) : List Nat → State → State × List InCrate
  | [], s => (s, [])
  | c :: cs, s =>
    let (s, x) := takeCrate s core c
    let (s, xs) := takeCrates core cs s
    (s, x :: xs)

/-- Crates actually read by a slot of two with RWPAIR: the pair, or the M4 crate alone (05/R142, R143). -/
def pairCrates (s : State) (c : Nat) : List Nat :=
  if Tag.reweighed (crateTag s.mem c) then [c, c + 1] else [c]

/-- The crate limit of a format (05/R143). -/
def weightLimit (f : Nat) : Nat := if f = m4 then 3 else if isF8 f then 5 else 8

/-- The tile that crates make (04/R105, R107). -/
def tileOf (xs : List InCrate) (transpose : Bool) (level slice : Nat) : Tile :=
  let ls := xs.flatMap crateLines
  let ls := if transpose then transposeLines ls else ls
  let outers := xs.map fun x => outer (Tag.fmt x.tag) x.bytes
  let o := outers.headD 0x3F800000#32
  { cols := colsOf 0 ls, outer := o, level, slice, loaded := true
    marked := outers.any (· != o), poisoned := xs.any (·.poison), reweighed := xs.any (fun x => Tag.reweighed x.tag) }

/-- The refusals of the crates of one weight load. -/
def weightRefusal (s : State) (w : W128) (xs : List InCrate) (units : Nat) : Option Run :=
  let rw := Ins.bit w 71
  match xs.findSome? (fun x => inputRefusal x (fun f => f != untyped && f != fp32)) with
  | some r => some (.fault r s)
  | none =>
    let f := Tag.fmt ((xs.head?).map (·.tag) |>.getD 0#128)
    if xs.any (fun x => Tag.reweighed x.tag) && !rw then
      some (if Ins.vt w then .fault 0xF1 s else .broken 0xED 8 s)
    else if weightLimit (if rw then m4 else f) < units then some (.fault 0xF1 s)
    else if !rw && xs.any (fun x => Tag.fmt x.tag != f) then some (.fault 0xF1 s)
    else if rw && xs.any (fun x => !(scaled (Tag.fmt x.tag))) then some (.fault 0xF1 s)
    else if Ins.bit w 77 && f != bf16 then some (.fault 0xF1 s)
    else none

/-- Release `n` slots. -/
def releaseN (core b : Nat) : Nat → State → Except Run State
  | 0, s => .ok s
  | n + 1, s => match implicitRelease s core b with
    | .ok s => releaseN core b n s
    | .error r => .error r

/-- LWEIGHT (05/R143). -/
def bodyLweight (s : State) (core : Nat) (w : W128) (_ : Finding) : Run :=
  let b := Ins.bits w 87 82
  let n := Ins.bits w 81 78
  let rw := Ins.bit w 71
  let keep := Ins.bit w 70
  let bin := getBin (getCore s core) b
  let slots := if rw then n else 1
  let slot0 := if keep then Ins.bits w 69 59 else bin.emptySlot
  match if keep then none else implicitWait s w (decide (slots ≤ bin.occ)) 0xE9 b with
  | some r => r
  | none =>
    let crates :=
      if rw then (List.range n).flatMap fun i => pairCrates s (slotCrate core bin ((slot0 + i) % bin.slotCount) 0)
      else (List.range n).map fun i => slotCrate core bin (slot0 % bin.slotCount) i
    let (s, xs) := takeCrates core crates s
    match weightRefusal s w xs n with
    | some r => r
    | none =>
      let t := tileOf xs (Ins.bit w 77) (Ins.bits w 76 75) (Ins.bits w 74 72)
      let s := modCore s core (fun c => { c with shadow := t })
      let s := if t.marked then
          raiseCore s 0xEF (coreCtx s core) core 0 (getStation (getCore s core) 0).pc 0 else s
      match releaseN core b (if keep then 0 else slots) s with
      | .ok s => .done s
      | .error r => r

def execLweight (core : Nat) (f : Finding) (s : State) : Res := .next (issue s core 0 0x02 f bodyLweight)

/-! ### LDIAG (05/R145, 04/R112) -/

/-- LDIAG: the diagonal registers take one line of an FP32 crate. -/
def bodyLdiag (s : State) (core : Nat) (w : W128) (_ : Finding) : Run :=
  let b := Ins.bits w 87 82
  let keep := Ins.bit w 78
  let bin := getBin (getCore s core) b
  let slot := if keep then Ins.bits w 77 67 % bin.slotCount else bin.emptySlot
  match if keep then none else implicitWait s w bin.dataOk 0xE9 b with
  | some r => r
  | none =>
    let (s, x) := takeCrate s core (slotCrate core bin slot (Ins.bits w 66 56))
    match inputRefusal x (· == fp32) with
    | some r => .fault r s
    | none =>
      let s := modCore s core fun c =>
        { c with diag := lineF32 fp32 x.bytes (Ins.bits w 81 79), diagPoison := x.poison }
      match releaseN core b (if keep then 0 else 1) s with
      | .ok s => .done s
      | .error r => r

def execLdiag (core : Nat) (f : Finding) (s : State) : Res := .next (issue s core 0 0x03 f bodyLdiag)

end Sys2Proof.Machine
end

