-- ==== Sys2Proof/Machine/Matrix.lean ====
section
/-!
DEFINITION. The Matrix station and the array (chapter 04, 05/R146-R148): block passes, diagonal passes, drains, the
activity floor and its frames, weighing, and the clearing of array holds.
-/
namespace Sys2Proof.Machine
open Sys2Proof.Machine.Fmt Sys2Proof.Machine.Num

/-- The usable columns of a weighing level (04/R119). -/
def usable (level : Nat) : Nat := if level = 0 then 128 else if level = 1 then 127 else if level = 2 then 124 else 112

/-- A level checks a line of a format (04/R119). -/
def weighs (level fmt : Nat) : Bool := level == 3 || (level != 0 && scaled fmt)

def getLine (c : Core) (n : Nat) : BenchLine := tget {} c.bench n
def setLine (c : Core) (n : Nat) (l : BenchLine) : Core := { c with bench := tset {} c.bench n l }

/-- The σ of a line's operands (02/R52, 04/R107): 1.0 for BF16. -/
def sigmaOf (f : Feed) (t : Tile) : F32 := if f.fmt = bf16 then one32 else mul f.outer t.outer

/-- The invalid operand pairs of a line with the tile's loaded columns (02/R49, 05/R147). -/
def pairBad (f : Feed) (t : Tile) : Bool :=
  f.fmt == fp32 || f.fmt == untyped || t.cols.any (fun c => !pairOk f.fmt c.2.fmt)

/-- The line as it streams: a skip entry streams as an all-zero line of its format (04/R109). -/
def streamLine (f : Feed) : Line :=
  if f.skip then zeroLineOf f.fmt else { fmt := f.fmt, elems := f.elems, scales := f.scales }

/-- One entry of a bench line over a streamed line (02/R51, 04/R105): a column no load wrote adds nothing. -/
def entryOf (t : Tile) (l : Line) (j : Nat) (start : F32) : F32 :=
  let c := tget {} t.cols j
  if c.fmt = 0 then start else lineDot l { fmt := c.fmt, elems := c.elems, scales := c.scales } start

/-- The effect of one streamed line on its bench line (02/R51, 04/R107, R111, R119). -/
def benchLineAfter (clear : Bool) (level : Nat) (t : Tile) (f : Feed) (b : BenchLine) : BenchLine :=
  let l := streamLine f
  let σ := sigmaOf f t
  let bad := f.poison || t.poisoned || t.marked
  let vals := b.vals.zipIdx.map fun (v, j) =>
    if j < usable level then entryOf t l j (if clear then zero32 else v) else v
  if clear then
    { vals, poison := bad, sigma := some σ, ecc := b.ecc.filter (fun j => decide (usable level ≤ j)) }
  else
    { vals, ecc := b.ecc
      sigma := match b.sigma with | some x => some x | none => some σ
      poison := b.poison || bad || (match b.sigma with | some x => x != σ | none => false) }

/-- A non-clearing line meets a stored σ that differs in any bit (04/R107). -/
def sigmaClash (clear : Bool) (t : Tile) (f : Feed) (b : BenchLine) : Bool :=
  !clear && (match b.sigma with | some x => x != sigmaOf f t | none => false)

/-- Stream the lines of a block pass from bench line `n` on; the flag says that a σ clashed. -/
def passLines (clear skip : Bool) (level : Nat) (t : Tile) : List Feed → Nat → Core → Core × Bool
  | [], _, c => (c, false)
  | f :: fs, n, c =>
    if f.skip && skip && !clear then passLines clear skip level t fs (n + 1) c
    else
      let b := getLine c n
      let c' := setLine c n (benchLineAfter clear level t f b)
      let c' := if weighs level f.fmt then { c' with weighChecks := c'.weighChecks + 8#64 } else c'
      let (c'', x) := passLines clear skip level t fs (n + 1) c'
      (c'', sigmaClash clear t f b || x)

/-- The CORE_WEIGH_LAST word (04/R128). -/
def weighLastW (q line block level : Nat) (col : Option Nat) : W64 :=
  BitVec.ofNat 64 (q % 2 ^ 32 * 2 ^ 32 + line % 2 ^ 11 * 2 ^ 21 + block % 8 * 2 ^ 18
    + (match col with | some c => c % 128 * 2 ^ 11 + 2 ^ 10 | none => 0) + level % 4 * 2 ^ 8 + 1)

/-- A weighing disagreement (04/R125): the line is poisoned, the event raised, the registers and ledger written. -/
def weighMismatch (s : State) (core q line block level : Nat) (col : Option Nat) : State :=
  let col := if level ≥ 2 then col else none
  let w := weighLastW q line block level col
  let s := modCore s core fun c =>
    let c := setLine c line { getLine c line with poison := true }
    { c with weighLast := w, weighMismatch := satAdd 32 c.weighMismatch 1 }
  let s := raiseCore s 0xEE (coreCtx s core) core 1 (getStation (getCore s core) 1).pc w.toNat
  let s := logRec s 0x12 0xEE (coreUnit s core) (ldata (Word.toLe 8 w.toNat))
  countEvent (modUnit s (coreUnit s core) (fun u => { u with weigh := satAdd 32 u.weigh 1 })) (coreUnit s core) 0xEE 0

/-- Start-value reads of an uncorrectable entry keep it uncorrectable (07/R201). -/
def markEcc (c : Core) : Finding → Core
  | .benchEntry n j => setLine c n { getLine c n with ecc := ninsert (getLine c n).ecc j }
  | _ => c

/-- The refusals of an MPASS before it streams (05/R147, R118). -/
def mpassRefusal (c : Core) (w : W128) (fs : List Feed) (count : Nat) : Option (State → Run) :=
  let t := if Ins.bit w 64 then c.shadow else c.active
  let level := Ins.bits w 63 62
  if Ins.bit w 64 && !c.shadow.loaded then some (.fault 0xF2)
  else if level ≠ t.level then some (.fault 0xF2)
  else if level = 3 && c.pass % 8 ≠ t.slice then some (.fault 0xF2)
  else if fs.length < count then
    some (fun s => if Ins.vt w then .hold (.array 1) s else .broken 0xED 1 s)
  else if !Ins.vt w && (t.reweighed || fs.any (·.reweighed)) then some (.broken 0xED 8)
  else if fs.any (fun f => pairBad f t) then some (.fault 0xF1)
  else none

/-- Take the shadow tile active; the former active tile loses its loaded state (04/R106, 05/R144). -/
def swapTiles (c : Core) : Core := { c with active := c.shadow, shadow := { c.active with loaded := false } }

/-- MPASS (05/R147). -/
def bodyMpass (s : State) (core : Nat) (w : W128) (f : Finding) : Run :=
  let c := getCore s core
  let base := Ins.bits w 87 77
  let count := Ins.bits w 76 66 + 1
  let clear := Ins.bit w 65
  let level := Ins.bits w 63 62
  let fs := c.feeder.take count
  match mpassRefusal c w fs count with
  | some r => r s
  | none =>
    let c := if Ins.bit w 64 then swapTiles c else c
    let q := c.pass
    let c := markEcc c f
    let c := { c with feeder := c.feeder.drop count, pass := (c.pass + 1) % 2 ^ 32, level, diagMode := false }
    let (c, clash) := passLines clear (Ins.bit w 61) level c.active fs base c
    let s := setCore s core c
    let s := if clash then raiseCore s 0xEF (coreCtx s core) core 1 (getStation c 1).pc 0 else s
    match f with
    | .weigh xs => .done ((xs.filter fun x => decide (base ≤ x.1) &&
        (match fs[x.1 - base]? with | some y => !y.skip && weighs level y.fmt | none => false)).foldl
          (fun s x => weighMismatch s core q x.1 x.2.1 level x.2.2) s)
    | _ => .done s

def execMpass (core : Nat) (f : Finding) (s : State) : Res := .next (issue s core 1 0x10 f bodyMpass)

/-- One entry of a diagonal pass (04/R112). -/
def diagEntry (op : Nat) (x w v : F32) : F32 :=
  if op = 0 then mul x w else if op = 1 then add x w else fma x w v

/-- One line of a diagonal pass; MUL and ADD write every entry afresh (04/R112, 07/R201). -/
def diagLine (op : Nat) (w : List F32) (wp : Bool) (f : Feed) (b : BenchLine) : BenchLine :=
  { b with
    vals := b.vals.zipIdx.map (fun (v, k) => diagEntry op (BitVec.ofNat 32 (f.elems.getD k 0)) (w.getD k 0#32) v)
    poison := b.poison || f.poison || wp
    ecc := if op = 2 then b.ecc else [] }

def diagLines (op : Nat) : List Feed → Nat → Core → Core
  | [], _, c => c
  | f :: fs, n, c => diagLines op fs (n + 1) (setLine c n (diagLine op c.diag c.diagPoison f (getLine c n)))

/-- MDIAG (05/R148, 04/R112). -/
def bodyMdiag (s : State) (core : Nat) (w : W128) (f : Finding) : Run :=
  let c := getCore s core
  let count := Ins.bits w 76 66 + 1
  let fs := c.feeder.take count
  if fs.length < count then (if Ins.vt w then .hold (.array 1) s else .broken 0xED 1 s)
  else if fs.any (fun x => x.fmt != fp32) then .fault 0xF1 s
  else
    let c := markEcc c f
    let c := { c with feeder := c.feeder.drop count, pass := (c.pass + 1) % 2 ^ 32, diagMode := true }
    .done (setCore s core (diagLines (Ins.bits w 65 64) fs (Ins.bits w 87 77) c))

def execMdiag (core : Nat) (f : Finding) (s : State) : Res := .next (issue s core 1 0x11 f bodyMdiag)

/-- A bench line as a drain delivers it (02/R52, 04/R107, R108, 07/R201). -/
def drainLine (sigma : Bool) (b : BenchLine) : DLine :=
  { vals := if sigma then b.vals.map (fun v => mul v (b.sigma.getD one32)) else b.vals
    poison := b.poison || !b.ecc.isEmpty }

/-- MDRAIN (04/R108, 05/R148). -/
def bodyMdrain (s : State) (core : Nat) (w : W128) (f : Finding) : Run :=
  let base := Ins.bits w 87 77
  let count := Ins.bits w 76 66 + 1
  let c := markEcc (getCore s core) f
  let ls := (List.range count).map fun i => getLine c (base + i)
  let out := ls.map (drainLine (Ins.bit w 64))
  let c := if Ins.bit w 65 then { c with drainVec := c.drainVec ++ out } else { c with drainPack := c.drainPack ++ out }
  let s := setCore s core c
  .done (if ls.any (fun b => !b.ecc.isEmpty) then
      raiseCrate s 0x49 (coreCtx s core) (scratchBase core) 0 core 0xFFFF else s)

def execMdrain (core : Nat) (f : Finding) (s : State) : Res := .next (issue s core 1 0x12 f bodyMdrain)

/-- MFLOOR (05/R146, R148). -/
def bodyMfloor (s : State) (core : Nat) (w : W128) (_ : Finding) : Run :=
  .done (modCore s core fun c => { c with floor := Ins.bits w 8 0 })

def execMfloor (core : Nat) (f : Finding) (s : State) : Res := .next (issue s core 1 0x13 f bodyMfloor)

/-! ### Activity frames (04/R113-R117) -/

/-- The activity target of a frame (04/R113). -/
def frameTarget (aPrev floor quiet : Nat) : Nat :=
  let low := if quiet < 14 then aPrev else aPrev - 4
  min (max low (min floor (aPrev + 4))) 256

/-- The cycles of a frame from `c` on: `n` cycles left, operating cycles and dummy cycles so far. -/
def frameOps (due : List Nat) (t : Nat) : Nat → Nat → Nat → Nat → Nat × Nat
  | 0, _, ops, dum => (ops, dum)
  | n + 1, c, ops, dum =>
    if due.contains c then frameOps due t n (c + 1) (ops + 1) dum
    else if 256 - c ≤ t - ops then frameOps due t n (c + 1) (ops + 1) (dum + 1)
    else frameOps due t n (c + 1) ops dum

/-- ACTIVITY_FRAME: one frame of 256 array cycles whose real operations fall in the cycles `due` (04/R113); those
above A_prev + 4 wait for a later frame or fault their instruction (R114), so they are no operations of this one. -/
def activityFrame (c : Core) (due : List Nat) : Core :=
  let real := (due.filter (· < 256)).take (c.activity + 4)
  let t := frameTarget c.activity c.floor c.quiet
  let (ops, dum) := frameOps real t 256 0 0 0
  { c with activity := ops, quiet := if real = [] then c.quiet + 1 else 0
           dummyCycles := c.dummyCycles + BitVec.ofNat 64 dum }

def execActivityFrame (core : Nat) (due : List Nat) (s : State) : Res :=
  .next (modCore s core (fun c => activityFrame c due))

end Sys2Proof.Machine
end

