-- ==== Sys2Proof/Machine/Packer.lean ====
section
/-!
DEFINITION. The Packer (02/R57-R67, 05/R149-R154).
-/
namespace Sys2Proof.Machine
open Fmt

/-- PSET (05/R149): an outer scale that is not positive, finite and non-zero is station fault 0xF0. -/
def bodyPset (s : State) (core : Nat) (w : W128) (_ : Finding) : Run :=
  let t : F32 := BitVec.ofNat 32 (Ins.bits w 87 56)
  if outerOk t then
    .done (modCore s core fun c => { c with params :=
      { outer := t, th := Ins.bits w 55 40, layer := Ins.bits w 39 24, countBase := Ins.bits w 23 8, cbEn := Ins.bit w 7 } })
  else .fault 0xF0 s

def execPset (core : Nat) (f : Finding) (s : State) : Res := .next (issue s core 2 0x20 f bodyPset)

/-- The operands of a PPACK (05/R150). -/
structure PackOp where
  srcBin : Option Nat
  dst : Nat
  count : Nat
  target : Nat
  rule0 : Bool
  stoch : Bool
  rw : Option Nat
  transpose : Bool
  pred : Option Nat
  tile : Nat
deriving DecidableEq, Repr

def packOp (w : W128) : PackOp :=
  { srcBin := if Ins.bit w 87 then some (Ins.bits w 86 81) else none
    dst := Ins.bits w 80 75, count := Ins.bits w 74 64 + 1, target := Ins.bits w 63 61
    rule0 := !Ins.bit w 60, stoch := Ins.bit w 59
    rw := if Ins.bit w 58 then some (if Ins.bit w 57 then e5m2 else e4m3) else none
    transpose := Ins.bit w 56, pred := if Ins.bit w 55 then some (Ins.bits w 54 44) else none
    tile := Ins.bits w 31 0 }

/-- The FP32 lines of a consumed crate. -/
def fpLines (x : InCrate) : List DLine := (List.range 8).map fun l => { vals := lineF32 fp32 x.bytes l, poison := x.poison }

/-- Take the crates of one source slot until `n` lines are there. -/
def packSlot (core : Nat) : Nat → Nat → Nat → State → List DLine → Except Run (State × List DLine)
  | 0, _, _, s, acc => .ok (s, acc)
  | k + 1, c, n, s, acc =>
    if n ≤ acc.length then .ok (s, acc)
    else
      let (s, x) := takeCrate s core c
      match inputRefusal x (· == fp32) with
      | some r => .error (.fault r s)
      | none => packSlot core k (c + 1) n s (acc ++ fpLines x)

/-- Keep the lines the Packer has taken in. -/
def keepIn (s : State) (core : Nat) (ls : List DLine) : State := modCore s core fun c => { c with packIn := ls }

/-- Input lines from a bin, slot by slot with the implicit waits and releases of 05/R135. -/
def packFromBin (core : Nat) (w : W128) (b n : Nat) : Nat → State → List DLine → Except Run (State × List DLine)
  | 0, s, acc => .ok (s, acc)
  | k + 1, s, acc =>
    if n ≤ acc.length then .ok (s, acc)
    else
      let bin := getBin (getCore s core) b
      match implicitWait (keepIn s core acc) w bin.dataOk 0xE9 b with
      | some r => .error r
      | none =>
        match packSlot core bin.slotCrates (slotCrate core bin bin.emptySlot 0) n s acc with
        | .error r => .error r
        | .ok (s, acc) =>
          match implicitRelease s core b with
          | .error r => .error r
          | .ok s => packFromBin core w b n k s acc

/-- Transpose blocks of 128 lines (05/R153): output line j holds element j of the block's lines. -/
def transposeBlocks : Nat → List DLine → List DLine
  | 0, _ => []
  | k + 1, ls =>
    let blk := ls.take 128
    let bad := blk.any (·.poison)
    (List.range 128).map (fun j => ({ vals := blk.map (fun l => l.vals.getD j 0#32), poison := bad } : DLine))
      ++ transposeBlocks k (ls.drop 128)

/-- The generator identity of unit `u` (02/R60): seed of the context, step in progress, layer, tile base plus ordinal. -/
def packIds (s : State) (core : Nat) (o : PackOp) (u : Nat) : Pack.Ids :=
  { seed := (getCtx s (coreLaunch s core).ctx).seed, step := BitVec.ofNat 64 s.stepSt.cur
    layer := (getCore s core).params.layer, tile := (o.tile + u) % 2 ^ 32 }

/-- The blocks of a unit whose predicted exponent differs from the true one, and the table with the true exponents
(02/R67, 05/R154). Targets without block scales have no exponents to predict. -/
def predictUnit (s : State) (core : Nat) (o : PackOp) (u : Nat) (t : F32) (ls : List DLine) : State × Bool :=
  match o.pred with
  | none => (s, false)
  | some pc =>
    if !scaled o.target then (s, true)
    else
      let addr := scratchBase core + pc * 4096 + u * 512
      let truth := ls.flatMap fun l => (List.range 8).map fun b =>
        let ys := (slice l.vals (16 * b) 16).map (fun v => Num.div v t)
        Pack.trueScale o.target o.rule0 ys
      let old := (readBytes s.mem.cells addr truth.length).map (·.toNat)
      (modMem s (fun m => patchBytes m addr (truth.map (BitVec.ofNat 8))), decide (old = truth))

/-- One output crate: payload and tag (02/R46, R64; 08/R240-R242). -/
def packCrate (s : State) (core crate fmt : Nat) (t : F32) (ls : List Pack.PLine) (bad rew pred : Bool) : State :=
  let p := Pack.payload fmt t ls
  let (s, lin) := coreLineageNext s core
  let z := fmt != fp32
  let fl := Tag.flagsOf (Pack.countLines ls).clipped bad rew pred z false
  putCrate s crate p (Tag.computed p fmt (if z then Pack.zmap fmt p else 0) fl lin)

/-- Add a unit's counts to the instruction's totals (02/R62). -/
def addCounts (s : State) (core : Nat) (c : Pack.Counts) (rew : Nat) : State :=
  modCore s core fun x => { x with packCnt :=
    [x.packCnt.getD 0 0 + c.clipped, x.packCnt.getD 1 0 + c.under, x.packCnt.getD 2 0 + c.nans, x.packCnt.getD 3 0 + rew] }

/-- Pack unit `u` into local crate `crate` and, when it is re-weighed, the next one (02/R65, R66). -/
def packUnit (s : State) (core : Nat) (o : PackOp) (u crate : Nat) (ls : List DLine) : State :=
  let t := (getCore s core).params.outer
  let ids := packIds s core o u
  let vs := ls.map (·.vals)
  let (s, predicted) := predictUnit s core o u t ls
  let out := Pack.packLines o.target o.rule0 o.stoch ids t 0 vs
  let cnt := Pack.countLines out
  match o.rw with
  | some f8 =>
    if Pack.reweighDue cnt (ls.length * 128) (getCore s core).params.th then
      let a := Pack.packLines f8 o.rule0 o.stoch ids t 0 (vs.take 28)
      let b := Pack.packLines f8 o.rule0 o.stoch ids t 28 (vs.drop 28)
      let s := packCrate s core crate f8 t a ((ls.take 28).any (·.poison)) true predicted
      let s := packCrate s core (crate + 1) f8 t b ((ls.drop 28).any (·.poison)) true predicted
      addCounts s core (Pack.countLines (a ++ b)) 1
    else addCounts (packCrate s core crate o.target t out (ls.any (·.poison)) false predicted) core cnt 0
  | none => addCounts (packCrate s core crate o.target t out (ls.any (·.poison)) false predicted) core cnt 0

/-- Units from `u` on into the destination bin, slot by slot (05/R135, R150). -/
def packUnits (core : Nat) (w : W128) (o : PackOp) (total : Nat) (ls : List DLine) : Nat → Nat → State → Except Run State
  | 0, _, s => .ok s
  | k + 1, u, s =>
    if total ≤ u then .ok s
    else
      let bin := getBin (getCore s core) o.dst
      let per := if o.rw.isSome then 1 else bin.slotCrates
      match if u % per = 0 then implicitWait (modCore s core fun c => modStation c 2 (fun x => { x with prog := u })) w bin.spaceOk 0xEA o.dst else none with
      | some r => .error r
      | none =>
        let n := Fmt.lines o.target
        let s := packUnit s core o u (slotCrate core bin bin.fillSlot (if o.rw.isSome then 0 else u % per)) ((ls.drop (u * n)).take n)
        if (u + 1) % per = 0 ∨ u + 1 = total then
          match implicitPost s core o.dst with
          | .error r => .error r
          | .ok s => packUnits core w o total ls k (u + 1) s
        else packUnits core w o total ls k (u + 1) s

/-- The four count additions of a completed PPACK (02/R62). -/
def packTallies (s : State) (core : Nat) : State :=
  let c := getCore s core
  let s := modCore s core fun c => { c with packIn := [], packCnt := [0, 0, 0, 0] }
  if c.params.cbEn then
    (List.range 4).foldl (fun s i => coreTally s core (c.params.countBase + i) (c.packCnt.getD i 0)) s
  else s

/-- The input lines of a PPACK: those already taken in, then the drain path or the source bin. -/
def packInput (s : State) (core : Nat) (w : W128) (o : PackOp) : Except Run (State × List DLine) :=
  let c := getCore s core
  if o.count ≤ c.packIn.length then .ok (s, c.packIn)
  else match o.srcBin with
    | none =>
      if c.drainPack.length < o.count then .error .notDue
      else .ok (modCore s core fun c => { c with drainPack := c.drainPack.drop o.count }, c.drainPack.take o.count)
    | some b => packFromBin core w b o.count (o.count + 1) s c.packIn

/-- PPACK (05/R150-R154). A marked one that meets a full or empty bin keeps the lines taken in and the units done. -/
def bodyPpack (s : State) (core : Nat) (w : W128) (_ : Finding) : Run :=
  let o := packOp w
  match packInput s core w o with
  | .error r => r
  | .ok (s, ins) =>
    let ins := ins.take o.count
    let s := keepIn s core ins
    let ls := if o.transpose then transposeBlocks (o.count / 128) ins else ins
    let n := Fmt.lines o.target
    let total := (o.count + n - 1) / n
    match packUnits core w o total ls total (getStation (getCore s core) 2).prog s with
    | .error r => r
    | .ok s => .done (packTallies s core)

def execPpack (core : Nat) (f : Finding) (s : State) : Res := .next (issue s core 2 0x21 f bodyPpack)

end Sys2Proof.Machine
end

