-- ==== Sys2Proof/Machine/Trans.lean ====
section
/-!
DEFINITION. The transcendental unit (02/R54): each function evaluated in fixed point with 512 fraction bits, far
beyond the distance any FP32 argument brings a result to a rounding boundary, and rounded once; the arguments whose
result is exact, and the special ones, are answered before (DEDUCED, log entry 31).
-/
namespace Sys2Proof.Machine.Trans
open Sys2Proof.Machine.Num

/-- Fraction bits of the fixed point. -/
def fb : Nat := 512
/-- One. -/
def one : Int := 2 ^ 512

/-- `± m * 2^e` in fixed point, rounded toward minus infinity. -/
def fix (n : Bool) (m : Nat) (e : Int) : Int :=
  let x : Int := if n then -(m : Int) else m
  let k := e + (fb : Int)
  if 0 ≤ k then x * 2 ^ k.toNat else x / 2 ^ (-k).toNat

/-- Fixed-point product. -/
def fmul (a b : Int) : Int := a * b / one
/-- Fixed-point quotient. -/
def fdiv (a b : Int) : Int := a * one / b

/-- Round a fixed-point value to FP32. -/
def rnd (x : Int) : F32 := round32 (decide (x < 0)) x.natAbs (-(fb : Int)) true

/-- Partial sums of the exponential series: `k` terms left, term number `n`, current term and sum. -/
def expSeries (r : Int) : Nat → Nat → Int → Int → Int
  | 0, _, _, s => s
  | k + 1, n, t, s => let t' := fmul t r / (n : Int); expSeries r k (n + 1) t' (s + t')

/-- `k` squarings. -/
def squares : Nat → Int → Int
  | 0, x => x
  | k + 1, x => squares k (fmul x x)

/-- e^x for |x| up to about 110. -/
def expF (x : Int) : Int := squares 10 (expSeries (x / 1024) 90 1 one one)

/-- The series of atanh: `k` terms left, denominator, odd power, its square and the sum. -/
def atanhSeries (z2 : Int) : Nat → Nat → Int → Int → Int
  | 0, _, _, s => s
  | k + 1, d, p, s => atanhSeries z2 k (d + 2) (fmul p z2) (s + p / (d : Int))

/-- atanh z for |z| at most about one third. -/
def atanhF (z : Int) : Int := atanhSeries (fmul z z) 170 1 z 0

/-- ln 2. -/
def ln2 : Int := 2 * atanhF (one / 3)

/-- Natural logarithm of `m * 2^e`, `m > 0`. -/
def lnF (m : Nat) (e : Int) : Int :=
  let l := Nat.log2 m
  let big := m * 2 > 3 * 2 ^ l
  let k : Int := (l : Int) + (if big then 1 else 0)
  let f := fix false m (-k)
  2 * atanhF (fdiv (f - one) (f + one)) + (e + k) * ln2

/-- π by Machin's formula: `16 atan(1/5) - 4 atan(1/239)`; the alternating series of atan. -/
def atanSeries (z2 : Int) : Nat → Nat → Int → Int → Int
  | 0, _, _, s => s
  | k + 1, d, p, s => atanSeries z2 k (d + 2) (-(fmul p z2)) (s + p / (d : Int))
/-- atan of `1/q`. -/
def atanInv (q : Nat) : Int := let z := one / (q : Int); atanSeries (fmul z z) 120 1 z 0
/-- π. -/
def pi : Int := 16 * atanInv 5 - 4 * atanInv 239
/-- 2/√π. -/
def twoOverSqrtPi : Int := fdiv (2 * one) ((isqrt (pi.toNat * 2 ^ 512) : Nat) : Int)

/-- The series of erf without its factor. -/
def erfSeries (x2 : Int) : Nat → Nat → Int → Int → Int
  | 0, _, _, s => s
  | k + 1, n, p, s => erfSeries x2 k (n + 1) (-(fmul p x2) / (n : Int)) (s + p / ((2 * n - 1 : Nat) : Int))

/-- A finite magnitude is at least `k`. -/
def geNat (m : Nat) (e : Int) (k : Nat) : Bool :=
  if 0 ≤ e then decide (m * 2 ^ e.toNat ≥ k) else decide (m ≥ k * 2 ^ (-e).toNat)

/-- The integer a finite value is, if it is one. -/
def asInt (n : Bool) (m : Nat) (e : Int) : Option Int :=
  let s : Int := if n then -1 else 1
  if 0 ≤ e then some (s * (m * 2 ^ e.toNat : Nat))
  else if m % 2 ^ (-e).toNat = 0 then some (s * (m / 2 ^ (-e).toNat : Nat)) else none

/-- exp (02/R54). DEDUCED: log entry 31. -/
def exp (a : F32) : F32 :=
  match decode32 a with
  | .nan => nan32
  | .inf n => if n then zero32 else inf32 false
  | .fin n m e =>
    if m = 0 then one32
    else if geNat m e 110 then (if n then zero32 else inf32 false)
    else rnd (expF (fix n m e))

/-- exp2 (02/R54): an integer argument gives a power of two exactly. DEDUCED: log entry 31. -/
def exp2 (a : F32) : F32 :=
  match decode32 a with
  | .nan => nan32
  | .inf n => if n then zero32 else inf32 false
  | .fin n m e =>
    if m = 0 then one32
    else if geNat m e 160 then (if n then zero32 else inf32 false)
    else match asInt n m e with
      | some i => round32 false 1 i
      | none => rnd (expF (fmul (fix n m e) ln2))

/-- ln (02/R54): ln 0 = -infinity, a negative argument gives NaN. DEDUCED: log entry 31. -/
def log (a : F32) : F32 :=
  match decode32 a with
  | .nan => nan32
  | .inf n => if n then nan32 else inf32 false
  | .fin n m e =>
    if m = 0 then inf32 true
    else if n then nan32
    else if a == one32 then zero32
    else rnd (lnF m e)

/-- log2 (02/R54), exact at powers of two. DEDUCED: log entry 31. -/
def log2 (a : F32) : F32 :=
  match decode32 a with
  | .nan => nan32
  | .inf n => if n then nan32 else inf32 false
  | .fin n m e =>
    if m = 0 then inf32 true
    else if n then nan32
    else if m == 2 ^ Nat.log2 m then
      let k : Int := (Nat.log2 m : Int) + e
      round32 (decide (k < 0)) k.natAbs 0
    else rnd (fdiv (lnF m e) ln2)

/-- 1/x: one division (02/R54). -/
def recip (a : F32) : F32 := div one32 a

/-- 1/√x (02/R54): ±0 gives the infinity of its sign, a negative argument NaN. -/
def rsqrt (a : F32) : F32 :=
  match decode32 a with
  | .nan => nan32
  | .inf n => if n then nan32 else zero32
  | .fin n m e =>
    if m = 0 then inf32 n
    else if n then nan32
    else
      -- 1/√(m 2^e) = √(2^k / m) 2^((-e - k)/2), k chosen so that the exponent is even
      let k : Nat := 512 + (if (e + 512) % 2 = 0 then 0 else 1)
      let q := 2 ^ k / m
      round32 false (isqrt q) ((-e - (k : Int)) / 2) (2 ^ k % m != 0 || isqrt q * isqrt q != q)

/-- tanh (02/R54). -/
def tanh (a : F32) : F32 :=
  match decode32 a with
  | .nan => nan32
  | .inf n => if n then neg one32 else one32
  | .fin n m e =>
    if m = 0 then a
    else if geNat m e 20 then (if n then neg one32 else one32)
    else
      let t := expF (2 * fix n m e)
      rnd (fdiv (t - one) (t + one))

/-- The logistic function (02/R54). -/
def sigmoid (a : F32) : F32 :=
  match decode32 a with
  | .nan => nan32
  | .inf n => if n then zero32 else one32
  | .fin n m e =>
    if m = 0 then 0x3F000000#32
    else if geNat m e 110 then (if n then zero32 else one32)
    else rnd (fdiv one (one + expF (-(fix n m e))))

/-- The error function (02/R54). -/
def erf (a : F32) : F32 :=
  match decode32 a with
  | .nan => nan32
  | .inf n => if n then neg one32 else one32
  | .fin n m e =>
    if m = 0 then a
    else if geNat m e 4 then (if n then neg one32 else one32)
    else
      let x := fix n m e
      rnd (fmul twoOverSqrtPi (erfSeries (fmul x x) 260 1 x 0))

end Sys2Proof.Machine.Trans
end

