-- ==== Sys2Proof/Machine/Vector.lean ====
section
/-!
DEFINITION. The Vector station (05/R155-R159, 02/R53-R55).
-/
namespace Sys2Proof.Machine
open Sys2Proof.Machine.Fmt Sys2Proof.Machine.Num

def getV (c : Core) (n : Nat) : VReg := c.vregs.getD n {}
def setV (c : Core) (n : Nat) (v : VReg) : Core := { c with vregs := lset c.vregs n v }

/-- Lines 2i and 2i + 1 make register VD + i (05/R156, R157); a missing second line is +0. -/
def setPairs (c : Core) (vd : Nat) : List DLine → Core
  | [] => c
  | [a] => setV c vd { lanes := a.vals ++ List.replicate 128 0#32, poison := a.poison }
  | a :: b :: t => setPairs (setV c vd { lanes := a.vals ++ b.vals, poison := a.poison || b.poison }) (vd + 1) t

/-- The local crate that VLOADC or VSTOREC names (05/R136): the counters' slot, or SLOT with KEEP. -/
def vecCrate (c : Core) (core : Nat) (w : W128) (store : Bool) : Nat :=
  let bin := getBin c (Ins.bits w 82 77)
  let slot := if Ins.bit w 65 then Ins.bits w 64 54 % bin.slotCount else if store then bin.fillSlot else bin.emptySlot
  slotCrate core bin slot (Ins.bits w 76 66)

/-- VLOADC (05/R156, R159). -/
def bodyVloadc (s : State) (core : Nat) (w : W128) (_ : Finding) : Run :=
  let vd := Ins.bits w 87 83
  let (s, x) := takeCrate s core (vecCrate (getCore s core) core w false)
  match inputRefusal x (fun f => f == fp32 || f == bf16) with
  | some r => .fault r s
  | none =>
    let f := Tag.fmt x.tag
    if f = bf16 && vd % 8 != 0 then .fault 0xF1 s
    else
      let ls : List DLine := (List.range (Fmt.lines f)).map fun l => { vals := (lineF32 f x.bytes l).map canon, poison := x.poison }
      .done (modCore s core fun c => setPairs c vd ls)

def execVloadc (core : Nat) (f : Finding) (s : State) : Res := .next (issue s core 3 0x30 f bodyVloadc)

/-- VSTOREC (05/R156, R159). -/
def bodyVstorec (s : State) (core : Nat) (w : W128) (_ : Finding) : Run :=
  let c := getCore s core
  let vs := Ins.bits w 87 83
  let f := Ins.bits w 53 51
  let regs := (List.range (if f = bf16 then 8 else 4)).map fun i => getV c (vs + i)
  let vals := regs.flatMap (·.lanes)
  let p := if f = bf16 then vals.flatMap (fun v => Word.toLe 2 (toBf16 v).toNat)
    else vals.flatMap (fun v => Word.toLe 4 v.toNat)
  let crate := vecCrate c core w true
  let (s, lin) := coreLineageNext s core
  .done (putCrate s crate p (Tag.computed p f 0 (Tag.flagsOf 0 (regs.any (·.poison)) false false false false) lin))

def execVstorec (core : Nat) (f : Finding) (s : State) : Res := .next (issue s core 3 0x31 f bodyVstorec)

/-- VRECV (05/R157): due once its lines have drained. -/
def bodyVrecv (s : State) (core : Nat) (w : W128) (_ : Finding) : Run :=
  let n := Ins.bits w 82 77 + 1
  let c := getCore s core
  if c.drainVec.length < n then .notDue
  else .done (setCore s core (setPairs { c with drainVec := c.drainVec.drop n } (Ins.bits w 87 83) (c.drainVec.take n)))

def execVrecv (core : Nat) (f : Finding) (s : State) : Res := .next (issue s core 3 0x32 f bodyVrecv)

/-- VSPLAT (05/R155, R159). -/
def bodyVsplat (s : State) (core : Nat) (w : W128) (_ : Finding) : Run :=
  let v : F32 := canon (BitVec.ofNat 32 (Ins.bits w 31 0))
  .done (modCore s core fun c => setV c (Ins.bits w 87 83) { lanes := List.replicate 256 v, poison := false })

def execVsplat (core : Nat) (f : Finding) (s : State) : Res := .next (issue s core 3 0x33 f bodyVsplat)

/-- One lane of VARITH (05/R158, 02/R53). -/
def arith (fn : Nat) (a b c : F32) : F32 :=
  match fn with
  | 0 => add a b
  | 1 => sub a b
  | 2 => mul a b
  | 3 => fma a b c
  | 4 => fma (neg a) b c
  | 5 => minF a b
  | 6 => maxF a b
  | 7 => abs a
  | 8 => neg a
  | 9 => canon (if lt zero32 c then a else b)
  | _ => div a b

/-- Lane-wise application to three lane lists. -/
def lanes3 (g : F32 → F32 → F32 → F32) : List F32 → List F32 → List F32 → List F32
  | a :: as, b :: bs, c :: cs => g a b c :: lanes3 g as bs cs
  | _, _, _ => []

/-- A function of VARITH reads its B operand, its C operand (05/R158). -/
def readsB (fn : Nat) : Bool := fn != 7 && fn != 8
def readsC (fn : Nat) : Bool := fn == 3 || fn == 4 || fn == 9

/-- VARITH (05/R158, R159). -/
def bodyVarith (s : State) (core : Nat) (w : W128) (_ : Finding) : Run :=
  let fn := Ins.bits w 67 64
  .done (modCore s core fun x =>
    let a := getV x (Ins.bits w 82 78)
    let b := getV x (Ins.bits w 77 73)
    let c := getV x (Ins.bits w 72 68)
    setV x (Ins.bits w 87 83)
      { lanes := lanes3 (arith fn) a.lanes b.lanes c.lanes
        poison := a.poison || (readsB fn && b.poison) || (readsC fn && c.poison) })

def execVarith (core : Nat) (f : Finding) (s : State) : Res := .next (issue s core 3 0x34 f bodyVarith)

/-- The functions of VFUNC (05/R158, 02/R54). -/
def funcOf (fn : Nat) (a : F32) : F32 :=
  match fn with
  | 0 => Trans.exp a
  | 1 => Trans.exp2 a
  | 2 => Trans.log a
  | 3 => Trans.log2 a
  | 4 => Trans.recip a
  | 5 => sqrt a
  | 6 => Trans.rsqrt a
  | 7 => Trans.tanh a
  | 8 => Trans.sigmoid a
  | _ => Trans.erf a

/-- VFUNC (05/R158, R159). -/
def bodyVfunc (s : State) (core : Nat) (w : W128) (_ : Finding) : Run :=
  .done (modCore s core fun x =>
    let a := getV x (Ins.bits w 82 78)
    setV x (Ins.bits w 87 83) { lanes := a.lanes.map (funcOf (Ins.bits w 67 64)), poison := a.poison })

def execVfunc (core : Nat) (f : Finding) (s : State) : Res := .next (issue s core 3 0x35 f bodyVfunc)

/-- One level of the tree: adjacent pairs, the lower lane first (02/R55). -/
def treeLevel (g : Option F32 → Option F32 → Option F32) : List (Option F32) → List (Option F32)
  | a :: b :: t => g a b :: treeLevel g t
  | l => l

/-- `k` levels. -/
def treeN (g : Option F32 → Option F32 → Option F32) : Nat → List (Option F32) → List (Option F32)
  | 0, l => l
  | k + 1, l => treeN g k (treeLevel g l)

/-- The combining operation of VRED: 0 ADD, 1 MAX, 2 MIN. -/
def redOp (fn : Nat) (a b : F32) : F32 := if fn = 0 then add a b else if fn = 1 then maxF a b else minF a b

/-- An absent lane is skipped (02/R55). -/
def redPair (fn : Nat) : Option F32 → Option F32 → Option F32
  | some a, some b => some (redOp fn a b)
  | some a, none => some a
  | none, b => b

/-- The tree over lanes 0 to width − 1: unused lanes are +0 in an addition and absent otherwise (02/R55). -/
def redTree (fn width : Nat) (lanes : List F32) : F32 :=
  let ls := lanes.zipIdx.map fun (v, i) => if i < width then some v else if fn = 0 then some zero32 else none
  ((treeN (redPair fn) 8 ls).headD none).getD zero32

/-- VRED (05/R158). -/
def bodyVred (s : State) (core : Nat) (w : W128) (_ : Finding) : Run :=
  let fn := Ins.bits w 67 64
  .done (modCore s core fun x =>
    let a := getV x (Ins.bits w 82 78)
    let c := getV x (Ins.bits w 72 68)
    let r := redTree fn (Ins.bits w 62 55 + 1) a.lanes
    let r := if Ins.bit w 63 then redOp fn (c.lanes.headD 0#32) r else r
    setV x (Ins.bits w 87 83) { lanes := List.replicate 256 r, poison := a.poison || (Ins.bit w 63 && c.poison) })

def execVred (core : Nat) (f : Finding) (s : State) : Res := .next (issue s core 3 0x36 f bodyVred)

/-- VBCAST (05/R155). -/
def bodyVbcast (s : State) (core : Nat) (w : W128) (_ : Finding) : Run :=
  .done (modCore s core fun x =>
    let a := getV x (Ins.bits w 82 78)
    setV x (Ins.bits w 87 83) { lanes := List.replicate 256 (a.lanes.getD (Ins.bits w 63 56) 0#32), poison := a.poison })

def execVbcast (core : Nat) (f : Finding) (s : State) : Res := .next (issue s core 3 0x37 f bodyVbcast)

end Sys2Proof.Machine
end

