-- ==== Sys2Proof/Machine/Sequencer.lean ====
section
/-!
DEFINITION. The Sequencer (06/R183-R189) and the rows that end a hold of any station (03/R79, 04/R118).
-/
namespace Sys2Proof.Machine

/-- SWAIT: satisfied at or above its target; held below it; 0xF4 when the epoch is not the launch edge's (06/R184). -/
def bodySwait (s : State) (core : Nat) (w : W128) (_ : Finding) : Run :=
  let t := Ins.bits w 87 72
  if tallyEpochOf s t ≠ launchEpoch (coreLaunch s core) t then .fault 0xF4 s
  else if Ins.bits w 71 24 ≤ tallyVal s t then .done s
  else .hold .tally s

def execSwait (core : Nat) (f : Finding) (s : State) : Res := .next (issue s core 5 0x50 f bodySwait)

/-- Run the held instruction of a station again when it is held as `h`. -/
def resumeIns (s : State) (core st : Nat) (held : Hold → Bool) (f : Finding) (body : State → Nat → W128 → Finding → Run) : State :=
  match fetchIns s core st with
  | none => s
  | some w => if held (getStation (getCore s core) st).hold then runIns s core st w f body else s

/-- SWAIT_SATISFIED (06/R184). -/
def execSwaitSatisfied (core : Nat) (s : State) : Res :=
  .next (resumeIns s core 5 (· == .tally) .clean bodySwait)

/-- The add of an SSIGNAL (06/R185). -/
def ssignalAdd (s : State) (core : Nat) (w : W128) : State := coreTally s core (Ins.bits w 87 72) (Ins.bits w 71 40)

/-- SSIGNAL: adds at once, or with DRAIN once every marked Porter transfer issued before it has ended (06/R185). The
held instruction keeps the number of the first later transfer in its progress. -/
def bodySsignal (s : State) (core : Nat) (w : W128) (_ : Finding) : Run :=
  let c := getCore s core
  if Ins.bit w 39 && c.inflight.any (fun t => t.launch == c.load) then
    .hold .drain (modCore s core fun c => modStation c 5 (fun x => { x with prog := c.nextTransfer }))
  else .done (ssignalAdd s core w)

def execSsignal (core : Nat) (f : Finding) (s : State) : Res := .next (issue s core 5 0x51 f bodySsignal)

/-- The held DRAIN SSIGNAL adds when no earlier transfer is in flight. -/
def bodyDrainDone (s : State) (core : Nat) (w : W128) (_ : Finding) : Run :=
  let c := getCore s core
  if c.inflight.any (fun t => t.launch == c.load && decide (t.id < (getStation c 5).prog) && !t.failed) then .hold .drain s
  else .done (ssignalAdd s core w)

/-- SSIGNAL_DRAIN_DONE (06/R185). -/
def execSsignalDrainDone (core : Nat) (s : State) : Res :=
  .next (resumeIns s core 5 (· == .drain) .clean bodyDrainDone)

/-- Two ranges overlap without one containing the other (06/R187). -/
def crossing (a b c d : Nat) : Bool :=
  decide (a ≤ d) && decide (c ≤ b) && !(decide (a ≤ c) && decide (d ≤ b)) && !(decide (c ≤ a) && decide (b ≤ d))

/-- SREPEAT (06/R186, R187). -/
def bodySrepeat (s : State) (core : Nat) (w : W128) (_ : Finding) : Run :=
  let st := Ins.bits w 87 85
  let r : Repeat := { level := Ins.bits w 84 83, start := Ins.bits w 82 71, stop := Ins.bits w 70 59
                      count := Ins.bits w 58 35 + 1, adv := Ins.bits w 34 3 }
  let x := getStation (getCore s core) st
  if x.repeats.any (fun y => y.level == r.level || crossing y.start y.stop r.start r.stop) then .fault 0xF5 s
  else .done (modCore s core fun c => modStation c st (fun x => { x with repeats := insRepeat x.repeats r }))

def execSrepeat (core : Nat) (f : Finding) (s : State) : Res := .next (issue s core 5 0x52 f bodySrepeat)

/-- SPHASE sets the token; the hint of the previous phase ends (06/R189). -/
def bodySphase (s : State) (core : Nat) (w : W128) (_ : Finding) : Run :=
  .done (modCore s core fun c => { c with token := Ins.bits w 87 80, hintValid := false, hintOp := 0 })

def execSphase (core : Nat) (f : Finding) (s : State) : Res := .next (issue s core 5 0x53 f bodySphase)

/-- SOPHINT sets or clears the hint (06/R189). -/
def bodySophint (s : State) (core : Nat) (w : W128) (_ : Finding) : Run :=
  .done (modCore s core fun c =>
    if Ins.bit w 85 then { c with hintValid := false, hintOp := 0 }
    else { c with hintValid := true, hintOp := Ins.bits w 87 86 })

def execSophint (core : Nat) (f : Finding) (s : State) : Res := .next (issue s core 5 0x54 f bodySophint)

end Sys2Proof.Machine
end

