-- ==== Sys2Proof/Machine/Holds.lean ====
section
/-!
DEFINITION. The rows that end a hold of any station (03/R79, 04/R118): the held instruction runs again.
-/
namespace Sys2Proof.Machine

/-- The own effect of a station's instruction, by its station and opcode. -/
def bodyOf (st op : Nat) : Option (State → Nat → W128 → Finding → Run) :=
  if op = 0x00 then some bodyDelay
  else if op = 0x7F then some bodyFence
  else if op / 16 ≠ st then none
  else match op with
  | 0x01 => some bodyLstream
  | 0x02 => some bodyLweight
  | 0x03 => some bodyLdiag
  | 0x10 => some bodyMpass
  | 0x11 => some bodyMdiag
  | 0x12 => some bodyMdrain
  | 0x13 => some bodyMfloor
  | 0x20 => some bodyPset
  | 0x21 => some bodyPpack
  | 0x30 => some bodyVloadc
  | 0x31 => some bodyVstorec
  | 0x32 => some bodyVrecv
  | 0x33 => some bodyVsplat
  | 0x34 => some bodyVarith
  | 0x35 => some bodyVfunc
  | 0x36 => some bodyVred
  | 0x37 => some bodyVbcast
  | 0x40 => some bodyPmove
  | 0x41 => some bodyPgather
  | 0x42 => some bodyPscatter
  | 0x43 => some bodyPacc
  | 0x44 => some bodyPfabric
  | 0x50 => some bodySwait
  | 0x51 => some bodySsignal
  | 0x52 => some bodySrepeat
  | 0x53 => some bodySphase
  | 0x54 => some bodySophint
  | _ => none

/-- Run the instruction that a station is held at, when it is held as `held` says. -/
def endHold (s : State) (core st : Nat) (held : Hold → Bool) (f : Finding) : State :=
  match fetchIns s core st with
  | none => s
  | some w => match bodyOf st (Ins.op w) with
    | some body => resumeIns s core st held f body
    | none => s

/-- MARKED_WAIT_SATISFIED: a wait that does not yet hold leaves the station held. -/
def execMarkedWaitSatisfied (core st : Nat) (f : Finding) (s : State) : Res :=
  .next (endHold s core st (· == .wait) f)

/-- ARRAY_HOLD_CLEAR: `f` says whether a condition of 04/R118 still stands. -/
def execArrayHoldClear (core st : Nat) (f : Finding) (s : State) : Res :=
  .next (endHold s core st (fun h => match h with | .array _ => true | _ => false) f)

end Sys2Proof.Machine
end

