-- ==== Sys2Proof/Machine/Mgmt.lean ====
section
/-!
DEFINITION. The management path (chapter 19): receiving and answering requests, the operations of R572, signed requests
and provisioning (10/R314-R317), and the I3C sideband.
-/
namespace Sys2Proof.Machine

/-! ### Receiving and answering (19/R569-R572) -/

/-- A request or message from a source reaches the module: over the sideband when it is addressed and not isolated, over a
management port that is up once an IPv4 address is set. DEDUCED: log entry 32. -/
def reaches (s : State) (source port : Nat) : Bool :=
  if source = 0 then !s.boot.off && s.mgmt.addressed && !s.mgmt.isolated
  else rbits s.mgmt.addr 63 32 != 0 && (if port = 0 then s.mgmt.port0 == 2 else if port = 1 then s.mgmt.port1 == 2 else false)

/-- The response held for a repeated request, for 10 s (R571). DEDUCED: log entry 32. -/
def heldFor (s : State) (source ident : Nat) : Option Held :=
  s.mgmt.held.find? (fun h => h.source == source && h.ident == ident && decide (s.time.toNat < h.time + 1000000000))

/-- Where an operation is served (R572): the assertion phase and the phases of boot, on the sideband only; recovery;
ready; and whether on the sideband only. -/
structure Served where
  a : Bool := false
  r : Bool := false
  y : Bool := true
  sb : Bool := false

def Served.now (x : Served) (s : State) (q : Req) : Bool :=
  (!x.sb || q.source == 0) &&
    (if s.boot.phase = 6 then x.y
     else if s.boot.phase = 7 then x.r && (q.source == 0 || q.port == 0)
     else x.a && q.source == 0)

/-- A refusal. DEDUCED: log entry 32. -/
def deny (s : State) (q : Req) (op reason : Nat) : State := respond s q op 2 reason []

/-- Perform a request once: a repeated one draws its held response; one out of its states or of a wrong length is refused
(R571, R572). DEDUCED: log entry 32. -/
def serve (s : State) (q : Req) (op : Nat) (x : Served) (lenOk : Bool) (f : State → State) : State :=
  if !reaches s q.source q.port then s
  else match heldFor s q.source q.ident with
  | some h => emit s (.mgmt q.source (some q.port) h.bytes)
  | none => if !x.now s q then deny s q op 0xCE else if !lenOk then deny s q op 0x03 else f s

/-- Bytes of a page read. -/
def pageLen (q : Req) : Nat := if q.source = 0 then 512 else 1024

/-- Answer a page read; the spec gives no bytes beyond the end of a page (DESIGN CHOICE, log entry 6). -/
def pageAnswer (s : State) (q : Req) (op : Nat) (page : List Byte) (off : Nat) : State :=
  let n := pageLen q
  let k := min n (4096 - off)
  if k = n then respond s q op 0 0 (pageFrom page off n)
  else
    let (s, bs) := freeBytes s (n - k)
    respond s q op 0 0 ((page.drop off).take k ++ bs)

/-! ### Pages, discovery, the ledger -/

/-- IDENTIFY. -/
def execMgmtIdentify (q : Req) (body : List Byte) (s : State) : Res :=
  .next (serve s q 1 { a := true, r := true } (body.length == 2) fun s =>
    pageAnswer s q 1 (if s.boot.phase = 6 then identifyPage s else identifyEarly s) (leAt body 0 2))

/-- TELEMETRY. -/
def execTelemetry (q : Req) (body : List Byte) (x : Sensors) (s : State) : Res :=
  .next (serve s q 2 { a := true } (body.length == 4) fun s =>
    match (if s.boot.phase = 6 then telemetryPage s (leAt body 0 2) x else telemetryEarly (leAt body 0 2) x) with
    | some b => pageAnswer s q 2 b (leAt body 2 2)
    | none => deny s q 2 0x03)

/-- An entry of DISCOVERY. -/
def discoveryEntry (s : State) (p : Nat) : List Byte :=
  let x := getPort s p
  Word.toLe 1 p ++ Word.toLe 1 (if portOff s p then 5 else x.state) ++ Word.toLe 1 x.farPort ++ Word.toLe 1 x.farStall
    ++ Word.toLe 2 (x.farChip + 2 ^ 15 * Word.b2n x.farValid) ++ Word.toLe 1 (Word.b2n x.miswired) ++ [0#8]
    ++ Word.toLe 8 x.farSerial.toNat

/-- DISCOVERY. -/
def execMgmtDiscovery (q : Req) (body : List Byte) (s : State) : Res :=
  .next (serve s q 3 {} (body.length == 1) fun s =>
    let p := leAt body 0 1
    if 47 < p then deny s q 3 0x03
    else respond s q 3 0 0 ((List.range' p (min (48 - p) (if q.source = 0 then 32 else 48))).flatMap (discoveryEntry s)))

/-- LEDGER_READ over management. -/
def execMgmtLedgerRead (q : Req) (body : List Byte) (s : State) : Res :=
  .next (serve s q 9 {} (body.length == 9) fun s =>
    let n := leAt body 8 1
    if n = 0 ∨ (if q.source = 0 then 7 else 15) < n then deny s q 9 0x03
    else
      let oldest := match s.ledger.records with | r :: _ => r.seq | [] => s.ledger.seq.toNat
      respond s q 9 0 0 (Word.toLe 8 oldest ++ (recordsFrom s (leAt body 0 8) n).flatMap recBytes))

/-- TOTALS_READ. -/
def execTotalsRead (q : Req) (body : List Byte) (s : State) : Res :=
  .next (serve s q 0xA {} (body.length == 8) fun s =>
    let u := BitVec.ofNat 64 (leAt body 0 8)
    respond s q 0xA 0 0 (totalsBytes u (getUnit s u)))

/-! ### Stall, chip number and routes (R573, R574) -/

/-- SET_STALL. -/
def execSetStall (q : Req) (body : List Byte) (s : State) : Res :=
  .next (serve s q 4 { a := true, sb := true } (body.length == 1) fun s =>
    let n := leAt body 0 1
    if 16 < n then deny s q 4 0x03
    else if s.fab.chip.isSome ∧ s.fab.stall ≠ some n then deny s q 4 0xCE
    else respond (modFab s (fun f => { f with stall := some n })) q 4 0 0 [])

/-- Every session closes, its unacknowledged frames fail with 0x60, and no receive half is kept (11/R369). -/
def closeSessions (s : State) : State :=
  (s.fab.sessions.map (·.1)).foldl (fun s n => setSession (closeHalf s n 0 0x60 true) n none) s

/-- The first condition that refuses a chip assignment (R574). -/
def chipRefusal (s : State) (chip root port : Nat) : Option Nat :=
  if 32767 < chip ∨ 1 < root then some 0x03
  else if !owned s then some 0x2B
  else if some (chipStall chip) ≠ s.fab.stall ∨ 17 ≤ chipStall chip then some 0xCE
  else if s.ctxs.any (fun c => c.2.state != 0 && c.2.state != 4) then some 0xCE
  else if port ≠ 0xFF ∧ (48 ≤ port ∨ !rbit (getPort s port).cfg 63) then some 0x03
  else none

/-- Write HUB_CHIP and TIME_PARENT, and close every session. -/
def assignChip (s : State) (chip root port : Nat) : State :=
  let s := modFab s (fun f => { f with chip := some chip, timeSt := { f.timeSt with root := root == 1 } })
  closeSessions ((List.range 48).foldl (fun s p => modPort s p (fun x => { x with cfg := rset x.cfg 0 0 (Word.b2n (p == port)) })) s)

/-- ASSIGN_CHIP. -/
def execAssignChip (q : Req) (body : List Byte) (s : State) : Res :=
  .next (serve s q 5 {} (body.length == 4) fun s =>
    let (chip, root, port) := (leAt body 0 2, leAt body 2 1, leAt body 3 1)
    match chipRefusal s chip root port with
    | some r => deny s q 5 r
    | none => respond (assignChip s chip root port) q 5 0 0 [])

/-- ROUTE_WRITE: the VALID and PORTS bits of each entry (11/R390). -/
def execRouteWrite (q : Req) (body : List Byte) (s : State) : Res :=
  let first := leAt body 0 2
  let n := leAt body 2 2
  let mask : W64 := BitVec.ofNat 64 (2 ^ 63 + (2 ^ 48 - 1))
  .next (serve s q 6 {} (body.length == 4 + 8 * n) fun s =>
    if n = 0 ∨ (if q.source = 0 then 63 else 127) < n ∨ 32768 < first + n then deny s q 6 0x03
    else respond (modFab s (fun f => { f with routes := (List.range n).foldl (fun t i =>
      tset 0#64 t (first + i) (BitVec.ofNat 64 (leAt body (4 + 8 * i) 8) &&& mask)) f.routes })) q 6 0 0 [])

/-! ### Reclaim notices (R575) -/

/-- MGMT_RECLAIM. -/
def reclaimBytes (s : State) : List Byte := Word.toLe 4 s.mgmt.reclaim ++ Word.toLe 4 s.mgmt.noticeTime

/-- A notice: it is recorded and raised, and vacating begins, or is over at once without a training context. -/
def reclaimNotice (s : State) (q : Req) (ident : Nat) : State :=
  let s := raiseNotice s noCtx 1 ident
  let s := modMgmt s (fun m => { m with reclaim := 1, noticeTime := s.time.toNat % 2 ^ 32, reclaimId := BitVec.ofNat 64 ident
                                        reclaimSrc := q.source, vacLeft := 0 })
  if (trainingCtx s).isSome then modStep s (fun x => { x with notice := some (BitVec.ofNat 64 ident, s.time.toNat) })
  else reportVacated s

/-- The source of the notice repeats its request: VACATED is not sent again. -/
def reclaimHeard (s : State) (q : Req) : State :=
  if reaches s q.source q.port && q.source == s.mgmt.reclaimSrc && s.mgmt.reclaim == 2 then modMgmt s (fun m => { m with vacLeft := 0 }) else s

/-- RECLAIM. -/
def execReclaim (q : Req) (body : List Byte) (s : State) : Res :=
  .next (serve (reclaimHeard s q) q 7 {} (body.length == 8) fun s =>
    let s := if s.mgmt.reclaim = 0 then reclaimNotice s q (leAt body 0 8) else s
    respond s q 7 0 0 (reclaimBytes s))

/-- RECLAIM_STATUS. -/
def execReclaimStatus (q : Req) (body : List Byte) (s : State) : Res :=
  .next (serve s q 8 {} (body.length == 0) fun s => respond s q 8 0 0 (reclaimBytes s))

/-- VACATED_RESEND. -/
def execVacatedResend (s : State) : Res :=
  .next (if s.mgmt.reclaim = 2 ∧ s.mgmt.vacLeft ≠ 0 then sendVacated (modMgmt s (fun m => { m with vacLeft := m.vacLeft - 1 })) else s)

/-! ### Firmware over management (R576, 16/R507) -/

/-- A chunk that the state of the module accepts is programmed into the standby bank. -/
def chunkReady (s : State) (q : Req) (off : Nat) (data : List Byte) (fail : Option Nat) : State :=
  let b := standbyBank s
  if handingOver s then deny (fwFailed s 0xCD) q 0xB 0xCD
  else
    let s := if s.boot.chunking then s else modBoot (clearBank s b) (fun x => { x with chunking := true })
    match fail with
    | some n => respond (fwFailed (programBank s b off (data.take n)) 0xFF) q 0xB 3 0xFF []
    | none => respond (programBank s b off data) q 0xB 0 0 []

/-- FW_CHUNK; `fail` is how many bytes were programmed when the flash failed, if it did. -/
def execFwChunk (q : Req) (body : List Byte) (fail : Option Nat) (s : State) : Res :=
  let n := body.length
  .next (serve s q 0xB { r := true } (n == 516 || (n == 1028 && q.source != 0)) fun s =>
    let off := leAt body 0 4
    let data := body.drop 4
    if off % 512 ≠ 0 ∨ 2 ^ 25 < off + data.length then deny s q 0xB 0x03
    else if s.boot.phase = 7 then
      respond { s with hang := { s.hang with capMem := writeBytes s.hang.capMem off data } } q 0xB 0 0 []
    else chunkReady s q off data fail)

/-- FW_COMMIT at ready: the bank is read back and verified, and marked complete and staged. -/
def commitReady (s : State) (q : Req) (len : Nat) : State :=
  let b := standbyBank s
  if handingOver s then deny (fwFailed s 0xCD) q 0xC 0xCD
  else
    let image := bankBytes s b 0 len
    let s := modBoot s (fun x => { x with chunking := false })
    if verifyImage s image then
      respond (modBoot (completeBank s b (imgVersion image)) (fun x => { x with staged := true })) q 0xC 0 0 []
    else respond (fwFailed s 0xC9) q 0xC 3 0xC9 []

/-- FW_COMMIT in recovery: a verified image goes from capture memory to bank A, and a chip-level reset follows. -/
def commitRecovery (s : State) (q : Req) (len : Nat) (fail : Option Nat) : State :=
  let image := readBytes s.hang.capMem 0 len
  if !verifyImage s image then respond (fwFailed s 0xC9) q 0xC 3 0xC9 []
  else match fail with
  | some n => respond (fwFailed (programBank (eraseBank s 0) 0 0 (image.take n)) 0xFF) q 0xC 3 0xFF []
  | none => levelFour (respond (programBank (eraseBank s 0) 0 0 image) q 0xC 0 0 []) 0xC2 none

/-- FW_COMMIT. -/
def execFwCommit (q : Req) (body : List Byte) (fail : Option Nat) (s : State) : Res :=
  .next (serve s q 0xC { r := true } (body.length == 4) fun s =>
    let len := leAt body 0 4
    if 2 ^ 25 < len then deny s q 0xC 0x03
    else if s.boot.phase = 7 then commitRecovery s q len fail else commitReady s q len)

/-- FW_HANDOVER over management: it is answered when the handover ends; each later row of the request advances it. -/
def execMgmtFwHandover (q : Req) (body : List Byte) (s : State) : Res :=
  .next (serve s q 0xD {} (body.length == 1) fun s =>
    let mine := match s.boot.handBy with | some (.mgmt r) => r.source == q.source && r.ident == q.ident | _ => false
    if 1 < leAt body 0 1 then deny s q 0xD 0x03
    else if mine then handoverGo s
    else match handoverRefusal s (leAt body 0 1) with
    | some r => deny (fwFailed s r) q 0xD r
    | none => handoverBegin s (.mgmt q))

/-! ### Escalation and limits (R577, R578) -/

/-- Carry out a requested escalation: before the firmware runs, and in recovery, levels 4 and 5 act at once. -/
def operatorEscalation (s : State) (level : Nat) (target : W64) : State :=
  if s.boot.phase = 4 ∨ s.boot.phase = 5 ∨ s.boot.phase = 6 then escalate s (escOf level target) none
  else if level = 5 then requestPower (setAlert s 0) 0xC7
  else levelFour (setAlert s 0) (if s.boot.phase = 0 then 0xC2 else 0xC7) none

/-- ESCALATE. -/
def execEscalate (q : Req) (body : List Byte) (s : State) : Res :=
  let level := leAt body 0 1
  .next (serve s q 0xE { a := level == 4 || level == 5, r := level == 4 || level == 5 } (body.length == 16) fun s =>
    let target := BitVec.ofNat 64 (leAt body 8 8)
    if level = 0 ∨ 5 < level then deny s q 0xE 0x03
    else match targetRefusal s level target with
    | some r => deny s q 0xE r
    | none => operatorEscalation (respond s q 0xE 0 0 []) level target)

/-- LIMIT. -/
def execLimit (q : Req) (body : List Byte) (s : State) : Res :=
  .next (serve s q 0xF {} (body.length == 3) fun s =>
    let cap := leAt body 0 2
    let op := leAt body 2 1
    if cap < 2000 ∨ 4800 < cap ∨ 3 < op then deny s q 0xF 0x03
    else respond (modPwr s (fun p => { p with operCap := cap, operLimit := op })) q 0xF 0 0 [])

/-! ### Signed requests (10/R317) -/

/-- NONCE: a fresh nonce, big-endian. -/
def execNonce (q : Req) (body : List Byte) (s : State) : Res :=
  .next (serve s q 0x10 {} (body.length == 0) fun s =>
    let (v, s) := drawFree s
    let n : BitVec 128 := v.truncate 128
    let s := { s with fuse := { s.fuse with nonce := some n }, mgmt := { s.mgmt with nonceAt := s.time.toNat } }
    respond s q 0x10 0 0 (Sha.toBe 16 n.toNat))

/-- NONCE_LAPSE. -/
def execNonceLapse (s : State) : Res := .next { s with fuse := { s.fuse with nonce := none } }

/-- The key that SIGNER names is one the lifecycle state lets sign this kind, and PUBKEY is that key. DEDUCED: log entry
33. -/
def signerOk (s : State) (kind signer key : Nat) : Bool :=
  let f := s.fuse.f
  if signer < 4 then owned s && f.keys.getD signer 0 != 0 && !Word.bitOf f.keyRevoked signer && f.keys.getD signer 0 == key
  else signer == 0xFF && (!owned s || kind == 5) && f.vendorKey == key

/-- The permission that a kind needs is effective (10/R313, R323). DEDUCED: log entry 33. -/
def kindAllowed (s : State) (kind : Nat) : Bool :=
  if kind = 5 then (owned s && debugAllowed s 2) || lifecycle s == 3
  else if kind = 6 then owned s && debugAllowed s 3
  else true

/-- What the burned fuses leave usable when slots are also revoked by a mask. -/
def usableAfter (f : Fuses) (mask : Nat) : List Nat :=
  (List.range 4).filter (fun i => f.keys.getD i 0 != 0 && !Word.bitOf (Nat.lor f.keyRevoked mask) i)

/-- Every partition is destroyed at the SCAN unlock (10/R323): the contexts are torn down first. -/
def dropAllParts (s : State) : State :=
  let s := s.ctxs.foldl (fun s c => if c.2.live then beginTeardown s c.1 0x27 none else s) s
  let s := s.ctxs.foldl (fun s c => if c.2.state = 3 then finishTeardown s c.1 else s) s
  s.parts.foldl (fun s p => if p.2.state = 0 then s else dropPart s p.1) s

/-- What a kind does with its ARG: a refusal, or the burned fuses. -/
def signedEffect (s : State) (kind arg : Nat) : Except Nat State :=
  let f := s.fuses
  let burn (g : Fuses) : Except Nat State := .ok { s with fuses := g }
  match kind with
  | 1 => if 16 ≤ arg then .error 0x03 else if (usableAfter f arg).isEmpty then .error 0xCE else burn { f with keyRevoked := Nat.lor f.keyRevoked arg }
  | 2 => if 256 ≤ arg then .error 0x03 else if Word.bitOf arg 0 then .error 0xCE else burn { f with templRevoked := Nat.lor f.templRevoked arg }
  | 3 => if 256 ≤ arg then .error 0x03 else burn { f with debugRevoked := Nat.lor f.debugRevoked arg }
  | 4 => if arg = 0 ∨ 128 < arg then .error 0x03 else if arg < f.svn then .error 0xCE else burn { f with svn := arg }
  | 5 => if arg ≠ 0 then .error 0x03 else .ok (dropAllParts { s with fuse := { s.fuse with scan := true } })
  | _ => if arg ≠ 0 then .error 0x03 else burn { f with lifecycle := 3 }

/-- A signed request is accepted: signer, signature, serial number and nonce (10/R317). DEDUCED: log entry 33. -/
def signedOk (s : State) (b : List Byte) (kind : Nat) (fresh : Bool) : Bool :=
  let key := (b.drop 0x60).take 97
  fresh && leAt b 8 8 == s.fuse.f.serial.toNat && signerOk s kind (leAt b 0x28 1) (Sha.sha384 key)
    && Sha.verify key ((b.drop 0xC8).take 96) (b.take 0xC8)

/-- SIGNED of one kind; a request of another kind is another row's. The nonce ends with its first use. DEDUCED: log entry
33. -/
def signed (s : State) (q : Req) (b : List Byte) (kind : Nat) : State :=
  serve s q 0x11 {} (b.length == 296) fun s =>
    let k := leAt b 4 2
    if leAt b 0 4 ≠ 0x52515A4D then deny s q 0x11 0x03
    else if k = 0 ∨ 6 < k then deny s q 0x11 0x03
    else if k ≠ kind then s
    else if !(zeroAt b 6 2 && zeroAt b 0x29 55 && zeroAt b 0xC1 7) then deny s q 0x11 0x02
    else
      let fresh := s.fuse.nonce == some (BitVec.ofNat 128 (Sha.beNat ((b.drop 0x10).take 16)))
      let ok := signedOk s b kind fresh
      let s := if fresh then { s with fuse := { s.fuse with nonce := none } } else s
      if !ok then deny s q 0x11 0xCE
      else if !kindAllowed s kind then deny s q 0x11 0x2A
      else match signedEffect s kind (leAt b 0x20 8) with
      | .error r => deny s q 0x11 r
      | .ok s => respond s q 0x11 0 0 []

def execKeyRevocation (q : Req) (body : List Byte) (s : State) : Res := .next (signed s q body 1)
def execTemplateRevocation (q : Req) (body : List Byte) (s : State) : Res := .next (signed s q body 2)
def execDebugRevocation (q : Req) (body : List Byte) (s : State) : Res := .next (signed s q body 3)
def execSecurityVersionRaise (q : Req) (body : List Byte) (s : State) : Res := .next (signed s q body 4)
def execScanUnlock (q : Req) (body : List Byte) (s : State) : Res := .next (signed s q body 5)
def execRmaEntry (q : Req) (body : List Byte) (s : State) : Res := .next (signed s q body 6)

/-! ### Provisioning (10/R314, R315, 19/R579) -/

/-- The dies of a row between two columns. -/
def rowSpan (row x y : Nat) : List Nat := ((List.range 4).filter (fun c => decide (min x y ≤ c) && decide (c ≤ max x y))).map (row * 4 + ·)

/-- The dies that the route of 01/R20 touches, its ends included. -/
def routeDies (a b : Nat) : List Nat :=
  let dist (x y : Nat) : Nat := (x - y) + (y - x)
  let (r, c, r', c') := (a / 4, a % 4, b / 4, b % 4)
  if r = r' then rowSpan r c c'
  else
    let la := 1 + dist c c'
    let lb := dist c 1 + 1 + dist 2 c'
    let lc := dist c 2 + 1 + dist 1 c'
    if la ≤ lb ∧ la ≤ lc then a :: rowSpan r' c c'
    else if lb ≤ lc then rowSpan r c 1 ++ rowSpan r' 2 c'
    else rowSpan r c 2 ++ rowSpan r' 1 c'

/-- A T6 or T7 definition that is marked valid keeps 10/R325. -/
def templDefOk (x : Nat) : Bool :=
  let m := (List.range 8).map (fun i => x / 8 ^ i % 8)
  let inst (d : Nat) : Nat := m.getD d 8
  let top := m.foldl max 0
  !Word.bitOf x 24 ||
    ((List.range (top + 1)).all (fun i => m.contains i)
      && (List.range 8).all (fun a => (List.range 8).all (fun b => inst a != inst b || (routeDies a b).all (fun d => inst d == inst a))))

/-- The provisioning fields of an image. -/
def provFields (f : Fuses) (b : List Byte) : Fuses :=
  { f with keys := (List.range 4).map (fun i => Sha.beNat ((b.drop (48 * i)).take 48)), templates := leAt b 0xC0 1, debug := leAt b 0xC1 1
           t6 := leAt b 0xC4 4, t7 := leAt b 0xC8 4, imageCheck := leAt b 0xCC 4 }

/-- Every burned bit of the provisioning region is 1 in the new image (10/R315). -/
def burnCovers (old new : Fuses) : Bool :=
  ((old.keys ++ [old.templates, old.debug, old.t6, old.t7, old.imageCheck]).zip
    (new.keys ++ [new.templates, new.debug, new.t6, new.t7, new.imageCheck])).all (fun e => Nat.lor e.1 e.2 == e.2)

/-- The first condition that refuses an image (10/R314, R315). -/
def provRefusal (s : State) (b : List Byte) : Option Nat :=
  let g := provFields s.fuses b
  if lifecycle s ≠ 0 ∨ s.ledger.bank ≠ 2 then some 0x2B
  else if !zeroAt b 0xC2 2 ∨ 2 ^ 25 ≤ g.t6 ∨ 2 ^ 25 ≤ g.t7 then some 0x02
  else if !Word.bitOf g.templates 0 ∨ g.keys.all (· == 0) ∨ !templDefOk g.t6 ∨ !templDefOk g.t7
      ∨ (Crc.crc64 (b.take 0xCC)).toNat % 2 ^ 32 ≠ g.imageCheck ∨ !burnCovers s.fuses g then some 0xCE
  else none

/-- The burn in its order (10/R315): `steps` of its five steps were made before power was lost. -/
def provBurn (f g : Fuses) (steps : Nat) : Fuses :=
  let f := if 1 ≤ steps then { f with keys := g.keys } else f
  let f := if 2 ≤ steps then { f with templates := g.templates, t6 := g.t6, t7 := g.t7 } else f
  let f := if 3 ≤ steps then { f with debug := g.debug } else f
  let f := if 4 ≤ steps then { f with imageCheck := g.imageCheck } else f
  if 5 ≤ steps then { f with lifecycle := Nat.lor f.lifecycle 1 } else f

/-- PROVISION. -/
def execProvision (q : Req) (body : List Byte) (steps : Nat) (s : State) : Res :=
  .next (serve s q 0x12 {} (body.length == 208) fun s =>
    match provRefusal s body with
    | some r => deny s q 0x12 r
    | none =>
      let s := { s with fuses := provBurn s.fuses (provFields s.fuses body) steps }
      if 5 ≤ steps then respond s q 0x12 0 0 [] else s)

/-! ### The sideband (R580, R581, R583, R585) -/

/-- SET_ADDR. -/
def execSetAddr (q : Req) (body : List Byte) (s : State) : Res :=
  .next (serve s q 0x13 { a := true, r := true, sb := true } (body.length == 14) fun s =>
    let len := leAt body 4 1
    if len < 8 ∨ 30 < len then deny s q 0x13 0x03
    else if !zeroAt body 5 3 then deny s q 0x13 0x02
    else respond (modMgmt s (fun m => { m with addr := BitVec.ofNat 64 (leAt body 0 4 * 2 ^ 32 + len * 2 ^ 24 + leAt body 12 2)
                                               gw := leAt body 8 4 })) q 0x13 0 0 [])

/-- ALERT_CLEAR. -/
def execAlertClear (q : Req) (body : List Byte) (s : State) : Res :=
  .next (serve s q 0x14 { a := true, r := true, sb := true } (body.length == 4) fun s =>
    respond (modMgmt s (fun m => { m with alert := m.alert - Nat.land m.alert (leAt body 0 4) })) q 0x14 0 0 [])

/-- The isolation switch opens (R581). -/
def isolate (s : State) : State :=
  if s.boot.off || s.mgmt.isolated then s
  else
    let s := setAlert (modMgmt s (fun m => { m with isolated := true })) 1
    logRec (raiseUnit s 0xCC noCtx moduleUnit 0) 2 0xCC moduleUnit (ldata [])

/-- SIDEBAND_STUCK_SDA: `freed` says that SDA went high within the nine pulses. -/
def execSidebandStuckSda (freed : Bool) (s : State) : Res := .next (if freed then s else isolate s)

/-- SIDEBAND_STUCK_SCL. -/
def execSidebandStuckScl (s : State) : Res := .next (isolate s)

/-- SIDEBAND_RECONNECT. -/
def execSidebandReconnect (s : State) : Res := .next (modMgmt s (fun m => { m with isolated := false }))

/-- DYNAMIC_ADDRESS_ASSIGNMENT. -/
def execDynamicAddressAssignment (s : State) : Res :=
  .next (if s.boot.off || s.mgmt.isolated then s else modMgmt s (fun m => { m with addressed := true }))

/-- MGMT_PORT_LINK_CHANGE: a link that drops trains again; port 1 may be unpowered (16/R497). -/
def execMgmtPortLinkChange (port : Nat) (up : Bool) (s : State) : Res :=
  let v := if up then 2 else 1
  .next (if s.boot.phase = 0 ∨ !powered s then s
    else if port = 0 then modMgmt s (fun m => { m with port0 := v })
    else if port = 1 ∧ s.mgmt.port1 ≠ 3 then modMgmt s (fun m => { m with port1 := v })
    else s)

/-- MANAGEMENT_MESSAGE: what is wrong with a message is answered or it is discarded; beyond 256 waiting requests it is
counted and discarded; a request of a defined operation is performed by that operation's own row. -/
def managementMessage (s : State) (source port waiting : Nat) (b : List Byte) : State :=
  let q : Req := { source, ident := leAt b 8 8, port }
  let op := leAt b 6 2
  if !reaches s source port then s
  else if b.length < 32 ∨ leAt b 0 4 ≠ 0x4D475A4D ∨ leAt b 4 2 ≠ 1 ∨ leAt b 0x14 4 ≠ b.length - 32
      ∨ (if source = 0 then 516 else 1028) < b.length - 32 then s
  else if 256 ≤ waiting then modMgmt s (fun m => { m with dropped := satAdd 32 m.dropped 1 })
  else match heldFor s source q.ident with
  | some h => emit s (.mgmt source (some port) h.bytes)
  | none =>
    if op = 0 ∨ 0x14 < op then deny s q op 0x01
    else if !zeroAt b 0x18 8 ∨ 4 ≤ leAt b 0x12 2 then deny s q op 0x02
    else s

def execManagementMessage (source port waiting : Nat) (message : List Byte) (s : State) : Res :=
  .next (managementMessage s source port waiting message)

end Sys2Proof.Machine
end

