-- ==== Sys2Proof/Machine/RegWrite.lean ====
section
/-!
DEFINITION. Writes of registers by the host (20/R588-R592), and the host registers whose writes begin an escalation or
set the hang and power limits.
-/
namespace Sys2Proof.Machine

/-- HUB_ESC_REQ, HUB_HANG_CFG and PWR_CFG. -/
def execHubEscReq (v : W64) (s : State) : Res := fromHost s (hubEscReq s v)
def execHangCfgWrite (v : W64) (s : State) : Res := fromHost s (hangCfgWrite s v)
def execPwrCfgWrite (v : W64) (s : State) : Res := fromHost s (pwrCfgWrite s v)

/-! ### Registers with fields alone -/

/-- A pending vector whose mask was cleared is sent (09/R273). PRESUMED: log entry 37. -/
def msixRelease (s : State) : State :=
  if !s.pcie.linkUp || !s.pcie.msixEn || s.pcie.msixMask then s
  else s.pcie.msixPending.foldl (fun s v =>
    if msixEnabled s v then emit { s with pcie := { s.pcie with msixPending := nerase s.pcie.msixPending v } } (.msix v) else s) s

/-- A word of the MSI-X table: the address, or data and vector control, of which bit 0 is held. PRESUMED: log entry 37. -/
def writeMsix (s : State) (o : Nat) (v : W64) : State :=
  let n := o / 16
  if o % 16 = 0 then { s with pcie := { s.pcie with msixAddr := tset 0#64 s.pcie.msixAddr n v } }
  else msixRelease { s with pcie := { s.pcie with msixData := tset 0 s.pcie.msixData n (rbits v 31 0)
                                                  msixCtrl := tset 1 s.pcie.msixCtrl n (rbits v 32 32) } }

/-- EVT_PIN_CFG (17/R534): a level-sensed pin that is low is pending (17/R520). -/
def writePinCfg (s : State) (p : Nat) (v : W64) : State :=
  let mask : W64 := BitVec.ofNat 64 (2 ^ 63 + 0xF * 2 ^ 56 + 3 * 2 ^ 48 + 0x1FFFF)
  let s := setPin s p { getPin s p with cfg := v &&& mask }
  let x := getPin s p
  if rbits x.cfg 49 48 = 0 ∧ !x.level ∧ !x.pending then raisePin (setPin s p { x with pending := true }) p else s

/-- The RW fields of EVT_ROUTE (17/R537). -/
def writeRoute (s : State) (r : Nat) (v : W64) : State :=
  let rw : W64 := BitVec.ofNat 64 (2 ^ 63 + 0xF * 2 ^ 56)
  let routes := tmod 0x8800000000000000#64 s.events.routes r (fun x => (x &&& ~~~rw) ||| (v &&& rw))
  if r = 0 ∨ 256 ≤ r then s else { s with events := { s.events with routes } }

/-- EVT_RING_BASE of a host ring: held while the ring is enabled (17/R531, R538). -/
def writeRingBase (s : State) (n : Nat) (v : W64) : State :=
  let base := rset v 11 0 0
  if n < 9 ∨ 64 ≤ n then s
  else modRing s n (fun r => if ringEnabled r then (if base = r.base then r else { r with reason := 0x1D }) else { r with base })

/-- Q_BASE: held while the queue is enabled (09/R286). -/
def writeQBase (s : State) (q : Nat) (v : W64) : State :=
  let base := rset v 11 0 0
  if 16384 ≤ q then s
  else modQueue s q (fun x => if qEnabled x then (if base = x.base then x else { x with reason := 0x1D }) else { x with base })

/-! ### A write by offset -/

/-- A write of a hub register: `v` is the whole register with the bytes written, `w` the bytes written alone, which is
what W1C and WO fields see, and `low` says that they include its low half. DEDUCED: log entry 34. -/
def hubStore (s : State) (o : Nat) (v w : W64) (low : Bool) : State :=
  if 0x10000 ≤ o ∧ o < 0x10080 then writeAperWin s ((o - 0x10000) / 8) v
  else if 0x20000 ≤ o ∧ o < 0x20400 then writeMsix s (o - 0x20000) v
  else if o = 0x60000 then pwrCfgWrite s v
  else if 0x70000 ≤ o ∧ o < 0x70040 then writePinCfg s ((o - 0x70000) / 8) v
  else if o = 0x70040 then pendingClear s w
  else if 0x70800 ≤ o ∧ o < 0x71000 then writeRoute s ((o - 0x70800) / 8) v
  else if 0x71000 ≤ o ∧ o < 0x72000 then
    let n := (o - 0x71000) / 0x40
    match o % 0x40 with
    | 0x00 => writeRingBase s n v
    | 0x08 => writeRingCfg s n v
    | 0x10 => overflowClear s n w
    | 0x18 => if low then evtRingHead s n (rbits w 15 0) else s
    | _ => s
  else if 0x90000 ≤ o ∧ o < 0x90200 ∧ o % 0x40 = 0 then partEnable s ((o - 0x90000) / 0x40) v
  else if 0xA0000 ≤ o ∧ o < 0xA4000 ∧ o % 0x40 = 0 then ctxEnable s ((o - 0xA0000) / 0x40) v
  else if 0xD0000 ≤ o ∧ o < 0xD8000 ∧ o % 0x20 = 0 then
    let g := (o - 0xD0000) / 0x20
    if rbit v 63 then grpEnable s g v else grpDisable s g v
  else if 0xD8000 ≤ o ∧ o < 0xD8800 then writeSubst s ((o - 0xD8000) / 8) v
  else if o = 0xE0000 then (if rbit v 63 then stepDirEnable s v else stepDirDisable s v)
  else if o = 0xE0010 then modStep s (fun x => { x with ackTally := rbits v 47 32 })
  else if o = 0xF0000 then hangCfgWrite s v
  else if o = 0xF0018 then modHang s (fun h => { h with target := v })
  else if o = 0xF0020 then hubEscReq s w
  else if 0x400000 ≤ o ∧ o < 0x500000 then
    let q := (o - 0x400000) / 0x40
    match o % 0x40 with
    | 0x00 => writeQBase s q v
    | 0x08 => if rbit v 63 then qEnable s q v else qDisable s q v
    | 0x18 => resumeQueue s q w
    | _ => s
  else s

/-- A write of a register of a die block. DEDUCED: log entry 34. -/
def dieStore (s : State) (die o : Nat) (v : W64) : State :=
  if 0x200000 ≤ o ∧ o < 0x205000 then
    let ch := dieChannel die ((o - 0x200000) / 0x100)
    if o % 0x100 = 0x20 then genWrite s ch v
    else if o % 0x100 = 0x28 then modChan s ch (fun c => { c with genRange := v })
    else s
  else if 0x300000 ≤ o ∧ o < 0x300600 ∧ o % 0x100 = 0 then
    let p := 6 * die + (o - 0x300000) / 0x100
    if rbit v 63 then portEnable s p v else portDisable s p v
  else s

/-- The bytes of a write placed in the 8 bytes around it, over `base`. DEDUCED: log entry 34. -/
def mergeBytes (base : Nat) (off : Nat) (data : List Byte) : W64 :=
  let b := Word.toLe 8 base
  BitVec.ofNat 64 (Word.leNat (b.take (off % 8) ++ data ++ b.drop (off % 8 + data.length)))

/-- A write to BAR0 (20/R588-R590): of 4 or 8 bytes, aligned; a reserved offset has no effect and is recorded. DEDUCED:
log entry 34. -/
def barWrite (s : State) (off : Nat) (data : List Byte) : State :=
  let n := data.length
  let o := off / 8 * 8
  if (n ≠ 4 ∧ n ≠ 8) ∨ off % n ≠ 0 then setRegErr s 0x03 true n off
  else match regWord s o with
  | none => setRegErr s 0x43 true n off
  | some (old, halves) =>
    if !Word.bitOf halves (off % 8 / 4) then setRegErr s 0x43 true n off
    else
      let v := mergeBytes old off data
      if o < 0x1000000 then hubStore s o v (mergeBytes 0 off data) (off % 8 == 0)
      else dieStore s ((o - 0x1000000) / 0x400000) ((o - 0x1000000) % 0x400000) v

/-- Configuration space answers from the firmware phase on, and in recovery (16/R499, R507). -/
def configAlive (s : State) : Bool := decide (4 ≤ s.boot.phase) && s.pcie.linkUp

/-- REGISTER_WRITE: a BAR0 register, or a field group of configuration space (09/R273): bus mastering, MSI-X enable and
function mask, and the power state, whose D3hot needs every queue to be disabled. PRESUMED: log entry 37. -/
def registerWrite (s : State) (t : RegTarget) (data : List Byte) : State :=
  let w := Word.leNat data
  match t with
  | .bar0 off => if hostOpen s then barWrite s off data else s
  | .command => if configAlive s then { s with pcie := { s.pcie with busMaster := Word.bitOf w 2 } } else s
  | .msixControl =>
    if configAlive s then msixRelease { s with pcie := { s.pcie with msixEn := Word.bitOf w 15, msixMask := Word.bitOf w 14 } } else s
  | .powerControl =>
    if !configAlive s then s
    else if w % 4 = 3 then (if s.queues.any (fun q => qEnabled q.2) then s else { s with pcie := { s.pcie with d3hot := true } })
    else if w % 4 = 0 then { s with pcie := { s.pcie with d3hot := false } }
    else s

def execRegisterWrite (t : RegTarget) (data : List Byte) (s : State) : Res := .next (registerWrite s t data)

end Sys2Proof.Machine
end

