-- ==== Sys2Proof/Machine/Dispatch.lean ====
section
/-!
DEFINITION. The dispatch: one arm per command, each one direct call of its meaning.
-/
namespace Sys2Proof.Machine

/-- The effect of a command on everything but the queue. DESIGN CHOICE: log entry 14. -/
def exec (i : Instr) (s : State) : Host.Outcome State Fault Refusal :=
  match i with
  | .delay core st f => Sys2Proof.Machine.execDelay core st f s
  | .fence core st f => Sys2Proof.Machine.execFence core st f s
  | .fenceResume core st => Sys2Proof.Machine.execFenceResume core st s
  | .lstream core f => Sys2Proof.Machine.execLstream core f s
  | .lweight core f => Sys2Proof.Machine.execLweight core f s
  | .ldiag core f => Sys2Proof.Machine.execLdiag core f s
  | .mpass core f => Sys2Proof.Machine.execMpass core f s
  | .mdiag core f => Sys2Proof.Machine.execMdiag core f s
  | .mdrain core f => Sys2Proof.Machine.execMdrain core f s
  | .mfloor core f => Sys2Proof.Machine.execMfloor core f s
  | .pset core f => Sys2Proof.Machine.execPset core f s
  | .ppack core f => Sys2Proof.Machine.execPpack core f s
  | .vloadc core f => Sys2Proof.Machine.execVloadc core f s
  | .vstorec core f => Sys2Proof.Machine.execVstorec core f s
  | .vrecv core f => Sys2Proof.Machine.execVrecv core f s
  | .vsplat core f => Sys2Proof.Machine.execVsplat core f s
  | .varith core f => Sys2Proof.Machine.execVarith core f s
  | .vfunc core f => Sys2Proof.Machine.execVfunc core f s
  | .vred core f => Sys2Proof.Machine.execVred core f s
  | .vbcast core f => Sys2Proof.Machine.execVbcast core f s
  | .pmove core f => Sys2Proof.Machine.execPmove core f s
  | .pacc core f => Sys2Proof.Machine.execPacc core f s
  | .pgather core f => Sys2Proof.Machine.execPgather core f s
  | .pscatter core f => Sys2Proof.Machine.execPscatter core f s
  | .pfabric core f => Sys2Proof.Machine.execPfabric core f s
  | .markedTransferComplete core id f => Sys2Proof.Machine.execMarkedTransferComplete core id f s
  | .swait core f => Sys2Proof.Machine.execSwait core f s
  | .swaitSatisfied core => Sys2Proof.Machine.execSwaitSatisfied core s
  | .ssignal core f => Sys2Proof.Machine.execSsignal core f s
  | .ssignalDrainDone core => Sys2Proof.Machine.execSsignalDrainDone core s
  | .srepeat core f => Sys2Proof.Machine.execSrepeat core f s
  | .sphase core f => Sys2Proof.Machine.execSphase core f s
  | .sophint core f => Sys2Proof.Machine.execSophint core f s
  | .markedWaitSatisfied core st f => Sys2Proof.Machine.execMarkedWaitSatisfied core st f s
  | .arrayHoldClear core st f => Sys2Proof.Machine.execArrayHoldClear core st f s
  | .activityFrame core due => Sys2Proof.Machine.execActivityFrame core due s
  | .housekeepingWindow core f => Sys2Proof.Machine.execHousekeepingWindow core f s
  | .launchEdge slot => Sys2Proof.Machine.execLaunchEdge slot s
  | .launchComplete slot extra cut => Sys2Proof.Machine.execLaunchComplete slot extra cut s
  | .packetFetch p => Sys2Proof.Machine.execPacketFetch p s
  | .commandBegin q => Sys2Proof.Machine.execCommandBegin q s
  | .completionRecordWrite q => Sys2Proof.Machine.execCompletionRecordWrite q s
  | .memWrite slot crates sectors data => Sys2Proof.Machine.execMemWrite slot crates sectors data s
  | .memRead slot crates f => Sys2Proof.Machine.execMemRead slot crates f s
  | .memCopy slot crates sectors f => Sys2Proof.Machine.execMemCopy slot crates sectors f s
  | .memFill slot crates sectors => Sys2Proof.Machine.execMemFill slot crates sectors s
  | .memRetag slot crates f => Sys2Proof.Machine.execMemRetag slot crates f s
  | .sliceMode slot => Sys2Proof.Machine.execSliceMode slot s
  | .launch slot => Sys2Proof.Machine.execLaunch slot s
  | .launchAbort slot => Sys2Proof.Machine.execLaunchAbort slot s
  | .tallyNop slot => Sys2Proof.Machine.execTallyNop slot s
  | .tallyAdd slot => Sys2Proof.Machine.execTallyAdd slot s
  | .tallyRead slot => Sys2Proof.Machine.execTallyRead slot s
  | .tallyEpoch slot => Sys2Proof.Machine.execTallyEpoch slot s
  | .phaseMapLoad slot => Sys2Proof.Machine.execPhaseMapLoad slot s
  | .phaseSwitch slot => Sys2Proof.Machine.execPhaseSwitch slot s
  | .allReduce slot => Sys2Proof.Machine.execAllReduce slot s
  | .reduceScatter slot => Sys2Proof.Machine.execReduceScatter slot s
  | .allGather slot => Sys2Proof.Machine.execAllGather slot s
  | .broadcast slot => Sys2Proof.Machine.execBroadcast slot s
  | .collectiveComplete slot => Sys2Proof.Machine.execCollectiveComplete slot s
  | .stepBegin slot => Sys2Proof.Machine.execStepBegin slot s
  | .stepReplay slot => Sys2Proof.Machine.execStepReplay slot s
  | .crossWeigh slot => Sys2Proof.Machine.execCrossWeigh slot s
  | .crossWeighOutcome slot o sb b => Sys2Proof.Machine.execCrossWeighOutcome slot o sb b s
  | .checkpoint slot => Sys2Proof.Machine.execCheckpoint slot s
  | .checkpointCommit slot => Sys2Proof.Machine.execCheckpointCommit slot s
  | .vacate slot served => Sys2Proof.Machine.execVacate slot served s
  | .takeover slot handing => Sys2Proof.Machine.execTakeover slot handing s
  | .stepConfig slot => Sys2Proof.Machine.execStepConfig slot s
  | .identify slot => Sys2Proof.Machine.execIdentify slot s
  | .telemetryRead slot x => Sys2Proof.Machine.execTelemetryRead slot x s
  | .ledgerRead slot => Sys2Proof.Machine.execLedgerRead slot s
  | .fwStage slot image fail => Sys2Proof.Machine.execFwStage slot image fail s
  | .fwHandover slot => Sys2Proof.Machine.execFwHandover slot s
  | .fieldTest slot => Sys2Proof.Machine.execFieldTest slot s
  | .chTestEnter slot => Sys2Proof.Machine.execChTestEnter slot s
  | .chTestExit slot => Sys2Proof.Machine.execChTestExit slot s
  | .marginSweep slot xs failed => Sys2Proof.Machine.execMarginSweep slot xs failed s
  | .marginStop slot => Sys2Proof.Machine.execMarginStop slot s
  | .captureRead slot => Sys2Proof.Machine.execCaptureRead slot s
  | .partCreate slot => Sys2Proof.Machine.execPartCreate slot s
  | .partDestroy slot => Sys2Proof.Machine.execPartDestroy slot s
  | .ctxCreate slot => Sys2Proof.Machine.execCtxCreate slot s
  | .ctxSet slot => Sys2Proof.Machine.execCtxSet slot s
  | .ctxDestroy slot => Sys2Proof.Machine.execCtxDestroy slot s
  | .teardownComplete ctx => Sys2Proof.Machine.execTeardownComplete ctx s
  | .revokeTimeout ctx => Sys2Proof.Machine.execRevokeTimeout ctx s
  | .quarantineEnd ctx => Sys2Proof.Machine.execQuarantineEnd ctx s
  | .sqDoorbell q v => Sys2Proof.Machine.execSqDoorbell q v s
  | .cqDoorbell q v => Sys2Proof.Machine.execCqDoorbell q v s
  | .qEnable q v => Sys2Proof.Machine.execQEnable q v s
  | .qDisable q v => Sys2Proof.Machine.execQDisable q v s
  | .queueDrainDone q => Sys2Proof.Machine.execQueueDrainDone q s
  | .resume q v => Sys2Proof.Machine.execResume q v s
  | .queueResumed q => Sys2Proof.Machine.execQueueResumed q s
  | .hostBackpressure held => Sys2Proof.Machine.execHostBackpressure held s
  | .aperWinEnable k v => Sys2Proof.Machine.execAperWinEnable k v s
  | .apertureRead x n => Sys2Proof.Machine.execApertureRead x n s
  | .apertureWrite x data => Sys2Proof.Machine.execApertureWrite x data s
  | .partEnable p v => Sys2Proof.Machine.execPartEnable p v s
  | .ctxEnable n v => Sys2Proof.Machine.execCtxEnable n v s
  | .portEnable p v => Sys2Proof.Machine.execPortEnable p v s
  | .portDisable p v => Sys2Proof.Machine.execPortDisable p v s
  | .grpEnable g v => Sys2Proof.Machine.execGrpEnable g v s
  | .grpDisable g v => Sys2Proof.Machine.execGrpDisable g v s
  | .grpSubstEnable k v => Sys2Proof.Machine.execGrpSubstEnable k v s
  | .stepDirEnable v => Sys2Proof.Machine.execStepDirEnable v s
  | .stepDirDisable v => Sys2Proof.Machine.execStepDirDisable v s
  | .evtRingEnable n v => Sys2Proof.Machine.execEvtRingEnable n v s
  | .evtRingDisable n v => Sys2Proof.Machine.execEvtRingDisable n v s
  | .evtRingHead n v => Sys2Proof.Machine.execEvtRingHead n v s
  | .evtEoi q own v => Sys2Proof.Machine.execEvtEoi q own v s
  | .pendingClear v => Sys2Proof.Machine.execPendingClear v s
  | .overflowClear n v => Sys2Proof.Machine.execOverflowClear n v s
  | .hubEscReq v => Sys2Proof.Machine.execHubEscReq v s
  | .hangCfgWrite v => Sys2Proof.Machine.execHangCfgWrite v s
  | .pwrCfgWrite v => Sys2Proof.Machine.execPwrCfgWrite v s
  | .genStart ch v => Sys2Proof.Machine.execGenStart ch v s
  | .genStop ch v => Sys2Proof.Machine.execGenStop ch v s
  | .registerWrite t data => Sys2Proof.Machine.execRegisterWrite t data s
  | .regReadRefused off len => Sys2Proof.Machine.execRegReadRefused off len s
  | .functionLevelReset => Sys2Proof.Machine.execFunctionLevelReset s
  | .perst => Sys2Proof.Machine.execPerst s
  | .pcieLinkDown => Sys2Proof.Machine.execPcieLinkDown s
  | .pcieReadError q slot => Sys2Proof.Machine.execPcieReadError q slot s
  | .dramRefresh chan => Sys2Proof.Machine.execDramRefresh chan s
  | .recalibration ch late => Sys2Proof.Machine.execRecalibration ch late s
  | .patrolScrubStep ch late passDone f => Sys2Proof.Machine.execPatrolScrubStep ch late passDone f s
  | .memoryLaneRetire ch lane uncorr => Sys2Proof.Machine.execMemoryLaneRetire ch lane uncorr s
  | .scrubStarved core => Sys2Proof.Machine.execScrubStarved core s
  | .fieldTestDue u test => Sys2Proof.Machine.execFieldTestDue u test s
  | .standingRecovery u => Sys2Proof.Machine.execStandingRecovery u s
  | .counterMirror => Sys2Proof.Machine.execCounterMirror s
  | .ledgerPageProgram => Sys2Proof.Machine.execLedgerPageProgram s
  | .holdupStateChange state charge => Sys2Proof.Machine.execHoldupStateChange state charge s
  | .ledgerFlashFail => Sys2Proof.Machine.execLedgerFlashFail s
  | .flitReceive p corr b => Sys2Proof.Machine.execFlitReceive p corr b s
  | .frameSend p lane => Sys2Proof.Machine.execFrameSend p lane s
  | .put p => Sys2Proof.Machine.execPut p s
  | .accPut p => Sys2Proof.Machine.execAccPut p s
  | .getReq p => Sys2Proof.Machine.execGetReq p s
  | .getData p => Sys2Proof.Machine.execGetData p s
  | .tallyAddFrame p => Sys2Proof.Machine.execTallyAddFrame p s
  | .collGrant p => Sys2Proof.Machine.execCollGrant p s
  | .collData p => Sys2Proof.Machine.execCollData p s
  | .void p => Sys2Proof.Machine.execVoid p s
  | .error p => Sys2Proof.Machine.execError p s
  | .revoke p => Sys2Proof.Machine.execRevoke p s
  | .revokeAck p => Sys2Proof.Machine.execRevokeAck p s
  | .bind p => Sys2Proof.Machine.execBind p s
  | .bindReply p => Sys2Proof.Machine.execBindReply p s
  | .ack p => Sys2Proof.Machine.execAck p s
  | .nak p => Sys2Proof.Machine.execNak p s
  | .openReq p => Sys2Proof.Machine.execOpen p s
  | .openAck p => Sys2Proof.Machine.execOpenAck p s
  | .bell p => Sys2Proof.Machine.execBell p s
  | .time p rx tx => Sys2Proof.Machine.execTime p rx tx s
  | .discovery p => Sys2Proof.Machine.execDiscovery p s
  | .ackTimer peer ch => Sys2Proof.Machine.execAckTimer peer ch s
  | .retransmitTimeout peer ch => Sys2Proof.Machine.execRetransmitTimeout peer ch s
  | .openRetry peer => Sys2Proof.Machine.execOpenRetry peer s
  | .discoverySend p => Sys2Proof.Machine.execDiscoverySend p s
  | .discoveryTimeout p => Sys2Proof.Machine.execDiscoveryTimeout p s
  | .portLinkLost p => Sys2Proof.Machine.execPortLinkLost p s
  | .portTrainingDone p answered failed lanes => Sys2Proof.Machine.execPortTrainingDone p answered failed lanes s
  | .portTrainingRetry p => Sys2Proof.Machine.execPortTrainingRetry p s
  | .fabricLaneRetire p lane => Sys2Proof.Machine.execFabricLaneRetire p lane s
  | .portBackpressure p held => Sys2Proof.Machine.execPortBackpressure p held s
  | .timeExchange p tx => Sys2Proof.Machine.execTimeExchange p tx s
  | .collectiveSilence g a => Sys2Proof.Machine.execCollectiveSilence g a s
  | .bellResend g => Sys2Proof.Machine.execBellResend g s
  | .groupBackpressure g held => Sys2Proof.Machine.execGroupBackpressure g held s
  | .vacateAuto => Sys2Proof.Machine.execVacateAuto s
  | .vacateNoTakeover => Sys2Proof.Machine.execVacateNoTakeover s
  | .holderTimeout => Sys2Proof.Machine.execHolderTimeout s
  | .hangEvaluation => Sys2Proof.Machine.execHangEvaluation s
  | .escalationContext ctx => Sys2Proof.Machine.execEscalationContext ctx s
  | .escalationEngine u hit cut lost => Sys2Proof.Machine.execEscalationEngine u hit cut lost s
  | .escalationPartition part lost => Sys2Proof.Machine.execEscalationPartition part lost s
  | .escalationChip => Sys2Proof.Machine.execEscalationChip s
  | .escalationPowerCycle => Sys2Proof.Machine.execEscalationPowerCycle s
  | .coreStopTimeout core => Sys2Proof.Machine.execCoreStopTimeout core s
  | .heartbeatMissed die proc => Sys2Proof.Machine.execHeartbeatMissed die proc s
  | .engineNoAnswer u => Sys2Proof.Machine.execEngineNoAnswer u s
  | .escalationOverrun level target => Sys2Proof.Machine.execEscalationOverrun level target s
  | .stewardWatchdog => Sys2Proof.Machine.execStewardWatchdog s
  | .readyTimeout => Sys2Proof.Machine.execReadyTimeout s
  | .powerOn => Sys2Proof.Machine.execPowerOn s
  | .resetNAsserted => Sys2Proof.Machine.execResetNAsserted s
  | .assertionEnd held => Sys2Proof.Machine.execAssertionEnd held s
  | .fuseSense => Sys2Proof.Machine.execFuseSense s
  | .optionLoading samples => Sys2Proof.Machine.execOptionLoading samples s
  | .bootRom => Sys2Proof.Machine.execBootRom s
  | .firmwarePhase torn routes rings tests => Sys2Proof.Machine.execFirmwarePhase torn routes rings tests s
  | .phyTraining chans ports => Sys2Proof.Machine.execPhyTraining chans ports s
  | .ready => Sys2Proof.Machine.execReady s
  | .eventRecordWrite n => Sys2Proof.Machine.execEventRecordWrite n s
  | .interruptTake q => Sys2Proof.Machine.execInterruptTake q s
  | .pinChange p level => Sys2Proof.Machine.execPinChange p level s
  | .referenceLost => Sys2Proof.Machine.execReferenceLost s
  | .pllLockLost ok => Sys2Proof.Machine.execPllLockLost ok s
  | .opTargetChange => Sys2Proof.Machine.execOpTargetChange s
  | .opSwitch => Sys2Proof.Machine.execOpSwitch s
  | .backstopTick x => Sys2Proof.Machine.execBackstopTick x s
  | .backstopLimitUpdate => Sys2Proof.Machine.execBackstopLimitUpdate s
  | .droop die => Sys2Proof.Machine.execDroop die s
  | .thermalResponse junction jIndex mem mIndex => Sys2Proof.Machine.execThermalResponse junction jIndex mem mIndex s
  | .inputOutOfRange => Sys2Proof.Machine.execInputOutOfRange s
  | .inputLoss => Sys2Proof.Machine.execInputLoss s
  | .auxLoss => Sys2Proof.Machine.execAuxLoss s
  | .mgmtIdentify q body => Sys2Proof.Machine.execMgmtIdentify q body s
  | .telemetry q body x => Sys2Proof.Machine.execTelemetry q body x s
  | .mgmtDiscovery q body => Sys2Proof.Machine.execMgmtDiscovery q body s
  | .setStall q body => Sys2Proof.Machine.execSetStall q body s
  | .assignChip q body => Sys2Proof.Machine.execAssignChip q body s
  | .routeWrite q body => Sys2Proof.Machine.execRouteWrite q body s
  | .reclaim q body => Sys2Proof.Machine.execReclaim q body s
  | .reclaimStatus q body => Sys2Proof.Machine.execReclaimStatus q body s
  | .vacatedResend => Sys2Proof.Machine.execVacatedResend s
  | .mgmtLedgerRead q body => Sys2Proof.Machine.execMgmtLedgerRead q body s
  | .totalsRead q body => Sys2Proof.Machine.execTotalsRead q body s
  | .fwChunk q body fail => Sys2Proof.Machine.execFwChunk q body fail s
  | .fwCommit q body fail => Sys2Proof.Machine.execFwCommit q body fail s
  | .mgmtFwHandover q body => Sys2Proof.Machine.execMgmtFwHandover q body s
  | .escalate q body => Sys2Proof.Machine.execEscalate q body s
  | .limit q body => Sys2Proof.Machine.execLimit q body s
  | .nonce q body => Sys2Proof.Machine.execNonce q body s
  | .nonceLapse => Sys2Proof.Machine.execNonceLapse s
  | .keyRevocation q body => Sys2Proof.Machine.execKeyRevocation q body s
  | .templateRevocation q body => Sys2Proof.Machine.execTemplateRevocation q body s
  | .debugRevocation q body => Sys2Proof.Machine.execDebugRevocation q body s
  | .securityVersionRaise q body => Sys2Proof.Machine.execSecurityVersionRaise q body s
  | .scanUnlock q body => Sys2Proof.Machine.execScanUnlock q body s
  | .rmaEntry q body => Sys2Proof.Machine.execRmaEntry q body s
  | .provision q body steps => Sys2Proof.Machine.execProvision q body steps s
  | .setAddr q body => Sys2Proof.Machine.execSetAddr q body s
  | .alertClear q body => Sys2Proof.Machine.execAlertClear q body s
  | .sidebandStuckSda freed => Sys2Proof.Machine.execSidebandStuckSda freed s
  | .sidebandStuckScl => Sys2Proof.Machine.execSidebandStuckScl s
  | .sidebandReconnect => Sys2Proof.Machine.execSidebandReconnect s
  | .powerCycleTimeout => Sys2Proof.Machine.execPowerCycleTimeout s
  | .fieldTestResult u test result dur detail => Sys2Proof.Machine.execFieldTestResult u test result dur detail s
  | .genPassesDone ch errors lo hi => Sys2Proof.Machine.execGenPassesDone ch errors lo hi s
  | .pcieLinkUp => Sys2Proof.Machine.execPcieLinkUp s
  | .referenceRestored => Sys2Proof.Machine.execReferenceRestored s
  | .inputBackInRange => Sys2Proof.Machine.execInputBackInRange s
  | .pllLockTimeout => Sys2Proof.Machine.execPllLockTimeout s
  | .handoverTimeout => Sys2Proof.Machine.execHandoverTimeout s
  | .replayDrainTimeout => Sys2Proof.Machine.execReplayDrainTimeout s
  | .transferCancelTimeout core id u => Sys2Proof.Machine.execTransferCancelTimeout core id u s
  | .sliceScrubPass slice f => Sys2Proof.Machine.execSliceScrubPass slice f s
  | .mgmtPortLinkChange port up => Sys2Proof.Machine.execMgmtPortLinkChange port up s
  | .dynamicAddressAssignment => Sys2Proof.Machine.execDynamicAddressAssignment s
  | .managementMessage source port waiting message => Sys2Proof.Machine.execManagementMessage source port waiting message s

end Sys2Proof.Machine
end

