-- ==== Sys2Proof/Machine/Tick.lean ====
section
/-!
DEFINITION. What passes with time alone: 10 ns of the time base, with the array cycles and bubble cycles in it
(18/R540, R551, R561, R562). It is what a step does when no command waits (DESIGN CHOICE, log entry 1).
-/
namespace Sys2Proof.Machine

/-- Array cycles in 10 ns at an operating point (01/R23). DESIGN CHOICE: log entry 1. -/
def cyclesPerTick (op : Nat) : Nat := [18, 16, 14, 12].getD op 12

/-- Bubble cycles among the first `x` array cycles when `n` of every 64 are bubbles (18/R551). -/
def bubblesUpTo (n x : Nat) : Nat := x / 64 * n + x % 64 * n / 64

/-- Bubble cycles counted to the open entry of the backstop log. -/
def logBubbles (k : Nat) (log : List BackEntry) : List BackEntry :=
  match log.reverse with
  | e :: t => if e.stop = 0#64 then (({ e with cycles := e.cycles + k } : BackEntry) :: t).reverse else log
  | [] => []

/-- The array clocks run: the module is ready. DESIGN CHOICE: log entry 1. -/
def tickArray (s : State) : State :=
  let a := s.arrayCycles.toNat
  let b := a + cyclesPerTick s.pwr.op
  let k := bubblesUpTo s.pwr.bubbles b - bubblesUpTo s.pwr.bubbles a
  let s := { s with arrayCycles := BitVec.ofNat 64 b
                    pwr := { s.pwr with ticks := tmod 0 s.pwr.ticks s.pwr.op (· + 1) } }
  if k = 0 then s
  else
    { s with pwr := { s.pwr with backCycles := s.pwr.backCycles + BitVec.ofNat 64 k, log := logBubbles k s.pwr.log }
             launches := s.launches.map (fun (l : Nat × Launch) => if l.2.running then (l.1, { l.2 with bubbles := true }) else l) }

/-- One tick of 10 ns. DESIGN CHOICE: log entry 1. -/
def tick (s : State) : State :=
  let s := { s with time := s.time + 1#64 }
  if s.boot.phase = 6 then tickArray s else s

end Sys2Proof.Machine
end

