-- ==== Sys2Proof/Safety.lean ====
section
/-!
DEFINITION. What claims about the module are stated in.
-/
namespace Sys2Proof.Machine

/-- A command answers a next state of which `P` holds. -/
def Runs (c : Instr) (s : State) (P : State → Prop) : Prop := ∃ t, exec c s = .next t ∧ P t

/-! ### Stations -/

/-- What one signal slot does to the bins (03/R76): nothing when it is off, else a post or a release; `none` where that
is a bin fault (03/R78). -/
def sigBin (bins : List Bin) (x : Ins.Slot) : Option (List Bin) :=
  let b := bins.getD x.bin {}
  if !x.en then some bins
  else if x.kind then (if b.occ = 0 then none else some (lset bins x.bin { b with empty := (b.empty + 1) % 2 ^ 32 }))
  else if b.occ = b.slotCount ∨ b.producer = 7 then none
  else some (lset bins x.bin { b with fill := (b.fill + 1) % 2 ^ 32 })

/-- What the two signal slots of an instruction do to the bins. -/
def sigBins (bins : List Bin) (w : W128) : Option (List Bin) := (Ins.sigs w).foldlM sigBin bins

/-- The bins after `n` slots of bin `b` are released (03/R76). -/
def releasedBins (b : Nat) : Nat → List Bin → List Bin
  | 0, bs => bs
  | n + 1, bs => releasedBins b n (lset bs b { bs.getD b {} with empty := ((bs.getD b {}).empty + 1) % 2 ^ 32 })

/-- The bins after a post into bin `b`. -/
def postedBin (b : Nat) (bs : List Bin) : List Bin :=
  lset bs b { bs.getD b {} with fill := ((bs.getD b {}).fill + 1) % 2 ^ 32 }

/-- Station `st` of a core is at the instruction `w` of opcode `op`, held as `h`, its core runs, and its wait slots are
satisfied (03/R76, R79, 05/R131). -/
structure AtIns (s : State) (core st op : Nat) (h : Hold) (w : W128) : Prop where
  fetch : fetchIns s core st = some w
  opcode : Ins.op w = op
  held : (getStation (getCore s core) st).hold = h
  waits : waitFail (getCore s core) w = none

/-- A core whose station `st` went past its instruction, its signal slots having made the bins `bins`; `r` is what
CORE_STATE.RUN then shows. -/
def passedCore (c : Core) (st : Nat) (bins : List Bin) (r : Nat) : Core := { modStation c st Station.next with bins, run := r }

/-- Station `st` of a core goes past its instruction, whose own effect on the core is `f`; the core has not stopped by
fault, and no other core changes. -/
def Passed (s t : State) (core st : Nat) (bins : List Bin) (f : Core → Core) : Prop :=
  (∃ r, r ≠ 3 ∧ getCore t core = f (passedCore (getCore s core) st bins r)) ∧ ∀ c, c ≠ core → getCore t c = getCore s c

/-! ### Crates -/

/-- A crate that its reader takes as good: no cache-mode slice holds it, no word of it is uncorrectable, it is not
poisoned, and its check holds (08/R244, R247, 07/R200). -/
structure CrateOk (s : State) (crate : Nat) : Prop where
  home : cacheHome s.mem crate = none
  bad : ∀ x ∈ s.mem.bad, x / 64 ≠ crate
  poison : Tag.poisoned (crateTag s.mem crate) = false
  check : Tag.check (crateTag s.mem crate) = Crc.crc64 (crateBytes s.mem crate)

/-- A crate that a move takes as it is: no cache-mode slice holds it, no word of it is uncorrectable, and it is poisoned
or its check holds (06/R180). -/
structure MoveOk (s : State) (crate : Nat) : Prop where
  home : cacheHome s.mem crate = none
  bad : ∀ x ∈ s.mem.bad, x / 64 ≠ crate
  check : Tag.poisoned (crateTag s.mem crate) = true ∨ Tag.check (crateTag s.mem crate) = Crc.crc64 (crateBytes s.mem crate)

/-- A consumed crate as its reader takes it, when it is good. -/
def goodCrate (s : State) (crate : Nat) : InCrate :=
  { bytes := crateBytes s.mem crate, tag := crateTag s.mem crate, poison := false }

/-- A crate may be written without more: the open step preserves nothing of it (14/R438) and no cache-mode slice holds
it. -/
def Plain (m : Mem) (crate : Nat) : Prop :=
  (∀ c, m.cow = some c → shardOrdinal c.extents crate = none) ∧ cacheHome m crate = none

/-- The memories after the crates of a list of writes: the payload and tag of each, its open bit and uncorrectable marks
gone, every other crate and byte as before. -/
def WroteCrate (m m' : Mem) (crate : Nat) (p : List Byte) (t : W128) : Prop :=
  crateBytes m' crate = p ∧ crateTag m' crate = t ∧
    ∀ k, k ≠ crate → crateBytes m' k = crateBytes m k ∧ crateTag m' k = crateTag m k

/-- The crates of two memories are equal but for those that `p` names. -/
def SameCrates (m m' : Mem) (p : Nat → Prop) : Prop :=
  ∀ k, ¬ p k → crateBytes m' k = crateBytes m k ∧ crateTag m' k = crateTag m k

/-- The memories may be written as one list of crates in address order says. -/
def Writable (m : Mem) : Prop := Memory.wf m = true ∧ m.opened.Pairwise (· < ·)

/-! ### Commands of the table -/

/-- The command of a slot has begun, is one of an opcode, has gathered nothing of a next crate, and no other command has
its slot. -/
def IsBegun (s : State) (slot op : Nat) (c : Cmd) : Prop :=
  begun s slot op = some c ∧ c.gather = [] ∧ ∀ d ∈ s.cmds, d.slot = slot → d = c

/-- The command table once the command of a slot has ended as `e` says: its record is due (09/R298). -/
def endedCmds (s : State) (slot : Nat) (e : EndWith) : List Cmd :=
  s.cmds.map fun c => if c.slot = slot then
    { c with phase := 2, cls := e.cls, reason := e.reason, detail16 := e.detail16, detail32 := e.detail32
             result := BitVec.ofNat 64 e.result, time := s.time }
  else c

/-- The command table once the command of a slot has changed by `f`. -/
def changedCmds (s : State) (slot : Nat) (f : Cmd → Cmd) : List Cmd := s.cmds.map fun c => if c.slot = slot then f c else c

/-- The step command of a slot, the last of its queue, has ended with a class and a reason, which HUB_STEP keeps (14/R460);
its queue stops, and nothing else changes. -/
def StepRefused (s t : State) (slot cls reason : Nat) : Prop :=
  t = { s with stepSt := { s.stepSt with reason }, queues := t.queues, cmds := endedCmds s slot { cls, reason } }

/-- A core whose site has no test due and needs no repair (08/R254-R256). -/
def CoreQuiet (s : State) (core : Nat) : Prop :=
  (getUnit s (coreUnit s core)).due = [] ∧ (getUnit s (coreUnit s core)).standing ≠ 2 ∧
    (getUnit s (coreUnit s core)).fenced = false

/-- Host memory holds bytes at an address, and every other byte of it is as before. -/
def HostGot (s t : State) (a : Nat) (bs : List Byte) : Prop :=
  (∀ i, i < bs.length → readByte t.hostMem (a + i) = bs.getD i 0#8) ∧
    ∀ x, (x < a ∨ a + bs.length ≤ x) → readByte t.hostMem x = readByte s.hostMem x

/-! ### What is told -/

/-- `t` is `s` but for what telling of a happening changes: the events, the ledger and, for an error of the training
context, the step records (14/R440); a module without a training context keeps its memories as they were. -/
def Told (s t : State) : Prop :=
  t = { s with mem := t.mem, stepSt := t.stepSt, events := t.events, ledger := t.ledger } ∧
    ((∀ c, (getCtx s c).training = false) → t.mem = s.mem ∧ t.stepSt = s.stepSt)

/-- The ledger, once mounted, has one more record: its kind and its reason, numbered next (08/R261). -/
def Recorded (s t : State) (kind reason : Nat) : Prop :=
  s.ledger.mode ≠ 0 → t.ledger.seq = s.ledger.seq + 1#64 ∧
    ∃ r ∈ t.ledger.records, r.kind = kind ∧ r.reason = reason ∧ r.seq = s.ledger.seq.toNat ∧ r.time = s.time

/-! ### The fabric -/

/-- Frame `f`, at place `k` of what port `p` has received, is the next of its type (11/R360). -/
def NextFrame (s : State) (p typ k : Nat) (f : Frame) : Prop := firstOf typ 0 [] (getPort s p).rx = some (k, f)

/-- A sequenced frame comes in order: its source has session `n`, whose receive half has its SID and expects its number
(11/R369, R372). -/
structure InOrder (s : State) (f : Frame) (n : Nat) (x : Session) : Prop where
  entry : sessionOf s f.src = some n
  session : getSession s n = some x
  sid : x.rxSid = some f.sid
  seq : (chanOf x f.ch).expect = f.seq
  chans : f.ch < 4 ∧ x.chans.length = 4

/-- A frame has left what its port received, and its words' credits went back (11/R362). -/
def Took (s t : State) (p k : Nat) (f : Frame) : Prop :=
  (getPort t p).rx = (getPort s p).rx.eraseIdx k ∧ Out.credits p (frameLane f) (frameWords f) ∈ t.out

/-- Session `n` expects the number after a frame on its channel (11/R372). -/
def Expects (t : State) (n : Nat) (f : Frame) : Prop :=
  ∃ y, getSession t n = some y ∧ (chanOf y f.ch).expect = (f.seq + frameSpan f) % 2 ^ 32

/-- A crate that a frame brings is taken as it is: poisoned, or its check holds (11/R377). -/
def FrameOk (f : Frame) : Prop :=
  f.data.length = 4112 ∧ (Tag.poisoned (frameTag f) = true ∨ Tag.check (frameTag f) = Crc.crc64 (framePayload f))

/-! ### Management -/

/-- A request reaches the module and repeats none whose response is still held (19/R570, R571). -/
def Fresh (s : State) (q : Req) : Prop := reaches s q.source q.port = true ∧ heldFor s q.source q.ident = none

/-- A request was answered, and the response is held for its repetition (19/R570, R571). -/
def Answered (s t : State) (q : Req) (op cls reason : Nat) (body : List Byte) : Prop :=
  t.out = s.out ++ [.mgmt q.source (some q.port) (message op q.ident (cls * 256 + reason) 1 body)] ∧
    ∃ h, heldFor t q.source q.ident = some h ∧ h.bytes = message op q.ident (cls * 256 + reason) 1 body

/-- A request was answered, and nothing else changed. -/
def OnlyAnswered (s t : State) (q : Req) (op cls reason : Nat) (body : List Byte) : Prop :=
  Answered s t q op cls reason body ∧ t = { s with out := t.out, mgmt := { s.mgmt with held := t.mgmt.held } }

/-! ### The fuses -/

/-- The burned fuses as the spec lets them be (10/R312-R317): a lifecycle state of the table; a security version of at
most 128; T0 not revoked; an owner key usable once any is revoked; in a state after MANUFACTURED, T0 allowed and an owner
key usable; and the fuse registers show a later lifecycle state than MANUFACTURED only when it is burned. -/
structure FusesLegal (s : State) : Prop where
  lifecycle : s.fuses.lifecycle = 0 ∨ s.fuses.lifecycle = 1 ∨ s.fuses.lifecycle = 3
  svn : s.fuses.svn ≤ 128
  t0 : Word.bitOf s.fuses.templRevoked 0 = false
  slots : s.fuses.keys.length = 4
  usable : s.fuses.keyRevoked ≠ 0 ∨ s.fuses.lifecycle ≠ 0 →
    ∃ i < 4, s.fuses.keys.getD i 0 ≠ 0 ∧ Word.bitOf s.fuses.keyRevoked i = false
  owned : s.fuses.lifecycle ≠ 0 → Word.bitOf s.fuses.templates 0 = true
  latched : s.fuse.f.lifecycle ≠ 0 → s.fuses.lifecycle ≠ 0

/-- Every bit of `a` is set in `b`. -/
def Within (a b : Nat) : Prop := Nat.lor a b = b

/-- Fuses `g` come from fuses `f` by burning: what the factory burned is as it was, and no burned bit is gone (10/R312). -/
structure Gained (f g : Fuses) : Prop where
  factory : g = { f with lifecycle := g.lifecycle, keys := g.keys, keyRevoked := g.keyRevoked, templates := g.templates
                         templRevoked := g.templRevoked, t6 := g.t6, t7 := g.t7, debug := g.debug
                         debugRevoked := g.debugRevoked, svn := g.svn, imageCheck := g.imageCheck }
  lifecycle : Within f.lifecycle g.lifecycle
  keys : ∀ i, Within (f.keys.getD i 0) (g.keys.getD i 0)
  keyRevoked : Within f.keyRevoked g.keyRevoked
  templates : Within f.templates g.templates
  templRevoked : Within f.templRevoked g.templRevoked
  t6 : Within f.t6 g.t6
  t7 : Within f.t7 g.t7
  debug : Within f.debug g.debug
  debugRevoked : Within f.debugRevoked g.debugRevoked
  svn : f.svn ≤ g.svn
  imageCheck : Within f.imageCheck g.imageCheck

/-! ### Registers -/

/-- Words of register space with one reset value: the offset of the first, the distance from one to the next, how many,
and the value. -/
structure RegRow where
  first : Nat
  stride : Nat
  count : Nat
  value : Nat
deriving DecidableEq, Repr

/-- The words of the hub block that a chip-level reset restores to their reset value (20/R594, R595), and the constant
HUB_ID. -/
def hubResets : List RegRow :=
  [⟨0, 0, 1, 0x148555A4D⟩, ⟨0x10, 0, 1, 0⟩, ⟨0x10000, 8, 16, 0⟩, ⟨0x10080, 0, 1, 0⟩, ⟨0x20000, 0x10, 64, 0⟩,
   ⟨0x20008, 0x10, 64, 2 ^ 32⟩, ⟨0x21000, 0, 1, 0⟩, ⟨0x30000, 0, 1, 0⟩, ⟨0x60000, 0, 1, 0x1E12C000140030⟩,
   ⟨0x60008, 0, 1, 0x12C000003C00⟩, ⟨0x60010, 8, 4, 0⟩, ⟨0x60030, 0, 1, 0x12C000000000⟩,
   ⟨0x70000, 0x18, 2, 0x80200000000012C⟩, ⟨0x70008, 8, 2, 0x80000000000012C⟩,
   ⟨0x70020, 8, 4, 0x80000000000012C⟩, ⟨0x70100, 0x10, 9, 0⟩, ⟨0x70808, 8, 255, 0x8800000000000000⟩,
   ⟨0x71000, 8, 512, 0⟩, ⟨0x90000, 0x40, 8, 0⟩, ⟨0xA0000, 0x40, 256, 0⟩] ++
  [⟨0xA0008, 0x40, 256, 0⟩, ⟨0xA0010, 0x40, 256, 0x20000⟩, ⟨0xA0018, 0x40, 256, 0⟩, ⟨0xA0020, 0x40, 256, 0⟩,
   ⟨0xB0020, 0, 1, 0⟩, ⟨0xC0100, 0, 1, 0⟩, ⟨0xD0000, 8, 4096, 0⟩, ⟨0xD8000, 8, 256, 0⟩, ⟨0xD9000, 8, 16, 0⟩,
   ⟨0xE0000, 8, 7, 0⟩, ⟨0xF0000, 0, 1, 0x84000000000000C8⟩, ⟨0xF0008, 8, 5, 0⟩, ⟨0x400000, 0x40, 16384, 0⟩,
   ⟨0x400008, 0x40, 15360, 0⟩, ⟨0x400008 + 0x40 * 15360, 0x40, 1024, 0x4000000000000000⟩,
   ⟨0x400010, 0x40, 16384, 0⟩, ⟨0x400018, 0x40, 16384, 0⟩, ⟨0x600000, 8, 32768, 0⟩,
   ⟨0x700000, 0x20, 4096, 0⟩, ⟨0x700008, 0x20, 4096, 0⟩]

/-- The other words of the hub block with their values at power-on (20/R594, R595): those whose scope is power-on or
fuse sense, and those that show a line, a link or the ledger, or keep a part (MGMT_STATUS, EVT_PIN_STATUS, HUB_CHIP). -/
def hubResetsOther : List RegRow :=
  [⟨8, 0, 1, 0⟩, ⟨0x40000, 8, 6, 0⟩, ⟨0x50000, 8, 3, 0⟩, ⟨0x50100, 8, 32, 0⟩, ⟨0x50200, 8, 6, 0⟩,
   ⟨0x70040, 0, 1, 0xFF0000⟩, ⟨0x80000, 8, 3, 0⟩, ⟨0xB0000, 0, 1, 0xC0AF0000⟩, ⟨0xB0008, 8, 3, 0⟩,
   ⟨0xC0000, 0, 1, 0x1F0000⟩]

end Sys2Proof.Machine
end

