-- ==== Sys2Proof/Certificates/Slice0/Obligations.lean ====
section
/-!
DEFINITION. The statements: what each command of the module does, what the module keeps, and what it shows after a reset.
Each holds for every state of its hypotheses, whether or not a run reaches it.
-/
open Sys2Proof Sys2Proof.Machine

/-! ### Station control and the Sequencer -/

/-- DELAY and FENCE (03/R88, 05/R134): a station passes its DELAY once its waits are satisfied, its signals acting; at a
FENCE it stops issuing, held with the fence's scope and sequence number, and CORE_STATE.RUN reads 2. Neither changes
another core or anything outside the cores. FENCE_RESUME (03/R88, R89): when every station of the fence's scope has
arrived, each core of the scope runs again from the resume edge, its stations past their fences and the fences'
signals made, and no other core changes. Where the rules leave a corner open it takes the model's reading (log entry
13). -/
def Obligations.DelaysAndFences : Prop :=
  (∀ s core st w bins, AtIns s core st 0x00 .none w → sigBins (getCore s core).bins w = some bins →
    Runs (.delay core st .clean) s (fun t => Passed s t core st bins id ∧ t = { s with cores := t.cores })) ∧
  (∀ s core st w, AtIns s core st 0x7F .none w →
    Runs (.fence core st .clean) s (fun t =>
      (getStation (getCore t core) st).hold = .fence (Ins.bits w 17 16) (Ins.bits w 15 0) ∧
      (getStation (getCore t core) st).pc = (getStation (getCore s core) st).pc ∧
      (getCore t core).run = 2 ∧ (getCore t core).bins = (getCore s core).bins ∧
      (∀ c, c ≠ core → getCore t c = getCore s c) ∧ t = { s with cores := t.cores })) ∧
  (∀ (s : State) (core st scope seq : Nat) (bins : Nat → List Bin), (getStation (getCore s core) st).hold = .fence scope seq → coreRuns s core = true →
    fenceReady s (fenceScope s core scope) scope seq = true → (fenceScope s core scope).Nodup →
    (∀ c ∈ fenceScope s core scope, coreRuns s c = true ∧ (getCore s c).stations.length = 6 ∧
      (List.range 6).foldlM (fun bs i => match fetchIns s c i with | some w => sigBins bs w | none => some bs)
        (getCore s c).bins = some (bins c)) →
    Runs (.fenceResume core st) s (fun t => t = { s with cores := t.cores } ∧
      (∀ c, c ∉ fenceScope s core scope → getCore t c = getCore s c) ∧
      ∀ c ∈ fenceScope s core scope, getCore t c =
        { getCore s c with
          run := 1, regionStart := s.arrayCycles, bins := bins c
          stations := (getCore s c).stations.map (fun x => if x.ended then x else x.next) }))

/-- The Sequencer's own effects (06/R184-R189): SPHASE sets the token and ends the hint; SOPHINT sets or clears the hint;
SREPEAT arms one more level of a station; SWAIT passes at or above its target and is held below it; SSIGNAL adds to
its tally; a held SWAIT passes once its target is reached, and a draining SSIGNAL adds once no earlier transfer is in
flight. Where the rules leave a corner open it takes the model's reading (log entry 13). -/
def Obligations.Sequencer : Prop :=
  (∀ s core w bins, AtIns s core 5 0x53 .none w → sigBins (getCore s core).bins w = some bins →
    Runs (.sphase core .clean) s (fun t => t = { s with cores := t.cores } ∧
      Passed s t core 5 bins (fun c => { c with token := Ins.bits w 87 80, hintValid := false, hintOp := 0 }))) ∧
  (∀ s core w bins, AtIns s core 5 0x54 .none w → sigBins (getCore s core).bins w = some bins →
    Runs (.sophint core .clean) s (fun t => t = { s with cores := t.cores } ∧
      Passed s t core 5 bins (fun c =>
        if Ins.bit w 85 then { c with hintValid := false, hintOp := 0 }
        else { c with hintValid := true, hintOp := Ins.bits w 87 86 }))) ∧
  (∀ s core w bins st r, AtIns s core 5 0x52 .none w → sigBins (getCore s core).bins w = some bins →
    st = Ins.bits w 87 85 → st < 5 →
    r = ({ level := Ins.bits w 84 83, start := Ins.bits w 82 71, stop := Ins.bits w 70 59, count := Ins.bits w 58 35 + 1,
           adv := Ins.bits w 34 3 } : Repeat) →
    (∀ y ∈ (getStation (getCore s core) st).repeats, y.level ≠ r.level ∧ crossing y.start y.stop r.start r.stop = false) →
    Runs (.srepeat core .clean) s (fun t => t = { s with cores := t.cores } ∧
      Passed s t core 5 bins (fun c => modStation c st (fun x => { x with repeats := insRepeat x.repeats r })))) ∧
  (∀ s core w bins, AtIns s core 5 0x50 .none w → sigBins (getCore s core).bins w = some bins →
    tallyEpochOf s (Ins.bits w 87 72) = launchEpoch (coreLaunch s core) (Ins.bits w 87 72) →
    Runs (.swait core .clean) s (fun t => t = { s with cores := t.cores } ∧
      (Ins.bits w 71 24 ≤ tallyVal s (Ins.bits w 87 72) → Passed s t core 5 bins id) ∧
      (tallyVal s (Ins.bits w 87 72) < Ins.bits w 71 24 →
        (getStation (getCore t core) 5).hold = .tally ∧
        (getStation (getCore t core) 5).pc = (getStation (getCore s core) 5).pc))) ∧
  (∀ s core w bins, AtIns s core 5 0x50 .tally w → sigBins (getCore s core).bins w = some bins →
    tallyEpochOf s (Ins.bits w 87 72) = launchEpoch (coreLaunch s core) (Ins.bits w 87 72) →
    Ins.bits w 71 24 ≤ tallyVal s (Ins.bits w 87 72) →
    Runs (.swaitSatisfied core) s (fun t => t = { s with cores := t.cores } ∧ Passed s t core 5 bins id)) ∧
  (∀ s core w bins, AtIns s core 5 0x51 .none w → sigBins (getCore s core).bins w = some bins →
    (Ins.bit w 39 = false ∨ ∀ x ∈ (getCore s core).inflight, x.launch ≠ (getCore s core).load) →
    tallyEpochOf s (Ins.bits w 87 72) = launchEpoch (coreLaunch s core) (Ins.bits w 87 72) →
    Runs (.ssignal core .clean) s (fun t => t = { s with cores := t.cores, tallies := t.tallies } ∧ Passed s t core 5 bins id ∧
      t.tallies = (addTally s (Ins.bits w 87 72) (Ins.bits w 71 40)).tallies)) ∧
  (∀ s core w bins, AtIns s core 5 0x51 .drain w → sigBins (getCore s core).bins w = some bins →
    (∀ x ∈ (getCore s core).inflight, x.launch ≠ (getCore s core).load) →
    tallyEpochOf s (Ins.bits w 87 72) = launchEpoch (coreLaunch s core) (Ins.bits w 87 72) →
    Runs (.ssignalDrainDone core) s (fun t => t = { s with cores := t.cores, tallies := t.tallies } ∧ Passed s t core 5 bins id ∧
      t.tallies = (addTally s (Ins.bits w 87 72) (Ins.bits w 71 40)).tallies))

/-! ### The Vector station -/

/-- The Vector's register instructions (05/R155, R157-R159): each writes one destination register, all 256 lanes of it,
with the poison bit of the registers it reads, and no other register; VRECV takes the oldest drained lines, two lines
a register. Nothing outside the core changes. VLOADC and VSTOREC (05/R156, R159): a load takes the lines of a good
FP32 or BF16 crate into pairs of lines a register, unpoisoned; a store writes one crate in FP32 or BF16 with a
computed check over its payload and the core's next crate lineage, POISONED as its registers are, and no other crate
changes. Where the rules leave a corner open it takes the model's reading (log entries 13 and 31). -/
def Obligations.VectorStation : Prop :=
  (∀ s core w bins, AtIns s core 3 0x33 .none w → sigBins (getCore s core).bins w = some bins →
    Runs (.vsplat core .clean) s (fun t => t = { s with cores := t.cores } ∧
      Passed s t core 3 bins (fun c => setV c (Ins.bits w 87 83)
        { lanes := List.replicate 256 (Num.canon (BitVec.ofNat 32 (Ins.bits w 31 0))), poison := false }))) ∧
  (∀ s core w bins a, AtIns s core 3 0x37 .none w → sigBins (getCore s core).bins w = some bins →
    a = getV (getCore s core) (Ins.bits w 82 78) →
    Runs (.vbcast core .clean) s (fun t => t = { s with cores := t.cores } ∧
      Passed s t core 3 bins (fun c => setV c (Ins.bits w 87 83)
        { lanes := List.replicate 256 (a.lanes.getD (Ins.bits w 63 56) 0#32), poison := a.poison }))) ∧
  (∀ s core w bins a b c, AtIns s core 3 0x34 .none w → sigBins (getCore s core).bins w = some bins →
    a = getV (getCore s core) (Ins.bits w 82 78) → b = getV (getCore s core) (Ins.bits w 77 73) →
    c = getV (getCore s core) (Ins.bits w 72 68) → a.lanes.length = 256 → b.lanes.length = 256 → c.lanes.length = 256 →
    Runs (.varith core .clean) s (fun t => t = { s with cores := t.cores } ∧ ∃ v : VReg,
      Passed s t core 3 bins (fun k => setV k (Ins.bits w 87 83) v) ∧ v.lanes.length = 256 ∧
      (∀ i, i < 256 → v.lanes.getD i 0#32
        = arith (Ins.bits w 67 64) (a.lanes.getD i 0#32) (b.lanes.getD i 0#32) (c.lanes.getD i 0#32)) ∧
      v.poison = (a.poison || (readsB (Ins.bits w 67 64) && b.poison) || (readsC (Ins.bits w 67 64) && c.poison)))) ∧
  (∀ s core w bins a, AtIns s core 3 0x35 .none w → sigBins (getCore s core).bins w = some bins →
    a = getV (getCore s core) (Ins.bits w 82 78) → a.lanes.length = 256 →
    Runs (.vfunc core .clean) s (fun t => t = { s with cores := t.cores } ∧ ∃ v : VReg,
      Passed s t core 3 bins (fun k => setV k (Ins.bits w 87 83) v) ∧ v.lanes.length = 256 ∧
      (∀ i, i < 256 → v.lanes.getD i 0#32 = funcOf (Ins.bits w 67 64) (a.lanes.getD i 0#32)) ∧ v.poison = a.poison)) ∧
  (∀ s core w bins a c, AtIns s core 3 0x36 .none w → sigBins (getCore s core).bins w = some bins →
    a = getV (getCore s core) (Ins.bits w 82 78) → c = getV (getCore s core) (Ins.bits w 72 68) →
    Runs (.vred core .clean) s (fun t => t = { s with cores := t.cores } ∧ ∃ r : F32,
      Passed s t core 3 bins (fun k => setV k (Ins.bits w 87 83)
        { lanes := List.replicate 256 r, poison := a.poison || (Ins.bit w 63 && c.poison) }) ∧
      (Ins.bit w 63 = false → r = redTree (Ins.bits w 67 64) (Ins.bits w 62 55 + 1) a.lanes) ∧
      (Ins.bit w 63 = true → r = redOp (Ins.bits w 67 64) (c.lanes.headD 0#32)
        (redTree (Ins.bits w 67 64) (Ins.bits w 62 55 + 1) a.lanes)))) ∧
  (∀ s core w bins n ls, AtIns s core 3 0x32 .none w → sigBins (getCore s core).bins w = some bins →
    n = Ins.bits w 82 77 + 1 → ls = (getCore s core).drainVec → n ≤ ls.length →
    Runs (.vrecv core .clean) s (fun t => t = { s with cores := t.cores } ∧
      Passed s t core 3 bins (fun k => setPairs { k with drainVec := ls.drop n } (Ins.bits w 87 83) (ls.take n)))) ∧
  (∀ s core w bins k f, AtIns s core 3 0x30 .none w → sigBins (getCore s core).bins w = some bins →
    k = vecCrate (getCore s core) core w false → CrateOk s k → f = Tag.fmt (crateTag s.mem k) →
    (f = Fmt.fp32 ∨ f = Fmt.bf16 ∧ Ins.bits w 87 83 % 8 = 0) →
    Runs (.vloadc core .clean) s (fun t => t = { s with cores := t.cores } ∧
      Passed s t core 3 bins (fun c => setPairs c (Ins.bits w 87 83)
        ((List.range (Fmt.lines f)).map fun l =>
          { vals := (Fmt.lineF32 f (crateBytes s.mem k) l).map Num.canon, poison := false })))) ∧
  (∀ s core w bins k f regs, AtIns s core 3 0x31 .none w → sigBins (getCore s core).bins w = some bins →
    k = vecCrate (getCore s core) core w true → Plain s.mem k → Writable s.mem →
    f = Ins.bits w 53 51 → (f = Fmt.fp32 ∨ f = Fmt.bf16) →
    regs = (List.range (if f = Fmt.bf16 then 8 else 4)).map (fun i => getV (getCore s core) (Ins.bits w 87 83 + i)) →
    (∀ r ∈ regs, r.lanes.length = 256) →
    Runs (.vstorec core .clean) s (fun t => t = { s with cores := t.cores, mem := t.mem } ∧
      Passed s t core 3 bins (fun c => { c with crateSeq := (c.crateSeq + 1) % 2 ^ 20 }) ∧
      ∃ p tg, WroteCrate s.mem t.mem k p tg ∧
        p = (regs.flatMap (·.lanes)).flatMap (fun v =>
          if f = Fmt.bf16 then Word.toLe 2 (Num.toBf16 v).toNat else Word.toLe 4 v.toNat) ∧
        Tag.fmt tg = f ∧ Tag.check tg = Crc.crc64 p ∧ Tag.poisoned tg = regs.any (·.poison) ∧
        Tag.lineage tg = Tag.coreLineage core (getCore s core).crateSeq))

/-! ### The Loader and the fences -/

/-- The Loader's instructions (05/R138-R145): LSTREAM appends the lines it gathers from good crates to the feeder queues;
LWEIGHT makes the shadow tile of the crates it reads and releases their slots; LDIAG takes one line of an FP32 crate
into the diagonal registers. KEEP releases nothing. Where the rules leave a corner open it takes the model's reading
(log entries 10 and 13). -/
def Obligations.Loader : Prop :=
  (∀ s core w bins g lines, AtIns s core 0 0x01 .none w →
    lines = Ins.bits w 81 66 - (getStation (getCore s core) 0).prog →
    gatherSlots core w (Ins.bits w 87 82) (Ins.bit w 61) (Ins.bits w 60 50) lines (lines + 8) 0
      { s := setHold s core 0 .none, feeds := [], fps := [], fmt := 0 } = .ok g →
    (getCore g.s core).run ≠ 3 → sigBins (getCore g.s core).bins w = some bins →
    Runs (.lstream core .clean) s (fun t => t = { g.s with cores := t.cores } ∧
      (getCore t core).feeder = (getCore g.s core).feeder ++ g.out lines ∧ (getCore t core).bins = bins ∧
      getStation (getCore t core) 0 = Station.next (getStation (getCore g.s core) 0) ∧
      ∀ c, c ≠ core → getCore t c = getCore g.s c)) ∧
  (∀ s core w bins b n slots ks, AtIns s core 0 0x02 .none w → b = getBin (getCore s core) (Ins.bits w 87 82) →
    n = Ins.bits w 81 78 → slots = (if Ins.bit w 71 then n else 1) → (Ins.bit w 70 = false → slots ≤ b.occ) →
    ks = (if Ins.bit w 71 then (List.range n).flatMap fun i =>
            pairCrates s (slotCrate core b (((if Ins.bit w 70 then Ins.bits w 69 59 else b.emptySlot) + i) % b.slotCount) 0)
          else (List.range n).map fun i =>
            slotCrate core b ((if Ins.bit w 70 then Ins.bits w 69 59 else b.emptySlot) % b.slotCount) i) →
    (∀ k ∈ ks, CrateOk s k) → weightRefusal s w (ks.map (goodCrate s)) n = none →
    sigBins (releasedBins (Ins.bits w 87 82) (if Ins.bit w 70 then 0 else slots) (getCore s core).bins) w = some bins →
    Runs (.lweight core .clean) s (fun t =>
      t = { s with cores := t.cores, mem := t.mem, stepSt := t.stepSt, events := t.events } ∧
      ((tileOf (ks.map (goodCrate s)) (Ins.bit w 77) (Ins.bits w 76 75) (Ins.bits w 74 72)).marked = false →
        t = { s with cores := t.cores }) ∧
      Passed s t core 0 bins (fun c =>
        { c with shadow := tileOf (ks.map (goodCrate s)) (Ins.bit w 77) (Ins.bits w 76 75) (Ins.bits w 74 72) }))) ∧
  (∀ s core w bins b k, AtIns s core 0 0x03 .none w → b = getBin (getCore s core) (Ins.bits w 87 82) →
    (Ins.bit w 78 = false → 1 ≤ b.occ) →
    k = slotCrate core b (if Ins.bit w 78 then Ins.bits w 77 67 % b.slotCount else b.emptySlot) (Ins.bits w 66 56) →
    CrateOk s k → Tag.fmt (crateTag s.mem k) = Fmt.fp32 →
    sigBins (releasedBins (Ins.bits w 87 82) (if Ins.bit w 78 then 0 else 1) (getCore s core).bins) w = some bins →
    Runs (.ldiag core .clean) s (fun t => t = { s with cores := t.cores } ∧
      Passed s t core 0 bins (fun c =>
        { c with diag := Fmt.lineF32 Fmt.fp32 (crateBytes s.mem k) (Ins.bits w 81 79), diagPoison := false })))

/-! ### The array -/

/-- A block pass (05/R147, 04/R104-R107, R119, R128): the pass takes its lines from the feeder, swaps the shadow tile in
when SWAP is set, advances the pass ordinal, and changes the bench lines it names, each by the line it meets, a skip
entry leaving its line alone; every other bench line, core and piece of state is kept. Where the rules leave a corner
open it takes the model's reading (log entries 10 and 13). -/
def Obligations.BlockPass : Prop :=
  ∀ s core w bins c fs base tile clear skip, AtIns s core 1 0x10 .none w → sigBins (getCore s core).bins w = some bins →
    c = getCore s core → fs = c.feeder.take (Ins.bits w 76 66 + 1) → base = Ins.bits w 87 77 →
    mpassRefusal c w fs (Ins.bits w 76 66 + 1) = none →
    tile = (if Ins.bit w 64 then c.shadow else c.active) → clear = Ins.bit w 65 → skip = Ins.bit w 61 →
    Runs (.mpass core .clean) s (fun t =>
      t = { s with cores := t.cores, mem := t.mem, stepSt := t.stepSt, events := t.events } ∧
      ((∀ i f, fs[i]? = some f → sigmaClash clear tile f (getLine c (base + i)) = false) → t = { s with cores := t.cores }) ∧
      (∀ k, k ≠ core → getCore t k = getCore s k) ∧
      ∃ r b, r ≠ 3 ∧ getCore t core =
        { passedCore c 1 bins r with
          active := tile, shadow := (if Ins.bit w 64 then { c.active with loaded := false } else c.shadow)
          feeder := c.feeder.drop (Ins.bits w 76 66 + 1), pass := (c.pass + 1) % 2 ^ 32, level := Ins.bits w 63 62
          diagMode := false, bench := b
          weighChecks := c.weighChecks + BitVec.ofNat 64 (8 * (fs.filter fun f =>
            !(f.skip && skip && !clear) && weighs (Ins.bits w 63 62) f.fmt).length) } ∧
        (∀ i f, fs[i]? = some f → tget {} b (base + i) =
          if f.skip && skip && !clear then getLine c (base + i)
          else benchLineAfter clear (Ins.bits w 63 62) tile f (getLine c (base + i))) ∧
        ∀ n, n < base ∨ base + fs.length ≤ n → tget {} b n = getLine c n)

/-- The Matrix station's other instructions (05/R148, 04/R108, R112, R113): MDIAG works the diagonal operation on the
bench lines it names, MDRAIN appends the lines it names to its drain path and keeps the bench, MFLOOR sets the
activity floor. The activity rule (04/R113): a frame's activity is its real operations and the dummy operations, at
least the frame's target and never more than the last frame's by over four, nor more than the frame's 256 cycles; the
rest of the core and of the module is kept. Where the rules leave a corner open it takes the model's reading (log
entries 10 and 13). -/
def Obligations.MatrixArray : Prop :=
  (∀ s core w bins c fs base, AtIns s core 1 0x11 .none w → sigBins (getCore s core).bins w = some bins →
    c = getCore s core → fs = c.feeder.take (Ins.bits w 76 66 + 1) → base = Ins.bits w 87 77 →
    Ins.bits w 76 66 + 1 ≤ c.feeder.length → (∀ f ∈ fs, f.fmt = Fmt.fp32) →
    Runs (.mdiag core .clean) s (fun t => t = { s with cores := t.cores } ∧ (∀ k, k ≠ core → getCore t k = getCore s k) ∧
      ∃ r b, r ≠ 3 ∧ getCore t core = { passedCore c 1 bins r with
          feeder := c.feeder.drop (Ins.bits w 76 66 + 1), pass := (c.pass + 1) % 2 ^ 32, diagMode := true, bench := b } ∧
        (∀ i f, fs[i]? = some f →
          tget {} b (base + i) = diagLine (Ins.bits w 65 64) c.diag c.diagPoison f (getLine c (base + i))) ∧
        ∀ n, n < base ∨ base + fs.length ≤ n → tget {} b n = getLine c n)) ∧
  (∀ s core w bins c out, AtIns s core 1 0x12 .none w → sigBins (getCore s core).bins w = some bins → c = getCore s core →
    out = (List.range (Ins.bits w 76 66 + 1)).map (fun i => drainLine (Ins.bit w 64) (getLine c (Ins.bits w 87 77 + i))) →
    (∀ i, i ≤ Ins.bits w 76 66 → (getLine c (Ins.bits w 87 77 + i)).ecc = []) →
    Runs (.mdrain core .clean) s (fun t => t = { s with cores := t.cores } ∧
      Passed s t core 1 bins (fun k => if Ins.bit w 65 then { k with drainVec := k.drainVec ++ out }
        else { k with drainPack := k.drainPack ++ out }))) ∧
  (∀ s core w bins, AtIns s core 1 0x13 .none w → sigBins (getCore s core).bins w = some bins →
    Runs (.mfloor core .clean) s (fun t => t = { s with cores := t.cores } ∧
      Passed s t core 1 bins (fun c => { c with floor := Ins.bits w 8 0 }))) ∧
  (∀ (s : State) (core : Nat) (due : List Nat) (c : Core), c = getCore s core → c.activity ≤ 256 → due.Nodup →
    Runs (.activityFrame core due) s (fun t => t = { s with cores := t.cores } ∧ (∀ k, k ≠ core → getCore t k = getCore s k) ∧
      ∃ a d, getCore t core = { c with
          activity := a, quiet := (if (∀ x ∈ due, 256 ≤ x) then c.quiet + 1 else 0)
          dummyCycles := c.dummyCycles + BitVec.ofNat 64 d } ∧
        a = min (due.filter (· < 256)).length (c.activity + 4) + d ∧
        frameTarget c.activity c.floor c.quiet ≤ a ∧ a ≤ c.activity + 4 ∧ a ≤ 256))

/-- The Packer (05/R149-R152): PSET latches its parameters; a PPACK of lines of the drain path that fit one crate packs
them into the next slot of its destination bin with a computed check and the core's next lineage, posts the slot, and
adds its counts to the four tallies from the latched base when counting is on. Where the rules leave a corner open it
takes the model's reading (log entries 16 and 17). -/
def Obligations.Packer : Prop :=
  (∀ s core w bins, AtIns s core 2 0x20 .none w → sigBins (getCore s core).bins w = some bins →
    Fmt.outerOk (BitVec.ofNat 32 (Ins.bits w 87 56)) = true →
    Runs (.pset core .clean) s (fun t => t = { s with cores := t.cores } ∧
      Passed s t core 2 bins (fun c => { c with params :=
        { outer := BitVec.ofNat 32 (Ins.bits w 87 56), th := Ins.bits w 55 40, layer := Ins.bits w 39 24,
          countBase := Ins.bits w 23 8, cbEn := Ins.bit w 7 } }))) ∧
  (∀ s core w bins c o b k ls out p, AtIns s core 2 0x21 .none w → c = getCore s core → o = packOp w →
    o.srcBin = none → o.rw = none → o.transpose = false → o.pred = none → 1 ≤ o.target → o.target ≤ 5 →
    o.count ≤ Fmt.lines o.target → o.count ≤ c.drainPack.length →
    c.packIn = [] → c.packCnt = [0, 0, 0, 0] → (getStation c 2).prog = 0 →
    b = getBin c o.dst → b.spaceOk = true → b.producer ≠ 7 → o.dst < c.bins.length →
    k = slotCrate core b b.fillSlot 0 → Plain s.mem k → Writable s.mem →
    ls = c.drainPack.take o.count →
    out = Pack.packLines o.target o.rule0 o.stoch (packIds s core o 0) c.params.outer 0 (ls.map (·.vals)) →
    p = Pack.payload o.target c.params.outer out →
    (c.params.cbEn = true → ∀ i, i < 4 →
      tallyEpochOf s (c.params.countBase + i) = launchEpoch (coreLaunch s core) (c.params.countBase + i)) →
    sigBins (lset c.bins o.dst { b with fill := (b.fill + 1) % 2 ^ 32 }) w = some bins →
    Runs (.ppack core .clean) s (fun t => t = { s with cores := t.cores, mem := t.mem, tallies := t.tallies } ∧
      Passed s t core 2 bins (fun c => { c with
        drainPack := c.drainPack.drop o.count, crateSeq := (c.crateSeq + 1) % 2 ^ 20 }) ∧
      (∃ tg, WroteCrate s.mem t.mem k p tg ∧ Tag.fmt tg = o.target ∧ Tag.check tg = Crc.crc64 p ∧
        Tag.poisoned tg = ls.any (·.poison) ∧ Tag.lineage tg = Tag.coreLineage core c.crateSeq) ∧
      (c.params.cbEn = false → t.tallies = s.tallies) ∧
      (c.params.cbEn = true → ∀ i, i < 4 → tallyVal t (c.params.countBase + i) = satAdd 48 (tallyVal s (c.params.countBase + i))
        ([(Pack.countLines out).clipped, (Pack.countLines out).under, (Pack.countLines out).nans, 0].getD i 0))))

/-! ### The Porter -/

/-- PMOVE and PACC unmarked, over the crates of one slot (06/R166-R169, R180): PMOVE writes each crate's payload and tag
unchanged at its other place, PACC writes each far crate as the lane-wise sum with a computed check and the core's
next lineages; the slot is posted or released unless KEEP holds it, the tally is added to, and nothing else changes.
Where the rules leave a corner open it takes the model's reading (log entry 11). -/
def Obligations.PorterMoves : Prop :=
  (∀ s core w bins l b n slot src dst, AtIns s core 4 0x40 .none w → Ins.vt w = false → l = coreLaunch s core →
    b = getBin (getCore s core) (Ins.bits w 86 81) → n = moveCount w → n ≤ b.slotCrates →
    farRefusal s l w n = none → remoteSignal l w = none →
    slot = (if Ins.bit w 80 then Ins.bits w 79 69 % b.slotCount else if Ins.bit w 87 then b.fillSlot else b.emptySlot) →
    (Ins.bit w 80 = false → if Ins.bit w 87 then b.occ < b.slotCount ∧ b.producer ≠ 7 else 1 ≤ b.occ) →
    src = (if Ins.bit w 87 then farCrate l w else slotCrate core b slot 0) →
    dst = (if Ins.bit w 87 then slotCrate core b slot 0 else farCrate l w) →
    (∀ i, i < n → MoveOk s (src + i) ∧ Plain s.mem (dst + i)) → (src + n ≤ dst ∨ dst + n ≤ src) → Writable s.mem →
    (∀ k, porterTally w = some k → tallyEpochOf s k = porterEpoch l w) →
    sigBins (if Ins.bit w 80 then (getCore s core).bins
      else if Ins.bit w 87 then postedBin (Ins.bits w 86 81) (getCore s core).bins
      else releasedBins (Ins.bits w 86 81) 1 (getCore s core).bins) w = some bins →
    Runs (.pmove core .clean) s (fun t => t = { s with cores := t.cores, mem := t.mem, tallies := t.tallies } ∧
      Passed s t core 4 bins id ∧
      (∀ i, i < n → crateBytes t.mem (dst + i) = crateBytes s.mem (src + i) ∧
        crateTag t.mem (dst + i) = crateTag s.mem (src + i)) ∧
      SameCrates s.mem t.mem (fun k => dst ≤ k ∧ k < dst + n) ∧
      t.tallies = match porterTally w with | some k => (addTally s k 1).tallies | none => s.tallies)) ∧
  (∀ s core w bins l b n slot src dst, AtIns s core 4 0x43 .none w → Ins.vt w = false → l = coreLaunch s core →
    b = getBin (getCore s core) (Ins.bits w 86 81) → n = moveCount w → n ≤ b.slotCrates →
    farRefusal s l w n = none → remoteSignal l w = none →
    slot = (if Ins.bit w 80 then Ins.bits w 79 69 % b.slotCount else b.emptySlot) →
    (Ins.bit w 80 = false → 1 ≤ b.occ) → src = slotCrate core b slot 0 → dst = farCrate l w →
    (∀ i, i < n → CrateOk s (src + i) ∧ CrateOk s (dst + i) ∧ Plain s.mem (dst + i) ∧
      Tag.fmt (crateTag s.mem (src + i)) = Fmt.fp32 ∧ Tag.fmt (crateTag s.mem (dst + i)) = Fmt.fp32) →
    (src + n ≤ dst ∨ dst + n ≤ src) → Writable s.mem →
    (∀ k, porterTally w = some k → tallyEpochOf s k = porterEpoch l w) →
    sigBins (if Ins.bit w 80 then (getCore s core).bins else releasedBins (Ins.bits w 86 81) 1 (getCore s core).bins) w = some bins →
    Runs (.pacc core .clean) s (fun t => t = { s with cores := t.cores, mem := t.mem, tallies := t.tallies } ∧
      (∃ q, Passed s t core 4 bins (fun c => { c with crateSeq := q })) ∧
      (∀ i, i < n → crateBytes t.mem (dst + i) = addPayload (crateBytes s.mem (dst + i)) (crateBytes s.mem (src + i)) ∧
        Tag.fmt (crateTag t.mem (dst + i)) = Fmt.fp32 ∧ Tag.poisoned (crateTag t.mem (dst + i)) = false ∧
        Tag.check (crateTag t.mem (dst + i)) = Crc.crc64 (crateBytes t.mem (dst + i))) ∧
      SameCrates s.mem t.mem (fun k => dst ≤ k ∧ k < dst + n) ∧
      t.tallies = match porterTally w with | some k => (addTally s k 1).tallies | none => s.tallies))

/-- PGATHER and PSCATTER (06/R170, R171, R177): with a good index list whose whole data side its slots allow, each goes in
flight with its words moved and its station passes; by crates, a gather of one slot reads the crates its list names
into the slot and a scatter writes them there. MARKED_TRANSFER_COMPLETE (06/R177, R178): a transfer whose words are in
place leaves its entry, makes the release of its index list, its signals and its tally add; nothing else changes.
Where the rules leave a corner open it takes the model's reading (log entry 11). -/
def Obligations.PorterTransfers : Prop :=
  (∀ s core w k u op c, op = 0x41 ∨ op = 0x42 → AtIns s core 4 op .none w → c = getCore s core →
    c.inflight.length < 64 → 1 ≤ (getBin c (Ins.bits w 87 82)).occ →
    k = slotCrate core (getBin c (Ins.bits w 87 82)) (getBin c (Ins.bits w 87 82)).emptySlot 0 → CrateOk s k →
    Tag.fmt (crateTag s.mem k) = Fmt.untyped →
    idxRun core (coreCtx s core) (getCtx s (coreLaunch s core).ctx).part w (crateBytes s.mem k) 0 (setHold s core 4 .none) = .ok u →
    (getCore u core).run ≠ 3 →
    Runs (if op = 0x41 then .pgather core .clean else .pscatter core .clean) s (fun t =>
      t = { u with cores := t.cores } ∧ (∀ j, j ≠ core → getCore t j = getCore u j) ∧
      getStation (getCore t core) 4 = Station.next (getStation (getCore u core) 4) ∧
      (getCore t core).bins = (getCore u core).bins ∧
      ∃ x, (getCore t core).inflight = (getCore u core).inflight ++ [x] ∧ x.instr = w ∧ x.moved = true)) ∧
  (∀ s core w b n loc, b = getBin (getCore s core) (Ins.bits w 81 76) → n = Ins.bits w 75 66 + 1 → n ≤ b.slotCrates →
    ∀ p cg part, (∀ i, i < n → refuse s .tiers part ((Ins.bits w 64 28 + idxOf p i) * 4096) = none) → Writable s.mem →
    (Ins.op w = 0x41 → Ins.bit w 65 = false → loc = slotCrate core b b.fillSlot 0 → b.occ < b.slotCount → b.producer ≠ 7 →
      (∀ i, i < n → MoveOk s (Ins.bits w 64 28 + idxOf p i) ∧ Plain s.mem (loc + i) ∧
        (Ins.bits w 64 28 + idxOf p i < loc ∨ loc + n ≤ Ins.bits w 64 28 + idxOf p i)) →
      ∃ u, idxRun core cg part w p 0 s = .ok u ∧ (∀ i, i < n →
        crateBytes u.mem (loc + i) = crateBytes s.mem (Ins.bits w 64 28 + idxOf p i) ∧
        crateTag u.mem (loc + i) = crateTag s.mem (Ins.bits w 64 28 + idxOf p i)) ∧
        SameCrates s.mem u.mem (fun k => loc ≤ k ∧ k < loc + n)) ∧
    (Ins.op w = 0x42 → loc = slotCrate core b b.emptySlot 0 → 1 ≤ b.occ →
      (∀ i, i < n → MoveOk s (loc + i) ∧ Plain s.mem (Ins.bits w 64 28 + idxOf p i) ∧
        (Ins.bits w 64 28 + idxOf p i < loc ∨ loc + n ≤ Ins.bits w 64 28 + idxOf p i) ∧
        ∀ j, j < i → idxOf p j ≠ idxOf p i) →
      ∃ u, idxRun core cg part w p 0 s = .ok u ∧ (∀ i, i < n →
        crateBytes u.mem (Ins.bits w 64 28 + idxOf p i) = crateBytes s.mem (loc + i) ∧
        crateTag u.mem (Ins.bits w 64 28 + idxOf p i) = crateTag s.mem (loc + i)) ∧
        SameCrates s.mem u.mem (fun k => ∃ i, i < n ∧ k = Ins.bits w 64 28 + idxOf p i))) ∧
  (∀ s core id x bins, (getCore s core).inflight.find? (fun t => t.id == id) = some x → x.failed = false → x.moved = true →
    (getCtx s x.ctx).state = 2 → (getCtx s x.ctx).gen = x.gen →
    (Ins.op x.instr = 0x44 → x.ops = []) → x.remote = none → (getCore s core).load = x.launch → (getCore s core).run ≠ 3 →
    ((Ins.op x.instr = 0x41 ∨ Ins.op x.instr = 0x42) → 1 ≤ (getBin (getCore s core) (Ins.bits x.instr 87 82)).occ) →
    (∀ k, porterTally x.instr = some k → tallyEpochOf s k = x.epoch) →
    sigBins (if Ins.op x.instr = 0x41 ∨ Ins.op x.instr = 0x42 then releasedBins (Ins.bits x.instr 87 82) 1 (getCore s core).bins
      else (getCore s core).bins) x.instr = some bins →
    Runs (.markedTransferComplete core id .clean) s (fun t =>
      t = { s with cores := t.cores, tallies := t.tallies } ∧ (∀ j, j ≠ core → getCore t j = getCore s j) ∧
      getCore t core = { getCore s core with inflight := (getCore s core).inflight.filter (fun y => y.id != id), bins } ∧
      t.tallies = match porterTally x.instr with | some k => (addTally s k 1).tallies | none => s.tallies))

/-- MARKED_WAIT_SATISFIED and ARRAY_HOLD_CLEAR (03/R79, 04/R118): the held instruction of any station runs again, and when
it completes its station passes and its signals act. Where the rules leave a corner open it takes the model's reading
(log entry 13). -/
def Obligations.HoldsEnd : Prop :=
  ∀ s core st op h w body u bins, AtIns s core st op h w → bodyOf st op = some body →
    body (setHold s core st .none) core w .clean = .done u → (getCore u core).run ≠ 3 →
    sigBins (getCore u core).bins w = some bins →
    (∀ c, c = .markedWaitSatisfied core st .clean ∧ h = .wait ∨
        c = .arrayHoldClear core st .clean ∧ (∃ n, h = .array n) →
      Runs c s (fun t => t = { u with cores := t.cores } ∧ (∀ j, j ≠ core → getCore t j = getCore u j) ∧
        (getCore t core).bins = bins ∧ getStation (getCore t core) st = Station.next (getStation (getCore u core) st)))

/-! ### Launches -/

/-- LAUNCH and LAUNCH_EDGE (03/R84, R85, R87): a launch that no check refuses binds its cores with the launch-time state
of their image entries; at its edge every bound core runs and takes its region start, and the tallies' epochs are
kept. Where the rules leave a corner open it takes the model's reading (log entry 17). -/
def Obligations.LaunchStarts : Prop :=
  (∀ s slot c ctx h dies bound, IsBegun s slot 0x0201 c → c.aux = 0 → ctx = Pkt.ctx c.packet →
    launchRefusal s ctx c.packet = none → h = readHead s.mem (pktOff0 c.packet) → dies = (getPart s (getCtx s ctx).part).dies →
    bound = (List.range h.n).map (bindCore dies) → bound.Nodup → testsRunning s bound = false →
    Runs (.launch slot) s (fun t => t = { s with cores := t.cores, launches := t.launches, cmds := t.cmds } ∧
      t.cmds = changedCmds s slot (fun d => { d with aux := 1 }) ∧
      (∀ i, i < h.n → getCore t (bindCore dies i) =
        loadCore slot (c.ord + 1) (readImgCore s.mem (pktOff0 c.packet) h i) (getCore s (bindCore dies i))) ∧
      (∀ k, k ∉ bound → getCore t k = getCore s k) ∧ (∀ l, l ≠ slot → getLaunch t l = getLaunch s l) ∧
      (getLaunch t slot).ctx = ctx ∧ (getLaunch t slot).gen = (getCtx s ctx).gen ∧ (getLaunch t slot).cores = bound ∧
      (getLaunch t slot).running = false ∧ (getLaunch t slot).stopped = none)) ∧
  (∀ s slot c l, findCmd s slot = some c → l = getLaunch s slot → c.aux = 1 → l.running = false → l.stopped = none → l.cores ≠ [] →
    Runs (.launchEdge slot) s (fun t => t = { s with cores := t.cores, launches := t.launches } ∧
      getLaunch t slot = { l with running := true, startCycle := s.arrayCycles, epochs := s.tallies } ∧
      (∀ i, i ≠ slot → getLaunch t i = getLaunch s i) ∧
      (∀ k ∈ l.cores, getCore t k = { getCore s k with run := 1, regionStart := s.arrayCycles, floor := 0 }) ∧
      ∀ k, k ∉ l.cores → getCore t k = getCore s k))

/-- LAUNCH_COMPLETE and LAUNCH_ABORT (03/R92, 09/R294): when every stream has ended the cores are freed and the command
ends with its array cycles; an abort stops the named launch, whose cores stop, and itself succeeds.
HOUSEKEEPING_WINDOW (07/R221, R222): a window of a running core is counted and scrubs four words for each of its array
cycles. Where the rules leave a corner open it takes the model's reading (log entry 17). -/
def Obligations.LaunchesEnd : Prop :=
  (∀ s slot c l extra cut, IsBegun s slot 0x0201 c → l = getLaunch s slot → c.aux = 1 → l.stopped = none → l.running = true →
    launchEnded s l = true → l.profile = 0 → (steppedCtx s ≠ some l.ctx → ∀ k ∈ l.cores, CoreQuiet s k) →
    Runs (.launchComplete slot extra cut) s (fun t =>
      t = { s with cores := t.cores, launches := tdel s.launches slot, cmds := t.cmds } ∧
      (∀ k, getCore t k = if k ∈ l.cores ∧ (getCore s k).launch = some slot then freeCore (getCore s k) else getCore s k) ∧
      ∃ d, t.cmds = endedCmds s slot { cls := if l.bubbles then 1 else 0, reason := if l.bubbles then 0xA0 else 0
                                       result := (s.arrayCycles - l.startCycle).toNat
                                       detail16 := d.1, detail32 := d.2 } ∧ (l.first = none → d = (0xFFFF, 0)))) ∧
  (∀ s slot c d l, IsBegun s slot 0x0202 c →
    s.cmds.find? (fun d => d.queue == Pkt.p0 c.packet % 2 ^ 14 && Pkt.tag d.packet == Pkt.p0 c.packet / 2 ^ 32
      && Pkt.opcode d.packet == 0x0201 && d.phase == 1 && d.aux == 1 && Pkt.ctx d.packet == Pkt.ctx c.packet) = some d →
    l = getLaunch s d.slot →
    Runs (.launchAbort slot) s (fun t => t = { s with cores := t.cores, launches := t.launches, cmds := t.cmds } ∧
      t.cmds = endedCmds s slot {} ∧
      getLaunch t d.slot = { l with stopped := match l.stopped with | some y => some y | none => some (3, 0x17) } ∧
      (∀ i, i ≠ d.slot → getLaunch t i = getLaunch s i) ∧
      ∀ k, getCore t k = if k ∈ l.cores ∧ (getCore s k).launch = some d.slot then idleCore (getCore s k) else getCore s k)) ∧
  (∀ s core l, coreRuns s core = true → l = coreLaunch s core →
    Runs (.housekeepingWindow core .clean) s (fun t => (∀ k, k ≠ core → getCore t k = getCore s k) ∧
      getCore t core = { getCore s core with
        windows := (getCore s core).windows + 1
        scrubWords := ((getCore s core).scrubWords + 4 * l.hkLength) % 98304 } ∧
      (if 98304 ≤ (getCore s core).scrubWords + 4 * l.hkLength then
          t = { s with cores := t.cores, mem := { s.mem with scrub := t.mem.scrub } } ∧
          (tget {} t.mem.scrub (core / 128)).sramPasses = satAdd 32 (tget {} s.mem.scrub (core / 128)).sramPasses 1
        else t = { s with cores := t.cores })))

/-! ### Queues and the command table -/

/-- PACKET_FETCH (09/R285, R293, R302): the packet of the queue whose turn it is enters the lowest free entry and the
queue's HEAD moves on; a packet that a check refuses ends at once with class 0x02 and its queue enters the error
state. Where the rules leave a corner open it takes the model's reading (log entries 3 and 24). -/
def Obligations.PacketFetch : Prop :=
  ∀ s q p c x, fetchOpen s = true → p.length = 64 → nextQueue s = some q → x = getQueue s q → x.state = 1 →
    c = ({ slot := freeSlot s, ord := s.cmdOrd, queue := q, packet := p, epochs := packetEpochs s p } : Cmd) →
    (∀ d ∈ s.cmds, d.ord < s.cmdOrd ∧ d.slot ≠ freeSlot s) →
    Runs (.packetFetch p) s (fun t =>
      t = { s with queues := t.queues, rrQueue := q, rrLeft := t.rrLeft, cmds := t.cmds, cmdOrd := s.cmdOrd + 1
                   highWater := max s.highWater (s.cmds.length + 1) } ∧
      (∀ k, k ≠ q → getQueue t k = getQueue s k) ∧
      (packetRefusal s q p = none →
        t.cmds = s.cmds ++ [c] ∧ getQueue t q = { x with head := (x.head + 1) % qSize x }) ∧
      ∀ r, packetRefusal s q p = some r →
        t.cmds = s.cmds ++ [{ c with phase := 2, cls := 2, reason := r, time := s.time }] ∧
        getQueue t q = { x with head := (x.head + 1) % qSize x, state := 2, reason := r, failAt := s.cmdOrd })

/-- COMMAND_BEGIN (09/R292, R304): the earliest waiting command of a queue begins once its waits are satisfied and, when
ORDER is set, every earlier one has its record; a wait whose tally's epoch changed ends it with class 0x03. Where the
rules leave a corner open it takes the model's reading (log entry 24). -/
def Obligations.CommandBegin : Prop :=
  ∀ s q c, (queueCmds s q).find? (fun d => d.phase == 0) = some c →
    (waitState s c = .satisfied →
      (Pkt.order c.packet = true → (getQueue s q).fails = [] ∧ ∀ d ∈ queueCmds s q, c.ord ≤ d.ord) →
      Runs (.commandBegin q) s (fun t => t = { s with cmds := changedCmds s c.slot (fun d => { d with phase := 1 }) })) ∧
    (waitState s c = .waiting → Runs (.commandBegin q) s (fun t => t = s)) ∧
    (waitState s c = .epochChanged → (∀ d ∈ queueCmds s q, d.ord ≤ c.ord) → findCmd s c.slot = some c →
      Runs (.commandBegin q) s (fun t =>
        t = { s with cmds := t.cmds, queues := t.queues, mem := t.mem, stepSt := t.stepSt } ∧
        t.cmds = endedCmds s c.slot { cls := 3, reason := 0x0B } ∧ (getQueue t q).reason = 0x0B ∧
        (((getQueue s q).state = 1 ∨ (getQueue s q).state = 3) → (getQueue t q).state = 2)))

/-- COMPLETION_RECORD_WRITE (09/R298, R300, R304): the record of a queue's oldest command, once it has ended, goes to the
entry at its completion queue's TAIL with the queue's phase, and the command leaves the table. Where the rules leave a
corner open it takes the model's reading (log entry 3). -/
def Obligations.CompletionRecord : Prop :=
  ∀ s q c rest cq x tail, queueCmds s q = c :: rest → c.phase = 2 → cq = qCq (getQueue s q) → recordOpen s cq = true →
    x = getQueue s cq → tail = (x.tail + 1) % qSize x →
    Runs (.completionRecordWrite q) s (fun t =>
      t = { s with hostMem := t.hostMem, queues := t.queues, cmds := t.cmds, tallies := t.tallies, ctxs := t.ctxs
                   out := t.out, pcie := { s.pcie with msixPending := t.pcie.msixPending } } ∧
      t.hostMem = writeBytes s.hostMem (x.base.toNat + 32 * x.tail) (recordBytes c x.phase (getQueue s q).head) ∧
      t.cmds = s.cmds.filter (fun d => d.slot != c.slot) ∧
      (getQueue t cq).tail = tail ∧ (getQueue t cq).phase = (if tail = 0 then !x.phase else x.phase) ∧
      (getQueue t cq).head = x.head ∧ (∀ k, k ≠ cq → getQueue t k = getQueue s k) ∧
      (2 ≤ c.cls → t.tallies = s.tallies ∧ t.ctxs = s.ctxs) ∧
      (c.cls ≤ 1 → t.tallies = (cmdSignals s c).tallies ∧ t.ctxs = (cmdSignals s c).ctxs))

/-- The doorbells (09/R284, R300): a doorbell of an enabled queue within its ring moves the TAIL of a submission queue or
the HEAD of a completion queue, and a completion doorbell arms the vector again. Where the rules leave a corner open
it takes the model's reading (log entry 24). -/
def Obligations.Doorbells : Prop :=
  ∀ s q x, hostOpen s = true → x = getQueue s q →
    (∀ v : BitVec 16, qEnabled x = true → x.state ≠ 4 → v.toNat < qSize x →
      (qSubmits q x = true → Runs (.sqDoorbell q v) s (fun t => t = { s with queues := t.queues } ∧
        getQueue t q = { x with tail := v.toNat } ∧ ∀ k, k ≠ q → getQueue t k = getQueue s k)) ∧
      (qSubmits q x = false → Runs (.cqDoorbell q v) s (fun t => t = { s with queues := t.queues } ∧
        getQueue t q = { x with head := v.toNat, signalled := false } ∧ ∀ k, k ≠ q → getQueue t k = getQueue s k))) ∧
    (∀ v : BitVec 16, qEnabled x = false →
      Runs (.sqDoorbell q v) s (fun t => t = { s with queues := t.queues } ∧ getQueue t q = { x with reason := 0x04 }) ∧
      Runs (.cqDoorbell q v) s (fun t => t = { s with queues := t.queues } ∧ getQueue t q = { x with reason := 0x04 }))

/-- The queue's states (09/R286-R289, R309): an enable that no condition refuses sets the fields, HEAD, TAIL and PHASE and
the state enabled; a refused one leaves the queue disabled with the reason; a disable drains, and a drained queue with
no command left is disabled; RESUME leaves the error state once earlier records are written. HOST_BACKPRESSURE
(09/R310): while fetching is held the condition stands and its event is raised, standing from the second on; its end
clears the condition and no command, queue or core is touched. Where the rules leave a corner open it takes the
model's reading (log entry 24). -/
def Obligations.QueuesHold : Prop :=
  (∀ s q x, x = getQueue s q → q < 16384 →
    (∀ (v : W64) (y : Queue), hostOpen s = true → rbit v 63 = true → qEnabled x = false → y = { x with cfg := qCfgHeld q v } →
      Runs (.qEnable q v) s (fun t => t = { s with queues := t.queues } ∧ (∀ k, k ≠ q → getQueue t k = getQueue s k) ∧
        (queueRefusal s q y = none →
          getQueue t q = { y with state := 1, head := 0, tail := 0, phase := !qSubmits q y, signalled := false }) ∧
        ∀ r, queueRefusal s q y = some r → (getQueue t q).reason = r ∧ qEnabled (getQueue t q) = false ∧
          (getQueue t q).state = x.state ∧ (getQueue t q).head = x.head ∧ (getQueue t q).tail = x.tail)) ∧
    (∀ v : W64, hostOpen s = true → rbit v 63 = false → qEnabled x = true → rset x.cfg 63 63 0 = qCfgHeld q v →
      (qSubmits q x = true ∨ cqNamed s q = false) →
      Runs (.qDisable q v) s (fun t => t = { s with queues := t.queues } ∧ getQueue t q = { x with state := 4 } ∧
        ∀ k, k ≠ q → getQueue t k = getQueue s k)) ∧
    (x.state = 4 → queueCmds s q = [] →
      Runs (.queueDrainDone q) s (fun t => t = { s with queues := t.queues } ∧
        getQueue t q = { x with state := 0, cfg := rset x.cfg 63 63 0 } ∧ ∀ k, k ≠ q → getQueue t k = getQueue s k)) ∧
    (∀ v : W64, hostOpen s = true → rbit v 0 = true → x.state = 2 →
      Runs (.resume q v) s (fun t => t = { s with queues := t.queues } ∧ getQueue t q = { x with state := 3 } ∧
        ∀ k, k ≠ q → getQueue t k = getQueue s k)) ∧
    (x.state = 3 → (∀ c ∈ queueCmds s q, x.failAt ≤ c.ord) →
      Runs (.queueResumed q) s (fun t => t = { s with queues := t.queues } ∧ getQueue t q = { x with state := 1 } ∧
        ∀ k, k ≠ q → getQueue t k = getQueue s k))) ∧
  (∀ s, (fetchHeld s = true →
      Runs (.hostBackpressure true) s (fun t => t.backpressure = true ∧
        t = { s with backpressure := true, events := t.events } ∧
        t.events = (raiseUnit { s with backpressure := true } 0x0E noCtx 0#64 0 none s.backpressure).events)) ∧
    Runs (.hostBackpressure false) s (fun t => t = { s with backpressure := false }))

/-! ### Memory commands, tallies and the aperture -/

/-- The host's memory commands that write (09/R294, 08/R245, 07/R206, 06/R180), run to their end in one piece over crates
that may be written: MEM_WRITE writes the host's payloads with computed or supplied tags, MEM_COPY moves payload and
tag, MEM_FILL writes zero crates, MEM_RETAG gives new tags; no other crate changes, and each ends with the crates
done. Where the rules leave a corner open it takes the model's reading (log entries 15, 16 and 45). -/
def Obligations.MemoryCommands : Prop :=
  ∀ s slot c part k n, part = (getCtx s (Pkt.ctx c.packet)).part → k = Pkt.p1 c.packet % 2 ^ 49 / 4096 →
    n = pktCrates c.packet → c.aux = 0 → c.found = 0 → Writable s.mem →
    (∀ i, i < n → refuse s .all part ((k + i) * 4096) = none ∧ Plain s.mem (k + i)) →
    (∀ crates sectors data, IsBegun s slot 0x0101 c → n ≤ crates → n * 4096 ≤ data.length →
      Word.bitOf (Pkt.p2 c.packet) 32 = false →
      Runs (.memWrite slot crates sectors data) s (fun t => t = { s with mem := t.mem, cmds := t.cmds } ∧
        t.cmds = endedCmds s slot { result := n } ∧ SameCrates s.mem t.mem (fun j => k ≤ j ∧ j < k + n) ∧
        ∀ i, i < n → crateBytes t.mem (k + i) = (data.drop (i * 4096)).take 4096 ∧
          Tag.check (crateTag t.mem (k + i)) = Crc.crc64 (crateBytes t.mem (k + i)) ∧
          Tag.fmt (crateTag t.mem (k + i)) = Pkt.p1 c.packet / 2 ^ 56 ∧ Tag.poisoned (crateTag t.mem (k + i)) = false)) ∧
    (∀ crates sectors data, IsBegun s slot 0x0101 c → n ≤ crates → n * 4096 ≤ data.length →
      Word.bitOf (Pkt.p2 c.packet) 32 = true →
      (∀ i, i < n → Tag.check (Tag.ofBytes ((data.drop (n * 4096 + 16 * i)).take 16))
        = Crc.crc64 ((data.drop (i * 4096)).take 4096)) →
      Runs (.memWrite slot crates sectors data) s (fun t => t = { s with mem := t.mem, cmds := t.cmds } ∧
        t.cmds = endedCmds s slot { result := n } ∧ SameCrates s.mem t.mem (fun j => k ≤ j ∧ j < k + n) ∧
        ∀ i, i < n → crateBytes t.mem (k + i) = (data.drop (i * 4096)).take 4096 ∧
          crateTag t.mem (k + i) = Tag.ofBytes ((data.drop (n * 4096 + 16 * i)).take 16))) ∧
    (∀ crates sectors a, IsBegun s slot 0x0103 c → n ≤ crates → a = Pkt.p0 c.packet % 2 ^ 49 / 4096 →
      (a + n ≤ k ∨ k + n ≤ a) → (∀ i, i < n → refuse s .all part ((a + i) * 4096) = none ∧ MoveOk s (a + i)) →
      Runs (.memCopy slot crates sectors .clean) s (fun t => t = { s with mem := t.mem, cmds := t.cmds } ∧
        t.cmds = endedCmds s slot { result := n } ∧ SameCrates s.mem t.mem (fun j => k ≤ j ∧ j < k + n) ∧
        ∀ i, i < n → crateBytes t.mem (k + i) = crateBytes s.mem (a + i) ∧
          crateTag t.mem (k + i) = crateTag s.mem (a + i))) ∧
    (∀ crates sectors, IsBegun s slot 0x0104 c → n ≤ crates →
      Runs (.memFill slot crates sectors) s (fun t => t = { s with mem := t.mem, cmds := t.cmds } ∧
        t.cmds = endedCmds s slot { result := n } ∧ SameCrates s.mem t.mem (fun j => k ≤ j ∧ j < k + n) ∧
        ∀ i, i < n → crateBytes t.mem (k + i) = zeroPayload ∧ crateTag t.mem (k + i) = Tag.zero)) ∧
    (∀ crates, IsBegun s slot 0x0105 c → n ≤ crates →
      (∀ i, i < n → (k + i) ∉ s.mem.opened ∧ ∀ x ∈ s.mem.bad, x / 64 ≠ k + i) →
      Runs (.memRetag slot crates .clean) s (fun t => t = { s with mem := t.mem, cmds := t.cmds } ∧
        t.cmds = endedCmds s slot { result := n } ∧ SameCrates s.mem t.mem (fun j => k ≤ j ∧ j < k + n) ∧
        ∀ i, i < n → crateBytes t.mem (k + i) = crateBytes s.mem (k + i) ∧
          Tag.check (crateTag t.mem (k + i)) = Crc.crc64 (crateBytes s.mem (k + i)) ∧
          Tag.fmt (crateTag t.mem (k + i)) = Pkt.p1 c.packet / 2 ^ 56 ∧ Tag.poisoned (crateTag t.mem (k + i)) = false))

/-- MEM_READ of good crates (09/R294, 08/R244): the payloads, and the tags when asked for, stand in host memory, nothing
else of it changes, and the command ends with the crates read and no poisoned one. Where the rules leave a corner open
it takes the model's reading (log entries 3 and 15). -/
def Obligations.MemoryRead : Prop :=
  ∀ s slot c part k n crates a, IsBegun s slot 0x0102 c → part = (getCtx s (Pkt.ctx c.packet)).part →
    k = Pkt.p1 c.packet % 2 ^ 49 / 4096 → n = pktCrates c.packet → c.aux = 0 → c.found = 0 → n ≤ crates →
    a = Pkt.p0 c.packet → s.pcie.linkUp = true → cellsWf s.hostMem = true →
    (∀ i, i < n → refuse s .all part ((k + i) * 4096) = none ∧ CrateOk s (k + i)) →
    Runs (.memRead slot crates .clean) s (fun t => t = { s with hostMem := t.hostMem, cmds := t.cmds } ∧
      t.cmds = endedCmds s slot { result := n } ∧
      (∀ i, i < n → readBytes t.hostMem (a + i * 4096) 4096 = crateBytes s.mem (k + i)) ∧
      (Word.bitOf (Pkt.p2 c.packet) 32 = true →
        ∀ i, i < n → readBytes t.hostMem (a + n * 4096 + 16 * i) 16 = Tag.bytes (crateTag s.mem (k + i))) ∧
      ∀ x, (x < a ∨ a + n * 4096 + (if Word.bitOf (Pkt.p2 c.packet) 32 then n * 16 else 0) ≤ x) →
        readByte t.hostMem x = readByte s.hostMem x)

/-- SLICE_MODE (07/R203, R206): the slices of a die of the context's partition take the modes of the mask, CHANGING is
clear, no line of them is held, and the slices of other dies keep theirs. The tally commands (09/R294, 10/R336,
02/R63): NOP changes no tally; ADD adds, holding at the largest value, in the tally's epoch; READ returns the whole
word; EPOCH gives each tally of its range the next epoch and the value 0 once the context is quiet; a tally outside
the context's is refused with 0x26. Where the rules leave a corner open it takes the model's reading (log entry 16).
-/
def Obligations.SlicesAndTallies : Prop :=
  (∀ s slot c die mask, IsBegun s slot 0x0106 c → die = Pkt.p0 c.packet % 8 → mask = Pkt.p1 c.packet % 2 ^ 32 →
    die ∈ (getPart s (cmdPart s c)).dies → sliceKept s die mask = false →
    Runs (.sliceMode slot) s (fun t => t = { s with mem := t.mem, cmds := t.cmds } ∧ t.cmds = endedCmds s slot {} ∧
      (∀ i, i < 32 → tget {} t.mem.slices (die * 32 + i) = { cache := Word.bitOf mask i, changing := false, lines := [] }) ∧
      (∀ x, x / 32 ≠ die → tget {} t.mem.slices x = tget {} s.mem.slices x) ∧
      ∀ i, i < 32 → Word.bitOf mask i = false → (tget {} s.mem.slices (die * 32 + i)).cache = true →
        ∀ j, j < 2048 → (∀ x ∈ t.mem.opened, x ≠ sliceBase (die * 32 + i) / 4096 + j) ∧
          tget Tag.zero t.mem.tags (sliceBase (die * 32 + i) / 4096 + j) = Tag.zero)) ∧
  (∀ s slot c k, k = Pkt.p0 c.packet % 2 ^ 16 →
    (IsBegun s slot 0x0300 c → Runs (.tallyNop slot) s (fun t => t = { s with cmds := endedCmds s slot {} })) ∧
    (IsBegun s slot 0x0301 c → tallyOk s (Pkt.ctx c.packet) k = true →
      Runs (.tallyAdd slot) s (fun t => t = { s with tallies := t.tallies, cmds := endedCmds s slot {} } ∧
        tallyVal t k = min (tallyVal s k + Pkt.p1 c.packet % 2 ^ 48) (2 ^ 48 - 1) ∧ tallyEpochOf t k = tallyEpochOf s k ∧
        ∀ j, j ≠ k → tget 0#64 t.tallies j = tget 0#64 s.tallies j)) ∧
    (IsBegun s slot 0x0302 c → tallyOk s (Pkt.ctx c.packet) k = true →
      Runs (.tallyRead slot) s (fun t => t = { s with cmds := endedCmds s slot { result := (tget 0#64 s.tallies k).toNat } })) ∧
    (∀ n, IsBegun s slot 0x0303 c → n = Pkt.p1 c.packet % 2 ^ 17 → tallyOk s (Pkt.ctx c.packet) k = true →
      tallyOk s (Pkt.ctx c.packet) (k + n - 1) = true → ctxQuiet s (Pkt.ctx c.packet) = true →
      Runs (.tallyEpoch slot) s (fun t => t = { s with tallies := t.tallies, cmds := endedCmds s slot {} } ∧
        (∀ i, i < n → tallyVal t (k + i) = 0 ∧ tallyEpochOf t (k + i) = (tallyEpochOf s (k + i) + 1) % 2 ^ 16) ∧
        ∀ j, (j < k ∨ k + n ≤ j) → tget 0#64 t.tallies j = tget 0#64 s.tallies j)) ∧
    (∀ op cmd, (op = 0x0301 ∧ cmd = .tallyAdd slot ∨ op = 0x0302 ∧ cmd = .tallyRead slot) → IsBegun s slot op c →
      tallyOk s (Pkt.ctx c.packet) k = false → (∀ d ∈ queueCmds s c.queue, d.ord ≤ c.ord) →
      Runs cmd s (fun t => t = { s with cmds := endedCmds s slot { cls := 2, reason := 0x26 }, queues := t.queues } ∧
        (getQueue t c.queue).reason = 0x26 ∧ ∀ q, q ≠ c.queue → getQueue t q = getQueue s q)))

/-- The aperture (09/R278-R281, 07/R212): a window that no condition refuses is enabled as written; an access through an
enabled window to crates that are neither refused nor cached nor faulty reads or writes the bytes at the window's
local offset, and a write changes no other byte. Where the rules leave a corner open it takes the model's reading (log
entry 36). -/
def Obligations.Aperture : Prop :=
  (∀ s i (v : W64), hostOpen s = true → i < 16 → rbit v 63 = true → rbit (aperWin s i) 63 = false →
    Runs (.aperWinEnable i v) s (fun t => t = { s with pcie := t.pcie } ∧ (∀ j, j ≠ i → aperWin t j = aperWin s j) ∧
      (winRefusal s (v &&& aperMask) = none → aperWin t i = v &&& aperMask) ∧
      ∀ r, winRefusal s (v &&& aperMask) = some r → rbit (aperWin t i) 63 = false ∧
        t.pcie.aperReason = r ∧ t.pcie.aperWindow = i)) ∧
  (∀ s x n a w, hostOpen s = true → w = aperWin s (x / 2 ^ 32) → rbit w 63 = true → a = aperOffset s x →
    refuseRange s .tiers (rbits w 58 56) (a / 4096) ((a + n + 4095) / 4096 - a / 4096) = none →
    (∀ y ∈ s.mem.bad, y / 64 ≠ a / 4096) → cacheHome s.mem (a / 4096) = none →
    Runs (.apertureRead x n) s (fun t => t = { s with out := s.out ++ [.pcieRead (readBytes s.mem.cells a n)] })) ∧
  (∀ s x data a w, hostOpen s = true → w = aperWin s (x / 2 ^ 32) → rbit w 63 = true → a = aperOffset s x →
    refuseRange s .tiers (rbits w 58 56) (a / 4096) ((a + data.length + 4095) / 4096 - a / 4096) = none →
    s.mem.bad = [] → Plain s.mem (a / 4096) → Memory.wf s.mem = true →
    Runs (.apertureWrite x data) s (fun t => t = { s with mem := { s.mem with cells := t.mem.cells } } ∧
      readBytes t.mem.cells a data.length = data ∧
      ∀ y, (y < a ∨ a + data.length ≤ y) → readByte t.mem.cells y = readByte s.mem.cells y))

/-! ### Events -/

/-- EVENT_RECORD_WRITE, INTERRUPT_TAKE and EVT_EOI (17/R521, R525-R529): the event selected among those a ring may take is
written at its TAIL with the next sequence number, in the ring's own memory or in host memory; taking an interrupt
pushes the highest fresh priority and empties the ring; an end of interrupt pops the highest priority, and one on an
empty stack sets its error. The host's rings (17/R529, R531, R539): an enable that no condition refuses starts the
ring empty, armed and from sequence number 0; a refused one leaves it disabled with the reason; a disable loses what
waits for it; a HEAD write within the ring's records moves HEAD; a write of 1 clears OVERFLOW. Where the rules leave a
corner open it takes the model's reading (log entry 25). -/
def Obligations.EventsReachRings : Prop :=
  (∀ s n r e rest, n < 64 → r = getRing s n → ringEnabled r = true → ringBlocked s n = false →
    selectEvent (fun e => !eventHeld s n e) r.pend = some (e, rest) →
    Runs (.eventRecordWrite n) s (fun t =>
      t = { s with events := t.events, hostMem := t.hostMem, out := t.out, pcie := { s.pcie with msixPending := t.pcie.msixPending } } ∧
      (getRing t n).tail = (r.tail + 1) % ringSize r ∧ (getRing t n).nextSeq = (r.nextSeq + 1) % 2 ^ 16 ∧
      (getRing t n).count = r.count + 1#64 ∧ (getRing t n).pend = rest ∧ (getRing t n).head = r.head ∧
      (∀ k, k ≠ n → getRing t k = getRing s k) ∧
      (if n < 9 then t.hostMem = s.hostMem ∧ (getRing t n).records = r.records ++ [eventBytes r.nextSeq e] ∧
          (getProc t n).fresh = (getProc s n).fresh ++ [e.prio]
        else t.hostMem = writeBytes s.hostMem (r.base.toNat + 32 * r.tail) (eventBytes r.nextSeq e) ∧ t.events.procs = s.events.procs))) ∧
  (∀ s q x p, q < 9 → x = getProc s q → x.asserted = true → p = (x.fresh.filter x.below).foldl max 0 →
    Runs (.interruptTake q) s (fun t => t = { s with events := t.events } ∧
      getProc t q = { x with stack := Nat.lor x.stack (2 ^ p), fresh := [], asserted := false } ∧
      (getRing t q).head = (getRing s q).tail ∧ (getRing t q).records = [] ∧
      (∀ k, k ≠ q → getProc t k = getProc s k ∧ getRing t k = getRing s k))) ∧
  (∀ s q x (v : W64), q < 9 → x = getProc s q → rbit v 0 = true →
    Runs (.evtEoi q true v) s (fun t => t = { s with events := { s.events with procs := t.events.procs } } ∧
      (∀ k, k ≠ q → getProc t k = getProc s k) ∧
      (x.stack = 0 → getProc t q = { x with eoiErr := true }) ∧
      (x.stack ≠ 0 → (getProc t q).stack = x.stack - 2 ^ Nat.log2 x.stack ∧ (getProc t q).fresh = x.fresh ∧
        (getProc t q).asserted = x.fresh.any (fun p => decide (x.stack - 2 ^ Nat.log2 x.stack < 2 ^ p))))) ∧
  (∀ s n r, hostOpen s = true → 9 ≤ n → n < 64 → r = getRing s n →
    (∀ v : W64, rbit v 63 = true → ringEnabled r = false →
      Runs (.evtRingEnable n v) s (fun t => t = { s with events := { s.events with rings := t.events.rings } } ∧
        (∀ k, k ≠ n → getRing t k = getRing s k) ∧
        (ringRefusal s n { r with cfg := v &&& ringMask } = none →
          getRing t n = { r with cfg := v &&& ringMask, head := 0, tail := 0, nextSeq := 0, armed := true
                                 gen := if rbit (v &&& ringMask) 62 then (getCtx s (rbits (v &&& ringMask) 55 48)).gen else r.gen }) ∧
        ∀ x, ringRefusal s n { r with cfg := v &&& ringMask } = some x →
          (getRing t n).reason = x ∧ ringEnabled (getRing t n) = false)) ∧
    (∀ v : W64, rbit v 63 = false → ringEnabled r = true → rset r.cfg 63 63 0 = rset (v &&& ringMask) 63 63 0 →
      Runs (.evtRingDisable n v) s (fun t => t = { s with events := { s.events with rings := t.events.rings } } ∧
        (∀ k, k ≠ n → getRing t k = getRing s k) ∧ (getRing t n).cfg = v &&& ringMask ∧ (getRing t n).pend = [] ∧
        (getRing t n).later = [] ∧ (getRing t n).lost = if r.pend ++ r.later = [] then r.lost
          else min (r.lost + (r.pend ++ r.later).length) (2 ^ 32 - 1))) ∧
    (∀ v : BitVec 16, ringEnabled r = true → v.toNat < ringSize r →
      (v.toNat + ringSize r - r.head) % ringSize r ≤ (r.tail + ringSize r - r.head) % ringSize r →
      Runs (.evtRingHead n v) s (fun t =>
        t = { s with events := { s.events with rings := t.events.rings }, out := t.out
                     pcie := { s.pcie with msixPending := t.pcie.msixPending } } ∧
        (∀ k, k ≠ n → getRing t k = getRing s k) ∧ (getRing t n).head = v.toNat ∧ (getRing t n).tail = r.tail ∧
        (getRing t n).armed = (r.tail == v.toNat))) ∧
    (∀ v : W64, rbit v 10 = true →
      Runs (.overflowClear n v) s (fun t => t = { s with events := { s.events with rings := t.events.rings } } ∧
        getRing t n = { r with overflow := false } ∧ ∀ k, k ≠ n → getRing t k = getRing s k)))

/-- PIN_CHANGE and PENDING_CLEAR (17/R518-R520, R535): an idle pin whose change its sense takes becomes pending with the
new level and delivers its event, a pending one only counts, and one whose change the sense does not take only has its
new level; a write of 1 clears PENDING, but not of a level-sensed pin whose level is still low. Where the rules leave
a corner open it takes the model's reading (log entry 25). -/
def Obligations.Pins : Prop :=
  (∀ s p level x, p < 8 → s.events.pins.length = 8 → x = getPin s p → x.level ≠ level → s.boot.phase = 6 →
    (pinQualifies (rbits x.cfg 49 48) level = false →
      Runs (.pinChange p level) s (fun t => t = { s with events := { s.events with pins := t.events.pins } } ∧
        getPin t p = { x with level } ∧ ∀ k, k ≠ p → getPin t k = getPin s k)) ∧
    (pinQualifies (rbits x.cfg 49 48) level = true → x.pending = true →
      Runs (.pinChange p level) s (fun t => t = { s with events := { s.events with pins := t.events.pins } } ∧
        getPin t p = { x with level, edges := min (x.edges + 1) (2 ^ 32 - 1) } ∧ ∀ k, k ≠ p → getPin t k = getPin s k)) ∧
    (pinQualifies (rbits x.cfg 49 48) level = true → x.pending = false →
      Runs (.pinChange p level) s (fun t => getPin t p = { x with level, pending := true, edges := 0 } ∧
        (∀ k, k ≠ p → getPin t k = getPin s k) ∧ t.cores = s.cores ∧ t.cmds = s.cmds ∧ t.queues = s.queues ∧
        (level = true ∨ 3 ≤ p → t = { s with events := t.events })))) ∧
  (∀ s (v : W64), hostOpen s = true →
    Runs (.pendingClear v) s (fun t => t = { s with events := { s.events with pins := t.events.pins } } ∧
      ∀ p, p < s.events.pins.length → getPin t p =
        if rbit v p = true ∧ (rbits (getPin s p).cfg 49 48 ≠ 0 ∨ (getPin s p).level = true) then { getPin s p with pending := false }
        else getPin s p))

/-! ### Groups and collectives -/

/-- PHASE_MAP_LOAD and PHASE_SWITCH (12/R396-R399): a table that obeys its rules fills its slot, whose map is not active;
a switch makes the slot's map the one active map of the context and keeps every map's groups; a switch to a slot that
holds no map of the context is refused with 0x68. Groups and substitutions (12/R400, R401, R425): an enable that the
group check passes makes the group idle, in its context's generation and with COUNT 0; a refused one keeps its reason;
a disable while the communication queue is enabled is refused with 0x1D, and else frees the group; a substitution is
enabled only if no other names its chips. Where the rules leave a corner open it takes the model's reading (log entry
18). -/
def Obligations.MapsAndGroups : Prop :=
  (∀ s slot c n a part k b, IsBegun s slot 0x0401 c → n = Pkt.p1 c.packet % 16 → a = pktOff0 c.packet →
    part = (getCtx s (Pkt.ctx c.packet)).part → k = min 5 ((0x40 + 16 * leAt (crateBytes s.mem (a / 4096)) 6 2 + 4095) / 4096) →
    b = (List.range k).flatMap (fun i => crateBytes s.mem (a / 4096 + i)) → refuse s .all part a = none →
    (∀ i, i < k → refuse s .all part ((a / 4096 + i) * 4096) = none ∧ CrateOk s (a / 4096 + i)) → mapOk s b = true →
    (getMap s n).loaded = false →
    Runs (.phaseMapLoad slot) s (fun t => t = { s with maps := t.maps, cmds := endedCmds s slot {} } ∧
      getMap t n = { loaded := true, ctx := Pkt.ctx c.packet, gen := Pkt.gen c.packet
                     groups := (List.range (leAt b 6 2)).map (mapGroupOf b) } ∧
      ∀ j, j ≠ n → getMap t j = getMap s j)) ∧
  (∀ s slot c n x ctx, IsBegun s slot 0x0402 c → n = Pkt.p1 c.packet % 16 → x = getMap s n → ctx = Pkt.ctx c.packet →
    collRunning s ctx = false →
    (x.loaded = true → x.ctx = ctx → x.gen = Pkt.gen c.packet →
      (∀ e ∈ s.groups, grpEnabled e.2 = true → grpCtx e.2 = ctx → ∀ m, mapEntryOf x e.1 = some m →
        chunkSize s ctx (grpShare e.2) (groupMembers s m).length ≠ 0) →
      Runs (.phaseSwitch slot) s (fun t =>
        t = { s with maps := t.maps, fab := t.fab, freeCtr := t.freeCtr, cmds := endedCmds s slot {} } ∧
        getMap t n = { x with active := true } ∧
        ∀ j, j ≠ n → (getMap t j).groups = (getMap s j).groups ∧ (getMap t j).loaded = (getMap s j).loaded ∧
          ((getMap s j).ctx = ctx → (getMap s j).gen = x.gen → (getMap t j).active = false) ∧
          ((getMap s j).ctx ≠ ctx → getMap t j = getMap s j))) ∧
    (x.loaded = false → (∀ d ∈ queueCmds s c.queue, d.ord ≤ c.ord) →
      Runs (.phaseSwitch slot) s (fun t =>
        t = { s with maps := t.maps, queues := t.queues, cmds := endedCmds s slot { cls := 2, reason := 0x68 } } ∧
        getMap t n = { x with reason := 0x68 }))) ∧
  (∀ s, hostOpen s = true →
    (∀ g (v : W64) x, g < 1024 → rbit v 63 = true → x = getGroup s g → grpEnabled x = false →
      Runs (.grpEnable g v) s (fun t => t = { s with groups := t.groups, fab := t.fab, freeCtr := t.freeCtr } ∧
        (∀ h, h ≠ g → getGroup t h = getGroup s h) ∧
        (∀ r, grpRefusal (writeGrpFields s g v) g v = some r →
          getGroup t g = { x with cfg := rset 0#64 55 32 (grpFields v), reason := r } ∧ grpEnabled (getGroup t g) = false) ∧
        (grpRefusal (writeGrpFields s g v) g v = none →
          getGroup t g = { x with cfg := rset (rset 0#64 55 32 (grpFields v)) 63 63 1, gen := (getCtx s (rbits v 55 48)).gen
                                  state := 1, count := 0 } ∧ grpEnabled (getGroup t g) = true))) ∧
    (∀ g (v : W64) x, g < 1024 → rbit v 63 = false → x = getGroup s g → grpEnabled x = true →
      Runs (.grpDisable g v) s (fun t => t = { s with groups := t.groups } ∧ (∀ h, h ≠ g → getGroup t h = getGroup s h) ∧
        (qEnabled (getQueue s (15360 + g)) = true → getGroup t g = { x with reason := 0x1D }) ∧
        (qEnabled (getQueue s (15360 + g)) = false →
          getGroup t g = { x with cfg := rset 0#64 55 32 (grpFields v), state := 0, pendingBell := none, run := none, grants := []
                                  bells := [], backpressure := false }))) ∧
    (∀ i (v : W64) x lg ph, i < 256 → rbit v 63 = true → x = tget {} s.substs i → x.enable = false →
      lg = rbits v 46 32 → ph = rbits v 14 0 →
      Runs (.grpSubstEnable i v) s (fun t => t = { s with substs := t.substs } ∧
        (∀ j, j ≠ i → tget {} t.substs j = tget {} s.substs j) ∧
        ((∃ e ∈ s.substs, e.1 ≠ i ∧ e.2.enable = true ∧ (e.2.logical = lg ∨ e.2.phys = ph)) →
          tget {} t.substs i = { x with logical := lg, phys := ph, reason := 0x68 }) ∧
        ((∀ e ∈ s.substs, e.1 ≠ i → e.2.enable = true → e.2.logical ≠ lg ∧ e.2.phys ≠ ph) →
          tget {} t.substs i = { x with enable := true, logical := lg, phys := ph }))))

/-- The collectives begin (12/R402-R406, R409): a collective of a group with an active map takes the group's COUNT, which
moves on, and runs over the members of the map by ordinal, as far as it can; without a map it is refused with 0x67.
Where the rules leave a corner open it takes the model's reading (log entry 18). -/
def Obligations.CollectivesBegin : Prop :=
  ∀ s slot c op cmd g x, (op = 0x0410 ∧ cmd = .allReduce slot ∨ op = 0x0411 ∧ cmd = .reduceScatter slot ∨
      op = 0x0412 ∧ cmd = .allGather slot ∨ op = 0x0413 ∧ cmd = .broadcast slot) →
    IsBegun s slot op c → g = c.queue - 15360 → x = getGroup s g → x.run = none →
    (∀ d ∈ queueCmds s c.queue, d.ord < c.ord → d.phase = 2) →
    (∀ mapN m r, activeMap s (grpCtx x) = some mapN → mapEntryOf (getMap s mapN) g = some m → s.fab.chip ≠ none →
      r = { slot, op, red := if op = 0x0410 ∨ op = 0x0411 then Pkt.p2 c.packet / 2 ^ 24 % 4 else 0
            crates := Pkt.p2 c.packet % 2 ^ 24 + 1, root := if op = 0x0413 then Pkt.p2 c.packet / 2 ^ 32 % 1024 else 0
            p0 := pktOff0 c.packet, p1 := pktOff1 c.packet, count := x.count, members := (groupMembers s m).map (physOf s)
            ordinal := (ownOrdinal s m).getD 0, nx := (m.x.coords 0).length
            blocks := ((groupMembers s m).map (physOf s)).length / (m.x.coords 0).length
            chunkC := chunkSize s (grpCtx x) (grpShare x) ((groupMembers s m).map (physOf s)).length, mapCheck := m.check
            opCheck := opCheckOf op (if op = 0x0410 ∨ op = 0x0411 then Pkt.p2 c.packet / 2 ^ 24 % 4 else 0)
              (Pkt.p2 c.packet % 2 ^ 24 + 1) (if op = 0x0413 then Pkt.p2 c.packet / 2 ^ 32 % 1024 else 0) : CollRun } →
      r.chunkC ≠ 0 → collRefusal s r (getCtx s (grpCtx x)).part = none → x.pendingBell = none →
      (∀ y ∈ x.grants, y.count = r.count → y.mapCheck = r.mapCheck ∧ y.opCheck = r.opCheck) →
      Runs cmd s (fun t => ∃ s1, t = pumpAll s1 g ∧ s1 = { s with groups := s1.groups } ∧
        (getGroup s1 g).run = some r ∧ (getGroup s1 g).count = (x.count + 1) % 2 ^ 32 ∧ (getGroup s1 g).state = 2 ∧
        ∀ h, h ≠ g → getGroup s1 h = getGroup s h)) ∧
    (activeMap s (grpCtx x) = none → (∀ d ∈ queueCmds s c.queue, d.ord ≤ c.ord) →
      Runs cmd s (fun t => t = { s with queues := t.queues, mem := t.mem, stepSt := t.stepSt
                                        cmds := endedCmds s slot { cls := 2, reason := 0x67 } } ∧
        ((∀ k, (getCtx s k).training = false) → t.mem = s.mem ∧ t.stepSt = s.stepSt)))

/-- COLL_GRANT, COLL_DATA, COLLECTIVE_COMPLETE and COLLECTIVE_SILENCE (12/R405, R411-R415): a GRANT for the next
collective is held; a crate of a running one that is the next of its contribution is taken in; a collective whose
chunks are done and whose frames are acknowledged ends with its digest and result; a member that falls silent ends it
with 0x66 and the bell rings. The closing bell (12/R416-R418, R422): a bell of the running collective ends it with
class 4 and 0x65, one for the next collective waits, a repeated one is discarded; a bell is sent again until it has
been sent four times; a group held back shows it. Where the rules leave a corner open it takes the model's reading
(log entries 18 and 22). -/
def Obligations.CollectivesProceed : Prop :=
  (∀ s p k f n x g y, InOrder s f n x → NextFrame s p 0x06 k f → f.aux / 2 ^ 10 % 4 = 0 → ctxGone s f = none →
    frameGroup s f = some g → (getGroup s g).run = none → f.opid = (getGroup s g).count →
    y = { count := f.opid, stage := f.aux / 2 ^ 12 % 4, chunk := f.aux / 2 ^ 14 % 2 ^ 24, ordinal := f.aux / 2 ^ 38 % 2 ^ 14
          mapCheck := f.addr % 2 ^ 32, opCheck := f.addr / 2 ^ 32 : Grant } → y ∉ (getGroup s g).grants →
    Runs (.collGrant p) s (fun t => Took s t p k f ∧ Expects t n f ∧ t.cores = s.cores ∧ t.cmds = s.cmds ∧ t.mem = s.mem ∧
      getGroup t g = { getGroup s g with grants := (getGroup s g).grants ++ [y] } ∧
      ∀ h, h ≠ g → getGroup t h = getGroup s h)) ∧
  (∀ s p k f n x g r st ch a old, InOrder s f n x → NextFrame s p 0x06 k f → f.aux / 2 ^ 10 % 4 = 1 → ctxGone s f = none →
    frameGroup s f = some g → (getGroup s g).run = some r → f.opid = r.count → st = f.aux / 2 ^ 12 % 4 →
    ch = f.aux / 2 ^ 14 % 2 ^ 24 → a = f.aux / 2 ^ 38 % 2 ^ 14 → old = (r.contrib st ch a).getD { stage := st, chunk := ch, ordinal := a } →
    st ∈ r.stages → (r.contribution st ch a r.ordinal)[old.crates.length]? = some f.index → f.last = false →
    old.crates.length + 1 < (r.contribution st ch a r.ordinal).length → FrameOk f → Tag.poisoned (frameTag f) = false →
    (st < 2 → Tag.fmt (frameTag f) = Fmt.fp32) →
    Runs (.collData p) s (fun t => Took s t p k f ∧ Expects t n f ∧ t.cores = s.cores ∧ t.cmds = s.cmds ∧ t.mem = s.mem ∧
      (∃ r', (getGroup t g).run = some r' ∧
        r'.contrib st ch a = some { old with crates := old.crates ++ [{ j := f.index, tag := frameTag f, payload := framePayload f }]
                                             complete := false } ∧
        ∀ st' ch' a', (st', ch', a') ≠ (st, ch, a) → r'.contrib st' ch' a' = r.contrib st' ch' a') ∧
      ∀ h, h ≠ g → getGroup t h = getGroup s h)) ∧
  (∀ s slot g x r c, s.groups.find? (fun e => match e.2.run with | some r => r.slot == slot | none => false) = some (g, x) →
    getGroup s g = x → x.run = some r → findCmd s slot = some c → c.gather = [] → (∀ d ∈ s.cmds, d.slot = slot → d = c) →
    r.chunks ≤ r.chunksDone.length → collOutstanding s g r.count = false → isTraining s (grpCtx x) x.gen = false →
    Runs (.collectiveComplete slot) s (fun t => t = { s with groups := t.groups, cmds := t.cmds } ∧
      getGroup t g = { x with run := none, state := if x.pendingBell.isSome then 3 else 1
                              grants := x.grants.filter (fun y => y.count != r.count) } ∧
      (∀ h, h ≠ g → getGroup t h = getGroup s h) ∧
      t.cmds = endedCmds s slot { cls := Word.b2n r.poisonedOut, reason := if r.poisonedOut then 0xE1 else 0
                                  detail32 := (collDigests s r).2.toNat % 2 ^ 32
                                  result := if r.op = 0x0411 then r.share else r.total })) ∧
  (∀ s g a r c, (getGroup s g).run = some r → a ≠ r.ordinal → memberBegun (getGroup s g) r a = true →
    memberAwaited (getGroup s g) r a = true → findCmd s r.slot = some c → c.gather = [] → (∀ d ∈ s.cmds, d.slot = r.slot → d = c) →
    (∀ d ∈ queueCmds s c.queue, d.ord ≤ c.ord) →
    Runs (.collectiveSilence g a) s (fun t =>
      t = { s with groups := t.groups, fab := t.fab, queues := t.queues, mem := t.mem, stepSt := t.stepSt, events := t.events
                   cmds := endedCmds s r.slot { cls := 3, reason := 0x66 } } ∧
      (getGroup t g).run = none ∧ (getGroup t g).lastReason = 0x66 ∧ (getGroup t g).bellValid = true ∧
      (getGroup t g).bellCount = r.count ∧ (getGroup t g).bellChip = ownChip s ∧ (∀ h, h ≠ g → getGroup t h = getGroup s h))) ∧
  (∀ s p k f g x, NextFrame s p 0x14 k f → frameGroup s f = some g → x = getGroup s g →
    (x.bellValid = true → x.bellCount = f.opid →
      Runs (.bell p) s (fun t => t = { s with fab := t.fab, out := t.out } ∧ Took s t p k f ∧ t.fab.sendq = s.fab.sendq)) ∧
    (∀ r c, x.bellValid = false → x.run = some r → r.count = f.opid → findCmd s r.slot = some c → c.gather = [] →
      (∀ d ∈ s.cmds, d.slot = r.slot → d = c) → (∀ d ∈ queueCmds s c.queue, d.ord ≤ c.ord) →
      Runs (.bell p) s (fun t => Took s t p k f ∧ t.cores = s.cores ∧ t.cmds = endedCmds s r.slot { cls := 4, reason := 0x65 } ∧
        (getGroup t g).run = none ∧ (getGroup t g).lastReason = 0x65 ∧ (getGroup t g).bellValid = true ∧
        (getGroup t g).bellCount = r.count ∧ ∀ h, h ≠ g → getGroup t h = getGroup s h)) ∧
    (x.bellValid = false → x.run = none → x.count = f.opid →
      Runs (.bell p) s (fun t => Took s t p k f ∧ t.cores = s.cores ∧ t.cmds = s.cmds ∧ t.mem = s.mem ∧
        (getGroup t g).pendingBell = some (f.aux / 2 ^ 16 % 2 ^ 8) ∧ (getGroup t g).state = 3 ∧
        ∀ h, h ≠ g → getGroup t h = getGroup s h))) ∧
  (∀ s g b u, (getGroup s g).bells = b :: u →
    Runs (.bellResend g) s (fun t => t = { s with groups := t.groups, fab := { s.fab with sendq := t.fab.sendq } } ∧
      getGroup t g = { getGroup s g with bells := if b.left = 1 then u else if b.left = 0 then u else u ++ [{ b with left := b.left - 1 }] } ∧
      (∀ h, h ≠ g → getGroup t h = getGroup s h) ∧
      ∃ is : List Item, t.fab.sendq = s.fab.sendq ++ is ∧ is.map (fun i => i.frame.dst) = b.members ∧
        ∀ i ∈ is, i.frame.typ = 0x14 ∧ i.frame.opid = b.count)) ∧
  (∀ s g, ((getGroup s g).run ≠ none →
      Runs (.groupBackpressure g true) s (fun t => t = { s with groups := t.groups, mem := t.mem, stepSt := t.stepSt, events := t.events } ∧
        getGroup t g = { getGroup s g with backpressure := true } ∧ ∀ h, h ≠ g → getGroup t h = getGroup s h)) ∧
    Runs (.groupBackpressure g false) s (fun t => t = { s with groups := t.groups } ∧
      getGroup t g = { getGroup s g with backpressure := false } ∧ ∀ h, h ≠ g → getGroup t h = getGroup s h))

/-! ### The fabric -/

/-- PFABRIC (06/R181): towards a bound chip, a read sends one GET_REQ, a tally add one TALLY_ADD, and a put or accumulate
of one crate sends it with its tag and releases its slot; the transfer is in flight with its operation open, and the
station passes. FRAME_SEND and FLIT_RECEIVE (11/R356, R357, R361, R371, R374): a new sequenced frame leaves by its
port with its session's SID and its channel's next number, is kept until it is acknowledged, and takes its words'
credits; a control or relayed frame leaves as it is; a flit that cannot be corrected is counted and the frames it
touched are gone; a good flit in which no frame begins moves the expected number on and brings its credits. Where the
rules leave a corner open it takes the model's reading (log entries 23 and 40). -/
def Obligations.FabricSends : Prop :=
  (∀ s core w c dir bin cg n x b, AtIns s core 4 0x44 .none w → c = getCore s core → dir = Ins.bits w 87 86 →
    bin = getBin c (Ins.bits w 85 80) → c.inflight.length < 64 → cg = coreCtx s core → s.fab.chip.isSome = true →
    sessionOf s (Ins.bits w 66 52) = some n → getSession s n = some x → (x.state = 1 ∨ x.state = 2) →
    findBind s cg.1 cg.2 (Ins.bits w 66 52) = some b → b.state = 1 →
    ((dir = 1 ∨ dir = 3) → (dir = 1 → bin.occ < bin.slotCount) →
      Runs (.pfabric core .clean) s (fun t => t = { s with cores := t.cores, fab := t.fab } ∧
        (∀ k, k ≠ core → getCore t k = getCore s k) ∧ (getCore t core).bins = c.bins ∧
        (∃ y ∈ (getCore t core).inflight, y.instr = w ∧ y.moved = true ∧ y.ops = [s.fab.nextOp]) ∧
        (∃ o, getOp t s.fab.nextOp = some o ∧ o.left = (if dir = 1 then Ins.bits w 79 69 + 1 else 1) ∧ o.all = true) ∧
        ∃ i, t.fab.sendq = s.fab.sendq ++ [i] ∧ i.frame.typ = (if dir = 1 then 0x03 else 0x05) ∧
          i.frame.dst = Ins.bits w 66 52 ∧ i.frame.ch = Ins.bits w 68 67 ∧ i.frame.opid = s.fab.nextOp ∧ i.frame.last = true ∧
          i.frame.dctx = b.dctx ∧ i.frame.dgen = b.dgen ∧
          i.frame.addr = (if dir = 1 then Ins.bits w 51 22 * 4096 else Ins.bits w 37 22) ∧
          i.frame.aux = (if dir = 1 then Ins.bits w 79 69 else Ins.bits w 79 69 + 1))) ∧
    (∀ k, (dir = 0 ∨ dir = 2) → Ins.bits w 79 69 = 0 → 1 ≤ bin.occ → 1 ≤ bin.slotCrates →
      k = slotCrate core bin bin.emptySlot 0 → MoveOk s k → (dir = 2 → Tag.fmt (crateTag s.mem k) = Fmt.fp32) →
      Runs (.pfabric core .clean) s (fun t => t = { s with cores := t.cores, fab := t.fab } ∧
        (∀ j, j ≠ core → getCore t j = getCore s j) ∧ (getCore t core).bins = releasedBins (Ins.bits w 85 80) 1 c.bins ∧
        (∃ y ∈ (getCore t core).inflight, y.instr = w ∧ y.moved = true ∧ y.ops = [s.fab.nextOp]) ∧
        (∃ o, getOp t s.fab.nextOp = some o ∧ o.left = 1 ∧ o.all = true) ∧
        ∃ i, t.fab.sendq = s.fab.sendq ++ [i] ∧ i.frame.typ = (if dir = 0 then 0x01 else 0x02) ∧
          i.frame.dst = Ins.bits w 66 52 ∧ i.frame.ch = Ins.bits w 68 67 ∧ i.frame.opid = s.fab.nextOp ∧ i.frame.last = true ∧
          i.frame.dctx = b.dctx ∧ i.frame.dgen = b.dgen ∧ i.frame.addr = Ins.bits w 51 22 * 4096 ∧ i.frame.index = 0 ∧
          i.frame.data = crateData (crateTag s.mem k) (crateBytes s.mem k)))) ∧
  (∀ s p lane k i w x, nextFrame s p lane 0 [] s.fab.sendq = some (k, i) → (egress s i).isSome = true → w = frameWords i.frame →
    x = getPort s p → x.trained = true → (x.state = 2 ∨ i.port.isSome = true) → w ≤ x.credits.getD lane 0 → lane < x.credits.length →
    (∀ n y, i.relay = none → frameSeq i.frame.typ = true → i.resend = false → sessionOf s i.frame.dst = some n →
      getSession s n = some y → i.frame.ch < y.chans.length → replayBytes s p + 64 * w ≤ 2097152 →
      Runs (.frameSend p lane) s (fun t => t = { s with fab := t.fab, out := t.out } ∧
        t.fab.sendq = s.fab.sendq.eraseIdx k ∧
        t.out = s.out ++ [.frame p { i.frame with sid := y.sid, seq := (chanOf y i.frame.ch).next }] ∧
        (getPort t p).credits.getD lane 0 = x.credits.getD lane 0 - w ∧
        ∃ z, getSession t n = some z ∧ (chanOf z i.frame.ch).next = ((chanOf y i.frame.ch).next + w) % 2 ^ 32 ∧
          ∃ u, (chanOf z i.frame.ch).unacked = (chanOf y i.frame.ch).unacked ++ [u] ∧
            u.frame = { i.frame with sid := y.sid, seq := (chanOf y i.frame.ch).next } ∧ u.port = p)) ∧
    ((i.relay.isSome = true ∨ frameSeq i.frame.typ = false) →
      Runs (.frameSend p lane) s (fun t => t = { s with fab := t.fab, out := t.out } ∧
        t.fab.sendq = s.fab.sendq.eraseIdx k ∧ Out.frame p i.frame ∈ t.out ∧
        (getPort t p).credits.getD lane 0 = x.credits.getD lane 0 - w ∧
        ∀ r, i.relay = some r → Out.credits r.port r.lane w ∈ t.out))) ∧
  (∀ s p b x, x = getPort s p → x.trained = true → b.length = 640 →
    Runs (.flitReceive p none b) s (fun t => t = { s with fab := { s.fab with ports := t.fab.ports }, out := s.out ++ [.discarded p] } ∧
      (∀ q, q ≠ p → getPort t q = getPort s q) ∧
      getPort t p = { x with uncorrCw := min (x.uncorrCw + 1) (2 ^ 32 - 1), flitFail := min (x.flitFail + 1) (2 ^ 16 - 1)
                             synced := false, partialFrame := [], rxSeq := x.rxSeq.map (fun n => (n + 1) % 2 ^ 16) })) ∧
  (∀ s p b x n lane cr, x = getPort s p → x.trained = true → b.length = 640 → n ≤ 15 →
    leAt b 632 8 = (Crc.crc64 (b.take 632)).toNat → (x.rxSeq = none ∨ x.rxSeq = some (leAt b 0 2)) → x.synced = false →
    624 ≤ leAt b 6 2 → lane = leAt b 4 2 / 2 ^ 12 % 8 → cr = leAt b 4 2 % 2 ^ 12 → x.credits.length = 8 →
    Runs (.flitReceive p (some n) b) s (fun t => t = { s with fab := { s.fab with ports := t.fab.ports } } ∧
      (∀ q, q ≠ p → getPort t q = getPort s q) ∧
      (getPort t p).rxSeq = some ((leAt b 0 2 + 1) % 2 ^ 16) ∧ (getPort t p).rx = x.rx ∧
      (getPort t p).credits.getD lane 0 = x.credits.getD lane 0 + cr ∧
      (getPort t p).corrSymbols = min (x.corrSymbols + n) (2 ^ 32 - 1)))

/-- Data frames of the fabric that come in order (11/R377, 06/R169, 10/R337): PUT writes its crate as it came; ACC_PUT
writes the lane-wise sum; GET_REQ answers with its crates in order; GET_DATA writes its crate to the place the
transfer asked for and counts it; TALLY_ADD adds; VOID leaves the lost crate's place poisoned. Each frees its words
and the channel expects the next number. Where the rules leave a corner open it takes the model's reading (log entries
20, 22 and 42). -/
def Obligations.DataFrames : Prop :=
  ∀ s p k f n x, InOrder s f n x →
    (NextFrame s p 0x01 k f → crateRefusal s f = none → FrameOk f → Plain s.mem (f.addr / 4096) → Writable s.mem → dirOn s = false →
      Runs (.put p) s (fun t => Took s t p k f ∧ Expects t n f ∧ t.cores = s.cores ∧ t.cmds = s.cmds ∧ t.tallies = s.tallies ∧
        WroteCrate s.mem t.mem (f.addr / 4096) (framePayload f) (frameTag f))) ∧
    (NextFrame s p 0x02 k f → crateRefusal s f = none → FrameOk f → Tag.poisoned (frameTag f) = false →
      CrateOk s (f.addr / 4096) → Tag.fmt (crateTag s.mem (f.addr / 4096)) = Fmt.fp32 → Plain s.mem (f.addr / 4096) →
      Writable s.mem →
      Runs (.accPut p) s (fun t => Took s t p k f ∧ Expects t n f ∧ t.cores = s.cores ∧ t.cmds = s.cmds ∧ ∃ q tg,
        WroteCrate s.mem t.mem (f.addr / 4096) q tg ∧ q = addPayload (crateBytes s.mem (f.addr / 4096)) (framePayload f) ∧
        Tag.fmt tg = Fmt.fp32 ∧ Tag.check tg = Crc.crc64 q ∧ Tag.poisoned tg = false ∧ Tag.lineage tg = Tag.lineage (frameTag f))) ∧
    (NextFrame s p 0x03 k f → ctxGone s f = none → readRefusal s f (f.aux % 2048 + 1) = none → s.stepSt.vacate = none →
      (x.state = 1 ∨ x.state = 2) → (∀ j, j ≤ f.aux % 2048 → MoveOk s (f.addr / 4096 + j)) →
      Runs (.getReq p) s (fun t => Took s t p k f ∧ Expects t n f ∧ t.cores = s.cores ∧ t.cmds = s.cmds ∧ t.mem = s.mem ∧
        ∀ j, j ≤ f.aux % 2048 → ∃ i ∈ t.fab.sendq, i.frame.typ = 0x04 ∧ i.frame.dst = f.src ∧ i.frame.opid = f.opid ∧
          i.frame.index = j ∧ i.frame.last = (j == f.aux % 2048) ∧
          i.frame.data = crateData (crateTag s.mem (f.addr / 4096 + j)) (crateBytes s.mem (f.addr / 4096 + j)))) ∧
    (∀ o place slot, NextFrame s p 0x04 k f → getHeld s f = false → ctxGone s f = none → getOp s f.opid = some o → o.dir = 1 →
      o.chip = f.src → getPlace s o f.index = some (place, slot) → FrameOk f → Plain s.mem place → Writable s.mem →
      (∀ c b, slot = some (c, b) → (post (getCore s c) b).isSome = true) →
      Runs (.getData p) s (fun t => Took s t p k f ∧ Expects t n f ∧ t.cmds = s.cmds ∧
        WroteCrate s.mem t.mem place (framePayload f) (frameTag f) ∧
        (o.left ≤ 1 → getOp t f.opid = none) ∧
        (1 < o.left → getOp t f.opid = some { o with left := o.left - 1, written := o.written ++ [place] }))) ∧
    (NextFrame s p 0x05 k f → ctxGone s f = none → tallyOk s f.dctx (f.addr % 2 ^ 16) = true → getOp s f.opid = none →
      Runs (.tallyAddFrame p) s (fun t => Took s t p k f ∧ Expects t n f ∧ t.cores = s.cores ∧ t.cmds = s.cmds ∧ t.mem = s.mem ∧
        t.tallies = (addTally s (f.addr % 2 ^ 16) (f.aux % 2 ^ 48)).tallies)) ∧
    (NextFrame s p 0x07 k f → (f.aux / 2 ^ 8 % 2 ^ 8 = 0x01 ∨ f.aux / 2 ^ 8 % 2 ^ 8 = 0x02) → crateRefusal s f = none →
      Plain s.mem (f.addr / 4096) → Writable s.mem →
      Runs (.void p) s (fun t => Took s t p k f ∧ Expects t n f ∧ t.cores = s.cores ∧ t.cmds = s.cmds ∧
        Tag.poisoned (crateTag t.mem (f.addr / 4096)) = true ∧
        crateBytes t.mem (f.addr / 4096) = crateBytes s.mem (f.addr / 4096) ∧
        SameCrates s.mem t.mem (fun j => j = f.addr / 4096)))

/-- Order on a channel (11/R372, R373): a sequenced frame whose number was passed already has no effect but an ACK of the
number expected, and so for every sequenced type. ERROR, REVOKE, REVOKE_ACK, BIND and BIND_REPLY in order (11/R376,
R378, R379, 10/R341): an ERROR fails the transfer it names: the launch that issued it stops with CORE_MOVE_FAULT, or,
no longer running, leaves its queue a pending failure; a REVOKE forgets the peer's contexts and is acknowledged; its
acknowledgement is taken off the context that waits; a BIND of a seed that one enabled context has binds the peer and
is answered with it, and any other is refused; a BIND_REPLY makes the binding known and lets the frames that wait for
it go. Where the rules leave a corner open it takes the model's reading (log entries 19, 22 and 46). -/
def Obligations.FramesReceived : Prop :=
  (∀ s p k f n x c typ, NextFrame s p typ k f → sessionOf s f.src = some n → getSession s n = some x → x.rxSid = some f.sid →
    f.ch < 4 → x.chans.length = 4 →
    (2 ^ 32 + (chanOf x f.ch).expect - f.seq) % 2 ^ 32 ≠ 0 → (2 ^ 32 + (chanOf x f.ch).expect - f.seq) % 2 ^ 32 ≤ 2 ^ 31 →
    (typ = 0x01 ∧ c = .put p ∨ typ = 0x02 ∧ c = .accPut p ∨ typ = 0x03 ∧ c = .getReq p ∨ typ = 0x05 ∧ c = .tallyAddFrame p ∨
      typ = 0x07 ∧ c = .void p ∨ typ = 0x08 ∧ c = .error p ∨ typ = 0x09 ∧ c = .revoke p ∨ typ = 0x0A ∧ c = .revokeAck p ∨
      typ = 0x0B ∧ c = .bind p ∨ typ = 0x0C ∧ c = .bindReply p) →
    Runs c s (fun t => t = { s with fab := t.fab, out := t.out } ∧ Took s t p k f ∧ t.fab.ops = s.fab.ops ∧
      t.fab.binds = s.fab.binds ∧ t.fab.peers = s.fab.peers ∧
      ∃ i, t.fab.sendq = s.fab.sendq ++ [i] ∧ i.frame.typ = 0x10 ∧ i.frame.dst = f.src ∧ i.frame.ch = f.ch ∧
        i.frame.seq = (chanOf x f.ch).expect)) ∧
  (∀ s p k f n x, InOrder s f n x →
    (∀ o core id typ reason, NextFrame s p 0x08 k f → typ = f.aux / 2 ^ 16 % 2 ^ 8 → reason = f.aux % 2 ^ 8 → typ ≠ 0x0B → typ ≠ 0x06 →
      typ ≠ 0x04 → getOp s f.opid = some o → o.chip = f.src → o.owner = .porter core id →
      f.aux / 2 ^ 8 % 2 ^ 8 ≠ 0x27 → f.aux / 2 ^ 8 % 2 ^ 8 ≠ 0x28 →
      Runs (.error p) s (fun t => Took s t p k f ∧ Expects t n f ∧ getOp t f.opid = none ∧
        (launchRuns s core o.launch = true → (getCore t core).run = 3 ∧
          (getCore t core).moveFault = { valid := true, station := 4, index := o.index, reason }) ∧
        (launchRuns s core o.launch = false → (getQueue t o.queue).fails = (getQueue s o.queue).fails ++ [reason]))) ∧
    (NextFrame s p 0x09 k f → (x.state = 1 ∨ x.state = 2) →
      s.fab.binds.filter (fun b => b.chip == f.src && b.state == 1 && b.dctx == f.aux % 2 ^ 8 && b.dgen == f.aux / 2 ^ 16 % 2 ^ 16) = [] →
      Runs (.revoke p) s (fun t => t = { s with fab := t.fab, out := t.out, ctxs := t.ctxs } ∧ Took s t p k f ∧ Expects t n f ∧
        t.fab.peers = s.fab.peers.filter (fun q => !(q.chip == f.src && q.pctx == f.aux % 2 ^ 8 && q.pgen == f.aux / 2 ^ 16 % 2 ^ 16)) ∧
        ∃ i ∈ t.fab.sendq, i.frame.typ = 0x0A ∧ i.frame.dst = f.src ∧ i.frame.opid = f.opid ∧ i.frame.aux = f.aux)) ∧
    (∀ m c, NextFrame s p 0x0A k f → s.ctxs.find? (fun c => c.2.state == 3 && c.2.peers.contains (f.src, f.opid)) = some (m, c) →
      getCtx s m = c →
      Runs (.revokeAck p) s (fun t => t = { s with fab := t.fab, out := t.out, ctxs := t.ctxs } ∧ Took s t p k f ∧ Expects t n f ∧
        (getCtx t m).peers = c.peers.filter (fun q => q != (f.src, f.opid)) ∧ (getCtx t m).state = 3)) ∧
    (∀ m c, NextFrame s p 0x0B k f → (x.state = 1 ∨ x.state = 2) →
      s.ctxs.filter (fun c => c.2.state == 2 && c.2.seed.toNat == f.aux && f.aux != 0) = [(m, c)] →
      ((getCtx s f.dctx).state ≠ 2 ∨ (getCtx s f.dctx).gen ≠ f.dgen) →
      Runs (.bind p) s (fun t => t = { s with fab := t.fab, out := t.out } ∧ Took s t p k f ∧ Expects t n f ∧
        { chip := f.src, pctx := f.index % 2 ^ 8, pgen := f.index / 2 ^ 16 % 2 ^ 16, ctx := m, gen := c.gen } ∈ t.fab.peers ∧
        ∃ i ∈ t.fab.sendq, i.frame.typ = 0x0C ∧ i.frame.dst = f.src ∧ i.frame.opid = f.opid ∧ i.frame.aux = m + c.gen * 2 ^ 16)) ∧
    (NextFrame s p 0x0B k f → (x.state = 1 ∨ x.state = 2) →
      s.ctxs.filter (fun c => c.2.state == 2 && c.2.seed.toNat == f.aux && f.aux != 0) = [] →
      ((getCtx s f.dctx).state ≠ 2 ∨ (getCtx s f.dctx).gen ≠ f.dgen) →
      Runs (.bind p) s (fun t => t = { s with fab := t.fab, out := t.out } ∧ Took s t p k f ∧ Expects t n f ∧ t.fab.peers = s.fab.peers ∧
        ∃ i ∈ t.fab.sendq, i.frame.typ = 0x08 ∧ i.frame.dst = f.src ∧ i.frame.opid = f.opid ∧
          i.frame.aux = 0x63 + 0x20 * 2 ^ 8 + 0x0B * 2 ^ 16)) ∧
    (∀ b, NextFrame s p 0x0C k f → s.fab.binds.find? (fun b => b.opid == f.opid && b.chip == f.src && b.state == 0) = some b →
      Runs (.bindReply p) s (fun t => t = { s with fab := t.fab, out := t.out, ctxs := t.ctxs } ∧ Took s t p k f ∧ Expects t n f ∧
        (∀ y ∈ t.fab.binds, y.ctx = b.ctx → y.gen = b.gen → y.chip = b.chip →
          y.state = 1 ∧ y.dctx = f.aux % 2 ^ 8 ∧ y.dgen = f.aux / 2 ^ 16 % 2 ^ 16) ∧
        (∀ i ∈ s.fab.bindq, i.ctx = some (b.ctx, b.gen) → i.frame.dst = b.chip →
          { i with frame := { i.frame with dctx := f.aux % 2 ^ 8, dgen := f.aux / 2 ^ 16 % 2 ^ 16 } } ∈ t.fab.sendq) ∧
        ∀ i ∈ t.fab.bindq, ¬ (i.ctx = some (b.ctx, b.gen) ∧ i.frame.dst = b.chip))))

/-! ### Sessions, ports and time -/

/-- Sessions (11/R368-R374): an ACK releases what it acknowledges and clears the retries; a NAK and a timeout send every
unacknowledged frame from theirs on again, ahead of new ones; an ACK timer acknowledges what completed; an OPEN
installs the receive half with its four numbers and is answered; an OPEN_ACK of the SID sent opens the half; an OPEN
that is not answered is repeated, and after sixteen the half is closed. Where the rules leave a corner open it takes
the model's reading (log entries 19, 22 and 41). -/
def Obligations.Sessions : Prop :=
  (∀ s p k f n x, NextFrame s p 0x10 k f → sessionOf s f.src = some n → getSession s n = some x → x.sid = f.sid → x.state = 2 →
    f.ch < 4 → x.chans.length = 4 →
    (∃ u ∈ (chanOf x f.ch).unacked, seqLe ((u.frame.seq + frameSpan u.frame) % 2 ^ 32) f.seq = true) →
    Runs (.ack p) s (fun t => Took s t p k f ∧ t.cmds = s.cmds ∧ t.mem = s.mem ∧ ∃ y, getSession t n = some y ∧ y.retries = 0 ∧
      (chanOf y f.ch).unacked = (chanOf x f.ch).unacked.filter (fun u => !seqLe ((u.frame.seq + frameSpan u.frame) % 2 ^ 32) f.seq) ∧
      (chanOf y f.ch).next = (chanOf x f.ch).next)) ∧
  (∀ s p k f n x, NextFrame s p 0x11 k f → sessionOf s f.src = some n → getSession s n = some x → x.sid = f.sid → x.state = 2 →
    (chanOf x f.ch).unacked ≠ [] → x.retries < 15 →
    Runs (.nak p) s (fun t => t = { s with fab := t.fab, out := t.out } ∧ Took s t p k f ∧
      (∃ y, getSession t n = some y ∧ y.retries = x.retries + 1 ∧ y.state = 2) ∧
      ∃ rest, t.fab.sendq = (((chanOf x f.ch).unacked.filter (fun u => seqLe f.seq u.frame.seq)).map
        (fun u => ({ frame := u.frame, ctx := u.ctx, op := u.op, resend := true } : Item))) ++ rest)) ∧
  (∀ s peer ch n x u us, sessionOf s peer = some n → getSession s n = some x → x.state = 2 → (chanOf x ch).unacked = u :: us →
    x.retries < 15 →
    Runs (.retransmitTimeout peer ch) s (fun t => t = { s with fab := t.fab } ∧
      (∃ y, getSession t n = some y ∧ y.retries = x.retries + 1 ∧ y.state = 2) ∧
      ∃ rest, t.fab.sendq = (((u :: us).filter (fun v => seqLe u.frame.seq v.frame.seq)).map
        (fun u => ({ frame := u.frame, ctx := u.ctx, op := u.op, resend := true } : Item))) ++ rest)) ∧
  (∀ s peer ch n x, sessionOf s peer = some n → getSession s n = some x → (chanOf x ch).doneSince ≠ 0 → ch < 4 → x.chans.length = 4 →
    Runs (.ackTimer peer ch) s (fun t => t = { s with fab := t.fab } ∧
      (∃ y, getSession t n = some y ∧ (chanOf y ch).doneSince = 0 ∧ (chanOf y ch).expect = (chanOf x ch).expect) ∧
      ∃ i, t.fab.sendq = s.fab.sendq ++ [i] ∧ i.frame.typ = 0x10 ∧ i.frame.dst = peer ∧ i.frame.ch = ch ∧
        i.frame.seq = (chanOf x ch).expect)) ∧
  (∀ s p k f n, NextFrame s p 0x12 k f → sessionOf s f.src = none → freeSession s = some n →
    Runs (.openReq p) s (fun t => t = { s with fab := t.fab, out := t.out } ∧ Took s t p k f ∧
      (∃ y, getSession t n = some y ∧ y.peer = f.src ∧ y.rxSid = some f.sid ∧ (chanOf y 0).expect = f.seq ∧
        (chanOf y 1).expect = f.opid ∧ (chanOf y 2).expect = f.index ∧ (chanOf y 3).expect = f.aux % 2 ^ 32) ∧
      ∃ i, t.fab.sendq = s.fab.sendq ++ [i] ∧ i.frame.typ = 0x13 ∧ i.frame.dst = f.src ∧ i.frame.sid = f.sid)) ∧
  (∀ s p k f n x, NextFrame s p 0x13 k f → sessionOf s f.src = some n → getSession s n = some x → x.state = 1 → x.sid = f.sid →
    Runs (.openAck p) s (fun t => t = { s with fab := t.fab, out := t.out } ∧ Took s t p k f ∧
      getSession t n = some { x with state := 2 })) ∧
  (∀ s peer n x, sessionOf s peer = some n → getSession s n = some x → x.state = 1 → x.opens < 16 →
    Runs (.openRetry peer) s (fun t => t = { s with fab := t.fab } ∧ getSession t n = some { x with opens := x.opens + 1 } ∧
      t.fab.sendq = s.fab.sendq ++ [{ frame := openFrame s x }])) ∧
  (∀ s peer n x, sessionOf s peer = some n → getSession s n = some x → x.state = 1 → 16 ≤ x.opens →
    Runs (.openRetry peer) s (fun t => ∃ y, getSession t n = some y ∧ y.state = 0 ∧ sessUnacked y = []))

/-- Ports (11/R354, R355, R381, R382, R386): an enable of an owned module's powered port starts its training and any other
is refused with its reason; a trained port tells its far end by DISCOVERY and comes up when one arrives; a lost or
disabled port carries nothing more; a failed lane retires, and with fewer than eight the port is out of service. Time
transfer (11/R383, R384): a request leaves at its timestamp; a response answers with both times; the requester takes
half the round trip, less the far turnaround, and the port's asymmetry as the delay. Where the rules leave a corner
open it takes the model's reading (log entries 21 and 22). -/
def Obligations.PortsAndTime : Prop :=
  (∀ s p (v : W64), hostOpen s = true → p < 48 → rbit v 63 = true → portEnabled (getPort s p) = false →
    Runs (.portEnable p v) s (fun t => t = { s with fab := { s.fab with ports := t.fab.ports } } ∧
      (∀ q, q ≠ p → getPort t q = getPort s q) ∧
      (portOff s p = true → (getPort t p).reason = 0x69 ∧ portEnabled (getPort t p) = false) ∧
      (portOff s p = false → owned s = false → (getPort t p).reason = 0x2B ∧ portEnabled (getPort t p) = false) ∧
      (portOff s p = false → owned s = true → portEnabled (getPort t p) = true ∧
        (getPort t p).state = if (getPort s p).state = 0 then 1 else (getPort s p).state))) ∧
  (∀ s p (v : W64), hostOpen s = true → p < 48 → rbit v 63 = false → portEnabled (getPort s p) = true → (getPort s p).state ≠ 4 →
    Runs (.portDisable p v) s (fun t => t = { s with fab := t.fab } ∧ portEnabled (getPort t p) = false ∧
      (getPort t p).state = 0 ∧ (getPort t p).trained = false ∧ (∀ q, q ≠ p → getPort t q = getPort s q))) ∧
  (∀ s p lanes, (getPort s p).state = 1 → (getPort s p).retired = 0 → laneCount (Nat.land lanes 511) = 8 →
    Runs (.portTrainingDone p true 0 lanes) s (fun t => t = { s with fab := t.fab } ∧ (getPort t p).trained = true ∧
      (getPort t p).lanes = Nat.land lanes 511 ∧ (getPort t p).state = 1 ∧
      ∃ i, t.fab.sendq = s.fab.sendq ++ [i] ∧ i.frame.typ = 0x16 ∧ i.port = some p)) ∧
  (∀ s p failed lanes, (getPort s p).state = 1 →
    Runs (.portTrainingDone p false failed lanes) s (fun t => (getPort t p).state = 0 ∧ (getPort t p).lanes = 0)) ∧
  (∀ s p, portEnabled (getPort s p) = true → (getPort s p).state = 0 → (getPort s p).trained = false →
    Runs (.portTrainingRetry p) s (fun t => t = { s with fab := { s.fab with ports := t.fab.ports } } ∧
      getPort t p = { getPort s p with state := 1 } ∧ ∀ q, q ≠ p → getPort t q = getPort s q)) ∧
  (∀ s p, (getPort s p).trained = true →
    Runs (.portLinkLost p) s (fun t => t = { s with fab := t.fab } ∧ (getPort t p).state = 0 ∧ (getPort t p).trained = false ∧
      (getPort t p).lanes = 0 ∧ (getPort t p).credits = [1920, 1920, 1920, 1920, 128, 128, 128, 128] ∧
      ∀ q, q ≠ p → getPort t q = getPort s q)) ∧
  (∀ s p, (getPort s p).trained = true →
    Runs (.discoverySend p) s (fun t => t = { s with fab := t.fab } ∧
      t.fab.sendq = s.fab.sendq ++ [{ frame := discoveryFrame s p, port := some p }])) ∧
  (∀ s p, (getPort s p).state = 2 →
    Runs (.discoveryTimeout p) s (fun t => t = { s with fab := t.fab } ∧ (getPort t p).state = 0 ∧ (getPort t p).trained = true ∧
      ∀ q, q ≠ p → getPort t q = getPort s q)) ∧
  (∀ s p k f x, NextFrame s p 0x16 k f → x = getPort s p → x.farResets = none → x.trained = true → (x.state = 0 ∨ x.state = 1) →
    Runs (.discovery p) s (fun t => Took s t p k f ∧ (getPort t p).state = 2 ∧ (getPort t p).farPort = f.aux % 256 ∧
      (getPort t p).farSerial = BitVec.ofNat 64 f.addr ∧ (getPort t p).farChip = f.aux / 2 ^ 24 % 2 ^ 15 ∧
      (getPort t p).farValid = Word.bitOf f.aux 39 ∧ (getPort t p).farResets = some f.index ∧
      (getPort t p).miswired = isMiswired s p (f.aux / 2 ^ 8 % 256) (f.aux % 256) ∧ t.fab.sessions = s.fab.sessions)) ∧
  (∀ s p lane, lane < 9 → (getPort s p).trained = true → Word.bitOf (getPort s p).retired lane = false →
    Runs (.fabricLaneRetire p lane) s (fun t => (getPort t p).retired = (getPort s p).retired + 2 ^ lane ∧ (getPort t p).trained = false ∧
      t.mem.cells = s.mem.cells ∧ t.cores = s.cores ∧ t.cmds = s.cmds ∧
      (getPort t p).state = if laneCount (511 - ((getPort s p).retired + 2 ^ lane)) < 8 then 4 else 1)) ∧
  (∀ s p, ((getPort s p).credits.getD 0 0 = 0 ∨ (getPort s p).credits.getD 1 0 = 0 ∨ (getPort s p).credits.getD 2 0 = 0 ∨
      (getPort s p).credits.getD 3 0 = 0) →
    Runs (.portBackpressure p true) s (fun t => t = { s with fab := { s.fab with ports := t.fab.ports }, events := t.events } ∧
      getPort t p = { getPort s p with backpressure := true } ∧ ∀ q, q ≠ p → getPort t q = getPort s q)) ∧
  (∀ s p, Runs (.portBackpressure p false) s (fun t => t = { s with fab := { s.fab with ports := t.fab.ports } } ∧
      getPort t p = { getPort s p with backpressure := false } ∧ ∀ q, q ≠ p → getPort t q = getPort s q)) ∧
  (∀ s p tx, portUp s p = true →
    Runs (.timeExchange p tx) s (fun t => t = { s with fab := t.fab } ∧ getPort t p = { getPort s p with t1 := some tx } ∧
      { frame := timeFrame 1 tx 0, port := some p } ∈ t.fab.sendq ∧
      (rbit (getPort s p).cfg 0 = false → { frame := timeFrame 3 tx 0, port := some p } ∈ t.fab.sendq))) ∧
  (∀ s p rx tx k f, NextFrame s p 0x15 k f → f.opid = 1 →
    Runs (.time p rx tx) s (fun t => t = { s with fab := t.fab, out := t.out } ∧ Took s t p k f ∧
      t.fab.sendq = s.fab.sendq ++ [{ frame := timeFrame 2 tx rx, port := some p }])) ∧
  (∀ s p rx tx k f t1, NextFrame s p 0x15 k f → f.opid = 2 → (getPort s p).t1 = some t1 →
    Runs (.time p rx tx) s (fun t => t = { s with fab := { s.fab with ports := t.fab.ports }, out := t.out } ∧ Took s t p k f ∧
      (getPort t p).t1 = none ∧
      (getPort t p).delay = some ((((rx : Int) - t1) - (((f.addr * 65536 + f.index % 65536 : Nat) : Int)
        - ((f.aux * 65536 + f.index / 65536 % 65536 : Nat) : Int))) / 2 + asymUnits (getPort s p))))

/-! ### Steps -/

/-- STEP_DIR_ENABLE, STEP_DIR_DISABLE and STEP_CONFIG (14/R433-R435, R441, R444, R459): a directory that no condition
refuses comes into force with nothing kept; without a training context it is refused with 0x24; a disable while a
record is kept is refused with 0x1D; the configuration is taken while nothing is kept, and refused with 0x83 else.
Where the rules leave a corner open it takes the model's reading (log entry 43). -/
def Obligations.StepDirectory : Prop :=
  (∀ s (v : W64), hostOpen s = true → rbit v 63 = true → dirOn s = false →
    (trainingCtx s = none → Runs (.stepDirEnable v) s (fun t =>
      t = { s with stepSt := { s.stepSt with dirReg := rset 0#64 48 12 (rbits v 48 12), dirReason := 0x24 } } ∧ dirOn t = false)) ∧
    (∀ c base, trainingCtx s = some c → base = rbits v 48 12 → refuse s .image (getCtx s c).part (base * 4096) = none →
      CrateOk s base → dirRefusal s (getCtx s c).part (crateBytes s.mem base) = none →
      Runs (.stepDirEnable v) s (fun t => t = { s with stepSt := { s.stepSt with
        dirReg := rset (rset 0#64 48 12 base) 63 63 1, dirReason := 0, dir := dirOf (crateBytes s.mem base), syncOwed := true
        act := 0, recs := []
        mirrors := [{ valid := true, client := Nat.xor (ownStall s) 1 },
          if s.stepSt.mirror2 then { valid := true, client := Nat.xor (ownStall s) 2 } else {}] } } ∧ dirOn t = true))) ∧
  (∀ s (v : W64), hostOpen s = true → rbit v 63 = false → dirOn s = true →
    (s.stepSt.recs ≠ [] → Runs (.stepDirDisable v) s (fun t => t = { s with stepSt := { s.stepSt with dirReason := 0x1D } })) ∧
    (s.stepSt.recs = [] → Runs (.stepDirDisable v) s (fun t =>
      t = { s with mem := { s.mem with cow := none }, stepSt := { s.stepSt with
        dirReg := rset 0#64 48 12 (rbits v 48 12), dirReason := 0, act := 0, mirrors := [{}, {}] } } ∧ dirOn t = false))) ∧
  (∀ s slot c d, IsBegun s slot 0x0507 c → fromTraining s c = true → d = Pkt.p1 c.packet % 256 → d ≤ 3 →
    (s.stepSt.recs = [] → Runs (.stepConfig slot) s (fun t => t = { s with cmds := endedCmds s slot {}, stepSt := { s.stepSt with
      mirror2 := Word.bitOf (Pkt.p0 c.packet) 0, narrow := Word.bitOf (Pkt.p0 c.packet) 1, d := d - 1 } })) ∧
    (s.stepSt.recs ≠ [] → (∀ e ∈ queueCmds s c.queue, e.ord ≤ c.ord) →
      Runs (.stepConfig slot) s (fun t => StepRefused s t slot 2 0x83)))

/-- STEP_BEGIN (14/R441-R443): from the training context and with a directory in force, a step whose record slot is free
opens its record with the step's number and time, and the step open before it ends; a step whose slot holds a faulted
step is refused with 0x82; one that no step or not the next step is is refused with 0x80; a step waits while a cross-
weigh holds the seal. Where the rules leave a corner open it takes the model's reading (log entry 43). -/
def Obligations.StepBegins : Prop :=
  ∀ s slot c n, IsBegun s slot 0x0501 c → n = Pkt.p0 c.packet → fromTraining s c = true →
    (∀ d ∈ queueCmds s c.queue, d.ord ≤ c.ord) →
    (s.stepSt.recs ≠ [] → n ≠ s.stepSt.cur + 1 → Runs (.stepBegin slot) s (fun t => StepRefused s t slot 2 0x80)) ∧
    ((s.stepSt.recs = [] ∨ n = s.stepSt.cur + 1) →
      (dirOn s = false → Runs (.stepBegin slot) s (fun t => StepRefused s t slot 2 0x81)) ∧
      (dirOn s = true → s.stepSt.replay = none → s.stepSt.takeover = none →
        (s.stepSt.recs.find? (fun r => r.step + deadline s + 1 == n) = none → (∀ core, CoreQuiet s core) →
          Runs (.stepBegin slot) s (fun t => t.stepSt.cur = n ∧ t.stepSt.act = 1 ∧ t.cores = s.cores ∧ t.queues = s.queues ∧
            t.tallies = s.tallies ∧ t.cmds = endedCmds s slot {} ∧
            (∃ r ∈ t.stepSt.recs, r.step = n ∧ r.slot = slotOfStep s n ∧ r.state = 1 ∧ r.beginT = s.time ∧
              r.seed = (getCtx s (stepCg s).1).seed) ∧
            ∀ q, openRec s = some q → q.step ≠ n → q.slot ≠ slotOfStep s n →
              ∃ r ∈ t.stepSt.recs, r.step = q.step ∧ r.state = 2 ∧ r.endT = s.time)) ∧
        (∀ r w, s.stepSt.recs.find? (fun r => r.step + deadline s + 1 == n) = some r → s.stepSt.weigh = some w → w.step = r.step →
          Runs (.stepBegin slot) s (fun t => t = s)) ∧
        (∀ r, s.stepSt.recs.find? (fun r => r.step + deadline s + 1 == n) = some r → s.stepSt.weigh = none → r.fault ≠ 0 →
          Runs (.stepBegin slot) s (fun t => t = { s with mem := t.mem, stepSt := t.stepSt, queues := t.queues
                                                          cmds := endedCmds s slot { cls := 3, reason := 0x82 } } ∧
            t.stepSt.reason = 0x82 ∧ t.stepSt.cur = s.stepSt.cur ∧ ∃ q ∈ t.stepSt.recs, q.step = r.step ∧ q.state = 4))))

/-- STEP_REPLAY and REPLAY_DRAIN_TIMEOUT (14/R439, R448): a replay of the open step gives every preserved crate of the
shard its preserved value back and leaves every other crate of it as it is; a replay waits for the context's frames,
and goes on once they have been silent; a step that is not kept is refused with 0x81, one not yet begun with 0x80.
CROSS_WEIGH and CROSS_WEIGH_OUTCOME (08/R251, R252): a cross-weigh of a kept step of this stall or of its buddy begins
and holds the seal; one of another stall is refused with 0x03, and of a step not kept with 0xFD; three equal digest
sets end it with result 1 and nothing charged, and any other row is recorded, raises 0xE5 and charges the step. Where
the rules leave a corner open it takes the model's reading (log entries 43 and 44). -/
def Obligations.ReplaysAndWeighs : Prop :=
  (∀ s slot c u, IsBegun s slot 0x0502 c → u = Pkt.p0 c.packet → fromTraining s c = true → s.stepSt.replay = none →
    s.stepSt.takeover = none → (∀ l ∈ s.launches, l.2.ctx ≠ (stepCg s).1) → collRunning s (stepCg s).1 = false →
    (∀ r, s.stepSt.recs = [r] → r.step = u → r.state ≠ 5 → s.stepSt.cur = u → s.stepSt.sealedStep < u → r.slot = slotOfStep s u →
      silentPeers s (stepCg s).1 (stepCg s).2 = [] → Writable s.mem →
      (∀ o p, o < s.stepSt.dir.shard → p < s.stepSt.dir.shard → shardCrate s o = shardCrate s p → o = p) →
      (∀ o, o < s.stepSt.dir.shard → shardCrate s o < recordHeader s r.slot ∨
        recSaved s r.slot + s.stepSt.dir.shard ≤ shardCrate s o) →
      Runs (.stepReplay slot) s (fun t => t.stepSt.replay = none ∧ t.stepSt.cur = u - 1 ∧ t.stepSt.act = 1 ∧ t.queues = s.queues ∧
        t.tallies = s.tallies ∧ t.cmds = endedCmds s slot {} ∧
        t.stepSt.recs = [{ r with state := 1, fault := 0, acked := [], resent := [] }] ∧
        ∀ o, o < s.stepSt.dir.shard →
          crateBytes t.mem (shardCrate s o) = crateBytes s.mem (if recBit s r.slot o then recSaved s r.slot + o else shardCrate s o) ∧
          crateTag t.mem (shardCrate s o) = crateTag s.mem (if recBit s r.slot o then recSaved s r.slot + o else shardCrate s o))) ∧
    (∀ r ∈ s.stepSt.recs, r.step = u → u ≤ s.stepSt.cur → silentPeers s (stepCg s).1 (stepCg s).2 ≠ [] →
      Runs (.stepReplay slot) s (fun t => t = { s with cores := t.cores, stepSt := { s.stepSt with replay := some (slot, u, true), act := 2 } } ∧
        ∀ core, (getCore t core).launch = (getCore s core).launch)) ∧
    ((∀ d ∈ queueCmds s c.queue, d.ord ≤ c.ord) → (∀ r ∈ s.stepSt.recs, r.step ≠ u) →
      (s.stepSt.sealedStep < u → u ≤ s.stepSt.cur → Runs (.stepReplay slot) s (fun t => StepRefused s t slot 2 0x81)) ∧
      (s.stepSt.cur < u → Runs (.stepReplay slot) s (fun t => StepRefused s t slot 2 0x80)))) ∧
  (∀ s slot u c, s.stepSt.replay = some (slot, u, true) → findCmd s slot = some c → c.gather = [] →
    (∀ d ∈ s.cmds, d.slot = slot → d = c) →
    Runs .replayDrainTimeout s (fun t => t.stepSt.replay = none ∧ t.stepSt.cur = u - 1 ∧ t.stepSt.act = 1 ∧ t.cores = s.cores ∧
      t.queues = s.queues ∧ t.tallies = s.tallies ∧ t.cmds = endedCmds s slot {} ∧ ∀ r ∈ t.stepSt.recs, r.step ≤ u)) ∧
  (∀ s slot c n subject, IsBegun s slot 0x0503 c → fromTraining s c = true → s.stepSt.weigh = none → n = Pkt.p0 c.packet →
    subject = Pkt.p1 c.packet % 32 →
    ((subject = ownStall s ∧ (∃ r, s.stepSt.recs.find? (fun r => r.step == n) = some r ∧ r.state ≠ 5)
        ∨ subject ≠ ownStall s ∧ Nat.xor subject 1 = ownStall s) →
      Runs (.crossWeigh slot) s (fun t => t = { s with stepSt := { s.stepSt with
        weigh := some { cmd := slot, step := n, layer := Pkt.p1 c.packet / 2 ^ 16 % 2 ^ 16, subject } } })) ∧
    ((∀ d ∈ queueCmds s c.queue, d.ord ≤ c.ord) →
      (subject ≠ ownStall s → Nat.xor subject 1 ≠ ownStall s → Runs (.crossWeigh slot) s (fun t => StepRefused s t slot 2 0x03)) ∧
      (subject = ownStall s → (∀ r ∈ s.stepSt.recs, r.step ≠ n) → Runs (.crossWeigh slot) s (fun t => StepRefused s t slot 2 0xFD)))) ∧
  (∀ s slot w o sb b o' c, s.stepSt.weigh = some w → w.cmd = slot → findCmd s slot = some c → c.gather = [] →
    (∀ d ∈ s.cmds, d.slot = slot → d = c) →
    o' = (if w.subject = ownStall s then (match s.stepSt.recs.find? (fun r => r.step == w.step) with
      | some r => layerDigests s r w.layer
      | none => o) else o) →
    (sb = b → o' = sb → Runs (.crossWeighOutcome slot o sb b) s (fun t =>
      t = { s with stepSt := { s.stepSt with weigh := none }, ledger := t.ledger, cmds := endedCmds s slot { result := 1 } } ∧
      Recorded s t 0x21 0)) ∧
    (weighRow o' sb b ≠ 1 → Runs (.crossWeighOutcome slot o sb b) s (fun t =>
      t = { s with mem := t.mem, stepSt := t.stepSt, events := t.events, ledger := t.ledger
                   cmds := endedCmds s slot { result := weighRow o' sb b } } ∧
      t.stepSt.weigh = none ∧
      ∀ r ∈ t.stepSt.recs, w.step ≤ r.step → (r.state = 1 ∨ r.state = 2) → r.fault ≠ 0)))

/-- CHECKPOINT and CHECKPOINT_COMMIT (14/R454, R455, R462): a checkpoint that nothing refuses is staged at the buddy and
is complete, with the next generation as its result, once the buddy has it all; one that cannot be delivered ends with
class 4; a second one before a commit is refused with 0x87; a commit makes the staged generation the committed one.
TAKEOVER and HOLDER_TIMEOUT (14/R451-R453): a takeover that nothing refuses on a spare names the stall's logical chip
its own and asks the source for all it needs; a second takeover since reset ends with 0x89; when the first holder is
silent the second is asked, and when there is none the takeover ends with class 3 and 0x85. Where the rules leave a
corner open it takes the model's reading (log entries 43 and 44). -/
def Obligations.CheckpointsAndTakeovers : Prop :=
  (∀ s slot c k, IsBegun s slot 0x0504 c → k = s.stepSt.ckpt → fromTraining s c = true →
    (∀ d ∈ queueCmds s c.queue, d.ord ≤ c.ord) →
    (Pkt.p0 c.packet % 256 = 0x80 →
      (k.state = 2 → Runs (.checkpointCommit slot) s (fun t =>
        t = { s with cmds := endedCmds s slot { result := k.gen + 1 }, stepSt := { s.stepSt with ckpt := { k with
          gen := k.gen + 1, state := 0, trigger := 0x80, reason := 0
          changed := k.changed.filter (fun r => !k.carried.contains r), carried := [] } } })) ∧
      (k.state ≠ 2 → Runs (.checkpointCommit slot) s (fun t =>
        t = { s with cmds := endedCmds s slot { cls := 2, reason := 0x03 }, queues := t.queues
                     stepSt := { s.stepSt with reason := 0x03, ckpt := { k with reason := 0x03 } } }))) ∧
    (1 ≤ Pkt.p0 c.packet % 256 → Pkt.p0 c.packet % 256 ≤ 5 → dirOn s = true → s.stepSt.dir.ckpt ≠ 0 →
      (k.cmd ≠ some slot → k.state ≠ 1 → k.state ≠ 2 →
        Runs (.checkpoint slot) s (fun t => t = { s with fab := t.fab, freeCtr := t.freeCtr, mem := t.mem, events := t.events
                                                         stepSt := { s.stepSt with act := 5, ckpt := t.stepSt.ckpt } } ∧
          t.stepSt.ckpt.cmd = some slot ∧ t.stepSt.ckpt.trigger = Pkt.p0 c.packet % 256 ∧ t.stepSt.ckpt.gen = k.gen ∧
          (t.stepSt.ckpt.state = 1 ∨ t.stepSt.ckpt.state = 3) ∧ SameCrates s.mem t.mem (fun _ => False))) ∧
      (k.cmd ≠ some slot → k.state = 1 ∨ k.state = 2 →
        Runs (.checkpoint slot) s (fun t =>
          t = { s with cmds := endedCmds s slot { cls := 2, reason := 0x87 }, queues := t.queues
                       stepSt := { s.stepSt with reason := 0x87, ckpt := { k with reason := 0x87 } } })) ∧
      (k.cmd = some slot → ckptOpen s (k.gen + 1) = false →
        (k.state ≠ 3 → Runs (.checkpoint slot) s (fun t =>
          t = { s with cmds := endedCmds s slot { result := k.gen + 1 }, stepSt := { s.stepSt with
            act := Word.b2n (openRec s).isSome, ckpt := { k with cmd := none, state := 2, reason := 0 } } })) ∧
        (k.state = 3 → Runs (.checkpoint slot) s (fun t =>
          t = { s with cmds := endedCmds s slot { cls := 4, reason := k.reason }, stepSt := { s.stepSt with
            act := Word.b2n (openRec s).isSome, reason := k.reason, ckpt := { k with cmd := none } } }))))) ∧
  (∀ s slot c stall handing, IsBegun s slot 0x0506 c → fromTraining s c = true → stall = Pkt.p1 c.packet % 32 → s.stepSt.takeover = none →
    stall ≤ 15 → chipStall (ownChip s) = 16 → s.fab.chip ≠ none → s.stepSt.replay = none → dirOn s = true →
    (s.stepSt.took = false → Runs (.takeover slot handing) s (fun t =>
      t = { s with substs := t.substs, fab := t.fab, freeCtr := t.freeCtr
                   stepSt := { s.stepSt with act := 3, takeover := t.stepSt.takeover, takeFail := t.stepSt.takeFail } } ∧
      t.stepSt.takeover = some { cmd := slot, stall, source := if handing then 2 else 0, asked := true } ∧
      ∃ i, tget {} t.substs i = { enable := true, logical := ownChip s / 32 * 32 + stall, phys := ownChip s } ∧
        ∀ j, j ≠ i → tget {} t.substs j = tget {} s.substs j)) ∧
    (s.stepSt.took = true → (∀ d ∈ queueCmds s c.queue, d.ord ≤ c.ord) →
      Runs (.takeover slot handing) s (fun t => t = { s with mem := t.mem, stepSt := t.stepSt, queues := t.queues
                                                             cmds := endedCmds s slot { cls := 3, reason := 0x89 } } ∧
        t.stepSt.reason = 0x89 ∧ t.stepSt.took = true))) ∧
  (∀ s t0 c, s.stepSt.takeover = some t0 → t0.source = 0 → findCmd s t0.cmd = some c → c.gather = [] →
    (∀ d ∈ s.cmds, d.slot = t0.cmd → d = c) → (∀ d ∈ queueCmds s c.queue, d.ord ≤ c.ord) →
    (s.stepSt.mirror2 = true → Runs .holderTimeout s (fun t => t.stepSt.takeover = some { t0 with source := 1, asked := true } ∧
      t = { s with fab := t.fab, freeCtr := t.freeCtr
                   stepSt := { s.stepSt with takeover := t.stepSt.takeover, takeFail := t.stepSt.takeFail } })) ∧
    (s.stepSt.mirror2 = false → Runs .holderTimeout s (fun t =>
      t = { s with fab := t.fab, mem := t.mem, stepSt := t.stepSt, queues := t.queues
                   cmds := endedCmds s t0.cmd { cls := 3, reason := 0x85 } } ∧
      t.stepSt.takeover = none ∧ t.stepSt.reason = 0x85)))

/-! ### Partitions, contexts and their end -/

/-- PART_CREATE, PART_ENABLE and PART_DESTROY (10/R326-R331): a partition of an allowed template whose dies no other holds
is created with its dies zeroed and the lifecycle state it was made in, and is not enabled; the enable is refused by
its state; a partition without contexts is destroyed with its apertures closed; the refusals have their reasons. Where
the rules leave a corner open it takes the model's reading (log entry 39). -/
def Obligations.Partitions : Prop :=
  (∀ s slot c t i dies p, IsBegun s slot 0x0801 c → t = Pkt.p0 c.packet % 8 → i = Word.bitsOf (Pkt.p0 c.packet) 7 4 →
    dies = instDies s t i → dies.head? = some p →
    (s.fuse.prov ≠ 3 → templAllowed s t = true → (∀ x ∈ s.parts, x.2.state ≠ 0 → ∀ d ∈ x.2.dies, d ∉ dies) →
      Runs (.partCreate slot) s (fun u =>
        u = { s with parts := u.parts, mem := u.mem, cores := u.cores, freeCtr := u.freeCtr, cmds := endedCmds s slot { result := p } } ∧
        (getPart u p).state = 2 ∧ (getPart u p).dies = dies ∧ (getPart u p).templ = t ∧ (getPart u p).inst = i ∧
        (getPart u p).life = lifecycle s ∧ (getPart u p).enable = false ∧ (∀ q, q ≠ p → getPart u q = getPart s q) ∧
        (∀ d ∈ dies, ∀ k, d * 0x1000000 ≤ k → k < (d + 1) * 0x1000000 →
          crateBytes u.mem k = zeroPayload ∧ crateTag u.mem k = Tag.zero))) ∧
    ((∀ d ∈ queueCmds s c.queue, d.ord ≤ c.ord) → ∀ r,
      (s.fuse.prov = 3 ∧ r = 0x2B ∨ s.fuse.prov ≠ 3 ∧ templAllowed s t = false ∧ r = 0x22 ∨
        s.fuse.prov ≠ 3 ∧ templAllowed s t = true ∧ (∃ x ∈ s.parts, x.2.state ≠ 0 ∧ ∃ d ∈ x.2.dies, d ∈ dies) ∧ r = 0x23) →
      Runs (.partCreate slot) s (fun u =>
        u = { s with parts := u.parts, queues := u.queues, cmds := endedCmds s slot { cls := 2, reason := r } } ∧
        getPart u p = { getPart s p with reason := r } ∧ ∀ q, q ≠ p → getPart u q = getPart s q))) ∧
  (∀ s p (v : W64) x, hostOpen s = true → p < 8 → rbit v 63 = true → x = getPart s p → x.enable = false →
    Runs (.partEnable p v) s (fun u => u = { s with parts := u.parts } ∧ (∀ q, q ≠ p → getPart u q = getPart s q) ∧
      (x.state ≠ 2 → getPart u p = { x with reason := 0x20 }) ∧
      (x.state = 2 → x.life = lifecycle s → templAllowed s x.templ = true → getPart u p = { x with state := 3, enable := true }) ∧
      (x.state = 2 → x.life ≠ lifecycle s → getPart u p = { x with reason := 0x2B }) ∧
      (x.state = 2 → x.life = lifecycle s → templAllowed s x.templ = false → getPart u p = { x with reason := 0x22 }))) ∧
  (∀ s slot c p, IsBegun s slot 0x0802 c → p = Pkt.p0 c.packet % 8 →
    ((getPart s p).state ≠ 0 → partContexts s p = 0 →
      Runs (.partDestroy slot) s (fun u =>
        u = { s with parts := u.parts, mem := u.mem, cores := u.cores, pcie := { s.pcie with aperWin := u.pcie.aperWin }
                     cmds := endedCmds s slot {} } ∧
        getPart u p = {} ∧ (∀ q, q ≠ p → getPart u q = getPart s q) ∧
        ∀ e ∈ u.pcie.aperWin, rbit e.2 63 = true → rbits e.2 58 56 ≠ p)) ∧
    ((∀ d ∈ queueCmds s c.queue, d.ord ≤ c.ord) → ∀ r,
      ((getPart s p).state = 0 ∧ r = 0x20 ∨ (getPart s p).state ≠ 0 ∧ partContexts s p ≠ 0 ∧ r = 0x29) →
      Runs (.partDestroy slot) s (fun u => u = { s with queues := u.queues, cmds := endedCmds s slot { cls := 2, reason := r } })))

/-- CTX_CREATE, CTX_ENABLE, CTX_SET and CTX_DESTROY (10/R332-R335, R341-R343): the lowest free number becomes a context of
the partition in its next generation, with its tallies at zero; a created one is enabled; its settings change as
asked; a live one is torn down by the command that names its generation, and another generation is refused with 0x21.
The end of a context (10/R332, R342-R344): a teardown whose revokes are acknowledged, or whose peers are silent, puts
the context's number into quarantine, frees its groups and maps and puts its queues into the error state with 0x28;
the quarantine's end frees the number. Where the rules leave a corner open it takes the model's reading (log entry
39). -/
def Obligations.ContextLife : Prop :=
  (∀ s slot c part training first last n gen, IsBegun s slot 0x0803 c → part = Pkt.p0 c.packet % 8 →
    training = Word.bitOf (Pkt.p0 c.packet) 8 → first = Pkt.p1 c.packet % 2 ^ 16 → last = first + Pkt.p2 c.packet % 2 ^ 16 →
    (ctxRefusal s part training first last = none → freeCtx s = some n → gen = nextGen (getCtx s n).gen →
      Runs (.ctxCreate slot) s (fun t =>
        t = { s with ctxs := t.ctxs, tallies := t.tallies, cmds := endedCmds s slot { result := n + gen * 2 ^ 16 }
                     mgmt := { s.mgmt with reclaim := if training then 0 else s.mgmt.reclaim } } ∧
        getCtx t n = { part, training, state := 1, gen, tallyFirst := first, tallyCount := last - first } ∧
        (∀ k, k ≠ n → getCtx t k = getCtx s k) ∧ (∀ k, first ≤ k → k ≤ last → tget 0#64 t.tallies k = 0#64) ∧
        ∀ k, (k < first ∨ last < k) → tget 0#64 t.tallies k = tget 0#64 s.tallies k)) ∧
    (∀ r, ctxRefusal s part training first last = some r → (∀ d ∈ queueCmds s c.queue, d.ord ≤ c.ord) →
      Runs (.ctxCreate slot) s (fun t => t = { s with queues := t.queues, cmds := endedCmds s slot { cls := 2, reason := r } }))) ∧
  (∀ s n (v : W64) x, hostOpen s = true → n < 256 → rbit v 63 = true → x = getCtx s n → x.enable = false →
    Runs (.ctxEnable n v) s (fun t => t = { s with ctxs := t.ctxs } ∧ (∀ k, k ≠ n → getCtx t k = getCtx s k) ∧
      (x.state = 1 → (getPart s x.part).state = 3 → (x.training = true → owned s = true) →
        getCtx t n = { x with state := 2, enable := true }) ∧
      (x.state = 1 → (getPart s x.part).state = 3 → x.training = true → owned s = false → getCtx t n = { x with reason := 0x2B }) ∧
      ((x.state ≠ 1 ∨ (getPart s x.part).state ≠ 3) → getCtx t n = { x with reason := 0x20 }))) ∧
  (∀ s slot c n p2 x, IsBegun s slot 0x0804 c → n = Pkt.p0 c.packet % 256 → p2 = Pkt.p2 c.packet → x = getCtx s n →
    (x.state = 1 ∨ x.state = 2) → (∀ l ∈ s.launches, l.2.ctx ≠ n) →
    Runs (.ctxSet slot) s (fun t => t = { s with ctxs := t.ctxs, cmds := endedCmds s slot {} } ∧
      getCtx t n = { x with budget := if Word.bitOf p2 60 then Word.bitsOf p2 21 16 else x.budget
                            minLevel := if Word.bitOf p2 61 then p2 % 4 else x.minLevel
                            seed := if Word.bitOf p2 62 then BitVec.ofNat 64 (Pkt.p1 c.packet) else x.seed } ∧
      ∀ k, k ≠ n → getCtx t k = getCtx s k)) ∧
  (∀ s slot c n x, IsBegun s slot 0x0805 c → n = Pkt.p0 c.packet % 256 → x = getCtx s n → x.destroyCmd ≠ some slot →
    (Pkt.p0 c.packet / 2 ^ 16 % 2 ^ 16 = x.gen → (x.state = 1 ∨ x.state = 2) →
      Runs (.ctxDestroy slot) s (fun t => (getCtx t n).state = 3 ∧ (getCtx t n).reason = 0x27 ∧ (getCtx t n).destroyCmd = some slot ∧
        (getCtx t n).gen = x.gen ∧ findCmd t slot = some c ∧ t.parts = s.parts ∧ t.tallies = s.tallies ∧
        ∀ k, k ≠ n → getCtx t k = getCtx s k)) ∧
    ((∀ d ∈ queueCmds s c.queue, d.ord ≤ c.ord) → ∀ r,
      (Pkt.p0 c.packet / 2 ^ 16 % 2 ^ 16 ≠ x.gen ∧ r = 0x21 ∨ Pkt.p0 c.packet / 2 ^ 16 % 2 ^ 16 = x.gen ∧ x.state = 3 ∧ r = 0x27 ∨
        Pkt.p0 c.packet / 2 ^ 16 % 2 ^ 16 = x.gen ∧ (x.state = 0 ∨ x.state = 4) ∧ r = 0x28) →
      Runs (.ctxDestroy slot) s (fun t => t = { s with queues := t.queues, cmds := endedCmds s slot { cls := 2, reason := r } }))) ∧
  (∀ s ctx x cmd, x = getCtx s ctx → x.state = 3 → (x.peers = [] ∧ cmd = Instr.teardownComplete ctx ∨ x.peers ≠ [] ∧ cmd = .revokeTimeout ctx) →
    Runs cmd s (fun t => (getCtx t ctx).state = 4 ∧ (getCtx t ctx).enable = false ∧ (getCtx t ctx).gen = x.gen ∧
      (getCtx t ctx).peers = [] ∧ (getCtx t ctx).destroyCmd = none ∧ (∀ k, k ≠ ctx → getCtx t k = getCtx s k) ∧
      (∀ g, grpEnabled (getGroup s g) = true → grpCtx (getGroup s g) = ctx → grpEnabled (getGroup t g) = false) ∧
      (∀ e ∈ t.maps, ¬ (e.2.ctx = ctx ∧ e.2.gen = x.gen)) ∧ t.parts = s.parts ∧ t.tallies = s.tallies)) ∧
  (∀ s ctx, (getCtx s ctx).state = 4 → Runs (.quarantineEnd ctx) s (fun t =>
    t = { s with ctxs := t.ctxs } ∧ getCtx t ctx = { getCtx s ctx with state := 0 } ∧ ∀ k, k ≠ ctx → getCtx t k = getCtx s k))

/-- Vacating a stall (10/R345-R347, 14/R458, 19/R575): a notice is held and told; a vacate at a step boundary waits for
the deltas; one whose step would not end in time abandons the step; without a takeover within 2 s of the offer the
context is torn down with 0x89; VACATED is sent again while it has not been heard. Where the rules leave a corner open
it takes the model's reading (log entries 39 and 12). -/
def Obligations.Vacating : Prop :=
  (∀ s slot c served, IsBegun s slot 0x0505 c → s.stepSt.vacate = none →
    (fromTraining s c = true → endsInTime s = true → openRec s = none → stepBusy (setVacate s (some { cmd := some slot, phase := 1 })) (some slot) = false →
      noticeTime s + eightSeconds ≥ s.time.toNat →
      Runs (.vacate slot served) s (fun t => t = { s with stepSt := { s.stepSt with vacate := some { cmd := some slot, phase := 2 } } })) ∧
    (fromTraining s c = false → (∀ d ∈ queueCmds s c.queue, d.ord ≤ c.ord) →
      Runs (.vacate slot served) s (fun t => StepRefused s t slot 2 0x0A))) ∧
  (∀ s ctx, s.stepSt.notice ≠ none → trainingCtx s = some ctx → s.stepSt.vacate = none → lowestQueue s ctx = none →
    endsInTime s = true → openRec s = none → stepBusy (setVacate s (some { cmd := none, phase := 1 })) none = false →
    noticeTime s + eightSeconds ≥ s.time.toNat →
    Runs .vacateAuto s (fun t => t = { s with stepSt := { s.stepSt with vacate := some { cmd := none, phase := 2 } } })) ∧
  (∀ s v ctx, s.stepSt.vacate = some v → v.phase = 3 → trainingCtx s = some ctx → (getCtx s ctx).state = 2 →
    Runs .vacateNoTakeover s (fun t => (getCtx t ctx).state = 3 ∧ (getCtx t ctx).reason = 0x27 ∧ (getCtx t ctx).destroyCmd = v.cmd ∧
      t.stepSt.vacate = some { v with phase := 5 } ∧ t.parts = s.parts ∧ ∀ k, k ≠ ctx → getCtx t k = getCtx s k)) ∧
  (∀ s, (s.mgmt.reclaim = 2 → s.mgmt.vacLeft ≠ 0 → Runs .vacatedResend s (fun t =>
      t = { s with mgmt := { s.mgmt with vacLeft := s.mgmt.vacLeft - 1 }
                   out := s.out ++ [.mgmt s.mgmt.reclaimSrc none (message 0x0007 0 0 2 (Word.toLe 8 s.mgmt.reclaimId.toNat))] })) ∧
    (s.mgmt.vacLeft = 0 → Runs .vacatedResend s (fun t => t = s))) ∧
  (∀ s q body, Fresh s q → s.boot.phase = 6 → body.length = 8 → s.mgmt.reclaim = 0 → trainingCtx s ≠ none →
    Runs (.reclaim q body) s (fun t =>
      t = { s with out := t.out, events := t.events, mgmt := { s.mgmt with
              held := t.mgmt.held, reclaim := 1, noticeTime := s.time.toNat % 2 ^ 32, reclaimId := BitVec.ofNat 64 (leAt body 0 8)
              reclaimSrc := q.source, vacLeft := 0 }
                   stepSt := { s.stepSt with notice := some (BitVec.ofNat 64 (leAt body 0 8), s.time.toNat) } } ∧
      Answered s t q 7 0 0 (Word.toLe 4 1 ++ Word.toLe 4 (s.time.toNat % 2 ^ 32))))

/-! ### The memories' upkeep, field tests and the ledger -/

/-- DRAM_REFRESH, RECALIBRATION, PATROL_SCRUB_STEP, SLICE_SCRUB_PASS, SCRUB_STARVED and MEMORY_LANE_RETIRE (07/R217-R222):
a refresh changes nothing; a recalibration replaces the lanes that wait, as far as spares last; a scrub that meets
nothing moves its counters alone; a starved core shows it; a lane waits for a spare, and without one a weak lane's
next uncorrectable error puts the channel out of service. The test state, the generator and margining (07/R223-R227,
R233, R234): a channel enters the test state with MEMTEST allowed and no context on its die, and leaves it with its
crates zero; a start runs the generator only in the test state; a stop and the last pass end it; a sweep writes its
result crate; what is not allowed is refused with 0x2A or 0x4A. Where the rules leave a corner open it takes the
model's reading (log entry 49). -/
def Obligations.MemoryChannels : Prop :=
  (∀ s ch, Runs (.dramRefresh ch) s (fun t => t = s)) ∧
  (∀ s ch late c, c = getChan s ch → Runs (.recalibration ch late) s (fun t =>
    t = { s with mem := { s.mem with chans := t.mem.chans }, ledger := t.ledger } ∧ (getChan t ch).retire = [] ∧
    (getChan t ch).recalLate = (c.recalLate || late) ∧ (getChan t ch).sparesLeft = c.sparesLeft - c.retire.length ∧
    (getChan t ch).sparesUsed = c.sparesUsed + min c.retire.length c.sparesLeft ∧ (getChan t ch).state = c.state ∧
    ∀ k, k ≠ ch → getChan t k = getChan s k)) ∧
  (∀ s ch late passDone, Runs (.patrolScrubStep ch late passDone .clean) s (fun t =>
    t = { s with mem := { s.mem with scrub := t.mem.scrub } } ∧
    (∀ d, d ≠ channelDie ch → tget {} t.mem.scrub d = tget {} s.mem.scrub d) ∧
    tget {} t.mem.scrub (channelDie ch) = { tget {} s.mem.scrub (channelDie ch) with
      behind := (tget {} s.mem.scrub (channelDie ch)).behind || late
      dramPasses := if passDone then min ((tget {} s.mem.scrub (channelDie ch)).dramPasses + 1) 65535
        else (tget {} s.mem.scrub (channelDie ch)).dramPasses })) ∧
  (∀ s slice f, (f = .clean ∨ (tget {} s.mem.slices slice).cache = true) → Runs (.sliceScrubPass slice f) s (fun t => t = s)) ∧
  (∀ s slice xs, (tget {} s.mem.slices slice).cache = false → Runs (.sliceScrubPass slice (.uncorrectable xs)) s (fun t =>
    (∀ x ∈ xs, x ∈ t.mem.bad) ∧ t.mem.cells = s.mem.cells ∧ t.mem.tags = s.mem.tags ∧ t.cores = s.cores ∧ t.cmds = s.cmds)) ∧
  (∀ s core, Runs (.scrubStarved core) s (fun t =>
    t = { s with mem := { s.mem with scrub := t.mem.scrub }, events := t.events } ∧
    tget {} t.mem.scrub (core / 128) = { tget {} s.mem.scrub (core / 128) with starved := true } ∧
    ∀ d, d ≠ core / 128 → tget {} t.mem.scrub d = tget {} s.mem.scrub d)) ∧
  (∀ s ch lane uncorr c, c = getChan s ch →
    (c.retire.length < c.sparesLeft → Runs (.memoryLaneRetire ch lane uncorr) s (fun t =>
      t = { s with mem := { s.mem with chans := t.mem.chans } } ∧ getChan t ch = { c with retire := ninsert c.retire lane } ∧
      ∀ k, k ≠ ch → getChan t k = getChan s k)) ∧
    (c.sparesLeft ≤ c.retire.length → Runs (.memoryLaneRetire ch lane uncorr) s (fun t =>
      t = { s with mem := { s.mem with chans := t.mem.chans }, ledger := t.ledger } ∧ (∀ k, k ≠ ch → getChan t k = getChan s k) ∧
      (uncorr = true → lane ∈ c.weak → getChan t ch = { c with state := 4 }) ∧
      (uncorr = true → lane ∉ c.weak → getChan t ch = { c with weak := ninsert c.weak lane }) ∧
      (uncorr = false → getChan t ch = c ∧ Recorded s t 0x10 0)))) ∧
  (∀ s slot c ch, ch = Pkt.p0 c.packet % 1024 →
    (IsBegun s slot 0x0702 c → debugAllowed s 1 = true → dieInUse s (channelDie ch) = false →
      Runs (.chTestEnter slot) s (fun t => t = { s with mem := { s.mem with chans := t.mem.chans }, cmds := endedCmds s slot {} } ∧
        getChan t ch = { getChan s ch with state := 3, genRun := 0, mRun := 0 } ∧ ∀ k, k ≠ ch → getChan t k = getChan s k)) ∧
    (∀ r, IsBegun s slot 0x0702 c → (∀ d ∈ queueCmds s c.queue, d.ord ≤ c.ord) →
      (debugAllowed s 1 = false ∧ r = 0x2A ∨ debugAllowed s 1 = true ∧ dieInUse s (channelDie ch) = true ∧ r = 0x4A) →
      Runs (.chTestEnter slot) s (fun t => t = { s with queues := t.queues, cmds := endedCmds s slot { cls := 2, reason := r } })) ∧
    (IsBegun s slot 0x0703 c → (getChan s ch).state = 3 →
      Runs (.chTestExit slot) s (fun t => t = { s with mem := t.mem, cmds := endedCmds s slot {} } ∧
        getChan t ch = { getChan s ch with state := 1, genRun := 0 } ∧ (∀ k, k ≠ ch → getChan t k = getChan s k) ∧
        (∀ a, channelOf a = some ch → readByte t.mem.cells a = 0#8) ∧
        ∀ a, channelOf a ≠ some ch → readByte t.mem.cells a = readByte s.mem.cells a)) ∧
    (IsBegun s slot 0x0703 c → (getChan s ch).state ≠ 3 → (∀ d ∈ queueCmds s c.queue, d.ord ≤ c.ord) →
      Runs (.chTestExit slot) s (fun t => t = { s with queues := t.queues, cmds := endedCmds s slot { cls := 2, reason := 0x4A } }))) ∧
  (∀ s ch (v : W64) c, hostOpen s = true → ch < 640 → c = getChan s ch →
    (rbit v 0 = true → rbit v 1 = false → Runs (.genStart ch v) s (fun t => t = { s with mem := { s.mem with chans := t.mem.chans } } ∧
      (∀ k, k ≠ ch → getChan t k = getChan s k) ∧
      getChan t ch = if c.state = 3 then { c with genCtrl := v &&& genMask, genRun := 1, genReason := 0, genPasses := 0, genErrors := 0
                                                  lanesLo := 0#64, lanesHi := 0 }
        else { c with genCtrl := v &&& genMask, genRun := 3, genReason := 0x4A })) ∧
    (rbit v 0 = false → rbit v 1 = true → Runs (.genStop ch v) s (fun t => t = { s with mem := { s.mem with chans := t.mem.chans } } ∧
      (∀ k, k ≠ ch → getChan t k = getChan s k) ∧
      getChan t ch = if c.genRun = 1 then { c with genCtrl := v &&& genMask, genRun := 2, genReason := 0x4C }
        else { c with genCtrl := v &&& genMask }))) ∧
  (∀ s ch errors (lo : W64) hi c, c = getChan s ch → c.genRun = 1 → rbits c.genCtrl 15 8 ≠ 0 →
    Runs (.genPassesDone ch errors lo hi) s (fun t => t = { s with mem := { s.mem with chans := t.mem.chans } } ∧
      getChan t ch = { c with genRun := 2, genPasses := rbits c.genCtrl 15 8, genErrors := min errors (2 ^ 32 - 1)
                              genReason := if errors = 0 then 0 else 0x50, lanesLo := lo, lanesHi := hi % 4096 } ∧
      ∀ k, k ≠ ch → getChan t k = getChan s k)) ∧
  (∀ s slot c ch lanes xs k, IsBegun s slot 0x0704 c → Word.bitOf (Pkt.p0 c.packet) 12 = false → ch = Pkt.p0 c.packet % 1024 →
    debugAllowed s 1 = true → (getChan s ch).state = 3 → (getChan s ch).mStop = false → sweepCrateRefusal s (pktOff1 c.packet) = none →
    k = pktOff1 c.packet / 4096 → Plain s.mem k → Writable s.mem → lanes = Word.bitsOf (Pkt.p2 c.packet) 31 24 →
    Runs (.marginSweep slot xs false) s (fun t => t = { s with mem := t.mem, cmds := t.cmds } ∧
      t.cmds = endedCmds s slot { result := sweepReason lanes (xs.take lanes) 0x4B 0x4B } ∧ SameCrates s.mem t.mem (fun j => j = k) ∧
      crateBytes t.mem k = sweepBytes ch (Word.b2n (Word.bitOf (Pkt.p0 c.packet) 16)) (Pkt.p2 c.packet % 2 ^ 16)
        (Word.bitsOf (Pkt.p2 c.packet) 23 16) lanes s.time s.time (xs.take lanes) 0x4B 0x4B ∧
      Tag.check (crateTag t.mem k) = Crc.crc64 (crateBytes t.mem k) ∧ (getChan t ch).mRun = 3 ∧ (getChan t ch).mLanesDone = lanes ∧
      (getChan t ch).state = 3)) ∧
  (∀ s slot c p0, IsBegun s slot 0x0705 c → p0 = Pkt.p0 c.packet → debugAllowed s 1 = true →
    (sweeping s p0 = false → Runs (.marginStop slot) s (fun t => t = { s with cmds := endedCmds s slot {} })) ∧
    (sweeping s p0 = true → Word.bitOf p0 12 = false → Runs (.marginStop slot) s (fun t =>
      t = { s with mem := { s.mem with chans := t.mem.chans }, cmds := endedCmds s slot {} } ∧
      getChan t (p0 % 1024) = { getChan s (p0 % 1024) with mStop := true } ∧ ∀ k, k ≠ p0 % 1024 → getChan t k = getChan s k)) ∧
    (sweeping s p0 = true → Word.bitOf p0 12 = true → Runs (.marginStop slot) s (fun t =>
      t = { s with fab := { s.fab with ports := t.fab.ports }, cmds := endedCmds s slot {} } ∧
      getPort t (p0 % 1024) = { getPort s (p0 % 1024) with mStop := true } ∧ ∀ k, k ≠ p0 % 1024 → getPort t k = getPort s k)))

/-- Field tests and standing (08/R253-R258): a demanded or scheduled test starts at once on a unit that is free and waits
on a bound one; one of a unit that the module does not have is refused with 0x03; a result is recorded and, when it is
a pass, counted; a first fail makes the unit watched and fenced; a watched unit recovers after 16 scheduled passes and
30 quiet days. The ledger (08/R261, R264, R266-R269): a page program empties the write buffer; the hold-up bank takes
its new state, leaves the buffered mode when it is not ready, and is recorded; a flash that fails puts the ledger into
steward memory; a read gives the host the records from a number on; a counter that has not moved makes no record.
Where the rules leave a corner open it takes the model's reading (log entry 48). -/
def Obligations.TestsAndLedger : Prop :=
  (∀ s slot c (u : W64) test, IsBegun s slot 0x0701 c → c.aux = 0 → u = BitVec.ofNat 64 (Pkt.p0 c.packet) → test = Pkt.p1 c.packet % 256 →
    (unitExists u test = true →
      Runs (.fieldTest slot) s (fun t => t = { s with
        ledger := t.ledger, cpActive := t.cpActive, cmds := changedCmds s slot (fun c => { c with aux := 1 }) } ∧
        (unitBound s u test = false → (test, 4) ∈ (getUnit t u).running ∧ ∀ d ∈ (getUnit t u).due, d.1 ≠ test) ∧
        (unitBound s u test = true → ∃ d ∈ (getUnit t u).due, d.1 = test))) ∧
    (unitExists u test = false → (∀ d ∈ queueCmds s c.queue, d.ord ≤ c.ord) →
      Runs (.fieldTest slot) s (fun t => t = { s with queues := t.queues, cmds := endedCmds s slot { cls := 2, reason := 0x03 } }))) ∧
  (∀ s (u : W64) test, unitExists u test = true →
    Runs (.fieldTestDue u test) s (fun t => t = { s with ledger := t.ledger, cpActive := t.cpActive } ∧
      (unitBound s u test = false → (test, 0) ∈ (getUnit t u).running) ∧
      (unitBound s u test = true → ∃ d ∈ (getUnit t u).due, d.1 = test))) ∧
  (∀ s (u : W64) test dur detail route r, r = getUnit s u → r.running.find? (fun x => x.1 == test) = some (test, route) →
    rbits u 63 56 ≠ 1 → rbits u 63 56 ≠ 7 → fieldTestCmd s u test = none →
    Runs (.fieldTestResult u test 0 dur detail) s (fun t => t = { s with ledger := t.ledger } ∧ Recorded s t 0x20 0 ∧
      (getUnit t u).running = r.running.filter (fun x => x.1 != test) ∧ (getUnit t u).testPass = min (r.testPass + 1) (2 ^ 32 - 1) ∧
      (getUnit t u).standing = r.standing ∧ (getUnit t u).fenced = r.fenced ∧
      (getUnit t u).passes = if r.standing = 1 ∧ route < 3 then r.passes + 1 else r.passes)) ∧
  (∀ s (u : W64) test dur detail route r c, r = getUnit s u → r.running.find? (fun x => x.1 == test) = some (test, route) →
    rbits u 63 56 ≠ 1 → rbits u 63 56 ≠ 7 → r.standing = 0 → fieldTestCmd s u test = some c → c.gather = [] →
    (∀ d ∈ s.cmds, d.slot = c.slot → d = c) →
    Runs (.fieldTestResult u test 1 dur detail) s (fun t =>
      t = { s with ledger := t.ledger, mem := t.mem, stepSt := t.stepSt, events := t.events, cmds := endedCmds s c.slot { result := 1 } } ∧
      (getUnit t u).standing = 1 ∧ (getUnit t u).fenced = true ∧ (getUnit t u).testFail = min (r.testFail + 1) (2 ^ 32 - 1) ∧
      (getUnit t u).running = r.running.filter (fun x => x.1 != test))) ∧
  (∀ s (u : W64) r, r = getUnit s u → r.standing = 1 → r.fenced = false →
    (16 ≤ r.passes → (∀ x ∈ r.counted, x.1 + 30 * 8640000000000 ≤ poweredTicks s) →
      Runs (.standingRecovery u) s (fun t => t = { s with ledger := t.ledger } ∧ (getUnit t u).standing = 0 ∧
        (getUnit t u).fenced = false ∧ Recorded s t 0x30 0)) ∧
    (r.passes < 16 → Runs (.standingRecovery u) s (fun t => t = s))) ∧
  (∀ s, s.ledger.mode = 1 → Runs .ledgerPageProgram s (fun t => t = { s with ledger := { s.ledger with buffered := 0 } })) ∧
  (∀ s state charge, state ≤ 4 → s.ledger.bank ≠ 3 → state ≠ s.ledger.bank →
    Runs (.holdupStateChange state charge) s (fun t =>
      t = { s with ledger := t.ledger, events := t.events, mgmt := { s.mgmt with alert := t.mgmt.alert } } ∧
      t.ledger.bank = state ∧ t.ledger.charge = min charge 100 ∧ Recorded s t 0x50 0 ∧
      (s.ledger.mode = 1 ∨ s.ledger.mode = 2 → t.ledger.mode = if state = 2 then 1 else 2) ∧
      (s.ledger.mode ≠ 1 → s.ledger.mode ≠ 2 → t.ledger.mode = s.ledger.mode) ∧
      (state ≠ 0 → state ≠ 3 → t.events = s.events))) ∧
  (∀ s, Runs .ledgerFlashFail s (fun t => t = { s with ledger := t.ledger, events := t.events, mgmt := { s.mgmt with alert := t.mgmt.alert } } ∧
    t.ledger.mode = 3 ∧ t.ledger.reason = 0xFB ∧ t.ledger.records = s.ledger.records ∧ t.ledger.saved ≠ none)) ∧
  (∀ s slot c rs, IsBegun s slot 0x0603 c → s.pcie.linkUp = true → cellsWf s.hostMem = true →
    rs = (s.ledger.records.filter (fun r => decide (Pkt.p1 c.packet ≤ r.seq))).take (pktCrates c.packet) →
    Runs (.ledgerRead slot) s (fun t => t = { s with hostMem := t.hostMem, cmds := endedCmds s slot { result := rs.length } } ∧
      HostGot s t (Pkt.p0 c.packet) (rs.flatMap recBytes))) ∧
  (∀ s, Runs .counterMirror s (fun t => t = { s with ledger := t.ledger } ∧
    (∀ u, (getUnit t u).standing = (getUnit s u).standing ∧ (getUnit t u).fenced = (getUnit s u).fenced) ∧
    ((∀ e ∈ s.mem.chans, e.2.corrected ≤ tget 0 s.ledger.mirrored e.1 ∧ e.2.uncorrected ≤ tget 0 s.ledger.mirrored (2 ^ 20 + e.1)) →
      (∀ e ∈ s.cores, e.2.weighMismatch ≤ tget 0 s.ledger.mirrored (2 ^ 21 + e.1)) → s.fab.ports = [] → s.events.rings = [] → t = s)))

/-! ### Pages, firmware and registers -/

/-- What the host reads by command (09/R296, R297, 18/R561, 15/R470): the identify page, a telemetry page and the bytes in
use of a capture slot stand in host memory at P0, and nothing else changes but the command's end; a page above 4 is
refused with 0x03. What management reads (19/R570-R572): IDENTIFY, TELEMETRY, DISCOVERY, LEDGER_READ, TOTALS_READ and
RECLAIM_STATUS at ready are answered with what they name and change nothing else; a repeated request draws its held
response. Where the rules leave a corner open it takes the model's reading (log entry 32). -/
def Obligations.PagesRead : Prop :=
  (∀ s slot c, s.pcie.linkUp = true → cellsWf s.hostMem = true →
    (IsBegun s slot 0x0601 c → Runs (.identify slot) s (fun t => t = { s with hostMem := t.hostMem, cmds := endedCmds s slot {} } ∧
      HostGot s t (Pkt.p0 c.packet) (identifyPage s))) ∧
    (∀ x b, IsBegun s slot 0x0602 c → telemetryPage s (Pkt.p1 c.packet) x = some b →
      Runs (.telemetryRead slot x) s (fun t => t = { s with hostMem := t.hostMem, cmds := endedCmds s slot {} } ∧
        HostGot s t (Pkt.p0 c.packet) b)) ∧
    (∀ x, IsBegun s slot 0x0602 c → 4 < Pkt.p1 c.packet → (∀ d ∈ queueCmds s c.queue, d.ord ≤ c.ord) →
      Runs (.telemetryRead slot x) s (fun t => t = { s with queues := t.queues, cmds := endedCmds s slot { cls := 2, reason := 0x03 } })) ∧
    (∀ base n, IsBegun s slot 0x0706 c → base = Pkt.p1 c.packet % 8 * 4194304 →
      n = min 4194304 (leAt (readBytes s.hang.capMem base 64) 0x28 4) →
      Runs (.captureRead slot) s (fun t => t = { s with hostMem := t.hostMem, cmds := endedCmds s slot { result := n } } ∧
        HostGot s t (Pkt.p0 c.packet) (readBytes s.hang.capMem base n)))) ∧
  (∀ s q body, s.boot.phase = 6 →
    (Fresh s q →
      (body.length = 2 → leAt body 0 2 + pageLen q ≤ 4096 →
        Runs (.mgmtIdentify q body) s (fun t => OnlyAnswered s t q 1 0 0 (pageFrom (identifyPage s) (leAt body 0 2) (pageLen q)))) ∧
      (∀ x b, body.length = 4 → telemetryPage s (leAt body 0 2) x = some b → leAt body 2 2 + pageLen q ≤ 4096 →
        Runs (.telemetry q body x) s (fun t => OnlyAnswered s t q 2 0 0 (pageFrom b (leAt body 2 2) (pageLen q)))) ∧
      (body.length = 1 → leAt body 0 1 ≤ 47 →
        Runs (.mgmtDiscovery q body) s (fun t => OnlyAnswered s t q 3 0 0
          ((List.range' (leAt body 0 1) (min (48 - leAt body 0 1) (if q.source = 0 then 32 else 48))).flatMap (discoveryEntry s)))) ∧
      (body.length = 9 → 1 ≤ leAt body 8 1 → leAt body 8 1 ≤ (if q.source = 0 then 7 else 15) → ∀ r rs, s.ledger.records = r :: rs →
        Runs (.mgmtLedgerRead q body) s (fun t => OnlyAnswered s t q 9 0 0
          (Word.toLe 8 r.seq ++ (recordsFrom s (leAt body 0 8) (leAt body 8 1)).flatMap recBytes))) ∧
      (∀ u, body.length = 8 → u = BitVec.ofNat 64 (leAt body 0 8) →
        Runs (.totalsRead q body) s (fun t => OnlyAnswered s t q 0xA 0 0 (totalsBytes u (getUnit s u)))) ∧
      (body = [] → Runs (.reclaimStatus q body) s (fun t => OnlyAnswered s t q 8 0 0
        (Word.toLe 4 s.mgmt.reclaim ++ Word.toLe 4 s.mgmt.noticeTime)))) ∧
    (∀ h cmd, reaches s q.source q.port = true → heldFor s q.source q.ident = some h →
      (cmd = .mgmtIdentify q body ∨ cmd = .mgmtDiscovery q body ∨ cmd = .mgmtLedgerRead q body ∨ cmd = .totalsRead q body ∨
        cmd = .reclaimStatus q body) →
      Runs cmd s (fun t => t = { s with out := s.out ++ [.mgmt q.source (some q.port) h.bytes] })))

/-- Firmware (16/R509-R511, 19/R576): an image that verifies is staged in the standby bank; one that does not is refused
with 0xC9 and the bank stands; a chunk of management is programmed where it says; a handover to a staged standby bank
begins, waits for the step boundary and switches banks and processors; a handover that takes too long fails with 0xCD.
Where the rules leave a corner open it takes the model's reading (log entry 35). -/
def Obligations.Firmware : Prop :=
  (∀ s slot c image len, IsBegun s slot 0x0604 c → len = Pkt.p1 c.packet → len ≤ 2 ^ 25 → handingOver s = false → s.boot.chunking = false →
    (verifyImage s (image.take len) = true → s.boot.bank ≤ 1 →
      Runs (.fwStage slot image none) s (fun t => t = { s with boot := t.boot, cmds := endedCmds s slot {} } ∧ t.boot.staged = true ∧
        t.boot.bank = s.boot.bank ∧ t.boot.phase = s.boot.phase ∧ bankCells t s.boot.bank = bankCells s s.boot.bank ∧
        bankBytes t (standbyBank s) 0 (image.take len).length = image.take len)) ∧
    (verifyImage s (image.take len) = false → (∀ d ∈ queueCmds s c.queue, d.ord ≤ c.ord) →
      Runs (.fwStage slot image none) s (fun t =>
        t = { s with boot := { s.boot with fwReason := 0xC9 }, mem := t.mem, stepSt := t.stepSt, queues := t.queues
                     cmds := endedCmds s slot { cls := 3, reason := 0xC9 } }))) ∧
  (∀ s q body, Fresh s q → s.boot.phase = 6 → body.length = 516 → leAt body 0 4 % 512 = 0 → leAt body 0 4 + 512 ≤ 2 ^ 25 →
    handingOver s = false → s.boot.chunking = true → s.boot.bank ≤ 1 → cellsWf (bankCells s (standbyBank s)) = true →
    Runs (.fwChunk q body none) s (fun t => Answered s t q 0xB 0 0 [] ∧
      t = { s with out := t.out, mgmt := { s.mgmt with held := t.mgmt.held }, boot := t.boot } ∧
      bankCells t s.boot.bank = bankCells s s.boot.bank ∧
      bankBytes t (standbyBank s) (leAt body 0 4) 512 = body.drop 4 ∧
      ∀ a, (a < leAt body 0 4 ∨ leAt body 0 4 + 512 ≤ a) →
        readByte (bankCells t (standbyBank s)) a = readByte (bankCells s (standbyBank s)) a)) ∧
  (∀ s q body image, Fresh s q → s.boot.phase = 6 → body.length = 4 → leAt body 0 4 ≤ 2 ^ 25 → handingOver s = false →
    image = bankBytes s (standbyBank s) 0 (leAt body 0 4) →
    (verifyImage s image = true → Runs (.fwCommit q body none) s (fun t => Answered s t q 0xC 0 0 [] ∧ t.boot.staged = true ∧
      t.boot.chunking = false ∧ t.boot.bank = s.boot.bank ∧
      t = { s with out := t.out, mgmt := { s.mgmt with held := t.mgmt.held }, boot := t.boot })) ∧
    (verifyImage s image = false → Runs (.fwCommit q body none) s (fun t => Answered s t q 0xC 3 0xC9 [] ∧
      t = { s with out := t.out, mgmt := { s.mgmt with held := t.mgmt.held }
                   boot := { s.boot with chunking := false, fwReason := 0xC9 } }))) ∧
  (∀ s slot c, IsBegun s slot 0x0605 c →
    (s.boot.handBy ≠ some (.host slot) → handoverRefusal s (Pkt.p0 c.packet) = none →
      Runs (.fwHandover slot) s (fun t => t = { s with boot := { s.boot with handover := 1, handBy := some (.host slot) } })) ∧
    (s.boot.handBy ≠ some (.host slot) → handoverRefusal s (Pkt.p0 c.packet) = some 0xCD → (∀ d ∈ queueCmds s c.queue, d.ord ≤ c.ord) →
      Runs (.fwHandover slot) s (fun t =>
        t = { s with boot := { s.boot with fwReason := 0xCD }, queues := t.queues
                     cmds := endedCmds s slot { cls := 2, reason := 0xCD } })) ∧
    (s.boot.handBy = some (.host slot) → s.boot.handover = 1 → handoverPoint s = false →
      Runs (.fwHandover slot) s (fun t => t = { s with boot := { s.boot with handover := 2 } })) ∧
    (s.boot.handBy = some (.host slot) → (s.boot.handover = 1 ∨ s.boot.handover = 2) → handoverPoint s = true →
      Runs (.fwHandover slot) s (fun t => t = { s with boot := t.boot, cpActive := t.cpActive, cmds := endedCmds s slot {} } ∧
        t.boot.bank = 1 - s.boot.bank ∧ t.boot.handover = 4 ∧ t.boot.handBy = none ∧ t.boot.staged = false ∧
        ∀ d, d < 9 → tget 0 t.cpActive d = 1 - tget 0 s.cpActive d))) ∧
  (∀ s q body, Fresh s q → s.boot.phase = 6 → body.length = 1 → leAt body 0 1 ≤ 1 → s.boot.handBy = none →
    handoverRefusal s (leAt body 0 1) = none →
    Runs (.mgmtFwHandover q body) s (fun t => t = { s with boot := { s.boot with handover := 1, handBy := some (.mgmt q) } })) ∧
  (∀ s, (s.boot.handover = 1 ∨ s.boot.handover = 2) → s.boot.handBy = none →
    Runs .handoverTimeout s (fun t => t = { s with boot := { s.boot with handover := 5, fwReason := 0xCD } }))

/-- Registers (20/R588-R592, R599, 15/R486, 18/R563): a write of a wrong shape, or at a reserved offset, changes
HUB_REG_ERR alone; a read that is too long or crosses 64 bytes reads all ones and is recorded; HUB_HANG_CFG and
PWR_CFG take legal fields and refuse others with 0x03. Where the rules leave a corner open it takes the model's
reading (log entry 34). -/
def Obligations.Registers : Prop :=
  (∀ s off data n r, hostOpen s = true → n = data.length →
    ((n ≠ 4 ∧ n ≠ 8 ∨ off % n ≠ 0) ∧ r = 0x03 ∨ (n = 4 ∨ n = 8) ∧ off % n = 0 ∧ regWord s (off / 8 * 8) = none ∧ r = 0x43) →
    Runs (.registerWrite (.bar0 off) data) s (fun t => t = setRegErr s r true n off)) ∧
  (∀ s off (data : List Byte), hostOpen s = true → off = 0xE0010 → data.length = 8 →
    Runs (.registerWrite (.bar0 off) data) s (fun t =>
      t = { s with stepSt := { s.stepSt with ackTally := rbits (BitVec.ofNat 64 (Word.leNat data)) 47 32 } })) ∧
  (∀ s data, 4 ≤ s.boot.phase → s.pcie.linkUp = true →
    Runs (.registerWrite .command data) s (fun t => t = { s with pcie := { s.pcie with busMaster := Word.bitOf (Word.leNat data) 2 } })) ∧
  (∀ s off len, s.boot.phase = 6 → s.pcie.linkUp = true → s.pcie.d3hot = false →
    ((len = 0 ∨ 64 < len ∨ off / 64 ≠ (off + len - 1) / 64) → Runs (.regReadRefused off len) s (fun t =>
      t = { setRegErr s 0x03 false len off with out := s.out ++ [.pcieRead (List.replicate len 0xFF#8)] })) ∧
    (0 < len → len ≤ 64 → off / 64 = (off + len - 1) / 64 → Runs (.regReadRefused off len) s (fun t =>
      t = { s with out := s.out ++ [.pcieRead (regBytes s off len)] }))) ∧
  (∀ s (v : W64), hostOpen s = true →
    ((1 ≤ rbits v 13 0 ∧ rbits v 13 0 ≤ 10000 ∧ rbits v 59 58 < 2) →
      Runs (.hangCfgWrite v) s (fun t => t = { s with hang := { s.hang with cfg := v &&& hangMask } })) ∧
    ((rbits v 13 0 = 0 ∨ 10000 < rbits v 13 0 ∨ 2 ≤ rbits v 59 58) →
      Runs (.hangCfgWrite v) s (fun t => t = { s with hang := { s.hang with reason := 0x03 } })) ∧
    ((2000 ≤ rbits v 47 32 ∧ rbits v 47 32 ≤ 4800 ∧ 15 ≤ rbits v 55 48 ∧ rbits v 55 48 ≤ 60) →
      Runs (.pwrCfgWrite v) s (fun t => t = { s with pwr := { s.pwr with cfg := v &&& pwrMask } })) ∧
    ((rbits v 47 32 < 2000 ∨ 4800 < rbits v 47 32 ∨ rbits v 55 48 < 15 ∨ 60 < rbits v 55 48) →
      Runs (.pwrCfgWrite v) s (fun t => t = { s with pwr := { s.pwr with reason := 0x03 } })))

/-- The PCIe link and the function's resets (09/R275, R276, 16/R494, R499): the link goes down and comes up; a function-
level reset ends every command without a record, disables every queue and clears the PCIe block's registers; PERST
also takes the link down; a read error of a packet fetch stops its queue with 0x08, one of a command's data ends the
command with 0x0D. Where the rules leave a corner open it takes the model's reading (log entries 27 and 37). -/
def Obligations.PcieLink : Prop :=
  (∀ s, Runs .pcieLinkDown s (fun t => t = { s with pcie := { s.pcie with linkUp := false } })) ∧
  (∀ s, portAlive s = true → Runs .pcieLinkUp s (fun t => t = { s with pcie := { s.pcie with linkUp := true } })) ∧
  (∀ s, 4 ≤ s.boot.phase → powered s = true → Runs .functionLevelReset s (fun t => t.cmds = [] ∧ t.queues = [] ∧
    t.pcie = { linkUp := s.pcie.linkUp } ∧ t.boot = s.boot ∧ t.fuses = s.fuses ∧ t.parts = s.parts ∧
    ∀ k, (getCtx t k).state ≠ 1 ∧ (getCtx t k).state ≠ 2 ∧ (getCtx t k).destroyCmd = none)) ∧
  (∀ s, portAlive s = true → Runs .perst s (fun t => t.cmds = [] ∧ t.queues = [] ∧ t.pcie = { linkUp := false } ∧
    t.boot = s.boot ∧ t.fuses = s.fuses ∧ t.parts = s.parts)) ∧
  (∀ s q x, x = getQueue s q → qEnabled x = true → qSubmits q x = true → x.state = 1 → x.head ≠ x.tail →
    Runs (.pcieReadError q none) s (fun t => t = { s with queues := t.queues } ∧
      getQueue t q = { x with state := 2, reason := 0x08, failAt := s.cmdOrd } ∧ ∀ k, k ≠ q → getQueue t k = getQueue s k)) ∧
  (∀ s q n c, (IsBegun s n 0x0101 c ∨ IsBegun s n 0x0604 c) → (∀ d ∈ queueCmds s c.queue, d.ord ≤ c.ord) →
    Runs (.pcieReadError q (some n)) s (fun t =>
      t = { s with mem := t.mem, stepSt := t.stepSt, queues := t.queues, cmds := endedCmds s n { cls := 3, reason := 0x0D } } ∧
      ((∀ k, (getCtx s k).training = false) → t.mem = s.mem ∧ t.stepSt = s.stepSt)))

/-! ### Management -/

/-- What management sets (19/R573, R574, R578, R580, R585, 10/R317): the stall, the chip number with its time parent, the
routes, the operator's limits, the network address, the alerts and a nonce take the values asked for, each is
answered, and what is out of range is refused with its reason. Where the rules leave a corner open it takes the
model's reading (log entry 32). -/
def Obligations.ManagementSettings : Prop :=
  ∀ s q body, Fresh s q → s.boot.phase = 6 →
    (∀ n, body.length = 1 → q.source = 0 → n = leAt body 0 1 →
      (n ≤ 16 → (s.fab.chip = none ∨ s.fab.stall = some n) → Runs (.setStall q body) s (fun t => Answered s t q 4 0 0 [] ∧
        t = { s with out := t.out, mgmt := { s.mgmt with held := t.mgmt.held }, fab := { s.fab with stall := some n } })) ∧
      (16 < n → Runs (.setStall q body) s (fun t => OnlyAnswered s t q 4 2 0x03 [])) ∧
      (n ≤ 16 → s.fab.chip ≠ none → s.fab.stall ≠ some n → Runs (.setStall q body) s (fun t => OnlyAnswered s t q 4 2 0xCE []))) ∧
    (∀ chip root port, body.length = 4 → chip = leAt body 0 2 → root = leAt body 2 1 → port = leAt body 3 1 →
      (chipRefusal s chip root port = none → (∀ e ∈ s.fab.sessions, e.2 = none) → Runs (.assignChip q body) s (fun t => Answered s t q 5 0 0 [] ∧
        t = { s with out := t.out, mgmt := { s.mgmt with held := t.mgmt.held }, fab := t.fab } ∧ t.fab.chip = some chip ∧
        t.fab.timeSt.root = (root == 1) ∧ ∀ p, p < 48 → rbit (getPort t p).cfg 0 = (p == port))) ∧
      (∀ r, chipRefusal s chip root port = some r → Runs (.assignChip q body) s (fun t => OnlyAnswered s t q 5 2 r []))) ∧
    (∀ first n, first = leAt body 0 2 → n = leAt body 2 2 → body.length = 4 + 8 * n →
      (1 ≤ n → n ≤ (if q.source = 0 then 63 else 127) → first + n ≤ 32768 → Runs (.routeWrite q body) s (fun t => Answered s t q 6 0 0 [] ∧
        t = { s with out := t.out, mgmt := { s.mgmt with held := t.mgmt.held }, fab := { s.fab with routes := t.fab.routes } } ∧
        (∀ i, i < n → tget 0#64 t.fab.routes (first + i) =
          BitVec.ofNat 64 (leAt body (4 + 8 * i) 8) &&& BitVec.ofNat 64 (2 ^ 63 + (2 ^ 48 - 1))) ∧
        ∀ c, (c < first ∨ first + n ≤ c) → tget 0#64 t.fab.routes c = tget 0#64 s.fab.routes c)) ∧
      (n = 0 → Runs (.routeWrite q body) s (fun t => OnlyAnswered s t q 6 2 0x03 []))) ∧
    (∀ cap op, body.length = 3 → cap = leAt body 0 2 → op = leAt body 2 1 →
      (2000 ≤ cap → cap ≤ 4800 → op ≤ 3 → Runs (.limit q body) s (fun t => Answered s t q 0xF 0 0 [] ∧
        t = { s with out := t.out, mgmt := { s.mgmt with held := t.mgmt.held }, pwr := { s.pwr with operCap := cap, operLimit := op } })) ∧
      ((cap < 2000 ∨ 4800 < cap ∨ 3 < op) → Runs (.limit q body) s (fun t => OnlyAnswered s t q 0xF 2 0x03 []))) ∧
    (∀ len, body.length = 14 → q.source = 0 → len = leAt body 4 1 → 8 ≤ len → len ≤ 30 → zeroAt body 5 3 = true →
      Runs (.setAddr q body) s (fun t => Answered s t q 0x13 0 0 [] ∧
        t = { s with out := t.out, mgmt := { s.mgmt with
          held := t.mgmt.held, gw := leAt body 8 4, addr := BitVec.ofNat 64 (leAt body 0 4 * 2 ^ 32 + len * 2 ^ 24 + leAt body 12 2) } })) ∧
    (body.length = 4 → q.source = 0 → Runs (.alertClear q body) s (fun t => Answered s t q 0x14 0 0 [] ∧
      t = { s with out := t.out, mgmt := { s.mgmt with
        held := t.mgmt.held, alert := s.mgmt.alert - Nat.land s.mgmt.alert (leAt body 0 4) } })) ∧
    (body = [] → Runs (.nonce q body) s (fun t => ∃ n : BitVec 128, t.fuse = { s.fuse with nonce := some n } ∧
      Answered s t q 0x10 0 0 (Sha.toBe 16 n.toNat) ∧
      t = { s with out := t.out, mgmt := { s.mgmt with held := t.mgmt.held, nonceAt := t.mgmt.nonceAt }, fuse := t.fuse, freeCtr := t.freeCtr })) ∧
    Runs .nonceLapse s (fun t => t = { s with fuse := { s.fuse with nonce := none } })

/-- The sideband and the management ports (19/R569-R571, R580-R583): a stuck line opens the isolation switch, which is
told, and closing it again reconnects; a dynamic address is taken; a port's link goes up and down; a message that is
not one, or that does not reach the module, changes nothing; a reserved operation is refused with 0x01, and a message
beyond 256 waiting ones is counted and discarded. Where the rules leave a corner open it takes the model's reading
(log entry 32). -/
def Obligations.Sideband : Prop :=
  (∀ s, Runs (.sidebandStuckSda true) s (fun t => t = s)) ∧
  (∀ s cmd, (cmd = Instr.sidebandStuckSda false ∨ cmd = .sidebandStuckScl) → s.boot.off = false → s.mgmt.isolated = false →
    Runs cmd s (fun t => t = { s with
      mgmt := { s.mgmt with isolated := true, alert := Nat.lor s.mgmt.alert 2 }, events := t.events, ledger := t.ledger } ∧ Recorded s t 2 0xCC)) ∧
  (∀ s, Runs .sidebandReconnect s (fun t => t = { s with mgmt := { s.mgmt with isolated := false } })) ∧
  (∀ s, s.boot.off = false → s.mgmt.isolated = false →
    Runs .dynamicAddressAssignment s (fun t => t = { s with mgmt := { s.mgmt with addressed := true } })) ∧
  (∀ s up, s.boot.phase ≠ 0 → powered s = true →
    Runs (.mgmtPortLinkChange 0 up) s (fun t => t = { s with mgmt := { s.mgmt with port0 := if up then 2 else 1 } }) ∧
    (s.mgmt.port1 ≠ 3 → Runs (.mgmtPortLinkChange 1 up) s (fun t => t = { s with mgmt := { s.mgmt with port1 := if up then 2 else 1 } }))) ∧
  (∀ s source port waiting b,
    (reaches s source port = false → Runs (.managementMessage source port waiting b) s (fun t => t = s)) ∧
    (b.length < 32 → Runs (.managementMessage source port waiting b) s (fun t => t = s)) ∧
    (reaches s source port = true → 32 ≤ b.length → leAt b 0 4 = 0x4D475A4D → leAt b 4 2 = 1 → leAt b 0x14 4 = b.length - 32 →
      b.length - 32 ≤ (if source = 0 then 516 else 1028) →
      (256 ≤ waiting → Runs (.managementMessage source port waiting b) s (fun t =>
        t = { s with mgmt := { s.mgmt with dropped := min (s.mgmt.dropped + 1) (2 ^ 32 - 1) } })) ∧
      (waiting < 256 → heldFor s source (leAt b 8 8) = none → (leAt b 6 2 = 0 ∨ 0x14 < leAt b 6 2) →
        Runs (.managementMessage source port waiting b) s (fun t =>
          OnlyAnswered s t { source, ident := leAt b 8 8, port } (leAt b 6 2) 2 0x01 []))))

/-- Signed requests (10/R313, R316, R317): an accepted request of each kind does what its kind says to the burned fuses or
unlocks SCAN, ends the nonce and is answered; one whose signer, signature, serial number or nonce fails is refused
with 0xCE and burns nothing; one that would leave no usable key, or revoke template 0, or lower the security version,
is refused. PROVISION (10/R314, R315, 19/R579): an image that nothing refuses burns its five steps in their order, and
all five make the module OWNED; an image on a module that is not MANUFACTURED is refused with 0x2B. Where the rules
leave a corner open it takes the model's reading (log entries 33 and 38). -/
def Obligations.FuseRequests : Prop :=
  (∀ s q body kind cmd arg s1, (kind = 1 ∧ cmd = .keyRevocation q body ∨ kind = 2 ∧ cmd = .templateRevocation q body ∨
      kind = 3 ∧ cmd = .debugRevocation q body ∨ kind = 4 ∧ cmd = .securityVersionRaise q body ∨ kind = 5 ∧ cmd = .scanUnlock q body ∨
      kind = 6 ∧ cmd = .rmaEntry q body) →
    Fresh s q → s.boot.phase = 6 → body.length = 296 → leAt body 0 4 = 0x52515A4D → leAt body 4 2 = kind → arg = leAt body 0x20 8 →
    (zeroAt body 6 2 && zeroAt body 0x29 55 && zeroAt body 0xC1 7) = true →
    s.fuse.nonce = some (BitVec.ofNat 128 (Sha.beNat ((body.drop 0x10).take 16))) →
    s1 = { s with fuse := { s.fuse with nonce := none } } →
    (signedOk s body kind true = false → Runs cmd s (fun t => Answered s t q 0x11 2 0xCE [] ∧
      t = { s1 with out := t.out, mgmt := { s.mgmt with held := t.mgmt.held } })) ∧
    (signedOk s body kind true = true → kindAllowed s kind = true →
      (∀ f, (kind = 1 ∧ arg < 16 ∧ usableAfter s.fuses arg ≠ [] ∧ f = { s.fuses with keyRevoked := Nat.lor s.fuses.keyRevoked arg } ∨
          kind = 2 ∧ arg < 256 ∧ Word.bitOf arg 0 = false ∧ f = { s.fuses with templRevoked := Nat.lor s.fuses.templRevoked arg } ∨
          kind = 3 ∧ arg < 256 ∧ f = { s.fuses with debugRevoked := Nat.lor s.fuses.debugRevoked arg } ∨
          kind = 4 ∧ 1 ≤ arg ∧ arg ≤ 128 ∧ s.fuses.svn ≤ arg ∧ f = { s.fuses with svn := arg } ∨
          kind = 6 ∧ arg = 0 ∧ f = { s.fuses with lifecycle := 3 }) →
        Runs cmd s (fun t => Answered s t q 0x11 0 0 [] ∧
          t = { s1 with out := t.out, mgmt := { s.mgmt with held := t.mgmt.held }, fuses := f })) ∧
      (kind = 5 → arg = 0 → s.ctxs = [] → s.parts = [] → Runs cmd s (fun t => Answered s t q 0x11 0 0 [] ∧
        t = { s1 with out := t.out, mgmt := { s.mgmt with held := t.mgmt.held }, fuse := { s1.fuse with scan := true } })) ∧
      (∀ r, (kind = 1 ∧ arg < 16 ∧ usableAfter s.fuses arg = [] ∧ r = 0xCE ∨ kind = 2 ∧ arg < 256 ∧ Word.bitOf arg 0 = true ∧ r = 0xCE ∨
          kind = 4 ∧ 1 ≤ arg ∧ arg ≤ 128 ∧ arg < s.fuses.svn ∧ r = 0xCE ∨ kind = 1 ∧ 16 ≤ arg ∧ r = 0x03) →
        Runs cmd s (fun t => Answered s t q 0x11 2 r [] ∧
          t = { s1 with out := t.out, mgmt := { s.mgmt with held := t.mgmt.held } })))) ∧
  (∀ s q body, Fresh s q → s.boot.phase = 6 → body.length = 208 →
    (provRefusal s body = none →
      Runs (.provision q body 5) s (fun t => Answered s t q 0x12 0 0 [] ∧
        t = { s with out := t.out, mgmt := { s.mgmt with held := t.mgmt.held }
                     fuses := { provFields s.fuses body with lifecycle := Nat.lor s.fuses.lifecycle 1 } }) ∧
      Runs (.provision q body 0) s (fun t => t = s) ∧
      Runs (.provision q body 4) s (fun t => t = { s with fuses := provFields s.fuses body })) ∧
    (lifecycle s ≠ 0 → ∀ steps, Runs (.provision q body steps) s (fun t => OnlyAnswered s t q 0x12 2 0x2B [])))

/-! ### Hangs, escalations and resets -/

/-- Requested and triggered escalations (15/R469, R474-R476, R488, R489, 19/R577): one that nothing in progress covers is
in progress with its capture taken, HUB_ESC_STATUS and HUB_RST_CAUSE say its level and cause, and the alert is set
from level 2 on; one that is covered is absorbed; a request is refused with its reason. What the ladder does
(15/R466-R468, R474, R477-R480): level 1 tears its context down with 0xC4; level 2 resets its engine and is done;
level 3 tears the partition's contexts down with 0xC6; an overrun goes one level up; a watch that is off, or that
finds no waiter, declares nothing. Where the rules leave a corner open it takes the model's reading (log entries 29
and 30). -/
def Obligations.Escalations : Prop :=
  (∀ s cmd x, 4 ≤ s.boot.phase → (∀ e ∈ s.hang.escs, ¬ (x.level ≤ e.level ∧ Esc.over s e x = true)) →
    ((∃ core, cmd = Instr.coreStopTimeout core ∧ coreAvail s core = true ∧ x = { level := 2, target := (coreUnit s core).toNat, cause := 0xC5 }) ∨
      (∃ die proc, cmd = .heartbeatMissed die proc ∧ die < 8 ∧ proc < 2 ∧ x = { level := 2, target := (unitW 2 die proc 0).toNat, cause := 0xC5 }) ∨
      (∃ u, cmd = .engineNoAnswer u ∧ engineExists s u = true ∧ (rbits u 63 56 = 5 ∨ rbits u 63 56 = 7 ∨ rbits u 63 56 = 8 ∨ rbits u 63 56 = 9) ∧
        x = { level := 2, target := u.toNat, cause := 0xC5 }) ∨
      (∃ core id u, cmd = .transferCancelTimeout core id u ∧ engineExists s u = true ∧
        (∃ y ∈ (getCore s core).inflight, y.id = id ∧ (getCtx s y.ctx).state = 3 ∧ (getCtx s y.ctx).gen = y.gen) ∧
        x = { level := 2, target := u.toNat, cause := 0xC5 }) ∨
      (∃ v, cmd = .hubEscReq v ∧ hostOpen s = true ∧ 1 ≤ rbits v 2 0 ∧ rbits v 2 0 ≤ 4 ∧ targetRefusal s (rbits v 2 0) s.hang.target = none ∧
        x = escOf (rbits v 2 0) s.hang.target)) →
    Runs cmd s (fun t =>
      t = { s with hang := t.hang, boot := { s.boot with cause := x.cause, level := x.level, held := false, arrived := s.boot.phase
                                                         captured := true, slot := s.hang.capSeq % 8 }
                   ledger := t.ledger, mgmt := { s.mgmt with alert := t.mgmt.alert }, mem := t.mem, stepSt := t.stepSt } ∧
      x ∈ t.hang.escs ∧ t.hang.escLevel = x.level ∧ t.hang.escCause = x.cause ∧ t.hang.escSlot = s.hang.capSeq % 8 ∧
      t.hang.capSeq = s.hang.capSeq + 1 ∧ (2 ≤ x.level → t.mgmt.alert = Nat.lor s.mgmt.alert 1) ∧
      (x.level ≤ 3 → Recorded s t 2 x.cause))) ∧
  (∀ s core e, s.hang.escs.head? = some e → 4 ≤ e.level → Runs (.coreStopTimeout core) s (fun t => t = s)) ∧
  (∀ s (v : W64), hostOpen s = true →
    (rbits v 2 0 = 5 → Runs (.hubEscReq v) s (fun t => t = { s with hang := { s.hang with escReason := 0xCE } })) ∧
    (5 < rbits v 2 0 → Runs (.hubEscReq v) s (fun t => t = { s with hang := { s.hang with escReason := 0x03 } })) ∧
    (∀ r, 1 ≤ rbits v 2 0 → rbits v 2 0 ≤ 4 → targetRefusal s (rbits v 2 0) s.hang.target = some r →
      Runs (.hubEscReq v) s (fun t => t = { s with hang := { s.hang with escReason := r } }))) ∧
  (∀ s q body level, Fresh s q → s.boot.phase = 6 → body.length = 16 → level = leAt body 0 1 → s.hang.escs = [] →
    (1 ≤ level → level ≤ 5 → targetRefusal s level (BitVec.ofNat 64 (leAt body 8 8)) = none →
      Runs (.escalate q body) s (fun t => Answered s t q 0xE 0 0 [] ∧ escOf level (BitVec.ofNat 64 (leAt body 8 8)) ∈ t.hang.escs ∧
        t.hang.escLevel = level ∧ t.cores = s.cores ∧ t.cmds = s.cmds)) ∧
    ((level = 0 ∨ 5 < level) → Runs (.escalate q body) s (fun t => OnlyAnswered s t q 0xE 2 0x03 []))) ∧
  (∀ s ctx e x, s.hang.escs.find? (fun e => e.level == 1 && e.target == ctx && !e.run) = some e → x = getCtx s ctx → x.gen = e.gen →
    ((x.state = 1 ∨ x.state = 2) → Runs (.escalationContext ctx) s (fun t => (getCtx t ctx).state = 3 ∧ (getCtx t ctx).reason = 0xC4 ∧
      (getCtx t ctx).destroyCmd = none ∧ { e with run := true } ∈ t.hang.escs ∧ t.parts = s.parts ∧ ∀ k, k ≠ ctx → getCtx t k = getCtx s k)) ∧
    (x.state = 4 → Runs (.escalationContext ctx) s (fun t => t = { s with hang := { s.hang with escs := s.hang.escs.filter (· != e) } }))) ∧
  (∀ s (u : W64) hit cut lost e cls die i, s.hang.escs.find? (fun e => e.level == 2 && e.target == u.toNat) = some e →
    cls = rbits u 63 56 → die = rbits u 55 52 → i = rbits u 51 40 → (cls ≠ 2 ∨ tget 0 s.cpActive die ≠ i ∨ spareProc s die = true) →
    Runs (.escalationEngine u hit cut lost) s (fun t => e ∉ t.hang.escs ∧ t.ctxs = s.ctxs ∧ t.parts = s.parts ∧ t.tallies = s.tallies ∧
      (cls = 1 → ∀ c, coreOfSite s die i = some c → (getCore t c).run = 0 ∧ (getCore t c).stations = List.replicate 6 {} ∧
        (getCore t c).bins = [] ∧ (getCore t c).inflight = [] ∧ (getCore t c).vregs = List.replicate 32 {}) ∧
      (cls = 2 → tget 0 s.cpActive die = i → tget 0 t.cpActive die = 1 - i) ∧
      (cls = 5 → (getChan t (dieChannel die i)).genRun = 0 ∧ (getChan t (dieChannel die i)).mRun = 0 ∧
        (getChan t (dieChannel die i)).corrected = (getChan s (dieChannel die i)).corrected ∧
        (getChan t (dieChannel die i)).state = if (getChan s (dieChannel die i)).state = 4 then 4 else 1) ∧
      (cls = 7 → (tget {} t.mem.slices (die * 32 + i)).lines = [] ∧ (tget {} t.mem.slices (die * 32 + i)).changing = false) ∧
      (cls = 9 → (getPort s (die * 6 + i)).state ≠ 4 →
        (getPort t (die * 6 + i)).state = (if portEnabled (getPort s (die * 6 + i)) then 1 else 0) ∧ (getPort t (die * 6 + i)).trained = false))) ∧
  (∀ s part lost e, s.hang.escs.find? (fun e => e.level == 3 && e.target == part && !e.run) = some e → tsorted s.ctxs = true →
    Runs (.escalationPartition part lost) s (fun t =>
      (∀ k, (getCtx s k).part = part → ((getCtx s k).state = 1 ∨ (getCtx s k).state = 2) → (getCtx t k).state = 3 ∧ (getCtx t k).reason = 0xC6) ∧
      (∀ k, (getCtx s k).part ≠ part → getCtx t k = getCtx s k) ∧ t.parts = s.parts ∧ t.tallies = s.tallies)) ∧
  (∀ s e target, s.hang.escs = [e] → e.level = 3 → e.target = target → 4 ≤ s.boot.phase →
    Runs (.escalationOverrun 3 target) s (fun t => t.hang.escs = [{ level := 4, target := 0, cause := 0xC7 }] ∧ t.hang.escLevel = 4 ∧
      t.cores = s.cores ∧ t.cmds = s.cmds)) ∧
  (∀ s, (s.boot.phase ≠ 6 ∨ rbit s.hang.cfg 63 = false) →
    Runs .hangEvaluation s (fun t => t = { s with hang := { s.hang with since := [] } })) ∧
  (∀ s, s.boot.phase = 6 → rbit s.hang.cfg 63 = true → (∀ e ∈ s.ctxs, waitersOf s e.1 = []) →
    Runs .hangEvaluation s (fun t => t = { s with hang := { s.hang with since := [], told := [] } }))

/-- Resets (15/R469, R474, R475, 16/R491, R500-R502, 18/R558, 19/R578): a reset by pin, by the watchdog, by level 4 or
after a failed power cycle restarts the module in its assertion phase with its cause and level, keeps the fuses, the
boot flash and the ledger's records, and forgets queues, contexts and memories; a power-on reset keeps the fuses and
the flash; a module that is late to be ready, and level 5, drive the power-cycle request. Where the rules leave a
corner open it takes the model's reading (log entry 27). -/
def Obligations.Resets : Prop :=
  (∀ s cmd cause level, (cmd = Instr.resetNAsserted ∧ powered s = true ∧ cause = 0xC1 ∧ level = 4 ∨
      cmd = .stewardWatchdog ∧ powered s = true ∧ 4 ≤ s.boot.phase ∧ s.hang.escs = [] ∧ cause = 0xC3 ∧ level = 4 ∨
      cmd = .inputLoss ∧ powered s = true ∧ s.boot.phase ≠ 0 ∧ cause = 0xC0 ∧ level = 5) →
    s.boot.level4 = [] →
    Runs cmd s (fun t => t.boot.phase = 0 ∧ t.boot.cause = cause ∧ t.boot.level = level ∧ t.boot.arrived = s.boot.phase ∧
      t.boot.captured = false ∧ t.boot.bankA = s.boot.bankA ∧ t.boot.bankBB = s.boot.bankBB ∧ t.boot.dir0 = s.boot.dir0 ∧ t.boot.dir1 = s.boot.dir1 ∧
      t.fuses = s.fuses ∧ t.ledger.records = s.ledger.records ∧ t.fuse.nonce = none ∧ t.queues = [] ∧ t.cmds = [] ∧ t.ctxs = [] ∧
      t.parts = [] ∧ t.cores = [] ∧ t.mem = {} ∧ t.fab.chip = none ∧ t.fab.stall = s.fab.stall ∧ t.time = s.time ∧ t.mgmt.addr = s.mgmt.addr)) ∧
  (∀ s e, s.hang.escs.find? (fun e => e.level == 4) = some e → s.boot.level4 = [] →
    Runs .escalationChip s (fun t => t.boot.phase = 0 ∧ t.boot.cause = e.cause ∧ t.boot.level = 4 ∧ t.boot.captured = true ∧
      t.boot.slot = s.hang.escSlot ∧ t.fuses = s.fuses ∧ t.queues = [] ∧ t.cmds = [] ∧ t.ctxs = [] ∧ t.hang.capMem = s.hang.capMem)) ∧
  (∀ s e, s.hang.escs.find? (fun e => e.level == 5) = some e →
    Runs .escalationPowerCycle s (fun t => t.boot = { s.boot with pwrCyc := true, cause := e.cause, level := 5 } ∧ t.fuses = s.fuses ∧
      t.cmds = s.cmds ∧ t.cores = s.cores)) ∧
  (∀ s, s.boot.pwrCyc = true → powered s = true → Runs .powerCycleTimeout s (fun t => t.boot.phase = 0 ∧ t.boot.pwrCyc = false ∧
    t.boot.cause = 0xC7 ∧ t.boot.level = 4 ∧ t.fuses = s.fuses ∧ t.ctxs = [] ∧ t.cmds = [])) ∧
  (∀ s, s.boot.ended4 ≠ none → s.boot.phase ≠ 0 → s.boot.phase ≠ 6 → s.boot.phase ≠ 7 → s.boot.pwrCyc = false →
    Runs .readyTimeout s (fun t => t = { s with boot := { s.boot with pwrCyc := true, cause := 0xC7, level := 5 }
                                                mgmt := { s.mgmt with alert := Nat.lor s.mgmt.alert 1 } })) ∧
  (∀ s, Runs .powerOn s (fun t => t.boot = { dir0 := s.boot.dir0, dir1 := s.boot.dir1, bankA := s.boot.bankA, bankBB := s.boot.bankBB } ∧
    t.fuses = s.fuses ∧ t.fuse = {} ∧ t.queues = [] ∧ t.cmds = [] ∧ t.ctxs = [] ∧ t.parts = [] ∧ t.cores = [] ∧ t.mem = {} ∧ t.fab = {} ∧
    t.pwr = {} ∧ t.hang = {} ∧ t.mgmt = {} ∧ t.ledger.bank = 0 ∧ t.ledger.mode = 0 ∧ t.time = 0#64 ∧ poweredTicks t = poweredTicks s ∧ t.pending = s.pending)) ∧
  (∀ s, s.boot.off = false → Runs .auxLoss s (fun t => t.boot.off = true ∧ t.boot.phase = 0 ∧ t.fuses = s.fuses ∧ t.ctxs = [] ∧
    t.cmds = [] ∧ t.queues = []))

/-- The phases of boot (16/R492-R499, R505-R508, 10/R318): the assertion phase ends; the fuses are sensed; the options are
the median of their 16 samples; the boot ROM starts the bank that verifies, the other one by fallback, or recovery;
the firmware phase, the training and the default partitions lead to ready. Where the rules leave a corner open it
takes the model's reading (log entries 26 and 38). -/
def Obligations.BootPhases : Prop :=
  (∀ s held, s.boot.phase = 0 → powered s = true → Runs (.assertionEnd held) s (fun t =>
    t = { s with boot := t.boot, pwr := { s.pwr with refOk := true, lockA := true } } ∧ t.boot.phase = s.boot.from_ ∧ t.boot.held = held)) ∧
  (∀ s, s.boot.phase = 1 → Runs .fuseSense s (fun t => t = { s with boot := { s.boot with phase := 2 }
                                                                    fuse := { s.fuse with sensed := true, f := s.fuses, prov := provOf s.fuses } })) ∧
  (∀ s samples raw, s.boot.phase = 2 → samples.length = 16 → raw = medianOf (samples.map (· % 1024)) →
    Runs (.optionLoading samples) s (fun t => t = { s with boot := t.boot, mgmt := { s.mgmt with port1 := t.mgmt.port1 } } ∧
      t.boot.phase = 3 ∧ t.boot.raw = raw ∧ t.boot.code = min 15 ((30 * raw + 1023) / 2046) ∧
      t.boot.single = Word.bitOf t.boot.code 2 ∧ t.boot.bankB = Word.bitOf t.boot.code 1 ∧ t.boot.laneRev = Word.bitOf t.boot.code 0 ∧
      t.boot.unstable = samples.any (fun x => cfgCode (x % 1024) != t.boot.code))) ∧
  (∀ s d k, s.boot.phase = 3 → newestDir s.boot = some (d, k) → d.tries < 3 →
    (verifyImage s (bankImage s d.active) = true → Runs .bootRom s (fun t => t = { s with boot := t.boot } ∧ t.boot.phase = 4 ∧
      t.boot.bank = d.active ∧ t.boot.fallback = false ∧ t.boot.romReason = 0 ∧ t.boot.tries = d.tries + 1)) ∧
    (verifyImage s (bankImage s d.active) = false → verifyImage s (bankImage s (1 - d.active)) = true → d.active ≤ 1 →
      Runs .bootRom s (fun t => t = { s with boot := t.boot } ∧ t.boot.phase = 4 ∧ t.boot.bank = 1 - d.active ∧ t.boot.fallback = true ∧
        t.boot.romReason = 0xC9 ∧ t.boot.tries = 1)) ∧
    (verifyImage s (bankImage s d.active) = false → verifyImage s (bankImage s (1 - d.active)) = false →
      Runs .bootRom s (fun t => t.boot.phase = 7 ∧ t.boot.romReason = 0xCA ∧
        t = { s with boot := t.boot, mgmt := { s.mgmt with alert := Nat.lor s.mgmt.alert 32 } }))) ∧
  (∀ s torn routes rings tests, s.boot.phase = 4 → Runs (.firmwarePhase torn routes rings tests) s (fun t => t.boot.phase = 5 ∧
    t.fuses = s.fuses ∧ t.cmds = s.cmds ∧ t.ctxs = s.ctxs ∧ t.parts = s.parts ∧ t.queues = s.queues ∧ t.boot.bank = s.boot.bank)) ∧
  (∀ s, s.boot.phase = 5 → (getChan s 0).state = 0 → Runs (.phyTraining [] []) s (fun t => t.boot.phase = 5 ∧ (getChan t 0).state ≠ 0 ∧
    t.cmds = s.cmds ∧ t.cores = s.cores ∧ t.parts = s.parts ∧ t.mem.cells = s.mem.cells)) ∧
  (∀ s, s.boot.phase = 5 → (getChan s 0).state ≠ 0 → s.fuse.prov = 3 → (∀ p ∈ s.events.pins, p.level = true) →
    Runs .ready s (fun t => t = { s with boot := t.boot } ∧ t.boot.phase = 6 ∧ t.boot.bank = s.boot.bank)) ∧
  (∀ s, s.boot.phase = 5 → (getChan s 0).state ≠ 0 → s.fuse.prov ≠ 3 → s.boot.template = 0 → (∀ p ∈ s.events.pins, p.level = true) →
    Runs .ready s (fun t => t.boot.phase = 6 ∧ (getPart t 0).state = 2 ∧ (getPart t 0).dies = List.range 8 ∧ (getPart t 0).templ = 0 ∧
      (getPart t 0).enable = false ∧ t.cmds = s.cmds ∧ t.queues = s.queues ∧ t.ctxs = s.ctxs ∧ ∀ p, p ≠ 0 → getPart t p = getPart s p))

/-! ### Clocks, power and heat -/

/-- Clocks and operating points (18/R540-R548): the loss of the reference starts the holdover and is told, its return ends
it; a PLL that loses lock hands over to the standby when that can lock, and pauses the clocks else; a change of target
begins a step to the adjacent point, which the switch completes; a step without the reference, or whose PLL does not
lock twice, is refused with 0xA6. The backstop and droop (18/R550-R554): a microsecond takes the next bubble count
from its measurements, opens an engagement when bubbles begin and closes it when they end, and counts its energy; the
limit goes one point slower after 1 ms of 4 or more bubbles, at most once a millisecond; a droop pauses the clocks and
is counted. Heat and the input (18/R556, R558): two samples at the trip temperatures switch the module off until a
power cycle; a junction at 100 °C puts the limit one point slower, at most once in its period; a sample of 95 °C is
told once; a 48 V input out of range is told and remembered until it is back. Where the rules leave a corner open it
takes the model's reading (log entry 28). -/
def Obligations.ClocksAndPower : Prop :=
  (∀ s, s.pwr.refOk = true → Runs .referenceLost s (fun t => t = { s with pwr := { s.pwr with refOk := false, holdover := true }, fab := t.fab, events := t.events } ∧
    (s.fab.timeSt.state ≠ 2 → t.fab = s.fab) ∧ (s.fab.timeSt.state = 2 → t.fab.timeSt.state = 3))) ∧
  (∀ s, s.boot.phase ≠ 0 → powered s = true → Runs .referenceRestored s (fun t =>
    t = { s with pwr := { s.pwr with refOk := true, holdover := false } })) ∧
  (∀ s, s.boot.phase ≠ 0 → powered s = true → s.pwr.active = 0 →
    Runs (.pllLockLost true) s (fun t => t = { s with events := t.events, pwr := { s.pwr with
      lockA := false, lockB := true, active := 1
      standbyOp := s.pwr.op, stepping := false, paused := false, switches := min (s.pwr.switches + 1) (2 ^ 32 - 1) } }) ∧
    Runs (.pllLockLost false) s (fun t => t = { s with events := t.events, pwr := { s.pwr with
      lockA := false, lockB := false
      stepping := false, paused := true } })) ∧
  (∀ s, s.boot.phase = 6 → s.pwr.stepping = false → s.pwr.op ≠ effOp s → s.pwr.active = 0 →
    (s.pwr.refOk = true → Runs .opTargetChange s (fun t => t = { s with pwr := { s.pwr with
      lockB := false, stepping := true, retried := false
      standbyOp := if effOp s < s.pwr.op then s.pwr.op - 1 else s.pwr.op + 1 } })) ∧
    (s.pwr.refOk = false → Runs .opTargetChange s (fun t => t = { s with pwr := { s.pwr with stepping := false }, events := t.events }))) ∧
  (∀ s, s.pwr.stepping = true → s.pwr.active = 0 →
    (s.pwr.standbyOp = s.pwr.op ∨ effOp s = s.pwr.standbyOp → Runs .opSwitch s (fun t =>
      t = { s with pwr := { s.pwr with
        lockB := true, op := s.pwr.standbyOp, active := 1, standbyOp := s.pwr.op, stepping := false
        switches := min (s.pwr.switches + 1) (2 ^ 32 - 1) } })) ∧
    (s.pwr.retried = false → Runs .pllLockTimeout s (fun t => t = { s with pwr := { s.pwr with retried := true } })) ∧
    (s.pwr.retried = true → Runs .pllLockTimeout s (fun t => t = { s with pwr := { s.pwr with stepping := false }, events := t.events }))) ∧
  (∀ s x n m, s.boot.phase ≠ 0 → powered s = true → n = s.pwr.bubbles → m = nextBubbles n (effCap s * 1000) x →
    Runs (.backstopTick x) s (fun t => t = { s with pwr := t.pwr, events := t.events } ∧ t.pwr.bubbles = m ∧ t.pwr.power = x.pAvg ∧
      t.pwr.energy = s.pwr.energy + x.pNow ∧ m ≤ max n 32 ∧
      (n = 0 → m ≠ 0 → t.pwr.engagements = min (s.pwr.engagements + 1) (2 ^ 32 - 1) ∧ ∃ e ∈ t.pwr.log, e.start = s.time ∧ e.stop = 0#64) ∧
      (n = 0 → m = 0 → t.pwr.log = s.pwr.log ∧ t.events = s.events ∧ t.pwr.slowSince = none) ∧
      (4 ≤ m → s.pwr.slowSince = none → t.pwr.slowSince = some s.time.toNat) ∧ (m < 4 → t.pwr.slowSince = none))) ∧
  (∀ s t0, s.boot.phase = 6 → s.pwr.slowSince = some t0 → t0 + 100000 ≤ s.time.toNat →
    (s.pwr.slowAt = 0 ∨ s.pwr.slowAt + 100000 ≤ s.time.toNat) →
    Runs .backstopLimitUpdate s (fun t => t = { s with pwr := { s.pwr with backLimit := min 3 (s.pwr.backLimit + 1), slowAt := s.time.toNat } })) ∧
  (∀ s, s.boot.phase = 6 → s.pwr.slowSince = none → s.pwr.backLimit ≠ 0 → s.pwr.history = [] →
    Runs .backstopLimitUpdate s (fun t => t = { s with pwr := { s.pwr with backLimit := s.pwr.backLimit - 1 } })) ∧
  (∀ s die, s.boot.phase ≠ 0 → powered s = true → die < 8 →
    Runs (.droop die) s (fun t => t = { s with pwr := { s.pwr with droop := min (s.pwr.droop + 1) (2 ^ 32 - 1), dieDroop := t.pwr.dieDroop } } ∧
      tget 0 t.pwr.dieDroop die = tget 0 s.pwr.dieDroop die + 1 ∧ ∀ k, k ≠ die → tget 0 t.pwr.dieDroop k = tget 0 s.pwr.dieDroop k)) ∧
  (∀ s j ji m mi, s.boot.phase ≠ 0 → powered s = true → tripping j m = true → tripping s.pwr.hottest s.pwr.hotMem = true →
    Runs (.thermalResponse j ji m mi) s (fun t => t.boot.tripped = true ∧ t.boot.phase = 0 ∧ t.boot.cause = s.boot.cause ∧
      t.mgmt.alert = Nat.lor s.mgmt.alert 16 ∧ t.fuses = s.fuses ∧ t.cmds = [] ∧ t.queues = [] ∧ t.ctxs = [])) ∧
  (∀ s j ji m mi, s.boot.phase = 6 → powered s = true → degC 100 ≤ j → j < degC 103 → m < degC 95 → s.pwr.margin = true →
    (s.pwr.slowedAt = 0 ∨ s.pwr.slowedAt + 1000000 ≤ s.time.toNat) →
    Runs (.thermalResponse j ji m mi) s (fun t => t = { s with pwr := t.pwr } ∧ t.pwr.thermLimit = min 3 (s.pwr.thermLimit + 1) ∧
      t.pwr.slowedAt = s.time.toNat ∧ t.pwr.hottest = j ∧ t.pwr.hotMem = m ∧ t.pwr.thermCap = s.pwr.thermCap)) ∧
  (∀ s j ji m mi, s.boot.phase = 6 → powered s = true → degC 95 ≤ j → j < degC 98 → m < degC 95 → s.pwr.margin = false → s.pwr.thermCap = 4800 →
    Runs (.thermalResponse j ji m mi) s (fun t => t.pwr.margin = true ∧ t.pwr.thermLimit = s.pwr.thermLimit ∧ t.cores = s.cores ∧
      t.cmds = s.cmds ∧ t.events = (raiseHeat s 1 ji).events)) ∧
  (∀ s, s.boot.phase ≠ 0 → powered s = true → Runs .inputOutOfRange s (fun t =>
    t = { s with pwr := { s.pwr with inputLow := true }, events := t.events })) ∧
  (∀ s, Runs .inputBackInRange s (fun t => t = { s with pwr := { s.pwr with inputLow := false } }))

/-! ### The whole machine -/

/-- A step runs the command at the front of the queue on the state with the queue's rest. On an empty queue 10 ns pass
(the model's choice, log entry 1): the time base counts one, the array clocks run once the module is ready, and
nothing but the counters of time changes. -/
def Obligations.StepRunsFront : Prop :=
  (∀ (c : Instr) (rest : List Instr) (s : State), s.pending = c :: rest → step s = exec c { s with pending := rest }) ∧
  (∀ s : State, s.pending = [] → ∃ t, step s = .next t ∧ t.time = s.time + 1#64 ∧
    t = { s with time := t.time, arrayCycles := t.arrayCycles, pwr := t.pwr, launches := t.launches } ∧
    (s.boot.phase ≠ 6 → t = { s with time := t.time }) ∧
    (s.boot.phase = 6 → t.arrayCycles = s.arrayCycles + BitVec.ofNat 64 (cyclesPerTick s.pwr.op) ∧
      (s.pwr.bubbles = 0 → t.launches = s.launches ∧ t.pwr = { s.pwr with ticks := t.pwr.ticks })))

/-- The queue of waiting commands is first in, first out: no command touches it, so each command runs once, in the order
in which it was given. Where the rules leave a corner open it takes the model's reading (log entry 2). -/
def Obligations.CommandsInOrder : Prop :=
  (∀ (c : Instr) (s t : State), exec c s = .next t → t.pending = s.pending) ∧
  (∀ (c : Instr) (rest : List Instr) (s t : State), s.pending = c :: rest → step s = .next t → t.pending = rest)

/-- Fuses are only ever burned (10/R312-R317): every step keeps the legal fuse states, keeps what the factory burned, and
clears no burned bit; so no lifecycle state leads back to an earlier one, a revoked key, template or permission stays
revoked, and the security version never falls. -/
def Obligations.FusesOnlyGain : Prop :=
  ∀ s t : State, FusesLegal s → step s = .next t → FusesLegal t ∧ Gained s.fuses t.fuses

/-- Memory stays in its canonical form: every step keeps the module's bytes and tags as lists that rise in address and
list nothing that an unlisted address reads as, so that equal memories are equal data. -/
def Obligations.MemoryCanonical : Prop :=
  ∀ s t : State, Memory.wf s.mem = true → step s = .next t → Memory.wf t.mem = true

/-- At power-on the fuses are legal, memory is in its canonical form and lists nothing, nothing waits, and the hub is in
the assertion phase of a power-on reset: no queue, command, partition, context or launch exists. Where the rules leave
a corner open it takes the model's reading (log entries 4, 5 and 9). -/
def Obligations.ResetState : Prop :=
  FusesLegal State.reset ∧ Memory.wf State.reset.mem = true ∧ State.reset.mem.cells = [] ∧ State.reset.mem.tags = [] ∧
    State.reset.pending = [] ∧ State.reset.queues = [] ∧ State.reset.cmds = [] ∧ State.reset.parts = [] ∧
    State.reset.ctxs = [] ∧ State.reset.launches = [] ∧ State.reset.boot.phase = 0 ∧ State.reset.boot.from_ = 1 ∧
    State.reset.boot.cause = 0xC0 ∧ State.reset.boot.level = 5 ∧ State.reset.time = 0#64

/-- The registers of the hub block read the reset values of their table (20/R594, R595) at power-on, and after every chip-
level reset all of them do but those of scope power-on and fuse sense, the ledger's, and those that show a line or
keep a part. Where the rules leave a corner open it takes the model's reading (log entry 27). -/
def Obligations.ResetRegisters : Prop :=
  (∀ e ∈ hubResets ++ hubResetsOther, ∀ i, i < e.count → regValue State.reset (e.first + e.stride * i) = e.value) ∧
  (∀ s cause level slot, ∀ e ∈ hubResets, ∀ i, i < e.count →
    regValue (chipReset s cause level slot) (e.first + e.stride * i) = e.value)

/-- The module's stall (19/R573): SET_STALL sets it, but for a change while a chip number is assigned, which is refused
with 0xCE; HUB_CHIP.STALL and discovery frames show it; a chip-level reset keeps it and power-on clears it. -/
def Obligations.StallReported : Prop :=
  (∀ s q body n, Fresh s q → s.boot.phase ≠ 7 → q.source = 0 → body.length = 1 → n = leAt body 0 1 → n ≤ 16 →
    ((s.fab.chip = none ∨ s.fab.stall = some n) → Runs (.setStall q body) s (fun t => Answered s t q 4 0 0 [] ∧ t.fab.stall = some n)) ∧
    (s.fab.chip ≠ none → s.fab.stall ≠ some n → Runs (.setStall q body) s (fun t =>
      Answered s t q 4 2 0xCE [] ∧ t.fab.stall = s.fab.stall))) ∧
  (∀ s n p, p < 48 → s.fab.stall = some n → n ≤ 16 → regValue s 0xC0000 / 2 ^ 16 % 2 ^ 5 = n ∧
    (discoveryFrame s p).aux / 2 ^ 8 % 2 ^ 8 = n) ∧
  (∀ s p, p < 48 → s.fab.stall = none → regValue s 0xC0000 / 2 ^ 16 % 2 ^ 5 = 0x1F ∧ (discoveryFrame s p).aux / 2 ^ 8 % 2 ^ 8 = 0xFF) ∧
  (∀ s cause level slot, (chipReset s cause level slot).fab.stall = s.fab.stall) ∧
  (∀ s, Runs .powerOn s (fun t => t.fab.stall = none))

/-- HUB_ID (20/R597): from the start of the firmware phase onward, whatever the state, an 8-byte read of it returns the
constant, and changes nothing. -/
def Obligations.HubIdConstant : Prop :=
  ∀ s, 4 ≤ s.boot.phase → s.pcie.linkUp = true → s.pcie.d3hot = false → Runs (.regReadRefused 0 8) s (fun t =>
    t = { s with out := s.out ++ [.pcieRead [0x4D#8, 0x5A#8, 0x55#8, 0x48#8, 0x01#8, 0#8, 0#8, 0#8]] })

/-- HUB_RST_COUNT (16/R513): bits [31:0] hold the chip-level resets since power-on, saturating, the other bits read 0, and
a discovery frame carries the same count. -/
def Obligations.ResetCount : Prop :=
  (∀ s, s.fab.resets < 2 ^ 32 → regValue s 0xB0008 = s.fab.resets ∧ bar0Value s 0xB0008 = s.fab.resets ∧
    ∀ p, (discoveryFrame s p).index = s.fab.resets) ∧
  (∀ s, regValue s 0xB0008 < 2 ^ 32) ∧
  (∀ s cause level slot, s.fab.resets < 2 ^ 32 →
    (chipReset s cause level slot).fab.resets = min (s.fab.resets + 1) (2 ^ 32 - 1)) ∧
  (∀ s, powered s = true → s.fab.resets < 2 ^ 32 → Runs .resetNAsserted s (fun t => t.fab.resets = min (s.fab.resets + 1) (2 ^ 32 - 1))) ∧
  (∀ s, Runs .powerOn s (fun t => t.fab.resets = 0))
end

