-- ==== Sys2Proof/Laws/Tab.lean ====
section
/-!
SUPPORT. What reading a table gives after writing it.
-/
namespace Sys2Proof.Machine

theorem tget_tdel {α : Type} (d : α) (t : Tab α) (i j : Nat) : tget d (tdel t i) j = if j = i then d else tget d t j := by
  fun_induction tdel t i <;> grind [tget]

theorem tget_tput {α : Type} (d : α) (t : Tab α) (i : Nat) (x : α) (j : Nat) :
    tget d (tput t i x) j = if j = i then x else tget d t j := by
  fun_induction tput t i x <;> grind [tget]

/-- A table reads as written at the key and as before elsewhere. -/
theorem tget_tset {α : Type} [DecidableEq α] (d : α) (t : Tab α) (i : Nat) (x : α) (j : Nat) :
    tget d (tset d t i x) j = if j = i then x else tget d t j := by
  unfold tset
  split <;> simp_all [tget_tdel, tget_tput]

theorem tget_tset_self {α : Type} [DecidableEq α] (d : α) (t : Tab α) (i : Nat) (x : α) : tget d (tset d t i x) i = x := by
  simp [tget_tset]

theorem length_lset {α : Type} (l : List α) (i : Nat) (x : α) : (lset l i x).length = l.length := by
  fun_induction lset l i x <;> simp_all

/-- A list reads as written at the place, when it has that place, and as before elsewhere. -/
theorem getD_lset {α : Type} (l : List α) (i : Nat) (x d : α) (j : Nat) :
    (lset l i x).getD j d = if j = i ∧ i < l.length then x else l.getD j d := by
  induction l generalizing i j with
  | nil => simp [lset]
  | cons a t ih =>
    cases i with
    | zero => cases j <;> simp [lset]
    | succ i =>
      cases j with
      | zero => simp [lset]
      | succ j => simpa [lset] using ih i j

theorem tsorted_iff {α : Type} (t : Tab α) : tsorted t = true ↔ (t.map Prod.fst).Pairwise (· < ·) := by
  induction t with
  | nil => simp [tsorted]
  | cons a t ih =>
    obtain ⟨k, v⟩ := a
    cases t with
    | nil => simp [tsorted]
    | cons b t =>
      obtain ⟨k', v'⟩ := b
      simp only [tsorted, Bool.and_eq_true, decide_eq_true_eq, ih, List.map_cons, List.pairwise_cons]
      constructor
      · rintro ⟨h, h1, h2⟩
        refine ⟨?_, h1, h2⟩
        intro x hx
        rcases List.mem_cons.1 hx with rfl | hx
        · exact h
        · exact Nat.lt_trans h (h1 x hx)
      · rintro ⟨h, h1, h2⟩
        exact ⟨h k' (List.mem_cons_self ..), h1, h2⟩

theorem mem_keys_tdel {α : Type} (t : Tab α) (i k : Nat) : k ∈ (tdel t i).map Prod.fst ↔ k ∈ t.map Prod.fst ∧ k ≠ i := by
  fun_induction tdel t i <;> grind

theorem mem_keys_tput {α : Type} (t : Tab α) (i : Nat) (x : α) (k : Nat) :
    k ∈ (tput t i x).map Prod.fst ↔ k = i ∨ k ∈ t.map Prod.fst := by
  fun_induction tput t i x <;> grind

theorem tsorted_tdel {α : Type} (t : Tab α) (i : Nat) (h : tsorted t = true) : tsorted (tdel t i) = true := by
  rw [tsorted_iff] at *
  induction t with
  | nil => exact h
  | cons a t ih =>
    obtain ⟨k, v⟩ := a
    simp only [List.map_cons, List.pairwise_cons] at h
    unfold tdel
    split
    · exact ih h.2
    · simp only [List.map_cons, List.pairwise_cons]
      exact ⟨fun x hx => h.1 x ((mem_keys_tdel ..).1 hx).1, ih h.2⟩

theorem tsorted_tput {α : Type} (t : Tab α) (i : Nat) (x : α) (h : tsorted t = true) : tsorted (tput t i x) = true := by
  rw [tsorted_iff] at *
  induction t with
  | nil => simp [tput]
  | cons a t ih =>
    obtain ⟨k, v⟩ := a
    simp only [List.map_cons, List.pairwise_cons] at h
    unfold tput
    split
    · simpa using h
    · split
      · rename_i h2
        simp only [List.map_cons, List.pairwise_cons]
        refine ⟨?_, h⟩
        intro y hy
        rcases List.mem_cons.1 hy with rfl | hy
        · exact h2
        · exact Nat.lt_trans h2 (h.1 y hy)
      · simp only [List.map_cons, List.pairwise_cons]
        refine ⟨?_, ih h.2⟩
        intro y hy
        rcases (mem_keys_tput ..).1 hy with rfl | hy
        · omega
        · exact h.1 y hy

/-- A sorted table stays sorted when a value is set. -/
theorem tsorted_tset {α : Type} [DecidableEq α] (d : α) (t : Tab α) (i : Nat) (x : α) (h : tsorted t = true) :
    tsorted (tset d t i x) = true := by
  unfold tset
  split
  · exact tsorted_tdel t i h
  · exact tsorted_tput t i x h

end Sys2Proof.Machine
end

