-- ==== Sys2Proof/Laws/Memory.lean ====
section
/-!
SUPPORT. The memory laws: reading after writing, and the canonical form of the cells.
-/
namespace Sys2Proof.Machine

theorem cellsWf_iff (c : List Host.Cell) :
    cellsWf c = true ↔ (c.map Prod.fst).Pairwise (· < ·) ∧ ∀ x ∈ c, x.2 ≠ 0#8 := by
  induction c with
  | nil => simp [cellsWf]
  | cons a t ih =>
    obtain ⟨k, v⟩ := a
    cases t with
    | nil => simp [cellsWf]
    | cons b t =>
      obtain ⟨k', v'⟩ := b
      simp only [cellsWf, Bool.and_eq_true, decide_eq_true_eq, ih, List.map_cons, List.pairwise_cons, bne_iff_ne, List.mem_cons]
      constructor
      · rintro ⟨⟨h0, h⟩, ⟨h1, h2⟩, h3⟩
        refine ⟨⟨?_, h1, h2⟩, ?_⟩
        · intro x hx
          rcases hx with rfl | hx
          · exact h
          · exact Nat.lt_trans h (h1 x hx)
        · rintro x (rfl | hx)
          · exact h0
          · exact h3 x hx
      · rintro ⟨⟨h, h1, h2⟩, h3⟩
        exact ⟨⟨h3 _ (.inl rfl), h k' (.inl rfl)⟩, ⟨h1, h2⟩, fun x hx => h3 x (.inr hx)⟩

@[simp] theorem readByte_nil (x : Nat) : readByte [] x = 0#8 := rfl
theorem readByte_cons (k : Nat) (v : Byte) (t : List Host.Cell) (x : Nat) :
    readByte ((k, v) :: t) x = if k = x then v else readByte t x := by
  simp only [readByte, List.find?_cons]
  by_cases h : k = x
  · simp [h]
  · simp [h, beq_eq_false_iff_ne.2 h]

theorem readByte_none (c : List Host.Cell) (x : Nat) (h : ∀ y ∈ c, y.1 ≠ x) : readByte c x = 0#8 := by
  induction c with
  | nil => rfl
  | cons a t ih =>
    obtain ⟨k, v⟩ := a
    rw [readByte_cons, if_neg (h _ (List.mem_cons_self ..)), ih (fun y hy => h y (List.mem_cons_of_mem _ hy))]

theorem append_pairwise (c d : List Host.Cell) (hc : (c.map Prod.fst).Pairwise (· < ·)) (hd : (d.map Prod.fst).Pairwise (· < ·))
    (h : ∀ x ∈ c, ∀ y ∈ d, x.1 < y.1) : ((c ++ d).map Prod.fst).Pairwise (· < ·) := by
  rw [List.map_append, List.pairwise_append]
  refine ⟨hc, hd, ?_⟩
  intro x hx y hy
  obtain ⟨x', hx', rfl⟩ := List.mem_map.1 hx
  obtain ⟨y', hy', rfl⟩ := List.mem_map.1 hy
  exact h x' hx' y' hy'

theorem readByte_append (c d : List Host.Cell) (x : Nat) (h : (∀ y ∈ c, y.1 ≠ x) ∨ (∀ y ∈ d, y.1 ≠ x)) :
    readByte (c ++ d) x = if (∀ y ∈ c, y.1 ≠ x) then readByte d x else readByte c x := by
  induction c with
  | nil => simp
  | cons a t ih =>
    obtain ⟨k, v⟩ := a
    rw [List.cons_append, readByte_cons, readByte_cons]
    by_cases hk : k = x
    · simp [hk]
    · rw [if_neg hk, if_neg hk, ih (h.imp (fun h y hy => h y (List.mem_cons_of_mem _ hy)) id)]
      have : (∀ y ∈ ((k, v) :: t : List Host.Cell), y.1 ≠ x) ↔ ∀ y ∈ t, y.1 ≠ x := by
        constructor
        · exact fun h y hy => h y (List.mem_cons_of_mem _ hy)
        · intro h y hy
          rcases List.mem_cons.1 hy with rfl | hy
          · exact hk
          · exact h y hy
      simp only [this]

theorem readByte_takeWhile (c : List Host.Cell) (a x : Nat) (hs : (c.map Prod.fst).Pairwise (· < ·)) :
    readByte (c.takeWhile (fun y => decide (y.1 < a))) x = if x < a then readByte c x else 0#8 := by
  induction c with
  | nil => simp
  | cons p t ih =>
    obtain ⟨k, v⟩ := p
    simp only [List.map_cons, List.pairwise_cons] at hs
    rw [List.takeWhile_cons]
    by_cases hk : k < a
    · simp only [hk, decide_true, if_true]
      rw [readByte_cons, readByte_cons, ih hs.2]
      split <;> split <;> first | rfl | omega
    · simp only [hk, decide_false, Bool.false_eq_true, if_false, readByte_nil]
      split
      · rw [readByte_none]
        intro y hy
        rcases List.mem_cons.1 hy with rfl | hy
        · dsimp only; omega
        · have := hs.1 y.1 (List.mem_map_of_mem hy); omega
      · rfl

theorem readByte_dropWhile (c : List Host.Cell) (a x : Nat) (hs : (c.map Prod.fst).Pairwise (· < ·)) :
    readByte (c.dropWhile (fun y => decide (y.1 < a))) x = if x < a then 0#8 else readByte c x := by
  induction c with
  | nil => simp
  | cons p t ih =>
    obtain ⟨k, v⟩ := p
    simp only [List.map_cons, List.pairwise_cons] at hs
    rw [List.dropWhile_cons]
    by_cases hk : k < a
    · simp only [hk, decide_true, if_true]
      rw [readByte_cons, ih hs.2]
      by_cases h1 : x < a
      · simp [h1]
      · rw [if_neg h1, if_neg h1, if_neg (by omega)]
    · simp only [hk, decide_false, Bool.false_eq_true, if_false]
      split
      · rw [readByte_none]
        intro y hy
        rcases List.mem_cons.1 hy with rfl | hy
        · dsimp only; omega
        · have := hs.1 y.1 (List.mem_map_of_mem hy); omega
      · rfl

theorem mkCells_keys (a : Nat) (bs : List Byte) (y : Host.Cell) (h : y ∈ mkCells a bs) : a ≤ y.1 ∧ y.1 < a + bs.length ∧ y.2 ≠ 0#8 := by
  induction bs generalizing a with
  | nil => simp [mkCells] at h
  | cons b bs ih =>
    unfold mkCells at h
    split at h
    · have := ih _ h; simp only [List.length_cons]; exact ⟨by omega, by omega, this.2.2⟩
    · rcases List.mem_cons.1 h with rfl | h
      · simp only [List.length_cons]; exact ⟨by omega, by omega, by assumption⟩
      · have := ih _ h; simp only [List.length_cons]; exact ⟨by omega, by omega, this.2.2⟩

theorem mkCells_rising (a : Nat) (bs : List Byte) : ((mkCells a bs).map Prod.fst).Pairwise (· < ·) := by
  induction bs generalizing a with
  | nil => simp [mkCells]
  | cons b bs ih =>
    unfold mkCells
    split
    · exact ih _
    · simp only [List.map_cons, List.pairwise_cons]
      refine ⟨?_, ih _⟩
      intro k hk
      obtain ⟨y, hy, rfl⟩ := List.mem_map.1 hk
      have := mkCells_keys _ _ _ hy
      omega

theorem readByte_mkCells (a : Nat) (bs : List Byte) (x : Nat) :
    readByte (mkCells a bs) x = if a ≤ x ∧ x < a + bs.length then bs.getD (x - a) 0#8 else 0#8 := by
  induction bs generalizing a with
  | nil => simp [mkCells]
  | cons b bs ih =>
    unfold mkCells
    by_cases hx : x = a
    · subst hx
      have h0 : readByte (mkCells (x + 1) bs) x = 0#8 := by
        rw [readByte_none]; intro y hy; have := mkCells_keys _ _ _ hy; omega
      split
      · rename_i hb; rw [h0]; simp [hb]
      · simp [readByte_cons]
    · have h1 : readByte (mkCells (a + 1) bs) x = if a ≤ x ∧ x < a + (b :: bs).length then (b :: bs).getD (x - a) 0#8 else 0#8 := by
        rw [ih]
        by_cases h2 : a + 1 ≤ x ∧ x < a + 1 + bs.length
        · rw [if_pos h2, if_pos (by simp only [List.length_cons]; omega)]
          obtain ⟨j, rfl⟩ : ∃ j, x = a + 1 + j := ⟨x - (a + 1), by omega⟩
          rw [show a + 1 + j - (a + 1) = j by omega, show a + 1 + j - a = j + 1 by omega]
          rfl
        · rw [if_neg h2, if_neg (by simp only [List.length_cons]; omega)]
      split
      · exact h1
      · rw [readByte_cons, if_neg (fun h => hx h.symm)]; exact h1

theorem dropWhile_keys (c : List Host.Cell) (b : Nat) (hs : (c.map Prod.fst).Pairwise (· < ·)) :
    ∀ y ∈ c.dropWhile (fun y => decide (y.1 < b)), b ≤ y.1 := by
  induction c with
  | nil => simp
  | cons p t ih =>
    obtain ⟨k, v⟩ := p
    simp only [List.map_cons, List.pairwise_cons] at hs
    rw [List.dropWhile_cons]
    intro y hy
    by_cases hk : k < b
    · simp only [hk, decide_true, if_true] at hy; exact ih hs.2 y hy
    · simp only [hk, decide_false, Bool.false_eq_true, if_false] at hy
      rcases List.mem_cons.1 hy with rfl | hy
      · dsimp only; omega
      · have := hs.1 y.1 (List.mem_map_of_mem hy); omega

theorem takeWhile_keys (c : List Host.Cell) (a : Nat) : ∀ y ∈ c.takeWhile (fun y => decide (y.1 < a)), y.1 < a := fun y hy => by
  have := List.all_takeWhile (p := fun y : Host.Cell => decide (y.1 < a)) (l := c)
  rw [List.all_eq_true] at this
  simpa using this y hy

/-- A write keeps the canonical form. -/
theorem cellsWf_writeBytes (c : List Host.Cell) (a : Nat) (bs : List Byte) (hc : cellsWf c = true) :
    cellsWf (writeBytes c a bs) = true := by
  have hc' := (cellsWf_iff c).1 hc
  rw [cellsWf_iff]
  unfold writeBytes
  have ht : ((c.takeWhile (fun y => decide (y.1 < a))).map Prod.fst).Pairwise (· < ·) :=
    hc'.1.sublist ((List.takeWhile_sublist _).map _)
  have hd : ((c.dropWhile (fun y => decide (y.1 < a + bs.length))).map Prod.fst).Pairwise (· < ·) :=
    hc'.1.sublist ((List.dropWhile_sublist _).map _)
  have kd := dropWhile_keys c (a + bs.length) hc'.1
  have kt := takeWhile_keys c a
  constructor
  · rw [List.append_assoc]
    refine append_pairwise _ _ ht (append_pairwise _ _ (mkCells_rising a bs) hd ?_) ?_
    · intro x hx y hy
      have := mkCells_keys _ _ _ hx
      have := kd y hy
      omega
    · intro x hx y hy
      have h1 := kt x hx
      rcases List.mem_append.1 hy with hy | hy
      · have := mkCells_keys _ _ _ hy; omega
      · have := kd y hy; omega
  · intro x hx
    rw [List.append_assoc, List.mem_append, List.mem_append] at hx
    rcases hx with hx | hx | hx
    · exact hc'.2 x ((List.takeWhile_sublist _).subset hx)
    · exact (mkCells_keys _ _ _ hx).2.2
    · exact hc'.2 x ((List.dropWhile_sublist _).subset hx)

theorem readFrom_eq (c : List Host.Cell) (a n : Nat) (hs : (c.map Prod.fst).Pairwise (· < ·)) (hk : ∀ y ∈ c, a ≤ y.1) :
    readFrom a n c = (List.range' a n).map (readByte c) := by
  induction n generalizing a c with
  | zero => simp [readFrom]
  | succ n ih =>
    cases c with
    | nil =>
      rw [readFrom, ih [] (a + 1) (by simp) (by simp), List.range'_succ]
      rfl
    | cons p t =>
      obtain ⟨k, v⟩ := p
      have hs' := hs
      simp only [List.map_cons, List.pairwise_cons] at hs'
      rw [readFrom, List.range'_succ, List.map_cons]
      by_cases h : k = a
      · subst h
        have htail : ∀ y ∈ t, k + 1 ≤ y.1 := fun y hy => hs'.1 y.1 (List.mem_map_of_mem hy)
        rw [if_pos rfl, ih t (k + 1) hs'.2 htail, readByte_cons, if_pos rfl]
        congr 1
        refine List.map_congr_left (fun x hx => ?_)
        have := List.mem_range'.1 hx
        rw [readByte_cons, if_neg (by omega)]
      · have hak : a < k := by have := hk (k, v) (List.mem_cons_self ..); dsimp only at this; omega
        rw [if_neg h, ih _ (a + 1) hs]
        · congr 1
          rw [readByte_none]
          intro y hy
          rcases List.mem_cons.1 hy with rfl | hy
          · dsimp only; omega
          · have := hs'.1 y.1 (List.mem_map_of_mem hy); omega
        · intro y hy
          rcases List.mem_cons.1 hy with rfl | hy
          · dsimp only; omega
          · have := hs'.1 y.1 (List.mem_map_of_mem hy); omega

/-- A range read is its bytes read one by one. -/
theorem readBytes_eq (c : List Host.Cell) (a n : Nat) (hc : cellsWf c = true) :
    readBytes c a n = (List.range' a n).map (readByte c) := by
  have hs := ((cellsWf_iff c).1 hc).1
  unfold readBytes
  rw [readFrom_eq _ _ _ (hs.sublist ((List.dropWhile_sublist _).map _)) (dropWhile_keys c a hs)]
  refine List.map_congr_left (fun x hx => ?_)
  have := List.mem_range'.1 hx
  rw [readByte_dropWhile _ _ _ hs, if_neg (by omega)]

/-- The bytes of a write are read back, and every other byte reads as before. -/
theorem readByte_writeBytes (c : List Host.Cell) (a : Nat) (bs : List Byte) (x : Nat) (hc : cellsWf c = true) :
    readByte (writeBytes c a bs) x = if a ≤ x ∧ x < a + bs.length then bs.getD (x - a) 0#8 else readByte c x := by
  have hs := ((cellsWf_iff c).1 hc).1
  have hd := readByte_dropWhile c (a + bs.length) x hs
  have ht := readByte_takeWhile c a x hs
  have hm := readByte_mkCells a bs x
  have kt : ∀ y ∈ c.takeWhile (fun y => decide (y.1 < a)), y.1 < a := fun y hy => by
    have := List.all_takeWhile (p := fun y : Host.Cell => decide (y.1 < a)) (l := c)
    rw [List.all_eq_true] at this
    simpa using this y hy
  have kd : ∀ y ∈ c.dropWhile (fun y => decide (y.1 < a + bs.length)), a + bs.length ≤ y.1 := by
    clear hd ht hm kt hc
    induction c with
    | nil => simp
    | cons p t ih =>
      obtain ⟨k, v⟩ := p
      simp only [List.map_cons, List.pairwise_cons] at hs
      rw [List.dropWhile_cons]
      intro y hy
      by_cases hk : k < a + bs.length
      · simp only [hk, decide_true, if_true] at hy; exact ih hs.2 y hy
      · simp only [hk, decide_false, Bool.false_eq_true, if_false] at hy
        rcases List.mem_cons.1 hy with rfl | hy
        · dsimp only; omega
        · have := hs.1 y.1 (List.mem_map_of_mem hy); omega
  unfold writeBytes
  by_cases h1 : x < a
  · rw [List.append_assoc, readByte_append]
    · split
      · rename_i hn
        rw [readByte_none _ _ hn, if_pos h1] at ht
        rw [readByte_none, if_neg (by omega), ht]
        intro y hy
        rcases List.mem_append.1 hy with hy | hy
        · have := mkCells_keys _ _ _ hy; omega
        · have := kd y hy; omega
      · rw [ht, if_pos h1, if_neg (by omega)]
    · right
      intro y hy
      rcases List.mem_append.1 hy with hy | hy
      · have := mkCells_keys _ _ _ hy; omega
      · have := kd y hy; omega
  · have e1 : ∀ y ∈ c.takeWhile (fun y => decide (y.1 < a)), y.1 ≠ x := fun y hy => by have := kt y hy; omega
    rw [List.append_assoc, readByte_append _ _ _ (.inl e1), if_pos e1]
    by_cases h2 : x < a + bs.length
    · have e2 : ∀ y ∈ c.dropWhile (fun y => decide (y.1 < a + bs.length)), y.1 ≠ x := fun y hy => by have := kd y hy; omega
      rw [readByte_append _ _ _ (.inr e2)]
      split
      · rename_i hn; rw [readByte_none _ _ hn, if_pos (by omega)] at hm; rw [readByte_none _ _ e2, if_pos (by omega), ← hm]
      · rw [hm]
        rw [if_pos (by omega), if_pos (by omega)]
    · have e2 : ∀ y ∈ mkCells a bs, y.1 ≠ x := fun y hy => by have := mkCells_keys _ _ _ hy; omega
      rw [readByte_append _ _ _ (.inl e2), if_pos e2, hd, if_neg h2, if_neg (by omega)]

theorem length_readBytes (c : List Host.Cell) (a n : Nat) : (readBytes c a n).length = n := by
  unfold readBytes
  generalize c.dropWhile _ = d
  induction n generalizing a d with
  | zero => simp [readFrom]
  | succ n ih =>
    cases d with
    | nil => simp [readFrom, ih]
    | cons p t => obtain ⟨k, v⟩ := p; rw [readFrom]; split <;> simp [ih]

/-- A range written is read back whole. -/
theorem readBytes_writeBytes (c : List Host.Cell) (a : Nat) (bs : List Byte) (hc : cellsWf c = true) :
    readBytes (writeBytes c a bs) a bs.length = bs := by
  rw [readBytes_eq _ _ _ (cellsWf_writeBytes c a bs hc)]
  refine List.ext_getElem (by simp) ?_
  intro i h1 h2
  rw [List.getElem_map, List.getElem_range', readByte_writeBytes _ _ _ _ hc, if_pos (by omega)]
  rw [show a + 1 * i - a = i by omega, List.getD_eq_getElem?_getD, List.getElem?_eq_getElem h2]
  rfl

/-- A range that a write does not meet reads as before. -/
theorem readBytes_writeBytes_of_disjoint (c : List Host.Cell) (a b n : Nat) (bs : List Byte) (hc : cellsWf c = true)
    (h : b + n ≤ a ∨ a + bs.length ≤ b) : readBytes (writeBytes c a bs) b n = readBytes c b n := by
  rw [readBytes_eq _ _ _ (cellsWf_writeBytes c a bs hc), readBytes_eq _ _ _ hc]
  refine List.map_congr_left (fun x hx => ?_)
  have := List.mem_range'.1 hx
  rw [readByte_writeBytes _ _ _ _ hc, if_neg (by omega)]

theorem cellsWf_filter (c : List Host.Cell) (p : Host.Cell → Bool) (hc : cellsWf c = true) : cellsWf (c.filter p) = true := by
  rw [cellsWf_iff] at *
  exact ⟨hc.1.sublist (List.filter_sublist.map _), fun x hx => hc.2 x (List.filter_sublist.subset hx)⟩

theorem readByte_filter (c : List Host.Cell) (p : Nat → Bool) (x : Nat) :
    readByte (c.filter (fun y => p y.1)) x = if p x then readByte c x else 0#8 := by
  induction c with
  | nil => simp
  | cons a t ih =>
    obtain ⟨k, v⟩ := a
    by_cases hk : p k
    · rw [List.filter_cons_of_pos (by exact hk), readByte_cons, readByte_cons, ih]
      by_cases h : k = x
      · subst h; simp [hk]
      · simp [h]
    · rw [List.filter_cons_of_neg (by simpa using hk), ih, readByte_cons]
      by_cases h : k = x
      · subst h; simp [hk]
      · simp [h]

/-! ### Every memory operation keeps the canonical form -/

theorem mem_tput {α : Type} (t : Tab α) (i : Nat) (x : α) (e : Nat × α) (h : e ∈ tput t i x) : e = (i, x) ∨ e ∈ t := by
  fun_induction tput t i x <;> grind
theorem mem_tdel {α : Type} (t : Tab α) (i : Nat) (e : Nat × α) (h : e ∈ tdel t i) : e ∈ t := by
  fun_induction tdel t i <;> grind

theorem wf_iff (m : Mem) : Memory.wf m = true ↔ cellsWf m.cells = true ∧ tsorted m.tags = true ∧ ∀ e ∈ m.tags, e.2 ≠ Tag.zero := by
  simp [Memory.wf, and_assoc]

theorem tags_tset (t : Tab W128) (i : Nat) (x : W128) (h : ∀ e ∈ t, e.2 ≠ Tag.zero) : ∀ e ∈ tset Tag.zero t i x, e.2 ≠ Tag.zero := by
  unfold tset
  split
  · exact fun e he => h e (mem_tdel _ _ _ he)
  · rename_i hx
    intro e he
    rcases mem_tput _ _ _ _ he with rfl | he
    · exact hx
    · exact h e he

theorem wf_of (m m' : Mem) (h : Memory.wf m = true) (hc : cellsWf m.cells = true → cellsWf m'.cells = true)
    (ht : tsorted m.tags = true → tsorted m'.tags = true)
    (hz : (∀ e ∈ m.tags, e.2 ≠ Tag.zero) → ∀ e ∈ m'.tags, e.2 ≠ Tag.zero) : Memory.wf m' = true := by
  rw [wf_iff] at *
  exact ⟨hc h.1, ht h.2.1, hz h.2.2⟩

theorem wf_reset : Memory.wf ({} : Mem) = true := rfl

@[simp] theorem cacheTouch_cells (m : Mem) (k : Nat) (w : Bool) : (cacheTouch m k w).cells = m.cells := by
  unfold cacheTouch; split <;> rfl
@[simp] theorem cacheTouch_tags (m : Mem) (k : Nat) (w : Bool) : (cacheTouch m k w).tags = m.tags := by
  unfold cacheTouch; split <;> rfl
@[simp] theorem cacheTouch_opened (m : Mem) (k : Nat) (w : Bool) : (cacheTouch m k w).opened = m.opened := by
  unfold cacheTouch; split <;> rfl
@[simp] theorem cacheTouch_bad (m : Mem) (k : Nat) (w : Bool) : (cacheTouch m k w).bad = m.bad := by
  unfold cacheTouch; split <;> rfl

theorem wf_cacheTouch (m : Mem) (k : Nat) (w : Bool) (h : Memory.wf m = true) : Memory.wf (cacheTouch m k w) = true :=
  wf_of m _ h (by simp) (by simp) (by simp)
theorem wf_rawCrate (m : Mem) (k : Nat) (p : List Byte) (t : W128) (h : Memory.wf m = true) : Memory.wf (rawCrate m k p t) = true := by
  refine wf_of m _ h ?_ ?_ ?_
  · intro hc; exact cellsWf_writeBytes _ _ _ (by simpa using hc)
  · intro ht; exact tsorted_tset _ _ _ _ (by simpa using ht)
  · intro hz; exact tags_tset _ _ _ (by simpa using hz)
theorem wf_fwCrate (m : Mem) (k : Nat) (p : List Byte) (h : Memory.wf m = true) : Memory.wf (fwCrate m k p) = true :=
  wf_rawCrate m k p _ h
theorem wf_setBitmapBit (m : Mem) (f r : Nat) (h : Memory.wf m = true) : Memory.wf (setBitmapBit m f r) = true := wf_fwCrate _ _ _ h
theorem wf_patchFw (m : Mem) (k o : Nat) (bs : List Byte) (h : Memory.wf m = true) : Memory.wf (patchFw m k o bs) = true := wf_fwCrate _ _ _ h
theorem wf_preserve (m : Mem) (k : Nat) (h : Memory.wf m = true) : Memory.wf (preserve m k) = true := by
  unfold preserve
  repeat' split
  all_goals first | exact h | exact wf_patchFw _ _ _ _ (wf_setBitmapBit _ _ _ (wf_rawCrate _ _ _ _ h))
theorem wf_writeCrate (m : Mem) (k : Nat) (p : List Byte) (t : W128) (h : Memory.wf m = true) : Memory.wf (writeCrate m k p t) = true :=
  wf_rawCrate _ _ _ _ (wf_preserve _ _ h)
theorem wf_setTag (m : Mem) (k : Nat) (t : W128) (h : Memory.wf m = true) : Memory.wf (setTag m k t) = true := by
  refine wf_of _ _ (wf_preserve m k h) ?_ ?_ ?_
  · intro hc; exact (cacheTouch_cells (preserve m k) k true).symm ▸ hc
  · intro ht; exact tsorted_tset _ _ _ _ (by simpa using ht)
  · intro hz; exact tags_tset _ _ _ (by simpa using hz)
theorem wf_patchBytes (m : Mem) (a : Nat) (bs : List Byte) (h : Memory.wf m = true) : Memory.wf (patchBytes m a bs) = true := by
  refine wf_of _ _ (wf_preserve m (a / 4096) h) ?_ ?_ ?_
  · intro hc; exact cellsWf_writeBytes _ _ _ (by simpa using hc)
  · intro ht; exact (cacheTouch_tags (preserve m (a / 4096)) (a / 4096) true).symm ▸ ht
  · intro hz; exact (cacheTouch_tags (preserve m (a / 4096)) (a / 4096) true).symm ▸ hz
theorem wf_zeroCrates (m : Mem) (f n : Nat) (h : Memory.wf m = true) : Memory.wf (zeroCrates m f n) = true := by
  refine wf_of m _ h (cellsWf_filter _ _) ?_ ?_
  · intro ht; rw [tsorted_iff] at *; exact ht.sublist (List.filter_sublist.map _)
  · intro hz e he; exact hz e (List.filter_sublist.subset he)
theorem wf_flushDie (m : Mem) (d : Nat) (h : Memory.wf m = true) : Memory.wf (flushDie m d) = true := by
  unfold flushDie
  generalize List.range 32 = r
  exact h
theorem wf_undoLine (m : Mem) (l : CacheLine) (h : Memory.wf m = true) : Memory.wf (undoLine m l) = true := by
  unfold undoLine
  split
  · exact wf_of m _ h (cellsWf_writeBytes _ _ _) (tsorted_tset _ _ _ _) (tags_tset _ _ _)
  · exact h
theorem wf_discardDie (m : Mem) (d : Nat) (h : Memory.wf m = true) : Memory.wf (discardDie m d) = true := by
  unfold discardDie
  refine wf_flushDie _ _ ?_
  generalize (List.range 32).flatMap _ = l
  induction l generalizing m with
  | nil => exact h
  | cons a t ih => exact ih _ (wf_undoLine m a h)
theorem wf_markBad (m : Mem) (xs : List Nat) (h : Memory.wf m = true) : Memory.wf (markBad m xs) = true := h
theorem wf_zeroScratch (m : Mem) (d : Nat) (h : Memory.wf m = true) : Memory.wf (zeroScratch m d) = true := wf_zeroCrates _ _ _ h
theorem wf_zeroSlices (m : Mem) (d : Nat) (h : Memory.wf m = true) : Memory.wf (zeroSlices m d) = true := wf_zeroCrates _ _ _ h
theorem wf_zeroTiers (m : Mem) (d : Nat) (h : Memory.wf m = true) : Memory.wf (zeroTiers m d) = true :=
  wf_zeroCrates _ _ _ (wf_zeroCrates _ _ _ (wf_zeroCrates _ _ _ h))

end Sys2Proof.Machine
end

