-- ==== Sys2Proof/Laws/State.lean ====
section
/-!
SUPPORT. One lemma for each field of the state and each update.
-/
namespace Sys2Proof.Machine

@[simp] theorem setCore_pending (s : State) (c) (x) : (setCore s c x).pending = s.pending := rfl
@[simp] theorem setCore_out (s : State) (c) (x) : (setCore s c x).out = s.out := rfl
@[simp] theorem setCore_hostMem (s : State) (c) (x) : (setCore s c x).hostMem = s.hostMem := rfl
@[simp] theorem setCore_time (s : State) (c) (x) : (setCore s c x).time = s.time := rfl
@[simp] theorem setCore_arrayCycles (s : State) (c) (x) : (setCore s c x).arrayCycles = s.arrayCycles := rfl
@[simp] theorem setCore_freeCtr (s : State) (c) (x) : (setCore s c x).freeCtr = s.freeCtr := rfl
@[simp] theorem setCore_pcie (s : State) (c) (x) : (setCore s c x).pcie = s.pcie := rfl
@[simp] theorem setCore_fuses (s : State) (c) (x) : (setCore s c x).fuses = s.fuses := rfl
@[simp] theorem setCore_fuse (s : State) (c) (x) : (setCore s c x).fuse = s.fuse := rfl
@[simp] theorem setCore_queues (s : State) (c) (x) : (setCore s c x).queues = s.queues := rfl
@[simp] theorem setCore_cmds (s : State) (c) (x) : (setCore s c x).cmds = s.cmds := rfl
@[simp] theorem setCore_cmdOrd (s : State) (c) (x) : (setCore s c x).cmdOrd = s.cmdOrd := rfl
@[simp] theorem setCore_highWater (s : State) (c) (x) : (setCore s c x).highWater = s.highWater := rfl
@[simp] theorem setCore_backpressure (s : State) (c) (x) : (setCore s c x).backpressure = s.backpressure := rfl
@[simp] theorem setCore_rrQueue (s : State) (c) (x) : (setCore s c x).rrQueue = s.rrQueue := rfl
@[simp] theorem setCore_rrLeft (s : State) (c) (x) : (setCore s c x).rrLeft = s.rrLeft := rfl
@[simp] theorem setCore_launches (s : State) (c) (x) : (setCore s c x).launches = s.launches := rfl
@[simp] theorem setCore_coreMap (s : State) (c) (x) : (setCore s c x).coreMap = s.coreMap := rfl
@[simp] theorem setCore_cpActive (s : State) (c) (x) : (setCore s c x).cpActive = s.cpActive := rfl
@[simp] theorem setCore_mem (s : State) (c) (x) : (setCore s c x).mem = s.mem := rfl
@[simp] theorem setCore_ledger (s : State) (c) (x) : (setCore s c x).ledger = s.ledger := rfl
@[simp] theorem setCore_tallies (s : State) (c) (x) : (setCore s c x).tallies = s.tallies := rfl
@[simp] theorem setCore_parts (s : State) (c) (x) : (setCore s c x).parts = s.parts := rfl
@[simp] theorem setCore_ctxs (s : State) (c) (x) : (setCore s c x).ctxs = s.ctxs := rfl
@[simp] theorem setCore_events (s : State) (c) (x) : (setCore s c x).events = s.events := rfl
@[simp] theorem setCore_stepSt (s : State) (c) (x) : (setCore s c x).stepSt = s.stepSt := rfl
@[simp] theorem setCore_fab (s : State) (c) (x) : (setCore s c x).fab = s.fab := rfl
@[simp] theorem setCore_groups (s : State) (c) (x) : (setCore s c x).groups = s.groups := rfl
@[simp] theorem setCore_maps (s : State) (c) (x) : (setCore s c x).maps = s.maps := rfl
@[simp] theorem setCore_substs (s : State) (c) (x) : (setCore s c x).substs = s.substs := rfl
@[simp] theorem setCore_boot (s : State) (c) (x) : (setCore s c x).boot = s.boot := rfl
@[simp] theorem setCore_pwr (s : State) (c) (x) : (setCore s c x).pwr = s.pwr := rfl
@[simp] theorem setCore_hang (s : State) (c) (x) : (setCore s c x).hang = s.hang := rfl
@[simp] theorem setCore_mgmt (s : State) (c) (x) : (setCore s c x).mgmt = s.mgmt := rfl
@[simp] theorem modCore_pending (s : State) (c) (f) : (modCore s c f).pending = s.pending := rfl
@[simp] theorem modCore_out (s : State) (c) (f) : (modCore s c f).out = s.out := rfl
@[simp] theorem modCore_hostMem (s : State) (c) (f) : (modCore s c f).hostMem = s.hostMem := rfl
@[simp] theorem modCore_time (s : State) (c) (f) : (modCore s c f).time = s.time := rfl
@[simp] theorem modCore_arrayCycles (s : State) (c) (f) : (modCore s c f).arrayCycles = s.arrayCycles := rfl
@[simp] theorem modCore_freeCtr (s : State) (c) (f) : (modCore s c f).freeCtr = s.freeCtr := rfl
@[simp] theorem modCore_pcie (s : State) (c) (f) : (modCore s c f).pcie = s.pcie := rfl
@[simp] theorem modCore_fuses (s : State) (c) (f) : (modCore s c f).fuses = s.fuses := rfl
@[simp] theorem modCore_fuse (s : State) (c) (f) : (modCore s c f).fuse = s.fuse := rfl
@[simp] theorem modCore_queues (s : State) (c) (f) : (modCore s c f).queues = s.queues := rfl
@[simp] theorem modCore_cmds (s : State) (c) (f) : (modCore s c f).cmds = s.cmds := rfl
@[simp] theorem modCore_cmdOrd (s : State) (c) (f) : (modCore s c f).cmdOrd = s.cmdOrd := rfl
@[simp] theorem modCore_highWater (s : State) (c) (f) : (modCore s c f).highWater = s.highWater := rfl
@[simp] theorem modCore_backpressure (s : State) (c) (f) : (modCore s c f).backpressure = s.backpressure := rfl
@[simp] theorem modCore_rrQueue (s : State) (c) (f) : (modCore s c f).rrQueue = s.rrQueue := rfl
@[simp] theorem modCore_rrLeft (s : State) (c) (f) : (modCore s c f).rrLeft = s.rrLeft := rfl
@[simp] theorem modCore_launches (s : State) (c) (f) : (modCore s c f).launches = s.launches := rfl
@[simp] theorem modCore_coreMap (s : State) (c) (f) : (modCore s c f).coreMap = s.coreMap := rfl
@[simp] theorem modCore_cpActive (s : State) (c) (f) : (modCore s c f).cpActive = s.cpActive := rfl
@[simp] theorem modCore_mem (s : State) (c) (f) : (modCore s c f).mem = s.mem := rfl
@[simp] theorem modCore_ledger (s : State) (c) (f) : (modCore s c f).ledger = s.ledger := rfl
@[simp] theorem modCore_tallies (s : State) (c) (f) : (modCore s c f).tallies = s.tallies := rfl
@[simp] theorem modCore_parts (s : State) (c) (f) : (modCore s c f).parts = s.parts := rfl
@[simp] theorem modCore_ctxs (s : State) (c) (f) : (modCore s c f).ctxs = s.ctxs := rfl
@[simp] theorem modCore_events (s : State) (c) (f) : (modCore s c f).events = s.events := rfl
@[simp] theorem modCore_stepSt (s : State) (c) (f) : (modCore s c f).stepSt = s.stepSt := rfl
@[simp] theorem modCore_fab (s : State) (c) (f) : (modCore s c f).fab = s.fab := rfl
@[simp] theorem modCore_groups (s : State) (c) (f) : (modCore s c f).groups = s.groups := rfl
@[simp] theorem modCore_maps (s : State) (c) (f) : (modCore s c f).maps = s.maps := rfl
@[simp] theorem modCore_substs (s : State) (c) (f) : (modCore s c f).substs = s.substs := rfl
@[simp] theorem modCore_boot (s : State) (c) (f) : (modCore s c f).boot = s.boot := rfl
@[simp] theorem modCore_pwr (s : State) (c) (f) : (modCore s c f).pwr = s.pwr := rfl
@[simp] theorem modCore_hang (s : State) (c) (f) : (modCore s c f).hang = s.hang := rfl
@[simp] theorem modCore_mgmt (s : State) (c) (f) : (modCore s c f).mgmt = s.mgmt := rfl
@[simp] theorem setCtx_pending (s : State) (c) (x) : (setCtx s c x).pending = s.pending := rfl
@[simp] theorem setCtx_out (s : State) (c) (x) : (setCtx s c x).out = s.out := rfl
@[simp] theorem setCtx_hostMem (s : State) (c) (x) : (setCtx s c x).hostMem = s.hostMem := rfl
@[simp] theorem setCtx_time (s : State) (c) (x) : (setCtx s c x).time = s.time := rfl
@[simp] theorem setCtx_arrayCycles (s : State) (c) (x) : (setCtx s c x).arrayCycles = s.arrayCycles := rfl
@[simp] theorem setCtx_freeCtr (s : State) (c) (x) : (setCtx s c x).freeCtr = s.freeCtr := rfl
@[simp] theorem setCtx_pcie (s : State) (c) (x) : (setCtx s c x).pcie = s.pcie := rfl
@[simp] theorem setCtx_fuses (s : State) (c) (x) : (setCtx s c x).fuses = s.fuses := rfl
@[simp] theorem setCtx_fuse (s : State) (c) (x) : (setCtx s c x).fuse = s.fuse := rfl
@[simp] theorem setCtx_queues (s : State) (c) (x) : (setCtx s c x).queues = s.queues := rfl
@[simp] theorem setCtx_cmds (s : State) (c) (x) : (setCtx s c x).cmds = s.cmds := rfl
@[simp] theorem setCtx_cmdOrd (s : State) (c) (x) : (setCtx s c x).cmdOrd = s.cmdOrd := rfl
@[simp] theorem setCtx_highWater (s : State) (c) (x) : (setCtx s c x).highWater = s.highWater := rfl
@[simp] theorem setCtx_backpressure (s : State) (c) (x) : (setCtx s c x).backpressure = s.backpressure := rfl
@[simp] theorem setCtx_rrQueue (s : State) (c) (x) : (setCtx s c x).rrQueue = s.rrQueue := rfl
@[simp] theorem setCtx_rrLeft (s : State) (c) (x) : (setCtx s c x).rrLeft = s.rrLeft := rfl
@[simp] theorem setCtx_launches (s : State) (c) (x) : (setCtx s c x).launches = s.launches := rfl
@[simp] theorem setCtx_cores (s : State) (c) (x) : (setCtx s c x).cores = s.cores := rfl
@[simp] theorem setCtx_coreMap (s : State) (c) (x) : (setCtx s c x).coreMap = s.coreMap := rfl
@[simp] theorem setCtx_cpActive (s : State) (c) (x) : (setCtx s c x).cpActive = s.cpActive := rfl
@[simp] theorem setCtx_mem (s : State) (c) (x) : (setCtx s c x).mem = s.mem := rfl
@[simp] theorem setCtx_ledger (s : State) (c) (x) : (setCtx s c x).ledger = s.ledger := rfl
@[simp] theorem setCtx_tallies (s : State) (c) (x) : (setCtx s c x).tallies = s.tallies := rfl
@[simp] theorem setCtx_parts (s : State) (c) (x) : (setCtx s c x).parts = s.parts := rfl
@[simp] theorem setCtx_events (s : State) (c) (x) : (setCtx s c x).events = s.events := rfl
@[simp] theorem setCtx_stepSt (s : State) (c) (x) : (setCtx s c x).stepSt = s.stepSt := rfl
@[simp] theorem setCtx_fab (s : State) (c) (x) : (setCtx s c x).fab = s.fab := rfl
@[simp] theorem setCtx_groups (s : State) (c) (x) : (setCtx s c x).groups = s.groups := rfl
@[simp] theorem setCtx_maps (s : State) (c) (x) : (setCtx s c x).maps = s.maps := rfl
@[simp] theorem setCtx_substs (s : State) (c) (x) : (setCtx s c x).substs = s.substs := rfl
@[simp] theorem setCtx_boot (s : State) (c) (x) : (setCtx s c x).boot = s.boot := rfl
@[simp] theorem setCtx_pwr (s : State) (c) (x) : (setCtx s c x).pwr = s.pwr := rfl
@[simp] theorem setCtx_hang (s : State) (c) (x) : (setCtx s c x).hang = s.hang := rfl
@[simp] theorem setCtx_mgmt (s : State) (c) (x) : (setCtx s c x).mgmt = s.mgmt := rfl
@[simp] theorem modCtx_pending (s : State) (c) (f) : (modCtx s c f).pending = s.pending := rfl
@[simp] theorem modCtx_out (s : State) (c) (f) : (modCtx s c f).out = s.out := rfl
@[simp] theorem modCtx_hostMem (s : State) (c) (f) : (modCtx s c f).hostMem = s.hostMem := rfl
@[simp] theorem modCtx_time (s : State) (c) (f) : (modCtx s c f).time = s.time := rfl
@[simp] theorem modCtx_arrayCycles (s : State) (c) (f) : (modCtx s c f).arrayCycles = s.arrayCycles := rfl
@[simp] theorem modCtx_freeCtr (s : State) (c) (f) : (modCtx s c f).freeCtr = s.freeCtr := rfl
@[simp] theorem modCtx_pcie (s : State) (c) (f) : (modCtx s c f).pcie = s.pcie := rfl
@[simp] theorem modCtx_fuses (s : State) (c) (f) : (modCtx s c f).fuses = s.fuses := rfl
@[simp] theorem modCtx_fuse (s : State) (c) (f) : (modCtx s c f).fuse = s.fuse := rfl
@[simp] theorem modCtx_queues (s : State) (c) (f) : (modCtx s c f).queues = s.queues := rfl
@[simp] theorem modCtx_cmds (s : State) (c) (f) : (modCtx s c f).cmds = s.cmds := rfl
@[simp] theorem modCtx_cmdOrd (s : State) (c) (f) : (modCtx s c f).cmdOrd = s.cmdOrd := rfl
@[simp] theorem modCtx_highWater (s : State) (c) (f) : (modCtx s c f).highWater = s.highWater := rfl
@[simp] theorem modCtx_backpressure (s : State) (c) (f) : (modCtx s c f).backpressure = s.backpressure := rfl
@[simp] theorem modCtx_rrQueue (s : State) (c) (f) : (modCtx s c f).rrQueue = s.rrQueue := rfl
@[simp] theorem modCtx_rrLeft (s : State) (c) (f) : (modCtx s c f).rrLeft = s.rrLeft := rfl
@[simp] theorem modCtx_launches (s : State) (c) (f) : (modCtx s c f).launches = s.launches := rfl
@[simp] theorem modCtx_cores (s : State) (c) (f) : (modCtx s c f).cores = s.cores := rfl
@[simp] theorem modCtx_coreMap (s : State) (c) (f) : (modCtx s c f).coreMap = s.coreMap := rfl
@[simp] theorem modCtx_cpActive (s : State) (c) (f) : (modCtx s c f).cpActive = s.cpActive := rfl
@[simp] theorem modCtx_mem (s : State) (c) (f) : (modCtx s c f).mem = s.mem := rfl
@[simp] theorem modCtx_ledger (s : State) (c) (f) : (modCtx s c f).ledger = s.ledger := rfl
@[simp] theorem modCtx_tallies (s : State) (c) (f) : (modCtx s c f).tallies = s.tallies := rfl
@[simp] theorem modCtx_parts (s : State) (c) (f) : (modCtx s c f).parts = s.parts := rfl
@[simp] theorem modCtx_events (s : State) (c) (f) : (modCtx s c f).events = s.events := rfl
@[simp] theorem modCtx_stepSt (s : State) (c) (f) : (modCtx s c f).stepSt = s.stepSt := rfl
@[simp] theorem modCtx_fab (s : State) (c) (f) : (modCtx s c f).fab = s.fab := rfl
@[simp] theorem modCtx_groups (s : State) (c) (f) : (modCtx s c f).groups = s.groups := rfl
@[simp] theorem modCtx_maps (s : State) (c) (f) : (modCtx s c f).maps = s.maps := rfl
@[simp] theorem modCtx_substs (s : State) (c) (f) : (modCtx s c f).substs = s.substs := rfl
@[simp] theorem modCtx_boot (s : State) (c) (f) : (modCtx s c f).boot = s.boot := rfl
@[simp] theorem modCtx_pwr (s : State) (c) (f) : (modCtx s c f).pwr = s.pwr := rfl
@[simp] theorem modCtx_hang (s : State) (c) (f) : (modCtx s c f).hang = s.hang := rfl
@[simp] theorem modCtx_mgmt (s : State) (c) (f) : (modCtx s c f).mgmt = s.mgmt := rfl
@[simp] theorem setPart_pending (s : State) (p) (x) : (setPart s p x).pending = s.pending := rfl
@[simp] theorem setPart_out (s : State) (p) (x) : (setPart s p x).out = s.out := rfl
@[simp] theorem setPart_hostMem (s : State) (p) (x) : (setPart s p x).hostMem = s.hostMem := rfl
@[simp] theorem setPart_time (s : State) (p) (x) : (setPart s p x).time = s.time := rfl
@[simp] theorem setPart_arrayCycles (s : State) (p) (x) : (setPart s p x).arrayCycles = s.arrayCycles := rfl
@[simp] theorem setPart_freeCtr (s : State) (p) (x) : (setPart s p x).freeCtr = s.freeCtr := rfl
@[simp] theorem setPart_pcie (s : State) (p) (x) : (setPart s p x).pcie = s.pcie := rfl
@[simp] theorem setPart_fuses (s : State) (p) (x) : (setPart s p x).fuses = s.fuses := rfl
@[simp] theorem setPart_fuse (s : State) (p) (x) : (setPart s p x).fuse = s.fuse := rfl
@[simp] theorem setPart_queues (s : State) (p) (x) : (setPart s p x).queues = s.queues := rfl
@[simp] theorem setPart_cmds (s : State) (p) (x) : (setPart s p x).cmds = s.cmds := rfl
@[simp] theorem setPart_cmdOrd (s : State) (p) (x) : (setPart s p x).cmdOrd = s.cmdOrd := rfl
@[simp] theorem setPart_highWater (s : State) (p) (x) : (setPart s p x).highWater = s.highWater := rfl
@[simp] theorem setPart_backpressure (s : State) (p) (x) : (setPart s p x).backpressure = s.backpressure := rfl
@[simp] theorem setPart_rrQueue (s : State) (p) (x) : (setPart s p x).rrQueue = s.rrQueue := rfl
@[simp] theorem setPart_rrLeft (s : State) (p) (x) : (setPart s p x).rrLeft = s.rrLeft := rfl
@[simp] theorem setPart_launches (s : State) (p) (x) : (setPart s p x).launches = s.launches := rfl
@[simp] theorem setPart_cores (s : State) (p) (x) : (setPart s p x).cores = s.cores := rfl
@[simp] theorem setPart_coreMap (s : State) (p) (x) : (setPart s p x).coreMap = s.coreMap := rfl
@[simp] theorem setPart_cpActive (s : State) (p) (x) : (setPart s p x).cpActive = s.cpActive := rfl
@[simp] theorem setPart_mem (s : State) (p) (x) : (setPart s p x).mem = s.mem := rfl
@[simp] theorem setPart_ledger (s : State) (p) (x) : (setPart s p x).ledger = s.ledger := rfl
@[simp] theorem setPart_tallies (s : State) (p) (x) : (setPart s p x).tallies = s.tallies := rfl
@[simp] theorem setPart_ctxs (s : State) (p) (x) : (setPart s p x).ctxs = s.ctxs := rfl
@[simp] theorem setPart_events (s : State) (p) (x) : (setPart s p x).events = s.events := rfl
@[simp] theorem setPart_stepSt (s : State) (p) (x) : (setPart s p x).stepSt = s.stepSt := rfl
@[simp] theorem setPart_fab (s : State) (p) (x) : (setPart s p x).fab = s.fab := rfl
@[simp] theorem setPart_groups (s : State) (p) (x) : (setPart s p x).groups = s.groups := rfl
@[simp] theorem setPart_maps (s : State) (p) (x) : (setPart s p x).maps = s.maps := rfl
@[simp] theorem setPart_substs (s : State) (p) (x) : (setPart s p x).substs = s.substs := rfl
@[simp] theorem setPart_boot (s : State) (p) (x) : (setPart s p x).boot = s.boot := rfl
@[simp] theorem setPart_pwr (s : State) (p) (x) : (setPart s p x).pwr = s.pwr := rfl
@[simp] theorem setPart_hang (s : State) (p) (x) : (setPart s p x).hang = s.hang := rfl
@[simp] theorem setPart_mgmt (s : State) (p) (x) : (setPart s p x).mgmt = s.mgmt := rfl
@[simp] theorem modPart_pending (s : State) (p) (f) : (modPart s p f).pending = s.pending := rfl
@[simp] theorem modPart_out (s : State) (p) (f) : (modPart s p f).out = s.out := rfl
@[simp] theorem modPart_hostMem (s : State) (p) (f) : (modPart s p f).hostMem = s.hostMem := rfl
@[simp] theorem modPart_time (s : State) (p) (f) : (modPart s p f).time = s.time := rfl
@[simp] theorem modPart_arrayCycles (s : State) (p) (f) : (modPart s p f).arrayCycles = s.arrayCycles := rfl
@[simp] theorem modPart_freeCtr (s : State) (p) (f) : (modPart s p f).freeCtr = s.freeCtr := rfl
@[simp] theorem modPart_pcie (s : State) (p) (f) : (modPart s p f).pcie = s.pcie := rfl
@[simp] theorem modPart_fuses (s : State) (p) (f) : (modPart s p f).fuses = s.fuses := rfl
@[simp] theorem modPart_fuse (s : State) (p) (f) : (modPart s p f).fuse = s.fuse := rfl
@[simp] theorem modPart_queues (s : State) (p) (f) : (modPart s p f).queues = s.queues := rfl
@[simp] theorem modPart_cmds (s : State) (p) (f) : (modPart s p f).cmds = s.cmds := rfl
@[simp] theorem modPart_cmdOrd (s : State) (p) (f) : (modPart s p f).cmdOrd = s.cmdOrd := rfl
@[simp] theorem modPart_highWater (s : State) (p) (f) : (modPart s p f).highWater = s.highWater := rfl
@[simp] theorem modPart_backpressure (s : State) (p) (f) : (modPart s p f).backpressure = s.backpressure := rfl
@[simp] theorem modPart_rrQueue (s : State) (p) (f) : (modPart s p f).rrQueue = s.rrQueue := rfl
@[simp] theorem modPart_rrLeft (s : State) (p) (f) : (modPart s p f).rrLeft = s.rrLeft := rfl
@[simp] theorem modPart_launches (s : State) (p) (f) : (modPart s p f).launches = s.launches := rfl
@[simp] theorem modPart_cores (s : State) (p) (f) : (modPart s p f).cores = s.cores := rfl
@[simp] theorem modPart_coreMap (s : State) (p) (f) : (modPart s p f).coreMap = s.coreMap := rfl
@[simp] theorem modPart_cpActive (s : State) (p) (f) : (modPart s p f).cpActive = s.cpActive := rfl
@[simp] theorem modPart_mem (s : State) (p) (f) : (modPart s p f).mem = s.mem := rfl
@[simp] theorem modPart_ledger (s : State) (p) (f) : (modPart s p f).ledger = s.ledger := rfl
@[simp] theorem modPart_tallies (s : State) (p) (f) : (modPart s p f).tallies = s.tallies := rfl
@[simp] theorem modPart_ctxs (s : State) (p) (f) : (modPart s p f).ctxs = s.ctxs := rfl
@[simp] theorem modPart_events (s : State) (p) (f) : (modPart s p f).events = s.events := rfl
@[simp] theorem modPart_stepSt (s : State) (p) (f) : (modPart s p f).stepSt = s.stepSt := rfl
@[simp] theorem modPart_fab (s : State) (p) (f) : (modPart s p f).fab = s.fab := rfl
@[simp] theorem modPart_groups (s : State) (p) (f) : (modPart s p f).groups = s.groups := rfl
@[simp] theorem modPart_maps (s : State) (p) (f) : (modPart s p f).maps = s.maps := rfl
@[simp] theorem modPart_substs (s : State) (p) (f) : (modPart s p f).substs = s.substs := rfl
@[simp] theorem modPart_boot (s : State) (p) (f) : (modPart s p f).boot = s.boot := rfl
@[simp] theorem modPart_pwr (s : State) (p) (f) : (modPart s p f).pwr = s.pwr := rfl
@[simp] theorem modPart_hang (s : State) (p) (f) : (modPart s p f).hang = s.hang := rfl
@[simp] theorem modPart_mgmt (s : State) (p) (f) : (modPart s p f).mgmt = s.mgmt := rfl
@[simp] theorem setQueue_pending (s : State) (q) (x) : (setQueue s q x).pending = s.pending := rfl
@[simp] theorem setQueue_out (s : State) (q) (x) : (setQueue s q x).out = s.out := rfl
@[simp] theorem setQueue_hostMem (s : State) (q) (x) : (setQueue s q x).hostMem = s.hostMem := rfl
@[simp] theorem setQueue_time (s : State) (q) (x) : (setQueue s q x).time = s.time := rfl
@[simp] theorem setQueue_arrayCycles (s : State) (q) (x) : (setQueue s q x).arrayCycles = s.arrayCycles := rfl
@[simp] theorem setQueue_freeCtr (s : State) (q) (x) : (setQueue s q x).freeCtr = s.freeCtr := rfl
@[simp] theorem setQueue_pcie (s : State) (q) (x) : (setQueue s q x).pcie = s.pcie := rfl
@[simp] theorem setQueue_fuses (s : State) (q) (x) : (setQueue s q x).fuses = s.fuses := rfl
@[simp] theorem setQueue_fuse (s : State) (q) (x) : (setQueue s q x).fuse = s.fuse := rfl
@[simp] theorem setQueue_cmds (s : State) (q) (x) : (setQueue s q x).cmds = s.cmds := rfl
@[simp] theorem setQueue_cmdOrd (s : State) (q) (x) : (setQueue s q x).cmdOrd = s.cmdOrd := rfl
@[simp] theorem setQueue_highWater (s : State) (q) (x) : (setQueue s q x).highWater = s.highWater := rfl
@[simp] theorem setQueue_backpressure (s : State) (q) (x) : (setQueue s q x).backpressure = s.backpressure := rfl
@[simp] theorem setQueue_rrQueue (s : State) (q) (x) : (setQueue s q x).rrQueue = s.rrQueue := rfl
@[simp] theorem setQueue_rrLeft (s : State) (q) (x) : (setQueue s q x).rrLeft = s.rrLeft := rfl
@[simp] theorem setQueue_launches (s : State) (q) (x) : (setQueue s q x).launches = s.launches := rfl
@[simp] theorem setQueue_cores (s : State) (q) (x) : (setQueue s q x).cores = s.cores := rfl
@[simp] theorem setQueue_coreMap (s : State) (q) (x) : (setQueue s q x).coreMap = s.coreMap := rfl
@[simp] theorem setQueue_cpActive (s : State) (q) (x) : (setQueue s q x).cpActive = s.cpActive := rfl
@[simp] theorem setQueue_mem (s : State) (q) (x) : (setQueue s q x).mem = s.mem := rfl
@[simp] theorem setQueue_ledger (s : State) (q) (x) : (setQueue s q x).ledger = s.ledger := rfl
@[simp] theorem setQueue_tallies (s : State) (q) (x) : (setQueue s q x).tallies = s.tallies := rfl
@[simp] theorem setQueue_parts (s : State) (q) (x) : (setQueue s q x).parts = s.parts := rfl
@[simp] theorem setQueue_ctxs (s : State) (q) (x) : (setQueue s q x).ctxs = s.ctxs := rfl
@[simp] theorem setQueue_events (s : State) (q) (x) : (setQueue s q x).events = s.events := rfl
@[simp] theorem setQueue_stepSt (s : State) (q) (x) : (setQueue s q x).stepSt = s.stepSt := rfl
@[simp] theorem setQueue_fab (s : State) (q) (x) : (setQueue s q x).fab = s.fab := rfl
@[simp] theorem setQueue_groups (s : State) (q) (x) : (setQueue s q x).groups = s.groups := rfl
@[simp] theorem setQueue_maps (s : State) (q) (x) : (setQueue s q x).maps = s.maps := rfl
@[simp] theorem setQueue_substs (s : State) (q) (x) : (setQueue s q x).substs = s.substs := rfl
@[simp] theorem setQueue_boot (s : State) (q) (x) : (setQueue s q x).boot = s.boot := rfl
@[simp] theorem setQueue_pwr (s : State) (q) (x) : (setQueue s q x).pwr = s.pwr := rfl
@[simp] theorem setQueue_hang (s : State) (q) (x) : (setQueue s q x).hang = s.hang := rfl
@[simp] theorem setQueue_mgmt (s : State) (q) (x) : (setQueue s q x).mgmt = s.mgmt := rfl
@[simp] theorem modQueue_pending (s : State) (q) (f) : (modQueue s q f).pending = s.pending := rfl
@[simp] theorem modQueue_out (s : State) (q) (f) : (modQueue s q f).out = s.out := rfl
@[simp] theorem modQueue_hostMem (s : State) (q) (f) : (modQueue s q f).hostMem = s.hostMem := rfl
@[simp] theorem modQueue_time (s : State) (q) (f) : (modQueue s q f).time = s.time := rfl
@[simp] theorem modQueue_arrayCycles (s : State) (q) (f) : (modQueue s q f).arrayCycles = s.arrayCycles := rfl
@[simp] theorem modQueue_freeCtr (s : State) (q) (f) : (modQueue s q f).freeCtr = s.freeCtr := rfl
@[simp] theorem modQueue_pcie (s : State) (q) (f) : (modQueue s q f).pcie = s.pcie := rfl
@[simp] theorem modQueue_fuses (s : State) (q) (f) : (modQueue s q f).fuses = s.fuses := rfl
@[simp] theorem modQueue_fuse (s : State) (q) (f) : (modQueue s q f).fuse = s.fuse := rfl
@[simp] theorem modQueue_cmds (s : State) (q) (f) : (modQueue s q f).cmds = s.cmds := rfl
@[simp] theorem modQueue_cmdOrd (s : State) (q) (f) : (modQueue s q f).cmdOrd = s.cmdOrd := rfl
@[simp] theorem modQueue_highWater (s : State) (q) (f) : (modQueue s q f).highWater = s.highWater := rfl
@[simp] theorem modQueue_backpressure (s : State) (q) (f) : (modQueue s q f).backpressure = s.backpressure := rfl
@[simp] theorem modQueue_rrQueue (s : State) (q) (f) : (modQueue s q f).rrQueue = s.rrQueue := rfl
@[simp] theorem modQueue_rrLeft (s : State) (q) (f) : (modQueue s q f).rrLeft = s.rrLeft := rfl
@[simp] theorem modQueue_launches (s : State) (q) (f) : (modQueue s q f).launches = s.launches := rfl
@[simp] theorem modQueue_cores (s : State) (q) (f) : (modQueue s q f).cores = s.cores := rfl
@[simp] theorem modQueue_coreMap (s : State) (q) (f) : (modQueue s q f).coreMap = s.coreMap := rfl
@[simp] theorem modQueue_cpActive (s : State) (q) (f) : (modQueue s q f).cpActive = s.cpActive := rfl
@[simp] theorem modQueue_mem (s : State) (q) (f) : (modQueue s q f).mem = s.mem := rfl
@[simp] theorem modQueue_ledger (s : State) (q) (f) : (modQueue s q f).ledger = s.ledger := rfl
@[simp] theorem modQueue_tallies (s : State) (q) (f) : (modQueue s q f).tallies = s.tallies := rfl
@[simp] theorem modQueue_parts (s : State) (q) (f) : (modQueue s q f).parts = s.parts := rfl
@[simp] theorem modQueue_ctxs (s : State) (q) (f) : (modQueue s q f).ctxs = s.ctxs := rfl
@[simp] theorem modQueue_events (s : State) (q) (f) : (modQueue s q f).events = s.events := rfl
@[simp] theorem modQueue_stepSt (s : State) (q) (f) : (modQueue s q f).stepSt = s.stepSt := rfl
@[simp] theorem modQueue_fab (s : State) (q) (f) : (modQueue s q f).fab = s.fab := rfl
@[simp] theorem modQueue_groups (s : State) (q) (f) : (modQueue s q f).groups = s.groups := rfl
@[simp] theorem modQueue_maps (s : State) (q) (f) : (modQueue s q f).maps = s.maps := rfl
@[simp] theorem modQueue_substs (s : State) (q) (f) : (modQueue s q f).substs = s.substs := rfl
@[simp] theorem modQueue_boot (s : State) (q) (f) : (modQueue s q f).boot = s.boot := rfl
@[simp] theorem modQueue_pwr (s : State) (q) (f) : (modQueue s q f).pwr = s.pwr := rfl
@[simp] theorem modQueue_hang (s : State) (q) (f) : (modQueue s q f).hang = s.hang := rfl
@[simp] theorem modQueue_mgmt (s : State) (q) (f) : (modQueue s q f).mgmt = s.mgmt := rfl
@[simp] theorem setLaunch_pending (s : State) (l) (x) : (setLaunch s l x).pending = s.pending := rfl
@[simp] theorem setLaunch_out (s : State) (l) (x) : (setLaunch s l x).out = s.out := rfl
@[simp] theorem setLaunch_hostMem (s : State) (l) (x) : (setLaunch s l x).hostMem = s.hostMem := rfl
@[simp] theorem setLaunch_time (s : State) (l) (x) : (setLaunch s l x).time = s.time := rfl
@[simp] theorem setLaunch_arrayCycles (s : State) (l) (x) : (setLaunch s l x).arrayCycles = s.arrayCycles := rfl
@[simp] theorem setLaunch_freeCtr (s : State) (l) (x) : (setLaunch s l x).freeCtr = s.freeCtr := rfl
@[simp] theorem setLaunch_pcie (s : State) (l) (x) : (setLaunch s l x).pcie = s.pcie := rfl
@[simp] theorem setLaunch_fuses (s : State) (l) (x) : (setLaunch s l x).fuses = s.fuses := rfl
@[simp] theorem setLaunch_fuse (s : State) (l) (x) : (setLaunch s l x).fuse = s.fuse := rfl
@[simp] theorem setLaunch_queues (s : State) (l) (x) : (setLaunch s l x).queues = s.queues := rfl
@[simp] theorem setLaunch_cmds (s : State) (l) (x) : (setLaunch s l x).cmds = s.cmds := rfl
@[simp] theorem setLaunch_cmdOrd (s : State) (l) (x) : (setLaunch s l x).cmdOrd = s.cmdOrd := rfl
@[simp] theorem setLaunch_highWater (s : State) (l) (x) : (setLaunch s l x).highWater = s.highWater := rfl
@[simp] theorem setLaunch_backpressure (s : State) (l) (x) : (setLaunch s l x).backpressure = s.backpressure := rfl
@[simp] theorem setLaunch_rrQueue (s : State) (l) (x) : (setLaunch s l x).rrQueue = s.rrQueue := rfl
@[simp] theorem setLaunch_rrLeft (s : State) (l) (x) : (setLaunch s l x).rrLeft = s.rrLeft := rfl
@[simp] theorem setLaunch_cores (s : State) (l) (x) : (setLaunch s l x).cores = s.cores := rfl
@[simp] theorem setLaunch_coreMap (s : State) (l) (x) : (setLaunch s l x).coreMap = s.coreMap := rfl
@[simp] theorem setLaunch_cpActive (s : State) (l) (x) : (setLaunch s l x).cpActive = s.cpActive := rfl
@[simp] theorem setLaunch_mem (s : State) (l) (x) : (setLaunch s l x).mem = s.mem := rfl
@[simp] theorem setLaunch_ledger (s : State) (l) (x) : (setLaunch s l x).ledger = s.ledger := rfl
@[simp] theorem setLaunch_tallies (s : State) (l) (x) : (setLaunch s l x).tallies = s.tallies := rfl
@[simp] theorem setLaunch_parts (s : State) (l) (x) : (setLaunch s l x).parts = s.parts := rfl
@[simp] theorem setLaunch_ctxs (s : State) (l) (x) : (setLaunch s l x).ctxs = s.ctxs := rfl
@[simp] theorem setLaunch_events (s : State) (l) (x) : (setLaunch s l x).events = s.events := rfl
@[simp] theorem setLaunch_stepSt (s : State) (l) (x) : (setLaunch s l x).stepSt = s.stepSt := rfl
@[simp] theorem setLaunch_fab (s : State) (l) (x) : (setLaunch s l x).fab = s.fab := rfl
@[simp] theorem setLaunch_groups (s : State) (l) (x) : (setLaunch s l x).groups = s.groups := rfl
@[simp] theorem setLaunch_maps (s : State) (l) (x) : (setLaunch s l x).maps = s.maps := rfl
@[simp] theorem setLaunch_substs (s : State) (l) (x) : (setLaunch s l x).substs = s.substs := rfl
@[simp] theorem setLaunch_boot (s : State) (l) (x) : (setLaunch s l x).boot = s.boot := rfl
@[simp] theorem setLaunch_pwr (s : State) (l) (x) : (setLaunch s l x).pwr = s.pwr := rfl
@[simp] theorem setLaunch_hang (s : State) (l) (x) : (setLaunch s l x).hang = s.hang := rfl
@[simp] theorem setLaunch_mgmt (s : State) (l) (x) : (setLaunch s l x).mgmt = s.mgmt := rfl
@[simp] theorem modLaunch_pending (s : State) (l) (f) : (modLaunch s l f).pending = s.pending := rfl
@[simp] theorem modLaunch_out (s : State) (l) (f) : (modLaunch s l f).out = s.out := rfl
@[simp] theorem modLaunch_hostMem (s : State) (l) (f) : (modLaunch s l f).hostMem = s.hostMem := rfl
@[simp] theorem modLaunch_time (s : State) (l) (f) : (modLaunch s l f).time = s.time := rfl
@[simp] theorem modLaunch_arrayCycles (s : State) (l) (f) : (modLaunch s l f).arrayCycles = s.arrayCycles := rfl
@[simp] theorem modLaunch_freeCtr (s : State) (l) (f) : (modLaunch s l f).freeCtr = s.freeCtr := rfl
@[simp] theorem modLaunch_pcie (s : State) (l) (f) : (modLaunch s l f).pcie = s.pcie := rfl
@[simp] theorem modLaunch_fuses (s : State) (l) (f) : (modLaunch s l f).fuses = s.fuses := rfl
@[simp] theorem modLaunch_fuse (s : State) (l) (f) : (modLaunch s l f).fuse = s.fuse := rfl
@[simp] theorem modLaunch_queues (s : State) (l) (f) : (modLaunch s l f).queues = s.queues := rfl
@[simp] theorem modLaunch_cmds (s : State) (l) (f) : (modLaunch s l f).cmds = s.cmds := rfl
@[simp] theorem modLaunch_cmdOrd (s : State) (l) (f) : (modLaunch s l f).cmdOrd = s.cmdOrd := rfl
@[simp] theorem modLaunch_highWater (s : State) (l) (f) : (modLaunch s l f).highWater = s.highWater := rfl
@[simp] theorem modLaunch_backpressure (s : State) (l) (f) : (modLaunch s l f).backpressure = s.backpressure := rfl
@[simp] theorem modLaunch_rrQueue (s : State) (l) (f) : (modLaunch s l f).rrQueue = s.rrQueue := rfl
@[simp] theorem modLaunch_rrLeft (s : State) (l) (f) : (modLaunch s l f).rrLeft = s.rrLeft := rfl
@[simp] theorem modLaunch_cores (s : State) (l) (f) : (modLaunch s l f).cores = s.cores := rfl
@[simp] theorem modLaunch_coreMap (s : State) (l) (f) : (modLaunch s l f).coreMap = s.coreMap := rfl
@[simp] theorem modLaunch_cpActive (s : State) (l) (f) : (modLaunch s l f).cpActive = s.cpActive := rfl
@[simp] theorem modLaunch_mem (s : State) (l) (f) : (modLaunch s l f).mem = s.mem := rfl
@[simp] theorem modLaunch_ledger (s : State) (l) (f) : (modLaunch s l f).ledger = s.ledger := rfl
@[simp] theorem modLaunch_tallies (s : State) (l) (f) : (modLaunch s l f).tallies = s.tallies := rfl
@[simp] theorem modLaunch_parts (s : State) (l) (f) : (modLaunch s l f).parts = s.parts := rfl
@[simp] theorem modLaunch_ctxs (s : State) (l) (f) : (modLaunch s l f).ctxs = s.ctxs := rfl
@[simp] theorem modLaunch_events (s : State) (l) (f) : (modLaunch s l f).events = s.events := rfl
@[simp] theorem modLaunch_stepSt (s : State) (l) (f) : (modLaunch s l f).stepSt = s.stepSt := rfl
@[simp] theorem modLaunch_fab (s : State) (l) (f) : (modLaunch s l f).fab = s.fab := rfl
@[simp] theorem modLaunch_groups (s : State) (l) (f) : (modLaunch s l f).groups = s.groups := rfl
@[simp] theorem modLaunch_maps (s : State) (l) (f) : (modLaunch s l f).maps = s.maps := rfl
@[simp] theorem modLaunch_substs (s : State) (l) (f) : (modLaunch s l f).substs = s.substs := rfl
@[simp] theorem modLaunch_boot (s : State) (l) (f) : (modLaunch s l f).boot = s.boot := rfl
@[simp] theorem modLaunch_pwr (s : State) (l) (f) : (modLaunch s l f).pwr = s.pwr := rfl
@[simp] theorem modLaunch_hang (s : State) (l) (f) : (modLaunch s l f).hang = s.hang := rfl
@[simp] theorem modLaunch_mgmt (s : State) (l) (f) : (modLaunch s l f).mgmt = s.mgmt := rfl
@[simp] theorem setMem_pending (s : State) (m) : (setMem s m).pending = s.pending := rfl
@[simp] theorem setMem_out (s : State) (m) : (setMem s m).out = s.out := rfl
@[simp] theorem setMem_hostMem (s : State) (m) : (setMem s m).hostMem = s.hostMem := rfl
@[simp] theorem setMem_time (s : State) (m) : (setMem s m).time = s.time := rfl
@[simp] theorem setMem_arrayCycles (s : State) (m) : (setMem s m).arrayCycles = s.arrayCycles := rfl
@[simp] theorem setMem_freeCtr (s : State) (m) : (setMem s m).freeCtr = s.freeCtr := rfl
@[simp] theorem setMem_pcie (s : State) (m) : (setMem s m).pcie = s.pcie := rfl
@[simp] theorem setMem_fuses (s : State) (m) : (setMem s m).fuses = s.fuses := rfl
@[simp] theorem setMem_fuse (s : State) (m) : (setMem s m).fuse = s.fuse := rfl
@[simp] theorem setMem_queues (s : State) (m) : (setMem s m).queues = s.queues := rfl
@[simp] theorem setMem_cmds (s : State) (m) : (setMem s m).cmds = s.cmds := rfl
@[simp] theorem setMem_cmdOrd (s : State) (m) : (setMem s m).cmdOrd = s.cmdOrd := rfl
@[simp] theorem setMem_highWater (s : State) (m) : (setMem s m).highWater = s.highWater := rfl
@[simp] theorem setMem_backpressure (s : State) (m) : (setMem s m).backpressure = s.backpressure := rfl
@[simp] theorem setMem_rrQueue (s : State) (m) : (setMem s m).rrQueue = s.rrQueue := rfl
@[simp] theorem setMem_rrLeft (s : State) (m) : (setMem s m).rrLeft = s.rrLeft := rfl
@[simp] theorem setMem_launches (s : State) (m) : (setMem s m).launches = s.launches := rfl
@[simp] theorem setMem_cores (s : State) (m) : (setMem s m).cores = s.cores := rfl
@[simp] theorem setMem_coreMap (s : State) (m) : (setMem s m).coreMap = s.coreMap := rfl
@[simp] theorem setMem_cpActive (s : State) (m) : (setMem s m).cpActive = s.cpActive := rfl
@[simp] theorem setMem_ledger (s : State) (m) : (setMem s m).ledger = s.ledger := rfl
@[simp] theorem setMem_tallies (s : State) (m) : (setMem s m).tallies = s.tallies := rfl
@[simp] theorem setMem_parts (s : State) (m) : (setMem s m).parts = s.parts := rfl
@[simp] theorem setMem_ctxs (s : State) (m) : (setMem s m).ctxs = s.ctxs := rfl
@[simp] theorem setMem_events (s : State) (m) : (setMem s m).events = s.events := rfl
@[simp] theorem setMem_stepSt (s : State) (m) : (setMem s m).stepSt = s.stepSt := rfl
@[simp] theorem setMem_fab (s : State) (m) : (setMem s m).fab = s.fab := rfl
@[simp] theorem setMem_groups (s : State) (m) : (setMem s m).groups = s.groups := rfl
@[simp] theorem setMem_maps (s : State) (m) : (setMem s m).maps = s.maps := rfl
@[simp] theorem setMem_substs (s : State) (m) : (setMem s m).substs = s.substs := rfl
@[simp] theorem setMem_boot (s : State) (m) : (setMem s m).boot = s.boot := rfl
@[simp] theorem setMem_pwr (s : State) (m) : (setMem s m).pwr = s.pwr := rfl
@[simp] theorem setMem_hang (s : State) (m) : (setMem s m).hang = s.hang := rfl
@[simp] theorem setMem_mgmt (s : State) (m) : (setMem s m).mgmt = s.mgmt := rfl
@[simp] theorem modMem_pending (s : State) (f) : (modMem s f).pending = s.pending := rfl
@[simp] theorem modMem_out (s : State) (f) : (modMem s f).out = s.out := rfl
@[simp] theorem modMem_hostMem (s : State) (f) : (modMem s f).hostMem = s.hostMem := rfl
@[simp] theorem modMem_time (s : State) (f) : (modMem s f).time = s.time := rfl
@[simp] theorem modMem_arrayCycles (s : State) (f) : (modMem s f).arrayCycles = s.arrayCycles := rfl
@[simp] theorem modMem_freeCtr (s : State) (f) : (modMem s f).freeCtr = s.freeCtr := rfl
@[simp] theorem modMem_pcie (s : State) (f) : (modMem s f).pcie = s.pcie := rfl
@[simp] theorem modMem_fuses (s : State) (f) : (modMem s f).fuses = s.fuses := rfl
@[simp] theorem modMem_fuse (s : State) (f) : (modMem s f).fuse = s.fuse := rfl
@[simp] theorem modMem_queues (s : State) (f) : (modMem s f).queues = s.queues := rfl
@[simp] theorem modMem_cmds (s : State) (f) : (modMem s f).cmds = s.cmds := rfl
@[simp] theorem modMem_cmdOrd (s : State) (f) : (modMem s f).cmdOrd = s.cmdOrd := rfl
@[simp] theorem modMem_highWater (s : State) (f) : (modMem s f).highWater = s.highWater := rfl
@[simp] theorem modMem_backpressure (s : State) (f) : (modMem s f).backpressure = s.backpressure := rfl
@[simp] theorem modMem_rrQueue (s : State) (f) : (modMem s f).rrQueue = s.rrQueue := rfl
@[simp] theorem modMem_rrLeft (s : State) (f) : (modMem s f).rrLeft = s.rrLeft := rfl
@[simp] theorem modMem_launches (s : State) (f) : (modMem s f).launches = s.launches := rfl
@[simp] theorem modMem_cores (s : State) (f) : (modMem s f).cores = s.cores := rfl
@[simp] theorem modMem_coreMap (s : State) (f) : (modMem s f).coreMap = s.coreMap := rfl
@[simp] theorem modMem_cpActive (s : State) (f) : (modMem s f).cpActive = s.cpActive := rfl
@[simp] theorem modMem_ledger (s : State) (f) : (modMem s f).ledger = s.ledger := rfl
@[simp] theorem modMem_tallies (s : State) (f) : (modMem s f).tallies = s.tallies := rfl
@[simp] theorem modMem_parts (s : State) (f) : (modMem s f).parts = s.parts := rfl
@[simp] theorem modMem_ctxs (s : State) (f) : (modMem s f).ctxs = s.ctxs := rfl
@[simp] theorem modMem_events (s : State) (f) : (modMem s f).events = s.events := rfl
@[simp] theorem modMem_stepSt (s : State) (f) : (modMem s f).stepSt = s.stepSt := rfl
@[simp] theorem modMem_fab (s : State) (f) : (modMem s f).fab = s.fab := rfl
@[simp] theorem modMem_groups (s : State) (f) : (modMem s f).groups = s.groups := rfl
@[simp] theorem modMem_maps (s : State) (f) : (modMem s f).maps = s.maps := rfl
@[simp] theorem modMem_substs (s : State) (f) : (modMem s f).substs = s.substs := rfl
@[simp] theorem modMem_boot (s : State) (f) : (modMem s f).boot = s.boot := rfl
@[simp] theorem modMem_pwr (s : State) (f) : (modMem s f).pwr = s.pwr := rfl
@[simp] theorem modMem_hang (s : State) (f) : (modMem s f).hang = s.hang := rfl
@[simp] theorem modMem_mgmt (s : State) (f) : (modMem s f).mgmt = s.mgmt := rfl
@[simp] theorem modChan_pending (s : State) (c) (f) : (modChan s c f).pending = s.pending := rfl
@[simp] theorem modChan_out (s : State) (c) (f) : (modChan s c f).out = s.out := rfl
@[simp] theorem modChan_hostMem (s : State) (c) (f) : (modChan s c f).hostMem = s.hostMem := rfl
@[simp] theorem modChan_time (s : State) (c) (f) : (modChan s c f).time = s.time := rfl
@[simp] theorem modChan_arrayCycles (s : State) (c) (f) : (modChan s c f).arrayCycles = s.arrayCycles := rfl
@[simp] theorem modChan_freeCtr (s : State) (c) (f) : (modChan s c f).freeCtr = s.freeCtr := rfl
@[simp] theorem modChan_pcie (s : State) (c) (f) : (modChan s c f).pcie = s.pcie := rfl
@[simp] theorem modChan_fuses (s : State) (c) (f) : (modChan s c f).fuses = s.fuses := rfl
@[simp] theorem modChan_fuse (s : State) (c) (f) : (modChan s c f).fuse = s.fuse := rfl
@[simp] theorem modChan_queues (s : State) (c) (f) : (modChan s c f).queues = s.queues := rfl
@[simp] theorem modChan_cmds (s : State) (c) (f) : (modChan s c f).cmds = s.cmds := rfl
@[simp] theorem modChan_cmdOrd (s : State) (c) (f) : (modChan s c f).cmdOrd = s.cmdOrd := rfl
@[simp] theorem modChan_highWater (s : State) (c) (f) : (modChan s c f).highWater = s.highWater := rfl
@[simp] theorem modChan_backpressure (s : State) (c) (f) : (modChan s c f).backpressure = s.backpressure := rfl
@[simp] theorem modChan_rrQueue (s : State) (c) (f) : (modChan s c f).rrQueue = s.rrQueue := rfl
@[simp] theorem modChan_rrLeft (s : State) (c) (f) : (modChan s c f).rrLeft = s.rrLeft := rfl
@[simp] theorem modChan_launches (s : State) (c) (f) : (modChan s c f).launches = s.launches := rfl
@[simp] theorem modChan_cores (s : State) (c) (f) : (modChan s c f).cores = s.cores := rfl
@[simp] theorem modChan_coreMap (s : State) (c) (f) : (modChan s c f).coreMap = s.coreMap := rfl
@[simp] theorem modChan_cpActive (s : State) (c) (f) : (modChan s c f).cpActive = s.cpActive := rfl
@[simp] theorem modChan_ledger (s : State) (c) (f) : (modChan s c f).ledger = s.ledger := rfl
@[simp] theorem modChan_tallies (s : State) (c) (f) : (modChan s c f).tallies = s.tallies := rfl
@[simp] theorem modChan_parts (s : State) (c) (f) : (modChan s c f).parts = s.parts := rfl
@[simp] theorem modChan_ctxs (s : State) (c) (f) : (modChan s c f).ctxs = s.ctxs := rfl
@[simp] theorem modChan_events (s : State) (c) (f) : (modChan s c f).events = s.events := rfl
@[simp] theorem modChan_stepSt (s : State) (c) (f) : (modChan s c f).stepSt = s.stepSt := rfl
@[simp] theorem modChan_fab (s : State) (c) (f) : (modChan s c f).fab = s.fab := rfl
@[simp] theorem modChan_groups (s : State) (c) (f) : (modChan s c f).groups = s.groups := rfl
@[simp] theorem modChan_maps (s : State) (c) (f) : (modChan s c f).maps = s.maps := rfl
@[simp] theorem modChan_substs (s : State) (c) (f) : (modChan s c f).substs = s.substs := rfl
@[simp] theorem modChan_boot (s : State) (c) (f) : (modChan s c f).boot = s.boot := rfl
@[simp] theorem modChan_pwr (s : State) (c) (f) : (modChan s c f).pwr = s.pwr := rfl
@[simp] theorem modChan_hang (s : State) (c) (f) : (modChan s c f).hang = s.hang := rfl
@[simp] theorem modChan_mgmt (s : State) (c) (f) : (modChan s c f).mgmt = s.mgmt := rfl
@[simp] theorem modRing_pending (s : State) (n) (f) : (modRing s n f).pending = s.pending := rfl
@[simp] theorem modRing_out (s : State) (n) (f) : (modRing s n f).out = s.out := rfl
@[simp] theorem modRing_hostMem (s : State) (n) (f) : (modRing s n f).hostMem = s.hostMem := rfl
@[simp] theorem modRing_time (s : State) (n) (f) : (modRing s n f).time = s.time := rfl
@[simp] theorem modRing_arrayCycles (s : State) (n) (f) : (modRing s n f).arrayCycles = s.arrayCycles := rfl
@[simp] theorem modRing_freeCtr (s : State) (n) (f) : (modRing s n f).freeCtr = s.freeCtr := rfl
@[simp] theorem modRing_pcie (s : State) (n) (f) : (modRing s n f).pcie = s.pcie := rfl
@[simp] theorem modRing_fuses (s : State) (n) (f) : (modRing s n f).fuses = s.fuses := rfl
@[simp] theorem modRing_fuse (s : State) (n) (f) : (modRing s n f).fuse = s.fuse := rfl
@[simp] theorem modRing_queues (s : State) (n) (f) : (modRing s n f).queues = s.queues := rfl
@[simp] theorem modRing_cmds (s : State) (n) (f) : (modRing s n f).cmds = s.cmds := rfl
@[simp] theorem modRing_cmdOrd (s : State) (n) (f) : (modRing s n f).cmdOrd = s.cmdOrd := rfl
@[simp] theorem modRing_highWater (s : State) (n) (f) : (modRing s n f).highWater = s.highWater := rfl
@[simp] theorem modRing_backpressure (s : State) (n) (f) : (modRing s n f).backpressure = s.backpressure := rfl
@[simp] theorem modRing_rrQueue (s : State) (n) (f) : (modRing s n f).rrQueue = s.rrQueue := rfl
@[simp] theorem modRing_rrLeft (s : State) (n) (f) : (modRing s n f).rrLeft = s.rrLeft := rfl
@[simp] theorem modRing_launches (s : State) (n) (f) : (modRing s n f).launches = s.launches := rfl
@[simp] theorem modRing_cores (s : State) (n) (f) : (modRing s n f).cores = s.cores := rfl
@[simp] theorem modRing_coreMap (s : State) (n) (f) : (modRing s n f).coreMap = s.coreMap := rfl
@[simp] theorem modRing_cpActive (s : State) (n) (f) : (modRing s n f).cpActive = s.cpActive := rfl
@[simp] theorem modRing_mem (s : State) (n) (f) : (modRing s n f).mem = s.mem := rfl
@[simp] theorem modRing_ledger (s : State) (n) (f) : (modRing s n f).ledger = s.ledger := rfl
@[simp] theorem modRing_tallies (s : State) (n) (f) : (modRing s n f).tallies = s.tallies := rfl
@[simp] theorem modRing_parts (s : State) (n) (f) : (modRing s n f).parts = s.parts := rfl
@[simp] theorem modRing_ctxs (s : State) (n) (f) : (modRing s n f).ctxs = s.ctxs := rfl
@[simp] theorem modRing_stepSt (s : State) (n) (f) : (modRing s n f).stepSt = s.stepSt := rfl
@[simp] theorem modRing_fab (s : State) (n) (f) : (modRing s n f).fab = s.fab := rfl
@[simp] theorem modRing_groups (s : State) (n) (f) : (modRing s n f).groups = s.groups := rfl
@[simp] theorem modRing_maps (s : State) (n) (f) : (modRing s n f).maps = s.maps := rfl
@[simp] theorem modRing_substs (s : State) (n) (f) : (modRing s n f).substs = s.substs := rfl
@[simp] theorem modRing_boot (s : State) (n) (f) : (modRing s n f).boot = s.boot := rfl
@[simp] theorem modRing_pwr (s : State) (n) (f) : (modRing s n f).pwr = s.pwr := rfl
@[simp] theorem modRing_hang (s : State) (n) (f) : (modRing s n f).hang = s.hang := rfl
@[simp] theorem modRing_mgmt (s : State) (n) (f) : (modRing s n f).mgmt = s.mgmt := rfl
@[simp] theorem modProc_pending (s : State) (q) (f) : (modProc s q f).pending = s.pending := rfl
@[simp] theorem modProc_out (s : State) (q) (f) : (modProc s q f).out = s.out := rfl
@[simp] theorem modProc_hostMem (s : State) (q) (f) : (modProc s q f).hostMem = s.hostMem := rfl
@[simp] theorem modProc_time (s : State) (q) (f) : (modProc s q f).time = s.time := rfl
@[simp] theorem modProc_arrayCycles (s : State) (q) (f) : (modProc s q f).arrayCycles = s.arrayCycles := rfl
@[simp] theorem modProc_freeCtr (s : State) (q) (f) : (modProc s q f).freeCtr = s.freeCtr := rfl
@[simp] theorem modProc_pcie (s : State) (q) (f) : (modProc s q f).pcie = s.pcie := rfl
@[simp] theorem modProc_fuses (s : State) (q) (f) : (modProc s q f).fuses = s.fuses := rfl
@[simp] theorem modProc_fuse (s : State) (q) (f) : (modProc s q f).fuse = s.fuse := rfl
@[simp] theorem modProc_queues (s : State) (q) (f) : (modProc s q f).queues = s.queues := rfl
@[simp] theorem modProc_cmds (s : State) (q) (f) : (modProc s q f).cmds = s.cmds := rfl
@[simp] theorem modProc_cmdOrd (s : State) (q) (f) : (modProc s q f).cmdOrd = s.cmdOrd := rfl
@[simp] theorem modProc_highWater (s : State) (q) (f) : (modProc s q f).highWater = s.highWater := rfl
@[simp] theorem modProc_backpressure (s : State) (q) (f) : (modProc s q f).backpressure = s.backpressure := rfl
@[simp] theorem modProc_rrQueue (s : State) (q) (f) : (modProc s q f).rrQueue = s.rrQueue := rfl
@[simp] theorem modProc_rrLeft (s : State) (q) (f) : (modProc s q f).rrLeft = s.rrLeft := rfl
@[simp] theorem modProc_launches (s : State) (q) (f) : (modProc s q f).launches = s.launches := rfl
@[simp] theorem modProc_cores (s : State) (q) (f) : (modProc s q f).cores = s.cores := rfl
@[simp] theorem modProc_coreMap (s : State) (q) (f) : (modProc s q f).coreMap = s.coreMap := rfl
@[simp] theorem modProc_cpActive (s : State) (q) (f) : (modProc s q f).cpActive = s.cpActive := rfl
@[simp] theorem modProc_mem (s : State) (q) (f) : (modProc s q f).mem = s.mem := rfl
@[simp] theorem modProc_ledger (s : State) (q) (f) : (modProc s q f).ledger = s.ledger := rfl
@[simp] theorem modProc_tallies (s : State) (q) (f) : (modProc s q f).tallies = s.tallies := rfl
@[simp] theorem modProc_parts (s : State) (q) (f) : (modProc s q f).parts = s.parts := rfl
@[simp] theorem modProc_ctxs (s : State) (q) (f) : (modProc s q f).ctxs = s.ctxs := rfl
@[simp] theorem modProc_stepSt (s : State) (q) (f) : (modProc s q f).stepSt = s.stepSt := rfl
@[simp] theorem modProc_fab (s : State) (q) (f) : (modProc s q f).fab = s.fab := rfl
@[simp] theorem modProc_groups (s : State) (q) (f) : (modProc s q f).groups = s.groups := rfl
@[simp] theorem modProc_maps (s : State) (q) (f) : (modProc s q f).maps = s.maps := rfl
@[simp] theorem modProc_substs (s : State) (q) (f) : (modProc s q f).substs = s.substs := rfl
@[simp] theorem modProc_boot (s : State) (q) (f) : (modProc s q f).boot = s.boot := rfl
@[simp] theorem modProc_pwr (s : State) (q) (f) : (modProc s q f).pwr = s.pwr := rfl
@[simp] theorem modProc_hang (s : State) (q) (f) : (modProc s q f).hang = s.hang := rfl
@[simp] theorem modProc_mgmt (s : State) (q) (f) : (modProc s q f).mgmt = s.mgmt := rfl
@[simp] theorem modBoot_pending (s : State) (f) : (modBoot s f).pending = s.pending := rfl
@[simp] theorem modBoot_out (s : State) (f) : (modBoot s f).out = s.out := rfl
@[simp] theorem modBoot_hostMem (s : State) (f) : (modBoot s f).hostMem = s.hostMem := rfl
@[simp] theorem modBoot_time (s : State) (f) : (modBoot s f).time = s.time := rfl
@[simp] theorem modBoot_arrayCycles (s : State) (f) : (modBoot s f).arrayCycles = s.arrayCycles := rfl
@[simp] theorem modBoot_freeCtr (s : State) (f) : (modBoot s f).freeCtr = s.freeCtr := rfl
@[simp] theorem modBoot_pcie (s : State) (f) : (modBoot s f).pcie = s.pcie := rfl
@[simp] theorem modBoot_fuses (s : State) (f) : (modBoot s f).fuses = s.fuses := rfl
@[simp] theorem modBoot_fuse (s : State) (f) : (modBoot s f).fuse = s.fuse := rfl
@[simp] theorem modBoot_queues (s : State) (f) : (modBoot s f).queues = s.queues := rfl
@[simp] theorem modBoot_cmds (s : State) (f) : (modBoot s f).cmds = s.cmds := rfl
@[simp] theorem modBoot_cmdOrd (s : State) (f) : (modBoot s f).cmdOrd = s.cmdOrd := rfl
@[simp] theorem modBoot_highWater (s : State) (f) : (modBoot s f).highWater = s.highWater := rfl
@[simp] theorem modBoot_backpressure (s : State) (f) : (modBoot s f).backpressure = s.backpressure := rfl
@[simp] theorem modBoot_rrQueue (s : State) (f) : (modBoot s f).rrQueue = s.rrQueue := rfl
@[simp] theorem modBoot_rrLeft (s : State) (f) : (modBoot s f).rrLeft = s.rrLeft := rfl
@[simp] theorem modBoot_launches (s : State) (f) : (modBoot s f).launches = s.launches := rfl
@[simp] theorem modBoot_cores (s : State) (f) : (modBoot s f).cores = s.cores := rfl
@[simp] theorem modBoot_coreMap (s : State) (f) : (modBoot s f).coreMap = s.coreMap := rfl
@[simp] theorem modBoot_cpActive (s : State) (f) : (modBoot s f).cpActive = s.cpActive := rfl
@[simp] theorem modBoot_mem (s : State) (f) : (modBoot s f).mem = s.mem := rfl
@[simp] theorem modBoot_ledger (s : State) (f) : (modBoot s f).ledger = s.ledger := rfl
@[simp] theorem modBoot_tallies (s : State) (f) : (modBoot s f).tallies = s.tallies := rfl
@[simp] theorem modBoot_parts (s : State) (f) : (modBoot s f).parts = s.parts := rfl
@[simp] theorem modBoot_ctxs (s : State) (f) : (modBoot s f).ctxs = s.ctxs := rfl
@[simp] theorem modBoot_events (s : State) (f) : (modBoot s f).events = s.events := rfl
@[simp] theorem modBoot_stepSt (s : State) (f) : (modBoot s f).stepSt = s.stepSt := rfl
@[simp] theorem modBoot_fab (s : State) (f) : (modBoot s f).fab = s.fab := rfl
@[simp] theorem modBoot_groups (s : State) (f) : (modBoot s f).groups = s.groups := rfl
@[simp] theorem modBoot_maps (s : State) (f) : (modBoot s f).maps = s.maps := rfl
@[simp] theorem modBoot_substs (s : State) (f) : (modBoot s f).substs = s.substs := rfl
@[simp] theorem modBoot_pwr (s : State) (f) : (modBoot s f).pwr = s.pwr := rfl
@[simp] theorem modBoot_hang (s : State) (f) : (modBoot s f).hang = s.hang := rfl
@[simp] theorem modBoot_mgmt (s : State) (f) : (modBoot s f).mgmt = s.mgmt := rfl
@[simp] theorem modPwr_pending (s : State) (f) : (modPwr s f).pending = s.pending := rfl
@[simp] theorem modPwr_out (s : State) (f) : (modPwr s f).out = s.out := rfl
@[simp] theorem modPwr_hostMem (s : State) (f) : (modPwr s f).hostMem = s.hostMem := rfl
@[simp] theorem modPwr_time (s : State) (f) : (modPwr s f).time = s.time := rfl
@[simp] theorem modPwr_arrayCycles (s : State) (f) : (modPwr s f).arrayCycles = s.arrayCycles := rfl
@[simp] theorem modPwr_freeCtr (s : State) (f) : (modPwr s f).freeCtr = s.freeCtr := rfl
@[simp] theorem modPwr_pcie (s : State) (f) : (modPwr s f).pcie = s.pcie := rfl
@[simp] theorem modPwr_fuses (s : State) (f) : (modPwr s f).fuses = s.fuses := rfl
@[simp] theorem modPwr_fuse (s : State) (f) : (modPwr s f).fuse = s.fuse := rfl
@[simp] theorem modPwr_queues (s : State) (f) : (modPwr s f).queues = s.queues := rfl
@[simp] theorem modPwr_cmds (s : State) (f) : (modPwr s f).cmds = s.cmds := rfl
@[simp] theorem modPwr_cmdOrd (s : State) (f) : (modPwr s f).cmdOrd = s.cmdOrd := rfl
@[simp] theorem modPwr_highWater (s : State) (f) : (modPwr s f).highWater = s.highWater := rfl
@[simp] theorem modPwr_backpressure (s : State) (f) : (modPwr s f).backpressure = s.backpressure := rfl
@[simp] theorem modPwr_rrQueue (s : State) (f) : (modPwr s f).rrQueue = s.rrQueue := rfl
@[simp] theorem modPwr_rrLeft (s : State) (f) : (modPwr s f).rrLeft = s.rrLeft := rfl
@[simp] theorem modPwr_launches (s : State) (f) : (modPwr s f).launches = s.launches := rfl
@[simp] theorem modPwr_cores (s : State) (f) : (modPwr s f).cores = s.cores := rfl
@[simp] theorem modPwr_coreMap (s : State) (f) : (modPwr s f).coreMap = s.coreMap := rfl
@[simp] theorem modPwr_cpActive (s : State) (f) : (modPwr s f).cpActive = s.cpActive := rfl
@[simp] theorem modPwr_mem (s : State) (f) : (modPwr s f).mem = s.mem := rfl
@[simp] theorem modPwr_ledger (s : State) (f) : (modPwr s f).ledger = s.ledger := rfl
@[simp] theorem modPwr_tallies (s : State) (f) : (modPwr s f).tallies = s.tallies := rfl
@[simp] theorem modPwr_parts (s : State) (f) : (modPwr s f).parts = s.parts := rfl
@[simp] theorem modPwr_ctxs (s : State) (f) : (modPwr s f).ctxs = s.ctxs := rfl
@[simp] theorem modPwr_events (s : State) (f) : (modPwr s f).events = s.events := rfl
@[simp] theorem modPwr_stepSt (s : State) (f) : (modPwr s f).stepSt = s.stepSt := rfl
@[simp] theorem modPwr_fab (s : State) (f) : (modPwr s f).fab = s.fab := rfl
@[simp] theorem modPwr_groups (s : State) (f) : (modPwr s f).groups = s.groups := rfl
@[simp] theorem modPwr_maps (s : State) (f) : (modPwr s f).maps = s.maps := rfl
@[simp] theorem modPwr_substs (s : State) (f) : (modPwr s f).substs = s.substs := rfl
@[simp] theorem modPwr_boot (s : State) (f) : (modPwr s f).boot = s.boot := rfl
@[simp] theorem modPwr_hang (s : State) (f) : (modPwr s f).hang = s.hang := rfl
@[simp] theorem modPwr_mgmt (s : State) (f) : (modPwr s f).mgmt = s.mgmt := rfl
@[simp] theorem modLedger_pending (s : State) (f) : (modLedger s f).pending = s.pending := rfl
@[simp] theorem modLedger_out (s : State) (f) : (modLedger s f).out = s.out := rfl
@[simp] theorem modLedger_hostMem (s : State) (f) : (modLedger s f).hostMem = s.hostMem := rfl
@[simp] theorem modLedger_time (s : State) (f) : (modLedger s f).time = s.time := rfl
@[simp] theorem modLedger_arrayCycles (s : State) (f) : (modLedger s f).arrayCycles = s.arrayCycles := rfl
@[simp] theorem modLedger_freeCtr (s : State) (f) : (modLedger s f).freeCtr = s.freeCtr := rfl
@[simp] theorem modLedger_pcie (s : State) (f) : (modLedger s f).pcie = s.pcie := rfl
@[simp] theorem modLedger_fuses (s : State) (f) : (modLedger s f).fuses = s.fuses := rfl
@[simp] theorem modLedger_fuse (s : State) (f) : (modLedger s f).fuse = s.fuse := rfl
@[simp] theorem modLedger_queues (s : State) (f) : (modLedger s f).queues = s.queues := rfl
@[simp] theorem modLedger_cmds (s : State) (f) : (modLedger s f).cmds = s.cmds := rfl
@[simp] theorem modLedger_cmdOrd (s : State) (f) : (modLedger s f).cmdOrd = s.cmdOrd := rfl
@[simp] theorem modLedger_highWater (s : State) (f) : (modLedger s f).highWater = s.highWater := rfl
@[simp] theorem modLedger_backpressure (s : State) (f) : (modLedger s f).backpressure = s.backpressure := rfl
@[simp] theorem modLedger_rrQueue (s : State) (f) : (modLedger s f).rrQueue = s.rrQueue := rfl
@[simp] theorem modLedger_rrLeft (s : State) (f) : (modLedger s f).rrLeft = s.rrLeft := rfl
@[simp] theorem modLedger_launches (s : State) (f) : (modLedger s f).launches = s.launches := rfl
@[simp] theorem modLedger_cores (s : State) (f) : (modLedger s f).cores = s.cores := rfl
@[simp] theorem modLedger_coreMap (s : State) (f) : (modLedger s f).coreMap = s.coreMap := rfl
@[simp] theorem modLedger_cpActive (s : State) (f) : (modLedger s f).cpActive = s.cpActive := rfl
@[simp] theorem modLedger_mem (s : State) (f) : (modLedger s f).mem = s.mem := rfl
@[simp] theorem modLedger_tallies (s : State) (f) : (modLedger s f).tallies = s.tallies := rfl
@[simp] theorem modLedger_parts (s : State) (f) : (modLedger s f).parts = s.parts := rfl
@[simp] theorem modLedger_ctxs (s : State) (f) : (modLedger s f).ctxs = s.ctxs := rfl
@[simp] theorem modLedger_events (s : State) (f) : (modLedger s f).events = s.events := rfl
@[simp] theorem modLedger_stepSt (s : State) (f) : (modLedger s f).stepSt = s.stepSt := rfl
@[simp] theorem modLedger_fab (s : State) (f) : (modLedger s f).fab = s.fab := rfl
@[simp] theorem modLedger_groups (s : State) (f) : (modLedger s f).groups = s.groups := rfl
@[simp] theorem modLedger_maps (s : State) (f) : (modLedger s f).maps = s.maps := rfl
@[simp] theorem modLedger_substs (s : State) (f) : (modLedger s f).substs = s.substs := rfl
@[simp] theorem modLedger_boot (s : State) (f) : (modLedger s f).boot = s.boot := rfl
@[simp] theorem modLedger_pwr (s : State) (f) : (modLedger s f).pwr = s.pwr := rfl
@[simp] theorem modLedger_hang (s : State) (f) : (modLedger s f).hang = s.hang := rfl
@[simp] theorem modLedger_mgmt (s : State) (f) : (modLedger s f).mgmt = s.mgmt := rfl
@[simp] theorem modUnit_pending (s : State) (u) (f) : (modUnit s u f).pending = s.pending := rfl
@[simp] theorem modUnit_out (s : State) (u) (f) : (modUnit s u f).out = s.out := rfl
@[simp] theorem modUnit_hostMem (s : State) (u) (f) : (modUnit s u f).hostMem = s.hostMem := rfl
@[simp] theorem modUnit_time (s : State) (u) (f) : (modUnit s u f).time = s.time := rfl
@[simp] theorem modUnit_arrayCycles (s : State) (u) (f) : (modUnit s u f).arrayCycles = s.arrayCycles := rfl
@[simp] theorem modUnit_freeCtr (s : State) (u) (f) : (modUnit s u f).freeCtr = s.freeCtr := rfl
@[simp] theorem modUnit_pcie (s : State) (u) (f) : (modUnit s u f).pcie = s.pcie := rfl
@[simp] theorem modUnit_fuses (s : State) (u) (f) : (modUnit s u f).fuses = s.fuses := rfl
@[simp] theorem modUnit_fuse (s : State) (u) (f) : (modUnit s u f).fuse = s.fuse := rfl
@[simp] theorem modUnit_queues (s : State) (u) (f) : (modUnit s u f).queues = s.queues := rfl
@[simp] theorem modUnit_cmds (s : State) (u) (f) : (modUnit s u f).cmds = s.cmds := rfl
@[simp] theorem modUnit_cmdOrd (s : State) (u) (f) : (modUnit s u f).cmdOrd = s.cmdOrd := rfl
@[simp] theorem modUnit_highWater (s : State) (u) (f) : (modUnit s u f).highWater = s.highWater := rfl
@[simp] theorem modUnit_backpressure (s : State) (u) (f) : (modUnit s u f).backpressure = s.backpressure := rfl
@[simp] theorem modUnit_rrQueue (s : State) (u) (f) : (modUnit s u f).rrQueue = s.rrQueue := rfl
@[simp] theorem modUnit_rrLeft (s : State) (u) (f) : (modUnit s u f).rrLeft = s.rrLeft := rfl
@[simp] theorem modUnit_launches (s : State) (u) (f) : (modUnit s u f).launches = s.launches := rfl
@[simp] theorem modUnit_cores (s : State) (u) (f) : (modUnit s u f).cores = s.cores := rfl
@[simp] theorem modUnit_coreMap (s : State) (u) (f) : (modUnit s u f).coreMap = s.coreMap := rfl
@[simp] theorem modUnit_cpActive (s : State) (u) (f) : (modUnit s u f).cpActive = s.cpActive := rfl
@[simp] theorem modUnit_mem (s : State) (u) (f) : (modUnit s u f).mem = s.mem := rfl
@[simp] theorem modUnit_tallies (s : State) (u) (f) : (modUnit s u f).tallies = s.tallies := rfl
@[simp] theorem modUnit_parts (s : State) (u) (f) : (modUnit s u f).parts = s.parts := rfl
@[simp] theorem modUnit_ctxs (s : State) (u) (f) : (modUnit s u f).ctxs = s.ctxs := rfl
@[simp] theorem modUnit_events (s : State) (u) (f) : (modUnit s u f).events = s.events := rfl
@[simp] theorem modUnit_stepSt (s : State) (u) (f) : (modUnit s u f).stepSt = s.stepSt := rfl
@[simp] theorem modUnit_fab (s : State) (u) (f) : (modUnit s u f).fab = s.fab := rfl
@[simp] theorem modUnit_groups (s : State) (u) (f) : (modUnit s u f).groups = s.groups := rfl
@[simp] theorem modUnit_maps (s : State) (u) (f) : (modUnit s u f).maps = s.maps := rfl
@[simp] theorem modUnit_substs (s : State) (u) (f) : (modUnit s u f).substs = s.substs := rfl
@[simp] theorem modUnit_boot (s : State) (u) (f) : (modUnit s u f).boot = s.boot := rfl
@[simp] theorem modUnit_pwr (s : State) (u) (f) : (modUnit s u f).pwr = s.pwr := rfl
@[simp] theorem modUnit_hang (s : State) (u) (f) : (modUnit s u f).hang = s.hang := rfl
@[simp] theorem modUnit_mgmt (s : State) (u) (f) : (modUnit s u f).mgmt = s.mgmt := rfl
@[simp] theorem modGroup_pending (s : State) (g) (f) : (modGroup s g f).pending = s.pending := rfl
@[simp] theorem modGroup_out (s : State) (g) (f) : (modGroup s g f).out = s.out := rfl
@[simp] theorem modGroup_hostMem (s : State) (g) (f) : (modGroup s g f).hostMem = s.hostMem := rfl
@[simp] theorem modGroup_time (s : State) (g) (f) : (modGroup s g f).time = s.time := rfl
@[simp] theorem modGroup_arrayCycles (s : State) (g) (f) : (modGroup s g f).arrayCycles = s.arrayCycles := rfl
@[simp] theorem modGroup_freeCtr (s : State) (g) (f) : (modGroup s g f).freeCtr = s.freeCtr := rfl
@[simp] theorem modGroup_pcie (s : State) (g) (f) : (modGroup s g f).pcie = s.pcie := rfl
@[simp] theorem modGroup_fuses (s : State) (g) (f) : (modGroup s g f).fuses = s.fuses := rfl
@[simp] theorem modGroup_fuse (s : State) (g) (f) : (modGroup s g f).fuse = s.fuse := rfl
@[simp] theorem modGroup_queues (s : State) (g) (f) : (modGroup s g f).queues = s.queues := rfl
@[simp] theorem modGroup_cmds (s : State) (g) (f) : (modGroup s g f).cmds = s.cmds := rfl
@[simp] theorem modGroup_cmdOrd (s : State) (g) (f) : (modGroup s g f).cmdOrd = s.cmdOrd := rfl
@[simp] theorem modGroup_highWater (s : State) (g) (f) : (modGroup s g f).highWater = s.highWater := rfl
@[simp] theorem modGroup_backpressure (s : State) (g) (f) : (modGroup s g f).backpressure = s.backpressure := rfl
@[simp] theorem modGroup_rrQueue (s : State) (g) (f) : (modGroup s g f).rrQueue = s.rrQueue := rfl
@[simp] theorem modGroup_rrLeft (s : State) (g) (f) : (modGroup s g f).rrLeft = s.rrLeft := rfl
@[simp] theorem modGroup_launches (s : State) (g) (f) : (modGroup s g f).launches = s.launches := rfl
@[simp] theorem modGroup_cores (s : State) (g) (f) : (modGroup s g f).cores = s.cores := rfl
@[simp] theorem modGroup_coreMap (s : State) (g) (f) : (modGroup s g f).coreMap = s.coreMap := rfl
@[simp] theorem modGroup_cpActive (s : State) (g) (f) : (modGroup s g f).cpActive = s.cpActive := rfl
@[simp] theorem modGroup_mem (s : State) (g) (f) : (modGroup s g f).mem = s.mem := rfl
@[simp] theorem modGroup_ledger (s : State) (g) (f) : (modGroup s g f).ledger = s.ledger := rfl
@[simp] theorem modGroup_tallies (s : State) (g) (f) : (modGroup s g f).tallies = s.tallies := rfl
@[simp] theorem modGroup_parts (s : State) (g) (f) : (modGroup s g f).parts = s.parts := rfl
@[simp] theorem modGroup_ctxs (s : State) (g) (f) : (modGroup s g f).ctxs = s.ctxs := rfl
@[simp] theorem modGroup_events (s : State) (g) (f) : (modGroup s g f).events = s.events := rfl
@[simp] theorem modGroup_stepSt (s : State) (g) (f) : (modGroup s g f).stepSt = s.stepSt := rfl
@[simp] theorem modGroup_fab (s : State) (g) (f) : (modGroup s g f).fab = s.fab := rfl
@[simp] theorem modGroup_maps (s : State) (g) (f) : (modGroup s g f).maps = s.maps := rfl
@[simp] theorem modGroup_substs (s : State) (g) (f) : (modGroup s g f).substs = s.substs := rfl
@[simp] theorem modGroup_boot (s : State) (g) (f) : (modGroup s g f).boot = s.boot := rfl
@[simp] theorem modGroup_pwr (s : State) (g) (f) : (modGroup s g f).pwr = s.pwr := rfl
@[simp] theorem modGroup_hang (s : State) (g) (f) : (modGroup s g f).hang = s.hang := rfl
@[simp] theorem modGroup_mgmt (s : State) (g) (f) : (modGroup s g f).mgmt = s.mgmt := rfl
@[simp] theorem modMap_pending (s : State) (n) (f) : (modMap s n f).pending = s.pending := rfl
@[simp] theorem modMap_out (s : State) (n) (f) : (modMap s n f).out = s.out := rfl
@[simp] theorem modMap_hostMem (s : State) (n) (f) : (modMap s n f).hostMem = s.hostMem := rfl
@[simp] theorem modMap_time (s : State) (n) (f) : (modMap s n f).time = s.time := rfl
@[simp] theorem modMap_arrayCycles (s : State) (n) (f) : (modMap s n f).arrayCycles = s.arrayCycles := rfl
@[simp] theorem modMap_freeCtr (s : State) (n) (f) : (modMap s n f).freeCtr = s.freeCtr := rfl
@[simp] theorem modMap_pcie (s : State) (n) (f) : (modMap s n f).pcie = s.pcie := rfl
@[simp] theorem modMap_fuses (s : State) (n) (f) : (modMap s n f).fuses = s.fuses := rfl
@[simp] theorem modMap_fuse (s : State) (n) (f) : (modMap s n f).fuse = s.fuse := rfl
@[simp] theorem modMap_queues (s : State) (n) (f) : (modMap s n f).queues = s.queues := rfl
@[simp] theorem modMap_cmds (s : State) (n) (f) : (modMap s n f).cmds = s.cmds := rfl
@[simp] theorem modMap_cmdOrd (s : State) (n) (f) : (modMap s n f).cmdOrd = s.cmdOrd := rfl
@[simp] theorem modMap_highWater (s : State) (n) (f) : (modMap s n f).highWater = s.highWater := rfl
@[simp] theorem modMap_backpressure (s : State) (n) (f) : (modMap s n f).backpressure = s.backpressure := rfl
@[simp] theorem modMap_rrQueue (s : State) (n) (f) : (modMap s n f).rrQueue = s.rrQueue := rfl
@[simp] theorem modMap_rrLeft (s : State) (n) (f) : (modMap s n f).rrLeft = s.rrLeft := rfl
@[simp] theorem modMap_launches (s : State) (n) (f) : (modMap s n f).launches = s.launches := rfl
@[simp] theorem modMap_cores (s : State) (n) (f) : (modMap s n f).cores = s.cores := rfl
@[simp] theorem modMap_coreMap (s : State) (n) (f) : (modMap s n f).coreMap = s.coreMap := rfl
@[simp] theorem modMap_cpActive (s : State) (n) (f) : (modMap s n f).cpActive = s.cpActive := rfl
@[simp] theorem modMap_mem (s : State) (n) (f) : (modMap s n f).mem = s.mem := rfl
@[simp] theorem modMap_ledger (s : State) (n) (f) : (modMap s n f).ledger = s.ledger := rfl
@[simp] theorem modMap_tallies (s : State) (n) (f) : (modMap s n f).tallies = s.tallies := rfl
@[simp] theorem modMap_parts (s : State) (n) (f) : (modMap s n f).parts = s.parts := rfl
@[simp] theorem modMap_ctxs (s : State) (n) (f) : (modMap s n f).ctxs = s.ctxs := rfl
@[simp] theorem modMap_events (s : State) (n) (f) : (modMap s n f).events = s.events := rfl
@[simp] theorem modMap_stepSt (s : State) (n) (f) : (modMap s n f).stepSt = s.stepSt := rfl
@[simp] theorem modMap_fab (s : State) (n) (f) : (modMap s n f).fab = s.fab := rfl
@[simp] theorem modMap_groups (s : State) (n) (f) : (modMap s n f).groups = s.groups := rfl
@[simp] theorem modMap_substs (s : State) (n) (f) : (modMap s n f).substs = s.substs := rfl
@[simp] theorem modMap_boot (s : State) (n) (f) : (modMap s n f).boot = s.boot := rfl
@[simp] theorem modMap_pwr (s : State) (n) (f) : (modMap s n f).pwr = s.pwr := rfl
@[simp] theorem modMap_hang (s : State) (n) (f) : (modMap s n f).hang = s.hang := rfl
@[simp] theorem modMap_mgmt (s : State) (n) (f) : (modMap s n f).mgmt = s.mgmt := rfl
@[simp] theorem modFab_pending (s : State) (f) : (modFab s f).pending = s.pending := rfl
@[simp] theorem modFab_out (s : State) (f) : (modFab s f).out = s.out := rfl
@[simp] theorem modFab_hostMem (s : State) (f) : (modFab s f).hostMem = s.hostMem := rfl
@[simp] theorem modFab_time (s : State) (f) : (modFab s f).time = s.time := rfl
@[simp] theorem modFab_arrayCycles (s : State) (f) : (modFab s f).arrayCycles = s.arrayCycles := rfl
@[simp] theorem modFab_freeCtr (s : State) (f) : (modFab s f).freeCtr = s.freeCtr := rfl
@[simp] theorem modFab_pcie (s : State) (f) : (modFab s f).pcie = s.pcie := rfl
@[simp] theorem modFab_fuses (s : State) (f) : (modFab s f).fuses = s.fuses := rfl
@[simp] theorem modFab_fuse (s : State) (f) : (modFab s f).fuse = s.fuse := rfl
@[simp] theorem modFab_queues (s : State) (f) : (modFab s f).queues = s.queues := rfl
@[simp] theorem modFab_cmds (s : State) (f) : (modFab s f).cmds = s.cmds := rfl
@[simp] theorem modFab_cmdOrd (s : State) (f) : (modFab s f).cmdOrd = s.cmdOrd := rfl
@[simp] theorem modFab_highWater (s : State) (f) : (modFab s f).highWater = s.highWater := rfl
@[simp] theorem modFab_backpressure (s : State) (f) : (modFab s f).backpressure = s.backpressure := rfl
@[simp] theorem modFab_rrQueue (s : State) (f) : (modFab s f).rrQueue = s.rrQueue := rfl
@[simp] theorem modFab_rrLeft (s : State) (f) : (modFab s f).rrLeft = s.rrLeft := rfl
@[simp] theorem modFab_launches (s : State) (f) : (modFab s f).launches = s.launches := rfl
@[simp] theorem modFab_cores (s : State) (f) : (modFab s f).cores = s.cores := rfl
@[simp] theorem modFab_coreMap (s : State) (f) : (modFab s f).coreMap = s.coreMap := rfl
@[simp] theorem modFab_cpActive (s : State) (f) : (modFab s f).cpActive = s.cpActive := rfl
@[simp] theorem modFab_mem (s : State) (f) : (modFab s f).mem = s.mem := rfl
@[simp] theorem modFab_ledger (s : State) (f) : (modFab s f).ledger = s.ledger := rfl
@[simp] theorem modFab_tallies (s : State) (f) : (modFab s f).tallies = s.tallies := rfl
@[simp] theorem modFab_parts (s : State) (f) : (modFab s f).parts = s.parts := rfl
@[simp] theorem modFab_ctxs (s : State) (f) : (modFab s f).ctxs = s.ctxs := rfl
@[simp] theorem modFab_events (s : State) (f) : (modFab s f).events = s.events := rfl
@[simp] theorem modFab_stepSt (s : State) (f) : (modFab s f).stepSt = s.stepSt := rfl
@[simp] theorem modFab_groups (s : State) (f) : (modFab s f).groups = s.groups := rfl
@[simp] theorem modFab_maps (s : State) (f) : (modFab s f).maps = s.maps := rfl
@[simp] theorem modFab_substs (s : State) (f) : (modFab s f).substs = s.substs := rfl
@[simp] theorem modFab_boot (s : State) (f) : (modFab s f).boot = s.boot := rfl
@[simp] theorem modFab_pwr (s : State) (f) : (modFab s f).pwr = s.pwr := rfl
@[simp] theorem modFab_hang (s : State) (f) : (modFab s f).hang = s.hang := rfl
@[simp] theorem modFab_mgmt (s : State) (f) : (modFab s f).mgmt = s.mgmt := rfl
@[simp] theorem modPort_pending (s : State) (p) (f) : (modPort s p f).pending = s.pending := rfl
@[simp] theorem modPort_out (s : State) (p) (f) : (modPort s p f).out = s.out := rfl
@[simp] theorem modPort_hostMem (s : State) (p) (f) : (modPort s p f).hostMem = s.hostMem := rfl
@[simp] theorem modPort_time (s : State) (p) (f) : (modPort s p f).time = s.time := rfl
@[simp] theorem modPort_arrayCycles (s : State) (p) (f) : (modPort s p f).arrayCycles = s.arrayCycles := rfl
@[simp] theorem modPort_freeCtr (s : State) (p) (f) : (modPort s p f).freeCtr = s.freeCtr := rfl
@[simp] theorem modPort_pcie (s : State) (p) (f) : (modPort s p f).pcie = s.pcie := rfl
@[simp] theorem modPort_fuses (s : State) (p) (f) : (modPort s p f).fuses = s.fuses := rfl
@[simp] theorem modPort_fuse (s : State) (p) (f) : (modPort s p f).fuse = s.fuse := rfl
@[simp] theorem modPort_queues (s : State) (p) (f) : (modPort s p f).queues = s.queues := rfl
@[simp] theorem modPort_cmds (s : State) (p) (f) : (modPort s p f).cmds = s.cmds := rfl
@[simp] theorem modPort_cmdOrd (s : State) (p) (f) : (modPort s p f).cmdOrd = s.cmdOrd := rfl
@[simp] theorem modPort_highWater (s : State) (p) (f) : (modPort s p f).highWater = s.highWater := rfl
@[simp] theorem modPort_backpressure (s : State) (p) (f) : (modPort s p f).backpressure = s.backpressure := rfl
@[simp] theorem modPort_rrQueue (s : State) (p) (f) : (modPort s p f).rrQueue = s.rrQueue := rfl
@[simp] theorem modPort_rrLeft (s : State) (p) (f) : (modPort s p f).rrLeft = s.rrLeft := rfl
@[simp] theorem modPort_launches (s : State) (p) (f) : (modPort s p f).launches = s.launches := rfl
@[simp] theorem modPort_cores (s : State) (p) (f) : (modPort s p f).cores = s.cores := rfl
@[simp] theorem modPort_coreMap (s : State) (p) (f) : (modPort s p f).coreMap = s.coreMap := rfl
@[simp] theorem modPort_cpActive (s : State) (p) (f) : (modPort s p f).cpActive = s.cpActive := rfl
@[simp] theorem modPort_mem (s : State) (p) (f) : (modPort s p f).mem = s.mem := rfl
@[simp] theorem modPort_ledger (s : State) (p) (f) : (modPort s p f).ledger = s.ledger := rfl
@[simp] theorem modPort_tallies (s : State) (p) (f) : (modPort s p f).tallies = s.tallies := rfl
@[simp] theorem modPort_parts (s : State) (p) (f) : (modPort s p f).parts = s.parts := rfl
@[simp] theorem modPort_ctxs (s : State) (p) (f) : (modPort s p f).ctxs = s.ctxs := rfl
@[simp] theorem modPort_events (s : State) (p) (f) : (modPort s p f).events = s.events := rfl
@[simp] theorem modPort_stepSt (s : State) (p) (f) : (modPort s p f).stepSt = s.stepSt := rfl
@[simp] theorem modPort_groups (s : State) (p) (f) : (modPort s p f).groups = s.groups := rfl
@[simp] theorem modPort_maps (s : State) (p) (f) : (modPort s p f).maps = s.maps := rfl
@[simp] theorem modPort_substs (s : State) (p) (f) : (modPort s p f).substs = s.substs := rfl
@[simp] theorem modPort_boot (s : State) (p) (f) : (modPort s p f).boot = s.boot := rfl
@[simp] theorem modPort_pwr (s : State) (p) (f) : (modPort s p f).pwr = s.pwr := rfl
@[simp] theorem modPort_hang (s : State) (p) (f) : (modPort s p f).hang = s.hang := rfl
@[simp] theorem modPort_mgmt (s : State) (p) (f) : (modPort s p f).mgmt = s.mgmt := rfl
@[simp] theorem setSession_pending (s : State) (n) (x) : (setSession s n x).pending = s.pending := rfl
@[simp] theorem setSession_out (s : State) (n) (x) : (setSession s n x).out = s.out := rfl
@[simp] theorem setSession_hostMem (s : State) (n) (x) : (setSession s n x).hostMem = s.hostMem := rfl
@[simp] theorem setSession_time (s : State) (n) (x) : (setSession s n x).time = s.time := rfl
@[simp] theorem setSession_arrayCycles (s : State) (n) (x) : (setSession s n x).arrayCycles = s.arrayCycles := rfl
@[simp] theorem setSession_freeCtr (s : State) (n) (x) : (setSession s n x).freeCtr = s.freeCtr := rfl
@[simp] theorem setSession_pcie (s : State) (n) (x) : (setSession s n x).pcie = s.pcie := rfl
@[simp] theorem setSession_fuses (s : State) (n) (x) : (setSession s n x).fuses = s.fuses := rfl
@[simp] theorem setSession_fuse (s : State) (n) (x) : (setSession s n x).fuse = s.fuse := rfl
@[simp] theorem setSession_queues (s : State) (n) (x) : (setSession s n x).queues = s.queues := rfl
@[simp] theorem setSession_cmds (s : State) (n) (x) : (setSession s n x).cmds = s.cmds := rfl
@[simp] theorem setSession_cmdOrd (s : State) (n) (x) : (setSession s n x).cmdOrd = s.cmdOrd := rfl
@[simp] theorem setSession_highWater (s : State) (n) (x) : (setSession s n x).highWater = s.highWater := rfl
@[simp] theorem setSession_backpressure (s : State) (n) (x) : (setSession s n x).backpressure = s.backpressure := rfl
@[simp] theorem setSession_rrQueue (s : State) (n) (x) : (setSession s n x).rrQueue = s.rrQueue := rfl
@[simp] theorem setSession_rrLeft (s : State) (n) (x) : (setSession s n x).rrLeft = s.rrLeft := rfl
@[simp] theorem setSession_launches (s : State) (n) (x) : (setSession s n x).launches = s.launches := rfl
@[simp] theorem setSession_cores (s : State) (n) (x) : (setSession s n x).cores = s.cores := rfl
@[simp] theorem setSession_coreMap (s : State) (n) (x) : (setSession s n x).coreMap = s.coreMap := rfl
@[simp] theorem setSession_cpActive (s : State) (n) (x) : (setSession s n x).cpActive = s.cpActive := rfl
@[simp] theorem setSession_mem (s : State) (n) (x) : (setSession s n x).mem = s.mem := rfl
@[simp] theorem setSession_ledger (s : State) (n) (x) : (setSession s n x).ledger = s.ledger := rfl
@[simp] theorem setSession_tallies (s : State) (n) (x) : (setSession s n x).tallies = s.tallies := rfl
@[simp] theorem setSession_parts (s : State) (n) (x) : (setSession s n x).parts = s.parts := rfl
@[simp] theorem setSession_ctxs (s : State) (n) (x) : (setSession s n x).ctxs = s.ctxs := rfl
@[simp] theorem setSession_events (s : State) (n) (x) : (setSession s n x).events = s.events := rfl
@[simp] theorem setSession_stepSt (s : State) (n) (x) : (setSession s n x).stepSt = s.stepSt := rfl
@[simp] theorem setSession_groups (s : State) (n) (x) : (setSession s n x).groups = s.groups := rfl
@[simp] theorem setSession_maps (s : State) (n) (x) : (setSession s n x).maps = s.maps := rfl
@[simp] theorem setSession_substs (s : State) (n) (x) : (setSession s n x).substs = s.substs := rfl
@[simp] theorem setSession_boot (s : State) (n) (x) : (setSession s n x).boot = s.boot := rfl
@[simp] theorem setSession_pwr (s : State) (n) (x) : (setSession s n x).pwr = s.pwr := rfl
@[simp] theorem setSession_hang (s : State) (n) (x) : (setSession s n x).hang = s.hang := rfl
@[simp] theorem setSession_mgmt (s : State) (n) (x) : (setSession s n x).mgmt = s.mgmt := rfl
@[simp] theorem modSession_pending (s : State) (n) (f) : (modSession s n f).pending = s.pending := rfl
@[simp] theorem modSession_out (s : State) (n) (f) : (modSession s n f).out = s.out := rfl
@[simp] theorem modSession_hostMem (s : State) (n) (f) : (modSession s n f).hostMem = s.hostMem := rfl
@[simp] theorem modSession_time (s : State) (n) (f) : (modSession s n f).time = s.time := rfl
@[simp] theorem modSession_arrayCycles (s : State) (n) (f) : (modSession s n f).arrayCycles = s.arrayCycles := rfl
@[simp] theorem modSession_freeCtr (s : State) (n) (f) : (modSession s n f).freeCtr = s.freeCtr := rfl
@[simp] theorem modSession_pcie (s : State) (n) (f) : (modSession s n f).pcie = s.pcie := rfl
@[simp] theorem modSession_fuses (s : State) (n) (f) : (modSession s n f).fuses = s.fuses := rfl
@[simp] theorem modSession_fuse (s : State) (n) (f) : (modSession s n f).fuse = s.fuse := rfl
@[simp] theorem modSession_queues (s : State) (n) (f) : (modSession s n f).queues = s.queues := rfl
@[simp] theorem modSession_cmds (s : State) (n) (f) : (modSession s n f).cmds = s.cmds := rfl
@[simp] theorem modSession_cmdOrd (s : State) (n) (f) : (modSession s n f).cmdOrd = s.cmdOrd := rfl
@[simp] theorem modSession_highWater (s : State) (n) (f) : (modSession s n f).highWater = s.highWater := rfl
@[simp] theorem modSession_backpressure (s : State) (n) (f) : (modSession s n f).backpressure = s.backpressure := rfl
@[simp] theorem modSession_rrQueue (s : State) (n) (f) : (modSession s n f).rrQueue = s.rrQueue := rfl
@[simp] theorem modSession_rrLeft (s : State) (n) (f) : (modSession s n f).rrLeft = s.rrLeft := rfl
@[simp] theorem modSession_launches (s : State) (n) (f) : (modSession s n f).launches = s.launches := rfl
@[simp] theorem modSession_cores (s : State) (n) (f) : (modSession s n f).cores = s.cores := rfl
@[simp] theorem modSession_coreMap (s : State) (n) (f) : (modSession s n f).coreMap = s.coreMap := rfl
@[simp] theorem modSession_cpActive (s : State) (n) (f) : (modSession s n f).cpActive = s.cpActive := rfl
@[simp] theorem modSession_mem (s : State) (n) (f) : (modSession s n f).mem = s.mem := rfl
@[simp] theorem modSession_ledger (s : State) (n) (f) : (modSession s n f).ledger = s.ledger := rfl
@[simp] theorem modSession_tallies (s : State) (n) (f) : (modSession s n f).tallies = s.tallies := rfl
@[simp] theorem modSession_parts (s : State) (n) (f) : (modSession s n f).parts = s.parts := rfl
@[simp] theorem modSession_ctxs (s : State) (n) (f) : (modSession s n f).ctxs = s.ctxs := rfl
@[simp] theorem modSession_events (s : State) (n) (f) : (modSession s n f).events = s.events := rfl
@[simp] theorem modSession_stepSt (s : State) (n) (f) : (modSession s n f).stepSt = s.stepSt := rfl
@[simp] theorem modSession_groups (s : State) (n) (f) : (modSession s n f).groups = s.groups := rfl
@[simp] theorem modSession_maps (s : State) (n) (f) : (modSession s n f).maps = s.maps := rfl
@[simp] theorem modSession_substs (s : State) (n) (f) : (modSession s n f).substs = s.substs := rfl
@[simp] theorem modSession_boot (s : State) (n) (f) : (modSession s n f).boot = s.boot := rfl
@[simp] theorem modSession_pwr (s : State) (n) (f) : (modSession s n f).pwr = s.pwr := rfl
@[simp] theorem modSession_hang (s : State) (n) (f) : (modSession s n f).hang = s.hang := rfl
@[simp] theorem modSession_mgmt (s : State) (n) (f) : (modSession s n f).mgmt = s.mgmt := rfl
@[simp] theorem setOp_pending (s : State) (n) (x) : (setOp s n x).pending = s.pending := rfl
@[simp] theorem setOp_out (s : State) (n) (x) : (setOp s n x).out = s.out := rfl
@[simp] theorem setOp_hostMem (s : State) (n) (x) : (setOp s n x).hostMem = s.hostMem := rfl
@[simp] theorem setOp_time (s : State) (n) (x) : (setOp s n x).time = s.time := rfl
@[simp] theorem setOp_arrayCycles (s : State) (n) (x) : (setOp s n x).arrayCycles = s.arrayCycles := rfl
@[simp] theorem setOp_freeCtr (s : State) (n) (x) : (setOp s n x).freeCtr = s.freeCtr := rfl
@[simp] theorem setOp_pcie (s : State) (n) (x) : (setOp s n x).pcie = s.pcie := rfl
@[simp] theorem setOp_fuses (s : State) (n) (x) : (setOp s n x).fuses = s.fuses := rfl
@[simp] theorem setOp_fuse (s : State) (n) (x) : (setOp s n x).fuse = s.fuse := rfl
@[simp] theorem setOp_queues (s : State) (n) (x) : (setOp s n x).queues = s.queues := rfl
@[simp] theorem setOp_cmds (s : State) (n) (x) : (setOp s n x).cmds = s.cmds := rfl
@[simp] theorem setOp_cmdOrd (s : State) (n) (x) : (setOp s n x).cmdOrd = s.cmdOrd := rfl
@[simp] theorem setOp_highWater (s : State) (n) (x) : (setOp s n x).highWater = s.highWater := rfl
@[simp] theorem setOp_backpressure (s : State) (n) (x) : (setOp s n x).backpressure = s.backpressure := rfl
@[simp] theorem setOp_rrQueue (s : State) (n) (x) : (setOp s n x).rrQueue = s.rrQueue := rfl
@[simp] theorem setOp_rrLeft (s : State) (n) (x) : (setOp s n x).rrLeft = s.rrLeft := rfl
@[simp] theorem setOp_launches (s : State) (n) (x) : (setOp s n x).launches = s.launches := rfl
@[simp] theorem setOp_cores (s : State) (n) (x) : (setOp s n x).cores = s.cores := rfl
@[simp] theorem setOp_coreMap (s : State) (n) (x) : (setOp s n x).coreMap = s.coreMap := rfl
@[simp] theorem setOp_cpActive (s : State) (n) (x) : (setOp s n x).cpActive = s.cpActive := rfl
@[simp] theorem setOp_mem (s : State) (n) (x) : (setOp s n x).mem = s.mem := rfl
@[simp] theorem setOp_ledger (s : State) (n) (x) : (setOp s n x).ledger = s.ledger := rfl
@[simp] theorem setOp_tallies (s : State) (n) (x) : (setOp s n x).tallies = s.tallies := rfl
@[simp] theorem setOp_parts (s : State) (n) (x) : (setOp s n x).parts = s.parts := rfl
@[simp] theorem setOp_ctxs (s : State) (n) (x) : (setOp s n x).ctxs = s.ctxs := rfl
@[simp] theorem setOp_events (s : State) (n) (x) : (setOp s n x).events = s.events := rfl
@[simp] theorem setOp_stepSt (s : State) (n) (x) : (setOp s n x).stepSt = s.stepSt := rfl
@[simp] theorem setOp_groups (s : State) (n) (x) : (setOp s n x).groups = s.groups := rfl
@[simp] theorem setOp_maps (s : State) (n) (x) : (setOp s n x).maps = s.maps := rfl
@[simp] theorem setOp_substs (s : State) (n) (x) : (setOp s n x).substs = s.substs := rfl
@[simp] theorem setOp_boot (s : State) (n) (x) : (setOp s n x).boot = s.boot := rfl
@[simp] theorem setOp_pwr (s : State) (n) (x) : (setOp s n x).pwr = s.pwr := rfl
@[simp] theorem setOp_hang (s : State) (n) (x) : (setOp s n x).hang = s.hang := rfl
@[simp] theorem setOp_mgmt (s : State) (n) (x) : (setOp s n x).mgmt = s.mgmt := rfl
@[simp] theorem modOp_pending (s : State) (n) (f) : (modOp s n f).pending = s.pending := rfl
@[simp] theorem modOp_out (s : State) (n) (f) : (modOp s n f).out = s.out := rfl
@[simp] theorem modOp_hostMem (s : State) (n) (f) : (modOp s n f).hostMem = s.hostMem := rfl
@[simp] theorem modOp_time (s : State) (n) (f) : (modOp s n f).time = s.time := rfl
@[simp] theorem modOp_arrayCycles (s : State) (n) (f) : (modOp s n f).arrayCycles = s.arrayCycles := rfl
@[simp] theorem modOp_freeCtr (s : State) (n) (f) : (modOp s n f).freeCtr = s.freeCtr := rfl
@[simp] theorem modOp_pcie (s : State) (n) (f) : (modOp s n f).pcie = s.pcie := rfl
@[simp] theorem modOp_fuses (s : State) (n) (f) : (modOp s n f).fuses = s.fuses := rfl
@[simp] theorem modOp_fuse (s : State) (n) (f) : (modOp s n f).fuse = s.fuse := rfl
@[simp] theorem modOp_queues (s : State) (n) (f) : (modOp s n f).queues = s.queues := rfl
@[simp] theorem modOp_cmds (s : State) (n) (f) : (modOp s n f).cmds = s.cmds := rfl
@[simp] theorem modOp_cmdOrd (s : State) (n) (f) : (modOp s n f).cmdOrd = s.cmdOrd := rfl
@[simp] theorem modOp_highWater (s : State) (n) (f) : (modOp s n f).highWater = s.highWater := rfl
@[simp] theorem modOp_backpressure (s : State) (n) (f) : (modOp s n f).backpressure = s.backpressure := rfl
@[simp] theorem modOp_rrQueue (s : State) (n) (f) : (modOp s n f).rrQueue = s.rrQueue := rfl
@[simp] theorem modOp_rrLeft (s : State) (n) (f) : (modOp s n f).rrLeft = s.rrLeft := rfl
@[simp] theorem modOp_launches (s : State) (n) (f) : (modOp s n f).launches = s.launches := rfl
@[simp] theorem modOp_cores (s : State) (n) (f) : (modOp s n f).cores = s.cores := rfl
@[simp] theorem modOp_coreMap (s : State) (n) (f) : (modOp s n f).coreMap = s.coreMap := rfl
@[simp] theorem modOp_cpActive (s : State) (n) (f) : (modOp s n f).cpActive = s.cpActive := rfl
@[simp] theorem modOp_mem (s : State) (n) (f) : (modOp s n f).mem = s.mem := rfl
@[simp] theorem modOp_ledger (s : State) (n) (f) : (modOp s n f).ledger = s.ledger := rfl
@[simp] theorem modOp_tallies (s : State) (n) (f) : (modOp s n f).tallies = s.tallies := rfl
@[simp] theorem modOp_parts (s : State) (n) (f) : (modOp s n f).parts = s.parts := rfl
@[simp] theorem modOp_ctxs (s : State) (n) (f) : (modOp s n f).ctxs = s.ctxs := rfl
@[simp] theorem modOp_events (s : State) (n) (f) : (modOp s n f).events = s.events := rfl
@[simp] theorem modOp_stepSt (s : State) (n) (f) : (modOp s n f).stepSt = s.stepSt := rfl
@[simp] theorem modOp_groups (s : State) (n) (f) : (modOp s n f).groups = s.groups := rfl
@[simp] theorem modOp_maps (s : State) (n) (f) : (modOp s n f).maps = s.maps := rfl
@[simp] theorem modOp_substs (s : State) (n) (f) : (modOp s n f).substs = s.substs := rfl
@[simp] theorem modOp_boot (s : State) (n) (f) : (modOp s n f).boot = s.boot := rfl
@[simp] theorem modOp_pwr (s : State) (n) (f) : (modOp s n f).pwr = s.pwr := rfl
@[simp] theorem modOp_hang (s : State) (n) (f) : (modOp s n f).hang = s.hang := rfl
@[simp] theorem modOp_mgmt (s : State) (n) (f) : (modOp s n f).mgmt = s.mgmt := rfl
@[simp] theorem modHang_pending (s : State) (f) : (modHang s f).pending = s.pending := rfl
@[simp] theorem modHang_out (s : State) (f) : (modHang s f).out = s.out := rfl
@[simp] theorem modHang_hostMem (s : State) (f) : (modHang s f).hostMem = s.hostMem := rfl
@[simp] theorem modHang_time (s : State) (f) : (modHang s f).time = s.time := rfl
@[simp] theorem modHang_arrayCycles (s : State) (f) : (modHang s f).arrayCycles = s.arrayCycles := rfl
@[simp] theorem modHang_freeCtr (s : State) (f) : (modHang s f).freeCtr = s.freeCtr := rfl
@[simp] theorem modHang_pcie (s : State) (f) : (modHang s f).pcie = s.pcie := rfl
@[simp] theorem modHang_fuses (s : State) (f) : (modHang s f).fuses = s.fuses := rfl
@[simp] theorem modHang_fuse (s : State) (f) : (modHang s f).fuse = s.fuse := rfl
@[simp] theorem modHang_queues (s : State) (f) : (modHang s f).queues = s.queues := rfl
@[simp] theorem modHang_cmds (s : State) (f) : (modHang s f).cmds = s.cmds := rfl
@[simp] theorem modHang_cmdOrd (s : State) (f) : (modHang s f).cmdOrd = s.cmdOrd := rfl
@[simp] theorem modHang_highWater (s : State) (f) : (modHang s f).highWater = s.highWater := rfl
@[simp] theorem modHang_backpressure (s : State) (f) : (modHang s f).backpressure = s.backpressure := rfl
@[simp] theorem modHang_rrQueue (s : State) (f) : (modHang s f).rrQueue = s.rrQueue := rfl
@[simp] theorem modHang_rrLeft (s : State) (f) : (modHang s f).rrLeft = s.rrLeft := rfl
@[simp] theorem modHang_launches (s : State) (f) : (modHang s f).launches = s.launches := rfl
@[simp] theorem modHang_cores (s : State) (f) : (modHang s f).cores = s.cores := rfl
@[simp] theorem modHang_coreMap (s : State) (f) : (modHang s f).coreMap = s.coreMap := rfl
@[simp] theorem modHang_cpActive (s : State) (f) : (modHang s f).cpActive = s.cpActive := rfl
@[simp] theorem modHang_mem (s : State) (f) : (modHang s f).mem = s.mem := rfl
@[simp] theorem modHang_ledger (s : State) (f) : (modHang s f).ledger = s.ledger := rfl
@[simp] theorem modHang_tallies (s : State) (f) : (modHang s f).tallies = s.tallies := rfl
@[simp] theorem modHang_parts (s : State) (f) : (modHang s f).parts = s.parts := rfl
@[simp] theorem modHang_ctxs (s : State) (f) : (modHang s f).ctxs = s.ctxs := rfl
@[simp] theorem modHang_events (s : State) (f) : (modHang s f).events = s.events := rfl
@[simp] theorem modHang_stepSt (s : State) (f) : (modHang s f).stepSt = s.stepSt := rfl
@[simp] theorem modHang_fab (s : State) (f) : (modHang s f).fab = s.fab := rfl
@[simp] theorem modHang_groups (s : State) (f) : (modHang s f).groups = s.groups := rfl
@[simp] theorem modHang_maps (s : State) (f) : (modHang s f).maps = s.maps := rfl
@[simp] theorem modHang_substs (s : State) (f) : (modHang s f).substs = s.substs := rfl
@[simp] theorem modHang_boot (s : State) (f) : (modHang s f).boot = s.boot := rfl
@[simp] theorem modHang_pwr (s : State) (f) : (modHang s f).pwr = s.pwr := rfl
@[simp] theorem modHang_mgmt (s : State) (f) : (modHang s f).mgmt = s.mgmt := rfl
@[simp] theorem modStep_pending (s : State) (f) : (modStep s f).pending = s.pending := rfl
@[simp] theorem modStep_out (s : State) (f) : (modStep s f).out = s.out := rfl
@[simp] theorem modStep_hostMem (s : State) (f) : (modStep s f).hostMem = s.hostMem := rfl
@[simp] theorem modStep_time (s : State) (f) : (modStep s f).time = s.time := rfl
@[simp] theorem modStep_arrayCycles (s : State) (f) : (modStep s f).arrayCycles = s.arrayCycles := rfl
@[simp] theorem modStep_freeCtr (s : State) (f) : (modStep s f).freeCtr = s.freeCtr := rfl
@[simp] theorem modStep_pcie (s : State) (f) : (modStep s f).pcie = s.pcie := rfl
@[simp] theorem modStep_fuses (s : State) (f) : (modStep s f).fuses = s.fuses := rfl
@[simp] theorem modStep_fuse (s : State) (f) : (modStep s f).fuse = s.fuse := rfl
@[simp] theorem modStep_queues (s : State) (f) : (modStep s f).queues = s.queues := rfl
@[simp] theorem modStep_cmds (s : State) (f) : (modStep s f).cmds = s.cmds := rfl
@[simp] theorem modStep_cmdOrd (s : State) (f) : (modStep s f).cmdOrd = s.cmdOrd := rfl
@[simp] theorem modStep_highWater (s : State) (f) : (modStep s f).highWater = s.highWater := rfl
@[simp] theorem modStep_backpressure (s : State) (f) : (modStep s f).backpressure = s.backpressure := rfl
@[simp] theorem modStep_rrQueue (s : State) (f) : (modStep s f).rrQueue = s.rrQueue := rfl
@[simp] theorem modStep_rrLeft (s : State) (f) : (modStep s f).rrLeft = s.rrLeft := rfl
@[simp] theorem modStep_launches (s : State) (f) : (modStep s f).launches = s.launches := rfl
@[simp] theorem modStep_cores (s : State) (f) : (modStep s f).cores = s.cores := rfl
@[simp] theorem modStep_coreMap (s : State) (f) : (modStep s f).coreMap = s.coreMap := rfl
@[simp] theorem modStep_cpActive (s : State) (f) : (modStep s f).cpActive = s.cpActive := rfl
@[simp] theorem modStep_mem (s : State) (f) : (modStep s f).mem = s.mem := rfl
@[simp] theorem modStep_ledger (s : State) (f) : (modStep s f).ledger = s.ledger := rfl
@[simp] theorem modStep_tallies (s : State) (f) : (modStep s f).tallies = s.tallies := rfl
@[simp] theorem modStep_parts (s : State) (f) : (modStep s f).parts = s.parts := rfl
@[simp] theorem modStep_ctxs (s : State) (f) : (modStep s f).ctxs = s.ctxs := rfl
@[simp] theorem modStep_events (s : State) (f) : (modStep s f).events = s.events := rfl
@[simp] theorem modStep_fab (s : State) (f) : (modStep s f).fab = s.fab := rfl
@[simp] theorem modStep_groups (s : State) (f) : (modStep s f).groups = s.groups := rfl
@[simp] theorem modStep_maps (s : State) (f) : (modStep s f).maps = s.maps := rfl
@[simp] theorem modStep_substs (s : State) (f) : (modStep s f).substs = s.substs := rfl
@[simp] theorem modStep_boot (s : State) (f) : (modStep s f).boot = s.boot := rfl
@[simp] theorem modStep_pwr (s : State) (f) : (modStep s f).pwr = s.pwr := rfl
@[simp] theorem modStep_hang (s : State) (f) : (modStep s f).hang = s.hang := rfl
@[simp] theorem modStep_mgmt (s : State) (f) : (modStep s f).mgmt = s.mgmt := rfl
@[simp] theorem modMgmt_pending (s : State) (f) : (modMgmt s f).pending = s.pending := rfl
@[simp] theorem modMgmt_out (s : State) (f) : (modMgmt s f).out = s.out := rfl
@[simp] theorem modMgmt_hostMem (s : State) (f) : (modMgmt s f).hostMem = s.hostMem := rfl
@[simp] theorem modMgmt_time (s : State) (f) : (modMgmt s f).time = s.time := rfl
@[simp] theorem modMgmt_arrayCycles (s : State) (f) : (modMgmt s f).arrayCycles = s.arrayCycles := rfl
@[simp] theorem modMgmt_freeCtr (s : State) (f) : (modMgmt s f).freeCtr = s.freeCtr := rfl
@[simp] theorem modMgmt_pcie (s : State) (f) : (modMgmt s f).pcie = s.pcie := rfl
@[simp] theorem modMgmt_fuses (s : State) (f) : (modMgmt s f).fuses = s.fuses := rfl
@[simp] theorem modMgmt_fuse (s : State) (f) : (modMgmt s f).fuse = s.fuse := rfl
@[simp] theorem modMgmt_queues (s : State) (f) : (modMgmt s f).queues = s.queues := rfl
@[simp] theorem modMgmt_cmds (s : State) (f) : (modMgmt s f).cmds = s.cmds := rfl
@[simp] theorem modMgmt_cmdOrd (s : State) (f) : (modMgmt s f).cmdOrd = s.cmdOrd := rfl
@[simp] theorem modMgmt_highWater (s : State) (f) : (modMgmt s f).highWater = s.highWater := rfl
@[simp] theorem modMgmt_backpressure (s : State) (f) : (modMgmt s f).backpressure = s.backpressure := rfl
@[simp] theorem modMgmt_rrQueue (s : State) (f) : (modMgmt s f).rrQueue = s.rrQueue := rfl
@[simp] theorem modMgmt_rrLeft (s : State) (f) : (modMgmt s f).rrLeft = s.rrLeft := rfl
@[simp] theorem modMgmt_launches (s : State) (f) : (modMgmt s f).launches = s.launches := rfl
@[simp] theorem modMgmt_cores (s : State) (f) : (modMgmt s f).cores = s.cores := rfl
@[simp] theorem modMgmt_coreMap (s : State) (f) : (modMgmt s f).coreMap = s.coreMap := rfl
@[simp] theorem modMgmt_cpActive (s : State) (f) : (modMgmt s f).cpActive = s.cpActive := rfl
@[simp] theorem modMgmt_mem (s : State) (f) : (modMgmt s f).mem = s.mem := rfl
@[simp] theorem modMgmt_ledger (s : State) (f) : (modMgmt s f).ledger = s.ledger := rfl
@[simp] theorem modMgmt_tallies (s : State) (f) : (modMgmt s f).tallies = s.tallies := rfl
@[simp] theorem modMgmt_parts (s : State) (f) : (modMgmt s f).parts = s.parts := rfl
@[simp] theorem modMgmt_ctxs (s : State) (f) : (modMgmt s f).ctxs = s.ctxs := rfl
@[simp] theorem modMgmt_events (s : State) (f) : (modMgmt s f).events = s.events := rfl
@[simp] theorem modMgmt_stepSt (s : State) (f) : (modMgmt s f).stepSt = s.stepSt := rfl
@[simp] theorem modMgmt_fab (s : State) (f) : (modMgmt s f).fab = s.fab := rfl
@[simp] theorem modMgmt_groups (s : State) (f) : (modMgmt s f).groups = s.groups := rfl
@[simp] theorem modMgmt_maps (s : State) (f) : (modMgmt s f).maps = s.maps := rfl
@[simp] theorem modMgmt_substs (s : State) (f) : (modMgmt s f).substs = s.substs := rfl
@[simp] theorem modMgmt_boot (s : State) (f) : (modMgmt s f).boot = s.boot := rfl
@[simp] theorem modMgmt_pwr (s : State) (f) : (modMgmt s f).pwr = s.pwr := rfl
@[simp] theorem modMgmt_hang (s : State) (f) : (modMgmt s f).hang = s.hang := rfl
@[simp] theorem modCmd_pending (s : State) (k) (f) : (modCmd s k f).pending = s.pending := rfl
@[simp] theorem modCmd_out (s : State) (k) (f) : (modCmd s k f).out = s.out := rfl
@[simp] theorem modCmd_hostMem (s : State) (k) (f) : (modCmd s k f).hostMem = s.hostMem := rfl
@[simp] theorem modCmd_time (s : State) (k) (f) : (modCmd s k f).time = s.time := rfl
@[simp] theorem modCmd_arrayCycles (s : State) (k) (f) : (modCmd s k f).arrayCycles = s.arrayCycles := rfl
@[simp] theorem modCmd_freeCtr (s : State) (k) (f) : (modCmd s k f).freeCtr = s.freeCtr := rfl
@[simp] theorem modCmd_pcie (s : State) (k) (f) : (modCmd s k f).pcie = s.pcie := rfl
@[simp] theorem modCmd_fuses (s : State) (k) (f) : (modCmd s k f).fuses = s.fuses := rfl
@[simp] theorem modCmd_fuse (s : State) (k) (f) : (modCmd s k f).fuse = s.fuse := rfl
@[simp] theorem modCmd_queues (s : State) (k) (f) : (modCmd s k f).queues = s.queues := rfl
@[simp] theorem modCmd_cmdOrd (s : State) (k) (f) : (modCmd s k f).cmdOrd = s.cmdOrd := rfl
@[simp] theorem modCmd_highWater (s : State) (k) (f) : (modCmd s k f).highWater = s.highWater := rfl
@[simp] theorem modCmd_backpressure (s : State) (k) (f) : (modCmd s k f).backpressure = s.backpressure := rfl
@[simp] theorem modCmd_rrQueue (s : State) (k) (f) : (modCmd s k f).rrQueue = s.rrQueue := rfl
@[simp] theorem modCmd_rrLeft (s : State) (k) (f) : (modCmd s k f).rrLeft = s.rrLeft := rfl
@[simp] theorem modCmd_launches (s : State) (k) (f) : (modCmd s k f).launches = s.launches := rfl
@[simp] theorem modCmd_cores (s : State) (k) (f) : (modCmd s k f).cores = s.cores := rfl
@[simp] theorem modCmd_coreMap (s : State) (k) (f) : (modCmd s k f).coreMap = s.coreMap := rfl
@[simp] theorem modCmd_cpActive (s : State) (k) (f) : (modCmd s k f).cpActive = s.cpActive := rfl
@[simp] theorem modCmd_mem (s : State) (k) (f) : (modCmd s k f).mem = s.mem := rfl
@[simp] theorem modCmd_ledger (s : State) (k) (f) : (modCmd s k f).ledger = s.ledger := rfl
@[simp] theorem modCmd_tallies (s : State) (k) (f) : (modCmd s k f).tallies = s.tallies := rfl
@[simp] theorem modCmd_parts (s : State) (k) (f) : (modCmd s k f).parts = s.parts := rfl
@[simp] theorem modCmd_ctxs (s : State) (k) (f) : (modCmd s k f).ctxs = s.ctxs := rfl
@[simp] theorem modCmd_events (s : State) (k) (f) : (modCmd s k f).events = s.events := rfl
@[simp] theorem modCmd_stepSt (s : State) (k) (f) : (modCmd s k f).stepSt = s.stepSt := rfl
@[simp] theorem modCmd_fab (s : State) (k) (f) : (modCmd s k f).fab = s.fab := rfl
@[simp] theorem modCmd_groups (s : State) (k) (f) : (modCmd s k f).groups = s.groups := rfl
@[simp] theorem modCmd_maps (s : State) (k) (f) : (modCmd s k f).maps = s.maps := rfl
@[simp] theorem modCmd_substs (s : State) (k) (f) : (modCmd s k f).substs = s.substs := rfl
@[simp] theorem modCmd_boot (s : State) (k) (f) : (modCmd s k f).boot = s.boot := rfl
@[simp] theorem modCmd_pwr (s : State) (k) (f) : (modCmd s k f).pwr = s.pwr := rfl
@[simp] theorem modCmd_hang (s : State) (k) (f) : (modCmd s k f).hang = s.hang := rfl
@[simp] theorem modCmd_mgmt (s : State) (k) (f) : (modCmd s k f).mgmt = s.mgmt := rfl
@[simp] theorem emit_pending (s : State) (o) : (emit s o).pending = s.pending := rfl
@[simp] theorem emit_hostMem (s : State) (o) : (emit s o).hostMem = s.hostMem := rfl
@[simp] theorem emit_time (s : State) (o) : (emit s o).time = s.time := rfl
@[simp] theorem emit_arrayCycles (s : State) (o) : (emit s o).arrayCycles = s.arrayCycles := rfl
@[simp] theorem emit_freeCtr (s : State) (o) : (emit s o).freeCtr = s.freeCtr := rfl
@[simp] theorem emit_pcie (s : State) (o) : (emit s o).pcie = s.pcie := rfl
@[simp] theorem emit_fuses (s : State) (o) : (emit s o).fuses = s.fuses := rfl
@[simp] theorem emit_fuse (s : State) (o) : (emit s o).fuse = s.fuse := rfl
@[simp] theorem emit_queues (s : State) (o) : (emit s o).queues = s.queues := rfl
@[simp] theorem emit_cmds (s : State) (o) : (emit s o).cmds = s.cmds := rfl
@[simp] theorem emit_cmdOrd (s : State) (o) : (emit s o).cmdOrd = s.cmdOrd := rfl
@[simp] theorem emit_highWater (s : State) (o) : (emit s o).highWater = s.highWater := rfl
@[simp] theorem emit_backpressure (s : State) (o) : (emit s o).backpressure = s.backpressure := rfl
@[simp] theorem emit_rrQueue (s : State) (o) : (emit s o).rrQueue = s.rrQueue := rfl
@[simp] theorem emit_rrLeft (s : State) (o) : (emit s o).rrLeft = s.rrLeft := rfl
@[simp] theorem emit_launches (s : State) (o) : (emit s o).launches = s.launches := rfl
@[simp] theorem emit_cores (s : State) (o) : (emit s o).cores = s.cores := rfl
@[simp] theorem emit_coreMap (s : State) (o) : (emit s o).coreMap = s.coreMap := rfl
@[simp] theorem emit_cpActive (s : State) (o) : (emit s o).cpActive = s.cpActive := rfl
@[simp] theorem emit_mem (s : State) (o) : (emit s o).mem = s.mem := rfl
@[simp] theorem emit_ledger (s : State) (o) : (emit s o).ledger = s.ledger := rfl
@[simp] theorem emit_tallies (s : State) (o) : (emit s o).tallies = s.tallies := rfl
@[simp] theorem emit_parts (s : State) (o) : (emit s o).parts = s.parts := rfl
@[simp] theorem emit_ctxs (s : State) (o) : (emit s o).ctxs = s.ctxs := rfl
@[simp] theorem emit_events (s : State) (o) : (emit s o).events = s.events := rfl
@[simp] theorem emit_stepSt (s : State) (o) : (emit s o).stepSt = s.stepSt := rfl
@[simp] theorem emit_fab (s : State) (o) : (emit s o).fab = s.fab := rfl
@[simp] theorem emit_groups (s : State) (o) : (emit s o).groups = s.groups := rfl
@[simp] theorem emit_maps (s : State) (o) : (emit s o).maps = s.maps := rfl
@[simp] theorem emit_substs (s : State) (o) : (emit s o).substs = s.substs := rfl
@[simp] theorem emit_boot (s : State) (o) : (emit s o).boot = s.boot := rfl
@[simp] theorem emit_pwr (s : State) (o) : (emit s o).pwr = s.pwr := rfl
@[simp] theorem emit_hang (s : State) (o) : (emit s o).hang = s.hang := rfl
@[simp] theorem emit_mgmt (s : State) (o) : (emit s o).mgmt = s.mgmt := rfl
@[simp] theorem setMem_mem (s : State) (m) : (setMem s m).mem = m := rfl
@[simp] theorem modMem_mem (s : State) (f) : (modMem s f).mem = f s.mem := rfl
@[simp] theorem modBoot_boot (s : State) (f) : (modBoot s f).boot = f s.boot := rfl
@[simp] theorem modPwr_pwr (s : State) (f) : (modPwr s f).pwr = f s.pwr := rfl
@[simp] theorem modLedger_ledger (s : State) (f) : (modLedger s f).ledger = f s.ledger := rfl
@[simp] theorem modFab_fab (s : State) (f) : (modFab s f).fab = f s.fab := rfl
@[simp] theorem modHang_hang (s : State) (f) : (modHang s f).hang = f s.hang := rfl
@[simp] theorem modStep_stepSt (s : State) (f) : (modStep s f).stepSt = f s.stepSt := rfl
@[simp] theorem modMgmt_mgmt (s : State) (f) : (modMgmt s f).mgmt = f s.mgmt := rfl
@[simp] theorem emit_out (s : State) (o) : (emit s o).out = s.out ++ [o] := rfl
@[simp] theorem getCore_setCore (s : State) (i) (x) (j) : getCore (setCore s i x) j = if j = i then x else getCore s j := tget_tset ..
@[simp] theorem getCore_modCore (s : State) (i) (f) (j) : getCore (modCore s i f) j = if j = i then f (getCore s i) else getCore s j := tget_tset ..
@[simp] theorem getCtx_setCtx (s : State) (i) (x) (j) : getCtx (setCtx s i x) j = if j = i then x else getCtx s j := tget_tset ..
@[simp] theorem getCtx_modCtx (s : State) (i) (f) (j) : getCtx (modCtx s i f) j = if j = i then f (getCtx s i) else getCtx s j := tget_tset ..
@[simp] theorem getPart_setPart (s : State) (i) (x) (j) : getPart (setPart s i x) j = if j = i then x else getPart s j := tget_tset ..
@[simp] theorem getPart_modPart (s : State) (i) (f) (j) : getPart (modPart s i f) j = if j = i then f (getPart s i) else getPart s j := tget_tset ..
@[simp] theorem getQueue_setQueue (s : State) (i) (x) (j) : getQueue (setQueue s i x) j = if j = i then x else getQueue s j := tget_tset ..
@[simp] theorem getQueue_modQueue (s : State) (i) (f) (j) : getQueue (modQueue s i f) j = if j = i then f (getQueue s i) else getQueue s j := tget_tset ..
@[simp] theorem getLaunch_setLaunch (s : State) (i) (x) (j) : getLaunch (setLaunch s i x) j = if j = i then x else getLaunch s j := tget_tset ..
@[simp] theorem getLaunch_modLaunch (s : State) (i) (f) (j) : getLaunch (modLaunch s i f) j = if j = i then f (getLaunch s i) else getLaunch s j := tget_tset ..
@[simp] theorem getGroup_modGroup (s : State) (i) (f) (j) : getGroup (modGroup s i f) j = if j = i then f (getGroup s i) else getGroup s j := tget_tset ..
@[simp] theorem getMap_modMap (s : State) (i) (f) (j) : getMap (modMap s i f) j = if j = i then f (getMap s i) else getMap s j := tget_tset ..
@[simp] theorem getRing_modRing (s : State) (i) (f) (j) : getRing (modRing s i f) j = if j = i then f (getRing s i) else getRing s j := tget_tset ..
@[simp] theorem getProc_modProc (s : State) (i) (f) (j) : getProc (modProc s i f) j = if j = i then f (getProc s i) else getProc s j := tget_tset ..
@[simp] theorem getChan_modChan (s : State) (i) (f) (j) : getChan (modChan s i f) j = if j = i then f (getChan s i) else getChan s j := tget_tset ..
@[simp] theorem getUnit_modUnit (s : State) (u) (f) (v : W64) : getUnit (modUnit s u f) v = if v = u then f (getUnit s u) else getUnit s v := by
  simp only [getUnit, modUnit, tmod, tget_tset, BitVec.toNat_inj]
@[simp] theorem getPort_modPort (s : State) (i) (f) (j) : getPort (modPort s i f) j = if j = i then f (getPort s i) else getPort s j := tget_tset ..
@[simp] theorem getSession_setSession (s : State) (i) (x) (j) : getSession (setSession s i x) j = if j = i then x else getSession s j := tget_tset ..
@[simp] theorem getOp_setOp (s : State) (i) (x) (j) : getOp (setOp s i x) j = if j = i then x else getOp s j := tget_tset ..

end Sys2Proof.Machine
end

