-- ==== Sys2Proof/Laws/Crates.lean ====
section
/-!
SUPPORT. Reading good crates and writing crates.
-/
namespace Sys2Proof.Machine

theorem preserve_plain (m : Mem) (k : Nat) (h : Plain m k) : preserve m k = m := by
  unfold preserve
  split
  · rfl
  · rename_i c hc
    rw [h.1 c hc]

theorem cacheTouch_none (m : Mem) (k : Nat) (w : Bool) (h : cacheHome m k = none) : cacheTouch m k w = m := by
  unfold cacheTouch; rw [h]

theorem reportBad_ok (s : State) (cg : CtxGen) (crate core : Nat) (h : ∀ x ∈ s.mem.bad, x / 64 ≠ crate) :
    reportBad s cg crate core = s := by
  unfold reportBad reportBadIf
  rw [List.filter_eq_nil_iff.2]
  · rfl
  · intro x hx; simp [h x hx]

/-- A good crate is consumed without any effect. -/
theorem consume_ok (s : State) (cg : CtxGen) (core crate : Nat) (h : CrateOk s crate) :
    consume s cg core crate = (s, crateBytes s.mem crate, crateTag s.mem crate, false) := by
  unfold consume
  rw [reportBad_ok _ _ _ _ h.bad]
  dsimp only
  rw [cacheTouch_none _ _ _ h.home, h.poison, h.check, if_neg (by decide), if_pos (by simp)]
  rfl

theorem moveRead_ok (s : State) (cg : CtxGen) (core crate : Nat) (h : CrateOk s crate) :
    moveRead s cg core crate = (s, crateBytes s.mem crate, crateTag s.mem crate) := by
  unfold moveRead
  rw [reportBad_ok _ _ _ _ h.bad]
  dsimp only
  rw [cacheTouch_none _ _ _ h.home, h.check, if_pos (by simp)]
  rfl

theorem takeCrate_ok (s : State) (core crate : Nat) (h : CrateOk s crate) : takeCrate s core crate = (s, goodCrate s crate) := by
  unfold takeCrate
  rw [consume_ok _ _ _ _ h]
  rfl

theorem mem_nerase (l : List Nat) (i x : Nat) (h : l.Pairwise (· < ·)) : x ∈ nerase l i ↔ x ∈ l ∧ x ≠ i := by
  induction l with
  | nil => simp [nerase]
  | cons k t ih =>
    simp only [List.pairwise_cons] at h
    unfold nerase
    split
    · rename_i hk; subst hk
      constructor
      · intro hx; have := h.1 x hx; exact ⟨List.mem_cons_of_mem _ hx, by omega⟩
      · rintro ⟨hx, hne⟩
        rcases List.mem_cons.1 hx with rfl | hx
        · exact absurd rfl hne
        · exact hx
    · rename_i hk
      rw [List.mem_cons, List.mem_cons, ih h.2]
      constructor
      · rintro (rfl | ⟨h1, h2⟩)
        · exact ⟨.inl rfl, fun e => hk e.symm⟩
        · exact ⟨.inr h1, h2⟩
      · rintro ⟨rfl | h1, h2⟩
        · exact .inl rfl
        · exact .inr ⟨h1, h2⟩

/-- Writing a crate writes it and no other. -/
theorem writeCrate_wrote (m : Mem) (crate : Nat) (p : List Byte) (t : W128) (hp : p.length = 4096) (hw : Memory.wf m = true)
    (ho : m.opened.Pairwise (· < ·)) (h : Plain m crate) : WroteCrate m (writeCrate m crate p t) crate p t := by
  have hc := ((wf_iff m).1 hw).1
  unfold writeCrate
  rw [preserve_plain _ _ h]
  unfold rawCrate
  rw [cacheTouch_none _ _ _ h.2]
  have hb : ∀ k, k ≠ crate → ∀ n : Nat, ((m.bad.filter (fun x => x / 64 != crate)).any (fun x => x / 64 == k)) = m.bad.any (fun x => x / 64 == k) := by
    intro k hk _
    rw [List.any_filter]
    congr 1
    funext x
    by_cases hx : x / 64 = k <;> simp [hx, hk]
  have hb0 : (m.bad.filter (fun x => x / 64 != crate)).any (fun x => x / 64 == crate) = false := by
    rw [List.any_filter]
    simp
  have hn : ∀ k, (nerase m.opened crate).contains k = (m.opened.contains k && k != crate) := by
    intro k
    have := mem_nerase m.opened crate k ho
    rw [Bool.eq_iff_iff]
    simpa [bne_iff_ne] using this
  refine ⟨?_, ?_, ?_⟩
  · unfold crateBytes
    dsimp only
    have := readBytes_writeBytes m.cells (crate * 4096) p hc
    rw [hp] at this
    exact this
  · unfold crateTag crateBad
    dsimp only
    rw [hb0, hn]
    simp [Tag.poisonIf, tget_tset_self]
  · intro k hk
    refine ⟨?_, ?_⟩
    · unfold crateBytes
      dsimp only
      exact readBytes_writeBytes_of_disjoint _ _ _ _ _ hc (by omega)
    · unfold crateTag crateBad
      dsimp only
      rw [hb k hk 0, hn, tget_tset, if_neg hk, bne_iff_ne.2 hk, Bool.and_true]

end Sys2Proof.Machine
end

