-- ==== Sys2Proof/Laws/Curve.lean ====
section
/-!
SUPPORT. P-384 evaluated a window of the exponent at a time, with every number computed before the next step, so that a
signature can be checked on numerals; each operation here equals the one of Machine/Sha.lean that it stands for.
-/
set_option exponentiation.threshold 512
namespace Sys2Proof.Machine.Curve

/-- A function of a number that is computed first. -/
def force {α : Type} (n : Nat) (f : Nat → α) : α := match n with | 0 => f 0 | k + 1 => f (k + 1)
theorem force_eq {α : Type} (n : Nat) (f : Nat → α) : force n f = f n := by cases n <;> rfl

/-- A power modulo `p`, eight bits of the exponent at a time. -/
def windowPow (a : Nat) : List Nat → Nat → Nat
  | [], acc => acc
  | d :: t, acc => force (Nat.mod (Nat.mul (Nat.mod (Nat.pow acc (nat_lit 64)) (nat_lit 0xfffffffffffffffffffffffffffffffffffffffffffffffffffffffffffffffeffffffff0000000000000000ffffffff)) (Nat.pow a d)) (nat_lit 0xfffffffffffffffffffffffffffffffffffffffffffffffffffffffffffffffeffffffff0000000000000000ffffffff)) (windowPow a t)
def windowVal : List Nat → Nat
  | [] => 0
  | d :: t => d * 64 ^ t.length + windowVal t
theorem windowPow_mod (a : Nat) (ds : List Nat) (acc : Nat) :
    windowPow a ds acc % Sha.p = acc ^ 64 ^ ds.length * a ^ windowVal ds % Sha.p := by
  induction ds generalizing acc with
  | nil => simp [windowPow, windowVal]
  | cons d t ih =>
    show force (acc ^ 64 % Sha.p * (a ^ d) % Sha.p) (windowPow a t) % Sha.p = _
    have e : ∀ x y : Nat, (x * y) ^ 64 ^ t.length = x ^ 64 ^ t.length * y ^ 64 ^ t.length := fun x y => Nat.mul_pow x y _
    rw [force_eq, ih, Nat.mul_mod, Nat.pow_mod, Nat.mod_mod, ← Nat.pow_mod, ← Nat.mul_mod, e,
      Nat.mul_assoc, Nat.mul_mod, Nat.pow_mod (_ % _), Nat.mod_mod, ← Nat.pow_mod, ← Nat.mul_mod, ← Nat.pow_mul, ← Nat.pow_mul,
      windowVal, Nat.pow_add, List.length_cons, Nat.pow_succ, Nat.mul_comm 64 (64 ^ _)]
theorem windowPow_lt (a : Nat) (ds : List Nat) (acc : Nat) (h : acc < Sha.p) : windowPow a ds acc < Sha.p := by
  induction ds generalizing acc with
  | nil => exact h
  | cons d t ih => show force (acc ^ 64 % Sha.p * (a ^ d) % Sha.p) (windowPow a t) < Sha.p; rw [force_eq]; exact ih _ (Nat.mod_lt _ (by decide))
theorem powMod_mod (m k a e acc : Nat) (h : e < 2 ^ k) : Sha.powMod m k a e acc % m = acc * a ^ e % m := by
  induction k generalizing a e acc with
  | zero => have : e = 0 := by omega
            subst this; simp [Sha.powMod]
  | succ k ih =>
    unfold Sha.powMod
    rw [ih _ _ _ (by omega)]
    have he : a ^ e = (a * a) ^ (e / 2) * a ^ (e % 2) := by
      conv => lhs; rw [← Nat.div_add_mod e 2, Nat.pow_add, Nat.pow_mul, Nat.pow_two]
    rw [Nat.mul_mod, ← Nat.pow_mod, ← Nat.mul_mod, he]
    split
    next h1 => rw [h1, Nat.pow_one, Nat.mul_mod, Nat.mod_mod, ← Nat.mul_mod]; congr 1; ac_rfl
    next h1 => rw [show e % 2 = 0 by omega, Nat.pow_zero, Nat.mul_one]
theorem powMod_lt (m k a e acc : Nat) (h : acc < m) : Sha.powMod m k a e acc < m := by
  induction k generalizing a e acc with
  | zero => exact h
  | succ k ih =>
    unfold Sha.powMod; apply ih; split
    · exact Nat.mod_lt _ (by omega)
    · exact h
/-- The digits of `p - 2`. -/
def invDigits : List Nat := [63, 63, 63, 63, 63, 63, 63, 63, 63, 63, 63, 63, 63, 63, 63, 63, 63, 63, 63, 63, 63, 63, 63, 63, 63, 63, 63, 63, 63, 63, 63, 63, 63, 63, 63, 63, 63, 63, 63, 63, 63, 63, 59, 63, 63, 63, 63, 63, 0, 0, 0, 0, 0, 0, 0, 0, 0, 0, 3, 63, 63, 63, 63, 61]
def windowInv (a : Nat) : Nat := force (a % Sha.p) (fun a => windowPow a invDigits 1)
theorem inv_eq (a : Nat) : Sha.inv Sha.p a = windowInv a := by
  have h1 := powMod_lt Sha.p 384 (a % Sha.p) (Sha.p - 2) 1 (by decide +kernel)
  have h2 := windowPow_lt (a % Sha.p) invDigits 1 (by decide +kernel)
  unfold Sha.inv windowInv
  rw [force_eq, ← Nat.mod_eq_of_lt h1, ← Nat.mod_eq_of_lt h2, powMod_mod _ _ _ _ _ (by decide +kernel), windowPow_mod,
    show windowVal invDigits = Sha.p - 2 by decide +kernel, Nat.one_pow]

def forcePt {α : Type} (q : Sha.Pt) (f : Sha.Pt → α) : α :=
  match q with | none => f none | some q => force q.1 fun x => force q.2 fun y => f (some (x, y))
theorem forcePt_eq {α : Type} (q : Sha.Pt) (f : Sha.Pt → α) : forcePt q f = f q := by
  cases q with | none => rfl | some q => simp [forcePt, force_eq]
def windowAdd : Sha.Pt → Sha.Pt → Sha.Pt
  | none, q => q
  | q, none => q
  | some (x, y), some (u, v) =>
    let slope (num den : Nat) : Sha.Pt :=
      force (num * windowInv den % Sha.p) fun l => force (Sha.sub (Sha.sub (l * l % Sha.p) x) u) fun z => some (z, Sha.sub (l * Sha.sub x z % Sha.p) y)
    if x = u then (if (y + v) % Sha.p = 0 then none else slope ((3 * x * x + Sha.p - 3) % Sha.p) (2 * y % Sha.p))
    else slope (Sha.sub v y) (Sha.sub u x)
theorem windowAdd_eq (a b : Sha.Pt) : Sha.add a b = windowAdd a b := by
  unfold Sha.add windowAdd
  simp only [force_eq, inv_eq] <;> rfl
/-- The doublings of a point, given to a function that is run after them. -/
def withTable {α : Type} : Nat → Sha.Pt → (List Sha.Pt → α) → α
  | 0, _, f => f []
  | k + 1, q, f => forcePt (windowAdd q q) fun q2 => withTable k q2 fun l => f (q :: l)
/-- The doublings of a point. -/
def table : Nat → Sha.Pt → List Sha.Pt
  | 0, _ => []
  | k + 1, q => q :: table k (windowAdd q q)
theorem withTable_eq {α : Type} (k : Nat) (q : Sha.Pt) (f : List Sha.Pt → α) : withTable k q f = f (table k q) := by
  induction k generalizing q f with
  | zero => rfl
  | succ k ih => unfold withTable table; rw [forcePt_eq, ih]
/-- The sum of the points of a table that the bits of a number choose. -/
def pick : List Sha.Pt → Nat → Sha.Pt → Sha.Pt
  | [], _, acc => acc
  | q :: l, e, acc => forcePt (if e % 2 = 1 then windowAdd acc q else acc) fun acc2 => force (e / 2) fun e2 => pick l e2 acc2
theorem mul_eq (k e : Nat) (q acc : Sha.Pt) : Sha.mul k e q acc = pick (table k q) e acc := by
  induction k generalizing e q acc with
  | zero => rfl
  | succ k ih => unfold Sha.mul table pick; rw [forcePt_eq, force_eq, ih, windowAdd_eq, windowAdd_eq]
/-- The last test of a signature: the two factors and `r`, with the base point as the public key. -/
def signed (l : List Sha.Pt) (u1 u2 r : Nat) : Bool :=
  match windowAdd (pick l u1 none) (pick l u2 none) with | none => false | some (u, _) => u % Sha.n == r
/-- A signature under the base point verifies when its parts are in range and the last test passes. -/
theorem verify_base (key sig msg : List Byte) (r s u1 u2 : Nat) (hx : Sha.beNat ((key.drop 1).take 48) = Sha.gx)
    (hy : Sha.beNat ((key.drop 49).take 48) = Sha.gy) (hk : (key.head? == some 0x04#8 && key.length == 97) = true)
    (hr : Sha.beNat (sig.take 48) = r) (hs : Sha.beNat ((sig.drop 48).take 48) = s)
    (hi : (decide (0 < r) && decide (r < Sha.n) && decide (0 < s) && decide (s < Sha.n)) = true)
    (h1 : Sha.sha384 msg * Sha.inv Sha.n s % Sha.n = u1) (h2 : r * Sha.inv Sha.n s % Sha.n = u2)
    (h : signed (table 384 (some (Sha.gx, Sha.gy))) u1 u2 r = true) : Sha.verify key sig msg = true := by
  have hc : Sha.onCurve Sha.gx Sha.gy = true := by decide +kernel
  unfold Sha.verify
  simp only [Bool.and_eq_true] at hk hi
  simp only [hx, hy, hr, hs, hc, hk, hi, h1, h2, mul_eq, windowAdd_eq, Bool.and_self, Bool.true_and]
  exact h

end Sys2Proof.Machine.Curve
end

