-- ==== Sys2Proof/Laws/KeptBase.lean ====
section
/-!
SUPPORT. What every operation but the burning and sensing of fuses keeps.
-/


namespace Sys2Proof.Machine
/-- The queue of waiting commands, the fuses and what the fuse registers latched. -/
def kept (s : State) : List Instr × Fuses × Fuses := (s.pending, s.fuses, s.fuse.f)
theorem kept_mk (p o hm t ac fc pc fu fr qs cs co hw bp rq rl la co2 cm ca me le ta pa ct ev st fa gr ma su bo pw ha mg) :
    kept ⟨p, o, hm, t, ac, fc, pc, fu, fr, qs, cs, co, hw, bp, rq, rl, la, co2, cm, ca, me, le, ta, pa, ct, ev, st, fa, gr, ma, su, bo, pw, ha, mg⟩
      = (p, fu, fr.f) := rfl
/-- Every state that a run ends in keeps what `s` has of these. -/
def Run.Keeps (k : List Instr × Fuses × Fuses) : Run → Prop
  | .done t => kept t = k
  | .issued t => kept t = k
  | .hold _ t => kept t = k
  | .broken _ _ t => kept t = k
  | .fault _ t => kept t = k
  | .notDue => True
def FabRun.Keeps (k : List Instr × Fuses × Fuses) : FabRun → Prop
  | .all t => kept t = k
  | .wait _ t => kept t = k
  | .failed _ _ t => kept t = k
  | .stop r => Run.Keeps k r
def ResKeeps (k : List Instr × Fuses × Fuses) : Res → Prop
  | .next t => kept t = k
  | _ => True
theorem foldl_fst {α β : Type} {f : State × β → α → State × β} (h : ∀ s a, kept (f s a).1 = kept s.1) (l : List α) (s : State × β) :
    kept (l.foldl f s).1 = kept s.1 := by
  induction l generalizing s with
  | nil => rfl
  | cons a t ih => simp [List.foldl, ih, h]
theorem kept_cp (s : State) (t) : kept { s with cpActive := t } = kept s := rfl
theorem ite_kept {p : Prop} [Decidable p] {k : List Instr × Fuses × Fuses} {a b : State} (ha : kept a = k) (hb : kept b = k) :
    kept (if p then a else b) = k := by split <;> assumption
theorem fromHost_keeps {s t : State} (h : kept t = kept s) : ResKeeps (kept s) (fromHost s t) := by
  unfold fromHost; split <;> simp [ResKeeps, h]
theorem foldl_kept {α : Type} {f : State → α → State} (h : ∀ s a, kept (f s a) = kept s) (l : List α) (s : State) :
    kept (l.foldl f s) = kept s := by
  induction l generalizing s with
  | nil => rfl
  | cons a t ih => simp [List.foldl, ih, h]

end Sys2Proof.Machine
end

