-- ==== Sys2Proof/Laws/KeptOps.lean ====
section
/-!
SUPPORT. What the operations of Machine/Ops.lean keep.
-/
set_option linter.unusedSimpArgs false
namespace Sys2Proof.Machine

theorem drawFree_kept (s : State) : kept (drawFree s).2 = kept s := by
  unfold drawFree
  grind [kept, Run.Keeps]
theorem emit_kept (s : State) (a0) : kept (emit s a0) = kept s := by
  unfold emit
  grind [kept, Run.Keeps]
theorem hostWrite_kept (s : State) (a0) (a1) : kept (hostWrite s a0 a1) = kept s := by
  unfold hostWrite
  grind [kept, Run.Keeps]
theorem signalMsix_kept (s : State) (a0) : kept (signalMsix s a0) = kept s := by
  unfold signalMsix
  grind [emit_kept, kept, Run.Keeps]
theorem setCore_kept (s : State) (a0) (a1) : kept (setCore s a0 a1) = kept s := by
  unfold setCore
  grind [kept, Run.Keeps]
theorem modCore_kept (s : State) (a0) (a1) : kept (modCore s a0 a1) = kept s := by
  unfold modCore
  simp only [setCore_kept, kept_mk, foldl_kept, ResKeeps, Run.Keeps]
theorem setCtx_kept (s : State) (a0) (a1) : kept (setCtx s a0 a1) = kept s := by
  unfold setCtx
  grind [kept, Run.Keeps]
theorem modCtx_kept (s : State) (a0) (a1) : kept (modCtx s a0 a1) = kept s := by
  unfold modCtx
  simp only [setCtx_kept, kept_mk, foldl_kept, ResKeeps, Run.Keeps]
theorem setPart_kept (s : State) (a0) (a1) : kept (setPart s a0 a1) = kept s := by
  unfold setPart
  grind [kept, Run.Keeps]
theorem modPart_kept (s : State) (a0) (a1) : kept (modPart s a0 a1) = kept s := by
  unfold modPart
  simp only [setPart_kept, kept_mk, foldl_kept, ResKeeps, Run.Keeps]
theorem setQueue_kept (s : State) (a0) (a1) : kept (setQueue s a0 a1) = kept s := by
  unfold setQueue
  grind [kept, Run.Keeps]
theorem modQueue_kept (s : State) (a0) (a1) : kept (modQueue s a0 a1) = kept s := by
  unfold modQueue
  simp only [setQueue_kept, kept_mk, foldl_kept, ResKeeps, Run.Keeps]
theorem setLaunch_kept (s : State) (a0) (a1) : kept (setLaunch s a0 a1) = kept s := by
  unfold setLaunch
  grind [kept, Run.Keeps]
theorem modLaunch_kept (s : State) (a0) (a1) : kept (modLaunch s a0 a1) = kept s := by
  unfold modLaunch
  simp only [setLaunch_kept, kept_mk, foldl_kept, ResKeeps, Run.Keeps]
theorem setMem_kept (s : State) (a0) : kept (setMem s a0) = kept s := by
  unfold setMem
  grind [kept, Run.Keeps]
theorem modMem_kept (s : State) (a0) : kept (modMem s a0) = kept s := by
  unfold modMem
  grind [kept, Run.Keeps]
theorem modChan_kept (s : State) (a0) (a1) : kept (modChan s a0 a1) = kept s := by
  unfold modChan
  grind [kept, Run.Keeps]
theorem modRing_kept (s : State) (a0) (a1) : kept (modRing s a0 a1) = kept s := by
  unfold modRing
  grind [kept, Run.Keeps]
theorem modProc_kept (s : State) (a0) (a1) : kept (modProc s a0 a1) = kept s := by
  unfold modProc
  grind [kept, Run.Keeps]
theorem deliver_kept (s : State) (a0) (a1) : kept (deliver s a0 a1) = kept s := by
  unfold deliver
  simp only [modRing_kept, kept_mk, foldl_kept, ResKeeps, Run.Keeps]
theorem chargeStep_kept (s : State) (a0) (a1) : kept (chargeStep s a0 a1) = kept s := by
  unfold chargeStep
  grind [kept, Run.Keeps]
theorem chargeNow_kept (s : State) (a0) (a1) (a2) : kept (chargeNow s a0 a1 a2) = kept s := by
  unfold chargeNow
  repeat' split
  all_goals simp only [chargeStep_kept, kept_mk, foldl_kept, ResKeeps, Run.Keeps]
theorem raiseEvent_kept (s : State) (a0) (a1) : kept (raiseEvent s a0 a1) = kept s := by
  unfold raiseEvent
  grind [chargeNow_kept, deliver_kept, kept, Run.Keeps]
theorem raiseUnit_kept (s : State) (a0) (a1) (a2) (a3) (a4) (a5) : kept (raiseUnit s a0 a1 a2 a3 a4 a5) = kept s := by
  unfold raiseUnit
  simp only [raiseEvent_kept, kept_mk, foldl_kept, ResKeeps, Run.Keeps]
theorem raiseCrate_kept (s : State) (a0) (a1) (a2) (a3) (a4) (a5) : kept (raiseCrate s a0 a1 a2 a3 a4 a5) = kept s := by
  unfold raiseCrate
  simp only [raiseEvent_kept, kept_mk, foldl_kept, ResKeeps, Run.Keeps]
theorem raiseCore_kept (s : State) (a0) (a1) (a2) (a3) (a4) (a5) : kept (raiseCore s a0 a1 a2 a3 a4 a5) = kept s := by
  unfold raiseCore
  simp only [raiseEvent_kept, kept_mk, foldl_kept, ResKeeps, Run.Keeps]
theorem raiseColl_kept (s : State) (a0) (a1) (a2) (a3) (a4) (a5) : kept (raiseColl s a0 a1 a2 a3 a4 a5) = kept s := by
  unfold raiseColl
  simp only [raiseEvent_kept, kept_mk, foldl_kept, ResKeeps, Run.Keeps]
theorem raiseStep_kept (s : State) (a0) (a1) (a2) (a3) : kept (raiseStep s a0 a1 a2 a3) = kept s := by
  unfold raiseStep
  simp only [raiseEvent_kept, kept_mk, foldl_kept, ResKeeps, Run.Keeps]
theorem raiseNotice_kept (s : State) (a0) (a1) (a2) : kept (raiseNotice s a0 a1 a2) = kept s := by
  unfold raiseNotice
  simp only [deliver_kept, kept_mk, foldl_kept, ResKeeps, Run.Keeps]
theorem modUnit_kept (s : State) (a0) (a1) : kept (modUnit s a0 a1) = kept s := by
  unfold modUnit
  grind [kept, Run.Keeps]
theorem logRec_kept (s : State) (a0) (a1) (a2) (a3) : kept (logRec s a0 a1 a2 a3) = kept s := by
  unfold logRec
  grind [modUnit_kept, kept, Run.Keeps]
theorem setStanding_kept (s : State) (a0) (a1) (a2) : kept (setStanding s a0 a1 a2) = kept s := by
  unfold setStanding
  grind [logRec_kept, modUnit_kept, raiseUnit_kept, kept, Run.Keeps]
theorem addDue_kept (s : State) (a0) (a1) (a2) : kept (addDue s a0 a1 a2) = kept s := by
  unfold addDue
  simp only [modUnit_kept, kept_mk, foldl_kept, ResKeeps, Run.Keeps]
theorem countEvent_kept (s : State) (a0) (a1) (a2) : kept (countEvent s a0 a1 a2) = kept s := by
  unfold countEvent
  grind [logRec_kept, modChan_kept, modUnit_kept, setStanding_kept, kept, Run.Keeps]
theorem addTally_kept (s : State) (a0) (a1) : kept (addTally s a0 a1) = kept s := by
  unfold addTally
  grind [kept, Run.Keeps]
theorem addTallyAt_kept (s : State) (a0) (a1) (a2) (a3) : kept (addTallyAt s a0 a1 a2 a3) = kept s := by
  unfold addTallyAt
  repeat' split
  all_goals simp only [addTally_kept, modCtx_kept, kept_mk, foldl_kept, ResKeeps, Run.Keeps]
theorem reportBadIf_kept (s : State) (a0) (a1) (a2) (a3) : kept (reportBadIf s a0 a1 a2 a3) = kept s := by
  unfold reportBadIf
  repeat' (first | simp only [countEvent_kept, logRec_kept, modChan_kept, modUnit_kept, raiseCrate_kept, kept_mk, foldl_kept, ResKeeps, Run.Keeps] | (refine (foldl_kept ?_ _ _).trans ?_; intro _ _; try dsimp only) | refine fromHost_keeps ?_ | split)
  all_goals grind [countEvent_kept, logRec_kept, modChan_kept, modUnit_kept, raiseCrate_kept, kept, Run.Keeps]
theorem reportBad_kept (s : State) (a0) (a1) (a2) : kept (reportBad s a0 a1 a2) = kept s := by
  unfold reportBad
  simp only [reportBadIf_kept, kept_mk, foldl_kept, ResKeeps, Run.Keeps]
theorem countCheckFail_kept (s : State) (a0) (a1) (a2) (a3) : kept (countCheckFail s a0 a1 a2 a3) = kept s := by
  unfold countCheckFail
  repeat' split
  all_goals simp only [countEvent_kept, logRec_kept, modUnit_kept, kept_mk, foldl_kept, ResKeeps, Run.Keeps]
theorem moveRead_kept (s : State) (a0) (a1) (a2) : kept (moveRead s a0 a1 a2).1 = kept s := by
  unfold moveRead
  grind [countCheckFail_kept, raiseCrate_kept, reportBad_kept, setMem_kept, kept, Run.Keeps]
theorem consume_kept (s : State) (a0) (a1) (a2) : kept (consume s a0 a1 a2).1 = kept s := by
  unfold consume
  grind [countCheckFail_kept, logRec_kept, modCore_kept, raiseCrate_kept, reportBad_kept, setMem_kept, kept, Run.Keeps]
theorem putCrate_kept (s : State) (a0) (a1) (a2) : kept (putCrate s a0 a1 a2) = kept s := by
  unfold putCrate
  simp only [setMem_kept, kept_mk, foldl_kept, ResKeeps, Run.Keeps]
theorem moveCrate_kept (s : State) (a0) (a1) (a2) (a3) : kept (moveCrate s a0 a1 a2 a3) = kept s := by
  unfold moveCrate
  simp only [moveRead_kept, putCrate_kept, kept_mk, foldl_kept, ResKeeps, Run.Keeps]
theorem coreLineageNext_kept (s : State) (a0) : kept (coreLineageNext s a0).1 = kept s := by
  unfold coreLineageNext
  simp only [modCore_kept, kept_mk, foldl_kept, ResKeeps, Run.Keeps]

end Sys2Proof.Machine
end

