-- ==== Sys2Proof/Laws/KeptStations.lean ====
section
/-!
SUPPORT. What the operations of Machine/Stations.lean keep.
-/
set_option linter.unusedSimpArgs false
namespace Sys2Proof.Machine

theorem stopLaunch_kept (s : State) (a0) (a1) (a2) : kept (stopLaunch s a0 a1 a2) = kept s := by
  unfold stopLaunch
  repeat' (first | simp only [modCore_kept, modLaunch_kept, kept_mk, foldl_kept, ResKeeps, Run.Keeps] | (refine (foldl_kept ?_ _ _).trans ?_; intro _ _; try dsimp only) | refine fromHost_keeps ?_ | split)
  all_goals grind [modCore_kept, modLaunch_kept, kept, Run.Keeps]
theorem failLaunch_kept (s : State) (a0) (a1) (a2) (a3) : kept (failLaunch s a0 a1 a2 a3) = kept s := by
  unfold failLaunch
  repeat' split
  all_goals simp only [modLaunch_kept, stopLaunch_kept, kept_mk, foldl_kept, ResKeeps, Run.Keeps]
theorem scheduleBroken_kept (s : State) (a0) (a1) (a2) (a3) (a4) (a5) : kept (scheduleBroken s a0 a1 a2 a3 a4 a5) = kept s := by
  unfold scheduleBroken
  simp only [addDue_kept, failLaunch_kept, logRec_kept, modCore_kept, modUnit_kept, raiseCore_kept, kept_mk, foldl_kept, ResKeeps, Run.Keeps]
theorem raiseFault_kept (s : State) (a0) (a1) (a2) (a3) (a4) : kept (raiseFault s a0 a1 a2 a3 a4) = kept s := by
  unfold raiseFault
  repeat' split
  all_goals simp only [raiseCore_kept, raiseCrate_kept, raiseUnit_kept, kept_mk, foldl_kept, ResKeeps, Run.Keeps]
theorem stationFault_kept (s : State) (a0) (a1) (a2) (a3) : kept (stationFault s a0 a1 a2 a3) = kept s := by
  unfold stationFault
  simp only [failLaunch_kept, modCore_kept, raiseFault_kept, kept_mk, foldl_kept, ResKeeps, Run.Keeps]
theorem signals_kept (s : State) (a0) (a1) (a2) (a3) : kept (signals s a0 a1 a2 a3) = kept s := by
  unfold signals
  repeat' (first | simp only [scheduleBroken_kept, setCore_kept, kept_mk, foldl_kept, ResKeeps, Run.Keeps] | (refine (foldl_kept ?_ _ _).trans ?_; intro _ _; try dsimp only) | refine fromHost_keeps ?_ | split)
  all_goals grind [scheduleBroken_kept, setCore_kept, kept, Run.Keeps]
theorem setHold_kept (s : State) (a0) (a1) (a2) : kept (setHold s a0 a1 a2) = kept s := by
  unfold setHold
  simp only [modCore_kept, kept_mk, foldl_kept, ResKeeps, Run.Keeps]
theorem advanceSt_kept (s : State) (a0) (a1) : kept (advanceSt s a0 a1) = kept s := by
  unfold advanceSt
  repeat' split
  all_goals simp only [modCore_kept, kept_mk, foldl_kept, ResKeeps, Run.Keeps]
theorem finish_kept (s : State) (a0) (a1) (a2) (a3) (r : Run) (h : r.Keeps (kept s)) : kept (finish s a0 a1 a2 a3 r) = kept s := by
  cases r <;> simp_all only [finish, Run.Keeps, advanceSt_kept, signals_kept, setHold_kept, scheduleBroken_kept, stationFault_kept]
theorem findingRun_kept (s : State) (a0) (a1) (a2) : ∀ r, findingRun s a0 a1 a2 = some r → r.Keeps (kept s) := by
  unfold findingRun
  repeat' (first | simp only [kept_mk, foldl_kept, ResKeeps, Run.Keeps] | (refine (foldl_kept ?_ _ _).trans ?_; intro _ _; try dsimp only) | refine fromHost_keeps ?_ | split)
  all_goals grind [kept, Run.Keeps]
theorem applyMarks_kept (s : State) (a0) : kept (applyMarks s a0) = kept s := by
  unfold applyMarks
  repeat' (first | simp only [modChan_kept, modMem_kept, kept_mk, foldl_kept, ResKeeps, Run.Keeps] | (refine (foldl_kept ?_ _ _).trans ?_; intro _ _; try dsimp only) | refine fromHost_keeps ?_ | split)
  all_goals grind [modChan_kept, modMem_kept, kept, Run.Keeps]
theorem runIns_kept (s : State) (a0) (a1) (a2) (a3) (body : State → Nat → W128 → Finding → Run)
    (hb : ∀ s c w f, (body s c w f).Keeps (kept s)) : kept (runIns s a0 a1 a2 a3 body) = kept s := by
  have hs : ∀ t, kept (setHold (applyMarks s a3) a0 a1 .none) = kept t → kept t = kept s := by
    intro t ht; simpa only [setHold_kept, applyMarks_kept] using ht.symm
  have h1 : kept (setHold (applyMarks s a3) a0 a1 .none) = kept s := by simp only [setHold_kept, applyMarks_kept]
  have hr : ∀ r : Run, r.Keeps (kept (setHold (applyMarks s a3) a0 a1 .none)) → r.Keeps (kept s) := by
    intro r hr; cases r <;> simp_all only [Run.Keeps]
  unfold runIns
  dsimp only
  split
  · split <;> simp only [setHold_kept, scheduleBroken_kept]
  · split
    · rename_i h
      have := hr _ (findingRun_kept _ _ _ _ _ h)
      split <;> simpa only [scheduleBroken_kept, Run.Keeps] using this
    · rename_i h
      exact finish_kept _ _ _ _ _ _ (hr _ (findingRun_kept _ _ _ _ _ h))
    · exact finish_kept _ _ _ _ _ _ (hr _ (hb _ _ _ _))
theorem issue_kept (s : State) (a0) (a1) (a2) (a3) (body : State → Nat → W128 → Finding → Run)
    (hb : ∀ s c w f, (body s c w f).Keeps (kept s)) : kept (issue s a0 a1 a2 a3 body) = kept s := by
  unfold issue
  split
  · rfl
  · split
    · exact runIns_kept _ _ _ _ _ _ hb
    · rfl
theorem implicitWait_kept (s : State) (a0) (a1) (a2) (a3) : ∀ r, implicitWait s a0 a1 a2 a3 = some r → r.Keeps (kept s) := by
  unfold implicitWait
  repeat' (first | simp only [kept_mk, foldl_kept, ResKeeps, Run.Keeps] | (refine (foldl_kept ?_ _ _).trans ?_; intro _ _; try dsimp only) | refine fromHost_keeps ?_ | split)
  all_goals grind [kept, Run.Keeps]
theorem implicitRelease_kept (s : State) (a0) (a1) :
    (∀ t, implicitRelease s a0 a1 = .ok t → kept t = kept s) ∧ (∀ r, implicitRelease s a0 a1 = .error r → r.Keeps (kept s)) := by
  unfold implicitRelease
  generalize release (getCore s a0) a1 = x
  cases x with
  | none => exact ⟨fun t h => (by cases h), fun r h => (by cases h; rfl)⟩
  | some c => exact ⟨fun t h => (by cases h; exact setCore_kept s a0 c), fun r h => (by cases h)⟩
theorem implicitRelease_ok (s : State) (a0) (a1) : ∀ t, implicitRelease s a0 a1 = .ok t → kept t = kept s := (implicitRelease_kept s a0 a1).1
theorem implicitRelease_err (s : State) (a0) (a1) : ∀ r, implicitRelease s a0 a1 = .error r → r.Keeps (kept s) := (implicitRelease_kept s a0 a1).2
theorem implicitPost_kept (s : State) (a0) (a1) :
    (∀ t, implicitPost s a0 a1 = .ok t → kept t = kept s) ∧ (∀ r, implicitPost s a0 a1 = .error r → r.Keeps (kept s)) := by
  unfold implicitPost
  generalize post (getCore s a0) a1 = x
  cases x with
  | none => exact ⟨fun t h => (by cases h), fun r h => (by cases h; rfl)⟩
  | some c => exact ⟨fun t h => (by cases h; exact setCore_kept s a0 c), fun r h => (by cases h)⟩
theorem implicitPost_ok (s : State) (a0) (a1) : ∀ t, implicitPost s a0 a1 = .ok t → kept t = kept s := (implicitPost_kept s a0 a1).1
theorem implicitPost_err (s : State) (a0) (a1) : ∀ r, implicitPost s a0 a1 = .error r → r.Keeps (kept s) := (implicitPost_kept s a0 a1).2
theorem coreTally_kept (s : State) (a0) (a1) (a2) : kept (coreTally s a0 a1 a2) = kept s := by
  unfold coreTally
  simp only [addTallyAt_kept, kept_mk, foldl_kept, ResKeeps, Run.Keeps]

end Sys2Proof.Machine
end

