-- ==== Sys2Proof/Laws/KeptQueue.lean ====
section
/-!
SUPPORT. What the operations of Machine/Queue.lean keep.
-/
set_option linter.unusedSimpArgs false
namespace Sys2Proof.Machine

theorem modCmd_kept (s : State) (a0) (a1) : kept (modCmd s a0 a1) = kept s := by
  unfold modCmd
  grind [kept, Run.Keeps]
theorem cutShort_kept (s : State) (a0) : kept (cutShort s a0) = kept s := by
  unfold cutShort
  repeat' split
  all_goals simp only [putCrate_kept, kept_mk, foldl_kept, ResKeeps, Run.Keeps]
theorem setEnded_kept (s : State) (a0) (a1) : kept (setEnded s a0 a1) = kept s := by
  unfold setEnded
  repeat' split
  all_goals simp only [cutShort_kept, modCmd_kept, kept_mk, foldl_kept, ResKeeps, Run.Keeps]
theorem cancelFollower_kept (s : State) (a0) : kept (cancelFollower s a0) = kept s := by
  unfold cancelFollower
  repeat' split
  all_goals simp only [setEnded_kept, stopLaunch_kept, kept_mk, foldl_kept, ResKeeps, Run.Keeps]
theorem failQueue_kept (s : State) (a0) (a1) : kept (failQueue s a0 a1) = kept s := by
  unfold failQueue
  repeat' (first | simp only [cancelFollower_kept, modQueue_kept, kept_mk, foldl_kept, ResKeeps, Run.Keeps] | (refine (foldl_kept ?_ _ _).trans ?_; intro _ _; try dsimp only) | refine fromHost_keeps ?_ | split)
  all_goals grind [cancelFollower_kept, modQueue_kept, kept, Run.Keeps]
theorem chargeEnd_kept (s : State) (a0) (a1) : kept (chargeEnd s a0 a1) = kept s := by
  unfold chargeEnd
  grind [chargeNow_kept, kept, Run.Keeps]
theorem endCmd_kept (s : State) (a0) (a1) : kept (endCmd s a0 a1) = kept s := by
  unfold endCmd
  repeat' split
  all_goals simp only [chargeEnd_kept, failQueue_kept, setEnded_kept, kept_mk, foldl_kept, ResKeeps, Run.Keeps]
theorem refuseCmd_kept (s : State) (a0) (a1) : kept (refuseCmd s a0 a1) = kept s := by
  unfold refuseCmd
  simp only [endCmd_kept, kept_mk, foldl_kept, ResKeeps, Run.Keeps]
theorem enterPacket_kept (s : State) (a0) (a1) : kept (enterPacket s a0 a1) = kept s := by
  unfold enterPacket
  grind [refuseCmd_kept, kept, Run.Keeps]
theorem packetFetch_kept (s : State) (a0) : kept (packetFetch s a0) = kept s := by
  unfold packetFetch
  grind [enterPacket_kept, modQueue_kept, kept, Run.Keeps]
theorem execPacketFetch_kept (a0) (s : State) : ResKeeps (kept s) (execPacketFetch a0 s) := by
  unfold execPacketFetch
  simp only [packetFetch_kept, kept_mk, foldl_kept, ResKeeps, Run.Keeps]
theorem commandBegin_kept (s : State) (a0) : kept (commandBegin s a0) = kept s := by
  unfold commandBegin
  grind [endCmd_kept, modCmd_kept, modQueue_kept, kept, Run.Keeps]
theorem execCommandBegin_kept (a0) (s : State) : ResKeeps (kept s) (execCommandBegin a0 s) := by
  unfold execCommandBegin
  simp only [commandBegin_kept, kept_mk, foldl_kept, ResKeeps, Run.Keeps]
theorem cmdSignals_kept (s : State) (a0) : kept (cmdSignals s a0) = kept s := by
  unfold cmdSignals
  grind [addTallyAt_kept, kept, Run.Keeps]
theorem cqInterrupt_kept (s : State) (a0) : kept (cqInterrupt s a0) = kept s := by
  unfold cqInterrupt
  grind [modQueue_kept, signalMsix_kept, kept, Run.Keeps]
theorem recordWrite_kept (s : State) (a0) : kept (recordWrite s a0) = kept s := by
  unfold recordWrite
  grind [cmdSignals_kept, cqInterrupt_kept, hostWrite_kept, modQueue_kept, kept, Run.Keeps]
theorem execCompletionRecordWrite_kept (a0) (s : State) : ResKeeps (kept s) (execCompletionRecordWrite a0 s) := by
  unfold execCompletionRecordWrite
  simp only [recordWrite_kept, kept_mk, foldl_kept, ResKeeps, Run.Keeps]
theorem sqDoorbell_kept (s : State) (a0) (a1) : kept (sqDoorbell s a0 a1) = kept s := by
  unfold sqDoorbell
  grind [modQueue_kept, raiseUnit_kept, kept, Run.Keeps]
theorem execSqDoorbell_kept (a0) (a1) (s : State) : ResKeeps (kept s) (execSqDoorbell a0 a1 s) := by
  unfold execSqDoorbell
  repeat' (first | simp only [sqDoorbell_kept, kept_mk, foldl_kept, ResKeeps, Run.Keeps] | (refine (foldl_kept ?_ _ _).trans ?_; intro _ _; try dsimp only) | refine fromHost_keeps ?_ | split)
  all_goals grind [sqDoorbell_kept, kept, Run.Keeps]
theorem cqDoorbell_kept (s : State) (a0) (a1) : kept (cqDoorbell s a0 a1) = kept s := by
  unfold cqDoorbell
  grind [modQueue_kept, raiseUnit_kept, kept, Run.Keeps]
theorem execCqDoorbell_kept (a0) (a1) (s : State) : ResKeeps (kept s) (execCqDoorbell a0 a1 s) := by
  unfold execCqDoorbell
  repeat' (first | simp only [cqDoorbell_kept, kept_mk, foldl_kept, ResKeeps, Run.Keeps] | (refine (foldl_kept ?_ _ _).trans ?_; intro _ _; try dsimp only) | refine fromHost_keeps ?_ | split)
  all_goals grind [cqDoorbell_kept, kept, Run.Keeps]
theorem qEnable_kept (s : State) (a0) (a1) : kept (qEnable s a0 a1) = kept s := by
  unfold qEnable
  grind [modQueue_kept, setQueue_kept, kept, Run.Keeps, FabRun.Keeps]
theorem execQEnable_kept (a0) (a1) (s : State) : ResKeeps (kept s) (execQEnable a0 a1 s) := by
  unfold execQEnable
  repeat' (first | simp only [qEnable_kept, kept_mk, foldl_kept, ResKeeps, Run.Keeps] | (refine (foldl_kept ?_ _ _).trans ?_; intro _ _; try dsimp only) | refine fromHost_keeps ?_ | split)
  all_goals grind [qEnable_kept, kept, Run.Keeps, FabRun.Keeps]
theorem qDisable_kept (s : State) (a0) (a1) : kept (qDisable s a0 a1) = kept s := by
  unfold qDisable
  dsimp only
  (repeat' split) <;> grind [modQueue_kept, kept, Run.Keeps, FabRun.Keeps]
theorem execQDisable_kept (a0) (a1) (s : State) : ResKeeps (kept s) (execQDisable a0 a1 s) := by
  unfold execQDisable
  repeat' (first | simp only [qDisable_kept, kept_mk, foldl_kept, ResKeeps, Run.Keeps] | (refine (foldl_kept ?_ _ _).trans ?_; intro _ _; try dsimp only) | refine fromHost_keeps ?_ | split)
  all_goals grind [qDisable_kept, kept, Run.Keeps, FabRun.Keeps]
theorem queueDrainDone_kept (s : State) (a0) : kept (queueDrainDone s a0) = kept s := by
  unfold queueDrainDone
  repeat' split
  all_goals simp only [modQueue_kept, kept_mk, foldl_kept, ResKeeps, Run.Keeps]
theorem execQueueDrainDone_kept (a0) (s : State) : ResKeeps (kept s) (execQueueDrainDone a0 s) := by
  unfold execQueueDrainDone
  simp only [queueDrainDone_kept, kept_mk, foldl_kept, ResKeeps, Run.Keeps]
theorem resumeQueue_kept (s : State) (a0) (a1) : kept (resumeQueue s a0 a1) = kept s := by
  unfold resumeQueue
  repeat' split
  all_goals simp only [modQueue_kept, kept_mk, foldl_kept, ResKeeps, Run.Keeps]
theorem execResume_kept (a0) (a1) (s : State) : ResKeeps (kept s) (execResume a0 a1 s) := by
  unfold execResume
  repeat' (first | simp only [resumeQueue_kept, kept_mk, foldl_kept, ResKeeps, Run.Keeps] | (refine (foldl_kept ?_ _ _).trans ?_; intro _ _; try dsimp only) | refine fromHost_keeps ?_ | split)
  all_goals grind [resumeQueue_kept, kept, Run.Keeps]
theorem queueResumed_kept (s : State) (a0) : kept (queueResumed s a0) = kept s := by
  unfold queueResumed
  grind [modQueue_kept, kept, Run.Keeps]
theorem execQueueResumed_kept (a0) (s : State) : ResKeeps (kept s) (execQueueResumed a0 s) := by
  unfold execQueueResumed
  simp only [queueResumed_kept, kept_mk, foldl_kept, ResKeeps, Run.Keeps]
theorem hostBackpressure_kept (s : State) (a0) : kept (hostBackpressure s a0) = kept s := by
  unfold hostBackpressure
  grind [raiseUnit_kept, kept, Run.Keeps]
theorem execHostBackpressure_kept (a0) (s : State) : ResKeeps (kept s) (execHostBackpressure a0 s) := by
  unfold execHostBackpressure
  simp only [hostBackpressure_kept, kept_mk, foldl_kept, ResKeeps, Run.Keeps]

end Sys2Proof.Machine
end

