-- ==== Sys2Proof/Laws/KeptLedger.lean ====
section
/-!
SUPPORT. What the operations of Machine/Ledger.lean keep.
-/
set_option linter.unusedSimpArgs false
namespace Sys2Proof.Machine

theorem startTest_kept (s : State) (a0) (a1) (a2) : kept (startTest s a0 a1 a2) = kept s := by
  unfold startTest
  grind [modUnit_kept, kept, Run.Keeps]
theorem freeBytes_kept (s : State) (a0) : kept (freeBytes s a0).1 = kept s := by
  unfold freeBytes
  grind [kept, Run.Keeps]
theorem freeCrates_kept (s : State) (a0) (a1) : kept (freeCrates s a0 a1) = kept s := by
  unfold freeCrates
  simp only [freeBytes_kept, modMem_kept, kept_mk, foldl_kept, ResKeeps, Run.Keeps]
theorem freeBench_kept (s : State) (a0) : kept (freeBench s a0) = kept s := by
  unfold freeBench
  simp only [freeBytes_kept, modCore_kept, kept_mk, foldl_kept, ResKeeps, Run.Keeps]
theorem testLeaves_kept (s : State) (a0) (a1) : kept (testLeaves s a0 a1) = kept s := by
  unfold testLeaves
  grind [freeBench_kept, freeCrates_kept, kept, Run.Keeps]
theorem logRepair_kept (s : State) (a0) (a1) (a2) (a3) : kept (logRepair s a0 a1 a2 a3) = kept s := by
  unfold logRepair
  simp only [logRec_kept, kept_mk, foldl_kept, ResKeeps, Run.Keeps]
theorem repairCore_kept (s : State) (a0) : kept (repairCore s a0) = kept s := by
  unfold repairCore
  grind [logRepair_kept, kept, Run.Keeps]
theorem startAll_kept (s : State) (a0) (a1) : kept (startAll s a0 a1) = kept s := by
  unfold startAll
  repeat' (first | simp only [startTest_kept, kept_mk, foldl_kept, ResKeeps, Run.Keeps] | (refine (foldl_kept ?_ _ _).trans ?_; intro _ _; try dsimp only) | refine fromHost_keeps ?_ | split)
  all_goals grind [startTest_kept, kept, Run.Keeps]
theorem swapCore_kept (s : State) (a0) (a1) : kept (swapCore s a0 a1) = kept s := by
  unfold swapCore
  repeat' (first | simp only [raiseUnit_kept, startAll_kept, startTest_kept, kept_mk, foldl_kept, ResKeeps, Run.Keeps] | (refine (foldl_kept ?_ _ _).trans ?_; intro _ _; try dsimp only) | refine fromHost_keeps ?_ | split)
  all_goals grind [raiseUnit_kept, startAll_kept, startTest_kept, kept, Run.Keeps]
theorem coreBoundary_kept (a0) (s : State) (a1) : kept (coreBoundary a0 s a1) = kept s := by
  unfold coreBoundary
  repeat' (first | simp only [repairCore_kept, startTest_kept, swapCore_kept, kept_mk, foldl_kept, ResKeeps, Run.Keeps] | (refine (foldl_kept ?_ _ _).trans ?_; intro _ _; try dsimp only) | refine fromHost_keeps ?_ | split)
  all_goals grind [repairCore_kept, startTest_kept, swapCore_kept, kept, Run.Keeps]
theorem testDue_kept (s : State) (a0) (a1) (a2) : kept (testDue s a0 a1 a2) = kept s := by
  unfold testDue
  grind [addDue_kept, startTest_kept, kept, Run.Keeps]
theorem execFieldTestDue_kept (a0) (a1) (s : State) : ResKeeps (kept s) (execFieldTestDue a0 a1 s) := by
  unfold execFieldTestDue
  repeat' split
  all_goals simp only [testDue_kept, kept_mk, foldl_kept, ResKeeps, Run.Keeps]
theorem fieldTest_kept (s : State) (a0) : kept (fieldTest s a0) = kept s := by
  unfold fieldTest
  grind [modCmd_kept, refuseCmd_kept, testDue_kept, kept, Run.Keeps]
theorem execFieldTest_kept (a0) (s : State) : ResKeeps (kept s) (execFieldTest a0 s) := by
  unfold execFieldTest
  simp only [fieldTest_kept, kept_mk, foldl_kept, ResKeeps, Run.Keeps]
theorem testFailed_kept (s : State) (a0) (a1) : kept (testFailed s a0 a1) = kept s := by
  unfold testFailed
  grind [modUnit_kept, raiseUnit_kept, setStanding_kept, kept, Run.Keeps]
theorem testPassed_kept (s : State) (a0) (a1) : kept (testPassed s a0 a1) = kept s := by
  unfold testPassed
  simp only [modUnit_kept, kept_mk, foldl_kept, ResKeeps, Run.Keeps]
theorem fieldTestResult_kept (s : State) (a0) (a1) (a2) (a3) (a4) : kept (fieldTestResult s a0 a1 a2 a3 a4) = kept s := by
  unfold fieldTestResult
  grind [coreBoundary_kept, endCmd_kept, logRec_kept, modUnit_kept, testFailed_kept, testLeaves_kept, testPassed_kept, kept, Run.Keeps]
theorem execFieldTestResult_kept (a0) (a1) (a2) (a3) (a4) (s : State) : ResKeeps (kept s) (execFieldTestResult a0 a1 a2 a3 a4 s) := by
  unfold execFieldTestResult
  simp only [fieldTestResult_kept, kept_mk, foldl_kept, ResKeeps, Run.Keeps]
theorem standingRecovery_kept (s : State) (a0) : kept (standingRecovery s a0) = kept s := by
  unfold standingRecovery
  grind [setStanding_kept, kept, Run.Keeps]
theorem execStandingRecovery_kept (a0) (s : State) : ResKeeps (kept s) (execStandingRecovery a0 s) := by
  unfold execStandingRecovery
  simp only [standingRecovery_kept, kept_mk, foldl_kept, ResKeeps, Run.Keeps]
theorem mirrorCounter_kept (s : State) (a0) (a1) (a2) (a3) : kept (mirrorCounter s a0 a1 a2 a3) = kept s := by
  unfold mirrorCounter
  grind [logRec_kept, modUnit_kept, kept, Run.Keeps]
theorem mirrorAll_kept (s : State) : kept (mirrorAll s) = kept s := by
  unfold mirrorAll
  repeat' (first | simp only [mirrorCounter_kept, kept_mk, foldl_kept, ResKeeps, Run.Keeps] | (refine (foldl_kept ?_ _ _).trans ?_; intro _ _; try dsimp only) | refine fromHost_keeps ?_ | split)
  all_goals grind [mirrorCounter_kept, kept, Run.Keeps]
theorem ledgerPageProgram_kept (s : State) : kept (ledgerPageProgram s) = kept s := by
  unfold ledgerPageProgram
  grind [kept, Run.Keeps]
theorem execLedgerPageProgram_kept (s : State) : ResKeeps (kept s) (execLedgerPageProgram s) := by
  unfold execLedgerPageProgram
  simp only [ledgerPageProgram_kept, kept_mk, foldl_kept, ResKeeps, Run.Keeps]
theorem holdupStateChange_kept (s : State) (a0) (a1) : kept (holdupStateChange s a0 a1) = kept s := by
  unfold holdupStateChange
  grind [logRec_kept, raiseUnit_kept, kept, Run.Keeps]
theorem execHoldupStateChange_kept (a0) (a1) (s : State) : ResKeeps (kept s) (execHoldupStateChange a0 a1 s) := by
  unfold execHoldupStateChange
  simp only [holdupStateChange_kept, kept_mk, foldl_kept, ResKeeps, Run.Keeps]
theorem ledgerFlashFail_kept (s : State) : kept (ledgerFlashFail s) = kept s := by
  unfold ledgerFlashFail
  grind [raiseUnit_kept, kept, Run.Keeps]
theorem execLedgerFlashFail_kept (s : State) : ResKeeps (kept s) (execLedgerFlashFail s) := by
  unfold execLedgerFlashFail
  simp only [ledgerFlashFail_kept, kept_mk, foldl_kept, ResKeeps, Run.Keeps]
theorem ledgerRead_kept (s : State) (a0) : kept (ledgerRead s a0) = kept s := by
  unfold ledgerRead
  repeat' split
  all_goals simp only [endCmd_kept, hostWrite_kept, kept_mk, foldl_kept, ResKeeps, Run.Keeps]
theorem execLedgerRead_kept (a0) (s : State) : ResKeeps (kept s) (execLedgerRead a0 s) := by
  unfold execLedgerRead
  simp only [ledgerRead_kept, kept_mk, foldl_kept, ResKeeps, Run.Keeps]

end Sys2Proof.Machine
end

