-- ==== Sys2Proof/Laws/KeptEvent.lean ====
section
/-!
SUPPORT. What the operations of Machine/Event.lean keep.
-/
set_option linter.unusedSimpArgs false
namespace Sys2Proof.Machine

theorem ringSignal_kept (s : State) (a0) : kept (ringSignal s a0) = kept s := by
  unfold ringSignal
  grind [modRing_kept, signalMsix_kept, kept, Run.Keeps]
theorem writeEvent_kept (s : State) (a0) (a1) : kept (writeEvent s a0 a1) = kept s := by
  unfold writeEvent
  repeat' split
  all_goals simp only [hostWrite_kept, modProc_kept, modRing_kept, ringSignal_kept, kept_mk, foldl_kept, ResKeeps, Run.Keeps]
theorem eventRecordWrite_kept (s : State) (a0) : kept (eventRecordWrite s a0) = kept s := by
  unfold eventRecordWrite
  grind [modRing_kept, writeEvent_kept, kept, Run.Keeps]
theorem execEventRecordWrite_kept (a0) (s : State) : ResKeeps (kept s) (execEventRecordWrite a0 s) := by
  unfold execEventRecordWrite
  simp only [eventRecordWrite_kept, kept_mk, foldl_kept, ResKeeps, Run.Keeps]
theorem interruptTake_kept (s : State) (a0) : kept (interruptTake s a0) = kept s := by
  unfold interruptTake
  grind [modProc_kept, modRing_kept, kept, Run.Keeps]
theorem execInterruptTake_kept (a0) (s : State) : ResKeeps (kept s) (execInterruptTake a0 s) := by
  unfold execInterruptTake
  simp only [interruptTake_kept, kept_mk, foldl_kept, ResKeeps, Run.Keeps]
theorem evtEoi_kept (s : State) (a0) (a1) (a2) : kept (evtEoi s a0 a1 a2) = kept s := by
  unfold evtEoi
  repeat' split
  all_goals simp only [modProc_kept, kept_mk, foldl_kept, ResKeeps, Run.Keeps]
theorem execEvtEoi_kept (a0) (a1) (a2) (s : State) : ResKeeps (kept s) (execEvtEoi a0 a1 a2 s) := by
  unfold execEvtEoi
  simp only [evtEoi_kept, kept_mk, foldl_kept, ResKeeps, Run.Keeps]
theorem writeRingCfg_kept (s : State) (a0) (a1) : kept (writeRingCfg s a0 a1) = kept s := by
  unfold writeRingCfg
  dsimp only
  (repeat' split) <;> simp only [modRing_kept, kept_mk, foldl_kept, ResKeeps, Run.Keeps]
theorem execEvtRingEnable_kept (a0) (a1) (s : State) : ResKeeps (kept s) (execEvtRingEnable a0 a1 s) := by
  unfold execEvtRingEnable
  repeat' (first | simp only [writeRingCfg_kept, kept_mk, foldl_kept, ResKeeps, Run.Keeps] | (refine (foldl_kept ?_ _ _).trans ?_; intro _ _; try dsimp only) | refine fromHost_keeps ?_ | split)
  all_goals grind [writeRingCfg_kept, kept, Run.Keeps, FabRun.Keeps]
theorem execEvtRingDisable_kept (a0) (a1) (s : State) : ResKeeps (kept s) (execEvtRingDisable a0 a1 s) := by
  unfold execEvtRingDisable
  repeat' (first | simp only [writeRingCfg_kept, kept_mk, foldl_kept, ResKeeps, Run.Keeps] | (refine (foldl_kept ?_ _ _).trans ?_; intro _ _; try dsimp only) | refine fromHost_keeps ?_ | split)
  all_goals grind [writeRingCfg_kept, kept, Run.Keeps, FabRun.Keeps]
theorem evtRingHead_kept (s : State) (a0) (a1) : kept (evtRingHead s a0 a1) = kept s := by
  unfold evtRingHead
  grind [modRing_kept, ringSignal_kept, kept, Run.Keeps]
theorem execEvtRingHead_kept (a0) (a1) (s : State) : ResKeeps (kept s) (execEvtRingHead a0 a1 s) := by
  unfold execEvtRingHead
  repeat' (first | simp only [evtRingHead_kept, kept_mk, foldl_kept, ResKeeps, Run.Keeps] | (refine (foldl_kept ?_ _ _).trans ?_; intro _ _; try dsimp only) | refine fromHost_keeps ?_ | split)
  all_goals grind [evtRingHead_kept, kept, Run.Keeps]
theorem overflowClear_kept (s : State) (a0) (a1) : kept (overflowClear s a0 a1) = kept s := by
  unfold overflowClear
  repeat' split
  all_goals simp only [modRing_kept, kept_mk, foldl_kept, ResKeeps, Run.Keeps]
theorem execOverflowClear_kept (a0) (a1) (s : State) : ResKeeps (kept s) (execOverflowClear a0 a1 s) := by
  unfold execOverflowClear
  repeat' (first | simp only [overflowClear_kept, kept_mk, foldl_kept, ResKeeps, Run.Keeps] | (refine (foldl_kept ?_ _ _).trans ?_; intro _ _; try dsimp only) | refine fromHost_keeps ?_ | split)
  all_goals grind [overflowClear_kept, kept, Run.Keeps]
theorem unbindRings_kept (s : State) (a0) : kept (unbindRings s a0) = kept s := by
  unfold unbindRings
  grind [kept, Run.Keeps]
theorem setPin_kept (s : State) (a0) (a1) : kept (setPin s a0 a1) = kept s := by
  unfold setPin
  grind [kept, Run.Keeps]
theorem raiseHeat_kept (s : State) (a0) (a1) : kept (raiseHeat s a0 a1) = kept s := by
  unfold raiseHeat
  grind [raiseUnit_kept, kept, Run.Keeps]
theorem pinResponse_kept (s : State) (a0) : kept (pinResponse s a0) = kept s := by
  unfold pinResponse
  grind [ledgerPageProgram_kept, raiseHeat_kept, raiseUnit_kept, kept, Run.Keeps]
theorem raisePin_kept (s : State) (a0) : kept (raisePin s a0) = kept s := by
  unfold raisePin
  grind [deliver_kept, pinResponse_kept, setPin_kept, kept, Run.Keeps]
theorem pinChange_kept (s : State) (a0) (a1) : kept (pinChange s a0 a1) = kept s := by
  unfold pinChange
  grind [raisePin_kept, setPin_kept, kept, Run.Keeps]
theorem execPinChange_kept (a0) (a1) (s : State) : ResKeeps (kept s) (execPinChange a0 a1 s) := by
  unfold execPinChange
  simp only [pinChange_kept, kept_mk, foldl_kept, ResKeeps, Run.Keeps]
theorem pendingClear_kept (s : State) (a0) : kept (pendingClear s a0) = kept s := by
  unfold pendingClear
  grind [kept, Run.Keeps]
theorem execPendingClear_kept (a0) (s : State) : ResKeeps (kept s) (execPendingClear a0 s) := by
  unfold execPendingClear
  repeat' (first | simp only [pendingClear_kept, kept_mk, foldl_kept, ResKeeps, Run.Keeps] | (refine (foldl_kept ?_ _ _).trans ?_; intro _ _; try dsimp only) | refine fromHost_keeps ?_ | split)
  all_goals grind [pendingClear_kept, kept, Run.Keeps]
theorem lowPins_kept (s : State) : kept (lowPins s) = kept s := by
  unfold lowPins
  repeat' (first | simp only [raisePin_kept, setPin_kept, kept_mk, foldl_kept, ResKeeps, Run.Keeps] | (refine (foldl_kept ?_ _ _).trans ?_; intro _ _; try dsimp only) | refine fromHost_keeps ?_ | split)
  all_goals grind [raisePin_kept, setPin_kept, kept, Run.Keeps]

end Sys2Proof.Machine
end

