-- ==== Sys2Proof/Laws/KeptFabric.lean ====
section
/-!
SUPPORT. What the operations of Machine/Fabric.lean keep.
-/
set_option linter.unusedSimpArgs false
namespace Sys2Proof.Machine

theorem modFab_kept (s : State) (a0) : kept (modFab s a0) = kept s := by
  unfold modFab
  grind [kept, Run.Keeps, FabRun.Keeps]
theorem modPort_kept (s : State) (a0) (a1) : kept (modPort s a0 a1) = kept s := by
  unfold modPort
  simp only [modFab_kept, kept_mk, foldl_kept, ResKeeps, Run.Keeps]
theorem freeWords_kept (s : State) (a0) (a1) : kept (freeWords s a0 a1) = kept s := by
  unfold freeWords
  simp only [emit_kept, kept_mk, foldl_kept, ResKeeps, Run.Keeps]
theorem routeFault_kept (s : State) (a0) : kept (routeFault s a0) = kept s := by
  unfold routeFault
  simp only [modPort_kept, kept_mk, foldl_kept, ResKeeps, Run.Keeps]
theorem enqueue_kept (s : State) (a0) : kept (enqueue s a0) = kept s := by
  unfold enqueue
  simp only [modFab_kept, kept_mk, foldl_kept, ResKeeps, Run.Keeps]
theorem frameIn_kept (s : State) (a0) (a1) : kept (frameIn s a0 a1) = kept s := by
  unfold frameIn
  repeat' split
  all_goals simp only [enqueue_kept, freeWords_kept, modPort_kept, routeFault_kept, kept_mk, foldl_kept, ResKeeps, Run.Keeps]
theorem cutFrames_kept (a0) (a1) (a2) (s : State) : kept (cutFrames a0 a1 a2 s).1 = kept s := by
  induction a1 generalizing a2 s with
  | zero => rfl
  | succ n ih =>
    unfold cutFrames
    repeat' split
    all_goals first | rfl | (dsimp only; repeat' split) <;> simp only [ih, frameIn_kept]
theorem flitDrop_kept (s : State) (a0) : kept (flitDrop s a0) = kept s := by
  unfold flitDrop
  simp only [emit_kept, modPort_kept, kept_mk, foldl_kept, ResKeeps, Run.Keeps]
theorem flitReceive_kept (s : State) (a0) (a1) (a2) : kept (flitReceive s a0 a1 a2) = kept s := by
  unfold flitReceive
  grind [cutFrames_kept, flitDrop_kept, modPort_kept, kept, Run.Keeps]
theorem execFlitReceive_kept (a0) (a1) (a2) (s : State) : ResKeeps (kept s) (execFlitReceive a0 a1 a2 s) := by
  unfold execFlitReceive
  simp only [flitReceive_kept, kept_mk, foldl_kept, ResKeeps, Run.Keeps]
theorem setSession_kept (s : State) (a0) (a1) : kept (setSession s a0 a1) = kept s := by
  unfold setSession
  simp only [modFab_kept, kept_mk, foldl_kept, ResKeeps, Run.Keeps]
theorem modSession_kept (s : State) (a0) (a1) : kept (modSession s a0 a1) = kept s := by
  unfold modSession
  simp only [setSession_kept, kept_mk, foldl_kept, ResKeeps, Run.Keeps]
theorem openHalf_kept (s : State) (a0) : kept (openHalf s a0) = kept s := by
  unfold openHalf
  grind [drawFree_kept, enqueue_kept, modSession_kept, kept, Run.Keeps]
theorem useSession_kept (s : State) (a0) : kept (useSession s a0).1 = kept s := by
  unfold useSession
  repeat' split
  all_goals simp only [openHalf_kept, setSession_kept]
theorem modBind_kept (s : State) (a0) (a1) (a2) (a3) : kept (modBind s a0 a1 a2 a3) = kept s := by
  unfold modBind
  simp only [modFab_kept, kept_mk, foldl_kept, ResKeeps, Run.Keeps]
theorem markUsed_kept (s : State) (a0) (a1) (a2) (a3) : kept (markUsed s a0 a1 a2 a3) = kept s := by
  unfold markUsed
  simp only [modFab_kept, kept_mk, foldl_kept, ResKeeps, Run.Keeps]
theorem askBind_kept (s : State) (a0) (a1) (a2) (a3) : kept (askBind s a0 a1 a2 a3) = kept s := by
  unfold askBind
  simp only [enqueue_kept, markUsed_kept, modFab_kept, kept_mk, foldl_kept, ResKeeps, Run.Keeps]
theorem sendCtx_kept (s : State) (a0) (a1) (a2) (a3) : kept (sendCtx s a0 a1 a2 a3).1 = kept s := by
  unfold sendCtx
  grind [askBind_kept, enqueue_kept, markUsed_kept, modFab_kept, useSession_kept, kept, Run.Keeps]
theorem sendReply_kept (s : State) (a0) : kept (sendReply s a0) = kept s := by
  unfold sendReply
  grind [enqueue_kept, useSession_kept, kept, Run.Keeps]
theorem takeSeq_kept (s : State) (a0) (a1) (a2) : kept (takeSeq s a0 a1 a2).1 = kept s := by
  unfold takeSeq
  repeat' split
  all_goals simp only [modSession_kept, kept_mk, foldl_kept, ResKeeps, Run.Keeps]
theorem frameSend_kept (s : State) (a0) (a1) : kept (frameSend s a0 a1) = kept s := by
  unfold frameSend
  grind [emit_kept, modFab_kept, modPort_kept, routeFault_kept, takeSeq_kept, kept, Run.Keeps]
theorem execFrameSend_kept (a0) (a1) (s : State) : ResKeeps (kept s) (execFrameSend a0 a1 s) := by
  unfold execFrameSend
  simp only [frameSend_kept, kept_mk, foldl_kept, ResKeeps, Run.Keeps]
theorem sendAck_kept (s : State) (a0) (a1) : kept (sendAck s a0 a1) = kept s := by
  unfold sendAck
  repeat' split
  all_goals simp only [enqueue_kept, modSession_kept, kept_mk, foldl_kept, ResKeeps, Run.Keeps]
theorem sendNak_kept (s : State) (a0) (a1) : kept (sendNak s a0 a1) = kept s := by
  unfold sendNak
  grind [enqueue_kept, modSession_kept, kept, Run.Keeps]
theorem completeFrame_kept (s : State) (a0) : kept (completeFrame s a0) = kept s := by
  unfold completeFrame
  grind [modSession_kept, sendAck_kept, kept, Run.Keeps]
theorem acceptFrame_kept (s : State) (a0) : kept (acceptFrame s a0).1 = kept s := by
  unfold acceptFrame
  dsimp only
  (repeat' split) <;> simp only [modSession_kept, sendAck_kept, sendNak_kept, kept_mk, foldl_kept, ResKeeps, Run.Keeps]
theorem takeFrame_kept (s : State) (a0) (a1) : ∀ t, takeFrame s a0 a1 = some t → kept t.1 = kept s := by
  unfold takeFrame
  repeat' (first | simp only [freeWords_kept, modPort_kept, kept_mk, foldl_kept, ResKeeps, Run.Keeps] | (refine (foldl_kept ?_ _ _).trans ?_; intro _ _; try dsimp only) | refine fromHost_keeps ?_ | split)
  all_goals grind [freeWords_kept, modPort_kept, kept, Run.Keeps]
theorem countAccepted_kept (s : State) (a0) : kept (countAccepted s a0) = kept s := by
  unfold countAccepted
  repeat' split
  all_goals simp only [modCtx_kept, kept_mk, foldl_kept, ResKeeps, Run.Keeps]
theorem recvSeq_kept (s : State) (p) (typ) (eff : State → Frame → State) (he : ∀ s f, kept (eff s f) = kept s) :
    kept (recvSeq s p typ eff) = kept s := by
  unfold recvSeq
  split
  · rfl
  · rename_i s' f h
    have h1 := takeFrame_kept s p typ _ h
    have h2 := acceptFrame_kept s' f
    split <;> rename_i h3 <;> rw [h3] at h2
    · rw [completeFrame_kept, he, countAccepted_kept, h2]; exact h1
    · rw [h2]; exact h1
theorem recvCtl_kept (s : State) (a0) (a1) (eff : State → Frame → State) (he : ∀ s f, kept (eff s f) = kept s) :
    kept (recvCtl s a0 a1 eff) = kept s := by
  unfold recvCtl
  split
  · rfl
  · rename_i h
    rw [he]; exact takeFrame_kept _ _ _ _ h
theorem sendError_kept (s : State) (a0) (a1) (a2) : kept (sendError s a0 a1 a2) = kept s := by
  unfold sendError
  simp only [sendReply_kept, kept_mk, foldl_kept, ResKeeps, Run.Keeps]
theorem verifyRx_kept (s : State) (a0) : kept (verifyRx s a0).1 = kept s := by
  unfold verifyRx
  grind [logRec_kept, raiseCrate_kept, kept, Run.Keeps]

end Sys2Proof.Machine
end

