-- ==== Sys2Proof/Laws/KeptColl.lean ====
section
/-!
SUPPORT. What the operations of Machine/Coll.lean keep.
-/
set_option linter.unusedSimpArgs false
namespace Sys2Proof.Machine

theorem modGroup_kept (s : State) (a0) (a1) : kept (modGroup s a0 a1) = kept s := by
  unfold modGroup
  grind [kept, Run.Keeps]
theorem modMap_kept (s : State) (a0) (a1) : kept (modMap s a0 a1) = kept s := by
  unfold modMap
  grind [kept, Run.Keeps]
theorem readVerify_kept (s : State) (a0) (a1) : kept (readVerify s a0 a1).1 = kept s := by
  unfold readVerify
  grind [countCheckFail_kept, raiseCrate_kept, reportBad_kept, setMem_kept, kept, Run.Keeps]
theorem readVerifyN_kept (a0) (a1) (a2) (s : State) : kept (readVerifyN a0 a1 a2 s).1 = kept s := by
  induction a1 generalizing a2 s with
  | zero => rfl
  | succ n ih => unfold readVerifyN; grind [readVerify_kept]
theorem mapRefuse_kept (s : State) (a0) (a1) (a2) : kept (mapRefuse s a0 a1 a2) = kept s := by
  unfold mapRefuse
  simp only [modMap_kept, refuseCmd_kept, kept_mk, foldl_kept, ResKeeps, Run.Keeps]
theorem phaseMapLoad_kept (s : State) (a0) : kept (phaseMapLoad s a0) = kept s := by
  unfold phaseMapLoad
  dsimp only
  (repeat' split) <;> simp only [endCmd_kept, mapRefuse_kept, modMap_kept, readVerifyN_kept, readVerify_kept, kept_mk, foldl_kept, ResKeeps, Run.Keeps]
theorem execPhaseMapLoad_kept (a0) (s : State) : ResKeeps (kept s) (execPhaseMapLoad a0 s) := by
  unfold execPhaseMapLoad
  simp only [phaseMapLoad_kept, kept_mk, foldl_kept, ResKeeps, Run.Keeps]
theorem bindMembers_kept (s : State) (a0) (a1) (a2) : kept (bindMembers s a0 a1 a2) = kept s := by
  unfold bindMembers
  repeat' (first | simp only [askBind_kept, useSession_kept, kept_mk, foldl_kept, ResKeeps, Run.Keeps] | (refine (foldl_kept ?_ _ _).trans ?_; intro _ _; try dsimp only) | refine fromHost_keeps ?_ | split)
  all_goals grind [askBind_kept, useSession_kept, kept, Run.Keeps]
theorem phaseSwitch_kept (s : State) (a0) : kept (phaseSwitch s a0) = kept s := by
  unfold phaseSwitch
  repeat' (first | simp only [bindMembers_kept, endCmd_kept, mapRefuse_kept, modMap_kept, kept_mk, foldl_kept, ResKeeps, Run.Keeps] | (refine (foldl_kept ?_ _ _).trans ?_; intro _ _; try dsimp only) | refine fromHost_keeps ?_ | split)
  all_goals grind [bindMembers_kept, endCmd_kept, mapRefuse_kept, modMap_kept, kept, Run.Keeps]
theorem execPhaseSwitch_kept (a0) (s : State) : ResKeeps (kept s) (execPhaseSwitch a0 s) := by
  unfold execPhaseSwitch
  simp only [phaseSwitch_kept, kept_mk, foldl_kept, ResKeeps, Run.Keeps]
theorem writeGrpFields_kept (s : State) (a0) (a1) : kept (writeGrpFields s a0 a1) = kept s := by
  unfold writeGrpFields
  simp only [modGroup_kept, kept_mk, foldl_kept, ResKeeps, Run.Keeps]
theorem grpEnable_kept (s : State) (a0) (a1) : kept (grpEnable s a0 a1) = kept s := by
  unfold grpEnable
  grind [bindMembers_kept, modGroup_kept, writeGrpFields_kept, kept, Run.Keeps, FabRun.Keeps]
theorem execGrpEnable_kept (a0) (a1) (s : State) : ResKeeps (kept s) (execGrpEnable a0 a1 s) := by
  unfold execGrpEnable
  repeat' (first | simp only [grpEnable_kept, kept_mk, foldl_kept, ResKeeps, Run.Keeps] | (refine (foldl_kept ?_ _ _).trans ?_; intro _ _; try dsimp only) | refine fromHost_keeps ?_ | split)
  all_goals grind [grpEnable_kept, kept, Run.Keeps, FabRun.Keeps]
theorem disableGroup_kept (s : State) (a0) : kept (disableGroup s a0) = kept s := by
  unfold disableGroup
  simp only [modGroup_kept, kept_mk, foldl_kept, ResKeeps, Run.Keeps]
theorem grpDisable_kept (s : State) (a0) (a1) : kept (grpDisable s a0 a1) = kept s := by
  unfold grpDisable
  repeat' split
  all_goals simp only [disableGroup_kept, modGroup_kept, writeGrpFields_kept, kept_mk, foldl_kept, ResKeeps, Run.Keeps]
theorem execGrpDisable_kept (a0) (a1) (s : State) : ResKeeps (kept s) (execGrpDisable a0 a1 s) := by
  unfold execGrpDisable
  repeat' (first | simp only [grpDisable_kept, kept_mk, foldl_kept, ResKeeps, Run.Keeps] | (refine (foldl_kept ?_ _ _).trans ?_; intro _ _; try dsimp only) | refine fromHost_keeps ?_ | split)
  all_goals grind [grpDisable_kept, kept, Run.Keeps, FabRun.Keeps]
theorem writeSubst_kept (s : State) (a0) (a1) : kept (writeSubst s a0 a1) = kept s := by
  unfold writeSubst
  grind [kept, Run.Keeps]
theorem execGrpSubstEnable_kept (a0) (a1) (s : State) : ResKeeps (kept s) (execGrpSubstEnable a0 a1 s) := by
  unfold execGrpSubstEnable
  repeat' (first | simp only [writeSubst_kept, kept_mk, foldl_kept, ResKeeps, Run.Keeps] | (refine (foldl_kept ?_ _ _).trans ?_; intro _ _; try dsimp only) | refine fromHost_keeps ?_ | split)
  all_goals grind [writeSubst_kept, kept, Run.Keeps, FabRun.Keeps]
theorem sendBells_kept (s : State) (a0) (a1) : kept (sendBells s a0 a1) = kept s := by
  unfold sendBells
  repeat' (first | simp only [enqueue_kept, kept_mk, foldl_kept, ResKeeps, Run.Keeps] | (refine (foldl_kept ?_ _ _).trans ?_; intro _ _; try dsimp only) | refine fromHost_keeps ?_ | split)
  all_goals grind [enqueue_kept, kept, Run.Keeps]
theorem ringBell_kept (s : State) (a0) (a1) : kept (ringBell s a0 a1) = kept s := by
  unfold ringBell
  simp only [modGroup_kept, sendBells_kept, kept_mk, foldl_kept, ResKeeps, Run.Keeps]
theorem dropRun_kept (s : State) (a0) (a1) (a2) : kept (dropRun s a0 a1 a2) = kept s := by
  unfold dropRun
  simp only [modFab_kept, modGroup_kept, kept_mk, foldl_kept, ResKeeps, Run.Keeps]
theorem collFail_kept (s : State) (a0) (a1) : kept (collFail s a0 a1) = kept s := by
  unfold collFail
  repeat' split
  all_goals simp only [dropRun_kept, endCmd_kept, ringBell_kept, kept_mk, foldl_kept, ResKeeps, Run.Keeps]
theorem collFailNaming_kept (s : State) (a0) (a1) (a2) : kept (collFailNaming s a0 a1 a2) = kept s := by
  unfold collFailNaming
  repeat' split
  all_goals simp only [collFail_kept, logRec_kept, raiseColl_kept, kept_mk, foldl_kept, ResKeeps, Run.Keeps]
theorem modRun_kept (s : State) (a0) (a1) : kept (modRun s a0 a1) = kept s := by
  unfold modRun
  simp only [modGroup_kept, kept_mk, foldl_kept, ResKeeps, Run.Keeps]
theorem sendColl_kept (s : State) (a0) (a1) (a2) (a3) : kept (sendColl s a0 a1 a2 a3) = kept s := by
  unfold sendColl
  grind [collFail_kept, sendCtx_kept, kept, Run.Keeps]
theorem readOwn_kept (s : State) (a0) (a1) (a2) : kept (readOwn s a0 a1 a2).1 = kept s := by
  unfold readOwn
  grind [moveRead_kept, readVerify_kept, kept, Run.Keeps]
theorem readOwns_kept (a0) (a1) (a2) (s : State) : kept (readOwns a0 a1 a2 s).1 = kept s := by
  induction a2 generalizing s with
  | nil => rfl
  | cons j t ih => unfold readOwns; repeat' split
                   all_goals grind [readOwn_kept]
theorem beginChunk_kept (s : State) (a0) (a1) : kept (beginChunk s a0 a1) = kept s := by
  unfold beginChunk
  repeat' (first | simp only [collFail_kept, modRun_kept, readOwns_kept, sendColl_kept, kept_mk, foldl_kept, ResKeeps, Run.Keeps] | (refine (foldl_kept ?_ _ _).trans ?_; intro _ _; try dsimp only) | refine fromHost_keeps ?_ | split)
  all_goals grind [collFail_kept, modRun_kept, readOwns_kept, sendColl_kept, kept, Run.Keeps]
theorem sendContribution_kept (s : State) (a0) (a1) (a2) (a3) : kept (sendContribution s a0 a1 a2 a3) = kept s := by
  unfold sendContribution
  repeat' (first | simp only [modRun_kept, sendColl_kept, kept_mk, foldl_kept, ResKeeps, Run.Keeps] | (refine (foldl_kept ?_ _ _).trans ?_; intro _ _; try dsimp only) | refine fromHost_keeps ?_ | split)
  all_goals grind [modRun_kept, sendColl_kept, kept, Run.Keeps]
theorem sendReady_kept (s : State) (a0) (a1) : kept (sendReady s a0 a1) = kept s := by
  unfold sendReady
  repeat' (first | simp only [sendContribution_kept, kept_mk, foldl_kept, ResKeeps, Run.Keeps] | (refine (foldl_kept ?_ _ _).trans ?_; intro _ _; try dsimp only) | refine fromHost_keeps ?_ | split)
  all_goals grind [sendContribution_kept, kept, Run.Keeps]
theorem writeResult_kept (s : State) (a0) (a1) (a2) (a3) : kept (writeResult s a0 a1 a2 a3) = kept s := by
  unfold writeResult
  grind [collFail_kept, modRun_kept, putCrate_kept, kept, Run.Keeps]
theorem finishChunk_kept (s : State) (a0) (a1) : kept (finishChunk s a0 a1) = kept s := by
  unfold finishChunk
  repeat' (first | simp only [modRun_kept, writeResult_kept, kept_mk, foldl_kept, ResKeeps, Run.Keeps] | (refine (foldl_kept ?_ _ _).trans ?_; intro _ _; try dsimp only) | refine fromHost_keeps ?_ | split)
  all_goals grind [modRun_kept, writeResult_kept, kept, Run.Keeps]
theorem pumpOnce_kept (s : State) (a0) : kept (pumpOnce s a0) = kept s := by
  unfold pumpOnce
  repeat' (first | simp only [beginChunk_kept, finishChunk_kept, sendReady_kept, kept_mk, foldl_kept, ResKeeps, Run.Keeps] | (refine (foldl_kept ?_ _ _).trans ?_; intro _ _; try dsimp only) | refine fromHost_keeps ?_ | split)
  all_goals grind [beginChunk_kept, finishChunk_kept, sendReady_kept, kept, Run.Keeps]
theorem pump_kept (a0) (s : State) (a1) : kept (pump a0 s a1) = kept s := by
  induction a0 generalizing s with
  | zero => rfl
  | succ n ih => rw [pump, ih, pumpOnce_kept]
theorem pumpAll_kept (s : State) (a0) : kept (pumpAll s a0) = kept s := by
  unfold pumpAll
  repeat' split
  all_goals simp only [pump_kept, kept_mk, foldl_kept, ResKeeps, Run.Keeps]
theorem collBegin_kept (s : State) (a0) (a1) : kept (collBegin s a0 a1) = kept s := by
  unfold collBegin
  dsimp only
  (repeat' split) <;> simp only [collFail_kept, endCmd_kept, modGroup_kept, pumpAll_kept, refuseCmd_kept, kept_mk, foldl_kept, ResKeeps, Run.Keeps]
theorem execAllReduce_kept (a0) (s : State) : ResKeeps (kept s) (execAllReduce a0 s) := by
  unfold execAllReduce
  simp only [collBegin_kept, kept_mk, foldl_kept, ResKeeps, Run.Keeps]
theorem execReduceScatter_kept (a0) (s : State) : ResKeeps (kept s) (execReduceScatter a0 s) := by
  unfold execReduceScatter
  simp only [collBegin_kept, kept_mk, foldl_kept, ResKeeps, Run.Keeps]
theorem execAllGather_kept (a0) (s : State) : ResKeeps (kept s) (execAllGather a0 s) := by
  unfold execAllGather
  simp only [collBegin_kept, kept_mk, foldl_kept, ResKeeps, Run.Keeps]
theorem execBroadcast_kept (a0) (s : State) : ResKeeps (kept s) (execBroadcast a0 s) := by
  unfold execBroadcast
  simp only [collBegin_kept, kept_mk, foldl_kept, ResKeeps, Run.Keeps]
theorem takeGrant_kept (s : State) (a0) (a1) : kept (takeGrant s a0 a1) = kept s := by
  unfold takeGrant
  grind [collFail_kept, modGroup_kept, pumpAll_kept, kept, Run.Keeps]
theorem verifyColl_kept (s : State) (a0) (a1) (a2) (a3) : kept (verifyColl s a0 a1 a2 a3).1 = kept s := by
  unfold verifyColl
  grind [raiseCrate_kept, kept, Run.Keeps]
theorem takeData_kept (s : State) (a0) (a1) : kept (takeData s a0 a1) = kept s := by
  unfold takeData
  grind [collFailNaming_kept, collFail_kept, modRun_kept, pumpAll_kept, verifyColl_kept, kept, Run.Keeps]
theorem collEffect_kept (s : State) (a0) : kept (collEffect s a0) = kept s := by
  unfold collEffect
  repeat' split
  all_goals simp only [sendError_kept, takeData_kept, takeGrant_kept, kept_mk, foldl_kept, ResKeeps, Run.Keeps]
theorem recvColl_kept (s : State) (a0) (a1) : kept (recvColl s a0 a1) = kept s := by
  unfold recvColl
  grind [collEffect_kept, recvSeq_kept, kept, Run.Keeps]
theorem execCollGrant_kept (a0) (s : State) : ResKeeps (kept s) (execCollGrant a0 s) := by
  unfold execCollGrant
  simp only [recvColl_kept, kept_mk, foldl_kept, ResKeeps, Run.Keeps]
theorem execCollData_kept (a0) (s : State) : ResKeeps (kept s) (execCollData a0 s) := by
  unfold execCollData
  simp only [recvColl_kept, kept_mk, foldl_kept, ResKeeps, Run.Keeps]
theorem modRec_kept (s : State) (a0) (a1) : kept (modRec s a0 a1) = kept s := by
  unfold modRec
  grind [kept, Run.Keeps]
theorem appendDigest_kept (s : State) (a0) (a1) (a2) : kept (appendDigest s a0 a1 a2) = kept s := by
  unfold appendDigest
  grind [chargeStep_kept, modRec_kept, setMem_kept, kept, Run.Keeps]
theorem collectiveComplete_kept (s : State) (a0) : kept (collectiveComplete s a0) = kept s := by
  unfold collectiveComplete
  repeat' split
  all_goals simp only [appendDigest_kept, endCmd_kept, modGroup_kept, kept_mk, foldl_kept, ResKeeps, Run.Keeps]
theorem execCollectiveComplete_kept (a0) (s : State) : ResKeeps (kept s) (execCollectiveComplete a0 s) := by
  unfold execCollectiveComplete
  simp only [collectiveComplete_kept, kept_mk, foldl_kept, ResKeeps, Run.Keeps]
theorem collectiveSilence_kept (s : State) (a0) (a1) : kept (collectiveSilence s a0 a1) = kept s := by
  unfold collectiveSilence
  grind [collFailNaming_kept, kept, Run.Keeps]
theorem execCollectiveSilence_kept (a0) (a1) (s : State) : ResKeeps (kept s) (execCollectiveSilence a0 a1 s) := by
  unfold execCollectiveSilence
  simp only [collectiveSilence_kept, kept_mk, foldl_kept, ResKeeps, Run.Keeps]
theorem bellEffect_rest_kept (s : State) (a0) (a1) (a2) (a3) (a4) : kept (bellEffect.rest s a0 a1 a2 a3 a4) = kept s := by
  unfold bellEffect.rest
  dsimp only
  (repeat' split) <;> grind [modGroup_kept, raiseColl_kept, ringBell_kept, kept, Run.Keeps]
theorem bellEffect_kept (s : State) (a0) : kept (bellEffect s a0) = kept s := by
  unfold bellEffect
  grind [bellEffect_rest_kept, dropRun_kept, endCmd_kept, ringBell_kept, kept, Run.Keeps]
theorem execBell_kept (a0) (s : State) : ResKeeps (kept s) (execBell a0 s) := by
  unfold execBell
  repeat' (first | simp only [bellEffect_kept, recvCtl_kept, kept_mk, foldl_kept, ResKeeps, Run.Keeps] | (refine (foldl_kept ?_ _ _).trans ?_; intro _ _; try dsimp only) | refine fromHost_keeps ?_ | split)
  all_goals grind [bellEffect_kept, recvCtl_kept, kept, Run.Keeps]
theorem bellResend_kept (s : State) (a0) : kept (bellResend s a0) = kept s := by
  unfold bellResend
  repeat' split
  all_goals simp only [modGroup_kept, sendBells_kept, kept_mk, foldl_kept, ResKeeps, Run.Keeps]
theorem execBellResend_kept (a0) (s : State) : ResKeeps (kept s) (execBellResend a0 s) := by
  unfold execBellResend
  simp only [bellResend_kept, kept_mk, foldl_kept, ResKeeps, Run.Keeps]
theorem groupBackpressure_kept (s : State) (a0) (a1) : kept (groupBackpressure s a0 a1) = kept s := by
  unfold groupBackpressure
  grind [modGroup_kept, raiseUnit_kept, kept, Run.Keeps]
theorem execGroupBackpressure_kept (a0) (a1) (s : State) : ResKeeps (kept s) (execGroupBackpressure a0 a1 s) := by
  unfold execGroupBackpressure
  simp only [groupBackpressure_kept, kept_mk, foldl_kept, ResKeeps, Run.Keeps]

end Sys2Proof.Machine
end

