-- ==== Sys2Proof/Laws/KeptPorter.lean ====
section
/-!
SUPPORT. What the operations of Machine/Porter.lean keep.
-/
set_option linter.unusedSimpArgs false
namespace Sys2Proof.Machine

theorem makeRemote_kept (s : State) (a0) (a1) (a2) : kept (makeRemote s a0 a1 a2) = kept s := by
  unfold makeRemote
  repeat' split
  all_goals simp only [scheduleBroken_kept, setCore_kept, kept_mk, foldl_kept, ResKeeps, Run.Keeps]
theorem makeTally_kept (s : State) (a0) (a1) (a2) : kept (makeTally s a0 a1 a2) = kept s := by
  unfold makeTally
  repeat' split
  all_goals simp only [addTallyAt_kept, kept_mk, foldl_kept, ResKeeps, Run.Keeps]
theorem accCrate_kept (s : State) (a0) (a1) (a2) (a3) : kept (accCrate s a0 a1 a2 a3).1 = kept s := by
  unfold accCrate
  grind [consume_kept, coreLineageNext_kept, putCrate_kept, kept, Run.Keeps]
theorem moveSlot_kept (a0) (a1) (a2) (a3) (a4) (a5) (s : State) :
    (∀ t, moveSlot a0 a1 a2 a3 a4 a5 s = .ok t → kept t = kept s) ∧ (∀ r, moveSlot a0 a1 a2 a3 a4 a5 s = .error r → r.Keeps (kept s)) := by
  induction a3 generalizing a4 a5 s with
  | zero => exact ⟨fun t h => (by cases h; rfl), fun r h => (by cases h)⟩
  | succ n ih =>
    constructor <;> intro t h <;> unfold moveSlot at h <;> (try dsimp only at h) <;> (repeat' split at h) <;>
      grind [accCrate_kept, moveCrate_kept, kept, Run.Keeps]
theorem moveSlot_ok (a0) (a1) (a2) (a3) (a4) (a5) (s : State) : ∀ t, moveSlot a0 a1 a2 a3 a4 a5 s = .ok t → kept t = kept s := (moveSlot_kept a0 a1 a2 a3 a4 a5 s).1
theorem moveSlot_err (a0) (a1) (a2) (a3) (a4) (a5) (s : State) : ∀ r, moveSlot a0 a1 a2 a3 a4 a5 s = .error r → r.Keeps (kept s) := (moveSlot_kept a0 a1 a2 a3 a4 a5 s).2
theorem moveSlots_kept (a0) (a1) (a2) (a3) (a4) (a5) (a6) (s : State) :
    (∀ t, moveSlots a0 a1 a2 a3 a4 a5 a6 s = .ok t → kept t = kept s) ∧
      (∀ r, moveSlots a0 a1 a2 a3 a4 a5 a6 s = .error r → r.1.Keeps (kept s)) := by
  induction a5 generalizing a6 s with
  | zero => exact ⟨fun t h => (by cases h; rfl), fun r h => (by cases h)⟩
  | succ n ih =>
    constructor <;> intro t h <;> unfold moveSlots at h <;> (try dsimp only at h) <;> (repeat' split at h) <;>
      grind [→ implicitWait_kept, → moveSlot_ok, → moveSlot_err, → implicitPost_ok, → implicitPost_err, → implicitRelease_ok, → implicitRelease_err, kept, Run.Keeps]
theorem moveSlots_ok (a0) (a1) (a2) (a3) (a4) (a5) (a6) (s : State) : ∀ t, moveSlots a0 a1 a2 a3 a4 a5 a6 s = .ok t → kept t = kept s := (moveSlots_kept a0 a1 a2 a3 a4 a5 a6 s).1
theorem moveSlots_err (a0) (a1) (a2) (a3) (a4) (a5) (a6) (s : State) : ∀ r, moveSlots a0 a1 a2 a3 a4 a5 a6 s = .error r → r.1.Keeps (kept s) := (moveSlots_kept a0 a1 a2 a3 a4 a5 a6 s).2
theorem addTransfer_kept (s : State) (a0) (a1) (a2) (a3) : kept (addTransfer s a0 a1 a2 a3) = kept s := by
  unfold addTransfer
  simp only [modCore_kept, kept_mk, foldl_kept, ResKeeps, Run.Keeps]
theorem bodyMove_kept (s : State) (a0) (a1) : (bodyMove s a0 a1).Keeps (kept s) := by
  unfold bodyMove
  grind [addTransfer_kept, makeRemote_kept, makeTally_kept, → moveSlots_ok, → moveSlots_err, kept, Run.Keeps]
theorem bodyPmove_kept (s : State) (a0) (a1) (a2) : (bodyPmove s a0 a1 a2).Keeps (kept s) := by
  unfold bodyPmove
  grind [bodyMove_kept, kept, Run.Keeps]
theorem bodyPacc_kept (s : State) (a0) (a1) (a2) : (bodyPacc s a0 a1 a2).Keeps (kept s) := by
  unfold bodyPacc
  grind [bodyMove_kept, kept, Run.Keeps]
theorem execPmove_kept (a0) (a1) (s : State) : ResKeeps (kept s) (execPmove a0 a1 s) := by
  unfold execPmove
  repeat' (first | simp only [bodyPmove_kept, issue_kept, kept_mk, foldl_kept, ResKeeps, Run.Keeps] | (refine (foldl_kept ?_ _ _).trans ?_; intro _ _; try dsimp only) | refine fromHost_keeps ?_ | split)
  all_goals grind [bodyPmove_kept, issue_kept, kept, Run.Keeps]
theorem execPacc_kept (a0) (a1) (s : State) : ResKeeps (kept s) (execPacc a0 a1 s) := by
  unfold execPacc
  repeat' (first | simp only [bodyPacc_kept, issue_kept, kept_mk, foldl_kept, ResKeeps, Run.Keeps] | (refine (foldl_kept ?_ _ _).trans ?_; intro _ _; try dsimp only) | refine fromHost_keeps ?_ | split)
  all_goals grind [bodyPacc_kept, issue_kept, kept, Run.Keeps]
theorem idxCrates_kept (a0) (a1) (a2) (a3) (a4) (a5) (a6) (a7) (a8) (s : State) :
    (∀ t, idxCrates a0 a1 a2 a3 a4 a5 a6 a7 a8 s = .ok t → kept t = kept s) ∧
      (∀ r, idxCrates a0 a1 a2 a3 a4 a5 a6 a7 a8 s = .error r → r.1.Keeps (kept s)) := by
  induction a7 generalizing a8 s with
  | zero => exact ⟨fun t h => (by cases h; rfl), fun r h => (by cases h)⟩
  | succ n ih =>
    constructor <;> intro t h <;> unfold idxCrates at h <;> (try dsimp only at h) <;> (repeat' split at h) <;>
      grind [→ implicitWait_kept, moveCrate_kept, → implicitPost_ok, → implicitPost_err, → implicitRelease_ok, → implicitRelease_err, kept, Run.Keeps]
theorem idxCrates_ok (a0) (a1) (a2) (a3) (a4) (a5) (a6) (a7) (a8) (s : State) : ∀ t, idxCrates a0 a1 a2 a3 a4 a5 a6 a7 a8 s = .ok t → kept t = kept s := (idxCrates_kept a0 a1 a2 a3 a4 a5 a6 a7 a8 s).1
theorem idxCrates_err (a0) (a1) (a2) (a3) (a4) (a5) (a6) (a7) (a8) (s : State) : ∀ r, idxCrates a0 a1 a2 a3 a4 a5 a6 a7 a8 s = .error r → r.1.Keeps (kept s) := (idxCrates_kept a0 a1 a2 a3 a4 a5 a6 a7 a8 s).2
theorem gatherSectors_kept (a0) (a1) (a2) (a3) (a4) (a5) (a6) (s : State) :
    (∀ t, gatherSectors a0 a1 a2 a3 a4 a5 a6 s = .ok t → kept t = kept s) ∧
      (∀ r, gatherSectors a0 a1 a2 a3 a4 a5 a6 s = .error r → r.1.Keeps (kept s)) := by
  induction a5 generalizing a6 s with
  | zero => exact ⟨fun t h => (by cases h; rfl), fun r h => (by cases h)⟩
  | succ n ih =>
    constructor <;> intro t h <;> unfold gatherSectors at h <;> (try dsimp only at h) <;> (repeat' split at h) <;>
      grind [coreLineageNext_kept, putCrate_kept, kept, Run.Keeps]
theorem gatherSectors_ok (a0) (a1) (a2) (a3) (a4) (a5) (a6) (s : State) : ∀ t, gatherSectors a0 a1 a2 a3 a4 a5 a6 s = .ok t → kept t = kept s := (gatherSectors_kept a0 a1 a2 a3 a4 a5 a6 s).1
theorem gatherSectors_err (a0) (a1) (a2) (a3) (a4) (a5) (a6) (s : State) : ∀ r, gatherSectors a0 a1 a2 a3 a4 a5 a6 s = .error r → r.1.Keeps (kept s) := (gatherSectors_kept a0 a1 a2 a3 a4 a5 a6 s).2
theorem idxRun_kept (a0) (a1) (a2) (a3) (a4) (a5) (s : State) : (∀ t, idxRun a0 a1 a2 a3 a4 a5 s = .ok t → kept t = kept s) ∧ (∀ r, idxRun a0 a1 a2 a3 a4 a5 s = .error r → r.1.Keeps (kept s)) := by
  unfold idxRun
  repeat' (first | simp only [gatherSectors_ok, gatherSectors_err, idxCrates_ok, idxCrates_err, implicitPost_ok, implicitPost_err, kept_mk, foldl_kept, ResKeeps, Run.Keeps] | (refine (foldl_kept ?_ _ _).trans ?_; intro _ _; try dsimp only) | refine fromHost_keeps ?_ | split)
  all_goals grind [→ gatherSectors_ok, → gatherSectors_err, → idxCrates_ok, → idxCrates_err, → implicitPost_ok, → implicitPost_err, → implicitWait_kept, kept, Run.Keeps]
theorem idxRun_ok (a0) (a1) (a2) (a3) (a4) (a5) (s : State) : ∀ t, idxRun a0 a1 a2 a3 a4 a5 s = .ok t → kept t = kept s := (idxRun_kept a0 a1 a2 a3 a4 a5 s).1
theorem idxRun_err (a0) (a1) (a2) (a3) (a4) (a5) (s : State) : ∀ r, idxRun a0 a1 a2 a3 a4 a5 s = .error r → r.1.Keeps (kept s) := (idxRun_kept a0 a1 a2 a3 a4 a5 s).2
theorem bodyIdx_kept (s : State) (a0) (a1) : (bodyIdx s a0 a1).Keeps (kept s) := by
  unfold bodyIdx
  grind [addTransfer_kept, consume_kept, → idxRun_ok, → idxRun_err, → implicitWait_kept, kept, Run.Keeps]
theorem bodyPgather_kept (s : State) (a0) (a1) (a2) : (bodyPgather s a0 a1 a2).Keeps (kept s) := by
  unfold bodyPgather
  grind [bodyIdx_kept, kept, Run.Keeps]
theorem bodyPscatter_kept (s : State) (a0) (a1) (a2) : (bodyPscatter s a0 a1 a2).Keeps (kept s) := by
  unfold bodyPscatter
  grind [bodyIdx_kept, kept, Run.Keeps]
theorem execPgather_kept (a0) (a1) (s : State) : ResKeeps (kept s) (execPgather a0 a1 s) := by
  unfold execPgather
  repeat' (first | simp only [bodyPgather_kept, issue_kept, kept_mk, foldl_kept, ResKeeps, Run.Keeps] | (refine (foldl_kept ?_ _ _).trans ?_; intro _ _; try dsimp only) | refine fromHost_keeps ?_ | split)
  all_goals grind [bodyPgather_kept, issue_kept, kept, Run.Keeps]
theorem execPscatter_kept (a0) (a1) (s : State) : ResKeeps (kept s) (execPscatter a0 a1 s) := by
  unfold execPscatter
  repeat' (first | simp only [bodyPscatter_kept, issue_kept, kept_mk, foldl_kept, ResKeeps, Run.Keeps] | (refine (foldl_kept ?_ _ _).trans ?_; intro _ _; try dsimp only) | refine fromHost_keeps ?_ | split)
  all_goals grind [bodyPscatter_kept, issue_kept, kept, Run.Keeps]
theorem dropTransfer_kept (s : State) (a0) (a1) : kept (dropTransfer s a0 a1) = kept s := by
  unfold dropTransfer
  simp only [modCore_kept, kept_mk, foldl_kept, ResKeeps, Run.Keeps]
theorem modTransfer_kept (s : State) (a0) (a1) (a2) : kept (modTransfer s a0 a1 a2) = kept s := by
  unfold modTransfer
  simp only [modCore_kept, kept_mk, foldl_kept, ResKeeps, Run.Keeps]
theorem continueTransfer_kept (s : State) (a0) (a1) : kept (continueTransfer s a0 a1).1 = kept s := by
  unfold continueTransfer
  grind [→ idxRun_ok, → idxRun_err, modTransfer_kept, → moveSlots_ok, → moveSlots_err, scheduleBroken_kept, stationFault_kept, kept, Run.Keeps]
theorem completeTransfer_kept (s : State) (a0) (a1) : kept (completeTransfer s a0 a1) = kept s := by
  unfold completeTransfer
  grind [dropTransfer_kept, → implicitRelease_ok, → implicitRelease_err, makeRemote_kept, makeTally_kept, signals_kept, kept, Run.Keeps]
theorem transferComplete_kept (s : State) (a0) (a1) (a2) : kept (transferComplete s a0 a1 a2) = kept s := by
  unfold transferComplete
  grind [applyMarks_kept, completeTransfer_kept, continueTransfer_kept, dropTransfer_kept, kept, Run.Keeps]

end Sys2Proof.Machine
end

