-- ==== Sys2Proof/Laws/KeptLaunch.lean ====
section
/-!
SUPPORT. What the operations of Machine/Launch.lean keep.
-/
set_option linter.unusedSimpArgs false
namespace Sys2Proof.Machine

theorem launchCmd_kept (s : State) (a0) : kept (launchCmd s a0) = kept s := by
  unfold launchCmd
  repeat' (first | simp only [endCmd_kept, modCmd_kept, modCore_kept, setLaunch_kept, kept_mk, foldl_kept, ResKeeps, Run.Keeps] | (refine (foldl_kept ?_ _ _).trans ?_; intro _ _; try dsimp only) | refine fromHost_keeps ?_ | split)
  all_goals grind [endCmd_kept, modCmd_kept, modCore_kept, setLaunch_kept, kept, Run.Keeps]
theorem execLaunch_kept (a0) (s : State) : ResKeeps (kept s) (execLaunch a0 s) := by
  unfold execLaunch
  simp only [launchCmd_kept, kept_mk, foldl_kept, ResKeeps, Run.Keeps]
theorem launchEdge_kept (s : State) (a0) : kept (launchEdge s a0) = kept s := by
  unfold launchEdge
  repeat' (first | simp only [modCore_kept, setLaunch_kept, kept_mk, foldl_kept, ResKeeps, Run.Keeps] | (refine (foldl_kept ?_ _ _).trans ?_; intro _ _; try dsimp only) | refine fromHost_keeps ?_ | split)
  all_goals grind [modCore_kept, setLaunch_kept, kept, Run.Keeps]
theorem execLaunchEdge_kept (a0) (s : State) : ResKeeps (kept s) (execLaunchEdge a0 s) := by
  unfold execLaunchEdge
  simp only [launchEdge_kept, kept_mk, foldl_kept, ResKeeps, Run.Keeps]
theorem fwWrite_kept (s : State) (a0) (a1) : kept (fwWrite s a0 a1) = kept s := by
  unfold fwWrite
  repeat' (first | simp only [modMem_kept, putCrate_kept, kept_mk, foldl_kept, ResKeeps, Run.Keeps] | (refine (foldl_kept ?_ _ _).trans ?_; intro _ _; try dsimp only) | refine fromHost_keeps ?_ | split)
  all_goals grind [modMem_kept, putCrate_kept, kept, Run.Keeps]
theorem freeCores_kept (s : State) (a0) (a1) : kept (freeCores s a0 a1) = kept s := by
  unfold freeCores
  repeat' (first | simp only [modCore_kept, kept_mk, foldl_kept, ResKeeps, Run.Keeps] | (refine (foldl_kept ?_ _ _).trans ?_; intro _ _; try dsimp only) | refine fromHost_keeps ?_ | split)
  all_goals grind [modCore_kept, kept, Run.Keeps]
theorem launchBoundary_kept (s : State) (a0) : kept (launchBoundary s a0) = kept s := by
  unfold launchBoundary
  repeat' (first | simp only [coreBoundary_kept, kept_mk, foldl_kept, ResKeeps, Run.Keeps] | (refine (foldl_kept ?_ _ _).trans ?_; intro _ _; try dsimp only) | refine fromHost_keeps ?_ | split)
  all_goals grind [coreBoundary_kept, kept, Run.Keeps]
theorem openCut_kept (s : State) (a0) (a1) : kept (openCut s a0 a1) = kept s := by
  unfold openCut
  repeat' split
  all_goals simp only [modMem_kept, kept_mk, foldl_kept, ResKeeps, Run.Keeps]
theorem launchComplete_kept (s : State) (a0) (a1) (a2) : kept (launchComplete s a0 a1 a2) = kept s := by
  unfold launchComplete
  grind [endCmd_kept, freeCores_kept, fwWrite_kept, launchBoundary_kept, openCut_kept, kept, Run.Keeps]
theorem execLaunchComplete_kept (a0) (a1) (a2) (s : State) : ResKeeps (kept s) (execLaunchComplete a0 a1 a2 s) := by
  unfold execLaunchComplete
  simp only [launchComplete_kept, kept_mk, foldl_kept, ResKeeps, Run.Keeps]
theorem launchAbort_kept (s : State) (a0) : kept (launchAbort s a0) = kept s := by
  unfold launchAbort
  grind [endCmd_kept, refuseCmd_kept, stopLaunch_kept, kept, Run.Keeps]
theorem execLaunchAbort_kept (a0) (s : State) : ResKeeps (kept s) (execLaunchAbort a0 s) := by
  unfold execLaunchAbort
  simp only [launchAbort_kept, kept_mk, foldl_kept, ResKeeps, Run.Keeps]
theorem modScrub_kept (s : State) (a0) (a1) : kept (modScrub s a0 a1) = kept s := by
  unfold modScrub
  simp only [modMem_kept, kept_mk, foldl_kept, ResKeeps, Run.Keeps]
theorem housekeepingWindow_kept (s : State) (a0) (a1) : kept (housekeepingWindow s a0 a1) = kept s := by
  unfold housekeepingWindow
  repeat' (first | simp only [applyMarks_kept, modCore_kept, modScrub_kept, reportBad_kept, kept_mk, foldl_kept, ResKeeps, Run.Keeps] | (refine (foldl_kept ?_ _ _).trans ?_; intro _ _; try dsimp only) | refine fromHost_keeps ?_ | split)
  all_goals grind [applyMarks_kept, modCore_kept, modScrub_kept, reportBad_kept, kept, Run.Keeps]
theorem execHousekeepingWindow_kept (a0) (a1) (s : State) : ResKeeps (kept s) (execHousekeepingWindow a0 a1 s) := by
  unfold execHousekeepingWindow
  simp only [housekeepingWindow_kept, kept_mk, foldl_kept, ResKeeps, Run.Keeps]

end Sys2Proof.Machine
end

