-- ==== Sys2Proof/Laws/KeptMemCmd.lean ====
section
/-!
SUPPORT. What the operations of Machine/MemCmd.lean keep.
-/
set_option linter.unusedSimpArgs false
namespace Sys2Proof.Machine

theorem overCrates_kept (a0) (a1) (a2) (h : ∀ s k t, a0 s k = .ok t → kept t.1 = kept s) : kept (overCrates a0 a1 a2).s = kept a2.s := by
  induction a1 generalizing a2 with
  | zero => rfl
  | succ n ih =>
    unfold overCrates
    repeat' split
    all_goals grind
theorem openCrate_kept (s : State) (a0) (a1) : kept (openCrate s a0 a1) = kept s := by
  unfold openCrate
  grind [modCmd_kept, modMem_kept, kept, Run.Keeps]
theorem runPiece_kept (s : State) (a0) (a1) (f : State → Nat → Except Nat (State × Bool)) (a3) (a4)
    (h : ∀ s k t, f s k = .ok t → kept t.1 = kept s) : kept (runPiece s a0 a1 f a3 a4) = kept s := by
  unfold runPiece
  have hp := overCrates_kept f (min a1.crates (pktCrates a0.packet - a0.aux)) { s := modCmd s a0.slot (fun c => { c with gather := [] }), n := a0.aux, poisoned := a0.found } h
  grind [modCmd_kept, endCmd_kept, openCrate_kept]
theorem memWriteCrate_kept (a0) (a1) (a2) (s : State) (a3) : ∀ t, memWriteCrate a0 a1 a2 s a3 = .ok t → kept t.1 = kept s := by
  unfold memWriteCrate
  repeat' (first | simp only [putCrate_kept, raiseCrate_kept, kept_mk, foldl_kept, ResKeeps, Run.Keeps] | (refine (foldl_kept ?_ _ _).trans ?_; intro _ _; try dsimp only) | refine fromHost_keeps ?_ | split)
  all_goals grind [putCrate_kept, raiseCrate_kept, kept, Run.Keeps]
theorem memWrite_kept (s : State) (a0) (a1) (a2) : kept (memWrite s a0 a1 a2) = kept s := by
  unfold memWrite
  grind [→ memWriteCrate_kept, runPiece_kept, kept, Run.Keeps]
theorem execMemWrite_kept (a0) (a1) (a2) (a3) (s : State) : ResKeeps (kept s) (execMemWrite a0 a1 a2 a3 s) := by
  unfold execMemWrite
  simp only [memWrite_kept, kept_mk, foldl_kept, ResKeeps, Run.Keeps]
theorem memReadCrate_kept (a0) (s : State) (a1) : ∀ t, memReadCrate a0 s a1 = .ok t → kept t.1 = kept s := by
  unfold memReadCrate
  repeat' (first | simp only [hostWrite_kept, reportBad_kept, setMem_kept, kept_mk, foldl_kept, ResKeeps, Run.Keeps] | (refine (foldl_kept ?_ _ _).trans ?_; intro _ _; try dsimp only) | refine fromHost_keeps ?_ | split)
  all_goals grind [hostWrite_kept, reportBad_kept, setMem_kept, kept, Run.Keeps]
theorem memRead_kept (s : State) (a0) (a1) (a2) : kept (memRead s a0 a1 a2) = kept s := by
  unfold memRead
  grind [applyMarks_kept, → memReadCrate_kept, runPiece_kept, kept, Run.Keeps]
theorem execMemRead_kept (a0) (a1) (a2) (s : State) : ResKeeps (kept s) (execMemRead a0 a1 a2 s) := by
  unfold execMemRead
  simp only [memRead_kept, kept_mk, foldl_kept, ResKeeps, Run.Keeps]
theorem memCopyCrate_kept (a0) (s : State) (a1) : ∀ t, memCopyCrate a0 s a1 = .ok t → kept t.1 = kept s := by
  unfold memCopyCrate
  repeat' (first | simp only [moveRead_kept, putCrate_kept, kept_mk, foldl_kept, ResKeeps, Run.Keeps] | (refine (foldl_kept ?_ _ _).trans ?_; intro _ _; try dsimp only) | refine fromHost_keeps ?_ | split)
  all_goals grind [moveRead_kept, putCrate_kept, kept, Run.Keeps]
theorem memCopy_kept (s : State) (a0) (a1) (a2) : kept (memCopy s a0 a1 a2) = kept s := by
  unfold memCopy
  grind [applyMarks_kept, → memCopyCrate_kept, runPiece_kept, kept, Run.Keeps]
theorem execMemCopy_kept (a0) (a1) (a2) (a3) (s : State) : ResKeeps (kept s) (execMemCopy a0 a1 a2 a3 s) := by
  unfold execMemCopy
  simp only [memCopy_kept, kept_mk, foldl_kept, ResKeeps, Run.Keeps]
theorem memFillCrate_kept (a0) (s : State) (a1) : ∀ t, memFillCrate a0 s a1 = .ok t → kept t.1 = kept s := by
  unfold memFillCrate
  repeat' (first | simp only [putCrate_kept, kept_mk, foldl_kept, ResKeeps, Run.Keeps] | (refine (foldl_kept ?_ _ _).trans ?_; intro _ _; try dsimp only) | refine fromHost_keeps ?_ | split)
  all_goals grind [putCrate_kept, kept, Run.Keeps]
theorem memFill_kept (s : State) (a0) (a1) : kept (memFill s a0 a1) = kept s := by
  unfold memFill
  grind [→ memFillCrate_kept, runPiece_kept, kept, Run.Keeps]
theorem execMemFill_kept (a0) (a1) (a2) (s : State) : ResKeeps (kept s) (execMemFill a0 a1 a2 s) := by
  unfold execMemFill
  simp only [memFill_kept, kept_mk, foldl_kept, ResKeeps, Run.Keeps]
theorem memRetagCrate_kept (a0) (s : State) (a1) : ∀ t, memRetagCrate a0 s a1 = .ok t → kept t.1 = kept s := by
  unfold memRetagCrate
  repeat' (first | simp only [modMem_kept, reportBad_kept, kept_mk, foldl_kept, ResKeeps, Run.Keeps] | (refine (foldl_kept ?_ _ _).trans ?_; intro _ _; try dsimp only) | refine fromHost_keeps ?_ | split)
  all_goals grind [modMem_kept, reportBad_kept, kept, Run.Keeps]
theorem memRetag_kept (s : State) (a0) (a1) (a2) : kept (memRetag s a0 a1 a2) = kept s := by
  unfold memRetag
  grind [applyMarks_kept, → memRetagCrate_kept, runPiece_kept, kept, Run.Keeps]
theorem execMemRetag_kept (a0) (a1) (a2) (s : State) : ResKeeps (kept s) (execMemRetag a0 a1 a2 s) := by
  unfold execMemRetag
  simp only [memRetag_kept, kept_mk, foldl_kept, ResKeeps, Run.Keeps]
theorem sliceMode_kept (s : State) (a0) : kept (sliceMode s a0) = kept s := by
  unfold sliceMode
  grind [endCmd_kept, modMem_kept, refuseCmd_kept, kept, Run.Keeps]
theorem execSliceMode_kept (a0) (s : State) : ResKeeps (kept s) (execSliceMode a0 s) := by
  unfold execSliceMode
  simp only [sliceMode_kept, kept_mk, foldl_kept, ResKeeps, Run.Keeps]
theorem tallyNop_kept (s : State) (a0) : kept (tallyNop s a0) = kept s := by
  unfold tallyNop
  repeat' split
  all_goals simp only [endCmd_kept, kept_mk, foldl_kept, ResKeeps, Run.Keeps]
theorem execTallyNop_kept (a0) (s : State) : ResKeeps (kept s) (execTallyNop a0 s) := by
  unfold execTallyNop
  simp only [tallyNop_kept, kept_mk, foldl_kept, ResKeeps, Run.Keeps]
theorem tallyAdd_kept (s : State) (a0) : kept (tallyAdd s a0) = kept s := by
  unfold tallyAdd
  grind [addTally_kept, endCmd_kept, refuseCmd_kept, kept, Run.Keeps]
theorem execTallyAdd_kept (a0) (s : State) : ResKeeps (kept s) (execTallyAdd a0 s) := by
  unfold execTallyAdd
  simp only [tallyAdd_kept, kept_mk, foldl_kept, ResKeeps, Run.Keeps]
theorem tallyRead_kept (s : State) (a0) : kept (tallyRead s a0) = kept s := by
  unfold tallyRead
  grind [endCmd_kept, refuseCmd_kept, kept, Run.Keeps]
theorem execTallyRead_kept (a0) (s : State) : ResKeeps (kept s) (execTallyRead a0 s) := by
  unfold execTallyRead
  simp only [tallyRead_kept, kept_mk, foldl_kept, ResKeeps, Run.Keeps]
theorem newEpoch_kept (s : State) (a0) : kept (newEpoch s a0) = kept s := by
  unfold newEpoch
  grind [kept, Run.Keeps]
theorem tallyEpoch_kept (s : State) (a0) : kept (tallyEpoch s a0) = kept s := by
  unfold tallyEpoch
  repeat' (first | simp only [endCmd_kept, newEpoch_kept, refuseCmd_kept, kept_mk, foldl_kept, ResKeeps, Run.Keeps] | (refine (foldl_kept ?_ _ _).trans ?_; intro _ _; try dsimp only) | refine fromHost_keeps ?_ | split)
  all_goals grind [endCmd_kept, newEpoch_kept, refuseCmd_kept, kept, Run.Keeps]
theorem execTallyEpoch_kept (a0) (s : State) : ResKeeps (kept s) (execTallyEpoch a0 s) := by
  unfold execTallyEpoch
  simp only [tallyEpoch_kept, kept_mk, foldl_kept, ResKeeps, Run.Keeps]
theorem aperRefused_kept (s : State) (a0) (a1) (a2) : kept (aperRefused s a0 a1 a2) = kept s := by
  unfold aperRefused
  grind [kept, Run.Keeps]
theorem writeAperWin_kept (s : State) (a0) (a1) : kept (writeAperWin s a0 a1) = kept s := by
  unfold writeAperWin
  grind [aperRefused_kept, kept, Run.Keeps]
theorem execAperWinEnable_kept (a0) (a1) (s : State) : ResKeeps (kept s) (execAperWinEnable a0 a1 s) := by
  unfold execAperWinEnable
  repeat' (first | simp only [writeAperWin_kept, kept_mk, foldl_kept, ResKeeps, Run.Keeps] | (refine (foldl_kept ?_ _ _).trans ?_; intro _ _; try dsimp only) | refine fromHost_keeps ?_ | split)
  all_goals grind [writeAperWin_kept, kept, Run.Keeps, FabRun.Keeps]
theorem aperCheck_kept (s : State) (a0) (a1) : kept (aperCheck s a0 a1).1 = kept s := by
  unfold aperCheck
  grind [drawFree_kept, kept, Run.Keeps]
theorem aperFail_kept (s : State) (a0) (a1) : kept (aperFail s a0 a1) = kept s := by
  unfold aperFail
  simp only [aperRefused_kept, raiseUnit_kept, kept_mk, foldl_kept, ResKeeps, Run.Keeps]
theorem apertureRead_kept (s : State) (a0) (a1) : kept (apertureRead s a0 a1) = kept s := by
  unfold apertureRead
  grind [aperCheck_kept, aperFail_kept, emit_kept, reportBadIf_kept, setMem_kept, kept, Run.Keeps]
theorem execApertureRead_kept (a0) (a1) (s : State) : ResKeeps (kept s) (execApertureRead a0 a1 s) := by
  unfold execApertureRead
  simp only [apertureRead_kept, kept_mk, foldl_kept, ResKeeps, Run.Keeps]
theorem apertureWrite_kept (s : State) (a0) (a1) : kept (apertureWrite s a0 a1) = kept s := by
  unfold apertureWrite
  grind [aperCheck_kept, aperFail_kept, modMem_kept, reportBadIf_kept, kept, Run.Keeps]
theorem execApertureWrite_kept (a0) (a1) (s : State) : ResKeeps (kept s) (execApertureWrite a0 a1 s) := by
  unfold execApertureWrite
  repeat' (first | simp only [apertureWrite_kept, kept_mk, foldl_kept, ResKeeps, Run.Keeps] | (refine (foldl_kept ?_ _ _).trans ?_; intro _ _; try dsimp only) | refine fromHost_keeps ?_ | split)
  all_goals grind [apertureWrite_kept, kept, Run.Keeps]

end Sys2Proof.Machine
end

