-- ==== Sys2Proof/Laws/KeptPart.lean ====
section
/-!
SUPPORT. What the operations of Machine/Part.lean keep.
-/
set_option linter.unusedSimpArgs false
namespace Sys2Proof.Machine

theorem drawKeys_kept (s : State) : kept (drawKeys s).1 = kept s := by
  unfold drawKeys
  grind [drawFree_kept, kept, Run.Keeps]
theorem zeroPlain_kept (s : State) (a0) : kept (zeroPlain s a0) = kept s := by
  unfold zeroPlain
  grind [modMem_kept, kept, Run.Keeps]
theorem fillDie_kept (s : State) (a0) : kept (fillDie s a0) = kept s := by
  unfold fillDie
  simp only [modMem_kept, zeroPlain_kept, kept_mk, foldl_kept, ResKeeps, Run.Keeps]
theorem makePart_kept (s : State) (a0) (a1) (a2) (a3) : kept (makePart s a0 a1 a2 a3) = kept s := by
  unfold makePart
  repeat' (first | simp only [drawKeys_kept, fillDie_kept, setPart_kept, kept_mk, foldl_kept, ResKeeps, Run.Keeps] | (refine (foldl_kept ?_ _ _).trans ?_; intro _ _; try dsimp only) | refine fromHost_keeps ?_ | split)
  all_goals grind [drawKeys_kept, fillDie_kept, setPart_kept, kept, Run.Keeps]
theorem failCreate_kept (s : State) (a0) (a1) (a2) : kept (failCreate s a0 a1 a2) = kept s := by
  unfold failCreate
  repeat' split
  all_goals simp only [modPart_kept, refuseCmd_kept, kept_mk, foldl_kept, ResKeeps, Run.Keeps]
theorem partCreate_kept (s : State) (a0) : kept (partCreate s a0) = kept s := by
  unfold partCreate
  grind [endCmd_kept, failCreate_kept, makePart_kept, refuseCmd_kept, kept, Run.Keeps]
theorem execPartCreate_kept (a0) (s : State) : ResKeeps (kept s) (execPartCreate a0 s) := by
  unfold execPartCreate
  simp only [partCreate_kept, kept_mk, foldl_kept, ResKeeps, Run.Keeps]
theorem partEnable_kept (s : State) (a0) (a1) : kept (partEnable s a0 a1) = kept s := by
  unfold partEnable
  grind [modPart_kept, kept, Run.Keeps, FabRun.Keeps]
theorem execPartEnable_kept (a0) (a1) (s : State) : ResKeeps (kept s) (execPartEnable a0 a1 s) := by
  unfold execPartEnable
  repeat' (first | simp only [partEnable_kept, kept_mk, foldl_kept, ResKeeps, Run.Keeps] | (refine (foldl_kept ?_ _ _).trans ?_; intro _ _; try dsimp only) | refine fromHost_keeps ?_ | split)
  all_goals grind [partEnable_kept, kept, Run.Keeps, FabRun.Keeps]
theorem dropPart_kept (s : State) (a0) : kept (dropPart s a0) = kept s := by
  unfold dropPart
  repeat' (first | simp only [modMem_kept, setPart_kept, zeroPlain_kept, kept_mk, foldl_kept, ResKeeps, Run.Keeps] | (refine (foldl_kept ?_ _ _).trans ?_; intro _ _; try dsimp only) | refine fromHost_keeps ?_ | split)
  all_goals grind [modMem_kept, setPart_kept, zeroPlain_kept, kept, Run.Keeps]
theorem partDestroy_kept (s : State) (a0) : kept (partDestroy s a0) = kept s := by
  unfold partDestroy
  grind [dropPart_kept, endCmd_kept, refuseCmd_kept, kept, Run.Keeps]
theorem execPartDestroy_kept (a0) (s : State) : ResKeeps (kept s) (execPartDestroy a0 s) := by
  unfold execPartDestroy
  simp only [partDestroy_kept, kept_mk, foldl_kept, ResKeeps, Run.Keeps]
theorem clearTallies_kept (s : State) (a0) (a1) : kept (clearTallies s a0 a1) = kept s := by
  unfold clearTallies
  grind [kept, Run.Keeps]
theorem ctxCreate_kept (s : State) (a0) : kept (ctxCreate s a0) = kept s := by
  unfold ctxCreate
  grind [clearTallies_kept, endCmd_kept, refuseCmd_kept, setCtx_kept, kept, Run.Keeps]
theorem execCtxCreate_kept (a0) (s : State) : ResKeeps (kept s) (execCtxCreate a0 s) := by
  unfold execCtxCreate
  simp only [ctxCreate_kept, kept_mk, foldl_kept, ResKeeps, Run.Keeps]
theorem ctxEnable_kept (s : State) (a0) (a1) : kept (ctxEnable s a0 a1) = kept s := by
  unfold ctxEnable
  grind [modCtx_kept, kept, Run.Keeps, FabRun.Keeps]
theorem execCtxEnable_kept (a0) (a1) (s : State) : ResKeeps (kept s) (execCtxEnable a0 a1 s) := by
  unfold execCtxEnable
  repeat' (first | simp only [ctxEnable_kept, kept_mk, foldl_kept, ResKeeps, Run.Keeps] | (refine (foldl_kept ?_ _ _).trans ?_; intro _ _; try dsimp only) | refine fromHost_keeps ?_ | split)
  all_goals grind [ctxEnable_kept, kept, Run.Keeps, FabRun.Keeps]
theorem ctxSet_kept (s : State) (a0) : kept (ctxSet s a0) = kept s := by
  unfold ctxSet
  grind [endCmd_kept, modCtx_kept, refuseCmd_kept, kept, Run.Keeps]
theorem execCtxSet_kept (a0) (s : State) : ResKeeps (kept s) (execCtxSet a0 s) := by
  unfold execCtxSet
  simp only [ctxSet_kept, kept_mk, foldl_kept, ResKeeps, Run.Keeps]

end Sys2Proof.Machine
end

