-- ==== Sys2Proof/Laws/KeptMemBg.lean ====
section
/-!
SUPPORT. What the operations of Machine/MemBg.lean keep.
-/
set_option linter.unusedSimpArgs false
namespace Sys2Proof.Machine

theorem execDramRefresh_kept (a0) (s : State) : ResKeeps (kept s) (execDramRefresh a0 s) := by
  unfold execDramRefresh
  simp only [modChan_kept, kept_mk, foldl_kept, ResKeeps, Run.Keeps]
theorem logLane_kept (s : State) (a0) (a1) (a2) (a3) : kept (logLane s a0 a1 a2 a3) = kept s := by
  unfold logLane
  simp only [logRec_kept, kept_mk, foldl_kept, ResKeeps, Run.Keeps]
theorem replaceLane_kept (a0) (s : State) (a1) : kept (replaceLane a0 s a1) = kept s := by
  unfold replaceLane
  grind [logLane_kept, modChan_kept, modUnit_kept, kept, Run.Keeps]
theorem recalibration_kept (s : State) (a0) (a1) : kept (recalibration s a0 a1) = kept s := by
  unfold recalibration
  repeat' (first | simp only [modChan_kept, replaceLane_kept, kept_mk, foldl_kept, ResKeeps, Run.Keeps] | (refine (foldl_kept ?_ _ _).trans ?_; intro _ _; try dsimp only) | refine fromHost_keeps ?_ | split)
  all_goals grind [modChan_kept, replaceLane_kept, kept, Run.Keeps]
theorem execRecalibration_kept (a0) (a1) (s : State) : ResKeeps (kept s) (execRecalibration a0 a1 s) := by
  unfold execRecalibration
  simp only [recalibration_kept, kept_mk, foldl_kept, ResKeeps, Run.Keeps]
theorem scrubFindings_kept (s : State) (a0) : kept (scrubFindings s a0) = kept s := by
  unfold scrubFindings
  repeat' (first | simp only [applyMarks_kept, reportBad_kept, kept_mk, foldl_kept, ResKeeps, Run.Keeps] | (refine (foldl_kept ?_ _ _).trans ?_; intro _ _; try dsimp only) | refine fromHost_keeps ?_ | split)
  all_goals grind [applyMarks_kept, reportBad_kept, kept, Run.Keeps]
theorem patrolScrubStep_kept (s : State) (a0) (a1) (a2) (a3) : kept (patrolScrubStep s a0 a1 a2 a3) = kept s := by
  unfold patrolScrubStep
  simp only [modScrub_kept, scrubFindings_kept, kept_mk, foldl_kept, ResKeeps, Run.Keeps]
theorem execPatrolScrubStep_kept (a0) (a1) (a2) (a3) (s : State) : ResKeeps (kept s) (execPatrolScrubStep a0 a1 a2 a3 s) := by
  unfold execPatrolScrubStep
  simp only [patrolScrubStep_kept, kept_mk, foldl_kept, ResKeeps, Run.Keeps]
theorem memoryLaneRetire_kept (s : State) (a0) (a1) (a2) : kept (memoryLaneRetire s a0 a1 a2) = kept s := by
  unfold memoryLaneRetire
  grind [logRec_kept, modChan_kept, kept, Run.Keeps]
theorem execMemoryLaneRetire_kept (a0) (a1) (a2) (s : State) : ResKeeps (kept s) (execMemoryLaneRetire a0 a1 a2 s) := by
  unfold execMemoryLaneRetire
  simp only [memoryLaneRetire_kept, kept_mk, foldl_kept, ResKeeps, Run.Keeps]
theorem scrubStarved_kept (s : State) (a0) : kept (scrubStarved s a0) = kept s := by
  unfold scrubStarved
  simp only [modScrub_kept, raiseCore_kept, kept_mk, foldl_kept, ResKeeps, Run.Keeps]
theorem execScrubStarved_kept (a0) (s : State) : ResKeeps (kept s) (execScrubStarved a0 s) := by
  unfold execScrubStarved
  simp only [scrubStarved_kept, kept_mk, foldl_kept, ResKeeps, Run.Keeps]
theorem execSliceScrubPass_kept (a0) (a1) (s : State) : ResKeeps (kept s) (execSliceScrubPass a0 a1 s) := by
  unfold execSliceScrubPass
  repeat' split
  all_goals simp only [scrubFindings_kept, kept_mk, foldl_kept, ResKeeps, Run.Keeps]
theorem chTestEnter_kept (s : State) (a0) : kept (chTestEnter s a0) = kept s := by
  unfold chTestEnter
  grind [endCmd_kept, modChan_kept, refuseCmd_kept, kept, Run.Keeps]
theorem execChTestEnter_kept (a0) (s : State) : ResKeeps (kept s) (execChTestEnter a0 s) := by
  unfold execChTestEnter
  simp only [chTestEnter_kept, kept_mk, foldl_kept, ResKeeps, Run.Keeps]
theorem chTestExit_kept (s : State) (a0) : kept (chTestExit s a0) = kept s := by
  unfold chTestExit
  grind [endCmd_kept, modChan_kept, modMem_kept, refuseCmd_kept, kept, Run.Keeps]
theorem execChTestExit_kept (a0) (s : State) : ResKeeps (kept s) (execChTestExit a0 s) := by
  unfold execChTestExit
  simp only [chTestExit_kept, kept_mk, foldl_kept, ResKeeps, Run.Keeps]
theorem genWrite_kept (s : State) (a0) (a1) : kept (genWrite s a0 a1) = kept s := by
  unfold genWrite
  simp only [modChan_kept, kept_mk, foldl_kept, ResKeeps, Run.Keeps]
theorem execGenStart_kept (a0) (a1) (s : State) : ResKeeps (kept s) (execGenStart a0 a1 s) := by
  unfold execGenStart
  repeat' (first | simp only [genWrite_kept, kept_mk, foldl_kept, ResKeeps, Run.Keeps] | (refine (foldl_kept ?_ _ _).trans ?_; intro _ _; try dsimp only) | refine fromHost_keeps ?_ | split)
  all_goals grind [genWrite_kept, kept, Run.Keeps]
theorem execGenStop_kept (a0) (a1) (s : State) : ResKeeps (kept s) (execGenStop a0 a1 s) := by
  unfold execGenStop
  repeat' (first | simp only [genWrite_kept, kept_mk, foldl_kept, ResKeeps, Run.Keeps] | (refine (foldl_kept ?_ _ _).trans ?_; intro _ _; try dsimp only) | refine fromHost_keeps ?_ | split)
  all_goals grind [genWrite_kept, kept, Run.Keeps]
theorem genPassesDone_kept (s : State) (a0) (a1) (a2) (a3) : kept (genPassesDone s a0 a1 a2 a3) = kept s := by
  unfold genPassesDone
  grind [modChan_kept, kept, Run.Keeps]
theorem execGenPassesDone_kept (a0) (a1) (a2) (a3) (s : State) : ResKeeps (kept s) (execGenPassesDone a0 a1 a2 a3 s) := by
  unfold execGenPassesDone
  simp only [genPassesDone_kept, kept_mk, foldl_kept, ResKeeps, Run.Keeps]
theorem marginMemory_kept (s : State) (a0) (a1) (a2) (a3) : kept (marginMemory s a0 a1 a2 a3) = kept s := by
  unfold marginMemory
  grind [endCmd_kept, logRec_kept, modChan_kept, modMem_kept, refuseCmd_kept, kept, Run.Keeps]

end Sys2Proof.Machine
end

