-- ==== Sys2Proof/Laws/KeptFabOps.lean ====
section
/-!
SUPPORT. What the operations of Machine/FabOps.lean keep.
-/
set_option linter.unusedSimpArgs false
namespace Sys2Proof.Machine

theorem setOp_kept (s : State) (a0) (a1) : kept (setOp s a0 a1) = kept s := by
  unfold setOp
  simp only [modFab_kept, kept_mk, foldl_kept, ResKeeps, Run.Keeps]
theorem modOp_kept (s : State) (a0) (a1) : kept (modOp s a0 a1) = kept s := by
  unfold modOp
  simp only [setOp_kept, kept_mk, foldl_kept, ResKeeps, Run.Keeps]
theorem newOp_kept (s : State) (a0) : kept (newOp s a0).1 = kept s := by
  unfold newOp
  simp only [modFab_kept, setOp_kept, kept_mk, foldl_kept, ResKeeps, Run.Keeps]
theorem dropOp_kept (s : State) (a0) : kept (dropOp s a0) = kept s := by
  unfold dropOp
  simp only [modFab_kept, setOp_kept, kept_mk, foldl_kept, ResKeeps, Run.Keeps]
theorem opDone_kept (s : State) (a0) : kept (opDone s a0) = kept s := by
  unfold opDone
  repeat' split
  all_goals simp only [modTransfer_kept, setOp_kept, kept_mk, foldl_kept, ResKeeps, Run.Keeps]
theorem fabricFault_kept (s : State) (a0) (a1) (a2) : kept (fabricFault s a0 a1 a2) = kept s := by
  unfold fabricFault
  simp only [stationFault_kept, kept_mk, foldl_kept, ResKeeps, Run.Keeps]
theorem failOp_kept (s : State) (a0) (a1) (a2) (a3) (a4) : kept (failOp s a0 a1 a2 a3 a4) = kept s := by
  unfold failOp
  repeat' (first | simp only [chargeStep_kept, dropOp_kept, fabricFault_kept, modQueue_kept, modTransfer_kept, raiseEvent_kept, raiseStep_kept, setMem_kept, kept_mk, foldl_kept, ResKeeps, Run.Keeps] | (refine (foldl_kept ?_ _ _).trans ?_; intro _ _; try dsimp only) | refine fromHost_keeps ?_ | split)
  all_goals grind [chargeStep_kept, dropOp_kept, fabricFault_kept, modQueue_kept, modTransfer_kept, raiseEvent_kept, raiseStep_kept, setMem_kept, kept, Run.Keeps]
theorem failFrames_kept (s : State) (a0) (a1) : kept (failFrames s a0 a1) = kept s := by
  unfold failFrames
  repeat' (first | simp only [failOp_kept, kept_mk, foldl_kept, ResKeeps, Run.Keeps] | (refine (foldl_kept ?_ _ _).trans ?_; intro _ _; try dsimp only) | refine fromHost_keeps ?_ | split)
  all_goals grind [failOp_kept, kept, Run.Keeps]
theorem failColls_kept (s : State) (a0) (a1) (a2) : kept (failColls s a0 a1 a2) = kept s := by
  unfold failColls
  repeat' (first | simp only [collFail_kept, kept_mk, foldl_kept, ResKeeps, Run.Keeps] | (refine (foldl_kept ?_ _ _).trans ?_; intro _ _; try dsimp only) | refine fromHost_keeps ?_ | split)
  all_goals grind [collFail_kept, kept, Run.Keeps]
theorem closeHalf_kept (s : State) (a0) (a1) (a2) (a3) : kept (closeHalf s a0 a1 a2 a3) = kept s := by
  unfold closeHalf
  repeat' split
  all_goals simp only [failColls_kept, failFrames_kept, modFab_kept, setSession_kept, kept_mk, foldl_kept, ResKeeps, Run.Keeps]
theorem reopen_kept (s : State) (a0) : kept (reopen s a0) = kept s := by
  unfold reopen
  repeat' split
  all_goals simp only [openHalf_kept, kept_mk, foldl_kept, ResKeeps, Run.Keeps]
theorem ackOne_kept (s : State) (a0) : kept (ackOne s a0) = kept s := by
  unfold ackOne
  repeat' split
  all_goals simp only [modOp_kept, opDone_kept, kept_mk, foldl_kept, ResKeeps, Run.Keeps]
theorem ackEffect_kept (s : State) (a0) : kept (ackEffect s a0) = kept s := by
  unfold ackEffect
  repeat' (first | simp only [ackOne_kept, drawFree_kept, modFab_kept, modSession_kept, kept_mk, foldl_kept, ResKeeps, Run.Keeps] | (refine (foldl_kept ?_ _ _).trans ?_; intro _ _; try dsimp only) | refine fromHost_keeps ?_ | split)
  all_goals grind [ackOne_kept, drawFree_kept, modFab_kept, modSession_kept, kept, Run.Keeps]
theorem execAck_kept (a0) (s : State) : ResKeeps (kept s) (execAck a0 s) := by
  unfold execAck
  repeat' (first | simp only [ackEffect_kept, recvCtl_kept, kept_mk, foldl_kept, ResKeeps, Run.Keeps] | (refine (foldl_kept ?_ _ _).trans ?_; intro _ _; try dsimp only) | refine fromHost_keeps ?_ | split)
  all_goals grind [ackEffect_kept, recvCtl_kept, kept, Run.Keeps]
theorem resendFrom_kept (s : State) (a0) (a1) (a2) (a3) : kept (resendFrom s a0 a1 a2 a3) = kept s := by
  unfold resendFrom
  repeat' split
  all_goals simp only [modFab_kept, kept_mk, foldl_kept, ResKeeps, Run.Keeps]
theorem resendOrBreak_kept (s : State) (a0) (a1) (a2) : kept (resendOrBreak s a0 a1 a2) = kept s := by
  unfold resendOrBreak
  repeat' split
  all_goals simp only [closeHalf_kept, modSession_kept, resendFrom_kept, kept_mk, foldl_kept, ResKeeps, Run.Keeps]
theorem nakEffect_kept (s : State) (a0) : kept (nakEffect s a0) = kept s := by
  unfold nakEffect
  repeat' split
  all_goals simp only [resendOrBreak_kept, kept_mk, foldl_kept, ResKeeps, Run.Keeps]
theorem execNak_kept (a0) (s : State) : ResKeeps (kept s) (execNak a0 s) := by
  unfold execNak
  repeat' (first | simp only [nakEffect_kept, recvCtl_kept, kept_mk, foldl_kept, ResKeeps, Run.Keeps] | (refine (foldl_kept ?_ _ _).trans ?_; intro _ _; try dsimp only) | refine fromHost_keeps ?_ | split)
  all_goals grind [nakEffect_kept, recvCtl_kept, kept, Run.Keeps]
theorem retransmitTimeout_kept (s : State) (a0) (a1) : kept (retransmitTimeout s a0 a1) = kept s := by
  unfold retransmitTimeout
  repeat' split
  all_goals simp only [resendOrBreak_kept, kept_mk, foldl_kept, ResKeeps, Run.Keeps]
theorem execRetransmitTimeout_kept (a0) (a1) (s : State) : ResKeeps (kept s) (execRetransmitTimeout a0 a1 s) := by
  unfold execRetransmitTimeout
  simp only [retransmitTimeout_kept, kept_mk, foldl_kept, ResKeeps, Run.Keeps]
theorem ackTimer_kept (s : State) (a0) (a1) : kept (ackTimer s a0 a1) = kept s := by
  unfold ackTimer
  repeat' split
  all_goals simp only [sendAck_kept, kept_mk, foldl_kept, ResKeeps, Run.Keeps]
theorem execAckTimer_kept (a0) (a1) (s : State) : ResKeeps (kept s) (execAckTimer a0 a1 s) := by
  unfold execAckTimer
  simp only [ackTimer_kept, kept_mk, foldl_kept, ResKeeps, Run.Keeps]
theorem openRetry_kept (s : State) (a0) : kept (openRetry s a0) = kept s := by
  unfold openRetry
  repeat' split
  all_goals simp only [closeHalf_kept, enqueue_kept, modSession_kept, kept_mk, foldl_kept, ResKeeps, Run.Keeps]
theorem execOpenRetry_kept (a0) (s : State) : ResKeeps (kept s) (execOpenRetry a0 s) := by
  unfold execOpenRetry
  simp only [openRetry_kept, kept_mk, foldl_kept, ResKeeps, Run.Keeps]
theorem openEffect_kept (s : State) (a0) : kept (openEffect s a0) = kept s := by
  unfold openEffect
  extract_lets ack install
  have h1 : ∀ s, kept (ack s) = kept s := fun s => enqueue_kept s _
  have h2 : ∀ s n, kept (install s n) = kept s := fun s n => modSession_kept s n _
  clear_value ack install
  repeat' split
  all_goals grind [closeHalf_kept, reopen_kept, setSession_kept]
theorem execOpen_kept (a0) (s : State) : ResKeeps (kept s) (execOpen a0 s) := by
  unfold execOpen
  repeat' (first | simp only [openEffect_kept, recvCtl_kept, kept_mk, foldl_kept, ResKeeps, Run.Keeps] | (refine (foldl_kept ?_ _ _).trans ?_; intro _ _; try dsimp only) | refine fromHost_keeps ?_ | split)
  all_goals grind [openEffect_kept, recvCtl_kept, kept, Run.Keeps]
theorem openAckEffect_kept (s : State) (a0) : kept (openAckEffect s a0) = kept s := by
  unfold openAckEffect
  repeat' split
  all_goals simp only [modSession_kept, kept_mk, foldl_kept, ResKeeps, Run.Keeps]
theorem execOpenAck_kept (a0) (s : State) : ResKeeps (kept s) (execOpenAck a0 s) := by
  unfold execOpenAck
  repeat' (first | simp only [openAckEffect_kept, recvCtl_kept, kept_mk, foldl_kept, ResKeeps, Run.Keeps] | (refine (foldl_kept ?_ _ _).trans ?_; intro _ _; try dsimp only) | refine fromHost_keeps ?_ | split)
  all_goals grind [openAckEffect_kept, recvCtl_kept, kept, Run.Keeps]
theorem putCrates_kept (a0) (a1) (a2) (a3) (a4) (a5) (a6) (a7) (s : State) : (putCrates a0 a1 a2 a3 a4 a5 a6 a7 s).Keeps (kept s) := by
  induction a5 generalizing a6 a7 s with
  | zero => rfl
  | succ n ih =>
    unfold putCrates
    grind [moveRead_kept, modOp_kept, sendCtx_kept, FabRun.Keeps, Run.Keeps]
theorem putSlots_kept (a0) (a1) (a2) (a3) (a4) (a5) (a6) (s : State) : (putSlots a0 a1 a2 a3 a4 a5 a6 s).Keeps (kept s) := by
  induction a5 generalizing a6 s with
  | zero => rfl
  | succ n ih =>
    unfold putSlots
    dsimp only
    split
    · rfl
    · split
      · rfl
      · have hp := putCrates_kept a0 a1 a2 a3 a4 (min (getBin (getCore s a1) (Ins.bits a3 85 80)).slotCrates (a4 - a6)) (slotCrate a1 (getBin (getCore s a1) (Ins.bits a3 85 80)) (getBin (getCore s a1) (Ins.bits a3 85 80)).emptySlot 0) a6 s
        split
        · rename_i s' h; rw [h] at hp
          split
          · rename_i h2; have := ih (a6 + (min (getBin (getCore s a1) (Ins.bits a3 85 80)).slotCrates (a4 - a6))) ‹_›
            rw [implicitRelease_ok _ _ _ _ h2] at this; rw [show kept s' = kept s from hp] at this; exact this
          · rename_i h2; have := implicitRelease_err _ _ _ _ h2
            rw [show kept s' = kept s from hp] at this; exact this
        · exact hp
theorem handedOver_kept (s : State) (a0) (a1) (a2) : kept (handedOver s a0 a1 a2) = kept s := by
  unfold handedOver
  grind [modOp_kept, modTransfer_kept, opDone_kept, kept, Run.Keeps]
theorem fabricGo_kept (s : State) (a0) (a1) (a2) (a3) (a4) (a5) : (fabricGo s a0 a1 a2 a3 a4 a5).Keeps (kept s) := by
  unfold fabricGo
  grind [handedOver_kept, modOp_kept, putSlots_kept, sendCtx_kept, kept, Run.Keeps, FabRun.Keeps]
theorem bodyPfabric_kept (s : State) (a0) (a1) (a2) : (bodyPfabric s a0 a1 a2).Keeps (kept s) := by
  unfold bodyPfabric
  grind [addTransfer_kept, fabricGo_kept, failOp_kept, → implicitWait_kept, modTransfer_kept, newOp_kept, kept, Run.Keeps, FabRun.Keeps]
theorem execPfabric_kept (a0) (a1) (s : State) : ResKeeps (kept s) (execPfabric a0 a1 s) := by
  unfold execPfabric
  repeat' (first | simp only [bodyPfabric_kept, issue_kept, kept_mk, foldl_kept, ResKeeps, Run.Keeps] | (refine (foldl_kept ?_ _ _).trans ?_; intro _ _; try dsimp only) | refine fromHost_keeps ?_ | split)
  all_goals grind [bodyPfabric_kept, issue_kept, kept, Run.Keeps, FabRun.Keeps]
theorem markedComplete_kept (s : State) (a0) (a1) (a2) : kept (markedComplete s a0 a1 a2) = kept s := by
  unfold markedComplete
  have hf := fabricGo_kept
  split
  · rfl
  · split
    · grind [dropTransfer_kept]
    · split
      · split
        · rfl
        · rename_i t _ _ _ _ opid _ _
          have hp := fabricGo_kept s a0 t.id opid t.done t.instr (t.ctx, t.gen)
          split <;> rename_i h <;> rw [h] at hp
          all_goals grind [FabRun.Keeps, Run.Keeps, modTransfer_kept, failOp_kept, stationFault_kept, scheduleBroken_kept, dropOp_kept]
      · grind [transferComplete_kept]
theorem execMarkedTransferComplete_kept (a0) (a1) (a2) (s : State) : ResKeeps (kept s) (execMarkedTransferComplete a0 a1 a2 s) := by
  unfold execMarkedTransferComplete
  simp only [markedComplete_kept, kept_mk, foldl_kept, ResKeeps, Run.Keeps]
theorem portDown_kept (s : State) (a0) (a1) (a2) : kept (portDown s a0 a1 a2) = kept s := by
  unfold portDown
  repeat' (first | simp only [modFab_kept, modPort_kept, resendFrom_kept, kept_mk, foldl_kept, ResKeeps, Run.Keeps] | (refine (foldl_kept ?_ _ _).trans ?_; intro _ _; try dsimp only) | refine fromHost_keeps ?_ | split)
  all_goals grind [modFab_kept, modPort_kept, resendFrom_kept, kept, Run.Keeps]
theorem portEnable_kept (s : State) (a0) (a1) : kept (portEnable s a0 a1) = kept s := by
  unfold portEnable
  dsimp only
  (repeat' split) <;> simp only [modPort_kept, kept_mk, foldl_kept, ResKeeps, Run.Keeps]
theorem execPortEnable_kept (a0) (a1) (s : State) : ResKeeps (kept s) (execPortEnable a0 a1 s) := by
  unfold execPortEnable
  repeat' (first | simp only [portEnable_kept, kept_mk, foldl_kept, ResKeeps, Run.Keeps] | (refine (foldl_kept ?_ _ _).trans ?_; intro _ _; try dsimp only) | refine fromHost_keeps ?_ | split)
  all_goals grind [portEnable_kept, kept, Run.Keeps, FabRun.Keeps]
theorem portDisable_kept (s : State) (a0) (a1) : kept (portDisable s a0 a1) = kept s := by
  unfold portDisable
  dsimp only
  (repeat' split) <;> simp only [modPort_kept, portDown_kept, kept_mk, foldl_kept, ResKeeps, Run.Keeps]
theorem execPortDisable_kept (a0) (a1) (s : State) : ResKeeps (kept s) (execPortDisable a0 a1 s) := by
  unfold execPortDisable
  repeat' (first | simp only [portDisable_kept, kept_mk, foldl_kept, ResKeeps, Run.Keeps] | (refine (foldl_kept ?_ _ _).trans ?_; intro _ _; try dsimp only) | refine fromHost_keeps ?_ | split)
  all_goals grind [portDisable_kept, kept, Run.Keeps, FabRun.Keeps]
theorem discoverySend_kept (s : State) (a0) : kept (discoverySend s a0) = kept s := by
  unfold discoverySend
  repeat' split
  all_goals simp only [enqueue_kept, kept_mk, foldl_kept, ResKeeps, Run.Keeps]
theorem execDiscoverySend_kept (a0) (s : State) : ResKeeps (kept s) (execDiscoverySend a0 s) := by
  unfold execDiscoverySend
  simp only [discoverySend_kept, kept_mk, foldl_kept, ResKeeps, Run.Keeps]
theorem discoveryEffect_setRx_kept (s : State) (a0) : kept (discoveryEffect.setRx s a0) = kept s := by
  unfold discoveryEffect.setRx
  simp only [modSession_kept, kept_mk, foldl_kept, ResKeeps, Run.Keeps]
theorem discoveryEffect_kept (a0) (s : State) (a1) : kept (discoveryEffect a0 s a1) = kept s := by
  unfold discoveryEffect
  grind [closeHalf_kept, discoveryEffect_setRx_kept, modPort_kept, raiseUnit_kept, reopen_kept, kept, Run.Keeps]
theorem execDiscovery_kept (a0) (s : State) : ResKeeps (kept s) (execDiscovery a0 s) := by
  unfold execDiscovery
  repeat' (first | simp only [discoveryEffect_kept, recvCtl_kept, kept_mk, foldl_kept, ResKeeps, Run.Keeps] | (refine (foldl_kept ?_ _ _).trans ?_; intro _ _; try dsimp only) | refine fromHost_keeps ?_ | split)
  all_goals grind [discoveryEffect_kept, recvCtl_kept, kept, Run.Keeps]
theorem execDiscoveryTimeout_kept (a0) (s : State) : ResKeeps (kept s) (execDiscoveryTimeout a0 s) := by
  unfold execDiscoveryTimeout
  repeat' split
  all_goals simp only [portDown_kept, kept_mk, foldl_kept, ResKeeps, Run.Keeps]
theorem execPortLinkLost_kept (a0) (s : State) : ResKeeps (kept s) (execPortLinkLost a0 s) := by
  unfold execPortLinkLost
  repeat' split
  all_goals simp only [portDown_kept, kept_mk, foldl_kept, ResKeeps, Run.Keeps]
theorem portTrainingDone_kept (s : State) (a0) (a1) (a2) (a3) : kept (portTrainingDone s a0 a1 a2 a3) = kept s := by
  unfold portTrainingDone
  repeat' (first | simp only [discoverySend_kept, logLane_kept, modPort_kept, kept_mk, foldl_kept, ResKeeps, Run.Keeps] | (refine (foldl_kept ?_ _ _).trans ?_; intro _ _; try dsimp only) | refine fromHost_keeps ?_ | split)
  all_goals grind [discoverySend_kept, logLane_kept, modPort_kept, kept, Run.Keeps]
theorem execPortTrainingDone_kept (a0) (a1) (a2) (a3) (s : State) : ResKeeps (kept s) (execPortTrainingDone a0 a1 a2 a3 s) := by
  unfold execPortTrainingDone
  simp only [portTrainingDone_kept, kept_mk, foldl_kept, ResKeeps, Run.Keeps]
theorem execPortTrainingRetry_kept (a0) (s : State) : ResKeeps (kept s) (execPortTrainingRetry a0 s) := by
  unfold execPortTrainingRetry
  repeat' split
  all_goals simp only [modPort_kept, kept_mk, foldl_kept, ResKeeps, Run.Keeps]
theorem portOut_kept (s : State) (a0) : kept (portOut s a0) = kept s := by
  unfold portOut
  simp only [modPort_kept, portDown_kept, setStanding_kept, kept_mk, foldl_kept, ResKeeps, Run.Keeps]
theorem fabricLaneRetire_kept (s : State) (a0) (a1) : kept (fabricLaneRetire s a0 a1) = kept s := by
  unfold fabricLaneRetire
  grind [logLane_kept, modPort_kept, portDown_kept, portOut_kept, kept, Run.Keeps, FabRun.Keeps]
theorem execFabricLaneRetire_kept (a0) (a1) (s : State) : ResKeeps (kept s) (execFabricLaneRetire a0 a1 s) := by
  unfold execFabricLaneRetire
  simp only [fabricLaneRetire_kept, kept_mk, foldl_kept, ResKeeps, Run.Keeps]
theorem portBackpressure_kept (s : State) (a0) (a1) : kept (portBackpressure s a0 a1) = kept s := by
  unfold portBackpressure
  grind [modPort_kept, raiseUnit_kept, kept, Run.Keeps]
theorem execPortBackpressure_kept (a0) (a1) (s : State) : ResKeeps (kept s) (execPortBackpressure a0 a1 s) := by
  unfold execPortBackpressure
  simp only [portBackpressure_kept, kept_mk, foldl_kept, ResKeeps, Run.Keeps]
theorem timeExchange_kept (s : State) (a0) (a1) : kept (timeExchange s a0 a1) = kept s := by
  unfold timeExchange
  grind [enqueue_kept, modPort_kept, kept, Run.Keeps]
theorem execTimeExchange_kept (a0) (a1) (s : State) : ResKeeps (kept s) (execTimeExchange a0 a1 s) := by
  unfold execTimeExchange
  simp only [timeExchange_kept, kept_mk, foldl_kept, ResKeeps, Run.Keeps]
theorem servoRate_kept (s : State) (a0) : kept (servoRate s a0).1 = kept s := by
  unfold servoRate
  grind [drawFree_kept, kept, Run.Keeps]
theorem timeSync_kept (s : State) (a0) (a1) (a2) : kept (timeSync s a0 a1 a2) = kept s := by
  unfold timeSync
  grind [modFab_kept, servoRate_kept, kept, Run.Keeps]
theorem timeEffect_kept (a0) (a1) (a2) (s : State) (a3) : kept (timeEffect a0 a1 a2 s a3) = kept s := by
  unfold timeEffect
  repeat' split
  all_goals simp only [enqueue_kept, modPort_kept, timeSync_kept, kept_mk, foldl_kept, ResKeeps, Run.Keeps]
theorem execTime_kept (a0) (a1) (a2) (s : State) : ResKeeps (kept s) (execTime a0 a1 a2 s) := by
  unfold execTime
  repeat' (first | simp only [recvCtl_kept, timeEffect_kept, kept_mk, foldl_kept, ResKeeps, Run.Keeps] | (refine (foldl_kept ?_ _ _).trans ?_; intro _ _; try dsimp only) | refine fromHost_keeps ?_ | split)
  all_goals grind [recvCtl_kept, timeEffect_kept, kept, Run.Keeps]
theorem marginPort_kept (s : State) (a0) (a1) (a2) (a3) : kept (marginPort s a0 a1 a2 a3) = kept s := by
  unfold marginPort
  grind [endCmd_kept, modMem_kept, modPort_kept, portDown_kept, portOut_kept, refuseCmd_kept, kept, Run.Keeps]
theorem marginSweep_kept (s : State) (a0) (a1) (a2) : kept (marginSweep s a0 a1 a2) = kept s := by
  unfold marginSweep
  repeat' split
  all_goals simp only [marginMemory_kept, marginPort_kept, kept_mk, foldl_kept, ResKeeps, Run.Keeps]
theorem execMarginSweep_kept (a0) (a1) (a2) (s : State) : ResKeeps (kept s) (execMarginSweep a0 a1 a2 s) := by
  unfold execMarginSweep
  simp only [marginSweep_kept, kept_mk, foldl_kept, ResKeeps, Run.Keeps]
theorem marginStop_kept (s : State) (a0) : kept (marginStop s a0) = kept s := by
  unfold marginStop
  grind [endCmd_kept, modChan_kept, modPort_kept, refuseCmd_kept, kept, Run.Keeps]
theorem execMarginStop_kept (a0) (s : State) : ResKeeps (kept s) (execMarginStop a0 s) := by
  unfold execMarginStop
  simp only [marginStop_kept, kept_mk, foldl_kept, ResKeeps, Run.Keeps]

end Sys2Proof.Machine
end

