-- ==== Sys2Proof/Laws/KeptReplay.lean ====
section
/-!
SUPPORT. What the operations of Machine/Replay.lean keep.
-/
set_option linter.unusedSimpArgs false
namespace Sys2Proof.Machine

theorem modStep_kept (s : State) (a0) : kept (modStep s a0) = kept s := by
  unfold modStep
  grind [kept, Run.Keeps]
theorem writeDirBase_kept (s : State) (a0) : kept (writeDirBase s a0) = kept s := by
  unfold writeDirBase
  simp only [modStep_kept, kept_mk, foldl_kept, ResKeeps, Run.Keeps]
theorem stepDirEnable_kept (s : State) (a0) : kept (stepDirEnable s a0) = kept s := by
  unfold stepDirEnable
  grind [modStep_kept, readVerify_kept, writeDirBase_kept, kept, Run.Keeps, FabRun.Keeps]
theorem execStepDirEnable_kept (a0) (s : State) : ResKeeps (kept s) (execStepDirEnable a0 s) := by
  unfold execStepDirEnable
  repeat' (first | simp only [stepDirEnable_kept, kept_mk, foldl_kept, ResKeeps, Run.Keeps] | (refine (foldl_kept ?_ _ _).trans ?_; intro _ _; try dsimp only) | refine fromHost_keeps ?_ | split)
  all_goals grind [stepDirEnable_kept, kept, Run.Keeps, FabRun.Keeps]
theorem stepDirDisable_kept (s : State) (a0) : kept (stepDirDisable s a0) = kept s := by
  unfold stepDirDisable
  repeat' split
  all_goals simp only [modMem_kept, modStep_kept, writeDirBase_kept, kept_mk, foldl_kept, ResKeeps, Run.Keeps]
theorem execStepDirDisable_kept (a0) (s : State) : ResKeeps (kept s) (execStepDirDisable a0 s) := by
  unfold execStepDirDisable
  repeat' (first | simp only [stepDirDisable_kept, kept_mk, foldl_kept, ResKeeps, Run.Keeps] | (refine (foldl_kept ?_ _ _).trans ?_; intro _ _; try dsimp only) | refine fromHost_keeps ?_ | split)
  all_goals grind [stepDirDisable_kept, kept, Run.Keeps, FabRun.Keeps]
theorem fwTag_kept (s : State) (a0) : kept (fwTag s a0).1 = kept s := by
  unfold fwTag
  simp only [modMem_kept, kept_mk, foldl_kept, ResKeeps, Run.Keeps]
theorem sendPuts_kept (s : State) (a0) (a1) (a2) (a3) : kept (sendPuts s a0 a1 a2 a3) = kept s := by
  unfold sendPuts
  refine (foldl_fst ?_ _ _).trans ?_
  · grind [sendCtx_kept, failOp_kept]
  · exact newOp_kept _ _
theorem tagAll_kept (a0) (s : State) : kept (tagAll a0 s).1 = kept s := by
  induction a0 generalizing s with
  | nil => rfl
  | cons c cs ih => obtain ⟨c, p⟩ := c; unfold tagAll; grind [fwTag_kept]
theorem sendStream_kept (s : State) (a0) (a1) (a2) (a3) (a4) : kept (sendStream s a0 a1 a2 a3 a4) = kept s := by
  unfold sendStream
  simp only [sendPuts_kept, tagAll_kept, kept_mk, foldl_kept, ResKeeps, Run.Keeps]
theorem sendDelta_kept (s : State) (a0) : kept (sendDelta s a0) = kept s := by
  unfold sendDelta
  repeat' (first | simp only [sendStream_kept, kept_mk, foldl_kept, ResKeeps, Run.Keeps] | (refine (foldl_kept ?_ _ _).trans ?_; intro _ _; try dsimp only) | refine fromHost_keeps ?_ | split)
  all_goals grind [sendStream_kept, kept, Run.Keeps]
theorem sendSync_kept (s : State) : kept (sendSync s) = kept s := by
  unfold sendSync
  repeat' (first | simp only [sendStream_kept, kept_mk, foldl_kept, ResKeeps, Run.Keeps] | (refine (foldl_kept ?_ _ _).trans ?_; intro _ _; try dsimp only) | refine fromHost_keeps ?_ | split)
  all_goals grind [sendStream_kept, kept, Run.Keeps]
theorem sendInputs_kept (s : State) (a0) : kept (sendInputs s a0) = kept s := by
  unfold sendInputs
  repeat' (first | simp only [sendPuts_kept, kept_mk, foldl_kept, ResKeeps, Run.Keeps] | (refine (foldl_kept ?_ _ _).trans ?_; intro _ _; try dsimp only) | refine fromHost_keeps ?_ | split)
  all_goals grind [sendPuts_kept, kept, Run.Keeps]
theorem applyEntries_kept (s : State) (a0) (a1) : kept (applyEntries s a0 a1) = kept s := by
  unfold applyEntries
  repeat' (first | simp only [setMem_kept, kept_mk, foldl_kept, ResKeeps, Run.Keeps] | (refine (foldl_kept ?_ _ _).trans ?_; intro _ _; try dsimp only) | refine fromHost_keeps ?_ | split)
  all_goals grind [setMem_kept, kept, Run.Keeps]
theorem modMirror_kept (s : State) (a0) (a1) : kept (modMirror s a0 a1) = kept s := by
  unfold modMirror
  simp only [modStep_kept, kept_mk, foldl_kept, ResKeeps, Run.Keeps]
theorem mirrorHeader_kept (s : State) (a0) (a1) (a2) : kept (mirrorHeader s a0 a1 a2) = kept s := by
  unfold mirrorHeader
  simp only [modMem_kept, kept_mk, foldl_kept, ResKeeps, Run.Keeps]
theorem applyToMirror_kept (s : State) (a0) (a1) (a2) : kept (applyToMirror s a0 a1 a2) = kept s := by
  unfold applyToMirror
  grind [applyEntries_kept, mirrorHeader_kept, modMirror_kept, raiseStep_kept, kept, Run.Keeps]
theorem streamArrived_kept (s : State) (a0) : kept (streamArrived s a0) = kept s := by
  unfold streamArrived
  grind [applyToMirror_kept, modMirror_kept, sendCtx_kept, sendError_kept, kept, Run.Keeps]
theorem applyPending_kept (s : State) (a0) : kept (applyPending s a0) = kept s := by
  unfold applyPending
  grind [applyToMirror_kept, modMirror_kept, kept, Run.Keeps]
theorem streamAcked_kept (s : State) (a0) : kept (streamAcked s a0) = kept s := by
  unfold streamAcked
  repeat' split
  all_goals simp only [modRec_kept, opDone_kept, kept_mk, foldl_kept, ResKeeps, Run.Keeps]
theorem streamError_kept (s : State) (a0) (a1) (a2) (a3) (a4) : kept (streamError s a0 a1 a2 a3 a4) = kept s := by
  unfold streamError
  grind [chargeStep_kept, dropOp_kept, failOp_kept, modRec_kept, sendStream_kept, kept, Run.Keeps]
theorem stepEnd_kept (s : State) (a0) (a1) (a2) : kept (stepEnd s a0 a1 a2) = kept s := by
  unfold stepEnd
  simp only [endCmd_kept, modStep_kept, kept_mk, foldl_kept, ResKeeps, Run.Keeps]
theorem recState_kept (s : State) (a0) (a1) : kept (recState s a0 a1) = kept s := by
  unfold recState
  simp only [modRec_kept, setMem_kept, kept_mk, foldl_kept, ResKeeps, Run.Keeps]
theorem endOpen_kept (s : State) : kept (endOpen s) = kept s := by
  unfold endOpen
  repeat' split
  all_goals simp only [modMem_kept, modRec_kept, recState_kept, setMem_kept, kept_mk, foldl_kept, ResKeeps, Run.Keeps]
theorem sealStep_kept (s : State) (a0) : kept (sealStep s a0) = kept s := by
  unfold sealStep
  simp only [applyPending_kept, modStep_kept, setMem_kept, kept_mk, foldl_kept, ResKeeps, Run.Keeps]
theorem openStep_kept (s : State) (a0) : kept (openStep s a0) = kept s := by
  unfold openStep
  simp only [modMem_kept, modStep_kept, kept_mk, foldl_kept, ResKeeps, Run.Keeps]
theorem stepBoundary_kept (s : State) : kept (stepBoundary s) = kept s := by
  unfold stepBoundary
  repeat' (first | simp only [coreBoundary_kept, kept_mk, foldl_kept, ResKeeps, Run.Keeps] | (refine (foldl_kept ?_ _ _).trans ?_; intro _ _; try dsimp only) | refine fromHost_keeps ?_ | split)
  all_goals grind [coreBoundary_kept, kept, Run.Keeps]
theorem stepBegin_kept (s : State) (a0) : kept (stepBegin s a0) = kept s := by
  unfold stepBegin
  split
  · rfl
  · extract_lets n old ans prev s1 s2 s3 s4 s5 s6 s7
    clear_value old
    clear_value ans
    refine ite_kept (stepEnd_kept _ _ _ _) (ite_kept (stepEnd_kept _ _ _ _) (ite_kept (stepEnd_kept _ _ _ _) (ite_kept (stepEnd_kept _ _ _ _) (ite_kept rfl ?_))))
    have h1 : kept s1 = kept s := ite_kept (endOpen_kept _) rfl
    have h2 : kept s2 = kept s := by rw [← h1]; simp only [s2]; split <;> simp only [sealStep_kept]
    have h3 : kept s3 = kept s := (modStep_kept _ _).trans h2
    have h4 : kept s4 = kept s := (openStep_kept _ _).trans h3
    have h5 : kept s5 = kept s := by rw [← h4]; simp only [s5]; split <;> simp only [sendInputs_kept]
    have h6 : kept s6 = kept s := by rw [← h5]; simp only [s6]; split <;> simp only [sendDelta_kept]
    have h7 : kept s7 = kept s := by rw [← h6]; simp only [s7]; split <;> simp only [modStep_kept, sendSync_kept]
    clear_value s1 s7
    split
    · exact (stepEnd_kept _ _ _ _).trans ((ite_kept (recState_kept _ _ _) rfl).trans h1)
    · simp only [endCmd_kept, stepBoundary_kept, h7]
theorem execStepBegin_kept (a0) (s : State) : ResKeeps (kept s) (execStepBegin a0 s) := by
  unfold execStepBegin
  simp only [stepBegin_kept, kept_mk, foldl_kept, ResKeeps, Run.Keeps]
theorem stepConfig_kept (s : State) (a0) : kept (stepConfig s a0) = kept s := by
  unfold stepConfig
  grind [endCmd_kept, modStep_kept, stepEnd_kept, kept, Run.Keeps]
theorem execStepConfig_kept (a0) (s : State) : ResKeeps (kept s) (execStepConfig a0 s) := by
  unfold execStepConfig
  simp only [stepConfig_kept, kept_mk, foldl_kept, ResKeeps, Run.Keeps]
theorem cancelLocals_kept (s : State) (a0) (a1) : kept (cancelLocals s a0 a1) = kept s := by
  unfold cancelLocals
  grind [kept, Run.Keeps]
theorem restoreRec_kept (s : State) (a0) : kept (restoreRec s a0) = kept s := by
  unfold restoreRec
  repeat' (first | simp only [setMem_kept, kept_mk, foldl_kept, ResKeeps, Run.Keeps] | (refine (foldl_kept ?_ _ _).trans ?_; intro _ _; try dsimp only) | refine fromHost_keeps ?_ | split)
  all_goals grind [setMem_kept, kept, Run.Keeps]
theorem replayFinish_kept (s : State) (a0) (a1) : kept (replayFinish s a0 a1) = kept s := by
  unfold replayFinish
  extract_lets cg s1 s2 later s3 slot d s4 s5 s6 s7 s8 s9
  have h1 : kept s1 = kept s := modMem_kept _ _
  have h2 : kept s2 = kept s := (foldl_kept (fun _ _ => restoreRec_kept _ _) _ _).trans h1
  have h3 : kept s3 = kept s := (foldl_kept (fun _ _ => setMem_kept _ _) _ _).trans h2
  have h4 : kept s4 = kept s := (modMem_kept _ _).trans h3
  have h5 : kept s5 = kept s := (modMem_kept _ _).trans h4
  have h6 : kept s6 = kept s := (modMem_kept _ _).trans h5
  have h7 : kept s7 = kept s := (modStep_kept _ _).trans h6
  clear_value s7
  have h8 : kept s8 = kept s := (show kept s8 = kept s7 from rfl).trans h7
  clear_value s8
  have h9 : kept s9 = kept s := by
    refine (foldl_kept (fun s h => foldl_kept (fun s i => ?_) _ _) _ _).trans h8
    have ht := tagAll_kept [(pendAt s h.1 (a1 + i) + 1 + d.inputs, zeroPayload)] s
    split
    rename_i hx
    rw [hx] at ht
    exact (sendPuts_kept _ _ _ _ _).trans ht
  exact (endCmd_kept _ _ _).trans h9
theorem stepReplay_kept (s : State) (a0) : kept (stepReplay s a0) = kept s := by
  unfold stepReplay
  grind [cancelLocals_kept, modStep_kept, replayFinish_kept, stepEnd_kept, kept, Run.Keeps]
theorem execStepReplay_kept (a0) (s : State) : ResKeeps (kept s) (execStepReplay a0 s) := by
  unfold execStepReplay
  simp only [stepReplay_kept, kept_mk, foldl_kept, ResKeeps, Run.Keeps]
theorem replayDrainTimeout_kept (s : State) : kept (replayDrainTimeout s) = kept s := by
  unfold replayDrainTimeout
  repeat' (first | simp only [raiseColl_kept, replayFinish_kept, kept_mk, foldl_kept, ResKeeps, Run.Keeps] | (refine (foldl_kept ?_ _ _).trans ?_; intro _ _; try dsimp only) | refine fromHost_keeps ?_ | split)
  all_goals grind [raiseColl_kept, replayFinish_kept, kept, Run.Keeps]
theorem execReplayDrainTimeout_kept (s : State) : ResKeeps (kept s) (execReplayDrainTimeout s) := by
  unfold execReplayDrainTimeout
  simp only [replayDrainTimeout_kept, kept_mk, foldl_kept, ResKeeps, Run.Keeps]
theorem crossWeigh_kept (s : State) (a0) : kept (crossWeigh s a0) = kept s := by
  unfold crossWeigh
  grind [modStep_kept, stepEnd_kept, kept, Run.Keeps]
theorem execCrossWeigh_kept (a0) (s : State) : ResKeeps (kept s) (execCrossWeigh a0 s) := by
  unfold execCrossWeigh
  simp only [crossWeigh_kept, kept_mk, foldl_kept, ResKeeps, Run.Keeps]
theorem testOwnCores_kept (s : State) (a0) : kept (testOwnCores s a0) = kept s := by
  unfold testOwnCores
  repeat' (first | simp only [addDue_kept, setStanding_kept, kept_mk, foldl_kept, ResKeeps, Run.Keeps] | (refine (foldl_kept ?_ _ _).trans ?_; intro _ _; try dsimp only) | refine fromHost_keeps ?_ | split)
  all_goals grind [addDue_kept, setStanding_kept, kept, Run.Keeps]
theorem crossWeighOutcome_kept (s : State) (a0) (a1) (a2) (a3) : kept (crossWeighOutcome s a0 a1 a2 a3) = kept s := by
  unfold crossWeighOutcome
  grind [chargeStep_kept, endCmd_kept, logRec_kept, modStep_kept, raiseUnit_kept, testOwnCores_kept, kept, Run.Keeps]
theorem execCrossWeighOutcome_kept (a0) (a1) (a2) (a3) (s : State) : ResKeeps (kept s) (execCrossWeighOutcome a0 a1 a2 a3 s) := by
  unfold execCrossWeighOutcome
  simp only [crossWeighOutcome_kept, kept_mk, foldl_kept, ResKeeps, Run.Keeps]
theorem modCkpt_kept (s : State) (a0) : kept (modCkpt s a0) = kept s := by
  unfold modCkpt
  simp only [modStep_kept, kept_mk, foldl_kept, ResKeeps, Run.Keeps]
theorem stageCkpt_kept (s : State) (a0) (a1) : kept (stageCkpt s a0 a1) = kept s := by
  unfold stageCkpt
  simp only [sendPuts_kept, tagAll_kept, kept_mk, foldl_kept, ResKeeps, Run.Keeps]
theorem checkpoint_kept (s : State) (a0) : kept (checkpoint s a0) = kept s := by
  unfold checkpoint
  split
  · rfl
  · extract_lets t k g fail s1 s2 ords s3 s4
    have hf : ∀ s r, kept (fail s r) = kept s := fun s r => (stepEnd_kept _ _ _ _).trans (modCkpt_kept _ _)
    have h1 : kept s1 = kept s := modCkpt_kept _ _
    have h2 : kept s2 = kept s := modCkpt_kept _ _
    have h3 : kept s3 = kept s := modCkpt_kept _ _
    have h4 : kept s4 = kept s := (stageCkpt_kept _ _ _).trans ((modStep_kept _ _).trans h3)
    clear_value fail s1 s2 s3 s4
    refine ite_kept rfl (ite_kept (ite_kept rfl (ite_kept ?_ ?_)) (ite_kept (hf _ _) (ite_kept (hf _ _) (ite_kept (hf _ _) (ite_kept (hf _ _) (ite_kept h4 ?_))))))
    · simp only [stepEnd_kept, modStep_kept, h1]
    · simp only [endCmd_kept, modStep_kept, h2]
    · simp only [modCkpt_kept, h4]
theorem execCheckpoint_kept (a0) (s : State) : ResKeeps (kept s) (execCheckpoint a0 s) := by
  unfold execCheckpoint
  simp only [checkpoint_kept, kept_mk, foldl_kept, ResKeeps, Run.Keeps]
theorem checkpointCommit_kept (s : State) (a0) : kept (checkpointCommit s a0) = kept s := by
  unfold checkpointCommit
  grind [endCmd_kept, modCkpt_kept, stepEnd_kept, kept, Run.Keeps]
theorem execCheckpointCommit_kept (a0) (s : State) : ResKeeps (kept s) (execCheckpointCommit a0 s) := by
  unfold execCheckpointCommit
  simp only [checkpointCommit_kept, kept_mk, foldl_kept, ResKeeps, Run.Keeps]
theorem takeReads_kept (a0) (a1) (a2) (a3) (a4) (a5) (s : State) : kept (takeReads a0 a1 a2 a3 a4 a5 s) = kept s := by
  induction a2 generalizing a3 a4 a5 s with
  | zero => rfl
  | succ n ih =>
    unfold takeReads
    dsimp only
    split
    · rfl
    · rw [ih]; grind [newOp_kept, sendCtx_kept, failOp_kept]
theorem askTakeover_kept (s : State) (a0) : kept (askTakeover s a0) = kept s := by
  unfold askTakeover
  extract_lets d cg chip read s1
  have h1 : ∀ s a b c, kept (read s a b c) = kept s := fun s a b c => takeReads_kept _ _ _ _ _ _ _
  have h2 : kept s1 = kept s := modStep_kept s _
  clear_value read s1
  split
  · refine (foldl_kept (fun s a => by simp only [h1]) _ _).trans ?_
    exact (foldl_kept (fun s a => by simp only [h1]) _ _).trans h2
  · rw [h1]
    refine (foldl_fst ?_ _ _).trans ?_
    · intro acc a; simp only [h1]
    · exact (h1 _ _ _ _).trans h2
theorem remoteRecs_kept (s : State) (a0) : kept (remoteRecs s a0) = kept s := by
  unfold remoteRecs
  repeat' (first | simp only [modMem_kept, modStep_kept, setMem_kept, kept_mk, foldl_kept, ResKeeps, Run.Keeps] | (refine (foldl_kept ?_ _ _).trans ?_; intro _ _; try dsimp only) | refine fromHost_keeps ?_ | split)
  all_goals grind [modMem_kept, modStep_kept, setMem_kept, kept, Run.Keeps]
theorem takeFinish_kept (s : State) (a0) : kept (takeFinish s a0) = kept s := by
  unfold takeFinish
  repeat' (first | simp only [applyEntries_kept, endCmd_kept, modStep_kept, remoteRecs_kept, stepEnd_kept, kept_mk, foldl_kept, ResKeeps, Run.Keeps] | (refine (foldl_kept ?_ _ _).trans ?_; intro _ _; try dsimp only) | refine fromHost_keeps ?_ | split)
  all_goals grind [applyEntries_kept, endCmd_kept, modStep_kept, remoteRecs_kept, stepEnd_kept, kept, Run.Keeps]
theorem takeOther_kept (s : State) (a0) : kept (takeOther s a0) = kept s := by
  unfold takeOther
  repeat' (first | simp only [askTakeover_kept, dropOp_kept, modStep_kept, stepEnd_kept, kept_mk, foldl_kept, ResKeeps, Run.Keeps] | (refine (foldl_kept ?_ _ _).trans ?_; intro _ _; try dsimp only) | refine fromHost_keeps ?_ | split)
  all_goals grind [askTakeover_kept, dropOp_kept, modStep_kept, stepEnd_kept, kept, Run.Keeps]
theorem takeSubst_kept (s : State) (a0) : kept (takeSubst s a0) = kept s := by
  unfold takeSubst
  grind [kept, Run.Keeps]
theorem takeover_kept (s : State) (a0) (a1) : kept (takeover s a0 a1) = kept s := by
  unfold takeover
  grind [askTakeover_kept, modStep_kept, stepEnd_kept, takeFinish_kept, takeOther_kept, takeSubst_kept, kept, Run.Keeps]
theorem execTakeover_kept (a0) (a1) (s : State) : ResKeeps (kept s) (execTakeover a0 a1 s) := by
  unfold execTakeover
  simp only [takeover_kept, kept_mk, foldl_kept, ResKeeps, Run.Keeps]
theorem holderTimeout_kept (s : State) : kept (holderTimeout s) = kept s := by
  unfold holderTimeout
  repeat' split
  all_goals simp only [takeOther_kept, kept_mk, foldl_kept, ResKeeps, Run.Keeps]
theorem execHolderTimeout_kept (s : State) : ResKeeps (kept s) (execHolderTimeout s) := by
  unfold execHolderTimeout
  simp only [holderTimeout_kept, kept_mk, foldl_kept, ResKeeps, Run.Keeps]

end Sys2Proof.Machine
end

