-- ==== Sys2Proof/Laws/KeptTeardown.lean ====
section
/-!
SUPPORT. What the operations of Machine/Teardown.lean keep.
-/
set_option linter.unusedSimpArgs false
namespace Sys2Proof.Machine

theorem endHeld_kept (a0) (s : State) (a1) : kept (endHeld a0 s a1) = kept s := by
  unfold endHeld
  grind [dropRun_kept, ringBell_kept, setEnded_kept, stopLaunch_kept, kept, Run.Keeps]
theorem dropFabric_kept (s : State) (a0) (a1) : kept (dropFabric s a0 a1) = kept s := by
  unfold dropFabric
  grind [modFab_kept, kept, Run.Keeps, FabRun.Keeps]
theorem dropSteps_kept (s : State) : kept (dropSteps s) = kept s := by
  unfold dropSteps
  simp only [modMem_kept, modStep_kept, kept_mk, foldl_kept, ResKeeps, Run.Keeps]
theorem sendRevoke_kept (a0) (a1) (s : State) (a2) : kept (sendRevoke a0 a1 s a2) = kept s := by
  unfold sendRevoke
  simp only [modCtx_kept, modFab_kept, sendReply_kept, kept_mk, foldl_kept, ResKeeps, Run.Keeps]
theorem beginTeardown_kept (s : State) (a0) (a1) (a2) : kept (beginTeardown s a0 a1 a2) = kept s := by
  unfold beginTeardown
  repeat' (first | simp only [dropFabric_kept, dropSteps_kept, endHeld_kept, modCtx_kept, sendRevoke_kept, kept_mk, foldl_kept, ResKeeps, Run.Keeps] | (refine (foldl_kept ?_ _ _).trans ?_; intro _ _; try dsimp only) | refine fromHost_keeps ?_ | split)
  all_goals grind [dropFabric_kept, dropSteps_kept, endHeld_kept, modCtx_kept, sendRevoke_kept, kept, Run.Keeps]
theorem sendVacated_kept (s : State) : kept (sendVacated s) = kept s := by
  unfold sendVacated
  simp only [emit_kept, kept_mk, foldl_kept, ResKeeps, Run.Keeps]
theorem modMgmt_kept (s : State) (a0) : kept (modMgmt s a0) = kept s := by
  unfold modMgmt
  grind [kept, Run.Keeps]
theorem setAlert_kept (s : State) (a0) : kept (setAlert s a0) = kept s := by
  unfold setAlert
  simp only [modMgmt_kept, kept_mk, foldl_kept, ResKeeps, Run.Keeps]
theorem reportVacated_kept (s : State) : kept (reportVacated s) = kept s := by
  unfold reportVacated
  grind [modMgmt_kept, raiseNotice_kept, sendVacated_kept, setAlert_kept, kept, Run.Keeps]
theorem failQueues_kept (s : State) (a0) : kept (failQueues s a0) = kept s := by
  unfold failQueues
  grind [kept, Run.Keeps]
theorem endLaunches_kept (s : State) (a0) : kept (endLaunches s a0) = kept s := by
  unfold endLaunches
  repeat' (first | simp only [launchComplete_kept, kept_mk, foldl_kept, ResKeeps, Run.Keeps] | (refine (foldl_kept ?_ _ _).trans ?_; intro _ _; try dsimp only) | refine fromHost_keeps ?_ | split)
  all_goals grind [launchComplete_kept, kept, Run.Keeps]
theorem closeSteps_kept (s : State) : kept (closeSteps s) = kept s := by
  unfold closeSteps
  simp only [modStep_kept, kept_mk, foldl_kept, ResKeeps, Run.Keeps]
theorem finishTeardown_kept (s : State) (a0) : kept (finishTeardown s a0) = kept s := by
  unfold finishTeardown
  extract_lets x s1 s2 s3 s4 s5 s6 vac s7 s8 hg s9 s10
  have h1 : kept s1 = kept s := (endLaunches_kept _ _).trans (cancelLocals_kept _ _ _)
  have h2 : kept s2 = kept s := (failQueues_kept _ _).trans h1
  have h3 : kept s3 = kept s := (foldl_kept (fun _ _ => disableGroup_kept _ _) _ _).trans h2
  clear_value s3
  have h4 : kept s4 = kept s := (show kept s4 = kept s3 from rfl).trans h3
  have h5 : kept s5 = kept s := (unbindRings_kept _ _).trans h4
  have h6 : kept s6 = kept s := (modFab_kept _ _).trans h5
  have h7 : kept s7 = kept s := by simp only [s7]; exact ite_kept ((closeSteps_kept _).trans h6) h6
  have h8 : kept s8 = kept s := (modCtx_kept _ _ _).trans h7
  clear_value s8
  have h9 : kept s9 = kept s := (show kept s9 = kept s8 from rfl).trans h8
  clear_value s9
  have h10 : kept s10 = kept s := by simp only [s10]; split <;> simp only [endCmd_kept, h9]
  exact (ite_kept (reportVacated_kept _) rfl).trans h10
theorem teardownComplete_kept (s : State) (a0) : kept (teardownComplete s a0) = kept s := by
  unfold teardownComplete
  grind [finishTeardown_kept, kept, Run.Keeps]
theorem execTeardownComplete_kept (a0) (s : State) : ResKeeps (kept s) (execTeardownComplete a0 s) := by
  unfold execTeardownComplete
  simp only [teardownComplete_kept, kept_mk, foldl_kept, ResKeeps, Run.Keeps]
theorem revokeTimeout_kept (s : State) (a0) : kept (revokeTimeout s a0) = kept s := by
  unfold revokeTimeout
  repeat' (first | simp only [finishTeardown_kept, raiseColl_kept, kept_mk, foldl_kept, ResKeeps, Run.Keeps] | (refine (foldl_kept ?_ _ _).trans ?_; intro _ _; try dsimp only) | refine fromHost_keeps ?_ | split)
  all_goals grind [finishTeardown_kept, raiseColl_kept, kept, Run.Keeps]
theorem execRevokeTimeout_kept (a0) (s : State) : ResKeeps (kept s) (execRevokeTimeout a0 s) := by
  unfold execRevokeTimeout
  simp only [revokeTimeout_kept, kept_mk, foldl_kept, ResKeeps, Run.Keeps]
theorem quarantineEnd_kept (s : State) (a0) : kept (quarantineEnd s a0) = kept s := by
  unfold quarantineEnd
  repeat' split
  all_goals simp only [modCtx_kept, kept_mk, foldl_kept, ResKeeps, Run.Keeps]
theorem execQuarantineEnd_kept (a0) (s : State) : ResKeeps (kept s) (execQuarantineEnd a0 s) := by
  unfold execQuarantineEnd
  simp only [quarantineEnd_kept, kept_mk, foldl_kept, ResKeeps, Run.Keeps]
theorem ctxDestroy_kept (s : State) (a0) : kept (ctxDestroy s a0) = kept s := by
  unfold ctxDestroy
  grind [beginTeardown_kept, refuseCmd_kept, kept, Run.Keeps]
theorem execCtxDestroy_kept (a0) (s : State) : ResKeeps (kept s) (execCtxDestroy a0 s) := by
  unfold execCtxDestroy
  simp only [ctxDestroy_kept, kept_mk, foldl_kept, ResKeeps, Run.Keeps]
theorem setVacate_kept (s : State) (a0) : kept (setVacate s a0) = kept s := by
  unfold setVacate
  simp only [modStep_kept, kept_mk, foldl_kept, ResKeeps, Run.Keeps]
theorem abandonStep_kept (s : State) (a0) : kept (abandonStep s a0) = kept s := by
  unfold abandonStep
  repeat' (first | simp only [cancelLocals_kept, dropFabric_kept, endHeld_kept, modMem_kept, modStep_kept, restoreRec_kept, setMem_kept, kept_mk, foldl_kept, ResKeeps, Run.Keeps] | (refine (foldl_kept ?_ _ _).trans ?_; intro _ _; try dsimp only) | refine fromHost_keeps ?_ | split)
  all_goals grind [cancelLocals_kept, dropFabric_kept, endHeld_kept, modMem_kept, modStep_kept, restoreRec_kept, setMem_kept, kept, Run.Keeps, FabRun.Keeps]
theorem abortLate_kept (s : State) (a0) : kept (abortLate s a0) = kept s := by
  unfold abortLate
  grind [modStep_kept, setEnded_kept, kept, Run.Keeps, FabRun.Keeps]
theorem vacateGo_kept (s : State) (a0) (a1) : kept (vacateGo s a0 a1) = kept s := by
  unfold vacateGo
  repeat' (first | simp only [abortLate_kept, beginTeardown_kept, endOpen_kept, sendDelta_kept, setVacate_kept, kept_mk, foldl_kept, ResKeeps, Run.Keeps] | (refine (foldl_kept ?_ _ _).trans ?_; intro _ _; try dsimp only) | refine fromHost_keeps ?_ | split)
  all_goals grind [abortLate_kept, beginTeardown_kept, endOpen_kept, sendDelta_kept, setVacate_kept, kept, Run.Keeps]
theorem vacateBegin_kept (s : State) (a0) : kept (vacateBegin s a0) = kept s := by
  unfold vacateBegin
  repeat' split
  all_goals simp only [abandonStep_kept, setVacate_kept, vacateGo_kept, kept_mk, foldl_kept, ResKeeps, Run.Keeps]
theorem vacate_kept (s : State) (a0) (a1) : kept (vacate s a0 a1) = kept s := by
  unfold vacate
  repeat' split
  all_goals simp only [stepEnd_kept, vacateBegin_kept, vacateGo_kept, kept_mk, foldl_kept, ResKeeps, Run.Keeps]
theorem execVacate_kept (a0) (a1) (s : State) : ResKeeps (kept s) (execVacate a0 a1 s) := by
  unfold execVacate
  simp only [vacate_kept, kept_mk, foldl_kept, ResKeeps, Run.Keeps]
theorem vacateAuto_kept (s : State) : kept (vacateAuto s) = kept s := by
  unfold vacateAuto
  grind [vacateBegin_kept, kept, Run.Keeps]
theorem execVacateAuto_kept (s : State) : ResKeeps (kept s) (execVacateAuto s) := by
  unfold execVacateAuto
  simp only [vacateAuto_kept, kept_mk, foldl_kept, ResKeeps, Run.Keeps]
theorem vacateNoTakeover_kept (s : State) : kept (vacateNoTakeover s) = kept s := by
  unfold vacateNoTakeover
  repeat' split
  all_goals simp only [beginTeardown_kept, raiseStep_kept, setVacate_kept, kept_mk, foldl_kept, ResKeeps, Run.Keeps]
theorem execVacateNoTakeover_kept (s : State) : ResKeeps (kept s) (execVacateNoTakeover s) := by
  unfold execVacateNoTakeover
  simp only [vacateNoTakeover_kept, kept_mk, foldl_kept, ResKeeps, Run.Keeps]

end Sys2Proof.Machine
end

