-- ==== Sys2Proof/Laws/KeptFrames.lean ====
section
/-!
SUPPORT. What the operations of Machine/Frames.lean keep.
-/
set_option linter.unusedSimpArgs false
namespace Sys2Proof.Machine

theorem putEffect_kept (s : State) (a0) : kept (putEffect s a0) = kept s := by
  unfold putEffect
  grind [putCrate_kept, sendError_kept, streamArrived_kept, verifyRx_kept, kept, Run.Keeps]
theorem execPut_kept (a0) (s : State) : ResKeeps (kept s) (execPut a0 s) := by
  unfold execPut
  repeat' (first | simp only [putEffect_kept, recvSeq_kept, kept_mk, foldl_kept, ResKeeps, Run.Keeps] | (refine (foldl_kept ?_ _ _).trans ?_; intro _ _; try dsimp only) | refine fromHost_keeps ?_ | split)
  all_goals grind [putEffect_kept, recvSeq_kept, kept, Run.Keeps]
theorem accEffect_kept (s : State) (a0) : kept (accEffect s a0) = kept s := by
  unfold accEffect
  grind [freeBytes_kept, putCrate_kept, readVerify_kept, sendError_kept, verifyRx_kept, kept, Run.Keeps]
theorem execAccPut_kept (a0) (s : State) : ResKeeps (kept s) (execAccPut a0 s) := by
  unfold execAccPut
  repeat' (first | simp only [accEffect_kept, recvSeq_kept, kept_mk, foldl_kept, ResKeeps, Run.Keeps] | (refine (foldl_kept ?_ _ _).trans ?_; intro _ _; try dsimp only) | refine fromHost_keeps ?_ | split)
  all_goals grind [accEffect_kept, recvSeq_kept, kept, Run.Keeps]
theorem tallyEffect_kept (s : State) (a0) : kept (tallyEffect s a0) = kept s := by
  unfold tallyEffect
  repeat' split
  all_goals simp only [addTally_kept, sendError_kept, streamAcked_kept, kept_mk, foldl_kept, ResKeeps, Run.Keeps]
theorem execTallyAddFrame_kept (a0) (s : State) : ResKeeps (kept s) (execTallyAddFrame a0 s) := by
  unfold execTallyAddFrame
  repeat' (first | simp only [recvSeq_kept, tallyEffect_kept, kept_mk, foldl_kept, ResKeeps, Run.Keeps] | (refine (foldl_kept ?_ _ _).trans ?_; intro _ _; try dsimp only) | refine fromHost_keeps ?_ | split)
  all_goals grind [recvSeq_kept, tallyEffect_kept, kept, Run.Keeps]
theorem sendFrom_kept (s : State) (a0) (a1) (a2) : kept (sendFrom s a0 a1 a2) = kept s := by
  unfold sendFrom
  grind [enqueue_kept, markUsed_kept, useSession_kept, kept, Run.Keeps]
theorem sendCrates_kept (a0) (a1) (a2) (a3) (s : State) : kept (sendCrates a0 a1 a2 a3 s) = kept s := by
  induction a2 generalizing a3 s with
  | zero => rfl
  | succ n ih => unfold sendCrates; grind [moveRead_kept, sendFrom_kept]
theorem getReqEffect_kept (s : State) (a0) : kept (getReqEffect s a0) = kept s := by
  unfold getReqEffect
  grind [sendCrates_kept, sendError_kept, setVacate_kept, kept, Run.Keeps]
theorem execGetReq_kept (a0) (s : State) : ResKeeps (kept s) (execGetReq a0 s) := by
  unfold execGetReq
  repeat' (first | simp only [getReqEffect_kept, recvSeq_kept, kept_mk, foldl_kept, ResKeeps, Run.Keeps] | (refine (foldl_kept ?_ _ _).trans ?_; intro _ _; try dsimp only) | refine fromHost_keeps ?_ | split)
  all_goals grind [getReqEffect_kept, recvSeq_kept, kept, Run.Keeps]
theorem getCounted_kept (s : State) (a0) (a1) : kept (getCounted s a0 a1) = kept s := by
  unfold getCounted
  grind [modOp_kept, opDone_kept, kept, Run.Keeps]
theorem getPost_kept (s : State) (a0) : kept (getPost s a0) = kept s := by
  unfold getPost
  grind [→ implicitPost_ok, → implicitPost_err, scheduleBroken_kept, stationFault_kept, kept, Run.Keeps]
theorem getDataEffect_kept (s : State) (a0) : kept (getDataEffect s a0) = kept s := by
  unfold getDataEffect
  grind [getCounted_kept, getPost_kept, putCrate_kept, sendError_kept, verifyRx_kept, kept, Run.Keeps]
theorem getData_kept (s : State) (a0) : kept (getData s a0) = kept s := by
  unfold getData
  grind [getDataEffect_kept, recvSeq_kept, kept, Run.Keeps]
theorem execGetData_kept (a0) (s : State) : ResKeeps (kept s) (execGetData a0 s) := by
  unfold execGetData
  simp only [getData_kept, kept_mk, foldl_kept, ResKeeps, Run.Keeps]
theorem voidEffect_kept (s : State) (a0) : kept (voidEffect s a0) = kept s := by
  unfold voidEffect
  grind [getCounted_kept, setMem_kept, kept, Run.Keeps]
theorem execVoid_kept (a0) (s : State) : ResKeeps (kept s) (execVoid a0 s) := by
  unfold execVoid
  repeat' (first | simp only [recvSeq_kept, voidEffect_kept, kept_mk, foldl_kept, ResKeeps, Run.Keeps] | (refine (foldl_kept ?_ _ _).trans ?_; intro _ _; try dsimp only) | refine fromHost_keeps ?_ | split)
  all_goals grind [recvSeq_kept, voidEffect_kept, kept, Run.Keeps]
theorem killBind_kept (s : State) (a0) (a1) (a2) : kept (killBind s a0 a1 a2) = kept s := by
  unfold killBind
  simp only [modBind_kept, kept_mk, foldl_kept, ResKeeps, Run.Keeps]
theorem bindRefused_kept (s : State) (a0) : kept (bindRefused s a0) = kept s := by
  unfold bindRefused
  repeat' (first | simp only [failColls_kept, failOp_kept, modFab_kept, kept_mk, foldl_kept, ResKeeps, Run.Keeps] | (refine (foldl_kept ?_ _ _).trans ?_; intro _ _; try dsimp only) | refine fromHost_keeps ?_ | split)
  all_goals grind [failColls_kept, failOp_kept, modFab_kept, kept, Run.Keeps]
theorem errorEffect_kept (s : State) (a0) : kept (errorEffect s a0) = kept s := by
  unfold errorEffect
  grind [bindRefused_kept, failColls_kept, failOp_kept, killBind_kept, streamError_kept, kept, Run.Keeps]
theorem execError_kept (a0) (s : State) : ResKeeps (kept s) (execError a0 s) := by
  unfold execError
  repeat' (first | simp only [errorEffect_kept, recvSeq_kept, kept_mk, foldl_kept, ResKeeps, Run.Keeps] | (refine (foldl_kept ?_ _ _).trans ?_; intro _ _; try dsimp only) | refine fromHost_keeps ?_ | split)
  all_goals grind [errorEffect_kept, recvSeq_kept, kept, Run.Keeps]
theorem revokeEffect_kept (s : State) (a0) : kept (revokeEffect s a0) = kept s := by
  unfold revokeEffect
  repeat' (first | simp only [failColls_kept, failOp_kept, killBind_kept, modFab_kept, sendReply_kept, kept_mk, foldl_kept, ResKeeps, Run.Keeps] | (refine (foldl_kept ?_ _ _).trans ?_; intro _ _; try dsimp only) | refine fromHost_keeps ?_ | split)
  all_goals grind [failColls_kept, failOp_kept, killBind_kept, modFab_kept, sendReply_kept, kept, Run.Keeps]
theorem execRevoke_kept (a0) (s : State) : ResKeeps (kept s) (execRevoke a0 s) := by
  unfold execRevoke
  repeat' (first | simp only [recvSeq_kept, revokeEffect_kept, kept_mk, foldl_kept, ResKeeps, Run.Keeps] | (refine (foldl_kept ?_ _ _).trans ?_; intro _ _; try dsimp only) | refine fromHost_keeps ?_ | split)
  all_goals grind [recvSeq_kept, revokeEffect_kept, kept, Run.Keeps]
theorem revokeAckEffect_kept (s : State) (a0) : kept (revokeAckEffect s a0) = kept s := by
  unfold revokeAckEffect
  repeat' split
  all_goals simp only [modCtx_kept, kept_mk, foldl_kept, ResKeeps, Run.Keeps]
theorem execRevokeAck_kept (a0) (s : State) : ResKeeps (kept s) (execRevokeAck a0 s) := by
  unfold execRevokeAck
  repeat' (first | simp only [recvSeq_kept, revokeAckEffect_kept, kept_mk, foldl_kept, ResKeeps, Run.Keeps] | (refine (foldl_kept ?_ _ _).trans ?_; intro _ _; try dsimp only) | refine fromHost_keeps ?_ | split)
  all_goals grind [recvSeq_kept, revokeAckEffect_kept, kept, Run.Keeps]
theorem bindEffect_kept (s : State) (a0) : kept (bindEffect s a0) = kept s := by
  unfold bindEffect
  grind [modFab_kept, sendError_kept, sendReply_kept, kept, Run.Keeps]
theorem execBind_kept (a0) (s : State) : ResKeeps (kept s) (execBind a0 s) := by
  unfold execBind
  repeat' (first | simp only [bindEffect_kept, recvSeq_kept, kept_mk, foldl_kept, ResKeeps, Run.Keeps] | (refine (foldl_kept ?_ _ _).trans ?_; intro _ _; try dsimp only) | refine fromHost_keeps ?_ | split)
  all_goals grind [bindEffect_kept, recvSeq_kept, kept, Run.Keeps]
theorem bindReplyEffect_kept (s : State) (a0) : kept (bindReplyEffect s a0) = kept s := by
  unfold bindReplyEffect
  repeat' split
  all_goals simp only [modBind_kept, modFab_kept, kept_mk, foldl_kept, ResKeeps, Run.Keeps]
theorem execBindReply_kept (a0) (s : State) : ResKeeps (kept s) (execBindReply a0 s) := by
  unfold execBindReply
  repeat' (first | simp only [bindReplyEffect_kept, recvSeq_kept, kept_mk, foldl_kept, ResKeeps, Run.Keeps] | (refine (foldl_kept ?_ _ _).trans ?_; intro _ _; try dsimp only) | refine fromHost_keeps ?_ | split)
  all_goals grind [bindReplyEffect_kept, recvSeq_kept, kept, Run.Keeps]

end Sys2Proof.Machine
end

