-- ==== Sys2Proof/Laws/KeptRegRead.lean ====
section
/-!
SUPPORT. What the operations of Machine/RegRead.lean keep.
-/
set_option linter.unusedSimpArgs false
namespace Sys2Proof.Machine

theorem setRegErr_kept (s : State) (a0) (a1) (a2) (a3) : kept (setRegErr s a0 a1 a2 a3) = kept s := by
  unfold setRegErr
  grind [kept, Run.Keeps]
theorem regRead_kept (s : State) (a0) (a1) : kept (regRead s a0 a1) = kept s := by
  unfold regRead
  repeat' split
  all_goals simp only [emit_kept, setRegErr_kept, kept_mk, foldl_kept, ResKeeps, Run.Keeps]
theorem execRegReadRefused_kept (a0) (a1) (s : State) : ResKeeps (kept s) (execRegReadRefused a0 a1 s) := by
  unfold execRegReadRefused
  simp only [regRead_kept, kept_mk, foldl_kept, ResKeeps, Run.Keeps]

end Sys2Proof.Machine
end

