-- ==== Sys2Proof/Laws/KeptBoot.lean ====
section
/-!
SUPPORT. What the operations of Machine/Boot.lean keep.
-/
set_option linter.unusedSimpArgs false
namespace Sys2Proof.Machine

theorem modBoot_kept (s : State) (a0) : kept (modBoot s a0) = kept s := by
  unfold modBoot
  grind [kept, Run.Keeps]
theorem modPwr_kept (s : State) (a0) : kept (modPwr s a0) = kept s := by
  unfold modPwr
  grind [kept, Run.Keeps]
theorem modLedger_kept (s : State) (a0) : kept (modLedger s a0) = kept s := by
  unfold modLedger
  grind [kept, Run.Keeps]
theorem respond_kept (s : State) (a0) (a1) (a2) (a3) (a4) : kept (respond s a0 a1 a2 a3 a4) = kept s := by
  unfold respond
  simp only [emit_kept, modMgmt_kept, kept_mk, foldl_kept, ResKeeps, Run.Keeps]
theorem chipReset_kept (s : State) (a0) (a1) (a2) : kept (chipReset s a0 a1 a2) = kept s := by
  unfold chipReset
  grind [kept, Run.Keeps]
theorem requestPower_kept (s : State) (a0) : kept (requestPower s a0) = kept s := by
  unfold requestPower
  simp only [modBoot_kept, kept_mk, foldl_kept, ResKeeps, Run.Keeps]
theorem levelFour_kept (s : State) (a0) (a1) : kept (levelFour s a0 a1) = kept s := by
  unfold levelFour
  exact ite_kept ((requestPower_kept _ _).trans (chipReset_kept _ _ _ _)) (chipReset_kept _ _ _ _)
theorem execResetNAsserted_kept (s : State) : ResKeeps (kept s) (execResetNAsserted s) := by
  unfold execResetNAsserted
  repeat' split
  all_goals simp only [levelFour_kept, kept_mk, foldl_kept, ResKeeps, Run.Keeps]
theorem assertionEnd_kept (s : State) (a0) : kept (assertionEnd s a0) = kept s := by
  unfold assertionEnd
  repeat' split
  all_goals simp only [modBoot_kept, modPwr_kept, kept_mk, foldl_kept, ResKeeps, Run.Keeps]
theorem execAssertionEnd_kept (a0) (s : State) : ResKeeps (kept s) (execAssertionEnd a0 s) := by
  unfold execAssertionEnd
  simp only [assertionEnd_kept, kept_mk, foldl_kept, ResKeeps, Run.Keeps]
theorem optionLoading_kept (s : State) (a0) : kept (optionLoading s a0) = kept s := by
  unfold optionLoading
  grind [modBoot_kept, kept, Run.Keeps]
theorem execOptionLoading_kept (a0) (s : State) : ResKeeps (kept s) (execOptionLoading a0 s) := by
  unfold execOptionLoading
  simp only [optionLoading_kept, kept_mk, foldl_kept, ResKeeps, Run.Keeps]
theorem updateDir_kept (s : State) (a0) : kept (updateDir s a0) = kept s := by
  unfold updateDir
  repeat' split
  all_goals simp only [modBoot_kept, kept_mk, foldl_kept, ResKeeps, Run.Keeps]
theorem setBank_kept (s : State) (a0) (a1) : kept (setBank s a0 a1) = kept s := by
  unfold setBank
  repeat' split
  all_goals simp only [modBoot_kept, kept_mk, foldl_kept, ResKeeps, Run.Keeps]
theorem programBank_kept (s : State) (a0) (a1) (a2) : kept (programBank s a0 a1 a2) = kept s := by
  unfold programBank
  simp only [setBank_kept, kept_mk, foldl_kept, ResKeeps, Run.Keeps]
theorem eraseBank_kept (s : State) (a0) : kept (eraseBank s a0) = kept s := by
  unfold eraseBank
  simp only [setBank_kept, kept_mk, foldl_kept, ResKeeps, Run.Keeps]
theorem startBank_kept (s : State) (a0) (a1) (a2) : kept (startBank s a0 a1 a2) = kept s := by
  unfold startBank
  simp only [modBoot_kept, updateDir_kept, kept_mk, foldl_kept, ResKeeps, Run.Keeps]
theorem bootRom_kept (s : State) : kept (bootRom s) = kept s := by
  unfold bootRom
  refine ite_kept rfl ?_
  dsimp only
  refine ite_kept (startBank_kept _ _ _ _) (ite_kept (startBank_kept _ _ _ _) ((setAlert_kept _ _).trans (modBoot_kept _ _)))
theorem execBootRom_kept (s : State) : ResKeeps (kept s) (execBootRom s) := by
  unfold execBootRom
  simp only [bootRom_kept, kept_mk, foldl_kept, ResKeeps, Run.Keeps]
theorem applyRepair_kept (a0) (a1) : kept (applyRepair a0 a1).1 = kept a0.1 := by
  obtain ⟨s, ret⟩ := a0
  unfold applyRepair
  dsimp only
  repeat' split
  all_goals first | exact logRec_kept _ _ _ _ _ | exact modUnit_kept s (siteUnit (leAt a1.data 0 1) (leAt a1.data 2 1)) (fun u => { u with standing := 2 })
theorem buildMap_kept (s : State) : kept (buildMap s) = kept s := by
  unfold buildMap
  extract_lets recs s1
  have h1 : kept s1 = kept s := by
    simp only [s1]
    have : ∀ (l : List LedgerRec) (x : State × List (Nat × Nat)), kept (l.foldl applyRepair x).1 = kept x.1 :=
      fun l x => foldl_fst (fun x a => applyRepair_kept x a) l x
    exact this recs _
  clear_value s1
  exact (show _ = kept s1 from rfl).trans h1
theorem retest_kept (s : State) (a0) : kept (retest s a0) = kept s := by
  unfold retest
  grind [logRec_kept, modUnit_kept, raiseUnit_kept, setStanding_kept, kept, Run.Keeps]
theorem bootCore_kept (s : State) (a0) : kept (bootCore s a0) = kept s := by
  unfold bootCore
  grind [repairCore_kept, kept, Run.Keeps]
theorem mountLedger_kept (s : State) (a0) : kept (mountLedger s a0) = kept s := by
  unfold mountLedger
  repeat' split
  all_goals simp only [modLedger_kept, raiseUnit_kept, kept_mk, foldl_kept, ResKeeps, Run.Keeps]
theorem bootRecords_kept (s : State) : kept (bootRecords s) = kept s := by
  unfold bootRecords
  repeat' split
  all_goals simp only [logRec_kept, modLedger_kept, kept_mk, foldl_kept, ResKeeps, Run.Keeps]
theorem loadEvents_kept (s : State) (a0) (a1) : kept (loadEvents s a0 a1) = kept s := by
  unfold loadEvents
  repeat' (first | simp only [modRing_kept, kept_mk, foldl_kept, ResKeeps, Run.Keeps] | (refine (foldl_kept ?_ _ _).trans ?_; intro _ _; try dsimp only) | refine fromHost_keeps ?_ | split)
  all_goals grind [modRing_kept, kept, Run.Keeps]
theorem chooseTemplate_kept (s : State) : kept (chooseTemplate s) = kept s := by
  unfold chooseTemplate
  repeat' split
  all_goals simp only [modBoot_kept, raiseUnit_kept, kept_mk, foldl_kept, ResKeeps, Run.Keeps]
theorem bootPorts_kept (s : State) : kept (bootPorts s) = kept s := by
  unfold bootPorts
  repeat' (first | simp only [modPort_kept, portEnable_kept, kept_mk, foldl_kept, ResKeeps, Run.Keeps] | (refine (foldl_kept ?_ _ _).trans ?_; intro _ _; try dsimp only) | refine fromHost_keeps ?_ | split)
  all_goals grind [modPort_kept, portEnable_kept, kept, Run.Keeps]
theorem firmwarePhase_kept (s : State) (a0) (a1) (a2) (a3) : kept (firmwarePhase s a0 a1 a2 a3) = kept s := by
  unfold firmwarePhase
  refine ite_kept rfl ?_
  extract_lets s1 s2 s3 s4 s5 s6 s7 s8
  have h1 : kept s1 = kept s := loadEvents_kept _ _ _
  clear_value s1
  have h2 : kept s2 = kept s := (bootRecords_kept _).trans ((mountLedger_kept _ _).trans h1)
  clear_value s2
  have h3 : kept s3 = kept s := by simp only [s3]; exact ite_kept (by simp only [raiseUnit_kept, modLedger_kept, h2]) h2
  clear_value s3
  have h4 : kept s4 = kept s := by simp only [s4]; exact ite_kept (by simp only [raiseUnit_kept, h3]) h3
  clear_value s4
  have h5 : kept s5 = kept s := (foldl_kept (fun _ _ => retest_kept _ _) _ _).trans ((buildMap_kept _).trans h4)
  clear_value s5
  have h6 : kept s6 = kept s := (foldl_kept (fun _ _ => bootCore_kept _ _) _ _).trans h5
  clear_value s6
  have h7 : kept s7 = kept s := (kept_cp s6 _).trans h6
  clear_value s7
  have h8 : kept s8 = kept s := (bootPorts_kept _).trans ((chooseTemplate_kept _).trans h7)
  exact (modBoot_kept _ _).trans h8
theorem execFirmwarePhase_kept (a0) (a1) (a2) (a3) (s : State) : ResKeeps (kept s) (execFirmwarePhase a0 a1 a2 a3 s) := by
  unfold execFirmwarePhase
  simp only [firmwarePhase_kept, kept_mk, foldl_kept, ResKeeps, Run.Keeps]
theorem trainChan_kept (s : State) (a0) : kept (trainChan s a0) = kept s := by
  unfold trainChan
  repeat' (first | simp only [logLane_kept, logRec_kept, modChan_kept, modUnit_kept, kept_mk, foldl_kept, ResKeeps, Run.Keeps] | (refine (foldl_kept ?_ _ _).trans ?_; intro _ _; try dsimp only) | refine fromHost_keeps ?_ | split)
  all_goals grind [logLane_kept, logRec_kept, modChan_kept, modUnit_kept, kept, Run.Keeps]
theorem trainPort_kept (s : State) (a0) : kept (trainPort s a0) = kept s := by
  unfold trainPort
  simp only [portTrainingDone_kept, kept_mk, foldl_kept, ResKeeps, Run.Keeps]
theorem phyTraining_kept (s : State) (a0) (a1) : kept (phyTraining s a0 a1) = kept s := by
  unfold phyTraining
  repeat' (first | simp only [trainChan_kept, trainPort_kept, kept_mk, foldl_kept, ResKeeps, Run.Keeps] | (refine (foldl_kept ?_ _ _).trans ?_; intro _ _; try dsimp only) | refine fromHost_keeps ?_ | split)
  all_goals grind [trainChan_kept, trainPort_kept, kept, Run.Keeps]
theorem execPhyTraining_kept (a0) (a1) (s : State) : ResKeeps (kept s) (execPhyTraining a0 a1 s) := by
  unfold execPhyTraining
  simp only [phyTraining_kept, kept_mk, foldl_kept, ResKeeps, Run.Keeps]
theorem defaultParts_kept (s : State) : kept (defaultParts s) = kept s := by
  unfold defaultParts
  repeat' (first | simp only [makePart_kept, kept_mk, foldl_kept, ResKeeps, Run.Keeps] | (refine (foldl_kept ?_ _ _).trans ?_; intro _ _; try dsimp only) | refine fromHost_keeps ?_ | split)
  all_goals grind [makePart_kept, kept, Run.Keeps]
theorem ready_kept (s : State) : kept (ready s) = kept s := by
  unfold ready
  repeat' split
  all_goals simp only [defaultParts_kept, lowPins_kept, modBoot_kept, updateDir_kept, kept_mk, foldl_kept, ResKeeps, Run.Keeps]
theorem execReady_kept (s : State) : ResKeeps (kept s) (execReady s) := by
  unfold execReady
  simp only [ready_kept, kept_mk, foldl_kept, ResKeeps, Run.Keeps]
theorem flrEffects_kept (s : State) : kept (flrEffects s) = kept s := by
  unfold flrEffects
  repeat' (first | simp only [beginTeardown_kept, endHeld_kept, launchComplete_kept, kept_mk, foldl_kept, ResKeeps, Run.Keeps] | (refine (foldl_kept ?_ _ _).trans ?_; intro _ _; try dsimp only) | refine fromHost_keeps ?_ | split)
  all_goals grind [beginTeardown_kept, endHeld_kept, launchComplete_kept, kept, Run.Keeps]
theorem execFunctionLevelReset_kept (s : State) : ResKeeps (kept s) (execFunctionLevelReset s) := by
  unfold execFunctionLevelReset
  repeat' split
  all_goals simp only [flrEffects_kept, kept_mk, foldl_kept, ResKeeps, Run.Keeps]
theorem execPerst_kept (s : State) : ResKeeps (kept s) (execPerst s) := by
  unfold execPerst
  exact ite_kept (flrEffects_kept s) rfl
theorem execPcieLinkDown_kept (s : State) : ResKeeps (kept s) (execPcieLinkDown s) := by
  unfold execPcieLinkDown
  repeat' (first | simp only [kept_mk, foldl_kept, ResKeeps, Run.Keeps] | (refine (foldl_kept ?_ _ _).trans ?_; intro _ _; try dsimp only) | refine fromHost_keeps ?_ | split)
  all_goals grind [kept, Run.Keeps]
theorem execPcieLinkUp_kept (s : State) : ResKeeps (kept s) (execPcieLinkUp s) := by
  unfold execPcieLinkUp
  repeat' (first | simp only [kept_mk, foldl_kept, ResKeeps, Run.Keeps] | (refine (foldl_kept ?_ _ _).trans ?_; intro _ _; try dsimp only) | refine fromHost_keeps ?_ | split)
  all_goals grind [kept, Run.Keeps]
theorem pcieReadError_kept (s : State) (a0) (a1) : kept (pcieReadError s a0 a1) = kept s := by
  unfold pcieReadError
  grind [endCmd_kept, modQueue_kept, kept, Run.Keeps]
theorem execPcieReadError_kept (a0) (a1) (s : State) : ResKeeps (kept s) (execPcieReadError a0 a1 s) := by
  unfold execPcieReadError
  simp only [pcieReadError_kept, kept_mk, foldl_kept, ResKeeps, Run.Keeps]

end Sys2Proof.Machine
end

