-- ==== Sys2Proof/Laws/KeptCapture.lean ====
section
/-!
SUPPORT. What the operations of Machine/Capture.lean keep.
-/
set_option linter.unusedSimpArgs false
namespace Sys2Proof.Machine

theorem takeCapture_kept (s : State) (a0) (a1) (a2) (a3) (a4) (a5) (a6) (a7) : kept (takeCapture s a0 a1 a2 a3 a4 a5 a6 a7).1 = kept s := by
  unfold takeCapture
  grind [kept, Run.Keeps]
theorem captureRead_kept (s : State) (a0) : kept (captureRead s a0) = kept s := by
  unfold captureRead
  repeat' split
  all_goals simp only [endCmd_kept, hostWrite_kept, kept_mk, foldl_kept, ResKeeps, Run.Keeps]
theorem execCaptureRead_kept (a0) (s : State) : ResKeeps (kept s) (execCaptureRead a0 s) := by
  unfold execCaptureRead
  simp only [captureRead_kept, kept_mk, foldl_kept, ResKeeps, Run.Keeps]

end Sys2Proof.Machine
end

