-- ==== Sys2Proof/Laws/KeptHang.lean ====
section
/-!
SUPPORT. What the operations of Machine/Hang.lean keep.
-/
set_option linter.unusedSimpArgs false
namespace Sys2Proof.Machine

theorem modHang_kept (s : State) (a0) : kept (modHang s a0) = kept s := by
  unfold modHang
  grind [kept, Run.Keeps]
theorem noteCause_kept (s : State) (a0) (a1) (a2) : kept (noteCause s a0 a1 a2) = kept s := by
  unfold noteCause
  simp only [modBoot_kept, kept_mk, foldl_kept, ResKeeps, Run.Keeps]
theorem escalate_kept (s : State) (a0) (a1) : kept (escalate s a0 a1) = kept s := by
  unfold escalate
  grind [chargeNow_kept, logRec_kept, modHang_kept, noteCause_kept, setAlert_kept, takeCapture_kept, kept, Run.Keeps]
theorem hubEscReq_kept (s : State) (a0) : kept (hubEscReq s a0) = kept s := by
  unfold hubEscReq
  grind [escalate_kept, modHang_kept, kept, Run.Keeps]
theorem hangCfgWrite_kept (s : State) (a0) : kept (hangCfgWrite s a0) = kept s := by
  unfold hangCfgWrite
  grind [modHang_kept, kept, Run.Keeps]
theorem declareHang_kept (s : State) (a0) (a1) : kept (declareHang s a0 a1) = kept s := by
  unfold declareHang
  grind [escalate_kept, modHang_kept, raiseUnit_kept, takeCapture_kept, kept, Run.Keeps]
theorem hangEvaluation_kept (s : State) : kept (hangEvaluation s) = kept s := by
  unfold hangEvaluation
  repeat' (first | simp only [declareHang_kept, modHang_kept, kept_mk, foldl_kept, ResKeeps, Run.Keeps] | (refine (foldl_kept ?_ _ _).trans ?_; intro _ _; try dsimp only) | refine fromHost_keeps ?_ | split)
  all_goals grind [declareHang_kept, modHang_kept, kept, Run.Keeps]
theorem execHangEvaluation_kept (s : State) : ResKeeps (kept s) (execHangEvaluation s) := by
  unfold execHangEvaluation
  simp only [hangEvaluation_kept, kept_mk, foldl_kept, ResKeeps, Run.Keeps]
theorem escalationContext_kept (s : State) (a0) : kept (escalationContext s a0) = kept s := by
  unfold escalationContext
  grind [beginTeardown_kept, modHang_kept, kept, Run.Keeps]
theorem execEscalationContext_kept (a0) (s : State) : ResKeeps (kept s) (execEscalationContext a0 s) := by
  unfold execEscalationContext
  simp only [escalationContext_kept, kept_mk, foldl_kept, ResKeeps, Run.Keeps]
theorem poisonOpen_kept (s : State) (a0) : kept (poisonOpen s a0) = kept s := by
  unfold poisonOpen
  repeat' (first | simp only [modMem_kept, setMem_kept, kept_mk, foldl_kept, ResKeeps, Run.Keeps] | (refine (foldl_kept ?_ _ _).trans ?_; intro _ _; try dsimp only) | refine fromHost_keeps ?_ | split)
  all_goals grind [modMem_kept, setMem_kept, kept, Run.Keeps]
theorem errorResponse_kept (s : State) (a0) : kept (errorResponse s a0) = kept s := by
  unfold errorResponse
  grind [collFail_kept, endCmd_kept, stopLaunch_kept, kept, Run.Keeps]
theorem dropTransfers_kept (s : State) (a0) : kept (dropTransfers s a0) = kept s := by
  unfold dropTransfers
  repeat' (first | simp only [dropOp_kept, modCore_kept, setMem_kept, kept_mk, foldl_kept, ResKeeps, Run.Keeps] | (refine (foldl_kept ?_ _ _).trans ?_; intro _ _; try dsimp only) | refine fromHost_keeps ?_ | split)
  all_goals grind [dropOp_kept, modCore_kept, setMem_kept, kept, Run.Keeps]
theorem resetSite_kept (s : State) (a0) : kept (resetSite s a0) = kept s := by
  unfold resetSite
  repeat' split
  all_goals simp only [dropTransfers_kept, modCore_kept, poisonOpen_kept, stopLaunch_kept, kept_mk, foldl_kept, ResKeeps, Run.Keeps]
theorem handoverFail_kept (s : State) : kept (handoverFail s) = kept s := by
  unfold handoverFail
  grind [endCmd_kept, modBoot_kept, respond_kept, kept, Run.Keeps]
theorem resetEngine_kept (s : State) (a0) (a1) : kept (resetEngine s a0 a1) = kept s := by
  unfold resetEngine
  repeat' (first | simp only [chargeNow_kept, collFail_kept, handoverFail_kept, modChan_kept, modMem_kept, poisonOpen_kept, portDown_kept, raiseUnit_kept, resetSite_kept, kept_mk, foldl_kept, ResKeeps, Run.Keeps] | (refine (foldl_kept ?_ _ _).trans ?_; intro _ _; try dsimp only) | refine fromHost_keeps ?_ | split)
  all_goals grind [chargeNow_kept, collFail_kept, handoverFail_kept, modChan_kept, modMem_kept, poisonOpen_kept, portDown_kept, raiseUnit_kept, resetSite_kept, kept, Run.Keeps]
theorem escDone_kept (s : State) (a0) : kept (escDone s a0) = kept s := by
  unfold escDone
  simp only [modHang_kept, kept_mk, foldl_kept, ResKeeps, Run.Keeps]
theorem escalationEngine_kept (s : State) (a0) (a1) (a2) (a3) : kept (escalationEngine s a0 a1 a2 a3) = kept s := by
  unfold escalationEngine
  repeat' (first | simp only [errorResponse_kept, escDone_kept, escalate_kept, resetEngine_kept, setMem_kept, kept_mk, foldl_kept, ResKeeps, Run.Keeps] | (refine (foldl_kept ?_ _ _).trans ?_; intro _ _; try dsimp only) | refine fromHost_keeps ?_ | split)
  all_goals grind [errorResponse_kept, escDone_kept, escalate_kept, resetEngine_kept, setMem_kept, kept, Run.Keeps]
theorem execEscalationEngine_kept (a0) (a1) (a2) (a3) (s : State) : ResKeeps (kept s) (execEscalationEngine a0 a1 a2 a3 s) := by
  unfold execEscalationEngine
  simp only [escalationEngine_kept, kept_mk, foldl_kept, ResKeeps, Run.Keeps]
theorem escalationPartition_kept (s : State) (a0) (a1) : kept (escalationPartition s a0 a1) = kept s := by
  unfold escalationPartition
  repeat' (first | simp only [beginTeardown_kept, escDone_kept, modHang_kept, modMem_kept, resetEngine_kept, zeroPlain_kept, kept_mk, foldl_kept, ResKeeps, Run.Keeps] | (refine (foldl_kept ?_ _ _).trans ?_; intro _ _; try dsimp only) | refine fromHost_keeps ?_ | split)
  all_goals grind [beginTeardown_kept, escDone_kept, modHang_kept, modMem_kept, resetEngine_kept, zeroPlain_kept, kept, Run.Keeps]
theorem execEscalationPartition_kept (a0) (a1) (s : State) : ResKeeps (kept s) (execEscalationPartition a0 a1 s) := by
  unfold execEscalationPartition
  simp only [escalationPartition_kept, kept_mk, foldl_kept, ResKeeps, Run.Keeps]
theorem sendAll_kept (a0) (s : State) : kept (sendAll a0 s) = kept s := by
  induction a0 generalizing s with
  | zero => rfl
  | succ n ih =>
    unfold sendAll
    rw [ih]
    exact foldl_kept (fun s p => foldl_kept (fun s l => frameSend_kept _ _ _) _ _) _ _
theorem sendFarewell_kept (s : State) : kept (sendFarewell s) = kept s := by
  unfold sendFarewell
  repeat' (first | simp only [modFab_kept, ringBell_kept, sendAll_kept, sendRevoke_kept, kept_mk, foldl_kept, ResKeeps, Run.Keeps] | (refine (foldl_kept ?_ _ _).trans ?_; intro _ _; try dsimp only) | refine fromHost_keeps ?_ | split)
  all_goals grind [modFab_kept, ringBell_kept, sendAll_kept, sendRevoke_kept, kept, Run.Keeps]
theorem escalationChip_kept (s : State) : kept (escalationChip s) = kept s := by
  unfold escalationChip
  repeat' split
  all_goals simp only [levelFour_kept, sendFarewell_kept, kept_mk, foldl_kept, ResKeeps, Run.Keeps]
theorem execEscalationChip_kept (s : State) : ResKeeps (kept s) (execEscalationChip s) := by
  unfold execEscalationChip
  simp only [escalationChip_kept, kept_mk, foldl_kept, ResKeeps, Run.Keeps]
theorem escalationPowerCycle_kept (s : State) : kept (escalationPowerCycle s) = kept s := by
  unfold escalationPowerCycle
  repeat' split
  all_goals simp only [modBoot_kept, sendFarewell_kept, kept_mk, foldl_kept, ResKeeps, Run.Keeps]
theorem execEscalationPowerCycle_kept (s : State) : ResKeeps (kept s) (execEscalationPowerCycle s) := by
  unfold execEscalationPowerCycle
  simp only [escalationPowerCycle_kept, kept_mk, foldl_kept, ResKeeps, Run.Keeps]
theorem powerCycleTimeout_kept (s : State) : kept (powerCycleTimeout s) = kept s := by
  unfold powerCycleTimeout
  repeat' split
  all_goals simp only [chipReset_kept, logRec_kept, modBoot_kept, kept_mk, foldl_kept, ResKeeps, Run.Keeps]
theorem execPowerCycleTimeout_kept (s : State) : ResKeeps (kept s) (execPowerCycleTimeout s) := by
  unfold execPowerCycleTimeout
  simp only [powerCycleTimeout_kept, kept_mk, foldl_kept, ResKeeps, Run.Keeps]
theorem readyTimeout_kept (s : State) : kept (readyTimeout s) = kept s := by
  unfold readyTimeout
  repeat' split
  all_goals simp only [requestPower_kept, setAlert_kept, kept_mk, foldl_kept, ResKeeps, Run.Keeps]
theorem execReadyTimeout_kept (s : State) : ResKeeps (kept s) (execReadyTimeout s) := by
  unfold execReadyTimeout
  simp only [readyTimeout_kept, kept_mk, foldl_kept, ResKeeps, Run.Keeps]
theorem stewardWatchdog_kept (s : State) : kept (stewardWatchdog s) = kept s := by
  unfold stewardWatchdog
  repeat' split
  all_goals simp only [levelFour_kept, setAlert_kept, kept_mk, foldl_kept, ResKeeps, Run.Keeps]
theorem execStewardWatchdog_kept (s : State) : ResKeeps (kept s) (execStewardWatchdog s) := by
  unfold execStewardWatchdog
  simp only [stewardWatchdog_kept, kept_mk, foldl_kept, ResKeeps, Run.Keeps]
theorem execCoreStopTimeout_kept (a0) (s : State) : ResKeeps (kept s) (execCoreStopTimeout a0 s) := by
  unfold execCoreStopTimeout
  repeat' split
  all_goals simp only [escalate_kept, kept_mk, foldl_kept, ResKeeps, Run.Keeps]
theorem execHeartbeatMissed_kept (a0) (a1) (s : State) : ResKeeps (kept s) (execHeartbeatMissed a0 a1 s) := by
  unfold execHeartbeatMissed
  repeat' split
  all_goals simp only [escalate_kept, kept_mk, foldl_kept, ResKeeps, Run.Keeps]
theorem execEngineNoAnswer_kept (a0) (s : State) : ResKeeps (kept s) (execEngineNoAnswer a0 s) := by
  unfold execEngineNoAnswer
  dsimp only
  (repeat' split) <;> simp only [escalate_kept, kept_mk, foldl_kept, ResKeeps, Run.Keeps]
theorem execTransferCancelTimeout_kept (a0) (a1) (a2) (s : State) : ResKeeps (kept s) (execTransferCancelTimeout a0 a1 a2 s) := by
  unfold execTransferCancelTimeout
  repeat' split
  all_goals simp only [escalate_kept, kept_mk, foldl_kept, ResKeeps, Run.Keeps]
theorem escalationOverrun_kept (s : State) (a0) (a1) : kept (escalationOverrun s a0 a1) = kept s := by
  unfold escalationOverrun
  repeat' split
  all_goals simp only [escDone_kept, escalate_kept, kept_mk, foldl_kept, ResKeeps, Run.Keeps]
theorem execEscalationOverrun_kept (a0) (a1) (s : State) : ResKeeps (kept s) (execEscalationOverrun a0 a1 s) := by
  unfold execEscalationOverrun
  simp only [escalationOverrun_kept, kept_mk, foldl_kept, ResKeeps, Run.Keeps]

end Sys2Proof.Machine
end

