-- ==== Sys2Proof/Laws/KeptPower.lean ====
section
/-!
SUPPORT. What the operations of Machine/Power.lean keep.
-/
set_option linter.unusedSimpArgs false
namespace Sys2Proof.Machine

theorem referenceLost_kept (s : State) : kept (referenceLost s) = kept s := by
  unfold referenceLost
  grind [modFab_kept, modPwr_kept, raiseUnit_kept, kept, Run.Keeps]
theorem execReferenceLost_kept (s : State) : ResKeeps (kept s) (execReferenceLost s) := by
  unfold execReferenceLost
  simp only [referenceLost_kept, kept_mk, foldl_kept, ResKeeps, Run.Keeps]
theorem execReferenceRestored_kept (s : State) : ResKeeps (kept s) (execReferenceRestored s) := by
  unfold execReferenceRestored
  repeat' split
  all_goals simp only [modPwr_kept, kept_mk, foldl_kept, ResKeeps, Run.Keeps]
theorem pllLockLost_kept (s : State) (a0) : kept (pllLockLost s a0) = kept s := by
  unfold pllLockLost
  repeat' split
  all_goals simp only [modPwr_kept, raiseUnit_kept, kept_mk, foldl_kept, ResKeeps, Run.Keeps]
theorem execPllLockLost_kept (a0) (s : State) : ResKeeps (kept s) (execPllLockLost a0 s) := by
  unfold execPllLockLost
  simp only [pllLockLost_kept, kept_mk, foldl_kept, ResKeeps, Run.Keeps]
theorem beginStep_kept (s : State) : kept (beginStep s) = kept s := by
  unfold beginStep
  repeat' split
  all_goals simp only [modPwr_kept, raiseUnit_kept, kept_mk, foldl_kept, ResKeeps, Run.Keeps]
theorem opTargetChange_kept (s : State) : kept (opTargetChange s) = kept s := by
  unfold opTargetChange
  repeat' split
  all_goals simp only [beginStep_kept, kept_mk, foldl_kept, ResKeeps, Run.Keeps]
theorem execOpTargetChange_kept (s : State) : ResKeeps (kept s) (execOpTargetChange s) := by
  unfold execOpTargetChange
  simp only [opTargetChange_kept, kept_mk, foldl_kept, ResKeeps, Run.Keeps]
theorem opSwitch_kept (s : State) : kept (opSwitch s) = kept s := by
  unfold opSwitch
  grind [beginStep_kept, modPwr_kept, kept, Run.Keeps]
theorem execOpSwitch_kept (s : State) : ResKeeps (kept s) (execOpSwitch s) := by
  unfold execOpSwitch
  simp only [opSwitch_kept, kept_mk, foldl_kept, ResKeeps, Run.Keeps]
theorem pllLockTimeout_kept (s : State) : kept (pllLockTimeout s) = kept s := by
  unfold pllLockTimeout
  repeat' split
  all_goals simp only [modPwr_kept, raiseUnit_kept, kept_mk, foldl_kept, ResKeeps, Run.Keeps]
theorem execPllLockTimeout_kept (s : State) : ResKeeps (kept s) (execPllLockTimeout s) := by
  unfold execPllLockTimeout
  simp only [pllLockTimeout_kept, kept_mk, foldl_kept, ResKeeps, Run.Keeps]
theorem engage_kept (s : State) : kept (engage s) = kept s := by
  unfold engage
  simp only [modPwr_kept, raiseUnit_kept, kept_mk, foldl_kept, ResKeeps, Run.Keeps]
theorem engagedLong_kept (s : State) : kept (engagedLong s) = kept s := by
  unfold engagedLong
  repeat' split
  all_goals simp only [modPwr_kept, raiseUnit_kept, kept_mk, foldl_kept, ResKeeps, Run.Keeps]
theorem backstopTick_kept (s : State) (a0) : kept (backstopTick s a0) = kept s := by
  unfold backstopTick
  grind [engage_kept, engagedLong_kept, modPwr_kept, kept, Run.Keeps]
theorem execBackstopTick_kept (a0) (s : State) : ResKeeps (kept s) (execBackstopTick a0 s) := by
  unfold execBackstopTick
  simp only [backstopTick_kept, kept_mk, foldl_kept, ResKeeps, Run.Keeps]
theorem backstopLimitUpdate_kept (s : State) : kept (backstopLimitUpdate s) = kept s := by
  unfold backstopLimitUpdate
  grind [modPwr_kept, kept, Run.Keeps]
theorem execBackstopLimitUpdate_kept (s : State) : ResKeeps (kept s) (execBackstopLimitUpdate s) := by
  unfold execBackstopLimitUpdate
  simp only [backstopLimitUpdate_kept, kept_mk, foldl_kept, ResKeeps, Run.Keeps]
theorem droop_kept (s : State) (a0) : kept (droop s a0) = kept s := by
  unfold droop
  repeat' split
  all_goals simp only [modPwr_kept, kept_mk, foldl_kept, ResKeeps, Run.Keeps]
theorem execDroop_kept (a0) (s : State) : ResKeeps (kept s) (execDroop a0 s) := by
  unfold execDroop
  simp only [droop_kept, kept_mk, foldl_kept, ResKeeps, Run.Keeps]
theorem thermalTrip_kept (s : State) : kept (thermalTrip s) = kept s := by
  unfold thermalTrip
  grind [chipReset_kept, kept, Run.Keeps]
theorem heatResponse_kept (s : State) (a0) (a1) (a2) (a3) : kept (heatResponse s a0 a1 a2 a3) = kept s := by
  unfold heatResponse
  grind [modPwr_kept, raiseHeat_kept, kept, Run.Keeps]
theorem thermalResponse_kept (s : State) (a0) (a1) (a2) (a3) : kept (thermalResponse s a0 a1 a2 a3) = kept s := by
  unfold thermalResponse
  grind [heatResponse_kept, modPwr_kept, thermalTrip_kept, kept, Run.Keeps]
theorem execThermalResponse_kept (a0) (a1) (a2) (a3) (s : State) : ResKeeps (kept s) (execThermalResponse a0 a1 a2 a3 s) := by
  unfold execThermalResponse
  simp only [thermalResponse_kept, kept_mk, foldl_kept, ResKeeps, Run.Keeps]
theorem execInputOutOfRange_kept (s : State) : ResKeeps (kept s) (execInputOutOfRange s) := by
  unfold execInputOutOfRange
  repeat' split
  all_goals simp only [modPwr_kept, raiseUnit_kept, kept_mk, foldl_kept, ResKeeps, Run.Keeps]
theorem execInputBackInRange_kept (s : State) : ResKeeps (kept s) (execInputBackInRange s) := by
  unfold execInputBackInRange
  simp only [modPwr_kept, kept_mk, foldl_kept, ResKeeps, Run.Keeps]
theorem bankFlush_kept (s : State) : kept (bankFlush s) = kept s := by
  unfold bankFlush
  simp only [modLedger_kept, kept_mk, foldl_kept, ResKeeps, Run.Keeps]
theorem inputLoss_kept (s : State) : kept (inputLoss s) = kept s := by
  unfold inputLoss
  grind [bankFlush_kept, chipReset_kept, kept, Run.Keeps]
theorem execInputLoss_kept (s : State) : ResKeeps (kept s) (execInputLoss s) := by
  unfold execInputLoss
  simp only [inputLoss_kept, kept_mk, foldl_kept, ResKeeps, Run.Keeps]
theorem auxLoss_kept (s : State) : kept (auxLoss s) = kept s := by
  unfold auxLoss
  grind [bankFlush_kept, chipReset_kept, kept, Run.Keeps]
theorem execAuxLoss_kept (s : State) : ResKeeps (kept s) (execAuxLoss s) := by
  unfold execAuxLoss
  repeat' split
  all_goals simp only [auxLoss_kept, kept_mk, foldl_kept, ResKeeps, Run.Keeps]
theorem pwrCfgWrite_kept (s : State) (a0) : kept (pwrCfgWrite s a0) = kept s := by
  unfold pwrCfgWrite
  grind [modPwr_kept, kept, Run.Keeps]

end Sys2Proof.Machine
end

