-- ==== Sys2Proof/Laws/KeptFwOps.lean ====
section
/-!
SUPPORT. What the operations of Machine/FwOps.lean keep.
-/
set_option linter.unusedSimpArgs false
namespace Sys2Proof.Machine

theorem identify_kept (s : State) (a0) : kept (identify s a0) = kept s := by
  unfold identify
  repeat' split
  all_goals simp only [endCmd_kept, hostWrite_kept, kept_mk, foldl_kept, ResKeeps, Run.Keeps]
theorem execIdentify_kept (a0) (s : State) : ResKeeps (kept s) (execIdentify a0 s) := by
  unfold execIdentify
  simp only [identify_kept, kept_mk, foldl_kept, ResKeeps, Run.Keeps]
theorem telemetryRead_kept (s : State) (a0) (a1) : kept (telemetryRead s a0 a1) = kept s := by
  unfold telemetryRead
  repeat' split
  all_goals simp only [endCmd_kept, hostWrite_kept, refuseCmd_kept, kept_mk, foldl_kept, ResKeeps, Run.Keeps]
theorem execTelemetryRead_kept (a0) (a1) (s : State) : ResKeeps (kept s) (execTelemetryRead a0 a1 s) := by
  unfold execTelemetryRead
  simp only [telemetryRead_kept, kept_mk, foldl_kept, ResKeeps, Run.Keeps]
theorem fwFailed_kept (s : State) (a0) : kept (fwFailed s a0) = kept s := by
  unfold fwFailed
  simp only [modBoot_kept, kept_mk, foldl_kept, ResKeeps, Run.Keeps]
theorem clearBank_kept (s : State) (a0) : kept (clearBank s a0) = kept s := by
  unfold clearBank
  simp only [eraseBank_kept, modBoot_kept, updateDir_kept, kept_mk, foldl_kept, ResKeeps, Run.Keeps]
theorem completeBank_kept (s : State) (a0) (a1) : kept (completeBank s a0 a1) = kept s := by
  unfold completeBank
  simp only [updateDir_kept, kept_mk, foldl_kept, ResKeeps, Run.Keeps]
theorem fwStage_kept (s : State) (a0) (a1) (a2) : kept (fwStage s a0 a1 a2) = kept s := by
  unfold fwStage
  grind [clearBank_kept, completeBank_kept, endCmd_kept, fwFailed_kept, modBoot_kept, programBank_kept, kept, Run.Keeps]
theorem execFwStage_kept (a0) (a1) (a2) (s : State) : ResKeeps (kept s) (execFwStage a0 a1 a2 s) := by
  unfold execFwStage
  simp only [fwStage_kept, kept_mk, foldl_kept, ResKeeps, Run.Keeps]
theorem handoverAnswer_kept (s : State) (a0) : kept (handoverAnswer s a0) = kept s := by
  unfold handoverAnswer
  repeat' split
  all_goals simp only [endCmd_kept, respond_kept, kept_mk, foldl_kept, ResKeeps, Run.Keeps]
theorem handoverSwitch_kept (s : State) : kept (handoverSwitch s) = kept s := by
  unfold handoverSwitch
  grind [handoverAnswer_kept, modBoot_kept, updateDir_kept, kept, Run.Keeps]
theorem handoverGo_kept (s : State) : kept (handoverGo s) = kept s := by
  unfold handoverGo
  repeat' split
  all_goals simp only [handoverSwitch_kept, modBoot_kept, kept_mk, foldl_kept, ResKeeps, Run.Keeps]
theorem handoverBegin_kept (s : State) (a0) : kept (handoverBegin s a0) = kept s := by
  unfold handoverBegin
  simp only [modBoot_kept, kept_mk, foldl_kept, ResKeeps, Run.Keeps]
theorem fwHandover_kept (s : State) (a0) : kept (fwHandover s a0) = kept s := by
  unfold fwHandover
  repeat' split
  all_goals simp only [fwFailed_kept, handoverBegin_kept, handoverGo_kept, refuseCmd_kept, kept_mk, foldl_kept, ResKeeps, Run.Keeps]
theorem execFwHandover_kept (a0) (s : State) : ResKeeps (kept s) (execFwHandover a0 s) := by
  unfold execFwHandover
  simp only [fwHandover_kept, kept_mk, foldl_kept, ResKeeps, Run.Keeps]
theorem execHandoverTimeout_kept (s : State) : ResKeeps (kept s) (execHandoverTimeout s) := by
  unfold execHandoverTimeout
  repeat' split
  all_goals simp only [handoverFail_kept, kept_mk, foldl_kept, ResKeeps, Run.Keeps]
theorem mirrorPort_kept (s : State) (a0) : kept (mirrorPort s a0) = kept s := by
  unfold mirrorPort
  grind [mirrorCounter_kept, modUnit_kept, kept, Run.Keeps]
theorem mirrorRing_kept (s : State) (a0) : kept (mirrorRing s a0) = kept s := by
  unfold mirrorRing
  simp only [mirrorCounter_kept, kept_mk, foldl_kept, ResKeeps, Run.Keeps]
theorem counterMirror_kept (s : State) : kept (counterMirror s) = kept s := by
  unfold counterMirror
  repeat' (first | simp only [mirrorAll_kept, mirrorPort_kept, mirrorRing_kept, kept_mk, foldl_kept, ResKeeps, Run.Keeps] | (refine (foldl_kept ?_ _ _).trans ?_; intro _ _; try dsimp only) | refine fromHost_keeps ?_ | split)
  all_goals grind [mirrorAll_kept, mirrorPort_kept, mirrorRing_kept, kept, Run.Keeps]
theorem execCounterMirror_kept (s : State) : ResKeeps (kept s) (execCounterMirror s) := by
  unfold execCounterMirror
  repeat' split
  all_goals simp only [counterMirror_kept, kept_mk, foldl_kept, ResKeeps, Run.Keeps]

end Sys2Proof.Machine
end

