-- ==== Sys2Proof/Laws/KeptLoader.lean ====
section
/-!
SUPPORT. What the operations of Machine/Loader.lean keep.
-/
set_option linter.unusedSimpArgs false
namespace Sys2Proof.Machine

theorem bodyDelay_kept (s : State) (a0) (a1) (a2) : (bodyDelay s a0 a1 a2).Keeps (kept s) := by
  unfold bodyDelay
  simp only [kept_mk, foldl_kept, ResKeeps, Run.Keeps]
theorem bodyFence_kept (s : State) (a0) (a1) (a2) : (bodyFence s a0 a1 a2).Keeps (kept s) := by
  unfold bodyFence
  simp only [kept_mk, foldl_kept, ResKeeps, Run.Keeps]
theorem resumeCore_kept (s : State) (a0) : kept (resumeCore s a0) = kept s := by
  unfold resumeCore
  repeat' (first | simp only [advanceSt_kept, modCore_kept, signals_kept, kept_mk, foldl_kept, ResKeeps, Run.Keeps] | (refine (foldl_kept ?_ _ _).trans ?_; intro _ _; try dsimp only) | refine fromHost_keeps ?_ | split)
  all_goals grind [advanceSt_kept, modCore_kept, signals_kept, kept, Run.Keeps]
theorem fenceResumeAll_kept (s : State) (a0) (a1) : kept (fenceResumeAll s a0 a1) = kept s := by
  unfold fenceResumeAll
  repeat' (first | simp only [resumeCore_kept, kept_mk, foldl_kept, ResKeeps, Run.Keeps] | (refine (foldl_kept ?_ _ _).trans ?_; intro _ _; try dsimp only) | refine fromHost_keeps ?_ | split)
  all_goals grind [resumeCore_kept, kept, Run.Keeps]
theorem execDelay_kept (a0) (a1) (a2) (s : State) : ResKeeps (kept s) (execDelay a0 a1 a2 s) := by
  unfold execDelay
  repeat' (first | simp only [bodyDelay_kept, issue_kept, kept_mk, foldl_kept, ResKeeps, Run.Keeps] | (refine (foldl_kept ?_ _ _).trans ?_; intro _ _; try dsimp only) | refine fromHost_keeps ?_ | split)
  all_goals grind [bodyDelay_kept, issue_kept, kept, Run.Keeps]
theorem execFence_kept (a0) (a1) (a2) (s : State) : ResKeeps (kept s) (execFence a0 a1 a2 s) := by
  unfold execFence
  repeat' (first | simp only [bodyFence_kept, issue_kept, kept_mk, foldl_kept, ResKeeps, Run.Keeps] | (refine (foldl_kept ?_ _ _).trans ?_; intro _ _; try dsimp only) | refine fromHost_keeps ?_ | split)
  all_goals grind [bodyFence_kept, issue_kept, kept, Run.Keeps]
theorem execFenceResume_kept (a0) (a1) (s : State) : ResKeeps (kept s) (execFenceResume a0 a1 s) := by
  unfold execFenceResume
  simp only [fenceResumeAll_kept, kept_mk, foldl_kept, ResKeeps, Run.Keeps]
theorem takeCrate_kept (s : State) (a0) (a1) : kept (takeCrate s a0 a1).1 = kept s := by
  unfold takeCrate
  simp only [consume_kept, kept_mk, foldl_kept, ResKeeps, Run.Keeps]
theorem gatherCrate_kept (a0) (a1) (a2) (a3) (a4) (a5) (a6) : (∀ t, gatherCrate a0 a1 a2 a3 a4 a5 a6 = .ok t → kept t.s = kept a6.s) ∧ (∀ r, gatherCrate a0 a1 a2 a3 a4 a5 a6 = .error r → r.Keeps (kept a6.s)) := by
  unfold gatherCrate
  repeat' (first | simp only [takeCrate_kept, kept_mk, foldl_kept, ResKeeps, Run.Keeps] | (refine (foldl_kept ?_ _ _).trans ?_; intro _ _; try dsimp only) | refine fromHost_keeps ?_ | split)
  all_goals grind [takeCrate_kept, kept, Run.Keeps]
theorem gatherCrate_ok (a0) (a1) (a2) (a3) (a4) (a5) (a6) : ∀ t, gatherCrate a0 a1 a2 a3 a4 a5 a6 = .ok t → kept t.s = kept a6.s := (gatherCrate_kept a0 a1 a2 a3 a4 a5 a6).1
theorem gatherCrate_err (a0) (a1) (a2) (a3) (a4) (a5) (a6) : ∀ r, gatherCrate a0 a1 a2 a3 a4 a5 a6 = .error r → r.Keeps (kept a6.s) := (gatherCrate_kept a0 a1 a2 a3 a4 a5 a6).2
theorem gatherSlot_kept (a0) (a1) (a2) (a3) (a4) (a5) (a6) (a7 : Gather) :
    (∀ t, gatherSlot a0 a1 a2 a3 a4 a5 a6 a7 = .ok t → kept t.s = kept a7.s) ∧
      (∀ r, gatherSlot a0 a1 a2 a3 a4 a5 a6 a7 = .error r → r.Keeps (kept a7.s)) := by
  induction a5 generalizing a6 a7 with
  | zero => exact ⟨fun t h => (by cases h; rfl), fun r h => (by cases h)⟩
  | succ n ih =>
    constructor <;> intro t h <;> unfold gatherSlot at h <;> (repeat' split at h) <;>
      grind [→ gatherCrate_ok, → gatherCrate_err]
theorem gatherSlot_ok (a0) (a1) (a2) (a3) (a4) (a5) (a6) (a7) : ∀ t, gatherSlot a0 a1 a2 a3 a4 a5 a6 a7 = .ok t → kept t.s = kept a7.s := (gatherSlot_kept a0 a1 a2 a3 a4 a5 a6 a7).1
theorem gatherSlot_err (a0) (a1) (a2) (a3) (a4) (a5) (a6) (a7) : ∀ r, gatherSlot a0 a1 a2 a3 a4 a5 a6 a7 = .error r → r.Keeps (kept a7.s) := (gatherSlot_kept a0 a1 a2 a3 a4 a5 a6 a7).2
theorem gatherSlots_kept (a0) (a1) (a2) (a3) (a4) (a5) (a6) (a7) (a8 : Gather) :
    (∀ t, gatherSlots a0 a1 a2 a3 a4 a5 a6 a7 a8 = .ok t → kept t.s = kept a8.s) ∧
      (∀ r, gatherSlots a0 a1 a2 a3 a4 a5 a6 a7 a8 = .error r → r.1.Keeps (kept a8.s) ∧ kept r.2.s = kept a8.s) := by
  induction a6 generalizing a7 a8 with
  | zero => exact ⟨fun t h => (by cases h; rfl), fun r h => (by cases h)⟩
  | succ n ih =>
    constructor <;> intro t h <;> unfold gatherSlots at h <;> (try dsimp only at h) <;> (repeat' split at h) <;>
      grind [→ gatherSlot_ok, → gatherSlot_err, → implicitRelease_ok, → implicitRelease_err, Run.Keeps]
theorem gatherSlots_ok (a0) (a1) (a2) (a3) (a4) (a5) (a6) (a7) (a8) : ∀ t, gatherSlots a0 a1 a2 a3 a4 a5 a6 a7 a8 = .ok t → kept t.s = kept a8.s := (gatherSlots_kept a0 a1 a2 a3 a4 a5 a6 a7 a8).1
theorem gatherSlots_err (a0) (a1) (a2) (a3) (a4) (a5) (a6) (a7) (a8) : ∀ r, gatherSlots a0 a1 a2 a3 a4 a5 a6 a7 a8 = .error r → r.1.Keeps (kept a8.s) ∧ kept r.2.s = kept a8.s := (gatherSlots_kept a0 a1 a2 a3 a4 a5 a6 a7 a8).2
theorem pushFeeds_kept (s : State) (a0) (a1) : kept (pushFeeds s a0 a1) = kept s := by
  unfold pushFeeds
  simp only [modCore_kept, kept_mk, foldl_kept, ResKeeps, Run.Keeps]
theorem bodyLstream_kept (s : State) (a0) (a1) (a2) : (bodyLstream s a0 a1 a2).Keeps (kept s) := by
  unfold bodyLstream
  grind [→ gatherSlots_ok, → gatherSlots_err, modCore_kept, pushFeeds_kept, kept, Run.Keeps]
theorem execLstream_kept (a0) (a1) (s : State) : ResKeeps (kept s) (execLstream a0 a1 s) := by
  unfold execLstream
  repeat' (first | simp only [bodyLstream_kept, issue_kept, kept_mk, foldl_kept, ResKeeps, Run.Keeps] | (refine (foldl_kept ?_ _ _).trans ?_; intro _ _; try dsimp only) | refine fromHost_keeps ?_ | split)
  all_goals grind [bodyLstream_kept, issue_kept, kept, Run.Keeps]
theorem takeCrates_kept (a0) (a1) (s : State) : kept (takeCrates a0 a1 s).1 = kept s := by
  induction a1 generalizing s with
  | nil => rfl
  | cons c cs ih => unfold takeCrates; grind [takeCrate_kept]
theorem weightRefusal_kept (s : State) (a0) (a1) (a2) : ∀ r, weightRefusal s a0 a1 a2 = some r → r.Keeps (kept s) := by
  unfold weightRefusal
  repeat' (first | simp only [kept_mk, foldl_kept, ResKeeps, Run.Keeps] | (refine (foldl_kept ?_ _ _).trans ?_; intro _ _; try dsimp only) | refine fromHost_keeps ?_ | split)
  all_goals grind [kept, Run.Keeps]
theorem releaseN_kept (a0) (a1) (a2) (s : State) : (∀ t, releaseN a0 a1 a2 s = .ok t → kept t = kept s) ∧ (∀ r, releaseN a0 a1 a2 s = .error r → r.Keeps (kept s)) := by
  induction a2 generalizing s with
  | zero => exact ⟨fun t h => (by cases h; rfl), fun r h => (by cases h)⟩
  | succ n ih =>
    constructor <;> intro t h <;> unfold releaseN at h <;> (repeat' split at h) <;>
      grind [→ implicitRelease_ok, → implicitRelease_err]
theorem releaseN_ok (a0) (a1) (a2) (s : State) : ∀ t, releaseN a0 a1 a2 s = .ok t → kept t = kept s := (releaseN_kept a0 a1 a2 s).1
theorem releaseN_err (a0) (a1) (a2) (s : State) : ∀ r, releaseN a0 a1 a2 s = .error r → r.Keeps (kept s) := (releaseN_kept a0 a1 a2 s).2
theorem bodyLweight_kept (s : State) (a0) (a1) (a2) : (bodyLweight s a0 a1 a2).Keeps (kept s) := by
  unfold bodyLweight
  grind [→ implicitWait_kept, modCore_kept, raiseCore_kept, → releaseN_ok, → releaseN_err, takeCrates_kept, → weightRefusal_kept, kept, Run.Keeps]
theorem execLweight_kept (a0) (a1) (s : State) : ResKeeps (kept s) (execLweight a0 a1 s) := by
  unfold execLweight
  repeat' (first | simp only [bodyLweight_kept, issue_kept, kept_mk, foldl_kept, ResKeeps, Run.Keeps] | (refine (foldl_kept ?_ _ _).trans ?_; intro _ _; try dsimp only) | refine fromHost_keeps ?_ | split)
  all_goals grind [bodyLweight_kept, issue_kept, kept, Run.Keeps]
theorem bodyLdiag_kept (s : State) (a0) (a1) (a2) : (bodyLdiag s a0 a1 a2).Keeps (kept s) := by
  unfold bodyLdiag
  grind [→ implicitWait_kept, modCore_kept, → releaseN_ok, → releaseN_err, takeCrate_kept, kept, Run.Keeps]
theorem execLdiag_kept (a0) (a1) (s : State) : ResKeeps (kept s) (execLdiag a0 a1 s) := by
  unfold execLdiag
  repeat' (first | simp only [bodyLdiag_kept, issue_kept, kept_mk, foldl_kept, ResKeeps, Run.Keeps] | (refine (foldl_kept ?_ _ _).trans ?_; intro _ _; try dsimp only) | refine fromHost_keeps ?_ | split)
  all_goals grind [bodyLdiag_kept, issue_kept, kept, Run.Keeps]

end Sys2Proof.Machine
end

