-- ==== Sys2Proof/Laws/KeptMatrix.lean ====
section
/-!
SUPPORT. What the operations of Machine/Matrix.lean keep.
-/
set_option linter.unusedSimpArgs false
namespace Sys2Proof.Machine

theorem weighMismatch_kept (s : State) (a0) (a1) (a2) (a3) (a4) (a5) : kept (weighMismatch s a0 a1 a2 a3 a4 a5) = kept s := by
  unfold weighMismatch
  simp only [countEvent_kept, logRec_kept, modCore_kept, modUnit_kept, raiseCore_kept, kept_mk, foldl_kept, ResKeeps, Run.Keeps]
theorem bodyMpass_kept (s : State) (a0) (a1) (a2) : (bodyMpass s a0 a1 a2).Keeps (kept s) := by
  have hm : ∀ c w fs n r, mpassRefusal c w fs n = some r → ∀ s, (r s).Keeps (kept s) := by
    intro c w fs n r h
    unfold mpassRefusal at h
    dsimp only at h
    intro s
    repeat' split at h
    all_goals first | (cases h; split <;> rfl) | (cases h; done) | (cases h; rfl)
  unfold bodyMpass
  dsimp only
  split
  · rename_i h; exact hm _ _ _ _ _ h _
  · cases a2 <;> dsimp only [Run.Keeps]
    case weigh => refine (foldl_kept (fun s a => weighMismatch_kept _ _ _ _ _ _ _) _ _).trans ?_; refine ite_kept ?_ ?_ <;> simp only [raiseCore_kept, setCore_kept]
    all_goals refine ite_kept ?_ ?_ <;> simp only [raiseCore_kept, setCore_kept]
theorem execMpass_kept (a0) (a1) (s : State) : ResKeeps (kept s) (execMpass a0 a1 s) := by
  unfold execMpass
  repeat' (first | simp only [bodyMpass_kept, issue_kept, kept_mk, foldl_kept, ResKeeps, Run.Keeps] | (refine (foldl_kept ?_ _ _).trans ?_; intro _ _; try dsimp only) | refine fromHost_keeps ?_ | split)
  all_goals grind [bodyMpass_kept, issue_kept, kept, Run.Keeps]
theorem bodyMdiag_kept (s : State) (a0) (a1) (a2) : (bodyMdiag s a0 a1 a2).Keeps (kept s) := by
  unfold bodyMdiag
  grind [setCore_kept, kept, Run.Keeps]
theorem execMdiag_kept (a0) (a1) (s : State) : ResKeeps (kept s) (execMdiag a0 a1 s) := by
  unfold execMdiag
  repeat' (first | simp only [bodyMdiag_kept, issue_kept, kept_mk, foldl_kept, ResKeeps, Run.Keeps] | (refine (foldl_kept ?_ _ _).trans ?_; intro _ _; try dsimp only) | refine fromHost_keeps ?_ | split)
  all_goals grind [bodyMdiag_kept, issue_kept, kept, Run.Keeps]
theorem bodyMdrain_kept (s : State) (a0) (a1) (a2) : (bodyMdrain s a0 a1 a2).Keeps (kept s) := by
  unfold bodyMdrain
  grind [raiseCrate_kept, setCore_kept, kept, Run.Keeps]
theorem execMdrain_kept (a0) (a1) (s : State) : ResKeeps (kept s) (execMdrain a0 a1 s) := by
  unfold execMdrain
  repeat' (first | simp only [bodyMdrain_kept, issue_kept, kept_mk, foldl_kept, ResKeeps, Run.Keeps] | (refine (foldl_kept ?_ _ _).trans ?_; intro _ _; try dsimp only) | refine fromHost_keeps ?_ | split)
  all_goals grind [bodyMdrain_kept, issue_kept, kept, Run.Keeps]
theorem bodyMfloor_kept (s : State) (a0) (a1) (a2) : (bodyMfloor s a0 a1 a2).Keeps (kept s) := by
  unfold bodyMfloor
  simp only [modCore_kept, kept_mk, foldl_kept, ResKeeps, Run.Keeps]
theorem execMfloor_kept (a0) (a1) (s : State) : ResKeeps (kept s) (execMfloor a0 a1 s) := by
  unfold execMfloor
  repeat' (first | simp only [bodyMfloor_kept, issue_kept, kept_mk, foldl_kept, ResKeeps, Run.Keeps] | (refine (foldl_kept ?_ _ _).trans ?_; intro _ _; try dsimp only) | refine fromHost_keeps ?_ | split)
  all_goals grind [bodyMfloor_kept, issue_kept, kept, Run.Keeps]
theorem execActivityFrame_kept (a0) (a1) (s : State) : ResKeeps (kept s) (execActivityFrame a0 a1 s) := by
  unfold execActivityFrame
  simp only [modCore_kept, kept_mk, foldl_kept, ResKeeps, Run.Keeps]

end Sys2Proof.Machine
end

