-- ==== Sys2Proof/Laws/KeptPacker.lean ====
section
/-!
SUPPORT. What the operations of Machine/Packer.lean keep.
-/
set_option linter.unusedSimpArgs false
namespace Sys2Proof.Machine

theorem bodyPset_kept (s : State) (a0) (a1) (a2) : (bodyPset s a0 a1 a2).Keeps (kept s) := by
  unfold bodyPset
  grind [modCore_kept, kept, Run.Keeps]
theorem execPset_kept (a0) (a1) (s : State) : ResKeeps (kept s) (execPset a0 a1 s) := by
  unfold execPset
  repeat' (first | simp only [bodyPset_kept, issue_kept, kept_mk, foldl_kept, ResKeeps, Run.Keeps] | (refine (foldl_kept ?_ _ _).trans ?_; intro _ _; try dsimp only) | refine fromHost_keeps ?_ | split)
  all_goals grind [bodyPset_kept, issue_kept, kept, Run.Keeps]
theorem packSlot_kept (a0) (a1) (a2) (a3) (s : State) (a4) : (∀ t, packSlot a0 a1 a2 a3 s a4 = .ok t → kept t.1 = kept s) ∧ (∀ r, packSlot a0 a1 a2 a3 s a4 = .error r → r.Keeps (kept s)) := by
  induction a1 generalizing a2 s a4 with
  | zero => exact ⟨fun t h => (by cases h; rfl), fun r h => (by cases h)⟩
  | succ n ih =>
    constructor <;> intro t h <;> unfold packSlot at h <;> (repeat' split at h) <;>
      grind [takeCrate_kept, Run.Keeps]
theorem packSlot_ok (a0) (a1) (a2) (a3) (s : State) (a4) : ∀ t, packSlot a0 a1 a2 a3 s a4 = .ok t → kept t.1 = kept s := (packSlot_kept a0 a1 a2 a3 s a4).1
theorem packSlot_err (a0) (a1) (a2) (a3) (s : State) (a4) : ∀ r, packSlot a0 a1 a2 a3 s a4 = .error r → r.Keeps (kept s) := (packSlot_kept a0 a1 a2 a3 s a4).2
theorem keepIn_kept (s : State) (a0) (a1) : kept (keepIn s a0 a1) = kept s := by
  unfold keepIn
  simp only [modCore_kept, kept_mk, foldl_kept, ResKeeps, Run.Keeps]
theorem packFromBin_kept (a0) (a1) (a2) (a3) (a4) (s : State) (a5) : (∀ t, packFromBin a0 a1 a2 a3 a4 s a5 = .ok t → kept t.1 = kept s) ∧ (∀ r, packFromBin a0 a1 a2 a3 a4 s a5 = .error r → r.Keeps (kept s)) := by
  induction a4 generalizing s a5 with
  | zero => exact ⟨fun t h => (by cases h; rfl), fun r h => (by cases h)⟩
  | succ n ih =>
    constructor <;> intro t h <;> unfold packFromBin at h <;> (try dsimp only at h) <;> (repeat' split at h) <;>
      grind [keepIn_kept, → packSlot_ok, → packSlot_err, → implicitWait_kept, → implicitRelease_ok, → implicitRelease_err, Run.Keeps]
theorem packFromBin_ok (a0) (a1) (a2) (a3) (a4) (s : State) (a5) : ∀ t, packFromBin a0 a1 a2 a3 a4 s a5 = .ok t → kept t.1 = kept s := (packFromBin_kept a0 a1 a2 a3 a4 s a5).1
theorem packFromBin_err (a0) (a1) (a2) (a3) (a4) (s : State) (a5) : ∀ r, packFromBin a0 a1 a2 a3 a4 s a5 = .error r → r.Keeps (kept s) := (packFromBin_kept a0 a1 a2 a3 a4 s a5).2
theorem predictUnit_kept (s : State) (a0) (a1) (a2) (a3) (a4) : kept (predictUnit s a0 a1 a2 a3 a4).1 = kept s := by
  unfold predictUnit
  repeat' split
  all_goals simp only [modMem_kept, kept_mk, foldl_kept, ResKeeps, Run.Keeps]
theorem packCrate_kept (s : State) (a0) (a1) (a2) (a3) (a4) (a5) (a6) (a7) : kept (packCrate s a0 a1 a2 a3 a4 a5 a6 a7) = kept s := by
  unfold packCrate
  simp only [coreLineageNext_kept, putCrate_kept, kept_mk, foldl_kept, ResKeeps, Run.Keeps]
theorem addCounts_kept (s : State) (a0) (a1) (a2) : kept (addCounts s a0 a1 a2) = kept s := by
  unfold addCounts
  simp only [modCore_kept, kept_mk, foldl_kept, ResKeeps, Run.Keeps]
theorem packUnit_kept (s : State) (a0) (a1) (a2) (a3) (a4) : kept (packUnit s a0 a1 a2 a3 a4) = kept s := by
  unfold packUnit
  grind [addCounts_kept, packCrate_kept, predictUnit_kept, kept, Run.Keeps]
theorem packUnits_kept (a0) (a1) (a2) (a3) (a4) (a5) (a6) (s : State) : (∀ t, packUnits a0 a1 a2 a3 a4 a5 a6 s = .ok t → kept t = kept s) ∧ (∀ r, packUnits a0 a1 a2 a3 a4 a5 a6 s = .error r → r.Keeps (kept s)) := by
  induction a5 generalizing a6 s with
  | zero => exact ⟨fun t h => (by cases h; rfl), fun r h => (by cases h)⟩
  | succ n ih =>
    constructor <;> intro t h <;> unfold packUnits at h <;> (try dsimp only at h) <;> (repeat' split at h) <;>
      grind [packUnit_kept, modCore_kept, → implicitWait_kept, → implicitPost_ok, → implicitPost_err, Run.Keeps]
theorem packUnits_ok (a0) (a1) (a2) (a3) (a4) (a5) (a6) (s : State) : ∀ t, packUnits a0 a1 a2 a3 a4 a5 a6 s = .ok t → kept t = kept s := (packUnits_kept a0 a1 a2 a3 a4 a5 a6 s).1
theorem packUnits_err (a0) (a1) (a2) (a3) (a4) (a5) (a6) (s : State) : ∀ r, packUnits a0 a1 a2 a3 a4 a5 a6 s = .error r → r.Keeps (kept s) := (packUnits_kept a0 a1 a2 a3 a4 a5 a6 s).2
theorem packTallies_kept (s : State) (a0) : kept (packTallies s a0) = kept s := by
  unfold packTallies
  repeat' (first | simp only [coreTally_kept, modCore_kept, kept_mk, foldl_kept, ResKeeps, Run.Keeps] | (refine (foldl_kept ?_ _ _).trans ?_; intro _ _; try dsimp only) | refine fromHost_keeps ?_ | split)
  all_goals grind [coreTally_kept, modCore_kept, kept, Run.Keeps]
theorem packInput_kept (s : State) (a0) (a1) (a2) : (∀ t, packInput s a0 a1 a2 = .ok t → kept t.1 = kept s) ∧ (∀ r, packInput s a0 a1 a2 = .error r → r.Keeps (kept s)) := by
  unfold packInput
  repeat' (first | simp only [modCore_kept, packFromBin_ok, packFromBin_err, kept_mk, foldl_kept, ResKeeps, Run.Keeps] | (refine (foldl_kept ?_ _ _).trans ?_; intro _ _; try dsimp only) | refine fromHost_keeps ?_ | split)
  all_goals grind [modCore_kept, → packFromBin_ok, → packFromBin_err, kept, Run.Keeps]
theorem packInput_ok (s : State) (a0) (a1) (a2) : ∀ t, packInput s a0 a1 a2 = .ok t → kept t.1 = kept s := (packInput_kept s a0 a1 a2).1
theorem packInput_err (s : State) (a0) (a1) (a2) : ∀ r, packInput s a0 a1 a2 = .error r → r.Keeps (kept s) := (packInput_kept s a0 a1 a2).2
theorem bodyPpack_kept (s : State) (a0) (a1) (a2) : (bodyPpack s a0 a1 a2).Keeps (kept s) := by
  unfold bodyPpack
  grind [keepIn_kept, → packInput_ok, → packInput_err, packTallies_kept, → packUnits_ok, → packUnits_err, kept, Run.Keeps]
theorem execPpack_kept (a0) (a1) (s : State) : ResKeeps (kept s) (execPpack a0 a1 s) := by
  unfold execPpack
  repeat' (first | simp only [bodyPpack_kept, issue_kept, kept_mk, foldl_kept, ResKeeps, Run.Keeps] | (refine (foldl_kept ?_ _ _).trans ?_; intro _ _; try dsimp only) | refine fromHost_keeps ?_ | split)
  all_goals grind [bodyPpack_kept, issue_kept, kept, Run.Keeps]

end Sys2Proof.Machine
end

