-- ==== Sys2Proof/Laws/KeptVector.lean ====
section
/-!
SUPPORT. What the operations of Machine/Vector.lean keep.
-/
set_option linter.unusedSimpArgs false
namespace Sys2Proof.Machine

theorem bodyVloadc_kept (s : State) (a0) (a1) (a2) : (bodyVloadc s a0 a1 a2).Keeps (kept s) := by
  unfold bodyVloadc
  grind [modCore_kept, takeCrate_kept, kept, Run.Keeps]
theorem execVloadc_kept (a0) (a1) (s : State) : ResKeeps (kept s) (execVloadc a0 a1 s) := by
  unfold execVloadc
  repeat' (first | simp only [bodyVloadc_kept, issue_kept, kept_mk, foldl_kept, ResKeeps, Run.Keeps] | (refine (foldl_kept ?_ _ _).trans ?_; intro _ _; try dsimp only) | refine fromHost_keeps ?_ | split)
  all_goals grind [bodyVloadc_kept, issue_kept, kept, Run.Keeps]
theorem bodyVstorec_kept (s : State) (a0) (a1) (a2) : (bodyVstorec s a0 a1 a2).Keeps (kept s) := by
  unfold bodyVstorec
  simp only [coreLineageNext_kept, putCrate_kept, kept_mk, foldl_kept, ResKeeps, Run.Keeps]
theorem execVstorec_kept (a0) (a1) (s : State) : ResKeeps (kept s) (execVstorec a0 a1 s) := by
  unfold execVstorec
  repeat' (first | simp only [bodyVstorec_kept, issue_kept, kept_mk, foldl_kept, ResKeeps, Run.Keeps] | (refine (foldl_kept ?_ _ _).trans ?_; intro _ _; try dsimp only) | refine fromHost_keeps ?_ | split)
  all_goals grind [bodyVstorec_kept, issue_kept, kept, Run.Keeps]
theorem bodyVrecv_kept (s : State) (a0) (a1) (a2) : (bodyVrecv s a0 a1 a2).Keeps (kept s) := by
  unfold bodyVrecv
  grind [setCore_kept, kept, Run.Keeps]
theorem execVrecv_kept (a0) (a1) (s : State) : ResKeeps (kept s) (execVrecv a0 a1 s) := by
  unfold execVrecv
  repeat' (first | simp only [bodyVrecv_kept, issue_kept, kept_mk, foldl_kept, ResKeeps, Run.Keeps] | (refine (foldl_kept ?_ _ _).trans ?_; intro _ _; try dsimp only) | refine fromHost_keeps ?_ | split)
  all_goals grind [bodyVrecv_kept, issue_kept, kept, Run.Keeps]
theorem bodyVsplat_kept (s : State) (a0) (a1) (a2) : (bodyVsplat s a0 a1 a2).Keeps (kept s) := by
  unfold bodyVsplat
  simp only [modCore_kept, kept_mk, foldl_kept, ResKeeps, Run.Keeps]
theorem execVsplat_kept (a0) (a1) (s : State) : ResKeeps (kept s) (execVsplat a0 a1 s) := by
  unfold execVsplat
  repeat' (first | simp only [bodyVsplat_kept, issue_kept, kept_mk, foldl_kept, ResKeeps, Run.Keeps] | (refine (foldl_kept ?_ _ _).trans ?_; intro _ _; try dsimp only) | refine fromHost_keeps ?_ | split)
  all_goals grind [bodyVsplat_kept, issue_kept, kept, Run.Keeps]
theorem bodyVarith_kept (s : State) (a0) (a1) (a2) : (bodyVarith s a0 a1 a2).Keeps (kept s) := by
  unfold bodyVarith
  simp only [modCore_kept, kept_mk, foldl_kept, ResKeeps, Run.Keeps]
theorem execVarith_kept (a0) (a1) (s : State) : ResKeeps (kept s) (execVarith a0 a1 s) := by
  unfold execVarith
  repeat' (first | simp only [bodyVarith_kept, issue_kept, kept_mk, foldl_kept, ResKeeps, Run.Keeps] | (refine (foldl_kept ?_ _ _).trans ?_; intro _ _; try dsimp only) | refine fromHost_keeps ?_ | split)
  all_goals grind [bodyVarith_kept, issue_kept, kept, Run.Keeps]
theorem bodyVfunc_kept (s : State) (a0) (a1) (a2) : (bodyVfunc s a0 a1 a2).Keeps (kept s) := by
  unfold bodyVfunc
  simp only [modCore_kept, kept_mk, foldl_kept, ResKeeps, Run.Keeps]
theorem execVfunc_kept (a0) (a1) (s : State) : ResKeeps (kept s) (execVfunc a0 a1 s) := by
  unfold execVfunc
  repeat' (first | simp only [bodyVfunc_kept, issue_kept, kept_mk, foldl_kept, ResKeeps, Run.Keeps] | (refine (foldl_kept ?_ _ _).trans ?_; intro _ _; try dsimp only) | refine fromHost_keeps ?_ | split)
  all_goals grind [bodyVfunc_kept, issue_kept, kept, Run.Keeps]
theorem bodyVred_kept (s : State) (a0) (a1) (a2) : (bodyVred s a0 a1 a2).Keeps (kept s) := by
  unfold bodyVred
  simp only [modCore_kept, kept_mk, foldl_kept, ResKeeps, Run.Keeps]
theorem execVred_kept (a0) (a1) (s : State) : ResKeeps (kept s) (execVred a0 a1 s) := by
  unfold execVred
  repeat' (first | simp only [bodyVred_kept, issue_kept, kept_mk, foldl_kept, ResKeeps, Run.Keeps] | (refine (foldl_kept ?_ _ _).trans ?_; intro _ _; try dsimp only) | refine fromHost_keeps ?_ | split)
  all_goals grind [bodyVred_kept, issue_kept, kept, Run.Keeps]
theorem bodyVbcast_kept (s : State) (a0) (a1) (a2) : (bodyVbcast s a0 a1 a2).Keeps (kept s) := by
  unfold bodyVbcast
  simp only [modCore_kept, kept_mk, foldl_kept, ResKeeps, Run.Keeps]
theorem execVbcast_kept (a0) (a1) (s : State) : ResKeeps (kept s) (execVbcast a0 a1 s) := by
  unfold execVbcast
  repeat' (first | simp only [bodyVbcast_kept, issue_kept, kept_mk, foldl_kept, ResKeeps, Run.Keeps] | (refine (foldl_kept ?_ _ _).trans ?_; intro _ _; try dsimp only) | refine fromHost_keeps ?_ | split)
  all_goals grind [bodyVbcast_kept, issue_kept, kept, Run.Keeps]

end Sys2Proof.Machine
end

