-- ==== Sys2Proof/Laws/KeptSequencer.lean ====
section
/-!
SUPPORT. What the operations of Machine/Sequencer.lean keep.
-/
set_option linter.unusedSimpArgs false
namespace Sys2Proof.Machine

theorem bodySwait_kept (s : State) (a0) (a1) (a2) : (bodySwait s a0 a1 a2).Keeps (kept s) := by
  unfold bodySwait
  grind [kept, Run.Keeps]
theorem execSwait_kept (a0) (a1) (s : State) : ResKeeps (kept s) (execSwait a0 a1 s) := by
  unfold execSwait
  repeat' (first | simp only [bodySwait_kept, issue_kept, kept_mk, foldl_kept, ResKeeps, Run.Keeps] | (refine (foldl_kept ?_ _ _).trans ?_; intro _ _; try dsimp only) | refine fromHost_keeps ?_ | split)
  all_goals grind [bodySwait_kept, issue_kept, kept, Run.Keeps]
theorem resumeIns_kept (s : State) (a0) (a1) (a2) (a3) (body : State → Nat → W128 → Finding → Run)
    (hb : ∀ s c w f, (body s c w f).Keeps (kept s)) : kept (resumeIns s a0 a1 a2 a3 body) = kept s := by
  unfold resumeIns
  split
  · rfl
  · split
    · exact runIns_kept _ _ _ _ _ _ hb
    · rfl
theorem execSwaitSatisfied_kept (a0) (s : State) : ResKeeps (kept s) (execSwaitSatisfied a0 s) := by
  unfold execSwaitSatisfied
  repeat' (first | simp only [bodySwait_kept, resumeIns_kept, kept_mk, foldl_kept, ResKeeps, Run.Keeps] | (refine (foldl_kept ?_ _ _).trans ?_; intro _ _; try dsimp only) | refine fromHost_keeps ?_ | split)
  all_goals grind [bodySwait_kept, resumeIns_kept, kept, Run.Keeps]
theorem ssignalAdd_kept (s : State) (a0) (a1) : kept (ssignalAdd s a0 a1) = kept s := by
  unfold ssignalAdd
  simp only [coreTally_kept, kept_mk, foldl_kept, ResKeeps, Run.Keeps]
theorem bodySsignal_kept (s : State) (a0) (a1) (a2) : (bodySsignal s a0 a1 a2).Keeps (kept s) := by
  unfold bodySsignal
  grind [modCore_kept, ssignalAdd_kept, kept, Run.Keeps]
theorem execSsignal_kept (a0) (a1) (s : State) : ResKeeps (kept s) (execSsignal a0 a1 s) := by
  unfold execSsignal
  repeat' (first | simp only [bodySsignal_kept, issue_kept, kept_mk, foldl_kept, ResKeeps, Run.Keeps] | (refine (foldl_kept ?_ _ _).trans ?_; intro _ _; try dsimp only) | refine fromHost_keeps ?_ | split)
  all_goals grind [bodySsignal_kept, issue_kept, kept, Run.Keeps]
theorem bodyDrainDone_kept (s : State) (a0) (a1) (a2) : (bodyDrainDone s a0 a1 a2).Keeps (kept s) := by
  unfold bodyDrainDone
  grind [ssignalAdd_kept, kept, Run.Keeps]
theorem execSsignalDrainDone_kept (a0) (s : State) : ResKeeps (kept s) (execSsignalDrainDone a0 s) := by
  unfold execSsignalDrainDone
  repeat' (first | simp only [bodyDrainDone_kept, resumeIns_kept, kept_mk, foldl_kept, ResKeeps, Run.Keeps] | (refine (foldl_kept ?_ _ _).trans ?_; intro _ _; try dsimp only) | refine fromHost_keeps ?_ | split)
  all_goals grind [bodyDrainDone_kept, resumeIns_kept, kept, Run.Keeps]
theorem bodySrepeat_kept (s : State) (a0) (a1) (a2) : (bodySrepeat s a0 a1 a2).Keeps (kept s) := by
  unfold bodySrepeat
  grind [modCore_kept, kept, Run.Keeps]
theorem execSrepeat_kept (a0) (a1) (s : State) : ResKeeps (kept s) (execSrepeat a0 a1 s) := by
  unfold execSrepeat
  repeat' (first | simp only [bodySrepeat_kept, issue_kept, kept_mk, foldl_kept, ResKeeps, Run.Keeps] | (refine (foldl_kept ?_ _ _).trans ?_; intro _ _; try dsimp only) | refine fromHost_keeps ?_ | split)
  all_goals grind [bodySrepeat_kept, issue_kept, kept, Run.Keeps]
theorem bodySphase_kept (s : State) (a0) (a1) (a2) : (bodySphase s a0 a1 a2).Keeps (kept s) := by
  unfold bodySphase
  simp only [modCore_kept, kept_mk, foldl_kept, ResKeeps, Run.Keeps]
theorem execSphase_kept (a0) (a1) (s : State) : ResKeeps (kept s) (execSphase a0 a1 s) := by
  unfold execSphase
  repeat' (first | simp only [bodySphase_kept, issue_kept, kept_mk, foldl_kept, ResKeeps, Run.Keeps] | (refine (foldl_kept ?_ _ _).trans ?_; intro _ _; try dsimp only) | refine fromHost_keeps ?_ | split)
  all_goals grind [bodySphase_kept, issue_kept, kept, Run.Keeps]
theorem bodySophint_kept (s : State) (a0) (a1) (a2) : (bodySophint s a0 a1 a2).Keeps (kept s) := by
  unfold bodySophint
  simp only [modCore_kept, kept_mk, foldl_kept, ResKeeps, Run.Keeps]
theorem execSophint_kept (a0) (a1) (s : State) : ResKeeps (kept s) (execSophint a0 a1 s) := by
  unfold execSophint
  repeat' (first | simp only [bodySophint_kept, issue_kept, kept_mk, foldl_kept, ResKeeps, Run.Keeps] | (refine (foldl_kept ?_ _ _).trans ?_; intro _ _; try dsimp only) | refine fromHost_keeps ?_ | split)
  all_goals grind [bodySophint_kept, issue_kept, kept, Run.Keeps]

end Sys2Proof.Machine
end

