-- ==== Sys2Proof/Laws/KeptHolds.lean ====
section
/-!
SUPPORT. What the operations of Machine/Holds.lean keep.
-/
set_option linter.unusedSimpArgs false
namespace Sys2Proof.Machine

theorem endHold_kept (s : State) (a0) (a1) (a2) (a3) : kept (endHold s a0 a1 a2 a3) = kept s := by
  have hb : ∀ n o b, bodyOf n o = some b → ∀ s c w f, (b s c w f).Keeps (kept s) := by
    intro n o b h
    unfold bodyOf at h
    repeat' split at h
    all_goals cases h
    all_goals intro s c w f
    all_goals first
      | exact bodyDelay_kept s c w f | exact bodyFence_kept s c w f | exact bodyLstream_kept s c w f | exact bodyLweight_kept s c w f
      | exact bodyLdiag_kept s c w f | exact bodyMpass_kept s c w f | exact bodyMdiag_kept s c w f | exact bodyMdrain_kept s c w f
      | exact bodyMfloor_kept s c w f | exact bodyPset_kept s c w f | exact bodyPpack_kept s c w f | exact bodyVloadc_kept s c w f
      | exact bodyVstorec_kept s c w f | exact bodyVrecv_kept s c w f | exact bodyVsplat_kept s c w f | exact bodyVarith_kept s c w f
      | exact bodyVfunc_kept s c w f | exact bodyVred_kept s c w f | exact bodyVbcast_kept s c w f | exact bodyPmove_kept s c w f
      | exact bodyPgather_kept s c w f | exact bodyPscatter_kept s c w f | exact bodyPacc_kept s c w f | exact bodyPfabric_kept s c w f
      | exact bodySwait_kept s c w f | exact bodySsignal_kept s c w f | exact bodySrepeat_kept s c w f | exact bodySphase_kept s c w f
      | exact bodySophint_kept s c w f
  unfold endHold
  split
  · rfl
  · split
    · rename_i h; exact resumeIns_kept _ _ _ _ _ _ (hb _ _ _ h)
    · rfl
theorem execMarkedWaitSatisfied_kept (a0) (a1) (a2) (s : State) : ResKeeps (kept s) (execMarkedWaitSatisfied a0 a1 a2 s) := by
  unfold execMarkedWaitSatisfied
  simp only [endHold_kept, kept_mk, foldl_kept, ResKeeps, Run.Keeps]
theorem execArrayHoldClear_kept (a0) (a1) (a2) (s : State) : ResKeeps (kept s) (execArrayHoldClear a0 a1 a2 s) := by
  unfold execArrayHoldClear
  simp only [endHold_kept, kept_mk, foldl_kept, ResKeeps, Run.Keeps]

end Sys2Proof.Machine
end

