-- ==== Sys2Proof/Laws/KeptMgmt.lean ====
section
/-!
SUPPORT. What the operations of Machine/Mgmt.lean keep.
-/
set_option linter.unusedSimpArgs false
namespace Sys2Proof.Machine

theorem deny_kept (s : State) (a0) (a1) (a2) : kept (deny s a0 a1 a2) = kept s := by
  unfold deny
  simp only [respond_kept, kept_mk, foldl_kept, ResKeeps, Run.Keeps]
theorem serve_kept (s : State) (a0) (a1) (a2) (a3) (f : State → State) (h : ∀ s, kept (f s) = kept s) :
    kept (serve s a0 a1 a2 a3 f) = kept s := by
  unfold serve
  grind [emit_kept, deny_kept]
theorem pageAnswer_kept (s : State) (a0) (a1) (a2) (a3) : kept (pageAnswer s a0 a1 a2 a3) = kept s := by
  unfold pageAnswer
  grind [freeBytes_kept, respond_kept, kept, Run.Keeps]
theorem execMgmtIdentify_kept (a0) (a1) (s : State) : ResKeeps (kept s) (execMgmtIdentify a0 a1 s) := by
  unfold execMgmtIdentify
  refine (serve_kept _ _ _ _ _ _ ?_).trans ?_
  · intro s
    repeat' split
    all_goals grind [pageAnswer_kept, kept, Run.Keeps]
  · rfl
theorem execTelemetry_kept (a0) (a1) (a2) (s : State) : ResKeeps (kept s) (execTelemetry a0 a1 a2 s) := by
  unfold execTelemetry
  refine (serve_kept _ _ _ _ _ _ ?_).trans ?_
  · intro s
    repeat' split
    all_goals grind [deny_kept, pageAnswer_kept, kept, Run.Keeps]
  · rfl
theorem execMgmtDiscovery_kept (a0) (a1) (s : State) : ResKeeps (kept s) (execMgmtDiscovery a0 a1 s) := by
  unfold execMgmtDiscovery
  refine (serve_kept _ _ _ _ _ _ ?_).trans ?_
  · intro s
    repeat' split
    all_goals grind [deny_kept, respond_kept, kept, Run.Keeps]
  · rfl
theorem execMgmtLedgerRead_kept (a0) (a1) (s : State) : ResKeeps (kept s) (execMgmtLedgerRead a0 a1 s) := by
  unfold execMgmtLedgerRead
  refine (serve_kept _ _ _ _ _ _ ?_).trans ?_
  · intro s
    repeat' split
    all_goals grind [deny_kept, respond_kept, kept, Run.Keeps]
  · rfl
theorem execTotalsRead_kept (a0) (a1) (s : State) : ResKeeps (kept s) (execTotalsRead a0 a1 s) := by
  unfold execTotalsRead
  refine (serve_kept _ _ _ _ _ _ ?_).trans ?_
  · intro s
    repeat' split
    all_goals grind [respond_kept, kept, Run.Keeps]
  · rfl
theorem execSetStall_kept (a0) (a1) (s : State) : ResKeeps (kept s) (execSetStall a0 a1 s) := by
  unfold execSetStall
  refine (serve_kept _ _ _ _ _ _ ?_).trans ?_
  · intro s
    repeat' split
    all_goals grind [deny_kept, modFab_kept, respond_kept, kept, Run.Keeps]
  · rfl
theorem closeSessions_kept (s : State) : kept (closeSessions s) = kept s := by
  unfold closeSessions
  repeat' (first | simp only [closeHalf_kept, setSession_kept, kept_mk, foldl_kept, ResKeeps, Run.Keeps] | (refine (foldl_kept ?_ _ _).trans ?_; intro _ _; try dsimp only) | refine fromHost_keeps ?_ | split)
  all_goals grind [closeHalf_kept, setSession_kept, kept, Run.Keeps]
theorem assignChip_kept (s : State) (a0) (a1) (a2) : kept (assignChip s a0 a1 a2) = kept s := by
  unfold assignChip
  repeat' (first | simp only [closeSessions_kept, modFab_kept, modPort_kept, kept_mk, foldl_kept, ResKeeps, Run.Keeps] | (refine (foldl_kept ?_ _ _).trans ?_; intro _ _; try dsimp only) | refine fromHost_keeps ?_ | split)
  all_goals grind [closeSessions_kept, modFab_kept, modPort_kept, kept, Run.Keeps]
theorem execAssignChip_kept (a0) (a1) (s : State) : ResKeeps (kept s) (execAssignChip a0 a1 s) := by
  unfold execAssignChip
  refine (serve_kept _ _ _ _ _ _ ?_).trans ?_
  · intro s
    repeat' split
    all_goals grind [assignChip_kept, deny_kept, respond_kept, kept, Run.Keeps]
  · rfl
theorem execRouteWrite_kept (a0) (a1) (s : State) : ResKeeps (kept s) (execRouteWrite a0 a1 s) := by
  unfold execRouteWrite
  refine (serve_kept _ _ _ _ _ _ ?_).trans ?_
  · intro s
    repeat' split
    all_goals grind [deny_kept, modFab_kept, respond_kept, kept, Run.Keeps]
  · rfl
theorem reclaimNotice_kept (s : State) (a0) (a1) : kept (reclaimNotice s a0 a1) = kept s := by
  unfold reclaimNotice
  grind [modMgmt_kept, modStep_kept, raiseNotice_kept, reportVacated_kept, kept, Run.Keeps]
theorem reclaimHeard_kept (s : State) (a0) : kept (reclaimHeard s a0) = kept s := by
  unfold reclaimHeard
  repeat' split
  all_goals simp only [modMgmt_kept, kept_mk, foldl_kept, ResKeeps, Run.Keeps]
theorem execReclaim_kept (a0) (a1) (s : State) : ResKeeps (kept s) (execReclaim a0 a1 s) := by
  unfold execReclaim
  refine (serve_kept _ _ _ _ _ _ ?_).trans ?_
  · intro s
    repeat' split
    all_goals grind [reclaimHeard_kept, reclaimNotice_kept, respond_kept, kept, Run.Keeps]
  · exact reclaimHeard_kept _ _
theorem execReclaimStatus_kept (a0) (a1) (s : State) : ResKeeps (kept s) (execReclaimStatus a0 a1 s) := by
  unfold execReclaimStatus
  refine (serve_kept _ _ _ _ _ _ ?_).trans ?_
  · intro s
    repeat' split
    all_goals grind [respond_kept, kept, Run.Keeps]
  · rfl
theorem execVacatedResend_kept (s : State) : ResKeeps (kept s) (execVacatedResend s) := by
  unfold execVacatedResend
  repeat' split
  all_goals simp only [modMgmt_kept, sendVacated_kept, kept_mk, foldl_kept, ResKeeps, Run.Keeps]
theorem chunkReady_kept (s : State) (a0) (a1) (a2) (a3) : kept (chunkReady s a0 a1 a2 a3) = kept s := by
  unfold chunkReady
  repeat' split
  all_goals simp only [clearBank_kept, deny_kept, fwFailed_kept, modBoot_kept, programBank_kept, respond_kept, kept_mk, foldl_kept, ResKeeps, Run.Keeps]
theorem execFwChunk_kept (a0) (a1) (a2) (s : State) : ResKeeps (kept s) (execFwChunk a0 a1 a2 s) := by
  unfold execFwChunk
  refine (serve_kept _ _ _ _ _ _ ?_).trans ?_
  · intro s
    repeat' split
    all_goals grind [chunkReady_kept, deny_kept, respond_kept, kept, Run.Keeps]
  · rfl
theorem commitReady_kept (s : State) (a0) (a1) : kept (commitReady s a0 a1) = kept s := by
  unfold commitReady
  grind [completeBank_kept, deny_kept, fwFailed_kept, modBoot_kept, respond_kept, kept, Run.Keeps]
theorem commitRecovery_kept (s : State) (a0) (a1) (a2) : kept (commitRecovery s a0 a1 a2) = kept s := by
  unfold commitRecovery
  grind [eraseBank_kept, fwFailed_kept, levelFour_kept, programBank_kept, respond_kept, kept, Run.Keeps]
theorem execFwCommit_kept (a0) (a1) (a2) (s : State) : ResKeeps (kept s) (execFwCommit a0 a1 a2 s) := by
  unfold execFwCommit
  refine (serve_kept _ _ _ _ _ _ ?_).trans ?_
  · intro s
    repeat' split
    all_goals grind [commitReady_kept, commitRecovery_kept, deny_kept, kept, Run.Keeps]
  · rfl
theorem execMgmtFwHandover_kept (a0) (a1) (s : State) : ResKeeps (kept s) (execMgmtFwHandover a0 a1 s) := by
  unfold execMgmtFwHandover
  refine (serve_kept _ _ _ _ _ _ ?_).trans ?_
  · intro s
    repeat' split
    all_goals grind [deny_kept, fwFailed_kept, handoverBegin_kept, handoverGo_kept, kept, Run.Keeps]
  · rfl
theorem operatorEscalation_kept (s : State) (a0) (a1) : kept (operatorEscalation s a0 a1) = kept s := by
  unfold operatorEscalation
  repeat' split
  all_goals simp only [escalate_kept, levelFour_kept, requestPower_kept, setAlert_kept, kept_mk, foldl_kept, ResKeeps, Run.Keeps]
theorem execEscalate_kept (a0) (a1) (s : State) : ResKeeps (kept s) (execEscalate a0 a1 s) := by
  unfold execEscalate
  refine (serve_kept _ _ _ _ _ _ ?_).trans ?_
  · intro s
    repeat' split
    all_goals grind [deny_kept, operatorEscalation_kept, respond_kept, kept, Run.Keeps]
  · rfl
theorem execLimit_kept (a0) (a1) (s : State) : ResKeeps (kept s) (execLimit a0 a1 s) := by
  unfold execLimit
  refine (serve_kept _ _ _ _ _ _ ?_).trans ?_
  · intro s
    repeat' split
    all_goals grind [deny_kept, modPwr_kept, respond_kept, kept, Run.Keeps]
  · rfl
theorem execNonce_kept (a0) (a1) (s : State) : ResKeeps (kept s) (execNonce a0 a1 s) := by
  unfold execNonce
  refine (serve_kept _ _ _ _ _ _ ?_).trans ?_
  · intro s
    repeat' split
    all_goals grind [drawFree_kept, respond_kept, kept, Run.Keeps]
  · rfl
theorem execNonceLapse_kept (s : State) : ResKeeps (kept s) (execNonceLapse s) := by
  unfold execNonceLapse
  repeat' (first | simp only [kept_mk, foldl_kept, ResKeeps, Run.Keeps] | (refine (foldl_kept ?_ _ _).trans ?_; intro _ _; try dsimp only) | refine fromHost_keeps ?_ | split)
  all_goals grind [kept, Run.Keeps]
theorem dropAllParts_kept (s : State) : kept (dropAllParts s) = kept s := by
  unfold dropAllParts
  repeat' (first | simp only [beginTeardown_kept, dropPart_kept, finishTeardown_kept, kept_mk, foldl_kept, ResKeeps, Run.Keeps] | (refine (foldl_kept ?_ _ _).trans ?_; intro _ _; try dsimp only) | refine fromHost_keeps ?_ | split)
  all_goals grind [beginTeardown_kept, dropPart_kept, finishTeardown_kept, kept, Run.Keeps]
theorem execSetAddr_kept (a0) (a1) (s : State) : ResKeeps (kept s) (execSetAddr a0 a1 s) := by
  unfold execSetAddr
  refine (serve_kept _ _ _ _ _ _ ?_).trans ?_
  · intro s
    repeat' split
    all_goals grind [deny_kept, modMgmt_kept, respond_kept, kept, Run.Keeps]
  · rfl
theorem execAlertClear_kept (a0) (a1) (s : State) : ResKeeps (kept s) (execAlertClear a0 a1 s) := by
  unfold execAlertClear
  refine (serve_kept _ _ _ _ _ _ ?_).trans ?_
  · intro s
    repeat' split
    all_goals grind [modMgmt_kept, respond_kept, kept, Run.Keeps]
  · rfl
theorem isolate_kept (s : State) : kept (isolate s) = kept s := by
  unfold isolate
  repeat' split
  all_goals simp only [logRec_kept, modMgmt_kept, raiseUnit_kept, setAlert_kept, kept_mk, foldl_kept, ResKeeps, Run.Keeps]
theorem execSidebandStuckSda_kept (a0) (s : State) : ResKeeps (kept s) (execSidebandStuckSda a0 s) := by
  unfold execSidebandStuckSda
  repeat' split
  all_goals simp only [isolate_kept, kept_mk, foldl_kept, ResKeeps, Run.Keeps]
theorem execSidebandStuckScl_kept (s : State) : ResKeeps (kept s) (execSidebandStuckScl s) := by
  unfold execSidebandStuckScl
  simp only [isolate_kept, kept_mk, foldl_kept, ResKeeps, Run.Keeps]
theorem execSidebandReconnect_kept (s : State) : ResKeeps (kept s) (execSidebandReconnect s) := by
  unfold execSidebandReconnect
  simp only [modMgmt_kept, kept_mk, foldl_kept, ResKeeps, Run.Keeps]
theorem execDynamicAddressAssignment_kept (s : State) : ResKeeps (kept s) (execDynamicAddressAssignment s) := by
  unfold execDynamicAddressAssignment
  repeat' split
  all_goals simp only [modMgmt_kept, kept_mk, foldl_kept, ResKeeps, Run.Keeps]
theorem execMgmtPortLinkChange_kept (a0) (a1) (s : State) : ResKeeps (kept s) (execMgmtPortLinkChange a0 a1 s) := by
  unfold execMgmtPortLinkChange
  repeat' split
  all_goals simp only [modMgmt_kept, kept_mk, foldl_kept, ResKeeps, Run.Keeps]
theorem managementMessage_kept (s : State) (a0) (a1) (a2) (a3) : kept (managementMessage s a0 a1 a2 a3) = kept s := by
  unfold managementMessage
  grind [deny_kept, emit_kept, modMgmt_kept, kept, Run.Keeps]
theorem execManagementMessage_kept (a0) (a1) (a2) (a3) (s : State) : ResKeeps (kept s) (execManagementMessage a0 a1 a2 a3 s) := by
  unfold execManagementMessage
  simp only [managementMessage_kept, kept_mk, foldl_kept, ResKeeps, Run.Keeps]

end Sys2Proof.Machine
end

