-- ==== Sys2Proof/Laws/KeptRegWrite.lean ====
section
/-!
SUPPORT. What the operations of Machine/RegWrite.lean keep.
-/
set_option linter.unusedSimpArgs false
namespace Sys2Proof.Machine

theorem execHubEscReq_kept (a0) (s : State) : ResKeeps (kept s) (execHubEscReq a0 s) := by
  unfold execHubEscReq
  repeat' (first | simp only [hubEscReq_kept, kept_mk, foldl_kept, ResKeeps, Run.Keeps] | (refine (foldl_kept ?_ _ _).trans ?_; intro _ _; try dsimp only) | refine fromHost_keeps ?_ | split)
  all_goals grind [hubEscReq_kept, kept, Run.Keeps]
theorem execHangCfgWrite_kept (a0) (s : State) : ResKeeps (kept s) (execHangCfgWrite a0 s) := by
  unfold execHangCfgWrite
  repeat' (first | simp only [hangCfgWrite_kept, kept_mk, foldl_kept, ResKeeps, Run.Keeps] | (refine (foldl_kept ?_ _ _).trans ?_; intro _ _; try dsimp only) | refine fromHost_keeps ?_ | split)
  all_goals grind [hangCfgWrite_kept, kept, Run.Keeps]
theorem execPwrCfgWrite_kept (a0) (s : State) : ResKeeps (kept s) (execPwrCfgWrite a0 s) := by
  unfold execPwrCfgWrite
  repeat' (first | simp only [pwrCfgWrite_kept, kept_mk, foldl_kept, ResKeeps, Run.Keeps] | (refine (foldl_kept ?_ _ _).trans ?_; intro _ _; try dsimp only) | refine fromHost_keeps ?_ | split)
  all_goals grind [pwrCfgWrite_kept, kept, Run.Keeps]
theorem msixRelease_kept (s : State) : kept (msixRelease s) = kept s := by
  unfold msixRelease
  repeat' (first | simp only [emit_kept, kept_mk, foldl_kept, ResKeeps, Run.Keeps] | (refine (foldl_kept ?_ _ _).trans ?_; intro _ _; try dsimp only) | refine fromHost_keeps ?_ | split)
  all_goals grind [emit_kept, kept, Run.Keeps]
theorem writeMsix_kept (s : State) (a0) (a1) : kept (writeMsix s a0 a1) = kept s := by
  unfold writeMsix
  grind [msixRelease_kept, kept, Run.Keeps]
theorem writePinCfg_kept (s : State) (a0) (a1) : kept (writePinCfg s a0 a1) = kept s := by
  unfold writePinCfg
  grind [raisePin_kept, setPin_kept, kept, Run.Keeps]
theorem writeRoute_kept (s : State) (a0) (a1) : kept (writeRoute s a0 a1) = kept s := by
  unfold writeRoute
  grind [kept, Run.Keeps]
theorem writeRingBase_kept (s : State) (a0) (a1) : kept (writeRingBase s a0 a1) = kept s := by
  unfold writeRingBase
  repeat' split
  all_goals simp only [modRing_kept, kept_mk, foldl_kept, ResKeeps, Run.Keeps]
theorem writeQBase_kept (s : State) (a0) (a1) : kept (writeQBase s a0 a1) = kept s := by
  unfold writeQBase
  repeat' split
  all_goals simp only [modQueue_kept, kept_mk, foldl_kept, ResKeeps, Run.Keeps]
theorem hubStore_kept (s : State) (a0) (a1) (a2) (a3) : kept (hubStore s a0 a1 a2 a3) = kept s := by
  unfold hubStore
  dsimp only
  repeat' first | with_reducible refine ite_kept ?_ ?_ | split
  all_goals with_reducible first
    | exact writeAperWin_kept _ _ _
    | exact writeMsix_kept _ _ _
    | exact pwrCfgWrite_kept _ _
    | exact writePinCfg_kept _ _ _
    | exact pendingClear_kept _ _
    | exact writeRoute_kept _ _ _
    | exact writeRingBase_kept _ _ _
    | exact writeRingCfg_kept _ _ _
    | exact overflowClear_kept _ _ _
    | exact evtRingHead_kept _ _ _
    | exact partEnable_kept _ _ _
    | exact ctxEnable_kept _ _ _
    | exact grpEnable_kept _ _ _
    | exact grpDisable_kept _ _ _
    | exact writeSubst_kept _ _ _
    | exact stepDirEnable_kept _ _
    | exact stepDirDisable_kept _ _
    | exact modStep_kept _ _
    | exact hangCfgWrite_kept _ _
    | exact modHang_kept _ _
    | exact hubEscReq_kept _ _
    | exact writeQBase_kept _ _ _
    | exact qEnable_kept _ _ _
    | exact qDisable_kept _ _ _
    | exact resumeQueue_kept _ _ _
    | exact rfl
theorem dieStore_kept (s : State) (a0) (a1) (a2) : kept (dieStore s a0 a1 a2) = kept s := by
  unfold dieStore
  repeat' split
  all_goals simp only [genWrite_kept, modChan_kept, portDisable_kept, portEnable_kept, kept_mk, foldl_kept, ResKeeps, Run.Keeps]
theorem barWrite_kept (s : State) (a0) (a1) : kept (barWrite s a0 a1) = kept s := by
  unfold barWrite
  grind [dieStore_kept, hubStore_kept, setRegErr_kept, kept, Run.Keeps]
theorem registerWrite_kept (s : State) (a0) (a1) : kept (registerWrite s a0 a1) = kept s := by
  unfold registerWrite
  grind [barWrite_kept, msixRelease_kept, kept, Run.Keeps]
theorem execRegisterWrite_kept (a0) (a1) (s : State) : ResKeeps (kept s) (execRegisterWrite a0 a1 s) := by
  unfold execRegisterWrite
  simp only [registerWrite_kept, kept_mk, foldl_kept, ResKeeps, Run.Keeps]

end Sys2Proof.Machine
end

