-- ==== Sys2Proof/Laws/KeptTick.lean ====
section
/-!
SUPPORT. What the operations of Machine/Tick.lean keep.
-/
set_option linter.unusedSimpArgs false
namespace Sys2Proof.Machine

theorem tickArray_kept (s : State) : kept (tickArray s) = kept s := by
  unfold tickArray
  grind [kept, Run.Keeps]
theorem tick_kept (s : State) : kept (tick s) = kept s := by
  unfold tick
  grind [tickArray_kept, kept, Run.Keeps]

end Sys2Proof.Machine
end

