-- ==== Sys2Proof/Laws/Report.lean ====
section
/-!
SUPPORT. What raising an event and recording in the ledger change: the memories' step records, the steps, the events;
the ledger.
-/
namespace Sys2Proof.Machine

/-- `t` is `s` but for its memories, its steps and its events. -/
def Raised (s t : State) : Prop := t = { s with mem := t.mem, stepSt := t.stepSt, events := t.events }
/-- `t` is `s` but for its memories, its steps, its events and its ledger. -/
def Reported (s t : State) : Prop :=
  t = { s with mem := t.mem, stepSt := t.stepSt, events := t.events, ledger := t.ledger }

theorem Raised.refl (s : State) : Raised s s := rfl
theorem Reported.refl (s : State) : Reported s s := rfl
theorem Raised.trans {s t u : State} (h : Raised s t) (g : Raised t u) : Raised s u := by
  unfold Raised at *; rw [h] at g; exact g
theorem Reported.trans {s t u : State} (h : Reported s t) (g : Reported t u) : Reported s u := by
  unfold Reported at *; rw [h] at g; exact g
theorem Raised.reported {s t : State} (h : Raised s t) : Reported s t := by
  unfold Raised at h; unfold Reported; rw [h]

theorem Reported.cores {s t : State} (h : Reported s t) : t.cores = s.cores := by rw [h]
theorem Reported.cmds {s t : State} (h : Reported s t) : t.cmds = s.cmds := by rw [h]
theorem Reported.queues {s t : State} (h : Reported s t) : t.queues = s.queues := by rw [h]
theorem Reported.fab {s t : State} (h : Reported s t) : t.fab = s.fab := by rw [h]
theorem Reported.getCore {s t : State} (h : Reported s t) (c : Nat) : getCore t c = getCore s c := by
  unfold Machine.getCore; rw [h.cores]

theorem modRing_raised (s : State) (n : Nat) (f : Ring → Ring) : Raised s (modRing s n f) := rfl
theorem deliver_raised (s : State) (n : Nat) (e : Event) : Raised s (deliver s n e) := rfl

theorem chargeNow_raised (s : State) (c g r : Nat) : Raised s (chargeNow s c g r) := by
  unfold chargeNow
  split <;> rfl

theorem raiseEvent_raised (s : State) (e : Event) (die : Option Nat) : Raised s (raiseEvent s e die) := by
  unfold raiseEvent
  extract_lets s1 r s2 s3
  have h1 : Raised s s1 := by
    simp only [s1]; split
    · exact chargeNow_raised ..
    · rfl
  have h2 : Raised s1 s2 := by
    simp only [s2]; split <;> rfl
  have h3 : Raised s2 s3 := by
    simp only [s3]; cases die with
    | none => rfl
    | some d => dsimp only; split <;> rfl
  have h4 : ∀ x, Raised s3 (if rbit r 63 = true then deliver s3 (hostRing s3 e.ctx e.gen) x else s3) := by
    intro x; split <;> rfl
  exact h1.trans (h2.trans (h3.trans (h4 _)))

theorem raiseUnit_raised (s : State) (r cg u a d b) : Raised s (raiseUnit s r cg u a d b) := raiseEvent_raised ..
theorem raiseCrate_raised (s : State) (r cg o l c h) : Raised s (raiseCrate s r cg o l c h) := raiseEvent_raised ..
theorem raiseCore_raised (s : State) (r cg c st i d) : Raised s (raiseCore s r cg c st i d) := raiseEvent_raised ..
theorem raiseColl_raised (s : State) (r cg g o c n) : Raised s (raiseColl s r cg g o c n) := raiseEvent_raised ..
theorem raiseStep_raised (s : State) (r cg w a) : Raised s (raiseStep s r cg w a) := raiseEvent_raised ..
theorem raiseNotice_raised (s : State) (cg n i) : Raised s (raiseNotice s cg n i) := rfl

/-- Recording in the ledger changes the ledger alone. -/
theorem logRec_frame (s : State) (k r u d) : logRec s k r u d = { s with ledger := (logRec s k r u d).ledger } := by
  unfold logRec
  dsimp only
  split <;> rfl
theorem logRec_reported (s : State) (k r u d) : Reported s (logRec s k r u d) := by
  unfold Reported; rw [logRec_frame]
theorem modUnit_reported (s : State) (u f) : Reported s (modUnit s u f) := rfl
theorem addDue_reported (s : State) (u t r) : Reported s (addDue s u t r) := rfl

theorem setStanding_reported (s : State) (u n f) : Reported s (setStanding s u n f) := by
  unfold setStanding
  extract_lets r s1 s2
  have h : Reported s s2 := (logRec_reported ..).trans (modUnit_reported ..)
  split
  · exact h
  · split
    · exact h.trans (raiseUnit_raised ..).reported
    · split
      · exact h.trans (raiseUnit_raised ..).reported
      · exact h

end Sys2Proof.Machine
end

