-- ==== Sys2Proof/Laws/Stations.lean ====
section
/-!
SUPPORT. What issuing an instruction does when its waits and signals are satisfied.
-/
namespace Sys2Proof.Machine

/-- A core with other bins. -/
def withBins (c : Core) (bins : List Bin) : Core := { c with bins }
theorem withBins_self (c : Core) : withBins c c.bins = c := rfl
@[simp] theorem withBins_bins (c : Core) (b) : (withBins c b).bins = b := rfl
@[simp] theorem withBins_run (c : Core) (b) : (withBins c b).run = c.run := rfl
@[simp] theorem withBins_stations (c : Core) (b) : (withBins c b).stations = c.stations := rfl
@[simp] theorem withBins_withBins (c : Core) (b b') : withBins (withBins c b) b' = withBins c b' := rfl

/-- A signal slot changes the bins of its core and nothing else. -/
theorem signal1_eq (c : Core) (x : Ins.Slot) :
    signal1 c x = match sigBin c.bins x with
      | some bs => .ok (withBins c bs)
      | none => .error (if x.kind then 0xEC else 0xEB) := by
  obtain ⟨en, kind, bin⟩ := x
  unfold signal1 sigBin post release modBin getBin withBins
  cases en <;> cases kind <;> dsimp only
  · rfl
  · rfl
  · by_cases h : (c.bins.getD bin {}).occ = (c.bins.getD bin {}).slotCount ∨ (c.bins.getD bin {}).producer = 7 <;> simp only [h, if_true, if_false, Bool.not_true, Bool.false_eq_true]
  · by_cases h : (c.bins.getD bin {}).occ = 0 <;> simp only [h, if_true, if_false, Bool.not_true, Bool.false_eq_true]

/-- Signal slots that can all act make their posts and releases. -/
theorem signals_ok (s : State) (core st idx : Nat) (w : W128) (bins : List Bin) (hr : (getCore s core).run ≠ 3)
    (h : sigBins (getCore s core).bins w = some bins) :
    getCore (signals s core st idx w) core = withBins (getCore s core) bins
      ∧ (∀ c, c ≠ core → getCore (signals s core st idx w) c = getCore s c)
      ∧ signals s core st idx w = { s with cores := (signals s core st idx w).cores } := by
  unfold signals
  unfold sigBins at h
  generalize Ins.sigs w = l at *
  induction l generalizing s with
  | nil =>
    simp only [List.foldlM_nil, Option.pure_def, Option.some.injEq] at h
    subst h
    exact ⟨rfl, fun _ _ => rfl, rfl⟩
  | cons x l ih =>
    simp only [List.foldlM_cons, Option.bind_eq_bind, Option.bind_eq_some_iff] at h
    obtain ⟨b, hb, h⟩ := h
    have h1 : signal1 (getCore s core) x = .ok (withBins (getCore s core) b) := by rw [signal1_eq, hb]
    rw [List.foldl_cons, if_neg hr, h1]
    dsimp only
    have hg : getCore (setCore s core (withBins (getCore s core) b)) core = withBins (getCore s core) b := by simp
    have := ih (setCore s core (withBins (getCore s core) b)) (by rw [hg]; exact hr) (by rw [hg]; exact h)
    rw [hg] at this
    refine ⟨this.1, ?_, ?_⟩
    · intro c hc
      rw [this.2.1 c hc]
      simp [hc]
    · rw [this.2.2]; rfl

/-- A core with a station held as `h` (or free), its CORE_STATE.RUN accordingly. -/
def heldCore (c : Core) (st : Nat) (h : Hold) : Core :=
  let c := modStation c st (fun x => { x with hold := h })
  { c with run := if c.run = 3 then 3
                  else if c.stations.any (fun x => match x.hold with | .fence _ _ => true | _ => false) then 2 else 1 }
@[simp] theorem heldCore_bins (c : Core) (st h) : (heldCore c st h).bins = c.bins := rfl
@[simp] theorem modStation_bins (c : Core) (st f) : (modStation c st f).bins = c.bins := rfl
@[simp] theorem modStation_run (c : Core) (st f) : (modStation c st f).run = c.run := rfl
theorem heldCore_run (c : Core) (st h) (hr : c.run ≠ 3) : (heldCore c st h).run ≠ 3 := by
  have : (modStation c st (fun x => { x with hold := h })).run ≠ 3 := hr
  unfold heldCore
  dsimp only
  rw [if_neg this]
  split <;> decide

theorem setHold_eq (s : State) (core st : Nat) (h : Hold) : setHold s core st h = setCore s core (heldCore (getCore s core) st h) := rfl
@[simp] theorem getCore_setHold (s : State) (core st : Nat) (h : Hold) (c : Nat) :
    getCore (setHold s core st h) c = if c = core then heldCore (getCore s core) st h else getCore s c := by
  rw [setHold_eq, getCore_setCore]

/-- A station that a core's stations list holds. -/
theorem getStation_modStation (c : Core) (st : Nat) (f : Station → Station) (j : Nat) :
    getStation (modStation c st f) j = if j = st ∧ st < c.stations.length then f (getStation c st) else getStation c j :=
  getD_lset ..

theorem store_lt {c : Core} {st : Nat} {k : Nat} {w : W128} (h : (getStation c st).store[k]? = some w) : st < c.stations.length := by
  by_cases hl : st < c.stations.length
  · exact hl
  · have : getStation c st = {} := by simp [getStation, List.getD, List.getElem?_eq_none (Nat.le_of_not_lt hl)]
    rw [this] at h
    simp at h

theorem fetch_runs {s : State} {core st : Nat} {w : W128} (h : fetchIns s core st = some w) :
    coreRuns s core = true ∧ (getCore s core).run ≠ 3 ∧ st < (getCore s core).stations.length := by
  unfold fetchIns at h
  split at h
  · rename_i hr
    dsimp only at h
    split at h
    · rename_i hs
      refine ⟨hr, ?_, store_lt hs⟩
      unfold coreRuns at hr
      dsimp only at hr
      split at hr
      · cases hr
      · intro h3; simp [h3] at hr
    · cases h
  · cases h

/-- The state after an instruction whose body is done and whose signals can act. -/
theorem finish_done (s0 t : State) (core st idx : Nat) (w : W128) (bins : List Bin) (hr : (getCore t core).run ≠ 3)
    (h : sigBins (getCore t core).bins w = some bins) :
    getCore (finish s0 core st idx w (.done t)) core = modStation (withBins (getCore t core) bins) st Station.next
      ∧ (∀ c, c ≠ core → getCore (finish s0 core st idx w (.done t)) c = getCore t c)
      ∧ finish s0 core st idx w (.done t) = { t with cores := (finish s0 core st idx w (.done t)).cores } := by
  have hs := signals_ok t core st idx w bins hr h
  have hrun : (getCore (signals t core st idx w) core).run ≠ 3 := by rw [hs.1]; exact hr
  simp only [finish, advanceSt, if_neg hrun]
  refine ⟨?_, ?_, ?_⟩
  · rw [getCore_modCore, if_pos rfl, hs.1]
  · intro c hc
    rw [getCore_modCore, if_neg hc, hs.2.1 c hc]
  · generalize signals t core st idx w = u at *
    rw [hs.2.2]; rfl

theorem lset_lset {α : Type} (l : List α) (i : Nat) (x y : α) : lset (lset l i x) i y = lset l i y := by
  induction l generalizing i with
  | nil => rfl
  | cons a t ih => cases i <;> simp [lset, ih]

theorem lset_comm {α : Type} (l : List α) (i j : Nat) (x y : α) (h : i ≠ j) : lset (lset l i x) j y = lset (lset l j y) i x := by
  induction l generalizing i j with
  | nil => rfl
  | cons a t ih => cases i <;> cases j <;> simp_all [lset]

/-- Changes of two stations of a core commute. -/
theorem modStation_comm (c : Core) (i j : Nat) (f g : Station → Station) (h : i ≠ j) :
    modStation (modStation c i f) j g = modStation (modStation c j g) i f := by
  have e1 : getStation (modStation c i f) j = getStation c j := by rw [getStation_modStation, if_neg (by omega)]
  have e2 : getStation (modStation c j g) i = getStation c i := by rw [getStation_modStation, if_neg (by omega)]
  show ({ modStation c i f with stations := lset (modStation c i f).stations j (g (getStation (modStation c i f) j)) } : Core)
    = { modStation c j g with stations := lset (modStation c j g).stations i (f (getStation (modStation c j g) i)) }
  rw [e1, e2]
  show ({ c with stations := lset (lset c.stations i (f (getStation c i))) j (g (getStation c j)) } : Core)
    = { c with stations := lset (lset c.stations j (g (getStation c j))) i (f (getStation c i)) }
  rw [lset_comm _ _ _ _ _ h]

/-- A core whose station passed its instruction, from the state its body left. -/
theorem passed_of_done (s0 s t : State) (core st : Nat) (w : W128) (bins : List Bin) (f : Core → Core) (hr : (getCore t core).run ≠ 3)
    (h : sigBins (getCore t core).bins w = some bins)
    (hc : ∀ c, c ≠ core → getCore t c = getCore s c)
    (hf : modStation (withBins (getCore t core) bins) st Station.next = f (passedCore (getCore s core) st bins (getCore t core).run)) :
    Passed s (finish s0 core st (getStation (getCore s core) st).pc w (.done t)) core st bins f := by
  have := finish_done s0 t core st (getStation (getCore s core) st).pc w bins hr h
  refine ⟨⟨(getCore t core).run, hr, ?_⟩, fun c h => (this.2.1 c h).trans (hc c h)⟩
  rw [this.1, hf]

/-- The station's own record after the hold is cleared and the instruction passed. -/
theorem next_held (c : Core) (st : Nat) (h : Hold) (bins : List Bin) (hs : st < c.stations.length) :
    modStation (withBins (heldCore c st h) bins) st Station.next = passedCore c st bins (heldCore c st h).run := by
  have h1 : getStation (withBins (heldCore c st h) bins) st = { getStation c st with hold := h } := by
    have := getStation_modStation c st (fun x => { x with hold := h }) st
    rw [if_pos ⟨rfl, hs⟩] at this
    exact this
  have h2 : (withBins (heldCore c st h) bins).stations = lset c.stations st { getStation c st with hold := h } := rfl
  unfold modStation
  rw [h1, h2, lset_lset]
  rfl

/-- An instruction whose waits are satisfied and that no finding meets runs its body. -/
theorem issue_clean {s : State} {core st op : Nat} {w : W128} (body) (h : AtIns s core st op .none w) :
    issue s core st op .clean body
      = finish s core st (getStation (getCore s core) st).pc w (body (setHold s core st .none) core w .clean) := by
  unfold issue
  rw [h.fetch]
  dsimp only
  rw [if_pos ⟨h.opcode, h.held⟩]
  unfold runIns
  rw [h.waits]
  rfl

theorem resume_clean {s : State} {core st op : Nat} {hd : Hold} {w : W128} (held) (body) (h : AtIns s core st op hd w) (hh : held hd = true) :
    resumeIns s core st held .clean body
      = finish s core st (getStation (getCore s core) st).pc w (body (setHold s core st .none) core w .clean) := by
  unfold resumeIns
  rw [h.fetch]
  dsimp only
  rw [h.held, if_pos hh]
  unfold runIns
  rw [h.waits]
  rfl

/-- An instruction whose own effect on its core is `f` passes with that effect, and changes outside the cores what its
body changed. -/
theorem finish_passes {s t : State} {core st op : Nat} {h : Hold} {w : W128} {bins : List Bin} (s0 : State) (f : Core → Core)
    (ha : AtIns s core st op h w) (hb : sigBins (getCore s core).bins w = some bins)
    (ht : getCore t core = f (heldCore (getCore s core) st .none)) (hto : ∀ c, c ≠ core → getCore t c = getCore s c)
    (hf : ∀ c, (f c).bins = c.bins ∧ (f c).run = c.run)
    (hc : ∀ c b, modStation (withBins (f c) b) st Station.next = f (modStation (withBins c b) st Station.next)) :
    Passed s (finish s0 core st (getStation (getCore s core) st).pc w (.done t)) core st bins f
      ∧ finish s0 core st (getStation (getCore s core) st).pc w (.done t)
        = { t with cores := (finish s0 core st (getStation (getCore s core) st).pc w (.done t)).cores } := by
  have hr := fetch_runs ha.fetch
  have h1 : (getCore t core).run ≠ 3 := by rw [ht, (hf _).2]; exact heldCore_run _ _ _ hr.2.1
  have h2 : sigBins (getCore t core).bins w = some bins := by rw [ht, (hf _).1]; exact hb
  refine ⟨passed_of_done _ _ _ _ _ _ _ _ h1 h2 hto ?_, (finish_done _ _ _ _ _ _ _ h1 h2).2.2⟩
  rw [ht, hc, next_held _ _ _ _ hr.2.2, (hf _).2]

theorem modCore_with (s : State) (i : Nat) (f : Core → Core) (c : Tab Core) :
    ({ modCore s i f with cores := c } : State) = { s with cores := c } := rfl
theorem setHold_with (s : State) (i st : Nat) (h : Hold) (c : Tab Core) :
    ({ setHold s i st h with cores := c } : State) = { s with cores := c } := rfl

/-- An instruction whose body only changes its core, by `g`. -/
theorem issue_modCore {s : State} {core st op : Nat} {w : W128} {bins : List Bin} (body) (g : Core → Core)
    (ha : AtIns s core st op .none w) (hb : sigBins (getCore s core).bins w = some bins)
    (hbody : body (setHold s core st .none) core w .clean = .done (modCore (setHold s core st .none) core g))
    (hg : ∀ c, (g c).bins = c.bins ∧ (g c).run = c.run)
    (hc : ∀ c b, modStation (withBins (g c) b) st Station.next = g (modStation (withBins c b) st Station.next)) :
    issue s core st op .clean body = { s with cores := (issue s core st op .clean body).cores }
      ∧ Passed s (issue s core st op .clean body) core st bins g := by
  rw [issue_clean _ ha, hbody]
  have h1 : getCore (modCore (setHold s core st .none) core g) core = g (heldCore (getCore s core) st .none) := by
    rw [getCore_modCore, if_pos rfl, getCore_setHold, if_pos rfl]
  have h2 : ∀ c, c ≠ core → getCore (modCore (setHold s core st .none) core g) c = getCore s c := by
    intro c hc; rw [getCore_modCore, if_neg hc, getCore_setHold, if_neg hc]
  have h0 := finish_passes s g ha hb h1 h2 hg hc
  exact ⟨h0.2.trans ((modCore_with _ _ _ _).trans (setHold_with _ _ _ _ _)), h0.1⟩

/-- A held instruction leaves its station at it. -/
theorem finish_hold (s0 s : State) (core st idx : Nat) (w : W128) (h g : Hold) (hs : st < (getCore s core).stations.length) :
    (getStation (getCore (finish s0 core st idx w (.hold h (setHold s core st g))) core) st)
        = { getStation (getCore s core) st with hold := h }
      ∧ (∀ c, c ≠ core → getCore (finish s0 core st idx w (.hold h (setHold s core st g))) c = getCore s c)
      ∧ (getCore (finish s0 core st idx w (.hold h (setHold s core st g))) core).bins = (getCore s core).bins
      ∧ finish s0 core st idx w (.hold h (setHold s core st g))
        = { s with cores := (finish s0 core st idx w (.hold h (setHold s core st g))).cores } := by
  refine ⟨?_, ?_, ?_, rfl⟩
  · simp only [finish, getCore_setHold, if_true]
    have e1 : getStation (heldCore (getCore s core) st g) st = { getStation (getCore s core) st with hold := g } := by
      have := getStation_modStation (getCore s core) st (fun x => { x with hold := g }) st
      rw [if_pos ⟨rfl, hs⟩] at this
      exact this
    have hs2 : st < (heldCore (getCore s core) st g).stations.length := by
      show st < (lset _ _ _).length
      rw [length_lset]; exact hs
    have := getStation_modStation (heldCore (getCore s core) st g) st (fun x => { x with hold := h }) st
    rw [if_pos ⟨rfl, hs2⟩, e1] at this
    exact this
  · intro c hc
    simp [finish, hc]
  · simp [finish]

end Sys2Proof.Machine
end

