-- ==== Sys2Proof/Laws/Zero.lean ====
section
/-!
SUPPORT. The CRC-64 of a zero crate is its CHECK (07/R206, 08/R243), so every crate that nothing has written is good.
-/
namespace Sys2Proof.Machine

/-- The register of the CRC after each 128 zero bytes. -/
def zeroRuns : List Nat :=
  [0xffffffffffffffff, 0x34af5e948295e0c, 0xc48c17b8cdcb54f4, 0x8ac88aa4cb071ff4,
   0xc9c025cabb28b669, 0xaa12481a755af83d, 0x2964868411e544b4, 0x26eff4448baaaa6b,
   0xcf1b69fb1639e13c, 0xe7eea37086e57137, 0xc89b88851236cbb4, 0xe98277710a687bde,
   0xd8299d583f09982e, 0xb1074f29db9c3397, 0xa6e37be3d0c71255, 0x707a209426ebc57f,
   0x1d381bdbe7e920e3, 0x8ba731bf97c460f7, 0x885cfb18af5c2cbd, 0x2b3ef392c03a1998,
   0x672f1f760a2bf820, 0xce17a670e363a0b9, 0xe6e1d0ed9d88856c, 0x46fa6a57caa3114d,
   0xbfa3727bc1af9f44, 0xf7095d10bec1186, 0x1be2e5eb32249ed5, 0xd9d1b6680789988b,
   0xa293b1c6fe00558e, 0x9ffd99c6ade80ee, 0xd9fc812d2df296c0, 0xab5f989b27d5ae04,
   0x5af0a85bd634349b]

theorem crc_run_append (c : Nat) (a b : List Byte) : Crc.run c (a ++ b) = Crc.run (Crc.run c a) b := by simp [Crc.run]
theorem zeroRuns_step : ∀ i < 32, Crc.run (zeroRuns.getD i 0) (List.replicate 128 0#8) = zeroRuns.getD (i + 1) 0 := by
  decide +kernel
theorem crc_zeros (n : Nat) (h : n ≤ 32) : Crc.run (2 ^ 64 - 1) (List.replicate (n * 128) 0#8) = zeroRuns.getD n 0 := by
  induction n with
  | zero => rfl
  | succ k ih =>
    rw [Nat.succ_mul, ← List.replicate_append_replicate, crc_run_append, ih (by omega), zeroRuns_step k (by omega)]
/-- The CHECK of a zero payload. -/
theorem crc64_zeros : Crc.crc64 (List.replicate 4096 0#8) = Crc.zeroCheck := by
  have h := crc_zeros 32 (by omega)
  unfold Crc.crc64
  rw [show (4096 : Nat) = 32 * 128 from rfl, h]
  decide +kernel

theorem crateBytes_unwritten (m : Mem) (k : Nat) (h : m.cells = []) : crateBytes m k = List.replicate 4096 0#8 := by
  unfold crateBytes
  rw [readBytes_eq _ _ _ (by rw [h]; rfl), h]
  have : ∀ l : List Nat, l.map (readByte []) = List.replicate l.length 0#8 := by
    intro l; induction l with
    | nil => rfl
    | cons a t ih => rw [List.map_cons, ih]; rfl
  rw [this, List.length_range']

theorem cacheHome_scratch (m : Mem) (k : Nat) (h : m.slices = []) : cacheHome m k = none := by
  have : ∀ d, cacheSlices m d = [] := fun d => by simp [cacheSlices, h, tget]
  unfold cacheHome
  dsimp only
  split <;> simp [this]

/-- A crate of zeros is good when its tag says so. -/
theorem crateOk_zeros (s : State) (k : Nat) (hc : s.mem.cells = []) (ho : s.mem.opened = []) (hb : s.mem.bad = [])
    (hs : s.mem.slices = []) (hp : Tag.poisoned (tget Tag.zero s.mem.tags k) = false)
    (hk : Tag.check (tget Tag.zero s.mem.tags k) = Crc.zeroCheck) : CrateOk s k := by
  have ht : crateTag s.mem k = tget Tag.zero s.mem.tags k := by simp [crateTag, ho, crateBad, hb, Tag.poisonIf]
  exact ⟨cacheHome_scratch _ _ hs, by simp [hb], by rw [ht, hp], by rw [ht, crateBytes_unwritten _ _ hc, crc64_zeros, hk]⟩

/-- So is every crate of memories that list nothing. -/
theorem crateOk_unwritten (s : State) (k : Nat) (hc : s.mem.cells = []) (ho : s.mem.opened = []) (hb : s.mem.bad = [])
    (hs : s.mem.slices = []) (ht : s.mem.tags = []) : CrateOk s k :=
  crateOk_zeros s k hc ho hb hs (by rw [ht]; show Tag.poisoned Tag.zero = false; decide +kernel)
    (by rw [ht]; show Tag.check Tag.zero = Crc.zeroCheck; decide +kernel)

theorem CrateOk.move {s : State} {k : Nat} (h : CrateOk s k) : MoveOk s k := ⟨h.home, h.bad, .inr h.check⟩

/-- With no step open and every slice in scratch mode, every crate may be written without more. -/
theorem plain_free (m : Mem) (k : Nat) (hc : m.cow = none) (hs : m.slices = []) : Plain m k :=
  ⟨fun c h => by { rw [hc] at h; cases h }, cacheHome_scratch m k hs⟩

end Sys2Proof.Machine
end

