-- ==== Sys2Proof/WellFormed.lean ====
section
/-!
DEFINITION. Which commands are well-formed: every number that names an object of the module lies in that object's range.
-/
namespace Sys2Proof.Instr

/-- A logical core (01/R15). -/
def okCore (x : Nat) : Bool := decide (x < 1024)
/-- A station (03/R71). -/
def okStation (x : Nat) : Bool := decide (x < 6)
/-- A command-table entry (09/R302). -/
def okSlot (x : Nat) : Bool := decide (x < 4096)
/-- A queue (09/R282). -/
def okQueue (x : Nat) : Bool := decide (x < 16384)
/-- A fabric port (01/R19). -/
def okPort (x : Nat) : Bool := decide (x < 48)
/-- A memory channel (07/R198). -/
def okChannel (x : Nat) : Bool := decide (x < 640)
/-- A context (10/R332). -/
def okContext (x : Nat) : Bool := decide (x < 256)
/-- A collective group (12/R400). -/
def okGroup (x : Nat) : Bool := decide (x < 1024)
/-- An event ring (17/R523). -/
def okRing (x : Nat) : Bool := decide (x < 64)
/-- A chip number (11/R363). -/
def okChip (x : Nat) : Bool := decide (x < 32768)
/-- A compute die. -/
def okDie (x : Nat) : Bool := decide (x < 8)
/-- A partition (10/R324). -/
def okPart (x : Nat) : Bool := decide (x < 8)
/-- A market-store slice. -/
def okSlice (x : Nat) : Bool := decide (x < 256)
/-- A number of sectors of a crate cut short (08/R247). -/
def okSectors (x : Nat) : Bool := decide (x < 64)
/-- An event pin (17/R518). -/
def okPin (x : Nat) : Bool := decide (x < 8)
/-- A processor with an event ring (17/R526). -/
def okProc (x : Nat) : Bool := decide (x < 9)
/-- An aperture window (09/R278). -/
def okWindow (x : Nat) : Bool := decide (x < 16)
/-- A substitution entry (12/R425). -/
def okSubst (x : Nat) : Bool := decide (x < 256)
/-- A channel of a session (11/R371). -/
def okSessionChannel (x : Nat) : Bool := decide (x < 4)
/-- A virtual lane (11/R357). -/
def okVirtualLane (x : Nat) : Bool := decide (x < 8)
/-- A lane of a port (11/R353). -/
def okFabricLane (x : Nat) : Bool := decide (x < 9)
/-- A lane of a memory channel (07/R218). -/
def okMemoryLane (x : Nat) : Bool := decide (x < 76)
/-- A die of a processor, 8 the hub. -/
def okDieOrHub (x : Nat) : Bool := decide (x < 9)
/-- A processor of a pair. -/
def okSpare (x : Nat) : Bool := decide (x < 2)
/-- A management port. -/
def okMgmtPort (x : Nat) : Bool := decide (x < 2)
/-- An escalation level. -/
def okLevel (x : Nat) : Bool := decide (1 ≤ x ∧ x ≤ 5)
/-- A test result (08/R253). -/
def okResult (x : Nat) : Bool := decide (x < 3)
/-- A state of the hold-up bank (08/R267). -/
def okHoldup (x : Nat) : Bool := decide (x < 5)
/-- A charge in per cent. -/
def okPercent (x : Nat) : Bool := decide (x ≤ 100)
/-- A BAR4 offset (09/R277). -/
def okAperture (x : Nat) : Bool := decide (x < 68719476736)
/-- A number of steps of a provisioning burn (10/R315). -/
def okSteps (x : Nat) : Bool := decide (x ≤ 5)
/-- A command packet (09/R290). -/
def okPacket (x : List Byte) : Bool := x.length == 64
/-- The body of a management request (19/R570). -/
def okBody (x : List Byte) : Bool := decide (x.length ≤ 1028)
/-- A management message with its header (19/R570). -/
def okMessage (x : List Byte) : Bool := decide (x.length ≤ 1060)
/-- The converter's samples (16/R495). -/
def okSamples (x : List Nat) : Bool := x.length == 16 && x.all (fun v => decide (v < 1024))

/-- What an instruction met names banks, bins and bench entries of the core (03/R71, R75, R84). -/
def okFinding : Finding → Bool
  | .bankConflict bank st => decide (bank < 48) && okStation st
  | .waitEarly bin _ => decide (bin < 64)
  | .arrayCond code => decide (1 ≤ code ∧ code ≤ 8)
  | .weigh xs => xs.all (fun x => decide (x.1 < 2048) && x.2.2.all (fun c => decide (c < 128)))
  | .benchEntry line column => decide (line < 2048 ∧ column < 128)
  | .clean | .meshConflict | .storeEntry | .corrected _ | .correctedSectors _ | .uncorrectable _ => true
/-- An access through the aperture: a PCIe request crosses no 4 KiB boundary (PRESUMED, log entry 36). -/
def okAccess (x n : Nat) : Bool := okAperture x && decide (1 ≤ n ∧ x % 4096 + n ≤ 4096)
/-- A microsecond's measurements: one current for each die (18/R550). -/
def okSample (x : BackSample) : Bool := x.dies.length == 8
/-- The lanes of a port, as a mask (11/R353). -/
def okLaneMask (x : Nat) : Bool := decide (x < 512)

/-- The command names only what the module has. DESIGN CHOICE: log entry 4. -/
def wf : Instr → Bool
  | .delay core st f => okCore core && okStation st && okFinding f
  | .fence core st f => okCore core && okStation st && okFinding f
  | .fenceResume core st => okCore core && okStation st
  | .lstream core f => okCore core && okFinding f
  | .lweight core f => okCore core && okFinding f
  | .ldiag core f => okCore core && okFinding f
  | .mpass core f => okCore core && okFinding f
  | .mdiag core f => okCore core && okFinding f
  | .mdrain core f => okCore core && okFinding f
  | .mfloor core f => okCore core && okFinding f
  | .pset core f => okCore core && okFinding f
  | .ppack core f => okCore core && okFinding f
  | .vloadc core f => okCore core && okFinding f
  | .vstorec core f => okCore core && okFinding f
  | .vrecv core f => okCore core && okFinding f
  | .vsplat core f => okCore core && okFinding f
  | .varith core f => okCore core && okFinding f
  | .vfunc core f => okCore core && okFinding f
  | .vred core f => okCore core && okFinding f
  | .vbcast core f => okCore core && okFinding f
  | .pmove core f => okCore core && okFinding f
  | .pacc core f => okCore core && okFinding f
  | .pgather core f => okCore core && okFinding f
  | .pscatter core f => okCore core && okFinding f
  | .pfabric core f => okCore core && okFinding f
  | .markedTransferComplete core _ f => okCore core && okFinding f
  | .swait core f => okCore core && okFinding f
  | .swaitSatisfied core => okCore core
  | .ssignal core f => okCore core && okFinding f
  | .ssignalDrainDone core => okCore core
  | .srepeat core f => okCore core && okFinding f
  | .sphase core f => okCore core && okFinding f
  | .sophint core f => okCore core && okFinding f
  | .markedWaitSatisfied core st f => okCore core && okStation st && okFinding f
  | .arrayHoldClear core st f => okCore core && okStation st && okFinding f
  | .activityFrame core _ => okCore core
  | .housekeepingWindow core f => okCore core && okFinding f
  | .launchEdge slot => okSlot slot
  | .launchComplete slot _ _ => okSlot slot
  | .packetFetch p => okPacket p
  | .commandBegin q => okQueue q
  | .completionRecordWrite q => okQueue q
  | .memWrite slot _ sectors _ => okSlot slot && okSectors sectors
  | .memRead slot _ f => okSlot slot && okFinding f
  | .memCopy slot _ sectors f => okSlot slot && okSectors sectors && okFinding f
  | .memFill slot _ sectors => okSlot slot && okSectors sectors
  | .memRetag slot _ f => okSlot slot && okFinding f
  | .sliceMode slot => okSlot slot
  | .launch slot => okSlot slot
  | .launchAbort slot => okSlot slot
  | .tallyNop slot => okSlot slot
  | .tallyAdd slot => okSlot slot
  | .tallyRead slot => okSlot slot
  | .tallyEpoch slot => okSlot slot
  | .phaseMapLoad slot => okSlot slot
  | .phaseSwitch slot => okSlot slot
  | .allReduce slot => okSlot slot
  | .reduceScatter slot => okSlot slot
  | .allGather slot => okSlot slot
  | .broadcast slot => okSlot slot
  | .collectiveComplete slot => okSlot slot
  | .stepBegin slot => okSlot slot
  | .stepReplay slot => okSlot slot
  | .crossWeigh slot => okSlot slot
  | .crossWeighOutcome slot _ _ _ => okSlot slot
  | .checkpoint slot => okSlot slot
  | .checkpointCommit slot => okSlot slot
  | .vacate slot _ => okSlot slot
  | .takeover slot _ => okSlot slot
  | .stepConfig slot => okSlot slot
  | .identify slot => okSlot slot
  | .telemetryRead slot _ => okSlot slot
  | .ledgerRead slot => okSlot slot
  | .fwStage slot _ _ => okSlot slot
  | .fwHandover slot => okSlot slot
  | .fieldTest slot => okSlot slot
  | .chTestEnter slot => okSlot slot
  | .chTestExit slot => okSlot slot
  | .marginSweep slot _ _ => okSlot slot
  | .marginStop slot => okSlot slot
  | .captureRead slot => okSlot slot
  | .partCreate slot => okSlot slot
  | .partDestroy slot => okSlot slot
  | .ctxCreate slot => okSlot slot
  | .ctxSet slot => okSlot slot
  | .ctxDestroy slot => okSlot slot
  | .teardownComplete ctx => okContext ctx
  | .revokeTimeout ctx => okContext ctx
  | .quarantineEnd ctx => okContext ctx
  | .sqDoorbell q _ => okQueue q
  | .cqDoorbell q _ => okQueue q
  | .qEnable q _ => okQueue q
  | .qDisable q _ => okQueue q
  | .queueDrainDone q => okQueue q
  | .resume q _ => okQueue q
  | .queueResumed q => okQueue q
  | .hostBackpressure _ => true
  | .aperWinEnable k _ => okWindow k
  | .apertureRead x n => okAccess x n
  | .apertureWrite x data => okAccess x data.length
  | .partEnable p _ => okPart p
  | .ctxEnable n _ => okContext n
  | .portEnable p _ => okPort p
  | .portDisable p _ => okPort p
  | .grpEnable g _ => okGroup g
  | .grpDisable g _ => okGroup g
  | .grpSubstEnable k _ => okSubst k
  | .stepDirEnable _ => true
  | .stepDirDisable _ => true
  | .evtRingEnable n _ => okRing n
  | .evtRingDisable n _ => okRing n
  | .evtRingHead n _ => okRing n
  | .evtEoi q _ _ => okProc q
  | .pendingClear _ => true
  | .overflowClear n _ => okRing n
  | .hubEscReq _ => true
  | .hangCfgWrite _ => true
  | .pwrCfgWrite _ => true
  | .genStart ch _ => okChannel ch
  | .genStop ch _ => okChannel ch
  | .registerWrite _ _ => true
  | .regReadRefused _ _ => true
  | .functionLevelReset => true
  | .perst => true
  | .pcieLinkDown => true
  | .pcieReadError q _ => okQueue q
  | .dramRefresh chan => okChannel chan
  | .recalibration ch _ => okChannel ch
  | .patrolScrubStep ch _ _ f => okChannel ch && okFinding f
  | .memoryLaneRetire ch lane _ => okChannel ch && okMemoryLane lane
  | .scrubStarved core => okCore core
  | .fieldTestDue _ _ => true
  | .standingRecovery _ => true
  | .counterMirror => true
  | .ledgerPageProgram => true
  | .holdupStateChange state charge => okHoldup state && okPercent charge
  | .ledgerFlashFail => true
  | .flitReceive p _ _ => okPort p
  | .frameSend p lane => okPort p && okVirtualLane lane
  | .put p => okPort p
  | .accPut p => okPort p
  | .getReq p => okPort p
  | .getData p => okPort p
  | .tallyAddFrame p => okPort p
  | .collGrant p => okPort p
  | .collData p => okPort p
  | .void p => okPort p
  | .error p => okPort p
  | .revoke p => okPort p
  | .revokeAck p => okPort p
  | .bind p => okPort p
  | .bindReply p => okPort p
  | .ack p => okPort p
  | .nak p => okPort p
  | .openReq p => okPort p
  | .openAck p => okPort p
  | .bell p => okPort p
  | .time p _ _ => okPort p
  | .discovery p => okPort p
  | .ackTimer peer ch => okChip peer && okSessionChannel ch
  | .retransmitTimeout peer ch => okChip peer && okSessionChannel ch
  | .openRetry peer => okChip peer
  | .discoverySend p => okPort p
  | .discoveryTimeout p => okPort p
  | .portLinkLost p => okPort p
  | .portTrainingDone p _ failed lanes => okPort p && okLaneMask failed && okLaneMask lanes
  | .portTrainingRetry p => okPort p
  | .fabricLaneRetire p lane => okPort p && okFabricLane lane
  | .portBackpressure p _ => okPort p
  | .timeExchange p _ => okPort p
  | .collectiveSilence g _ => okGroup g
  | .bellResend g => okGroup g
  | .groupBackpressure g _ => okGroup g
  | .vacateAuto => true
  | .vacateNoTakeover => true
  | .holderTimeout => true
  | .hangEvaluation => true
  | .escalationContext ctx => okContext ctx
  | .escalationEngine _ _ _ _ => true
  | .escalationPartition part _ => okPart part
  | .escalationChip => true
  | .escalationPowerCycle => true
  | .coreStopTimeout core => okCore core
  | .heartbeatMissed die proc => okDieOrHub die && okSpare proc
  | .engineNoAnswer _ => true
  | .escalationOverrun level _ => okLevel level
  | .stewardWatchdog => true
  | .readyTimeout => true
  | .powerOn => true
  | .resetNAsserted => true
  | .assertionEnd _ => true
  | .fuseSense => true
  | .optionLoading samples => okSamples samples
  | .bootRom => true
  | .firmwarePhase _ _ _ _ => true
  | .phyTraining _ _ => true
  | .ready => true
  | .eventRecordWrite n => okRing n
  | .interruptTake q => okProc q
  | .pinChange p _ => okPin p
  | .referenceLost => true
  | .pllLockLost _ => true
  | .opTargetChange => true
  | .opSwitch => true
  | .backstopTick x => okSample x
  | .backstopLimitUpdate => true
  | .droop die => okDie die
  | .thermalResponse _ _ _ _ => true
  | .inputOutOfRange => true
  | .inputLoss => true
  | .auxLoss => true
  | .mgmtIdentify _ body => okBody body
  | .telemetry _ body _ => okBody body
  | .mgmtDiscovery _ body => okBody body
  | .setStall _ body => okBody body
  | .assignChip _ body => okBody body
  | .routeWrite _ body => okBody body
  | .reclaim _ body => okBody body
  | .reclaimStatus _ body => okBody body
  | .vacatedResend => true
  | .mgmtLedgerRead _ body => okBody body
  | .totalsRead _ body => okBody body
  | .fwChunk _ body _ => okBody body
  | .fwCommit _ body _ => okBody body
  | .mgmtFwHandover _ body => okBody body
  | .escalate _ body => okBody body
  | .limit _ body => okBody body
  | .nonce _ body => okBody body
  | .nonceLapse => true
  | .keyRevocation _ body => okBody body
  | .templateRevocation _ body => okBody body
  | .debugRevocation _ body => okBody body
  | .securityVersionRaise _ body => okBody body
  | .scanUnlock _ body => okBody body
  | .rmaEntry _ body => okBody body
  | .provision _ body steps => okBody body && okSteps steps
  | .setAddr _ body => okBody body
  | .alertClear _ body => okBody body
  | .sidebandStuckSda _ => true
  | .sidebandStuckScl => true
  | .sidebandReconnect => true
  | .powerCycleTimeout => true
  | .fieldTestResult _ _ result _ _ => okResult result
  | .genPassesDone ch _ _ _ => okChannel ch
  | .pcieLinkUp => true
  | .referenceRestored => true
  | .inputBackInRange => true
  | .pllLockTimeout => true
  | .handoverTimeout => true
  | .replayDrainTimeout => true
  | .transferCancelTimeout core _ _ => okCore core
  | .sliceScrubPass slice f => okSlice slice && okFinding f
  | .mgmtPortLinkChange port _ => okMgmtPort port
  | .dynamicAddressAssignment => true
  | .managementMessage _ _ _ message => okMessage message

end Sys2Proof.Instr
end

