-- ==== Sys2Proof/Tests/Slice0.lean ====
section
/-!
SUPPORT. Tests: the worked values of the specification, an ill-formed command for each check of `WellFormed`, and for
every clause of every statement a concrete state and operands that meet its hypotheses together (`wit_<clause>`).
-/
namespace Sys2Proof.Tests
set_option Elab.async false
set_option maxRecDepth 100000
set_option synthInstance.maxHeartbeats 400000
set_option synthInstance.maxSize 4000
open Sys2Proof Sys2Proof.Machine

/-! ### Shared states -/

/-- An instruction word: opcode and its other bits. -/
def tIns (op : Nat) (bits : Nat) : W128 := BitVec.ofNat 128 (op * 2 ^ 120 + bits)
/-- A core that runs with one instruction at station `st`, in launch 7. -/
def tCore (st : Nat) (w : W128) : Core :=
  { launch := some 7, load := 3, run := 1, stations := lset (List.replicate 6 {}) st { store := [w, 0#128] } }
/-- A ready module whose core 0 is as given, running launch 7. -/
def tState (c : Core) : State :=
  { boot := { phase := 6 }, arrayCycles := 900#64, time := 1234#64, cores := [(0, c), (5, { token := 3 })]
    launches := [(7, { ctx := 1, gen := 2, cores := [0], running := true })]
    parts := [(1, { dies := List.range 8, state := 2, enable := true })]
    ctxs := [(1, { enable := true, part := 1, state := 2, gen := 2, tallyCount := 64 })] }
/-- The tag of a zero crate of a format. -/
def tTag (fmt : Nat) : W128 := Tag.mk Crc.zeroCheck fmt 0 0 3
/-- Bin 0 of two slots of two crates at the start of the scratchpad, one of them filled. -/
def tBin : Bin := { slotCount := 2, slotCrates := 2, stride := 8192, fill := 1 }
/-- What a computation answers. -/
def isOk {ε α : Type} (x : Except ε α) : Bool := match x with | .ok _ => true | .error _ => false
def getOk {ε α : Type} (d : α) (x : Except ε α) : α := match x with | .ok a => a | .error _ => d
theorem getOk_eq {ε α : Type} (d : α) (x : Except ε α) (h : isOk x = true) : x = .ok (getOk d x) := by
  cases x with
  | ok a => rfl
  | error e => simp [isOk] at h
def isDone (x : Run) : Bool := match x with | .done _ => true | _ => false
def getDone (d : State) (x : Run) : State := match x with | .done a => a | _ => d
theorem getDone_eq (d : State) (x : Run) (h : isDone x = true) : x = .done (getDone d x) := by
  cases x <;> simp_all [isDone, getDone]
/-- A packet of context 1 and generation 2 with its three operands and its flags. -/
def tPkt (op p0 p1 p2 flags : Nat) : List Byte :=
  Word.toLe 2 op ++ Word.toLe 2 flags ++ Word.toLe 1 1 ++ Word.toLe 1 0 ++ Word.toLe 2 2 ++ Word.toLe 4 9 ++ List.replicate 28 0#8
    ++ Word.toLe 8 p0 ++ Word.toLe 8 p1 ++ Word.toLe 8 p2
/-- A command that has begun, in slot 3 and of queue 2. -/
def tCmd (op p0 p1 p2 : Nat) : Cmd := { slot := 3, ord := 4, queue := 2, packet := tPkt op p0 p1 p2 0, phase := 1 }
/-- A ready module with one command, of context 1. -/
def tCmdState (c : Cmd) : State := { tState {} with launches := [], cmds := [c], queues := [(2, { state := 1 })] }
/-- The register of the CRC, each step computed before the next. -/
def tForce (n : Nat) (f : Nat → Nat) : Nat := match n with | 0 => f 0 | k + 1 => f (k + 1)
theorem tForce_eq (n : Nat) (f : Nat → Nat) : tForce n f = f n := by cases n <;> rfl
def tRun : List Byte → Nat → Nat
  | [], c => c
  | b :: t, c => tForce (Crc.byte c b) (tRun t)
theorem tRun_eq (l : List Byte) (c : Nat) : tRun l c = Crc.run c l := by
  induction l generalizing c with
  | nil => rfl
  | cons b t ih => unfold tRun; rw [tForce_eq, ih]; unfold Crc.run; simp only [List.foldl_cons]
def tCrc (l : List Byte) : W64 := BitVec.ofNat 64 (Nat.xor (tRun l (2 ^ 64 - 1)) (2 ^ 64 - 1))
theorem tCrc_eq (l : List Byte) : Crc.crc64 l = tCrc l := by unfold tCrc Crc.crc64; rw [tRun_eq]
def tCheck (m : Mem) (k : Nat) : W64 := tCrc (crateBytes m k)
theorem tCheck_eq (m : Mem) (k : Nat) : Crc.crc64 (crateBytes m k) = tCheck m k := tCrc_eq _
theorem crateOk_check (s : State) (k : Nat) (hb : s.mem.bad = []) (hs : s.mem.slices = [])
    (hp : Tag.poisoned (crateTag s.mem k) = false) (hk : Tag.check (crateTag s.mem k) = tCheck s.mem k) : CrateOk s k :=
  ⟨cacheHome_scratch _ _ hs, by simp [hb], hp, by rw [hk, tCheck_eq]⟩
/-- The RW bits of an enabled queue. -/
def tQ (cls size cq ctx inflight : Nat) : W64 :=
  BitVec.ofNat 64 (2 ^ 63 + cls * 2 ^ 61 + size * 2 ^ 56 + cq * 2 ^ 36 + ctx * 2 ^ 28 + inflight)
/-- A ready module on its host's link, with submission queue 2 of context 1 and its completion queue 3. -/
def tHost : State :=
  { tState {} with
    launches := [], pcie := { busMaster := true, linkUp := true, msixAddr := [(1, 0xFEE00000#64)], msixCtrl := [(1, 0)], msixEn := true }
    queues := [(2, { base := 0x10000#64, cfg := tQ 0 4 3 1 2, state := 1, head := 15, tail := 3 }),
               (3, { base := 0x20000#64, cfg := tQ 1 4 0 0 0 ||| 0x8200000#64, state := 1, head := 2, tail := 15, phase := true })] }
/-- A frame of context 1 from chip 9 to chip 5, next in order on channel 0. -/
def tFrame (typ : Nat) : Frame := { typ, dst := 5, src := 9, sid := 77, dctx := 1, dgen := 2, seq := 40 }
/-- The data of a frame that carries a zero crate. -/
def tData (fmt : Nat) : List Byte := Tag.bytes (tTag fmt) ++ List.replicate 4096 0#8
theorem frameOk_zeros (f : Frame) (fmt : Nat) (h : f.data = tData fmt) (hk : Tag.check (Tag.ofBytes (Tag.bytes (tTag fmt))) = Crc.zeroCheck) :
    FrameOk f := by
  have hl : (Tag.bytes (tTag fmt)).length = 16 := by simp [Tag.bytes, Word.toLe]
  have h1 : f.data.take 16 = Tag.bytes (tTag fmt) := by rw [h, tData, List.take_left' hl]
  have h2 : f.data.drop 16 = List.replicate 4096 0#8 := by rw [h, tData, List.drop_left' hl]
  refine ⟨by rw [h, tData, List.length_append, hl, List.length_replicate], .inr ?_⟩
  rw [frameTag, framePayload, h1, h2, crc64_zeros, hk]
/-- Group 4: this module, chip 5, and chip 9. -/
def tMapGroup : MapGroup := { group := 4, x := ⟨5, 2, 4⟩, y := ⟨0xFF, 1, 0⟩, z := ⟨0xFF, 1, 0⟩, check := 0x1234 }
def tGroup : Group := { cfg := BitVec.ofNat 64 (2 ^ 63 + 2 ^ 48 + 8 * 2 ^ 40), gen := 2, state := 1, count := 6 }
/-- A ready module, chip 5, with a session to chip 9, one received frame at port 0, group 4 and an active map. -/
def tFab (f : Frame) : State :=
  { tHost with
    fab := { chip := some 5, stall := some 5, sessions := [(3, some { peer := 9, state := 2, sid := 66, rxSid := some 77, chans := [{ next := 9, expect := 40 }, {}, {}, {}] })]
             ports := [(0, { cfg := 0x8000000000000000#64, state := 2, rx := [f] })], routes := [(9, 0x8000000000000001#64)]
             binds := [{ ctx := 1, gen := 2, chip := 9, state := 1, dctx := 3, dgen := 8 }] }
    groups := [(4, tGroup)], maps := [(2, { loaded := true, active := true, ctx := 1, gen := 2, groups := [tMapGroup] })] }
def tSession : Session := { peer := 9, state := 2, sid := 66, rxSid := some 77, chans := [{ next := 9, expect := 40 }, {}, {}, {}] }
/-- A step directory with two shard crates. -/
def tDir : StepDir :=
  { shard := 2, inputs := 1, digests := 1, records := [0x20000, 0x28000, 0, 0], mirror := [0x30000, 0], pending := [0x38000, 0], ckpt := 0x48000
    extents := [(16, 2, false)] }
/-- Chip 5 with a training context and the directory in force; a step command may begin. -/
def tTrain (c : Cmd) : State :=
  { tFab (tFrame 1) with
    ctxs := [(1, { enable := true, part := 1, training := true, state := 2, gen := 2, tallyCount := 64, seed := 0x77#64 })], cmds := [c]
    stepSt := { dirReg := 0x8000000000008000#64, dir := tDir } }
/-- A kept record of a step. -/
def tRec (n st : Nat) : StepRec := { slot := n % 2, step := n, state := st, beginT := 1000#64 }

/-! ### Signed texts -/

/-- A signed firmware image of 16 bytes, security version 3, and signed requests that revoke key slot 0 and unlock SCAN; the key is the base point. -/
def tImg : List Byte := Word.toLe 528 0xf0e0d0c0b0a09080706050403020100000000000000000000000000000000000000000000000000000000000000000082e438786eddad5239051768695ef7903649b3a592834f35ed19d6637d3fb50a1b2a71a4a8345a33e7844462f2540371b70a7672385e543a6c2955bf5df20255382a5482e041f759989ba78b623b1d6e74ad20f31ec7b18e37058bbe22ca87aa000000000000000000000000000000000000000000000000000000000000005f0eea907c1d437a9d817e1dceb1600ac0b8f0b51331dae97c149a28bd1df4f829dc9292bf989e5d6f2c26964ade1736b70a7672385e543a6c2955bf5df20255382a5482e041f759989ba78b623b1d6e74ad20f31ec7b18e37058bbe22ca87aa0400000000000000000000000000000000000000000000000000000000000000000000000000000000000000000000000000000000000000000000000000000000000000000000000000000000000000000000000000000000000000000000000000000000000000000000000000000000000000000000000000000000000000000000000000000000000000000000000000000000000000000000000000000000000000000000000000000000000000003ba17b7ccd93bceabc5fdf78cc54fd5e1289bb856480012606e1671e448cd999a3a3f1a0ebe6a158b8e96d9e8df91dc80000000000000000000000100000000300000000000000050200000157465a4d
def tReqKey : List Byte := Word.toLe 296 0xcd6435ef5443aa235570e214ffe341010807283cef559a2c885514f7186065f2d7214f963013e4e17dcea7794b9a6c21b70a7672385e543a6c2955bf5df20255382a5482e041f759989ba78b623b1d6e74ad20f31ec7b18e37058bbe22ca87aa000000000000005f0eea907c1d437a9d817e1dceb1600ac0b8f0b51331dae97c149a28bd1df4f829dc9292bf989e5d6f2c26964ade1736b70a7672385e543a6c2955bf5df20255382a5482e041f759989ba78b623b1d6e74ad20f31ec7b18e37058bbe22ca87aa04000000000000000000000000000000000000000000000000000000000000000000000000000000000000000000000000000000000000000000000000000000017700000000000000000000000000000000000000000012340000000152515a4d
def tReqScan : List Byte := Word.toLe 296 0xe7de84a8312fbcf5acba6fd2ed16215853681763b4c65612b0f8d5f6bb1653a7ec650c4340bbf0fd08708f4306c1d6cbb70a7672385e543a6c2955bf5df20255382a5482e041f759989ba78b623b1d6e74ad20f31ec7b18e37058bbe22ca87aa000000000000005f0eea907c1d437a9d817e1dceb1600ac0b8f0b51331dae97c149a28bd1df4f829dc9292bf989e5d6f2c26964ade1736b70a7672385e543a6c2955bf5df20255382a5482e041f759989ba78b623b1d6e74ad20f31ec7b18e37058bbe22ca87aa04000000000000000000000000000000000000000000000000000000000000000000000000000000000000000000000000000000000000000000000000000000007700000000000000000000000000000000000000000012340000000552515a4d
def tKeyHash : Nat := 0x8c4f262412b7f9ed867606705a130de5212fd048fbaf8c3842f4a240f4b45ba0c90f82194ccdda3ed89c96b0afe1d51d
theorem t_signatures : (Curve.withTable 384 (some (Sha.gx, Sha.gy)) fun l =>
    Curve.signed l 0xe65616fc3421d6bfc36fd41781dce4ea48f14f35a9380072467697fa100a5c7e95cf70b9d793185f78a350a2179c4d03 0x19a9e903cbde29403c902be87e231b15b70eb0ca56c7ff8d80ecb587e42cd160c24a9cf8711d8f1b7448c8c8b528dc71 0xaa87ca22be8b05378eb1c71ef320ad746e1d3b628ba79b9859f741e082542a385502f25dbf55296c3a545e3872760ab7 &&
    Curve.signed l 0xf4efa4e9345002fd1df6a0f63320ae00531cbf1c0a8b71f235061211036f23502b01fed813549f34a38dd5eee19dca3b 0xb105b16cbaffd02e2095f09ccdf51fface340e3f5748e0d925d3b70f0c80a8f2d180eda355c0846495e437beb275f39 0xaa87ca22be8b05378eb1c71ef320ad746e1d3b628ba79b9859f741e082542a385502f25dbf55296c3a545e3872760ab7 &&
    Curve.signed l 0x8c2548aaf27fb31076d04c19a8f6db016a21aac28faa61745bcc9761edacd2cfbe39037af22f7c0a838cb0f3c2f124f2 0x73dab7550d804cef892fb3e6570924fe95de553d70559e8b6b96b620068a5b0f99e10a3756812b70695f687709d40482 0xaa87ca22be8b05378eb1c71ef320ad746e1d3b628ba79b9859f741e082542a385502f25dbf55296c3a545e3872760ab7) = true := by decide +kernel
theorem t_verify_img : Sha.verify ((tImg.drop 0x100).take 97) ((tImg.drop 0x180).take 96) (tImg.take 0x180) = true := by
  refine Curve.verify_base _ _ _ 0xaa87ca22be8b05378eb1c71ef320ad746e1d3b628ba79b9859f741e082542a385502f25dbf55296c3a545e3872760ab7 0x710354f2624484e7335a34a8a4712a1b0ab53f7d63d619ed354f8392a5b3493690f75e696817053952addd6e7838e482 0xe65616fc3421d6bfc36fd41781dce4ea48f14f35a9380072467697fa100a5c7e95cf70b9d793185f78a350a2179c4d03 0x19a9e903cbde29403c902be87e231b15b70eb0ca56c7ff8d80ecb587e42cd160c24a9cf8711d8f1b7448c8c8b528dc71 (by decide +kernel) (by decide +kernel) (by decide +kernel) (by decide +kernel) (by decide +kernel) (by decide +kernel) (by decide +kernel) (by decide +kernel) ?_
  have h := t_signatures
  rw [Curve.withTable_eq] at h
  simp only [Bool.and_eq_true] at h
  exact h.1.1
theorem t_verify_reqKey : Sha.verify ((tReqKey.drop 0x60).take 97) ((tReqKey.drop 0xc8).take 96) (tReqKey.take 0xc8) = true := by
  refine Curve.verify_base _ _ _ 0xaa87ca22be8b05378eb1c71ef320ad746e1d3b628ba79b9859f741e082542a385502f25dbf55296c3a545e3872760ab7 0x216c9a4b79a7ce7de1e41330964f21d7f2656018f71455882c9a55ef3c2807080141e3ff14e2705523aa4354ef3564cd 0xf4efa4e9345002fd1df6a0f63320ae00531cbf1c0a8b71f235061211036f23502b01fed813549f34a38dd5eee19dca3b 0xb105b16cbaffd02e2095f09ccdf51fface340e3f5748e0d925d3b70f0c80a8f2d180eda355c0846495e437beb275f39 (by decide +kernel) (by decide +kernel) (by decide +kernel) (by decide +kernel) (by decide +kernel) (by decide +kernel) (by decide +kernel) (by decide +kernel) ?_
  have h := t_signatures
  rw [Curve.withTable_eq] at h
  simp only [Bool.and_eq_true] at h
  exact h.1.2
theorem t_verify_reqScan : Sha.verify ((tReqScan.drop 0x60).take 97) ((tReqScan.drop 0xc8).take 96) (tReqScan.take 0xc8) = true := by
  refine Curve.verify_base _ _ _ 0xaa87ca22be8b05378eb1c71ef320ad746e1d3b628ba79b9859f741e082542a385502f25dbf55296c3a545e3872760ab7 0xcbd6c106438f7008fdf0bb40430c65eca75316bbf6d5f8b01256c6b463176853582116edd26fbaacf5bc2f31a884dee7 0x8c2548aaf27fb31076d04c19a8f6db016a21aac28faa61745bcc9761edacd2cfbe39037af22f7c0a838cb0f3c2f124f2 0x73dab7550d804cef892fb3e6570924fe95de553d70559e8b6b96b620068a5b0f99e10a3756812b70695f687709d40482 (by decide +kernel) (by decide +kernel) (by decide +kernel) (by decide +kernel) (by decide +kernel) (by decide +kernel) (by decide +kernel) (by decide +kernel) ?_
  have h := t_signatures
  rw [Curve.withTable_eq] at h
  simp only [Bool.and_eq_true] at h
  exact h.2
theorem t_verifyImage (s : State) (h : trustedKey s tKeyHash = true) (hs : s.fuse.f.svn ≤ 3) : verifyImage s tImg = true := by
  have hk : Sha.sha384 ((tImg.drop 0x100).take 97) = tKeyHash := by decide +kernel
  have hb : Sha.beNat ((tImg.drop 0x20).take 48) = Sha.sha384 ((tImg.drop 512).take 16) := by decide +kernel
  have h1 : (leAt tImg 0 4 == 0x57465A4D && leAt tImg 4 2 == 1 && leAt tImg 6 2 == 0x200 && decide (imgSvn tImg ≤ 128) && decide (16 ≤ maxBody)
    && zeroAt tImg 0x50 176 && zeroAt tImg 0x161 31 && zeroAt tImg 0x1E0 32 && decide (512 + 16 ≤ tImg.length)) = true := by decide +kernel
  have h2 : imgSvn tImg = 3 := by decide +kernel
  have hn : leAt tImg 0x14 4 = 16 := by decide +kernel
  unfold verifyImage
  dsimp only
  rw [hn, h1, hk, h, h2, t_verify_img, hb]
  simp [hs]
theorem t_signedOk_key (s : State) (h : signerOk s 1 0 tKeyHash = true) (hs : s.fuse.f.serial = 0x1234#64) : signedOk s tReqKey 1 true = true := by
  have hk : Sha.sha384 ((tReqKey.drop 0x60).take 97) = tKeyHash := by decide +kernel
  have h1 : leAt tReqKey 8 8 = 0x1234 := by decide +kernel
  have h2 : leAt tReqKey 0x28 1 = 0 := by decide +kernel
  unfold signedOk
  dsimp only
  rw [hk, h1, h2, h, t_verify_reqKey, hs]
  rfl
theorem t_signedOk_scan (s : State) (h : signerOk s 5 0 tKeyHash = true) (hs : s.fuse.f.serial = 0x1234#64) : signedOk s tReqScan 5 true = true := by
  have hk : Sha.sha384 ((tReqScan.drop 0x60).take 97) = tKeyHash := by decide +kernel
  have h1 : leAt tReqScan 8 8 = 0x1234 := by decide +kernel
  have h2 : leAt tReqScan 0x28 1 = 0 := by decide +kernel
  unfold signedOk
  dsimp only
  rw [hk, h1, h2, h, t_verify_reqScan, hs]
  rfl

/-! ### Worked values of the specification -/

/-- 02, worked example of one block: the block result is −5.0, and the drain writes −7.5. -/
theorem test_block_example :
    Fmt.blockResult 1 0x7D ([3, 0xC, 7, 1] ++ List.replicate 12 0) 1 0x82 ([6, 5, 9, 2] ++ List.replicate 12 0) = 0xC0A00000#32 ∧
    Machine.Num.mul (Fmt.benchAdd 0#32 0xC0A00000#32) (Machine.Num.mul 0x3F400000#32 0x40000000#32) = 0xC0F00000#32 := by decide +kernel
/-- 02, worked example of one M4 block: the scale byte 0x7E, and the codes of its first four elements under stochastic
and under nearest-even rounding, element 3 then counted as underflowed. -/
theorem test_pack_example :
    let xs : List F32 := [0x3EA00000#32, 0xBF900000#32, 0x40380000#32, 0x3D800000#32]
    Pack.trueScale 1 true (xs ++ List.replicate 12 0#32) = 0x7E ∧
    (xs.zip [0x3A1F00, 0xD20004, 0x150000, 0xC00000]).map (fun x => (Pack.quant 1 true x.2 (-1) x.1 x.1).1) = [0x1, 0xD, 0x6, 0x1] ∧
    xs.map (fun x => (Pack.quant 1 false 0 (-1) x x).1) = [0x1, 0xC, 0x7, 0x0] ∧
    (Pack.quant 1 false 0 (-1) 0x3D800000#32 0x3D800000#32).2.under = 1 := by decide +kernel
/-- 02, the bound of re-weighing: of 7,168 elements with TH 328, 36 re-weigh and 35 do not; TH 0 re-weighs on one. -/
theorem test_reweigh_bound :
    Pack.reweighDue { clipped := 36 } 7168 328 = true ∧ Pack.reweighDue { clipped := 30, under := 5 } 7168 328 = false ∧
    Pack.reweighDue { under := 1 } 7168 0 = true ∧ Pack.reweighDue {} 7168 0 = false := by decide +kernel
/-- 08/R243: the check of the nine bytes "123456789". -/
theorem test_check_value : Crc.crc64 [0x31, 0x32, 0x33, 0x34, 0x35, 0x36, 0x37, 0x38, 0x39] = 0x62EC59E3F1A4F00A#64 := by decide +kernel
/-- 08, the tag of crate 18: bytes 8 to 15, FLAGS and LINEAGE. -/
theorem test_tag_example :
    (Tag.bytes (Tag.mk 0#64 1 0xF8 (Tag.flagsOf 3 false false false true false) (Tag.coreLineage 300 18))).drop 8 =
      [0x01, 0xF8, 0x08, 0x03, 0x12, 0x00, 0xC0, 0x12] := by decide +kernel
/-- 09, worked example: the lineage of crates written from queue 17 with tag 0x0A31. -/
theorem test_host_lineage : Tag.hostLineage 17 0xA31 = 0x40110A31 := by decide +kernel
/-- 07/R197, the example: the crate at 0x0012_3400_0000 lies on channel 124, and the 60 crates on 60 channels. -/
theorem test_fold_example :
    channelOf 0x1234000000 = some 124 ∧
    ((List.range 60).map (fun i => channelOf (0x1234000000 + i * 4096))).eraseDups.length = 60 := by decide +kernel
/-- 03/R85, the examples: a whole F module, and dies C4 to C7. -/
theorem test_binding : bindCore (List.range 8) 994 = 380 ∧ bindCore [4, 5, 6, 7] 5 = 641 := by decide +kernel
/-- 01/R20, the example from C0 to C7; 10/R325: C6 to C0 takes C6–C1–C0. -/
theorem test_route : routeDies 0 7 = [0, 1, 6, 7] ∧ ∀ d < 8, d ∈ routeDies 6 0 ↔ d ∈ [6, 1, 0] := by decide +kernel
/-- 20, the example of finding registers: DIE_ID of C5, whole. -/
theorem test_die_id : bar0Value { State.reset with boot := { phase := 6 } } 0x2400000 = 0x000500014944 * 65536 + 0x5A4D := by
  decide +kernel
/-- 20, the example: a 2-byte write to PORT_STATUS of port 16 is discarded and recorded. -/
theorem test_reg_err :
    (barWrite { tState {} with pcie := { linkUp := true } } 0x1B00408 [0#8, 0#8]).pcie.regErr = 0x8003800201B00408#64 := by
  decide +kernel
/-- 14, the example: two changed bytes of a crate code in 18 bytes. -/
theorem test_zero_mask :
    let z := lset (lset (List.replicate 4096 0#8) 0xC1 7#8) 0xC5 9#8
    zeroMask z = Word.toLe 8 8 ++ Word.toLe 8 0x22 ++ [7#8, 9#8] := by decide +kernel

/-! ### An ill-formed command for each check -/

theorem test_wf_core : Instr.wf (.lstream 1024 .clean) = false ∧ Instr.wf (.lstream 1023 .clean) = true := by decide
theorem test_wf_station : Instr.wf (.delay 0 6 .clean) = false ∧ Instr.wf (.delay 0 5 .clean) = true := by decide
theorem test_wf_finding :
    Instr.wf (.mpass 0 (.bankConflict 48 0)) = false ∧ Instr.wf (.mpass 0 (.waitEarly 64 true)) = false ∧
    Instr.wf (.mpass 0 (.arrayCond 9)) = false ∧ Instr.wf (.mpass 0 (.weigh [(2048, 0, none)])) = false ∧
    Instr.wf (.mpass 0 (.benchEntry 0 128)) = false ∧ Instr.wf (.mpass 0 (.benchEntry 2047 127)) = true := by decide
theorem test_wf_slot : Instr.wf (.launch 4096) = false ∧ Instr.wf (.launch 4095) = true := by decide
theorem test_wf_sectors : Instr.wf (.memFill 0 0 64) = false ∧ Instr.wf (.memFill 0 0 63) = true := by decide
theorem test_wf_queue : Instr.wf (.commandBegin 16384) = false ∧ Instr.wf (.commandBegin 16383) = true := by decide
theorem test_wf_port : Instr.wf (.ack 48) = false ∧ Instr.wf (.ack 47) = true := by decide
theorem test_wf_channel : Instr.wf (.dramRefresh 640) = false ∧ Instr.wf (.dramRefresh 639) = true := by decide
theorem test_wf_context : Instr.wf (.quarantineEnd 256) = false ∧ Instr.wf (.quarantineEnd 255) = true := by decide
theorem test_wf_group : Instr.wf (.bellResend 1024) = false ∧ Instr.wf (.bellResend 1023) = true := by decide
theorem test_wf_ring : Instr.wf (.eventRecordWrite 64) = false ∧ Instr.wf (.eventRecordWrite 63) = true := by decide
theorem test_wf_chip : Instr.wf (.openRetry 32768) = false ∧ Instr.wf (.openRetry 32767) = true := by decide
theorem test_wf_die : Instr.wf (.droop 8) = false ∧ Instr.wf (.droop 7) = true := by decide
theorem test_wf_part : Instr.wf (.partEnable 8 0#64) = false ∧ Instr.wf (.partEnable 7 0#64) = true := by decide
theorem test_wf_slice : Instr.wf (.sliceScrubPass 256 .clean) = false ∧ Instr.wf (.sliceScrubPass 255 .clean) = true := by decide
theorem test_wf_pin : Instr.wf (.pinChange 8 true) = false ∧ Instr.wf (.pinChange 7 true) = true := by decide
theorem test_wf_proc : Instr.wf (.interruptTake 9) = false ∧ Instr.wf (.interruptTake 8) = true := by decide
theorem test_wf_window : Instr.wf (.aperWinEnable 16 0#64) = false ∧ Instr.wf (.aperWinEnable 15 0#64) = true := by decide
theorem test_wf_subst : Instr.wf (.grpSubstEnable 256 0#64) = false ∧ Instr.wf (.grpSubstEnable 255 0#64) = true := by decide
theorem test_wf_session_channel : Instr.wf (.ackTimer 0 4) = false ∧ Instr.wf (.ackTimer 0 3) = true := by decide
theorem test_wf_virtual_lane : Instr.wf (.frameSend 0 8) = false ∧ Instr.wf (.frameSend 0 7) = true := by decide
theorem test_wf_fabric_lane : Instr.wf (.fabricLaneRetire 0 9) = false ∧ Instr.wf (.fabricLaneRetire 0 8) = true := by decide
theorem test_wf_lane_mask :
    Instr.wf (.portTrainingDone 0 true 512 0) = false ∧ Instr.wf (.portTrainingDone 0 true 0 511) = true := by decide
theorem test_wf_memory_lane :
    Instr.wf (.memoryLaneRetire 0 76 false) = false ∧ Instr.wf (.memoryLaneRetire 0 75 false) = true := by decide
theorem test_wf_processor : Instr.wf (.heartbeatMissed 9 0) = false ∧ Instr.wf (.heartbeatMissed 8 2) = false := by decide
theorem test_wf_mgmt_port : Instr.wf (.mgmtPortLinkChange 2 true) = false ∧ Instr.wf (.mgmtPortLinkChange 1 true) = true := by decide
theorem test_wf_level : Instr.wf (.escalationOverrun 0 0) = false ∧ Instr.wf (.escalationOverrun 5 0) = true := by decide
theorem test_wf_result : Instr.wf (.fieldTestResult 0#64 0 3 0 []) = false ∧ Instr.wf (.fieldTestResult 0#64 0 2 0 []) = true := by decide
theorem test_wf_holdup :
    Instr.wf (.holdupStateChange 5 0) = false ∧ Instr.wf (.holdupStateChange 4 101) = false ∧
    Instr.wf (.holdupStateChange 4 100) = true := by decide
theorem test_wf_aperture :
    Instr.wf (.apertureRead 68719476736 1) = false ∧ Instr.wf (.apertureRead 4095 2) = false ∧
    Instr.wf (.apertureRead 4095 1) = true ∧ Instr.wf (.apertureWrite 0 []) = false := by decide
theorem test_wf_packet : Instr.wf (.packetFetch []) = false ∧ Instr.wf (.packetFetch (List.replicate 64 0#8)) = true := by decide
theorem test_wf_body : Instr.wf (.nonce {} (List.replicate 1029 0#8)) = false ∧ Instr.wf (.nonce {} []) = true := by decide +kernel
theorem test_wf_steps : Instr.wf (.provision {} [] 6) = false ∧ Instr.wf (.provision {} [] 5) = true := by decide
theorem test_wf_message :
    Instr.wf (.managementMessage 0 0 0 (List.replicate 1061 0#8)) = false ∧ Instr.wf (.managementMessage 0 0 0 []) = true := by
  decide +kernel
theorem test_wf_samples :
    Instr.wf (.optionLoading (List.replicate 16 1024)) = false ∧ Instr.wf (.optionLoading [0]) = false ∧
    Instr.wf (.optionLoading (List.replicate 16 1023)) = true := by decide
theorem test_wf_backstop_sample :
    Instr.wf (.backstopTick { pAvg := 0, pNow := 0, iAvg := 0, dies := [0], droop := false, core := 0 }) = false ∧
    Instr.wf (.backstopTick { pAvg := 0, pNow := 0, iAvg := 0, dies := List.replicate 8 0, droop := false, core := 0 }) = true := by
  decide

/-! ### DelaysAndFences -/

namespace DelaysAndFencesW

def dlS : State := tState { tCore 1 (tIns 0 0x80000000000000000000000001) with bins := [{ slotCount := 2, fill := 2, empty := 1 }] }

theorem wit_DelayAndFence_1 :
    ∃ s : State, ∃ core, ∃ st, ∃ w, ∃ bins, (AtIns s core st 0x00 .none w) ∧
    (sigBins (getCore s core).bins w = some bins) :=
  ⟨dlS, 0, 1, tIns 0 0x80000000000000000000000001, [{ slotCount := 2, fill := 3, empty := 1 }], (⟨by decide +kernel,
    by decide +kernel, by decide +kernel, by decide +kernel⟩), by decide +kernel⟩

theorem wit_DelayAndFence_2 :
    ∃ s : State, ∃ core, ∃ st, ∃ w, (AtIns s core st 0x7F .none w) :=
  ⟨tState (tCore 5 (tIns 0x7F 0x20007)), 0, 5, tIns 0x7F 0x20007, (⟨by decide +kernel, by decide +kernel,
    by decide +kernel, by decide +kernel⟩)⟩

end DelaysAndFencesW

/-! ### Sequencer -/

namespace SequencerW

def sqS (ops : Nat) (op : Nat) (h : Hold := .none) : State :=
  let c := tCore 5 (tIns op ops)
  { tState { c with hintValid := true, hintOp := 3, bins := [{ slotCount := 2, fill := 2, empty := 1 }], stations := lset c.stations 5 { store := [tIns op ops, 0#128], hold := h } } with
    tallies := [(6, 9#64)] }

theorem wit_Sequencer_1 :
    ∃ s : State, ∃ core, ∃ w, ∃ bins, (AtIns s core 5 0x53 .none w) ∧ (sigBins (getCore s core).bins w = some bins) :=
  ⟨sqS (2 ^ 103 + 4 * 2 ^ 80) 0x53, 0, tIns 0x53 (2 ^ 103 + 4 * 2 ^ 80), [{ slotCount := 2, fill := 3, empty := 1 }],
    ⟨by decide +kernel, by decide +kernel, by decide +kernel, by decide +kernel⟩, by decide +kernel⟩

theorem wit_Sequencer_2 :
    ∃ s : State, ∃ core, ∃ w, ∃ bins, (AtIns s core 5 0x54 .none w) ∧ (sigBins (getCore s core).bins w = some bins) :=
  ⟨sqS (2 ^ 86) 0x54, 0, tIns 0x54 (2 ^ 86), [{ slotCount := 2, fill := 2, empty := 1 }], ⟨by decide +kernel,
    by decide +kernel, by decide +kernel, by decide +kernel⟩, by decide +kernel⟩

theorem wit_Sequencer_2b :
    ∃ s : State, ∃ core, ∃ w, ∃ bins, (AtIns s core 5 0x54 .none w) ∧ (sigBins (getCore s core).bins w = some bins) :=
  ⟨sqS (2 ^ 85) 0x54, 0, tIns 0x54 (2 ^ 85), [{ slotCount := 2, fill := 2, empty := 1 }], ⟨by decide +kernel,
    by decide +kernel, by decide +kernel, by decide +kernel⟩, by decide +kernel⟩

theorem wit_Sequencer_3 :
    ∃ s : State, ∃ core, ∃ w, ∃ bins, ∃ st, ∃ r, (AtIns s core 5 0x52 .none w) ∧
    (sigBins (getCore s core).bins w = some bins) ∧ (st = Ins.bits w 87 85) ∧ (st < 5) ∧
    (r = ({ level := Ins.bits w 84 83, start := Ins.bits w 82 71, stop := Ins.bits w 70 59, count := Ins.bits w 58 35 + 1, adv := Ins.bits w 34 3 } : Repeat)) ∧
    (∀ y ∈ (getStation (getCore s core) st).repeats, y.level ≠ r.level ∧
    crossing y.start y.stop r.start r.stop = false) :=
  ⟨sqS (4 * 2 ^ 85 + 2 * 2 ^ 83 + 5 * 2 ^ 59 + 3 * 2 ^ 35 + 7 * 2 ^ 3) 0x52, 0,
    tIns 0x52 (4 * 2 ^ 85 + 2 * 2 ^ 83 + 5 * 2 ^ 59 + 3 * 2 ^ 35 + 7 * 2 ^ 3),
    [{ slotCount := 2, fill := 2, empty := 1 }], 4, { level := 2, start := 0, stop := 5, count := 4, adv := 7 },
    ⟨by decide +kernel, by decide +kernel, by decide +kernel, by decide +kernel⟩, by decide +kernel,
    by decide +kernel, by decide +kernel, by decide +kernel, by decide +kernel⟩

theorem wit_Sequencer_4 :
    ∃ s : State, ∃ core, ∃ w, ∃ bins, (AtIns s core 5 0x50 .none w) ∧ (sigBins (getCore s core).bins w = some bins) ∧
    (tallyEpochOf s (Ins.bits w 87 72) = launchEpoch (coreLaunch s core) (Ins.bits w 87 72)) :=
  ⟨sqS (6 * 2 ^ 72 + 9 * 2 ^ 24) 0x50, 0, tIns 0x50 (6 * 2 ^ 72 + 9 * 2 ^ 24),
    [{ slotCount := 2, fill := 2, empty := 1 }], ⟨by decide +kernel, by decide +kernel, by decide +kernel,
    by decide +kernel⟩, by decide +kernel, by decide +kernel⟩

theorem wit_Sequencer_4b :
    ∃ s : State, ∃ core, ∃ w, ∃ bins, (AtIns s core 5 0x50 .none w) ∧ (sigBins (getCore s core).bins w = some bins) ∧
    (tallyEpochOf s (Ins.bits w 87 72) = launchEpoch (coreLaunch s core) (Ins.bits w 87 72)) :=
  ⟨sqS (6 * 2 ^ 72 + 10 * 2 ^ 24) 0x50, 0, tIns 0x50 (6 * 2 ^ 72 + 10 * 2 ^ 24),
    [{ slotCount := 2, fill := 2, empty := 1 }], ⟨by decide +kernel, by decide +kernel, by decide +kernel,
    by decide +kernel⟩, by decide +kernel, by decide +kernel⟩

theorem wit_Sequencer_5 :
    ∃ s : State, ∃ core, ∃ w, ∃ bins, (AtIns s core 5 0x50 .tally w) ∧ (sigBins (getCore s core).bins w = some bins) ∧
    (tallyEpochOf s (Ins.bits w 87 72) = launchEpoch (coreLaunch s core) (Ins.bits w 87 72)) ∧
    (Ins.bits w 71 24 ≤ tallyVal s (Ins.bits w 87 72)) :=
  ⟨sqS (6 * 2 ^ 72 + 9 * 2 ^ 24) 0x50 .tally, 0, tIns 0x50 (6 * 2 ^ 72 + 9 * 2 ^ 24),
    [{ slotCount := 2, fill := 2, empty := 1 }], ⟨by decide +kernel, by decide +kernel, by decide +kernel,
    by decide +kernel⟩, by decide +kernel, by decide +kernel, by decide +kernel⟩

theorem wit_Sequencer_6 :
    ∃ s : State, ∃ core, ∃ w, ∃ bins, (AtIns s core 5 0x51 .none w) ∧ (sigBins (getCore s core).bins w = some bins) ∧
    (Ins.bit w 39 = false ∨ ∀ x ∈ (getCore s core).inflight, x.launch ≠ (getCore s core).load) ∧
    (tallyEpochOf s (Ins.bits w 87 72) = launchEpoch (coreLaunch s core) (Ins.bits w 87 72)) :=
  ⟨sqS (6 * 2 ^ 72 + 5 * 2 ^ 40) 0x51, 0, tIns 0x51 (6 * 2 ^ 72 + 5 * 2 ^ 40),
    [{ slotCount := 2, fill := 2, empty := 1 }], ⟨by decide +kernel, by decide +kernel, by decide +kernel,
    by decide +kernel⟩, by decide +kernel, by decide +kernel, by decide +kernel⟩

theorem wit_Sequencer_7 :
    ∃ s : State, ∃ core, ∃ w, ∃ bins, (AtIns s core 5 0x51 .drain w) ∧ (sigBins (getCore s core).bins w = some bins) ∧
    (∀ x ∈ (getCore s core).inflight, x.launch ≠ (getCore s core).load) ∧
    (tallyEpochOf s (Ins.bits w 87 72) = launchEpoch (coreLaunch s core) (Ins.bits w 87 72)) :=
  ⟨sqS (6 * 2 ^ 72 + 5 * 2 ^ 40 + 2 ^ 39) 0x51 .drain, 0, tIns 0x51 (6 * 2 ^ 72 + 5 * 2 ^ 40 + 2 ^ 39),
    [{ slotCount := 2, fill := 2, empty := 1 }], ⟨by decide +kernel, by decide +kernel, by decide +kernel,
    by decide +kernel⟩, by decide +kernel, by decide +kernel, by decide +kernel⟩

end SequencerW

/-! ### VectorStation -/

namespace VectorStationW

def vrS (op bits : Nat) : State :=
  tState { tCore 3 (tIns op bits) with
    drainVec := [{ vals := List.replicate 128 7#32, poison := false }, { vals := List.replicate 128 9#32, poison := true }, { vals := [], poison := false }]
    vregs := lset (lset (List.replicate 32 {}) 2 { lanes := (List.range 256).map (fun i => BitVec.ofNat 32 (0x3F800000 + i * 65536)), poison := true })
      4 { lanes := (List.range 256).map (fun i => BitVec.ofNat 32 (0x40000000 + i * 4096)) } }

theorem wit_VectorRegisters_1 :
    ∃ s : State, ∃ core, ∃ w, ∃ bins, (AtIns s core 3 0x33 .none w) ∧ (sigBins (getCore s core).bins w = some bins) :=
  ⟨vrS 0x33 (9 * 2 ^ 83 + 0x40490FDB), 0, tIns 0x33 (9 * 2 ^ 83 + 0x40490FDB), [], ⟨by decide +kernel,
    by decide +kernel, by decide +kernel, by decide +kernel⟩, by decide +kernel⟩

theorem wit_VectorRegisters_2 :
    ∃ s : State, ∃ core, ∃ w, ∃ bins, ∃ a, (AtIns s core 3 0x37 .none w) ∧
    (sigBins (getCore s core).bins w = some bins) ∧ (a = getV (getCore s core) (Ins.bits w 82 78)) :=
  ⟨vrS 0x37 (9 * 2 ^ 83 + 2 * 2 ^ 78 + 255 * 2 ^ 56), 0, tIns 0x37 (9 * 2 ^ 83 + 2 * 2 ^ 78 + 255 * 2 ^ 56), [],
    getV (getCore (vrS 0x37 (9 * 2 ^ 83 + 2 * 2 ^ 78 + 255 * 2 ^ 56)) 0) 2, ⟨by decide +kernel, by decide +kernel,
    by decide +kernel, by decide +kernel⟩, by decide +kernel, by decide +kernel⟩

theorem wit_VectorRegisters_3 :
    ∃ s : State, ∃ core, ∃ w, ∃ bins, ∃ a, ∃ b, ∃ c, (AtIns s core 3 0x34 .none w) ∧
    (sigBins (getCore s core).bins w = some bins) ∧ (a = getV (getCore s core) (Ins.bits w 82 78)) ∧
    (b = getV (getCore s core) (Ins.bits w 77 73)) ∧ (c = getV (getCore s core) (Ins.bits w 72 68)) ∧
    (a.lanes.length = 256) ∧ (b.lanes.length = 256) ∧ (c.lanes.length = 256) :=
  ⟨vrS 0x34 (9 * 2 ^ 83 + 2 * 2 ^ 78 + 4 * 2 ^ 73 + 4 * 2 ^ 68 + 3 * 2 ^ 64), 0,
    tIns 0x34 (9 * 2 ^ 83 + 2 * 2 ^ 78 + 4 * 2 ^ 73 + 4 * 2 ^ 68 + 3 * 2 ^ 64), [],
    getV (getCore (vrS 0x34 0) 0) 2, getV (getCore (vrS 0x34 0) 0) 4, getV (getCore (vrS 0x34 0) 0) 4,
    ⟨by decide +kernel, by decide +kernel, by decide +kernel, by decide +kernel⟩, by decide +kernel,
    by decide +kernel, by decide +kernel, by decide +kernel, by decide +kernel, by decide +kernel,
    by decide +kernel⟩

theorem wit_VectorRegisters_4 :
    ∃ s : State, ∃ core, ∃ w, ∃ bins, ∃ a, (AtIns s core 3 0x35 .none w) ∧
    (sigBins (getCore s core).bins w = some bins) ∧ (a = getV (getCore s core) (Ins.bits w 82 78)) ∧
    (a.lanes.length = 256) :=
  ⟨vrS 0x35 (9 * 2 ^ 83 + 2 * 2 ^ 78 + 2 * 2 ^ 64), 0, tIns 0x35 (9 * 2 ^ 83 + 2 * 2 ^ 78 + 2 * 2 ^ 64), [],
    getV (getCore (vrS 0x35 0) 0) 2, ⟨by decide +kernel, by decide +kernel, by decide +kernel, by decide +kernel⟩,
    by decide +kernel, by decide +kernel, by decide +kernel⟩

theorem wit_VectorRegisters_5 :
    ∃ s : State, ∃ core, ∃ w, ∃ bins, ∃ a, ∃ c, (AtIns s core 3 0x36 .none w) ∧
    (sigBins (getCore s core).bins w = some bins) ∧ (a = getV (getCore s core) (Ins.bits w 82 78)) ∧
    (c = getV (getCore s core) (Ins.bits w 72 68)) :=
  ⟨vrS 0x36 (9 * 2 ^ 83 + 2 * 2 ^ 78 + 4 * 2 ^ 68 + 100 * 2 ^ 55), 0,
    tIns 0x36 (9 * 2 ^ 83 + 2 * 2 ^ 78 + 4 * 2 ^ 68 + 100 * 2 ^ 55), [], getV (getCore (vrS 0x36 0) 0) 2,
    getV (getCore (vrS 0x36 0) 0) 4, ⟨by decide +kernel, by decide +kernel, by decide +kernel, by decide +kernel⟩,
    by decide +kernel, by decide +kernel, by decide +kernel⟩

theorem wit_VectorRegisters_5b :
    ∃ s : State, ∃ core, ∃ w, ∃ bins, ∃ a, ∃ c, (AtIns s core 3 0x36 .none w) ∧
    (sigBins (getCore s core).bins w = some bins) ∧ (a = getV (getCore s core) (Ins.bits w 82 78)) ∧
    (c = getV (getCore s core) (Ins.bits w 72 68)) :=
  ⟨vrS 0x36 (9 * 2 ^ 83 + 2 * 2 ^ 78 + 4 * 2 ^ 68 + 100 * 2 ^ 55 + 2 ^ 63), 0,
    tIns 0x36 (9 * 2 ^ 83 + 2 * 2 ^ 78 + 4 * 2 ^ 68 + 100 * 2 ^ 55 + 2 ^ 63), [], getV (getCore (vrS 0x36 0) 0) 2,
    getV (getCore (vrS 0x36 0) 0) 4, ⟨by decide +kernel, by decide +kernel, by decide +kernel, by decide +kernel⟩,
    by decide +kernel, by decide +kernel, by decide +kernel⟩

theorem wit_VectorRegisters_6 :
    ∃ s : State, ∃ core, ∃ w, ∃ bins, ∃ n, ∃ ls, (AtIns s core 3 0x32 .none w) ∧
    (sigBins (getCore s core).bins w = some bins) ∧ (n = Ins.bits w 82 77 + 1) ∧ (ls = (getCore s core).drainVec) ∧
    (n ≤ ls.length) :=
  ⟨vrS 0x32 (9 * 2 ^ 83 + 1 * 2 ^ 77), 0, tIns 0x32 (9 * 2 ^ 83 + 1 * 2 ^ 77), [], 2,
    (getCore (vrS 0x32 0) 0).drainVec, ⟨by decide +kernel, by decide +kernel, by decide +kernel,
    by decide +kernel⟩, by decide +kernel, by decide +kernel, by decide +kernel, by decide +kernel⟩

def vcS (bits : Nat) : State :=
  { tState { tCore 3 (tIns 0x30 bits) with bins := [tBin] } with mem := { tags := [(0x20000000, tTag 4)] } }
def vsS (bits : Nat) : State := tState { tCore 3 (tIns 0x31 bits) with bins := [tBin], crateSeq := 5 }

theorem wit_VectorCrates_1 :
    ∃ s : State, ∃ core, ∃ w, ∃ bins, ∃ k, ∃ f, (AtIns s core 3 0x30 .none w) ∧
    (sigBins (getCore s core).bins w = some bins) ∧ (k = vecCrate (getCore s core) core w false) ∧ (CrateOk s k) ∧
    (f = Tag.fmt (crateTag s.mem k)) ∧ (f = Fmt.fp32 ∨ f = Fmt.bf16 ∧ Ins.bits w 87 83 % 8 = 0) :=
  ⟨vcS (8 * 2 ^ 83), 0, tIns 0x30 (8 * 2 ^ 83), [tBin], 0x20000000, 4, ⟨by decide +kernel, by decide +kernel,
    by decide +kernel, by decide +kernel⟩, by decide +kernel, by decide +kernel,
    crateOk_zeros _ _ rfl rfl rfl rfl (by decide +kernel) (by decide +kernel), by decide +kernel, by decide +kernel⟩

theorem wit_VectorCrates_2 :
    ∃ s : State, ∃ core, ∃ w, ∃ bins, ∃ k, ∃ f, ∃ regs, (AtIns s core 3 0x31 .none w) ∧
    (sigBins (getCore s core).bins w = some bins) ∧ (k = vecCrate (getCore s core) core w true) ∧ (Plain s.mem k) ∧
    (Writable s.mem) ∧ (f = Ins.bits w 53 51) ∧ (f = Fmt.fp32 ∨ f = Fmt.bf16) ∧
    (regs = (List.range (if f = Fmt.bf16 then 8 else 4)).map (fun i => getV (getCore s core) (Ins.bits w 87 83 + i))) ∧
    (∀ r ∈ regs, r.lanes.length = 256) :=
  ⟨vsS (9 * 2 ^ 83 + 2 ^ 66 + 5 * 2 ^ 51), 0, tIns 0x31 (9 * 2 ^ 83 + 2 ^ 66 + 5 * 2 ^ 51), [tBin], 0x20000003, 5,
    [{}, {}, {}, {}], ⟨by decide +kernel, by decide +kernel, by decide +kernel, by decide +kernel⟩,
    by decide +kernel, by decide +kernel, plain_free _ _ rfl rfl, ⟨by decide +kernel, by decide +kernel⟩,
    by decide +kernel, by decide +kernel, by decide +kernel, by decide +kernel⟩

end VectorStationW

/-! ### Loader -/

namespace LoaderW

def ldS (op bits : Nat) (tag : W128) : State :=
  { tState { tCore 0 (tIns op bits) with bins := [tBin] } with mem := { tags := [(0x20000000, tag)] } }
def lsS : State := ldS 0x01 (2 * 2 ^ 66) (Tag.poison (tTag 4))
def lsG : Gather := getOk { s := lsS, feeds := [], fps := [], fmt := 0 } (gatherSlots 0 (tIns 0x01 (2 * 2 ^ 66)) 0 false 0 2 (2 + 8) 0 { s := setHold lsS 0 0 .none, feeds := [], fps := [], fmt := 0 })

theorem wit_Loader_1 :
    ∃ s : State, ∃ core, ∃ w, ∃ bins, ∃ g, ∃ lines, (AtIns s core 0 0x01 .none w) ∧
    (lines = Ins.bits w 81 66 - (getStation (getCore s core) 0).prog) ∧
    (gatherSlots core w (Ins.bits w 87 82) (Ins.bit w 61) (Ins.bits w 60 50) lines (lines + 8) 0 { s := setHold s core 0 .none, feeds := [], fps := [], fmt := 0 } = .ok g) ∧
    (getCore g.s core).run ≠ 3 ∧ (sigBins (getCore g.s core).bins w = some bins) :=
  ⟨lsS, 0, tIns 0x01 (2 * 2 ^ 66), [{ tBin with empty := 1 }], lsG, 2, ⟨by decide +kernel, by decide +kernel,
    by decide +kernel, by decide +kernel⟩, by decide +kernel, (getOk_eq _ _ (by decide +kernel)),
    by decide +kernel, by decide +kernel⟩

theorem wit_Loader_2 :
    ∃ s : State, ∃ core, ∃ w, ∃ bins, ∃ b, ∃ n, ∃ slots, ∃ ks, (AtIns s core 0 0x02 .none w) ∧
    (b = getBin (getCore s core) (Ins.bits w 87 82)) ∧ (n = Ins.bits w 81 78) ∧
    (slots = (if Ins.bit w 71 then n else 1)) ∧ (Ins.bit w 70 = false → slots ≤ b.occ) ∧
    (ks = (if Ins.bit w 71 then (List.range n).flatMap fun i => pairCrates s (slotCrate core b (((if Ins.bit w 70 then Ins.bits w 69 59 else b.emptySlot) + i) % b.slotCount) 0) else (List.range n).map fun i => slotCrate core b ((if Ins.bit w 70 then Ins.bits w 69 59 else b.emptySlot) % b.slotCount) i)) ∧
    (∀ k ∈ ks, CrateOk s k) ∧ (weightRefusal s w (ks.map (goodCrate s)) n = none) ∧
    (sigBins (releasedBins (Ins.bits w 87 82) (if Ins.bit w 70 then 0 else slots) (getCore s core).bins) w = some bins) :=
  ⟨ldS 0x02 (1 * 2 ^ 78 + 2 * 2 ^ 75 + 3 * 2 ^ 72) (tTag 4), 0, tIns 0x02 (1 * 2 ^ 78 + 2 * 2 ^ 75 + 3 * 2 ^ 72),
    [{ tBin with empty := 1 }], tBin, 1, 1, [0x20000000], ⟨by decide +kernel, by decide +kernel, by decide +kernel,
    by decide +kernel⟩, by decide +kernel, by decide +kernel, by decide +kernel, by decide +kernel,
    by decide +kernel, (by
      intro k hk; simp only [List.mem_singleton] at hk; subst hk; exact crateOk_zeros _ _ rfl rfl rfl rfl (by decide +kernel) (by decide +kernel)),
    by decide +kernel, by decide +kernel⟩

theorem wit_Loader_3 :
    ∃ s : State, ∃ core, ∃ w, ∃ bins, ∃ b, ∃ k, (AtIns s core 0 0x03 .none w) ∧
    (b = getBin (getCore s core) (Ins.bits w 87 82)) ∧ (Ins.bit w 78 = false → 1 ≤ b.occ) ∧
    (k = slotCrate core b (if Ins.bit w 78 then Ins.bits w 77 67 % b.slotCount else b.emptySlot) (Ins.bits w 66 56)) ∧
    (CrateOk s k) ∧ (Tag.fmt (crateTag s.mem k) = Fmt.fp32) ∧
    (sigBins (releasedBins (Ins.bits w 87 82) (if Ins.bit w 78 then 0 else 1) (getCore s core).bins) w = some bins) :=
  ⟨ldS 0x03 (3 * 2 ^ 79) (tTag 5), 0, tIns 0x03 (3 * 2 ^ 79), [{ tBin with empty := 1 }], tBin, 0x20000000,
    ⟨by decide +kernel, by decide +kernel, by decide +kernel, by decide +kernel⟩, by decide +kernel,
    by decide +kernel, by decide +kernel,
    crateOk_zeros _ _ rfl rfl rfl rfl (by decide +kernel) (by decide +kernel), by decide +kernel, by decide +kernel⟩

end LoaderW

/-! ### DelaysAndFences -/

namespace DelaysAndFencesW

def frSt (op bits : Nat) : Station := { store := [tIns op bits, 0#128], hold := .fence 2 7 }
def frC (k : Nat) : Core :=
  { launch := some 7, load := 3, run := 2, bins := [{ slotCount := 2, fill := 2, empty := 1 }]
    stations := [frSt 0x7F (2 ^ 17 + 7 + k), frSt 0x7F 0x20007, frSt 0x7F 0x20007, frSt 0x7F 0x20007, frSt 0x7F 0x20007, frSt 0x7F 0x20007] }
def frS : State :=
  { tState (frC (2 ^ 103)) with cores := [(0, frC (2 ^ 103)), (200, frC 0), (5, { token := 3 })], launches := [(7, { ctx := 1, gen := 2, cores := [0, 200], running := true })] }
def frB (c : Nat) : List Bin := if c = 0 then [{ slotCount := 2, fill := 3, empty := 1 }] else [{ slotCount := 2, fill := 2, empty := 1 }]

theorem wit_FenceResume_1 :
    ∃ s : State, ∃ core : Nat, ∃ st : Nat, ∃ scope : Nat, ∃ seq : Nat, ∃ bins : Nat → List Bin,
    (getStation (getCore s core) st).hold = .fence scope seq ∧ (coreRuns s core = true) ∧
    (fenceReady s (fenceScope s core scope) scope seq = true) ∧ (fenceScope s core scope).Nodup ∧
    (∀ c ∈ fenceScope s core scope, coreRuns s c = true ∧ (getCore s c).stations.length = 6 ∧
    (List.range 6).foldlM (fun bs i => match fetchIns s c i with | some w => sigBins bs w | none => some bs) (getCore s c).bins = some (bins c)) :=
  ⟨frS, 0, 5, 2, 7, frB, by decide +kernel, by decide +kernel, by decide +kernel, (by decide +kernel),
    (by decide +kernel)⟩

end DelaysAndFencesW

/-! ### BlockPass -/

namespace BlockPassW

def bpF (x : Nat) (skip : Bool) : Feed :=
  { fmt := 4, elems := List.replicate 128 x, scales := [], outer := 0x3F800000#32, poison := false, skip, reweighed := false }
def bpT : Tile := { cols := [(0, { fmt := 4, elems := List.replicate 128 0x3F80 }), (3, { fmt := 4, elems := List.replicate 128 0x4000 })], level := 2, loaded := true }
def bpS (bits : Nat) : State :=
  tState { tCore 1 (tIns 0x10 bits) with feeder := [bpF 0x3F80 false, bpF 0x4000 true, bpF 0x4040 false], active := bpT, shadow := { bpT with level := 3, slice := 5 }, pass := 5, bench := [(7, { poison := true, sigma := some 0x40000000#32 })] }

theorem wit_BlockPass_1 :
    ∃ s : State, ∃ core, ∃ w, ∃ bins, ∃ c, ∃ fs, ∃ base, ∃ tile, ∃ clear, ∃ skip, (AtIns s core 1 0x10 .none w) ∧
    (sigBins (getCore s core).bins w = some bins) ∧ (c = getCore s core) ∧
    (fs = c.feeder.take (Ins.bits w 76 66 + 1)) ∧ (base = Ins.bits w 87 77) ∧
    (mpassRefusal c w fs (Ins.bits w 76 66 + 1) = none) ∧ (tile = (if Ins.bit w 64 then c.shadow else c.active)) ∧
    (clear = Ins.bit w 65) ∧ (skip = Ins.bit w 61) :=
  ⟨bpS (6 * 2 ^ 77 + 1 * 2 ^ 66 + 2 * 2 ^ 62 + 2 ^ 61), 0, tIns 0x10 (6 * 2 ^ 77 + 1 * 2 ^ 66 + 2 * 2 ^ 62 + 2 ^ 61),
    [], getCore (bpS (6 * 2 ^ 77 + 1 * 2 ^ 66 + 2 * 2 ^ 62 + 2 ^ 61)) 0, [bpF 0x3F80 false, bpF 0x4000 true], 6,
    bpT, false, true, ⟨by decide +kernel, by decide +kernel, by decide +kernel, by decide +kernel⟩,
    by decide +kernel, by decide +kernel, by decide +kernel, by decide +kernel, by decide +kernel,
    by decide +kernel, by decide +kernel, by decide +kernel⟩

theorem wit_BlockPass_1b :
    ∃ s : State, ∃ core, ∃ w, ∃ bins, ∃ c, ∃ fs, ∃ base, ∃ tile, ∃ clear, ∃ skip, (AtIns s core 1 0x10 .none w) ∧
    (sigBins (getCore s core).bins w = some bins) ∧ (c = getCore s core) ∧
    (fs = c.feeder.take (Ins.bits w 76 66 + 1)) ∧ (base = Ins.bits w 87 77) ∧
    (mpassRefusal c w fs (Ins.bits w 76 66 + 1) = none) ∧ (tile = (if Ins.bit w 64 then c.shadow else c.active)) ∧
    (clear = Ins.bit w 65) ∧ (skip = Ins.bit w 61) :=
  ⟨bpS (6 * 2 ^ 77 + 1 * 2 ^ 66 + 2 ^ 65 + 2 ^ 64 + 3 * 2 ^ 62 + 2 ^ 61), 0,
    tIns 0x10 (6 * 2 ^ 77 + 1 * 2 ^ 66 + 2 ^ 65 + 2 ^ 64 + 3 * 2 ^ 62 + 2 ^ 61), [],
    getCore (bpS (6 * 2 ^ 77 + 1 * 2 ^ 66 + 2 ^ 65 + 2 ^ 64 + 3 * 2 ^ 62 + 2 ^ 61)) 0, [bpF 0x3F80 false,
    bpF 0x4000 true], 6, { bpT with level := 3, slice := 5 }, true, true, ⟨by decide +kernel, by decide +kernel,
    by decide +kernel, by decide +kernel⟩, by decide +kernel, by decide +kernel, by decide +kernel,
    by decide +kernel, by decide +kernel, by decide +kernel, by decide +kernel, by decide +kernel⟩

end BlockPassW

/-! ### MatrixArray -/

namespace MatrixArrayW

def mdF (x : Nat) : Feed :=
  { fmt := 5, elems := List.replicate 128 x, scales := [], outer := 0x3F800000#32, poison := false, skip := false, reweighed := false }
def mdS (op bits : Nat) : State :=
  tState { tCore 1 (tIns op bits) with feeder := [mdF 0x3F800000, mdF 0x40000000, mdF 0x40400000], diag := List.replicate 128 0x40000000#32, bench := [(6, { sigma := some 0x40000000#32, vals := List.replicate 128 0x3F800000#32 }), (7, { poison := true, ecc := [4] })] }

theorem wit_MatrixStation_1 :
    ∃ s : State, ∃ core, ∃ w, ∃ bins, ∃ c, ∃ fs, ∃ base, (AtIns s core 1 0x11 .none w) ∧
    (sigBins (getCore s core).bins w = some bins) ∧ (c = getCore s core) ∧
    (fs = c.feeder.take (Ins.bits w 76 66 + 1)) ∧ (base = Ins.bits w 87 77) ∧
    (Ins.bits w 76 66 + 1 ≤ c.feeder.length) ∧ (∀ f ∈ fs, f.fmt = Fmt.fp32) :=
  ⟨mdS 0x11 (6 * 2 ^ 77 + 1 * 2 ^ 66), 0, tIns 0x11 (6 * 2 ^ 77 + 1 * 2 ^ 66), [],
    getCore (mdS 0x11 (6 * 2 ^ 77 + 1 * 2 ^ 66)) 0, [mdF 0x3F800000, mdF 0x40000000], 6, ⟨by decide +kernel,
    by decide +kernel, by decide +kernel, by decide +kernel⟩, by decide +kernel, by decide +kernel,
    by decide +kernel, by decide +kernel, by decide +kernel, by decide +kernel⟩

theorem wit_MatrixStation_2 :
    ∃ s : State, ∃ core, ∃ w, ∃ bins, ∃ c, ∃ out, (AtIns s core 1 0x12 .none w) ∧
    (sigBins (getCore s core).bins w = some bins) ∧ (c = getCore s core) ∧
    (out = (List.range (Ins.bits w 76 66 + 1)).map (fun i => drainLine (Ins.bit w 64) (getLine c (Ins.bits w 87 77 + i)))) ∧
    (∀ i, i ≤ Ins.bits w 76 66 → (getLine c (Ins.bits w 87 77 + i)).ecc = []) :=
  ⟨mdS 0x12 (5 * 2 ^ 77 + 1 * 2 ^ 66), 0, tIns 0x12 (5 * 2 ^ 77 + 1 * 2 ^ 66), [],
    getCore (mdS 0x12 (5 * 2 ^ 77 + 1 * 2 ^ 66)) 0,
    (List.range 2).map (fun i => drainLine false (getLine (getCore (mdS 0x12 0) 0) (5 + i))), ⟨by decide +kernel,
    by decide +kernel, by decide +kernel, by decide +kernel⟩, by decide +kernel, by decide +kernel,
    by decide +kernel, (by decide +kernel)⟩

theorem wit_MatrixStation_3 :
    ∃ s : State, ∃ core, ∃ w, ∃ bins, (AtIns s core 1 0x13 .none w) ∧ (sigBins (getCore s core).bins w = some bins) :=
  ⟨mdS 0x13 200, 0, tIns 0x13 200, [], ⟨by decide +kernel, by decide +kernel, by decide +kernel, by decide +kernel⟩,
    by decide +kernel⟩

def afS : State := tState { activity := 100, floor := 200, quiet := 3, dummyCycles := 7#64 }

theorem wit_ActivityFrame_1 :
    ∃ s : State, ∃ core : Nat, ∃ due : List Nat, ∃ c : Core, (c = getCore s core) ∧ (c.activity ≤ 256) ∧ (due.Nodup) :=
  ⟨afS, 0, [0, 3, 9, 255, 300], getCore afS 0, by decide +kernel, by decide +kernel, by decide +kernel⟩

end MatrixArrayW

/-! ### Packer -/

namespace PackerW

def psS (bits : Nat) : State := tState (tCore 2 (tIns 0x20 bits))
def pkBits : Nat := 1 * 2 ^ 64 + 1 * 2 ^ 61 + 2 ^ 59 + 9
def pkS : State :=
  { tState { tCore 2 (tIns 0x21 pkBits) with
      bins := [tBin]
      drainPack := [{ vals := List.replicate 128 0x40490FDB#32, poison := false }, { vals := List.replicate 128 0xFF800000#32, poison := true }, { vals := [], poison := false }]
      crateSeq := 4
      params := { outer := 0x3F800000#32, countBase := 20, cbEn := true, th := 0x100, layer := 3 } } with
    tallies := [(20, 5#64)] }
def pkOut := Pack.packLines 1 true true (packIds pkS 0 (packOp (tIns 0x21 pkBits)) 0) 0x3F800000#32 0 (((getCore pkS 0).drainPack.take 2).map (·.vals))

theorem wit_Packer_1 :
    ∃ s : State, ∃ core, ∃ w, ∃ bins, (AtIns s core 2 0x20 .none w) ∧ (sigBins (getCore s core).bins w = some bins) ∧
    (Fmt.outerOk (BitVec.ofNat 32 (Ins.bits w 87 56)) = true) :=
  ⟨psS (0x40490FDB * 2 ^ 56 + 7 * 2 ^ 40 + 8 * 2 ^ 24 + 9 * 2 ^ 8 + 2 ^ 7), 0,
    tIns 0x20 (0x40490FDB * 2 ^ 56 + 7 * 2 ^ 40 + 8 * 2 ^ 24 + 9 * 2 ^ 8 + 2 ^ 7), [], ⟨by decide +kernel,
    by decide +kernel, by decide +kernel, by decide +kernel⟩, by decide +kernel, by decide +kernel⟩

theorem wit_Packer_2 :
    ∃ s : State, ∃ core, ∃ w, ∃ bins, ∃ c, ∃ o, ∃ b, ∃ k, ∃ ls, ∃ out, ∃ p, (AtIns s core 2 0x21 .none w) ∧
    (c = getCore s core) ∧ (o = packOp w) ∧ (o.srcBin = none) ∧ (o.rw = none) ∧ (o.transpose = false) ∧
    (o.pred = none) ∧ (1 ≤ o.target) ∧ (o.target ≤ 5) ∧ (o.count ≤ Fmt.lines o.target) ∧
    (o.count ≤ c.drainPack.length) ∧ (c.packIn = []) ∧ (c.packCnt = [0, 0, 0, 0]) ∧ (getStation c 2).prog = 0 ∧
    (b = getBin c o.dst) ∧ (b.spaceOk = true) ∧ (b.producer ≠ 7) ∧ (o.dst < c.bins.length) ∧
    (k = slotCrate core b b.fillSlot 0) ∧ (Plain s.mem k) ∧ (Writable s.mem) ∧ (ls = c.drainPack.take o.count) ∧
    (out = Pack.packLines o.target o.rule0 o.stoch (packIds s core o 0) c.params.outer 0 (ls.map (·.vals))) ∧
    (p = Pack.payload o.target c.params.outer out) ∧ (c.params.cbEn = true → ∀ i,
    i < 4 → tallyEpochOf s (c.params.countBase + i) = launchEpoch (coreLaunch s core) (c.params.countBase + i)) ∧
    (sigBins (lset c.bins o.dst { b with fill := (b.fill + 1) % 2 ^ 32 }) w = some bins) :=
  ⟨pkS, 0, tIns 0x21 pkBits, [{ tBin with fill := 2 }], getCore pkS 0, packOp (tIns 0x21 pkBits), tBin, 0x20000002,
    (getCore pkS 0).drainPack.take 2, pkOut, Pack.payload 1 0x3F800000#32 pkOut, ⟨by decide +kernel,
    by decide +kernel, by decide +kernel, by decide +kernel⟩, by decide +kernel, by decide +kernel,
    by decide +kernel, by decide +kernel, by decide +kernel, by decide +kernel, by decide +kernel,
    by decide +kernel, by decide +kernel, by decide +kernel, by decide +kernel, by decide +kernel,
    by decide +kernel, by decide +kernel, by decide +kernel, by decide +kernel, by decide +kernel,
    by decide +kernel, plain_free _ _ rfl rfl, ⟨by decide +kernel, by decide +kernel⟩, (rfl), (rfl),
    by decide +kernel, by decide +kernel, by decide +kernel⟩

end PackerW

/-! ### PorterMoves -/

namespace PorterMovesW

def pmS (op bits : Nat) (tags : Tab W128 := []) : State :=
  { tState { tCore 4 (tIns op bits) with bins := [tBin] } with mem := { tags }, tallies := [(9, 4#64)] }
def pmW : Nat := 5 * 2 ^ 19 + 2 ^ 17 + 9 * 2 ^ 1
def paW : Nat := 5 * 2 ^ 19
def paS : State := pmS 0x43 paW [(5, tTag 5), (0x20000000, tTag 5)]

theorem wit_PorterMoves_1 :
    ∃ s : State, ∃ core, ∃ w, ∃ bins, ∃ l, ∃ b, ∃ n, ∃ slot, ∃ src, ∃ dst, (AtIns s core 4 0x40 .none w) ∧
    (Ins.vt w = false) ∧ (l = coreLaunch s core) ∧ (b = getBin (getCore s core) (Ins.bits w 86 81)) ∧
    (n = moveCount w) ∧ (n ≤ b.slotCrates) ∧ (farRefusal s l w n = none) ∧ (remoteSignal l w = none) ∧
    (slot = (if Ins.bit w 80 then Ins.bits w 79 69 % b.slotCount else if Ins.bit w 87 then b.fillSlot else b.emptySlot)) ∧
    (Ins.bit w 80 = false → if Ins.bit w 87 then b.occ < b.slotCount ∧ b.producer ≠ 7 else 1 ≤ b.occ) ∧
    (src = (if Ins.bit w 87 then farCrate l w else slotCrate core b slot 0)) ∧
    (dst = (if Ins.bit w 87 then slotCrate core b slot 0 else farCrate l w)) ∧ (∀ i, i < n → MoveOk s (src + i) ∧
    Plain s.mem (dst + i)) ∧ (src + n ≤ dst ∨ dst + n ≤ src) ∧ (Writable s.mem) ∧ (∀ k,
    porterTally w = some k → tallyEpochOf s k = porterEpoch l w) ∧
    (sigBins (if Ins.bit w 80 then (getCore s core).bins else if Ins.bit w 87 then postedBin (Ins.bits w 86 81) (getCore s core).bins else releasedBins (Ins.bits w 86 81) 1 (getCore s core).bins) w = some bins) :=
  ⟨pmS 0x40 pmW, 0, tIns 0x40 pmW, [{ tBin with empty := 1 }], coreLaunch (pmS 0x40 pmW) 0, tBin, 1, 0, 0x20000000,
    5, ⟨by decide +kernel, by decide +kernel, by decide +kernel, by decide +kernel⟩, by decide +kernel,
    by decide +kernel, by decide +kernel, by decide +kernel, by decide +kernel, by decide +kernel,
    by decide +kernel, by decide +kernel, by decide +kernel, by decide +kernel, by decide +kernel, (fun i hi => by
      obtain rfl : i = 0 := by omega
      exact ⟨(crateOk_zeros _ _ rfl rfl rfl rfl (by decide +kernel) (by decide +kernel)).move,
    plain_free _ _ rfl rfl⟩), by decide +kernel, ⟨by decide +kernel, by decide +kernel⟩, (fun k hk => by
      obtain rfl : 9 = k := by simpa [show porterTally (tIns 0x40 pmW) = some 9 from by decide +kernel] using hk
      decide +kernel), by decide +kernel⟩

theorem wit_PorterMoves_2 :
    ∃ s : State, ∃ core, ∃ w, ∃ bins, ∃ l, ∃ b, ∃ n, ∃ slot, ∃ src, ∃ dst, (AtIns s core 4 0x43 .none w) ∧
    (Ins.vt w = false) ∧ (l = coreLaunch s core) ∧ (b = getBin (getCore s core) (Ins.bits w 86 81)) ∧
    (n = moveCount w) ∧ (n ≤ b.slotCrates) ∧ (farRefusal s l w n = none) ∧ (remoteSignal l w = none) ∧
    (slot = (if Ins.bit w 80 then Ins.bits w 79 69 % b.slotCount else b.emptySlot)) ∧
    (Ins.bit w 80 = false → 1 ≤ b.occ) ∧ (src = slotCrate core b slot 0) ∧ (dst = farCrate l w) ∧ (∀ i,
    i < n → CrateOk s (src + i) ∧ CrateOk s (dst + i) ∧ Plain s.mem (dst + i) ∧
    Tag.fmt (crateTag s.mem (src + i)) = Fmt.fp32 ∧ Tag.fmt (crateTag s.mem (dst + i)) = Fmt.fp32) ∧
    (src + n ≤ dst ∨ dst + n ≤ src) ∧ (Writable s.mem) ∧ (∀ k,
    porterTally w = some k → tallyEpochOf s k = porterEpoch l w) ∧
    (sigBins (if Ins.bit w 80 then (getCore s core).bins else releasedBins (Ins.bits w 86 81) 1 (getCore s core).bins) w = some bins) :=
  ⟨paS, 0, tIns 0x43 paW, [{ tBin with empty := 1 }], coreLaunch paS 0, tBin, 1, 0, 0x20000000, 5,
    ⟨by decide +kernel, by decide +kernel, by decide +kernel, by decide +kernel⟩, by decide +kernel,
    by decide +kernel, by decide +kernel, by decide +kernel, by decide +kernel, by decide +kernel,
    by decide +kernel, by decide +kernel, by decide +kernel, by decide +kernel, by decide +kernel, (fun i hi => by
      obtain rfl : i = 0 := by omega
      exact ⟨crateOk_zeros _ _ rfl rfl rfl rfl (by decide +kernel) (by decide +kernel),
    crateOk_zeros _ _ rfl rfl rfl rfl (by decide +kernel) (by decide +kernel), plain_free _ _ rfl rfl,
    by decide +kernel, by decide +kernel⟩), by decide +kernel, ⟨by decide +kernel, by decide +kernel⟩,
    (fun k hk => by
      rw [show porterTally (tIns 0x43 paW) = none from by decide +kernel] at hk; cases hk), by decide +kernel⟩

end PorterMovesW

/-! ### PorterTransfers -/

namespace PorterTransfersW

def plS (op bits : Nat) : State :=
  { tState { tCore 4 (tIns op bits) with bins := [{ tBin with base := 16384 }, { tBin with slotCrates := 1 }] } with
    mem := { tags := [(5, Tag.poison (tTag 5)), (0x20000000, Tag.poison (tTag 5))] } }
def plW : Nat := 2 ^ 76 + 5 * 2 ^ 28
/-- The state that the words of the index list leave. -/
def plU (s : State) (w : W128) (k : Nat) : State :=
  getOk s (idxRun 0 (coreCtx s 0) (getCtx s (coreLaunch s 0).ctx).part w (crateBytes s.mem k) 0 (setHold s 0 4 .none))

theorem wit_PorterLists_1 :
    ∃ s : State, ∃ core, ∃ w, ∃ k, ∃ u, ∃ op, ∃ c, (op = 0x41 ∨ op = 0x42) ∧ (AtIns s core 4 op .none w) ∧
    (c = getCore s core) ∧ (c.inflight.length < 64) ∧ (1 ≤ (getBin c (Ins.bits w 87 82)).occ) ∧
    (k = slotCrate core (getBin c (Ins.bits w 87 82)) (getBin c (Ins.bits w 87 82)).emptySlot 0) ∧ (CrateOk s k) ∧
    (Tag.fmt (crateTag s.mem k) = Fmt.untyped) ∧
    (idxRun core (coreCtx s core) (getCtx s (coreLaunch s core).ctx).part w (crateBytes s.mem k) 0 (setHold s core 4 .none) = .ok u) ∧
    (getCore u core).run ≠ 3 :=
  ⟨plS 0x41 plW, 0, tIns 0x41 plW, 0x20000004, plU (plS 0x41 plW) (tIns 0x41 plW) 0x20000004, 0x41,
    getCore (plS 0x41 plW) 0, by decide +kernel, ⟨by decide +kernel, by decide +kernel, by decide +kernel,
    by decide +kernel⟩, by decide +kernel, by decide +kernel, by decide +kernel, by decide +kernel,
    crateOk_zeros _ _ rfl rfl rfl rfl (by decide +kernel) (by decide +kernel), by decide +kernel,
    (getOk_eq _ _ (by decide +kernel)), by decide +kernel⟩

theorem wit_PorterLists_1b :
    ∃ s : State, ∃ core, ∃ w, ∃ k, ∃ u, ∃ op, ∃ c, (op = 0x41 ∨ op = 0x42) ∧ (AtIns s core 4 op .none w) ∧
    (c = getCore s core) ∧ (c.inflight.length < 64) ∧ (1 ≤ (getBin c (Ins.bits w 87 82)).occ) ∧
    (k = slotCrate core (getBin c (Ins.bits w 87 82)) (getBin c (Ins.bits w 87 82)).emptySlot 0) ∧ (CrateOk s k) ∧
    (Tag.fmt (crateTag s.mem k) = Fmt.untyped) ∧
    (idxRun core (coreCtx s core) (getCtx s (coreLaunch s core).ctx).part w (crateBytes s.mem k) 0 (setHold s core 4 .none) = .ok u) ∧
    (getCore u core).run ≠ 3 :=
  ⟨plS 0x42 plW, 0, tIns 0x42 plW, 0x20000004, plU (plS 0x42 plW) (tIns 0x42 plW) 0x20000004, 0x42,
    getCore (plS 0x42 plW) 0, by decide +kernel, ⟨by decide +kernel, by decide +kernel, by decide +kernel,
    by decide +kernel⟩, by decide +kernel, by decide +kernel, by decide +kernel, by decide +kernel,
    crateOk_zeros _ _ rfl rfl rfl rfl (by decide +kernel) (by decide +kernel), by decide +kernel,
    (getOk_eq _ _ (by decide +kernel)), by decide +kernel⟩

theorem wit_PorterLists_2 :
    ∃ s : State, ∃ core, ∃ w, ∃ b, ∃ n, ∃ loc, ∃ p, ∃ part, (b = getBin (getCore s core) (Ins.bits w 81 76)) ∧
    (n = Ins.bits w 75 66 + 1) ∧ (n ≤ b.slotCrates) ∧ (∀ i,
    i < n → refuse s .tiers part ((Ins.bits w 64 28 + idxOf p i) * 4096) = none) ∧ (Writable s.mem) ∧
    (Ins.op w = 0x41) ∧ (Ins.bit w 65 = false) ∧ (loc = slotCrate core b b.fillSlot 0) ∧ (b.occ < b.slotCount) ∧
    (b.producer ≠ 7) ∧ (∀ i, i < n → MoveOk s (Ins.bits w 64 28 + idxOf p i) ∧ Plain s.mem (loc + i) ∧
    (Ins.bits w 64 28 + idxOf p i < loc ∨ loc + n ≤ Ins.bits w 64 28 + idxOf p i)) :=
  ⟨plS 0x41 plW, 0, tIns 0x41 plW, { tBin with slotCrates := 1 }, 1, 0x20000002, [], 1, by decide +kernel,
    by decide +kernel, by decide +kernel, (by decide +kernel), ⟨by decide +kernel, by decide +kernel⟩,
    by decide +kernel, by decide +kernel, by decide +kernel, by decide +kernel, by decide +kernel, (fun i hi => by
      obtain rfl : i = 0 := by omega
      exact ⟨⟨cacheHome_scratch _ _ rfl, by decide +kernel, .inl (by decide +kernel)⟩, plain_free _ _ rfl rfl,
    by decide +kernel⟩)⟩

theorem wit_PorterLists_3 :
    ∃ s : State, ∃ core, ∃ w, ∃ b, ∃ n, ∃ loc, ∃ p, ∃ part, (b = getBin (getCore s core) (Ins.bits w 81 76)) ∧
    (n = Ins.bits w 75 66 + 1) ∧ (n ≤ b.slotCrates) ∧ (∀ i,
    i < n → refuse s .tiers part ((Ins.bits w 64 28 + idxOf p i) * 4096) = none) ∧ (Writable s.mem) ∧
    (Ins.op w = 0x42) ∧ (loc = slotCrate core b b.emptySlot 0) ∧ (1 ≤ b.occ) ∧ (∀ i, i < n → MoveOk s (loc + i) ∧
    Plain s.mem (Ins.bits w 64 28 + idxOf p i) ∧
    (Ins.bits w 64 28 + idxOf p i < loc ∨ loc + n ≤ Ins.bits w 64 28 + idxOf p i) ∧ ∀ j,
    j < i → idxOf p j ≠ idxOf p i) :=
  ⟨plS 0x42 plW, 0, tIns 0x42 plW, { tBin with slotCrates := 1 }, 1, 0x20000000, [], 1, by decide +kernel,
    by decide +kernel, by decide +kernel, by decide +kernel, ⟨by decide +kernel, by decide +kernel⟩,
    by decide +kernel, by decide +kernel, by decide +kernel, (fun i hi => by
      obtain rfl : i = 0 := by omega
      exact ⟨⟨cacheHome_scratch _ _ rfl, by decide +kernel, .inl (by decide +kernel)⟩, plain_free _ _ rfl rfl,
    by decide +kernel, fun j hj => absurd hj (by omega)⟩)⟩

def tcX (op : Nat) : Transfer :=
  { id := 3, instr := tIns op (2 ^ 103 + 2 ^ 17 + 9 * 2 + 2 ^ 82), index := 0, launch := 3, ctx := 1, gen := 2, moved := true, slot0 := 1 }
def tcS (op : Nat) : State :=
  tState { tCore 4 0#128 with bins := [{ slotCount := 2, fill := 1 }, { slotCount := 2, fill := 1 }], inflight := [{ tcX op with id := 2 }, tcX op] }

theorem wit_TransferComplete_1 :
    ∃ s : State, ∃ core, ∃ id, ∃ x, ∃ bins, (getCore s core).inflight.find? (fun t => t.id == id) = some x ∧
    (x.failed = false) ∧ (x.moved = true) ∧ (getCtx s x.ctx).state = 2 ∧ (getCtx s x.ctx).gen = x.gen ∧
    (Ins.op x.instr = 0x44 → x.ops = []) ∧ (x.remote = none) ∧ (getCore s core).load = x.launch ∧
    (getCore s core).run ≠ 3 ∧
    ((Ins.op x.instr = 0x41 ∨ Ins.op x.instr = 0x42) → 1 ≤ (getBin (getCore s core) (Ins.bits x.instr 87 82)).occ) ∧
    (∀ k, porterTally x.instr = some k → tallyEpochOf s k = x.epoch) ∧
    (sigBins (if Ins.op x.instr = 0x41 ∨ Ins.op x.instr = 0x42 then releasedBins (Ins.bits x.instr 87 82) 1 (getCore s core).bins else (getCore s core).bins) x.instr = some bins) :=
  ⟨tcS 0x40, 0, 3, tcX 0x40, [{ slotCount := 2, fill := 2 }, { slotCount := 2, fill := 1 }], by decide +kernel,
    by decide +kernel, by decide +kernel, by decide +kernel, by decide +kernel, by decide +kernel,
    by decide +kernel, by decide +kernel, by decide +kernel, by decide +kernel, (by
      intro k hk
      obtain rfl : 9 = k := by simpa [show porterTally (tcX 0x40).instr = some 9 from by decide +kernel] using hk
      decide +kernel), by decide +kernel⟩

theorem wit_TransferComplete_1b :
    ∃ s : State, ∃ core, ∃ id, ∃ x, ∃ bins, (getCore s core).inflight.find? (fun t => t.id == id) = some x ∧
    (x.failed = false) ∧ (x.moved = true) ∧ (getCtx s x.ctx).state = 2 ∧ (getCtx s x.ctx).gen = x.gen ∧
    (Ins.op x.instr = 0x44 → x.ops = []) ∧ (x.remote = none) ∧ (getCore s core).load = x.launch ∧
    (getCore s core).run ≠ 3 ∧
    ((Ins.op x.instr = 0x41 ∨ Ins.op x.instr = 0x42) → 1 ≤ (getBin (getCore s core) (Ins.bits x.instr 87 82)).occ) ∧
    (∀ k, porterTally x.instr = some k → tallyEpochOf s k = x.epoch) ∧
    (sigBins (if Ins.op x.instr = 0x41 ∨ Ins.op x.instr = 0x42 then releasedBins (Ins.bits x.instr 87 82) 1 (getCore s core).bins else (getCore s core).bins) x.instr = some bins) :=
  ⟨tcS 0x41, 0, 3, tcX 0x41, [{ slotCount := 2, fill := 2 }, { slotCount := 2, fill := 1, empty := 1 }],
    by decide +kernel, by decide +kernel, by decide +kernel, by decide +kernel, by decide +kernel,
    by decide +kernel, by decide +kernel, by decide +kernel, by decide +kernel, by decide +kernel, (by
      intro k hk
      obtain rfl : 9 = k := by simpa [show porterTally (tcX 0x41).instr = some 9 from by decide +kernel] using hk
      decide +kernel), by decide +kernel⟩

end PorterTransfersW

/-! ### HoldsEnd -/

namespace HoldsEndW

def heS (st : Nat) (h : Hold) (w : W128) : State :=
  tState { tCore st w with bins := [{ slotCount := 2, fill := 1 }], stations := lset (List.replicate 6 {}) st { store := [w, 0#128], hold := h }
                           feeder := [{ fmt := 5, elems := [], scales := [], outer := 0#32, poison := false, skip := false, reweighed := false }] }
def heU (st : Nat) (h : Hold) (w : W128) (body : State → Nat → W128 → Finding → Run) : State :=
  getDone (heS st h w) (body (setHold (heS st h w) 0 st .none) 0 w .clean)

theorem wit_HoldsEnd_1 :
    ∃ s : State, ∃ core, ∃ st, ∃ op, ∃ h, ∃ w, ∃ body, ∃ u, ∃ bins, ∃ c : Instr, (AtIns s core st op h w) ∧
    (bodyOf st op = some body) ∧ (body (setHold s core st .none) core w .clean = .done u) ∧
    (getCore u core).run ≠ 3 ∧ (sigBins (getCore u core).bins w = some bins) ∧
    (c = .markedWaitSatisfied core st .clean ∧ h = .wait ∨ c = .arrayHoldClear core st .clean ∧ (∃ n, h = .array n)) :=
  ⟨heS 1 .wait (tIns 0x11 (2 ^ 127 + 2 ^ 103)), 0, 1, 0x11, .wait, tIns 0x11 (2 ^ 127 + 2 ^ 103), bodyMdiag,
    heU 1 .wait (tIns 0x11 (2 ^ 127 + 2 ^ 103)) bodyMdiag, [{ slotCount := 2, fill := 2 }],
    .markedWaitSatisfied 0 1 .clean, ⟨by decide +kernel, by decide +kernel, by decide +kernel, by decide +kernel⟩,
    (rfl), (getDone_eq _ _ (by decide +kernel)), by decide +kernel, by decide +kernel, (.inl ⟨rfl, rfl⟩)⟩

theorem wit_HoldsEnd_1b :
    ∃ s : State, ∃ core, ∃ st, ∃ op, ∃ h, ∃ w, ∃ body, ∃ u, ∃ bins, ∃ c : Instr, (AtIns s core st op h w) ∧
    (bodyOf st op = some body) ∧ (body (setHold s core st .none) core w .clean = .done u) ∧
    (getCore u core).run ≠ 3 ∧ (sigBins (getCore u core).bins w = some bins) ∧
    (c = .markedWaitSatisfied core st .clean ∧ h = .wait ∨ c = .arrayHoldClear core st .clean ∧ (∃ n, h = .array n)) :=
  ⟨heS 1 (.array 1) (tIns 0x11 (2 ^ 127 + 2 ^ 103)), 0, 1, 0x11, .array 1, tIns 0x11 (2 ^ 127 + 2 ^ 103), bodyMdiag,
    heU 1 (.array 1) (tIns 0x11 (2 ^ 127 + 2 ^ 103)) bodyMdiag, [{ slotCount := 2, fill := 2 }],
    .arrayHoldClear 0 1 .clean, ⟨by decide +kernel, by decide +kernel, by decide +kernel, by decide +kernel⟩,
    (rfl), (getDone_eq _ _ (by decide +kernel)), by decide +kernel, by decide +kernel, (by exact .inr ⟨rfl, 1,
    rfl⟩)⟩

end HoldsEndW

/-! ### LaunchStarts -/

namespace LaunchStartsW

/-- An image of two cores: core 0 has a bin and a stream of one delay. -/
def liImage : List Byte :=
  Word.toLe 4 0x50445A4D ++ Word.toLe 2 1 ++ Word.toLe 2 0x100 ++ Word.toLe 2 2 ++ Word.toLe 2 0 ++ Word.toLe 4 256 ++ Word.toLe 8 416
    ++ List.replicate 232 0#8
    ++ (Word.toLe 2 0 ++ Word.toLe 2 1 ++ Word.toLe 4 384 ++ List.replicate 40 0#8 ++ Word.toLe 4 400 ++ Word.toLe 4 1 ++ List.replicate 8 0#8)
    ++ (Word.toLe 2 1 ++ List.replicate 62 0#8)
    ++ (Word.toLe 4 0 ++ Word.toLe 4 4096 ++ Word.toLe 2 1 ++ Word.toLe 2 2 ++ [5, 0, 0, 0])
    ++ Word.toLe 16 (7 + 2 ^ 10)
def liCmd : Cmd := tCmd 0x0201 0x6000 (0x1000 + 30 * 2 ^ 32) 0
def liState : State :=
  { tCmdState liCmd with
    coreMap := [(0, { avail := true }), (128, { avail := true, source := 1 })]
    mem := { cells := mkCells 0x6000 liImage, tags := [(6, Tag.mk 0x9122fe19b49148b1#64 6 0 0 1)] } }
def liCoreState : State := { liState with cores := [(4, { token := 9 })] }
theorem li_crate : imageBad liCoreState.mem 6 = none := by unfold imageBad; rw [tCheck_eq]; decide +kernel
theorem li_head : readHead liCoreState.mem (pktOff0 liCmd.packet) = { n := 2, table := 256, size := 416, placeD := 0, bridges := 0, ok := true } := by
  decide +kernel
theorem li_range (n : Nat) (h : n = 256 ∨ n = 416) : imageRange liCoreState 1 (pktOff0 liCmd.packet) n = none := by
  have ha : pktOff0 liCmd.packet = 0x6000 := by decide +kernel
  have h1 : refuse liCoreState .image 1 0x6000 = none := by decide +kernel
  have hr : ∀ a n, a = 0x6000 → (n = 256 ∨ n = 416) → imageRange liCoreState 1 a n = none := by
    intro a n ha hn
    obtain rfl | rfl := hn <;> subst ha <;> simp [imageRange, h1, li_crate]
  exact hr _ _ ha h
theorem li_ok : launchRefusal liCoreState 1 liCmd.packet = none := by
  unfold launchRefusal
  have hp : (getCtx liCoreState 1).part = 1 := rfl
  simp only [li_head, hp, li_range _ (.inl rfl), li_range _ (.inr rfl)]
  decide +kernel

theorem wit_LaunchStarts_1 :
    ∃ s : State, ∃ slot, ∃ c, ∃ ctx, ∃ h, ∃ dies, ∃ bound, (IsBegun s slot 0x0201 c) ∧ (c.aux = 0) ∧
    (ctx = Pkt.ctx c.packet) ∧ (launchRefusal s ctx c.packet = none) ∧ (h = readHead s.mem (pktOff0 c.packet)) ∧
    (dies = (getPart s (getCtx s ctx).part).dies) ∧ (bound = (List.range h.n).map (bindCore dies)) ∧
    (bound.Nodup) ∧ (testsRunning s bound = false) :=
  ⟨liCoreState, 3, liCmd, 1, readHead liCoreState.mem (pktOff0 liCmd.packet), List.range 8, [0, 128],
    ⟨by decide +kernel, by decide +kernel, by decide +kernel⟩, by decide +kernel, by decide +kernel, (li_ok),
    (rfl), by decide +kernel, by decide +kernel, by decide +kernel, by decide +kernel⟩

theorem wit_LaunchStarts_2 :
    ∃ s : State, ∃ slot, ∃ c, ∃ l, (findCmd s slot = some c) ∧ (l = getLaunch s slot) ∧ (c.aux = 1) ∧
    (l.running = false) ∧ (l.stopped = none) ∧ (l.cores ≠ []) :=
  ⟨{ liState with cmds := [{ liCmd with aux := 1 }], launches := [(3, { ctx := 1, cores := [0, 128] }), (5, { ctx := 2 })], cores := [(0, { launch := some 3 }), (4, { token := 9 })], tallies := [(7, 5#64)] },
    3, { liCmd with aux := 1 }, { ctx := 1, cores := [0, 128] }, by decide +kernel, by decide +kernel,
    by decide +kernel, by decide +kernel, by decide +kernel, by decide +kernel⟩

end LaunchStartsW

/-! ### LaunchesEnd -/

namespace LaunchesEndW

def leCmd : Cmd := { tCmd 0x0201 0 0 0 with aux := 1 }
def leLaunch : Launch := { ctx := 1, gen := 2, cores := [0, 5], running := true, startCycle := 100#64 }
def leState (l : Launch) : State :=
  { tCmdState leCmd with launches := [(3, l)], cores := [(0, { launch := some 3, run := 1 }), (5, { launch := some 3, floor := 4 }), (6, { launch := some 9 })] }
def leTwo : State :=
  { leState leLaunch with cmds := [tCmd 0x0202 (2 + 9 * 2 ^ 32) 0 0, { leCmd with slot := 4 }], launches := [(4, leLaunch)]
                          cores := [(0, { launch := some 4, run := 1 }), (5, { launch := some 4, run := 2 }), (6, { launch := some 9 })] }

theorem wit_LaunchEnds_1 :
    ∃ s : State, ∃ slot, ∃ c, ∃ l, (IsBegun s slot 0x0201 c) ∧ (l = getLaunch s slot) ∧ (c.aux = 1) ∧
    (l.stopped = none) ∧ (l.running = true) ∧ (launchEnded s l = true) ∧ (l.profile = 0) ∧
    (steppedCtx s ≠ some l.ctx → ∀ k ∈ l.cores, CoreQuiet s k) :=
  ⟨leState leLaunch, 3, leCmd, leLaunch, ⟨by decide +kernel, by decide +kernel, by decide +kernel⟩,
    by decide +kernel, by decide +kernel, by decide +kernel, by decide +kernel, by decide +kernel,
    by decide +kernel, (fun _ k _ => ⟨rfl, (by show (0 : Nat) ≠ 2; decide), rfl⟩)⟩

theorem wit_LaunchEnds_2 :
    ∃ s : State, ∃ slot, ∃ c, ∃ d, ∃ l, (IsBegun s slot 0x0202 c) ∧
    (s.cmds.find? (fun d => d.queue == Pkt.p0 c.packet % 2 ^ 14 && Pkt.tag d.packet == Pkt.p0 c.packet / 2 ^ 32 && Pkt.opcode d.packet == 0x0201 && d.phase == 1 && d.aux == 1 && Pkt.ctx d.packet == Pkt.ctx c.packet) = some d) ∧
    (l = getLaunch s d.slot) :=
  ⟨leTwo, 3, tCmd 0x0202 (2 + 9 * 2 ^ 32) 0 0, { leCmd with slot := 4 }, leLaunch, ⟨by decide +kernel,
    by decide +kernel, by decide +kernel⟩, by decide +kernel, by decide +kernel⟩

def hwState (n : Nat) : State :=
  { tState { tCore 5 0#128 with scrubWords := n } with launches := [(7, { ctx := 1, gen := 2, cores := [0], running := true, hkLength := 40 })] }

theorem wit_HousekeepingWindow_1 :
    ∃ s : State, ∃ core, ∃ l, (coreRuns s core = true) ∧ (l = coreLaunch s core) :=
  ⟨hwState 98144, 0, { ctx := 1, gen := 2, cores := [0], running := true, hkLength := 40 }, by decide +kernel,
    by decide +kernel⟩

end LaunchesEndW

/-! ### PacketFetch -/

namespace PacketFetchW

def pfCmd (n o : Nat) : Cmd := { slot := n, ord := o, queue := 2, packet := tPkt 0x300 0 0 0 0 }
def pfState : State := { tHost with cmds := [pfCmd 0 3], cmdOrd := 5, rrQueue := 2, rrLeft := 1 }
def pfPacket : List Byte := tPkt 0x0106 3 0x80000001 0 1
def pfNew (p : List Byte) : Cmd := { slot := 1, ord := 5, queue := 2, packet := p, epochs := packetEpochs pfState p }

theorem wit_PacketFetch_1 :
    ∃ s : State, ∃ q, ∃ p, ∃ c, ∃ x, (fetchOpen s = true) ∧ (p.length = 64) ∧ (nextQueue s = some q) ∧
    (x = getQueue s q) ∧ (x.state = 1) ∧
    (c = ({ slot := freeSlot s, ord := s.cmdOrd, queue := q, packet := p, epochs := packetEpochs s p } : Cmd)) ∧
    (∀ d ∈ s.cmds, d.ord < s.cmdOrd ∧ d.slot ≠ freeSlot s) :=
  ⟨pfState, 2, pfPacket, pfNew pfPacket, getQueue pfState 2, by decide +kernel, by decide +kernel, by decide +kernel,
    by decide +kernel, by decide +kernel, by decide +kernel, by decide +kernel⟩

end PacketFetchW

/-! ### CommandBegin -/

namespace CommandBeginW

def cbCmd (n o ph : Nat) (p : List Byte) : Cmd := { slot := n, ord := o, queue := 2, packet := p, epochs := [4, 0, 0, 0], phase := ph }
/-- A packet that waits for tally 7 to reach 100. -/
def cbWait : List Byte := (tPkt 0x300 0 0 0 1).take 16 ++ Word.toLe 8 (2 ^ 48 * 7 + 100) ++ List.replicate 40 0#8
def cbState (p : List Byte) (e v : Nat) : State :=
  { tHost with cmds := [cbCmd 2 3 1 (tPkt 0x300 0 0 0 0), cbCmd 5 8 0 p], tallies := [(7, tallyW e v)] }

theorem wit_CommandBegin_1 :
    ∃ s : State, ∃ q, ∃ c, (queueCmds s q).find? (fun d => d.phase == 0) = some c ∧ (waitState s c = .satisfied) ∧
    (Pkt.order c.packet = true → (getQueue s q).fails = [] ∧ ∀ d ∈ queueCmds s q, c.ord ≤ d.ord) :=
  ⟨cbState cbWait 4 100, 2, cbCmd 5 8 0 cbWait, by decide +kernel, by decide +kernel, by decide +kernel⟩

theorem wit_CommandBegin_2 :
    ∃ s : State, ∃ q, ∃ c, (queueCmds s q).find? (fun d => d.phase == 0) = some c ∧ (waitState s c = .waiting) :=
  ⟨cbState cbWait 4 99, 2, cbCmd 5 8 0 cbWait, by decide +kernel, by decide +kernel⟩

theorem wit_CommandBegin_3 :
    ∃ s : State, ∃ q, ∃ c, (queueCmds s q).find? (fun d => d.phase == 0) = some c ∧ (waitState s c = .epochChanged) ∧
    (∀ d ∈ queueCmds s q, d.ord ≤ c.ord) ∧ (findCmd s c.slot = some c) :=
  ⟨cbState cbWait 5 100, 2, cbCmd 5 8 0 cbWait, by decide +kernel, by decide +kernel, by decide +kernel,
    by decide +kernel⟩

end CommandBeginW

/-! ### CompletionRecord -/

namespace CompletionRecordW

def crCmd (cls : Nat) : Cmd :=
  { slot := 6, ord := 2, queue := 2, packet := (tPkt 0x300 0 0 0 4).take 32 ++ Word.toLe 8 (0x50000 + 7) ++ List.replicate 24 0#8, epochs := [0, 0, 4, 0], phase := 2, cls, reason := 3, detail16 := 0xFFFF, result := 77#64, time := 88#64 }
def crState (cls tail : Nat) : State :=
  { tHost with cmds := [crCmd cls, { crCmd 0 with slot := 1, ord := 5 }], tallies := [(7, tallyW 4 1)]
               queues := [(2, getQueue tHost 2), (3, { getQueue tHost 3 with tail })] }

theorem wit_CompletionRecord_1 :
    ∃ s : State, ∃ q, ∃ c, ∃ rest, ∃ cq, ∃ x, ∃ tail, (queueCmds s q = c :: rest) ∧ (c.phase = 2) ∧
    (cq = qCq (getQueue s q)) ∧ (recordOpen s cq = true) ∧ (x = getQueue s cq) ∧ (tail = (x.tail + 1) % qSize x) :=
  ⟨crState 0 15, 2, crCmd 0, [{ crCmd 0 with slot := 1, ord := 5 }], 3, getQueue (crState 0 15) 3, 0,
    by decide +kernel, by decide +kernel, by decide +kernel, by decide +kernel, by decide +kernel,
    by decide +kernel⟩

end CompletionRecordW

/-! ### Doorbells -/

namespace DoorbellsW

theorem wit_Doorbells_1 :
    ∃ s : State, ∃ q, ∃ x, ∃ v : BitVec 16, (hostOpen s = true) ∧ (x = getQueue s q) ∧ (qEnabled x = true) ∧
    (x.state ≠ 4) ∧ (v.toNat < qSize x) ∧ (qSubmits q x = true) :=
  ⟨tHost, 2, getQueue tHost 2, 15, by decide +kernel, by decide +kernel, by decide +kernel, by decide +kernel,
    by decide +kernel, by decide +kernel⟩

theorem wit_Doorbells_2 :
    ∃ s : State, ∃ q, ∃ x, ∃ v : BitVec 16, (hostOpen s = true) ∧ (x = getQueue s q) ∧ (qEnabled x = true) ∧
    (x.state ≠ 4) ∧ (v.toNat < qSize x) ∧ (qSubmits q x = false) :=
  ⟨tHost, 3, getQueue tHost 3, 15, by decide +kernel, by decide +kernel, by decide +kernel, by decide +kernel,
    by decide +kernel, by decide +kernel⟩

theorem wit_Doorbells_3 :
    ∃ s : State, ∃ q, ∃ x, (hostOpen s = true) ∧ (x = getQueue s q) ∧ (qEnabled x = false) :=
  ⟨tHost, 9, {}, by decide +kernel, by decide +kernel, by decide +kernel⟩

end DoorbellsW

/-! ### QueuesHold -/

namespace QueuesHoldW

def qsState (x : Queue) : State := { tHost with queues := [(2, x), (3, getQueue tHost 3)] }
def qsOff : Queue := { base := 0x10000#64, cfg := tQ 0 4 3 1 2 &&& 0x7FFFFFFFFFFFFFFF#64, head := 3, tail := 4, signalled := true }

theorem wit_QueueStates_1 :
    ∃ s : State, ∃ q, ∃ x, ∃ v : W64, ∃ y : Queue, (x = getQueue s q) ∧ (q < 16384) ∧ (hostOpen s = true) ∧
    (rbit v 63 = true) ∧ (qEnabled x = false) ∧ (y = { x with cfg := qCfgHeld q v }) :=
  ⟨qsState qsOff, 2, qsOff, tQ 0 16 3 1 9, { qsOff with cfg := qCfgHeld 2 (tQ 0 16 3 1 9) }, by decide +kernel,
    by decide +kernel, by decide +kernel, by decide +kernel, by decide +kernel, by decide +kernel⟩

theorem wit_QueueStates_2 :
    ∃ s : State, ∃ q, ∃ x, ∃ v : W64, (x = getQueue s q) ∧ (q < 16384) ∧ (hostOpen s = true) ∧ (rbit v 63 = false) ∧
    (qEnabled x = true) ∧ (rset x.cfg 63 63 0 = qCfgHeld q v) ∧ (qSubmits q x = true ∨ cqNamed s q = false) :=
  ⟨tHost, 2, getQueue tHost 2, tQ 0 4 3 1 2 &&& 0x7FFFFFFFFFFFFFFF#64, by decide +kernel, by decide +kernel,
    by decide +kernel, by decide +kernel, by decide +kernel, by decide +kernel, by decide +kernel⟩

theorem wit_QueueStates_3 :
    ∃ s : State, ∃ q, ∃ x, (x = getQueue s q) ∧ (q < 16384) ∧ (x.state = 4) ∧ (queueCmds s q = []) :=
  ⟨qsState { getQueue tHost 2 with state := 4 }, 2, { getQueue tHost 2 with state := 4 }, by decide +kernel,
    by decide +kernel, by decide +kernel, by decide +kernel⟩

theorem wit_QueueStates_4 :
    ∃ s : State, ∃ q, ∃ x, ∃ v : W64, (x = getQueue s q) ∧ (q < 16384) ∧ (hostOpen s = true) ∧ (rbit v 0 = true) ∧
    (x.state = 2) :=
  ⟨qsState { getQueue tHost 2 with state := 2 }, 2, { getQueue tHost 2 with state := 2 }, 1, by decide +kernel,
    by decide +kernel, by decide +kernel, by decide +kernel, by decide +kernel⟩

theorem wit_QueueStates_5 :
    ∃ s : State, ∃ q, ∃ x, (x = getQueue s q) ∧ (q < 16384) ∧ (x.state = 3) ∧ (∀ c ∈ queueCmds s q, x.failAt ≤ c.ord) :=
  ⟨{ qsState { getQueue tHost 2 with state := 3, failAt := 3 } with cmds := [{ slot := 1, ord := 3, queue := 2, packet := [] }] },
    2, { getQueue tHost 2 with state := 3, failAt := 3 }, by decide +kernel, by decide +kernel, by decide +kernel,
    by decide +kernel⟩

def hbState : State := { tHost with queues := [(3, { getQueue tHost 3 with head := 0 })] }

theorem wit_HostBackpressure_1 :
    ∃ s : State, (fetchHeld s = true) :=
  ⟨hbState, by decide +kernel⟩

end QueuesHoldW

/-! ### MemoryCommands -/

namespace MemoryCommandsW

def mcState (op p0 p1 p2 : Nat) : State := tCmdState (tCmd op p0 p1 p2)
theorem mc_write (s : State) (k : Nat) (hc : s.mem.cow = none) (hs : s.mem.slices = []) (hr : refuse s .all 1 (k * 4096) = none) :
    ∀ i, i < 1 → refuse s .all 1 ((k + i) * 4096) = none ∧ Plain s.mem (k + i) := fun i hi => by
  obtain rfl : i = 0 := by omega
  exact ⟨hr, plain_free _ _ hc hs⟩

theorem wit_MemoryCommands_1 :
    ∃ s : State, ∃ slot, ∃ c, ∃ part, ∃ k, ∃ n, ∃ crates, ∃ data : List Byte,
    (part = (getCtx s (Pkt.ctx c.packet)).part) ∧ (k = Pkt.p1 c.packet % 2 ^ 49 / 4096) ∧
    (n = pktCrates c.packet) ∧ (c.aux = 0) ∧ (c.found = 0) ∧ (Writable s.mem) ∧ (∀ i,
    i < n → refuse s .all part ((k + i) * 4096) = none ∧ Plain s.mem (k + i)) ∧ (IsBegun s slot 0x0101 c) ∧
    (n ≤ crates) ∧ (n * 4096 ≤ data.length) ∧ (Word.bitOf (Pkt.p2 c.packet) 32 = false) :=
  ⟨mcState 0x101 0x40000 (5 * 2 ^ 56 + 0x6000) 0, 3, tCmd 0x101 0x40000 (5 * 2 ^ 56 + 0x6000) 0, 1, 6, 1, 1,
    List.replicate 4096 0#8, by decide +kernel, by decide +kernel, by decide +kernel, by decide +kernel,
    by decide +kernel, (⟨by decide +kernel, List.Pairwise.nil⟩), (mc_write _ 6 rfl rfl (by decide +kernel)),
    ⟨by decide +kernel, by decide +kernel, by decide +kernel⟩, by decide +kernel, (by simp), by decide +kernel⟩

theorem wit_MemoryCommands_2 :
    ∃ s : State, ∃ slot, ∃ c, ∃ part, ∃ k, ∃ n, ∃ crates, ∃ data : List Byte,
    (part = (getCtx s (Pkt.ctx c.packet)).part) ∧ (k = Pkt.p1 c.packet % 2 ^ 49 / 4096) ∧
    (n = pktCrates c.packet) ∧ (c.aux = 0) ∧ (c.found = 0) ∧ (Writable s.mem) ∧ (∀ i,
    i < n → refuse s .all part ((k + i) * 4096) = none ∧ Plain s.mem (k + i)) ∧ (IsBegun s slot 0x0101 c) ∧
    (n ≤ crates) ∧ (n * 4096 ≤ data.length) ∧ (Word.bitOf (Pkt.p2 c.packet) 32 = true) ∧ (∀ i,
    i < n → Tag.check (Tag.ofBytes ((data.drop (n * 4096 + 16 * i)).take 16)) = Crc.crc64 ((data.drop (i * 4096)).take 4096)) :=
  ⟨mcState 0x101 0x40000 (5 * 2 ^ 56 + 0x6000) (2 ^ 32), 3, tCmd 0x101 0x40000 (5 * 2 ^ 56 + 0x6000) (2 ^ 32), 1, 6,
    1, 1, List.replicate 4096 0#8 ++ Tag.bytes (Tag.poison (tTag 5)), by decide +kernel, by decide +kernel,
    by decide +kernel, by decide +kernel, by decide +kernel, (⟨by decide +kernel, List.Pairwise.nil⟩),
    (mc_write _ 6 rfl rfl (by decide +kernel)), ⟨by decide +kernel, by decide +kernel, by decide +kernel⟩,
    by decide +kernel, (by simp), by decide +kernel, (fun i hi => by
      obtain rfl : i = 0 := by omega
      rw [show List.take 4096 (List.drop (0 * 4096) (List.replicate 4096 0#8 ++ Tag.bytes (Tag.poison (tTag 5)))) = List.replicate 4096 0#8 by decide +kernel,
    crc64_zeros]
      decide +kernel)⟩

theorem wit_MemoryCommands_3 :
    ∃ s : State, ∃ slot, ∃ c, ∃ part, ∃ k, ∃ n, ∃ crates, ∃ a, (part = (getCtx s (Pkt.ctx c.packet)).part) ∧
    (k = Pkt.p1 c.packet % 2 ^ 49 / 4096) ∧ (n = pktCrates c.packet) ∧ (c.aux = 0) ∧ (c.found = 0) ∧
    (Writable s.mem) ∧ (∀ i, i < n → refuse s .all part ((k + i) * 4096) = none ∧ Plain s.mem (k + i)) ∧
    (IsBegun s slot 0x0103 c) ∧ (n ≤ crates) ∧ (a = Pkt.p0 c.packet % 2 ^ 49 / 4096) ∧ (a + n ≤ k ∨ k + n ≤ a) ∧
    (∀ i, i < n → refuse s .all part ((a + i) * 4096) = none ∧ MoveOk s (a + i)) :=
  ⟨mcState 0x103 0x8000 0x6000 0, 3, tCmd 0x103 0x8000 0x6000 0, 1, 6, 1, 1, 8, by decide +kernel, by decide +kernel,
    by decide +kernel, by decide +kernel, by decide +kernel, (⟨by decide +kernel, List.Pairwise.nil⟩),
    (mc_write _ 6 rfl rfl (by decide +kernel)), ⟨by decide +kernel, by decide +kernel, by decide +kernel⟩,
    by decide +kernel, by decide +kernel, by decide +kernel, (fun i hi => by
      obtain rfl : i = 0 := by omega
      exact ⟨by decide +kernel, (crateOk_unwritten _ _ rfl rfl rfl rfl rfl).move⟩)⟩

theorem wit_MemoryCommands_4 :
    ∃ s : State, ∃ slot, ∃ c, ∃ part, ∃ k, ∃ n, ∃ crates, (part = (getCtx s (Pkt.ctx c.packet)).part) ∧
    (k = Pkt.p1 c.packet % 2 ^ 49 / 4096) ∧ (n = pktCrates c.packet) ∧ (c.aux = 0) ∧ (c.found = 0) ∧
    (Writable s.mem) ∧ (∀ i, i < n → refuse s .all part ((k + i) * 4096) = none ∧ Plain s.mem (k + i)) ∧
    (IsBegun s slot 0x0104 c) ∧ (n ≤ crates) :=
  ⟨mcState 0x104 0 0x6000 0, 3, tCmd 0x104 0 0x6000 0, 1, 6, 1, 1, by decide +kernel, by decide +kernel,
    by decide +kernel, by decide +kernel, by decide +kernel, (⟨by decide +kernel, List.Pairwise.nil⟩),
    (mc_write _ 6 rfl rfl (by decide +kernel)), ⟨by decide +kernel, by decide +kernel, by decide +kernel⟩,
    by decide +kernel⟩

theorem wit_MemoryCommands_5 :
    ∃ s : State, ∃ slot, ∃ c, ∃ part, ∃ k, ∃ n, ∃ crates, (part = (getCtx s (Pkt.ctx c.packet)).part) ∧
    (k = Pkt.p1 c.packet % 2 ^ 49 / 4096) ∧ (n = pktCrates c.packet) ∧ (c.aux = 0) ∧ (c.found = 0) ∧
    (Writable s.mem) ∧ (∀ i, i < n → refuse s .all part ((k + i) * 4096) = none ∧ Plain s.mem (k + i)) ∧
    (IsBegun s slot 0x0105 c) ∧ (n ≤ crates) ∧ (∀ i, i < n → (k + i) ∉ s.mem.opened ∧ ∀ x ∈ s.mem.bad,
    x / 64 ≠ k + i) :=
  ⟨mcState 0x105 0 (2 ^ 56 + 0x6000) 0, 3, tCmd 0x105 0 (2 ^ 56 + 0x6000) 0, 1, 6, 1, 1, by decide +kernel,
    by decide +kernel, by decide +kernel, by decide +kernel, by decide +kernel, (⟨by decide +kernel,
    List.Pairwise.nil⟩), (mc_write _ 6 rfl rfl (by decide +kernel)), ⟨by decide +kernel, by decide +kernel,
    by decide +kernel⟩, by decide +kernel, (fun i _ => by simp [mcState, tCmdState, tState])⟩

end MemoryCommandsW

/-! ### MemoryRead -/

namespace MemoryReadW

def mrCmd (p2 : Nat) : Cmd := tCmd 0x102 0x40000 0x6000 p2
def mrState (p2 : Nat) : State := { tCmdState (mrCmd p2) with pcie := { linkUp := true }, hostMem := [(0x3FFFF, 5), (0x40003, 9), (0x42021, 8)] }

theorem wit_MemoryRead_1 :
    ∃ s : State, ∃ slot, ∃ c, ∃ part, ∃ k, ∃ n, ∃ crates, ∃ a, (IsBegun s slot 0x0102 c) ∧
    (part = (getCtx s (Pkt.ctx c.packet)).part) ∧ (k = Pkt.p1 c.packet % 2 ^ 49 / 4096) ∧
    (n = pktCrates c.packet) ∧ (c.aux = 0) ∧ (c.found = 0) ∧ (n ≤ crates) ∧ (a = Pkt.p0 c.packet) ∧
    (s.pcie.linkUp = true) ∧ (cellsWf s.hostMem = true) ∧ (∀ i,
    i < n → refuse s .all part ((k + i) * 4096) = none ∧ CrateOk s (k + i)) :=
  ⟨mrState 0, 3, mrCmd 0, 1, 6, 1, 1, 0x40000, ⟨by decide +kernel, by decide +kernel, by decide +kernel⟩,
    by decide +kernel, by decide +kernel, by decide +kernel, by decide +kernel, by decide +kernel,
    by decide +kernel, by decide +kernel, by decide +kernel, by decide +kernel, (fun i hi => by
      obtain rfl : i = 0 := by omega
      exact ⟨by decide +kernel, crateOk_unwritten _ _ rfl rfl rfl rfl rfl⟩)⟩

end MemoryReadW

/-! ### SlicesAndTallies -/

namespace SlicesAndTalliesW

def smCmd : Cmd := tCmd 0x106 1 0x80000001 0
def smState : State :=
  { tCmdState smCmd with mem := { slices := [(3, { cache := true }), (32, { cache := true }), (33, { cache := true }), (63, {})], tags := [(0x10000000 - 5, tTag 5)] } }

theorem wit_SliceMode_1 :
    ∃ s : State, ∃ slot, ∃ c, ∃ die, ∃ mask, (IsBegun s slot 0x0106 c) ∧ (die = Pkt.p0 c.packet % 8) ∧
    (mask = Pkt.p1 c.packet % 2 ^ 32) ∧ (die ∈ (getPart s (cmdPart s c)).dies) ∧ (sliceKept s die mask = false) :=
  ⟨smState, 3, smCmd, 1, 0x80000001, ⟨by decide +kernel, by decide +kernel, by decide +kernel⟩, by decide +kernel,
    by decide +kernel, by decide +kernel, by decide +kernel⟩

def tcState (op p0 p1 : Nat) : State := { tCmdState (tCmd op p0 p1 0) with tallies := [(7, tallyW 3 5), (63, tallyW 0xFFFF 6), (64, tallyW 0 1)] }

theorem wit_TallyCommands_1 :
    ∃ s : State, ∃ slot, ∃ c, ∃ k, (k = Pkt.p0 c.packet % 2 ^ 16) ∧ (IsBegun s slot 0x0300 c) :=
  ⟨tcState 0x300 0 0, 3, tCmd 0x300 0 0 0, 0, by decide +kernel, ⟨by decide +kernel, by decide +kernel,
    by decide +kernel⟩⟩

theorem wit_TallyCommands_2 :
    ∃ s : State, ∃ slot, ∃ c, ∃ k, (k = Pkt.p0 c.packet % 2 ^ 16) ∧ (IsBegun s slot 0x0301 c) ∧
    (tallyOk s (Pkt.ctx c.packet) k = true) :=
  ⟨tcState 0x301 7 (2 ^ 48 - 5), 3, tCmd 0x301 7 (2 ^ 48 - 5) 0, 7, by decide +kernel, ⟨by decide +kernel,
    by decide +kernel, by decide +kernel⟩, by decide +kernel⟩

theorem wit_TallyCommands_3 :
    ∃ s : State, ∃ slot, ∃ c, ∃ k, (k = Pkt.p0 c.packet % 2 ^ 16) ∧ (IsBegun s slot 0x0302 c) ∧
    (tallyOk s (Pkt.ctx c.packet) k = true) :=
  ⟨tcState 0x302 7 0, 3, tCmd 0x302 7 0 0, 7, by decide +kernel, ⟨by decide +kernel, by decide +kernel,
    by decide +kernel⟩, by decide +kernel⟩

theorem wit_TallyCommands_4 :
    ∃ s : State, ∃ slot, ∃ c, ∃ k, ∃ n, (k = Pkt.p0 c.packet % 2 ^ 16) ∧ (IsBegun s slot 0x0303 c) ∧
    (n = Pkt.p1 c.packet % 2 ^ 17) ∧ (tallyOk s (Pkt.ctx c.packet) k = true) ∧
    (tallyOk s (Pkt.ctx c.packet) (k + n - 1) = true) ∧ (ctxQuiet s (Pkt.ctx c.packet) = true) :=
  ⟨tcState 0x303 62 2, 3, tCmd 0x303 62 2 0, 62, 2, by decide +kernel, ⟨by decide +kernel, by decide +kernel,
    by decide +kernel⟩, by decide +kernel, by decide +kernel, by decide +kernel, by decide +kernel⟩

theorem wit_TallyCommands_5 :
    ∃ s : State, ∃ slot, ∃ c, ∃ k, ∃ op, ∃ cmd : Instr, (k = Pkt.p0 c.packet % 2 ^ 16) ∧ (op = 0x0301 ∧
    cmd = .tallyAdd slot ∨ op = 0x0302 ∧ cmd = .tallyRead slot) ∧ (IsBegun s slot op c) ∧
    (tallyOk s (Pkt.ctx c.packet) k = false) ∧ (∀ d ∈ queueCmds s c.queue, d.ord ≤ c.ord) :=
  ⟨tcState 0x301 65 3, 3, tCmd 0x301 65 3 0, 65, 0x301, .tallyAdd 3, by decide +kernel, (.inl ⟨rfl, rfl⟩),
    ⟨by decide +kernel, by decide +kernel, by decide +kernel⟩, by decide +kernel, by decide +kernel⟩

theorem wit_TallyCommands_5b :
    ∃ s : State, ∃ slot, ∃ c, ∃ k, ∃ op, ∃ cmd : Instr, (k = Pkt.p0 c.packet % 2 ^ 16) ∧ (op = 0x0301 ∧
    cmd = .tallyAdd slot ∨ op = 0x0302 ∧ cmd = .tallyRead slot) ∧ (IsBegun s slot op c) ∧
    (tallyOk s (Pkt.ctx c.packet) k = false) ∧ (∀ d ∈ queueCmds s c.queue, d.ord ≤ c.ord) :=
  ⟨tcState 0x302 65535 0, 3, tCmd 0x302 65535 0 0, 65535, 0x302, .tallyRead 3, by decide +kernel, (.inr ⟨rfl, rfl⟩),
    ⟨by decide +kernel, by decide +kernel, by decide +kernel⟩, by decide +kernel, by decide +kernel⟩

end SlicesAndTalliesW

/-! ### Aperture -/

namespace ApertureW

def apState : State :=
  { tHost with pcie := { tHost.pcie with aperWin := [(2, BitVec.ofNat 64 (2 ^ 63 + 2 ^ 56)), (5, BitVec.ofNat 64 (2 ^ 63 + 2 ^ 56 + 0x1F * 2 ^ 32))] }
               mem := { cells := [(5, 1), (0x6003, 3), (0x6008, 9)] } }

theorem wit_Aperture_1 :
    ∃ s : State, ∃ i, ∃ v : W64, (hostOpen s = true) ∧ (i < 16) ∧ (rbit v 63 = true) ∧ (rbit (aperWin s i) 63 = false) :=
  ⟨apState, 15, 0x8200000100000000#64, by decide +kernel, by decide +kernel, by decide +kernel, by decide +kernel⟩

theorem wit_Aperture_2 :
    ∃ s : State, ∃ x, ∃ n, ∃ a, ∃ w, (hostOpen s = true) ∧ (w = aperWin s (x / 2 ^ 32)) ∧ (rbit w 63 = true) ∧
    (a = aperOffset s x) ∧
    (refuseRange s .tiers (rbits w 58 56) (a / 4096) ((a + n + 4095) / 4096 - a / 4096) = none) ∧ (∀ y ∈ s.mem.bad,
    y / 64 ≠ a / 4096) ∧ (cacheHome s.mem (a / 4096) = none) :=
  ⟨apState, 2 * 2 ^ 32 + 0x6002, 8, 0x6002, BitVec.ofNat 64 (2 ^ 63 + 2 ^ 56), by decide +kernel, by decide +kernel,
    by decide +kernel, by decide +kernel, by decide +kernel, by decide +kernel, (cacheHome_scratch _ _ rfl)⟩

theorem wit_Aperture_3 :
    ∃ s : State, ∃ x, ∃ data : List Byte, ∃ a, ∃ w, (hostOpen s = true) ∧ (w = aperWin s (x / 2 ^ 32)) ∧
    (rbit w 63 = true) ∧ (a = aperOffset s x) ∧
    (refuseRange s .tiers (rbits w 58 56) (a / 4096) ((a + data.length + 4095) / 4096 - a / 4096) = none) ∧
    (s.mem.bad = []) ∧ (Plain s.mem (a / 4096)) ∧ (Memory.wf s.mem = true) :=
  ⟨apState, 2 * 2 ^ 32 + 0x6002, [0, 7, 9, 0], 0x6002, BitVec.ofNat 64 (2 ^ 63 + 2 ^ 56), by decide +kernel,
    by decide +kernel, by decide +kernel, by decide +kernel, by decide +kernel, by decide +kernel,
    plain_free _ _ rfl rfl, by decide +kernel⟩

end ApertureW

/-! ### EventsReachRings -/

namespace EventsReachRingsW

def erEvent (p k : Nat) : Event := { kind := k, reason := 0xE1, prio := p, time := 50#64, body := Word.toLe 8 50 }
def erState : State :=
  { tHost with events := { tHost.events with
      rings := [(2, { cfg := 0x8400000000000000#64, head := 3, tail := 15, nextSeq := 0xFFFF, pend := [erEvent 3 1, erEvent 9 2, erEvent 9 1] }),
                (9, { cfg := 0x8400000000010000#64, base := 0x70000#64, head := 3, tail := 4, armed := true, pend := [erEvent 3 1] })]
      procs := [(2, { stack := 2 ^ 4, fresh := [2, 7, 5], asserted := true }), (3, { fresh := [3] })] } }

theorem wit_EventRecords_1 :
    ∃ s : State, ∃ n, ∃ r, ∃ e, ∃ rest, (n < 64) ∧ (r = getRing s n) ∧ (ringEnabled r = true) ∧
    (ringBlocked s n = false) ∧ (selectEvent (fun e => !eventHeld s n e) r.pend = some (e, rest)) :=
  ⟨erState, 2, getRing erState 2, erEvent 9 2, [erEvent 3 1, erEvent 9 1], by decide +kernel, by decide +kernel,
    by decide +kernel, by decide +kernel, by decide +kernel⟩

theorem wit_EventRecords_2 :
    ∃ s : State, ∃ q, ∃ x, ∃ p, (q < 9) ∧ (x = getProc s q) ∧ (x.asserted = true) ∧
    (p = (x.fresh.filter x.below).foldl max 0) :=
  ⟨erState, 2, getProc erState 2, 7, by decide +kernel, by decide +kernel, by decide +kernel, by decide +kernel⟩

theorem wit_EventRecords_3 :
    ∃ s : State, ∃ q, ∃ x, ∃ v : W64, (q < 9) ∧ (x = getProc s q) ∧ (rbit v 0 = true) :=
  ⟨erState, 2, getProc erState 2, 1, by decide +kernel, by decide +kernel, by decide +kernel⟩

def hrState : State :=
  { tHost with events := { tHost.events with
      rings := [(9, { cfg := 0x0400000000010000#64, base := 0x70000#64, head := 3, tail := 4 }),
                (63, { cfg := 0x8400000000010000#64, base := 0x80000#64, head := 15, tail := 3, overflow := true, lost := 2 ^ 32 - 2
                       pend := [{ kind := 1, reason := 0, prio := 3, time := 0#64, body := [] }, { kind := 2, reason := 0, prio := 3, time := 0#64, body := [] }] })] } }

theorem wit_HostRings_1 :
    ∃ s : State, ∃ n, ∃ r, ∃ v : W64, (hostOpen s = true) ∧ (9 ≤ n) ∧ (n < 64) ∧ (r = getRing s n) ∧
    (rbit v 63 = true) ∧ (ringEnabled r = false) :=
  ⟨hrState, 9, getRing hrState 9, 0x8400000000010000, by decide +kernel, by decide +kernel, by decide +kernel,
    by decide +kernel, by decide +kernel, by decide +kernel⟩

theorem wit_HostRings_2 :
    ∃ s : State, ∃ n, ∃ r, ∃ v : W64, (hostOpen s = true) ∧ (9 ≤ n) ∧ (n < 64) ∧ (r = getRing s n) ∧
    (rbit v 63 = false) ∧ (ringEnabled r = true) ∧ (rset r.cfg 63 63 0 = rset (v &&& ringMask) 63 63 0) :=
  ⟨hrState, 63, getRing hrState 63, 0x0400000000010000, by decide +kernel, by decide +kernel, by decide +kernel,
    by decide +kernel, by decide +kernel, by decide +kernel, by decide +kernel⟩

theorem wit_HostRings_3 :
    ∃ s : State, ∃ n, ∃ r, ∃ v : BitVec 16, (hostOpen s = true) ∧ (9 ≤ n) ∧ (n < 64) ∧ (r = getRing s n) ∧
    (ringEnabled r = true) ∧ (v.toNat < ringSize r) ∧
    (v.toNat + ringSize r - r.head) % ringSize r ≤ (r.tail + ringSize r - r.head) % ringSize r :=
  ⟨hrState, 63, getRing hrState 63, 3, by decide +kernel, by decide +kernel, by decide +kernel, by decide +kernel,
    by decide +kernel, by decide +kernel, by decide +kernel⟩

theorem wit_HostRings_4 :
    ∃ s : State, ∃ n, ∃ r, ∃ v : W64, (hostOpen s = true) ∧ (9 ≤ n) ∧ (n < 64) ∧ (r = getRing s n) ∧ (rbit v 10 = true) :=
  ⟨hrState, 63, getRing hrState 63, 0x400, by decide +kernel, by decide +kernel, by decide +kernel,
    by decide +kernel, by decide +kernel⟩

end EventsReachRingsW

/-! ### Pins -/

namespace PinsW

def pinState (x : Pin) (p : Nat) : State :=
  { tHost with events := { tHost.events with pins := lset tHost.events.pins p x, rings := [(0, { cfg := 0x8400000000010000#64 }), (9, { cfg := 0x8400000000010000#64 })] } }

theorem wit_Pins_1 :
    ∃ s : State, ∃ p, ∃ level, ∃ x, (p < 8) ∧ (s.events.pins.length = 8) ∧ (x = getPin s p) ∧ (x.level ≠ level) ∧
    (s.boot.phase = 6) ∧ (pinQualifies (rbits x.cfg 49 48) level = false) :=
  ⟨pinState { cfg := 0x080100000000012C#64 } 7, 7, false, { cfg := 0x080100000000012C#64 }, by decide +kernel,
    by decide +kernel, by decide +kernel, by decide +kernel, by decide +kernel, by decide +kernel⟩

theorem wit_Pins_2 :
    ∃ s : State, ∃ p, ∃ level, ∃ x, (p < 8) ∧ (s.events.pins.length = 8) ∧ (x = getPin s p) ∧ (x.level ≠ level) ∧
    (s.boot.phase = 6) ∧ (pinQualifies (rbits x.cfg 49 48) level = true) ∧ (x.pending = true) :=
  ⟨pinState { pending := true, edges := 2 ^ 32 - 1, cfg := 0x080000000000012C#64 } 3, 3, false,
    { pending := true, edges := 2 ^ 32 - 1, cfg := 0x080000000000012C#64 }, by decide +kernel, by decide +kernel,
    by decide +kernel, by decide +kernel, by decide +kernel, by decide +kernel, by decide +kernel⟩

theorem wit_Pins_3 :
    ∃ s : State, ∃ p, ∃ level, ∃ x, (p < 8) ∧ (s.events.pins.length = 8) ∧ (x = getPin s p) ∧ (x.level ≠ level) ∧
    (s.boot.phase = 6) ∧ (pinQualifies (rbits x.cfg 49 48) level = true) ∧ (x.pending = false) :=
  ⟨pinState {} 0, 0, false, {}, by decide +kernel, by decide +kernel, by decide +kernel, by decide +kernel,
    by decide +kernel, by decide +kernel, by decide +kernel⟩

theorem wit_Pins_4 :
    ∃ s : State, (hostOpen s = true) :=
  ⟨pinState { pending := true, level := false, edges := 4 } 0, by decide +kernel⟩

end PinsW

/-! ### MapsAndGroups -/

namespace MapsAndGroupsW

def pmTable : List Byte := Word.toLe 4 0x4D505A4D ++ Word.toLe 2 1 ++ Word.toLe 2 1 ++ List.replicate 56 0#8
  ++ [4, 0, 0, 0, 5, 2, 4, 0, 0xFF, 1, 0, 0, 0xFF, 1, 0, 0]
def pmCmd : Cmd := tCmd 0x0401 0x6000 7 0
def pmState : State :=
  { tFab (tFrame 1) with cmds := [pmCmd], mem := { cells := mkCells 0x6000 pmTable, tags := [(6, Tag.mk 0x4c35e2a99f009e6b#64 6 0 0 1)] } }
def pmBytes : List Byte := crateBytes pmState.mem 6

theorem wit_PhaseMaps_1 :
    ∃ s : State, ∃ slot, ∃ c, ∃ n, ∃ a, ∃ part, ∃ k, ∃ b, (IsBegun s slot 0x0401 c) ∧ (n = Pkt.p1 c.packet % 16) ∧
    (a = pktOff0 c.packet) ∧ (part = (getCtx s (Pkt.ctx c.packet)).part) ∧
    (k = min 5 ((0x40 + 16 * leAt (crateBytes s.mem (a / 4096)) 6 2 + 4095) / 4096)) ∧
    (b = (List.range k).flatMap (fun i => crateBytes s.mem (a / 4096 + i))) ∧ (refuse s .all part a = none) ∧ (∀ i,
    i < k → refuse s .all part ((a / 4096 + i) * 4096) = none ∧ CrateOk s (a / 4096 + i)) ∧ (mapOk s b = true) ∧
    (getMap s n).loaded = false :=
  ⟨pmState, 3, pmCmd, 7, 0x6000, 1, 1, (List.range 1).flatMap (fun i => crateBytes pmState.mem (6 + i)),
    ⟨by decide +kernel, by decide +kernel, by decide +kernel⟩, by decide +kernel, by decide +kernel,
    by decide +kernel, by decide +kernel, by decide +kernel, by decide +kernel, (fun i hi => by
      obtain rfl : i = 0 := by omega
      exact ⟨by decide +kernel, crateOk_check _ _ rfl rfl (by decide +kernel) (by decide +kernel)⟩),
    by decide +kernel, by decide +kernel⟩

theorem wit_PhaseMaps_2 :
    ∃ s : State, ∃ slot, ∃ c, ∃ n, ∃ x, ∃ ctx, (IsBegun s slot 0x0402 c) ∧ (n = Pkt.p1 c.packet % 16) ∧
    (x = getMap s n) ∧ (ctx = Pkt.ctx c.packet) ∧ (collRunning s ctx = false) ∧ (x.loaded = true) ∧ (x.ctx = ctx) ∧
    (x.gen = Pkt.gen c.packet) ∧ (∀ e ∈ s.groups, grpEnabled e.2 = true → grpCtx e.2 = ctx → ∀ m,
    mapEntryOf x e.1 = some m → chunkSize s ctx (grpShare e.2) (groupMembers s m).length ≠ 0) :=
  ⟨{ tFab (tFrame 1) with cmds := [tCmd 0x0402 0 2 0] }, 3, tCmd 0x0402 0 2 0, 2,
    { loaded := true, active := true, ctx := 1, gen := 2, groups := [tMapGroup] }, 1, ⟨by decide +kernel,
    by decide +kernel, by decide +kernel⟩, by decide +kernel, by decide +kernel, by decide +kernel,
    by decide +kernel, by decide +kernel, by decide +kernel, by decide +kernel, (fun e he _ _ m hm => by
      simp only [tFab, List.mem_singleton] at he
      subst he
      obtain rfl : tMapGroup = m := by simpa [mapEntryOf, tMapGroup] using hm
      decide +kernel)⟩

theorem wit_PhaseMaps_3 :
    ∃ s : State, ∃ slot, ∃ c, ∃ n, ∃ x, ∃ ctx, (IsBegun s slot 0x0402 c) ∧ (n = Pkt.p1 c.packet % 16) ∧
    (x = getMap s n) ∧ (ctx = Pkt.ctx c.packet) ∧ (collRunning s ctx = false) ∧ (x.loaded = false) ∧
    (∀ d ∈ queueCmds s c.queue, d.ord ≤ c.ord) :=
  ⟨{ tFab (tFrame 1) with cmds := [tCmd 0x0402 0 15 0] }, 3, tCmd 0x0402 0 15 0, 15, {}, 1, ⟨by decide +kernel,
    by decide +kernel, by decide +kernel⟩, by decide +kernel, by decide +kernel, by decide +kernel,
    by decide +kernel, by decide +kernel, by decide +kernel⟩

def gcState : State := { tFab (tFrame 1) with groups := [(4, { tGroup with cfg := 0#64 }), (7, tGroup)], substs := [(3, { enable := true, logical := 30000, phys := 7 })] }

theorem wit_GroupControl_1 :
    ∃ s : State, ∃ g, ∃ v : W64, ∃ x, (hostOpen s = true) ∧ (g < 1024) ∧ (rbit v 63 = true) ∧ (x = getGroup s g) ∧
    (grpEnabled x = false) :=
  ⟨gcState, 4, 0x8001080000000000, { tGroup with cfg := 0#64 }, by decide +kernel, by decide +kernel,
    by decide +kernel, by decide +kernel, by decide +kernel⟩

theorem wit_GroupControl_2 :
    ∃ s : State, ∃ g, ∃ v : W64, ∃ x, (hostOpen s = true) ∧ (g < 1024) ∧ (rbit v 63 = false) ∧ (x = getGroup s g) ∧
    (grpEnabled x = true) :=
  ⟨gcState, 7, 0x0000080000000000, tGroup, by decide +kernel, by decide +kernel, by decide +kernel,
    by decide +kernel, by decide +kernel⟩

theorem wit_GroupControl_3 :
    ∃ s : State, ∃ i, ∃ v : W64, ∃ x, ∃ lg, ∃ ph, (hostOpen s = true) ∧ (i < 256) ∧ (rbit v 63 = true) ∧
    (x = tget {} s.substs i) ∧ (x.enable = false) ∧ (lg = rbits v 46 32) ∧ (ph = rbits v 14 0) :=
  ⟨gcState, 255, 0x8000000500000009, {}, 5, 9, by decide +kernel, by decide +kernel, by decide +kernel,
    by decide +kernel, by decide +kernel, by decide +kernel, by decide +kernel⟩

end MapsAndGroupsW

/-! ### CollectivesBegin -/

namespace CollectivesBeginW

def cbgCmd (op p2 : Nat) : Cmd := { tCmd op 0x6000 0x10000 p2 with queue := 15364 }
def cbgState (op p2 : Nat) : State := { tFab (tFrame 1) with cmds := [cbgCmd op p2] }
def cbgRun (op p2 : Nat) : CollRun :=
  { slot := 3, op := op, red := if op = 0x0410 ∨ op = 0x0411 then p2 / 2 ^ 24 % 4 else 0, crates := p2 % 2 ^ 24 + 1
    root := if op = 0x0413 then p2 / 2 ^ 32 % 1024 else 0, p0 := 0x6000, p1 := 0x10000, count := 6, members := [5, 9], ordinal := 0, nx := 2
    blocks := 1, chunkC := 128, mapCheck := 0x1234
    opCheck := opCheckOf op (if op = 0x0410 ∨ op = 0x0411 then p2 / 2 ^ 24 % 4 else 0) (p2 % 2 ^ 24 + 1)
      (if op = 0x0413 then p2 / 2 ^ 32 % 1024 else 0) }

theorem wit_CollectivesBegin_1 :
    ∃ s : State, ∃ slot, ∃ c, ∃ op, ∃ cmd : Instr, ∃ g, ∃ x, ∃ mapN, ∃ m, ∃ r, (op = 0x0410 ∧
    cmd = .allReduce slot ∨ op = 0x0411 ∧ cmd = .reduceScatter slot ∨ op = 0x0412 ∧
    cmd = .allGather slot ∨ op = 0x0413 ∧ cmd = .broadcast slot) ∧ (IsBegun s slot op c) ∧ (g = c.queue - 15360) ∧
    (x = getGroup s g) ∧ (x.run = none) ∧ (∀ d ∈ queueCmds s c.queue, d.ord < c.ord → d.phase = 2) ∧
    (activeMap s (grpCtx x) = some mapN) ∧ (mapEntryOf (getMap s mapN) g = some m) ∧ (s.fab.chip ≠ none) ∧
    (r = { slot, op, red := if op = 0x0410 ∨ op = 0x0411 then Pkt.p2 c.packet / 2 ^ 24 % 4 else 0, crates := Pkt.p2 c.packet % 2 ^ 24 + 1, root := if op = 0x0413 then Pkt.p2 c.packet / 2 ^ 32 % 1024 else 0, p0 := pktOff0 c.packet, p1 := pktOff1 c.packet, count := x.count, members := (groupMembers s m).map (physOf s), ordinal := (ownOrdinal s m).getD 0, nx := (m.x.coords 0).length, blocks := ((groupMembers s m).map (physOf s)).length / (m.x.coords 0).length, chunkC := chunkSize s (grpCtx x) (grpShare x) ((groupMembers s m).map (physOf s)).length, mapCheck := m.check, opCheck := opCheckOf op (if op = 0x0410 ∨ op = 0x0411 then Pkt.p2 c.packet / 2 ^ 24 % 4 else 0) (Pkt.p2 c.packet % 2 ^ 24 + 1) (if op = 0x0413 then Pkt.p2 c.packet / 2 ^ 32 % 1024 else 0) : CollRun }) ∧
    (r.chunkC ≠ 0) ∧ (collRefusal s r (getCtx s (grpCtx x)).part = none) ∧ (x.pendingBell = none) ∧
    (∀ y ∈ x.grants, y.count = r.count → y.mapCheck = r.mapCheck ∧ y.opCheck = r.opCheck) :=
  ⟨cbgState 0x410 0x2000001, 3, cbgCmd 0x410 0x2000001, 0x410, .allReduce 3, 4, tGroup, 2, tMapGroup,
    cbgRun 0x410 0x2000001, (.inl ⟨rfl, rfl⟩), ⟨by decide +kernel, by decide +kernel, by decide +kernel⟩,
    by decide +kernel, by decide +kernel, by decide +kernel, by decide +kernel, by decide +kernel,
    by decide +kernel, by decide +kernel, by decide +kernel, by decide +kernel, by decide +kernel,
    by decide +kernel, by decide +kernel⟩

theorem wit_CollectivesBegin_1b :
    ∃ s : State, ∃ slot, ∃ c, ∃ op, ∃ cmd : Instr, ∃ g, ∃ x, ∃ mapN, ∃ m, ∃ r, (op = 0x0410 ∧
    cmd = .allReduce slot ∨ op = 0x0411 ∧ cmd = .reduceScatter slot ∨ op = 0x0412 ∧
    cmd = .allGather slot ∨ op = 0x0413 ∧ cmd = .broadcast slot) ∧ (IsBegun s slot op c) ∧ (g = c.queue - 15360) ∧
    (x = getGroup s g) ∧ (x.run = none) ∧ (∀ d ∈ queueCmds s c.queue, d.ord < c.ord → d.phase = 2) ∧
    (activeMap s (grpCtx x) = some mapN) ∧ (mapEntryOf (getMap s mapN) g = some m) ∧ (s.fab.chip ≠ none) ∧
    (r = { slot, op, red := if op = 0x0410 ∨ op = 0x0411 then Pkt.p2 c.packet / 2 ^ 24 % 4 else 0, crates := Pkt.p2 c.packet % 2 ^ 24 + 1, root := if op = 0x0413 then Pkt.p2 c.packet / 2 ^ 32 % 1024 else 0, p0 := pktOff0 c.packet, p1 := pktOff1 c.packet, count := x.count, members := (groupMembers s m).map (physOf s), ordinal := (ownOrdinal s m).getD 0, nx := (m.x.coords 0).length, blocks := ((groupMembers s m).map (physOf s)).length / (m.x.coords 0).length, chunkC := chunkSize s (grpCtx x) (grpShare x) ((groupMembers s m).map (physOf s)).length, mapCheck := m.check, opCheck := opCheckOf op (if op = 0x0410 ∨ op = 0x0411 then Pkt.p2 c.packet / 2 ^ 24 % 4 else 0) (Pkt.p2 c.packet % 2 ^ 24 + 1) (if op = 0x0413 then Pkt.p2 c.packet / 2 ^ 32 % 1024 else 0) : CollRun }) ∧
    (r.chunkC ≠ 0) ∧ (collRefusal s r (getCtx s (grpCtx x)).part = none) ∧ (x.pendingBell = none) ∧
    (∀ y ∈ x.grants, y.count = r.count → y.mapCheck = r.mapCheck ∧ y.opCheck = r.opCheck) :=
  ⟨cbgState 0x411 1, 3, cbgCmd 0x411 1, 0x411, .reduceScatter 3, 4, tGroup, 2, tMapGroup, cbgRun 0x411 1,
    (.inr (.inl ⟨rfl, rfl⟩)), ⟨by decide +kernel, by decide +kernel, by decide +kernel⟩, by decide +kernel,
    by decide +kernel, by decide +kernel, by decide +kernel, by decide +kernel, by decide +kernel,
    by decide +kernel, by decide +kernel, by decide +kernel, by decide +kernel, by decide +kernel,
    by decide +kernel⟩

theorem wit_CollectivesBegin_1c :
    ∃ s : State, ∃ slot, ∃ c, ∃ op, ∃ cmd : Instr, ∃ g, ∃ x, ∃ mapN, ∃ m, ∃ r, (op = 0x0410 ∧
    cmd = .allReduce slot ∨ op = 0x0411 ∧ cmd = .reduceScatter slot ∨ op = 0x0412 ∧
    cmd = .allGather slot ∨ op = 0x0413 ∧ cmd = .broadcast slot) ∧ (IsBegun s slot op c) ∧ (g = c.queue - 15360) ∧
    (x = getGroup s g) ∧ (x.run = none) ∧ (∀ d ∈ queueCmds s c.queue, d.ord < c.ord → d.phase = 2) ∧
    (activeMap s (grpCtx x) = some mapN) ∧ (mapEntryOf (getMap s mapN) g = some m) ∧ (s.fab.chip ≠ none) ∧
    (r = { slot, op, red := if op = 0x0410 ∨ op = 0x0411 then Pkt.p2 c.packet / 2 ^ 24 % 4 else 0, crates := Pkt.p2 c.packet % 2 ^ 24 + 1, root := if op = 0x0413 then Pkt.p2 c.packet / 2 ^ 32 % 1024 else 0, p0 := pktOff0 c.packet, p1 := pktOff1 c.packet, count := x.count, members := (groupMembers s m).map (physOf s), ordinal := (ownOrdinal s m).getD 0, nx := (m.x.coords 0).length, blocks := ((groupMembers s m).map (physOf s)).length / (m.x.coords 0).length, chunkC := chunkSize s (grpCtx x) (grpShare x) ((groupMembers s m).map (physOf s)).length, mapCheck := m.check, opCheck := opCheckOf op (if op = 0x0410 ∨ op = 0x0411 then Pkt.p2 c.packet / 2 ^ 24 % 4 else 0) (Pkt.p2 c.packet % 2 ^ 24 + 1) (if op = 0x0413 then Pkt.p2 c.packet / 2 ^ 32 % 1024 else 0) : CollRun }) ∧
    (r.chunkC ≠ 0) ∧ (collRefusal s r (getCtx s (grpCtx x)).part = none) ∧ (x.pendingBell = none) ∧
    (∀ y ∈ x.grants, y.count = r.count → y.mapCheck = r.mapCheck ∧ y.opCheck = r.opCheck) :=
  ⟨cbgState 0x412 0, 3, cbgCmd 0x412 0, 0x412, .allGather 3, 4, tGroup, 2, tMapGroup, cbgRun 0x412 0,
    (.inr (.inr (.inl ⟨rfl, rfl⟩))), ⟨by decide +kernel, by decide +kernel, by decide +kernel⟩, by decide +kernel,
    by decide +kernel, by decide +kernel, by decide +kernel, by decide +kernel, by decide +kernel,
    by decide +kernel, by decide +kernel, by decide +kernel, by decide +kernel, by decide +kernel,
    by decide +kernel⟩

theorem wit_CollectivesBegin_1d :
    ∃ s : State, ∃ slot, ∃ c, ∃ op, ∃ cmd : Instr, ∃ g, ∃ x, ∃ mapN, ∃ m, ∃ r, (op = 0x0410 ∧
    cmd = .allReduce slot ∨ op = 0x0411 ∧ cmd = .reduceScatter slot ∨ op = 0x0412 ∧
    cmd = .allGather slot ∨ op = 0x0413 ∧ cmd = .broadcast slot) ∧ (IsBegun s slot op c) ∧ (g = c.queue - 15360) ∧
    (x = getGroup s g) ∧ (x.run = none) ∧ (∀ d ∈ queueCmds s c.queue, d.ord < c.ord → d.phase = 2) ∧
    (activeMap s (grpCtx x) = some mapN) ∧ (mapEntryOf (getMap s mapN) g = some m) ∧ (s.fab.chip ≠ none) ∧
    (r = { slot, op, red := if op = 0x0410 ∨ op = 0x0411 then Pkt.p2 c.packet / 2 ^ 24 % 4 else 0, crates := Pkt.p2 c.packet % 2 ^ 24 + 1, root := if op = 0x0413 then Pkt.p2 c.packet / 2 ^ 32 % 1024 else 0, p0 := pktOff0 c.packet, p1 := pktOff1 c.packet, count := x.count, members := (groupMembers s m).map (physOf s), ordinal := (ownOrdinal s m).getD 0, nx := (m.x.coords 0).length, blocks := ((groupMembers s m).map (physOf s)).length / (m.x.coords 0).length, chunkC := chunkSize s (grpCtx x) (grpShare x) ((groupMembers s m).map (physOf s)).length, mapCheck := m.check, opCheck := opCheckOf op (if op = 0x0410 ∨ op = 0x0411 then Pkt.p2 c.packet / 2 ^ 24 % 4 else 0) (Pkt.p2 c.packet % 2 ^ 24 + 1) (if op = 0x0413 then Pkt.p2 c.packet / 2 ^ 32 % 1024 else 0) : CollRun }) ∧
    (r.chunkC ≠ 0) ∧ (collRefusal s r (getCtx s (grpCtx x)).part = none) ∧ (x.pendingBell = none) ∧
    (∀ y ∈ x.grants, y.count = r.count → y.mapCheck = r.mapCheck ∧ y.opCheck = r.opCheck) :=
  ⟨cbgState 0x413 0x100000000, 3, cbgCmd 0x413 0x100000000, 0x413, .broadcast 3, 4, tGroup, 2, tMapGroup,
    cbgRun 0x413 0x100000000, (.inr (.inr (.inr ⟨rfl, rfl⟩))), ⟨by decide +kernel, by decide +kernel,
    by decide +kernel⟩, by decide +kernel, by decide +kernel, by decide +kernel, by decide +kernel,
    by decide +kernel, by decide +kernel, by decide +kernel, by decide +kernel, by decide +kernel,
    by decide +kernel, by decide +kernel, by decide +kernel⟩

theorem wit_CollectivesBegin_2 :
    ∃ s : State, ∃ slot, ∃ c, ∃ op, ∃ cmd : Instr, ∃ g, ∃ x, (op = 0x0410 ∧ cmd = .allReduce slot ∨ op = 0x0411 ∧
    cmd = .reduceScatter slot ∨ op = 0x0412 ∧ cmd = .allGather slot ∨ op = 0x0413 ∧ cmd = .broadcast slot) ∧
    (IsBegun s slot op c) ∧ (g = c.queue - 15360) ∧ (x = getGroup s g) ∧ (x.run = none) ∧
    (∀ d ∈ queueCmds s c.queue, d.ord < c.ord → d.phase = 2) ∧ (activeMap s (grpCtx x) = none) ∧
    (∀ d ∈ queueCmds s c.queue, d.ord ≤ c.ord) :=
  ⟨{ cbgState 0x410 0 with maps := [] }, 3, cbgCmd 0x410 0, 0x410, .allReduce 3, 4, tGroup, (.inl ⟨rfl, rfl⟩),
    ⟨by decide +kernel, by decide +kernel, by decide +kernel⟩, by decide +kernel, by decide +kernel,
    by decide +kernel, by decide +kernel, by decide +kernel, by decide +kernel⟩

end CollectivesBeginW

/-! ### CollectivesProceed -/

namespace CollectivesProceedW

def crnRun : CollRun := { slot := 3, op := 0x410, red := 0, crates := 4, root := 0, p0 := 0x6000, p1 := 0x6000, count := 6, members := [5, 9], ordinal := 0
                          nx := 2, blocks := 1, chunkC := 128, mapCheck := 0x1234, opCheck := 7, begun := [0] }
def crnGrant : Frame := { tFrame 6 with aux := 4 + 1 * 2 ^ 38, opid := 6, addr := 0x1234 + 7 * 2 ^ 32 }
def crnData : Frame := { tFrame 6 with aux := 4 + 2 ^ 10 + 1 * 2 ^ 38, opid := 6, index := 0, data := tData 5 }
def crnCmd : Cmd := { tCmd 0x410 0x6000 0x6000 3 with queue := 15364 }
def crnState (f : Frame) (r : CollRun) : State := { tFab f with cmds := [crnCmd], groups := [(4, { tGroup with run := some r, state := 2, count := 7 }), (9, tGroup)], queues := [(15364, { state := 1 })] }
def crnSession : Session := { peer := 9, state := 2, sid := 66, rxSid := some 77, chans := [{ next := 9, expect := 40 }, {}, {}, {}] }

theorem wit_CollectivesRun_1 :
    ∃ s : State, ∃ p, ∃ k, ∃ f, ∃ n, ∃ x, ∃ g, ∃ y, (InOrder s f n x) ∧ (NextFrame s p 0x06 k f) ∧
    (f.aux / 2 ^ 10 % 4 = 0) ∧ (ctxGone s f = none) ∧ (frameGroup s f = some g) ∧ (getGroup s g).run = none ∧
    (f.opid = (getGroup s g).count) ∧
    (y = { count := f.opid, stage := f.aux / 2 ^ 12 % 4, chunk := f.aux / 2 ^ 14 % 2 ^ 24, ordinal := f.aux / 2 ^ 38 % 2 ^ 14, mapCheck := f.addr % 2 ^ 32, opCheck := f.addr / 2 ^ 32 : Grant }) ∧
    (y ∉ (getGroup s g).grants) :=
  ⟨tFab crnGrant, 0, 0, crnGrant, 3, crnSession, 4,
    { count := 6, stage := 0, chunk := 0, ordinal := 1, mapCheck := 0x1234, opCheck := 7 }, ⟨by decide +kernel,
    by decide +kernel, by decide +kernel, by decide +kernel, by decide +kernel⟩,
    (by unfold NextFrame; decide +kernel), by decide +kernel, by decide +kernel, by decide +kernel,
    by decide +kernel, by decide +kernel, by decide +kernel, by decide +kernel⟩

theorem wit_CollectivesRun_2 :
    ∃ s : State, ∃ p, ∃ k, ∃ f, ∃ n, ∃ x, ∃ g, ∃ r, ∃ st, ∃ ch, ∃ a, ∃ old, (InOrder s f n x) ∧
    (NextFrame s p 0x06 k f) ∧ (f.aux / 2 ^ 10 % 4 = 1) ∧ (ctxGone s f = none) ∧ (frameGroup s f = some g) ∧
    (getGroup s g).run = some r ∧ (f.opid = r.count) ∧ (st = f.aux / 2 ^ 12 % 4) ∧ (ch = f.aux / 2 ^ 14 % 2 ^ 24) ∧
    (a = f.aux / 2 ^ 38 % 2 ^ 14) ∧ (old = (r.contrib st ch a).getD { stage := st, chunk := ch, ordinal := a }) ∧
    (st ∈ r.stages) ∧ (r.contribution st ch a r.ordinal)[old.crates.length]? = some f.index ∧ (f.last = false) ∧
    (old.crates.length + 1 < (r.contribution st ch a r.ordinal).length) ∧ (FrameOk f) ∧
    (Tag.poisoned (frameTag f) = false) ∧ (st < 2 → Tag.fmt (frameTag f) = Fmt.fp32) :=
  ⟨crnState crnData crnRun, 0, 0, crnData, 3, crnSession, 4, crnRun, 0, 0, 1,
    { stage := 0, chunk := 0, ordinal := 1 }, ⟨by decide +kernel, by decide +kernel, by decide +kernel,
    by decide +kernel, by decide +kernel⟩, (by unfold NextFrame; decide +kernel), by decide +kernel,
    by decide +kernel, by decide +kernel, by decide +kernel, by decide +kernel, by decide +kernel,
    by decide +kernel, by decide +kernel, by decide +kernel, by decide +kernel, by decide +kernel,
    by decide +kernel, by decide +kernel, (frameOk_zeros _ 5 rfl (by decide +kernel)), ((by decide +kernel)),
    ((fun _ => by decide +kernel))⟩

theorem wit_CollectivesRun_3 :
    ∃ s : State, ∃ slot, ∃ g, ∃ x, ∃ r, ∃ c,
    (s.groups.find? (fun e => match e.2.run with | some r => r.slot == slot | none => false) = some (g, x)) ∧
    (getGroup s g = x) ∧ (x.run = some r) ∧ (findCmd s slot = some c) ∧ (c.gather = []) ∧ (∀ d ∈ s.cmds,
    d.slot = slot → d = c) ∧ (r.chunks ≤ r.chunksDone.length) ∧ (collOutstanding s g r.count = false) ∧
    (isTraining s (grpCtx x) x.gen = false) :=
  ⟨crnState (tFrame 1) { crnRun with chunksDone := [0] }, 3, 4,
    { tGroup with run := some { crnRun with chunksDone := [0] }, state := 2, count := 7 },
    { crnRun with chunksDone := [0] }, crnCmd, by decide +kernel, by decide +kernel, by decide +kernel,
    by decide +kernel, by decide +kernel, by decide +kernel, by decide +kernel, by decide +kernel,
    by decide +kernel⟩

theorem wit_CollectivesRun_4 :
    ∃ s : State, ∃ g, ∃ a, ∃ r, ∃ c, (getGroup s g).run = some r ∧ (a ≠ r.ordinal) ∧
    (memberBegun (getGroup s g) r a = true) ∧ (memberAwaited (getGroup s g) r a = true) ∧
    (findCmd s r.slot = some c) ∧ (c.gather = []) ∧ (∀ d ∈ s.cmds, d.slot = r.slot → d = c) ∧
    (∀ d ∈ queueCmds s c.queue, d.ord ≤ c.ord) :=
  ⟨crnState (tFrame 1) { crnRun with contribs := [{ stage := 0, chunk := 0, ordinal := 1 }] }, 4, 1,
    { crnRun with contribs := [{ stage := 0, chunk := 0, ordinal := 1 }] }, crnCmd, by decide +kernel,
    by decide +kernel, by decide +kernel, by decide +kernel, by decide +kernel, by decide +kernel,
    by decide +kernel, by decide +kernel⟩

def cbBell : Frame := { tFrame 0x14 with opid := 6, aux := 4 + 0x66 * 2 ^ 16 + 1 * 2 ^ 24, index := 9 }
def cbRun : CollRun := { slot := 3, op := 0x410, red := 0, crates := 4, root := 0, p0 := 0x6000, p1 := 0x6000, count := 6, members := [5, 9], ordinal := 0,
                          nx := 2, blocks := 1, chunkC := 128, mapCheck := 0x1234, opCheck := 7, begun := [0] }
def cbCmd : Cmd := { tCmd 0x410 0x6000 0x6000 3 with queue := 15364 }
def cbState (x : Group) : State := { tFab cbBell with cmds := [cbCmd], groups := [(4, x), (9, tGroup)], queues := [(15364, { state := 1 })] }
def cbOut : BellOut := { count := 6, reason := 0x66, ordinal := 1, chip := 9, left := 1, members := [9, 13] }

theorem wit_ClosingBell_1 :
    ∃ s : State, ∃ p, ∃ k, ∃ f, ∃ g, ∃ x, (NextFrame s p 0x14 k f) ∧ (frameGroup s f = some g) ∧ (x = getGroup s g) ∧
    (x.bellValid = true) ∧ (x.bellCount = f.opid) :=
  ⟨cbState { tGroup with bellValid := true, bellCount := 6 }, 0, 0, cbBell, 4,
    { tGroup with bellValid := true, bellCount := 6 }, (by unfold NextFrame; decide +kernel), by decide +kernel,
    by decide +kernel, by decide +kernel, by decide +kernel⟩

theorem wit_ClosingBell_2 :
    ∃ s : State, ∃ p, ∃ k, ∃ f, ∃ g, ∃ x, ∃ r, ∃ c, (NextFrame s p 0x14 k f) ∧ (frameGroup s f = some g) ∧
    (x = getGroup s g) ∧ (x.bellValid = false) ∧ (x.run = some r) ∧ (r.count = f.opid) ∧
    (findCmd s r.slot = some c) ∧ (c.gather = []) ∧ (∀ d ∈ s.cmds, d.slot = r.slot → d = c) ∧
    (∀ d ∈ queueCmds s c.queue, d.ord ≤ c.ord) :=
  ⟨cbState { tGroup with run := some cbRun }, 0, 0, cbBell, 4, { tGroup with run := some cbRun }, cbRun, cbCmd,
    (by unfold NextFrame; decide +kernel), by decide +kernel, by decide +kernel, by decide +kernel,
    by decide +kernel, by decide +kernel, by decide +kernel, by decide +kernel, by decide +kernel,
    by decide +kernel⟩

theorem wit_ClosingBell_3 :
    ∃ s : State, ∃ p, ∃ k, ∃ f, ∃ g, ∃ x, (NextFrame s p 0x14 k f) ∧ (frameGroup s f = some g) ∧ (x = getGroup s g) ∧
    (x.bellValid = false) ∧ (x.run = none) ∧ (x.count = f.opid) :=
  ⟨cbState tGroup, 0, 0, cbBell, 4, tGroup, (by unfold NextFrame; decide +kernel), by decide +kernel,
    by decide +kernel, by decide +kernel, by decide +kernel, by decide +kernel⟩

theorem wit_ClosingBell_4 :
    ∃ s : State, ∃ g, ∃ b, ∃ u, (getGroup s g).bells = b :: u :=
  ⟨cbState { tGroup with bells := [cbOut] }, 4, cbOut, [], by decide +kernel⟩

theorem wit_ClosingBell_5 :
    ∃ s : State, ∃ g, (getGroup s g).run ≠ none :=
  ⟨cbState { tGroup with run := some cbRun }, 4, by decide +kernel⟩

end CollectivesProceedW

/-! ### FabricSends -/

namespace FabricSendsW

def fsFrame : Frame := { tFrame 1 with dst := 9, src := 5, sid := 0, seq := 0, data := tData 5 }
def fsCtl : Frame := { tFrame 0x10 with dst := 9 }
def fsState (i : Item) : State :=
  { tFab (tFrame 1) with fab := { (tFab (tFrame 1)).fab with ports := [(0, { state := 2, trained := true, rxSeq := some 0xFFFF }), (3, { trained := true })], sendq := [{ i with frame := { i.frame with ch := 1, hops := 1 }, port := some 3 }, i] } }
def fsSession : Session := { peer := 9, state := 2, sid := 66, rxSid := some 77, chans := [{ next := 9, expect := 40 }, {}, {}, {}] }
def fsFlit : List Byte := Word.toLe 2 0xFFFF ++ Word.toLe 2 0 ++ Word.toLe 2 (5 * 4096 + 77) ++ Word.toLe 2 624 ++ List.replicate 624 0#8 ++ Word.toLe 8 0x48a1803442b3adec

theorem wit_FrameSend_1 :
    ∃ s : State, ∃ p, ∃ lane, ∃ k, ∃ i, ∃ w, ∃ x, ∃ n, ∃ y, (nextFrame s p lane 0 [] s.fab.sendq = some (k, i)) ∧
    (egress s i).isSome = true ∧ (w = frameWords i.frame) ∧ (x = getPort s p) ∧ (x.trained = true) ∧
    (x.state = 2 ∨ i.port.isSome = true) ∧ (w ≤ x.credits.getD lane 0) ∧ (lane < x.credits.length) ∧
    (i.relay = none) ∧ (frameSeq i.frame.typ = true) ∧ (i.resend = false) ∧ (sessionOf s i.frame.dst = some n) ∧
    (getSession s n = some y) ∧ (i.frame.ch < y.chans.length) ∧ (replayBytes s p + 64 * w ≤ 2097152) :=
  ⟨fsState { frame := fsFrame, ctx := some (1, 2), op := some 4 }, 0, 0, 1,
    { frame := fsFrame, ctx := some (1, 2), op := some 4 }, 65,
    { state := 2, trained := true, rxSeq := some 0xFFFF }, 3, fsSession, by decide +kernel, by decide +kernel,
    by decide +kernel, by decide +kernel, by decide +kernel, by decide +kernel, by decide +kernel,
    by decide +kernel, by decide +kernel, by decide +kernel, by decide +kernel, by decide +kernel,
    by decide +kernel, by decide +kernel, by decide +kernel⟩

theorem wit_FrameSend_2 :
    ∃ s : State, ∃ p, ∃ lane, ∃ k, ∃ i, ∃ w, ∃ x, (nextFrame s p lane 0 [] s.fab.sendq = some (k, i)) ∧
    (egress s i).isSome = true ∧ (w = frameWords i.frame) ∧ (x = getPort s p) ∧ (x.trained = true) ∧
    (x.state = 2 ∨ i.port.isSome = true) ∧ (w ≤ x.credits.getD lane 0) ∧ (lane < x.credits.length) ∧
    (i.relay.isSome = true ∨ frameSeq i.frame.typ = false) :=
  ⟨fsState { frame := fsCtl }, 0, 4, 1, { frame := fsCtl }, 1, { state := 2, trained := true, rxSeq := some 0xFFFF },
    by decide +kernel, by decide +kernel, by decide +kernel, by decide +kernel, by decide +kernel,
    by decide +kernel, by decide +kernel, by decide +kernel, by decide +kernel⟩

theorem wit_FrameSend_3 :
    ∃ s : State, ∃ p, ∃ b : List Byte, ∃ x, (x = getPort s p) ∧ (x.trained = true) ∧ (b.length = 640) :=
  ⟨fsState { frame := fsFrame }, 0, List.replicate 640 0#8, { state := 2, trained := true, rxSeq := some 0xFFFF },
    by decide +kernel, by decide +kernel, (List.length_replicate)⟩

theorem wit_FrameSend_4 :
    ∃ s : State, ∃ p, ∃ b : List Byte, ∃ x, ∃ n, ∃ lane, ∃ cr, (x = getPort s p) ∧ (x.trained = true) ∧
    (b.length = 640) ∧ (n ≤ 15) ∧ (leAt b 632 8 = (Crc.crc64 (b.take 632)).toNat) ∧
    (x.rxSeq = none ∨ x.rxSeq = some (leAt b 0 2)) ∧ (x.synced = false) ∧ (624 ≤ leAt b 6 2) ∧
    (lane = leAt b 4 2 / 2 ^ 12 % 8) ∧ (cr = leAt b 4 2 % 2 ^ 12) ∧ (x.credits.length = 8) :=
  ⟨fsState { frame := fsFrame }, 0, fsFlit, { state := 2, trained := true, rxSeq := some 0xFFFF }, 15, 5, 77,
    by decide +kernel, by decide +kernel, by decide +kernel, by decide +kernel, (by rw [tCrc_eq]; decide +kernel),
    by decide +kernel, by decide +kernel, by decide +kernel, by decide +kernel, by decide +kernel,
    by decide +kernel⟩

end FabricSendsW

/-! ### DataFrames -/

namespace DataFramesW

def dfPut (typ : Nat) : Frame := { tFrame typ with addr := 0x6000, data := tData 5 }
def dfState (f : Frame) : State := { tFab f with mem := { tags := [(6, tTag 5)] } }
def dfOp : Op := { dir := 1, chip := 9, ch := 0, ctx := 1, gen := 2, owner := .porter 0 5, launch := 3, left := 2 }
def dfInstr : W128 := tIns 0x44 (2 ^ 86 + 1 * 2 ^ 69)
def dfGet : Frame := { tFrame 4 with opid := 8, data := tData 4 }
def dfGetState (o : Op) : State :=
  { tFab dfGet with
    cores := [(0, { tCore 4 dfInstr with bins := [{ slotCount := 2, slotCrates := 2, stride := 8192, producer := 4 }]
                                         inflight := [{ id := 5, instr := dfInstr, index := 0, launch := 3, ctx := 1, gen := 2 }] })]
    fab := { (tFab dfGet).fab with ops := [(8, some o)] } }

theorem wit_DataFrames_1 :
    ∃ s : State, ∃ p, ∃ k, ∃ f, ∃ n, ∃ x, (InOrder s f n x) ∧ (NextFrame s p 0x01 k f) ∧ (crateRefusal s f = none) ∧
    (FrameOk f) ∧ (Plain s.mem (f.addr / 4096)) ∧ (Writable s.mem) ∧ (dirOn s = false) :=
  ⟨dfState (dfPut 1), 0, 0, dfPut 1, 3, tSession, ⟨by decide +kernel, by decide +kernel, by decide +kernel,
    by decide +kernel, by decide +kernel⟩, (by unfold NextFrame; decide +kernel), by decide +kernel,
    (frameOk_zeros _ 5 rfl (by decide +kernel)), plain_free _ _ rfl rfl, (⟨by decide +kernel, List.Pairwise.nil⟩),
    by decide +kernel⟩

theorem wit_DataFrames_2 :
    ∃ s : State, ∃ p, ∃ k, ∃ f, ∃ n, ∃ x, (InOrder s f n x) ∧ (NextFrame s p 0x02 k f) ∧ (crateRefusal s f = none) ∧
    (FrameOk f) ∧ (Tag.poisoned (frameTag f) = false) ∧ (CrateOk s (f.addr / 4096)) ∧
    (Tag.fmt (crateTag s.mem (f.addr / 4096)) = Fmt.fp32) ∧ (Plain s.mem (f.addr / 4096)) ∧ (Writable s.mem) :=
  ⟨dfState (dfPut 2), 0, 0, dfPut 2, 3, tSession, ⟨by decide +kernel, by decide +kernel, by decide +kernel,
    by decide +kernel, by decide +kernel⟩, (by unfold NextFrame; decide +kernel), by decide +kernel,
    (frameOk_zeros _ 5 rfl (by decide +kernel)), by decide +kernel,
    (crateOk_zeros _ _ rfl rfl rfl rfl (by decide +kernel) (by decide +kernel)), by decide +kernel,
    plain_free _ _ rfl rfl, (⟨by decide +kernel, List.Pairwise.nil⟩)⟩

theorem wit_DataFrames_3 :
    ∃ s : State, ∃ p, ∃ k, ∃ f, ∃ n, ∃ x, (InOrder s f n x) ∧ (NextFrame s p 0x03 k f) ∧ (ctxGone s f = none) ∧
    (readRefusal s f (f.aux % 2048 + 1) = none) ∧ (s.stepSt.vacate = none) ∧ (x.state = 1 ∨ x.state = 2) ∧ (∀ j,
    j ≤ f.aux % 2048 → MoveOk s (f.addr / 4096 + j)) :=
  ⟨dfState { tFrame 3 with addr := 0x6000, aux := 1, opid := 5 }, 0, 0,
    { tFrame 3 with addr := 0x6000, aux := 1, opid := 5 }, 3, tSession, ⟨by decide +kernel, by decide +kernel,
    by decide +kernel, by decide +kernel, by decide +kernel⟩, (by unfold NextFrame; decide +kernel),
    by decide +kernel, by decide +kernel, by decide +kernel, by decide +kernel, (fun j hj => by
      have : j = 0 ∨ j = 1 := by have : j ≤ 1 := hj; omega
      obtain rfl | rfl := this <;> exact (crateOk_zeros _ _ rfl rfl rfl rfl (by decide +kernel) (by decide +kernel)).move)⟩

theorem wit_DataFrames_4 :
    ∃ s : State, ∃ p, ∃ k, ∃ f, ∃ n, ∃ x, ∃ o, ∃ place, ∃ slot, (InOrder s f n x) ∧ (NextFrame s p 0x04 k f) ∧
    (getHeld s f = false) ∧ (ctxGone s f = none) ∧ (getOp s f.opid = some o) ∧ (o.dir = 1) ∧ (o.chip = f.src) ∧
    (getPlace s o f.index = some (place, slot)) ∧ (FrameOk f) ∧ (Plain s.mem place) ∧ (Writable s.mem) ∧ (∀ c b,
    slot = some (c, b) → (post (getCore s c) b).isSome = true) :=
  ⟨dfGetState dfOp, 0, 0, dfGet, 3, tSession, dfOp, 0x20000000, none, ⟨by decide +kernel, by decide +kernel,
    by decide +kernel, by decide +kernel, by decide +kernel⟩, (by unfold NextFrame; decide +kernel),
    by decide +kernel, by decide +kernel, by decide +kernel, by decide +kernel, by decide +kernel,
    by decide +kernel, (frameOk_zeros _ 4 rfl (by decide +kernel)), plain_free _ _ rfl rfl, (⟨by decide +kernel,
    List.Pairwise.nil⟩), (by simp)⟩

theorem wit_DataFrames_4b :
    ∃ s : State, ∃ p, ∃ k, ∃ f, ∃ n, ∃ x, ∃ o, ∃ place, ∃ slot, (InOrder s f n x) ∧ (NextFrame s p 0x04 k f) ∧
    (getHeld s f = false) ∧ (ctxGone s f = none) ∧ (getOp s f.opid = some o) ∧ (o.dir = 1) ∧ (o.chip = f.src) ∧
    (getPlace s o f.index = some (place, slot)) ∧ (FrameOk f) ∧ (Plain s.mem place) ∧ (Writable s.mem) ∧ (∀ c b,
    slot = some (c, b) → (post (getCore s c) b).isSome = true) :=
  ⟨{ dfGetState dfOp with fab := { (dfGetState dfOp).fab with ports := [(0, { rx := [{ dfGet with index := 1 }] })] } },
    0, 0, { dfGet with index := 1 }, 3, tSession, dfOp, 0x20000001, some (0, 0), ⟨by decide +kernel,
    by decide +kernel, by decide +kernel, by decide +kernel, by decide +kernel⟩,
    (by unfold NextFrame; decide +kernel), by decide +kernel, by decide +kernel, by decide +kernel,
    by decide +kernel, by decide +kernel, by decide +kernel, (frameOk_zeros _ 4 rfl (by decide +kernel)),
    plain_free _ _ rfl rfl, (⟨by decide +kernel, List.Pairwise.nil⟩), (fun c b h => by
      obtain ⟨rfl, rfl⟩ : 0 = c ∧ 0 = b := by simpa using h
      decide +kernel)⟩

theorem wit_DataFrames_5 :
    ∃ s : State, ∃ p, ∃ k, ∃ f, ∃ n, ∃ x, (InOrder s f n x) ∧ (NextFrame s p 0x05 k f) ∧ (ctxGone s f = none) ∧
    (tallyOk s f.dctx (f.addr % 2 ^ 16) = true) ∧ (getOp s f.opid = none) :=
  ⟨dfState { tFrame 5 with addr := 63, aux := 2 ^ 48 - 1 }, 0, 0, { tFrame 5 with addr := 63, aux := 2 ^ 48 - 1 }, 3,
    tSession, ⟨by decide +kernel, by decide +kernel, by decide +kernel, by decide +kernel, by decide +kernel⟩,
    (by unfold NextFrame; decide +kernel), by decide +kernel, by decide +kernel, by decide +kernel⟩

theorem wit_DataFrames_6 :
    ∃ s : State, ∃ p, ∃ k, ∃ f, ∃ n, ∃ x, (InOrder s f n x) ∧ (NextFrame s p 0x07 k f) ∧
    (f.aux / 2 ^ 8 % 2 ^ 8 = 0x01 ∨ f.aux / 2 ^ 8 % 2 ^ 8 = 0x02) ∧ (crateRefusal s f = none) ∧
    (Plain s.mem (f.addr / 4096)) ∧ (Writable s.mem) :=
  ⟨dfState { tFrame 7 with addr := 0x6000, aux := 65 + 2 ^ 8 }, 0, 0,
    { tFrame 7 with addr := 0x6000, aux := 65 + 2 ^ 8 }, 3, tSession, ⟨by decide +kernel, by decide +kernel,
    by decide +kernel, by decide +kernel, by decide +kernel⟩, (by unfold NextFrame; decide +kernel),
    by decide +kernel, by decide +kernel, plain_free _ _ rfl rfl, (⟨by decide +kernel, List.Pairwise.nil⟩)⟩

end DataFramesW

/-! ### FramesReceived -/

namespace FramesReceivedW

def dupState (typ : Nat) : State := tFab { tFrame typ with seq := 39 }

theorem wit_Duplicates_1 :
    ∃ s : State, ∃ p, ∃ k, ∃ f, ∃ n, ∃ x, ∃ c : Instr, ∃ typ, (NextFrame s p typ k f) ∧ (sessionOf s f.src = some n) ∧
    (getSession s n = some x) ∧ (x.rxSid = some f.sid) ∧ (f.ch < 4) ∧ (x.chans.length = 4) ∧
    (2 ^ 32 + (chanOf x f.ch).expect - f.seq) % 2 ^ 32 ≠ 0 ∧
    (2 ^ 32 + (chanOf x f.ch).expect - f.seq) % 2 ^ 32 ≤ 2 ^ 31 ∧ (typ = 0x01 ∧ c = .put p ∨ typ = 0x02 ∧
    c = .accPut p ∨ typ = 0x03 ∧ c = .getReq p ∨ typ = 0x05 ∧ c = .tallyAddFrame p ∨ typ = 0x07 ∧
    c = .void p ∨ typ = 0x08 ∧ c = .error p ∨ typ = 0x09 ∧ c = .revoke p ∨ typ = 0x0A ∧
    c = .revokeAck p ∨ typ = 0x0B ∧ c = .bind p ∨ typ = 0x0C ∧ c = .bindReply p) :=
  ⟨dupState 1, 0, 0, { tFrame 1 with seq := 39 }, 3, tSession, .put 0, 1, (by unfold NextFrame; decide +kernel),
    by decide +kernel, by decide +kernel, by decide +kernel, by decide +kernel, by decide +kernel,
    by decide +kernel, by decide +kernel, (.inl ⟨rfl, rfl⟩)⟩

theorem wit_Duplicates_1b :
    ∃ s : State, ∃ p, ∃ k, ∃ f, ∃ n, ∃ x, ∃ c : Instr, ∃ typ, (NextFrame s p typ k f) ∧ (sessionOf s f.src = some n) ∧
    (getSession s n = some x) ∧ (x.rxSid = some f.sid) ∧ (f.ch < 4) ∧ (x.chans.length = 4) ∧
    (2 ^ 32 + (chanOf x f.ch).expect - f.seq) % 2 ^ 32 ≠ 0 ∧
    (2 ^ 32 + (chanOf x f.ch).expect - f.seq) % 2 ^ 32 ≤ 2 ^ 31 ∧ (typ = 0x01 ∧ c = .put p ∨ typ = 0x02 ∧
    c = .accPut p ∨ typ = 0x03 ∧ c = .getReq p ∨ typ = 0x05 ∧ c = .tallyAddFrame p ∨ typ = 0x07 ∧
    c = .void p ∨ typ = 0x08 ∧ c = .error p ∨ typ = 0x09 ∧ c = .revoke p ∨ typ = 0x0A ∧
    c = .revokeAck p ∨ typ = 0x0B ∧ c = .bind p ∨ typ = 0x0C ∧ c = .bindReply p) :=
  ⟨dupState 0x0C, 0, 0, { tFrame 0x0C with seq := 39 }, 3, tSession, .bindReply 0, 0x0C,
    (by unfold NextFrame; decide +kernel), by decide +kernel, by decide +kernel, by decide +kernel,
    by decide +kernel, by decide +kernel, by decide +kernel, by decide +kernel, (by simp)⟩

def bfErr : Frame := { tFrame 8 with opid := 8, aux := 0x62 + 0x46 * 2 ^ 8 + 1 * 2 ^ 16, addr := 0x6000 }
def bfOp (l : Nat) : Op := { dir := 0, chip := 9, ch := 0, ctx := 1, gen := 2, owner := .porter 0 5, launch := l, queue := 2, core := 0, index := 7 }
def bfErrState (l : Nat) : State :=
  { tFab bfErr with fab := { (tFab bfErr).fab with ops := [(8, some (bfOp l))] }, cores := [(0, tCore 4 (tIns 0x44 0))], launches := [(7, { ctx := 1, gen := 2, cores := [0], running := true })] }
def bfRev : Frame := { tFrame 9 with opid := 6, aux := 4 + 3 * 2 ^ 16 }
def bfRevState : State :=
  { tFab bfRev with fab := { (tFab bfRev).fab with peers := [{ chip := 9, pctx := 4, pgen := 3, ctx := 1, gen := 2 }, { chip := 9, pctx := 4, pgen := 5, ctx := 1, gen := 2 }] } }
def bfCtx : Ctx := { state := 3, enable := true, gen := 2, part := 1, peers := [(9, 6), (8, 6)] }
def bfAck : Frame := { tFrame 0xA with opid := 6 }
def bfBind : Frame := { tFrame 0xB with opid := 6, aux := 0xABCD, index := 4 + 3 * 2 ^ 16, dctx := 0, dgen := 0, last := true }
def bfMine : Ctx := { enable := true, part := 1, state := 2, gen := 2, tallyCount := 64, seed := 0xABCD#64 }
def bfReply : Frame := { tFrame 0xC with opid := 6, aux := 7 + 0xFFFF * 2 ^ 16 }
def bfWait : Binding := { ctx := 1, gen := 2, chip := 9, opid := 6 }
def bfItem (chip : Nat) : Item := { frame := { tFrame 1 with dst := chip }, ctx := some (1, 2) }

theorem wit_BindingFrames_1 :
    ∃ s : State, ∃ p, ∃ k, ∃ f, ∃ n, ∃ x, ∃ o, ∃ core, ∃ id, ∃ typ : Nat, ∃ reason, (InOrder s f n x) ∧
    (NextFrame s p 0x08 k f) ∧ (typ = f.aux / 2 ^ 16 % 2 ^ 8) ∧ (reason = f.aux % 2 ^ 8) ∧ (typ ≠ 0x0B) ∧
    (typ ≠ 0x06) ∧ (typ ≠ 0x04) ∧ (getOp s f.opid = some o) ∧ (o.chip = f.src) ∧ (o.owner = .porter core id) ∧
    (f.aux / 2 ^ 8 % 2 ^ 8 ≠ 0x27) ∧ (f.aux / 2 ^ 8 % 2 ^ 8 ≠ 0x28) :=
  ⟨bfErrState 3, 0, 0, bfErr, 3, tSession, bfOp 3, 0, 5, 1, 0x62, ⟨by decide +kernel, by decide +kernel,
    by decide +kernel, by decide +kernel, by decide +kernel⟩, (by unfold NextFrame; decide +kernel),
    by decide +kernel, by decide +kernel, by decide +kernel, by decide +kernel, by decide +kernel,
    by decide +kernel, by decide +kernel, by decide +kernel, by decide +kernel, by decide +kernel⟩

theorem wit_BindingFrames_2 :
    ∃ s : State, ∃ p, ∃ k, ∃ f, ∃ n, ∃ x, (InOrder s f n x) ∧ (NextFrame s p 0x09 k f) ∧ (x.state = 1 ∨ x.state = 2) ∧
    (s.fab.binds.filter (fun b => b.chip == f.src && b.state == 1 && b.dctx == f.aux % 2 ^ 8 && b.dgen == f.aux / 2 ^ 16 % 2 ^ 16) = []) :=
  ⟨bfRevState, 0, 0, bfRev, 3, tSession, ⟨by decide +kernel, by decide +kernel, by decide +kernel, by decide +kernel,
    by decide +kernel⟩, (by unfold NextFrame; decide +kernel), by decide +kernel, by decide +kernel⟩

theorem wit_BindingFrames_3 :
    ∃ s : State, ∃ p, ∃ k, ∃ f, ∃ n, ∃ x, ∃ m, ∃ c, (InOrder s f n x) ∧ (NextFrame s p 0x0A k f) ∧
    (s.ctxs.find? (fun c => c.2.state == 3 && c.2.peers.contains (f.src, f.opid)) = some (m, c)) ∧ (getCtx s m = c) :=
  ⟨{ tFab bfAck with ctxs := [(1, bfCtx)] }, 0, 0, bfAck, 3, tSession, 1, bfCtx, ⟨by decide +kernel,
    by decide +kernel, by decide +kernel, by decide +kernel, by decide +kernel⟩,
    (by unfold NextFrame; decide +kernel), by decide +kernel, by decide +kernel⟩

theorem wit_BindingFrames_4 :
    ∃ s : State, ∃ p, ∃ k, ∃ f, ∃ n, ∃ x, ∃ m, ∃ c, (InOrder s f n x) ∧ (NextFrame s p 0x0B k f) ∧
    (x.state = 1 ∨ x.state = 2) ∧
    (s.ctxs.filter (fun c => c.2.state == 2 && c.2.seed.toNat == f.aux && f.aux != 0) = [(m, c)]) ∧
    ((getCtx s f.dctx).state ≠ 2 ∨ (getCtx s f.dctx).gen ≠ f.dgen) :=
  ⟨{ tFab bfBind with ctxs := [(1, bfMine)] }, 0, 0, bfBind, 3, tSession, 1, bfMine, ⟨by decide +kernel,
    by decide +kernel, by decide +kernel, by decide +kernel, by decide +kernel⟩,
    (by unfold NextFrame; decide +kernel), by decide +kernel, by decide +kernel, by decide +kernel⟩

theorem wit_BindingFrames_5 :
    ∃ s : State, ∃ p, ∃ k, ∃ f, ∃ n, ∃ x, (InOrder s f n x) ∧ (NextFrame s p 0x0B k f) ∧ (x.state = 1 ∨ x.state = 2) ∧
    (s.ctxs.filter (fun c => c.2.state == 2 && c.2.seed.toNat == f.aux && f.aux != 0) = []) ∧
    ((getCtx s f.dctx).state ≠ 2 ∨ (getCtx s f.dctx).gen ≠ f.dgen) :=
  ⟨tFab bfBind, 0, 0, bfBind, 3, tSession, ⟨by decide +kernel, by decide +kernel, by decide +kernel,
    by decide +kernel, by decide +kernel⟩, (by unfold NextFrame; decide +kernel), by decide +kernel,
    by decide +kernel, by decide +kernel⟩

theorem wit_BindingFrames_6 :
    ∃ s : State, ∃ p, ∃ k, ∃ f, ∃ n, ∃ x, ∃ b, (InOrder s f n x) ∧ (NextFrame s p 0x0C k f) ∧
    (s.fab.binds.find? (fun b => b.opid == f.opid && b.chip == f.src && b.state == 0) = some b) :=
  ⟨{ tFab bfReply with fab := { (tFab bfReply).fab with binds := [bfWait, { bfWait with ctx := 2 }], bindq := [bfItem 9, bfItem 8] } },
    0, 0, bfReply, 3, tSession, bfWait, ⟨by decide +kernel, by decide +kernel, by decide +kernel,
    by decide +kernel, by decide +kernel⟩, (by unfold NextFrame; decide +kernel), by decide +kernel⟩

end FramesReceivedW

/-! ### Sessions -/

namespace SessionsW

def snSent (q : Nat) : Sent := { frame := { tFrame 1 with dst := 9, src := 5, sid := 66, seq := q }, ctx := some (1, 2), port := 0, time := 5 }
def snSession (us : List Sent) (st r o : Nat) : Session :=
  { peer := 9, state := st, sid := 66, rxSid := some 77, retries := r, opens := o, chans := [{ next := 12, expect := 40, doneSince := 7, unacked := us }, {}, {}, {}] }
def snState (f : Frame) (x : Session) : State := { tFab f with fab := { (tFab f).fab with sessions := [(3, some x)] } }
def snAck : Frame := { tFrame 0x10 with sid := 66, seq := 11 }
def snNak : Frame := { tFrame 0x11 with sid := 66, seq := 10 }
def snOpen : Frame := { tFrame 0x12 with src := 8, sid := 5, seq := 1, opid := 2, index := 3, aux := 4 }
def snOpenAck : Frame := { tFrame 0x13 with sid := 66 }
def snUs : List Sent := [snSent 9, snSent 10, snSent 11]

theorem wit_Sessions_1 :
    ∃ s : State, ∃ p, ∃ k, ∃ f, ∃ n, ∃ x, (NextFrame s p 0x10 k f) ∧ (sessionOf s f.src = some n) ∧
    (getSession s n = some x) ∧ (x.sid = f.sid) ∧ (x.state = 2) ∧ (f.ch < 4) ∧ (x.chans.length = 4) ∧
    (∃ u ∈ (chanOf x f.ch).unacked, seqLe ((u.frame.seq + frameSpan u.frame) % 2 ^ 32) f.seq = true) :=
  ⟨snState snAck (snSession snUs 2 14 0), 0, 0, snAck, 3, snSession snUs 2 14 0,
    (by unfold NextFrame; decide +kernel), by decide +kernel, by decide +kernel, by decide +kernel,
    by decide +kernel, by decide +kernel, by decide +kernel, by decide +kernel⟩

theorem wit_Sessions_2 :
    ∃ s : State, ∃ p, ∃ k, ∃ f, ∃ n, ∃ x, (NextFrame s p 0x11 k f) ∧ (sessionOf s f.src = some n) ∧
    (getSession s n = some x) ∧ (x.sid = f.sid) ∧ (x.state = 2) ∧ (chanOf x f.ch).unacked ≠ [] ∧ (x.retries < 15) :=
  ⟨snState snNak (snSession snUs 2 14 0), 0, 0, snNak, 3, snSession snUs 2 14 0,
    (by unfold NextFrame; decide +kernel), by decide +kernel, by decide +kernel, by decide +kernel,
    by decide +kernel, by decide +kernel, by decide +kernel⟩

theorem wit_Sessions_3 :
    ∃ s : State, ∃ peer, ∃ ch, ∃ n, ∃ x, ∃ u, ∃ us, (sessionOf s peer = some n) ∧ (getSession s n = some x) ∧
    (x.state = 2) ∧ (chanOf x ch).unacked = u :: us ∧ (x.retries < 15) :=
  ⟨snState snAck (snSession snUs 2 14 0), 9, 0, 3, snSession snUs 2 14 0, snSent 9, [snSent 10, snSent 11],
    by decide +kernel, by decide +kernel, by decide +kernel, by decide +kernel, by decide +kernel⟩

theorem wit_Sessions_4 :
    ∃ s : State, ∃ peer, ∃ ch, ∃ n, ∃ x, (sessionOf s peer = some n) ∧ (getSession s n = some x) ∧
    (chanOf x ch).doneSince ≠ 0 ∧ (ch < 4) ∧ (x.chans.length = 4) :=
  ⟨snState snAck (snSession snUs 2 14 0), 9, 0, 3, snSession snUs 2 14 0, by decide +kernel, by decide +kernel,
    by decide +kernel, by decide +kernel, by decide +kernel⟩

theorem wit_Sessions_5 :
    ∃ s : State, ∃ p, ∃ k, ∃ f, ∃ n, (NextFrame s p 0x12 k f) ∧ (sessionOf s f.src = none) ∧ (freeSession s = some n) :=
  ⟨snState snOpen tSession, 0, 0, snOpen, 0, (by unfold NextFrame; decide +kernel), by decide +kernel,
    by decide +kernel⟩

theorem wit_Sessions_6 :
    ∃ s : State, ∃ p, ∃ k, ∃ f, ∃ n, ∃ x, (NextFrame s p 0x13 k f) ∧ (sessionOf s f.src = some n) ∧
    (getSession s n = some x) ∧ (x.state = 1) ∧ (x.sid = f.sid) :=
  ⟨snState snOpenAck (snSession [] 1 0 2), 0, 0, snOpenAck, 3, snSession [] 1 0 2,
    (by unfold NextFrame; decide +kernel), by decide +kernel, by decide +kernel, by decide +kernel,
    by decide +kernel⟩

theorem wit_Sessions_7 :
    ∃ s : State, ∃ peer, ∃ n, ∃ x, (sessionOf s peer = some n) ∧ (getSession s n = some x) ∧ (x.state = 1) ∧
    (x.opens < 16) :=
  ⟨snState snAck (snSession [] 1 0 15), 9, 3, snSession [] 1 0 15, by decide +kernel, by decide +kernel,
    by decide +kernel, by decide +kernel⟩

theorem wit_Sessions_8 :
    ∃ s : State, ∃ peer, ∃ n, ∃ x, (sessionOf s peer = some n) ∧ (getSession s n = some x) ∧ (x.state = 1) ∧
    (16 ≤ x.opens) :=
  ⟨snState snAck (snSession snUs 1 0 16), 9, 3, snSession snUs 1 0 16, by decide +kernel, by decide +kernel,
    by decide +kernel, by decide +kernel⟩

end SessionsW

/-! ### PortsAndTime -/

namespace PortsAndTimeW

def poState (x : Port) (f : Frame) : State :=
  { tFab f with fab := { (tFab f).fab with ports := [(4, x), (33, {})] }, fuses := { lifecycle := 1 }, fuse := { f := { lifecycle := 1, serial := 0x1122334455667788#64 } } }
def poUp : Port := { cfg := 0x8000000000000001#64, state := 2, trained := true, lanes := 0xFF, rxSeq := some 4, synced := true }
def poDisc : Frame := { tFrame 0x16 with addr := 99, index := 6, aux := 11 + 10 * 2 ^ 8 + 9 * 2 ^ 24 + 2 ^ 39 }

theorem wit_Ports_1 :
    ∃ s : State, ∃ p, ∃ v : W64, (hostOpen s = true) ∧ (p < 48) ∧ (rbit v 63 = true) ∧
    (portEnabled (getPort s p) = false) :=
  ⟨poState {} poDisc, 47, 0x8000123400000001, by decide +kernel, by decide +kernel, by decide +kernel,
    by decide +kernel⟩

theorem wit_Ports_2 :
    ∃ s : State, ∃ p, ∃ v : W64, (hostOpen s = true) ∧ (p < 48) ∧ (rbit v 63 = false) ∧
    (portEnabled (getPort s p) = true) ∧ (getPort s p).state ≠ 4 :=
  ⟨poState poUp poDisc, 4, 0x0000123400000001, by decide +kernel, by decide +kernel, by decide +kernel,
    by decide +kernel, by decide +kernel⟩

theorem wit_Ports_3 :
    ∃ s : State, ∃ p, ∃ lanes, (getPort s p).state = 1 ∧ (getPort s p).retired = 0 ∧
    (laneCount (Nat.land lanes 511) = 8) :=
  ⟨poState { poUp with state := 1, trained := false } poDisc, 4, 0xFF, by decide +kernel, by decide +kernel,
    by decide +kernel⟩

theorem wit_Ports_4 :
    ∃ s : State, ∃ p, (getPort s p).state = 1 :=
  ⟨poState { poUp with state := 1 } poDisc, 4, by decide +kernel⟩

theorem wit_Ports_5 :
    ∃ s : State, ∃ p, (portEnabled (getPort s p) = true) ∧ (getPort s p).state = 0 ∧ (getPort s p).trained = false :=
  ⟨poState { poUp with state := 0, trained := false } poDisc, 4, by decide +kernel, by decide +kernel,
    by decide +kernel⟩

theorem wit_Ports_6 :
    ∃ s : State, ∃ p, (getPort s p).trained = true :=
  ⟨poState poUp poDisc, 4, by decide +kernel⟩

theorem wit_Ports_7 :
    ∃ s : State, ∃ p, (getPort s p).trained = true :=
  ⟨poState poUp poDisc, 4, by decide +kernel⟩

theorem wit_Ports_8 :
    ∃ s : State, ∃ p, (getPort s p).state = 2 :=
  ⟨poState poUp poDisc, 4, by decide +kernel⟩

theorem wit_Ports_9 :
    ∃ s : State, ∃ p, ∃ k, ∃ f, ∃ x, (NextFrame s p 0x16 k f) ∧ (x = getPort s p) ∧ (x.farResets = none) ∧
    (x.trained = true) ∧ (x.state = 0 ∨ x.state = 1) :=
  ⟨poState { poUp with state := 1, rx := [poDisc] } poDisc, 4, 0, poDisc, { poUp with state := 1, rx := [poDisc] },
    (by unfold NextFrame; decide +kernel), by decide +kernel, by decide +kernel, by decide +kernel,
    by decide +kernel⟩

theorem wit_Ports_10 :
    ∃ s : State, ∃ p, ∃ lane, (lane < 9) ∧ (getPort s p).trained = true ∧
    (Word.bitOf (getPort s p).retired lane = false) :=
  ⟨poState poUp poDisc, 4, 8, by decide +kernel, by decide +kernel, by decide +kernel⟩

theorem wit_Ports_11 :
    ∃ s : State, ∃ p,
    ((getPort s p).credits.getD 0 0 = 0 ∨ (getPort s p).credits.getD 1 0 = 0 ∨ (getPort s p).credits.getD 2 0 = 0 ∨ (getPort s p).credits.getD 3 0 = 0) :=
  ⟨poState { poUp with credits := [1920, 1920, 1920, 0, 128, 128, 128, 128] } poDisc, 4, by decide +kernel⟩

def ttState (x : Port) (f : Frame) : State := { tFab f with fab := { (tFab f).fab with ports := [(4, { x with rx := [f] })] } }
def ttPort : Port := { cfg := 0x8000F234000000#64, state := 2, t1 := some 1000 }
def ttReq : Frame := timeFrame 1 (5 * 65536 + 7) 0
def ttResp : Frame := timeFrame 2 (5 * 65536 + 907) (5 * 65536 + 7)

theorem wit_TimeTransfer_1 :
    ∃ s : State, ∃ p, (portUp s p = true) :=
  ⟨ttState ttPort ttReq, 4, by decide +kernel⟩

theorem wit_TimeTransfer_2 :
    ∃ s : State, ∃ p, ∃ k, ∃ f, (NextFrame s p 0x15 k f) ∧ (f.opid = 1) :=
  ⟨ttState ttPort ttReq, 4, 0, ttReq, (by unfold NextFrame; decide +kernel), by decide +kernel⟩

theorem wit_TimeTransfer_3 :
    ∃ s : State, ∃ p, ∃ k, ∃ f, ∃ t1, (NextFrame s p 0x15 k f) ∧ (f.opid = 2) ∧ (getPort s p).t1 = some t1 :=
  ⟨ttState ttPort ttResp, 4, 0, ttResp, 1000, (by unfold NextFrame; decide +kernel), by decide +kernel,
    by decide +kernel⟩

end PortsAndTimeW

/-! ### FabricSends -/

namespace FabricSendsW

def pbW (dir : Nat) : W128 := tIns 0x44 (dir * 2 ^ 86 + (if dir = 1 ∨ dir = 3 then 1 else 0) * 2 ^ 69 + 9 * 2 ^ 52 + 7 * 2 ^ 22)
def pbState (dir fill : Nat) : State :=
  { tFab (tFrame 1) with
    cores := [(0, { tCore 4 (pbW dir) with bins := [{ slotCount := 2, slotCrates := 2, stride := 8192, fill }] }), (5, { token := 3 })]
    launches := [(7, { ctx := 1, gen := 2, cores := [0], running := true })], mem := { tags := [(0x20000000, tTag 5)] } }

theorem wit_PorterFabric_1 :
    ∃ s : State, ∃ core, ∃ w, ∃ c, ∃ dir, ∃ bin, ∃ cg, ∃ n, ∃ x, ∃ b, (AtIns s core 4 0x44 .none w) ∧
    (c = getCore s core) ∧ (dir = Ins.bits w 87 86) ∧ (bin = getBin c (Ins.bits w 85 80)) ∧
    (c.inflight.length < 64) ∧ (cg = coreCtx s core) ∧ (s.fab.chip.isSome = true) ∧
    (sessionOf s (Ins.bits w 66 52) = some n) ∧ (getSession s n = some x) ∧ (x.state = 1 ∨ x.state = 2) ∧
    (findBind s cg.1 cg.2 (Ins.bits w 66 52) = some b) ∧ (b.state = 1) ∧ (dir = 1 ∨ dir = 3) ∧
    (dir = 1 → bin.occ < bin.slotCount) :=
  ⟨pbState 1 1, 0, pbW 1, getCore (pbState 1 1) 0, 1, getBin (getCore (pbState 1 1) 0) 0, (1, 2), 3, tSession,
    { ctx := 1, gen := 2, chip := 9, state := 1, dctx := 3, dgen := 8 }, ⟨by decide +kernel, by decide +kernel,
    by decide +kernel, by decide +kernel⟩, by decide +kernel, by decide +kernel, by decide +kernel,
    by decide +kernel, by decide +kernel, by decide +kernel, by decide +kernel, by decide +kernel,
    by decide +kernel, by decide +kernel, by decide +kernel, by decide +kernel, by decide +kernel⟩

theorem wit_PorterFabric_1b :
    ∃ s : State, ∃ core, ∃ w, ∃ c, ∃ dir, ∃ bin, ∃ cg, ∃ n, ∃ x, ∃ b, (AtIns s core 4 0x44 .none w) ∧
    (c = getCore s core) ∧ (dir = Ins.bits w 87 86) ∧ (bin = getBin c (Ins.bits w 85 80)) ∧
    (c.inflight.length < 64) ∧ (cg = coreCtx s core) ∧ (s.fab.chip.isSome = true) ∧
    (sessionOf s (Ins.bits w 66 52) = some n) ∧ (getSession s n = some x) ∧ (x.state = 1 ∨ x.state = 2) ∧
    (findBind s cg.1 cg.2 (Ins.bits w 66 52) = some b) ∧ (b.state = 1) ∧ (dir = 1 ∨ dir = 3) ∧
    (dir = 1 → bin.occ < bin.slotCount) :=
  ⟨pbState 3 0, 0, pbW 3, getCore (pbState 3 0) 0, 3, getBin (getCore (pbState 3 0) 0) 0, (1, 2), 3, tSession,
    { ctx := 1, gen := 2, chip := 9, state := 1, dctx := 3, dgen := 8 }, ⟨by decide +kernel, by decide +kernel,
    by decide +kernel, by decide +kernel⟩, by decide +kernel, by decide +kernel, by decide +kernel,
    by decide +kernel, by decide +kernel, by decide +kernel, by decide +kernel, by decide +kernel,
    by decide +kernel, by decide +kernel, by decide +kernel, by decide +kernel, by decide +kernel⟩

theorem wit_PorterFabric_2 :
    ∃ s : State, ∃ core, ∃ w, ∃ c, ∃ dir, ∃ bin, ∃ cg, ∃ n, ∃ x, ∃ b, ∃ k, (AtIns s core 4 0x44 .none w) ∧
    (c = getCore s core) ∧ (dir = Ins.bits w 87 86) ∧ (bin = getBin c (Ins.bits w 85 80)) ∧
    (c.inflight.length < 64) ∧ (cg = coreCtx s core) ∧ (s.fab.chip.isSome = true) ∧
    (sessionOf s (Ins.bits w 66 52) = some n) ∧ (getSession s n = some x) ∧ (x.state = 1 ∨ x.state = 2) ∧
    (findBind s cg.1 cg.2 (Ins.bits w 66 52) = some b) ∧ (b.state = 1) ∧ (dir = 0 ∨ dir = 2) ∧
    (Ins.bits w 79 69 = 0) ∧ (1 ≤ bin.occ) ∧ (1 ≤ bin.slotCrates) ∧ (k = slotCrate core bin bin.emptySlot 0) ∧
    (MoveOk s k) ∧ (dir = 2 → Tag.fmt (crateTag s.mem k) = Fmt.fp32) :=
  ⟨pbState 0 1, 0, pbW 0, getCore (pbState 0 1) 0, 0, getBin (getCore (pbState 0 1) 0) 0, (1, 2), 3, tSession,
    { ctx := 1, gen := 2, chip := 9, state := 1, dctx := 3, dgen := 8 }, 0x20000000, ⟨by decide +kernel,
    by decide +kernel, by decide +kernel, by decide +kernel⟩, by decide +kernel, by decide +kernel,
    by decide +kernel, by decide +kernel, by decide +kernel, by decide +kernel, by decide +kernel,
    by decide +kernel, by decide +kernel, by decide +kernel, by decide +kernel, by decide +kernel,
    by decide +kernel, by decide +kernel, by decide +kernel, by decide +kernel,
    ((crateOk_zeros _ _ rfl rfl rfl rfl (by decide +kernel) (by decide +kernel)).move), by decide +kernel⟩

theorem wit_PorterFabric_2b :
    ∃ s : State, ∃ core, ∃ w, ∃ c, ∃ dir, ∃ bin, ∃ cg, ∃ n, ∃ x, ∃ b, ∃ k, (AtIns s core 4 0x44 .none w) ∧
    (c = getCore s core) ∧ (dir = Ins.bits w 87 86) ∧ (bin = getBin c (Ins.bits w 85 80)) ∧
    (c.inflight.length < 64) ∧ (cg = coreCtx s core) ∧ (s.fab.chip.isSome = true) ∧
    (sessionOf s (Ins.bits w 66 52) = some n) ∧ (getSession s n = some x) ∧ (x.state = 1 ∨ x.state = 2) ∧
    (findBind s cg.1 cg.2 (Ins.bits w 66 52) = some b) ∧ (b.state = 1) ∧ (dir = 0 ∨ dir = 2) ∧
    (Ins.bits w 79 69 = 0) ∧ (1 ≤ bin.occ) ∧ (1 ≤ bin.slotCrates) ∧ (k = slotCrate core bin bin.emptySlot 0) ∧
    (MoveOk s k) ∧ (dir = 2 → Tag.fmt (crateTag s.mem k) = Fmt.fp32) :=
  ⟨pbState 2 2, 0, pbW 2, getCore (pbState 2 2) 0, 2, getBin (getCore (pbState 2 2) 0) 0, (1, 2), 3, tSession,
    { ctx := 1, gen := 2, chip := 9, state := 1, dctx := 3, dgen := 8 }, 0x20000000, ⟨by decide +kernel,
    by decide +kernel, by decide +kernel, by decide +kernel⟩, by decide +kernel, by decide +kernel,
    by decide +kernel, by decide +kernel, by decide +kernel, by decide +kernel, by decide +kernel,
    by decide +kernel, by decide +kernel, by decide +kernel, by decide +kernel, by decide +kernel,
    by decide +kernel, by decide +kernel, by decide +kernel, by decide +kernel,
    ((crateOk_zeros _ _ rfl rfl rfl rfl (by decide +kernel) (by decide +kernel)).move), by decide +kernel⟩

end FabricSendsW

/-! ### StepDirectory -/

namespace StepDirectoryW

def sdBytes : List Byte :=
  Word.toLe 4 0x44535A4D ++ Word.toLe 2 1 ++ Word.toLe 2 1 ++ Word.toLe 4 2 ++ Word.toLe 4 1 ++ Word.toLe 4 1 ++ List.replicate 12 0#8
    ++ Word.toLe 8 0x20000 ++ Word.toLe 8 0x28000 ++ List.replicate 16 0#8 ++ Word.toLe 8 0x30000 ++ Word.toLe 8 0 ++ Word.toLe 8 0x38000 ++ Word.toLe 8 0
    ++ Word.toLe 8 0x48000 ++ List.replicate 152 0#8 ++ Word.toLe 8 0x10000 ++ Word.toLe 4 2 ++ Word.toLe 4 0
def sdState : State := { tTrain (tCmd 0x507 3 3 0) with stepSt := {}, mem := { cells := mkCells 0x8000 sdBytes, tags := [(8, Tag.mk 0xcf19d8ca58e371ed#64 6 0 0 1)] } }

theorem wit_StepDirectory_1 :
    ∃ s : State, ∃ v : W64, (hostOpen s = true) ∧ (rbit v 63 = true) ∧ (dirOn s = false) ∧ (trainingCtx s = none) :=
  ⟨tHost, 0x8000000000008000, by decide +kernel, by decide +kernel, by decide +kernel, by decide +kernel⟩

theorem wit_StepDirectory_2 :
    ∃ s : State, ∃ v : W64, ∃ c, ∃ base, (hostOpen s = true) ∧ (rbit v 63 = true) ∧ (dirOn s = false) ∧
    (trainingCtx s = some c) ∧ (base = rbits v 48 12) ∧ (refuse s .image (getCtx s c).part (base * 4096) = none) ∧
    (CrateOk s base) ∧ (dirRefusal s (getCtx s c).part (crateBytes s.mem base) = none) :=
  ⟨sdState, 0x8000000000008000, 1, 8, by decide +kernel, by decide +kernel, by decide +kernel, by decide +kernel,
    by decide +kernel, by decide +kernel, (crateOk_check _ _ rfl rfl (by decide +kernel) (by decide +kernel)),
    by decide +kernel⟩

theorem wit_StepDirectory_3 :
    ∃ s : State, ∃ v : W64, (hostOpen s = true) ∧ (rbit v 63 = false) ∧ (dirOn s = true) ∧ (s.stepSt.recs ≠ []) :=
  ⟨{ tTrain (tCmd 0x507 3 3 0) with stepSt := { (tTrain (tCmd 0x507 3 3 0)).stepSt with recs := [tRec 4 1] } }, 0,
    by decide +kernel, by decide +kernel, by decide +kernel, by decide +kernel⟩

theorem wit_StepDirectory_4 :
    ∃ s : State, ∃ v : W64, (hostOpen s = true) ∧ (rbit v 63 = false) ∧ (dirOn s = true) ∧ (s.stepSt.recs = []) :=
  ⟨tTrain (tCmd 0x507 3 3 0), 0, by decide +kernel, by decide +kernel, by decide +kernel, by decide +kernel⟩

theorem wit_StepDirectory_5 :
    ∃ s : State, ∃ slot, ∃ c, ∃ d, (IsBegun s slot 0x0507 c) ∧ (fromTraining s c = true) ∧
    (d = Pkt.p1 c.packet % 256) ∧ (d ≤ 3) ∧ (s.stepSt.recs = []) :=
  ⟨tTrain (tCmd 0x507 3 3 0), 3, tCmd 0x507 3 3 0, 3, ⟨by decide +kernel, by decide +kernel, by decide +kernel⟩,
    by decide +kernel, by decide +kernel, by decide +kernel, by decide +kernel⟩

theorem wit_StepDirectory_6 :
    ∃ s : State, ∃ slot, ∃ c, ∃ d, (IsBegun s slot 0x0507 c) ∧ (fromTraining s c = true) ∧
    (d = Pkt.p1 c.packet % 256) ∧ (d ≤ 3) ∧ (s.stepSt.recs ≠ []) ∧ (∀ e ∈ queueCmds s c.queue, e.ord ≤ c.ord) :=
  ⟨{ tTrain (tCmd 0x507 3 3 0) with stepSt := { (tTrain (tCmd 0x507 3 3 0)).stepSt with recs := [tRec 4 1] } }, 3,
    tCmd 0x507 3 3 0, 3, ⟨by decide +kernel, by decide +kernel, by decide +kernel⟩, by decide +kernel,
    by decide +kernel, by decide +kernel, by decide +kernel, by decide +kernel⟩

end StepDirectoryW

/-! ### StepBegins -/

namespace StepBeginsW

def sbCmd (n : Nat) : Cmd := tCmd 0x501 n 0 0
def sbState (n cur : Nat) (rs : List StepRec) : State := { tTrain (sbCmd n) with stepSt := { (tTrain (sbCmd n)).stepSt with recs := rs, cur } }

theorem wit_StepBegins_1 :
    ∃ s : State, ∃ slot, ∃ c, ∃ n, (IsBegun s slot 0x0501 c) ∧ (n = Pkt.p0 c.packet) ∧ (fromTraining s c = true) ∧
    (∀ d ∈ queueCmds s c.queue, d.ord ≤ c.ord) ∧ (s.stepSt.recs ≠ []) ∧ (n ≠ s.stepSt.cur + 1) :=
  ⟨sbState 7 4 [tRec 4 1], 3, sbCmd 7, 7, ⟨by decide +kernel, by decide +kernel, by decide +kernel⟩,
    by decide +kernel, by decide +kernel, by decide +kernel, by decide +kernel, by decide +kernel⟩

theorem wit_StepBegins_2 :
    ∃ s : State, ∃ slot, ∃ c, ∃ n, (IsBegun s slot 0x0501 c) ∧ (n = Pkt.p0 c.packet) ∧ (fromTraining s c = true) ∧
    (∀ d ∈ queueCmds s c.queue, d.ord ≤ c.ord) ∧ (s.stepSt.recs = [] ∨ n = s.stepSt.cur + 1) ∧ (dirOn s = false) :=
  ⟨{ sbState 5 4 [tRec 4 1] with stepSt := { cur := 4, recs := [tRec 4 1] } }, 3, sbCmd 5, 5, ⟨by decide +kernel,
    by decide +kernel, by decide +kernel⟩, by decide +kernel, by decide +kernel, by decide +kernel,
    by decide +kernel, by decide +kernel⟩

theorem wit_StepBegins_3 :
    ∃ s : State, ∃ slot, ∃ c, ∃ n, (IsBegun s slot 0x0501 c) ∧ (n = Pkt.p0 c.packet) ∧ (fromTraining s c = true) ∧
    (∀ d ∈ queueCmds s c.queue, d.ord ≤ c.ord) ∧ (s.stepSt.recs = [] ∨ n = s.stepSt.cur + 1) ∧ (dirOn s = true) ∧
    (s.stepSt.replay = none) ∧ (s.stepSt.takeover = none) ∧
    (s.stepSt.recs.find? (fun r => r.step + deadline s + 1 == n) = none) ∧ (∀ core, CoreQuiet s core) :=
  ⟨sbState 5 4 [tRec 4 1], 3, sbCmd 5, 5, ⟨by decide +kernel, by decide +kernel, by decide +kernel⟩,
    by decide +kernel, by decide +kernel, by decide +kernel, by decide +kernel, by decide +kernel,
    by decide +kernel, by decide +kernel, by decide +kernel, (fun core => ⟨rfl, (by show (0 : Nat) ≠ 2; decide),
    rfl⟩)⟩

theorem wit_StepBegins_4 :
    ∃ s : State, ∃ slot, ∃ c, ∃ n, ∃ r, ∃ w, (IsBegun s slot 0x0501 c) ∧ (n = Pkt.p0 c.packet) ∧
    (fromTraining s c = true) ∧ (∀ d ∈ queueCmds s c.queue, d.ord ≤ c.ord) ∧
    (s.stepSt.recs = [] ∨ n = s.stepSt.cur + 1) ∧ (dirOn s = true) ∧ (s.stepSt.replay = none) ∧
    (s.stepSt.takeover = none) ∧ (s.stepSt.recs.find? (fun r => r.step + deadline s + 1 == n) = some r) ∧
    (s.stepSt.weigh = some w) ∧ (w.step = r.step) :=
  ⟨{ sbState 5 4 [tRec 3 2, tRec 4 1] with stepSt := { (sbState 5 4 [tRec 3 2, tRec 4 1]).stepSt with weigh := some { cmd := 5, step := 3, layer := 0, subject := 5 } } },
    3, sbCmd 5, 5, tRec 3 2, { cmd := 5, step := 3, layer := 0, subject := 5 }, ⟨by decide +kernel,
    by decide +kernel, by decide +kernel⟩, by decide +kernel, by decide +kernel, by decide +kernel,
    by decide +kernel, by decide +kernel, by decide +kernel, by decide +kernel, by decide +kernel,
    by decide +kernel, by decide +kernel⟩

theorem wit_StepBegins_5 :
    ∃ s : State, ∃ slot, ∃ c, ∃ n, ∃ r, (IsBegun s slot 0x0501 c) ∧ (n = Pkt.p0 c.packet) ∧ (fromTraining s c = true) ∧
    (∀ d ∈ queueCmds s c.queue, d.ord ≤ c.ord) ∧ (s.stepSt.recs = [] ∨ n = s.stepSt.cur + 1) ∧ (dirOn s = true) ∧
    (s.stepSt.replay = none) ∧ (s.stepSt.takeover = none) ∧
    (s.stepSt.recs.find? (fun r => r.step + deadline s + 1 == n) = some r) ∧ (s.stepSt.weigh = none) ∧ (r.fault ≠ 0) :=
  ⟨sbState 5 4 [{ tRec 3 2 with fault := 0xE1 }, tRec 4 1], 3, sbCmd 5, 5, { tRec 3 2 with fault := 0xE1 },
    ⟨by decide +kernel, by decide +kernel, by decide +kernel⟩, by decide +kernel, by decide +kernel,
    by decide +kernel, by decide +kernel, by decide +kernel, by decide +kernel, by decide +kernel,
    by decide +kernel, by decide +kernel, by decide +kernel⟩

end StepBeginsW

/-! ### ReplaysAndWeighs -/

namespace ReplaysAndWeighsW

def srCmd : Cmd := tCmd 0x502 5 0 0
def srState (c : Cmd) (rs : List StepRec) : State :=
  { tTrain c with stepSt := { (tTrain c).stepSt with recs := rs, cur := 5, sealedStep := 3 } }
theorem sr_two {o : Nat} (h : o < (srState srCmd [tRec 5 1]).stepSt.dir.shard) : o = 0 ∨ o = 1 := by
  have : o < 2 := h
  omega

theorem wit_StepReplays_1 :
    ∃ s : State, ∃ slot, ∃ c, ∃ u, ∃ r, (IsBegun s slot 0x0502 c) ∧ (u = Pkt.p0 c.packet) ∧ (fromTraining s c = true) ∧
    (s.stepSt.replay = none) ∧ (s.stepSt.takeover = none) ∧ (∀ l ∈ s.launches, l.2.ctx ≠ (stepCg s).1) ∧
    (collRunning s (stepCg s).1 = false) ∧ (s.stepSt.recs = [r]) ∧ (r.step = u) ∧ (r.state ≠ 5) ∧
    (s.stepSt.cur = u) ∧ (s.stepSt.sealedStep < u) ∧ (r.slot = slotOfStep s u) ∧
    (silentPeers s (stepCg s).1 (stepCg s).2 = []) ∧ (Writable s.mem) ∧ (∀ o p,
    o < s.stepSt.dir.shard → p < s.stepSt.dir.shard → shardCrate s o = shardCrate s p → o = p) ∧ (∀ o,
    o < s.stepSt.dir.shard → shardCrate s o < recordHeader s r.slot ∨ recSaved s r.slot + s.stepSt.dir.shard ≤ shardCrate s o) :=
  ⟨srState srCmd [tRec 5 1], 3, srCmd, 5, tRec 5 1, ⟨by decide +kernel, by decide +kernel, by decide +kernel⟩,
    by decide +kernel, by decide +kernel, by decide +kernel, by decide +kernel, by decide +kernel,
    by decide +kernel, by decide +kernel, by decide +kernel, by decide +kernel, by decide +kernel,
    by decide +kernel, by decide +kernel, by decide +kernel, (⟨by decide +kernel, List.Pairwise.nil⟩),
    (fun o p ho hp h => by
      obtain rfl | rfl := sr_two ho <;> obtain rfl | rfl := sr_two hp <;> revert h <;> decide +kernel),
    (fun o ho => by
      obtain rfl | rfl := sr_two ho <;> decide +kernel)⟩

theorem wit_StepReplays_2 :
    ∃ s : State, ∃ slot, ∃ c, ∃ u, ∃ r, (IsBegun s slot 0x0502 c) ∧ (u = Pkt.p0 c.packet) ∧ (fromTraining s c = true) ∧
    (s.stepSt.replay = none) ∧ (s.stepSt.takeover = none) ∧ (∀ l ∈ s.launches, l.2.ctx ≠ (stepCg s).1) ∧
    (collRunning s (stepCg s).1 = false) ∧ (r ∈ s.stepSt.recs) ∧ (r.step = u) ∧ (u ≤ s.stepSt.cur) ∧
    (silentPeers s (stepCg s).1 (stepCg s).2 ≠ []) :=
  ⟨{ srState srCmd [tRec 5 1] with fab := { (tFab (tFrame 1)).fab with sendq := [{ frame := { tFrame 1 with dst := 9 }, ctx := some (1, 2) }] } },
    3, srCmd, 5, tRec 5 1, ⟨by decide +kernel, by decide +kernel, by decide +kernel⟩, by decide +kernel,
    by decide +kernel, by decide +kernel, by decide +kernel, by decide +kernel, by decide +kernel,
    by decide +kernel, by decide +kernel, by decide +kernel, by decide +kernel⟩

theorem wit_StepReplays_3 :
    ∃ s : State, ∃ slot, ∃ c, ∃ u, (IsBegun s slot 0x0502 c) ∧ (u = Pkt.p0 c.packet) ∧ (fromTraining s c = true) ∧
    (s.stepSt.replay = none) ∧ (s.stepSt.takeover = none) ∧ (∀ l ∈ s.launches, l.2.ctx ≠ (stepCg s).1) ∧
    (collRunning s (stepCg s).1 = false) ∧ (∀ d ∈ queueCmds s c.queue, d.ord ≤ c.ord) ∧ (∀ r ∈ s.stepSt.recs,
    r.step ≠ u) ∧ (s.stepSt.sealedStep < u) ∧ (u ≤ s.stepSt.cur) :=
  ⟨{ srState srCmd [tRec 4 1] with stepSt := { (srState srCmd [tRec 4 1]).stepSt with recs := [tRec 4 2] } }, 3,
    srCmd, 5, ⟨by decide +kernel, by decide +kernel, by decide +kernel⟩, by decide +kernel, by decide +kernel,
    by decide +kernel, by decide +kernel, by decide +kernel, by decide +kernel, by decide +kernel,
    by decide +kernel, by decide +kernel, by decide +kernel⟩

theorem wit_StepReplays_4 :
    ∃ s : State, ∃ slot, ∃ c, ∃ u, (IsBegun s slot 0x0502 c) ∧ (u = Pkt.p0 c.packet) ∧ (fromTraining s c = true) ∧
    (s.stepSt.replay = none) ∧ (s.stepSt.takeover = none) ∧ (∀ l ∈ s.launches, l.2.ctx ≠ (stepCg s).1) ∧
    (collRunning s (stepCg s).1 = false) ∧ (∀ d ∈ queueCmds s c.queue, d.ord ≤ c.ord) ∧ (∀ r ∈ s.stepSt.recs,
    r.step ≠ u) ∧ (s.stepSt.cur < u) :=
  ⟨srState (tCmd 0x502 6 0 0) [tRec 5 1], 3, tCmd 0x502 6 0 0, 6, ⟨by decide +kernel, by decide +kernel,
    by decide +kernel⟩, by decide +kernel, by decide +kernel, by decide +kernel, by decide +kernel,
    by decide +kernel, by decide +kernel, by decide +kernel, by decide +kernel, by decide +kernel⟩

theorem wit_StepReplays_5 :
    ∃ s : State, ∃ slot, ∃ u, ∃ c, (s.stepSt.replay = some (slot, u, true)) ∧ (findCmd s slot = some c) ∧
    (c.gather = []) ∧ (∀ d ∈ s.cmds, d.slot = slot → d = c) :=
  ⟨{ srState srCmd [tRec 5 1] with stepSt := { (srState srCmd [tRec 4 1, tRec 5 1]).stepSt with replay := some (3, 4, true) } },
    3, 4, srCmd, by decide +kernel, by decide +kernel, by decide +kernel, by decide +kernel⟩

def cwCmd (n subject : Nat) : Cmd := tCmd 0x503 n (subject + 0x70000) 0
def cwState (n subject : Nat) (rs : List StepRec) : State := { tTrain (cwCmd n subject) with stepSt := { (tTrain (cwCmd n subject)).stepSt with recs := rs, cur := 5 } }
def cwW (subject : Nat) : CrossWeigh := { cmd := 3, step := 5, layer := 7, subject }
def cwOn (subject : Nat) : State :=
  { cwState 5 subject [tRec 4 2, tRec 5 1] with stepSt := { (cwState 5 subject [tRec 4 2, tRec 5 1]).stepSt with weigh := some (cwW subject) }, ledger := { mode := 1, seq := 8#64 } }

theorem wit_CrossWeighs_1 :
    ∃ s : State, ∃ slot, ∃ c, ∃ n, ∃ subject, (IsBegun s slot 0x0503 c) ∧ (fromTraining s c = true) ∧
    (s.stepSt.weigh = none) ∧ (n = Pkt.p0 c.packet) ∧ (subject = Pkt.p1 c.packet % 32) ∧ (subject = ownStall s ∧
    (∃ r, s.stepSt.recs.find? (fun r => r.step == n) = some r ∧ r.state ≠ 5) ∨ subject ≠ ownStall s ∧
    Nat.xor subject 1 = ownStall s) :=
  ⟨cwState 5 5 [tRec 4 2, tRec 5 1], 3, cwCmd 5 5, 5, 5, ⟨by decide +kernel, by decide +kernel, by decide +kernel⟩,
    by decide +kernel, by decide +kernel, by decide +kernel, by decide +kernel, (.inl ⟨by decide +kernel, tRec 5 1,
    by decide +kernel⟩)⟩

theorem wit_CrossWeighs_1b :
    ∃ s : State, ∃ slot, ∃ c, ∃ n, ∃ subject, (IsBegun s slot 0x0503 c) ∧ (fromTraining s c = true) ∧
    (s.stepSt.weigh = none) ∧ (n = Pkt.p0 c.packet) ∧ (subject = Pkt.p1 c.packet % 32) ∧ (subject = ownStall s ∧
    (∃ r, s.stepSt.recs.find? (fun r => r.step == n) = some r ∧ r.state ≠ 5) ∨ subject ≠ ownStall s ∧
    Nat.xor subject 1 = ownStall s) :=
  ⟨cwState 9 4 [tRec 5 1], 3, cwCmd 9 4, 9, 4, ⟨by decide +kernel, by decide +kernel, by decide +kernel⟩,
    by decide +kernel, by decide +kernel, by decide +kernel, by decide +kernel, (.inr (by decide +kernel))⟩

theorem wit_CrossWeighs_2 :
    ∃ s : State, ∃ slot, ∃ c, ∃ n, ∃ subject, (IsBegun s slot 0x0503 c) ∧ (fromTraining s c = true) ∧
    (s.stepSt.weigh = none) ∧ (n = Pkt.p0 c.packet) ∧ (subject = Pkt.p1 c.packet % 32) ∧
    (∀ d ∈ queueCmds s c.queue, d.ord ≤ c.ord) ∧ (subject ≠ ownStall s) ∧ (Nat.xor subject 1 ≠ ownStall s) :=
  ⟨cwState 5 31 [tRec 5 1], 3, cwCmd 5 31, 5, 31, ⟨by decide +kernel, by decide +kernel, by decide +kernel⟩,
    by decide +kernel, by decide +kernel, by decide +kernel, by decide +kernel, by decide +kernel,
    by decide +kernel, by decide +kernel⟩

theorem wit_CrossWeighs_3 :
    ∃ s : State, ∃ slot, ∃ c, ∃ n, ∃ subject, (IsBegun s slot 0x0503 c) ∧ (fromTraining s c = true) ∧
    (s.stepSt.weigh = none) ∧ (n = Pkt.p0 c.packet) ∧ (subject = Pkt.p1 c.packet % 32) ∧
    (∀ d ∈ queueCmds s c.queue, d.ord ≤ c.ord) ∧ (subject = ownStall s) ∧ (∀ r ∈ s.stepSt.recs, r.step ≠ n) :=
  ⟨cwState 6 5 [tRec 5 1], 3, cwCmd 6 5, 6, 5, ⟨by decide +kernel, by decide +kernel, by decide +kernel⟩,
    by decide +kernel, by decide +kernel, by decide +kernel, by decide +kernel, by decide +kernel,
    by decide +kernel, by decide +kernel⟩

theorem wit_CrossWeighs_4 :
    ∃ s : State, ∃ slot, ∃ w, ∃ o, ∃ sb, ∃ b, ∃ o', ∃ c, (s.stepSt.weigh = some w) ∧ (w.cmd = slot) ∧
    (findCmd s slot = some c) ∧ (c.gather = []) ∧ (∀ d ∈ s.cmds, d.slot = slot → d = c) ∧
    (o' = (if w.subject = ownStall s then (match s.stepSt.recs.find? (fun r => r.step == w.step) with | some r => layerDigests s r w.layer | none => o) else o)) ∧
    (sb = b) ∧ (o' = sb) :=
  ⟨cwOn 4, 3, cwW 4, [1, 2], [1, 2], [1, 2], [1, 2], cwCmd 5 4, by decide +kernel, by decide +kernel,
    by decide +kernel, by decide +kernel, by decide +kernel, by decide +kernel, by decide +kernel,
    by decide +kernel⟩

theorem wit_CrossWeighs_5 :
    ∃ s : State, ∃ slot, ∃ w, ∃ o, ∃ sb, ∃ b, ∃ o', ∃ c, (s.stepSt.weigh = some w) ∧ (w.cmd = slot) ∧
    (findCmd s slot = some c) ∧ (c.gather = []) ∧ (∀ d ∈ s.cmds, d.slot = slot → d = c) ∧
    (o' = (if w.subject = ownStall s then (match s.stepSt.recs.find? (fun r => r.step == w.step) with | some r => layerDigests s r w.layer | none => o) else o)) ∧
    (weighRow o' sb b ≠ 1) :=
  ⟨cwOn 5, 3, cwW 5, [1, 2], [1, 2], [1, 3], [], cwCmd 5 5, by decide +kernel, by decide +kernel, by decide +kernel,
    by decide +kernel, by decide +kernel, by decide +kernel, by decide +kernel⟩

end ReplaysAndWeighsW

/-! ### CheckpointsAndTakeovers -/

namespace CheckpointsAndTakeoversW

def ckCmd (t : Nat) : Cmd := tCmd 0x504 t 0 0
def ckState (t : Nat) (k : Ckpt) : State := { tTrain (ckCmd t) with stepSt := { (tTrain (ckCmd t)).stepSt with recs := [tRec 5 1], ckpt := k } }

theorem wit_Checkpoints_1 :
    ∃ s : State, ∃ slot, ∃ c, ∃ k, (IsBegun s slot 0x0504 c) ∧ (k = s.stepSt.ckpt) ∧ (fromTraining s c = true) ∧
    (∀ d ∈ queueCmds s c.queue, d.ord ≤ c.ord) ∧ (Pkt.p0 c.packet % 256 = 0x80) ∧ (k.state = 2) :=
  ⟨ckState 0x80 { gen := 4, state := 2, changed := [0, 1], carried := [1] }, 3, ckCmd 0x80,
    { gen := 4, state := 2, changed := [0, 1], carried := [1] }, ⟨by decide +kernel, by decide +kernel,
    by decide +kernel⟩, by decide +kernel, by decide +kernel, by decide +kernel, by decide +kernel,
    by decide +kernel⟩

theorem wit_Checkpoints_2 :
    ∃ s : State, ∃ slot, ∃ c, ∃ k, (IsBegun s slot 0x0504 c) ∧ (k = s.stepSt.ckpt) ∧ (fromTraining s c = true) ∧
    (∀ d ∈ queueCmds s c.queue, d.ord ≤ c.ord) ∧ (Pkt.p0 c.packet % 256 = 0x80) ∧ (k.state ≠ 2) :=
  ⟨ckState 0x80 { gen := 4, state := 1 }, 3, ckCmd 0x80, { gen := 4, state := 1 }, ⟨by decide +kernel,
    by decide +kernel, by decide +kernel⟩, by decide +kernel, by decide +kernel, by decide +kernel,
    by decide +kernel, by decide +kernel⟩

theorem wit_Checkpoints_3 :
    ∃ s : State, ∃ slot, ∃ c, ∃ k, (IsBegun s slot 0x0504 c) ∧ (k = s.stepSt.ckpt) ∧ (fromTraining s c = true) ∧
    (∀ d ∈ queueCmds s c.queue, d.ord ≤ c.ord) ∧ (1 ≤ Pkt.p0 c.packet % 256) ∧ (Pkt.p0 c.packet % 256 ≤ 5) ∧
    (dirOn s = true) ∧ (s.stepSt.dir.ckpt ≠ 0) ∧ (k.cmd ≠ some slot) ∧ (k.state ≠ 1) ∧ (k.state ≠ 2) :=
  ⟨ckState 5 { gen := 4, state := 3, changed := [1] }, 3, ckCmd 5, { gen := 4, state := 3, changed := [1] },
    ⟨by decide +kernel, by decide +kernel, by decide +kernel⟩, by decide +kernel, by decide +kernel,
    by decide +kernel, by decide +kernel, by decide +kernel, by decide +kernel, by decide +kernel,
    by decide +kernel, by decide +kernel, by decide +kernel⟩

theorem wit_Checkpoints_4 :
    ∃ s : State, ∃ slot, ∃ c, ∃ k, (IsBegun s slot 0x0504 c) ∧ (k = s.stepSt.ckpt) ∧ (fromTraining s c = true) ∧
    (∀ d ∈ queueCmds s c.queue, d.ord ≤ c.ord) ∧ (1 ≤ Pkt.p0 c.packet % 256) ∧ (Pkt.p0 c.packet % 256 ≤ 5) ∧
    (dirOn s = true) ∧ (s.stepSt.dir.ckpt ≠ 0) ∧ (k.cmd ≠ some slot) ∧ (k.state = 1 ∨ k.state = 2) :=
  ⟨ckState 1 { gen := 4, state := 2 }, 3, ckCmd 1, { gen := 4, state := 2 }, ⟨by decide +kernel, by decide +kernel,
    by decide +kernel⟩, by decide +kernel, by decide +kernel, by decide +kernel, by decide +kernel,
    by decide +kernel, by decide +kernel, by decide +kernel, by decide +kernel, by decide +kernel⟩

theorem wit_Checkpoints_5 :
    ∃ s : State, ∃ slot, ∃ c, ∃ k, (IsBegun s slot 0x0504 c) ∧ (k = s.stepSt.ckpt) ∧ (fromTraining s c = true) ∧
    (∀ d ∈ queueCmds s c.queue, d.ord ≤ c.ord) ∧ (1 ≤ Pkt.p0 c.packet % 256) ∧ (Pkt.p0 c.packet % 256 ≤ 5) ∧
    (dirOn s = true) ∧ (s.stepSt.dir.ckpt ≠ 0) ∧ (k.cmd = some slot) ∧ (ckptOpen s (k.gen + 1) = false) ∧
    (k.state ≠ 3) :=
  ⟨ckState 1 { gen := 4, state := 1, cmd := some 3 }, 3, ckCmd 1, { gen := 4, state := 1, cmd := some 3 },
    ⟨by decide +kernel, by decide +kernel, by decide +kernel⟩, by decide +kernel, by decide +kernel,
    by decide +kernel, by decide +kernel, by decide +kernel, by decide +kernel, by decide +kernel,
    by decide +kernel, by decide +kernel, by decide +kernel⟩

theorem wit_Checkpoints_6 :
    ∃ s : State, ∃ slot, ∃ c, ∃ k, (IsBegun s slot 0x0504 c) ∧ (k = s.stepSt.ckpt) ∧ (fromTraining s c = true) ∧
    (∀ d ∈ queueCmds s c.queue, d.ord ≤ c.ord) ∧ (1 ≤ Pkt.p0 c.packet % 256) ∧ (Pkt.p0 c.packet % 256 ≤ 5) ∧
    (dirOn s = true) ∧ (s.stepSt.dir.ckpt ≠ 0) ∧ (k.cmd = some slot) ∧ (ckptOpen s (k.gen + 1) = false) ∧
    (k.state = 3) :=
  ⟨ckState 1 { gen := 4, state := 3, cmd := some 3, reason := 0x60 }, 3, ckCmd 1,
    { gen := 4, state := 3, cmd := some 3, reason := 0x60 }, ⟨by decide +kernel, by decide +kernel,
    by decide +kernel⟩, by decide +kernel, by decide +kernel, by decide +kernel, by decide +kernel,
    by decide +kernel, by decide +kernel, by decide +kernel, by decide +kernel, by decide +kernel,
    by decide +kernel⟩

def tkCmd : Cmd := tCmd 0x506 0 15 0
def tkState (took m2 : Bool) (t : Option Takeover) : State :=
  { tTrain tkCmd with fab := { (tTrain tkCmd).fab with chip := some 48 }, substs := [(0, { enable := true, logical := 3, phys := 4 })]
                      stepSt := { (tTrain tkCmd).stepSt with took, mirror2 := m2, takeover := t } }

theorem wit_Takeovers_1 :
    ∃ s : State, ∃ slot, ∃ c, ∃ stall, (IsBegun s slot 0x0506 c) ∧ (fromTraining s c = true) ∧
    (stall = Pkt.p1 c.packet % 32) ∧ (s.stepSt.takeover = none) ∧ (stall ≤ 15) ∧ (chipStall (ownChip s) = 16) ∧
    (s.fab.chip ≠ none) ∧ (s.stepSt.replay = none) ∧ (dirOn s = true) ∧ (s.stepSt.took = false) :=
  ⟨tkState false false none, 3, tkCmd, 15, ⟨by decide +kernel, by decide +kernel, by decide +kernel⟩,
    by decide +kernel, by decide +kernel, by decide +kernel, by decide +kernel, by decide +kernel,
    by decide +kernel, by decide +kernel, by decide +kernel, by decide +kernel⟩

theorem wit_Takeovers_2 :
    ∃ s : State, ∃ slot, ∃ c, ∃ stall, (IsBegun s slot 0x0506 c) ∧ (fromTraining s c = true) ∧
    (stall = Pkt.p1 c.packet % 32) ∧ (s.stepSt.takeover = none) ∧ (stall ≤ 15) ∧ (chipStall (ownChip s) = 16) ∧
    (s.fab.chip ≠ none) ∧ (s.stepSt.replay = none) ∧ (dirOn s = true) ∧ (s.stepSt.took = true) ∧
    (∀ d ∈ queueCmds s c.queue, d.ord ≤ c.ord) :=
  ⟨tkState true false none, 3, tkCmd, 15, ⟨by decide +kernel, by decide +kernel, by decide +kernel⟩,
    by decide +kernel, by decide +kernel, by decide +kernel, by decide +kernel, by decide +kernel,
    by decide +kernel, by decide +kernel, by decide +kernel, by decide +kernel, by decide +kernel⟩

theorem wit_Takeovers_3 :
    ∃ s : State, ∃ t0, ∃ c, (s.stepSt.takeover = some t0) ∧ (t0.source = 0) ∧ (findCmd s t0.cmd = some c) ∧
    (c.gather = []) ∧ (∀ d ∈ s.cmds, d.slot = t0.cmd → d = c) ∧ (∀ d ∈ queueCmds s c.queue, d.ord ≤ c.ord) ∧
    (s.stepSt.mirror2 = true) :=
  ⟨tkState false true (some { cmd := 3, stall := 15, source := 0, asked := true }),
    { cmd := 3, stall := 15, source := 0, asked := true }, tkCmd, by decide +kernel, by decide +kernel,
    by decide +kernel, by decide +kernel, by decide +kernel, by decide +kernel, by decide +kernel⟩

theorem wit_Takeovers_4 :
    ∃ s : State, ∃ t0, ∃ c, (s.stepSt.takeover = some t0) ∧ (t0.source = 0) ∧ (findCmd s t0.cmd = some c) ∧
    (c.gather = []) ∧ (∀ d ∈ s.cmds, d.slot = t0.cmd → d = c) ∧ (∀ d ∈ queueCmds s c.queue, d.ord ≤ c.ord) ∧
    (s.stepSt.mirror2 = false) :=
  ⟨tkState false false (some { cmd := 3, stall := 15, source := 0, asked := true }),
    { cmd := 3, stall := 15, source := 0, asked := true }, tkCmd, by decide +kernel, by decide +kernel,
    by decide +kernel, by decide +kernel, by decide +kernel, by decide +kernel, by decide +kernel⟩

end CheckpointsAndTakeoversW

/-! ### Partitions -/

namespace PartitionsW

def paState (op p0 : Nat) (lc : Nat) (parts : List (Nat × Part)) : State :=
  { tCmdState (tCmd op p0 0 0) with parts, fuse := { f := { lifecycle := lc, templates := 0x1F } }
                                    mem := { cells := [(7, 9#8)] }, ctxs := [(1, { enable := true, part := 1, state := 2, gen := 2, tallyCount := 64 })] }

theorem wit_Partitions_1 :
    ∃ s : State, ∃ slot, ∃ c, ∃ t, ∃ i, ∃ dies, ∃ p, (IsBegun s slot 0x0801 c) ∧ (t = Pkt.p0 c.packet % 8) ∧
    (i = Word.bitsOf (Pkt.p0 c.packet) 7 4) ∧ (dies = instDies s t i) ∧ (dies.head? = some p) ∧ (s.fuse.prov ≠ 3) ∧
    (templAllowed s t = true) ∧ (∀ x ∈ s.parts, x.2.state ≠ 0 → ∀ d ∈ x.2.dies, d ∉ dies) :=
  ⟨paState 0x801 0x11 1 [(2, { dies := [0], state := 3, enable := true })], 3, tCmd 0x801 0x11 0 0, 1, 1, [4, 5, 6,
    7], 4, ⟨by decide +kernel, by decide +kernel, by decide +kernel⟩, by decide +kernel, by decide +kernel,
    by decide +kernel, by decide +kernel, by decide +kernel, by decide +kernel, by decide +kernel⟩

theorem wit_Partitions_1b :
    ∃ s : State, ∃ slot, ∃ c, ∃ t, ∃ i, ∃ dies, ∃ p, (IsBegun s slot 0x0801 c) ∧ (t = Pkt.p0 c.packet % 8) ∧
    (i = Word.bitsOf (Pkt.p0 c.packet) 7 4) ∧ (dies = instDies s t i) ∧ (dies.head? = some p) ∧ (s.fuse.prov ≠ 3) ∧
    (templAllowed s t = true) ∧ (∀ x ∈ s.parts, x.2.state ≠ 0 → ∀ d ∈ x.2.dies, d ∉ dies) :=
  ⟨paState 0x801 0 0 [], 3, tCmd 0x801 0 0 0, 0, 0, List.range 8, 0, ⟨by decide +kernel, by decide +kernel,
    by decide +kernel⟩, by decide +kernel, by decide +kernel, by decide +kernel, by decide +kernel,
    by decide +kernel, by decide +kernel, by decide +kernel⟩

theorem wit_Partitions_2 :
    ∃ s : State, ∃ slot, ∃ c, ∃ t, ∃ i, ∃ dies, ∃ p, ∃ r, (IsBegun s slot 0x0801 c) ∧ (t = Pkt.p0 c.packet % 8) ∧
    (i = Word.bitsOf (Pkt.p0 c.packet) 7 4) ∧ (dies = instDies s t i) ∧ (dies.head? = some p) ∧
    (∀ d ∈ queueCmds s c.queue, d.ord ≤ c.ord) ∧ (s.fuse.prov = 3 ∧ r = 0x2B ∨ s.fuse.prov ≠ 3 ∧
    templAllowed s t = false ∧ r = 0x22 ∨ s.fuse.prov ≠ 3 ∧ templAllowed s t = true ∧ (∃ x ∈ s.parts,
    x.2.state ≠ 0 ∧ ∃ d ∈ x.2.dies, d ∈ dies) ∧ r = 0x23) :=
  ⟨{ paState 0x801 0x11 1 [] with fuse := { prov := 3 } }, 3, tCmd 0x801 0x11 0 0, 1, 1, [4, 5, 6, 7], 4, 0x2B,
    ⟨by decide +kernel, by decide +kernel, by decide +kernel⟩, by decide +kernel, by decide +kernel,
    by decide +kernel, by decide +kernel, by decide +kernel, (.inl ⟨rfl, rfl⟩)⟩

theorem wit_Partitions_2b :
    ∃ s : State, ∃ slot, ∃ c, ∃ t, ∃ i, ∃ dies, ∃ p, ∃ r, (IsBegun s slot 0x0801 c) ∧ (t = Pkt.p0 c.packet % 8) ∧
    (i = Word.bitsOf (Pkt.p0 c.packet) 7 4) ∧ (dies = instDies s t i) ∧ (dies.head? = some p) ∧
    (∀ d ∈ queueCmds s c.queue, d.ord ≤ c.ord) ∧ (s.fuse.prov = 3 ∧ r = 0x2B ∨ s.fuse.prov ≠ 3 ∧
    templAllowed s t = false ∧ r = 0x22 ∨ s.fuse.prov ≠ 3 ∧ templAllowed s t = true ∧ (∃ x ∈ s.parts,
    x.2.state ≠ 0 ∧ ∃ d ∈ x.2.dies, d ∈ dies) ∧ r = 0x23) :=
  ⟨paState 0x801 0x11 0 [], 3, tCmd 0x801 0x11 0 0, 1, 1, [4, 5, 6, 7], 4, 0x22, ⟨by decide +kernel,
    by decide +kernel, by decide +kernel⟩, by decide +kernel, by decide +kernel, by decide +kernel,
    by decide +kernel, by decide +kernel, (.inr (.inl ⟨by decide +kernel, by decide +kernel, rfl⟩))⟩

theorem wit_Partitions_2c :
    ∃ s : State, ∃ slot, ∃ c, ∃ t, ∃ i, ∃ dies, ∃ p, ∃ r, (IsBegun s slot 0x0801 c) ∧ (t = Pkt.p0 c.packet % 8) ∧
    (i = Word.bitsOf (Pkt.p0 c.packet) 7 4) ∧ (dies = instDies s t i) ∧ (dies.head? = some p) ∧
    (∀ d ∈ queueCmds s c.queue, d.ord ≤ c.ord) ∧ (s.fuse.prov = 3 ∧ r = 0x2B ∨ s.fuse.prov ≠ 3 ∧
    templAllowed s t = false ∧ r = 0x22 ∨ s.fuse.prov ≠ 3 ∧ templAllowed s t = true ∧ (∃ x ∈ s.parts,
    x.2.state ≠ 0 ∧ ∃ d ∈ x.2.dies, d ∈ dies) ∧ r = 0x23) :=
  ⟨paState 0x801 0x11 1 [(6, { dies := [6], state := 2 })], 3, tCmd 0x801 0x11 0 0, 1, 1, [4, 5, 6, 7], 4, 0x23,
    ⟨by decide +kernel, by decide +kernel, by decide +kernel⟩, by decide +kernel, by decide +kernel,
    by decide +kernel, by decide +kernel, by decide +kernel, (.inr (.inr ⟨by decide +kernel, by decide +kernel,
    by decide +kernel, rfl⟩))⟩

theorem wit_Partitions_3 :
    ∃ s : State, ∃ p, ∃ v : W64, ∃ x, (hostOpen s = true) ∧ (p < 8) ∧ (rbit v 63 = true) ∧ (x = getPart s p) ∧
    (x.enable = false) :=
  ⟨{ tHost with parts := [(1, { dies := [1], templ := 3, state := 2, life := 1 })], fuse := { f := { lifecycle := 1, templates := 8 } } },
    1, 0x8000000000000000#64, { dies := [1], templ := 3, state := 2, life := 1 }, by decide +kernel,
    by decide +kernel, by decide +kernel, by decide +kernel, by decide +kernel⟩

theorem wit_Partitions_4 :
    ∃ s : State, ∃ slot, ∃ c, ∃ p, (IsBegun s slot 0x0802 c) ∧ (p = Pkt.p0 c.packet % 8) ∧ (getPart s p).state ≠ 0 ∧
    (partContexts s p = 0) :=
  ⟨{ paState 0x802 2 1 [(2, { dies := [2], state := 3, enable := true })] with pcie := { aperWin := [(4, 0x8200000000000007#64), (5, 0x8300000000000007#64)] } },
    3, tCmd 0x802 2 0 0, 2, ⟨by decide +kernel, by decide +kernel, by decide +kernel⟩, by decide +kernel,
    by decide +kernel, by decide +kernel⟩

theorem wit_Partitions_5 :
    ∃ s : State, ∃ slot, ∃ c, ∃ p, ∃ r, (IsBegun s slot 0x0802 c) ∧ (p = Pkt.p0 c.packet % 8) ∧
    (∀ d ∈ queueCmds s c.queue, d.ord ≤ c.ord) ∧ ((getPart s p).state = 0 ∧ r = 0x20 ∨ (getPart s p).state ≠ 0 ∧
    partContexts s p ≠ 0 ∧ r = 0x29) :=
  ⟨paState 0x802 2 1 [], 3, tCmd 0x802 2 0 0, 2, 0x20, ⟨by decide +kernel, by decide +kernel, by decide +kernel⟩,
    by decide +kernel, by decide +kernel, (.inl ⟨by decide +kernel, rfl⟩)⟩

theorem wit_Partitions_5b :
    ∃ s : State, ∃ slot, ∃ c, ∃ p, ∃ r, (IsBegun s slot 0x0802 c) ∧ (p = Pkt.p0 c.packet % 8) ∧
    (∀ d ∈ queueCmds s c.queue, d.ord ≤ c.ord) ∧ ((getPart s p).state = 0 ∧ r = 0x20 ∨ (getPart s p).state ≠ 0 ∧
    partContexts s p ≠ 0 ∧ r = 0x29) :=
  ⟨paState 0x802 1 1 [(1, { dies := [2], state := 3, enable := true })], 3, tCmd 0x802 1 0 0, 1, 0x29,
    ⟨by decide +kernel, by decide +kernel, by decide +kernel⟩, by decide +kernel, by decide +kernel,
    (.inr ⟨by decide +kernel, by decide +kernel, rfl⟩)⟩

end PartitionsW

/-! ### ContextLife -/

namespace ContextLifeW

def cxCmd (op p0 p1 p2 : Nat) : Cmd := tCmd op p0 p1 p2
def cxState (op p0 p1 p2 : Nat) (x : Ctx) : State :=
  { tCmdState (cxCmd op p0 p1 p2) with parts := [(1, { dies := List.range 8, state := 3, enable := true })], ctxs := [(0, { state := 4, gen := 7 }), (1, x)]
                                       fuse := { f := { lifecycle := 1 } }, tallies := [(99, 5#64), (100, 6#64), (120, 7#64), (121, 8#64)] }
def cxLive : Ctx := { enable := true, part := 1, state := 2, gen := 2, tallyCount := 64 }
def cxOld : Ctx := { state := 4, gen := 0xFFFF }

theorem wit_Contexts_1 :
    ∃ s : State, ∃ slot, ∃ c, ∃ part, ∃ training, ∃ first, ∃ last, ∃ n, ∃ gen, (IsBegun s slot 0x0803 c) ∧
    (part = Pkt.p0 c.packet % 8) ∧ (training = Word.bitOf (Pkt.p0 c.packet) 8) ∧
    (first = Pkt.p1 c.packet % 2 ^ 16) ∧ (last = first + Pkt.p2 c.packet % 2 ^ 16) ∧
    (ctxRefusal s part training first last = none) ∧ (freeCtx s = some n) ∧ (gen = nextGen (getCtx s n).gen) :=
  ⟨cxState 0x803 0x101 100 20 cxLive, 3, cxCmd 0x803 0x101 100 20, 1, true, 100, 120, 2, 1, ⟨by decide +kernel,
    by decide +kernel, by decide +kernel⟩, by decide +kernel, by decide +kernel, by decide +kernel,
    by decide +kernel, by decide +kernel, by decide +kernel, by decide +kernel⟩

theorem wit_Contexts_1b :
    ∃ s : State, ∃ slot, ∃ c, ∃ part, ∃ training, ∃ first, ∃ last, ∃ n, ∃ gen, (IsBegun s slot 0x0803 c) ∧
    (part = Pkt.p0 c.packet % 8) ∧ (training = Word.bitOf (Pkt.p0 c.packet) 8) ∧
    (first = Pkt.p1 c.packet % 2 ^ 16) ∧ (last = first + Pkt.p2 c.packet % 2 ^ 16) ∧
    (ctxRefusal s part training first last = none) ∧ (freeCtx s = some n) ∧ (gen = nextGen (getCtx s n).gen) :=
  ⟨{ cxState 0x803 1 100 20 cxLive with ctxs := [(0, { gen := 0xFFFF }), (1, cxLive)] }, 3, cxCmd 0x803 1 100 20, 1,
    false, 100, 120, 0, 1, ⟨by decide +kernel, by decide +kernel, by decide +kernel⟩, by decide +kernel,
    by decide +kernel, by decide +kernel, by decide +kernel, by decide +kernel, by decide +kernel,
    by decide +kernel⟩

theorem wit_Contexts_2 :
    ∃ s : State, ∃ slot, ∃ c, ∃ part, ∃ training, ∃ first, ∃ last, ∃ r, (IsBegun s slot 0x0803 c) ∧
    (part = Pkt.p0 c.packet % 8) ∧ (training = Word.bitOf (Pkt.p0 c.packet) 8) ∧
    (first = Pkt.p1 c.packet % 2 ^ 16) ∧ (last = first + Pkt.p2 c.packet % 2 ^ 16) ∧
    (ctxRefusal s part training first last = some r) ∧ (∀ d ∈ queueCmds s c.queue, d.ord ≤ c.ord) :=
  ⟨cxState 0x803 1 64 20 cxLive, 3, cxCmd 0x803 1 64 20, 1, false, 64, 84, 0x2C, ⟨by decide +kernel,
    by decide +kernel, by decide +kernel⟩, by decide +kernel, by decide +kernel, by decide +kernel,
    by decide +kernel, by decide +kernel, by decide +kernel⟩

theorem wit_Contexts_3 :
    ∃ s : State, ∃ n, ∃ v : W64, ∃ x, (hostOpen s = true) ∧ (n < 256) ∧ (rbit v 63 = true) ∧ (x = getCtx s n) ∧
    (x.enable = false) :=
  ⟨{ tHost with ctxs := [(1, { cxLive with state := 1, enable := false })], parts := [(1, { dies := [1], state := 3, enable := true })] },
    1, 0x8000000000000000#64, { cxLive with state := 1, enable := false }, by decide +kernel, by decide +kernel,
    by decide +kernel, by decide +kernel, by decide +kernel⟩

theorem wit_Contexts_4 :
    ∃ s : State, ∃ slot, ∃ c, ∃ n, ∃ p2, ∃ x, (IsBegun s slot 0x0804 c) ∧ (n = Pkt.p0 c.packet % 256) ∧
    (p2 = Pkt.p2 c.packet) ∧ (x = getCtx s n) ∧ (x.state = 1 ∨ x.state = 2) ∧ (∀ l ∈ s.launches, l.2.ctx ≠ n) :=
  ⟨cxState 0x804 1 0x1234 (7 * 2 ^ 60 + 9 * 2 ^ 16 + 3) cxLive, 3,
    cxCmd 0x804 1 0x1234 (7 * 2 ^ 60 + 9 * 2 ^ 16 + 3), 1, 7 * 2 ^ 60 + 9 * 2 ^ 16 + 3, cxLive, ⟨by decide +kernel,
    by decide +kernel, by decide +kernel⟩, by decide +kernel, by decide +kernel, by decide +kernel, (.inr rfl),
    by decide +kernel⟩

theorem wit_Contexts_5 :
    ∃ s : State, ∃ slot, ∃ c, ∃ n, ∃ x, (IsBegun s slot 0x0805 c) ∧ (n = Pkt.p0 c.packet % 256) ∧ (x = getCtx s n) ∧
    (x.destroyCmd ≠ some slot) ∧ (Pkt.p0 c.packet / 2 ^ 16 % 2 ^ 16 = x.gen) ∧ (x.state = 1 ∨ x.state = 2) :=
  ⟨cxState 0x805 0x20001 0 0 cxLive, 3, cxCmd 0x805 0x20001 0 0, 1, cxLive, ⟨by decide +kernel, by decide +kernel,
    by decide +kernel⟩, by decide +kernel, by decide +kernel, by decide +kernel, by decide +kernel, (.inr rfl)⟩

theorem wit_Contexts_6 :
    ∃ s : State, ∃ slot, ∃ c, ∃ n, ∃ x, ∃ r, (IsBegun s slot 0x0805 c) ∧ (n = Pkt.p0 c.packet % 256) ∧
    (x = getCtx s n) ∧ (x.destroyCmd ≠ some slot) ∧ (∀ d ∈ queueCmds s c.queue, d.ord ≤ c.ord) ∧
    (Pkt.p0 c.packet / 2 ^ 16 % 2 ^ 16 ≠ x.gen ∧ r = 0x21 ∨ Pkt.p0 c.packet / 2 ^ 16 % 2 ^ 16 = x.gen ∧
    x.state = 3 ∧ r = 0x27 ∨ Pkt.p0 c.packet / 2 ^ 16 % 2 ^ 16 = x.gen ∧ (x.state = 0 ∨ x.state = 4) ∧ r = 0x28) :=
  ⟨cxState 0x805 0x30001 0 0 cxLive, 3, cxCmd 0x805 0x30001 0 0, 1, cxLive, 0x21, ⟨by decide +kernel,
    by decide +kernel, by decide +kernel⟩, by decide +kernel, by decide +kernel, by decide +kernel,
    by decide +kernel, (.inl ⟨by decide +kernel, rfl⟩)⟩

theorem wit_Contexts_6b :
    ∃ s : State, ∃ slot, ∃ c, ∃ n, ∃ x, ∃ r, (IsBegun s slot 0x0805 c) ∧ (n = Pkt.p0 c.packet % 256) ∧
    (x = getCtx s n) ∧ (x.destroyCmd ≠ some slot) ∧ (∀ d ∈ queueCmds s c.queue, d.ord ≤ c.ord) ∧
    (Pkt.p0 c.packet / 2 ^ 16 % 2 ^ 16 ≠ x.gen ∧ r = 0x21 ∨ Pkt.p0 c.packet / 2 ^ 16 % 2 ^ 16 = x.gen ∧
    x.state = 3 ∧ r = 0x27 ∨ Pkt.p0 c.packet / 2 ^ 16 % 2 ^ 16 = x.gen ∧ (x.state = 0 ∨ x.state = 4) ∧ r = 0x28) :=
  ⟨cxState 0x805 0x20001 0 0 { cxLive with state := 3 }, 3, cxCmd 0x805 0x20001 0 0, 1, { cxLive with state := 3 },
    0x27, ⟨by decide +kernel, by decide +kernel, by decide +kernel⟩, by decide +kernel, by decide +kernel,
    by decide +kernel, by decide +kernel, (.inr (.inl ⟨by decide +kernel, rfl, rfl⟩))⟩

theorem wit_Contexts_6c :
    ∃ s : State, ∃ slot, ∃ c, ∃ n, ∃ x, ∃ r, (IsBegun s slot 0x0805 c) ∧ (n = Pkt.p0 c.packet % 256) ∧
    (x = getCtx s n) ∧ (x.destroyCmd ≠ some slot) ∧ (∀ d ∈ queueCmds s c.queue, d.ord ≤ c.ord) ∧
    (Pkt.p0 c.packet / 2 ^ 16 % 2 ^ 16 ≠ x.gen ∧ r = 0x21 ∨ Pkt.p0 c.packet / 2 ^ 16 % 2 ^ 16 = x.gen ∧
    x.state = 3 ∧ r = 0x27 ∨ Pkt.p0 c.packet / 2 ^ 16 % 2 ^ 16 = x.gen ∧ (x.state = 0 ∨ x.state = 4) ∧ r = 0x28) :=
  ⟨cxState 0x805 0xFFFF0001 0 0 cxOld, 3, cxCmd 0x805 0xFFFF0001 0 0, 1, cxOld, 0x28, ⟨by decide +kernel,
    by decide +kernel, by decide +kernel⟩, by decide +kernel, by decide +kernel, by decide +kernel,
    by decide +kernel, (.inr (.inr ⟨by decide +kernel, .inr rfl, rfl⟩))⟩

def ceState (x : Ctx) : State := { tFab (tFrame 1) with ctxs := [(1, x), (2, { state := 2, gen := 1 })], cmds := [tCmd 0x805 0x20001 0 0] }
def ceEnd (peers : List (Nat × Nat)) : Ctx := { enable := true, part := 1, state := 3, gen := 2, tallyCount := 64, peers, destroyCmd := some 3, reason := 0x27 }

theorem wit_ContextEnds_1 :
    ∃ s : State, ∃ ctx, ∃ x, ∃ cmd : Instr, (x = getCtx s ctx) ∧ (x.state = 3) ∧ (x.peers = [] ∧
    cmd = Instr.teardownComplete ctx ∨ x.peers ≠ [] ∧ cmd = .revokeTimeout ctx) :=
  ⟨ceState (ceEnd []), 1, ceEnd [], .teardownComplete 1, by decide +kernel, by decide +kernel, (.inl ⟨rfl, rfl⟩)⟩

theorem wit_ContextEnds_1b :
    ∃ s : State, ∃ ctx, ∃ x, ∃ cmd : Instr, (x = getCtx s ctx) ∧ (x.state = 3) ∧ (x.peers = [] ∧
    cmd = Instr.teardownComplete ctx ∨ x.peers ≠ [] ∧ cmd = .revokeTimeout ctx) :=
  ⟨ceState (ceEnd [(9, 4)]), 1, ceEnd [(9, 4)], .revokeTimeout 1, by decide +kernel, by decide +kernel,
    (.inr ⟨by decide +kernel, rfl⟩)⟩

theorem wit_ContextEnds_2 :
    ∃ s : State, ∃ ctx, (getCtx s ctx).state = 4 :=
  ⟨ceState { state := 4, gen := 2, reason := 0x27 }, 1, by decide +kernel⟩

end ContextLifeW

/-! ### Vacating -/

namespace VacatingW

def vaCmd : Cmd := tCmd 0x505 0 0 0
def vaStep (s : State) (f : StepSt → StepSt) : State := { s with stepSt := f s.stepSt }
def vaAuto : State := { vaStep (tTrain vaCmd) (fun x => { x with notice := some (77#64, 1000) }) with cmds := [], queues := [] }
def vaOffer : State := vaStep (tTrain vaCmd) (fun x => { x with vacate := some { cmd := some 3, phase := 3 } })

theorem wit_Vacating_1 :
    ∃ s : State, ∃ slot, ∃ c, (IsBegun s slot 0x0505 c) ∧ (s.stepSt.vacate = none) ∧ (fromTraining s c = true) ∧
    (endsInTime s = true) ∧ (openRec s = none) ∧
    (stepBusy (setVacate s (some { cmd := some slot, phase := 1 })) (some slot) = false) ∧
    (noticeTime s + eightSeconds ≥ s.time.toNat) :=
  ⟨tTrain vaCmd, 3, vaCmd, ⟨by decide +kernel, by decide +kernel, by decide +kernel⟩, by decide +kernel,
    by decide +kernel, by decide +kernel, by decide +kernel, by decide +kernel, by decide +kernel⟩

theorem wit_Vacating_2 :
    ∃ s : State, ∃ slot, ∃ c, (IsBegun s slot 0x0505 c) ∧ (s.stepSt.vacate = none) ∧ (fromTraining s c = false) ∧
    (∀ d ∈ queueCmds s c.queue, d.ord ≤ c.ord) :=
  ⟨{ tTrain vaCmd with ctxs := [(1, { enable := true, part := 1, state := 2, gen := 2, tallyCount := 64 })] }, 3,
    vaCmd, ⟨by decide +kernel, by decide +kernel, by decide +kernel⟩, by decide +kernel, by decide +kernel,
    by decide +kernel⟩

theorem wit_Vacating_3 :
    ∃ s : State, ∃ ctx, (s.stepSt.notice ≠ none) ∧ (trainingCtx s = some ctx) ∧ (s.stepSt.vacate = none) ∧
    (lowestQueue s ctx = none) ∧ (endsInTime s = true) ∧ (openRec s = none) ∧
    (stepBusy (setVacate s (some { cmd := none, phase := 1 })) none = false) ∧
    (noticeTime s + eightSeconds ≥ s.time.toNat) :=
  ⟨vaAuto, 1, by decide +kernel, by decide +kernel, by decide +kernel, by decide +kernel, by decide +kernel,
    by decide +kernel, by decide +kernel, by decide +kernel⟩

theorem wit_Vacating_4 :
    ∃ s : State, ∃ v, ∃ ctx, (s.stepSt.vacate = some v) ∧ (v.phase = 3) ∧ (trainingCtx s = some ctx) ∧
    (getCtx s ctx).state = 2 :=
  ⟨vaOffer, { cmd := some 3, phase := 3 }, 1, by decide +kernel, by decide +kernel, by decide +kernel,
    by decide +kernel⟩

theorem wit_Vacating_5 :
    ∃ s : State, (s.mgmt.reclaim = 2) ∧ (s.mgmt.vacLeft ≠ 0) :=
  ⟨{ tHost with mgmt := { reclaim := 2, vacLeft := 4, reclaimId := 0x55#64 } }, by decide +kernel, by decide +kernel⟩

theorem wit_Vacating_6 :
    ∃ s : State, (s.mgmt.vacLeft = 0) :=
  ⟨tHost, by decide +kernel⟩

theorem wit_Vacating_7 :
    ∃ s : State, ∃ q, ∃ body : List Byte, (Fresh s q) ∧ (s.boot.phase = 6) ∧ (body.length = 8) ∧ (s.mgmt.reclaim = 0) ∧
    (trainingCtx s ≠ none) :=
  ⟨{ tTrain vaCmd with cmds := [], mgmt := { addressed := true } }, { ident := 4 }, List.replicate 8 7#8,
    ⟨by decide +kernel, by decide +kernel⟩, by decide +kernel, by decide +kernel, by decide +kernel,
    by decide +kernel⟩

end VacatingW

/-! ### MemoryChannels -/

namespace MemoryChannelsW

def muChan : Chan := { state := 1, sparesLeft := 2, sparesUsed := 1, retire := [3, 40, 51] }
def muWeak : Chan := { state := 1, weak := [9] }
def muState (c : Chan) : State := { tTrain (tCmd 0 0 0 0) with mem := { chans := [(70, c)], slices := [(4, { cache := true })], scrub := [(1, { dramPasses := 65535 })] }, ledger := { mode := 1 } }

theorem wit_MemoryUpkeep_2 :
    ∃ s : State, ∃ ch, ∃ c, (c = getChan s ch) :=
  ⟨muState muChan, 70, muChan, by decide +kernel⟩

theorem wit_MemoryUpkeep_4 :
    ∃ s : State, ∃ slice, ∃ f : Finding, (f = .clean ∨ (tget {} s.mem.slices slice).cache = true) :=
  ⟨muState muChan, 4, .uncorrectable [5], (.inr (by decide +kernel))⟩

theorem wit_MemoryUpkeep_5 :
    ∃ s : State, ∃ slice, (tget {} s.mem.slices slice).cache = false :=
  ⟨{ muState muChan with stepSt := { (muState muChan).stepSt with recs := [tRec 5 1], cur := 5 } }, 5,
    by decide +kernel⟩

theorem wit_MemoryUpkeep_7 :
    ∃ s : State, ∃ ch, ∃ c, (c = getChan s ch) ∧ (c.retire.length < c.sparesLeft) :=
  ⟨muState { muChan with sparesLeft := 4 }, 70, { muChan with sparesLeft := 4 }, by decide +kernel, by decide +kernel⟩

theorem wit_MemoryUpkeep_8 :
    ∃ s : State, ∃ ch, ∃ c, (c = getChan s ch) ∧ (c.sparesLeft ≤ c.retire.length) :=
  ⟨muState muChan, 70, muChan, by decide +kernel, by decide +kernel⟩

def chtState (op p0 p1 p2 : Nat) (c : Chan) (ctxs : List (Nat × Ctx)) : State :=
  { tCmdState (tCmd op p0 p1 p2) with mem := { chans := [(70, c)], cells := [(0x1000005000, 3#8), (0x1000006000, 4#8)] }, ctxs, fuse := { f := { lifecycle := 1, debug := 2 } }
                                      parts := [(1, { dies := List.range 8, state := 3, enable := true })] }
def chtTwo (c : Cmd) (c2 : Cmd) : State := { chtState 0x705 0 0 0 { state := 3 } [] with cmds := [c, { c2 with slot := 4 }], fab := { ports := [(6, { cfg := 0x8000000000000000#64 })] } }

theorem wit_ChannelTest_1 :
    ∃ s : State, ∃ slot, ∃ c, ∃ ch, (ch = Pkt.p0 c.packet % 1024) ∧ (IsBegun s slot 0x0702 c) ∧
    (debugAllowed s 1 = true) ∧ (dieInUse s (channelDie ch) = false) :=
  ⟨chtState 0x702 70 0 0 { state := 1, genRun := 2 } [], 3, tCmd 0x702 70 0 0, 70, by decide +kernel,
    ⟨by decide +kernel, by decide +kernel, by decide +kernel⟩, by decide +kernel, by decide +kernel⟩

theorem wit_ChannelTest_2 :
    ∃ s : State, ∃ slot, ∃ c, ∃ ch, ∃ r, (ch = Pkt.p0 c.packet % 1024) ∧ (IsBegun s slot 0x0702 c) ∧
    (∀ d ∈ queueCmds s c.queue, d.ord ≤ c.ord) ∧ (debugAllowed s 1 = false ∧ r = 0x2A ∨ debugAllowed s 1 = true ∧
    dieInUse s (channelDie ch) = true ∧ r = 0x4A) :=
  ⟨{ chtState 0x702 70 0 0 { state := 1, genRun := 2 } [] with fuse := {} }, 3, tCmd 0x702 70 0 0, 70, 0x2A,
    by decide +kernel, ⟨by decide +kernel, by decide +kernel, by decide +kernel⟩, by decide +kernel,
    (.inl ⟨by decide +kernel, rfl⟩)⟩

theorem wit_ChannelTest_2b :
    ∃ s : State, ∃ slot, ∃ c, ∃ ch, ∃ r, (ch = Pkt.p0 c.packet % 1024) ∧ (IsBegun s slot 0x0702 c) ∧
    (∀ d ∈ queueCmds s c.queue, d.ord ≤ c.ord) ∧ (debugAllowed s 1 = false ∧ r = 0x2A ∨ debugAllowed s 1 = true ∧
    dieInUse s (channelDie ch) = true ∧ r = 0x4A) :=
  ⟨chtState 0x702 70 0 0 { state := 1, genRun := 2 } [(1, { part := 1, state := 2 })], 3, tCmd 0x702 70 0 0, 70,
    0x4A, by decide +kernel, ⟨by decide +kernel, by decide +kernel, by decide +kernel⟩, by decide +kernel,
    (.inr ⟨by decide +kernel, by decide +kernel, rfl⟩)⟩

theorem wit_ChannelTest_3 :
    ∃ s : State, ∃ slot, ∃ c, ∃ ch, (ch = Pkt.p0 c.packet % 1024) ∧ (IsBegun s slot 0x0703 c) ∧ (getChan s ch).state = 3 :=
  ⟨chtState 0x703 70 0 0 { state := 3, genRun := 1 } [], 3, tCmd 0x703 70 0 0, 70, by decide +kernel,
    ⟨by decide +kernel, by decide +kernel, by decide +kernel⟩, by decide +kernel⟩

theorem wit_ChannelTest_4 :
    ∃ s : State, ∃ slot, ∃ c, ∃ ch, (ch = Pkt.p0 c.packet % 1024) ∧ (IsBegun s slot 0x0703 c) ∧
    (getChan s ch).state ≠ 3 ∧ (∀ d ∈ queueCmds s c.queue, d.ord ≤ c.ord) :=
  ⟨chtState 0x703 71 0 0 { state := 3, genRun := 1 } [], 3, tCmd 0x703 71 0 0, 71, by decide +kernel,
    ⟨by decide +kernel, by decide +kernel, by decide +kernel⟩, by decide +kernel, by decide +kernel⟩

theorem wit_ChannelTest_5 :
    ∃ s : State, ∃ ch, ∃ v : W64, ∃ c, (hostOpen s = true) ∧ (ch < 640) ∧ (c = getChan s ch) ∧ (rbit v 0 = true) ∧
    (rbit v 1 = false) :=
  ⟨{ tHost with mem := { chans := [(70, { state := 3, lanesHi := 7 })] } }, 70, 0x12345678FFFFFFFD#64,
    { state := 3, lanesHi := 7 }, by decide +kernel, by decide +kernel, by decide +kernel, by decide +kernel,
    by decide +kernel⟩

theorem wit_ChannelTest_6 :
    ∃ s : State, ∃ ch, ∃ v : W64, ∃ c, (hostOpen s = true) ∧ (ch < 640) ∧ (c = getChan s ch) ∧ (rbit v 0 = false) ∧
    (rbit v 1 = true) :=
  ⟨{ tHost with mem := { chans := [(70, { state := 3, genRun := 1 })] } }, 70, 0x12345678FFFFFFFE#64,
    { state := 3, genRun := 1 }, by decide +kernel, by decide +kernel, by decide +kernel, by decide +kernel,
    by decide +kernel⟩

theorem wit_ChannelTest_7 :
    ∃ s : State, ∃ ch, ∃ c, (c = getChan s ch) ∧ (c.genRun = 1) ∧ (rbits c.genCtrl 15 8 ≠ 0) :=
  ⟨{ tHost with mem := { chans := [(70, { state := 3, genRun := 1, genCtrl := 0x500#64 })] } }, 70,
    { state := 3, genRun := 1, genCtrl := 0x500#64 }, by decide +kernel, by decide +kernel, by decide +kernel⟩

theorem wit_ChannelTest_8 :
    ∃ s : State, ∃ slot, ∃ c, ∃ ch, ∃ lanes, ∃ k, (IsBegun s slot 0x0704 c) ∧
    (Word.bitOf (Pkt.p0 c.packet) 12 = false) ∧ (ch = Pkt.p0 c.packet % 1024) ∧ (debugAllowed s 1 = true) ∧
    (getChan s ch).state = 3 ∧ (getChan s ch).mStop = false ∧ (sweepCrateRefusal s (pktOff1 c.packet) = none) ∧
    (k = pktOff1 c.packet / 4096) ∧ (Plain s.mem k) ∧ (Writable s.mem) ∧
    (lanes = Word.bitsOf (Pkt.p2 c.packet) 31 24) :=
  ⟨chtState 0x704 (70 + 2 ^ 16) 0x20000 (5 + 2 * 2 ^ 16 + 3 * 2 ^ 24) { state := 3 } [], 3,
    tCmd 0x704 (70 + 2 ^ 16) 0x20000 (5 + 2 * 2 ^ 16 + 3 * 2 ^ 24), 70, 3, 0x20, ⟨by decide +kernel,
    by decide +kernel, by decide +kernel⟩, by decide +kernel, by decide +kernel, by decide +kernel,
    by decide +kernel, by decide +kernel, by decide +kernel, by decide +kernel, plain_free _ _ rfl rfl,
    (⟨by decide +kernel, List.Pairwise.nil⟩), by decide +kernel⟩

theorem wit_ChannelTest_9 :
    ∃ s : State, ∃ slot, ∃ c, ∃ p0, (IsBegun s slot 0x0705 c) ∧ (p0 = Pkt.p0 c.packet) ∧ (debugAllowed s 1 = true) ∧
    (sweeping s p0 = false) :=
  ⟨chtState 0x705 70 0 0 { state := 3 } [], 3, tCmd 0x705 70 0 0, 70, ⟨by decide +kernel, by decide +kernel,
    by decide +kernel⟩, by decide +kernel, by decide +kernel, by decide +kernel⟩

theorem wit_ChannelTest_10 :
    ∃ s : State, ∃ slot, ∃ c, ∃ p0, (IsBegun s slot 0x0705 c) ∧ (p0 = Pkt.p0 c.packet) ∧ (debugAllowed s 1 = true) ∧
    (sweeping s p0 = true) ∧ (Word.bitOf p0 12 = false) :=
  ⟨chtTwo (tCmd 0x705 70 0 0) (tCmd 0x704 70 0x20000 0), 3, tCmd 0x705 70 0 0, 70, ⟨by decide +kernel,
    by decide +kernel, by decide +kernel⟩, by decide +kernel, by decide +kernel, by decide +kernel,
    by decide +kernel⟩

theorem wit_ChannelTest_11 :
    ∃ s : State, ∃ slot, ∃ c, ∃ p0, (IsBegun s slot 0x0705 c) ∧ (p0 = Pkt.p0 c.packet) ∧ (debugAllowed s 1 = true) ∧
    (sweeping s p0 = true) ∧ (Word.bitOf p0 12 = true) :=
  ⟨chtTwo (tCmd 0x705 0x1006 0 0) (tCmd 0x704 0x1006 0x20000 0), 3, tCmd 0x705 0x1006 0 0, 0x1006,
    ⟨by decide +kernel, by decide +kernel, by decide +kernel⟩, by decide +kernel, by decide +kernel,
    by decide +kernel, by decide +kernel⟩

end MemoryChannelsW

/-! ### TestsAndLedger -/

namespace TestsAndLedgerW

def ftU : W64 := 0x0230010000000000#64
def ftChan : W64 := 0x0820000000000000#64
def ftCmd (u t : Nat) : Cmd := tCmd 0x701 u t 0
def ftState (c : Cmd) (u : W64) (r : UnitRec) : State := { tCmdState c with ledger := { mode := 1, units := [(u.toNat, r)], past := 400 * 8640000000000 }, parts := [(1, { dies := List.range 8, state := 3, enable := true })] }

theorem wit_FieldTests_1 :
    ∃ s : State, ∃ slot, ∃ c, ∃ u : W64, ∃ test, (IsBegun s slot 0x0701 c) ∧ (c.aux = 0) ∧
    (u = BitVec.ofNat 64 (Pkt.p0 c.packet)) ∧ (test = Pkt.p1 c.packet % 256) ∧ (unitExists u test = true) :=
  ⟨ftState (ftCmd ftU.toNat 5) ftU {}, 3, ftCmd ftU.toNat 5, ftU, 5, ⟨by decide +kernel, by decide +kernel,
    by decide +kernel⟩, by decide +kernel, by decide +kernel, by decide +kernel, by decide +kernel⟩

theorem wit_FieldTests_2 :
    ∃ s : State, ∃ slot, ∃ c, ∃ u : W64, ∃ test, (IsBegun s slot 0x0701 c) ∧ (c.aux = 0) ∧
    (u = BitVec.ofNat 64 (Pkt.p0 c.packet)) ∧ (test = Pkt.p1 c.packet % 256) ∧ (unitExists u test = false) ∧
    (∀ d ∈ queueCmds s c.queue, d.ord ≤ c.ord) :=
  ⟨ftState (ftCmd ftU.toNat 4) ftU {}, 3, ftCmd ftU.toNat 4, ftU, 4, ⟨by decide +kernel, by decide +kernel,
    by decide +kernel⟩, by decide +kernel, by decide +kernel, by decide +kernel, by decide +kernel,
    by decide +kernel⟩

theorem wit_FieldTests_3 :
    ∃ u : W64, ∃ test, (unitExists u test = true) :=
  ⟨ftChan, 6, by decide +kernel⟩

theorem wit_FieldTests_4 :
    ∃ s : State, ∃ u : W64, ∃ test, ∃ route, ∃ r, (r = getUnit s u) ∧
    (r.running.find? (fun x => x.1 == test) = some (test, route)) ∧ (rbits u 63 56 ≠ 1) ∧ (rbits u 63 56 ≠ 7) ∧
    (fieldTestCmd s u test = none) :=
  ⟨ftState (ftCmd 0 0) ftU { standing := 1, running := [(5, 2)], testPass := 9 }, ftU, 5, 2,
    { standing := 1, running := [(5, 2)], testPass := 9 }, by decide +kernel, by decide +kernel, by decide +kernel,
    by decide +kernel, by decide +kernel⟩

theorem wit_FieldTests_5 :
    ∃ s : State, ∃ u : W64, ∃ test, ∃ route, ∃ r, ∃ c, (r = getUnit s u) ∧
    (r.running.find? (fun x => x.1 == test) = some (test, route)) ∧ (rbits u 63 56 ≠ 1) ∧ (rbits u 63 56 ≠ 7) ∧
    (r.standing = 0) ∧ (fieldTestCmd s u test = some c) ∧ (c.gather = []) ∧ (∀ d ∈ s.cmds, d.slot = c.slot → d = c) :=
  ⟨ftState { ftCmd ftU.toNat 5 with aux := 1 } ftU { running := [(5, 4)] }, ftU, 5, 4, { running := [(5, 4)] },
    { ftCmd ftU.toNat 5 with aux := 1 }, by decide +kernel, by decide +kernel, by decide +kernel,
    by decide +kernel, by decide +kernel, by decide +kernel, by decide +kernel, by decide +kernel⟩

theorem wit_FieldTests_6 :
    ∃ s : State, ∃ u : W64, ∃ r, (r = getUnit s u) ∧ (r.standing = 1) ∧ (r.fenced = false) ∧ (16 ≤ r.passes) ∧
    (∀ x ∈ r.counted, x.1 + 30 * 8640000000000 ≤ poweredTicks s) :=
  ⟨ftState (ftCmd 0 0) ftU { standing := 1, passes := 16, counted := [(5, 0x48, 0)] }, ftU,
    { standing := 1, passes := 16, counted := [(5, 0x48, 0)] }, by decide +kernel, by decide +kernel,
    by decide +kernel, by decide +kernel, by decide +kernel⟩

theorem wit_FieldTests_7 :
    ∃ s : State, ∃ u : W64, ∃ r, (r = getUnit s u) ∧ (r.standing = 1) ∧ (r.fenced = false) ∧ (r.passes < 16) :=
  ⟨ftState (ftCmd 0 0) ftU { standing := 1, passes := 15 }, ftU, { standing := 1, passes := 15 }, by decide +kernel,
    by decide +kernel, by decide +kernel, by decide +kernel⟩

def lsRec : LedgerRec := { kind := 0x20, reason := 0, boot := 2, seq := 7, time := 5#64, unit := 0x0230010000000000#64, data := List.replicate 28 0#8 }
def lsState (l : Ledger) : State := { tHost with ledger := l, cmds := [tCmd 0x603 0x30000 7 3] }
def lsRead : State := lsState { mode := 1, records := [{ lsRec with seq := 6 }, lsRec, { lsRec with seq := 9 }] }

theorem wit_LedgerStates_1 :
    ∃ s : State, (s.ledger.mode = 1) :=
  ⟨lsState { mode := 1, buffered := 3 }, by decide +kernel⟩

theorem wit_LedgerStates_2 :
    ∃ s : State, ∃ state, (state ≤ 4) ∧ (s.ledger.bank ≠ 3) ∧ (state ≠ s.ledger.bank) :=
  ⟨lsState { mode := 1, buffered := 3, bank := 2 }, 3, by decide +kernel, by decide +kernel, by decide +kernel⟩

theorem wit_LedgerStates_4 :
    ∃ s : State, ∃ slot, ∃ c, ∃ rs, (IsBegun s slot 0x0603 c) ∧ (s.pcie.linkUp = true) ∧ (cellsWf s.hostMem = true) ∧
    (rs = (s.ledger.records.filter (fun r => decide (Pkt.p1 c.packet ≤ r.seq))).take (pktCrates c.packet)) :=
  ⟨lsRead, 3, tCmd 0x603 0x30000 7 3, [lsRec, { lsRec with seq := 9 }], ⟨by decide +kernel, by decide +kernel,
    by decide +kernel⟩, by decide +kernel, by decide +kernel, by decide +kernel⟩

end TestsAndLedgerW

/-! ### PagesRead -/

namespace PagesReadW

def hpSens : Sensors := { inV := 48000, inI := 100, hottest := -16, dies := [(900, 5000, [800, 801]), (901, 5001, [802])], hbm := [640], lpddr := [641, 642] }
def hpState (op p0 p1 p2 : Nat) : State := { tHost with cmds := [tCmd op p0 p1 p2], hang := { capMem := [(0x400028, 100#8), (0x400041, 7#8)] } }

theorem wit_HostPages_1 :
    ∃ s : State, ∃ slot, ∃ c, (s.pcie.linkUp = true) ∧ (cellsWf s.hostMem = true) ∧ (IsBegun s slot 0x0601 c) :=
  ⟨hpState 0x601 0x30000 0 0, 3, tCmd 0x601 0x30000 0 0, by decide +kernel, by decide +kernel, ⟨by decide +kernel,
    by decide +kernel, by decide +kernel⟩⟩

theorem wit_HostPages_2 :
    ∃ s : State, ∃ slot, ∃ c, ∃ x : Sensors, ∃ b : List Byte, (s.pcie.linkUp = true) ∧ (cellsWf s.hostMem = true) ∧
    (IsBegun s slot 0x0602 c) ∧ (telemetryPage s (Pkt.p1 c.packet) x = some b) :=
  ⟨hpState 0x602 0x30000 3 0, 3, tCmd 0x602 0x30000 3 0, hpSens,
    (telemetryPage (hpState 0x602 0x30000 3 0) 3 hpSens).getD [], by decide +kernel, by decide +kernel,
    ⟨by decide +kernel, by decide +kernel, by decide +kernel⟩, (rfl)⟩

theorem wit_HostPages_3 :
    ∃ s : State, ∃ slot, ∃ c, (s.pcie.linkUp = true) ∧ (cellsWf s.hostMem = true) ∧ (IsBegun s slot 0x0602 c) ∧
    (4 < Pkt.p1 c.packet) ∧ (∀ d ∈ queueCmds s c.queue, d.ord ≤ c.ord) :=
  ⟨hpState 0x602 0x30000 5 0, 3, tCmd 0x602 0x30000 5 0, by decide +kernel, by decide +kernel, ⟨by decide +kernel,
    by decide +kernel, by decide +kernel⟩, by decide +kernel, by decide +kernel⟩

theorem wit_HostPages_4 :
    ∃ s : State, ∃ slot, ∃ c, ∃ base, ∃ n, (s.pcie.linkUp = true) ∧ (cellsWf s.hostMem = true) ∧
    (IsBegun s slot 0x0706 c) ∧ (base = Pkt.p1 c.packet % 8 * 4194304) ∧
    (n = min 4194304 (leAt (readBytes s.hang.capMem base 64) 0x28 4)) :=
  ⟨hpState 0x706 0x30000 1 0, 3, tCmd 0x706 0x30000 1 0, 0x400000, 100, by decide +kernel, by decide +kernel,
    ⟨by decide +kernel, by decide +kernel, by decide +kernel⟩, by decide +kernel, by decide +kernel⟩

def mrRec (n : Nat) : LedgerRec := { kind := 0x20, reason := 0, boot := 2, seq := n, time := 5#64, unit := 0x0230010000000000#64, data := List.replicate 28 1#8 }
def mrHeld : Held := { source := 0, ident := 5, time := 1000, bytes := [1#8, 2#8] }
def mrState : State :=
  { tHost with mgmt := { addressed := true, held := [mrHeld] }, ledger := { mode := 1, records := [mrRec 6, mrRec 7, mrRec 8], units := [(0x0230010000000000, { testPass := 4 })] } }

theorem wit_ManagementReads_1 :
    ∃ s : State, ∃ q : Req, ∃ body : List Byte, (s.boot.phase = 6) ∧ (Fresh s q) ∧ (body.length = 2) ∧
    (leAt body 0 2 + pageLen q ≤ 4096) :=
  ⟨mrState, { ident := 4 }, Word.toLe 2 3584, by decide +kernel, ⟨by decide +kernel, by decide +kernel⟩,
    by decide +kernel, by decide +kernel⟩

theorem wit_ManagementReads_2 :
    ∃ s : State, ∃ q : Req, ∃ body : List Byte, ∃ x : Sensors, ∃ b : List Byte, (s.boot.phase = 6) ∧ (Fresh s q) ∧
    (body.length = 4) ∧ (telemetryPage s (leAt body 0 2) x = some b) ∧ (leAt body 2 2 + pageLen q ≤ 4096) :=
  ⟨mrState, { ident := 4 }, Word.toLe 2 0 ++ Word.toLe 2 16, { inV := 48000 },
    (telemetryPage mrState 0 { inV := 48000 }).getD [], by decide +kernel, ⟨by decide +kernel, by decide +kernel⟩,
    by decide +kernel, (rfl), by decide +kernel⟩

theorem wit_ManagementReads_3 :
    ∃ s : State, ∃ q : Req, ∃ body : List Byte, (s.boot.phase = 6) ∧ (Fresh s q) ∧ (body.length = 1) ∧
    (leAt body 0 1 ≤ 47) :=
  ⟨mrState, { ident := 4 }, [47#8], by decide +kernel, ⟨by decide +kernel, by decide +kernel⟩, by decide +kernel,
    by decide +kernel⟩

theorem wit_ManagementReads_4 :
    ∃ s : State, ∃ q : Req, ∃ body : List Byte, ∃ r, ∃ rs : List LedgerRec, (s.boot.phase = 6) ∧ (Fresh s q) ∧
    (body.length = 9) ∧ (1 ≤ leAt body 8 1) ∧ (leAt body 8 1 ≤ (if q.source = 0 then 7 else 15)) ∧
    (s.ledger.records = r :: rs) :=
  ⟨mrState, { ident := 4 }, Word.toLe 8 7 ++ [7#8], mrRec 6, [mrRec 7, mrRec 8], by decide +kernel,
    ⟨by decide +kernel, by decide +kernel⟩, by decide +kernel, by decide +kernel, by decide +kernel, (rfl)⟩

theorem wit_ManagementReads_5 :
    ∃ s : State, ∃ q : Req, ∃ body : List Byte, ∃ u : W64, (s.boot.phase = 6) ∧ (Fresh s q) ∧ (body.length = 8) ∧
    (u = BitVec.ofNat 64 (leAt body 0 8)) :=
  ⟨mrState, { ident := 4 }, Word.toLe 8 0x0230010000000000, 0x0230010000000000#64, by decide +kernel,
    ⟨by decide +kernel, by decide +kernel⟩, by decide +kernel, by decide +kernel⟩

theorem wit_ManagementReads_6 :
    ∃ s : State, ∃ q : Req, ∃ body : List Byte, (s.boot.phase = 6) ∧ (Fresh s q) ∧ (body = []) :=
  ⟨mrState, { ident := 4 }, [], by decide +kernel, ⟨by decide +kernel, by decide +kernel⟩, by decide +kernel⟩

theorem wit_ManagementReads_7 :
    ∃ s : State, ∃ q : Req, ∃ body : List Byte, ∃ h, ∃ cmd : Instr, (s.boot.phase = 6) ∧
    (reaches s q.source q.port = true) ∧ (heldFor s q.source q.ident = some h) ∧
    (cmd = .mgmtIdentify q body ∨ cmd = .mgmtDiscovery q body ∨ cmd = .mgmtLedgerRead q body ∨ cmd = .totalsRead q body ∨ cmd = .reclaimStatus q body) :=
  ⟨mrState, { ident := 5 }, [9#8], mrHeld, .mgmtDiscovery { ident := 5 } [9#8], by decide +kernel, by decide +kernel,
    by decide +kernel, (.inr (.inl rfl))⟩

end PagesReadW

/-! ### Firmware -/

namespace FirmwareW

def fmFuse : FuseState := { f := { lifecycle := 1, keys := [tKeyHash, 5, 0, 0], svn := 3 } }
def fmState (op p0 p1 : Nat) : State := { tHost with cmds := [tCmd op p0 p1 0], fuse := fmFuse, mgmt := { addressed := true } }
def fmBank (b : List Host.Cell) (ch : Bool) : State := { fmState 0 0 0 with boot := { phase := 6, bankBB := b, chunking := ch } }
def fmImgCells : List Host.Cell := writeBytes [] 0 (tImg.map (fun b => ~~~b))
def fmHand (h : Nat) (by_ : Option HandBy) (staged : Bool) : State := { tTrain (tCmd 0x605 1 0 0) with fuse := fmFuse, mgmt := { addressed := true }, boot := { phase := 6, handover := h, handBy := by_, staged } }
def fmBody (off len : Nat) : List Byte := Word.toLe 4 off ++ (List.replicate len 7#8)

theorem wit_Firmware_1 :
    ∃ s : State, ∃ slot, ∃ c, ∃ image : List Byte, ∃ len, (IsBegun s slot 0x0604 c) ∧ (len = Pkt.p1 c.packet) ∧
    (len ≤ 2 ^ 25) ∧ (handingOver s = false) ∧ (s.boot.chunking = false) ∧
    (verifyImage s (image.take len) = true) ∧ (s.boot.bank ≤ 1) :=
  ⟨fmState 0x604 0x30000 528, 3, tCmd 0x604 0x30000 528 0, tImg ++ [1#8], 528, ⟨by decide +kernel, by decide +kernel,
    by decide +kernel⟩, by decide +kernel, by decide +kernel, by decide +kernel, by decide +kernel, (by
    have h : (tImg ++ [1#8]).take 528 = tImg := by decide +kernel
    rw [h]
    exact t_verifyImage _ (by decide +kernel) (by decide +kernel)), by decide +kernel⟩

theorem wit_Firmware_2 :
    ∃ s : State, ∃ slot, ∃ c, ∃ image : List Byte, ∃ len, (IsBegun s slot 0x0604 c) ∧ (len = Pkt.p1 c.packet) ∧
    (len ≤ 2 ^ 25) ∧ (handingOver s = false) ∧ (s.boot.chunking = false) ∧
    (verifyImage s (image.take len) = false) ∧ (∀ d ∈ queueCmds s c.queue, d.ord ≤ c.ord) :=
  ⟨fmState 0x604 0x30000 528, 3, tCmd 0x604 0x30000 528 0, List.replicate 528 0#8, 528, ⟨by decide +kernel,
    by decide +kernel, by decide +kernel⟩, by decide +kernel, by decide +kernel, by decide +kernel,
    by decide +kernel, by decide +kernel, by decide +kernel⟩

theorem wit_Firmware_3 :
    ∃ s : State, ∃ q : Req, ∃ body : List Byte, (Fresh s q) ∧ (s.boot.phase = 6) ∧ (body.length = 516) ∧
    (leAt body 0 4 % 512 = 0) ∧ (leAt body 0 4 + 512 ≤ 2 ^ 25) ∧ (handingOver s = false) ∧
    (s.boot.chunking = true) ∧ (s.boot.bank ≤ 1) ∧ (cellsWf (bankCells s (standbyBank s)) = true) :=
  ⟨fmBank [(3, 4#8), (513, 9#8)] true, { ident := 4 }, fmBody 512 512, ⟨by decide +kernel, by decide +kernel⟩,
    by decide +kernel, by decide +kernel, by decide +kernel, by decide +kernel, by decide +kernel,
    by decide +kernel, by decide +kernel, by decide +kernel⟩

theorem wit_Firmware_4 :
    ∃ s : State, ∃ q : Req, ∃ body : List Byte, ∃ image : List Byte, (Fresh s q) ∧ (s.boot.phase = 6) ∧
    (body.length = 4) ∧ (leAt body 0 4 ≤ 2 ^ 25) ∧ (handingOver s = false) ∧
    (image = bankBytes s (standbyBank s) 0 (leAt body 0 4)) ∧ (verifyImage s image = true) :=
  ⟨fmBank fmImgCells true, { ident := 4 }, Word.toLe 4 528, tImg, ⟨by decide +kernel, by decide +kernel⟩,
    by decide +kernel, by decide +kernel, by decide +kernel, by decide +kernel, by decide +kernel,
    (t_verifyImage _ (by decide +kernel) (by decide +kernel))⟩

theorem wit_Firmware_5 :
    ∃ s : State, ∃ q : Req, ∃ body : List Byte, ∃ image : List Byte, (Fresh s q) ∧ (s.boot.phase = 6) ∧
    (body.length = 4) ∧ (leAt body 0 4 ≤ 2 ^ 25) ∧ (handingOver s = false) ∧
    (image = bankBytes s (standbyBank s) 0 (leAt body 0 4)) ∧ (verifyImage s image = false) :=
  ⟨fmBank [] true, { ident := 4 }, Word.toLe 4 528, List.replicate 528 0xFF#8, ⟨by decide +kernel,
    by decide +kernel⟩, by decide +kernel, by decide +kernel, by decide +kernel, by decide +kernel,
    by decide +kernel, by decide +kernel⟩

theorem wit_Firmware_6 :
    ∃ s : State, ∃ slot, ∃ c, (IsBegun s slot 0x0605 c) ∧ (s.boot.handBy ≠ some (.host slot)) ∧
    (handoverRefusal s (Pkt.p0 c.packet) = none) :=
  ⟨fmHand 0 none true, 3, tCmd 0x605 1 0 0, ⟨by decide +kernel, by decide +kernel, by decide +kernel⟩,
    by decide +kernel, by decide +kernel⟩

theorem wit_Firmware_7 :
    ∃ s : State, ∃ slot, ∃ c, (IsBegun s slot 0x0605 c) ∧ (s.boot.handBy ≠ some (.host slot)) ∧
    (handoverRefusal s (Pkt.p0 c.packet) = some 0xCD) ∧ (∀ d ∈ queueCmds s c.queue, d.ord ≤ c.ord) :=
  ⟨fmHand 0 none false, 3, tCmd 0x605 1 0 0, ⟨by decide +kernel, by decide +kernel, by decide +kernel⟩,
    by decide +kernel, by decide +kernel, by decide +kernel⟩

theorem wit_Firmware_8 :
    ∃ s : State, ∃ slot, ∃ c, (IsBegun s slot 0x0605 c) ∧ (s.boot.handBy = some (.host slot)) ∧ (s.boot.handover = 1) ∧
    (handoverPoint s = false) :=
  ⟨{ fmHand 1 (some (.host 3)) true with launches := [(7, { ctx := 1, gen := 2, cores := [0], running := true })] },
    3, tCmd 0x605 1 0 0, ⟨by decide +kernel, by decide +kernel, by decide +kernel⟩, by decide +kernel,
    by decide +kernel, by decide +kernel⟩

theorem wit_Firmware_9 :
    ∃ s : State, ∃ slot, ∃ c, (IsBegun s slot 0x0605 c) ∧ (s.boot.handBy = some (.host slot)) ∧
    (s.boot.handover = 1 ∨ s.boot.handover = 2) ∧ (handoverPoint s = true) :=
  ⟨{ fmHand 2 (some (.host 3)) true with ctxs := [] }, 3, tCmd 0x605 1 0 0, ⟨by decide +kernel, by decide +kernel,
    by decide +kernel⟩, by decide +kernel, (.inr (by decide +kernel)), by decide +kernel⟩

theorem wit_Firmware_10 :
    ∃ s : State, ∃ q : Req, ∃ body : List Byte, (Fresh s q) ∧ (s.boot.phase = 6) ∧ (body.length = 1) ∧
    (leAt body 0 1 ≤ 1) ∧ (s.boot.handBy = none) ∧ (handoverRefusal s (leAt body 0 1) = none) :=
  ⟨{ fmHand 0 none true with cmds := [] }, { ident := 4 }, [1#8], ⟨by decide +kernel, by decide +kernel⟩,
    by decide +kernel, by decide +kernel, by decide +kernel, by decide +kernel, by decide +kernel⟩

theorem wit_Firmware_11 :
    ∃ s : State, (s.boot.handover = 1 ∨ s.boot.handover = 2) ∧ (s.boot.handBy = none) :=
  ⟨fmHand 2 none true, (.inr rfl), by decide +kernel⟩

end FirmwareW

/-! ### Registers -/

namespace RegistersW

theorem wit_Registers_1 :
    ∃ s : State, ∃ off, ∃ data : List Byte, ∃ n, ∃ r, (hostOpen s = true) ∧ (n = data.length) ∧ ((n ≠ 4 ∧
    n ≠ 8 ∨ off % n ≠ 0) ∧ r = 0x03 ∨ (n = 4 ∨ n = 8) ∧ off % n = 0 ∧ regWord s (off / 8 * 8) = none ∧ r = 0x43) :=
  ⟨tHost, 0x30008, Word.toLe 2 7, 2, 0x03, by decide +kernel, by decide +kernel, (.inl ⟨.inl (by decide +kernel),
    rfl⟩)⟩

theorem wit_Registers_1b :
    ∃ s : State, ∃ off, ∃ data : List Byte, ∃ n, ∃ r, (hostOpen s = true) ∧ (n = data.length) ∧ ((n ≠ 4 ∧
    n ≠ 8 ∨ off % n ≠ 0) ∧ r = 0x03 ∨ (n = 4 ∨ n = 8) ∧ off % n = 0 ∧ regWord s (off / 8 * 8) = none ∧ r = 0x43) :=
  ⟨tHost, 0x30004, Word.toLe 8 7, 8, 0x03, by decide +kernel, by decide +kernel, (.inl ⟨.inr (by decide +kernel),
    rfl⟩)⟩

theorem wit_Registers_1c :
    ∃ s : State, ∃ off, ∃ data : List Byte, ∃ n, ∃ r, (hostOpen s = true) ∧ (n = data.length) ∧ ((n ≠ 4 ∧
    n ≠ 8 ∨ off % n ≠ 0) ∧ r = 0x03 ∨ (n = 4 ∨ n = 8) ∧ off % n = 0 ∧ regWord s (off / 8 * 8) = none ∧ r = 0x43) :=
  ⟨tHost, 0xFFFFF8, Word.toLe 8 7, 8, 0x43, by decide +kernel, by decide +kernel, (.inr ⟨.inr rfl, by decide +kernel,
    by decide +kernel, rfl⟩)⟩

theorem wit_Registers_2 :
    ∃ s : State, ∃ off, ∃ data : List Byte, (hostOpen s = true) ∧ (off = 0xE0010) ∧ (data.length = 8) :=
  ⟨tHost, 0xE0010, Word.toLe 8 0x1234000000000000, by decide +kernel, by decide +kernel, by decide +kernel⟩

theorem wit_Registers_3 :
    ∃ s : State, (4 ≤ s.boot.phase) ∧ (s.pcie.linkUp = true) :=
  ⟨tHost, by decide +kernel, by decide +kernel⟩

theorem wit_Registers_4 :
    ∃ s : State, ∃ off, ∃ len, (s.boot.phase = 6) ∧ (s.pcie.linkUp = true) ∧ (s.pcie.d3hot = false) ∧
    (len = 0 ∨ 64 < len ∨ off / 64 ≠ (off + len - 1) / 64) :=
  ⟨tHost, 60, 8, by decide +kernel, by decide +kernel, by decide +kernel, (.inr (.inr (by decide +kernel)))⟩

theorem wit_Registers_5 :
    ∃ s : State, ∃ off, ∃ len, (s.boot.phase = 6) ∧ (s.pcie.linkUp = true) ∧ (s.pcie.d3hot = false) ∧ (0 < len) ∧
    (len ≤ 64) ∧ (off / 64 = (off + len - 1) / 64) :=
  ⟨tHost, 64, 64, by decide +kernel, by decide +kernel, by decide +kernel, by decide +kernel, by decide +kernel,
    by decide +kernel⟩

theorem wit_Registers_6 :
    ∃ s : State, ∃ v : W64, (hostOpen s = true) ∧ (1 ≤ rbits v 13 0 ∧ rbits v 13 0 ≤ 10000 ∧ rbits v 59 58 < 2) :=
  ⟨tHost, 0x800000000000270F#64, by decide +kernel, by decide +kernel⟩

theorem wit_Registers_7 :
    ∃ s : State, ∃ v : W64, (hostOpen s = true) ∧ (rbits v 13 0 = 0 ∨ 10000 < rbits v 13 0 ∨ 2 ≤ rbits v 59 58) :=
  ⟨tHost, 0x8000000000002711#64, by decide +kernel, (.inr (.inl (by decide +kernel)))⟩

theorem wit_Registers_8 :
    ∃ s : State, ∃ v : W64, (hostOpen s = true) ∧ (2000 ≤ rbits v 47 32 ∧ rbits v 47 32 ≤ 4800 ∧ 15 ≤ rbits v 55 48 ∧
    rbits v 55 48 ≤ 60) :=
  ⟨tHost, 0x000F07D000000000#64, by decide +kernel, by decide +kernel⟩

theorem wit_Registers_9 :
    ∃ s : State, ∃ v : W64, (hostOpen s = true) ∧
    (rbits v 47 32 < 2000 ∨ 4800 < rbits v 47 32 ∨ rbits v 55 48 < 15 ∨ 60 < rbits v 55 48) :=
  ⟨tHost, 0x000F07CF00000000#64, by decide +kernel, (.inl (by decide +kernel))⟩

end RegistersW

/-! ### PcieLink -/

namespace PcieLinkW

def plRun : State := { tTrain { tCmd 0x101 0 0 0 with phase := 1 } with cmds := [tCmd 0x101 0 0 0, { tCmd 0x201 0 0 0 with slot := 7 }], launches := [(7, { ctx := 1, gen := 2, cores := [0], running := true })] }

theorem wit_PcieLink_2 :
    ∃ s : State, (portAlive s = true) :=
  ⟨{ tHost with pcie := {} }, by decide +kernel⟩

theorem wit_PcieLink_3 :
    ∃ s : State, (4 ≤ s.boot.phase) ∧ (powered s = true) :=
  ⟨plRun, by decide +kernel, by decide +kernel⟩

theorem wit_PcieLink_4 :
    ∃ s : State, (portAlive s = true) :=
  ⟨plRun, by decide +kernel⟩

theorem wit_PcieLink_5 :
    ∃ s : State, ∃ q, ∃ x, (x = getQueue s q) ∧ (qEnabled x = true) ∧ (qSubmits q x = true) ∧ (x.state = 1) ∧
    (x.head ≠ x.tail) :=
  ⟨tHost, 2, getQueue tHost 2, by decide +kernel, by decide +kernel, by decide +kernel, by decide +kernel,
    by decide +kernel⟩

theorem wit_PcieLink_6 :
    ∃ s : State, ∃ n, ∃ c, (IsBegun s n 0x0101 c ∨ IsBegun s n 0x0604 c) ∧ (∀ d ∈ queueCmds s c.queue, d.ord ≤ c.ord) :=
  ⟨{ tTrain (tCmd 0x101 0 0 0) with parts := [] }, 3, tCmd 0x101 0 0 0, (.inl ⟨by decide +kernel, by decide +kernel,
    by decide +kernel⟩), by decide +kernel⟩

theorem wit_PcieLink_6b :
    ∃ s : State, ∃ n, ∃ c, (IsBegun s n 0x0101 c ∨ IsBegun s n 0x0604 c) ∧ (∀ d ∈ queueCmds s c.queue, d.ord ≤ c.ord) :=
  ⟨{ tTrain (tCmd 0x604 0 0 0) with ctxs := [] }, 3, tCmd 0x604 0 0 0, (.inr ⟨by decide +kernel, by decide +kernel,
    by decide +kernel⟩), by decide +kernel⟩

end PcieLinkW

/-! ### ManagementSettings -/

namespace ManagementSettingsW

def msState (sessions : Tab (Option Session)) : State :=
  { tFab (tFrame 1) with mgmt := { addressed := true, alert := 0x1F }, fuse := { f := { lifecycle := 1 } }, ctxs := [(1, { state := 4, gen := 2 })], fab := { stall := some 5, sessions, ports := [(3, { cfg := 0x8000000000000001#64 }), (4, { cfg := 0x8000000000000000#64 })], routes := [(9, 0x8000000000000001#64), (11, 0x8000000000000001#64)] } }
def msQ : Req := { ident := 4 }

theorem wit_ManagementSettings_1 :
    ∃ s : State, ∃ q : Req, ∃ body : List Byte, ∃ n, (Fresh s q) ∧ (s.boot.phase = 6) ∧ (body.length = 1) ∧
    (q.source = 0) ∧ (n = leAt body 0 1) ∧ (n ≤ 16) ∧ (s.fab.chip = none ∨ s.fab.stall = some n) :=
  ⟨msState [], msQ, [16#8], 16, ⟨by decide +kernel, by decide +kernel⟩, by decide +kernel, by decide +kernel,
    by decide +kernel, by decide +kernel, by decide +kernel, (.inl rfl)⟩

theorem wit_ManagementSettings_2 :
    ∃ s : State, ∃ q : Req, ∃ body : List Byte, ∃ n, (Fresh s q) ∧ (s.boot.phase = 6) ∧ (body.length = 1) ∧
    (q.source = 0) ∧ (n = leAt body 0 1) ∧ (16 < n) :=
  ⟨msState [], msQ, [17#8], 17, ⟨by decide +kernel, by decide +kernel⟩, by decide +kernel, by decide +kernel,
    by decide +kernel, by decide +kernel, by decide +kernel⟩

theorem wit_ManagementSettings_3 :
    ∃ s : State, ∃ q : Req, ∃ body : List Byte, ∃ n, (Fresh s q) ∧ (s.boot.phase = 6) ∧ (body.length = 1) ∧
    (q.source = 0) ∧ (n = leAt body 0 1) ∧ (n ≤ 16) ∧ (s.fab.chip ≠ none) ∧ (s.fab.stall ≠ some n) :=
  ⟨{ msState [] with fab := { chip := some 80, stall := some 5 } }, msQ, [6#8], 6, ⟨by decide +kernel,
    by decide +kernel⟩, by decide +kernel, by decide +kernel, by decide +kernel, by decide +kernel,
    by decide +kernel, by decide +kernel, by decide +kernel⟩

theorem wit_ManagementSettings_4 :
    ∃ s : State, ∃ q : Req, ∃ body : List Byte, ∃ chip, ∃ root, ∃ port, (Fresh s q) ∧ (s.boot.phase = 6) ∧
    (body.length = 4) ∧ (chip = leAt body 0 2) ∧ (root = leAt body 2 1) ∧ (port = leAt body 3 1) ∧
    (chipRefusal s chip root port = none) ∧ (∀ e ∈ s.fab.sessions, e.2 = none) :=
  ⟨msState [(3, none)], msQ, Word.toLe 2 69 ++ [1#8, 4#8], 69, 1, 4, ⟨by decide +kernel, by decide +kernel⟩,
    by decide +kernel, by decide +kernel, by decide +kernel, by decide +kernel, by decide +kernel,
    by decide +kernel, by decide +kernel⟩

theorem wit_ManagementSettings_5 :
    ∃ s : State, ∃ q : Req, ∃ body : List Byte, ∃ chip, ∃ root, ∃ port, ∃ r, (Fresh s q) ∧ (s.boot.phase = 6) ∧
    (body.length = 4) ∧ (chip = leAt body 0 2) ∧ (root = leAt body 2 1) ∧ (port = leAt body 3 1) ∧
    (chipRefusal s chip root port = some r) :=
  ⟨msState [], msQ, Word.toLe 2 69 ++ [1#8, 5#8], 69, 1, 5, 0x03, ⟨by decide +kernel, by decide +kernel⟩,
    by decide +kernel, by decide +kernel, by decide +kernel, by decide +kernel, by decide +kernel,
    by decide +kernel⟩

theorem wit_ManagementSettings_6 :
    ∃ s : State, ∃ q : Req, ∃ body : List Byte, ∃ first, ∃ n, (Fresh s q) ∧ (s.boot.phase = 6) ∧
    (first = leAt body 0 2) ∧ (n = leAt body 2 2) ∧ (body.length = 4 + 8 * n) ∧ (1 ≤ n) ∧
    (n ≤ (if q.source = 0 then 63 else 127)) ∧ (first + n ≤ 32768) :=
  ⟨msState [], msQ, Word.toLe 2 10 ++ Word.toLe 2 2 ++ Word.toLe 8 0xFFFFFFFFFFFFFFFF ++ Word.toLe 8 0, 10, 2,
    ⟨by decide +kernel, by decide +kernel⟩, by decide +kernel, by decide +kernel, by decide +kernel,
    by decide +kernel, by decide +kernel, by decide +kernel, by decide +kernel⟩

theorem wit_ManagementSettings_7 :
    ∃ s : State, ∃ q : Req, ∃ body : List Byte, ∃ first, ∃ n, (Fresh s q) ∧ (s.boot.phase = 6) ∧
    (first = leAt body 0 2) ∧ (n = leAt body 2 2) ∧ (body.length = 4 + 8 * n) ∧ (n = 0) :=
  ⟨msState [], msQ, Word.toLe 2 10 ++ Word.toLe 2 0, 10, 0, ⟨by decide +kernel, by decide +kernel⟩,
    by decide +kernel, by decide +kernel, by decide +kernel, by decide +kernel, by decide +kernel⟩

theorem wit_ManagementSettings_8 :
    ∃ s : State, ∃ q : Req, ∃ body : List Byte, ∃ cap, ∃ op, (Fresh s q) ∧ (s.boot.phase = 6) ∧ (body.length = 3) ∧
    (cap = leAt body 0 2) ∧ (op = leAt body 2 1) ∧ (2000 ≤ cap) ∧ (cap ≤ 4800) ∧ (op ≤ 3) :=
  ⟨msState [], msQ, Word.toLe 2 2000 ++ [3#8], 2000, 3, ⟨by decide +kernel, by decide +kernel⟩, by decide +kernel,
    by decide +kernel, by decide +kernel, by decide +kernel, by decide +kernel, by decide +kernel,
    by decide +kernel⟩

theorem wit_ManagementSettings_9 :
    ∃ s : State, ∃ q : Req, ∃ body : List Byte, ∃ cap, ∃ op, (Fresh s q) ∧ (s.boot.phase = 6) ∧ (body.length = 3) ∧
    (cap = leAt body 0 2) ∧ (op = leAt body 2 1) ∧ (cap < 2000 ∨ 4800 < cap ∨ 3 < op) :=
  ⟨msState [], msQ, Word.toLe 2 1999 ++ [3#8], 1999, 3, ⟨by decide +kernel, by decide +kernel⟩, by decide +kernel,
    by decide +kernel, by decide +kernel, by decide +kernel, (.inl (by decide +kernel))⟩

theorem wit_ManagementSettings_10 :
    ∃ s : State, ∃ q : Req, ∃ body : List Byte, ∃ len, (Fresh s q) ∧ (s.boot.phase = 6) ∧ (body.length = 14) ∧
    (q.source = 0) ∧ (len = leAt body 4 1) ∧ (8 ≤ len) ∧ (len ≤ 30) ∧ (zeroAt body 5 3 = true) :=
  ⟨msState [], msQ, Word.toLe 4 0x0A000001 ++ [30#8, 0#8, 0#8, 0#8] ++ Word.toLe 4 0x0A0000FE ++ Word.toLe 2 7000,
    30, ⟨by decide +kernel, by decide +kernel⟩, by decide +kernel, by decide +kernel, by decide +kernel,
    by decide +kernel, by decide +kernel, by decide +kernel, by decide +kernel⟩

theorem wit_ManagementSettings_11 :
    ∃ s : State, ∃ q : Req, ∃ body : List Byte, (Fresh s q) ∧ (s.boot.phase = 6) ∧ (body.length = 4) ∧ (q.source = 0) :=
  ⟨msState [], msQ, Word.toLe 4 0xFFFFFFF2, ⟨by decide +kernel, by decide +kernel⟩, by decide +kernel,
    by decide +kernel, by decide +kernel⟩

theorem wit_ManagementSettings_12 :
    ∃ s : State, ∃ q : Req, ∃ body : List Byte, (Fresh s q) ∧ (s.boot.phase = 6) ∧ (body = []) :=
  ⟨msState [], msQ, [], ⟨by decide +kernel, by decide +kernel⟩, by decide +kernel, by decide +kernel⟩

theorem wit_ManagementSettings_13 :
    ∃ s : State, ∃ q : Req, (Fresh s q) ∧ (s.boot.phase = 6) :=
  ⟨msState [], msQ, ⟨by decide +kernel, by decide +kernel⟩, by decide +kernel⟩

end ManagementSettingsW

/-! ### Sideband -/

namespace SidebandW

def sbMsg (op n : Nat) : List Byte := message op 9 0 0 (List.replicate n 1#8)
def sbState : State := { tHost with mgmt := { addressed := true, port1 := 1, dropped := 3 }, ledger := { mode := 1 } }

theorem wit_Sideband_2 :
    ∃ s : State, ∃ cmd : Instr, (cmd = Instr.sidebandStuckSda false ∨ cmd = .sidebandStuckScl) ∧ (s.boot.off = false) ∧
    (s.mgmt.isolated = false) :=
  ⟨sbState, .sidebandStuckSda false, (.inl rfl), by decide +kernel, by decide +kernel⟩

theorem wit_Sideband_2b :
    ∃ s : State, ∃ cmd : Instr, (cmd = Instr.sidebandStuckSda false ∨ cmd = .sidebandStuckScl) ∧ (s.boot.off = false) ∧
    (s.mgmt.isolated = false) :=
  ⟨sbState, .sidebandStuckScl, (.inr rfl), by decide +kernel, by decide +kernel⟩

theorem wit_Sideband_4 :
    ∃ s : State, (s.boot.off = false) ∧ (s.mgmt.isolated = false) :=
  ⟨sbState, by decide +kernel, by decide +kernel⟩

theorem wit_Sideband_5 :
    ∃ s : State, (s.boot.phase ≠ 0) ∧ (powered s = true) :=
  ⟨sbState, by decide +kernel, by decide +kernel⟩

theorem wit_Sideband_6 :
    ∃ s : State, ∃ source, ∃ port, (reaches s source port = false) :=
  ⟨sbState, 0x0A00000107D0, 0, by decide +kernel⟩

theorem wit_Sideband_7 :
    ∃ b : List Byte, (b.length < 32) :=
  ⟨List.replicate 31 0#8, by decide +kernel⟩

theorem wit_Sideband_8 :
    ∃ s : State, ∃ source, ∃ port, ∃ waiting, ∃ b : List Byte, (reaches s source port = true) ∧ (32 ≤ b.length) ∧
    (leAt b 0 4 = 0x4D475A4D) ∧ (leAt b 4 2 = 1) ∧ (leAt b 0x14 4 = b.length - 32) ∧
    (b.length - 32 ≤ (if source = 0 then 516 else 1028)) ∧ (256 ≤ waiting) :=
  ⟨sbState, 0, 0, 256, sbMsg 0x21 516, by decide +kernel, by decide +kernel, by decide +kernel, by decide +kernel,
    by decide +kernel, by decide +kernel, by decide +kernel⟩

theorem wit_Sideband_9 :
    ∃ s : State, ∃ source, ∃ port, ∃ waiting, ∃ b : List Byte, (reaches s source port = true) ∧ (32 ≤ b.length) ∧
    (leAt b 0 4 = 0x4D475A4D) ∧ (leAt b 4 2 = 1) ∧ (leAt b 0x14 4 = b.length - 32) ∧
    (b.length - 32 ≤ (if source = 0 then 516 else 1028)) ∧ (waiting < 256) ∧
    (heldFor s source (leAt b 8 8) = none) ∧ (leAt b 6 2 = 0 ∨ 0x14 < leAt b 6 2) :=
  ⟨sbState, 0, 0, 255, sbMsg 0x15 516, by decide +kernel, by decide +kernel, by decide +kernel, by decide +kernel,
    by decide +kernel, by decide +kernel, by decide +kernel, by decide +kernel, (.inr (by decide +kernel))⟩

end SidebandW

/-! ### FuseRequests -/

namespace FuseRequestsW

def srState : State :=
  { tHost with mgmt := { addressed := true }
               fuses := { lifecycle := 1, keys := [tKeyHash, 5, 0, 0], templates := 0xFF, debug := 0xFF, svn := 3, serial := 0x1234#64 }
               fuse := { f := { lifecycle := 1, keys := [tKeyHash, 5, 0, 0], debug := 0xFF, serial := 0x1234#64 }, nonce := some 0x77#128 } }
def srOne : State := { srState with fuses := { srState.fuses with keys := [tKeyHash, 0, 0, 0] } }
def srQ : Req := { ident := 4 }

theorem wit_SignedRequests_1 :
    ∃ s : State, ∃ q : Req, ∃ body : List Byte, ∃ kind, ∃ cmd : Instr, ∃ arg, ∃ s1, (kind = 1 ∧
    cmd = .keyRevocation q body ∨ kind = 2 ∧ cmd = .templateRevocation q body ∨ kind = 3 ∧
    cmd = .debugRevocation q body ∨ kind = 4 ∧ cmd = .securityVersionRaise q body ∨ kind = 5 ∧
    cmd = .scanUnlock q body ∨ kind = 6 ∧ cmd = .rmaEntry q body) ∧ (Fresh s q) ∧ (s.boot.phase = 6) ∧
    (body.length = 296) ∧ (leAt body 0 4 = 0x52515A4D) ∧ (leAt body 4 2 = kind) ∧ (arg = leAt body 0x20 8) ∧
    (zeroAt body 6 2 && zeroAt body 0x29 55 && zeroAt body 0xC1 7) = true ∧
    (s.fuse.nonce = some (BitVec.ofNat 128 (Sha.beNat ((body.drop 0x10).take 16)))) ∧
    (s1 = { s with fuse := { s.fuse with nonce := none } }) ∧ (signedOk s body kind true = false) :=
  ⟨{ srState with fuse := { srState.fuse with f := { srState.fuse.f with serial := 1#64 } } }, srQ, tReqKey, 1,
    .keyRevocation srQ tReqKey, 1,
    { srState with fuse := { srState.fuse with f := { srState.fuse.f with serial := 1#64 }, nonce := none } },
    (.inl ⟨rfl, rfl⟩), ⟨by decide +kernel, by decide +kernel⟩, by decide +kernel, by decide +kernel,
    by decide +kernel, by decide +kernel, by decide +kernel, by decide +kernel, by decide +kernel, (rfl),
    by decide +kernel⟩

theorem wit_SignedRequests_2 :
    ∃ s : State, ∃ q : Req, ∃ body : List Byte, ∃ kind, ∃ cmd : Instr, ∃ arg, ∃ s1, ∃ f, (kind = 1 ∧
    cmd = .keyRevocation q body ∨ kind = 2 ∧ cmd = .templateRevocation q body ∨ kind = 3 ∧
    cmd = .debugRevocation q body ∨ kind = 4 ∧ cmd = .securityVersionRaise q body ∨ kind = 5 ∧
    cmd = .scanUnlock q body ∨ kind = 6 ∧ cmd = .rmaEntry q body) ∧ (Fresh s q) ∧ (s.boot.phase = 6) ∧
    (body.length = 296) ∧ (leAt body 0 4 = 0x52515A4D) ∧ (leAt body 4 2 = kind) ∧ (arg = leAt body 0x20 8) ∧
    (zeroAt body 6 2 && zeroAt body 0x29 55 && zeroAt body 0xC1 7) = true ∧
    (s.fuse.nonce = some (BitVec.ofNat 128 (Sha.beNat ((body.drop 0x10).take 16)))) ∧
    (s1 = { s with fuse := { s.fuse with nonce := none } }) ∧ (signedOk s body kind true = true) ∧
    (kindAllowed s kind = true) ∧ (kind = 1 ∧ arg < 16 ∧ usableAfter s.fuses arg ≠ [] ∧
    f = { s.fuses with keyRevoked := Nat.lor s.fuses.keyRevoked arg } ∨ kind = 2 ∧ arg < 256 ∧
    Word.bitOf arg 0 = false ∧ f = { s.fuses with templRevoked := Nat.lor s.fuses.templRevoked arg } ∨ kind = 3 ∧
    arg < 256 ∧ f = { s.fuses with debugRevoked := Nat.lor s.fuses.debugRevoked arg } ∨ kind = 4 ∧ 1 ≤ arg ∧
    arg ≤ 128 ∧ s.fuses.svn ≤ arg ∧ f = { s.fuses with svn := arg } ∨ kind = 6 ∧ arg = 0 ∧
    f = { s.fuses with lifecycle := 3 }) :=
  ⟨srState, srQ, tReqKey, 1, .keyRevocation srQ tReqKey, 1,
    { srState with fuse := { srState.fuse with nonce := none } }, { srState.fuses with keyRevoked := 1 },
    (.inl ⟨rfl, rfl⟩), ⟨by decide +kernel, by decide +kernel⟩, by decide +kernel, by decide +kernel,
    by decide +kernel, by decide +kernel, by decide +kernel, by decide +kernel, by decide +kernel, (rfl),
    (t_signedOk_key _ (by decide +kernel) rfl), by decide +kernel, (.inl ⟨rfl, by decide +kernel,
    by decide +kernel, by decide +kernel⟩)⟩

theorem wit_SignedRequests_3 :
    ∃ s : State, ∃ q : Req, ∃ body : List Byte, ∃ kind, ∃ cmd : Instr, ∃ arg, ∃ s1, (kind = 1 ∧
    cmd = .keyRevocation q body ∨ kind = 2 ∧ cmd = .templateRevocation q body ∨ kind = 3 ∧
    cmd = .debugRevocation q body ∨ kind = 4 ∧ cmd = .securityVersionRaise q body ∨ kind = 5 ∧
    cmd = .scanUnlock q body ∨ kind = 6 ∧ cmd = .rmaEntry q body) ∧ (Fresh s q) ∧ (s.boot.phase = 6) ∧
    (body.length = 296) ∧ (leAt body 0 4 = 0x52515A4D) ∧ (leAt body 4 2 = kind) ∧ (arg = leAt body 0x20 8) ∧
    (zeroAt body 6 2 && zeroAt body 0x29 55 && zeroAt body 0xC1 7) = true ∧
    (s.fuse.nonce = some (BitVec.ofNat 128 (Sha.beNat ((body.drop 0x10).take 16)))) ∧
    (s1 = { s with fuse := { s.fuse with nonce := none } }) ∧ (signedOk s body kind true = true) ∧
    (kindAllowed s kind = true) ∧ (kind = 5) ∧ (arg = 0) ∧ (s.ctxs = []) ∧ (s.parts = []) :=
  ⟨{ srState with ctxs := [], parts := [] }, srQ, tReqScan, 5, .scanUnlock srQ tReqScan, 0,
    { srState with fuse := { srState.fuse with nonce := none }, ctxs := [], parts := [] },
    (.inr (.inr (.inr (.inr (.inl ⟨rfl, rfl⟩))))), ⟨by decide +kernel, by decide +kernel⟩, by decide +kernel,
    by decide +kernel, by decide +kernel, by decide +kernel, by decide +kernel, by decide +kernel,
    by decide +kernel, (rfl), (t_signedOk_scan _ (by decide +kernel) rfl), by decide +kernel, by decide +kernel,
    by decide +kernel, by decide +kernel, by decide +kernel⟩

theorem wit_SignedRequests_4 :
    ∃ s : State, ∃ q : Req, ∃ body : List Byte, ∃ kind, ∃ cmd : Instr, ∃ arg, ∃ s1, ∃ r, (kind = 1 ∧
    cmd = .keyRevocation q body ∨ kind = 2 ∧ cmd = .templateRevocation q body ∨ kind = 3 ∧
    cmd = .debugRevocation q body ∨ kind = 4 ∧ cmd = .securityVersionRaise q body ∨ kind = 5 ∧
    cmd = .scanUnlock q body ∨ kind = 6 ∧ cmd = .rmaEntry q body) ∧ (Fresh s q) ∧ (s.boot.phase = 6) ∧
    (body.length = 296) ∧ (leAt body 0 4 = 0x52515A4D) ∧ (leAt body 4 2 = kind) ∧ (arg = leAt body 0x20 8) ∧
    (zeroAt body 6 2 && zeroAt body 0x29 55 && zeroAt body 0xC1 7) = true ∧
    (s.fuse.nonce = some (BitVec.ofNat 128 (Sha.beNat ((body.drop 0x10).take 16)))) ∧
    (s1 = { s with fuse := { s.fuse with nonce := none } }) ∧ (signedOk s body kind true = true) ∧
    (kindAllowed s kind = true) ∧ (kind = 1 ∧ arg < 16 ∧ usableAfter s.fuses arg = [] ∧ r = 0xCE ∨ kind = 2 ∧
    arg < 256 ∧ Word.bitOf arg 0 = true ∧ r = 0xCE ∨ kind = 4 ∧ 1 ≤ arg ∧ arg ≤ 128 ∧ arg < s.fuses.svn ∧
    r = 0xCE ∨ kind = 1 ∧ 16 ≤ arg ∧ r = 0x03) :=
  ⟨srOne, srQ, tReqKey, 1, .keyRevocation srQ tReqKey, 1, { srOne with fuse := { srState.fuse with nonce := none } },
    0xCE, (.inl ⟨rfl, rfl⟩), ⟨by decide +kernel, by decide +kernel⟩, by decide +kernel, by decide +kernel,
    by decide +kernel, by decide +kernel, by decide +kernel, by decide +kernel, by decide +kernel, (rfl),
    (t_signedOk_key _ (by decide +kernel) rfl), by decide +kernel, (.inl ⟨rfl, by decide +kernel,
    by decide +kernel, rfl⟩)⟩

def prBody : List Byte := Word.toLe 204 0x1249000000000000000038b000000000000000000000000000000000000000000000000000000000000000000000000000000000000000000000000000000000000000000000000000000000000000000000000000000000000000000000000000000000000000000000000000000000000000000000000000000000000000000000000000000000000000000000000000000000000000000000000070707070707070707070707070707070707070707070707070707070707070707070707070707070707070707070707 ++ Word.toLe 4 2077556064
def prState (l : Nat) : State := { tHost with mgmt := { addressed := true }, fuse := { f := { lifecycle := l } }, ledger := { bank := 2 }, fuses := { templates := 1 } }

theorem wit_Provisioning_1 :
    ∃ s : State, ∃ q : Req, ∃ body : List Byte, (Fresh s q) ∧ (s.boot.phase = 6) ∧ (body.length = 208) ∧
    (provRefusal s body = none) :=
  ⟨prState 0, { ident := 4 }, prBody, ⟨by decide +kernel, by decide +kernel⟩, by decide +kernel, by decide +kernel,
    by decide +kernel⟩

theorem wit_Provisioning_2 :
    ∃ s : State, ∃ q : Req, ∃ body : List Byte, (Fresh s q) ∧ (s.boot.phase = 6) ∧ (body.length = 208) ∧
    (lifecycle s ≠ 0) :=
  ⟨prState 1, { ident := 4 }, prBody, ⟨by decide +kernel, by decide +kernel⟩, by decide +kernel, by decide +kernel,
    by decide +kernel⟩

end FuseRequestsW

/-! ### Escalations -/

namespace EscalationsW

def ebState (t : W64) (escs : List Esc) : State :=
  { tTrain (tCmd 0x101 0 0 0) with
    coreMap := [(0, { avail := true, site := 4 })], hang := { target := t, escs, capSeq := 9 }, mgmt := { addressed := true, alert := 2 }, ledger := { mode := 1 }
    cores := [(0, { (tCore 0 0#128) with inflight := [{ ctx := 2, gen := 3, instr := 0#128, id := 8, index := 0, launch := 3 }] })]
    ctxs := [(1, { enable := true, part := 1, training := true, state := 2, gen := 2, tallyCount := 64 }), (2, { part := 1, state := 3, gen := 3 })] }
def ebEsc (l t c : Nat) : Esc := { level := l, target := t, cause := c }

theorem wit_EscalationsBegin_1 :
    ∃ s : State, ∃ cmd : Instr, ∃ x, (4 ≤ s.boot.phase) ∧ (∀ e ∈ s.hang.escs, ¬ (x.level ≤ e.level ∧
    Esc.over s e x = true)) ∧ ((∃ core, cmd = Instr.coreStopTimeout core ∧ coreAvail s core = true ∧
    x = { level := 2, target := (coreUnit s core).toNat, cause := 0xC5 }) ∨ (∃ die proc,
    cmd = .heartbeatMissed die proc ∧ die < 8 ∧ proc < 2 ∧
    x = { level := 2, target := (unitW 2 die proc 0).toNat, cause := 0xC5 }) ∨ (∃ u, cmd = .engineNoAnswer u ∧
    engineExists s u = true ∧ (rbits u 63 56 = 5 ∨ rbits u 63 56 = 7 ∨ rbits u 63 56 = 8 ∨ rbits u 63 56 = 9) ∧
    x = { level := 2, target := u.toNat, cause := 0xC5 }) ∨ (∃ core id u, cmd = .transferCancelTimeout core id u ∧
    engineExists s u = true ∧ (∃ y ∈ (getCore s core).inflight, y.id = id ∧ (getCtx s y.ctx).state = 3 ∧
    (getCtx s y.ctx).gen = y.gen) ∧ x = { level := 2, target := u.toNat, cause := 0xC5 }) ∨ (∃ v,
    cmd = .hubEscReq v ∧ hostOpen s = true ∧ 1 ≤ rbits v 2 0 ∧ rbits v 2 0 ≤ 4 ∧
    targetRefusal s (rbits v 2 0) s.hang.target = none ∧ x = escOf (rbits v 2 0) s.hang.target)) :=
  ⟨ebState 0#64 [], .coreStopTimeout 0, ebEsc 2 0x0100040000000000 0xC5, by decide +kernel, by decide +kernel,
    (.inl ⟨0, rfl, by decide +kernel, by decide +kernel⟩)⟩

theorem wit_EscalationsBegin_1b :
    ∃ s : State, ∃ cmd : Instr, ∃ x, (4 ≤ s.boot.phase) ∧ (∀ e ∈ s.hang.escs, ¬ (x.level ≤ e.level ∧
    Esc.over s e x = true)) ∧ ((∃ core, cmd = Instr.coreStopTimeout core ∧ coreAvail s core = true ∧
    x = { level := 2, target := (coreUnit s core).toNat, cause := 0xC5 }) ∨ (∃ die proc,
    cmd = .heartbeatMissed die proc ∧ die < 8 ∧ proc < 2 ∧
    x = { level := 2, target := (unitW 2 die proc 0).toNat, cause := 0xC5 }) ∨ (∃ u, cmd = .engineNoAnswer u ∧
    engineExists s u = true ∧ (rbits u 63 56 = 5 ∨ rbits u 63 56 = 7 ∨ rbits u 63 56 = 8 ∨ rbits u 63 56 = 9) ∧
    x = { level := 2, target := u.toNat, cause := 0xC5 }) ∨ (∃ core id u, cmd = .transferCancelTimeout core id u ∧
    engineExists s u = true ∧ (∃ y ∈ (getCore s core).inflight, y.id = id ∧ (getCtx s y.ctx).state = 3 ∧
    (getCtx s y.ctx).gen = y.gen) ∧ x = { level := 2, target := u.toNat, cause := 0xC5 }) ∨ (∃ v,
    cmd = .hubEscReq v ∧ hostOpen s = true ∧ 1 ≤ rbits v 2 0 ∧ rbits v 2 0 ≤ 4 ∧
    targetRefusal s (rbits v 2 0) s.hang.target = none ∧ x = escOf (rbits v 2 0) s.hang.target)) :=
  ⟨ebState 0#64 [ebEsc 1 1 0xC4], .heartbeatMissed 7 1, ebEsc 2 0x0270010000000000 0xC5, by decide +kernel,
    by decide +kernel, (.inr (.inl ⟨7, 1, rfl, by decide, by decide, by decide +kernel⟩))⟩

theorem wit_EscalationsBegin_1c :
    ∃ s : State, ∃ cmd : Instr, ∃ x, (4 ≤ s.boot.phase) ∧ (∀ e ∈ s.hang.escs, ¬ (x.level ≤ e.level ∧
    Esc.over s e x = true)) ∧ ((∃ core, cmd = Instr.coreStopTimeout core ∧ coreAvail s core = true ∧
    x = { level := 2, target := (coreUnit s core).toNat, cause := 0xC5 }) ∨ (∃ die proc,
    cmd = .heartbeatMissed die proc ∧ die < 8 ∧ proc < 2 ∧
    x = { level := 2, target := (unitW 2 die proc 0).toNat, cause := 0xC5 }) ∨ (∃ u, cmd = .engineNoAnswer u ∧
    engineExists s u = true ∧ (rbits u 63 56 = 5 ∨ rbits u 63 56 = 7 ∨ rbits u 63 56 = 8 ∨ rbits u 63 56 = 9) ∧
    x = { level := 2, target := u.toNat, cause := 0xC5 }) ∨ (∃ core id u, cmd = .transferCancelTimeout core id u ∧
    engineExists s u = true ∧ (∃ y ∈ (getCore s core).inflight, y.id = id ∧ (getCtx s y.ctx).state = 3 ∧
    (getCtx s y.ctx).gen = y.gen) ∧ x = { level := 2, target := u.toNat, cause := 0xC5 }) ∨ (∃ v,
    cmd = .hubEscReq v ∧ hostOpen s = true ∧ 1 ≤ rbits v 2 0 ∧ rbits v 2 0 ≤ 4 ∧
    targetRefusal s (rbits v 2 0) s.hang.target = none ∧ x = escOf (rbits v 2 0) s.hang.target)) :=
  ⟨ebState 0#64 [], .engineNoAnswer 0x07301F0000000000#64, ebEsc 2 0x07301F0000000000 0xC5, by decide +kernel,
    by decide +kernel, (.inr (.inr (.inl ⟨_, rfl, by decide +kernel, .inr (.inl (by decide +kernel)),
    by decide +kernel⟩)))⟩

theorem wit_EscalationsBegin_1d :
    ∃ s : State, ∃ cmd : Instr, ∃ x, (4 ≤ s.boot.phase) ∧ (∀ e ∈ s.hang.escs, ¬ (x.level ≤ e.level ∧
    Esc.over s e x = true)) ∧ ((∃ core, cmd = Instr.coreStopTimeout core ∧ coreAvail s core = true ∧
    x = { level := 2, target := (coreUnit s core).toNat, cause := 0xC5 }) ∨ (∃ die proc,
    cmd = .heartbeatMissed die proc ∧ die < 8 ∧ proc < 2 ∧
    x = { level := 2, target := (unitW 2 die proc 0).toNat, cause := 0xC5 }) ∨ (∃ u, cmd = .engineNoAnswer u ∧
    engineExists s u = true ∧ (rbits u 63 56 = 5 ∨ rbits u 63 56 = 7 ∨ rbits u 63 56 = 8 ∨ rbits u 63 56 = 9) ∧
    x = { level := 2, target := u.toNat, cause := 0xC5 }) ∨ (∃ core id u, cmd = .transferCancelTimeout core id u ∧
    engineExists s u = true ∧ (∃ y ∈ (getCore s core).inflight, y.id = id ∧ (getCtx s y.ctx).state = 3 ∧
    (getCtx s y.ctx).gen = y.gen) ∧ x = { level := 2, target := u.toNat, cause := 0xC5 }) ∨ (∃ v,
    cmd = .hubEscReq v ∧ hostOpen s = true ∧ 1 ≤ rbits v 2 0 ∧ rbits v 2 0 ≤ 4 ∧
    targetRefusal s (rbits v 2 0) s.hang.target = none ∧ x = escOf (rbits v 2 0) s.hang.target)) :=
  ⟨ebState 0#64 [], .transferCancelTimeout 0 8 0x0930050000000000#64, ebEsc 2 0x0930050000000000 0xC5,
    by decide +kernel, by decide +kernel, (.inr (.inr (.inr (.inl ⟨0, 8, _, rfl, by decide +kernel,
    ⟨{ ctx := 2, gen := 3, instr := 0#128, id := 8, index := 0, launch := 3 }, by decide +kernel, rfl,
    by decide +kernel, by decide +kernel⟩, by decide +kernel⟩))))⟩

theorem wit_EscalationsBegin_1e :
    ∃ s : State, ∃ cmd : Instr, ∃ x, (4 ≤ s.boot.phase) ∧ (∀ e ∈ s.hang.escs, ¬ (x.level ≤ e.level ∧
    Esc.over s e x = true)) ∧ ((∃ core, cmd = Instr.coreStopTimeout core ∧ coreAvail s core = true ∧
    x = { level := 2, target := (coreUnit s core).toNat, cause := 0xC5 }) ∨ (∃ die proc,
    cmd = .heartbeatMissed die proc ∧ die < 8 ∧ proc < 2 ∧
    x = { level := 2, target := (unitW 2 die proc 0).toNat, cause := 0xC5 }) ∨ (∃ u, cmd = .engineNoAnswer u ∧
    engineExists s u = true ∧ (rbits u 63 56 = 5 ∨ rbits u 63 56 = 7 ∨ rbits u 63 56 = 8 ∨ rbits u 63 56 = 9) ∧
    x = { level := 2, target := u.toNat, cause := 0xC5 }) ∨ (∃ core id u, cmd = .transferCancelTimeout core id u ∧
    engineExists s u = true ∧ (∃ y ∈ (getCore s core).inflight, y.id = id ∧ (getCtx s y.ctx).state = 3 ∧
    (getCtx s y.ctx).gen = y.gen) ∧ x = { level := 2, target := u.toNat, cause := 0xC5 }) ∨ (∃ v,
    cmd = .hubEscReq v ∧ hostOpen s = true ∧ 1 ≤ rbits v 2 0 ∧ rbits v 2 0 ≤ 4 ∧
    targetRefusal s (rbits v 2 0) s.hang.target = none ∧ x = escOf (rbits v 2 0) s.hang.target)) :=
  ⟨ebState 0x20001#64 [], .hubEscReq 1#64, { level := 1, target := 1, gen := 2, cause := 0xC4 }, by decide +kernel,
    by decide +kernel, (.inr (.inr (.inr (.inr ⟨_, rfl, by decide +kernel, by decide +kernel, by decide +kernel,
    by decide +kernel, by decide +kernel⟩))))⟩

theorem wit_EscalationsBegin_2 :
    ∃ s : State, ∃ e, (s.hang.escs.head? = some e) ∧ (4 ≤ e.level) :=
  ⟨ebState 1#64 [ebEsc 4 0 0xC7], ebEsc 4 0 0xC7, by decide +kernel, by decide +kernel⟩

theorem wit_EscalationsBegin_3 :
    ∃ s : State, ∃ v : W64, (hostOpen s = true) ∧ (rbits v 2 0 = 5) :=
  ⟨ebState 1#64 [], 5#64, by decide +kernel, by decide +kernel⟩

theorem wit_EscalationsBegin_4 :
    ∃ s : State, ∃ v : W64, (hostOpen s = true) ∧ (5 < rbits v 2 0) :=
  ⟨ebState 1#64 [], 7#64, by decide +kernel, by decide +kernel⟩

theorem wit_EscalationsBegin_5 :
    ∃ s : State, ∃ v : W64, ∃ r, (hostOpen s = true) ∧ (1 ≤ rbits v 2 0) ∧ (rbits v 2 0 ≤ 4) ∧
    (targetRefusal s (rbits v 2 0) s.hang.target = some r) :=
  ⟨ebState 0x30001#64 [], 1#64, 0x21, by decide +kernel, by decide +kernel, by decide +kernel, by decide +kernel⟩

theorem wit_EscalationsBegin_6 :
    ∃ s : State, ∃ q : Req, ∃ body : List Byte, ∃ level, (Fresh s q) ∧ (s.boot.phase = 6) ∧ (body.length = 16) ∧
    (level = leAt body 0 1) ∧ (s.hang.escs = []) ∧ (1 ≤ level) ∧ (level ≤ 5) ∧
    (targetRefusal s level (BitVec.ofNat 64 (leAt body 8 8)) = none) :=
  ⟨ebState 0#64 [], { ident := 4 }, [5#8] ++ List.replicate 15 0#8, 5, ⟨by decide +kernel, by decide +kernel⟩,
    by decide +kernel, by decide +kernel, by decide +kernel, by decide +kernel, by decide +kernel,
    by decide +kernel, by decide +kernel⟩

theorem wit_EscalationsBegin_7 :
    ∃ s : State, ∃ q : Req, ∃ body : List Byte, ∃ level, (Fresh s q) ∧ (s.boot.phase = 6) ∧ (body.length = 16) ∧
    (level = leAt body 0 1) ∧ (s.hang.escs = []) ∧ (level = 0 ∨ 5 < level) :=
  ⟨ebState 0#64 [], { ident := 4 }, [6#8] ++ List.replicate 15 0#8, 6, ⟨by decide +kernel, by decide +kernel⟩,
    by decide +kernel, by decide +kernel, by decide +kernel, by decide +kernel, (.inr (by decide))⟩

def esEsc (l t : Nat) : Esc := { level := l, target := t, cause := 0xC5 }
def esState (e : Esc) : State :=
  { tFab (tFrame 1) with
    coreMap := [(0, { avail := true, site := 4 }), (1, { avail := true, site := 5 })], hang := { escs := [{ level := 1, target := 9, cause := 0xC4 }, e], cfg := 0x8000000000000001#64 }
    cores := [(0, { (tCore 0 0#128) with inflight := [{ ctx := 2, gen := 3, instr := 0#128, id := 8, index := 0, launch := 3 }] }), (1, { run := 1 })]
    launches := [(3, { ctx := 1, gen := 2, cores := [0, 1], running := true })], cmds := [tCmd 0x201 0 0 0, { tCmd 0x101 0 0 0 with slot := 5 }]
    mem := { chans := [(243, { state := 2, genRun := 1, corrected := 7 })], slices := [(127, { cache := true, changing := true, lines := [{ crate := 9, dirty := true }] })], opened := [5, 0x7000000 / 4096 ] }
    ctxs := [(1, { enable := true, part := 1, state := 2, gen := 2, tallyCount := 64 }), (2, { part := 2, state := 2, gen := 3 }), (3, { part := 1, state := 4, gen := 3 })] }

theorem wit_EscalationSteps_1 :
    ∃ s : State, ∃ ctx, ∃ e, ∃ x, (s.hang.escs.find? (fun e => e.level == 1 && e.target == ctx && !e.run) = some e) ∧
    (x = getCtx s ctx) ∧ (x.gen = e.gen) ∧ (x.state = 1 ∨ x.state = 2) :=
  ⟨esState { level := 1, target := 1, gen := 2, cause := 0xC4 }, 1,
    { level := 1, target := 1, gen := 2, cause := 0xC4 }, getCtx (esState (esEsc 1 1)) 1, by decide +kernel,
    by decide +kernel, by decide +kernel, (.inr rfl)⟩

theorem wit_EscalationSteps_2 :
    ∃ s : State, ∃ ctx, ∃ e, ∃ x, (s.hang.escs.find? (fun e => e.level == 1 && e.target == ctx && !e.run) = some e) ∧
    (x = getCtx s ctx) ∧ (x.gen = e.gen) ∧ (x.state = 4) :=
  ⟨esState { level := 1, target := 3, gen := 3, cause := 0xC4 }, 3,
    { level := 1, target := 3, gen := 3, cause := 0xC4 }, getCtx (esState (esEsc 1 1)) 3, by decide +kernel,
    by decide +kernel, by decide +kernel, by decide +kernel⟩

theorem wit_EscalationSteps_3 :
    ∃ s : State, ∃ u : W64, ∃ e, ∃ cls : Nat, ∃ die, ∃ i,
    (s.hang.escs.find? (fun e => e.level == 2 && e.target == u.toNat) = some e) ∧ (cls = rbits u 63 56) ∧
    (die = rbits u 55 52) ∧ (i = rbits u 51 40) ∧ (cls ≠ 2 ∨ tget 0 s.cpActive die ≠ i ∨ spareProc s die = true) :=
  ⟨esState (esEsc 2 0x0530330000000000), 0x0530330000000000#64, esEsc 2 0x0530330000000000, 5, 3, 0x33,
    by decide +kernel, by decide +kernel, by decide +kernel, by decide +kernel, (.inl (by decide))⟩

theorem wit_EscalationSteps_3b :
    ∃ s : State, ∃ u : W64, ∃ e, ∃ cls : Nat, ∃ die, ∃ i,
    (s.hang.escs.find? (fun e => e.level == 2 && e.target == u.toNat) = some e) ∧ (cls = rbits u 63 56) ∧
    (die = rbits u 55 52) ∧ (i = rbits u 51 40) ∧ (cls ≠ 2 ∨ tget 0 s.cpActive die ≠ i ∨ spareProc s die = true) :=
  ⟨esState (esEsc 2 0x0100040000000000), 0x0100040000000000#64, esEsc 2 0x0100040000000000, 1, 0, 4,
    by decide +kernel, by decide +kernel, by decide +kernel, by decide +kernel, (.inl (by decide))⟩

theorem wit_EscalationSteps_3c :
    ∃ s : State, ∃ u : W64, ∃ e, ∃ cls : Nat, ∃ die, ∃ i,
    (s.hang.escs.find? (fun e => e.level == 2 && e.target == u.toNat) = some e) ∧ (cls = rbits u 63 56) ∧
    (die = rbits u 55 52) ∧ (i = rbits u 51 40) ∧ (cls ≠ 2 ∨ tget 0 s.cpActive die ≠ i ∨ spareProc s die = true) :=
  ⟨esState (esEsc 2 0x0230000000000000), 0x0230000000000000#64, esEsc 2 0x0230000000000000, 2, 3, 0,
    by decide +kernel, by decide +kernel, by decide +kernel, by decide +kernel, (.inr (.inr (by decide +kernel)))⟩

theorem wit_EscalationSteps_3d :
    ∃ s : State, ∃ u : W64, ∃ e, ∃ cls : Nat, ∃ die, ∃ i,
    (s.hang.escs.find? (fun e => e.level == 2 && e.target == u.toNat) = some e) ∧ (cls = rbits u 63 56) ∧
    (die = rbits u 55 52) ∧ (i = rbits u 51 40) ∧ (cls ≠ 2 ∨ tget 0 s.cpActive die ≠ i ∨ spareProc s die = true) :=
  ⟨esState (esEsc 2 0x07301F0000000000), 0x07301F0000000000#64, esEsc 2 0x07301F0000000000, 7, 3, 31,
    by decide +kernel, by decide +kernel, by decide +kernel, by decide +kernel, (.inl (by decide))⟩

theorem wit_EscalationSteps_3e :
    ∃ s : State, ∃ u : W64, ∃ e, ∃ cls : Nat, ∃ die, ∃ i,
    (s.hang.escs.find? (fun e => e.level == 2 && e.target == u.toNat) = some e) ∧ (cls = rbits u 63 56) ∧
    (die = rbits u 55 52) ∧ (i = rbits u 51 40) ∧ (cls ≠ 2 ∨ tget 0 s.cpActive die ≠ i ∨ spareProc s die = true) :=
  ⟨esState (esEsc 2 0x0900000000000000), 0x0900000000000000#64, esEsc 2 0x0900000000000000, 9, 0, 0,
    by decide +kernel, by decide +kernel, by decide +kernel, by decide +kernel, (.inl (by decide))⟩

theorem wit_EscalationSteps_4 :
    ∃ s : State, ∃ part, ∃ e, (s.hang.escs.find? (fun e => e.level == 3 && e.target == part && !e.run) = some e) ∧
    (tsorted s.ctxs = true) :=
  ⟨esState (esEsc 3 1), 1, esEsc 3 1, by decide +kernel, by decide +kernel⟩

theorem wit_EscalationSteps_5 :
    ∃ s : State, ∃ e, ∃ target, (s.hang.escs = [e]) ∧ (e.level = 3) ∧ (e.target = target) ∧ (4 ≤ s.boot.phase) :=
  ⟨{ esState (esEsc 3 1) with hang := { escs := [esEsc 3 1] } }, esEsc 3 1, 1, by decide +kernel, by decide +kernel,
    by decide +kernel, by decide +kernel⟩

theorem wit_EscalationSteps_6 :
    ∃ s : State, (s.boot.phase ≠ 6 ∨ rbit s.hang.cfg 63 = false) :=
  ⟨{ esState (esEsc 3 1) with hang := { cfg := 1#64, since := [{ who := { kind := 0, num := 2, ord := 4, ctx := 1 }, since := 7, mark := [] }] } },
    (.inr (by decide +kernel))⟩

theorem wit_EscalationSteps_7 :
    ∃ s : State, (s.boot.phase = 6) ∧ (rbit s.hang.cfg 63 = true) ∧ (∀ e ∈ s.ctxs, waitersOf s e.1 = []) :=
  ⟨{ esState (esEsc 3 1) with ctxs := [] }, by decide +kernel, by decide +kernel, by decide +kernel⟩

end EscalationsW

/-! ### Resets -/

namespace ResetsW

def rsState (b : Boot) (escs : List Esc) : State :=
  { tTrain (tCmd 0x101 0 0 0) with
    boot := b, hang := { escs, capSeq := 9, escSlot := 2, capMem := [(5, 6#8)] }, mgmt := { addressed := true, alert := 2, addr := 77#64 }, ledger := { mode := 1, bank := 2, past := 5 }
    fuse := { nonce := some 5#128 }, coreMap := [(0, { avail := true })] }
def rsBoot (p : Nat) : Boot := { phase := p, bankA := [(5, 6#8)], pwrCyc := false }

theorem wit_Resets_1 :
    ∃ s : State, ∃ cmd : Instr, ∃ cause : Nat, ∃ level : Nat, (cmd = Instr.resetNAsserted ∧ powered s = true ∧
    cause = 0xC1 ∧ level = 4 ∨ cmd = .stewardWatchdog ∧ powered s = true ∧ 4 ≤ s.boot.phase ∧ s.hang.escs = [] ∧
    cause = 0xC3 ∧ level = 4 ∨ cmd = .inputLoss ∧ powered s = true ∧ s.boot.phase ≠ 0 ∧ cause = 0xC0 ∧ level = 5) ∧
    (s.boot.level4 = []) :=
  ⟨rsState (rsBoot 6) [], .resetNAsserted, 0xC1, 4, (.inl ⟨rfl, by decide +kernel, rfl, rfl⟩), by decide +kernel⟩

theorem wit_Resets_1b :
    ∃ s : State, ∃ cmd : Instr, ∃ cause : Nat, ∃ level : Nat, (cmd = Instr.resetNAsserted ∧ powered s = true ∧
    cause = 0xC1 ∧ level = 4 ∨ cmd = .stewardWatchdog ∧ powered s = true ∧ 4 ≤ s.boot.phase ∧ s.hang.escs = [] ∧
    cause = 0xC3 ∧ level = 4 ∨ cmd = .inputLoss ∧ powered s = true ∧ s.boot.phase ≠ 0 ∧ cause = 0xC0 ∧ level = 5) ∧
    (s.boot.level4 = []) :=
  ⟨rsState (rsBoot 4) [], .stewardWatchdog, 0xC3, 4, (.inr (.inl ⟨rfl, by decide +kernel, by decide +kernel, rfl,
    rfl, rfl⟩)), by decide +kernel⟩

theorem wit_Resets_1c :
    ∃ s : State, ∃ cmd : Instr, ∃ cause : Nat, ∃ level : Nat, (cmd = Instr.resetNAsserted ∧ powered s = true ∧
    cause = 0xC1 ∧ level = 4 ∨ cmd = .stewardWatchdog ∧ powered s = true ∧ 4 ≤ s.boot.phase ∧ s.hang.escs = [] ∧
    cause = 0xC3 ∧ level = 4 ∨ cmd = .inputLoss ∧ powered s = true ∧ s.boot.phase ≠ 0 ∧ cause = 0xC0 ∧ level = 5) ∧
    (s.boot.level4 = []) :=
  ⟨rsState (rsBoot 1) [], .inputLoss, 0xC0, 5, (.inr (.inr ⟨rfl, by decide +kernel, by decide +kernel, rfl, rfl⟩)),
    by decide +kernel⟩

theorem wit_Resets_2 :
    ∃ s : State, ∃ e, (s.hang.escs.find? (fun e => e.level == 4) = some e) ∧ (s.boot.level4 = []) :=
  ⟨rsState (rsBoot 6) [{ level := 4, target := 0, cause := 0xC6 }], { level := 4, target := 0, cause := 0xC6 },
    by decide +kernel, by decide +kernel⟩

theorem wit_Resets_3 :
    ∃ s : State, ∃ e, (s.hang.escs.find? (fun e => e.level == 5) = some e) :=
  ⟨rsState (rsBoot 6) [{ level := 5, target := 0, cause := 0xC7 }], { level := 5, target := 0, cause := 0xC7 },
    by decide +kernel⟩

theorem wit_Resets_4 :
    ∃ s : State, (s.boot.pwrCyc = true) ∧ (powered s = true) :=
  ⟨rsState { rsBoot 6 with pwrCyc := true } [], by decide +kernel, by decide +kernel⟩

theorem wit_Resets_5 :
    ∃ s : State, (s.boot.ended4 ≠ none) ∧ (s.boot.phase ≠ 0) ∧ (s.boot.phase ≠ 6) ∧ (s.boot.phase ≠ 7) ∧
    (s.boot.pwrCyc = false) :=
  ⟨rsState { rsBoot 3 with ended4 := some 5 } [], by decide +kernel, by decide +kernel, by decide +kernel,
    by decide +kernel, by decide +kernel⟩

theorem wit_Resets_7 :
    ∃ s : State, (s.boot.off = false) :=
  ⟨rsState (rsBoot 6) [], by decide +kernel⟩

end ResetsW

/-! ### BootPhases -/

namespace BootPhasesW

def bpFuse : FuseState := { f := { lifecycle := 1, keys := [tKeyHash, 5, 0, 0], svn := 3 }, prov := 1 }
def bpState (p : Nat) : State := { tHost with boot := { phase := p }, fuse := bpFuse, cmds := [tCmd 0x101 0 0 0], events := {} }
def bpDir (a t b : Nat) : FlashDir := { active := a, tries := t, seq := 4, banks := b }
def bpCells : List Host.Cell := writeBytes [] 0 (tImg.map (fun b => ~~~b))
def bpRom (d : FlashDir) (a b : List Host.Cell) : State := { bpState 3 with boot := { phase := 3, dir0 := dirBytes d, bankA := a, bankBB := b } }
def bpBad : List Host.Cell := [(0x14, 0xFF#8), (0x15, 0xFF#8), (0x16, 0xFF#8), (0x17, 0xFF#8)]
theorem bp_image (s : State) (h : s.boot.bankA = bpCells) : bankImage s 0 = tImg := by
  have e : bankImage s 0 = bankImage { bpState 3 with boot := { phase := 3, bankA := bpCells } } 0 := by
    unfold bankImage bankBytes bankCells
    simp only [h, if_pos]
  rw [e]; decide +kernel
theorem bp_verify (s : State) (h : s.boot.bankA = bpCells) (h1 : trustedKey s tKeyHash = true) (h2 : s.fuse.f.svn ≤ 3) :
    verifyImage s (bankImage s 0) = true := by rw [bp_image s h]; exact t_verifyImage s h1 h2

theorem wit_BootPhases_1 :
    ∃ s : State, (s.boot.phase = 0) ∧ (powered s = true) :=
  ⟨{ bpState 0 with boot := { phase := 0, from_ := 2 } }, by decide +kernel, by decide +kernel⟩

theorem wit_BootPhases_2 :
    ∃ s : State, (s.boot.phase = 1) :=
  ⟨bpState 1, by decide +kernel⟩

theorem wit_BootPhases_3 :
    ∃ s : State, ∃ samples : List Nat, ∃ raw, (s.boot.phase = 2) ∧ (samples.length = 16) ∧
    (raw = medianOf (samples.map (· % 1024))) :=
  ⟨bpState 2, [547, 547, 547, 547, 547, 547, 547, 547, 546, 548, 1023, 2, 547, 547, 600, 547], 547,
    by decide +kernel, by decide +kernel, by decide +kernel⟩

theorem wit_BootPhases_4 :
    ∃ s : State, ∃ d, ∃ k, (s.boot.phase = 3) ∧ (newestDir s.boot = some (d, k)) ∧ (d.tries < 3) ∧
    (verifyImage s (bankImage s d.active) = true) :=
  ⟨bpRom (bpDir 0 2 1) bpCells [], bpDir 0 2 1, 0, by decide +kernel, by decide +kernel, by decide +kernel,
    (bp_verify _ rfl (by decide +kernel) (by decide +kernel))⟩

theorem wit_BootPhases_5 :
    ∃ s : State, ∃ d, ∃ k, (s.boot.phase = 3) ∧ (newestDir s.boot = some (d, k)) ∧ (d.tries < 3) ∧
    (verifyImage s (bankImage s d.active) = false) ∧ (verifyImage s (bankImage s (1 - d.active)) = true) ∧
    (d.active ≤ 1) :=
  ⟨bpRom (bpDir 1 1 3) bpCells bpBad, bpDir 1 1 3, 0, by decide +kernel, by decide +kernel, by decide +kernel,
    by decide +kernel, (bp_verify _ rfl (by decide +kernel) (by decide +kernel)), by decide +kernel⟩

theorem wit_BootPhases_6 :
    ∃ s : State, ∃ d, ∃ k, (s.boot.phase = 3) ∧ (newestDir s.boot = some (d, k)) ∧ (d.tries < 3) ∧
    (verifyImage s (bankImage s d.active) = false) ∧ (verifyImage s (bankImage s (1 - d.active)) = false) :=
  ⟨bpRom (bpDir 1 0 3) bpBad bpBad, bpDir 1 0 3, 0, by decide +kernel, by decide +kernel, by decide +kernel,
    by decide +kernel, by decide +kernel⟩

theorem wit_BootPhases_7 :
    ∃ s : State, (s.boot.phase = 4) :=
  ⟨{ bpState 4 with boot := { phase := 4, code := 8 }, ledger := { records := [{ kind := 0x31, reason := 0, boot := 1, seq := 5, time := 0#64, unit := 0#64, data := [0#8, 0#8, 0#8, 9#8] }], bank := 2 } },
    by decide +kernel⟩

theorem wit_BootPhases_8 :
    ∃ s : State, (s.boot.phase = 5) ∧ (getChan s 0).state = 0 :=
  ⟨bpState 5, by decide +kernel, by decide +kernel⟩

theorem wit_BootPhases_9 :
    ∃ s : State, (s.boot.phase = 5) ∧ (getChan s 0).state ≠ 0 ∧ (s.fuse.prov = 3) ∧ (∀ p ∈ s.events.pins,
    p.level = true) :=
  ⟨{ bpState 5 with mem := { chans := [(0, { state := 1 })] }, fuse := { prov := 3 } }, by decide +kernel,
    by decide +kernel, by decide +kernel, by decide +kernel⟩

theorem wit_BootPhases_10 :
    ∃ s : State, (s.boot.phase = 5) ∧ (getChan s 0).state ≠ 0 ∧ (s.fuse.prov ≠ 3) ∧ (s.boot.template = 0) ∧
    (∀ p ∈ s.events.pins, p.level = true) :=
  ⟨{ bpState 5 with mem := { chans := [(0, { state := 1 })] }, parts := [] }, by decide +kernel, by decide +kernel,
    by decide +kernel, by decide +kernel, by decide +kernel⟩

end BootPhasesW

/-! ### ClocksAndPower -/

namespace ClocksAndPowerW

def clState (p : Pwr) (ph : Nat) (ts : Nat) : State := { tHost with boot := { phase := ph }, pwr := p, fab := { timeSt := { state := ts } } }

theorem wit_Clocks_1 :
    ∃ s : State, (s.pwr.refOk = true) :=
  ⟨clState { refOk := true } 0 2, by decide +kernel⟩

theorem wit_Clocks_2 :
    ∃ s : State, (s.boot.phase ≠ 0) ∧ (powered s = true) :=
  ⟨clState { holdover := true } 1 1, by decide +kernel, by decide +kernel⟩

theorem wit_Clocks_3 :
    ∃ s : State, (s.boot.phase ≠ 0) ∧ (powered s = true) ∧ (s.pwr.active = 0) :=
  ⟨clState { lockA := true, op := 2 } 1 1, by decide +kernel, by decide +kernel, by decide +kernel⟩

theorem wit_Clocks_4 :
    ∃ s : State, (s.boot.phase = 6) ∧ (s.pwr.stepping = false) ∧ (s.pwr.op ≠ effOp s) ∧ (s.pwr.active = 0) ∧
    (s.pwr.refOk = true) :=
  ⟨clState { refOk := true, lockA := true, lockB := true, op := 1 } 6 1, by decide +kernel, by decide +kernel,
    by decide +kernel, by decide +kernel, by decide +kernel⟩

theorem wit_Clocks_5 :
    ∃ s : State, (s.boot.phase = 6) ∧ (s.pwr.stepping = false) ∧ (s.pwr.op ≠ effOp s) ∧ (s.pwr.active = 0) ∧
    (s.pwr.refOk = false) :=
  ⟨clState { lockA := true, op := 2 } 6 1, by decide +kernel, by decide +kernel, by decide +kernel,
    by decide +kernel, by decide +kernel⟩

theorem wit_Clocks_6 :
    ∃ s : State, (s.pwr.stepping = true) ∧ (s.pwr.active = 0) ∧ (s.pwr.standbyOp = s.pwr.op ∨ effOp s = s.pwr.standbyOp) :=
  ⟨clState { stepping := true, standbyOp := 3, op := 2 } 6 1, by decide +kernel, by decide +kernel,
    (.inr (by decide +kernel))⟩

theorem wit_Clocks_7 :
    ∃ s : State, (s.pwr.stepping = true) ∧ (s.pwr.active = 0) ∧ (s.pwr.retried = false) :=
  ⟨clState { stepping := true, standbyOp := 1, op := 2 } 6 1, by decide +kernel, by decide +kernel, by decide +kernel⟩

theorem wit_Clocks_8 :
    ∃ s : State, (s.pwr.stepping = true) ∧ (s.pwr.active = 0) ∧ (s.pwr.retried = true) :=
  ⟨clState { stepping := true, retried := true, standbyOp := 1, op := 2 } 6 1, by decide +kernel, by decide +kernel,
    by decide +kernel⟩

def baState (p : Pwr) : State := { tHost with boot := { phase := 6 }, pwr := p, time := 1000000#64 }
def baX (n : Nat) : BackSample := { pAvg := n, pNow := n + 5, iAvg := 9, dies := [1, 2], droop := false, core := 7 }

theorem wit_Backstop_1 :
    ∃ s : State, ∃ x : BackSample, ∃ n, ∃ m, (s.boot.phase ≠ 0) ∧ (powered s = true) ∧ (n = s.pwr.bubbles) ∧
    (m = nextBubbles n (effCap s * 1000) x) :=
  ⟨baState {}, baX 5000000, 0, nextBubbles 0 (effCap (baState {}) * 1000) (baX 5000000), by decide +kernel,
    by decide +kernel, by decide +kernel, by decide +kernel⟩

theorem wit_Backstop_2 :
    ∃ s : State, ∃ t0, (s.boot.phase = 6) ∧ (s.pwr.slowSince = some t0) ∧ (t0 + 100000 ≤ s.time.toNat) ∧
    (s.pwr.slowAt = 0 ∨ s.pwr.slowAt + 100000 ≤ s.time.toNat) :=
  ⟨baState { slowSince := some 5, backLimit := 3 }, 5, by decide +kernel, by decide +kernel, by decide +kernel,
    (.inl rfl)⟩

theorem wit_Backstop_3 :
    ∃ s : State, (s.boot.phase = 6) ∧ (s.pwr.slowSince = none) ∧ (s.pwr.backLimit ≠ 0) ∧ (s.pwr.history = []) :=
  ⟨baState { backLimit := 2 }, by decide +kernel, by decide +kernel, by decide +kernel, by decide +kernel⟩

theorem wit_Backstop_4 :
    ∃ s : State, ∃ die, (s.boot.phase ≠ 0) ∧ (powered s = true) ∧ (die < 8) :=
  ⟨baState { dieDroop := [(3, 4)] }, 3, by decide +kernel, by decide +kernel, by decide +kernel⟩

def heState2 (p : Pwr) : State := { tTrain (tCmd 0x101 0 0 0) with boot := { phase := 6 }, pwr := p, time := 5000000#64 }

theorem wit_HeatAndInput_1 :
    ∃ s : State, ∃ j : Int, ∃ m : Int, (s.boot.phase ≠ 0) ∧ (powered s = true) ∧ (tripping j m = true) ∧
    (tripping s.pwr.hottest s.pwr.hotMem = true) :=
  ⟨heState2 { hottest := 1760 }, 1760, 100, by decide +kernel, by decide +kernel, by decide +kernel,
    by decide +kernel⟩

theorem wit_HeatAndInput_2 :
    ∃ s : State, ∃ j : Int, ∃ m : Int, (s.boot.phase = 6) ∧ (powered s = true) ∧ (degC 100 ≤ j) ∧ (j < degC 103) ∧
    (m < degC 95) ∧ (s.pwr.margin = true) ∧ (s.pwr.slowedAt = 0 ∨ s.pwr.slowedAt + 1000000 ≤ s.time.toNat) :=
  ⟨heState2 { margin := true, slowedAt := 4000000 }, 1600, 1519, by decide +kernel, by decide +kernel,
    by decide +kernel, by decide +kernel, by decide +kernel, by decide +kernel, (.inr (by decide +kernel))⟩

theorem wit_HeatAndInput_3 :
    ∃ s : State, ∃ j : Int, ∃ m : Int, (s.boot.phase = 6) ∧ (powered s = true) ∧ (degC 95 ≤ j) ∧ (j < degC 98) ∧
    (m < degC 95) ∧ (s.pwr.margin = false) ∧ (s.pwr.thermCap = 4800) :=
  ⟨heState2 {}, 1520, 1519, by decide +kernel, by decide +kernel, by decide +kernel, by decide +kernel,
    by decide +kernel, by decide +kernel, by decide +kernel⟩

theorem wit_HeatAndInput_4 :
    ∃ s : State, (s.boot.phase ≠ 0) ∧ (powered s = true) :=
  ⟨heState2 {}, by decide +kernel, by decide +kernel⟩

end ClocksAndPowerW

/-! ### StepRunsFront -/

namespace StepRunsFrontW

theorem wit_StepRunsFront_1 :
    ∃ c : Instr, ∃ rest : List Instr, ∃ s : State, (s.pending = c :: rest) :=
  ⟨.referenceRestored, [.powerOn], { tHost with pending := [.referenceRestored, .powerOn] }, by decide +kernel⟩

theorem wit_StepRunsFront_2 :
    ∃ s : State, (s.pending = []) :=
  ⟨{ tHost with pwr := { bubbles := 3, op := 2 }, launches := [(7, { ctx := 1, gen := 2, cores := [0], running := true })] },
    by decide +kernel⟩

end StepRunsFrontW

/-! ### CommandsInOrder -/

namespace CommandsInOrderW

theorem wit_CommandsInOrder_1 :
    ∃ c : Instr, ∃ s : State, ∃ t : State, (exec c s = .next t) :=
  ⟨.powerOn, tHost, powerOn tHost, (rfl)⟩

theorem wit_CommandsInOrder_2 :
    ∃ c : Instr, ∃ rest : List Instr, ∃ s : State, ∃ t : State, (s.pending = c :: rest) ∧ (step s = .next t) :=
  ⟨.powerOn, [.powerOn], { tHost with pending := [.powerOn, .powerOn] },
    powerOn { tHost with pending := [.powerOn] }, (rfl), (rfl)⟩

end CommandsInOrderW

/-! ### FusesOnlyGain -/

namespace FusesOnlyGainW

theorem wit_FusesOnlyGain_1 :
    ∃ s : State, ∃ t : State, (FusesLegal s) ∧ (step s = .next t) :=
  ⟨{ State.reset with pending := [.powerOn] }, powerOn State.reset, (⟨by decide +kernel, by decide +kernel,
    by decide +kernel, by decide +kernel, by decide +kernel, by decide +kernel, by decide +kernel⟩), (rfl)⟩

end FusesOnlyGainW

/-! ### MemoryCanonical -/

namespace MemoryCanonicalW

theorem wit_MemoryCanonical_1 :
    ∃ s : State, ∃ t : State, (Memory.wf s.mem = true) ∧ (step s = .next t) :=
  ⟨{ tHost with pending := [.powerOn], mem := { cells := [(5, 6#8)], tags := [(3, 1#128)] } },
    powerOn { tHost with mem := { cells := [(5, 6#8)], tags := [(3, 1#128)] } }, by decide +kernel, (rfl)⟩

end MemoryCanonicalW

/-! ### ResetRegisters -/

namespace ResetRegistersW

theorem wit_ResetRegisters_1 :
    ∃ e : RegRow, ∃ i : Nat, (e ∈ hubResets ++ hubResetsOther) ∧ (i < e.count) :=
  ⟨⟨0x10000, 8, 16, 0⟩, 15, by decide +kernel, by decide +kernel⟩

theorem wit_ResetRegisters_2 :
    ∃ e : RegRow, ∃ i : Nat, (e ∈ hubResets) ∧ (i < e.count) :=
  ⟨⟨0x20008, 0x10, 64, 2 ^ 32⟩, 63, by decide +kernel, by decide +kernel⟩

end ResetRegistersW

/-! ### StallReported -/

namespace StallReportedW

def stState (chip : Option Nat) (ph : Nat) : State := { tHost with boot := { phase := ph }, mgmt := { addressed := true }, fab := { chip, stall := some 5 } }

theorem wit_StallReported_1 :
    ∃ s : State, ∃ q : Req, ∃ body : List Byte, ∃ n, (Fresh s q) ∧ (s.boot.phase ≠ 7) ∧ (q.source = 0) ∧
    (body.length = 1) ∧ (n = leAt body 0 1) ∧ (n ≤ 16) ∧ (s.fab.chip = none ∨ s.fab.stall = some n) :=
  ⟨stState none 5, { ident := 4 }, [16#8], 16, ⟨by decide +kernel, by decide +kernel⟩, by decide +kernel,
    by decide +kernel, by decide +kernel, by decide +kernel, by decide +kernel, (.inl rfl)⟩

theorem wit_StallReported_2 :
    ∃ s : State, ∃ q : Req, ∃ body : List Byte, ∃ n, (Fresh s q) ∧ (s.boot.phase ≠ 7) ∧ (q.source = 0) ∧
    (body.length = 1) ∧ (n = leAt body 0 1) ∧ (n ≤ 16) ∧ (s.fab.chip ≠ none) ∧ (s.fab.stall ≠ some n) :=
  ⟨stState (some 69) 6, { ident := 4 }, [6#8], 6, ⟨by decide +kernel, by decide +kernel⟩, by decide +kernel,
    by decide +kernel, by decide +kernel, by decide +kernel, by decide +kernel, by decide +kernel,
    by decide +kernel⟩

theorem wit_StallReported_3 :
    ∃ s : State, ∃ n, ∃ p, (p < 48) ∧ (s.fab.stall = some n) ∧ (n ≤ 16) :=
  ⟨stState none 6, 5, 47, by decide +kernel, by decide +kernel, by decide +kernel⟩

theorem wit_StallReported_4 :
    ∃ s : State, ∃ p, (p < 48) ∧ (s.fab.stall = none) :=
  ⟨{ stState none 6 with fab := {} }, 47, by decide +kernel, by decide +kernel⟩

end StallReportedW

/-! ### HubIdConstant -/

namespace HubIdConstantW

theorem wit_HubIdConstant_1 :
    ∃ s : State, (4 ≤ s.boot.phase) ∧ (s.pcie.linkUp = true) ∧ (s.pcie.d3hot = false) :=
  ⟨tHost, by decide +kernel, by decide +kernel, by decide +kernel⟩

end HubIdConstantW

/-! ### ResetCount -/

namespace ResetCountW

def rcState : State := { tHost with fab := { resets := 2 ^ 32 - 1 } }

theorem wit_ResetCount_1 :
    ∃ s : State, (s.fab.resets < 2 ^ 32) :=
  ⟨rcState, by decide +kernel⟩

theorem wit_ResetCount_2 :
    ∃ s : State, (s.fab.resets < 2 ^ 32) :=
  ⟨rcState, by decide +kernel⟩

theorem wit_ResetCount_3 :
    ∃ s : State, (s.fab.resets < 2 ^ 32) :=
  ⟨rcState, by decide +kernel⟩

theorem wit_ResetCount_5 :
    ∃ s : State, (s.fab.resets < 2 ^ 32) :=
  ⟨rcState, by decide +kernel⟩

theorem wit_ResetCount_6 :
    ∃ s : State, (powered s = true) ∧ (s.fab.resets < 2 ^ 32) :=
  ⟨rcState, by decide +kernel, by decide +kernel⟩

end ResetCountW

end Sys2Proof.Tests
end

section
/-!
The count of chip-level resets (16/R513): where HUB_RST_COUNT and the discovery frame read it, and what the resets do
to it.
-/
namespace Sys2Proof.Machine

/-! ### Reading HUB_RST_COUNT -/

/-- Block offset 0x08 of the boot block holds the count in its low 32 bits, both halves present. -/
theorem bootReg_rstCount (s : State) : bootReg s 0x08 = some (fld 0 32 s.fab.resets, 3) := rfl

theorem hubReg_rstCount (s : State) : hubReg s 0xB0008 = bootReg s 0x08 := by
  simp [hubReg]

theorem regValue_rstCount (s : State) : regValue s 0xB0008 = s.fab.resets % 2 ^ 32 := by
  simp [regValue, regWord, hubReg_rstCount, bootReg_rstCount, fld]

/-- The reset and boot registers read their own value in every phase of boot (16/R499). -/
theorem bar0Value_bootBlock (s : State) {o : Nat} (lo : 0xB0000 ≤ o) (hi : o < 0xB0020) :
    bar0Value s o = regValue s o := by
  simp [bar0Value, lo, hi]

@[simp] theorem discoveryFrame_index (s : State) (p : Nat) : (discoveryFrame s p).index = s.fab.resets := rfl

/-! ### What the resets do to the count -/

@[simp] theorem chipReset_resets (s : State) (cause level : Nat) (slot : Option Nat) :
    (chipReset s cause level slot).fab.resets = satAdd 32 s.fab.resets 1 := rfl

@[simp] theorem requestPower_fab (s : State) (cause : Nat) : (requestPower s cause).fab = s.fab := rfl

/-- Asking for a power cycle as well leaves what the chip-level reset made of the fabric state. -/
theorem levelFour_fab (s : State) (cause : Nat) (slot : Option Nat) :
    (levelFour s cause slot).fab = (chipReset s cause 4 slot).fab := by
  unfold levelFour
  dsimp only
  split
  · exact requestPower_fab _ _
  · rfl

theorem levelFour_resets (s : State) (cause : Nat) (slot : Option Nat) :
    (levelFour s cause slot).fab.resets = satAdd 32 s.fab.resets 1 := by
  rw [levelFour_fab, chipReset_resets]

theorem powerOn_resets (s : State) : (powerOn s).fab.resets = 0 := rfl

theorem exec_resetNAsserted_of_powered {s : State} (h : powered s = true) :
    exec .resetNAsserted s = .next (levelFour s 0xC1 none) := by
  change execResetNAsserted s = _
  simp [execResetNAsserted, h]

theorem exec_powerOn (s : State) : exec .powerOn s = .next (powerOn s) := rfl

/-! ### The obligation -/

/-- Settles O60: the register, BAR0 and the discovery frame read one field, which a chip-level reset (by any cause, and
so by RESET_N) counts up and saturates, and a power-on reset clears. -/
theorem resetCount : Obligations.ResetCount := by
  unfold Obligations.ResetCount
  refine ⟨?shown, ?width, ?chip, ?resetN, ?power⟩
  case shown =>
    intro s hs
    have hreg : regValue s 0xB0008 = s.fab.resets := by rw [regValue_rstCount, Nat.mod_eq_of_lt hs]
    have hbar : bar0Value s 0xB0008 = regValue s 0xB0008 := bar0Value_bootBlock s (by decide) (by decide)
    exact ⟨hreg, hbar.trans hreg, discoveryFrame_index s⟩
  case width =>
    intro s
    rw [regValue_rstCount]
    exact Nat.mod_lt _ (by decide)
  case chip =>
    intro s cause level slot _
    exact chipReset_resets s cause level slot
  case resetN =>
    intro s hp _
    exact ⟨_, exec_resetNAsserted_of_powered hp, levelFour_resets s 0xC1 none⟩
  case power =>
    intro s
    exact ⟨_, exec_powerOn s, powerOn_resets s⟩

end Sys2Proof.Machine
end

section
/-!
The module's stall (19/R573): what SET_STALL does to it, where HUB_CHIP and the discovery frame read it, and what the
resets do to it.
-/
namespace Sys2Proof.Machine

/-! ### Answering a management request -/

@[simp] theorem respond_fab (s : State) (q : Req) (op cls reason : Nat) (body : List Byte) :
    (respond s q op cls reason body).fab = s.fab := rfl

@[simp] theorem respond_time (s : State) (q : Req) (op cls reason : Nat) (body : List Byte) :
    (respond s q op cls reason body).time = s.time := rfl

/-- The response to a request that repeats none is the one held for its repetition: the older ones that are kept do not
match it, and it is younger than 10 s (19/R571). -/
theorem heldFor_respond {s : State} {q : Req} (h : heldFor s q.source q.ident = none) (op cls reason : Nat) (body : List Byte) :
    heldFor (respond s q op cls reason body) q.source q.ident =
      some { source := q.source, ident := q.ident, time := s.time.toNat
             bytes := message op q.ident (cls * 256 + reason) 1 body } := by
  have hold : ∀ x ∈ s.mgmt.held, _ := List.find?_eq_none.mp h
  refine (List.find?_append ..).trans ?_
  rw [List.find?_eq_none.mpr, Option.none_or]
  · exact List.find?_cons_of_pos (by simp)
  · intro x hx
    obtain hx | hx := List.mem_append.mp hx
    · exact hold x (List.mem_filter.mp hx).1
    · exact hold x (List.mem_filter.mp (List.mem_of_mem_drop hx)).1

/-- A response to a request that repeats none answers it. -/
theorem respond_answered {s : State} {q : Req} (h : heldFor s q.source q.ident = none) (op cls reason : Nat) (body : List Byte) :
    Answered s (respond s q op cls reason body) q op cls reason body :=
  ⟨rfl, _, heldFor_respond h op cls reason body, rfl⟩

/-- A fresh request of the right length that its state serves is performed. -/
theorem serve_of_fresh {s : State} {q : Req} {x : Served} (h : Fresh s q) (now : x.now s q = true) (op : Nat) (f : State → State) :
    serve s q op x true f = f s := by
  obtain ⟨hreach, hheld⟩ := h
  simp [serve, hreach, hheld, now]

/-! ### SET_STALL -/

theorem exec_setStall (q : Req) (body : List Byte) (s : State) : exec (.setStall q body) s = execSetStall q body s := rfl

/-- Over the sideband SET_STALL is served in every state but recovery (19/R572). -/
theorem setStall_now {s : State} {q : Req} (hq : q.source = 0) (hp : s.boot.phase ≠ 7) :
    Served.now { a := true, sb := true } s q = true := by
  simp [Served.now, hq, hp]

section
variable {s : State} {q : Req} {body : List Byte}
  (hf : Fresh s q) (hp : s.boot.phase ≠ 7) (hq : q.source = 0) (hb : body.length = 1) (hn : leAt body 0 1 ≤ 16)
include hf hp hq hb hn

/-- A legal stall is refused when it would change the stall of a numbered module (19/R573; class 2 and the 1-byte body are
log entry 32), and set otherwise. -/
theorem execSetStall_served :
    execSetStall q body s = .next
      (if s.fab.chip.isSome ∧ s.fab.stall ≠ some (leAt body 0 1) then deny s q 4 0xCE
       else respond (modFab s (fun f => { f with stall := some (leAt body 0 1) })) q 4 0 0 []) := by
  have hlen : (body.length == 1) = true := by simp [hb]
  rw [execSetStall, hlen, serve_of_fresh hf (setStall_now hq hp)]
  exact congrArg _ (if_neg (Nat.not_lt.mpr hn))

theorem setStall_sets (hset : s.fab.chip = none ∨ s.fab.stall = some (leAt body 0 1)) :
    Runs (.setStall q body) s (fun t => Answered s t q 4 0 0 [] ∧ t.fab.stall = some (leAt body 0 1)) := by
  have hno : ¬(s.fab.chip.isSome ∧ s.fab.stall ≠ some (leAt body 0 1)) := by
    rintro ⟨hchip, hstall⟩
    obtain h | h := hset
    · simp [h] at hchip
    · exact hstall h
  refine ⟨_, (exec_setStall q body s).trans (execSetStall_served hf hp hq hb hn), ?_⟩
  rw [if_neg hno]
  refine ⟨respond_answered (s := modFab s _) hf.2 4 0 0 [], ?_⟩
  simp

theorem setStall_refuses (hchip : s.fab.chip ≠ none) (hstall : s.fab.stall ≠ some (leAt body 0 1)) :
    Runs (.setStall q body) s (fun t => Answered s t q 4 2 0xCE [] ∧ t.fab.stall = s.fab.stall) := by
  refine ⟨_, (exec_setStall q body s).trans (execSetStall_served hf hp hq hb hn), ?_⟩
  rw [if_pos ⟨Option.isSome_iff_ne_none.mpr hchip, hstall⟩]
  exact ⟨respond_answered hf.2 4 2 0xCE [], congrArg Fab.stall (respond_fab s q 4 2 0xCE [])⟩
end

/-! ### Where the stall is shown -/

/-- HUB_CHIP (11/R389). -/
theorem regValue_hubChip (s : State) :
    regValue s 0xC0000 = fld 63 1 (Word.b2n s.fab.chip.isSome) + fld 32 1 (Word.b2n s.fab.timeSt.root)
      + fld 16 5 (s.fab.stall.getD 0x1F) + fld 0 15 (ownChip s) := by
  simp [regValue, regWord, hubReg, chipReg]

/-- HUB_CHIP.STALL, bits [20:16], reads the stall, and 0x1F while it is unknown (11/R389). -/
theorem hubChip_stall (s : State) : regValue s 0xC0000 / 2 ^ 16 % 2 ^ 5 = s.fab.stall.getD 0x1F % 2 ^ 5 := by
  rw [regValue_hubChip]
  simp only [fld]
  omega

/-- AUX[15:8] of a discovery frame carries the stall, and 0xFF while it is unknown (11/R381): the sending port lies
below it. -/
theorem discoveryFrame_stall (s : State) {p : Nat} (hp : p < 48) :
    (discoveryFrame s p).aux / 2 ^ 8 % 2 ^ 8 = s.fab.stall.getD 0xFF % 2 ^ 8 := by
  simp only [discoveryFrame]
  omega

/-! ### What the resets do to the stall -/

@[simp] theorem chipReset_stall (s : State) (cause level : Nat) (slot : Option Nat) :
    (chipReset s cause level slot).fab.stall = s.fab.stall := rfl

theorem powerOn_stall (s : State) : (powerOn s).fab.stall = none := rfl

/-! ### The obligation -/

/-- Settles O58: SET_STALL, the two places that show the stall, and the two kinds of reset, each by its lemma. -/
theorem stallReported : Obligations.StallReported := by
  unfold Obligations.StallReported
  refine ⟨?request, ?known, ?unknown, ?chip, ?power⟩
  case request =>
    rintro s q body _ hf hp hq hb rfl hn
    exact ⟨setStall_sets hf hp hq hb hn, setStall_refuses hf hp hq hb hn⟩
  case known =>
    intro s n p hp hs hn
    rw [hubChip_stall, discoveryFrame_stall s hp, hs]
    exact ⟨Nat.mod_eq_of_lt (by simp; omega), Nat.mod_eq_of_lt (by simp; omega)⟩
  case unknown =>
    intro s p hp hs
    rw [hubChip_stall, discoveryFrame_stall s hp, hs]
    exact ⟨rfl, rfl⟩
  case chip =>
    intro s cause level slot
    exact chipReset_stall s cause level slot
  case power =>
    intro s
    exact ⟨_, exec_powerOn s, powerOn_stall s⟩

end Sys2Proof.Machine
end

section
/-!
HUB_ID (20/R597): what a read of one register word of BAR0 answers, and the constant that this word holds in every
state.
-/
namespace Sys2Proof.Machine

/-! ### Reading one word of BAR0 -/

theorem exec_regReadRefused (off len : Nat) (s : State) :
    exec (.regReadRefused off len) s = execRegReadRefused off len s := rfl

/-- A read of an allowed shape, which BAR0 serves, answers the bytes of its registers (20/R588). -/
theorem regRead_served {s : State} {off len : Nat} (hphase : 4 ≤ s.boot.phase) (hlink : s.pcie.linkUp = true)
    (hd3 : s.pcie.d3hot = false) (hpos : 0 < len) (hlen : len ≤ 64) (hblock : off / 64 = (off + len - 1) / 64) :
    regRead s off len = emit s (.pcieRead (regBytes s off len)) := by
  have hopen : ¬(s.boot.phase < 4 ∨ !s.pcie.linkUp ∨ s.pcie.d3hot) := by simp [hphase, hlink, hd3]
  have hshape : ¬(len = 0 ∨ 64 < len ∨ off / 64 ≠ (off + len - 1) / 64) := by omega
  rw [regRead, if_neg hopen, if_neg hshape]

/-- The bytes of an aligned word of BAR0 are those of its value, least significant first. -/
theorem regBytes_word (s : State) {o : Nat} (ho : o % 8 = 0) : regBytes s o 8 = Word.toLe 8 (bar0Value s o) := by
  have hword : ∀ i < 8, (o + i) / 8 * 8 = o ∧ (o + i) % 8 = i := by omega
  have hbytes : regBytes s o 8 = (List.range 8).map fun i => BitVec.ofNat 8 (bar0Value s o / 2 ^ (8 * i)) := by
    refine List.map_congr_left fun i hi => ?_
    obtain ⟨hdiv, hmod⟩ := hword i (List.mem_range.mp hi)
    rw [hdiv, hmod]
  rw [hbytes]
  simp [List.range_succ, Word.toLe, Nat.div_div_eq_div_mul]

/-! ### The constant -/

theorem hubReg_hubId (s : State) : hubReg s 0 = some (0x0000000148555A4D, 3) := rfl

theorem regValue_hubId (s : State) : regValue s 0 = 0x0000000148555A4D := by
  simp [regValue, regWord, hubReg_hubId]

/-- Before ready BAR0 shows reset values (16/R499); HUB_ID holds the same value in the state of reset. -/
theorem bar0Value_hubId (s : State) : bar0Value s 0 = 0x0000000148555A4D := by
  simp only [bar0Value, regValue_hubId, ite_self]

theorem regBytes_hubId (s : State) :
    regBytes s 0 8 = [0x4D#8, 0x5A#8, 0x55#8, 0x48#8, 0x01#8, 0#8, 0#8, 0#8] := by
  rw [regBytes_word s (Nat.zero_mod 8), bar0Value_hubId]
  rfl

/-! ### The obligation -/

/-- Settles O59: the read is served, and its one effect is to answer the bytes of the constant. -/
theorem hubIdConstant : Obligations.HubIdConstant := by
  unfold Obligations.HubIdConstant
  intro s hphase hlink hd3
  have hread : regRead s 0 8 = emit s (.pcieRead (regBytes s 0 8)) :=
    regRead_served hphase hlink hd3 (by decide) (by decide) (by decide)
  refine ⟨_, exec_regReadRefused 0 8 s, ?_⟩
  rw [hread, regBytes_hubId, emit]

end Sys2Proof.Machine
end

section
/-!
What every command keeps of the fuses and of the queue of waiting commands (10/R312-R317): all but nine commands leave
them alone, and those nine sense the fuses or burn them.
-/
namespace Sys2Proof.Machine

/-! ### Burning -/

theorem Within.refl (a : Nat) : Within a a := Nat.or_self a

theorem Within.lor (a b : Nat) : Within a (Nat.lor a b) := by
  show a ||| (a ||| b) = a ||| b
  rw [← Nat.or_assoc, Nat.or_self]

theorem Within.ne_zero {a b : Nat} (h : Within a b) (ha : a ≠ 0) : b ≠ 0 := by
  rintro rfl
  exact ha ((Nat.or_zero a).symm.trans h)

theorem bitOf_lor (a b i : Nat) : Word.bitOf (Nat.lor a b) i = (Word.bitOf a i || Word.bitOf b i) := by
  have h := Nat.testBit_or a b i
  rw [Nat.testBit_eq_decide_div_mod_eq, Nat.testBit_eq_decide_div_mod_eq, Nat.testBit_eq_decide_div_mod_eq] at h
  exact h

/-- A burned bit is still set in what burning made of the word. -/
theorem Within.bitOf {a b i : Nat} (h : Within a b) (ha : Word.bitOf a i = true) : Word.bitOf b i = true := by
  rw [← h, bitOf_lor, ha, Bool.true_or]

theorem Gained.refl (f : Fuses) : Gained f f where
  factory := rfl
  lifecycle := .refl _
  keys _ := .refl _
  keyRevoked := .refl _
  templates := .refl _
  templRevoked := .refl _
  t6 := .refl _
  t7 := .refl _
  debug := .refl _
  debugRevoked := .refl _
  svn := Nat.le_refl _
  imageCheck := .refl _

/-- `t` waits for the same commands as `s`, and its fuses come from the legal fuses of `s` by burning. -/
def Burned (s t : State) : Prop := t.pending = s.pending ∧ (FusesLegal s → FusesLegal t ∧ Gained s.fuses t.fuses)

theorem FusesLegal.congr {s t : State} (hf : t.fuses = s.fuses) (hl : t.fuse.f = s.fuse.f) (h : FusesLegal s) : FusesLegal t := by
  obtain ⟨h1, h2, h3, h4, h5, h6, h7⟩ := h
  rw [← hf] at h1 h2 h3 h4 h5 h6 h7
  rw [← hl] at h7
  exact ⟨h1, h2, h3, h4, h5, h6, h7⟩

theorem Burned.of_kept {s t : State} (h : kept t = kept s) : Burned s t := by
  simp only [kept, Prod.mk.injEq] at h
  obtain ⟨hp, hf, hl⟩ := h
  exact ⟨hp, fun legal => ⟨legal.congr hf hl, hf ▸ .refl _⟩⟩

theorem Burned.refl (s : State) : Burned s s := .of_kept rfl

/-- What leaves queue, fuses and latches alone may come before the burning or after it. -/
theorem Burned.congr {s s' t t' : State} (h : Burned s t) (hs : kept s' = kept s) (ht : kept t' = kept t) : Burned s' t' := by
  simp only [kept, Prod.mk.injEq] at hs ht
  obtain ⟨hsp, hsf, hsl⟩ := hs
  obtain ⟨htp, htf, htl⟩ := ht
  refine ⟨htp.trans (h.1.trans hsp.symm), fun legal => ?_⟩
  obtain ⟨legal', gained⟩ := h.2 (legal.congr hsf.symm hsl.symm)
  exact ⟨legal'.congr htf htl, by rw [htf, hsf]; exact gained⟩

/-! ### Signed requests (10/R317) -/

/-- An owned module has a later lifecycle state than MANUFACTURED burned. -/
theorem lifecycle_ne_zero_of_owned {s : State} (h : FusesLegal s) (ho : owned s = true) : s.fuses.lifecycle ≠ 0 :=
  h.latched (by simp [owned, lifecycle] at ho; simp [ho])

theorem usableAfter_ne_nil {f : Fuses} {mask : Nat} (h : (usableAfter f mask).isEmpty = false) :
    ∃ i < 4, f.keys.getD i 0 ≠ 0 ∧ Word.bitOf (Nat.lor f.keyRevoked mask) i = false := by
  obtain ⟨i, hi⟩ := List.exists_mem_of_ne_nil (usableAfter f mask) (by rintro h0; simp [h0] at h)
  simp only [usableAfter, List.mem_filter, List.mem_range, Bool.and_eq_true, bne_iff_ne, Bool.not_eq_true'] at hi
  exact ⟨i, hi.1, hi.2.1, hi.2.2⟩

/-- KEY_REVOCATION leaves an owner key usable. -/
theorem burned_revokeKeys {s : State} {mask : Nat} (h : (usableAfter s.fuses mask).isEmpty = false) :
    Burned s { s with fuses := { s.fuses with keyRevoked := Nat.lor s.fuses.keyRevoked mask } } :=
  ⟨rfl, fun legal => ⟨{ legal with usable := fun _ => usableAfter_ne_nil h },
    { Gained.refl s.fuses with factory := rfl, keyRevoked := .lor .. }⟩⟩

/-- TEMPLATE_REVOCATION leaves T0. -/
theorem burned_revokeTemplates {s : State} {mask : Nat} (h : Word.bitOf mask 0 = false) :
    Burned s { s with fuses := { s.fuses with templRevoked := Nat.lor s.fuses.templRevoked mask } } :=
  ⟨rfl, fun legal => ⟨{ legal with t0 := by rw [bitOf_lor, legal.t0, h]; rfl },
    { Gained.refl s.fuses with factory := rfl, templRevoked := .lor .. }⟩⟩

theorem burned_revokeDebug (s : State) (mask : Nat) :
    Burned s { s with fuses := { s.fuses with debugRevoked := Nat.lor s.fuses.debugRevoked mask } } :=
  ⟨rfl, fun legal => ⟨{ legal with }, { Gained.refl s.fuses with factory := rfl, debugRevoked := .lor .. }⟩⟩

/-- SECURITY_VERSION_RAISE only raises. -/
theorem burned_svn {s : State} {v : Nat} (hle : s.fuses.svn ≤ v) (hmax : v ≤ 128) :
    Burned s { s with fuses := { s.fuses with svn := v } } :=
  ⟨rfl, fun legal => ⟨{ legal with svn := hmax }, { Gained.refl s.fuses with factory := rfl, svn := hle }⟩⟩

/-- RMA_ENTRY leads from OWNED. -/
theorem burned_rma {s : State} (ho : owned s = true) : Burned s { s with fuses := { s.fuses with lifecycle := 3 } } := by
  refine ⟨rfl, fun legal => ?_⟩
  have hne := lifecycle_ne_zero_of_owned legal ho
  refine ⟨{ legal with lifecycle := .inr (.inr rfl), usable := fun _ => legal.usable (.inr hne)
                       owned := fun _ => legal.owned hne, latched := fun _ => by simp },
    { Gained.refl s.fuses with factory := rfl, lifecycle := ?_ }⟩
  show Nat.lor s.fuses.lifecycle 3 = 3
  obtain h | h | h := legal.lifecycle <;> rw [h] <;> rfl

theorem signedEffect_burned {s t : State} {kind arg : Nat} (hk : kind = 6 → owned s = true)
    (h6 : 1 ≤ kind ∧ kind ≤ 6) (h : signedEffect s kind arg = .ok t) : Burned s t := by
  unfold signedEffect at h
  dsimp only at h
  split at h
  case h_1 =>
    split at h; · cases h
    split at h; · cases h
    rename_i hu
    cases h
    exact burned_revokeKeys (by simpa using hu)
  case h_2 =>
    split at h; · cases h
    split at h; · cases h
    rename_i hb
    cases h
    exact burned_revokeTemplates (by simpa using hb)
  case h_3 =>
    split at h; · cases h
    cases h
    exact burned_revokeDebug s arg
  case h_4 =>
    split at h; · cases h
    split at h; · cases h
    cases h
    exact burned_svn (by omega) (by omega)
  case h_5 =>
    split at h; · cases h
    cases h
    exact .of_kept (dropAllParts_kept _)
  case h_6 =>
    split at h; · cases h
    cases h
    exact burned_rma (hk (by grind))

/-- The nonce of a signed request ends; nothing of the fuses changes by that. -/
theorem serve_burned {s : State} {q : Req} {op : Nat} {x : Served} {ok : Bool} {f : State → State} (h : Burned s (f s)) :
    Burned s (serve s q op x ok f) := by
  unfold serve
  split
  · exact .refl s
  split
  · exact .of_kept (emit_kept ..)
  split
  · exact .of_kept (deny_kept ..)
  split
  · exact .of_kept (deny_kept ..)
  · exact h

theorem owned_of_kindAllowed {s : State} (h : kindAllowed s 6 = true) : owned s = true := by
  simp [kindAllowed] at h
  exact h.1

theorem signed_burned (s : State) (q : Req) (b : List Byte) (kind : Nat) (h6 : 1 ≤ kind ∧ kind ≤ 6) :
    Burned s (signed s q b kind) := by
  unfold signed
  refine serve_burned ?_
  have hd : ∀ r, Burned s (deny s q 0x11 r) := fun r => .of_kept (deny_kept ..)
  dsimp only
  split; · exact hd _
  split; · exact hd _
  split; · exact .refl s
  split; · exact hd _
  generalize hs' : (if (s.fuse.nonce == some (BitVec.ofNat 128 (Sha.beNat ((b.drop 0x10).take 16)))) = true then
    { s with fuse := { s.fuse with nonce := none } } else s) = s'
  have hkept : kept s' = kept s := by rw [← hs']; split <;> rfl
  have hd' : ∀ r, Burned s (deny s' q 0x11 r) := fun r => .of_kept ((deny_kept ..).trans hkept)
  split; · exact hd' _
  split; · exact hd' _
  rename_i hallowed
  split
  · exact hd' _
  · rename_i t ht
    have howned : kind = 6 → owned s' = true := by
      rintro rfl
      exact owned_of_kindAllowed (by simpa using hallowed)
    exact (signedEffect_burned howned h6 ht).congr hkept.symm (respond_kept ..)

/-! ### Provisioning (10/R314, R315) -/

section
variable (f g : Fuses) (n : Nat)

theorem provBurn_keys : (provBurn f g n).keys = if 1 ≤ n then g.keys else f.keys := by
  simp [provBurn, apply_ite Fuses.keys]
theorem provBurn_templates : (provBurn f g n).templates = if 2 ≤ n then g.templates else f.templates := by
  simp [provBurn, apply_ite Fuses.templates]
theorem provBurn_t6 : (provBurn f g n).t6 = if 2 ≤ n then g.t6 else f.t6 := by
  simp [provBurn, apply_ite Fuses.t6]
theorem provBurn_t7 : (provBurn f g n).t7 = if 2 ≤ n then g.t7 else f.t7 := by
  simp [provBurn, apply_ite Fuses.t7]
theorem provBurn_debug : (provBurn f g n).debug = if 3 ≤ n then g.debug else f.debug := by
  simp [provBurn, apply_ite Fuses.debug]
theorem provBurn_imageCheck : (provBurn f g n).imageCheck = if 4 ≤ n then g.imageCheck else f.imageCheck := by
  simp [provBurn, apply_ite Fuses.imageCheck]
theorem provBurn_lifecycle : (provBurn f g n).lifecycle = if 5 ≤ n then Nat.lor f.lifecycle 1 else f.lifecycle := by
  simp [provBurn, apply_ite Fuses.lifecycle]

/-- A burn touches the provisioning fields and the lifecycle state alone. -/
theorem provBurn_frame : provBurn f g n = { f with
    keys := (provBurn f g n).keys, templates := (provBurn f g n).templates, t6 := (provBurn f g n).t6
    t7 := (provBurn f g n).t7, debug := (provBurn f g n).debug, imageCheck := (provBurn f g n).imageCheck
    lifecycle := (provBurn f g n).lifecycle } := by
  unfold provBurn
  dsimp only
  (repeat' split) <;> rfl
end

/-- What a provisioning image covers may stay or be burned: no bit goes. -/
theorem Within.ite {p : Prop} [Decidable p] {a b : Nat} (h : Within a b) : Within a (if p then b else a) := by
  split
  · exact h
  · exact .refl a

/-- Each provisioning field of the image covers the burned one. -/
structure Covers (f g : Fuses) : Prop where
  keys : ∀ i, Within (f.keys.getD i 0) (g.keys.getD i 0)
  templates : Within f.templates g.templates
  debug : Within f.debug g.debug
  t6 : Within f.t6 g.t6
  t7 : Within f.t7 g.t7
  imageCheck : Within f.imageCheck g.imageCheck

theorem covers_of_burnCovers {f g : Fuses} (hf : f.keys.length = 4) (hg : g.keys.length = 4) (h : burnCovers f g = true) :
    Covers f g := by
  obtain ⟨a, b, c, d, ha⟩ : ∃ a b c d, f.keys = [a, b, c, d] := by
    match hk : f.keys, hf with
    | [a, b, c, d], _ => exact ⟨a, b, c, d, rfl⟩
  obtain ⟨a', b', c', d', hb⟩ : ∃ a b c d, g.keys = [a, b, c, d] := by
    match hk : g.keys, hg with
    | [a, b, c, d], _ => exact ⟨a, b, c, d, rfl⟩
  simp only [burnCovers, ha, hb, List.cons_append, List.nil_append, List.zip_cons_cons, List.zip_nil_right, List.all_cons,
    List.all_nil, Bool.and_true, Bool.and_eq_true, beq_iff_eq] at h
  obtain ⟨h0, h1, h2, h3, htempl, hdebug, ht6, ht7, hcheck⟩ := h
  refine ⟨fun i => ?_, htempl, hdebug, ht6, ht7, hcheck⟩
  rw [ha, hb]
  match i with
  | 0 => exact h0
  | 1 => exact h1
  | 2 => exact h2
  | 3 => exact h3
  | _ + 4 => exact .refl 0

theorem Covers.gained {f g : Fuses} (h : Covers f g) (n : Nat) : Gained f (provBurn f g n) where
  factory := by rw [provBurn_frame]
  lifecycle := by rw [provBurn_lifecycle]; exact .ite (.lor ..)
  keys i := by
    rw [provBurn_keys]
    split
    · exact h.keys i
    · exact .refl _
  keyRevoked := by rw [provBurn_frame]; exact .refl _
  templates := by rw [provBurn_templates]; exact h.templates.ite
  templRevoked := by rw [provBurn_frame]; exact .refl _
  t6 := by rw [provBurn_t6]; exact h.t6.ite
  t7 := by rw [provBurn_t7]; exact h.t7.ite
  debug := by rw [provBurn_debug]; exact .ite h.debug
  debugRevoked := by rw [provBurn_frame]; exact .refl _
  svn := Nat.le_of_eq (by rw [provBurn_frame])
  imageCheck := by rw [provBurn_imageCheck]; exact h.imageCheck.ite

/-- What an accepted image has: T0 allowed, an owner key, and every burned bit of the provisioning region. -/
theorem provRefusal_none {s : State} {b : List Byte} (hk : s.fuses.keys.length = 4) (h : provRefusal s b = none) :
    Word.bitOf (provFields s.fuses b).templates 0 = true ∧ (∃ i < 4, (provFields s.fuses b).keys.getD i 0 ≠ 0) ∧
      Covers s.fuses (provFields s.fuses b) := by
  have hlen : (provFields s.fuses b).keys.length = 4 := by simp [provFields]
  unfold provRefusal at h
  dsimp only at h
  generalize provFields s.fuses b = g at *
  split at h; · cases h
  split at h; · cases h
  split at h; · cases h
  rename_i hbad
  simp only [not_or, Bool.not_eq_true', Bool.not_eq_false, Bool.not_eq_true, ne_eq, Classical.not_not] at hbad
  obtain ⟨ht, hkeys, -, -, -, hcov⟩ := hbad
  refine ⟨ht, ?_, covers_of_burnCovers hk hlen hcov⟩
  obtain ⟨x, hx, hne⟩ := List.all_eq_false.mp hkeys
  obtain ⟨i, hi, rfl⟩ := List.getElem_of_mem hx
  exact ⟨i, hlen ▸ hi, by simpa [List.getD_eq_getElem?_getD, hi] using hne⟩

/-- PROVISION, cut after any of its steps, burns. -/
theorem provBurn_burned {s : State} {b : List Byte} (h : provRefusal s b = none) (n : Nat) :
    Burned s { s with fuses := provBurn s.fuses (provFields s.fuses b) n } := by
  refine ⟨rfl, fun legal => ?_⟩
  obtain ⟨ht, hkey, hcov⟩ := provRefusal_none legal.slots h
  have gained : Gained s.fuses (provBurn s.fuses (provFields s.fuses b) n) := hcov.gained n
  have hrev : (provBurn s.fuses (provFields s.fuses b) n).keyRevoked = s.fuses.keyRevoked := by rw [provBurn_frame]
  refine ⟨⟨?_, ?_, ?_, ?_, ?_, ?_, ?_⟩, gained⟩
  case refine_1 =>
    show (provBurn _ _ n).lifecycle = 0 ∨ (provBurn _ _ n).lifecycle = 1 ∨ (provBurn _ _ n).lifecycle = 3
    rw [provBurn_lifecycle]
    obtain h | h | h := legal.lifecycle <;> rw [h] <;> split <;> simp
  case refine_2 =>
    show (provBurn _ _ n).svn ≤ 128
    rw [provBurn_frame]
    exact legal.svn
  case refine_3 =>
    show Word.bitOf (provBurn _ _ n).templRevoked 0 = false
    rw [provBurn_frame]
    exact legal.t0
  case refine_4 =>
    show (provBurn _ _ n).keys.length = 4
    rw [provBurn_keys]
    split
    · simp [provFields]
    · exact legal.slots
  case refine_5 =>
    show (provBurn _ _ n).keyRevoked ≠ 0 ∨ (provBurn _ _ n).lifecycle ≠ 0 →
      ∃ i < 4, (provBurn _ _ n).keys.getD i 0 ≠ 0 ∧ Word.bitOf (provBurn _ _ n).keyRevoked i = false
    rw [hrev]
    intro hlater
    by_cases hold : s.fuses.keyRevoked ≠ 0 ∨ s.fuses.lifecycle ≠ 0
    · obtain ⟨i, hi, hne, hbit⟩ := legal.usable hold
      exact ⟨i, hi, (gained.keys i).ne_zero hne, hbit⟩
    · simp only [not_or, ne_eq, Classical.not_not] at hold
      have hn : 5 ≤ n := by
        refine Classical.byContradiction fun hn => ?_
        rw [provBurn_lifecycle, if_neg hn] at hlater
        simp [hold] at hlater
      obtain ⟨i, hi, hne⟩ := hkey
      exact ⟨i, hi, by rw [provBurn_keys, if_pos (by omega)]; exact hne, by rw [hold.1]; simp [Word.bitOf]⟩
  case refine_6 =>
    show (provBurn _ _ n).lifecycle ≠ 0 → Word.bitOf (provBurn _ _ n).templates 0 = true
    intro hlater
    rw [provBurn_templates]
    split
    · exact ht
    · rw [provBurn_lifecycle, if_neg (by omega)] at hlater
      exact legal.owned hlater
  case refine_7 =>
    show s.fuse.f.lifecycle ≠ 0 → (provBurn _ _ n).lifecycle ≠ 0
    exact fun hl => gained.lifecycle.ne_zero (legal.latched hl)

theorem execProvision_burned (q : Req) (body : List Byte) (steps : Nat) (s : State) :
    ∃ t, execProvision q body steps s = .next t ∧ Burned s t := by
  refine ⟨_, rfl, serve_burned ?_⟩
  dsimp only
  split
  · exact .of_kept (deny_kept ..)
  · rename_i h
    split
    · exact (provBurn_burned h steps).congr rfl (respond_kept ..)
    · exact provBurn_burned h steps

/-! ### Sensing and power-on (10/R313, 16/R501) -/

/-- The latches show what is burned. -/
theorem fuseSense_burned (s : State) : Burned s (fuseSense s) := by
  unfold fuseSense
  split
  · exact ⟨rfl, fun legal => ⟨{ legal with latched := id }, .refl _⟩⟩
  · exact .refl s

/-- The latches are clear at power-on. -/
theorem powerOn_burned (s : State) : Burned s (powerOn s) :=
  ⟨rfl, fun legal => ⟨{ legal with latched := fun h => absurd rfl h }, .refl _⟩⟩

/-! ### Every command -/

/-- A command that senses or burns fuses, or starts the module anew. -/
def touchesFuses : Instr → Bool
  | .powerOn | .fuseSense | .keyRevocation .. | .templateRevocation .. | .debugRevocation .. | .securityVersionRaise ..
  | .scanUnlock .. | .rmaEntry .. | .provision .. => true
  | _ => false

theorem exec_keeps (c : Instr) (s : State) (hc : touchesFuses c = false) : ResKeeps (kept s) (exec c s) := by
  cases c with
  | powerOn | fuseSense | keyRevocation | templateRevocation | debugRevocation | securityVersionRaise
  | scanUnlock | rmaEntry | provision => cases hc
  | delay => exact execDelay_kept ..
  | fence => exact execFence_kept ..
  | fenceResume => exact execFenceResume_kept ..
  | lstream => exact execLstream_kept ..
  | lweight => exact execLweight_kept ..
  | ldiag => exact execLdiag_kept ..
  | mpass => exact execMpass_kept ..
  | mdiag => exact execMdiag_kept ..
  | mdrain => exact execMdrain_kept ..
  | mfloor => exact execMfloor_kept ..
  | pset => exact execPset_kept ..
  | ppack => exact execPpack_kept ..
  | vloadc => exact execVloadc_kept ..
  | vstorec => exact execVstorec_kept ..
  | vrecv => exact execVrecv_kept ..
  | vsplat => exact execVsplat_kept ..
  | varith => exact execVarith_kept ..
  | vfunc => exact execVfunc_kept ..
  | vred => exact execVred_kept ..
  | vbcast => exact execVbcast_kept ..
  | pmove => exact execPmove_kept ..
  | pacc => exact execPacc_kept ..
  | pgather => exact execPgather_kept ..
  | pscatter => exact execPscatter_kept ..
  | pfabric => exact execPfabric_kept ..
  | markedTransferComplete => exact execMarkedTransferComplete_kept ..
  | swait => exact execSwait_kept ..
  | swaitSatisfied => exact execSwaitSatisfied_kept ..
  | ssignal => exact execSsignal_kept ..
  | ssignalDrainDone => exact execSsignalDrainDone_kept ..
  | srepeat => exact execSrepeat_kept ..
  | sphase => exact execSphase_kept ..
  | sophint => exact execSophint_kept ..
  | markedWaitSatisfied => exact execMarkedWaitSatisfied_kept ..
  | arrayHoldClear => exact execArrayHoldClear_kept ..
  | activityFrame => exact execActivityFrame_kept ..
  | housekeepingWindow => exact execHousekeepingWindow_kept ..
  | launchEdge => exact execLaunchEdge_kept ..
  | launchComplete => exact execLaunchComplete_kept ..
  | packetFetch => exact execPacketFetch_kept ..
  | commandBegin => exact execCommandBegin_kept ..
  | completionRecordWrite => exact execCompletionRecordWrite_kept ..
  | memWrite => exact execMemWrite_kept ..
  | memRead => exact execMemRead_kept ..
  | memCopy => exact execMemCopy_kept ..
  | memFill => exact execMemFill_kept ..
  | memRetag => exact execMemRetag_kept ..
  | sliceMode => exact execSliceMode_kept ..
  | launch => exact execLaunch_kept ..
  | launchAbort => exact execLaunchAbort_kept ..
  | tallyNop => exact execTallyNop_kept ..
  | tallyAdd => exact execTallyAdd_kept ..
  | tallyRead => exact execTallyRead_kept ..
  | tallyEpoch => exact execTallyEpoch_kept ..
  | phaseMapLoad => exact execPhaseMapLoad_kept ..
  | phaseSwitch => exact execPhaseSwitch_kept ..
  | allReduce => exact execAllReduce_kept ..
  | reduceScatter => exact execReduceScatter_kept ..
  | allGather => exact execAllGather_kept ..
  | broadcast => exact execBroadcast_kept ..
  | collectiveComplete => exact execCollectiveComplete_kept ..
  | stepBegin => exact execStepBegin_kept ..
  | stepReplay => exact execStepReplay_kept ..
  | crossWeigh => exact execCrossWeigh_kept ..
  | crossWeighOutcome => exact execCrossWeighOutcome_kept ..
  | checkpoint => exact execCheckpoint_kept ..
  | checkpointCommit => exact execCheckpointCommit_kept ..
  | vacate => exact execVacate_kept ..
  | takeover => exact execTakeover_kept ..
  | stepConfig => exact execStepConfig_kept ..
  | identify => exact execIdentify_kept ..
  | telemetryRead => exact execTelemetryRead_kept ..
  | ledgerRead => exact execLedgerRead_kept ..
  | fwStage => exact execFwStage_kept ..
  | fwHandover => exact execFwHandover_kept ..
  | fieldTest => exact execFieldTest_kept ..
  | chTestEnter => exact execChTestEnter_kept ..
  | chTestExit => exact execChTestExit_kept ..
  | marginSweep => exact execMarginSweep_kept ..
  | marginStop => exact execMarginStop_kept ..
  | captureRead => exact execCaptureRead_kept ..
  | partCreate => exact execPartCreate_kept ..
  | partDestroy => exact execPartDestroy_kept ..
  | ctxCreate => exact execCtxCreate_kept ..
  | ctxSet => exact execCtxSet_kept ..
  | ctxDestroy => exact execCtxDestroy_kept ..
  | teardownComplete => exact execTeardownComplete_kept ..
  | revokeTimeout => exact execRevokeTimeout_kept ..
  | quarantineEnd => exact execQuarantineEnd_kept ..
  | sqDoorbell => exact execSqDoorbell_kept ..
  | cqDoorbell => exact execCqDoorbell_kept ..
  | qEnable => exact execQEnable_kept ..
  | qDisable => exact execQDisable_kept ..
  | queueDrainDone => exact execQueueDrainDone_kept ..
  | resume => exact execResume_kept ..
  | queueResumed => exact execQueueResumed_kept ..
  | hostBackpressure => exact execHostBackpressure_kept ..
  | aperWinEnable => exact execAperWinEnable_kept ..
  | apertureRead => exact execApertureRead_kept ..
  | apertureWrite => exact execApertureWrite_kept ..
  | partEnable => exact execPartEnable_kept ..
  | ctxEnable => exact execCtxEnable_kept ..
  | portEnable => exact execPortEnable_kept ..
  | portDisable => exact execPortDisable_kept ..
  | grpEnable => exact execGrpEnable_kept ..
  | grpDisable => exact execGrpDisable_kept ..
  | grpSubstEnable => exact execGrpSubstEnable_kept ..
  | stepDirEnable => exact execStepDirEnable_kept ..
  | stepDirDisable => exact execStepDirDisable_kept ..
  | evtRingEnable => exact execEvtRingEnable_kept ..
  | evtRingDisable => exact execEvtRingDisable_kept ..
  | evtRingHead => exact execEvtRingHead_kept ..
  | evtEoi => exact execEvtEoi_kept ..
  | pendingClear => exact execPendingClear_kept ..
  | overflowClear => exact execOverflowClear_kept ..
  | hubEscReq => exact execHubEscReq_kept ..
  | hangCfgWrite => exact execHangCfgWrite_kept ..
  | pwrCfgWrite => exact execPwrCfgWrite_kept ..
  | genStart => exact execGenStart_kept ..
  | genStop => exact execGenStop_kept ..
  | registerWrite => exact execRegisterWrite_kept ..
  | regReadRefused => exact execRegReadRefused_kept ..
  | functionLevelReset => exact execFunctionLevelReset_kept ..
  | perst => exact execPerst_kept ..
  | pcieLinkDown => exact execPcieLinkDown_kept ..
  | pcieReadError => exact execPcieReadError_kept ..
  | dramRefresh chan => exact execDramRefresh_kept chan s
  | recalibration => exact execRecalibration_kept ..
  | patrolScrubStep => exact execPatrolScrubStep_kept ..
  | memoryLaneRetire => exact execMemoryLaneRetire_kept ..
  | scrubStarved => exact execScrubStarved_kept ..
  | fieldTestDue => exact execFieldTestDue_kept ..
  | standingRecovery => exact execStandingRecovery_kept ..
  | counterMirror => exact execCounterMirror_kept ..
  | ledgerPageProgram => exact execLedgerPageProgram_kept ..
  | holdupStateChange => exact execHoldupStateChange_kept ..
  | ledgerFlashFail => exact execLedgerFlashFail_kept ..
  | flitReceive => exact execFlitReceive_kept ..
  | frameSend => exact execFrameSend_kept ..
  | put => exact execPut_kept ..
  | accPut => exact execAccPut_kept ..
  | getReq => exact execGetReq_kept ..
  | getData => exact execGetData_kept ..
  | tallyAddFrame => exact execTallyAddFrame_kept ..
  | collGrant => exact execCollGrant_kept ..
  | collData => exact execCollData_kept ..
  | void => exact execVoid_kept ..
  | error => exact execError_kept ..
  | revoke => exact execRevoke_kept ..
  | revokeAck => exact execRevokeAck_kept ..
  | bind => exact execBind_kept ..
  | bindReply => exact execBindReply_kept ..
  | ack => exact execAck_kept ..
  | nak => exact execNak_kept ..
  | openReq => exact execOpen_kept ..
  | openAck => exact execOpenAck_kept ..
  | bell => exact execBell_kept ..
  | time => exact execTime_kept ..
  | discovery => exact execDiscovery_kept ..
  | ackTimer => exact execAckTimer_kept ..
  | retransmitTimeout => exact execRetransmitTimeout_kept ..
  | openRetry => exact execOpenRetry_kept ..
  | discoverySend => exact execDiscoverySend_kept ..
  | discoveryTimeout => exact execDiscoveryTimeout_kept ..
  | portLinkLost => exact execPortLinkLost_kept ..
  | portTrainingDone => exact execPortTrainingDone_kept ..
  | portTrainingRetry => exact execPortTrainingRetry_kept ..
  | fabricLaneRetire => exact execFabricLaneRetire_kept ..
  | portBackpressure => exact execPortBackpressure_kept ..
  | timeExchange => exact execTimeExchange_kept ..
  | collectiveSilence => exact execCollectiveSilence_kept ..
  | bellResend => exact execBellResend_kept ..
  | groupBackpressure => exact execGroupBackpressure_kept ..
  | vacateAuto => exact execVacateAuto_kept ..
  | vacateNoTakeover => exact execVacateNoTakeover_kept ..
  | holderTimeout => exact execHolderTimeout_kept ..
  | hangEvaluation => exact execHangEvaluation_kept ..
  | escalationContext => exact execEscalationContext_kept ..
  | escalationEngine => exact execEscalationEngine_kept ..
  | escalationPartition => exact execEscalationPartition_kept ..
  | escalationChip => exact execEscalationChip_kept ..
  | escalationPowerCycle => exact execEscalationPowerCycle_kept ..
  | coreStopTimeout => exact execCoreStopTimeout_kept ..
  | heartbeatMissed => exact execHeartbeatMissed_kept ..
  | engineNoAnswer => exact execEngineNoAnswer_kept ..
  | escalationOverrun => exact execEscalationOverrun_kept ..
  | stewardWatchdog => exact execStewardWatchdog_kept ..
  | readyTimeout => exact execReadyTimeout_kept ..
  | resetNAsserted => exact execResetNAsserted_kept ..
  | assertionEnd => exact execAssertionEnd_kept ..
  | optionLoading => exact execOptionLoading_kept ..
  | bootRom => exact execBootRom_kept ..
  | firmwarePhase => exact execFirmwarePhase_kept ..
  | phyTraining => exact execPhyTraining_kept ..
  | ready => exact execReady_kept ..
  | eventRecordWrite => exact execEventRecordWrite_kept ..
  | interruptTake => exact execInterruptTake_kept ..
  | pinChange => exact execPinChange_kept ..
  | referenceLost => exact execReferenceLost_kept ..
  | pllLockLost => exact execPllLockLost_kept ..
  | opTargetChange => exact execOpTargetChange_kept ..
  | opSwitch => exact execOpSwitch_kept ..
  | backstopTick => exact execBackstopTick_kept ..
  | backstopLimitUpdate => exact execBackstopLimitUpdate_kept ..
  | droop => exact execDroop_kept ..
  | thermalResponse => exact execThermalResponse_kept ..
  | inputOutOfRange => exact execInputOutOfRange_kept ..
  | inputLoss => exact execInputLoss_kept ..
  | auxLoss => exact execAuxLoss_kept ..
  | mgmtIdentify => exact execMgmtIdentify_kept ..
  | telemetry => exact execTelemetry_kept ..
  | mgmtDiscovery => exact execMgmtDiscovery_kept ..
  | setStall => exact execSetStall_kept ..
  | assignChip => exact execAssignChip_kept ..
  | routeWrite => exact execRouteWrite_kept ..
  | reclaim => exact execReclaim_kept ..
  | reclaimStatus => exact execReclaimStatus_kept ..
  | vacatedResend => exact execVacatedResend_kept ..
  | mgmtLedgerRead => exact execMgmtLedgerRead_kept ..
  | totalsRead => exact execTotalsRead_kept ..
  | fwChunk => exact execFwChunk_kept ..
  | fwCommit => exact execFwCommit_kept ..
  | mgmtFwHandover => exact execMgmtFwHandover_kept ..
  | escalate => exact execEscalate_kept ..
  | limit => exact execLimit_kept ..
  | nonce => exact execNonce_kept ..
  | nonceLapse => exact execNonceLapse_kept ..
  | setAddr => exact execSetAddr_kept ..
  | alertClear => exact execAlertClear_kept ..
  | sidebandStuckSda => exact execSidebandStuckSda_kept ..
  | sidebandStuckScl => exact execSidebandStuckScl_kept ..
  | sidebandReconnect => exact execSidebandReconnect_kept ..
  | powerCycleTimeout => exact execPowerCycleTimeout_kept ..
  | fieldTestResult => exact execFieldTestResult_kept ..
  | genPassesDone => exact execGenPassesDone_kept ..
  | pcieLinkUp => exact execPcieLinkUp_kept ..
  | referenceRestored => exact execReferenceRestored_kept ..
  | inputBackInRange => exact execInputBackInRange_kept ..
  | pllLockTimeout => exact execPllLockTimeout_kept ..
  | handoverTimeout => exact execHandoverTimeout_kept ..
  | replayDrainTimeout => exact execReplayDrainTimeout_kept ..
  | transferCancelTimeout => exact execTransferCancelTimeout_kept ..
  | sliceScrubPass => exact execSliceScrubPass_kept ..
  | mgmtPortLinkChange => exact execMgmtPortLinkChange_kept ..
  | dynamicAddressAssignment => exact execDynamicAddressAssignment_kept ..
  | managementMessage => exact execManagementMessage_kept ..

theorem exec_burned {c : Instr} {s t : State} (h : exec c s = .next t) : Burned s t := by
  by_cases hc : touchesFuses c = false
  · have hk := exec_keeps c s hc
    rw [h] at hk
    exact .of_kept hk
  · cases c with
    | powerOn => cases h; exact powerOn_burned s
    | fuseSense => cases h; exact fuseSense_burned s
    | keyRevocation => cases h; exact signed_burned _ _ _ _ (by decide)
    | templateRevocation => cases h; exact signed_burned _ _ _ _ (by decide)
    | debugRevocation => cases h; exact signed_burned _ _ _ _ (by decide)
    | securityVersionRaise => cases h; exact signed_burned _ _ _ _ (by decide)
    | scanUnlock => cases h; exact signed_burned _ _ _ _ (by decide)
    | rmaEntry => cases h; exact signed_burned _ _ _ _ (by decide)
    | provision q body steps =>
      obtain ⟨u, hu, hb⟩ := execProvision_burned q body steps s
      cases hu.symm.trans h
      exact hb
    | _ => exact absurd rfl hc

/-! ### The obligations -/

/-- A step runs its command on the state with the queue's rest. -/
theorem step_cons {c : Instr} {rest : List Instr} {s : State} (h : s.pending = c :: rest) :
    step s = exec c { s with pending := rest } := by
  rw [step, h]

/-- On an empty queue time passes. -/
theorem step_nil {s : State} (h : s.pending = []) : step s = .next (tick s) := by
  rw [step, h]

/-- Settles O53: whatever a command does, it neither burns the queue nor runs from it. -/
theorem commandsInOrder : Obligations.CommandsInOrder := by
  unfold Obligations.CommandsInOrder
  refine ⟨fun c s t h => (exec_burned h).1, fun c rest s t hp h => ?_⟩
  rw [step_cons hp] at h
  exact (exec_burned h).1

/-- Settles O54: an idle tick keeps the fuses, and a command burns them or keeps them. -/
theorem fusesOnlyGain : Obligations.FusesOnlyGain := by
  unfold Obligations.FusesOnlyGain
  intro s t legal h
  cases hp : s.pending with
  | nil =>
    rw [step_nil hp] at h
    cases h
    exact (Burned.of_kept (tick_kept s)).2 legal
  | cons c rest =>
    rw [step_cons hp] at h
    have legal' : FusesLegal { s with pending := rest } := legal.congr (s := s) rfl rfl
    exact (exec_burned h).2 legal'

end Sys2Proof.Machine
end

section
/-!
What a step does with the queue and with time, and the state at power-on.
-/
namespace Sys2Proof.Machine

/-! ### Ten nanoseconds -/

/-- The array clocks move the array cycles, the counters of power and the launches' bubble marks alone. -/
theorem tickArray_frame (s : State) : tickArray s = { s with
    arrayCycles := (tickArray s).arrayCycles, pwr := (tickArray s).pwr, launches := (tickArray s).launches } := by
  unfold tickArray
  dsimp only
  split <;> rfl

theorem tickArray_arrayCycles (s : State) :
    (tickArray s).arrayCycles = s.arrayCycles + BitVec.ofNat 64 (cyclesPerTick s.pwr.op) := by
  have h : BitVec.ofNat 64 (s.arrayCycles.toNat + cyclesPerTick s.pwr.op)
      = s.arrayCycles + BitVec.ofNat 64 (cyclesPerTick s.pwr.op) := by
    rw [BitVec.ofNat_add, BitVec.ofNat_toNat, BitVec.setWidth_eq]
  unfold tickArray
  dsimp only
  split <;> exact h

/-- Without bubbles only the ticks at the operating point are counted. -/
theorem tickArray_of_no_bubbles {s : State} (h : s.pwr.bubbles = 0) :
    (tickArray s).launches = s.launches ∧ (tickArray s).pwr = { s.pwr with ticks := (tickArray s).pwr.ticks } := by
  have hk : ∀ x, bubblesUpTo 0 x = 0 := fun x => by simp [bubblesUpTo]
  unfold tickArray
  simp only [h, hk, Nat.sub_self, if_true, and_self]

theorem tick_time (s : State) : (tick s).time = s.time + 1#64 := by
  unfold tick
  dsimp only
  split
  · rw [tickArray_frame]
  · rfl

theorem tick_of_not_ready {s : State} (h : s.boot.phase ≠ 6) : tick s = { s with time := s.time + 1#64 } := by
  unfold tick
  exact if_neg h

theorem tick_of_ready {s : State} (h : s.boot.phase = 6) : tick s = tickArray { s with time := s.time + 1#64 } := by
  unfold tick
  exact if_pos h

theorem tick_frame (s : State) : tick s = { s with
    time := (tick s).time, arrayCycles := (tick s).arrayCycles, pwr := (tick s).pwr, launches := (tick s).launches } := by
  by_cases h : s.boot.phase = 6
  · rw [tick_of_ready h, tickArray_frame]
  · rw [tick_of_not_ready h]

/-- Settles O52: the front command runs on the rest, and on an empty queue the counters of time move. -/
theorem stepRunsFront : Obligations.StepRunsFront := by
  unfold Obligations.StepRunsFront
  refine ⟨fun c rest s h => step_cons h, fun s h => ⟨tick s, step_nil h, tick_time s, tick_frame s, ?_, ?_⟩⟩
  · intro hp
    rw [tick_of_not_ready hp]
  · intro hp
    rw [tick_of_ready hp]
    exact ⟨tickArray_arrayCycles _, fun hb => tickArray_of_no_bubbles (s := { s with time := s.time + 1#64 }) hb⟩

/-! ### Power-on -/

/-- A part as shipped has legal fuses: MANUFACTURED, with nothing revoked. -/
theorem fusesLegal_reset : FusesLegal State.reset where
  lifecycle := .inl rfl
  svn := Nat.zero_le _
  t0 := rfl
  slots := rfl
  usable := by rintro (h | h) <;> exact absurd rfl h
  owned := fun h => absurd rfl h
  latched := fun h => absurd rfl h

/-- Settles O56: each part is a field of the state as it ships. -/
theorem resetState : Obligations.ResetState :=
  ⟨fusesLegal_reset, wf_reset, rfl, rfl, rfl, rfl, rfl, rfl, rfl, rfl, rfl, rfl, rfl, rfl, rfl⟩

end Sys2Proof.Machine
end

section
/-!
The canonical form of memory, as every operation keeps it (log entry 4): the predicates over states, runs and answers.
-/
namespace Sys2Proof.Machine

/-- The memories of a state hold the canonical form. -/
abbrev MemWf (s : State) : Prop := Memory.wf s.mem = true

/-- Every state that a run ends in holds the canonical form. -/
def Run.MemWf : Run → Prop
  | .done t => Machine.MemWf t
  | .issued t => Machine.MemWf t
  | .hold _ t => Machine.MemWf t
  | .broken _ _ t => Machine.MemWf t
  | .fault _ t => Machine.MemWf t
  | .notDue => True
def FabRun.MemWf : FabRun → Prop
  | .all t => Machine.MemWf t
  | .wait _ t => Machine.MemWf t
  | .failed _ _ t => Machine.MemWf t
  | .stop r => Run.MemWf r
def ResMemWf : Res → Prop
  | .next t => MemWf t
  | _ => True

theorem foldl_memWf {α : Type} {f : State → α → State} (hf : ∀ s a, MemWf s → MemWf (f s a)) (l : List α) {s : State}
    (h : MemWf s) : MemWf (l.foldl f s) := by
  induction l generalizing s with
  | nil => exact h
  | cons a t ih => exact ih (hf s a h)

theorem foldl_fst_memWf {α β : Type} {f : State × β → α → State × β} (hf : ∀ s a, MemWf s.1 → MemWf (f s a).1) (l : List α)
    {s : State × β} (h : MemWf s.1) : MemWf (l.foldl f s).1 := by
  induction l generalizing s with
  | nil => exact h
  | cons a t ih => exact ih (hf s a h)

theorem fromHost_memWf {s t : State} (h : MemWf s) (ht : MemWf t) : ResMemWf (fromHost s t) := by
  unfold fromHost
  split
  · exact ht
  · exact h

theorem wf_foldl {α : Type} {f : Mem → α → Mem} (hf : ∀ m a, Memory.wf m = true → Memory.wf (f m a) = true) (l : List α) {m : Mem}
    (h : Memory.wf m = true) : Memory.wf (l.foldl f m) = true := by
  induction l generalizing m with
  | nil => exact h
  | cons a t ih => exact ih (hf m a h)

theorem wf_scratchDie (m : Mem) (d : Nat) (h : Memory.wf m = true) : Memory.wf (scratchDie m d) = true := by
  have hd := wf_discardDie m d h
  unfold scratchDie
  generalize discardDie m d = m' at hd ⊢
  generalize List.range 32 = l
  exact hd

theorem wf_zeroChannel (m : Mem) (d : Nat) (h : Memory.wf m = true) : Memory.wf (zeroChannel m d) = true := by
  refine wf_of m _ h (cellsWf_filter _ _) ?_ ?_
  · intro ht
    rw [tsorted_iff] at ht ⊢
    exact ht.sublist (List.filter_sublist.map _)
  · exact fun hz e he => hz e (List.filter_sublist.subset he)

theorem memWf_modMem {s : State} {f : Mem → Mem} (h : Memory.wf (f s.mem) = true) : MemWf (modMem s f) := h

theorem memWf_cp {s : State} {t : Tab Nat} (h : MemWf s) : MemWf { s with cpActive := t } := h

theorem memWf_done {t : State} (h : MemWf t) : (Run.done t).MemWf := h

theorem wf_slices {m : Mem} (t : Tab Slice) (h : Memory.wf m = true) : Memory.wf { m with slices := t } = true := h

theorem memWf_slices {s : State} (f : Mem → Tab Slice) (h : MemWf s) : MemWf (modMem s fun m => { m with slices := f m }) := h

theorem wf_foldSlices {α : Type} (f : Mem → α → Tab Slice) (l : List α) {m : Mem} (h : Memory.wf m = true) :
    Memory.wf (l.foldl (fun m i => { m with slices := f m i }) m) = true := wf_foldl (f := fun m i => ({ m with slices := f m i } : Mem)) (fun _ _ hm => hm) l h

theorem wf_setModes (m : Mem) (d mask : Nat) (h : Memory.wf m = true) : Memory.wf (setModes m d mask) = true := by
  have hf := wf_flushDie m d h
  unfold setModes
  generalize flushDie m d = m' at hf ⊢
  generalize List.range 32 = l
  refine wf_foldl (fun m i hm => ?_) l hf
  dsimp only
  split
  · exact wf_zeroCrates _ _ _ hm
  · exact hm

theorem ite_memWf {p : Prop} [Decidable p] {a b : State} (ha : MemWf a) (hb : MemWf b) : MemWf (if p then a else b) := by
  split
  · exact ha
  · exact hb

/-- A list of tags set one by one keeps the canonical form, whatever bytes are written. -/
theorem wf_freeCells {m : Mem} (a : Nat) (bs : List Byte) {tag : Nat → W128} (first n : Nat) (h : Memory.wf m = true) :
    Memory.wf { m with
      cells := writeBytes m.cells a bs
      tags := (List.range n).foldl (fun t i => tset Tag.zero t (first + i) (tag i)) m.tags } = true := by
  rw [wf_iff] at h ⊢
  obtain ⟨hc, ht⟩ := h
  refine ⟨cellsWf_writeBytes _ _ _ hc, ?_⟩
  show tsorted (List.foldl _ m.tags (List.range n)) = true ∧ ∀ e ∈ List.foldl _ m.tags (List.range n), e.2 ≠ Tag.zero
  generalize List.range n = l
  generalize m.tags = t at ht
  induction l generalizing t with
  | nil => exact ht
  | cons i l ih => exact ih _ ⟨tsorted_tset _ _ _ _ ht.1, tags_tset _ _ _ ht.2⟩

end Sys2Proof.Machine
end

section
/-!
The canonical form of memory is kept, operation by operation.
-/
namespace Sys2Proof.Machine

/-! ### the shared operations -/

theorem drawFree_memWf (s : State) (h : MemWf s) : MemWf (drawFree s).2 := by
  unfold drawFree
  grind
theorem emit_memWf (s : State) (a0) (h : MemWf s) : MemWf (emit s a0) := by
  unfold emit
  grind
theorem hostWrite_memWf (s : State) (a0) (a1) (h : MemWf s) : MemWf (hostWrite s a0 a1) := by
  unfold hostWrite
  grind
theorem signalMsix_memWf (s : State) (a0) (h : MemWf s) : MemWf (signalMsix s a0) := by
  unfold signalMsix
  grind [emit_memWf]
theorem setCore_memWf (s : State) (a0) (a1) (h : MemWf s) : MemWf (setCore s a0 a1) := by
  unfold setCore
  grind
theorem modCore_memWf (s : State) (a0) (a1) (h : MemWf s) : MemWf (modCore s a0 a1) := by
  unfold modCore
  grind [setCore_memWf]
theorem setCtx_memWf (s : State) (a0) (a1) (h : MemWf s) : MemWf (setCtx s a0 a1) := by
  unfold setCtx
  grind
theorem modCtx_memWf (s : State) (a0) (a1) (h : MemWf s) : MemWf (modCtx s a0 a1) := by
  unfold modCtx
  grind [setCtx_memWf]
theorem setPart_memWf (s : State) (a0) (a1) (h : MemWf s) : MemWf (setPart s a0 a1) := by
  unfold setPart
  grind
theorem modPart_memWf (s : State) (a0) (a1) (h : MemWf s) : MemWf (modPart s a0 a1) := by
  unfold modPart
  grind [setPart_memWf]
theorem setQueue_memWf (s : State) (a0) (a1) (h : MemWf s) : MemWf (setQueue s a0 a1) := by
  unfold setQueue
  grind
theorem modQueue_memWf (s : State) (a0) (a1) (h : MemWf s) : MemWf (modQueue s a0 a1) := by
  unfold modQueue
  grind [setQueue_memWf]
theorem setLaunch_memWf (s : State) (a0) (a1) (h : MemWf s) : MemWf (setLaunch s a0 a1) := by
  unfold setLaunch
  grind
theorem modLaunch_memWf (s : State) (a0) (a1) (h : MemWf s) : MemWf (modLaunch s a0 a1) := by
  unfold modLaunch
  grind [setLaunch_memWf]
theorem modChan_memWf (s : State) (a0) (a1) (h : MemWf s) : MemWf (modChan s a0 a1) := by
  unfold modChan
  assumption
theorem modRing_memWf (s : State) (a0) (a1) (h : MemWf s) : MemWf (modRing s a0 a1) := by
  unfold modRing
  grind
theorem modProc_memWf (s : State) (a0) (a1) (h : MemWf s) : MemWf (modProc s a0 a1) := by
  unfold modProc
  grind
theorem deliver_memWf (s : State) (a0) (a1) (h : MemWf s) : MemWf (deliver s a0 a1) := by
  unfold deliver
  grind [modRing_memWf]
theorem chargeStep_memWf (s : State) (a0) (a1) (h : MemWf s) : MemWf (chargeStep s a0 a1) := by
  unfold chargeStep
  show Memory.wf (List.foldl _ s.mem _) = true
  exact wf_foldl (fun _ _ hm => wf_patchFw _ _ _ _ hm) _ h
theorem chargeNow_memWf (s : State) (a0) (a1) (a2) (h : MemWf s) : MemWf (chargeNow s a0 a1 a2) := by
  unfold chargeNow
  grind [chargeStep_memWf]
theorem raiseEvent_memWf (s : State) (a0) (a1) (h : MemWf s) : MemWf (raiseEvent s a0 a1) := by
  unfold raiseEvent
  grind [chargeNow_memWf, deliver_memWf]
theorem raiseUnit_memWf (s : State) (a0) (a1) (a2) (a3) (a4) (a5) (h : MemWf s) : MemWf (raiseUnit s a0 a1 a2 a3 a4 a5) := by
  unfold raiseUnit
  grind [raiseEvent_memWf]
theorem raiseCrate_memWf (s : State) (a0) (a1) (a2) (a3) (a4) (a5) (h : MemWf s) : MemWf (raiseCrate s a0 a1 a2 a3 a4 a5) := by
  unfold raiseCrate
  grind [raiseEvent_memWf]
theorem raiseCore_memWf (s : State) (a0) (a1) (a2) (a3) (a4) (a5) (h : MemWf s) : MemWf (raiseCore s a0 a1 a2 a3 a4 a5) := by
  unfold raiseCore
  grind [raiseEvent_memWf]
theorem raiseColl_memWf (s : State) (a0) (a1) (a2) (a3) (a4) (a5) (h : MemWf s) : MemWf (raiseColl s a0 a1 a2 a3 a4 a5) := by
  unfold raiseColl
  grind [raiseEvent_memWf]
theorem raiseStep_memWf (s : State) (a0) (a1) (a2) (a3) (h : MemWf s) : MemWf (raiseStep s a0 a1 a2 a3) := by
  unfold raiseStep
  grind [raiseEvent_memWf]
theorem raiseNotice_memWf (s : State) (a0) (a1) (a2) (h : MemWf s) : MemWf (raiseNotice s a0 a1 a2) := by
  unfold raiseNotice
  grind [deliver_memWf]
theorem modUnit_memWf (s : State) (a0) (a1) (h : MemWf s) : MemWf (modUnit s a0 a1) := by
  unfold modUnit
  grind
theorem logRec_memWf (s : State) (a0) (a1) (a2) (a3) (h : MemWf s) : MemWf (logRec s a0 a1 a2 a3) := by
  unfold logRec
  grind [modUnit_memWf]
theorem setStanding_memWf (s : State) (a0) (a1) (a2) (h : MemWf s) : MemWf (setStanding s a0 a1 a2) := by
  unfold setStanding
  grind [logRec_memWf, modUnit_memWf, raiseUnit_memWf]
theorem addDue_memWf (s : State) (a0) (a1) (a2) (h : MemWf s) : MemWf (addDue s a0 a1 a2) := by
  unfold addDue
  grind [modUnit_memWf]
theorem countEvent_memWf (s : State) (a0) (a1) (a2) (h : MemWf s) : MemWf (countEvent s a0 a1 a2) := by
  unfold countEvent
  grind [logRec_memWf, modChan_memWf, modUnit_memWf, setStanding_memWf]
theorem addTally_memWf (s : State) (a0) (a1) (h : MemWf s) : MemWf (addTally s a0 a1) := by
  unfold addTally
  grind
theorem addTallyAt_memWf (s : State) (a0) (a1) (a2) (a3) (h : MemWf s) : MemWf (addTallyAt s a0 a1 a2 a3) := by
  unfold addTallyAt
  grind [addTally_memWf, modCtx_memWf]
theorem reportBadIf_memWf (s : State) (a0) (a1) (a2) (a3) (h : MemWf s) : MemWf (reportBadIf s a0 a1 a2 a3) := by
  unfold reportBadIf
  repeat' first | with_reducible assumption | with_reducible refine foldl_memWf (fun _ _ _ => ?_) _ ?_  | split
  all_goals grind [countEvent_memWf, logRec_memWf, modChan_memWf, modUnit_memWf, raiseCrate_memWf, Run.MemWf, ResMemWf]
theorem reportBad_memWf (s : State) (a0) (a1) (a2) (h : MemWf s) : MemWf (reportBad s a0 a1 a2) := by
  unfold reportBad
  grind [reportBadIf_memWf]
theorem countCheckFail_memWf (s : State) (a0) (a1) (a2) (a3) (h : MemWf s) : MemWf (countCheckFail s a0 a1 a2 a3) := by
  unfold countCheckFail
  grind [countEvent_memWf, logRec_memWf, modUnit_memWf]
theorem moveRead_memWf (s : State) (a0) (a1) (a2) (h : MemWf s) : MemWf (moveRead s a0 a1 a2).1 := by
  unfold moveRead
  grind [countCheckFail_memWf, raiseCrate_memWf, reportBad_memWf, setMem_mem, wf_cacheTouch]
theorem consume_memWf (s : State) (a0) (a1) (a2) (h : MemWf s) : MemWf (consume s a0 a1 a2).1 := by
  unfold consume
  grind [countCheckFail_memWf, logRec_memWf, modCore_memWf, raiseCrate_memWf, reportBad_memWf, setMem_mem, wf_cacheTouch]
theorem putCrate_memWf (s : State) (a0) (a1) (a2) (h : MemWf s) : MemWf (putCrate s a0 a1 a2) := by
  unfold putCrate
  grind [setMem_mem, wf_writeCrate]
theorem moveCrate_memWf (s : State) (a0) (a1) (a2) (a3) (h : MemWf s) : MemWf (moveCrate s a0 a1 a2 a3) := by
  unfold moveCrate
  grind [moveRead_memWf, putCrate_memWf]
theorem coreLineageNext_memWf (s : State) (a0) (h : MemWf s) : MemWf (coreLineageNext s a0).1 := by
  unfold coreLineageNext
  grind [modCore_memWf]

/-! ### stations -/

theorem stopLaunch_memWf (s : State) (a0) (a1) (a2) (h : MemWf s) : MemWf (stopLaunch s a0 a1 a2) := by
  unfold stopLaunch
  repeat' first | with_reducible assumption | with_reducible refine foldl_memWf (fun _ _ _ => ?_) _ ?_  | split
  all_goals grind [modCore_memWf, modLaunch_memWf, Run.MemWf, ResMemWf]
theorem failLaunch_memWf (s : State) (a0) (a1) (a2) (a3) (h : MemWf s) : MemWf (failLaunch s a0 a1 a2 a3) := by
  unfold failLaunch
  grind [modLaunch_memWf, stopLaunch_memWf]
theorem scheduleBroken_memWf (s : State) (a0) (a1) (a2) (a3) (a4) (a5) (h : MemWf s) : MemWf (scheduleBroken s a0 a1 a2 a3 a4 a5) := by
  unfold scheduleBroken
  grind [addDue_memWf, failLaunch_memWf, logRec_memWf, modCore_memWf, modUnit_memWf, raiseCore_memWf]
theorem raiseFault_memWf (s : State) (a0) (a1) (a2) (a3) (a4) (h : MemWf s) : MemWf (raiseFault s a0 a1 a2 a3 a4) := by
  unfold raiseFault
  grind [raiseCore_memWf, raiseCrate_memWf, raiseUnit_memWf]
theorem stationFault_memWf (s : State) (a0) (a1) (a2) (a3) (h : MemWf s) : MemWf (stationFault s a0 a1 a2 a3) := by
  unfold stationFault
  grind [failLaunch_memWf, modCore_memWf, raiseFault_memWf]
theorem signals_memWf (s : State) (a0) (a1) (a2) (a3) (h : MemWf s) : MemWf (signals s a0 a1 a2 a3) := by
  unfold signals
  repeat' first | with_reducible assumption | with_reducible refine foldl_memWf (fun _ _ _ => ?_) _ ?_  | split
  all_goals grind [scheduleBroken_memWf, setCore_memWf, Run.MemWf, ResMemWf]
theorem setHold_memWf (s : State) (a0) (a1) (a2) (h : MemWf s) : MemWf (setHold s a0 a1 a2) := by
  unfold setHold
  grind [modCore_memWf]
theorem advanceSt_memWf (s : State) (a0) (a1) (h : MemWf s) : MemWf (advanceSt s a0 a1) := by
  unfold advanceSt
  grind [modCore_memWf]
theorem finish_memWf (s : State) (a0) (a1) (a2) (a3) (r : Run) (hf : r.MemWf) (h : MemWf s) : MemWf (finish s a0 a1 a2 a3 r) := by
  unfold finish
  grind [advanceSt_memWf, scheduleBroken_memWf, setHold_memWf, signals_memWf, stationFault_memWf, Run.MemWf, FabRun.MemWf, ResMemWf]
theorem findingRun_memWf (s : State) (a0) (a1) (a2) (h : MemWf s) : ∀ r, findingRun s a0 a1 a2 = some r → r.MemWf := by
  unfold findingRun
  grind [Run.MemWf, FabRun.MemWf, ResMemWf]
theorem applyMarks_memWf (s : State) (a0) (h : MemWf s) : MemWf (applyMarks s a0) := by
  unfold applyMarks
  repeat' first
    | assumption
    | split
    | refine foldl_memWf (fun _ _ _ => ?_) _ ?_
theorem runIns_memWf (s : State) (a0) (a1) (a2) (a3) (body : State → Nat → W128 → Finding → Run)
    (hb : ∀ s c w f, MemWf s → (body s c w f).MemWf) (h : MemWf s) : MemWf (runIns s a0 a1 a2 a3 body) := by
  unfold runIns
  grind [applyMarks_memWf, findingRun_memWf, finish_memWf, scheduleBroken_memWf, setHold_memWf, Run.MemWf, FabRun.MemWf, ResMemWf]
theorem issue_memWf (s : State) (a0) (a1) (a2) (a3) (body : State → Nat → W128 → Finding → Run)
    (hb : ∀ s c w f, MemWf s → (body s c w f).MemWf) (h : MemWf s) : MemWf (issue s a0 a1 a2 a3 body) := by
  unfold issue
  grind [runIns_memWf]
theorem implicitWait_memWf (s : State) (a0) (a1) (a2) (a3) (h : MemWf s) : ∀ r, implicitWait s a0 a1 a2 a3 = some r → r.MemWf := by
  unfold implicitWait
  grind [Run.MemWf, FabRun.MemWf, ResMemWf]
theorem implicitRelease_memWf (s : State) (a0) (a1) (h : MemWf s) : (∀ t, implicitRelease s a0 a1 = .ok t → MemWf t) ∧ (∀ r, implicitRelease s a0 a1 = .error r → r.MemWf) := by
  unfold implicitRelease
  grind [setCore_memWf, Run.MemWf, FabRun.MemWf, ResMemWf]
theorem implicitRelease_ok_memWf (s : State) (a0) (a1) (h : MemWf s) : ∀ t, implicitRelease s a0 a1 = .ok t → MemWf t :=
  (implicitRelease_memWf s a0 a1 h).1
theorem implicitRelease_err_memWf (s : State) (a0) (a1) (h : MemWf s) : ∀ r, implicitRelease s a0 a1 = .error r → r.MemWf :=
  (implicitRelease_memWf s a0 a1 h).2
theorem implicitPost_memWf (s : State) (a0) (a1) (h : MemWf s) : (∀ t, implicitPost s a0 a1 = .ok t → MemWf t) ∧ (∀ r, implicitPost s a0 a1 = .error r → r.MemWf) := by
  unfold implicitPost
  grind [setCore_memWf, Run.MemWf, FabRun.MemWf, ResMemWf]
theorem implicitPost_ok_memWf (s : State) (a0) (a1) (h : MemWf s) : ∀ t, implicitPost s a0 a1 = .ok t → MemWf t :=
  (implicitPost_memWf s a0 a1 h).1
theorem implicitPost_err_memWf (s : State) (a0) (a1) (h : MemWf s) : ∀ r, implicitPost s a0 a1 = .error r → r.MemWf :=
  (implicitPost_memWf s a0 a1 h).2
theorem coreTally_memWf (s : State) (a0) (a1) (a2) (h : MemWf s) : MemWf (coreTally s a0 a1 a2) := by
  unfold coreTally
  grind [addTallyAt_memWf]

/-! ### queues and doorbells -/

theorem modCmd_memWf (s : State) (a0) (a1) (h : MemWf s) : MemWf (modCmd s a0 a1) := by
  unfold modCmd
  grind
theorem cutShort_memWf (s : State) (a0) (h : MemWf s) : MemWf (cutShort s a0) := by
  unfold cutShort
  grind [putCrate_memWf]
theorem setEnded_memWf (s : State) (a0) (a1) (h : MemWf s) : MemWf (setEnded s a0 a1) := by
  unfold setEnded
  grind [cutShort_memWf, modCmd_memWf]
theorem cancelFollower_memWf (s : State) (a0) (h : MemWf s) : MemWf (cancelFollower s a0) := by
  unfold cancelFollower
  grind [setEnded_memWf, stopLaunch_memWf]
theorem failQueue_memWf (s : State) (a0) (a1) (h : MemWf s) : MemWf (failQueue s a0 a1) := by
  unfold failQueue
  repeat' first | with_reducible assumption | with_reducible refine foldl_memWf (fun _ _ _ => ?_) _ ?_  | split
  all_goals grind [cancelFollower_memWf, modQueue_memWf, Run.MemWf, ResMemWf]
theorem chargeEnd_memWf (s : State) (a0) (a1) (h : MemWf s) : MemWf (chargeEnd s a0 a1) := by
  unfold chargeEnd
  grind [chargeNow_memWf]
theorem endCmd_memWf (s : State) (a0) (a1) (h : MemWf s) : MemWf (endCmd s a0 a1) := by
  unfold endCmd
  grind [chargeEnd_memWf, failQueue_memWf, setEnded_memWf]
theorem refuseCmd_memWf (s : State) (a0) (a1) (h : MemWf s) : MemWf (refuseCmd s a0 a1) := by
  unfold refuseCmd
  grind [endCmd_memWf]
theorem enterPacket_memWf (s : State) (a0) (a1) (h : MemWf s) : MemWf (enterPacket s a0 a1) := by
  unfold enterPacket
  grind [refuseCmd_memWf]
theorem packetFetch_memWf (s : State) (a0) (h : MemWf s) : MemWf (packetFetch s a0) := by
  unfold packetFetch
  grind [enterPacket_memWf, modQueue_memWf]
theorem execPacketFetch_memWf (a0) (s : State) (h : MemWf s) : ResMemWf (execPacketFetch a0 s) := by
  unfold execPacketFetch
  grind [packetFetch_memWf, Run.MemWf, FabRun.MemWf, ResMemWf]
theorem commandBegin_memWf (s : State) (a0) (h : MemWf s) : MemWf (commandBegin s a0) := by
  unfold commandBegin
  grind [endCmd_memWf, modCmd_memWf, modQueue_memWf]
theorem execCommandBegin_memWf (a0) (s : State) (h : MemWf s) : ResMemWf (execCommandBegin a0 s) := by
  unfold execCommandBegin
  grind [commandBegin_memWf, Run.MemWf, FabRun.MemWf, ResMemWf]
theorem cmdSignals_memWf (s : State) (a0) (h : MemWf s) : MemWf (cmdSignals s a0) := by
  unfold cmdSignals
  grind [addTallyAt_memWf]
theorem cqInterrupt_memWf (s : State) (a0) (h : MemWf s) : MemWf (cqInterrupt s a0) := by
  unfold cqInterrupt
  grind [modQueue_memWf, signalMsix_memWf]
theorem recordWrite_memWf (s : State) (a0) (h : MemWf s) : MemWf (recordWrite s a0) := by
  unfold recordWrite
  grind [cmdSignals_memWf, cqInterrupt_memWf, hostWrite_memWf, modQueue_memWf]
theorem execCompletionRecordWrite_memWf (a0) (s : State) (h : MemWf s) : ResMemWf (execCompletionRecordWrite a0 s) := by
  unfold execCompletionRecordWrite
  grind [recordWrite_memWf, Run.MemWf, FabRun.MemWf, ResMemWf]
theorem sqDoorbell_memWf (s : State) (a0) (a1) (h : MemWf s) : MemWf (sqDoorbell s a0 a1) := by
  unfold sqDoorbell
  grind [modQueue_memWf, raiseUnit_memWf]
theorem execSqDoorbell_memWf (a0) (a1) (s : State) (h : MemWf s) : ResMemWf (execSqDoorbell a0 a1 s) := by
  unfold execSqDoorbell
  repeat' first | with_reducible assumption | with_reducible refine foldl_memWf (fun _ _ _ => ?_) _ ?_ | with_reducible refine fromHost_memWf ‹_› ?_ | split
  all_goals grind [sqDoorbell_memWf, Run.MemWf, ResMemWf]
theorem cqDoorbell_memWf (s : State) (a0) (a1) (h : MemWf s) : MemWf (cqDoorbell s a0 a1) := by
  unfold cqDoorbell
  grind [modQueue_memWf, raiseUnit_memWf]
theorem execCqDoorbell_memWf (a0) (a1) (s : State) (h : MemWf s) : ResMemWf (execCqDoorbell a0 a1 s) := by
  unfold execCqDoorbell
  repeat' first | with_reducible assumption | with_reducible refine foldl_memWf (fun _ _ _ => ?_) _ ?_ | with_reducible refine fromHost_memWf ‹_› ?_ | split
  all_goals grind [cqDoorbell_memWf, Run.MemWf, ResMemWf]
theorem qEnable_memWf (s : State) (a0) (a1) (h : MemWf s) : MemWf (qEnable s a0 a1) := by
  unfold qEnable
  grind [modQueue_memWf, setQueue_memWf]
theorem execQEnable_memWf (a0) (a1) (s : State) (h : MemWf s) : ResMemWf (execQEnable a0 a1 s) := by
  unfold execQEnable
  repeat' first | with_reducible assumption | with_reducible refine foldl_memWf (fun _ _ _ => ?_) _ ?_ | with_reducible refine fromHost_memWf ‹_› ?_ | split
  all_goals grind [qEnable_memWf, Run.MemWf, ResMemWf]
theorem qDisable_memWf (s : State) (a0) (a1) (h : MemWf s) : MemWf (qDisable s a0 a1) := by
  unfold qDisable
  repeat' first
    | with_reducible assumption
    | split
    | with_reducible refine foldl_memWf (fun _ _ _ => ?_) _ ?_
    | with_reducible apply modQueue_memWf
    | dsimp only
theorem execQDisable_memWf (a0) (a1) (s : State) (h : MemWf s) : ResMemWf (execQDisable a0 a1 s) := by
  unfold execQDisable
  repeat' first | with_reducible assumption | with_reducible refine foldl_memWf (fun _ _ _ => ?_) _ ?_ | with_reducible refine fromHost_memWf ‹_› ?_ | split
  all_goals grind [qDisable_memWf, Run.MemWf, ResMemWf]
theorem queueDrainDone_memWf (s : State) (a0) (h : MemWf s) : MemWf (queueDrainDone s a0) := by
  unfold queueDrainDone
  grind [modQueue_memWf]
theorem execQueueDrainDone_memWf (a0) (s : State) (h : MemWf s) : ResMemWf (execQueueDrainDone a0 s) := by
  unfold execQueueDrainDone
  grind [queueDrainDone_memWf, Run.MemWf, FabRun.MemWf, ResMemWf]
theorem resumeQueue_memWf (s : State) (a0) (a1) (h : MemWf s) : MemWf (resumeQueue s a0 a1) := by
  unfold resumeQueue
  grind [modQueue_memWf]
theorem execResume_memWf (a0) (a1) (s : State) (h : MemWf s) : ResMemWf (execResume a0 a1 s) := by
  unfold execResume
  repeat' first | with_reducible assumption | with_reducible refine foldl_memWf (fun _ _ _ => ?_) _ ?_ | with_reducible refine fromHost_memWf ‹_› ?_ | split
  all_goals grind [resumeQueue_memWf, Run.MemWf, ResMemWf]
theorem queueResumed_memWf (s : State) (a0) (h : MemWf s) : MemWf (queueResumed s a0) := by
  unfold queueResumed
  grind [modQueue_memWf]
theorem execQueueResumed_memWf (a0) (s : State) (h : MemWf s) : ResMemWf (execQueueResumed a0 s) := by
  unfold execQueueResumed
  grind [queueResumed_memWf, Run.MemWf, FabRun.MemWf, ResMemWf]
theorem hostBackpressure_memWf (s : State) (a0) (h : MemWf s) : MemWf (hostBackpressure s a0) := by
  unfold hostBackpressure
  grind [raiseUnit_memWf]
theorem execHostBackpressure_memWf (a0) (s : State) (h : MemWf s) : ResMemWf (execHostBackpressure a0 s) := by
  unfold execHostBackpressure
  grind [hostBackpressure_memWf, Run.MemWf, FabRun.MemWf, ResMemWf]

/-! ### the ledger -/

theorem startTest_memWf (s : State) (a0) (a1) (a2) (h : MemWf s) : MemWf (startTest s a0 a1 a2) := by
  unfold startTest
  grind [modUnit_memWf]
theorem freeBytes_memWf (s : State) (a0) (h : MemWf s) : MemWf (freeBytes s a0).1 := by
  unfold freeBytes
  grind
theorem freeCrates_memWf (s : State) (a0) (a1) (h : MemWf s) : MemWf (freeCrates s a0 a1) := by
  have h1 := freeBytes_memWf _ (a1 * 16) (freeBytes_memWf s (a1 * 4096) h)
  unfold freeCrates
  exact wf_freeCells _ _ _ _ (wf_zeroCrates _ _ _ h1)
theorem freeBench_memWf (s : State) (a0) (h : MemWf s) : MemWf (freeBench s a0) := by
  unfold freeBench
  grind [freeBytes_memWf, modCore_memWf]
theorem testLeaves_memWf (s : State) (a0) (a1) (h : MemWf s) : MemWf (testLeaves s a0 a1) := by
  unfold testLeaves
  grind [freeBench_memWf, freeCrates_memWf]
theorem logRepair_memWf (s : State) (a0) (a1) (a2) (a3) (h : MemWf s) : MemWf (logRepair s a0 a1 a2 a3) := by
  unfold logRepair
  grind [logRec_memWf]
theorem repairCore_memWf (s : State) (a0) (h : MemWf s) : MemWf (repairCore s a0) := by
  unfold repairCore
  grind [logRepair_memWf]
theorem startAll_memWf (s : State) (a0) (a1) (h : MemWf s) : MemWf (startAll s a0 a1) := by
  unfold startAll
  repeat' first | with_reducible assumption | with_reducible refine foldl_memWf (fun _ _ _ => ?_) _ ?_  | split
  all_goals grind [startTest_memWf, Run.MemWf, ResMemWf]
theorem swapCore_memWf (s : State) (a0) (a1) (h : MemWf s) : MemWf (swapCore s a0 a1) := by
  unfold swapCore
  repeat' first
    | with_reducible assumption
    | split
    | with_reducible refine foldl_memWf (fun _ _ _ => ?_) _ ?_
    | with_reducible apply raiseUnit_memWf
    | with_reducible apply startAll_memWf
    | with_reducible apply startTest_memWf
    | dsimp only
theorem coreBoundary_memWf (a0) (s : State) (a1) (h : MemWf s) : MemWf (coreBoundary a0 s a1) := by
  unfold coreBoundary
  repeat' first
    | with_reducible assumption
    | split
    | with_reducible refine foldl_memWf (fun _ _ _ => ?_) _ ?_
    | with_reducible apply repairCore_memWf
    | with_reducible apply startTest_memWf
    | with_reducible apply swapCore_memWf
    | dsimp only
theorem testDue_memWf (s : State) (a0) (a1) (a2) (h : MemWf s) : MemWf (testDue s a0 a1 a2) := by
  unfold testDue
  grind [addDue_memWf, startTest_memWf]
theorem execFieldTestDue_memWf (a0) (a1) (s : State) (h : MemWf s) : ResMemWf (execFieldTestDue a0 a1 s) := by
  unfold execFieldTestDue
  grind [testDue_memWf, Run.MemWf, FabRun.MemWf, ResMemWf]
theorem fieldTest_memWf (s : State) (a0) (h : MemWf s) : MemWf (fieldTest s a0) := by
  unfold fieldTest
  grind [modCmd_memWf, refuseCmd_memWf, testDue_memWf]
theorem execFieldTest_memWf (a0) (s : State) (h : MemWf s) : ResMemWf (execFieldTest a0 s) := by
  unfold execFieldTest
  grind [fieldTest_memWf, Run.MemWf, FabRun.MemWf, ResMemWf]
theorem testFailed_memWf (s : State) (a0) (a1) (h : MemWf s) : MemWf (testFailed s a0 a1) := by
  unfold testFailed
  grind [modUnit_memWf, raiseUnit_memWf, setStanding_memWf]
theorem testPassed_memWf (s : State) (a0) (a1) (h : MemWf s) : MemWf (testPassed s a0 a1) := by
  unfold testPassed
  grind [modUnit_memWf]
theorem fieldTestResult_memWf (s : State) (a0) (a1) (a2) (a3) (a4) (h : MemWf s) : MemWf (fieldTestResult s a0 a1 a2 a3 a4) := by
  unfold fieldTestResult
  grind [coreBoundary_memWf, endCmd_memWf, logRec_memWf, modUnit_memWf, testFailed_memWf, testLeaves_memWf, testPassed_memWf]
theorem execFieldTestResult_memWf (a0) (a1) (a2) (a3) (a4) (s : State) (h : MemWf s) : ResMemWf (execFieldTestResult a0 a1 a2 a3 a4 s) := by
  unfold execFieldTestResult
  grind [fieldTestResult_memWf, Run.MemWf, FabRun.MemWf, ResMemWf]
theorem standingRecovery_memWf (s : State) (a0) (h : MemWf s) : MemWf (standingRecovery s a0) := by
  unfold standingRecovery
  grind [setStanding_memWf]
theorem execStandingRecovery_memWf (a0) (s : State) (h : MemWf s) : ResMemWf (execStandingRecovery a0 s) := by
  unfold execStandingRecovery
  grind [standingRecovery_memWf, Run.MemWf, FabRun.MemWf, ResMemWf]
theorem mirrorCounter_memWf (s : State) (a0) (a1) (a2) (a3) (h : MemWf s) : MemWf (mirrorCounter s a0 a1 a2 a3) := by
  unfold mirrorCounter
  grind [logRec_memWf, modUnit_memWf]
theorem mirrorAll_memWf (s : State) (h : MemWf s) : MemWf (mirrorAll s) := by
  unfold mirrorAll
  repeat' first
    | with_reducible assumption
    | with_reducible refine foldl_memWf (fun _ _ _ => ?_) _ ?_
    | with_reducible apply mirrorCounter_memWf
theorem ledgerPageProgram_memWf (s : State) (h : MemWf s) : MemWf (ledgerPageProgram s) := by
  unfold ledgerPageProgram
  grind
theorem execLedgerPageProgram_memWf (s : State) (h : MemWf s) : ResMemWf (execLedgerPageProgram s) := by
  unfold execLedgerPageProgram
  grind [ledgerPageProgram_memWf, Run.MemWf, FabRun.MemWf, ResMemWf]
theorem holdupStateChange_memWf (s : State) (a0) (a1) (h : MemWf s) : MemWf (holdupStateChange s a0 a1) := by
  unfold holdupStateChange
  grind [logRec_memWf, raiseUnit_memWf]
theorem execHoldupStateChange_memWf (a0) (a1) (s : State) (h : MemWf s) : ResMemWf (execHoldupStateChange a0 a1 s) := by
  unfold execHoldupStateChange
  grind [holdupStateChange_memWf, Run.MemWf, FabRun.MemWf, ResMemWf]
theorem ledgerFlashFail_memWf (s : State) (h : MemWf s) : MemWf (ledgerFlashFail s) := by
  unfold ledgerFlashFail
  grind [raiseUnit_memWf]
theorem execLedgerFlashFail_memWf (s : State) (h : MemWf s) : ResMemWf (execLedgerFlashFail s) := by
  unfold execLedgerFlashFail
  grind [ledgerFlashFail_memWf, Run.MemWf, FabRun.MemWf, ResMemWf]
theorem ledgerRead_memWf (s : State) (a0) (h : MemWf s) : MemWf (ledgerRead s a0) := by
  unfold ledgerRead
  grind [endCmd_memWf, hostWrite_memWf]
theorem execLedgerRead_memWf (a0) (s : State) (h : MemWf s) : ResMemWf (execLedgerRead a0 s) := by
  unfold execLedgerRead
  grind [ledgerRead_memWf, Run.MemWf, FabRun.MemWf, ResMemWf]

/-! ### events -/

theorem ringSignal_memWf (s : State) (a0) (h : MemWf s) : MemWf (ringSignal s a0) := by
  unfold ringSignal
  grind [modRing_memWf, signalMsix_memWf]
theorem writeEvent_memWf (s : State) (a0) (a1) (h : MemWf s) : MemWf (writeEvent s a0 a1) := by
  unfold writeEvent
  grind [hostWrite_memWf, modProc_memWf, modRing_memWf, ringSignal_memWf]
theorem eventRecordWrite_memWf (s : State) (a0) (h : MemWf s) : MemWf (eventRecordWrite s a0) := by
  unfold eventRecordWrite
  grind [modRing_memWf, writeEvent_memWf]
theorem execEventRecordWrite_memWf (a0) (s : State) (h : MemWf s) : ResMemWf (execEventRecordWrite a0 s) := by
  unfold execEventRecordWrite
  grind [eventRecordWrite_memWf, Run.MemWf, FabRun.MemWf, ResMemWf]
theorem interruptTake_memWf (s : State) (a0) (h : MemWf s) : MemWf (interruptTake s a0) := by
  unfold interruptTake
  grind [modProc_memWf, modRing_memWf]
theorem execInterruptTake_memWf (a0) (s : State) (h : MemWf s) : ResMemWf (execInterruptTake a0 s) := by
  unfold execInterruptTake
  grind [interruptTake_memWf, Run.MemWf, FabRun.MemWf, ResMemWf]
theorem evtEoi_memWf (s : State) (a0) (a1) (a2) (h : MemWf s) : MemWf (evtEoi s a0 a1 a2) := by
  unfold evtEoi
  grind [modProc_memWf]
theorem execEvtEoi_memWf (a0) (a1) (a2) (s : State) (h : MemWf s) : ResMemWf (execEvtEoi a0 a1 a2 s) := by
  unfold execEvtEoi
  grind [evtEoi_memWf, Run.MemWf, FabRun.MemWf, ResMemWf]
theorem writeRingCfg_memWf (s : State) (a0) (a1) (h : MemWf s) : MemWf (writeRingCfg s a0 a1) := by
  unfold writeRingCfg
  repeat' first
    | with_reducible assumption
    | split
    | with_reducible refine foldl_memWf (fun _ _ _ => ?_) _ ?_
    | with_reducible apply modRing_memWf
    | dsimp only
theorem execEvtRingEnable_memWf (a0) (a1) (s : State) (h : MemWf s) : ResMemWf (execEvtRingEnable a0 a1 s) := by
  unfold execEvtRingEnable
  repeat' first | with_reducible assumption | with_reducible refine foldl_memWf (fun _ _ _ => ?_) _ ?_ | with_reducible refine fromHost_memWf ‹_› ?_ | split
  all_goals grind [writeRingCfg_memWf, Run.MemWf, ResMemWf]
theorem execEvtRingDisable_memWf (a0) (a1) (s : State) (h : MemWf s) : ResMemWf (execEvtRingDisable a0 a1 s) := by
  unfold execEvtRingDisable
  repeat' first | with_reducible assumption | with_reducible refine foldl_memWf (fun _ _ _ => ?_) _ ?_ | with_reducible refine fromHost_memWf ‹_› ?_ | split
  all_goals grind [writeRingCfg_memWf, Run.MemWf, ResMemWf]
theorem evtRingHead_memWf (s : State) (a0) (a1) (h : MemWf s) : MemWf (evtRingHead s a0 a1) := by
  unfold evtRingHead
  grind [modRing_memWf, ringSignal_memWf]
theorem execEvtRingHead_memWf (a0) (a1) (s : State) (h : MemWf s) : ResMemWf (execEvtRingHead a0 a1 s) := by
  unfold execEvtRingHead
  repeat' first | with_reducible assumption | with_reducible refine foldl_memWf (fun _ _ _ => ?_) _ ?_ | with_reducible refine fromHost_memWf ‹_› ?_ | split
  all_goals grind [evtRingHead_memWf, Run.MemWf, ResMemWf]
theorem overflowClear_memWf (s : State) (a0) (a1) (h : MemWf s) : MemWf (overflowClear s a0 a1) := by
  unfold overflowClear
  grind [modRing_memWf]
theorem execOverflowClear_memWf (a0) (a1) (s : State) (h : MemWf s) : ResMemWf (execOverflowClear a0 a1 s) := by
  unfold execOverflowClear
  repeat' first | with_reducible assumption | with_reducible refine foldl_memWf (fun _ _ _ => ?_) _ ?_ | with_reducible refine fromHost_memWf ‹_› ?_ | split
  all_goals grind [overflowClear_memWf, Run.MemWf, ResMemWf]
theorem unbindRings_memWf (s : State) (a0) (h : MemWf s) : MemWf (unbindRings s a0) := by
  unfold unbindRings
  grind
theorem setPin_memWf (s : State) (a0) (a1) (h : MemWf s) : MemWf (setPin s a0 a1) := by
  unfold setPin
  grind
theorem raiseHeat_memWf (s : State) (a0) (a1) (h : MemWf s) : MemWf (raiseHeat s a0 a1) := by
  unfold raiseHeat
  grind [raiseUnit_memWf]
theorem pinResponse_memWf (s : State) (a0) (h : MemWf s) : MemWf (pinResponse s a0) := by
  unfold pinResponse
  grind [ledgerPageProgram_memWf, raiseHeat_memWf, raiseUnit_memWf]
theorem raisePin_memWf (s : State) (a0) (h : MemWf s) : MemWf (raisePin s a0) := by
  unfold raisePin
  grind [deliver_memWf, pinResponse_memWf, setPin_memWf]
theorem pinChange_memWf (s : State) (a0) (a1) (h : MemWf s) : MemWf (pinChange s a0 a1) := by
  unfold pinChange
  grind [raisePin_memWf, setPin_memWf]
theorem execPinChange_memWf (a0) (a1) (s : State) (h : MemWf s) : ResMemWf (execPinChange a0 a1 s) := by
  unfold execPinChange
  grind [pinChange_memWf, Run.MemWf, FabRun.MemWf, ResMemWf]
theorem pendingClear_memWf (s : State) (a0) (h : MemWf s) : MemWf (pendingClear s a0) := by
  unfold pendingClear
  grind
theorem execPendingClear_memWf (a0) (s : State) (h : MemWf s) : ResMemWf (execPendingClear a0 s) := by
  unfold execPendingClear
  repeat' first | with_reducible assumption | with_reducible refine foldl_memWf (fun _ _ _ => ?_) _ ?_ | with_reducible refine fromHost_memWf ‹_› ?_ | split
  all_goals grind [pendingClear_memWf, Run.MemWf, ResMemWf]
theorem lowPins_memWf (s : State) (h : MemWf s) : MemWf (lowPins s) := by
  unfold lowPins
  repeat' first | with_reducible assumption | with_reducible refine foldl_memWf (fun _ _ _ => ?_) _ ?_  | split
  all_goals grind [raisePin_memWf, setPin_memWf, Run.MemWf, ResMemWf]

/-! ### the fabric -/

theorem modFab_memWf (s : State) (a0) (h : MemWf s) : MemWf (modFab s a0) := by
  unfold modFab
  grind
theorem modPort_memWf (s : State) (a0) (a1) (h : MemWf s) : MemWf (modPort s a0 a1) := by
  unfold modPort
  grind [modFab_memWf]
theorem freeWords_memWf (s : State) (a0) (a1) (h : MemWf s) : MemWf (freeWords s a0 a1) := by
  unfold freeWords
  grind [emit_memWf]
theorem routeFault_memWf (s : State) (a0) (h : MemWf s) : MemWf (routeFault s a0) := by
  unfold routeFault
  grind [modPort_memWf]
theorem enqueue_memWf (s : State) (a0) (h : MemWf s) : MemWf (enqueue s a0) := by
  unfold enqueue
  grind [modFab_memWf]
theorem frameIn_memWf (s : State) (a0) (a1) (h : MemWf s) : MemWf (frameIn s a0 a1) := by
  unfold frameIn
  grind [enqueue_memWf, freeWords_memWf, modPort_memWf, routeFault_memWf]
theorem cutFrames_memWf (a0) (a1) (a2) (s : State) (h : MemWf s) : MemWf (cutFrames a0 a1 a2 s).1 := by
  induction a1 generalizing a2 s with
  | zero => exact h
  | succ n ih =>
    unfold cutFrames
    repeat' split
    all_goals grind [frameIn_memWf]
theorem flitDrop_memWf (s : State) (a0) (h : MemWf s) : MemWf (flitDrop s a0) := by
  unfold flitDrop
  grind [emit_memWf, modPort_memWf]
theorem flitReceive_memWf (s : State) (a0) (a1) (a2) (h : MemWf s) : MemWf (flitReceive s a0 a1 a2) := by
  unfold flitReceive
  grind [cutFrames_memWf, flitDrop_memWf, modPort_memWf]
theorem execFlitReceive_memWf (a0) (a1) (a2) (s : State) (h : MemWf s) : ResMemWf (execFlitReceive a0 a1 a2 s) := by
  unfold execFlitReceive
  grind [flitReceive_memWf, Run.MemWf, FabRun.MemWf, ResMemWf]
theorem setSession_memWf (s : State) (a0) (a1) (h : MemWf s) : MemWf (setSession s a0 a1) := by
  unfold setSession
  grind [modFab_memWf]
theorem modSession_memWf (s : State) (a0) (a1) (h : MemWf s) : MemWf (modSession s a0 a1) := by
  unfold modSession
  grind [setSession_memWf]
theorem openHalf_memWf (s : State) (a0) (h : MemWf s) : MemWf (openHalf s a0) := by
  unfold openHalf
  grind [drawFree_memWf, enqueue_memWf, modSession_memWf]
theorem useSession_memWf (s : State) (a0) (h : MemWf s) : MemWf (useSession s a0).1 := by
  unfold useSession
  grind [openHalf_memWf, setSession_memWf]
theorem modBind_memWf (s : State) (a0) (a1) (a2) (a3) (h : MemWf s) : MemWf (modBind s a0 a1 a2 a3) := by
  unfold modBind
  grind [modFab_memWf]
theorem markUsed_memWf (s : State) (a0) (a1) (a2) (a3) (h : MemWf s) : MemWf (markUsed s a0 a1 a2 a3) := by
  unfold markUsed
  grind [modFab_memWf]
theorem askBind_memWf (s : State) (a0) (a1) (a2) (a3) (h : MemWf s) : MemWf (askBind s a0 a1 a2 a3) := by
  unfold askBind
  grind [enqueue_memWf, markUsed_memWf, modFab_memWf]
theorem sendCtx_memWf (s : State) (a0) (a1) (a2) (a3) (h : MemWf s) : MemWf (sendCtx s a0 a1 a2 a3).1 := by
  unfold sendCtx
  grind [askBind_memWf, enqueue_memWf, markUsed_memWf, modFab_memWf, useSession_memWf]
theorem sendReply_memWf (s : State) (a0) (h : MemWf s) : MemWf (sendReply s a0) := by
  unfold sendReply
  grind [enqueue_memWf, useSession_memWf]
theorem takeSeq_memWf (s : State) (a0) (a1) (a2) (h : MemWf s) : MemWf (takeSeq s a0 a1 a2).1 := by
  unfold takeSeq
  grind [modSession_memWf]
theorem frameSend_memWf (s : State) (a0) (a1) (h : MemWf s) : MemWf (frameSend s a0 a1) := by
  unfold frameSend
  grind [emit_memWf, modFab_memWf, modPort_memWf, routeFault_memWf, takeSeq_memWf]
theorem execFrameSend_memWf (a0) (a1) (s : State) (h : MemWf s) : ResMemWf (execFrameSend a0 a1 s) := by
  unfold execFrameSend
  grind [frameSend_memWf, Run.MemWf, FabRun.MemWf, ResMemWf]
theorem sendAck_memWf (s : State) (a0) (a1) (h : MemWf s) : MemWf (sendAck s a0 a1) := by
  unfold sendAck
  grind [enqueue_memWf, modSession_memWf]
theorem sendNak_memWf (s : State) (a0) (a1) (h : MemWf s) : MemWf (sendNak s a0 a1) := by
  unfold sendNak
  grind [enqueue_memWf, modSession_memWf]
theorem completeFrame_memWf (s : State) (a0) (h : MemWf s) : MemWf (completeFrame s a0) := by
  unfold completeFrame
  grind [modSession_memWf, sendAck_memWf]
theorem acceptFrame_memWf (s : State) (a0) (h : MemWf s) : MemWf (acceptFrame s a0).1 := by
  unfold acceptFrame
  repeat' first
    | with_reducible assumption
    | split
    | with_reducible refine foldl_memWf (fun _ _ _ => ?_) _ ?_
    | with_reducible apply modSession_memWf
    | with_reducible apply sendAck_memWf
    | with_reducible apply sendNak_memWf
    | dsimp only
theorem takeFrame_memWf (s : State) (a0) (a1) (h : MemWf s) : ∀ t, takeFrame s a0 a1 = some t → MemWf t.1 := by
  unfold takeFrame
  grind [freeWords_memWf, modPort_memWf]
theorem countAccepted_memWf (s : State) (a0) (h : MemWf s) : MemWf (countAccepted s a0) := by
  unfold countAccepted
  grind [modCtx_memWf]
theorem recvSeq_memWf (s : State) (p) (typ) (eff : State → Frame → State) (he : ∀ s f, MemWf s → MemWf (eff s f)) (h : MemWf s) : MemWf (recvSeq s p typ eff) := by
  unfold recvSeq
  grind [→ takeFrame_memWf, acceptFrame_memWf, completeFrame_memWf, countAccepted_memWf]
theorem recvCtl_memWf (s : State) (a0) (a1) (eff : State → Frame → State) (he : ∀ s f, MemWf s → MemWf (eff s f)) (h : MemWf s) : MemWf (recvCtl s a0 a1 eff) := by
  unfold recvCtl
  grind [→ takeFrame_memWf]
theorem sendError_memWf (s : State) (a0) (a1) (a2) (h : MemWf s) : MemWf (sendError s a0 a1 a2) := by
  unfold sendError
  grind [sendReply_memWf]
theorem verifyRx_memWf (s : State) (a0) (h : MemWf s) : MemWf (verifyRx s a0).1 := by
  unfold verifyRx
  grind [logRec_memWf, raiseCrate_memWf]

/-! ### collectives -/

theorem modGroup_memWf (s : State) (a0) (a1) (h : MemWf s) : MemWf (modGroup s a0 a1) := by
  unfold modGroup
  grind
theorem modMap_memWf (s : State) (a0) (a1) (h : MemWf s) : MemWf (modMap s a0 a1) := by
  unfold modMap
  grind
theorem readVerify_memWf (s : State) (a0) (a1) (h : MemWf s) : MemWf (readVerify s a0 a1).1 := by
  unfold readVerify
  grind [countCheckFail_memWf, raiseCrate_memWf, reportBad_memWf, setMem_mem, wf_cacheTouch]
theorem readVerifyN_memWf (a0) (a1) (a2) (s : State) (h : MemWf s) : MemWf (readVerifyN a0 a1 a2 s).1 := by
  induction a1 generalizing a2 s with
  | zero => exact h
  | succ n ih =>
    unfold readVerifyN
    grind [readVerify_memWf]
theorem mapRefuse_memWf (s : State) (a0) (a1) (a2) (h : MemWf s) : MemWf (mapRefuse s a0 a1 a2) := by
  unfold mapRefuse
  grind [modMap_memWf, refuseCmd_memWf]
theorem phaseMapLoad_memWf (s : State) (a0) (h : MemWf s) : MemWf (phaseMapLoad s a0) := by
  unfold phaseMapLoad
  split
  · exact h
  dsimp only
  split
  · exact mapRefuse_memWf _ _ _ _ h
  split
  · exact mapRefuse_memWf _ _ _ _ (readVerify_memWf _ _ _ h)
  split
  · exact mapRefuse_memWf _ _ _ _ (readVerify_memWf _ _ _ h)
  split
  · exact mapRefuse_memWf _ _ _ _ (readVerifyN_memWf _ _ _ _ (readVerify_memWf _ _ _ h))
  split
  · exact mapRefuse_memWf _ _ _ _ (readVerifyN_memWf _ _ _ _ (readVerify_memWf _ _ _ h))
  · exact endCmd_memWf _ _ _ (modMap_memWf _ _ _ (readVerifyN_memWf _ _ _ _ (readVerify_memWf _ _ _ h)))
theorem execPhaseMapLoad_memWf (a0) (s : State) (h : MemWf s) : ResMemWf (execPhaseMapLoad a0 s) := by
  unfold execPhaseMapLoad
  grind [phaseMapLoad_memWf, Run.MemWf, FabRun.MemWf, ResMemWf]
theorem bindMembers_memWf (s : State) (a0) (a1) (a2) (h : MemWf s) : MemWf (bindMembers s a0 a1 a2) := by
  unfold bindMembers
  repeat' first | with_reducible assumption | with_reducible refine foldl_memWf (fun _ _ _ => ?_) _ ?_  | split
  all_goals grind [askBind_memWf, useSession_memWf, Run.MemWf, ResMemWf]
theorem phaseSwitch_memWf (s : State) (a0) (h : MemWf s) : MemWf (phaseSwitch s a0) := by
  unfold phaseSwitch
  repeat' first
    | with_reducible assumption
    | with_reducible refine foldl_memWf (fun _ _ _ => ?_) _ ?_
    | with_reducible apply bindMembers_memWf
    | with_reducible apply endCmd_memWf
    | with_reducible apply mapRefuse_memWf
    | with_reducible apply modMap_memWf
    | dsimp only
    | split
theorem execPhaseSwitch_memWf (a0) (s : State) (h : MemWf s) : ResMemWf (execPhaseSwitch a0 s) := by
  unfold execPhaseSwitch
  grind [phaseSwitch_memWf, Run.MemWf, FabRun.MemWf, ResMemWf]
theorem writeGrpFields_memWf (s : State) (a0) (a1) (h : MemWf s) : MemWf (writeGrpFields s a0 a1) := by
  unfold writeGrpFields
  grind [modGroup_memWf]
theorem grpEnable_memWf (s : State) (a0) (a1) (h : MemWf s) : MemWf (grpEnable s a0 a1) := by
  unfold grpEnable
  grind [bindMembers_memWf, modGroup_memWf, writeGrpFields_memWf]
theorem execGrpEnable_memWf (a0) (a1) (s : State) (h : MemWf s) : ResMemWf (execGrpEnable a0 a1 s) := by
  unfold execGrpEnable
  repeat' first | with_reducible assumption | with_reducible refine foldl_memWf (fun _ _ _ => ?_) _ ?_ | with_reducible refine fromHost_memWf ‹_› ?_ | split
  all_goals grind [grpEnable_memWf, Run.MemWf, ResMemWf]
theorem disableGroup_memWf (s : State) (a0) (h : MemWf s) : MemWf (disableGroup s a0) := by
  unfold disableGroup
  grind [modGroup_memWf]
theorem grpDisable_memWf (s : State) (a0) (a1) (h : MemWf s) : MemWf (grpDisable s a0 a1) := by
  unfold grpDisable
  grind [disableGroup_memWf, modGroup_memWf, writeGrpFields_memWf]
theorem execGrpDisable_memWf (a0) (a1) (s : State) (h : MemWf s) : ResMemWf (execGrpDisable a0 a1 s) := by
  unfold execGrpDisable
  repeat' first | with_reducible assumption | with_reducible refine foldl_memWf (fun _ _ _ => ?_) _ ?_ | with_reducible refine fromHost_memWf ‹_› ?_ | split
  all_goals grind [grpDisable_memWf, Run.MemWf, ResMemWf]
theorem writeSubst_memWf (s : State) (a0) (a1) (h : MemWf s) : MemWf (writeSubst s a0 a1) := by
  unfold writeSubst
  grind
theorem execGrpSubstEnable_memWf (a0) (a1) (s : State) (h : MemWf s) : ResMemWf (execGrpSubstEnable a0 a1 s) := by
  unfold execGrpSubstEnable
  repeat' first | with_reducible assumption | with_reducible refine foldl_memWf (fun _ _ _ => ?_) _ ?_ | with_reducible refine fromHost_memWf ‹_› ?_ | split
  all_goals grind [writeSubst_memWf, Run.MemWf, ResMemWf]
theorem sendBells_memWf (s : State) (a0) (a1) (h : MemWf s) : MemWf (sendBells s a0 a1) := by
  unfold sendBells
  repeat' first | with_reducible assumption | with_reducible refine foldl_memWf (fun _ _ _ => ?_) _ ?_  | split
  all_goals grind [enqueue_memWf, Run.MemWf, ResMemWf]
theorem ringBell_memWf (s : State) (a0) (a1) (h : MemWf s) : MemWf (ringBell s a0 a1) := by
  unfold ringBell
  grind [modGroup_memWf, sendBells_memWf]
theorem dropRun_memWf (s : State) (a0) (a1) (a2) (h : MemWf s) : MemWf (dropRun s a0 a1 a2) := by
  unfold dropRun
  grind [modFab_memWf, modGroup_memWf]
theorem collFail_memWf (s : State) (a0) (a1) (h : MemWf s) : MemWf (collFail s a0 a1) := by
  unfold collFail
  grind [dropRun_memWf, endCmd_memWf, ringBell_memWf]
theorem collFailNaming_memWf (s : State) (a0) (a1) (a2) (h : MemWf s) : MemWf (collFailNaming s a0 a1 a2) := by
  unfold collFailNaming
  grind [collFail_memWf, logRec_memWf, raiseColl_memWf]
theorem modRun_memWf (s : State) (a0) (a1) (h : MemWf s) : MemWf (modRun s a0 a1) := by
  unfold modRun
  grind [modGroup_memWf]
theorem sendColl_memWf (s : State) (a0) (a1) (a2) (a3) (h : MemWf s) : MemWf (sendColl s a0 a1 a2 a3) := by
  unfold sendColl
  grind [collFail_memWf, sendCtx_memWf]
theorem readOwn_memWf (s : State) (a0) (a1) (a2) (h : MemWf s) : MemWf (readOwn s a0 a1 a2).1 := by
  unfold readOwn
  grind [moveRead_memWf, readVerify_memWf]
theorem readOwns_memWf (a0) (a1) (a2) (s : State) (h : MemWf s) : MemWf (readOwns a0 a1 a2 s).1 := by
  induction a2 generalizing s with
  | nil => exact h
  | cons j t ih =>
    unfold readOwns
    repeat' split
    all_goals grind [readOwn_memWf]
theorem beginChunk_memWf (s : State) (a0) (a1) (h : MemWf s) : MemWf (beginChunk s a0 a1) := by
  unfold beginChunk
  repeat' first | with_reducible assumption | with_reducible refine foldl_memWf (fun _ _ _ => ?_) _ ?_  | split
  all_goals grind [collFail_memWf, modRun_memWf, readOwns_memWf, sendColl_memWf, Run.MemWf, ResMemWf]
theorem sendContribution_memWf (s : State) (a0) (a1) (a2) (a3) (h : MemWf s) : MemWf (sendContribution s a0 a1 a2 a3) := by
  unfold sendContribution
  dsimp only [Run.MemWf, FabRun.MemWf, ResMemWf]
  repeat' first
    | with_reducible assumption
    | split
    | with_reducible refine foldl_memWf (fun _ _ _ => ?_) _ ?_
    | with_reducible apply modRun_memWf
    | with_reducible apply sendColl_memWf
theorem sendReady_memWf (s : State) (a0) (a1) (h : MemWf s) : MemWf (sendReady s a0 a1) := by
  unfold sendReady
  repeat' first | with_reducible assumption | with_reducible refine foldl_memWf (fun _ _ _ => ?_) _ ?_  | split
  all_goals grind [sendContribution_memWf, Run.MemWf, ResMemWf]
theorem writeResult_memWf (s : State) (a0) (a1) (a2) (a3) (h : MemWf s) : MemWf (writeResult s a0 a1 a2 a3) := by
  unfold writeResult
  grind [collFail_memWf, modRun_memWf, putCrate_memWf]
theorem finishChunk_memWf (s : State) (a0) (a1) (h : MemWf s) : MemWf (finishChunk s a0 a1) := by
  unfold finishChunk
  repeat' first | assumption | refine foldl_memWf (fun _ _ _ => ?_) _ ?_ | refine fromHost_memWf ‹_› ?_ | split
  all_goals grind [modRun_memWf, writeResult_memWf, Run.MemWf, ResMemWf]
theorem pumpOnce_memWf (s : State) (a0) (h : MemWf s) : MemWf (pumpOnce s a0) := by
  unfold pumpOnce
  repeat' first
    | with_reducible assumption
    | split
    | with_reducible refine foldl_memWf (fun _ _ _ => ?_) _ ?_
    | with_reducible apply beginChunk_memWf
    | with_reducible apply finishChunk_memWf
    | with_reducible apply sendReady_memWf
    | dsimp only
theorem pump_memWf (a0) (s : State) (a1) (h : MemWf s) : MemWf (pump a0 s a1) := by
  induction a0 generalizing s with
  | zero => exact h
  | succ n ih => exact ih _ (pumpOnce_memWf s a1 h)
theorem pumpAll_memWf (s : State) (a0) (h : MemWf s) : MemWf (pumpAll s a0) := by
  unfold pumpAll
  grind [pump_memWf]
theorem collBegin_memWf (s : State) (a0) (a1) (h : MemWf s) : MemWf (collBegin s a0 a1) := by
  unfold collBegin
  dsimp only
  repeat' split
  all_goals grind [collFail_memWf, endCmd_memWf, modGroup_memWf, pumpAll_memWf, refuseCmd_memWf]
theorem execAllReduce_memWf (a0) (s : State) (h : MemWf s) : ResMemWf (execAllReduce a0 s) := by
  unfold execAllReduce
  grind [collBegin_memWf, Run.MemWf, FabRun.MemWf, ResMemWf]
theorem execReduceScatter_memWf (a0) (s : State) (h : MemWf s) : ResMemWf (execReduceScatter a0 s) := by
  unfold execReduceScatter
  grind [collBegin_memWf, Run.MemWf, FabRun.MemWf, ResMemWf]
theorem execAllGather_memWf (a0) (s : State) (h : MemWf s) : ResMemWf (execAllGather a0 s) := by
  unfold execAllGather
  grind [collBegin_memWf, Run.MemWf, FabRun.MemWf, ResMemWf]
theorem execBroadcast_memWf (a0) (s : State) (h : MemWf s) : ResMemWf (execBroadcast a0 s) := by
  unfold execBroadcast
  grind [collBegin_memWf, Run.MemWf, FabRun.MemWf, ResMemWf]
theorem takeGrant_memWf (s : State) (a0) (a1) (h : MemWf s) : MemWf (takeGrant s a0 a1) := by
  unfold takeGrant
  grind [collFail_memWf, modGroup_memWf, pumpAll_memWf]
theorem verifyColl_memWf (s : State) (a0) (a1) (a2) (a3) (h : MemWf s) : MemWf (verifyColl s a0 a1 a2 a3).1 := by
  unfold verifyColl
  grind [raiseCrate_memWf]
theorem takeData_memWf (s : State) (a0) (a1) (h : MemWf s) : MemWf (takeData s a0 a1) := by
  unfold takeData
  grind [collFailNaming_memWf, collFail_memWf, modRun_memWf, pumpAll_memWf, verifyColl_memWf]
theorem collEffect_memWf (s : State) (a0) (h : MemWf s) : MemWf (collEffect s a0) := by
  unfold collEffect
  grind [sendError_memWf, takeData_memWf, takeGrant_memWf]
theorem recvColl_memWf (s : State) (a0) (a1) (h : MemWf s) : MemWf (recvColl s a0 a1) := by
  unfold recvColl
  grind [collEffect_memWf, recvSeq_memWf]
theorem execCollGrant_memWf (a0) (s : State) (h : MemWf s) : ResMemWf (execCollGrant a0 s) := by
  unfold execCollGrant
  grind [recvColl_memWf, Run.MemWf, FabRun.MemWf, ResMemWf]
theorem execCollData_memWf (a0) (s : State) (h : MemWf s) : ResMemWf (execCollData a0 s) := by
  unfold execCollData
  grind [recvColl_memWf, Run.MemWf, FabRun.MemWf, ResMemWf]
theorem modRec_memWf (s : State) (a0) (a1) (h : MemWf s) : MemWf (modRec s a0 a1) := by
  unfold modRec
  grind
theorem appendDigest_memWf (s : State) (a0) (a1) (a2) (h : MemWf s) : MemWf (appendDigest s a0 a1 a2) := by
  unfold appendDigest
  grind [chargeStep_memWf, modRec_memWf, setMem_mem, wf_patchFw]
theorem collectiveComplete_memWf (s : State) (a0) (h : MemWf s) : MemWf (collectiveComplete s a0) := by
  unfold collectiveComplete
  grind [appendDigest_memWf, endCmd_memWf, modGroup_memWf]
theorem execCollectiveComplete_memWf (a0) (s : State) (h : MemWf s) : ResMemWf (execCollectiveComplete a0 s) := by
  unfold execCollectiveComplete
  grind [collectiveComplete_memWf, Run.MemWf, FabRun.MemWf, ResMemWf]
theorem collectiveSilence_memWf (s : State) (a0) (a1) (h : MemWf s) : MemWf (collectiveSilence s a0 a1) := by
  unfold collectiveSilence
  grind [collFailNaming_memWf]
theorem execCollectiveSilence_memWf (a0) (a1) (s : State) (h : MemWf s) : ResMemWf (execCollectiveSilence a0 a1 s) := by
  unfold execCollectiveSilence
  grind [collectiveSilence_memWf, Run.MemWf, FabRun.MemWf, ResMemWf]
theorem bellEffect_rest_memWf (s : State) (a0) (a1) (a2) (a3) (a4) (h : MemWf s) : MemWf (bellEffect.rest s a0 a1 a2 a3 a4) := by
  unfold bellEffect.rest
  repeat' first
    | with_reducible assumption
    | split
    | with_reducible refine foldl_memWf (fun _ _ _ => ?_) _ ?_
    | with_reducible apply dropRun_memWf
    | with_reducible apply endCmd_memWf
    | with_reducible apply modGroup_memWf
    | with_reducible apply raiseColl_memWf
    | with_reducible apply ringBell_memWf
    | dsimp only
theorem bellEffect_memWf (s : State) (a0) (h : MemWf s) : MemWf (bellEffect s a0) := by
  unfold bellEffect
  grind [bellEffect_rest_memWf, dropRun_memWf, endCmd_memWf, ringBell_memWf]
theorem execBell_memWf (a0) (s : State) (h : MemWf s) : ResMemWf (execBell a0 s) := by
  unfold execBell
  grind [bellEffect_memWf, recvCtl_memWf, Run.MemWf, FabRun.MemWf, ResMemWf]
theorem bellResend_memWf (s : State) (a0) (h : MemWf s) : MemWf (bellResend s a0) := by
  unfold bellResend
  grind [modGroup_memWf, sendBells_memWf]
theorem execBellResend_memWf (a0) (s : State) (h : MemWf s) : ResMemWf (execBellResend a0 s) := by
  unfold execBellResend
  grind [bellResend_memWf, Run.MemWf, FabRun.MemWf, ResMemWf]
theorem groupBackpressure_memWf (s : State) (a0) (a1) (h : MemWf s) : MemWf (groupBackpressure s a0 a1) := by
  unfold groupBackpressure
  grind [modGroup_memWf, raiseUnit_memWf]
theorem execGroupBackpressure_memWf (a0) (a1) (s : State) (h : MemWf s) : ResMemWf (execGroupBackpressure a0 a1 s) := by
  unfold execGroupBackpressure
  grind [groupBackpressure_memWf, Run.MemWf, FabRun.MemWf, ResMemWf]
end Sys2Proof.Machine
end

section
/-!
The canonical form of memory is kept, operation by operation.
-/
namespace Sys2Proof.Machine

/-! ### the Porter -/

theorem makeRemote_memWf (s : State) (a0) (a1) (a2) (h : MemWf s) : MemWf (makeRemote s a0 a1 a2) := by
  unfold makeRemote
  grind [scheduleBroken_memWf, setCore_memWf]
theorem makeTally_memWf (s : State) (a0) (a1) (a2) (h : MemWf s) : MemWf (makeTally s a0 a1 a2) := by
  unfold makeTally
  grind [addTallyAt_memWf]
theorem accCrate_memWf (s : State) (a0) (a1) (a2) (a3) (h : MemWf s) : MemWf (accCrate s a0 a1 a2 a3).1 := by
  unfold accCrate
  grind [consume_memWf, coreLineageNext_memWf, putCrate_memWf]
theorem moveSlot_memWf (a0) (a1) (a2) (a3) (a4) (a5) (s : State) (h : MemWf s) : (∀ t, moveSlot a0 a1 a2 a3 a4 a5 s = .ok t → MemWf t) ∧ (∀ r, moveSlot a0 a1 a2 a3 a4 a5 s = .error r → r.MemWf) := by
  induction a3 generalizing a4 a5 s with
  | zero => exact ⟨fun t ht => (by cases ht; exact h), fun r hr => (by cases hr)⟩
  | succ n ih =>
    constructor <;> intro t ht <;> unfold moveSlot at ht <;> (repeat' split at ht) <;>
      grind [accCrate_memWf, moveCrate_memWf, Run.MemWf]
theorem moveSlot_ok_memWf (a0) (a1) (a2) (a3) (a4) (a5) (s : State) (h : MemWf s) : ∀ t, moveSlot a0 a1 a2 a3 a4 a5 s = .ok t → MemWf t :=
  (moveSlot_memWf a0 a1 a2 a3 a4 a5 s h).1
theorem moveSlot_err_memWf (a0) (a1) (a2) (a3) (a4) (a5) (s : State) (h : MemWf s) : ∀ r, moveSlot a0 a1 a2 a3 a4 a5 s = .error r → r.MemWf :=
  (moveSlot_memWf a0 a1 a2 a3 a4 a5 s h).2
theorem moveSlots_memWf (a0) (a1) (a2) (a3) (a4) (a5) (a6) (s : State) (h : MemWf s) : (∀ t, moveSlots a0 a1 a2 a3 a4 a5 a6 s = .ok t → MemWf t) ∧
      (∀ r, moveSlots a0 a1 a2 a3 a4 a5 a6 s = .error r → r.1.MemWf) := by
  induction a5 generalizing a6 s with
  | zero => exact ⟨fun t ht => (by cases ht; exact h), fun r hr => (by cases hr)⟩
  | succ n ih =>
    constructor <;> intro t ht <;> unfold moveSlots at ht <;> (try dsimp only at ht) <;> (repeat' split at ht) <;>
      grind [→ moveSlot_ok_memWf, → moveSlot_err_memWf, → implicitWait_memWf, → implicitPost_ok_memWf, → implicitPost_err_memWf, → implicitRelease_ok_memWf, → implicitRelease_err_memWf, Run.MemWf]
theorem moveSlots_ok_memWf (a0) (a1) (a2) (a3) (a4) (a5) (a6) (s : State) (h : MemWf s) : ∀ t, moveSlots a0 a1 a2 a3 a4 a5 a6 s = .ok t → MemWf t :=
  (moveSlots_memWf a0 a1 a2 a3 a4 a5 a6 s h).1
theorem moveSlots_err_memWf (a0) (a1) (a2) (a3) (a4) (a5) (a6) (s : State) (h : MemWf s) : ∀ r, moveSlots a0 a1 a2 a3 a4 a5 a6 s = .error r → r.1.MemWf :=
  (moveSlots_memWf a0 a1 a2 a3 a4 a5 a6 s h).2
theorem addTransfer_memWf (s : State) (a0) (a1) (a2) (a3) (h : MemWf s) : MemWf (addTransfer s a0 a1 a2 a3) := by
  unfold addTransfer
  grind [modCore_memWf]
theorem bodyMove_memWf (s : State) (a0) (a1) (h : MemWf s) : (bodyMove s a0 a1).MemWf := by
  unfold bodyMove
  grind [addTransfer_memWf, makeRemote_memWf, makeTally_memWf, → moveSlots_ok_memWf, → moveSlots_err_memWf, Run.MemWf]
theorem bodyPmove_memWf (s : State) (a0) (a1) (a2) (h : MemWf s) : (bodyPmove s a0 a1 a2).MemWf := by
  unfold bodyPmove
  grind [bodyMove_memWf]
theorem bodyPacc_memWf (s : State) (a0) (a1) (a2) (h : MemWf s) : (bodyPacc s a0 a1 a2).MemWf := by
  unfold bodyPacc
  grind [bodyMove_memWf]
theorem execPmove_memWf (a0) (a1) (s : State) (h : MemWf s) : ResMemWf (execPmove a0 a1 s) := by
  unfold execPmove
  grind [bodyPmove_memWf, issue_memWf, Run.MemWf, FabRun.MemWf, ResMemWf]
theorem execPacc_memWf (a0) (a1) (s : State) (h : MemWf s) : ResMemWf (execPacc a0 a1 s) := by
  unfold execPacc
  grind [bodyPacc_memWf, issue_memWf, Run.MemWf, FabRun.MemWf, ResMemWf]
theorem idxCrates_memWf (a0) (a1) (a2) (a3) (a4) (a5) (a6) (a7) (a8) (s : State) (h : MemWf s) : (∀ t, idxCrates a0 a1 a2 a3 a4 a5 a6 a7 a8 s = .ok t → MemWf t) ∧
      (∀ r, idxCrates a0 a1 a2 a3 a4 a5 a6 a7 a8 s = .error r → r.1.MemWf) := by
  induction a7 generalizing a8 s with
  | zero => exact ⟨fun t ht => (by cases ht; exact h), fun r hr => (by cases hr)⟩
  | succ n ih =>
    constructor <;> intro t ht <;> unfold idxCrates at ht <;> (try dsimp only at ht) <;> (repeat' split at ht) <;>
      grind [moveCrate_memWf, → implicitWait_memWf, → implicitPost_ok_memWf, → implicitPost_err_memWf, → implicitRelease_ok_memWf, → implicitRelease_err_memWf, Run.MemWf]
theorem idxCrates_ok_memWf (a0) (a1) (a2) (a3) (a4) (a5) (a6) (a7) (a8) (s : State) (h : MemWf s) : ∀ t, idxCrates a0 a1 a2 a3 a4 a5 a6 a7 a8 s = .ok t → MemWf t :=
  (idxCrates_memWf a0 a1 a2 a3 a4 a5 a6 a7 a8 s h).1
theorem idxCrates_err_memWf (a0) (a1) (a2) (a3) (a4) (a5) (a6) (a7) (a8) (s : State) (h : MemWf s) : ∀ r, idxCrates a0 a1 a2 a3 a4 a5 a6 a7 a8 s = .error r → r.1.MemWf :=
  (idxCrates_memWf a0 a1 a2 a3 a4 a5 a6 a7 a8 s h).2
theorem gatherSectors_memWf (a0) (a1) (a2) (a3) (a4) (a5) (a6) (s : State) (h : MemWf s) : (∀ t, gatherSectors a0 a1 a2 a3 a4 a5 a6 s = .ok t → MemWf t) ∧
      (∀ r, gatherSectors a0 a1 a2 a3 a4 a5 a6 s = .error r → r.1.MemWf) := by
  induction a5 generalizing a6 s with
  | zero => exact ⟨fun t ht => (by cases ht; exact h), fun r hr => (by cases hr)⟩
  | succ n ih =>
    constructor <;> intro t ht <;> unfold gatherSectors at ht <;> (try dsimp only at ht) <;> (repeat' split at ht) <;>
      grind [coreLineageNext_memWf, putCrate_memWf, Run.MemWf]
theorem gatherSectors_ok_memWf (a0) (a1) (a2) (a3) (a4) (a5) (a6) (s : State) (h : MemWf s) : ∀ t, gatherSectors a0 a1 a2 a3 a4 a5 a6 s = .ok t → MemWf t :=
  (gatherSectors_memWf a0 a1 a2 a3 a4 a5 a6 s h).1
theorem gatherSectors_err_memWf (a0) (a1) (a2) (a3) (a4) (a5) (a6) (s : State) (h : MemWf s) : ∀ r, gatherSectors a0 a1 a2 a3 a4 a5 a6 s = .error r → r.1.MemWf :=
  (gatherSectors_memWf a0 a1 a2 a3 a4 a5 a6 s h).2
theorem idxRun_memWf (a0) (a1) (a2) (a3) (a4) (a5) (s : State) (h : MemWf s) : (∀ t, idxRun a0 a1 a2 a3 a4 a5 s = .ok t → MemWf t) ∧ (∀ r, idxRun a0 a1 a2 a3 a4 a5 s = .error r → r.1.MemWf) := by
  constructor <;> intro t ht <;> unfold idxRun at ht <;> (try dsimp only at ht) <;> (repeat' split at ht) <;>
    grind [→ gatherSectors_ok_memWf, → gatherSectors_err_memWf, → idxCrates_ok_memWf, → idxCrates_err_memWf, → implicitPost_ok_memWf, → implicitPost_err_memWf, → implicitWait_memWf, Run.MemWf]
theorem idxRun_ok_memWf (a0) (a1) (a2) (a3) (a4) (a5) (s : State) (h : MemWf s) : ∀ t, idxRun a0 a1 a2 a3 a4 a5 s = .ok t → MemWf t :=
  (idxRun_memWf a0 a1 a2 a3 a4 a5 s h).1
theorem idxRun_err_memWf (a0) (a1) (a2) (a3) (a4) (a5) (s : State) (h : MemWf s) : ∀ r, idxRun a0 a1 a2 a3 a4 a5 s = .error r → r.1.MemWf :=
  (idxRun_memWf a0 a1 a2 a3 a4 a5 s h).2
theorem bodyIdx_memWf (s : State) (a0) (a1) (h : MemWf s) : (bodyIdx s a0 a1).MemWf := by
  unfold bodyIdx
  grind [addTransfer_memWf, consume_memWf, → idxRun_ok_memWf, → idxRun_err_memWf, → implicitWait_memWf, Run.MemWf]
theorem bodyPgather_memWf (s : State) (a0) (a1) (a2) (h : MemWf s) : (bodyPgather s a0 a1 a2).MemWf := by
  unfold bodyPgather
  grind [bodyIdx_memWf]
theorem bodyPscatter_memWf (s : State) (a0) (a1) (a2) (h : MemWf s) : (bodyPscatter s a0 a1 a2).MemWf := by
  unfold bodyPscatter
  grind [bodyIdx_memWf]
theorem execPgather_memWf (a0) (a1) (s : State) (h : MemWf s) : ResMemWf (execPgather a0 a1 s) := by
  unfold execPgather
  grind [bodyPgather_memWf, issue_memWf, Run.MemWf, FabRun.MemWf, ResMemWf]
theorem execPscatter_memWf (a0) (a1) (s : State) (h : MemWf s) : ResMemWf (execPscatter a0 a1 s) := by
  unfold execPscatter
  grind [bodyPscatter_memWf, issue_memWf, Run.MemWf, FabRun.MemWf, ResMemWf]
theorem dropTransfer_memWf (s : State) (a0) (a1) (h : MemWf s) : MemWf (dropTransfer s a0 a1) := by
  unfold dropTransfer
  grind [modCore_memWf]
theorem modTransfer_memWf (s : State) (a0) (a1) (a2) (h : MemWf s) : MemWf (modTransfer s a0 a1 a2) := by
  unfold modTransfer
  grind [modCore_memWf]
theorem continueTransfer_memWf (s : State) (a0) (a1) (h : MemWf s) : MemWf (continueTransfer s a0 a1).1 := by
  unfold continueTransfer
  grind [→ idxRun_ok_memWf, → idxRun_err_memWf, modTransfer_memWf, → moveSlots_ok_memWf, → moveSlots_err_memWf, scheduleBroken_memWf, stationFault_memWf, Run.MemWf]
theorem completeTransfer_memWf (s : State) (a0) (a1) (h : MemWf s) : MemWf (completeTransfer s a0 a1) := by
  unfold completeTransfer
  grind [dropTransfer_memWf, implicitRelease_err_memWf, implicitRelease_ok_memWf, makeRemote_memWf, makeTally_memWf, signals_memWf]
theorem transferComplete_memWf (s : State) (a0) (a1) (a2) (h : MemWf s) : MemWf (transferComplete s a0 a1 a2) := by
  unfold transferComplete
  grind [applyMarks_memWf, completeTransfer_memWf, continueTransfer_memWf, dropTransfer_memWf]

/-! ### launches -/

theorem launchCmd_memWf (s : State) (a0) (h : MemWf s) : MemWf (launchCmd s a0) := by
  have hload : ∀ (l : List (ImgCore × Nat)) (s : State) (n : Nat), MemWf s →
      MemWf (l.foldl (fun s x => modCore s x.2 (loadCore a0 n x.1)) s) := by
    intro l
    induction l with
    | nil => exact fun _ _ hs => hs
    | cons x l ih =>
      intro s n hs
      rw [List.foldl_cons]
      exact ih _ _ (modCore_memWf _ _ _ hs)
  unfold launchCmd
  split
  · exact h
  refine ite_memWf h ?_
  rename_i c _
  cases hr : launchRefusal s (Pkt.ctx c.packet) c.packet with
  | some r =>
    simp only [hr]
    exact endCmd_memWf _ _ _ h
  | none =>
    simp only [hr]
    exact ite_memWf h (modCmd_memWf _ _ _ (setLaunch_memWf _ _ _ (hload _ _ _ h)))
theorem execLaunch_memWf (a0) (s : State) (h : MemWf s) : ResMemWf (execLaunch a0 s) := by
  unfold execLaunch
  grind [launchCmd_memWf, Run.MemWf, FabRun.MemWf, ResMemWf]
theorem launchEdge_memWf (s : State) (a0) (h : MemWf s) : MemWf (launchEdge s a0) := by
  unfold launchEdge
  repeat' first
    | with_reducible assumption
    | split
    | with_reducible refine foldl_memWf (fun _ _ _ => ?_) _ ?_
    | with_reducible apply modCore_memWf
    | with_reducible apply setLaunch_memWf
    | dsimp only
theorem execLaunchEdge_memWf (a0) (s : State) (h : MemWf s) : ResMemWf (execLaunchEdge a0 s) := by
  unfold execLaunchEdge
  grind [launchEdge_memWf, Run.MemWf, FabRun.MemWf, ResMemWf]
theorem fwWrite_memWf (s : State) (a0) (a1) (h : MemWf s) : MemWf (fwWrite s a0 a1) := by
  unfold fwWrite
  repeat' first
    | with_reducible assumption
    | with_reducible refine foldl_memWf (fun _ _ _ => ?_) _ ?_
    | rw [modMem_mem]
    | with_reducible apply wf_patchBytes
    | with_reducible apply putCrate_memWf
    | dsimp only
    | split
  all_goals grind [modMem_mem, wf_patchBytes, putCrate_memWf, Memory.wf, Run.MemWf]
theorem freeCores_memWf (s : State) (a0) (a1) (h : MemWf s) : MemWf (freeCores s a0 a1) := by
  unfold freeCores
  repeat' first | with_reducible assumption | with_reducible refine foldl_memWf (fun _ _ _ => ?_) _ ?_  | split
  all_goals grind [modCore_memWf, Run.MemWf, ResMemWf]
theorem launchBoundary_memWf (s : State) (a0) (h : MemWf s) : MemWf (launchBoundary s a0) := by
  unfold launchBoundary
  repeat' first | with_reducible assumption | with_reducible refine foldl_memWf (fun _ _ _ => ?_) _ ?_  | split
  all_goals grind [coreBoundary_memWf, Run.MemWf, ResMemWf]
theorem openCut_memWf (s : State) (a0) (a1) (h : MemWf s) : MemWf (openCut s a0 a1) := by
  unfold openCut
  repeat' first
    | assumption
    | split
theorem launchComplete_memWf (s : State) (a0) (a1) (a2) (h : MemWf s) : MemWf (launchComplete s a0 a1 a2) := by
  unfold launchComplete
  grind [endCmd_memWf, freeCores_memWf, fwWrite_memWf, launchBoundary_memWf, openCut_memWf]
theorem execLaunchComplete_memWf (a0) (a1) (a2) (s : State) (h : MemWf s) : ResMemWf (execLaunchComplete a0 a1 a2 s) := by
  unfold execLaunchComplete
  grind [launchComplete_memWf, Run.MemWf, FabRun.MemWf, ResMemWf]
theorem launchAbort_memWf (s : State) (a0) (h : MemWf s) : MemWf (launchAbort s a0) := by
  unfold launchAbort
  grind [endCmd_memWf, refuseCmd_memWf, stopLaunch_memWf]
theorem execLaunchAbort_memWf (a0) (s : State) (h : MemWf s) : ResMemWf (execLaunchAbort a0 s) := by
  unfold execLaunchAbort
  grind [launchAbort_memWf, Run.MemWf, FabRun.MemWf, ResMemWf]
theorem modScrub_memWf (s : State) (a0) (a1) (h : MemWf s) : MemWf (modScrub s a0 a1) := by
  unfold modScrub
  assumption
theorem housekeepingWindow_memWf (s : State) (a0) (a1) (h : MemWf s) : MemWf (housekeepingWindow s a0 a1) := by
  unfold housekeepingWindow
  refine ite_memWf h ?_
  extract_lets l s1 s2 n s3
  have h2 : MemWf s2 := by
    simp only [s2]
    split
    · exact foldl_memWf (fun _ _ hs => reportBad_memWf _ _ _ _ hs) _ (applyMarks_memWf _ _ h)
    · exact applyMarks_memWf _ _ h
  clear_value s2
  have h3 : MemWf s3 := modCore_memWf _ _ _ h2
  clear_value s3
  exact ite_memWf (modScrub_memWf _ _ _ h3) h3
theorem execHousekeepingWindow_memWf (a0) (a1) (s : State) (h : MemWf s) : ResMemWf (execHousekeepingWindow a0 a1 s) := by
  unfold execHousekeepingWindow
  grind [housekeepingWindow_memWf, Run.MemWf, FabRun.MemWf, ResMemWf]

/-! ### memory commands -/

theorem overCrates_memWf (a0) (a1) (a2) (hf : ∀ s k t, a0 s k = .ok t → MemWf s → MemWf t.1) (h : MemWf a2.s) : MemWf (overCrates a0 a1 a2).s := by
  induction a1 generalizing a2 with
  | zero => exact h
  | succ n ih =>
    unfold overCrates
    repeat' split
    all_goals grind
theorem openCrate_memWf (s : State) (a0) (a1) (h : MemWf s) : MemWf (openCrate s a0 a1) := by
  have hm : ∀ k, Memory.wf { s.mem with cells := writeBytes s.mem.cells (k * 4096) a1, opened := ninsert s.mem.opened k } = true :=
    fun k => wf_of s.mem _ h (cellsWf_writeBytes _ _ _) id id
  unfold openCrate
  dsimp only
  split
  · exact h
  · split
    · exact modCmd_memWf _ _ _ h
    · exact hm _
theorem runPiece_memWf (s : State) (a0) (a1) (f : State → Nat → Except Nat (State × Bool)) (a3) (a4)
    (hf : ∀ s k t, f s k = .ok t → MemWf s → MemWf t.1) (h : MemWf s) : MemWf (runPiece s a0 a1 f a3 a4) := by
  unfold runPiece
  grind [endCmd_memWf, modCmd_memWf, openCrate_memWf, overCrates_memWf]
theorem memWriteCrate_memWf (a0) (a1) (a2) (s : State) (a3) (h : MemWf s) : ∀ t, memWriteCrate a0 a1 a2 s a3 = .ok t → MemWf t.1 := by
  unfold memWriteCrate
  grind [putCrate_memWf, raiseCrate_memWf]
theorem memWrite_memWf (s : State) (a0) (a1) (a2) (h : MemWf s) : MemWf (memWrite s a0 a1 a2) := by
  unfold memWrite
  split
  · exact h
  · exact runPiece_memWf _ _ _ _ _ _ (fun s k t ht hs => memWriteCrate_memWf _ _ _ s _ hs t ht) h
theorem execMemWrite_memWf (a0) (a1) (a2) (a3) (s : State) (h : MemWf s) : ResMemWf (execMemWrite a0 a1 a2 a3 s) := by
  unfold execMemWrite
  grind [memWrite_memWf, Run.MemWf, FabRun.MemWf, ResMemWf]
theorem memReadCrate_memWf (a0) (s : State) (a1) (h : MemWf s) : ∀ t, memReadCrate a0 s a1 = .ok t → MemWf t.1 := by
  unfold memReadCrate
  grind [hostWrite_memWf, reportBad_memWf, setMem_mem, wf_cacheTouch]
theorem memRead_memWf (s : State) (a0) (a1) (a2) (h : MemWf s) : MemWf (memRead s a0 a1 a2) := by
  unfold memRead
  split
  · exact h
  · exact runPiece_memWf _ _ _ _ _ _ (fun s k t ht hs => memReadCrate_memWf _ s _ hs t ht) (applyMarks_memWf s _ h)
theorem execMemRead_memWf (a0) (a1) (a2) (s : State) (h : MemWf s) : ResMemWf (execMemRead a0 a1 a2 s) := by
  unfold execMemRead
  grind [memRead_memWf, Run.MemWf, FabRun.MemWf, ResMemWf]
theorem memCopyCrate_memWf (a0) (s : State) (a1) (h : MemWf s) : ∀ t, memCopyCrate a0 s a1 = .ok t → MemWf t.1 := by
  unfold memCopyCrate
  grind [moveRead_memWf, putCrate_memWf]
theorem memCopy_memWf (s : State) (a0) (a1) (a2) (h : MemWf s) : MemWf (memCopy s a0 a1 a2) := by
  unfold memCopy
  split
  · exact h
  · exact runPiece_memWf _ _ _ _ _ _ (fun s k t ht hs => memCopyCrate_memWf _ s _ hs t ht) (applyMarks_memWf s _ h)
theorem execMemCopy_memWf (a0) (a1) (a2) (a3) (s : State) (h : MemWf s) : ResMemWf (execMemCopy a0 a1 a2 a3 s) := by
  unfold execMemCopy
  grind [memCopy_memWf, Run.MemWf, FabRun.MemWf, ResMemWf]
theorem memFillCrate_memWf (a0) (s : State) (a1) (h : MemWf s) : ∀ t, memFillCrate a0 s a1 = .ok t → MemWf t.1 := by
  unfold memFillCrate
  grind [putCrate_memWf]
theorem memFill_memWf (s : State) (a0) (a1) (h : MemWf s) : MemWf (memFill s a0 a1) := by
  unfold memFill
  split
  · exact h
  · exact runPiece_memWf _ _ _ _ _ _ (fun s k t ht hs => memFillCrate_memWf _ s _ hs t ht) h
theorem execMemFill_memWf (a0) (a1) (a2) (s : State) (h : MemWf s) : ResMemWf (execMemFill a0 a1 a2 s) := by
  unfold execMemFill
  grind [memFill_memWf, Run.MemWf, FabRun.MemWf, ResMemWf]
theorem memRetagCrate_memWf (a0) (s : State) (a1) (h : MemWf s) : ∀ t, memRetagCrate a0 s a1 = .ok t → MemWf t.1 := by
  unfold memRetagCrate
  grind [modMem_mem, reportBad_memWf, wf_setTag]
theorem memRetag_memWf (s : State) (a0) (a1) (a2) (h : MemWf s) : MemWf (memRetag s a0 a1 a2) := by
  unfold memRetag
  split
  · exact h
  · exact runPiece_memWf _ _ _ _ _ _ (fun s k t ht hs => memRetagCrate_memWf _ s _ hs t ht) (applyMarks_memWf s _ h)
theorem execMemRetag_memWf (a0) (a1) (a2) (s : State) (h : MemWf s) : ResMemWf (execMemRetag a0 a1 a2 s) := by
  unfold execMemRetag
  grind [memRetag_memWf, Run.MemWf, FabRun.MemWf, ResMemWf]
theorem sliceMode_memWf (s : State) (a0) (h : MemWf s) : MemWf (sliceMode s a0) := by
  have hm : ∀ d k, MemWf (modMem s fun m => setModes m d k) := fun d k => memWf_modMem (wf_setModes s.mem d k h)
  unfold sliceMode
  split
  · exact h
  exact ite_memWf (refuseCmd_memWf _ _ _ h) (ite_memWf (memWf_modMem (wf_foldSlices _ _ h)) (endCmd_memWf _ _ _ (hm _ _)))
theorem execSliceMode_memWf (a0) (s : State) (h : MemWf s) : ResMemWf (execSliceMode a0 s) := by
  unfold execSliceMode
  grind [sliceMode_memWf, Run.MemWf, FabRun.MemWf, ResMemWf]
theorem tallyNop_memWf (s : State) (a0) (h : MemWf s) : MemWf (tallyNop s a0) := by
  unfold tallyNop
  grind [endCmd_memWf]
theorem execTallyNop_memWf (a0) (s : State) (h : MemWf s) : ResMemWf (execTallyNop a0 s) := by
  unfold execTallyNop
  grind [tallyNop_memWf, Run.MemWf, FabRun.MemWf, ResMemWf]
theorem tallyAdd_memWf (s : State) (a0) (h : MemWf s) : MemWf (tallyAdd s a0) := by
  unfold tallyAdd
  grind [addTally_memWf, endCmd_memWf, refuseCmd_memWf]
theorem execTallyAdd_memWf (a0) (s : State) (h : MemWf s) : ResMemWf (execTallyAdd a0 s) := by
  unfold execTallyAdd
  grind [tallyAdd_memWf, Run.MemWf, FabRun.MemWf, ResMemWf]
theorem tallyRead_memWf (s : State) (a0) (h : MemWf s) : MemWf (tallyRead s a0) := by
  unfold tallyRead
  grind [endCmd_memWf, refuseCmd_memWf]
theorem execTallyRead_memWf (a0) (s : State) (h : MemWf s) : ResMemWf (execTallyRead a0 s) := by
  unfold execTallyRead
  grind [tallyRead_memWf, Run.MemWf, FabRun.MemWf, ResMemWf]
theorem newEpoch_memWf (s : State) (a0) (h : MemWf s) : MemWf (newEpoch s a0) := by
  unfold newEpoch
  grind
theorem tallyEpoch_memWf (s : State) (a0) (h : MemWf s) : MemWf (tallyEpoch s a0) := by
  unfold tallyEpoch
  repeat' first
    | with_reducible assumption
    | with_reducible refine foldl_memWf (fun _ _ _ => ?_) _ ?_
    | with_reducible apply endCmd_memWf
    | with_reducible apply newEpoch_memWf
    | with_reducible apply refuseCmd_memWf
    | dsimp only
    | split
theorem execTallyEpoch_memWf (a0) (s : State) (h : MemWf s) : ResMemWf (execTallyEpoch a0 s) := by
  unfold execTallyEpoch
  grind [tallyEpoch_memWf, Run.MemWf, FabRun.MemWf, ResMemWf]
theorem aperRefused_memWf (s : State) (a0) (a1) (a2) (h : MemWf s) : MemWf (aperRefused s a0 a1 a2) := by
  unfold aperRefused
  grind
theorem writeAperWin_memWf (s : State) (a0) (a1) (h : MemWf s) : MemWf (writeAperWin s a0 a1) := by
  unfold writeAperWin
  grind [aperRefused_memWf]
theorem execAperWinEnable_memWf (a0) (a1) (s : State) (h : MemWf s) : ResMemWf (execAperWinEnable a0 a1 s) := by
  unfold execAperWinEnable
  repeat' first | with_reducible assumption | with_reducible refine foldl_memWf (fun _ _ _ => ?_) _ ?_ | with_reducible refine fromHost_memWf ‹_› ?_ | split
  all_goals grind [writeAperWin_memWf, Run.MemWf, ResMemWf]
theorem aperCheck_memWf (s : State) (a0) (a1) (h : MemWf s) : MemWf (aperCheck s a0 a1).1 := by
  unfold aperCheck
  grind [drawFree_memWf]
theorem aperFail_memWf (s : State) (a0) (a1) (h : MemWf s) : MemWf (aperFail s a0 a1) := by
  unfold aperFail
  grind [aperRefused_memWf, raiseUnit_memWf]
theorem apertureRead_memWf (s : State) (a0) (a1) (h : MemWf s) : MemWf (apertureRead s a0 a1) := by
  unfold apertureRead
  grind [aperCheck_memWf, aperFail_memWf, emit_memWf, reportBadIf_memWf, setMem_mem, wf_cacheTouch]
theorem execApertureRead_memWf (a0) (a1) (s : State) (h : MemWf s) : ResMemWf (execApertureRead a0 a1 s) := by
  unfold execApertureRead
  grind [apertureRead_memWf, Run.MemWf, FabRun.MemWf, ResMemWf]
theorem apertureWrite_memWf (s : State) (a0) (a1) (h : MemWf s) : MemWf (apertureWrite s a0 a1) := by
  unfold apertureWrite
  grind [aperCheck_memWf, aperFail_memWf, modMem_mem, reportBadIf_memWf, wf_patchBytes]
theorem execApertureWrite_memWf (a0) (a1) (s : State) (h : MemWf s) : ResMemWf (execApertureWrite a0 a1 s) := by
  unfold execApertureWrite
  repeat' first | with_reducible assumption | with_reducible refine foldl_memWf (fun _ _ _ => ?_) _ ?_ | with_reducible refine fromHost_memWf ‹_› ?_ | split
  all_goals grind [apertureWrite_memWf, Run.MemWf, ResMemWf]

/-! ### partitions and contexts -/

theorem drawKeys_memWf (s : State) (h : MemWf s) : MemWf (drawKeys s).1 := by
  unfold drawKeys
  grind [drawFree_memWf]
theorem zeroPlain_memWf (s : State) (a0) (h : MemWf s) : MemWf (zeroPlain s a0) := by
  unfold zeroPlain
  grind [modMem_mem, wf_zeroScratch, wf_zeroSlices]
theorem fillDie_memWf (s : State) (a0) (h : MemWf s) : MemWf (fillDie s a0) := by
  unfold fillDie
  grind [modMem_mem, zeroPlain_memWf, wf_flushDie, wf_zeroTiers]
theorem makePart_memWf (s : State) (a0) (a1) (a2) (a3) (h : MemWf s) : MemWf (makePart s a0 a1 a2 a3) := by
  unfold makePart
  dsimp only [Run.MemWf, FabRun.MemWf, ResMemWf]
  repeat' first
    | with_reducible assumption
    | split
    | with_reducible refine foldl_memWf (fun _ _ _ => ?_) _ ?_
    | with_reducible apply drawKeys_memWf
    | with_reducible apply fillDie_memWf
    | with_reducible apply setPart_memWf
theorem failCreate_memWf (s : State) (a0) (a1) (a2) (h : MemWf s) : MemWf (failCreate s a0 a1 a2) := by
  unfold failCreate
  grind [modPart_memWf, refuseCmd_memWf]
theorem partCreate_memWf (s : State) (a0) (h : MemWf s) : MemWf (partCreate s a0) := by
  unfold partCreate
  grind [endCmd_memWf, failCreate_memWf, makePart_memWf, refuseCmd_memWf]
theorem execPartCreate_memWf (a0) (s : State) (h : MemWf s) : ResMemWf (execPartCreate a0 s) := by
  unfold execPartCreate
  grind [partCreate_memWf, Run.MemWf, FabRun.MemWf, ResMemWf]
theorem partEnable_memWf (s : State) (a0) (a1) (h : MemWf s) : MemWf (partEnable s a0 a1) := by
  unfold partEnable
  grind [modPart_memWf]
theorem execPartEnable_memWf (a0) (a1) (s : State) (h : MemWf s) : ResMemWf (execPartEnable a0 a1 s) := by
  unfold execPartEnable
  repeat' first | with_reducible assumption | with_reducible refine foldl_memWf (fun _ _ _ => ?_) _ ?_ | with_reducible refine fromHost_memWf ‹_› ?_ | split
  all_goals grind [partEnable_memWf, Run.MemWf, ResMemWf]
theorem dropPart_memWf (s : State) (a0) (h : MemWf s) : MemWf (dropPart s a0) := by
  unfold dropPart
  refine setPart_memWf _ _ _ (foldl_memWf (fun s d hs => zeroPlain_memWf _ _ (memWf_modMem (wf_scratchDie _ _ hs))) _ h)
theorem partDestroy_memWf (s : State) (a0) (h : MemWf s) : MemWf (partDestroy s a0) := by
  unfold partDestroy
  grind [dropPart_memWf, endCmd_memWf, refuseCmd_memWf]
theorem execPartDestroy_memWf (a0) (s : State) (h : MemWf s) : ResMemWf (execPartDestroy a0 s) := by
  unfold execPartDestroy
  grind [partDestroy_memWf, Run.MemWf, FabRun.MemWf, ResMemWf]
theorem clearTallies_memWf (s : State) (a0) (a1) (h : MemWf s) : MemWf (clearTallies s a0 a1) := by
  unfold clearTallies
  grind
theorem ctxCreate_memWf (s : State) (a0) (h : MemWf s) : MemWf (ctxCreate s a0) := by
  unfold ctxCreate
  grind [clearTallies_memWf, endCmd_memWf, refuseCmd_memWf, setCtx_memWf]
theorem execCtxCreate_memWf (a0) (s : State) (h : MemWf s) : ResMemWf (execCtxCreate a0 s) := by
  unfold execCtxCreate
  grind [ctxCreate_memWf, Run.MemWf, FabRun.MemWf, ResMemWf]
theorem ctxEnable_memWf (s : State) (a0) (a1) (h : MemWf s) : MemWf (ctxEnable s a0 a1) := by
  unfold ctxEnable
  grind [modCtx_memWf]
theorem execCtxEnable_memWf (a0) (a1) (s : State) (h : MemWf s) : ResMemWf (execCtxEnable a0 a1 s) := by
  unfold execCtxEnable
  repeat' first | with_reducible assumption | with_reducible refine foldl_memWf (fun _ _ _ => ?_) _ ?_ | with_reducible refine fromHost_memWf ‹_› ?_ | split
  all_goals grind [ctxEnable_memWf, Run.MemWf, ResMemWf]
theorem ctxSet_memWf (s : State) (a0) (h : MemWf s) : MemWf (ctxSet s a0) := by
  unfold ctxSet
  grind [endCmd_memWf, modCtx_memWf, refuseCmd_memWf]
theorem execCtxSet_memWf (a0) (s : State) (h : MemWf s) : ResMemWf (execCtxSet a0 s) := by
  unfold execCtxSet
  grind [ctxSet_memWf, Run.MemWf, FabRun.MemWf, ResMemWf]

/-! ### memory upkeep -/

theorem execDramRefresh_memWf (a0) (s : State) (h : MemWf s) : ResMemWf (execDramRefresh a0 s) := by
  unfold execDramRefresh
  grind [modChan_memWf, Run.MemWf, FabRun.MemWf, ResMemWf]
theorem logLane_memWf (s : State) (a0) (a1) (a2) (a3) (h : MemWf s) : MemWf (logLane s a0 a1 a2 a3) := by
  unfold logLane
  grind [logRec_memWf]
theorem replaceLane_memWf (a0) (s : State) (a1) (h : MemWf s) : MemWf (replaceLane a0 s a1) := by
  unfold replaceLane
  grind [logLane_memWf, modChan_memWf, modUnit_memWf]
theorem recalibration_memWf (s : State) (a0) (a1) (h : MemWf s) : MemWf (recalibration s a0 a1) := by
  unfold recalibration
  repeat' first | with_reducible assumption | with_reducible refine foldl_memWf (fun _ _ _ => ?_) _ ?_  | split
  all_goals grind [modChan_memWf, replaceLane_memWf, Run.MemWf, ResMemWf]
theorem execRecalibration_memWf (a0) (a1) (s : State) (h : MemWf s) : ResMemWf (execRecalibration a0 a1 s) := by
  unfold execRecalibration
  grind [recalibration_memWf, Run.MemWf, FabRun.MemWf, ResMemWf]
theorem scrubFindings_memWf (s : State) (a0) (h : MemWf s) : MemWf (scrubFindings s a0) := by
  unfold scrubFindings
  repeat' first
    | with_reducible assumption
    | with_reducible refine foldl_memWf (fun _ _ _ => ?_) _ ?_
    | with_reducible apply applyMarks_memWf
    | with_reducible apply reportBad_memWf
    | dsimp only
    | split
theorem patrolScrubStep_memWf (s : State) (a0) (a1) (a2) (a3) (h : MemWf s) : MemWf (patrolScrubStep s a0 a1 a2 a3) := by
  unfold patrolScrubStep
  grind [modScrub_memWf, scrubFindings_memWf]
theorem execPatrolScrubStep_memWf (a0) (a1) (a2) (a3) (s : State) (h : MemWf s) : ResMemWf (execPatrolScrubStep a0 a1 a2 a3 s) := by
  unfold execPatrolScrubStep
  grind [patrolScrubStep_memWf, Run.MemWf, FabRun.MemWf, ResMemWf]
theorem memoryLaneRetire_memWf (s : State) (a0) (a1) (a2) (h : MemWf s) : MemWf (memoryLaneRetire s a0 a1 a2) := by
  unfold memoryLaneRetire
  grind [logRec_memWf, modChan_memWf]
theorem execMemoryLaneRetire_memWf (a0) (a1) (a2) (s : State) (h : MemWf s) : ResMemWf (execMemoryLaneRetire a0 a1 a2 s) := by
  unfold execMemoryLaneRetire
  grind [memoryLaneRetire_memWf, Run.MemWf, FabRun.MemWf, ResMemWf]
theorem scrubStarved_memWf (s : State) (a0) (h : MemWf s) : MemWf (scrubStarved s a0) := by
  unfold scrubStarved
  grind [modScrub_memWf, raiseCore_memWf]
theorem execScrubStarved_memWf (a0) (s : State) (h : MemWf s) : ResMemWf (execScrubStarved a0 s) := by
  unfold execScrubStarved
  grind [scrubStarved_memWf, Run.MemWf, FabRun.MemWf, ResMemWf]
theorem execSliceScrubPass_memWf (a0) (a1) (s : State) (h : MemWf s) : ResMemWf (execSliceScrubPass a0 a1 s) := by
  unfold execSliceScrubPass
  grind [scrubFindings_memWf, Run.MemWf, FabRun.MemWf, ResMemWf]
theorem chTestEnter_memWf (s : State) (a0) (h : MemWf s) : MemWf (chTestEnter s a0) := by
  unfold chTestEnter
  grind [endCmd_memWf, modChan_memWf, refuseCmd_memWf]
theorem execChTestEnter_memWf (a0) (s : State) (h : MemWf s) : ResMemWf (execChTestEnter a0 s) := by
  unfold execChTestEnter
  grind [chTestEnter_memWf, Run.MemWf, FabRun.MemWf, ResMemWf]
theorem chTestExit_memWf (s : State) (a0) (h : MemWf s) : MemWf (chTestExit s a0) := by
  unfold chTestExit
  split
  · exact h
  dsimp only
  split
  · exact refuseCmd_memWf _ _ _ h
  · exact endCmd_memWf _ _ _ (memWf_modMem (wf_zeroChannel _ _ (modChan_memWf _ _ _ h)))
theorem execChTestExit_memWf (a0) (s : State) (h : MemWf s) : ResMemWf (execChTestExit a0 s) := by
  unfold execChTestExit
  grind [chTestExit_memWf, Run.MemWf, FabRun.MemWf, ResMemWf]
theorem genWrite_memWf (s : State) (a0) (a1) (h : MemWf s) : MemWf (genWrite s a0 a1) := by
  unfold genWrite
  grind [modChan_memWf]
theorem execGenStart_memWf (a0) (a1) (s : State) (h : MemWf s) : ResMemWf (execGenStart a0 a1 s) := by
  unfold execGenStart
  repeat' first | with_reducible assumption | with_reducible refine foldl_memWf (fun _ _ _ => ?_) _ ?_ | with_reducible refine fromHost_memWf ‹_› ?_ | split
  all_goals grind [genWrite_memWf, Run.MemWf, ResMemWf]
theorem execGenStop_memWf (a0) (a1) (s : State) (h : MemWf s) : ResMemWf (execGenStop a0 a1 s) := by
  unfold execGenStop
  repeat' first | with_reducible assumption | with_reducible refine foldl_memWf (fun _ _ _ => ?_) _ ?_ | with_reducible refine fromHost_memWf ‹_› ?_ | split
  all_goals grind [genWrite_memWf, Run.MemWf, ResMemWf]
theorem genPassesDone_memWf (s : State) (a0) (a1) (a2) (a3) (h : MemWf s) : MemWf (genPassesDone s a0 a1 a2 a3) := by
  unfold genPassesDone
  grind [modChan_memWf]
theorem execGenPassesDone_memWf (a0) (a1) (a2) (a3) (s : State) (h : MemWf s) : ResMemWf (execGenPassesDone a0 a1 a2 a3 s) := by
  unfold execGenPassesDone
  grind [genPassesDone_memWf, Run.MemWf, FabRun.MemWf, ResMemWf]
theorem marginMemory_memWf (s : State) (a0) (a1) (a2) (a3) (h : MemWf s) : MemWf (marginMemory s a0 a1 a2 a3) := by
  unfold marginMemory
  grind [endCmd_memWf, logRec_memWf, modChan_memWf, modMem_mem, refuseCmd_memWf, wf_fwCrate, wf_preserve]

/-! ### fabric operations -/

theorem setOp_memWf (s : State) (a0) (a1) (h : MemWf s) : MemWf (setOp s a0 a1) := by
  unfold setOp
  grind [modFab_memWf]
theorem modOp_memWf (s : State) (a0) (a1) (h : MemWf s) : MemWf (modOp s a0 a1) := by
  unfold modOp
  grind [setOp_memWf]
theorem newOp_memWf (s : State) (a0) (h : MemWf s) : MemWf (newOp s a0).1 := by
  unfold newOp
  grind [modFab_memWf, setOp_memWf]
theorem dropOp_memWf (s : State) (a0) (h : MemWf s) : MemWf (dropOp s a0) := by
  unfold dropOp
  grind [modFab_memWf, setOp_memWf]
theorem opDone_memWf (s : State) (a0) (h : MemWf s) : MemWf (opDone s a0) := by
  unfold opDone
  grind [modTransfer_memWf, setOp_memWf]
theorem fabricFault_memWf (s : State) (a0) (a1) (a2) (h : MemWf s) : MemWf (fabricFault s a0 a1 a2) := by
  unfold fabricFault
  grind [stationFault_memWf]
theorem failOp_memWf (s : State) (a0) (a1) (a2) (a3) (a4) (h : MemWf s) : MemWf (failOp s a0 a1 a2 a3 a4) := by
  have hp : ∀ (l : List Nat) (s : State), MemWf s →
      MemWf (l.foldl (fun s c => setMem s (setTag s.mem c (Tag.poison (crateTag s.mem c)))) s) :=
    fun l s hs => foldl_memWf (fun _ _ hs => wf_setTag _ _ _ hs) l hs
  unfold failOp
  split
  · exact h
  · grind [chargeStep_memWf, dropOp_memWf, fabricFault_memWf, modQueue_memWf, modTransfer_memWf, raiseEvent_memWf, raiseStep_memWf]
theorem failFrames_memWf (s : State) (a0) (a1) (h : MemWf s) : MemWf (failFrames s a0 a1) := by
  unfold failFrames
  repeat' first | with_reducible assumption | with_reducible refine foldl_memWf (fun _ _ _ => ?_) _ ?_  | split
  all_goals grind [failOp_memWf, Run.MemWf, ResMemWf]
theorem failColls_memWf (s : State) (a0) (a1) (a2) (h : MemWf s) : MemWf (failColls s a0 a1 a2) := by
  unfold failColls
  repeat' first | with_reducible assumption | with_reducible refine foldl_memWf (fun _ _ _ => ?_) _ ?_  | split
  all_goals grind [collFail_memWf, Run.MemWf, ResMemWf]
theorem closeHalf_memWf (s : State) (a0) (a1) (a2) (a3) (h : MemWf s) : MemWf (closeHalf s a0 a1 a2 a3) := by
  unfold closeHalf
  grind [failColls_memWf, failFrames_memWf, modFab_memWf, setSession_memWf]
theorem reopen_memWf (s : State) (a0) (h : MemWf s) : MemWf (reopen s a0) := by
  unfold reopen
  grind [openHalf_memWf]
theorem ackOne_memWf (s : State) (a0) (h : MemWf s) : MemWf (ackOne s a0) := by
  unfold ackOne
  grind [modOp_memWf, opDone_memWf]
theorem ackEffect_memWf (s : State) (a0) (h : MemWf s) : MemWf (ackEffect s a0) := by
  unfold ackEffect
  dsimp only [Run.MemWf, FabRun.MemWf, ResMemWf]
  repeat' first
    | with_reducible assumption
    | split
    | with_reducible refine foldl_memWf (fun _ _ _ => ?_) _ ?_
    | with_reducible apply ackOne_memWf
    | with_reducible apply drawFree_memWf
    | with_reducible apply modFab_memWf
    | with_reducible apply modSession_memWf
theorem execAck_memWf (a0) (s : State) (h : MemWf s) : ResMemWf (execAck a0 s) := by
  unfold execAck
  grind [ackEffect_memWf, recvCtl_memWf, Run.MemWf, FabRun.MemWf, ResMemWf]
theorem resendFrom_memWf (s : State) (a0) (a1) (a2) (a3) (h : MemWf s) : MemWf (resendFrom s a0 a1 a2 a3) := by
  unfold resendFrom
  grind [modFab_memWf]
theorem resendOrBreak_memWf (s : State) (a0) (a1) (a2) (h : MemWf s) : MemWf (resendOrBreak s a0 a1 a2) := by
  unfold resendOrBreak
  grind [closeHalf_memWf, modSession_memWf, resendFrom_memWf]
theorem nakEffect_memWf (s : State) (a0) (h : MemWf s) : MemWf (nakEffect s a0) := by
  unfold nakEffect
  grind [resendOrBreak_memWf]
theorem execNak_memWf (a0) (s : State) (h : MemWf s) : ResMemWf (execNak a0 s) := by
  unfold execNak
  grind [nakEffect_memWf, recvCtl_memWf, Run.MemWf, FabRun.MemWf, ResMemWf]
theorem retransmitTimeout_memWf (s : State) (a0) (a1) (h : MemWf s) : MemWf (retransmitTimeout s a0 a1) := by
  unfold retransmitTimeout
  grind [resendOrBreak_memWf]
theorem execRetransmitTimeout_memWf (a0) (a1) (s : State) (h : MemWf s) : ResMemWf (execRetransmitTimeout a0 a1 s) := by
  unfold execRetransmitTimeout
  grind [retransmitTimeout_memWf, Run.MemWf, FabRun.MemWf, ResMemWf]
theorem ackTimer_memWf (s : State) (a0) (a1) (h : MemWf s) : MemWf (ackTimer s a0 a1) := by
  unfold ackTimer
  grind [sendAck_memWf]
theorem execAckTimer_memWf (a0) (a1) (s : State) (h : MemWf s) : ResMemWf (execAckTimer a0 a1 s) := by
  unfold execAckTimer
  grind [ackTimer_memWf, Run.MemWf, FabRun.MemWf, ResMemWf]
theorem openRetry_memWf (s : State) (a0) (h : MemWf s) : MemWf (openRetry s a0) := by
  unfold openRetry
  grind [closeHalf_memWf, enqueue_memWf, modSession_memWf]
theorem execOpenRetry_memWf (a0) (s : State) (h : MemWf s) : ResMemWf (execOpenRetry a0 s) := by
  unfold execOpenRetry
  grind [openRetry_memWf, Run.MemWf, FabRun.MemWf, ResMemWf]
theorem openEffect_memWf (s : State) (a0) (h : MemWf s) : MemWf (openEffect s a0) := by
  unfold openEffect
  grind [closeHalf_memWf, enqueue_memWf, modSession_memWf, reopen_memWf, setSession_memWf]
theorem execOpen_memWf (a0) (s : State) (h : MemWf s) : ResMemWf (execOpen a0 s) := by
  unfold execOpen
  grind [openEffect_memWf, recvCtl_memWf, Run.MemWf, FabRun.MemWf, ResMemWf]
theorem openAckEffect_memWf (s : State) (a0) (h : MemWf s) : MemWf (openAckEffect s a0) := by
  unfold openAckEffect
  grind [modSession_memWf]
theorem execOpenAck_memWf (a0) (s : State) (h : MemWf s) : ResMemWf (execOpenAck a0 s) := by
  unfold execOpenAck
  grind [openAckEffect_memWf, recvCtl_memWf, Run.MemWf, FabRun.MemWf, ResMemWf]
theorem putCrates_memWf (a0) (a1) (a2) (a3) (a4) (a5) (a6) (a7) (s : State) (h : MemWf s) : (putCrates a0 a1 a2 a3 a4 a5 a6 a7 s).MemWf := by
  induction a5 generalizing a6 a7 s with
  | zero => exact h
  | succ n ih =>
    unfold putCrates
    grind [moveRead_memWf, modOp_memWf, sendCtx_memWf, FabRun.MemWf, Run.MemWf]
theorem putSlots_memWf (a0) (a1) (a2) (a3) (a4) (a5) (a6) (s : State) (h : MemWf s) : (putSlots a0 a1 a2 a3 a4 a5 a6 s).MemWf := by
  induction a5 generalizing a6 s with
  | zero => exact h
  | succ n ih =>
    unfold putSlots
    dsimp only
    split
    · exact h
    split
    · exact h
    generalize hr : putCrates _ _ _ _ _ _ _ _ _ = r
    have hp : r.MemWf := hr ▸ putCrates_memWf _ _ _ _ _ _ _ _ s h
    split
    · grind [→ implicitRelease_ok_memWf, → implicitRelease_err_memWf, FabRun.MemWf, Run.MemWf]
    · exact hp
theorem handedOver_memWf (s : State) (a0) (a1) (a2) (h : MemWf s) : MemWf (handedOver s a0 a1 a2) := by
  unfold handedOver
  grind [modOp_memWf, modTransfer_memWf, opDone_memWf]
theorem fabricGo_memWf (s : State) (a0) (a1) (a2) (a3) (a4) (a5) (h : MemWf s) : (fabricGo s a0 a1 a2 a3 a4 a5).MemWf := by
  unfold fabricGo
  grind [handedOver_memWf, modOp_memWf, putSlots_memWf, sendCtx_memWf, Run.MemWf, FabRun.MemWf, ResMemWf]
theorem bodyPfabric_memWf (s : State) (a0) (a1) (a2) (h : MemWf s) : (bodyPfabric s a0 a1 a2).MemWf := by
  unfold bodyPfabric
  grind [addTransfer_memWf, fabricGo_memWf, failOp_memWf, implicitWait_memWf, modTransfer_memWf, newOp_memWf, Run.MemWf, FabRun.MemWf, ResMemWf]
theorem execPfabric_memWf (a0) (a1) (s : State) (h : MemWf s) : ResMemWf (execPfabric a0 a1 s) := by
  unfold execPfabric
  grind [bodyPfabric_memWf, issue_memWf, Run.MemWf, FabRun.MemWf, ResMemWf]
theorem markedComplete_memWf (s : State) (a0) (a1) (a2) (h : MemWf s) : MemWf (markedComplete s a0 a1 a2) := by
  unfold markedComplete
  grind [dropOp_memWf, dropTransfer_memWf, fabricGo_memWf, failOp_memWf, modTransfer_memWf, scheduleBroken_memWf, stationFault_memWf, transferComplete_memWf, Run.MemWf, FabRun.MemWf, ResMemWf]
theorem execMarkedTransferComplete_memWf (a0) (a1) (a2) (s : State) (h : MemWf s) : ResMemWf (execMarkedTransferComplete a0 a1 a2 s) := by
  unfold execMarkedTransferComplete
  grind [markedComplete_memWf, Run.MemWf, FabRun.MemWf, ResMemWf]
theorem portDown_memWf (s : State) (a0) (a1) (a2) (h : MemWf s) : MemWf (portDown s a0 a1 a2) := by
  unfold portDown
  repeat' first
    | with_reducible assumption
    | split
    | with_reducible refine foldl_memWf (fun _ _ _ => ?_) _ ?_
    | with_reducible apply modFab_memWf
    | with_reducible apply modPort_memWf
    | with_reducible apply resendFrom_memWf
    | dsimp only
theorem portEnable_memWf (s : State) (a0) (a1) (h : MemWf s) : MemWf (portEnable s a0 a1) := by
  unfold portEnable
  repeat' first
    | with_reducible assumption
    | with_reducible refine foldl_memWf (fun _ _ _ => ?_) _ ?_
    | with_reducible apply modPort_memWf
    | dsimp only
    | split
theorem execPortEnable_memWf (a0) (a1) (s : State) (h : MemWf s) : ResMemWf (execPortEnable a0 a1 s) := by
  unfold execPortEnable
  repeat' first | with_reducible assumption | with_reducible refine foldl_memWf (fun _ _ _ => ?_) _ ?_ | with_reducible refine fromHost_memWf ‹_› ?_ | split
  all_goals grind [portEnable_memWf, Run.MemWf, ResMemWf]
theorem portDisable_memWf (s : State) (a0) (a1) (h : MemWf s) : MemWf (portDisable s a0 a1) := by
  unfold portDisable
  repeat' first
    | with_reducible assumption
    | with_reducible refine foldl_memWf (fun _ _ _ => ?_) _ ?_
    | with_reducible apply modPort_memWf
    | with_reducible apply portDown_memWf
    | dsimp only
    | split
theorem execPortDisable_memWf (a0) (a1) (s : State) (h : MemWf s) : ResMemWf (execPortDisable a0 a1 s) := by
  unfold execPortDisable
  repeat' first | with_reducible assumption | with_reducible refine foldl_memWf (fun _ _ _ => ?_) _ ?_ | with_reducible refine fromHost_memWf ‹_› ?_ | split
  all_goals grind [portDisable_memWf, Run.MemWf, ResMemWf]
theorem discoverySend_memWf (s : State) (a0) (h : MemWf s) : MemWf (discoverySend s a0) := by
  unfold discoverySend
  grind [enqueue_memWf]
theorem execDiscoverySend_memWf (a0) (s : State) (h : MemWf s) : ResMemWf (execDiscoverySend a0 s) := by
  unfold execDiscoverySend
  grind [discoverySend_memWf, Run.MemWf, FabRun.MemWf, ResMemWf]
theorem discoveryEffect_setRx_memWf (s : State) (a0) (h : MemWf s) : MemWf (discoveryEffect.setRx s a0) := by
  unfold discoveryEffect.setRx
  grind [modSession_memWf]
theorem discoveryEffect_memWf (a0) (s : State) (a1) (h : MemWf s) : MemWf (discoveryEffect a0 s a1) := by
  unfold discoveryEffect
  grind [closeHalf_memWf, discoveryEffect_setRx_memWf, modPort_memWf, raiseUnit_memWf, reopen_memWf]
theorem execDiscovery_memWf (a0) (s : State) (h : MemWf s) : ResMemWf (execDiscovery a0 s) := by
  unfold execDiscovery
  grind [discoveryEffect_memWf, recvCtl_memWf, Run.MemWf, FabRun.MemWf, ResMemWf]
theorem execDiscoveryTimeout_memWf (a0) (s : State) (h : MemWf s) : ResMemWf (execDiscoveryTimeout a0 s) := by
  unfold execDiscoveryTimeout
  grind [portDown_memWf, Run.MemWf, FabRun.MemWf, ResMemWf]
theorem execPortLinkLost_memWf (a0) (s : State) (h : MemWf s) : ResMemWf (execPortLinkLost a0 s) := by
  unfold execPortLinkLost
  grind [portDown_memWf, Run.MemWf, FabRun.MemWf, ResMemWf]
theorem portTrainingDone_memWf (s : State) (a0) (a1) (a2) (a3) (h : MemWf s) : MemWf (portTrainingDone s a0 a1 a2 a3) := by
  have hl : ∀ l : List Nat, MemWf (l.foldl (fun s l => logLane s (portLaneUnit a0 l) 0 2 false) s) :=
    fun l => foldl_memWf (fun s _ hs => logLane_memWf _ _ _ _ _ hs) l h
  unfold portTrainingDone
  dsimp only
  split
  · exact h
  split
  · exact modPort_memWf _ _ _ (modPort_memWf _ _ _ (hl _))
  · exact discoverySend_memWf _ _ (modPort_memWf _ _ _ (modPort_memWf _ _ _ (hl _)))
theorem execPortTrainingDone_memWf (a0) (a1) (a2) (a3) (s : State) (h : MemWf s) : ResMemWf (execPortTrainingDone a0 a1 a2 a3 s) := by
  unfold execPortTrainingDone
  grind [portTrainingDone_memWf, Run.MemWf, FabRun.MemWf, ResMemWf]
theorem execPortTrainingRetry_memWf (a0) (s : State) (h : MemWf s) : ResMemWf (execPortTrainingRetry a0 s) := by
  unfold execPortTrainingRetry
  grind [modPort_memWf, Run.MemWf, FabRun.MemWf, ResMemWf]
theorem portOut_memWf (s : State) (a0) (h : MemWf s) : MemWf (portOut s a0) := by
  unfold portOut
  grind [modPort_memWf, portDown_memWf, setStanding_memWf]
theorem fabricLaneRetire_memWf (s : State) (a0) (a1) (h : MemWf s) : MemWf (fabricLaneRetire s a0 a1) := by
  unfold fabricLaneRetire
  grind [logLane_memWf, modPort_memWf, portDown_memWf, portOut_memWf]
theorem execFabricLaneRetire_memWf (a0) (a1) (s : State) (h : MemWf s) : ResMemWf (execFabricLaneRetire a0 a1 s) := by
  unfold execFabricLaneRetire
  grind [fabricLaneRetire_memWf, Run.MemWf, FabRun.MemWf, ResMemWf]
theorem portBackpressure_memWf (s : State) (a0) (a1) (h : MemWf s) : MemWf (portBackpressure s a0 a1) := by
  unfold portBackpressure
  grind [modPort_memWf, raiseUnit_memWf]
theorem execPortBackpressure_memWf (a0) (a1) (s : State) (h : MemWf s) : ResMemWf (execPortBackpressure a0 a1 s) := by
  unfold execPortBackpressure
  grind [portBackpressure_memWf, Run.MemWf, FabRun.MemWf, ResMemWf]
theorem timeExchange_memWf (s : State) (a0) (a1) (h : MemWf s) : MemWf (timeExchange s a0 a1) := by
  unfold timeExchange
  grind [enqueue_memWf, modPort_memWf]
theorem execTimeExchange_memWf (a0) (a1) (s : State) (h : MemWf s) : ResMemWf (execTimeExchange a0 a1 s) := by
  unfold execTimeExchange
  grind [timeExchange_memWf, Run.MemWf, FabRun.MemWf, ResMemWf]
theorem servoRate_memWf (s : State) (a0) (h : MemWf s) : MemWf (servoRate s a0).1 := by
  unfold servoRate
  grind [drawFree_memWf]
theorem timeSync_memWf (s : State) (a0) (a1) (a2) (h : MemWf s) : MemWf (timeSync s a0 a1 a2) := by
  unfold timeSync
  grind [modFab_memWf, servoRate_memWf]
theorem timeEffect_memWf (a0) (a1) (a2) (s : State) (a3) (h : MemWf s) : MemWf (timeEffect a0 a1 a2 s a3) := by
  unfold timeEffect
  grind [enqueue_memWf, modPort_memWf, timeSync_memWf]
theorem execTime_memWf (a0) (a1) (a2) (s : State) (h : MemWf s) : ResMemWf (execTime a0 a1 a2 s) := by
  unfold execTime
  grind [recvCtl_memWf, timeEffect_memWf, Run.MemWf, FabRun.MemWf, ResMemWf]
theorem marginPort_memWf (s : State) (a0) (a1) (a2) (a3) (h : MemWf s) : MemWf (marginPort s a0 a1 a2 a3) := by
  unfold marginPort
  grind [endCmd_memWf, modMem_mem, modPort_memWf, portDown_memWf, portOut_memWf, refuseCmd_memWf, wf_fwCrate, wf_preserve]
theorem marginSweep_memWf (s : State) (a0) (a1) (a2) (h : MemWf s) : MemWf (marginSweep s a0 a1 a2) := by
  unfold marginSweep
  grind [marginMemory_memWf, marginPort_memWf]
theorem execMarginSweep_memWf (a0) (a1) (a2) (s : State) (h : MemWf s) : ResMemWf (execMarginSweep a0 a1 a2 s) := by
  unfold execMarginSweep
  grind [marginSweep_memWf, Run.MemWf, FabRun.MemWf, ResMemWf]
theorem marginStop_memWf (s : State) (a0) (h : MemWf s) : MemWf (marginStop s a0) := by
  unfold marginStop
  grind [endCmd_memWf, modChan_memWf, modPort_memWf, refuseCmd_memWf]
theorem execMarginStop_memWf (a0) (s : State) (h : MemWf s) : ResMemWf (execMarginStop a0 s) := by
  unfold execMarginStop
  grind [marginStop_memWf, Run.MemWf, FabRun.MemWf, ResMemWf]

/-! ### steps, replays and takeovers -/

theorem modStep_memWf (s : State) (a0) (h : MemWf s) : MemWf (modStep s a0) := by
  unfold modStep
  grind
theorem writeDirBase_memWf (s : State) (a0) (h : MemWf s) : MemWf (writeDirBase s a0) := by
  unfold writeDirBase
  grind [modStep_memWf]
theorem stepDirEnable_memWf (s : State) (a0) (h : MemWf s) : MemWf (stepDirEnable s a0) := by
  unfold stepDirEnable
  grind [modStep_memWf, readVerify_memWf, writeDirBase_memWf]
theorem execStepDirEnable_memWf (a0) (s : State) (h : MemWf s) : ResMemWf (execStepDirEnable a0 s) := by
  unfold execStepDirEnable
  repeat' first | with_reducible assumption | with_reducible refine foldl_memWf (fun _ _ _ => ?_) _ ?_ | with_reducible refine fromHost_memWf ‹_› ?_ | split
  all_goals grind [stepDirEnable_memWf, Run.MemWf, ResMemWf]
theorem stepDirDisable_memWf (s : State) (a0) (h : MemWf s) : MemWf (stepDirDisable s a0) := by
  unfold stepDirDisable
  repeat' first
    | assumption
    | split
theorem execStepDirDisable_memWf (a0) (s : State) (h : MemWf s) : ResMemWf (execStepDirDisable a0 s) := by
  unfold execStepDirDisable
  repeat' first | with_reducible assumption | with_reducible refine foldl_memWf (fun _ _ _ => ?_) _ ?_ | with_reducible refine fromHost_memWf ‹_› ?_ | split
  all_goals grind [stepDirDisable_memWf, Run.MemWf, ResMemWf]
theorem fwTag_memWf (s : State) (a0) (h : MemWf s) : MemWf (fwTag s a0).1 := by
  unfold fwTag
  assumption
theorem sendPuts_memWf (s : State) (a0) (a1) (a2) (a3) (h : MemWf s) : MemWf (sendPuts s a0 a1 a2 a3) := by
  unfold sendPuts
  refine foldl_fst_memWf ?_ _ (newOp_memWf _ _ h)
  grind [sendCtx_memWf, failOp_memWf]
theorem tagAll_memWf (a0) (s : State) (h : MemWf s) : MemWf (tagAll a0 s).1 := by
  induction a0 generalizing s with
  | nil => exact h
  | cons c cs ih =>
    obtain ⟨c, p⟩ := c
    unfold tagAll
    grind [fwTag_memWf]
theorem sendStream_memWf (s : State) (a0) (a1) (a2) (a3) (a4) (h : MemWf s) : MemWf (sendStream s a0 a1 a2 a3 a4) := by
  unfold sendStream
  grind [sendPuts_memWf, tagAll_memWf]
theorem sendDelta_memWf (s : State) (a0) (h : MemWf s) : MemWf (sendDelta s a0) := by
  unfold sendDelta
  repeat' first | with_reducible assumption | with_reducible refine foldl_memWf (fun _ _ _ => ?_) _ ?_  | split
  all_goals grind [sendStream_memWf, Run.MemWf, ResMemWf]
theorem sendSync_memWf (s : State) (h : MemWf s) : MemWf (sendSync s) := by
  unfold sendSync
  repeat' first | with_reducible assumption | with_reducible refine foldl_memWf (fun _ _ _ => ?_) _ ?_  | split
  all_goals grind [sendStream_memWf, Run.MemWf, ResMemWf]
theorem sendInputs_memWf (s : State) (a0) (h : MemWf s) : MemWf (sendInputs s a0) := by
  unfold sendInputs
  repeat' first | with_reducible assumption | with_reducible refine foldl_memWf (fun _ _ _ => ?_) _ ?_  | split
  all_goals grind [sendPuts_memWf, Run.MemWf, ResMemWf]
theorem applyEntries_memWf (s : State) (a0) (a1) (h : MemWf s) : MemWf (applyEntries s a0 a1) := by
  unfold applyEntries
  repeat' first
    | with_reducible assumption
    | with_reducible refine foldl_memWf (fun _ _ _ => ?_) _ ?_
    | with_reducible apply wf_rawCrate
    | rw [setMem_mem]
    | dsimp only
    | split
  all_goals grind [wf_rawCrate, setMem_mem, Memory.wf, Run.MemWf]
theorem modMirror_memWf (s : State) (a0) (a1) (h : MemWf s) : MemWf (modMirror s a0 a1) := by
  unfold modMirror
  grind [modStep_memWf]
theorem mirrorHeader_memWf (s : State) (a0) (a1) (a2) (h : MemWf s) : MemWf (mirrorHeader s a0 a1 a2) := by
  unfold mirrorHeader
  grind [modMem_mem, wf_fwCrate]
theorem applyToMirror_memWf (s : State) (a0) (a1) (a2) (h : MemWf s) : MemWf (applyToMirror s a0 a1 a2) := by
  unfold applyToMirror
  grind [applyEntries_memWf, mirrorHeader_memWf, modMirror_memWf, raiseStep_memWf]
theorem streamArrived_memWf (s : State) (a0) (h : MemWf s) : MemWf (streamArrived s a0) := by
  unfold streamArrived
  grind [applyToMirror_memWf, modMirror_memWf, sendCtx_memWf, sendError_memWf]
theorem applyPending_memWf (s : State) (a0) (h : MemWf s) : MemWf (applyPending s a0) := by
  unfold applyPending
  grind [applyToMirror_memWf, modMirror_memWf]
theorem streamAcked_memWf (s : State) (a0) (h : MemWf s) : MemWf (streamAcked s a0) := by
  unfold streamAcked
  grind [modRec_memWf, opDone_memWf]
theorem streamError_memWf (s : State) (a0) (a1) (a2) (a3) (a4) (h : MemWf s) : MemWf (streamError s a0 a1 a2 a3 a4) := by
  unfold streamError
  grind [chargeStep_memWf, dropOp_memWf, failOp_memWf, modRec_memWf, sendStream_memWf]
theorem stepEnd_memWf (s : State) (a0) (a1) (a2) (h : MemWf s) : MemWf (stepEnd s a0 a1 a2) := by
  unfold stepEnd
  grind [endCmd_memWf, modStep_memWf]
theorem recState_memWf (s : State) (a0) (a1) (h : MemWf s) : MemWf (recState s a0 a1) := by
  unfold recState
  grind [modRec_memWf, setMem_mem, wf_patchFw]
theorem endOpen_memWf (s : State) (h : MemWf s) : MemWf (endOpen s) := by
  unfold endOpen
  repeat' first
    | with_reducible assumption
    | with_reducible refine foldl_memWf (fun _ _ _ => ?_) _ ?_
    | rw [modMem_mem]
    | with_reducible apply modRec_memWf
    | with_reducible apply wf_patchFw
    | with_reducible apply recState_memWf
    | rw [setMem_mem]
    | dsimp only
    | split
  all_goals grind [modMem_mem, modRec_memWf, wf_patchFw, recState_memWf, setMem_mem, Memory.wf, Run.MemWf]
theorem sealStep_memWf (s : State) (a0) (h : MemWf s) : MemWf (sealStep s a0) := by
  unfold sealStep
  grind [applyPending_memWf, modStep_memWf, setMem_mem, wf_patchFw]
theorem openStep_memWf (s : State) (a0) (h : MemWf s) : MemWf (openStep s a0) := by
  unfold openStep
  exact modStep_memWf _ _ (wf_fwCrate _ _ _ (wf_foldl (fun _ _ hm => wf_fwCrate _ _ _ hm) _ h))
theorem stepBoundary_memWf (s : State) (h : MemWf s) : MemWf (stepBoundary s) := by
  unfold stepBoundary
  repeat' first | with_reducible assumption | with_reducible refine foldl_memWf (fun _ _ _ => ?_) _ ?_  | split
  all_goals grind [coreBoundary_memWf, Run.MemWf, ResMemWf]
theorem stepBegin_memWf (s : State) (a0) (h : MemWf s) : MemWf (stepBegin s a0) := by
  unfold stepBegin
  split
  · exact h
  extract_lets n old ans prev s1 s2 s3 s4 s5 s6 s7
  have h1 : MemWf s1 := ite_memWf (endOpen_memWf _ h) h
  clear_value s1 old ans
  have h2 : MemWf s2 := by
    simp only [s2]
    split
    · exact sealStep_memWf _ _ h1
    · exact h1
  clear_value s2
  have h4 : MemWf s4 := openStep_memWf _ _ (modStep_memWf _ _ h2)
  clear_value s4
  have h5 : MemWf s5 := by
    simp only [s5]
    split
    · exact sendInputs_memWf _ _ h4
    · exact h4
  clear_value s5
  have h6 : MemWf s6 := by
    simp only [s6]
    split
    · exact sendDelta_memWf _ _ h5
    · exact h5
  have h7 : MemWf s7 := ite_memWf (modStep_memWf _ _ (sendSync_memWf _ h6)) h6
  have hend : MemWf (endCmd (stepBoundary s7) a0 {}) := endCmd_memWf _ _ _ (stepBoundary_memWf _ h7)
  clear_value s7
  have hfail : ∀ (r : StepRec) (e : Nat), MemWf (stepEnd (if e = 0x82 then recState s1 r 4 else s1) a0 3 e) :=
    fun r e => stepEnd_memWf _ _ _ _ (ite_memWf (recState_memWf _ _ _ h1) h1)
  refine ite_memWf (stepEnd_memWf _ _ _ _ h) (ite_memWf (stepEnd_memWf _ _ _ _ h) (ite_memWf (stepEnd_memWf _ _ _ _ h)
    (ite_memWf (stepEnd_memWf _ _ _ _ h) (ite_memWf h ?_))))
  split
  · exact hfail _ _
  · exact hend
theorem execStepBegin_memWf (a0) (s : State) (h : MemWf s) : ResMemWf (execStepBegin a0 s) := by
  unfold execStepBegin
  grind [stepBegin_memWf, Run.MemWf, FabRun.MemWf, ResMemWf]
theorem stepConfig_memWf (s : State) (a0) (h : MemWf s) : MemWf (stepConfig s a0) := by
  unfold stepConfig
  grind [endCmd_memWf, modStep_memWf, stepEnd_memWf]
theorem execStepConfig_memWf (a0) (s : State) (h : MemWf s) : ResMemWf (execStepConfig a0 s) := by
  unfold execStepConfig
  grind [stepConfig_memWf, Run.MemWf, FabRun.MemWf, ResMemWf]
theorem cancelLocals_memWf (s : State) (a0) (a1) (h : MemWf s) : MemWf (cancelLocals s a0 a1) := by
  unfold cancelLocals
  grind
theorem restoreRec_memWf (s : State) (a0) (h : MemWf s) : MemWf (restoreRec s a0) := by
  unfold restoreRec
  repeat' first
    | with_reducible assumption
    | with_reducible refine foldl_memWf (fun _ _ _ => ?_) _ ?_
    | with_reducible apply wf_rawCrate
    | rw [setMem_mem]
    | dsimp only
    | split
  all_goals grind [wf_rawCrate, setMem_mem, Memory.wf, Run.MemWf]
theorem replayFinish_memWf (s : State) (a0) (a1) (h : MemWf s) : MemWf (replayFinish s a0 a1) := by
  unfold replayFinish
  extract_lets cg s1 s2 later s3 slot d s4 s5 s6 s7 s8 s9
  have h1 : MemWf s1 := h
  have h2 : MemWf s2 := foldl_memWf (fun _ _ hs => restoreRec_memWf _ _ hs) _ h1
  have h3 : MemWf s3 := foldl_memWf (fun _ _ hs => wf_patchFw _ _ _ _ hs) _ h2
  have h4 : MemWf s4 := wf_foldl (fun _ _ hm => wf_fwCrate _ _ _ hm) _ h3
  have h5 : MemWf s5 := wf_patchFw _ _ _ _ (wf_patchFw _ _ _ _ h4)
  have h6 : MemWf s6 := h5
  have h7 : MemWf s7 := modStep_memWf _ _ h6
  have h8 : MemWf s8 := h7
  have h9 : MemWf s9 := by
    refine foldl_memWf (fun s e hs => foldl_memWf (fun s i hs => ?_) _ hs) _ h8
    split
    rename_i hx
    have ht := tagAll_memWf [(pendAt s e.1 (a1 + i) + 1 + d.inputs, zeroPayload)] s hs
    rw [hx] at ht
    exact sendPuts_memWf _ _ _ _ _ ht
  exact endCmd_memWf _ _ _ h9
theorem stepReplay_memWf (s : State) (a0) (h : MemWf s) : MemWf (stepReplay s a0) := by
  unfold stepReplay
  grind [cancelLocals_memWf, modStep_memWf, replayFinish_memWf, stepEnd_memWf]
theorem execStepReplay_memWf (a0) (s : State) (h : MemWf s) : ResMemWf (execStepReplay a0 s) := by
  unfold execStepReplay
  grind [stepReplay_memWf, Run.MemWf, FabRun.MemWf, ResMemWf]
theorem replayDrainTimeout_memWf (s : State) (h : MemWf s) : MemWf (replayDrainTimeout s) := by
  unfold replayDrainTimeout
  split
  · exact replayFinish_memWf _ _ _ (foldl_memWf (fun _ _ hs => raiseColl_memWf _ _ _ _ _ _ _ hs) _ h)
  · exact h
theorem execReplayDrainTimeout_memWf (s : State) (h : MemWf s) : ResMemWf (execReplayDrainTimeout s) := by
  unfold execReplayDrainTimeout
  grind [replayDrainTimeout_memWf, Run.MemWf, FabRun.MemWf, ResMemWf]
theorem crossWeigh_memWf (s : State) (a0) (h : MemWf s) : MemWf (crossWeigh s a0) := by
  unfold crossWeigh
  grind [modStep_memWf, stepEnd_memWf]
theorem execCrossWeigh_memWf (a0) (s : State) (h : MemWf s) : ResMemWf (execCrossWeigh a0 s) := by
  unfold execCrossWeigh
  grind [crossWeigh_memWf, Run.MemWf, FabRun.MemWf, ResMemWf]
theorem testOwnCores_memWf (s : State) (a0) (h : MemWf s) : MemWf (testOwnCores s a0) := by
  unfold testOwnCores
  repeat' first | with_reducible assumption | with_reducible refine foldl_memWf (fun _ _ _ => ?_) _ ?_  | split
  all_goals grind [addDue_memWf, setStanding_memWf, Run.MemWf, ResMemWf]
theorem crossWeighOutcome_memWf (s : State) (a0) (a1) (a2) (a3) (h : MemWf s) : MemWf (crossWeighOutcome s a0 a1 a2 a3) := by
  unfold crossWeighOutcome
  grind [chargeStep_memWf, endCmd_memWf, logRec_memWf, modStep_memWf, raiseUnit_memWf, testOwnCores_memWf]
theorem execCrossWeighOutcome_memWf (a0) (a1) (a2) (a3) (s : State) (h : MemWf s) : ResMemWf (execCrossWeighOutcome a0 a1 a2 a3 s) := by
  unfold execCrossWeighOutcome
  grind [crossWeighOutcome_memWf, Run.MemWf, FabRun.MemWf, ResMemWf]
theorem modCkpt_memWf (s : State) (a0) (h : MemWf s) : MemWf (modCkpt s a0) := by
  unfold modCkpt
  grind [modStep_memWf]
theorem stageCkpt_memWf (s : State) (a0) (a1) (h : MemWf s) : MemWf (stageCkpt s a0 a1) := by
  unfold stageCkpt
  grind [sendPuts_memWf, tagAll_memWf]
theorem checkpoint_memWf (s : State) (a0) (h : MemWf s) : MemWf (checkpoint s a0) := by
  unfold checkpoint
  grind [endCmd_memWf, modCkpt_memWf, modStep_memWf, stageCkpt_memWf, stepEnd_memWf]
theorem execCheckpoint_memWf (a0) (s : State) (h : MemWf s) : ResMemWf (execCheckpoint a0 s) := by
  unfold execCheckpoint
  grind [checkpoint_memWf, Run.MemWf, FabRun.MemWf, ResMemWf]
theorem checkpointCommit_memWf (s : State) (a0) (h : MemWf s) : MemWf (checkpointCommit s a0) := by
  unfold checkpointCommit
  grind [endCmd_memWf, modCkpt_memWf, stepEnd_memWf]
theorem execCheckpointCommit_memWf (a0) (s : State) (h : MemWf s) : ResMemWf (execCheckpointCommit a0 s) := by
  unfold execCheckpointCommit
  grind [checkpointCommit_memWf, Run.MemWf, FabRun.MemWf, ResMemWf]
theorem takeReads_memWf (a0) (a1) (a2) (a3) (a4) (a5) (s : State) (h : MemWf s) : MemWf (takeReads a0 a1 a2 a3 a4 a5 s) := by
  induction a2 generalizing a3 a4 a5 s with
  | zero => exact h
  | succ n ih =>
    unfold takeReads
    dsimp only
    split
    · exact h
    · refine ih _ _ _ _ ?_
      grind [newOp_memWf, sendCtx_memWf, failOp_memWf]
theorem askTakeover_memWf (s : State) (a0) (h : MemWf s) : MemWf (askTakeover s a0) := by
  unfold askTakeover
  extract_lets d cg chip read s1
  have hr : ∀ {s} a b c, MemWf s → MemWf (read s a b c) := fun a b c hs => takeReads_memWf _ _ _ _ _ _ _ hs
  have h1 : MemWf s1 := modStep_memWf _ _ h
  clear_value read s1
  split
  · exact foldl_memWf (fun s a hs => hr _ _ _ (hr _ _ _ hs)) _ (foldl_memWf (fun s a hs => hr _ _ _ hs) _ h1)
  · exact hr _ _ _ (foldl_fst_memWf (fun _ _ hs => hr _ _ _ hs) _ (hr _ _ _ h1))
theorem remoteRecs_memWf (s : State) (a0) (h : MemWf s) : MemWf (remoteRecs s a0) := by
  unfold remoteRecs
  refine foldl_memWf (fun s e hs => ?_) _ h
  dsimp only
  split
  · exact hs
  · exact modStep_memWf _ _ (wf_fwCrate _ _ _ (foldl_memWf (fun s i hs => wf_rawCrate _ _ _ _ hs) _ hs))
theorem takeFinish_memWf (s : State) (a0) (h : MemWf s) : MemWf (takeFinish s a0) := by
  unfold takeFinish
  extract_lets d n done hs steps mh mstep ds s1 want last ps
  have hd : ∀ {s} n, MemWf s → MemWf (done s n) := fun n hs => endCmd_memWf _ _ _ (modStep_memWf _ _ hs)
  have h1 : MemWf s1 := foldl_memWf (fun s e hs => applyEntries_memWf _ _ _ hs) _ h
  clear_value done s1
  split
  · exact hd _ (remoteRecs_memWf _ _ h)
  split
  · exact stepEnd_memWf _ _ _ _ (modStep_memWf _ _ h1)
  · exact hd _ (remoteRecs_memWf _ _ h1)
theorem takeOther_memWf (s : State) (a0) (h : MemWf s) : MemWf (takeOther s a0) := by
  unfold takeOther
  repeat' first
    | with_reducible assumption
    | split
    | with_reducible refine foldl_memWf (fun _ _ _ => ?_) _ ?_
    | with_reducible apply askTakeover_memWf
    | with_reducible apply dropOp_memWf
    | with_reducible apply modStep_memWf
    | with_reducible apply stepEnd_memWf
    | with_reducible apply takeover_memWf
    | dsimp only
theorem takeSubst_memWf (s : State) (a0) (h : MemWf s) : MemWf (takeSubst s a0) := by
  unfold takeSubst
  grind
theorem takeover_memWf (s : State) (a0) (a1) (h : MemWf s) : MemWf (takeover s a0 a1) := by
  unfold takeover
  grind [askTakeover_memWf, modStep_memWf, stepEnd_memWf, takeFinish_memWf, takeOther_memWf, takeSubst_memWf]
theorem execTakeover_memWf (a0) (a1) (s : State) (h : MemWf s) : ResMemWf (execTakeover a0 a1 s) := by
  unfold execTakeover
  grind [takeover_memWf, Run.MemWf, FabRun.MemWf, ResMemWf]
theorem holderTimeout_memWf (s : State) (h : MemWf s) : MemWf (holderTimeout s) := by
  unfold holderTimeout
  grind [takeOther_memWf]
theorem execHolderTimeout_memWf (s : State) (h : MemWf s) : ResMemWf (execHolderTimeout s) := by
  unfold execHolderTimeout
  grind [holderTimeout_memWf, Run.MemWf, FabRun.MemWf, ResMemWf]
end Sys2Proof.Machine
end

section
/-!
The canonical form of memory is kept, operation by operation.
-/
namespace Sys2Proof.Machine

/-! ### teardown -/

theorem endHeld_memWf (a0) (s : State) (a1) (h : MemWf s) : MemWf (endHeld a0 s a1) := by
  unfold endHeld
  grind [dropRun_memWf, ringBell_memWf, setEnded_memWf, stopLaunch_memWf]
theorem dropFabric_memWf (s : State) (a0) (a1) (h : MemWf s) : MemWf (dropFabric s a0 a1) := by
  unfold dropFabric
  grind [modFab_memWf]
theorem dropSteps_memWf (s : State) (h : MemWf s) : MemWf (dropSteps s) := by
  unfold dropSteps
  assumption
theorem sendRevoke_memWf (a0) (a1) (s : State) (a2) (h : MemWf s) : MemWf (sendRevoke a0 a1 s a2) := by
  unfold sendRevoke
  grind [modCtx_memWf, modFab_memWf, sendReply_memWf]
theorem beginTeardown_memWf (s : State) (a0) (a1) (a2) (h : MemWf s) : MemWf (beginTeardown s a0 a1 a2) := by
  unfold beginTeardown
  repeat' first
    | with_reducible assumption
    | with_reducible refine foldl_memWf (fun _ _ _ => ?_) _ ?_
    | with_reducible apply dropFabric_memWf
    | with_reducible apply dropSteps_memWf
    | with_reducible apply endHeld_memWf
    | with_reducible apply modCtx_memWf
    | with_reducible apply sendRevoke_memWf
    | dsimp only
    | split
theorem sendVacated_memWf (s : State) (h : MemWf s) : MemWf (sendVacated s) := by
  unfold sendVacated
  grind [emit_memWf]
theorem modMgmt_memWf (s : State) (a0) (h : MemWf s) : MemWf (modMgmt s a0) := by
  unfold modMgmt
  grind
theorem setAlert_memWf (s : State) (a0) (h : MemWf s) : MemWf (setAlert s a0) := by
  unfold setAlert
  grind [modMgmt_memWf]
theorem reportVacated_memWf (s : State) (h : MemWf s) : MemWf (reportVacated s) := by
  unfold reportVacated
  grind [modMgmt_memWf, raiseNotice_memWf, sendVacated_memWf, setAlert_memWf]
theorem failQueues_memWf (s : State) (a0) (h : MemWf s) : MemWf (failQueues s a0) := by
  unfold failQueues
  grind
theorem endLaunches_memWf (s : State) (a0) (h : MemWf s) : MemWf (endLaunches s a0) := by
  unfold endLaunches
  repeat' first | with_reducible assumption | with_reducible refine foldl_memWf (fun _ _ _ => ?_) _ ?_  | split
  all_goals grind [launchComplete_memWf, Run.MemWf, ResMemWf]
theorem closeSteps_memWf (s : State) (h : MemWf s) : MemWf (closeSteps s) := by
  unfold closeSteps
  grind [modStep_memWf]
theorem finishTeardown_memWf (s : State) (a0) (h : MemWf s) : MemWf (finishTeardown s a0) := by
  unfold finishTeardown
  extract_lets x s1 s2 s3 s4 s5 s6 vac s7 s8 hg s9 s10
  have h1 : MemWf s1 := endLaunches_memWf _ _ (cancelLocals_memWf _ _ _ h)
  have h2 : MemWf s2 := failQueues_memWf _ _ h1
  have h3 : MemWf s3 := foldl_memWf (fun _ _ hs => disableGroup_memWf _ _ hs) _ h2
  have h4 : MemWf s4 := h3
  have h5 : MemWf s5 := unbindRings_memWf _ _ h4
  have h6 : MemWf s6 := modFab_memWf _ _ h5
  have h7 : MemWf s7 := ite_memWf (closeSteps_memWf _ h6) h6
  clear_value s7
  have h8 : MemWf s8 := modCtx_memWf _ _ _ h7
  have h9 : MemWf s9 := h8
  have h10 : MemWf s10 := by
    simp only [s10]
    split
    · exact endCmd_memWf _ _ _ h9
    · exact h9
  exact ite_memWf (reportVacated_memWf _ h10) h10
theorem teardownComplete_memWf (s : State) (a0) (h : MemWf s) : MemWf (teardownComplete s a0) := by
  unfold teardownComplete
  grind [finishTeardown_memWf]
theorem execTeardownComplete_memWf (a0) (s : State) (h : MemWf s) : ResMemWf (execTeardownComplete a0 s) := by
  unfold execTeardownComplete
  grind [teardownComplete_memWf, Run.MemWf, FabRun.MemWf, ResMemWf]
theorem revokeTimeout_memWf (s : State) (a0) (h : MemWf s) : MemWf (revokeTimeout s a0) := by
  unfold revokeTimeout
  repeat' first
    | with_reducible assumption
    | split
    | with_reducible refine foldl_memWf (fun _ _ _ => ?_) _ ?_
    | with_reducible apply finishTeardown_memWf
    | with_reducible apply raiseColl_memWf
    | dsimp only
theorem execRevokeTimeout_memWf (a0) (s : State) (h : MemWf s) : ResMemWf (execRevokeTimeout a0 s) := by
  unfold execRevokeTimeout
  grind [revokeTimeout_memWf, Run.MemWf, FabRun.MemWf, ResMemWf]
theorem quarantineEnd_memWf (s : State) (a0) (h : MemWf s) : MemWf (quarantineEnd s a0) := by
  unfold quarantineEnd
  grind [modCtx_memWf]
theorem execQuarantineEnd_memWf (a0) (s : State) (h : MemWf s) : ResMemWf (execQuarantineEnd a0 s) := by
  unfold execQuarantineEnd
  grind [quarantineEnd_memWf, Run.MemWf, FabRun.MemWf, ResMemWf]
theorem ctxDestroy_memWf (s : State) (a0) (h : MemWf s) : MemWf (ctxDestroy s a0) := by
  unfold ctxDestroy
  grind [beginTeardown_memWf, refuseCmd_memWf]
theorem execCtxDestroy_memWf (a0) (s : State) (h : MemWf s) : ResMemWf (execCtxDestroy a0 s) := by
  unfold execCtxDestroy
  grind [ctxDestroy_memWf, Run.MemWf, FabRun.MemWf, ResMemWf]
theorem setVacate_memWf (s : State) (a0) (h : MemWf s) : MemWf (setVacate s a0) := by
  unfold setVacate
  grind [modStep_memWf]
theorem abandonStep_memWf (s : State) (a0) (h : MemWf s) : MemWf (abandonStep s a0) := by
  unfold abandonStep
  extract_lets cg held s1 s2
  have h2 : MemWf s2 := dropFabric_memWf _ _ _ (cancelLocals_memWf _ _ _ (foldl_memWf (fun s c hs => endHeld_memWf _ s c hs) _ h))
  clear_value s2
  split
  · exact h2
  · exact modStep_memWf _ _ (wf_patchFw _ _ _ _ (restoreRec_memWf _ _ h2))
theorem abortLate_memWf (s : State) (a0) (h : MemWf s) : MemWf (abortLate s a0) := by
  unfold abortLate
  grind [modStep_memWf, setEnded_memWf]
theorem vacateGo_memWf (s : State) (a0) (a1) (h : MemWf s) : MemWf (vacateGo s a0 a1) := by
  unfold vacateGo
  repeat' first
    | with_reducible assumption
    | with_reducible refine foldl_memWf (fun _ _ _ => ?_) _ ?_
    | with_reducible apply abortLate_memWf
    | with_reducible apply beginTeardown_memWf
    | with_reducible apply endOpen_memWf
    | with_reducible apply sendDelta_memWf
    | with_reducible apply setVacate_memWf
    | dsimp only
    | split
theorem vacateBegin_memWf (s : State) (a0) (h : MemWf s) : MemWf (vacateBegin s a0) := by
  unfold vacateBegin
  grind [abandonStep_memWf, setVacate_memWf, vacateGo_memWf]
theorem vacate_memWf (s : State) (a0) (a1) (h : MemWf s) : MemWf (vacate s a0 a1) := by
  unfold vacate
  grind [stepEnd_memWf, vacateBegin_memWf, vacateGo_memWf]
theorem execVacate_memWf (a0) (a1) (s : State) (h : MemWf s) : ResMemWf (execVacate a0 a1 s) := by
  unfold execVacate
  grind [vacate_memWf, Run.MemWf, FabRun.MemWf, ResMemWf]
theorem vacateAuto_memWf (s : State) (h : MemWf s) : MemWf (vacateAuto s) := by
  unfold vacateAuto
  grind [vacateBegin_memWf]
theorem execVacateAuto_memWf (s : State) (h : MemWf s) : ResMemWf (execVacateAuto s) := by
  unfold execVacateAuto
  grind [vacateAuto_memWf, Run.MemWf, FabRun.MemWf, ResMemWf]
theorem vacateNoTakeover_memWf (s : State) (h : MemWf s) : MemWf (vacateNoTakeover s) := by
  unfold vacateNoTakeover
  grind [beginTeardown_memWf, raiseStep_memWf, setVacate_memWf]
theorem execVacateNoTakeover_memWf (s : State) (h : MemWf s) : ResMemWf (execVacateNoTakeover s) := by
  unfold execVacateNoTakeover
  grind [vacateNoTakeover_memWf, Run.MemWf, FabRun.MemWf, ResMemWf]

/-! ### frames -/

theorem putEffect_memWf (s : State) (a0) (h : MemWf s) : MemWf (putEffect s a0) := by
  unfold putEffect
  grind [putCrate_memWf, sendError_memWf, streamArrived_memWf, verifyRx_memWf]
theorem execPut_memWf (a0) (s : State) (h : MemWf s) : ResMemWf (execPut a0 s) := by
  unfold execPut
  grind [putEffect_memWf, recvSeq_memWf, Run.MemWf, FabRun.MemWf, ResMemWf]
theorem accEffect_memWf (s : State) (a0) (h : MemWf s) : MemWf (accEffect s a0) := by
  unfold accEffect
  grind [freeBytes_memWf, putCrate_memWf, readVerify_memWf, sendError_memWf, verifyRx_memWf]
theorem execAccPut_memWf (a0) (s : State) (h : MemWf s) : ResMemWf (execAccPut a0 s) := by
  unfold execAccPut
  grind [accEffect_memWf, recvSeq_memWf, Run.MemWf, FabRun.MemWf, ResMemWf]
theorem tallyEffect_memWf (s : State) (a0) (h : MemWf s) : MemWf (tallyEffect s a0) := by
  unfold tallyEffect
  grind [addTally_memWf, sendError_memWf, streamAcked_memWf]
theorem execTallyAddFrame_memWf (a0) (s : State) (h : MemWf s) : ResMemWf (execTallyAddFrame a0 s) := by
  unfold execTallyAddFrame
  grind [recvSeq_memWf, tallyEffect_memWf, Run.MemWf, FabRun.MemWf, ResMemWf]
theorem sendFrom_memWf (s : State) (a0) (a1) (a2) (h : MemWf s) : MemWf (sendFrom s a0 a1 a2) := by
  unfold sendFrom
  grind [enqueue_memWf, markUsed_memWf, useSession_memWf]
theorem sendCrates_memWf (a0) (a1) (a2) (a3) (s : State) (h : MemWf s) : MemWf (sendCrates a0 a1 a2 a3 s) := by
  induction a2 generalizing a3 s with
  | zero => exact h
  | succ n ih => exact ih _ _ (sendFrom_memWf _ _ _ _ (moveRead_memWf _ _ _ _ h))
theorem getReqEffect_memWf (s : State) (a0) (h : MemWf s) : MemWf (getReqEffect s a0) := by
  unfold getReqEffect
  grind [sendCrates_memWf, sendError_memWf, setVacate_memWf]
theorem execGetReq_memWf (a0) (s : State) (h : MemWf s) : ResMemWf (execGetReq a0 s) := by
  unfold execGetReq
  grind [getReqEffect_memWf, recvSeq_memWf, Run.MemWf, FabRun.MemWf, ResMemWf]
theorem getCounted_memWf (s : State) (a0) (a1) (h : MemWf s) : MemWf (getCounted s a0 a1) := by
  unfold getCounted
  grind [modOp_memWf, opDone_memWf]
theorem getPost_memWf (s : State) (a0) (h : MemWf s) : MemWf (getPost s a0) := by
  unfold getPost
  grind [→ implicitPost_ok_memWf, → implicitPost_err_memWf, scheduleBroken_memWf, stationFault_memWf, Run.MemWf]
theorem getDataEffect_memWf (s : State) (a0) (h : MemWf s) : MemWf (getDataEffect s a0) := by
  unfold getDataEffect
  grind [getCounted_memWf, getPost_memWf, putCrate_memWf, sendError_memWf, verifyRx_memWf]
theorem getData_memWf (s : State) (a0) (h : MemWf s) : MemWf (getData s a0) := by
  unfold getData
  grind [getDataEffect_memWf, recvSeq_memWf]
theorem execGetData_memWf (a0) (s : State) (h : MemWf s) : ResMemWf (execGetData a0 s) := by
  unfold execGetData
  grind [getData_memWf, Run.MemWf, FabRun.MemWf, ResMemWf]
theorem voidEffect_memWf (s : State) (a0) (h : MemWf s) : MemWf (voidEffect s a0) := by
  unfold voidEffect
  grind [getCounted_memWf, setMem_mem, wf_setTag]
theorem execVoid_memWf (a0) (s : State) (h : MemWf s) : ResMemWf (execVoid a0 s) := by
  unfold execVoid
  grind [recvSeq_memWf, voidEffect_memWf, Run.MemWf, FabRun.MemWf, ResMemWf]
theorem killBind_memWf (s : State) (a0) (a1) (a2) (h : MemWf s) : MemWf (killBind s a0 a1 a2) := by
  unfold killBind
  grind [modBind_memWf]
theorem bindRefused_memWf (s : State) (a0) (h : MemWf s) : MemWf (bindRefused s a0) := by
  unfold bindRefused
  repeat' first
    | with_reducible assumption
    | with_reducible refine foldl_memWf (fun _ _ _ => ?_) _ ?_
    | with_reducible apply failColls_memWf
    | with_reducible apply failOp_memWf
    | with_reducible apply modFab_memWf
    | dsimp only
    | split
theorem errorEffect_memWf (s : State) (a0) (h : MemWf s) : MemWf (errorEffect s a0) := by
  unfold errorEffect
  grind [bindRefused_memWf, failColls_memWf, failOp_memWf, killBind_memWf, streamError_memWf]
theorem execError_memWf (a0) (s : State) (h : MemWf s) : ResMemWf (execError a0 s) := by
  unfold execError
  grind [errorEffect_memWf, recvSeq_memWf, Run.MemWf, FabRun.MemWf, ResMemWf]
theorem revokeEffect_memWf (s : State) (a0) (h : MemWf s) : MemWf (revokeEffect s a0) := by
  unfold revokeEffect
  repeat' first
    | with_reducible assumption
    | with_reducible refine foldl_memWf (fun _ _ _ => ?_) _ ?_
    | with_reducible apply failColls_memWf
    | with_reducible apply failOp_memWf
    | with_reducible apply killBind_memWf
    | with_reducible apply modFab_memWf
    | with_reducible apply sendReply_memWf
theorem execRevoke_memWf (a0) (s : State) (h : MemWf s) : ResMemWf (execRevoke a0 s) := by
  unfold execRevoke
  grind [recvSeq_memWf, revokeEffect_memWf, Run.MemWf, FabRun.MemWf, ResMemWf]
theorem revokeAckEffect_memWf (s : State) (a0) (h : MemWf s) : MemWf (revokeAckEffect s a0) := by
  unfold revokeAckEffect
  grind [modCtx_memWf]
theorem execRevokeAck_memWf (a0) (s : State) (h : MemWf s) : ResMemWf (execRevokeAck a0 s) := by
  unfold execRevokeAck
  grind [recvSeq_memWf, revokeAckEffect_memWf, Run.MemWf, FabRun.MemWf, ResMemWf]
theorem bindEffect_memWf (s : State) (a0) (h : MemWf s) : MemWf (bindEffect s a0) := by
  unfold bindEffect
  grind [modFab_memWf, sendError_memWf, sendReply_memWf]
theorem execBind_memWf (a0) (s : State) (h : MemWf s) : ResMemWf (execBind a0 s) := by
  unfold execBind
  grind [bindEffect_memWf, recvSeq_memWf, Run.MemWf, FabRun.MemWf, ResMemWf]
theorem bindReplyEffect_memWf (s : State) (a0) (h : MemWf s) : MemWf (bindReplyEffect s a0) := by
  unfold bindReplyEffect
  grind [modBind_memWf, modFab_memWf]
theorem execBindReply_memWf (a0) (s : State) (h : MemWf s) : ResMemWf (execBindReply a0 s) := by
  unfold execBindReply
  grind [bindReplyEffect_memWf, recvSeq_memWf, Run.MemWf, FabRun.MemWf, ResMemWf]

/-! ### register reads -/

theorem setRegErr_memWf (s : State) (a0) (a1) (a2) (a3) (h : MemWf s) : MemWf (setRegErr s a0 a1 a2 a3) := by
  unfold setRegErr
  grind
theorem regRead_memWf (s : State) (a0) (a1) (h : MemWf s) : MemWf (regRead s a0 a1) := by
  unfold regRead
  grind [emit_memWf, setRegErr_memWf]
theorem execRegReadRefused_memWf (a0) (a1) (s : State) (h : MemWf s) : ResMemWf (execRegReadRefused a0 a1 s) := by
  unfold execRegReadRefused
  grind [regRead_memWf, Run.MemWf, FabRun.MemWf, ResMemWf]

/-! ### boot -/

theorem modBoot_memWf (s : State) (a0) (h : MemWf s) : MemWf (modBoot s a0) := by
  unfold modBoot
  grind
theorem modPwr_memWf (s : State) (a0) (h : MemWf s) : MemWf (modPwr s a0) := by
  unfold modPwr
  grind
theorem modLedger_memWf (s : State) (a0) (h : MemWf s) : MemWf (modLedger s a0) := by
  unfold modLedger
  grind
theorem respond_memWf (s : State) (a0) (a1) (a2) (a3) (a4) (h : MemWf s) : MemWf (respond s a0 a1 a2 a3 a4) := by
  unfold respond
  grind [emit_memWf, modMgmt_memWf]
theorem chipReset_memWf (s : State) (a0) (a1) (a2) (h : MemWf s) : MemWf (chipReset s a0 a1 a2) := wf_reset
theorem requestPower_memWf (s : State) (a0) (h : MemWf s) : MemWf (requestPower s a0) := by
  unfold requestPower
  grind [modBoot_memWf]
theorem levelFour_memWf (s : State) (a0) (a1) (h : MemWf s) : MemWf (levelFour s a0 a1) := by
  unfold levelFour
  grind [chipReset_memWf, requestPower_memWf]
theorem execResetNAsserted_memWf (s : State) (h : MemWf s) : ResMemWf (execResetNAsserted s) := by
  unfold execResetNAsserted
  grind [levelFour_memWf, Run.MemWf, FabRun.MemWf, ResMemWf]
theorem assertionEnd_memWf (s : State) (a0) (h : MemWf s) : MemWf (assertionEnd s a0) := by
  unfold assertionEnd
  grind [modBoot_memWf, modPwr_memWf]
theorem execAssertionEnd_memWf (a0) (s : State) (h : MemWf s) : ResMemWf (execAssertionEnd a0 s) := by
  unfold execAssertionEnd
  grind [assertionEnd_memWf, Run.MemWf, FabRun.MemWf, ResMemWf]
theorem optionLoading_memWf (s : State) (a0) (h : MemWf s) : MemWf (optionLoading s a0) := by
  unfold optionLoading
  grind [modBoot_memWf]
theorem execOptionLoading_memWf (a0) (s : State) (h : MemWf s) : ResMemWf (execOptionLoading a0 s) := by
  unfold execOptionLoading
  grind [optionLoading_memWf, Run.MemWf, FabRun.MemWf, ResMemWf]
theorem updateDir_memWf (s : State) (a0) (h : MemWf s) : MemWf (updateDir s a0) := by
  unfold updateDir
  grind [modBoot_memWf]
theorem setBank_memWf (s : State) (a0) (a1) (h : MemWf s) : MemWf (setBank s a0 a1) := by
  unfold setBank
  grind [modBoot_memWf]
theorem programBank_memWf (s : State) (a0) (a1) (a2) (h : MemWf s) : MemWf (programBank s a0 a1 a2) := by
  unfold programBank
  grind [setBank_memWf]
theorem eraseBank_memWf (s : State) (a0) (h : MemWf s) : MemWf (eraseBank s a0) := by
  unfold eraseBank
  grind [setBank_memWf]
theorem startBank_memWf (s : State) (a0) (a1) (a2) (h : MemWf s) : MemWf (startBank s a0 a1 a2) := by
  unfold startBank
  grind [modBoot_memWf, updateDir_memWf]
theorem bootRom_memWf (s : State) (h : MemWf s) : MemWf (bootRom s) := by
  unfold bootRom
  grind [modBoot_memWf, setAlert_memWf, startBank_memWf]
theorem execBootRom_memWf (s : State) (h : MemWf s) : ResMemWf (execBootRom s) := by
  unfold execBootRom
  grind [bootRom_memWf, Run.MemWf, FabRun.MemWf, ResMemWf]
theorem applyRepair_memWf (a0) (a1) (h : MemWf a0.1) : MemWf (applyRepair a0 a1).1 := by
  unfold applyRepair
  grind [logRec_memWf, modUnit_memWf]
theorem buildMap_memWf (s : State) (h : MemWf s) : MemWf (buildMap s) := by
  have hr : ∀ (l : List LedgerRec) (x : State × List (Nat × Nat)), MemWf x.1 → MemWf (l.foldl applyRepair x).1 :=
    fun l _ hx => foldl_fst_memWf (fun x a hs => applyRepair_memWf x a hs) l hx
  unfold buildMap
  exact hr _ ({ s with coreMap := factoryMap s }, []) h
theorem retest_memWf (s : State) (a0) (h : MemWf s) : MemWf (retest s a0) := by
  unfold retest
  grind [logRec_memWf, modUnit_memWf, raiseUnit_memWf, setStanding_memWf]
theorem bootCore_memWf (s : State) (a0) (h : MemWf s) : MemWf (bootCore s a0) := by
  unfold bootCore
  grind [repairCore_memWf]
theorem mountLedger_memWf (s : State) (a0) (h : MemWf s) : MemWf (mountLedger s a0) := by
  unfold mountLedger
  grind [modLedger_memWf, raiseUnit_memWf]
theorem bootRecords_memWf (s : State) (h : MemWf s) : MemWf (bootRecords s) := by
  unfold bootRecords
  grind [logRec_memWf, modLedger_memWf]
theorem loadEvents_memWf (s : State) (a0) (a1) (h : MemWf s) : MemWf (loadEvents s a0 a1) := by
  unfold loadEvents
  repeat' first | with_reducible assumption | with_reducible refine foldl_memWf (fun _ _ _ => ?_) _ ?_  | split
  all_goals grind [modRing_memWf, Run.MemWf, ResMemWf]
theorem chooseTemplate_memWf (s : State) (h : MemWf s) : MemWf (chooseTemplate s) := by
  unfold chooseTemplate
  grind [modBoot_memWf, raiseUnit_memWf]
theorem bootPorts_memWf (s : State) (h : MemWf s) : MemWf (bootPorts s) := by
  unfold bootPorts
  repeat' first
    | with_reducible assumption
    | with_reducible refine foldl_memWf (fun _ _ _ => ?_) _ ?_
    | with_reducible apply modPort_memWf
    | with_reducible apply portEnable_memWf
    | dsimp only
    | split
theorem firmwarePhase_memWf (s : State) (a0) (a1) (a2) (a3) (h : MemWf s) : MemWf (firmwarePhase s a0 a1 a2 a3) := by
  unfold firmwarePhase
  split
  · exact h
  generalize List.range 1024 = cores
  extract_lets s1 s2 s3 s4 s5 s6 s7 s8
  have h2 : MemWf s2 := bootRecords_memWf _ (mountLedger_memWf _ _ (loadEvents_memWf _ _ _ h))
  clear_value s2
  have h3 : MemWf s3 := ite_memWf (raiseUnit_memWf _ _ _ _ _ _ _ (modLedger_memWf _ _ h2)) h2
  clear_value s3
  have h4 : MemWf s4 := ite_memWf (raiseUnit_memWf _ _ _ _ _ _ _ h3) h3
  clear_value s4
  have h5 : MemWf s5 := foldl_memWf (fun _ _ hs => retest_memWf _ _ hs) _ (buildMap_memWf _ h4)
  clear_value s5
  have h6 : MemWf s6 := foldl_memWf (fun _ _ hs => bootCore_memWf _ _ hs) _ h5
  clear_value s6
  have h7 : MemWf s7 := memWf_cp h6
  clear_value s7
  exact modBoot_memWf _ _ (bootPorts_memWf _ (chooseTemplate_memWf _ h7))
theorem execFirmwarePhase_memWf (a0) (a1) (a2) (a3) (s : State) (h : MemWf s) : ResMemWf (execFirmwarePhase a0 a1 a2 a3 s) := by
  unfold execFirmwarePhase
  grind [firmwarePhase_memWf, Run.MemWf, FabRun.MemWf, ResMemWf]
theorem trainChan_memWf (s : State) (a0) (h : MemWf s) : MemWf (trainChan s a0) := by
  unfold trainChan
  repeat' first
    | with_reducible assumption
    | split
    | with_reducible refine foldl_memWf (fun _ _ _ => ?_) _ ?_
    | with_reducible apply logLane_memWf
    | with_reducible apply logRec_memWf
    | with_reducible apply modChan_memWf
    | with_reducible apply modUnit_memWf
    | dsimp only
theorem trainPort_memWf (s : State) (a0) (h : MemWf s) : MemWf (trainPort s a0) := by
  unfold trainPort
  grind [portTrainingDone_memWf]
theorem phyTraining_memWf (s : State) (a0) (a1) (h : MemWf s) : MemWf (phyTraining s a0 a1) := by
  unfold phyTraining
  generalize List.range 640 = l
  split
  · exact foldl_memWf (fun _ _ hs => trainPort_memWf _ _ hs) _ (foldl_memWf (fun _ _ hs => trainChan_memWf _ _ hs) _ h)
  · exact h
theorem execPhyTraining_memWf (a0) (a1) (s : State) (h : MemWf s) : ResMemWf (execPhyTraining a0 a1 s) := by
  unfold execPhyTraining
  grind [phyTraining_memWf, Run.MemWf, FabRun.MemWf, ResMemWf]
theorem defaultParts_memWf (s : State) (h : MemWf s) : MemWf (defaultParts s) := by
  unfold defaultParts
  repeat' first
    | with_reducible assumption
    | with_reducible refine foldl_memWf (fun _ _ _ => ?_) _ ?_
    | with_reducible apply makePart_memWf
    | dsimp only
    | split
theorem ready_memWf (s : State) (h : MemWf s) : MemWf (ready s) := by
  unfold ready
  grind [defaultParts_memWf, lowPins_memWf, modBoot_memWf, updateDir_memWf]
theorem execReady_memWf (s : State) (h : MemWf s) : ResMemWf (execReady s) := by
  unfold execReady
  grind [ready_memWf, Run.MemWf, FabRun.MemWf, ResMemWf]
theorem flrEffects_memWf (s : State) (h : MemWf s) : MemWf (flrEffects s) := by
  unfold flrEffects
  repeat' first | with_reducible assumption | with_reducible refine foldl_memWf (fun _ _ _ => ?_) _ ?_  | split
  all_goals grind [beginTeardown_memWf, endHeld_memWf, launchComplete_memWf, Run.MemWf, ResMemWf]
theorem execFunctionLevelReset_memWf (s : State) (h : MemWf s) : ResMemWf (execFunctionLevelReset s) := by
  unfold execFunctionLevelReset
  grind [flrEffects_memWf, Run.MemWf, FabRun.MemWf, ResMemWf]
theorem execPerst_memWf (s : State) (h : MemWf s) : ResMemWf (execPerst s) := by
  unfold execPerst
  grind [flrEffects_memWf, Run.MemWf, FabRun.MemWf, ResMemWf]
theorem execPcieLinkDown_memWf (s : State) (h : MemWf s) : ResMemWf (execPcieLinkDown s) := by
  unfold execPcieLinkDown
  grind [Run.MemWf, FabRun.MemWf, ResMemWf]
theorem execPcieLinkUp_memWf (s : State) (h : MemWf s) : ResMemWf (execPcieLinkUp s) := by
  unfold execPcieLinkUp
  grind [Run.MemWf, FabRun.MemWf, ResMemWf]
theorem pcieReadError_memWf (s : State) (a0) (a1) (h : MemWf s) : MemWf (pcieReadError s a0 a1) := by
  unfold pcieReadError
  grind [endCmd_memWf, modQueue_memWf]
theorem execPcieReadError_memWf (a0) (a1) (s : State) (h : MemWf s) : ResMemWf (execPcieReadError a0 a1 s) := by
  unfold execPcieReadError
  grind [pcieReadError_memWf, Run.MemWf, FabRun.MemWf, ResMemWf]

/-! ### captures -/

theorem takeCapture_memWf (s : State) (a0) (a1) (a2) (a3) (a4) (a5) (a6) (a7) (h : MemWf s) : MemWf (takeCapture s a0 a1 a2 a3 a4 a5 a6 a7).1 := by
  unfold takeCapture
  grind
theorem captureRead_memWf (s : State) (a0) (h : MemWf s) : MemWf (captureRead s a0) := by
  unfold captureRead
  grind [endCmd_memWf, hostWrite_memWf]
theorem execCaptureRead_memWf (a0) (s : State) (h : MemWf s) : ResMemWf (execCaptureRead a0 s) := by
  unfold execCaptureRead
  grind [captureRead_memWf, Run.MemWf, FabRun.MemWf, ResMemWf]

/-! ### hangs and escalations -/

theorem modHang_memWf (s : State) (a0) (h : MemWf s) : MemWf (modHang s a0) := by
  unfold modHang
  grind
theorem noteCause_memWf (s : State) (a0) (a1) (a2) (h : MemWf s) : MemWf (noteCause s a0 a1 a2) := by
  unfold noteCause
  grind [modBoot_memWf]
theorem escalate_memWf (s : State) (a0) (a1) (h : MemWf s) : MemWf (escalate s a0 a1) := by
  unfold escalate
  grind [chargeNow_memWf, logRec_memWf, modHang_memWf, noteCause_memWf, setAlert_memWf, takeCapture_memWf]
theorem hubEscReq_memWf (s : State) (a0) (h : MemWf s) : MemWf (hubEscReq s a0) := by
  unfold hubEscReq
  grind [escalate_memWf, modHang_memWf]
theorem hangCfgWrite_memWf (s : State) (a0) (h : MemWf s) : MemWf (hangCfgWrite s a0) := by
  unfold hangCfgWrite
  grind [modHang_memWf]
theorem declareHang_memWf (s : State) (a0) (a1) (h : MemWf s) : MemWf (declareHang s a0 a1) := by
  unfold declareHang
  grind [escalate_memWf, modHang_memWf, raiseUnit_memWf, takeCapture_memWf]
theorem hangEvaluation_memWf (s : State) (h : MemWf s) : MemWf (hangEvaluation s) := by
  unfold hangEvaluation
  dsimp only [Run.MemWf, FabRun.MemWf, ResMemWf]
  repeat' first
    | with_reducible assumption
    | split
    | with_reducible refine foldl_memWf (fun _ _ _ => ?_) _ ?_
    | with_reducible apply declareHang_memWf
    | with_reducible apply modHang_memWf
theorem execHangEvaluation_memWf (s : State) (h : MemWf s) : ResMemWf (execHangEvaluation s) := by
  unfold execHangEvaluation
  grind [hangEvaluation_memWf, Run.MemWf, FabRun.MemWf, ResMemWf]
theorem escalationContext_memWf (s : State) (a0) (h : MemWf s) : MemWf (escalationContext s a0) := by
  unfold escalationContext
  grind [beginTeardown_memWf, modHang_memWf]
theorem execEscalationContext_memWf (a0) (s : State) (h : MemWf s) : ResMemWf (execEscalationContext a0 s) := by
  unfold execEscalationContext
  grind [escalationContext_memWf, Run.MemWf, FabRun.MemWf, ResMemWf]
theorem poisonOpen_memWf (s : State) (a0) (h : MemWf s) : MemWf (poisonOpen s a0) := by
  unfold poisonOpen
  exact foldl_memWf (fun _ _ hs => wf_setTag _ _ _ hs) _ h
theorem errorResponse_memWf (s : State) (a0) (h : MemWf s) : MemWf (errorResponse s a0) := by
  unfold errorResponse
  grind [collFail_memWf, endCmd_memWf, stopLaunch_memWf]
theorem dropTransfers_memWf (s : State) (a0) (h : MemWf s) : MemWf (dropTransfers s a0) := by
  unfold dropTransfers
  repeat' first
    | with_reducible assumption
    | with_reducible refine foldl_memWf (fun _ _ _ => ?_) _ ?_
    | with_reducible apply dropOp_memWf
    | with_reducible apply modCore_memWf
    | rw [setMem_mem]
    | with_reducible apply wf_setTag
    | dsimp only
    | split
  all_goals grind [dropOp_memWf, modCore_memWf, setMem_mem, wf_setTag, Memory.wf, Run.MemWf]
theorem resetSite_memWf (s : State) (a0) (h : MemWf s) : MemWf (resetSite s a0) := by
  unfold resetSite
  grind [dropTransfers_memWf, modCore_memWf, poisonOpen_memWf, stopLaunch_memWf]
theorem handoverFail_memWf (s : State) (h : MemWf s) : MemWf (handoverFail s) := by
  unfold handoverFail
  grind [endCmd_memWf, modBoot_memWf, respond_memWf]
theorem resetEngine_memWf (s : State) (a0) (a1) (h : MemWf s) : MemWf (resetEngine s a0 a1) := by
  unfold resetEngine
  extract_lets die i
  split
  · split
    · exact resetSite_memWf _ _ h
    · exact h
  · exact ite_memWf (ite_memWf (handoverFail_memWf _ h) h) (ite_memWf (handoverFail_memWf _ h) h)
  · exact poisonOpen_memWf _ _ (modChan_memWf _ _ _ h)
  · refine poisonOpen_memWf _ _ (foldl_memWf (fun s l hs => ?_) _
      (memWf_modMem (wf_slices _ (wf_foldl (fun _ _ hm => wf_undoLine _ _ hm) _ h))))
    dsimp only
    split
    · exact chargeNow_memWf _ _ _ _ (raiseUnit_memWf _ _ _ _ _ _ _ hs)
    · exact raiseUnit_memWf _ _ _ _ _ _ _ hs
  · exact foldl_memWf (fun _ _ hs => collFail_memWf _ _ _ hs) _ h
  · exact ite_memWf h (portDown_memWf _ _ _ _ h)
  · exact h
theorem escDone_memWf (s : State) (a0) (h : MemWf s) : MemWf (escDone s a0) := by
  unfold escDone
  grind [modHang_memWf]
theorem escalationEngine_memWf (s : State) (a0) (a1) (a2) (a3) (h : MemWf s) : MemWf (escalationEngine s a0 a1 a2 a3) := by
  unfold escalationEngine
  split
  · exact h
  extract_lets s1 s2 alone s3
  have h3 : MemWf s3 := escDone_memWf _ _ (resetEngine_memWf _ _ _
    (foldl_memWf (fun _ _ hs => wf_setTag _ _ _ hs) _ (foldl_memWf (fun _ _ hs => errorResponse_memWf _ _ hs) _ h)))
  clear_value s3
  grind [escalate_memWf]
theorem execEscalationEngine_memWf (a0) (a1) (a2) (a3) (s : State) (h : MemWf s) : ResMemWf (execEscalationEngine a0 a1 a2 a3 s) := by
  unfold execEscalationEngine
  grind [escalationEngine_memWf, Run.MemWf, FabRun.MemWf, ResMemWf]
theorem escalationPartition_memWf (s : State) (a0) (a1) (h : MemWf s) : MemWf (escalationPartition s a0 a1) := by
  unfold escalationPartition
  split
  · exact h
  extract_lets s1 s2 dies s3
  have h2 : MemWf s2 := foldl_memWf (fun _ _ hs => beginTeardown_memWf _ _ _ _ hs) _ (modHang_memWf _ _ h)
  clear_value s2
  have h3 : MemWf s3 := foldl_memWf (fun s d hs => zeroPlain_memWf _ _ (memWf_slices _
    (foldl_memWf (fun _ _ hs => resetEngine_memWf _ _ _ hs) _ hs))) _ h2
  clear_value s3
  exact ite_memWf (escDone_memWf _ _ h3) h3
theorem execEscalationPartition_memWf (a0) (a1) (s : State) (h : MemWf s) : ResMemWf (execEscalationPartition a0 a1 s) := by
  unfold execEscalationPartition
  grind [escalationPartition_memWf, Run.MemWf, FabRun.MemWf, ResMemWf]
theorem sendAll_memWf (a0) (s : State) (h : MemWf s) : MemWf (sendAll a0 s) := by
  induction a0 generalizing s with
  | zero => exact h
  | succ n ih => exact ih _ (foldl_memWf (fun s p hs => foldl_memWf (fun s l hs => frameSend_memWf _ _ _ hs) _ hs) _ h)
theorem sendFarewell_memWf (s : State) (h : MemWf s) : MemWf (sendFarewell s) := by
  unfold sendFarewell
  repeat' first
    | with_reducible assumption
    | split
    | with_reducible refine foldl_memWf (fun _ _ _ => ?_) _ ?_
    | with_reducible apply modFab_memWf
    | with_reducible apply ringBell_memWf
    | with_reducible apply sendAll_memWf
    | with_reducible apply sendRevoke_memWf
theorem escalationChip_memWf (s : State) (h : MemWf s) : MemWf (escalationChip s) := by
  unfold escalationChip
  grind [levelFour_memWf, sendFarewell_memWf]
theorem execEscalationChip_memWf (s : State) (h : MemWf s) : ResMemWf (execEscalationChip s) := by
  unfold execEscalationChip
  grind [escalationChip_memWf, Run.MemWf, FabRun.MemWf, ResMemWf]
theorem escalationPowerCycle_memWf (s : State) (h : MemWf s) : MemWf (escalationPowerCycle s) := by
  unfold escalationPowerCycle
  grind [modBoot_memWf, sendFarewell_memWf]
theorem execEscalationPowerCycle_memWf (s : State) (h : MemWf s) : ResMemWf (execEscalationPowerCycle s) := by
  unfold execEscalationPowerCycle
  grind [escalationPowerCycle_memWf, Run.MemWf, FabRun.MemWf, ResMemWf]
theorem powerCycleTimeout_memWf (s : State) (h : MemWf s) : MemWf (powerCycleTimeout s) := by
  unfold powerCycleTimeout
  grind [chipReset_memWf, logRec_memWf, modBoot_memWf]
theorem execPowerCycleTimeout_memWf (s : State) (h : MemWf s) : ResMemWf (execPowerCycleTimeout s) := by
  unfold execPowerCycleTimeout
  grind [powerCycleTimeout_memWf, Run.MemWf, FabRun.MemWf, ResMemWf]
theorem readyTimeout_memWf (s : State) (h : MemWf s) : MemWf (readyTimeout s) := by
  unfold readyTimeout
  grind [requestPower_memWf, setAlert_memWf]
theorem execReadyTimeout_memWf (s : State) (h : MemWf s) : ResMemWf (execReadyTimeout s) := by
  unfold execReadyTimeout
  grind [readyTimeout_memWf, Run.MemWf, FabRun.MemWf, ResMemWf]
theorem stewardWatchdog_memWf (s : State) (h : MemWf s) : MemWf (stewardWatchdog s) := by
  unfold stewardWatchdog
  grind [levelFour_memWf, setAlert_memWf]
theorem execStewardWatchdog_memWf (s : State) (h : MemWf s) : ResMemWf (execStewardWatchdog s) := by
  unfold execStewardWatchdog
  grind [stewardWatchdog_memWf, Run.MemWf, FabRun.MemWf, ResMemWf]
theorem execCoreStopTimeout_memWf (a0) (s : State) (h : MemWf s) : ResMemWf (execCoreStopTimeout a0 s) := by
  unfold execCoreStopTimeout
  grind [escalate_memWf, Run.MemWf, FabRun.MemWf, ResMemWf]
theorem execHeartbeatMissed_memWf (a0) (a1) (s : State) (h : MemWf s) : ResMemWf (execHeartbeatMissed a0 a1 s) := by
  unfold execHeartbeatMissed
  grind [escalate_memWf, Run.MemWf, FabRun.MemWf, ResMemWf]
theorem execEngineNoAnswer_memWf (a0) (s : State) (h : MemWf s) : ResMemWf (execEngineNoAnswer a0 s) := by
  unfold execEngineNoAnswer
  grind [escalate_memWf, Run.MemWf, FabRun.MemWf, ResMemWf]
theorem execTransferCancelTimeout_memWf (a0) (a1) (a2) (s : State) (h : MemWf s) : ResMemWf (execTransferCancelTimeout a0 a1 a2 s) := by
  unfold execTransferCancelTimeout
  grind [escalate_memWf, Run.MemWf, FabRun.MemWf, ResMemWf]
theorem escalationOverrun_memWf (s : State) (a0) (a1) (h : MemWf s) : MemWf (escalationOverrun s a0 a1) := by
  unfold escalationOverrun
  grind [escDone_memWf, escalate_memWf]
theorem execEscalationOverrun_memWf (a0) (a1) (s : State) (h : MemWf s) : ResMemWf (execEscalationOverrun a0 a1 s) := by
  unfold execEscalationOverrun
  grind [escalationOverrun_memWf, Run.MemWf, FabRun.MemWf, ResMemWf]

/-! ### power -/

theorem referenceLost_memWf (s : State) (h : MemWf s) : MemWf (referenceLost s) := by
  unfold referenceLost
  grind [modFab_memWf, modPwr_memWf, raiseUnit_memWf]
theorem execReferenceLost_memWf (s : State) (h : MemWf s) : ResMemWf (execReferenceLost s) := by
  unfold execReferenceLost
  grind [referenceLost_memWf, Run.MemWf, FabRun.MemWf, ResMemWf]
theorem execReferenceRestored_memWf (s : State) (h : MemWf s) : ResMemWf (execReferenceRestored s) := by
  unfold execReferenceRestored
  grind [modPwr_memWf, Run.MemWf, FabRun.MemWf, ResMemWf]
theorem pllLockLost_memWf (s : State) (a0) (h : MemWf s) : MemWf (pllLockLost s a0) := by
  unfold pllLockLost
  grind [modPwr_memWf, raiseUnit_memWf]
theorem execPllLockLost_memWf (a0) (s : State) (h : MemWf s) : ResMemWf (execPllLockLost a0 s) := by
  unfold execPllLockLost
  grind [pllLockLost_memWf, Run.MemWf, FabRun.MemWf, ResMemWf]
theorem beginStep_memWf (s : State) (h : MemWf s) : MemWf (beginStep s) := by
  unfold beginStep
  grind [modPwr_memWf, raiseUnit_memWf]
theorem opTargetChange_memWf (s : State) (h : MemWf s) : MemWf (opTargetChange s) := by
  unfold opTargetChange
  grind [beginStep_memWf]
theorem execOpTargetChange_memWf (s : State) (h : MemWf s) : ResMemWf (execOpTargetChange s) := by
  unfold execOpTargetChange
  grind [opTargetChange_memWf, Run.MemWf, FabRun.MemWf, ResMemWf]
theorem opSwitch_memWf (s : State) (h : MemWf s) : MemWf (opSwitch s) := by
  unfold opSwitch
  grind [beginStep_memWf, modPwr_memWf]
theorem execOpSwitch_memWf (s : State) (h : MemWf s) : ResMemWf (execOpSwitch s) := by
  unfold execOpSwitch
  grind [opSwitch_memWf, Run.MemWf, FabRun.MemWf, ResMemWf]
theorem pllLockTimeout_memWf (s : State) (h : MemWf s) : MemWf (pllLockTimeout s) := by
  unfold pllLockTimeout
  grind [modPwr_memWf, raiseUnit_memWf]
theorem execPllLockTimeout_memWf (s : State) (h : MemWf s) : ResMemWf (execPllLockTimeout s) := by
  unfold execPllLockTimeout
  grind [pllLockTimeout_memWf, Run.MemWf, FabRun.MemWf, ResMemWf]
theorem engage_memWf (s : State) (h : MemWf s) : MemWf (engage s) := by
  unfold engage
  grind [modPwr_memWf, raiseUnit_memWf]
theorem engagedLong_memWf (s : State) (h : MemWf s) : MemWf (engagedLong s) := by
  unfold engagedLong
  grind [modPwr_memWf, raiseUnit_memWf]
theorem backstopTick_memWf (s : State) (a0) (h : MemWf s) : MemWf (backstopTick s a0) := by
  unfold backstopTick
  grind [engage_memWf, engagedLong_memWf, modPwr_memWf]
theorem execBackstopTick_memWf (a0) (s : State) (h : MemWf s) : ResMemWf (execBackstopTick a0 s) := by
  unfold execBackstopTick
  grind [backstopTick_memWf, Run.MemWf, FabRun.MemWf, ResMemWf]
theorem backstopLimitUpdate_memWf (s : State) (h : MemWf s) : MemWf (backstopLimitUpdate s) := by
  unfold backstopLimitUpdate
  grind [modPwr_memWf]
theorem execBackstopLimitUpdate_memWf (s : State) (h : MemWf s) : ResMemWf (execBackstopLimitUpdate s) := by
  unfold execBackstopLimitUpdate
  grind [backstopLimitUpdate_memWf, Run.MemWf, FabRun.MemWf, ResMemWf]
theorem droop_memWf (s : State) (a0) (h : MemWf s) : MemWf (droop s a0) := by
  unfold droop
  grind [modPwr_memWf]
theorem execDroop_memWf (a0) (s : State) (h : MemWf s) : ResMemWf (execDroop a0 s) := by
  unfold execDroop
  grind [droop_memWf, Run.MemWf, FabRun.MemWf, ResMemWf]
theorem thermalTrip_memWf (s : State) (h : MemWf s) : MemWf (thermalTrip s) := by
  unfold thermalTrip
  grind [chipReset_memWf]
theorem heatResponse_memWf (s : State) (a0) (a1) (a2) (a3) (h : MemWf s) : MemWf (heatResponse s a0 a1 a2 a3) := by
  unfold heatResponse
  grind [modPwr_memWf, raiseHeat_memWf]
theorem thermalResponse_memWf (s : State) (a0) (a1) (a2) (a3) (h : MemWf s) : MemWf (thermalResponse s a0 a1 a2 a3) := by
  unfold thermalResponse
  grind [heatResponse_memWf, modPwr_memWf, thermalTrip_memWf]
theorem execThermalResponse_memWf (a0) (a1) (a2) (a3) (s : State) (h : MemWf s) : ResMemWf (execThermalResponse a0 a1 a2 a3 s) := by
  unfold execThermalResponse
  grind [thermalResponse_memWf, Run.MemWf, FabRun.MemWf, ResMemWf]
theorem execInputOutOfRange_memWf (s : State) (h : MemWf s) : ResMemWf (execInputOutOfRange s) := by
  unfold execInputOutOfRange
  grind [modPwr_memWf, raiseUnit_memWf, Run.MemWf, FabRun.MemWf, ResMemWf]
theorem execInputBackInRange_memWf (s : State) (h : MemWf s) : ResMemWf (execInputBackInRange s) := by
  unfold execInputBackInRange
  grind [modPwr_memWf, Run.MemWf, FabRun.MemWf, ResMemWf]
theorem bankFlush_memWf (s : State) (h : MemWf s) : MemWf (bankFlush s) := by
  unfold bankFlush
  grind [modLedger_memWf]
theorem inputLoss_memWf (s : State) (h : MemWf s) : MemWf (inputLoss s) := by
  unfold inputLoss
  grind [bankFlush_memWf, chipReset_memWf]
theorem execInputLoss_memWf (s : State) (h : MemWf s) : ResMemWf (execInputLoss s) := by
  unfold execInputLoss
  grind [inputLoss_memWf, Run.MemWf, FabRun.MemWf, ResMemWf]
theorem auxLoss_memWf (s : State) (h : MemWf s) : MemWf (auxLoss s) := by
  unfold auxLoss
  grind [bankFlush_memWf, chipReset_memWf]
theorem execAuxLoss_memWf (s : State) (h : MemWf s) : ResMemWf (execAuxLoss s) := by
  unfold execAuxLoss
  grind [auxLoss_memWf, Run.MemWf, FabRun.MemWf, ResMemWf]
theorem pwrCfgWrite_memWf (s : State) (a0) (h : MemWf s) : MemWf (pwrCfgWrite s a0) := by
  unfold pwrCfgWrite
  grind [modPwr_memWf]

/-! ### firmware -/

theorem identify_memWf (s : State) (a0) (h : MemWf s) : MemWf (identify s a0) := by
  unfold identify
  grind [endCmd_memWf, hostWrite_memWf]
theorem execIdentify_memWf (a0) (s : State) (h : MemWf s) : ResMemWf (execIdentify a0 s) := by
  unfold execIdentify
  grind [identify_memWf, Run.MemWf, FabRun.MemWf, ResMemWf]
theorem telemetryRead_memWf (s : State) (a0) (a1) (h : MemWf s) : MemWf (telemetryRead s a0 a1) := by
  unfold telemetryRead
  grind [endCmd_memWf, hostWrite_memWf, refuseCmd_memWf]
theorem execTelemetryRead_memWf (a0) (a1) (s : State) (h : MemWf s) : ResMemWf (execTelemetryRead a0 a1 s) := by
  unfold execTelemetryRead
  grind [telemetryRead_memWf, Run.MemWf, FabRun.MemWf, ResMemWf]
theorem fwFailed_memWf (s : State) (a0) (h : MemWf s) : MemWf (fwFailed s a0) := by
  unfold fwFailed
  grind [modBoot_memWf]
theorem clearBank_memWf (s : State) (a0) (h : MemWf s) : MemWf (clearBank s a0) := by
  unfold clearBank
  grind [eraseBank_memWf, modBoot_memWf, updateDir_memWf]
theorem completeBank_memWf (s : State) (a0) (a1) (h : MemWf s) : MemWf (completeBank s a0 a1) := by
  unfold completeBank
  grind [updateDir_memWf]
theorem fwStage_memWf (s : State) (a0) (a1) (a2) (h : MemWf s) : MemWf (fwStage s a0 a1 a2) := by
  unfold fwStage
  grind [clearBank_memWf, completeBank_memWf, endCmd_memWf, fwFailed_memWf, modBoot_memWf, programBank_memWf]
theorem execFwStage_memWf (a0) (a1) (a2) (s : State) (h : MemWf s) : ResMemWf (execFwStage a0 a1 a2 s) := by
  unfold execFwStage
  grind [fwStage_memWf, Run.MemWf, FabRun.MemWf, ResMemWf]
theorem handoverAnswer_memWf (s : State) (a0) (h : MemWf s) : MemWf (handoverAnswer s a0) := by
  unfold handoverAnswer
  grind [endCmd_memWf, respond_memWf]
theorem handoverSwitch_memWf (s : State) (h : MemWf s) : MemWf (handoverSwitch s) := by
  unfold handoverSwitch
  grind [handoverAnswer_memWf, modBoot_memWf, updateDir_memWf]
theorem handoverGo_memWf (s : State) (h : MemWf s) : MemWf (handoverGo s) := by
  unfold handoverGo
  grind [handoverSwitch_memWf, modBoot_memWf]
theorem handoverBegin_memWf (s : State) (a0) (h : MemWf s) : MemWf (handoverBegin s a0) := by
  unfold handoverBegin
  grind [modBoot_memWf]
theorem fwHandover_memWf (s : State) (a0) (h : MemWf s) : MemWf (fwHandover s a0) := by
  unfold fwHandover
  grind [fwFailed_memWf, handoverBegin_memWf, handoverGo_memWf, refuseCmd_memWf]
theorem execFwHandover_memWf (a0) (s : State) (h : MemWf s) : ResMemWf (execFwHandover a0 s) := by
  unfold execFwHandover
  grind [fwHandover_memWf, Run.MemWf, FabRun.MemWf, ResMemWf]
theorem execHandoverTimeout_memWf (s : State) (h : MemWf s) : ResMemWf (execHandoverTimeout s) := by
  unfold execHandoverTimeout
  grind [handoverFail_memWf, Run.MemWf, FabRun.MemWf, ResMemWf]
theorem mirrorPort_memWf (s : State) (a0) (h : MemWf s) : MemWf (mirrorPort s a0) := by
  unfold mirrorPort
  grind [mirrorCounter_memWf, modUnit_memWf]
theorem mirrorRing_memWf (s : State) (a0) (h : MemWf s) : MemWf (mirrorRing s a0) := by
  unfold mirrorRing
  grind [mirrorCounter_memWf]
theorem counterMirror_memWf (s : State) (h : MemWf s) : MemWf (counterMirror s) := by
  unfold counterMirror
  repeat' first
    | with_reducible assumption
    | with_reducible refine foldl_memWf (fun _ _ _ => ?_) _ ?_
    | with_reducible apply mirrorAll_memWf
    | with_reducible apply mirrorPort_memWf
    | with_reducible apply mirrorRing_memWf
theorem execCounterMirror_memWf (s : State) (h : MemWf s) : ResMemWf (execCounterMirror s) := by
  unfold execCounterMirror
  grind [counterMirror_memWf, Run.MemWf, FabRun.MemWf, ResMemWf]

/-! ### the Loader -/

theorem bodyDelay_memWf (s : State) (a0) (a1) (a2) (h : MemWf s) : (bodyDelay s a0 a1 a2).MemWf := by
  unfold bodyDelay
  grind [Run.MemWf, FabRun.MemWf, ResMemWf]
theorem bodyFence_memWf (s : State) (a0) (a1) (a2) (h : MemWf s) : (bodyFence s a0 a1 a2).MemWf := by
  unfold bodyFence
  grind [Run.MemWf, FabRun.MemWf, ResMemWf]
theorem resumeCore_memWf (s : State) (a0) (h : MemWf s) : MemWf (resumeCore s a0) := by
  unfold resumeCore
  refine modCore_memWf _ _ _ (foldl_memWf (fun s st hs => ?_) _ h)
  split
  · exact hs
  · exact advanceSt_memWf _ _ _ (signals_memWf _ _ _ _ _ hs)
theorem fenceResumeAll_memWf (s : State) (a0) (a1) (h : MemWf s) : MemWf (fenceResumeAll s a0 a1) := by
  unfold fenceResumeAll
  split
  · dsimp only
    split
    · exact foldl_memWf (fun _ _ hs => resumeCore_memWf _ _ hs) _ h
    · exact h
  · exact h
theorem execDelay_memWf (a0) (a1) (a2) (s : State) (h : MemWf s) : ResMemWf (execDelay a0 a1 a2 s) := by
  unfold execDelay
  grind [bodyDelay_memWf, issue_memWf, Run.MemWf, FabRun.MemWf, ResMemWf]
theorem execFence_memWf (a0) (a1) (a2) (s : State) (h : MemWf s) : ResMemWf (execFence a0 a1 a2 s) := by
  unfold execFence
  grind [bodyFence_memWf, issue_memWf, Run.MemWf, FabRun.MemWf, ResMemWf]
theorem execFenceResume_memWf (a0) (a1) (s : State) (h : MemWf s) : ResMemWf (execFenceResume a0 a1 s) := by
  unfold execFenceResume
  grind [fenceResumeAll_memWf, Run.MemWf, FabRun.MemWf, ResMemWf]
theorem takeCrate_memWf (s : State) (a0) (a1) (h : MemWf s) : MemWf (takeCrate s a0 a1).1 := by
  unfold takeCrate
  grind [consume_memWf]
theorem gatherCrate_memWf (a0) (a1) (a2) (a3) (a4) (a5) (a6) (h : MemWf a6.s) : (∀ t, gatherCrate a0 a1 a2 a3 a4 a5 a6 = .ok t → MemWf t.s) ∧ (∀ r, gatherCrate a0 a1 a2 a3 a4 a5 a6 = .error r → r.MemWf) := by
  unfold gatherCrate
  grind [takeCrate_memWf, Run.MemWf, FabRun.MemWf, ResMemWf]
theorem gatherCrate_ok_memWf (a0) (a1) (a2) (a3) (a4) (a5) (a6) (h : MemWf a6.s) : ∀ t, gatherCrate a0 a1 a2 a3 a4 a5 a6 = .ok t → MemWf t.s :=
  (gatherCrate_memWf a0 a1 a2 a3 a4 a5 a6 h).1
theorem gatherCrate_err_memWf (a0) (a1) (a2) (a3) (a4) (a5) (a6) (h : MemWf a6.s) : ∀ r, gatherCrate a0 a1 a2 a3 a4 a5 a6 = .error r → r.MemWf :=
  (gatherCrate_memWf a0 a1 a2 a3 a4 a5 a6 h).2
theorem gatherSlot_memWf (a0) (a1) (a2) (a3) (a4) (a5) (a6) (a7 : Gather) (h : MemWf a7.s) : (∀ t, gatherSlot a0 a1 a2 a3 a4 a5 a6 a7 = .ok t → MemWf t.s) ∧
      (∀ r, gatherSlot a0 a1 a2 a3 a4 a5 a6 a7 = .error r → r.MemWf) := by
  induction a5 generalizing a6 a7 with
  | zero => exact ⟨fun t ht => (by cases ht; exact h), fun r hr => (by cases hr)⟩
  | succ n ih =>
    constructor <;> intro t ht <;> unfold gatherSlot at ht <;> (repeat' split at ht) <;>
      grind [→ gatherCrate_ok_memWf, → gatherCrate_err_memWf, Run.MemWf]
theorem gatherSlot_ok_memWf (a0) (a1) (a2) (a3) (a4) (a5) (a6) (a7) (h : MemWf a7.s) : ∀ t, gatherSlot a0 a1 a2 a3 a4 a5 a6 a7 = .ok t → MemWf t.s :=
  (gatherSlot_memWf a0 a1 a2 a3 a4 a5 a6 a7 h).1
theorem gatherSlot_err_memWf (a0) (a1) (a2) (a3) (a4) (a5) (a6) (a7) (h : MemWf a7.s) : ∀ r, gatherSlot a0 a1 a2 a3 a4 a5 a6 a7 = .error r → r.MemWf :=
  (gatherSlot_memWf a0 a1 a2 a3 a4 a5 a6 a7 h).2
theorem gatherSlots_memWf (a0) (a1) (a2) (a3) (a4) (a5) (a6) (a7) (a8 : Gather) (h : MemWf a8.s) : (∀ t, gatherSlots a0 a1 a2 a3 a4 a5 a6 a7 a8 = .ok t → MemWf t.s) ∧
      (∀ r, gatherSlots a0 a1 a2 a3 a4 a5 a6 a7 a8 = .error r → r.1.MemWf ∧ MemWf r.2.s) := by
  induction a6 generalizing a7 a8 with
  | zero => exact ⟨fun t ht => (by cases ht; exact h), fun r hr => (by cases hr)⟩
  | succ n ih =>
    constructor <;> intro t ht <;> unfold gatherSlots at ht <;> (try dsimp only at ht) <;> (repeat' split at ht) <;>
      grind [→ gatherSlot_ok_memWf, → gatherSlot_err_memWf, → implicitRelease_ok_memWf, → implicitRelease_err_memWf, Run.MemWf]
theorem gatherSlots_ok_memWf (a0) (a1) (a2) (a3) (a4) (a5) (a6) (a7) (a8) (h : MemWf a8.s) : ∀ t, gatherSlots a0 a1 a2 a3 a4 a5 a6 a7 a8 = .ok t → MemWf t.s :=
  (gatherSlots_memWf a0 a1 a2 a3 a4 a5 a6 a7 a8 h).1
theorem gatherSlots_err_memWf (a0) (a1) (a2) (a3) (a4) (a5) (a6) (a7) (a8) (h : MemWf a8.s) : ∀ r, gatherSlots a0 a1 a2 a3 a4 a5 a6 a7 a8 = .error r → r.1.MemWf ∧ MemWf r.2.s :=
  (gatherSlots_memWf a0 a1 a2 a3 a4 a5 a6 a7 a8 h).2
theorem pushFeeds_memWf (s : State) (a0) (a1) (h : MemWf s) : MemWf (pushFeeds s a0 a1) := by
  unfold pushFeeds
  grind [modCore_memWf]
theorem bodyLstream_memWf (s : State) (a0) (a1) (a2) (h : MemWf s) : (bodyLstream s a0 a1 a2).MemWf := by
  unfold bodyLstream
  extract_lets b prog lines
  generalize hr : gatherSlots _ _ _ _ _ _ _ _ _ = r
  split
  · rename_i g
    exact pushFeeds_memWf _ _ _ (gatherSlots_ok_memWf _ _ _ _ _ _ _ _ _ h g hr)
  · rename_i hd s' g
    obtain ⟨hs, hg⟩ := gatherSlots_err_memWf _ _ _ _ _ _ _ _ _ h _ hr
    split
    · exact h
    · exact modCore_memWf _ _ _ (pushFeeds_memWf _ _ _ hs)
  · rename_i x g _
    exact (gatherSlots_err_memWf _ _ _ _ _ _ _ _ _ h _ hr).1
theorem execLstream_memWf (a0) (a1) (s : State) (h : MemWf s) : ResMemWf (execLstream a0 a1 s) := by
  unfold execLstream
  grind [bodyLstream_memWf, issue_memWf, Run.MemWf, FabRun.MemWf, ResMemWf]
theorem takeCrates_memWf (a0) (a1) (s : State) (h : MemWf s) : MemWf (takeCrates a0 a1 s).1 := by
  induction a1 generalizing s with
  | nil => exact h
  | cons c cs ih => exact ih _ (takeCrate_memWf _ _ _ h)
theorem weightRefusal_memWf (s : State) (a0) (a1) (a2) (h : MemWf s) : ∀ r, weightRefusal s a0 a1 a2 = some r → r.MemWf := by
  unfold weightRefusal
  grind [Run.MemWf, FabRun.MemWf, ResMemWf]
theorem releaseN_memWf (a0) (a1) (a2) (s : State) (h : MemWf s) : (∀ t, releaseN a0 a1 a2 s = .ok t → MemWf t) ∧ (∀ r, releaseN a0 a1 a2 s = .error r → r.MemWf) := by
  induction a2 generalizing s with
  | zero => exact ⟨fun t ht => (by cases ht; exact h), fun r hr => (by cases hr)⟩
  | succ n ih =>
    constructor <;> intro t ht <;> unfold releaseN at ht <;> (repeat' split at ht) <;>
      grind [→ implicitRelease_ok_memWf, → implicitRelease_err_memWf, Run.MemWf]
theorem releaseN_ok_memWf (a0) (a1) (a2) (s : State) (h : MemWf s) : ∀ t, releaseN a0 a1 a2 s = .ok t → MemWf t :=
  (releaseN_memWf a0 a1 a2 s h).1
theorem releaseN_err_memWf (a0) (a1) (a2) (s : State) (h : MemWf s) : ∀ r, releaseN a0 a1 a2 s = .error r → r.MemWf :=
  (releaseN_memWf a0 a1 a2 s h).2
theorem bodyLweight_memWf (s : State) (a0) (a1) (a2) (h : MemWf s) : (bodyLweight s a0 a1 a2).MemWf := by
  unfold bodyLweight
  grind [implicitWait_memWf, modCore_memWf, raiseCore_memWf, releaseN_err_memWf, releaseN_ok_memWf, takeCrates_memWf, weightRefusal_memWf, Run.MemWf, FabRun.MemWf, ResMemWf]
theorem execLweight_memWf (a0) (a1) (s : State) (h : MemWf s) : ResMemWf (execLweight a0 a1 s) := by
  unfold execLweight
  grind [bodyLweight_memWf, issue_memWf, Run.MemWf, FabRun.MemWf, ResMemWf]
theorem bodyLdiag_memWf (s : State) (a0) (a1) (a2) (h : MemWf s) : (bodyLdiag s a0 a1 a2).MemWf := by
  unfold bodyLdiag
  grind [implicitWait_memWf, modCore_memWf, releaseN_err_memWf, releaseN_ok_memWf, takeCrate_memWf, Run.MemWf, FabRun.MemWf, ResMemWf]
theorem execLdiag_memWf (a0) (a1) (s : State) (h : MemWf s) : ResMemWf (execLdiag a0 a1 s) := by
  unfold execLdiag
  grind [bodyLdiag_memWf, issue_memWf, Run.MemWf, FabRun.MemWf, ResMemWf]
end Sys2Proof.Machine
end

section
/-!
The canonical form of memory is kept, operation by operation.
-/
namespace Sys2Proof.Machine

/-! ### the Matrix -/

theorem weighMismatch_memWf (s : State) (a0) (a1) (a2) (a3) (a4) (a5) (h : MemWf s) : MemWf (weighMismatch s a0 a1 a2 a3 a4 a5) := by
  unfold weighMismatch
  repeat' first
    | with_reducible assumption
    | with_reducible refine foldl_memWf (fun _ _ _ => ?_) _ ?_
    | with_reducible apply countEvent_memWf
    | with_reducible apply logRec_memWf
    | with_reducible apply modCore_memWf
    | with_reducible apply modUnit_memWf
    | with_reducible apply raiseCore_memWf
theorem weighAll_memWf {s : State} {core q level : Nat} {xs : List (Nat × Nat × Option Nat)} (h : MemWf s) :
    MemWf (xs.foldl (fun s x => weighMismatch s core q x.1 x.2.1 level x.2.2) s) := by
  induction xs generalizing s with
  | nil => exact h
  | cons a t ih =>
    rw [List.foldl_cons]
    exact ih (weighMismatch_memWf _ _ _ _ _ _ _ h)

theorem bodyMpass_memWf (s : State) (a0) (a1) (a2) (h : MemWf s) : (bodyMpass s a0 a1 a2).MemWf := by
  have hm : ∀ c w fs n r, mpassRefusal c w fs n = some r → (r s).MemWf := by
    intro c w fs n r hr
    unfold mpassRefusal at hr
    dsimp only at hr
    repeat' split at hr
    all_goals first | (cases hr; done) | (cases hr; exact h)
  have hd : ∀ core c e g i j k l, MemWf (if (e : Bool) then raiseCore (setCore s core c) 0xEF g i j k l else setCore s core c) :=
    fun core c e g i j k l => ite_memWf (raiseCore_memWf _ _ _ _ _ _ _ (setCore_memWf _ _ _ h)) (setCore_memWf _ _ _ h)
  unfold bodyMpass
  extract_lets c base count clear level fs
  split
  · rename_i hr
    exact hm _ _ _ _ _ hr
  · split
    extract_lets s1 s2
    have h2 : MemWf s2 := hd _ _ _ _ _ _ _ _
    clear_value s2
    split
    · exact memWf_done (weighAll_memWf h2)
    · exact h2
theorem execMpass_memWf (a0) (a1) (s : State) (h : MemWf s) : ResMemWf (execMpass a0 a1 s) := by
  unfold execMpass
  grind [bodyMpass_memWf, issue_memWf, Run.MemWf, FabRun.MemWf, ResMemWf]
theorem bodyMdiag_memWf (s : State) (a0) (a1) (a2) (h : MemWf s) : (bodyMdiag s a0 a1 a2).MemWf := by
  unfold bodyMdiag
  grind [setCore_memWf, Run.MemWf, FabRun.MemWf, ResMemWf]
theorem execMdiag_memWf (a0) (a1) (s : State) (h : MemWf s) : ResMemWf (execMdiag a0 a1 s) := by
  unfold execMdiag
  grind [bodyMdiag_memWf, issue_memWf, Run.MemWf, FabRun.MemWf, ResMemWf]
theorem bodyMdrain_memWf (s : State) (a0) (a1) (a2) (h : MemWf s) : (bodyMdrain s a0 a1 a2).MemWf := by
  unfold bodyMdrain
  grind [raiseCrate_memWf, setCore_memWf, Run.MemWf, FabRun.MemWf, ResMemWf]
theorem execMdrain_memWf (a0) (a1) (s : State) (h : MemWf s) : ResMemWf (execMdrain a0 a1 s) := by
  unfold execMdrain
  grind [bodyMdrain_memWf, issue_memWf, Run.MemWf, FabRun.MemWf, ResMemWf]
theorem bodyMfloor_memWf (s : State) (a0) (a1) (a2) (h : MemWf s) : (bodyMfloor s a0 a1 a2).MemWf := by
  unfold bodyMfloor
  grind [modCore_memWf, Run.MemWf, FabRun.MemWf, ResMemWf]
theorem execMfloor_memWf (a0) (a1) (s : State) (h : MemWf s) : ResMemWf (execMfloor a0 a1 s) := by
  unfold execMfloor
  grind [bodyMfloor_memWf, issue_memWf, Run.MemWf, FabRun.MemWf, ResMemWf]
theorem execActivityFrame_memWf (a0) (a1) (s : State) (h : MemWf s) : ResMemWf (execActivityFrame a0 a1 s) := by
  unfold execActivityFrame
  grind [modCore_memWf, Run.MemWf, FabRun.MemWf, ResMemWf]

/-! ### the Packer -/

theorem bodyPset_memWf (s : State) (a0) (a1) (a2) (h : MemWf s) : (bodyPset s a0 a1 a2).MemWf := by
  unfold bodyPset
  grind [modCore_memWf, Run.MemWf, FabRun.MemWf, ResMemWf]
theorem execPset_memWf (a0) (a1) (s : State) (h : MemWf s) : ResMemWf (execPset a0 a1 s) := by
  unfold execPset
  grind [bodyPset_memWf, issue_memWf, Run.MemWf, FabRun.MemWf, ResMemWf]
theorem packSlot_memWf (a0) (a1) (a2) (a3) (s : State) (a4) (h : MemWf s) : (∀ t, packSlot a0 a1 a2 a3 s a4 = .ok t → MemWf t.1) ∧ (∀ r, packSlot a0 a1 a2 a3 s a4 = .error r → r.MemWf) := by
  induction a1 generalizing a2 s a4 with
  | zero => exact ⟨fun t ht => (by cases ht; exact h), fun r hr => (by cases hr)⟩
  | succ n ih =>
    constructor <;> intro t ht <;> unfold packSlot at ht <;> (try dsimp only at ht) <;> (repeat' split at ht) <;>
      grind [takeCrate_memWf, Run.MemWf]
theorem packSlot_ok_memWf (a0) (a1) (a2) (a3) (s : State) (a4) (h : MemWf s) : ∀ t, packSlot a0 a1 a2 a3 s a4 = .ok t → MemWf t.1 :=
  (packSlot_memWf a0 a1 a2 a3 s a4 h).1
theorem packSlot_err_memWf (a0) (a1) (a2) (a3) (s : State) (a4) (h : MemWf s) : ∀ r, packSlot a0 a1 a2 a3 s a4 = .error r → r.MemWf :=
  (packSlot_memWf a0 a1 a2 a3 s a4 h).2
theorem keepIn_memWf (s : State) (a0) (a1) (h : MemWf s) : MemWf (keepIn s a0 a1) := by
  unfold keepIn
  grind [modCore_memWf]
theorem packFromBin_memWf (a0) (a1) (a2) (a3) (a4) (s : State) (a5) (h : MemWf s) : (∀ t, packFromBin a0 a1 a2 a3 a4 s a5 = .ok t → MemWf t.1) ∧ (∀ r, packFromBin a0 a1 a2 a3 a4 s a5 = .error r → r.MemWf) := by
  induction a4 generalizing s a5 with
  | zero => exact ⟨fun t ht => (by cases ht; exact h), fun r hr => (by cases hr)⟩
  | succ n ih =>
    constructor <;> intro t ht <;> unfold packFromBin at ht <;> (try dsimp only at ht) <;> (repeat' split at ht) <;>
      grind [keepIn_memWf, → packSlot_ok_memWf, → packSlot_err_memWf, → implicitWait_memWf, → implicitRelease_ok_memWf, → implicitRelease_err_memWf, Run.MemWf]
theorem packFromBin_ok_memWf (a0) (a1) (a2) (a3) (a4) (s : State) (a5) (h : MemWf s) : ∀ t, packFromBin a0 a1 a2 a3 a4 s a5 = .ok t → MemWf t.1 :=
  (packFromBin_memWf a0 a1 a2 a3 a4 s a5 h).1
theorem packFromBin_err_memWf (a0) (a1) (a2) (a3) (a4) (s : State) (a5) (h : MemWf s) : ∀ r, packFromBin a0 a1 a2 a3 a4 s a5 = .error r → r.MemWf :=
  (packFromBin_memWf a0 a1 a2 a3 a4 s a5 h).2
theorem predictUnit_memWf (s : State) (a0) (a1) (a2) (a3) (a4) (h : MemWf s) : MemWf (predictUnit s a0 a1 a2 a3 a4).1 := by
  unfold predictUnit
  grind [modMem_mem, wf_patchBytes]
theorem packCrate_memWf (s : State) (a0) (a1) (a2) (a3) (a4) (a5) (a6) (a7) (h : MemWf s) : MemWf (packCrate s a0 a1 a2 a3 a4 a5 a6 a7) := by
  unfold packCrate
  grind [coreLineageNext_memWf, putCrate_memWf]
theorem addCounts_memWf (s : State) (a0) (a1) (a2) (h : MemWf s) : MemWf (addCounts s a0 a1 a2) := by
  unfold addCounts
  grind [modCore_memWf]
theorem packUnit_memWf (s : State) (a0) (a1) (a2) (a3) (a4) (h : MemWf s) : MemWf (packUnit s a0 a1 a2 a3 a4) := by
  unfold packUnit
  grind [addCounts_memWf, packCrate_memWf, predictUnit_memWf]
theorem packUnits_memWf (a0) (a1) (a2) (a3) (a4) (a5) (a6) (s : State) (h : MemWf s) : (∀ t, packUnits a0 a1 a2 a3 a4 a5 a6 s = .ok t → MemWf t) ∧ (∀ r, packUnits a0 a1 a2 a3 a4 a5 a6 s = .error r → r.MemWf) := by
  induction a5 generalizing a6 s with
  | zero => exact ⟨fun t ht => (by cases ht; exact h), fun r hr => (by cases hr)⟩
  | succ n ih =>
    constructor <;> intro t ht <;> unfold packUnits at ht <;> (try dsimp only at ht) <;> (repeat' split at ht) <;>
      grind [packUnit_memWf, modCore_memWf, → implicitWait_memWf, → implicitPost_ok_memWf, → implicitPost_err_memWf, Run.MemWf]
theorem packUnits_ok_memWf (a0) (a1) (a2) (a3) (a4) (a5) (a6) (s : State) (h : MemWf s) : ∀ t, packUnits a0 a1 a2 a3 a4 a5 a6 s = .ok t → MemWf t :=
  (packUnits_memWf a0 a1 a2 a3 a4 a5 a6 s h).1
theorem packUnits_err_memWf (a0) (a1) (a2) (a3) (a4) (a5) (a6) (s : State) (h : MemWf s) : ∀ r, packUnits a0 a1 a2 a3 a4 a5 a6 s = .error r → r.MemWf :=
  (packUnits_memWf a0 a1 a2 a3 a4 a5 a6 s h).2
theorem packTallies_memWf (s : State) (a0) (h : MemWf s) : MemWf (packTallies s a0) := by
  unfold packTallies
  repeat' first
    | with_reducible assumption
    | split
    | with_reducible refine foldl_memWf (fun _ _ _ => ?_) _ ?_
    | with_reducible apply coreTally_memWf
    | with_reducible apply modCore_memWf
    | dsimp only
theorem packInput_memWf (s : State) (a0) (a1) (a2) (h : MemWf s) : (∀ t, packInput s a0 a1 a2 = .ok t → MemWf t.1) ∧ (∀ r, packInput s a0 a1 a2 = .error r → r.MemWf) := by
  constructor <;> intro t ht <;> unfold packInput at ht <;> (try dsimp only at ht) <;> (repeat' split at ht) <;>
    grind [modCore_memWf, → packFromBin_ok_memWf, → packFromBin_err_memWf, Run.MemWf]
theorem packInput_ok_memWf (s : State) (a0) (a1) (a2) (h : MemWf s) : ∀ t, packInput s a0 a1 a2 = .ok t → MemWf t.1 :=
  (packInput_memWf s a0 a1 a2 h).1
theorem packInput_err_memWf (s : State) (a0) (a1) (a2) (h : MemWf s) : ∀ r, packInput s a0 a1 a2 = .error r → r.MemWf :=
  (packInput_memWf s a0 a1 a2 h).2
theorem bodyPpack_memWf (s : State) (a0) (a1) (a2) (h : MemWf s) : (bodyPpack s a0 a1 a2).MemWf := by
  unfold bodyPpack
  grind [keepIn_memWf, → packInput_ok_memWf, → packInput_err_memWf, packTallies_memWf, → packUnits_ok_memWf, → packUnits_err_memWf, Run.MemWf]
theorem execPpack_memWf (a0) (a1) (s : State) (h : MemWf s) : ResMemWf (execPpack a0 a1 s) := by
  unfold execPpack
  grind [bodyPpack_memWf, issue_memWf, Run.MemWf, FabRun.MemWf, ResMemWf]

/-! ### the Vector -/

theorem bodyVloadc_memWf (s : State) (a0) (a1) (a2) (h : MemWf s) : (bodyVloadc s a0 a1 a2).MemWf := by
  unfold bodyVloadc
  grind [modCore_memWf, takeCrate_memWf, Run.MemWf, FabRun.MemWf, ResMemWf]
theorem execVloadc_memWf (a0) (a1) (s : State) (h : MemWf s) : ResMemWf (execVloadc a0 a1 s) := by
  unfold execVloadc
  grind [bodyVloadc_memWf, issue_memWf, Run.MemWf, FabRun.MemWf, ResMemWf]
theorem bodyVstorec_memWf (s : State) (a0) (a1) (a2) (h : MemWf s) : (bodyVstorec s a0 a1 a2).MemWf := by
  unfold bodyVstorec
  grind [coreLineageNext_memWf, putCrate_memWf, Run.MemWf, FabRun.MemWf, ResMemWf]
theorem execVstorec_memWf (a0) (a1) (s : State) (h : MemWf s) : ResMemWf (execVstorec a0 a1 s) := by
  unfold execVstorec
  grind [bodyVstorec_memWf, issue_memWf, Run.MemWf, FabRun.MemWf, ResMemWf]
theorem bodyVrecv_memWf (s : State) (a0) (a1) (a2) (h : MemWf s) : (bodyVrecv s a0 a1 a2).MemWf := by
  unfold bodyVrecv
  grind [setCore_memWf, Run.MemWf, FabRun.MemWf, ResMemWf]
theorem execVrecv_memWf (a0) (a1) (s : State) (h : MemWf s) : ResMemWf (execVrecv a0 a1 s) := by
  unfold execVrecv
  grind [bodyVrecv_memWf, issue_memWf, Run.MemWf, FabRun.MemWf, ResMemWf]
theorem bodyVsplat_memWf (s : State) (a0) (a1) (a2) (h : MemWf s) : (bodyVsplat s a0 a1 a2).MemWf := by
  unfold bodyVsplat
  grind [modCore_memWf, Run.MemWf, FabRun.MemWf, ResMemWf]
theorem execVsplat_memWf (a0) (a1) (s : State) (h : MemWf s) : ResMemWf (execVsplat a0 a1 s) := by
  unfold execVsplat
  grind [bodyVsplat_memWf, issue_memWf, Run.MemWf, FabRun.MemWf, ResMemWf]
theorem bodyVarith_memWf (s : State) (a0) (a1) (a2) (h : MemWf s) : (bodyVarith s a0 a1 a2).MemWf := by
  unfold bodyVarith
  grind [modCore_memWf, Run.MemWf, FabRun.MemWf, ResMemWf]
theorem execVarith_memWf (a0) (a1) (s : State) (h : MemWf s) : ResMemWf (execVarith a0 a1 s) := by
  unfold execVarith
  grind [bodyVarith_memWf, issue_memWf, Run.MemWf, FabRun.MemWf, ResMemWf]
theorem bodyVfunc_memWf (s : State) (a0) (a1) (a2) (h : MemWf s) : (bodyVfunc s a0 a1 a2).MemWf := by
  unfold bodyVfunc
  grind [modCore_memWf, Run.MemWf, FabRun.MemWf, ResMemWf]
theorem execVfunc_memWf (a0) (a1) (s : State) (h : MemWf s) : ResMemWf (execVfunc a0 a1 s) := by
  unfold execVfunc
  grind [bodyVfunc_memWf, issue_memWf, Run.MemWf, FabRun.MemWf, ResMemWf]
theorem bodyVred_memWf (s : State) (a0) (a1) (a2) (h : MemWf s) : (bodyVred s a0 a1 a2).MemWf := by
  unfold bodyVred
  grind [modCore_memWf, Run.MemWf, FabRun.MemWf, ResMemWf]
theorem execVred_memWf (a0) (a1) (s : State) (h : MemWf s) : ResMemWf (execVred a0 a1 s) := by
  unfold execVred
  grind [bodyVred_memWf, issue_memWf, Run.MemWf, FabRun.MemWf, ResMemWf]
theorem bodyVbcast_memWf (s : State) (a0) (a1) (a2) (h : MemWf s) : (bodyVbcast s a0 a1 a2).MemWf := by
  unfold bodyVbcast
  grind [modCore_memWf, Run.MemWf, FabRun.MemWf, ResMemWf]
theorem execVbcast_memWf (a0) (a1) (s : State) (h : MemWf s) : ResMemWf (execVbcast a0 a1 s) := by
  unfold execVbcast
  grind [bodyVbcast_memWf, issue_memWf, Run.MemWf, FabRun.MemWf, ResMemWf]

/-! ### the Sequencer -/

theorem bodySwait_memWf (s : State) (a0) (a1) (a2) (h : MemWf s) : (bodySwait s a0 a1 a2).MemWf := by
  unfold bodySwait
  grind [Run.MemWf, FabRun.MemWf, ResMemWf]
theorem execSwait_memWf (a0) (a1) (s : State) (h : MemWf s) : ResMemWf (execSwait a0 a1 s) := by
  unfold execSwait
  grind [bodySwait_memWf, issue_memWf, Run.MemWf, FabRun.MemWf, ResMemWf]
theorem resumeIns_memWf (s : State) (a0) (a1) (a2) (a3) (body : State → Nat → W128 → Finding → Run)
    (hb : ∀ s c w f, MemWf s → (body s c w f).MemWf) (h : MemWf s) : MemWf (resumeIns s a0 a1 a2 a3 body) := by
  unfold resumeIns
  grind [runIns_memWf]
theorem execSwaitSatisfied_memWf (a0) (s : State) (h : MemWf s) : ResMemWf (execSwaitSatisfied a0 s) := by
  unfold execSwaitSatisfied
  grind [bodySwait_memWf, resumeIns_memWf, Run.MemWf, FabRun.MemWf, ResMemWf]
theorem ssignalAdd_memWf (s : State) (a0) (a1) (h : MemWf s) : MemWf (ssignalAdd s a0 a1) := by
  unfold ssignalAdd
  grind [coreTally_memWf]
theorem bodySsignal_memWf (s : State) (a0) (a1) (a2) (h : MemWf s) : (bodySsignal s a0 a1 a2).MemWf := by
  unfold bodySsignal
  grind [modCore_memWf, ssignalAdd_memWf, Run.MemWf, FabRun.MemWf, ResMemWf]
theorem execSsignal_memWf (a0) (a1) (s : State) (h : MemWf s) : ResMemWf (execSsignal a0 a1 s) := by
  unfold execSsignal
  grind [bodySsignal_memWf, issue_memWf, Run.MemWf, FabRun.MemWf, ResMemWf]
theorem bodyDrainDone_memWf (s : State) (a0) (a1) (a2) (h : MemWf s) : (bodyDrainDone s a0 a1 a2).MemWf := by
  unfold bodyDrainDone
  grind [ssignalAdd_memWf, Run.MemWf, FabRun.MemWf, ResMemWf]
theorem execSsignalDrainDone_memWf (a0) (s : State) (h : MemWf s) : ResMemWf (execSsignalDrainDone a0 s) := by
  unfold execSsignalDrainDone
  grind [bodyDrainDone_memWf, resumeIns_memWf, Run.MemWf, FabRun.MemWf, ResMemWf]
theorem bodySrepeat_memWf (s : State) (a0) (a1) (a2) (h : MemWf s) : (bodySrepeat s a0 a1 a2).MemWf := by
  unfold bodySrepeat
  grind [modCore_memWf, Run.MemWf, FabRun.MemWf, ResMemWf]
theorem execSrepeat_memWf (a0) (a1) (s : State) (h : MemWf s) : ResMemWf (execSrepeat a0 a1 s) := by
  unfold execSrepeat
  grind [bodySrepeat_memWf, issue_memWf, Run.MemWf, FabRun.MemWf, ResMemWf]
theorem bodySphase_memWf (s : State) (a0) (a1) (a2) (h : MemWf s) : (bodySphase s a0 a1 a2).MemWf := by
  unfold bodySphase
  grind [modCore_memWf, Run.MemWf, FabRun.MemWf, ResMemWf]
theorem execSphase_memWf (a0) (a1) (s : State) (h : MemWf s) : ResMemWf (execSphase a0 a1 s) := by
  unfold execSphase
  grind [bodySphase_memWf, issue_memWf, Run.MemWf, FabRun.MemWf, ResMemWf]
theorem bodySophint_memWf (s : State) (a0) (a1) (a2) (h : MemWf s) : (bodySophint s a0 a1 a2).MemWf := by
  unfold bodySophint
  grind [modCore_memWf, Run.MemWf, FabRun.MemWf, ResMemWf]
theorem execSophint_memWf (a0) (a1) (s : State) (h : MemWf s) : ResMemWf (execSophint a0 a1 s) := by
  unfold execSophint
  grind [bodySophint_memWf, issue_memWf, Run.MemWf, FabRun.MemWf, ResMemWf]

/-! ### holds -/

theorem bodyOf_memWf {st op : Nat} {body} (hb : bodyOf st op = some body) (s : State) (c w f) (h : MemWf s) : (body s c w f).MemWf := by
  unfold bodyOf at hb
  repeat' split at hb
  all_goals cases hb
  all_goals with_reducible first
    | exact bodyDelay_memWf s c w f h | exact bodyFence_memWf s c w f h | exact bodyLstream_memWf s c w f h | exact bodyLweight_memWf s c w f h
    | exact bodyLdiag_memWf s c w f h | exact bodyMpass_memWf s c w f h | exact bodyMdiag_memWf s c w f h | exact bodyMdrain_memWf s c w f h
    | exact bodyMfloor_memWf s c w f h | exact bodyPset_memWf s c w f h | exact bodyPpack_memWf s c w f h | exact bodyVloadc_memWf s c w f h
    | exact bodyVstorec_memWf s c w f h | exact bodyVrecv_memWf s c w f h | exact bodyVsplat_memWf s c w f h | exact bodyVarith_memWf s c w f h
    | exact bodyVfunc_memWf s c w f h | exact bodyVred_memWf s c w f h | exact bodyVbcast_memWf s c w f h | exact bodyPmove_memWf s c w f h
    | exact bodyPgather_memWf s c w f h | exact bodyPscatter_memWf s c w f h | exact bodyPacc_memWf s c w f h | exact bodyPfabric_memWf s c w f h
    | exact bodySwait_memWf s c w f h | exact bodySsignal_memWf s c w f h | exact bodySrepeat_memWf s c w f h | exact bodySphase_memWf s c w f h
    | exact bodySophint_memWf s c w f h

theorem endHold_memWf (s : State) (a0) (a1) (a2) (a3) (h : MemWf s) : MemWf (endHold s a0 a1 a2 a3) := by
  unfold endHold
  split
  · exact h
  · split
    · rename_i hb
      exact resumeIns_memWf _ _ _ _ _ _ (bodyOf_memWf hb) h
    · exact h
theorem execMarkedWaitSatisfied_memWf (a0) (a1) (a2) (s : State) (h : MemWf s) : ResMemWf (execMarkedWaitSatisfied a0 a1 a2 s) := by
  unfold execMarkedWaitSatisfied
  grind [endHold_memWf, Run.MemWf, FabRun.MemWf, ResMemWf]
theorem execArrayHoldClear_memWf (a0) (a1) (a2) (s : State) (h : MemWf s) : ResMemWf (execArrayHoldClear a0 a1 a2 s) := by
  unfold execArrayHoldClear
  grind [endHold_memWf, Run.MemWf, FabRun.MemWf, ResMemWf]

/-! ### management -/

theorem deny_memWf (s : State) (a0) (a1) (a2) (h : MemWf s) : MemWf (deny s a0 a1 a2) := by
  unfold deny
  grind [respond_memWf]
theorem serve_memWf (s : State) (a0) (a1) (a2) (a3) (f : State → State) (hf : ∀ s, MemWf s → MemWf (f s)) (h : MemWf s) : MemWf (serve s a0 a1 a2 a3 f) := by
  unfold serve
  grind [deny_memWf, emit_memWf]
theorem pageAnswer_memWf (s : State) (a0) (a1) (a2) (a3) (h : MemWf s) : MemWf (pageAnswer s a0 a1 a2 a3) := by
  unfold pageAnswer
  grind [freeBytes_memWf, respond_memWf]
theorem execMgmtIdentify_memWf (a0) (a1) (s : State) (h : MemWf s) : ResMemWf (execMgmtIdentify a0 a1 s) := by
  unfold execMgmtIdentify
  grind [pageAnswer_memWf, serve_memWf, Run.MemWf, FabRun.MemWf, ResMemWf]
theorem execTelemetry_memWf (a0) (a1) (a2) (s : State) (h : MemWf s) : ResMemWf (execTelemetry a0 a1 a2 s) := by
  unfold execTelemetry
  grind [deny_memWf, pageAnswer_memWf, serve_memWf, Run.MemWf, FabRun.MemWf, ResMemWf]
theorem execMgmtDiscovery_memWf (a0) (a1) (s : State) (h : MemWf s) : ResMemWf (execMgmtDiscovery a0 a1 s) := by
  unfold execMgmtDiscovery
  grind [deny_memWf, respond_memWf, serve_memWf, Run.MemWf, FabRun.MemWf, ResMemWf]
theorem execMgmtLedgerRead_memWf (a0) (a1) (s : State) (h : MemWf s) : ResMemWf (execMgmtLedgerRead a0 a1 s) := by
  unfold execMgmtLedgerRead
  grind [deny_memWf, respond_memWf, serve_memWf, Run.MemWf, FabRun.MemWf, ResMemWf]
theorem execTotalsRead_memWf (a0) (a1) (s : State) (h : MemWf s) : ResMemWf (execTotalsRead a0 a1 s) := by
  unfold execTotalsRead
  grind [respond_memWf, serve_memWf, Run.MemWf, FabRun.MemWf, ResMemWf]
theorem execSetStall_memWf (a0) (a1) (s : State) (h : MemWf s) : ResMemWf (execSetStall a0 a1 s) := by
  unfold execSetStall
  grind [deny_memWf, modFab_memWf, respond_memWf, serve_memWf, Run.MemWf, FabRun.MemWf, ResMemWf]
theorem closeSessions_memWf (s : State) (h : MemWf s) : MemWf (closeSessions s) := by
  unfold closeSessions
  repeat' first | with_reducible assumption | with_reducible refine foldl_memWf (fun _ _ _ => ?_) _ ?_  | split
  all_goals grind [closeHalf_memWf, setSession_memWf, Run.MemWf, ResMemWf]
theorem assignChip_memWf (s : State) (a0) (a1) (a2) (h : MemWf s) : MemWf (assignChip s a0 a1 a2) := by
  unfold assignChip
  repeat' first
    | with_reducible assumption
    | with_reducible refine foldl_memWf (fun _ _ _ => ?_) _ ?_
    | with_reducible apply closeSessions_memWf
    | with_reducible apply modFab_memWf
    | with_reducible apply modPort_memWf
theorem execAssignChip_memWf (a0) (a1) (s : State) (h : MemWf s) : ResMemWf (execAssignChip a0 a1 s) := by
  unfold execAssignChip
  grind [assignChip_memWf, deny_memWf, respond_memWf, serve_memWf, Run.MemWf, FabRun.MemWf, ResMemWf]
theorem execRouteWrite_memWf (a0) (a1) (s : State) (h : MemWf s) : ResMemWf (execRouteWrite a0 a1 s) := by
  unfold execRouteWrite
  grind [deny_memWf, modFab_memWf, respond_memWf, serve_memWf, Run.MemWf, FabRun.MemWf, ResMemWf]
theorem reclaimNotice_memWf (s : State) (a0) (a1) (h : MemWf s) : MemWf (reclaimNotice s a0 a1) := by
  unfold reclaimNotice
  grind [modMgmt_memWf, modStep_memWf, raiseNotice_memWf, reportVacated_memWf]
theorem reclaimHeard_memWf (s : State) (a0) (h : MemWf s) : MemWf (reclaimHeard s a0) := by
  unfold reclaimHeard
  grind [modMgmt_memWf]
theorem execReclaim_memWf (a0) (a1) (s : State) (h : MemWf s) : ResMemWf (execReclaim a0 a1 s) := by
  unfold execReclaim
  grind [reclaimHeard_memWf, reclaimNotice_memWf, respond_memWf, serve_memWf, Run.MemWf, FabRun.MemWf, ResMemWf]
theorem execReclaimStatus_memWf (a0) (a1) (s : State) (h : MemWf s) : ResMemWf (execReclaimStatus a0 a1 s) := by
  unfold execReclaimStatus
  grind [respond_memWf, serve_memWf, Run.MemWf, FabRun.MemWf, ResMemWf]
theorem execVacatedResend_memWf (s : State) (h : MemWf s) : ResMemWf (execVacatedResend s) := by
  unfold execVacatedResend
  grind [modMgmt_memWf, sendVacated_memWf, Run.MemWf, FabRun.MemWf, ResMemWf]
theorem chunkReady_memWf (s : State) (a0) (a1) (a2) (a3) (h : MemWf s) : MemWf (chunkReady s a0 a1 a2 a3) := by
  unfold chunkReady
  grind [clearBank_memWf, deny_memWf, fwFailed_memWf, modBoot_memWf, programBank_memWf, respond_memWf]
theorem execFwChunk_memWf (a0) (a1) (a2) (s : State) (h : MemWf s) : ResMemWf (execFwChunk a0 a1 a2 s) := by
  unfold execFwChunk
  grind [chunkReady_memWf, deny_memWf, respond_memWf, serve_memWf, Run.MemWf, FabRun.MemWf, ResMemWf]
theorem commitReady_memWf (s : State) (a0) (a1) (h : MemWf s) : MemWf (commitReady s a0 a1) := by
  unfold commitReady
  grind [completeBank_memWf, deny_memWf, fwFailed_memWf, modBoot_memWf, respond_memWf]
theorem commitRecovery_memWf (s : State) (a0) (a1) (a2) (h : MemWf s) : MemWf (commitRecovery s a0 a1 a2) := by
  unfold commitRecovery
  grind [eraseBank_memWf, fwFailed_memWf, levelFour_memWf, programBank_memWf, respond_memWf]
theorem execFwCommit_memWf (a0) (a1) (a2) (s : State) (h : MemWf s) : ResMemWf (execFwCommit a0 a1 a2 s) := by
  unfold execFwCommit
  grind [commitReady_memWf, commitRecovery_memWf, deny_memWf, serve_memWf, Run.MemWf, FabRun.MemWf, ResMemWf]
theorem execMgmtFwHandover_memWf (a0) (a1) (s : State) (h : MemWf s) : ResMemWf (execMgmtFwHandover a0 a1 s) := by
  unfold execMgmtFwHandover
  grind [deny_memWf, fwFailed_memWf, handoverBegin_memWf, handoverGo_memWf, serve_memWf, Run.MemWf, FabRun.MemWf, ResMemWf]
theorem operatorEscalation_memWf (s : State) (a0) (a1) (h : MemWf s) : MemWf (operatorEscalation s a0 a1) := by
  unfold operatorEscalation
  grind [escalate_memWf, levelFour_memWf, requestPower_memWf, setAlert_memWf]
theorem execEscalate_memWf (a0) (a1) (s : State) (h : MemWf s) : ResMemWf (execEscalate a0 a1 s) := by
  unfold execEscalate
  grind [deny_memWf, operatorEscalation_memWf, respond_memWf, serve_memWf, Run.MemWf, FabRun.MemWf, ResMemWf]
theorem execLimit_memWf (a0) (a1) (s : State) (h : MemWf s) : ResMemWf (execLimit a0 a1 s) := by
  unfold execLimit
  grind [deny_memWf, modPwr_memWf, respond_memWf, serve_memWf, Run.MemWf, FabRun.MemWf, ResMemWf]
theorem execNonce_memWf (a0) (a1) (s : State) (h : MemWf s) : ResMemWf (execNonce a0 a1 s) := by
  unfold execNonce
  grind [drawFree_memWf, respond_memWf, serve_memWf, Run.MemWf, FabRun.MemWf, ResMemWf]
theorem execNonceLapse_memWf (s : State) (h : MemWf s) : ResMemWf (execNonceLapse s) := by
  unfold execNonceLapse
  grind [Run.MemWf, FabRun.MemWf, ResMemWf]
theorem dropAllParts_memWf (s : State) (h : MemWf s) : MemWf (dropAllParts s) := by
  unfold dropAllParts
  repeat' first
    | with_reducible assumption
    | with_reducible refine foldl_memWf (fun _ _ _ => ?_) _ ?_
    | with_reducible apply beginTeardown_memWf
    | with_reducible apply dropPart_memWf
    | with_reducible apply finishTeardown_memWf
    | dsimp only
    | split
theorem execSetAddr_memWf (a0) (a1) (s : State) (h : MemWf s) : ResMemWf (execSetAddr a0 a1 s) := by
  unfold execSetAddr
  grind [deny_memWf, modMgmt_memWf, respond_memWf, serve_memWf, Run.MemWf, FabRun.MemWf, ResMemWf]
theorem execAlertClear_memWf (a0) (a1) (s : State) (h : MemWf s) : ResMemWf (execAlertClear a0 a1 s) := by
  unfold execAlertClear
  grind [modMgmt_memWf, respond_memWf, serve_memWf, Run.MemWf, FabRun.MemWf, ResMemWf]
theorem isolate_memWf (s : State) (h : MemWf s) : MemWf (isolate s) := by
  unfold isolate
  grind [logRec_memWf, modMgmt_memWf, raiseUnit_memWf, setAlert_memWf]
theorem execSidebandStuckSda_memWf (a0) (s : State) (h : MemWf s) : ResMemWf (execSidebandStuckSda a0 s) := by
  unfold execSidebandStuckSda
  grind [isolate_memWf, Run.MemWf, FabRun.MemWf, ResMemWf]
theorem execSidebandStuckScl_memWf (s : State) (h : MemWf s) : ResMemWf (execSidebandStuckScl s) := by
  unfold execSidebandStuckScl
  grind [isolate_memWf, Run.MemWf, FabRun.MemWf, ResMemWf]
theorem execSidebandReconnect_memWf (s : State) (h : MemWf s) : ResMemWf (execSidebandReconnect s) := by
  unfold execSidebandReconnect
  grind [modMgmt_memWf, Run.MemWf, FabRun.MemWf, ResMemWf]
theorem execDynamicAddressAssignment_memWf (s : State) (h : MemWf s) : ResMemWf (execDynamicAddressAssignment s) := by
  unfold execDynamicAddressAssignment
  grind [modMgmt_memWf, Run.MemWf, FabRun.MemWf, ResMemWf]
theorem execMgmtPortLinkChange_memWf (a0) (a1) (s : State) (h : MemWf s) : ResMemWf (execMgmtPortLinkChange a0 a1 s) := by
  unfold execMgmtPortLinkChange
  grind [modMgmt_memWf, Run.MemWf, FabRun.MemWf, ResMemWf]
theorem managementMessage_memWf (s : State) (a0) (a1) (a2) (a3) (h : MemWf s) : MemWf (managementMessage s a0 a1 a2 a3) := by
  unfold managementMessage
  grind [deny_memWf, emit_memWf, modMgmt_memWf]
theorem execManagementMessage_memWf (a0) (a1) (a2) (a3) (s : State) (h : MemWf s) : ResMemWf (execManagementMessage a0 a1 a2 a3 s) := by
  unfold execManagementMessage
  grind [managementMessage_memWf, Run.MemWf, FabRun.MemWf, ResMemWf]

/-! ### register writes -/

theorem execHubEscReq_memWf (a0) (s : State) (h : MemWf s) : ResMemWf (execHubEscReq a0 s) := by
  unfold execHubEscReq
  repeat' first | with_reducible assumption | with_reducible refine foldl_memWf (fun _ _ _ => ?_) _ ?_ | with_reducible refine fromHost_memWf ‹_› ?_ | split
  all_goals grind [hubEscReq_memWf, Run.MemWf, ResMemWf]
theorem execHangCfgWrite_memWf (a0) (s : State) (h : MemWf s) : ResMemWf (execHangCfgWrite a0 s) := by
  unfold execHangCfgWrite
  repeat' first | with_reducible assumption | with_reducible refine foldl_memWf (fun _ _ _ => ?_) _ ?_ | with_reducible refine fromHost_memWf ‹_› ?_ | split
  all_goals grind [hangCfgWrite_memWf, Run.MemWf, ResMemWf]
theorem execPwrCfgWrite_memWf (a0) (s : State) (h : MemWf s) : ResMemWf (execPwrCfgWrite a0 s) := by
  unfold execPwrCfgWrite
  repeat' first | with_reducible assumption | with_reducible refine foldl_memWf (fun _ _ _ => ?_) _ ?_ | with_reducible refine fromHost_memWf ‹_› ?_ | split
  all_goals grind [pwrCfgWrite_memWf, Run.MemWf, ResMemWf]
theorem msixRelease_memWf (s : State) (h : MemWf s) : MemWf (msixRelease s) := by
  unfold msixRelease
  repeat' first | with_reducible assumption | with_reducible refine foldl_memWf (fun _ _ _ => ?_) _ ?_  | split
  all_goals grind [emit_memWf, Run.MemWf, ResMemWf]
theorem writeMsix_memWf (s : State) (a0) (a1) (h : MemWf s) : MemWf (writeMsix s a0 a1) := by
  unfold writeMsix
  grind [msixRelease_memWf]
theorem writePinCfg_memWf (s : State) (a0) (a1) (h : MemWf s) : MemWf (writePinCfg s a0 a1) := by
  unfold writePinCfg
  grind [raisePin_memWf, setPin_memWf]
theorem writeRoute_memWf (s : State) (a0) (a1) (h : MemWf s) : MemWf (writeRoute s a0 a1) := by
  unfold writeRoute
  grind
theorem writeRingBase_memWf (s : State) (a0) (a1) (h : MemWf s) : MemWf (writeRingBase s a0 a1) := by
  unfold writeRingBase
  grind [modRing_memWf]
theorem writeQBase_memWf (s : State) (a0) (a1) (h : MemWf s) : MemWf (writeQBase s a0 a1) := by
  unfold writeQBase
  grind [modQueue_memWf]
theorem hubStore_memWf (s : State) (a0) (a1) (a2) (a3) (h : MemWf s) : MemWf (hubStore s a0 a1 a2 a3) := by
  unfold hubStore
  dsimp only
  repeat' first | with_reducible refine ite_memWf ?_ ?_ | split
  all_goals with_reducible first
    | exact h
    | exact writeAperWin_memWf _ _ _ h
    | exact writeMsix_memWf _ _ _ h
    | exact pwrCfgWrite_memWf _ _ h
    | exact writePinCfg_memWf _ _ _ h
    | exact pendingClear_memWf _ _ h
    | exact writeRoute_memWf _ _ _ h
    | exact writeRingBase_memWf _ _ _ h
    | exact writeRingCfg_memWf _ _ _ h
    | exact overflowClear_memWf _ _ _ h
    | exact evtRingHead_memWf _ _ _ h
    | exact partEnable_memWf _ _ _ h
    | exact ctxEnable_memWf _ _ _ h
    | exact grpEnable_memWf _ _ _ h
    | exact grpDisable_memWf _ _ _ h
    | exact writeSubst_memWf _ _ _ h
    | exact stepDirEnable_memWf _ _ h
    | exact stepDirDisable_memWf _ _ h
    | exact modStep_memWf _ _ h
    | exact hangCfgWrite_memWf _ _ h
    | exact modHang_memWf _ _ h
    | exact hubEscReq_memWf _ _ h
    | exact writeQBase_memWf _ _ _ h
    | exact qEnable_memWf _ _ _ h
    | exact qDisable_memWf _ _ _ h
    | exact resumeQueue_memWf _ _ _ h
theorem dieStore_memWf (s : State) (a0) (a1) (a2) (h : MemWf s) : MemWf (dieStore s a0 a1 a2) := by
  unfold dieStore
  grind [genWrite_memWf, modChan_memWf, portDisable_memWf, portEnable_memWf]
theorem barWrite_memWf (s : State) (a0) (a1) (h : MemWf s) : MemWf (barWrite s a0 a1) := by
  unfold barWrite
  grind [dieStore_memWf, hubStore_memWf, setRegErr_memWf]
theorem registerWrite_memWf (s : State) (a0) (a1) (h : MemWf s) : MemWf (registerWrite s a0 a1) := by
  unfold registerWrite
  grind [barWrite_memWf, msixRelease_memWf]
theorem execRegisterWrite_memWf (a0) (a1) (s : State) (h : MemWf s) : ResMemWf (execRegisterWrite a0 a1 s) := by
  unfold execRegisterWrite
  grind [registerWrite_memWf, Run.MemWf, FabRun.MemWf, ResMemWf]

/-! ### time -/

theorem tickArray_memWf (s : State) (h : MemWf s) : MemWf (tickArray s) := by
  unfold tickArray
  grind
theorem tick_memWf (s : State) (h : MemWf s) : MemWf (tick s) := by
  unfold tick
  grind [tickArray_memWf]
end Sys2Proof.Machine
end

section
/-!
The canonical form of memory over every command and step (log entry 4).
-/
namespace Sys2Proof.Machine

theorem signedEffect_memWf {s t : State} {kind arg : Nat} (h : MemWf s) (ht : signedEffect s kind arg = .ok t) : MemWf t := by
  unfold signedEffect at ht
  dsimp only at ht
  split at ht
  case h_5 =>
    split at ht
    · cases ht
    · cases ht
      exact dropAllParts_memWf _ h
  all_goals
    repeat' split at ht
    all_goals cases ht
    all_goals exact h

theorem signed_memWf (s : State) (q : Req) (b : List Byte) (kind : Nat) (h : MemWf s) : MemWf (signed s q b kind) := by
  refine serve_memWf _ _ _ _ _ _ (fun s hs => ?_) h
  have hd : ∀ s r, MemWf s → MemWf (deny s q 0x11 r) := fun s r hs => deny_memWf _ _ _ _ hs
  have hn : MemWf (if s.fuse.nonce == some (BitVec.ofNat 128 (Sha.beNat ((b.drop 0x10).take 16))) then
      { s with fuse := { s.fuse with nonce := none } } else s) := ite_memWf hs hs
  refine ite_memWf (hd _ _ hs) (ite_memWf (hd _ _ hs) (ite_memWf hs (ite_memWf (hd _ _ hs)
    (ite_memWf (hd _ _ hn) (ite_memWf (hd _ _ hn) ?_)))))
  split
  · exact hd _ _ hn
  · rename_i t ht
    exact respond_memWf _ _ _ _ _ _ (signedEffect_memWf hn ht)

theorem execProvision_memWf (q : Req) (body : List Byte) (steps : Nat) (s : State) (h : MemWf s) :
    ResMemWf (execProvision q body steps s) := by
  refine serve_memWf _ _ _ _ _ _ (fun s hs => ?_) h
  split
  · exact deny_memWf _ _ _ _ hs
  · exact ite_memWf (respond_memWf _ _ _ _ _ _ hs) hs

theorem fuseSense_memWf (s : State) (h : MemWf s) : MemWf (fuseSense s) := ite_memWf (modBoot_memWf _ _ h) h

/-- Every command keeps the canonical form. -/
theorem exec_memWf (c : Instr) (s : State) (h : MemWf s) : ResMemWf (exec c s) := by
  cases c with
  | delay => exact execDelay_memWf (h := h) ..
  | fence => exact execFence_memWf (h := h) ..
  | fenceResume => exact execFenceResume_memWf (h := h) ..
  | lstream => exact execLstream_memWf (h := h) ..
  | lweight => exact execLweight_memWf (h := h) ..
  | ldiag => exact execLdiag_memWf (h := h) ..
  | mpass => exact execMpass_memWf (h := h) ..
  | mdiag => exact execMdiag_memWf (h := h) ..
  | mdrain => exact execMdrain_memWf (h := h) ..
  | mfloor => exact execMfloor_memWf (h := h) ..
  | pset => exact execPset_memWf (h := h) ..
  | ppack => exact execPpack_memWf (h := h) ..
  | vloadc => exact execVloadc_memWf (h := h) ..
  | vstorec => exact execVstorec_memWf (h := h) ..
  | vrecv => exact execVrecv_memWf (h := h) ..
  | vsplat => exact execVsplat_memWf (h := h) ..
  | varith => exact execVarith_memWf (h := h) ..
  | vfunc => exact execVfunc_memWf (h := h) ..
  | vred => exact execVred_memWf (h := h) ..
  | vbcast => exact execVbcast_memWf (h := h) ..
  | pmove => exact execPmove_memWf (h := h) ..
  | pacc => exact execPacc_memWf (h := h) ..
  | pgather => exact execPgather_memWf (h := h) ..
  | pscatter => exact execPscatter_memWf (h := h) ..
  | pfabric => exact execPfabric_memWf (h := h) ..
  | markedTransferComplete => exact execMarkedTransferComplete_memWf (h := h) ..
  | swait => exact execSwait_memWf (h := h) ..
  | swaitSatisfied => exact execSwaitSatisfied_memWf (h := h) ..
  | ssignal => exact execSsignal_memWf (h := h) ..
  | ssignalDrainDone => exact execSsignalDrainDone_memWf (h := h) ..
  | srepeat => exact execSrepeat_memWf (h := h) ..
  | sphase => exact execSphase_memWf (h := h) ..
  | sophint => exact execSophint_memWf (h := h) ..
  | markedWaitSatisfied => exact execMarkedWaitSatisfied_memWf (h := h) ..
  | arrayHoldClear => exact execArrayHoldClear_memWf (h := h) ..
  | activityFrame => exact execActivityFrame_memWf (h := h) ..
  | housekeepingWindow => exact execHousekeepingWindow_memWf (h := h) ..
  | launchEdge => exact execLaunchEdge_memWf (h := h) ..
  | launchComplete => exact execLaunchComplete_memWf (h := h) ..
  | packetFetch => exact execPacketFetch_memWf (h := h) ..
  | commandBegin => exact execCommandBegin_memWf (h := h) ..
  | completionRecordWrite => exact execCompletionRecordWrite_memWf (h := h) ..
  | memWrite => exact execMemWrite_memWf (h := h) ..
  | memRead => exact execMemRead_memWf (h := h) ..
  | memCopy => exact execMemCopy_memWf (h := h) ..
  | memFill => exact execMemFill_memWf (h := h) ..
  | memRetag => exact execMemRetag_memWf (h := h) ..
  | sliceMode => exact execSliceMode_memWf (h := h) ..
  | launch => exact execLaunch_memWf (h := h) ..
  | launchAbort => exact execLaunchAbort_memWf (h := h) ..
  | tallyNop => exact execTallyNop_memWf (h := h) ..
  | tallyAdd => exact execTallyAdd_memWf (h := h) ..
  | tallyRead => exact execTallyRead_memWf (h := h) ..
  | tallyEpoch => exact execTallyEpoch_memWf (h := h) ..
  | phaseMapLoad => exact execPhaseMapLoad_memWf (h := h) ..
  | phaseSwitch => exact execPhaseSwitch_memWf (h := h) ..
  | allReduce => exact execAllReduce_memWf (h := h) ..
  | reduceScatter => exact execReduceScatter_memWf (h := h) ..
  | allGather => exact execAllGather_memWf (h := h) ..
  | broadcast => exact execBroadcast_memWf (h := h) ..
  | collectiveComplete => exact execCollectiveComplete_memWf (h := h) ..
  | stepBegin => exact execStepBegin_memWf (h := h) ..
  | stepReplay => exact execStepReplay_memWf (h := h) ..
  | crossWeigh => exact execCrossWeigh_memWf (h := h) ..
  | crossWeighOutcome => exact execCrossWeighOutcome_memWf (h := h) ..
  | checkpoint => exact execCheckpoint_memWf (h := h) ..
  | checkpointCommit => exact execCheckpointCommit_memWf (h := h) ..
  | vacate => exact execVacate_memWf (h := h) ..
  | takeover => exact execTakeover_memWf (h := h) ..
  | stepConfig => exact execStepConfig_memWf (h := h) ..
  | identify => exact execIdentify_memWf (h := h) ..
  | telemetryRead => exact execTelemetryRead_memWf (h := h) ..
  | ledgerRead => exact execLedgerRead_memWf (h := h) ..
  | fwStage => exact execFwStage_memWf (h := h) ..
  | fwHandover => exact execFwHandover_memWf (h := h) ..
  | fieldTest => exact execFieldTest_memWf (h := h) ..
  | chTestEnter => exact execChTestEnter_memWf (h := h) ..
  | chTestExit => exact execChTestExit_memWf (h := h) ..
  | marginSweep => exact execMarginSweep_memWf (h := h) ..
  | marginStop => exact execMarginStop_memWf (h := h) ..
  | captureRead => exact execCaptureRead_memWf (h := h) ..
  | partCreate => exact execPartCreate_memWf (h := h) ..
  | partDestroy => exact execPartDestroy_memWf (h := h) ..
  | ctxCreate => exact execCtxCreate_memWf (h := h) ..
  | ctxSet => exact execCtxSet_memWf (h := h) ..
  | ctxDestroy => exact execCtxDestroy_memWf (h := h) ..
  | teardownComplete => exact execTeardownComplete_memWf (h := h) ..
  | revokeTimeout => exact execRevokeTimeout_memWf (h := h) ..
  | quarantineEnd => exact execQuarantineEnd_memWf (h := h) ..
  | sqDoorbell => exact execSqDoorbell_memWf (h := h) ..
  | cqDoorbell => exact execCqDoorbell_memWf (h := h) ..
  | qEnable => exact execQEnable_memWf (h := h) ..
  | qDisable => exact execQDisable_memWf (h := h) ..
  | queueDrainDone => exact execQueueDrainDone_memWf (h := h) ..
  | resume => exact execResume_memWf (h := h) ..
  | queueResumed => exact execQueueResumed_memWf (h := h) ..
  | hostBackpressure => exact execHostBackpressure_memWf (h := h) ..
  | aperWinEnable => exact execAperWinEnable_memWf (h := h) ..
  | apertureRead => exact execApertureRead_memWf (h := h) ..
  | apertureWrite => exact execApertureWrite_memWf (h := h) ..
  | partEnable => exact execPartEnable_memWf (h := h) ..
  | ctxEnable => exact execCtxEnable_memWf (h := h) ..
  | portEnable => exact execPortEnable_memWf (h := h) ..
  | portDisable => exact execPortDisable_memWf (h := h) ..
  | grpEnable => exact execGrpEnable_memWf (h := h) ..
  | grpDisable => exact execGrpDisable_memWf (h := h) ..
  | grpSubstEnable => exact execGrpSubstEnable_memWf (h := h) ..
  | stepDirEnable => exact execStepDirEnable_memWf (h := h) ..
  | stepDirDisable => exact execStepDirDisable_memWf (h := h) ..
  | evtRingEnable => exact execEvtRingEnable_memWf (h := h) ..
  | evtRingDisable => exact execEvtRingDisable_memWf (h := h) ..
  | evtRingHead => exact execEvtRingHead_memWf (h := h) ..
  | evtEoi => exact execEvtEoi_memWf (h := h) ..
  | pendingClear => exact execPendingClear_memWf (h := h) ..
  | overflowClear => exact execOverflowClear_memWf (h := h) ..
  | hubEscReq => exact execHubEscReq_memWf (h := h) ..
  | hangCfgWrite => exact execHangCfgWrite_memWf (h := h) ..
  | pwrCfgWrite => exact execPwrCfgWrite_memWf (h := h) ..
  | genStart => exact execGenStart_memWf (h := h) ..
  | genStop => exact execGenStop_memWf (h := h) ..
  | registerWrite => exact execRegisterWrite_memWf (h := h) ..
  | regReadRefused => exact execRegReadRefused_memWf (h := h) ..
  | functionLevelReset => exact execFunctionLevelReset_memWf (h := h) ..
  | perst => exact execPerst_memWf (h := h) ..
  | pcieLinkDown => exact execPcieLinkDown_memWf (h := h) ..
  | pcieReadError => exact execPcieReadError_memWf (h := h) ..
  | dramRefresh chan => exact execDramRefresh_memWf chan s h
  | recalibration => exact execRecalibration_memWf (h := h) ..
  | patrolScrubStep => exact execPatrolScrubStep_memWf (h := h) ..
  | memoryLaneRetire => exact execMemoryLaneRetire_memWf (h := h) ..
  | scrubStarved => exact execScrubStarved_memWf (h := h) ..
  | fieldTestDue => exact execFieldTestDue_memWf (h := h) ..
  | standingRecovery => exact execStandingRecovery_memWf (h := h) ..
  | counterMirror => exact execCounterMirror_memWf (h := h) ..
  | ledgerPageProgram => exact execLedgerPageProgram_memWf (h := h) ..
  | holdupStateChange => exact execHoldupStateChange_memWf (h := h) ..
  | ledgerFlashFail => exact execLedgerFlashFail_memWf (h := h) ..
  | flitReceive => exact execFlitReceive_memWf (h := h) ..
  | frameSend => exact execFrameSend_memWf (h := h) ..
  | put => exact execPut_memWf (h := h) ..
  | accPut => exact execAccPut_memWf (h := h) ..
  | getReq => exact execGetReq_memWf (h := h) ..
  | getData => exact execGetData_memWf (h := h) ..
  | tallyAddFrame => exact execTallyAddFrame_memWf (h := h) ..
  | collGrant => exact execCollGrant_memWf (h := h) ..
  | collData => exact execCollData_memWf (h := h) ..
  | void => exact execVoid_memWf (h := h) ..
  | error => exact execError_memWf (h := h) ..
  | revoke => exact execRevoke_memWf (h := h) ..
  | revokeAck => exact execRevokeAck_memWf (h := h) ..
  | bind => exact execBind_memWf (h := h) ..
  | bindReply => exact execBindReply_memWf (h := h) ..
  | ack => exact execAck_memWf (h := h) ..
  | nak => exact execNak_memWf (h := h) ..
  | openReq => exact execOpen_memWf (h := h) ..
  | openAck => exact execOpenAck_memWf (h := h) ..
  | bell => exact execBell_memWf (h := h) ..
  | time => exact execTime_memWf (h := h) ..
  | discovery => exact execDiscovery_memWf (h := h) ..
  | ackTimer => exact execAckTimer_memWf (h := h) ..
  | retransmitTimeout => exact execRetransmitTimeout_memWf (h := h) ..
  | openRetry => exact execOpenRetry_memWf (h := h) ..
  | discoverySend => exact execDiscoverySend_memWf (h := h) ..
  | discoveryTimeout => exact execDiscoveryTimeout_memWf (h := h) ..
  | portLinkLost => exact execPortLinkLost_memWf (h := h) ..
  | portTrainingDone => exact execPortTrainingDone_memWf (h := h) ..
  | portTrainingRetry => exact execPortTrainingRetry_memWf (h := h) ..
  | fabricLaneRetire => exact execFabricLaneRetire_memWf (h := h) ..
  | portBackpressure => exact execPortBackpressure_memWf (h := h) ..
  | timeExchange => exact execTimeExchange_memWf (h := h) ..
  | collectiveSilence => exact execCollectiveSilence_memWf (h := h) ..
  | bellResend => exact execBellResend_memWf (h := h) ..
  | groupBackpressure => exact execGroupBackpressure_memWf (h := h) ..
  | vacateAuto => exact execVacateAuto_memWf (h := h) ..
  | vacateNoTakeover => exact execVacateNoTakeover_memWf (h := h) ..
  | holderTimeout => exact execHolderTimeout_memWf (h := h) ..
  | hangEvaluation => exact execHangEvaluation_memWf (h := h) ..
  | escalationContext => exact execEscalationContext_memWf (h := h) ..
  | escalationEngine => exact execEscalationEngine_memWf (h := h) ..
  | escalationPartition => exact execEscalationPartition_memWf (h := h) ..
  | escalationChip => exact execEscalationChip_memWf (h := h) ..
  | escalationPowerCycle => exact execEscalationPowerCycle_memWf (h := h) ..
  | coreStopTimeout => exact execCoreStopTimeout_memWf (h := h) ..
  | heartbeatMissed => exact execHeartbeatMissed_memWf (h := h) ..
  | engineNoAnswer => exact execEngineNoAnswer_memWf (h := h) ..
  | escalationOverrun => exact execEscalationOverrun_memWf (h := h) ..
  | stewardWatchdog => exact execStewardWatchdog_memWf (h := h) ..
  | readyTimeout => exact execReadyTimeout_memWf (h := h) ..
  | powerOn => exact wf_reset
  | resetNAsserted => exact execResetNAsserted_memWf (h := h) ..
  | assertionEnd => exact execAssertionEnd_memWf (h := h) ..
  | fuseSense => exact fuseSense_memWf _ h
  | optionLoading => exact execOptionLoading_memWf (h := h) ..
  | bootRom => exact execBootRom_memWf (h := h) ..
  | firmwarePhase => exact execFirmwarePhase_memWf (h := h) ..
  | phyTraining => exact execPhyTraining_memWf (h := h) ..
  | ready => exact execReady_memWf (h := h) ..
  | eventRecordWrite => exact execEventRecordWrite_memWf (h := h) ..
  | interruptTake => exact execInterruptTake_memWf (h := h) ..
  | pinChange => exact execPinChange_memWf (h := h) ..
  | referenceLost => exact execReferenceLost_memWf (h := h) ..
  | pllLockLost => exact execPllLockLost_memWf (h := h) ..
  | opTargetChange => exact execOpTargetChange_memWf (h := h) ..
  | opSwitch => exact execOpSwitch_memWf (h := h) ..
  | backstopTick => exact execBackstopTick_memWf (h := h) ..
  | backstopLimitUpdate => exact execBackstopLimitUpdate_memWf (h := h) ..
  | droop => exact execDroop_memWf (h := h) ..
  | thermalResponse => exact execThermalResponse_memWf (h := h) ..
  | inputOutOfRange => exact execInputOutOfRange_memWf (h := h) ..
  | inputLoss => exact execInputLoss_memWf (h := h) ..
  | auxLoss => exact execAuxLoss_memWf (h := h) ..
  | mgmtIdentify => exact execMgmtIdentify_memWf (h := h) ..
  | telemetry => exact execTelemetry_memWf (h := h) ..
  | mgmtDiscovery => exact execMgmtDiscovery_memWf (h := h) ..
  | setStall => exact execSetStall_memWf (h := h) ..
  | assignChip => exact execAssignChip_memWf (h := h) ..
  | routeWrite => exact execRouteWrite_memWf (h := h) ..
  | reclaim => exact execReclaim_memWf (h := h) ..
  | reclaimStatus => exact execReclaimStatus_memWf (h := h) ..
  | vacatedResend => exact execVacatedResend_memWf (h := h) ..
  | mgmtLedgerRead => exact execMgmtLedgerRead_memWf (h := h) ..
  | totalsRead => exact execTotalsRead_memWf (h := h) ..
  | fwChunk => exact execFwChunk_memWf (h := h) ..
  | fwCommit => exact execFwCommit_memWf (h := h) ..
  | mgmtFwHandover => exact execMgmtFwHandover_memWf (h := h) ..
  | escalate => exact execEscalate_memWf (h := h) ..
  | limit => exact execLimit_memWf (h := h) ..
  | nonce => exact execNonce_memWf (h := h) ..
  | nonceLapse => exact execNonceLapse_memWf (h := h) ..
  | keyRevocation => exact signed_memWf _ _ _ _ h
  | templateRevocation => exact signed_memWf _ _ _ _ h
  | debugRevocation => exact signed_memWf _ _ _ _ h
  | securityVersionRaise => exact signed_memWf _ _ _ _ h
  | scanUnlock => exact signed_memWf _ _ _ _ h
  | rmaEntry => exact signed_memWf _ _ _ _ h
  | provision => exact execProvision_memWf _ _ _ _ h
  | setAddr => exact execSetAddr_memWf (h := h) ..
  | alertClear => exact execAlertClear_memWf (h := h) ..
  | sidebandStuckSda => exact execSidebandStuckSda_memWf (h := h) ..
  | sidebandStuckScl => exact execSidebandStuckScl_memWf (h := h) ..
  | sidebandReconnect => exact execSidebandReconnect_memWf (h := h) ..
  | powerCycleTimeout => exact execPowerCycleTimeout_memWf (h := h) ..
  | fieldTestResult => exact execFieldTestResult_memWf (h := h) ..
  | genPassesDone => exact execGenPassesDone_memWf (h := h) ..
  | pcieLinkUp => exact execPcieLinkUp_memWf (h := h) ..
  | referenceRestored => exact execReferenceRestored_memWf (h := h) ..
  | inputBackInRange => exact execInputBackInRange_memWf (h := h) ..
  | pllLockTimeout => exact execPllLockTimeout_memWf (h := h) ..
  | handoverTimeout => exact execHandoverTimeout_memWf (h := h) ..
  | replayDrainTimeout => exact execReplayDrainTimeout_memWf (h := h) ..
  | transferCancelTimeout => exact execTransferCancelTimeout_memWf (h := h) ..
  | sliceScrubPass => exact execSliceScrubPass_memWf (h := h) ..
  | mgmtPortLinkChange => exact execMgmtPortLinkChange_memWf (h := h) ..
  | dynamicAddressAssignment => exact execDynamicAddressAssignment_memWf (h := h) ..
  | managementMessage => exact execManagementMessage_memWf (h := h) ..

/-- Settles O55: an idle tick leaves memory alone, and every command keeps its form. -/
theorem memoryCanonical : Obligations.MemoryCanonical := by
  intro s t hwf hst
  cases hp : s.pending with
  | nil =>
    rw [step_nil hp] at hst
    cases hst
    exact tick_memWf s hwf
  | cons c rest =>
    rw [step_cons hp] at hst
    have h := exec_memWf c { s with pending := rest } hwf
    rw [hst] at h
    exact h

end Sys2Proof.Machine
end

section
/-!
What ends a command: one equation for each way in which a command of the table ends (09/R298, R307).
-/
namespace Sys2Proof.Machine

/-- A command of the host over an open link answers what it does. -/
theorem runs_host {c : Instr} {s t : State} {P : State → Prop} (ho : hostOpen s = true) (hx : exec c s = fromHost s t) (h : P t) :
    Runs c s P := ⟨t, by rw [hx, fromHost, if_pos ho], h⟩

theorem runs_host_eq {c : Instr} {s t u : State} {P : State → Prop} (ho : hostOpen s = true) (hx : exec c s = fromHost s t) (ht : t = u)
    (h : P u) : Runs c s P := runs_host ho hx (ht ▸ h)

theorem runs_eq {c : Instr} {s t u : State} {P : State → Prop} (hx : exec c s = .next t) (ht : t = u) (h : P u) : Runs c s P :=
  ⟨t, hx, ht ▸ h⟩

/-- What a command answers has what is claimed of it. -/
theorem Runs.of_exec {c : Instr} {s t : State} {P : State → Prop} (h : Runs c s P) (hx : exec c s = .next t) : P t := by
  obtain ⟨u, hu, hp⟩ := h
  have he : t = u := by
    rw [hx] at hu
    injection hu
  exact he ▸ hp

/-! ### The begun command of a slot -/

theorem begun_iff {s : State} {slot op : Nat} {c : Cmd} :
    begun s slot op = some c ↔ findCmd s slot = some c ∧ c.phase = 1 ∧ Pkt.opcode c.packet = op := by
  unfold begun
  cases findCmd s slot with
  | none => simp
  | some d =>
    dsimp only
    split
    · rename_i h
      constructor
      · rintro ⟨⟩
        exact ⟨rfl, h⟩
      · rintro ⟨⟨⟩, _⟩
        rfl
    · rename_i h
      constructor
      · rintro ⟨⟩
      · rintro ⟨⟨⟩, h'⟩
        exact absurd h' h

/-! ### The end of a command -/

/-- What a command that failed or was refused leaves of its queue (09/R307). -/
def failedQueue (c : Cmd) (reason : Nat) (x : Queue) : Queue :=
  if x.state = 1 ∨ x.state = 3 then { x with state := 2, reason, failAt := c.ord } else { x with reason }

@[simp] theorem failedQueue_reason (c : Cmd) (reason : Nat) (x : Queue) : (failedQueue c reason x).reason = reason := by
  unfold failedQueue
  split <;> rfl

theorem failedQueue_state {c : Cmd} {reason : Nat} {x : Queue} (h : x.state = 1 ∨ x.state = 3) : (failedQueue c reason x).state = 2 := by
  rw [failedQueue, if_pos h]

/-- No crate of a command is gathered in part. -/
def Uncut (c : Cmd) : Prop := c.phase = 1 → c.gather = []

theorem setEnded_eq {s : State} {slot : Nat} {c : Cmd} (e : EndWith) (hf : findCmd s slot = some c) (hg : Uncut c) :
    setEnded s slot e = { s with cmds := endedCmds s slot e } := by
  unfold setEnded
  rw [hf]
  dsimp only
  split
  · rename_i hp
    rw [cutShort, if_pos (hg hp)]
    rfl
  · rfl

theorem chargeEnd_of_cls {s : State} {c : Cmd} {e : EndWith} (h3 : e.cls ≠ 3) (h2 : e.cls ≤ 1 ∨ Pkt.opcode c.packet < 0x0410 ∨ 0x0413 < Pkt.opcode c.packet) :
    chargeEnd s c e = s := by
  unfold chargeEnd
  exact if_neg (by omega)

/-- A command that succeeds ends, and nothing else changes. -/
theorem endCmd_succeeds {s : State} {slot : Nat} {c : Cmd} {e : EndWith} (hf : findCmd s slot = some c) (hg : Uncut c)
    (he : e.cls ≤ 1) : endCmd s slot e = { s with cmds := endedCmds s slot e } := by
  unfold endCmd
  rw [hf]
  dsimp only
  rw [chargeEnd_of_cls (by omega) (.inl he), setEnded_eq e hf hg, if_neg (by omega)]

/-- A failed command that is the last of its queue puts it into the error state. -/
theorem failQueue_last {s : State} {c : Cmd} {reason : Nat} (hl : ∀ d ∈ queueCmds s c.queue, d.ord ≤ c.ord) :
    failQueue s c reason = modQueue s c.queue (failedQueue c reason) := by
  have hn : (queueCmds s c.queue).filter (fun d => decide (c.ord < d.ord)) = [] :=
    List.filter_eq_nil_iff.mpr fun d hd => by simpa using hl d hd
  show List.foldl _ _ (List.filter _ (queueCmds s c.queue)) = _
  rw [hn]
  rfl

theorem endedCmds_last {s : State} {slot ord q : Nat} {e : EndWith} (hl : ∀ d ∈ queueCmds s q, d.ord ≤ ord) :
    ∀ d ∈ queueCmds { s with cmds := endedCmds s slot e } q, d.ord ≤ ord := by
  intro d hd
  simp only [queueCmds, endedCmds, List.mem_filter, List.mem_map] at hd
  obtain ⟨⟨b, hb, rfl⟩, hq⟩ := hd
  have := hl b (by
    simp only [queueCmds, List.mem_filter]
    refine ⟨hb, ?_⟩
    split at hq <;> exact hq)
  split <;> exact this

/-- A refused command, the last of its queue, ends with class 2 and its queue stops. -/
theorem endCmd_refused {s : State} {slot : Nat} {c : Cmd} {e : EndWith} (hf : findCmd s slot = some c) (hg : Uncut c)
    (he : e.cls = 2) (hop : Pkt.opcode c.packet < 0x0410 ∨ 0x0413 < Pkt.opcode c.packet)
    (hl : ∀ d ∈ queueCmds s c.queue, d.ord ≤ c.ord) :
    endCmd s slot e = modQueue { s with cmds := endedCmds s slot e } c.queue (failedQueue c e.reason) := by
  unfold endCmd
  rw [hf]
  dsimp only
  rw [chargeEnd_of_cls (by omega) (.inr hop), setEnded_eq e hf hg, if_pos (.inl he), failQueue_last (endedCmds_last hl)]

theorem chargeStep_frame (s : State) (n reason : Nat) :
    chargeStep s n reason = { s with mem := (chargeStep s n reason).mem, stepSt := (chargeStep s n reason).stepSt } := rfl

theorem chargeNow_frame (s : State) (ctx gen reason : Nat) :
    chargeNow s ctx gen reason = { s with mem := (chargeNow s ctx gen reason).mem, stepSt := (chargeNow s ctx gen reason).stepSt } := by
  unfold chargeNow
  split <;> rfl

/-- A failed command, the last of its queue, ends with class 3, is charged to the step, and its queue stops. -/
theorem endCmd_failed {s : State} {slot : Nat} {c : Cmd} {e : EndWith} (hf : findCmd s slot = some c) (hg : Uncut c)
    (he : e.cls = 3) (hl : ∀ d ∈ queueCmds s c.queue, d.ord ≤ c.ord) :
    endCmd s slot e = modQueue (chargeNow { s with cmds := endedCmds s slot e } (Pkt.ctx c.packet) (Pkt.gen c.packet) e.reason)
      c.queue (failedQueue c e.reason) := by
  unfold endCmd
  rw [hf]
  dsimp only
  rw [setEnded_eq e hf hg, if_pos (.inr (.inl he)), chargeEnd, if_pos (.inl he), failQueue_last]
  rw [chargeNow_frame]
  exact endedCmds_last (s := s) hl

theorem IsBegun.find {s : State} {slot op : Nat} {c : Cmd} (h : IsBegun s slot op c) : findCmd s slot = some c := (begun_iff.mp h.1).1
theorem IsBegun.opcode {s : State} {slot op : Nat} {c : Cmd} (h : IsBegun s slot op c) : Pkt.opcode c.packet = op := (begun_iff.mp h.1).2.2
theorem IsBegun.uncut {s : State} {slot op : Nat} {c : Cmd} (h : IsBegun s slot op c) : Uncut c := fun _ => h.2.1

end Sys2Proof.Machine
end

section
/-!
Doorbells, the begin of a command, its record, and the fetch of a packet (09/R284, R285, R292, R298, R300, R304).
-/
namespace Sys2Proof.Machine

/-! ### Doorbells -/

theorem sqDoorbell_moves {s : State} {q v : Nat} (he : qEnabled (getQueue s q) = true) (hs : qSubmits q (getQueue s q) = true)
    (h4 : (getQueue s q).state ≠ 4) (hv : v < qSize (getQueue s q)) :
    sqDoorbell s q v = modQueue s q (fun x => { x with tail := v }) := by
  simp [sqDoorbell, he, hs, h4, Nat.not_le.mpr hv]

theorem cqDoorbell_moves {s : State} {q v : Nat} (he : qEnabled (getQueue s q) = true) (hs : qSubmits q (getQueue s q) = false)
    (h4 : (getQueue s q).state ≠ 4) (hv : v < qSize (getQueue s q)) :
    cqDoorbell s q v = modQueue s q (fun x => { x with head := v, signalled := false }) := by
  simp [cqDoorbell, he, hs, h4, Nat.not_le.mpr hv]

theorem sqDoorbell_disabled {s : State} {q v : Nat} (he : qEnabled (getQueue s q) = false) :
    sqDoorbell s q v = modQueue s q (fun x => { x with reason := 0x04 }) := by
  simp [sqDoorbell, he]

theorem cqDoorbell_disabled {s : State} {q v : Nat} (he : qEnabled (getQueue s q) = false) :
    cqDoorbell s q v = modQueue s q (fun x => { x with reason := 0x04 }) := by
  simp [cqDoorbell, he]

/-- One queue changes and no other. -/
theorem modQueue_only (s : State) (q : Nat) (f : Queue → Queue) :
    modQueue s q f = { s with queues := (modQueue s q f).queues } ∧ getQueue (modQueue s q f) q = f (getQueue s q) ∧
      ∀ k, k ≠ q → getQueue (modQueue s q f) k = getQueue s k :=
  ⟨rfl, by simp, fun k hk => by simp [hk]⟩

/-- Settles O16: an enabled queue takes TAIL or HEAD within its ring; a disabled one keeps 0x04. -/
theorem doorbells : Obligations.Doorbells := by
  rintro s q x ho rfl
  refine ⟨fun v he h4 hv => ⟨fun hs => ?_, fun hs => ?_⟩, fun v he => ⟨?_, ?_⟩⟩
  · exact runs_host ho rfl (sqDoorbell_moves he hs h4 hv ▸ modQueue_only ..)
  · exact runs_host ho rfl (cqDoorbell_moves he hs h4 hv ▸ modQueue_only ..)
  · obtain ⟨hf, hq, -⟩ := modQueue_only s q (fun x => { x with reason := 0x04 })
    exact runs_host ho rfl (sqDoorbell_disabled he ▸ ⟨hf, hq⟩)
  · obtain ⟨hf, hq, -⟩ := modQueue_only s q (fun x => { x with reason := 0x04 })
    exact runs_host ho rfl (cqDoorbell_disabled he ▸ ⟨hf, hq⟩)

/-! ### The begin of a command -/

/-- Settles O14: the begin of a command turns on what its waits say and, with ORDER, on the earlier commands. -/
theorem Claims.commandBegin : Obligations.CommandBegin := by
  intro s q c hc
  have hph : c.phase = 0 := by simpa using List.find?_some hc
  have hcq : c.queue = q := by
    have := List.mem_of_find?_eq_some hc
    simpa [queueCmds] using (List.mem_filter.mp this).2
  refine ⟨fun hw ho => ⟨_, rfl, ?_⟩, fun hw => ⟨_, rfl, ?_⟩, fun hw hl hf => ⟨_, rfl, ?_⟩⟩
  · have hn : Pkt.order c.packet = true → (queueCmds s q).any (fun d => decide (d.ord < c.ord)) = false := fun h =>
      List.any_eq_false.mpr fun d hd => by simpa using (ho h).2 d hd
    unfold Machine.commandBegin
    rw [hc]
    dsimp only
    rw [hw]
    cases hor : Pkt.order c.packet with
    | false => rfl
    | true =>
      simp only [hn hor, (ho hor).1]
      rfl
  · unfold Machine.commandBegin
    rw [hc]
    dsimp only
    rw [hw]
  · have hend := endCmd_failed (e := { cls := 3, reason := 0x0B }) hf (fun h => by omega) rfl (by rw [hcq]; exact hl)
    have hb : Machine.commandBegin s q = endCmd s c.slot { cls := 3, reason := 0x0B } := by
      unfold Machine.commandBegin
      rw [hc]
      dsimp only
      rw [hw]
    rw [hb, hend, hcq, chargeNow_frame]
    refine ⟨rfl, rfl, ?_, fun hst => ?_⟩
    · rw [getQueue_modQueue, if_pos rfl, failedQueue_reason]
    · rw [getQueue_modQueue, if_pos rfl]
      exact failedQueue_state hst

/-! ### The record of a command -/

/-- `t` is `s` but for tallies and contexts. -/
def Signalled (s t : State) : Prop := t = { s with tallies := t.tallies, ctxs := t.ctxs }

theorem Signalled.refl (s : State) : Signalled s s := rfl

theorem Signalled.tally (s : State) (x : Tab W64) : Signalled s { s with tallies := x } := rfl

theorem Signalled.ctx (s : State) (x : Tab Ctx) : Signalled s { s with ctxs := x } := rfl

theorem Signalled.trans {s t u : State} (h : Signalled s t) (g : Signalled t u) : Signalled s u := by
  unfold Signalled at *
  rw [h] at g
  exact g

theorem addTallyAt_signalled (s : State) (ctx t inc epoch : Nat) : Signalled s (addTallyAt s ctx t inc epoch) := by
  unfold addTallyAt addTally
  split
  · exact .tally s _
  · exact .ctx s _

/-- The signals of a command move tallies and the stale counts of contexts alone. -/
theorem cmdSignals_signalled (s : State) (c : Cmd) : Signalled s (cmdSignals s c) := by
  have one : ∀ s i, Signalled s (if Pkt.sigEn c.packet i then
      match queueCtx s c.queue with
      | some ctx => addTallyAt s ctx (Pkt.sigTally c.packet i) (Pkt.sigInc c.packet i) (c.epochs.getD (2 + i) 0)
      | none => s
    else s) := by
    intro s i
    split
    · split
      · exact addTallyAt_signalled ..
      · exact .refl s
    · exact .refl s
  unfold cmdSignals
  split
  · exact (one s 0).trans (one _ 1)
  · exact .refl s

/-- Two states on which the signals of a command act alike. -/
structure SignalAlike (s t : State) : Prop where
  tallies : s.tallies = t.tallies
  ctxs : s.ctxs = t.ctxs
  ctx : ∀ q, queueCtx s q = queueCtx t q

theorem SignalAlike.withTallies {s t : State} (h : SignalAlike s t) (x : Tab W64) :
    SignalAlike { s with tallies := x } { t with tallies := x } := ⟨rfl, h.ctxs, h.ctx⟩

theorem SignalAlike.addTallyAt {s t : State} (h : SignalAlike s t) (ctx n inc epoch : Nat) :
    SignalAlike (addTallyAt s ctx n inc epoch) (addTallyAt t ctx n inc epoch) := by
  have he : tallyEpochOf s n = tallyEpochOf t n := by simp only [tallyEpochOf, h.tallies]
  have hv : tallyVal s n = tallyVal t n := by simp only [tallyVal, h.tallies]
  unfold Machine.addTallyAt
  rw [he]
  split
  · unfold addTally
    rw [he, hv, h.tallies]
    exact h.withTallies _
  · exact ⟨h.tallies, by simp only [modCtx, setCtx, getCtx, h.ctxs], h.ctx⟩

theorem SignalAlike.cmdSignals {s t : State} (h : SignalAlike s t) (c : Cmd) : SignalAlike (cmdSignals s c) (cmdSignals t c) := by
  have one : ∀ {s t}, SignalAlike s t → ∀ i, SignalAlike
      (if Pkt.sigEn c.packet i then
        match queueCtx s c.queue with
        | some ctx => Machine.addTallyAt s ctx (Pkt.sigTally c.packet i) (Pkt.sigInc c.packet i) (c.epochs.getD (2 + i) 0)
        | none => s
      else s)
      (if Pkt.sigEn c.packet i then
        match queueCtx t c.queue with
        | some ctx => Machine.addTallyAt t ctx (Pkt.sigTally c.packet i) (Pkt.sigInc c.packet i) (c.epochs.getD (2 + i) 0)
        | none => t
      else t) := by
    intro s t h i
    rw [h.ctx]
    split
    · split
      · exact h.addTallyAt ..
      · exact h
    · exact h
  unfold Machine.cmdSignals
  split
  · exact one (one h 0) 1
  · exact h

/-- The interrupt of a completion queue: a message or its pending bit, and the mark that it is signalled. -/
theorem cqInterrupt_frame (s : State) (cq : Nat) :
    cqInterrupt s cq = { s with
      out := (cqInterrupt s cq).out, queues := (cqInterrupt s cq).queues
      pcie := { s.pcie with msixPending := (cqInterrupt s cq).pcie.msixPending } } := by
  unfold cqInterrupt signalMsix
  dsimp only
  split
  · split <;> rfl
  · rfl

theorem getQueue_signalMsix (s : State) (v q : Nat) : getQueue (signalMsix s v) q = getQueue s q := by
  unfold signalMsix
  split <;> rfl

theorem getQueue_cqInterrupt (s : State) (cq k : Nat) :
    ∃ b, getQueue (cqInterrupt s cq) k = if k = cq then { getQueue s cq with signalled := b } else getQueue s k := by
  unfold cqInterrupt
  dsimp only
  split
  · refine ⟨true, ?_⟩
    rw [getQueue_modQueue, getQueue_signalMsix, getQueue_signalMsix]
  · refine ⟨(getQueue s cq).signalled, ?_⟩
    split
    · subst k
      rfl
    · rfl

/-- A completion queue whose TAIL moves past one record. -/
def pastRecord (x : Queue) : Queue :=
  { x with tail := (x.tail + 1) % qSize x, phase := if (x.tail + 1) % qSize x = 0 then !x.phase else x.phase }

/-- The state in which the record of a queue's oldest command stands and the command has left the table. -/
def recorded (s : State) (q cq : Nat) (c : Cmd) : State :=
  let x := getQueue s cq
  { modQueue { s with hostMem := writeBytes s.hostMem (x.base.toNat + 32 * x.tail) (recordBytes c x.phase (getQueue s q).head) } cq
      (fun _ => pastRecord x) with
    cmds := s.cmds.filter (fun d => d.slot != c.slot) }

theorem getQueue_recorded (s : State) (q cq : Nat) (c : Cmd) (k : Nat) :
    getQueue (recorded s q cq c) k = if k = cq then pastRecord (getQueue s cq) else getQueue s k := tget_tset ..

theorem queueCtx_recorded (s : State) (q cq : Nat) (c : Cmd) (k : Nat) : queueCtx (recorded s q cq c) k = queueCtx s k := by
  have h : (getQueue (recorded s q cq c) k).cfg = (getQueue s k).cfg := by
    rw [getQueue_recorded]
    split
    · subst k
      rfl
    · rfl
  unfold queueCtx
  rw [h]
  rfl

theorem recordWrite_eq {s : State} {q : Nat} {c : Cmd} {rest : List Cmd} (hq : queueCmds s q = c :: rest) (hp : c.phase = 2)
    (ho : recordOpen s (qCq (getQueue s q)) = true) :
    recordWrite s q = cqInterrupt (cmdSignals (recorded s q (qCq (getQueue s q)) c) c) (qCq (getQueue s q)) := by
  have hl : s.pcie.linkUp = true := by
    simp only [recordOpen, Bool.and_eq_true] at ho
    exact ho.1.2
  unfold recordWrite
  rw [hq]
  simp only [hp, ho, hostWrite, hl]
  rfl

/-- Settles O15: the record stands at TAIL, the command is gone, and its signals are made only when it succeeded. -/
theorem completionRecord : Obligations.CompletionRecord := by
  rintro s q c rest cq x tail hq hp rfl ho rfl rfl
  refine ⟨_, rfl, ?_⟩
  rw [recordWrite_eq hq hp ho]
  generalize qCq (getQueue s q) = cq at *
  have hal : SignalAlike (recorded s q cq c) s := ⟨rfl, rfl, queueCtx_recorded s q cq c⟩
  obtain ⟨ht, hc, -⟩ := hal.cmdSignals c
  have hsig := cmdSignals_signalled (recorded s q cq c) c
  have hframe := cqInterrupt_frame (cmdSignals (recorded s q cq c) c) cq
  have hget : ∀ k, getQueue (cmdSignals (recorded s q cq c) c) k = getQueue (recorded s q cq c) k := fun k => by
    rw [hsig]
    rfl
  have hgone : 2 ≤ c.cls → cmdSignals (recorded s q cq c) c = recorded s q cq c := fun h => by
    rw [cmdSignals, if_neg (by omega)]
  have hkeep := fun k => getQueue_cqInterrupt (cmdSignals (recorded s q cq c) c) cq k
  obtain ⟨b, hcq⟩ := hkeep cq
  rw [if_pos rfl, hget, getQueue_recorded, if_pos rfl] at hcq
  refine ⟨?_, ?_, ?_, ?_, ?_, ?_, fun k hk => ?_, fun h => ?_, fun h => ?_⟩
  · rw [hframe, hsig]
    rfl
  · rw [hframe, hsig]
    rfl
  · rw [hframe, hsig]
    rfl
  · rw [hcq]
    rfl
  · rw [hcq]
    rfl
  · rw [hcq]
    rfl
  · obtain ⟨b, h⟩ := hkeep k
    rw [h, if_neg hk, hget, getQueue_recorded, if_neg hk]
  · rw [hframe, hgone h]
    exact ⟨rfl, rfl⟩
  · rw [hframe]
    exact ⟨ht, hc⟩

/-! ### The fetch of a packet -/

/-- A training context with a step open, and a collective waiting in a memory queue, which does not accept it. -/
def strayCollective : State :=
  { pcie := { busMaster := true, linkUp := true }
    queues := [(2, { cfg := 0x8400000000000000#64, state := 1, tail := 1 })]
    ctxs := [(0, { training := true, state := 2 })]
    stepSt := { recs := [{ slot := 0, step := 0 }] } }

/-- The packet of that collective. -/
def strayPacket : List Byte := 0x10#8 :: 0x04#8 :: List.replicate 62 0#8

/-- Refutes O13: a refused collective of the training context is charged to its step (14/R440), which the frame of the
statement does not allow. -/
theorem Claims.not_packetFetch : ¬ Obligations.PacketFetch := by
  intro h
  obtain ⟨hf, -⟩ := (h strayCollective 2 strayPacket
    { slot := 0, ord := 0, queue := 2, packet := strayPacket, epochs := [0, 0, 0, 0] } (getQueue strayCollective 2)
    (by decide) (by decide) (by decide +kernel) rfl (by decide) (by decide +kernel) (by decide)).of_exec rfl
  have hs : (Machine.packetFetch strayCollective strayPacket).stepSt.recs = strayCollective.stepSt.recs := by rw [hf]
  exact absurd hs (by decide +kernel)

end Sys2Proof.Machine
end

section
/-!
SLICE_MODE and the tally commands (07/R203, R206, 09/R294, 10/R336).
-/
namespace Sys2Proof.Machine

/-! ### Tallies -/

theorem toNat_tallyW (e v : Nat) : (tallyW e v).toNat = e % 2 ^ 16 * 2 ^ 48 + v % 2 ^ 48 := by
  unfold tallyW
  rw [BitVec.toNat_ofNat]
  omega

theorem tallyW_val (e v : Nat) : (tallyW e v).toNat % 2 ^ 48 = v % 2 ^ 48 := by
  rw [toNat_tallyW]
  omega

theorem tallyW_epoch (e v : Nat) : (tallyW e v).toNat / 2 ^ 48 = e % 2 ^ 16 := by
  rw [toNat_tallyW]
  omega

theorem tallyEpochOf_lt (s : State) (k : Nat) : tallyEpochOf s k < 2 ^ 16 := by
  unfold tallyEpochOf
  have := (tget 0#64 s.tallies k).isLt
  omega

/-- One tally of a table is written and no other. -/
structure TallyPut (x y : Tab W64) (k : Nat) (w : W64) : Prop where
  same : tget 0#64 y k = w
  other : ∀ j, j ≠ k → tget 0#64 y j = tget 0#64 x j

theorem tallyPut_tset (x : Tab W64) (k : Nat) (w : W64) : TallyPut x (tset 0#64 x k w) k w where
  same := by rw [tget_tset, if_pos rfl]
  other j hj := by rw [tget_tset, if_neg hj]

theorem addTally_put (s : State) (k n : Nat) : ∃ x, addTally s k n = { s with tallies := x } ∧
    TallyPut s.tallies x k (tallyW (tallyEpochOf s k) (satAdd 48 (tallyVal s k) n)) :=
  ⟨_, rfl, tallyPut_tset ..⟩

theorem newEpoch_put (s : State) (k : Nat) : ∃ x, newEpoch s k = { s with tallies := x } ∧
    TallyPut s.tallies x k (tallyW (tallyEpochOf s k + 1) 0) :=
  ⟨_, rfl, tallyPut_tset ..⟩

/-- The tallies after a run of new epochs from tally `k` on, `n` of them. -/
structure EpochsPut (x y : Tab W64) (k n : Nat) : Prop where
  inside : ∀ i, i < n → tget 0#64 y (k + i) = tallyW ((tget 0#64 x (k + i)).toNat / 2 ^ 48 + 1) 0
  outside : ∀ j, (j < k ∨ k + n ≤ j) → tget 0#64 y j = tget 0#64 x j

theorem newEpochs_put (s : State) (k n : Nat) : ∃ x, (List.range n).foldl (fun s i => newEpoch s (k + i)) s = { s with tallies := x } ∧
    EpochsPut s.tallies x k n := by
  induction n with
  | zero => exact ⟨s.tallies, rfl, fun i hi => by omega, fun _ _ => rfl⟩
  | succ n ih =>
    obtain ⟨x, hx, hin, hout⟩ := ih
    obtain ⟨y, hy, hsame, hother⟩ := newEpoch_put { s with tallies := x } (k + n)
    refine ⟨y, by rw [List.range_succ, List.foldl_append, hx]; exact hy, fun i hi => ?_, fun j hj => ?_⟩
    · rcases Nat.lt_succ_iff_lt_or_eq.mp hi with hlt | rfl
      · rw [hother _ (by omega), hin i hlt]
      · rw [hsame]
        simp only [tallyEpochOf, hout (k + i) (by omega)]
    · rw [hother j (by omega), hout j (by omega)]

theorem endCmd_withTallies {s : State} {slot op : Nat} {c : Cmd} (h : IsBegun s slot op c) (x : Tab W64) :
    endCmd { s with tallies := x } slot {} = { s with tallies := x, cmds := endedCmds s slot {} } :=
  endCmd_succeeds (s := { s with tallies := x }) h.find h.uncut (Nat.zero_le _)

theorem tallyAdd_eq {s : State} {slot : Nat} {c : Cmd} (h : IsBegun s slot 0x0301 c) :
    tallyAdd s slot = if tallyOk s (Pkt.ctx c.packet) (Pkt.p0 c.packet % 2 ^ 16) then
      endCmd (addTally s (Pkt.p0 c.packet % 2 ^ 16) (Pkt.p1 c.packet % 2 ^ 48)) slot {} else refuseCmd s slot 0x26 := by
  unfold tallyAdd
  rw [h.1]

theorem tallyRead_eq {s : State} {slot : Nat} {c : Cmd} (h : IsBegun s slot 0x0302 c) :
    tallyRead s slot = if tallyOk s (Pkt.ctx c.packet) (Pkt.p0 c.packet % 2 ^ 16) then
      endCmd s slot { result := (tget 0#64 s.tallies (Pkt.p0 c.packet % 2 ^ 16)).toNat } else refuseCmd s slot 0x26 := by
  unfold tallyRead
  rw [h.1]

theorem tallyEpoch_eq {s : State} {slot : Nat} {c : Cmd} (h : IsBegun s slot 0x0303 c)
    (hk : tallyOk s (Pkt.ctx c.packet) (Pkt.p0 c.packet % 2 ^ 16) = true)
    (hn : tallyOk s (Pkt.ctx c.packet) (Pkt.p0 c.packet % 2 ^ 16 + Pkt.p1 c.packet % 2 ^ 17 - 1) = true)
    (hq : ctxQuiet s (Pkt.ctx c.packet) = true) :
    tallyEpoch s slot = endCmd ((List.range (Pkt.p1 c.packet % 2 ^ 17)).foldl
      (fun s i => newEpoch s (Pkt.p0 c.packet % 2 ^ 16 + i)) s) slot {} := by
  unfold tallyEpoch
  rw [h.1]
  simp only [hk, hn, hq]
  rfl

/-- A command refused with class 2, the last of its queue: its record is due and the queue keeps the reason. -/
theorem refuseCmd_last {s : State} {slot op : Nat} {c : Cmd} (h : IsBegun s slot op c) (hop : op < 0x0410 ∨ 0x0413 < op)
    (hl : ∀ d ∈ queueCmds s c.queue, d.ord ≤ c.ord) (r : Nat) :
    refuseCmd s slot r = modQueue { s with cmds := endedCmds s slot { cls := 2, reason := r } } c.queue (failedQueue c r) :=
  endCmd_refused (e := { cls := 2, reason := r }) h.find h.uncut rfl (by rw [h.opcode]; exact hop) hl

/-! ### Slices -/

theorem tget_tmod {α : Type} [DecidableEq α] (d : α) (t : Tab α) (i : Nat) (f : α → α) (j : Nat) :
    tget d (tmod d t i f) j = if j = i then f (tget d t i) else tget d t j := tget_tset ..

theorem flushDie_slices (m : Mem) (die : Nat) (x : Nat) :
    tget {} (flushDie m die).slices x = if x / 32 = die then { tget {} m.slices x with lines := [] } else tget {} m.slices x := by
  have go : ∀ (n : Nat) (t : Tab Slice), tget {} ((List.range n).foldl (fun t i =>
      tmod {} t (die * 32 + i) (fun sl => { sl with lines := [] })) t) x =
      if die * 32 ≤ x ∧ x < die * 32 + n then { tget {} t x with lines := [] } else tget {} t x := by
    intro n t
    induction n with
    | zero =>
      rw [if_neg (by omega)]
      rfl
    | succ n ih =>
      rw [List.range_succ, List.foldl_append, List.foldl_cons, List.foldl_nil, tget_tmod]
      split
      · rename_i he
        rw [← he, ih, if_neg (by omega), if_pos (by omega)]
      · rename_i hne
        rw [ih]
        by_cases hx : die * 32 ≤ x ∧ x < die * 32 + n
        · rw [if_pos hx, if_pos (by omega)]
        · rw [if_neg hx, if_neg (by omega)]
  unfold flushDie
  rw [go 32]
  by_cases hx : x / 32 = die
  · rw [if_pos hx, if_pos (by omega)]
  · rw [if_neg hx, if_neg (by omega)]

/-- One slice takes the mode of its bit: its crates go when it was a cache and is one no longer. -/
def setMode (die mask : Nat) (m : Mem) (i : Nat) : Mem :=
  let x := die * 32 + i
  let m := if (tget {} m.slices x).cache && !Word.bitOf mask i then zeroCrates m (sliceBase x / 4096) 2048 else m
  { m with slices := tmod {} m.slices x (fun sl => { sl with cache := Word.bitOf mask i, changing := false }) }

theorem setModes_eq (m : Mem) (die mask : Nat) : setModes m die mask = (List.range 32).foldl (setMode die mask) (flushDie m die) := by
  unfold setModes
  generalize List.range 32 = l
  rfl

theorem setMode_slices (die mask : Nat) (m : Mem) (i x : Nat) :
    tget {} (setMode die mask m i).slices x =
      if x = die * 32 + i then { tget {} m.slices x with cache := Word.bitOf mask i, changing := false } else tget {} m.slices x := by
  have hz : (if (tget {} m.slices (die * 32 + i)).cache && !Word.bitOf mask i then zeroCrates m (sliceBase (die * 32 + i) / 4096) 2048
      else m).slices = m.slices := by
    split <;> rfl
  unfold setMode
  simp only [hz, tget_tmod]
  split
  · rename_i h
    rw [h]
  · rfl

theorem tget_cons {α : Type} (d v : α) (t : Tab α) (i k : Nat) : tget d ((i, v) :: t) k = if k = i then v else tget d t k := rfl

theorem tget_filter {α : Type} (d : α) (t : Tab α) (p : Nat → Bool) (k : Nat) :
    tget d (t.filter (fun x => p x.1)) k = if p k then tget d t k else d := by
  induction t with
  | nil => exact (ite_self d).symm
  | cons a t ih =>
    obtain ⟨i, v⟩ := a
    rw [tget_cons]
    by_cases hp : p i
    · rw [List.filter_cons_of_pos (by exact hp), tget_cons, ih]
      by_cases h : k = i
      · rw [if_pos h, if_pos h, if_pos (h ▸ hp)]
      · rw [if_neg h, if_neg h]
    · rw [List.filter_cons_of_neg (by simpa using hp), ih]
      by_cases h : k = i
      · rw [if_neg (h ▸ hp), if_neg (h ▸ hp)]
      · rw [if_neg h]

/-- Crate `k` of memory is neither open nor tagged. -/
structure Untagged (m : Mem) (k : Nat) : Prop where
  shut : ∀ x ∈ m.opened, x ≠ k
  tag : tget Tag.zero m.tags k = Tag.zero

theorem tag_zeroCrates (m : Mem) (a n k : Nat) :
    tget Tag.zero (zeroCrates m a n).tags k = if a ≤ k ∧ k < a + n then Tag.zero else tget Tag.zero m.tags k := by
  refine (tget_filter Tag.zero m.tags (fun x => !(decide (a ≤ x) && decide (x < a + n))) k).trans ?_
  by_cases h : a ≤ k ∧ k < a + n <;> simp [h]

theorem Untagged.zeroCrates {m : Mem} {k : Nat} (h : Untagged m k) (a n : Nat) : Untagged (zeroCrates m a n) k where
  shut x hx := h.shut x (List.mem_filter.mp hx).1
  tag := by
    rw [tag_zeroCrates, h.tag]
    split <;> rfl

theorem untagged_zeroCrates (m : Mem) {a n k : Nat} (hk : a ≤ k ∧ k < a + n) : Untagged (zeroCrates m a n) k where
  shut x hx he := by
    have := (List.mem_filter.mp hx).2
    subst he
    simp at this
    omega
  tag := by rw [tag_zeroCrates, if_pos hk]

theorem Untagged.setMode {m : Mem} {k : Nat} (h : Untagged m k) (die mask i : Nat) : Untagged (setMode die mask m i) k := by
  unfold Machine.setMode
  dsimp only
  split
  · exact ⟨(h.zeroCrates ..).shut, (h.zeroCrates ..).tag⟩
  · exact ⟨h.shut, h.tag⟩

theorem untagged_setMode {m : Mem} {die mask i j : Nat} (hc : (tget {} m.slices (die * 32 + i)).cache = true)
    (hb : Word.bitOf mask i = false) (hj : j < 2048) :
    Untagged (Machine.setMode die mask m i) (sliceBase (die * 32 + i) / 4096 + j) := by
  have hz := untagged_zeroCrates m (a := sliceBase (die * 32 + i) / 4096) (n := 2048) (k := sliceBase (die * 32 + i) / 4096 + j) (by omega)
  unfold Machine.setMode
  dsimp only
  rw [if_pos (by rw [hc, hb]; rfl)]
  exact ⟨hz.shut, hz.tag⟩

/-- What the first `n` slices of a die have become once their modes are set. -/
structure ModesSet (m m' : Mem) (die mask n : Nat) : Prop where
  slices : ∀ x, tget {} m'.slices x = if die * 32 ≤ x ∧ x < die * 32 + n
    then { tget {} m.slices x with cache := Word.bitOf mask (x - die * 32), changing := false } else tget {} m.slices x
  zero : ∀ i, i < n → Word.bitOf mask i = false → (tget {} m.slices (die * 32 + i)).cache = true →
    ∀ j, j < 2048 → Untagged m' (sliceBase (die * 32 + i) / 4096 + j)

theorem modesSet_foldl (m : Mem) (die mask n : Nat) : ModesSet m ((List.range n).foldl (setMode die mask) m) die mask n := by
  induction n with
  | zero => exact ⟨fun x => by rw [if_neg (by omega)]; rfl, fun i hi => by omega⟩
  | succ n ih =>
    obtain ⟨hs, hz⟩ := ih
    rw [List.range_succ, List.foldl_append, List.foldl_cons, List.foldl_nil]
    generalize (List.range n).foldl (setMode die mask) m = m' at hs hz
    refine ⟨fun x => ?_, fun i hi hb hc j hj => ?_⟩
    · rw [setMode_slices, hs]
      by_cases hx : x = die * 32 + n
      · rw [if_pos hx, if_neg (by omega), if_pos (by omega), hx, Nat.add_sub_cancel_left]
      · rw [if_neg hx]
        by_cases hin : die * 32 ≤ x ∧ x < die * 32 + n
        · rw [if_pos hin, if_pos (by omega)]
        · rw [if_neg hin, if_neg (by omega)]
    · rcases Nat.lt_succ_iff_lt_or_eq.mp hi with hlt | rfl
      · exact (hz i hlt hb hc j hj).setMode ..
      · refine untagged_setMode ?_ hb hj
        rw [hs, if_neg (by omega)]
        exact hc

theorem sliceMode_eq {s : State} {slot : Nat} {c : Cmd} (h : IsBegun s slot 0x0106 c)
    (hd : Pkt.p0 c.packet % 8 ∈ (getPart s (cmdPart s c)).dies) (hk : sliceKept s (Pkt.p0 c.packet % 8) (Pkt.p1 c.packet % 2 ^ 32) = false) :
    sliceMode s slot = { s with mem := setModes s.mem (Pkt.p0 c.packet % 8) (Pkt.p1 c.packet % 2 ^ 32), cmds := endedCmds s slot {} } := by
  unfold sliceMode
  rw [h.1]
  simp only [hk, List.contains_iff_mem.mpr hd]
  exact endCmd_succeeds (s := modMem s _) h.find h.uncut (Nat.zero_le _)

/-- Settles O20: the modes slice by slice, and one equation for each tally command. -/
theorem slicesAndTallies : Obligations.SlicesAndTallies := by
  refine ⟨?_, ?_⟩
  · rintro s slot c die mask h rfl rfl hd hk
    refine ⟨_, rfl, ?_⟩
    rw [sliceMode_eq h hd hk, setModes_eq]
    obtain ⟨hs, hz⟩ := modesSet_foldl (flushDie s.mem (Pkt.p0 c.packet % 8)) (Pkt.p0 c.packet % 8) (Pkt.p1 c.packet % 2 ^ 32) 32
    generalize (List.range 32).foldl _ _ = m at hs hz
    generalize Pkt.p0 c.packet % 8 = die at *
    refine ⟨rfl, rfl, fun i hi => ?_, fun x hx => ?_, fun i hi hb hc j hj => ?_⟩
    · rw [hs, if_pos (by omega), flushDie_slices, if_pos (by omega), Nat.add_sub_cancel_left]
    · rw [hs, if_neg (by omega), flushDie_slices, if_neg hx]
    · have hu := hz i hi hb (by rw [flushDie_slices, if_pos (by omega)]; exact hc) j hj
      exact ⟨hu.shut, hu.tag⟩
  · rintro s slot c k rfl
    refine ⟨fun h => ⟨_, rfl, ?_⟩, fun h hk => ⟨_, rfl, ?_⟩, fun h hk => ⟨_, rfl, ?_⟩, ?_, ?_⟩
    · unfold tallyNop
      rw [h.1]
      exact endCmd_succeeds h.find h.uncut (Nat.zero_le _)
    · obtain ⟨x, hx, hsame, hother⟩ := addTally_put s (Pkt.p0 c.packet % 2 ^ 16) (Pkt.p1 c.packet % 2 ^ 48)
      rw [tallyAdd_eq h, if_pos hk, hx, endCmd_withTallies h]
      refine ⟨rfl, ?_, ?_, hother⟩
      · simp only [tallyVal, hsame, tallyW_val, satAdd]
        omega
      · have := tallyEpochOf_lt s (Pkt.p0 c.packet % 2 ^ 16)
        simp only [tallyEpochOf, hsame, tallyW_epoch] at this ⊢
        omega
    · rw [tallyRead_eq h, if_pos hk]
      exact endCmd_succeeds h.find h.uncut (Nat.zero_le _)
    · rintro n h rfl hk hn hq
      refine ⟨_, rfl, ?_⟩
      obtain ⟨x, hx, hin, hout⟩ := newEpochs_put s (Pkt.p0 c.packet % 2 ^ 16) (Pkt.p1 c.packet % 2 ^ 17)
      rw [tallyEpoch_eq h hk hn hq, hx, endCmd_withTallies h]
      refine ⟨rfl, fun i hi => ⟨?_, ?_⟩, hout⟩
      · simp only [tallyVal, hin i hi, tallyW_val, Nat.zero_mod]
      · simp only [tallyEpochOf, hin i hi, tallyW_epoch]
    · rintro op cmd hcmd h hk hl
      have href : Runs cmd s (fun t => t = refuseCmd s slot 0x26) := by
        rcases hcmd with ⟨rfl, rfl⟩ | ⟨rfl, rfl⟩
        · exact ⟨_, rfl, by rw [tallyAdd_eq h, if_neg (by rw [hk]; decide)]⟩
        · exact ⟨_, rfl, by rw [tallyRead_eq h, if_neg (by rw [hk]; decide)]⟩
      obtain ⟨t, ht, rfl⟩ := href
      refine ⟨_, ht, ?_⟩
      rw [refuseCmd_last h (by rcases hcmd with ⟨rfl, -⟩ | ⟨rfl, -⟩ <;> decide) hl]
      exact ⟨rfl, by simp, fun q hq => by rw [getQueue_modQueue, if_neg hq]; rfl⟩

end Sys2Proof.Machine
end

section
/-!
The step directory and the begin of a step (14/R433-R435, R441-R444, R459).
-/
namespace Sys2Proof.Machine

/-! ### Bits of registers -/

theorem rbit_iff (w : W64) (n : Nat) : rbit w n = true ↔ w.toNat / 2 ^ n % 2 = 1 := by
  simp [rbit, Word.bitOf]

theorem rbit_rset_top (w : W64) (b : Nat) : rbit (rset w 63 63 b) 63 = decide (b % 2 = 1) := by
  have hw := w.isLt
  have h : rbit (rset w 63 63 b) 63 = true ↔ b % 2 = 1 := by
    rw [rbit_iff, rset, rbits, Word.bitsOf, BitVec.toNat_ofNat]
    omega
  by_cases hb : b % 2 = 1
  · rw [h.mpr hb, decide_eq_true hb]
  · rw [decide_eq_false hb]
    exact Bool.eq_false_iff.mpr fun hr => hb (h.mp hr)

theorem rbit_rset_zero {hi lo v n : Nat} (h : hi < n) (hn : n < 64) (hl : lo ≤ hi) : rbit (rset 0#64 hi lo v) n = false := by
  have hlt : v % 2 ^ (hi + 1 - lo) * 2 ^ lo < 2 ^ n := by
    calc v % 2 ^ (hi + 1 - lo) * 2 ^ lo
        < 2 ^ (hi + 1 - lo) * 2 ^ lo := Nat.mul_lt_mul_of_pos_right (Nat.mod_lt _ (Nat.two_pow_pos _)) (Nat.two_pow_pos _)
      _ = 2 ^ (hi + 1) := by rw [← Nat.pow_add]; congr 1; omega
      _ ≤ 2 ^ n := Nat.pow_le_pow_right (by decide) (by omega)
  have hz : (rset 0#64 hi lo v).toNat < 2 ^ n := by
    rw [rset, BitVec.toNat_ofNat]
    refine Nat.lt_of_le_of_lt (Nat.mod_le ..) ?_
    simpa using hlt
  refine Bool.eq_false_iff.mpr fun hr => ?_
  rw [rbit_iff, Nat.div_eq_of_lt hz] at hr
  cases hr

/-! ### Reading a good crate -/

theorem readVerify_ok (s : State) (cg : CtxGen) (crate : Nat) (h : CrateOk s crate) :
    readVerify s cg crate = (s, crateBytes s.mem crate, none) := by
  unfold readVerify
  rw [reportBad_ok _ _ _ _ h.bad]
  dsimp only
  rw [cacheTouch_none _ _ _ h.home, h.poison, h.check, if_neg (by decide), if_pos (by simp)]
  rfl

/-- Whether a crate is good turns on memory alone. -/
theorem CrateOk.of_mem {s t : State} {crate : Nat} (h : CrateOk s crate) (hm : t.mem = s.mem) : CrateOk t crate where
  home := hm ▸ h.home
  bad := hm ▸ h.bad
  poison := hm ▸ h.poison
  check := hm ▸ h.check

/-! ### The step commands -/

theorem endCmd_modStep {s : State} {slot op : Nat} {c : Cmd} (h : IsBegun s slot op c) (x : StepSt) :
    endCmd { s with stepSt := x } slot {} = { s with stepSt := x, cmds := endedCmds s slot {} } :=
  endCmd_succeeds (s := { s with stepSt := x }) h.find h.uncut (Nat.zero_le _)

/-- A step command that is refused, the last of its queue. -/
theorem stepEnd_refused {s : State} {slot op : Nat} {c : Cmd} (h : IsBegun s slot op c) (hop : op < 0x0410 ∨ 0x0413 < op)
    (hl : ∀ d ∈ queueCmds s c.queue, d.ord ≤ c.ord) (r : Nat) : StepRefused s (stepEnd s slot 2 r) slot 2 r := by
  have he := endCmd_refused (s := modStep s fun x => { x with reason := r }) (e := { cls := 2, reason := r }) h.find h.uncut rfl
    (by rw [h.opcode]; exact hop) hl
  unfold StepRefused stepEnd
  rw [he]
  rfl

/-! ### The step directory -/

theorem writeDirBase_off {s : State} (h : dirOn s = false) (v : W64) :
    writeDirBase s v = modStep s fun x => { x with dirReg := rset 0#64 48 12 (rbits v 48 12) } :=
  congrArg (fun x => { s with stepSt := x }) (if_neg (Bool.eq_false_iff.mp h))

/-- A directory register that holds a base alone has nothing in force. -/
theorem dirOn_base {s : State} {v : Nat} (h : s.stepSt.dirReg = rset 0#64 48 12 v) : dirOn s = false := by
  unfold dirOn
  rw [h]
  exact rbit_rset_zero (by decide) (by decide) (by decide)

theorem stepDirEnable_without_ctx {s : State} {v : W64} (hv : rbit v 63 = true) (hd : dirOn s = false) (ht : trainingCtx s = none) :
    stepDirEnable s v = { s with stepSt := { s.stepSt with dirReg := rset 0#64 48 12 (rbits v 48 12), dirReason := 0x24 } } := by
  have ht' : ∀ w, trainingCtx (modStep s fun x => { x with dirReg := w }) = none := fun w => ht
  unfold stepDirEnable
  rw [if_neg (by simp [hv]), if_neg (by simp [hd]), writeDirBase_off hd]
  generalize rset 0#64 48 12 (rbits v 48 12) = w
  dsimp only
  rw [ht' w]
  rfl

/-- The step state with a directory that came into force (14/R435). -/
def withDir (s : State) (w : W64) (b : List Byte) : StepSt :=
  { s.stepSt with
    dirReg := rset w 63 63 1, dirReason := 0, dir := dirOf b, syncOwed := true, act := 0, recs := []
    mirrors := [{ valid := true, client := Nat.xor (ownStall s) 1 },
      if s.stepSt.mirror2 then { valid := true, client := Nat.xor (ownStall s) 2 } else {}] }

theorem stepDirEnable_takes {s : State} {v : W64} {c : Nat} (hv : rbit v 63 = true) (hd : dirOn s = false)
    (ht : trainingCtx s = some c) (hr : refuse s .image (getCtx s c).part (rbits v 48 12 * 4096) = none)
    (hc : CrateOk s (rbits v 48 12)) (hb : dirRefusal s (getCtx s c).part (crateBytes s.mem (rbits v 48 12)) = none) :
    stepDirEnable s v = { s with stepSt := withDir s (rset 0#64 48 12 (rbits v 48 12)) (crateBytes s.mem (rbits v 48 12)) } := by
  unfold stepDirEnable
  rw [if_neg (by simp [hv]), if_neg (by simp [hd]), writeDirBase_off hd]
  generalize rset 0#64 48 12 (rbits v 48 12) = w
  generalize rbits v 48 12 = base at *
  have ht' : trainingCtx (modStep s fun x => { x with dirReg := w }) = some c := ht
  have hr' : refuse (modStep s fun x => { x with dirReg := w }) .image (getCtx s c).part (base * 4096) = none := hr
  have hb' : dirRefusal (modStep s fun x => { x with dirReg := w }) (getCtx s c).part (crateBytes s.mem base) = none := hb
  have hc' := readVerify_ok (modStep s fun x => { x with dirReg := w }) (c, (getCtx s c).gen) base (hc.of_mem rfl)
  have hs : withDir s w (crateBytes s.mem base) = withDir (modStep s fun x => { x with dirReg := w }) w (crateBytes s.mem base) := rfl
  have hp : getCtx (modStep s fun x => { x with dirReg := w }) c = getCtx s c := rfl
  have hm : (modStep s fun x => { x with dirReg := w }).mem = s.mem := rfl
  dsimp only
  rw [ht']
  dsimp only
  rw [hp, hr']
  dsimp only
  rw [hc', hm]
  dsimp only
  rw [hb']
  rfl

theorem stepDirDisable_refused {s : State} {v : W64} (hv : rbit v 63 = false) (hd : dirOn s = true) (hr : s.stepSt.recs ≠ []) :
    stepDirDisable s v = modStep s (fun x => { x with dirReason := 0x1D }) := by
  unfold stepDirDisable
  rw [if_neg (by simp [hv]), if_neg (by simp [hd]), if_pos hr]

/-- What is left of the step state when the directory leaves force with a base `w` (14/R435). -/
def withoutDir (x : StepSt) (w : W64) : StepSt := { x with dirReg := w, dirReason := 0, act := 0, mirrors := [{}, {}] }

theorem modStep_withoutDir (s : State) (m : Mem) (w base : W64) :
    modStep { s with mem := m, stepSt := withoutDir s.stepSt w } (fun x => { x with dirReg := base }) =
      { s with mem := m, stepSt := withoutDir s.stepSt base } := rfl

theorem stepDirDisable_leaves {s : State} {v : W64} (hv : rbit v 63 = false) (hd : dirOn s = true) (hr : s.stepSt.recs = []) :
    stepDirDisable s v = { s with mem := { s.mem with cow := none }, stepSt := { s.stepSt with
      dirReg := rset 0#64 48 12 (rbits v 48 12), dirReason := 0, act := 0, mirrors := [{}, {}] } } := by
  have hoff : rbit (rset s.stepSt.dirReg 63 63 0) 63 = false := rbit_rset_top _ 0
  unfold stepDirDisable modMem modStep
  rw [if_neg (by simp [hv]), if_neg (by simp [hd]), if_neg (by simp [hr])]
  dsimp only
  generalize rset s.stepSt.dirReg 63 63 0 = w at hoff ⊢
  exact (writeDirBase_off (s := { s with mem := { s.mem with cow := none }, stepSt := withoutDir s.stepSt w }) hoff v).trans
    (modStep_withoutDir ..)

theorem stepConfig_takes {s : State} {slot : Nat} {c : Cmd} (h : IsBegun s slot 0x0507 c) (hf : fromTraining s c = true)
    (hd : Pkt.p1 c.packet % 256 ≤ 3) (hr : s.stepSt.recs = []) :
    stepConfig s slot = { s with cmds := endedCmds s slot {}, stepSt := { s.stepSt with
      mirror2 := Word.bitOf (Pkt.p0 c.packet) 0, narrow := Word.bitOf (Pkt.p0 c.packet) 1, d := Pkt.p1 c.packet % 256 - 1 } } := by
  unfold stepConfig
  rw [h.1]
  dsimp only
  rw [if_neg (by simp [hf]), if_neg (by omega), if_neg (by simp [hr])]
  exact endCmd_modStep h _

theorem stepConfig_refused {s : State} {slot : Nat} {c : Cmd} (h : IsBegun s slot 0x0507 c) (hf : fromTraining s c = true)
    (hd : Pkt.p1 c.packet % 256 ≤ 3) (hr : s.stepSt.recs ≠ []) : stepConfig s slot = stepEnd s slot 2 0x83 := by
  unfold stepConfig
  rw [h.1]
  dsimp only
  rw [if_neg (by simp [hf]), if_neg (by omega), if_pos hr]

/-- Settles O32: what the enable, the disable and the configuration do in each case. -/
theorem stepDirectory : Obligations.StepDirectory := by
  refine ⟨fun s v ho hv hd => ⟨fun ht => ?_, ?_⟩, fun s v ho hv hd => ⟨fun hr => ?_, fun hr => ?_⟩, ?_⟩
  · exact runs_host_eq ho rfl (stepDirEnable_without_ctx hv hd ht) ⟨rfl, dirOn_base rfl⟩
  · rintro c base ht rfl hr hc hb
    exact runs_host_eq ho rfl (stepDirEnable_takes hv hd ht hr hc hb) ⟨rfl, rbit_rset_top ..⟩
  · exact runs_host_eq ho rfl (stepDirDisable_refused hv hd hr) rfl
  · exact runs_host_eq ho rfl (stepDirDisable_leaves hv hd hr) ⟨rfl, dirOn_base rfl⟩
  · rintro s slot c d h hf rfl hd
    refine ⟨fun hr => runs_eq rfl (stepConfig_takes h hf hd hr) rfl, fun hr hl => ?_⟩
    exact runs_eq rfl (stepConfig_refused h hf hd hr) (stepEnd_refused h (by decide) hl _)

end Sys2Proof.Machine
end

section
/-!
What management sets (19/R573, R574, R578, R580, R585, 10/R317).
-/
namespace Sys2Proof.Machine

/-- Over either path a request at ready is served. -/
theorem served_now {s : State} {q : Req} {x : Served} (hp : s.boot.phase = 6) (hy : x.y = true) (hsb : x.sb = true → q.source = 0) :
    x.now s q = true := by
  simp only [Served.now, hp, hy]
  cases h : x.sb with
  | false => rfl
  | true => simp [hsb h]

theorem served_plain {s : State} {q : Req} (hp : s.boot.phase = 6) : Served.now {} s q = true :=
  served_now hp rfl fun h => absurd h (by decide)

/-- A request that is answered before it changes anything else. -/
theorem respond_only {s : State} {q : Req} (h : heldFor s q.source q.ident = none) (op cls reason : Nat) (body : List Byte) :
    OnlyAnswered s (respond s q op cls reason body) q op cls reason body := ⟨respond_answered h .., rfl⟩

/-- A request whose effect `u` keeps what was sent and held is answered after it. -/
theorem respond_after {s u : State} {q : Req} (h : heldFor s q.source q.ident = none) (ho : u.out = s.out)
    (hh : heldFor u q.source q.ident = heldFor s q.source q.ident) (op cls reason : Nat) (body : List Byte) :
    Answered s (respond u q op cls reason body) q op cls reason body := by
  obtain ⟨hout, hheld⟩ := respond_answered (hh.trans h) op cls reason body
  exact ⟨by rw [hout, ho], hheld⟩

section
variable {s : State} {q : Req} (hf : Fresh s q) (hp : s.boot.phase = 6)
include hf hp

theorem execSetStall_eq {body : List Byte} (hb : body.length = 1) (hq : q.source = 0) :
    execSetStall q body s = .next
      (if 16 < leAt body 0 1 then deny s q 4 0x03
       else if s.fab.chip.isSome ∧ s.fab.stall ≠ some (leAt body 0 1) then deny s q 4 0xCE
       else respond (modFab s (fun f => { f with stall := some (leAt body 0 1) })) q 4 0 0 []) := by
  rw [execSetStall, show (body.length == 1) = true by simp [hb], serve_of_fresh hf (served_now hp rfl fun _ => hq)]

theorem execAssignChip_refused {body : List Byte} (hb : body.length = 4) {r : Nat}
    (hr : chipRefusal s (leAt body 0 2) (leAt body 2 1) (leAt body 3 1) = some r) :
    execAssignChip q body s = .next (deny s q 5 r) := by
  rw [execAssignChip, show (body.length == 4) = true by simp [hb], serve_of_fresh hf (served_plain hp)]
  rw [hr]

theorem execAssignChip_taken {body : List Byte} (hb : body.length = 4)
    (hr : chipRefusal s (leAt body 0 2) (leAt body 2 1) (leAt body 3 1) = none) :
    execAssignChip q body s = .next (respond (assignChip s (leAt body 0 2) (leAt body 2 1) (leAt body 3 1)) q 5 0 0 []) := by
  rw [execAssignChip, show (body.length == 4) = true by simp [hb], serve_of_fresh hf (served_plain hp)]
  rw [hr]

/-- The routes that a request writes, `n` of them from chip `first` on. -/
def routesWritten (body : List Byte) (first n : Nat) (t : Tab W64) : Tab W64 :=
  (List.range n).foldl (fun t i => tset 0#64 t (first + i)
    (BitVec.ofNat 64 (leAt body (4 + 8 * i) 8) &&& BitVec.ofNat 64 (2 ^ 63 + (2 ^ 48 - 1)))) t

theorem execRouteWrite_eq {body : List Byte} (hb : body.length = 4 + 8 * leAt body 2 2) :
    execRouteWrite q body s = .next
      (if leAt body 2 2 = 0 ∨ (if q.source = 0 then 63 else 127) < leAt body 2 2 ∨ 32768 < leAt body 0 2 + leAt body 2 2 then deny s q 6 0x03
       else respond (modFab s (fun f => { f with routes := routesWritten body (leAt body 0 2) (leAt body 2 2) f.routes })) q 6 0 0 []) := by
  rw [execRouteWrite, show (body.length == 4 + 8 * leAt body 2 2) = true by simpa using hb, serve_of_fresh hf (served_plain hp)]
  rfl

theorem execLimit_eq {body : List Byte} (hb : body.length = 3) :
    execLimit q body s = .next
      (if leAt body 0 2 < 2000 ∨ 4800 < leAt body 0 2 ∨ 3 < leAt body 2 1 then deny s q 0xF 0x03
       else respond (modPwr s (fun p => { p with operCap := leAt body 0 2, operLimit := leAt body 2 1 })) q 0xF 0 0 []) := by
  rw [execLimit, show (body.length == 3) = true by simp [hb], serve_of_fresh hf (served_plain hp)]

theorem execSetAddr_eq {body : List Byte} (hb : body.length = 14) (hq : q.source = 0) (h8 : 8 ≤ leAt body 4 1) (h30 : leAt body 4 1 ≤ 30)
    (hz : zeroAt body 5 3 = true) :
    execSetAddr q body s = .next (respond (modMgmt s (fun m => { m with
      addr := BitVec.ofNat 64 (leAt body 0 4 * 2 ^ 32 + leAt body 4 1 * 2 ^ 24 + leAt body 12 2), gw := leAt body 8 4 })) q 0x13 0 0 []) := by
  rw [execSetAddr, show (body.length == 14) = true by simp [hb], serve_of_fresh hf (served_now hp rfl fun _ => hq)]
  dsimp only
  rw [if_neg (by omega), if_neg (by simp [hz])]

theorem execAlertClear_eq {body : List Byte} (hb : body.length = 4) (hq : q.source = 0) :
    execAlertClear q body s = .next (respond (modMgmt s (fun m => { m with
      alert := m.alert - Nat.land m.alert (leAt body 0 4) })) q 0x14 0 0 []) := by
  rw [execAlertClear, show (body.length == 4) = true by simp [hb], serve_of_fresh hf (served_now hp rfl fun _ => hq)]

theorem execNonce_eq : execNonce q [] s = .next (respond { s with
    freeCtr := s.freeCtr + 1, fuse := { s.fuse with nonce := some ((Config.free s.freeCtr).truncate 128) }
    mgmt := { s.mgmt with nonceAt := s.time.toNat } } q 0x10 0 0 (Sha.toBe 16 ((Config.free s.freeCtr).truncate 128).toNat)) := by
  rw [execNonce, show (([] : List Byte).length == 0) = true from rfl, serve_of_fresh hf (served_plain hp)]
  rfl

end


theorem tget_routesWritten (body : List Byte) (first n c : Nat) (t : Tab W64) :
    tget 0#64 (routesWritten body first n t) c = if first ≤ c ∧ c < first + n
      then BitVec.ofNat 64 (leAt body (4 + 8 * (c - first)) 8) &&& BitVec.ofNat 64 (2 ^ 63 + (2 ^ 48 - 1)) else tget 0#64 t c := by
  unfold routesWritten
  generalize BitVec.ofNat 64 (2 ^ 63 + (2 ^ 48 - 1)) = mask
  induction n with
  | zero =>
    rw [if_neg (by omega)]
    rfl
  | succ n ih =>
    rw [List.range_succ, List.foldl_append, List.foldl_cons, List.foldl_nil, tget_tset, ih]
    by_cases hc : c = first + n
    · rw [if_pos hc, if_pos (by omega), hc, Nat.add_sub_cancel_left]
    · rw [if_neg hc]
      by_cases hin : first ≤ c ∧ c < first + n
      · rw [if_pos hin, if_pos (by omega)]
      · rw [if_neg hin, if_neg (by omega)]

/-! ### The chip number -/

/-- Closing sessions that are all closed forgets them and does nothing else. -/
theorem closeSessions_closed (s : State) (h : ∀ n, getSession s n = none) :
    ∃ x, closeSessions s = modFab s (fun f => { f with sessions := x }) := by
  have go : ∀ (l : List Nat) (s : State), (∀ n, getSession s n = none) → ∃ x,
      l.foldl (fun s n => setSession (closeHalf s n 0 0x60 true) n none) s = modFab s (fun f => { f with sessions := x }) := by
    intro l
    induction l with
    | nil => exact fun s _ => ⟨s.fab.sessions, rfl⟩
    | cons n l ih =>
      intro s h
      have hc : closeHalf s n 0 0x60 true = s := by
        unfold closeHalf
        rw [h n]
      rw [List.foldl_cons, hc]
      obtain ⟨x, hx⟩ := ih (setSession s n none) fun k => by
        rw [getSession_setSession]
        split
        · rfl
        · exact h k
      exact ⟨x, hx⟩
  exact go _ s h

theorem getSession_none {s : State} (h : ∀ e ∈ s.fab.sessions, e.2 = none) (n : Nat) : getSession s n = none := by
  unfold getSession
  generalize s.fab.sessions = t at h
  induction t with
  | nil => rfl
  | cons e t ih =>
    obtain ⟨k, x⟩ := e
    rw [tget_cons]
    split
    · exact h _ List.mem_cons_self
    · exact ih fun e he => h e (List.mem_cons_of_mem _ he)

/-- One port of 48 shows that it leads to the time parent, and no other. -/
def portsMarked (s : State) (port : Nat) (n : Nat) : State :=
  (List.range n).foldl (fun s p => modPort s p (fun x => { x with cfg := rset x.cfg 0 0 (Word.b2n (p == port)) })) s

theorem portsMarked_frame (s : State) (port n : Nat) :
    ∃ x, portsMarked s port n = modFab s (fun f => { f with ports := x }) := by
  unfold portsMarked
  generalize List.range n = l
  induction l generalizing s with
  | nil => exact ⟨s.fab.ports, rfl⟩
  | cons p l ih =>
    rw [List.foldl_cons]
    obtain ⟨x, hx⟩ := ih (modPort s p (fun x => { x with cfg := rset x.cfg 0 0 (Word.b2n (p == port)) }))
    exact ⟨x, hx⟩

theorem rbit_rset_low (w : W64) (b : Bool) : rbit (rset w 0 0 (Word.b2n b)) 0 = b := by
  have hw := w.isLt
  have h : rbit (rset w 0 0 (Word.b2n b)) 0 = true ↔ Word.b2n b = 1 := by
    rw [rbit_iff, rset, rbits, Word.bitsOf, BitVec.toNat_ofNat]
    have : Word.b2n b ≤ 1 := by cases b <;> decide
    omega
  cases b with
  | true => exact h.mpr rfl
  | false => exact Bool.eq_false_iff.mpr fun hr => by cases h.mp hr

theorem getPort_portsMarked (s : State) (port n p : Nat) (hp : p < n) :
    rbit (getPort (portsMarked s port n) p).cfg 0 = (p == port) := by
  unfold portsMarked
  induction n with
  | zero => omega
  | succ n ih =>
    rw [List.range_succ, List.foldl_append, List.foldl_cons, List.foldl_nil, getPort_modPort]
    split
    · rename_i h
      rw [h]
      exact rbit_rset_low ..
    · exact ih (by omega)

/-- What ASSIGN_CHIP leaves when no session is open. -/
theorem assignChip_eq {s : State} (h : ∀ n, getSession s n = none) (chip root port : Nat) :
    ∃ ps ss, assignChip s chip root port = { s with
        fab := { s.fab with chip := some chip, timeSt := { s.fab.timeSt with root := root == 1 }, ports := ps, sessions := ss } } ∧
      ∀ p, p < 48 → rbit (tget {} ps p).cfg 0 = (p == port) := by
  have hm := fun p => getPort_portsMarked
    (modFab s fun f => { f with chip := some chip, timeSt := { f.timeSt with root := root == 1 } }) port 48 p
  obtain ⟨ps, hps⟩ := portsMarked_frame
    (modFab s fun f => { f with chip := some chip, timeSt := { f.timeSt with root := root == 1 } }) port 48
  have hc : assignChip s chip root port = closeSessions (portsMarked
    (modFab s fun f => { f with chip := some chip, timeSt := { f.timeSt with root := root == 1 } }) port 48) := rfl
  rw [hps] at hc hm
  obtain ⟨ss, hss⟩ := closeSessions_closed (modFab (modFab s fun f =>
    { f with chip := some chip, timeSt := { f.timeSt with root := root == 1 } }) fun f => { f with ports := ps }) h
  exact ⟨ps, ss, hc.trans hss, hm⟩

/-- The answer to SET_ADDR, whatever address and gateway it sets. -/
theorem respond_setAddr {s : State} {q : Req} (h : heldFor s q.source q.ident = none) (addr : W64) (gw : Nat) :
    let t := respond (modMgmt s fun m => { m with addr, gw }) q 0x13 0 0 []
    Answered s t q 0x13 0 0 [] ∧ t = { s with out := t.out, mgmt := { s.mgmt with held := t.mgmt.held, gw, addr } } :=
  ⟨respond_after h rfl rfl .., rfl⟩

/-- Settles O45: each request by its equation. -/
theorem managementSettings : Obligations.ManagementSettings := by
  intro s q body hf hp
  have hno := hf.2
  refine ⟨?_, ?_, ?_, ?_, ?_, ?_, ?_, ⟨_, rfl, rfl⟩⟩
  · rintro n hb hq rfl
    refine ⟨fun hn hset => runs_eq (execSetStall_eq hf hp hb hq) rfl ?_, fun hn => runs_eq (execSetStall_eq hf hp hb hq) rfl ?_,
      fun hn hc hs => runs_eq (execSetStall_eq hf hp hb hq) rfl ?_⟩
    · rw [if_neg (by omega), if_neg]
      · exact ⟨respond_after hno rfl rfl .., rfl⟩
      · rintro ⟨hc, hs⟩
        rcases hset with h | h
        · simp [h] at hc
        · exact hs h
    · rw [if_pos hn]
      exact respond_only hno ..
    · rw [if_neg (by omega), if_pos ⟨Option.isSome_iff_ne_none.mpr hc, hs⟩]
      exact respond_only hno ..
  · rintro chip root port hb rfl rfl rfl
    refine ⟨fun hr hses => runs_eq (execAssignChip_taken hf hp hb hr) rfl ?_, fun r hr => runs_eq (execAssignChip_refused hf hp hb hr) rfl
      (respond_only hno ..)⟩
    obtain ⟨ps, ss, he, hm⟩ := assignChip_eq (getSession_none hses) (leAt body 0 2) (leAt body 2 1) (leAt body 3 1)
    rw [he]
    exact ⟨respond_after hno rfl rfl .., rfl, rfl, rfl, hm⟩
  · rintro first n rfl rfl hb
    refine ⟨fun h1 hn hc => runs_eq (execRouteWrite_eq hf hp hb) rfl ?_, fun h0 => runs_eq (execRouteWrite_eq hf hp hb) rfl ?_⟩
    · rw [if_neg (by omega)]
      have ht := fun c => tget_routesWritten body (leAt body 0 2) (leAt body 2 2) c s.fab.routes
      dsimp only [modFab]
      generalize routesWritten body (leAt body 0 2) (leAt body 2 2) s.fab.routes = t at ht ⊢
      exact ⟨respond_after hno rfl rfl .., rfl, fun i hi => (ht _).trans (by rw [if_pos (by omega), Nat.add_sub_cancel_left]),
        fun c hc => (ht c).trans (if_neg (by omega))⟩
    · rw [if_pos (.inl h0)]
      exact respond_only hno ..
  · rintro cap op hb rfl rfl
    refine ⟨fun h1 h2 h3 => runs_eq (execLimit_eq hf hp hb) rfl ?_, fun h => runs_eq (execLimit_eq hf hp hb) rfl ?_⟩
    · rw [if_neg (by omega)]
      exact ⟨respond_after hno rfl rfl .., rfl⟩
    · rw [if_pos h]
      exact respond_only hno ..
  · rintro len hb hq rfl h8 h30 hz
    exact runs_eq (execSetAddr_eq hf hp hb hq h8 h30 hz) rfl (respond_setAddr hno ..)
  · intro hb hq
    refine runs_eq (execAlertClear_eq hf hp hb hq) rfl ?_
    dsimp only [modMgmt]
    generalize s.mgmt.alert - _ = alert
    exact ⟨respond_after hno rfl rfl .., rfl⟩
  · rintro rfl
    refine runs_eq (execNonce_eq hf hp) rfl ?_
    generalize BitVec.truncate 128 _ = n
    exact ⟨n, rfl, respond_after hno rfl rfl .., rfl⟩

end Sys2Proof.Machine
end

section
/-!
What an event and a ledger record leave as they were (08/R261, 17/R521), and the sideband (19/R569-R571, R580-R583).
-/
namespace Sys2Proof.Machine

/-! ### Events and records -/

/-- `t` is `s` but for its events. -/
def EventsOnly (s t : State) : Prop := t = { s with events := t.events }

theorem EventsOnly.refl (s : State) : EventsOnly s s := rfl

theorem EventsOnly.trans {s t u : State} (h : EventsOnly s t) (g : EventsOnly t u) : EventsOnly s u := by
  unfold EventsOnly at *
  rw [h] at g
  exact g

theorem EventsOnly.ite {s t : State} {p : Prop} [Decidable p] (h : EventsOnly s t) : EventsOnly s (if p then t else s) := by
  split
  · exact h
  · exact .refl s

theorem deliver_eventsOnly (s : State) (n : Nat) (e : Event) : EventsOnly s (deliver s n e) := rfl

/-- What of an event happens after its charge to the step: it is delivered to its rings. -/
def deliverAll (s : State) (e : Event) (die : Option Nat) : State :=
  let r := routeOf s e.reason
  let s := if rbit r 52 then deliver s 0 { e with prio := rbits r 51 48 } else s
  let s := match die with
    | some d => if rbit r 44 then deliver s (1 + d) { e with prio := rbits r 43 40 } else s
    | none => s
  if rbit r 63 then deliver s (hostRing s e.ctx e.gen) { e with prio := rbits r 59 56 } else s

theorem raiseEvent_eq (s : State) (e : Event) (die : Option Nat) :
    raiseEvent s e die = deliverAll (if chargesStep e.reason then chargeNow s e.ctx e.gen e.reason else s) e die := rfl

theorem deliverAll_eventsOnly (s : State) (e : Event) (die : Option Nat) : EventsOnly s (deliverAll s e die) := by
  unfold deliverAll
  extract_lets r s1 s2
  have h1 : EventsOnly s s1 := EventsOnly.ite (deliver_eventsOnly ..)
  have h2 : EventsOnly s1 s2 := by
    cases die with
    | none => exact .refl s1
    | some d => exact EventsOnly.ite (deliver_eventsOnly ..)
  exact (h1.trans h2).trans (EventsOnly.ite (deliver_eventsOnly ..))

/-- An event that is charged to no step changes events alone. -/
theorem raiseEvent_eventsOnly {s : State} {e : Event} (die : Option Nat) (h : chargesStep e.reason = false) :
    EventsOnly s (raiseEvent s e die) := by
  rw [raiseEvent_eq, h]
  exact deliverAll_eventsOnly ..

theorem raiseUnit_eventsOnly {s : State} {reason : Nat} (cg : CtxGen) (unit : W64) (arg : Nat) (die : Option Nat) (standing : Bool)
    (h : chargesStep reason = false) : EventsOnly s (raiseUnit s reason cg unit arg die standing) := raiseEvent_eventsOnly die h

/-- `t` is `s` but for its ledger. -/
def LedgerOnly (s t : State) : Prop := t = { s with ledger := t.ledger }

theorem logRec_ledgerOnly (s : State) (kind reason : Nat) (unit : W64) (data : List Byte) :
    LedgerOnly s (logRec s kind reason unit data) := logRec_frame ..

/-- A record of the mounted ledger is numbered next. -/
theorem logRec_recorded (s : State) (kind reason : Nat) (unit : W64) (data : List Byte) :
    Recorded s (logRec s kind reason unit data) kind reason := by
  intro hm
  unfold logRec
  dsimp only
  rw [if_neg hm]
  exact ⟨rfl, _, List.mem_append_right _ (List.mem_singleton.mpr rfl), rfl, rfl, rfl, rfl⟩

theorem Recorded.of_eq {s s' t : State} {kind reason : Nat} (h : Recorded s' t kind reason) (hl : s'.ledger = s.ledger)
    (ht : s'.time = s.time) : Recorded s t kind reason := by
  unfold Recorded at *
  rw [hl, ht] at h
  exact h

/-! ### The sideband -/

theorem isolate_spec {s : State} (ho : s.boot.off = false) (hi : s.mgmt.isolated = false) :
    isolate s = { s with mgmt := { s.mgmt with isolated := true, alert := Nat.lor s.mgmt.alert 2 }
                         events := (isolate s).events, ledger := (isolate s).ledger } ∧ Recorded s (isolate s) 2 0xCC := by
  have h : isolate s = logRec (raiseUnit (setAlert (modMgmt s (fun m => { m with isolated := true })) 1) 0xCC noCtx moduleUnit 0)
      2 0xCC moduleUnit (ldata []) := by
    unfold isolate
    rw [ho, hi]
    rfl
  rw [h]
  have he := raiseUnit_eventsOnly (s := setAlert (modMgmt s (fun m => { m with isolated := true })) 1) (reason := 0xCC) noCtx moduleUnit 0
    none false (by decide)
  have hl := logRec_ledgerOnly (raiseUnit (setAlert (modMgmt s (fun m => { m with isolated := true })) 1) 0xCC noCtx moduleUnit 0)
    2 0xCC moduleUnit (ldata [])
  have hr := logRec_recorded (raiseUnit (setAlert (modMgmt s (fun m => { m with isolated := true })) 1) 0xCC noCtx moduleUnit 0)
    2 0xCC moduleUnit (ldata [])
  refine ⟨?_, hr.of_eq (by rw [he]; rfl) (by rw [he]; rfl)⟩
  rw [hl, he]
  rfl

section
variable {s : State} {source port waiting : Nat} {b : List Byte}

theorem managementMessage_unreached (hr : reaches s source port = false) : managementMessage s source port waiting b = s := by
  unfold managementMessage
  dsimp only
  rw [if_pos (by simp [hr])]

theorem managementMessage_short (hl : b.length < 32) : managementMessage s source port waiting b = s := by
  unfold managementMessage
  dsimp only
  split
  · rfl
  · rw [if_pos (.inl hl)]

variable (hr : reaches s source port = true) (hl : 32 ≤ b.length) (hm : leAt b 0 4 = 0x4D475A4D) (hv : leAt b 4 2 = 1)
  (hn : leAt b 0x14 4 = b.length - 32) (hc : b.length - 32 ≤ if source = 0 then 516 else 1028)
include hr hl hm hv hn hc

theorem managementMessage_dropped (hw : 256 ≤ waiting) :
    managementMessage s source port waiting b = modMgmt s (fun m => { m with dropped := satAdd 32 m.dropped 1 }) := by
  unfold managementMessage
  dsimp only
  rw [if_neg (by simp [hr]), if_neg (by rintro (h | h | h | h | h) <;> omega), if_pos hw]

theorem managementMessage_reserved (hw : waiting < 256) (hh : heldFor s source (leAt b 8 8) = none)
    (hop : leAt b 6 2 = 0 ∨ 0x14 < leAt b 6 2) :
    managementMessage s source port waiting b = deny s { source, ident := leAt b 8 8, port } (leAt b 6 2) 0x01 := by
  unfold managementMessage
  dsimp only
  rw [if_neg (by simp [hr]), if_neg (by rintro (h | h | h | h | h) <;> omega), if_neg (by omega), hh]
  exact if_pos hop

end

theorem mgmtPortLinkChange_open {s : State} (hp : s.boot.phase ≠ 0) (ho : powered s = true) : ¬(s.boot.phase = 0 ∨ !powered s) := by
  simp [hp, ho]

/-- Settles O46: each row of the sideband and of the management ports by its equation. -/
theorem sideband : Obligations.Sideband := by
  refine ⟨fun s => ⟨_, rfl, rfl⟩, ?_, fun s => ⟨_, rfl, rfl⟩, ?_, ?_, ?_⟩
  · rintro s cmd hcmd ho hi
    have h := isolate_spec ho hi
    rcases hcmd with rfl | rfl <;> exact ⟨isolate s, rfl, h⟩
  · intro s ho hi
    exact runs_eq rfl (if_neg (by simp [ho, hi])) rfl
  · intro s up hp ho
    have h := mgmtPortLinkChange_open hp ho
    exact ⟨runs_eq rfl ((if_neg h).trans (if_pos rfl)) rfl,
      fun h3 => runs_eq rfl ((if_neg h).trans ((if_neg (by decide)).trans (if_pos ⟨rfl, h3⟩))) rfl⟩
  · intro s source port waiting b
    refine ⟨fun hr => runs_eq rfl (managementMessage_unreached hr) rfl, fun hl => runs_eq rfl (managementMessage_short hl) rfl, ?_⟩
    intro hr hl hm hv hn hc
    exact ⟨fun hw => runs_eq rfl (managementMessage_dropped hr hl hm hv hn hc hw) rfl,
      fun hw hh hop => runs_eq rfl (managementMessage_reserved hr hl hm hv hn hc hw hh hop) (respond_only hh ..)⟩

end Sys2Proof.Machine
end

section
/-!
Shapes of register accesses and the two limit registers (20/R588-R592, R599, 15/R486, 18/R563).
-/
namespace Sys2Proof.Machine

/-! ### Writes -/

theorem registerWrite_bar0 {s : State} (ho : hostOpen s = true) (off : Nat) (data : List Byte) :
    registerWrite s (.bar0 off) data = barWrite s off data := if_pos ho

theorem barWrite_shape {s : State} {off : Nat} {data : List Byte} (h : (data.length ≠ 4 ∧ data.length ≠ 8) ∨ off % data.length ≠ 0) :
    barWrite s off data = setRegErr s 0x03 true data.length off := if_pos h

theorem barWrite_reserved {s : State} {off : Nat} {data : List Byte} (h : data.length = 4 ∨ data.length = 8)
    (ha : off % data.length = 0) (hr : regWord s (off / 8 * 8) = none) : barWrite s off data = setRegErr s 0x43 true data.length off := by
  unfold barWrite
  dsimp only
  rw [if_neg (by omega), hr]

theorem mergeBytes_whole {base off : Nat} {data : List Byte} (ho : off % 8 = 0) (hd : data.length = 8) :
    mergeBytes base off data = BitVec.ofNat 64 (Word.leNat data) := by
  unfold mergeBytes
  have hl : (Word.toLe 8 base).length = 8 := by simp [Word.toLe]
  dsimp only
  rw [ho, List.take_zero, List.nil_append, List.drop_of_length_le (by omega), List.append_nil]

theorem regWord_ackTally (s : State) : ∃ n, regWord s 0xE0010 = some (n, 3) := ⟨_, rfl⟩

theorem hubStore_ackTally (s : State) (v w : W64) (low : Bool) :
    hubStore s 0xE0010 v w low = modStep s (fun x => { x with ackTally := rbits v 47 32 }) := rfl

theorem barWrite_ackTally (s : State) {data : List Byte} (hd : data.length = 8) :
    barWrite s 0xE0010 data = modStep s (fun x => { x with ackTally := rbits (BitVec.ofNat 64 (Word.leNat data)) 47 32 }) := by
  obtain ⟨n, hn⟩ := regWord_ackTally s
  unfold barWrite
  dsimp only
  rw [hd, if_neg (by decide), show 0xE0010 / 8 * 8 = 0xE0010 from rfl, hn]
  dsimp only
  rw [if_neg (by decide), if_pos (by decide), hubStore_ackTally, mergeBytes_whole (by decide) hd]

/-! ### Reads -/

theorem setRegErr_out (s : State) (reason : Nat) (write : Bool) (len off : Nat) : (setRegErr s reason write len off).out = s.out := by
  have h : ∀ p : Pcie, ({ s with pcie := p } : State).out = s.out := fun _ => rfl
  exact h _

theorem regRead_refused {s : State} {off len : Nat} (hp : s.boot.phase = 6) (hl : s.pcie.linkUp = true) (hd : s.pcie.d3hot = false)
    (h : len = 0 ∨ 64 < len ∨ off / 64 ≠ (off + len - 1) / 64) :
    regRead s off len = { setRegErr s 0x03 false len off with out := s.out ++ [.pcieRead (List.replicate len 0xFF#8)] } := by
  have hopen : ¬(s.boot.phase < 4 ∨ !s.pcie.linkUp ∨ s.pcie.d3hot) := by simp [hp, hl, hd]
  rw [regRead, if_neg hopen, if_pos h, if_pos hp, emit, setRegErr_out]

/-! ### The limits -/

theorem hangCfgWrite_takes {s : State} {v : W64} (h : ¬(rbits v 13 0 = 0 ∨ 10000 < rbits v 13 0 ∨ 2 ≤ rbits v 59 58)) :
    hangCfgWrite s v = modHang s (fun x => { x with cfg := v &&& hangMask }) := if_neg h

theorem hangCfgWrite_refuses {s : State} {v : W64} (h : rbits v 13 0 = 0 ∨ 10000 < rbits v 13 0 ∨ 2 ≤ rbits v 59 58) :
    hangCfgWrite s v = modHang s (fun x => { x with reason := 0x03 }) := if_pos h

theorem pwrCfgWrite_takes {s : State} {v : W64}
    (h : ¬(rbits v 47 32 < 2000 ∨ 4800 < rbits v 47 32 ∨ rbits v 55 48 < 15 ∨ 60 < rbits v 55 48)) :
    pwrCfgWrite s v = modPwr s (fun p => { p with cfg := v &&& pwrMask }) := if_neg h

theorem pwrCfgWrite_refuses {s : State} {v : W64}
    (h : rbits v 47 32 < 2000 ∨ 4800 < rbits v 47 32 ∨ rbits v 55 48 < 15 ∨ 60 < rbits v 55 48) :
    pwrCfgWrite s v = modPwr s (fun p => { p with reason := 0x03 }) := if_pos h

/-- Settles O43: the shapes that are refused, the two registers named, and the two limits. -/
theorem registers : Obligations.Registers := by
  refine ⟨?_, ?_, ?_, ?_, ?_⟩
  · rintro s off data n r ho rfl (⟨h, rfl⟩ | ⟨h, ha, hr, rfl⟩)
    · exact runs_eq rfl ((registerWrite_bar0 ho off data).trans (barWrite_shape h)) rfl
    · exact runs_eq rfl ((registerWrite_bar0 ho off data).trans (barWrite_reserved h ha hr)) rfl
  · rintro s off data ho rfl hd
    exact runs_eq rfl ((registerWrite_bar0 ho 0xE0010 data).trans (barWrite_ackTally s hd)) rfl
  · intro s data hp hl
    exact runs_eq rfl (if_pos (show configAlive s = true by simp [configAlive, hp, hl])) rfl
  · intro s off len hp hl hd
    exact ⟨fun h => runs_eq rfl (regRead_refused hp hl hd h) rfl,
      fun h0 h64 hb => runs_eq rfl (regRead_served (by omega) hl hd h0 h64 hb) rfl⟩
  · intro s v ho
    exact ⟨fun ⟨h1, h2, h3⟩ => runs_host_eq ho rfl (hangCfgWrite_takes (by omega)) rfl,
      fun h => runs_host_eq ho rfl (hangCfgWrite_refuses h) rfl,
      fun ⟨h1, h2, h3, h4⟩ => runs_host_eq ho rfl (pwrCfgWrite_takes (by omega)) rfl,
      fun h => runs_host_eq ho rfl (pwrCfgWrite_refuses h) rfl⟩

end Sys2Proof.Machine
end

section
/-!
The phases of boot (16/R492-R499, R505-R508, 10/R318).
-/
namespace Sys2Proof.Machine

/-! ### Assertion, options, the boot ROM -/

theorem assertionEnd_eq {s : State} (hp : s.boot.phase = 0) (ho : powered s = true) (held : Bool) :
    assertionEnd s held = modPwr (modBoot s (fun b =>
      { b with phase := b.from_, held, ended4 := if b.level = 4 then some s.time.toNat else none }))
      (fun p => { p with refOk := true, lockA := true }) := by
  unfold assertionEnd
  rw [hp, ho]
  rfl

theorem optionLoading_eq {s : State} {samples : List Nat} (hp : s.boot.phase = 2) (hl : samples.length = 16) :
    ∃ port, optionLoading s samples = { s with mgmt := { s.mgmt with port1 := port }, boot := { s.boot with
      phase := 3, raw := medianOf (samples.map (· % 1024)), code := cfgCode (medianOf (samples.map (· % 1024)))
      unstable := (samples.map (· % 1024)).any (fun x => cfgCode x != cfgCode (medianOf (samples.map (· % 1024))))
      denied := false, template := 0, single := Word.bitOf (cfgCode (medianOf (samples.map (· % 1024)))) 2
      bankB := Word.bitOf (cfgCode (medianOf (samples.map (· % 1024)))) 1
      laneRev := Word.bitOf (cfgCode (medianOf (samples.map (· % 1024)))) 0 } } :=
  ⟨_, if_pos ⟨hp, hl⟩⟩

/-- Writing the boot directory changes boot flash alone. -/
theorem updateDir_boot (s : State) (f : FlashDir → FlashDir) :
    ∃ d0 d1, updateDir s f = modBoot s (fun b => { b with dir0 := d0, dir1 := d1 }) := by
  unfold updateDir
  dsimp only
  split
  · exact ⟨s.boot.dir0, _, rfl⟩
  · exact ⟨_, s.boot.dir1, rfl⟩

/-- The bank that starts, as the boot registers show it. -/
structure Started (s t : State) (bank tries reason : Nat) (fallback : Bool) : Prop where
  frame : t = { s with boot := t.boot }
  phase : t.boot.phase = 4
  bank : t.boot.bank = bank
  fallback : t.boot.fallback = fallback
  reason : t.boot.romReason = reason
  tries : t.boot.tries = tries

theorem startBank_started (s : State) {d : FlashDir} {k : Nat} (hd : newestDir s.boot = some (d, k)) (b : Nat) (fallback : Bool) (reason : Nat) :
    Started s (startBank s b fallback reason) b (if b = d.active then min 3 (d.tries + 1) else 1) reason fallback := by
  unfold startBank
  rw [hd]
  dsimp only
  obtain ⟨d0, d1, hu⟩ := updateDir_boot s fun d' =>
    if (some (d, k)).isSome = true then { d' with active := b, tries := if b = d.active then min 3 (d.tries + 1) else 1 }
    else { d' with active := b, tries := if b = d.active then min 3 (d.tries + 1) else 1, banks := 2 ^ b
                   verA := if b = 0 then imgVersion (bankBytes s b 0 512) else 0
                   verB := if b = 1 then imgVersion (bankBytes s b 0 512) else 0 }
  rw [hu]
  exact ⟨rfl, rfl, rfl, rfl, rfl, rfl⟩

section
variable {s : State} {d : FlashDir} {k : Nat} (hp : s.boot.phase = 3) (hd : newestDir s.boot = some (d, k)) (ht : d.tries < 3)
include hp hd ht

theorem bootRom_starts (hv : verifyImage s (bankImage s d.active) = true) : bootRom s = startBank s d.active false 0 := by
  unfold bootRom
  rw [if_neg (by omega), hd]
  have hn : decide (3 ≤ d.tries) = false := decide_eq_false (by omega)
  simp only [Option.map_some, hn, Bool.false_and, Bool.false_eq_true, if_false, hv, if_true]

theorem bootRom_falls_back (hv : verifyImage s (bankImage s d.active) = false) (ho : verifyImage s (bankImage s (1 - d.active)) = true) :
    bootRom s = startBank s (1 - d.active) true 0xC9 := by
  unfold bootRom
  rw [if_neg (by omega), hd]
  have hn : decide (3 ≤ d.tries) = false := decide_eq_false (by omega)
  simp only [Option.map_some, hn, Bool.false_and, Bool.false_eq_true, if_false, hv, ho, if_true]

theorem bootRom_recovers (hv : verifyImage s (bankImage s d.active) = false) (ho : verifyImage s (bankImage s (1 - d.active)) = false) :
    bootRom s = setAlert (modBoot s (fun b => { b with phase := 7, romReason := 0xCA, fallback := false, tries := 0 })) 5 := by
  unfold bootRom
  rw [if_neg (by omega), hd]
  have hn : decide (3 ≤ d.tries) = false := decide_eq_false (by omega)
  simp only [Option.map_some, hn, Bool.false_and, Bool.false_eq_true, if_false, hv, ho]

end

/-! ### The firmware phase -/

/-- `t` is `s` but for what the firmware phase brings up, and runs the same bank. -/
structure Booted (s t : State) : Prop where
  frame : t = { s with mem := t.mem, stepSt := t.stepSt, events := t.events, ledger := t.ledger, coreMap := t.coreMap
                       cpActive := t.cpActive, fab := t.fab, boot := t.boot }
  bank : t.boot.bank = s.boot.bank

theorem Booted.refl (s : State) : Booted s s := ⟨rfl, rfl⟩

theorem Booted.trans {s t u : State} (h : Booted s t) (g : Booted t u) : Booted s u := by
  refine ⟨?_, g.bank.trans h.bank⟩
  have hg := g.frame
  rw [h.frame] at hg
  exact hg

theorem Booted.ite {s t u : State} {p : Prop} [Decidable p] (h : Booted s t) (g : Booted s u) : Booted s (if p then t else u) := by
  split
  · exact h
  · exact g

theorem Booted.foldl {α : Type} {f : State → α → State} (hf : ∀ s a, Booted s (f s a)) (l : List α) (s : State) :
    Booted s (l.foldl f s) := by
  induction l generalizing s with
  | nil => exact .refl s
  | cons a l ih => exact (hf s a).trans (ih _)

theorem Booted.reported {s t : State} (h : Reported s t) : Booted s t := by
  unfold Reported at h
  refine ⟨?_, ?_⟩
  · rw [h]
  · rw [h]

theorem Booted.coreMap (s : State) (x : Tab MapEntry) : Booted s { s with coreMap := x } := ⟨rfl, rfl⟩
theorem Booted.ledger (s : State) (x : Ledger) : Booted s { s with ledger := x } := ⟨rfl, rfl⟩
theorem Booted.events (s : State) (x : Events) : Booted s { s with events := x } := ⟨rfl, rfl⟩
theorem Booted.fab (s : State) (x : Fab) : Booted s { s with fab := x } := ⟨rfl, rfl⟩
theorem Booted.cpActive (s : State) (x : Tab Nat) : Booted s { s with cpActive := x } := ⟨rfl, rfl⟩
theorem Booted.modPort (s : State) (p : Nat) (f : Port → Port) : Booted s (modPort s p f) := .fab s _

theorem modBoot_booted {s : State} {f : Boot → Boot} (h : (f s.boot).bank = s.boot.bank) : Booted s (modBoot s f) := ⟨rfl, h⟩
theorem logRec_booted (s : State) (k r : Nat) (u : W64) (d : List Byte) : Booted s (logRec s k r u d) := .reported (logRec_reported ..)
theorem raiseUnit_booted (s : State) (r cg u a d b) : Booted s (raiseUnit s r cg u a d b) := .reported (raiseUnit_raised ..).reported
theorem modUnit_booted (s : State) (u : W64) (f : UnitRec → UnitRec) : Booted s (modUnit s u f) := .ledger s _
theorem modLedger_booted (s : State) (f : Ledger → Ledger) : Booted s (modLedger s f) := .ledger s _

theorem loadEvents_booted (s : State) (routes : List (Nat × W64)) (rings : List W64) : Booted s (loadEvents s routes rings) := by
  unfold loadEvents
  exact (Booted.events s _).trans (.foldl (fun s e => .ite (.events s _) (.refl s)) _ _)

theorem mountLedger_booted (s : State) (torn : Bool) : Booted s (mountLedger s torn) := by
  unfold mountLedger
  exact (modLedger_booted ..).trans (.ite (raiseUnit_booted ..) (.refl _))

theorem bootRecords_booted (s : State) : Booted s (bootRecords s) := by
  unfold bootRecords
  exact ((Booted.ite (modLedger_booted ..) (.refl s)).trans (logRec_booted ..)).trans (logRec_booted ..)

theorem applyRepair_booted (x : State × List (Nat × Nat)) (r : LedgerRec) : Booted x.1 (applyRepair x r).1 := by
  unfold applyRepair
  dsimp only
  split
  · exact logRec_booted ..
  · split
    · exact (modUnit_booted ..).trans (.coreMap ..)
    · split
      · exact (modUnit_booted ..).trans (.coreMap ..)
      · exact (modUnit_booted ..).trans (.coreMap ..)

theorem buildMap_booted (s : State) : Booted s (buildMap s) := by
  have go : ∀ (l : List LedgerRec) (x : State × List (Nat × Nat)), Booted x.1 (l.foldl applyRepair x).1 := by
    intro l
    induction l with
    | nil => exact fun x => .refl x.1
    | cons r l ih => exact fun x => (applyRepair_booted x r).trans (ih _)
  unfold buildMap
  exact ((Booted.coreMap s _).trans (go _ ({ s with coreMap := factoryMap s }, []))).trans (.coreMap ..)

theorem retest_booted (s : State) (t : Retest) : Booted s (retest s t) := by
  unfold retest
  dsimp only
  split
  · split
    · exact (logRec_booted ..).trans (((modUnit_booted ..).trans (raiseUnit_booted ..)).trans (.reported (setStanding_reported ..)))
    · exact (logRec_booted ..).trans ((modUnit_booted ..).trans (.reported (setStanding_reported ..)))
  · exact .refl s

theorem repairCore_booted (s : State) (core : Nat) : Booted s (repairCore s core) := by
  unfold repairCore logRepair
  dsimp only
  split
  · exact (logRec_booted ..).trans (.coreMap ..)
  · exact (logRec_booted ..).trans (.coreMap ..)

theorem bootCore_booted (s : State) (core : Nat) : Booted s (bootCore s core) := by
  unfold bootCore
  refine .ite (.refl s) (.ite (repairCore_booted ..) (.ite ?_ (.refl s)))
  split
  · exact .coreMap ..
  · exact .coreMap ..

theorem portEnable_booted (s : State) (p : Nat) (v : W64) : Booted s (portEnable s p v) := by
  unfold portEnable
  exact .ite (.refl s) ((Booted.modPort s p _).trans (.ite (.refl _) (.ite (.modPort ..) (.ite (.modPort ..) (.modPort ..)))))

theorem bootPorts_booted (s : State) : Booted s (bootPorts s) := by
  unfold bootPorts
  exact .foldl (fun s p => .ite (.refl s) ((Booted.modPort ..).trans (portEnable_booted ..))) _ s

theorem chooseTemplate_booted (s : State) : Booted s (chooseTemplate s) := by
  unfold chooseTemplate
  exact .ite (modBoot_booted rfl) (.ite (modBoot_booted rfl) ((modBoot_booted rfl).trans (raiseUnit_booted ..)))

theorem Booted.toTraining {s t : State} (h : Booted s t) :
    Booted s (modBoot t fun b => { b with phase := 5 }) ∧ (modBoot t fun b => { b with phase := 5 }).boot.phase = 5 :=
  ⟨h.trans (modBoot_booted rfl), rfl⟩

theorem firmwarePhase_booted {s : State} (hp : s.boot.phase = 4) (torn : Bool) (routes : List (Nat × W64)) (rings : List W64)
    (tests : List Retest) :
    Booted s (firmwarePhase s torn routes rings tests) ∧ (firmwarePhase s torn routes rings tests).boot.phase = 5 := by
  unfold firmwarePhase
  rw [if_neg (by omega)]
  extract_lets s1 s2 s3 s4 s5 s6 s7 s8
  have h1 : Booted s s1 := loadEvents_booted ..
  have h2 : Booted s1 s2 := (mountLedger_booted ..).trans (bootRecords_booted _)
  have h3 : Booted s2 s3 := .ite ((modLedger_booted ..).trans (raiseUnit_booted ..)) (.refl s2)
  have h4 : Booted s3 s4 := .ite (raiseUnit_booted ..) (.refl s3)
  have h5 : Booted s4 s5 := (buildMap_booted s4).trans (.foldl retest_booted ..)
  have h6 : Booted s5 s6 := .foldl bootCore_booted ..
  have h7 : Booted s6 s7 := .cpActive ..
  have h8 : Booted s7 s8 := (chooseTemplate_booted s7).trans (bootPorts_booted _)
  exact ((((((((h1.trans h2).trans h3).trans h4).trans h5).trans h6).trans h7).trans h8)).toTraining

/-! ### Training -/

/-- `t` is `s` but for channels and ledger. -/
def Trained (s t : State) : Prop := t = { s with mem := { s.mem with chans := t.mem.chans }, ledger := t.ledger }

theorem Trained.refl (s : State) : Trained s s := rfl

theorem Trained.trans {s t u : State} (h : Trained s t) (g : Trained t u) : Trained s u := by
  unfold Trained at *
  rw [h] at g
  exact g

theorem modChan_trained (s : State) (ch : Nat) (f : Chan → Chan) : Trained s (modChan s ch f) := rfl
theorem logRec_trained (s : State) (k r : Nat) (u : W64) (d : List Byte) : Trained s (logRec s k r u d) := by
  unfold Trained
  rw [logRec_frame]

theorem getChan_logRec (s : State) (k r : Nat) (u : W64) (d : List Byte) (ch : Nat) : getChan (logRec s k r u d) ch = getChan s ch := by
  rw [logRec_frame]
  rfl

/-- Without a failed lane a channel trains, or goes out of service when it was. -/
theorem trainChan_clean (s : State) {t : ChanTrain} (hb : t.bad = []) :
    Trained s (trainChan s t) ∧ (getChan (trainChan s t) t.chan).state ≠ 0 ∧ ∀ ch, ch ≠ t.chan → getChan (trainChan s t) ch = getChan s ch := by
  unfold trainChan
  dsimp only
  rw [hb]
  split
  · refine ⟨modChan_trained .., ?_, fun ch hc => ?_⟩
    · rw [getChan_modChan, if_pos rfl]
      exact Nat.one_ne_zero
    · rw [getChan_modChan, if_neg hc]
      rfl
  · refine ⟨(modChan_trained ..).trans (logRec_trained ..), ?_, fun ch hc => ?_⟩
    · rw [getChan_logRec, getChan_modChan, if_pos rfl]
      exact Nat.succ_ne_zero 3
    · rw [getChan_logRec, getChan_modChan, if_neg hc]

theorem trainAll_clean {f : State → Nat → State} (hf : ∀ s ch, f s ch = trainChan s { chan := ch, spares := chanSpares ch })
    (l : List Nat) (s : State) :
    Trained s (l.foldl f s) ∧ (0 ∈ l ∨ (getChan s 0).state ≠ 0 → (getChan (l.foldl f s) 0).state ≠ 0) := by
  induction l generalizing s with
  | nil => exact ⟨.refl s, fun h => h.resolve_left List.not_mem_nil⟩
  | cons ch l ih =>
    obtain ⟨ht, hs, ho⟩ := trainChan_clean s (t := { chan := ch, spares := chanSpares ch }) rfl
    rw [List.foldl_cons, hf]
    obtain ⟨ht', hs'⟩ := ih (trainChan s { chan := ch, spares := chanSpares ch })
    refine ⟨ht.trans ht', fun h => hs' ?_⟩
    by_cases h0 : 0 = ch
    · subst h0
      exact .inr hs
    · rcases h with h | h
      · exact .inl ((List.mem_cons.mp h).resolve_left h0)
      · exact .inr (by rw [ho 0 h0]; exact h)

theorem phyTraining_clean {s : State} (hp : s.boot.phase = 5) (h0 : (getChan s 0).state = 0) :
    Trained s (phyTraining s [] []) ∧ (getChan (phyTraining s [] []) 0).state ≠ 0 := by
  have hm : 0 ∈ List.range 640 := List.mem_range.mpr (by decide)
  unfold phyTraining
  rw [if_pos ⟨hp, h0⟩, List.foldl_nil]
  have h := trainAll_clean (f := fun s ch => trainChan s
    ((([] : List ChanTrain).find? (fun t => t.chan == ch)).getD { chan := ch, spares := chanSpares ch })) (fun _ _ => rfl) (List.range 640) s
  exact ⟨h.1, h.2 (.inl hm)⟩

/-! ### Ready -/

theorem getD_of_lt {α : Type} {l : List α} {i : Nat} (d : α) (h : i < l.length) : l.getD i d = l[i] := by
  rw [List.getD_eq_getElem?_getD, List.getElem?_eq_getElem h, Option.getD_some]

theorem getD_of_ge {α : Type} {l : List α} {i : Nat} (d : α) (h : l.length ≤ i) : l.getD i d = d := by
  rw [List.getD_eq_getElem?_getD, List.getElem?_eq_none h, Option.getD_none]

/-- With every pin high nothing waits at the pins. -/
theorem lowPins_high {s : State} (h : ∀ p ∈ s.events.pins, p.level = true) : lowPins s = s := by
  have hp : ∀ p, (getPin s p).level = true := by
    intro p
    unfold getPin
    rcases Nat.lt_or_ge p s.events.pins.length with hl | hl
    · rw [getD_of_lt _ hl]
      exact h _ (List.getElem_mem hl)
    · rw [getD_of_ge _ hl]
  have go : ∀ l : List Nat, l.foldl (fun s p =>
      let x := getPin s p
      if pinQualifies (rbits x.cfg 49 48) false && !x.level && !x.pending then raisePin (setPin s p { x with pending := true }) p else s) s = s := by
    intro l
    induction l with
    | nil => rfl
    | cons p l ih =>
      rw [List.foldl_cons]
      dsimp only
      rw [if_neg (by simp [hp p])]
      exact ih
  exact go (List.range 8)

theorem ready_eq {s : State} (hp : s.boot.phase = 5) (h0 : (getChan s 0).state ≠ 0) :
    ∃ d0 d1, ready s = lowPins (defaultParts (modBoot s fun b => { b with phase := 6, ended4 := none, dir0 := d0, dir1 := d1 })) := by
  obtain ⟨d0, d1, h⟩ := updateDir_boot (modBoot s (fun b => { b with phase := 6, ended4 := none })) (fun d => { d with tries := 0 })
  have hr : ready s = lowPins (defaultParts (updateDir (modBoot s (fun b => { b with phase := 6, ended4 := none })) (fun d => { d with tries := 0 }))) :=
    if_pos ⟨hp, h0⟩
  exact ⟨d0, d1, by rw [hr, h]; rfl⟩

/-- `t` is `s` but for what the fill of a die and the draw of keys touch (10/R327). -/
def Filled (s t : State) : Prop := t = { s with mem := t.mem, cores := t.cores, freeCtr := t.freeCtr }

theorem Filled.refl (s : State) : Filled s s := rfl

theorem Filled.trans {s t u : State} (h : Filled s t) (g : Filled t u) : Filled s u := by
  unfold Filled at *
  rw [h] at g
  exact g

theorem Filled.withMem (s : State) (m : Mem) : Filled s { s with mem := m } := rfl
theorem Filled.withCores (s : State) (c : Tab Core) : Filled s { s with cores := c } := rfl
theorem Filled.drawn (s : State) (n : Nat) : Filled s { s with freeCtr := n } := rfl

theorem zeroPlain_filled (s : State) (die : Nat) : Filled s (zeroPlain s die) := (Filled.withMem s _).trans (.withCores _ _)

theorem fillDie_filled (s : State) (die : Nat) : Filled s (fillDie s die) := (Filled.withMem s _).trans (zeroPlain_filled _ _)

theorem fillDies_filled (l : List Nat) (s : State) : Filled s (l.foldl fillDie s) := by
  induction l generalizing s with
  | nil => exact .refl s
  | cons d l ih => exact (fillDie_filled s d).trans (ih _)

theorem drawKeys_filled (s : State) : Filled s (drawKeys s).1 := by
  unfold drawKeys drawFree
  dsimp only
  split
  · exact .drawn s _
  · exact .drawn s _

theorem makePart_eq (s : State) (t i p : Nat) (dies : List Nat) :
    ∃ u, Filled s u ∧ makePart s t i p dies = setPart u p
      { dies, inst := i, templ := t, state := 2, life := lifecycle u, keyA := (drawKeys s).2.1, keyB := (drawKeys s).2.2 } :=
  ⟨dies.foldl fillDie (drawKeys s).1, (drawKeys_filled s).trans (fillDies_filled dies _), rfl⟩

theorem instDies_whole (s : State) (i : Nat) : instDies s 0 i = if i = 0 then List.range 8 else [] := by
  have h : instDies s 0 i = (List.range 8).filter (fun d => [0, 0, 0, 0, 0, 0, 0, 0].getD d 8 == i) := rfl
  rw [h]
  split
  · rename_i h0
    rw [h0]
    decide
  · rename_i h0
    refine List.filter_eq_nil_iff.mpr fun d hd => ?_
    have hz : ∀ d ∈ List.range 8, [0, 0, 0, 0, 0, 0, 0, 0].getD d 8 = 0 := by decide
    rw [hz d hd]
    simpa using Ne.symm h0

theorem defaultParts_locked {s : State} (h : s.fuse.prov = 3) : defaultParts s = s := if_pos h

/-- Template T0 makes one partition of every die. -/
theorem defaultParts_whole {s : State} (h : s.fuse.prov ≠ 3) (ht : s.boot.template = 0) :
    defaultParts s = makePart s 0 0 0 (List.range 8) := by
  have hsame : (makePart s 0 0 0 (List.range 8)).boot.template = 0 := by
    obtain ⟨u, hu, hm⟩ := makePart_eq s 0 0 0 (List.range 8)
    rw [hm, setPart_boot, hu]
    exact ht
  have go : ∀ (l : List Nat) (s : State), s.boot.template = 0 → (∀ i ∈ l, i ≠ 0) → l.foldl (fun s i =>
      match instDies s s.boot.template i with
      | [] => s
      | p :: t => makePart s s.boot.template i p (p :: t)) s = s := by
    intro l
    induction l with
    | nil => exact fun _ _ _ => rfl
    | cons i l ih =>
      intro s ht hl
      rw [List.foldl_cons, ht, instDies_whole, if_neg (hl i List.mem_cons_self)]
      exact ih s ht fun i hi => hl i (List.mem_cons_of_mem _ hi)
  unfold defaultParts
  rw [if_neg h, show List.range 8 = 0 :: [1, 2, 3, 4, 5, 6, 7] from rfl, List.foldl_cons, ht, instDies_whole]
  exact go _ _ hsame (by decide)

/-- Settles O50: one lemma for each phase. -/
theorem bootPhases : Obligations.BootPhases := by
  refine ⟨?_, ?_, ?_, ?_, ?_, ?_, ?_, ?_⟩
  · intro s held hp ho
    exact runs_eq rfl (assertionEnd_eq hp ho held) ⟨rfl, rfl, rfl⟩
  · intro s hp
    exact runs_eq rfl (if_pos hp) rfl
  · rintro s samples raw hp hl rfl
    obtain ⟨port, h⟩ := optionLoading_eq hp hl
    exact runs_eq rfl h ⟨rfl, rfl, rfl, rfl, rfl, rfl, rfl, by simp [Function.comp_def]⟩
  · intro s d k hp hd ht
    refine ⟨fun hv => runs_eq rfl (bootRom_starts hp hd ht hv) ?_, fun hv ho ha => runs_eq rfl (bootRom_falls_back hp hd ht hv ho) ?_,
      fun hv ho => runs_eq rfl (bootRom_recovers hp hd ht hv ho) ⟨rfl, rfl, rfl⟩⟩
    · obtain ⟨hf, h4, hb, hfb, hr, htr⟩ := startBank_started s hd d.active false 0
      exact ⟨hf, h4, hb, hfb, hr, by rw [htr, if_pos rfl]; omega⟩
    · obtain ⟨hf, h4, hb, hfb, hr, htr⟩ := startBank_started s hd (1 - d.active) true 0xC9
      exact ⟨hf, h4, hb, hfb, hr, by rw [htr, if_neg (by omega)]⟩
  · intro s torn routes rings tests hp
    obtain ⟨⟨hf, hb⟩, h5⟩ := firmwarePhase_booted hp torn routes rings tests
    refine ⟨_, rfl, h5, ?_, ?_, ?_, ?_, ?_, hb⟩
    all_goals rw [hf]
  · intro s hp h0
    obtain ⟨hf, hs⟩ := phyTraining_clean hp h0
    refine ⟨_, rfl, ?_, hs, ?_, ?_, ?_, ?_⟩
    · rw [hf]
      exact hp
    all_goals rw [hf]
  · intro s hp h0 hprov hpins
    obtain ⟨d0, d1, h⟩ := ready_eq hp h0
    rw [defaultParts_locked (by exact hprov), lowPins_high (by exact hpins)] at h
    exact runs_eq rfl h ⟨rfl, rfl, rfl⟩
  · intro s hp h0 hprov ht hpins
    obtain ⟨d0, d1, h⟩ := ready_eq hp h0
    rw [defaultParts_whole (by exact hprov) (by exact ht)] at h
    obtain ⟨u, hu, hm⟩ := makePart_eq (modBoot s fun b => { b with phase := 6, ended4 := none, dir0 := d0, dir1 := d1 }) 0 0 0 (List.range 8)
    have hev : u.events = s.events := by rw [hu]; rfl
    rw [hm, lowPins_high (by rw [setPart_events, hev]; exact hpins)] at h
    refine runs_eq rfl h ?_
    have hpart : ∀ p, getPart u p = getPart s p := fun p => by rw [hu]; rfl
    refine ⟨?_, ?_, ?_, ?_, ?_, ?_, ?_, ?_, fun p hp => ?_⟩
    · rw [setPart_boot, hu]
      rfl
    · rw [getPart_setPart, if_pos rfl]
    · rw [getPart_setPart, if_pos rfl]
    · rw [getPart_setPart, if_pos rfl]
    · rw [getPart_setPart, if_pos rfl]
    · rw [setPart_cmds, hu]
      rfl
    · rw [setPart_queues, hu]
      rfl
    · rw [setPart_ctxs, hu]
      rfl
    · rw [getPart_setPart, if_neg hp, hpart]

end Sys2Proof.Machine
end

section
/-! # The hub registers at power-on and after a chip-level reset (20/R594, R595)

What a hub register reads depends on a part of the state that every chip-level reset puts back: `HubFresh` names that
part. Each row of the reset table is then read once, on any state whose hub is fresh. -/

namespace Sys2Proof.Machine

/-- The part of the state that the rows of `hubResets` read is as a chip-level reset leaves it. -/
structure HubFresh (t : State) : Prop where
  pcie : t.pcie = {}
  queues : t.queues = []
  cmds : t.cmds = []
  highWater : t.highWater = 0
  backpressure : t.backpressure = false
  launches : t.launches = []
  parts : t.parts = []
  ctxs : t.ctxs = []
  groups : t.groups = []
  maps : t.maps = []
  substs : t.substs = []
  stepSt : t.stepSt = {}
  pwr : t.pwr = {}
  procs : t.events.procs = []
  rings : t.events.rings = []
  evtRoutes : t.events.routes = []
  pins : t.events.pins.map (·.cfg) = ({} : Events).pins.map (·.cfg)
  hang : ∃ mem seq, t.hang = { capMem := mem, capSeq := seq }
  sessions : t.fab.sessions = []
  routes : t.fab.routes = []
  timeSt : t.fab.timeSt = {}
  phase : t.boot.phase = 0
  inputLost : t.boot.inputLost = false
  svn : t.boot.svn = 0
  fwReason : t.boot.fwReason = 0
  staged : t.boot.staged = false
  handover : t.boot.handover = 0

theorem hubFresh_reset : HubFresh State.reset where
  pcie := rfl
  queues := rfl
  cmds := rfl
  highWater := rfl
  backpressure := rfl
  launches := rfl
  parts := rfl
  ctxs := rfl
  groups := rfl
  maps := rfl
  substs := rfl
  stepSt := rfl
  pwr := rfl
  procs := rfl
  rings := rfl
  evtRoutes := rfl
  pins := rfl
  hang := ⟨[], 0, rfl⟩
  sessions := rfl
  routes := rfl
  timeSt := rfl
  phase := rfl
  inputLost := rfl
  svn := rfl
  fwReason := rfl
  staged := rfl
  handover := rfl

/-- A reset keeps the filtered level of every pin and puts its configuration back. -/
theorem keepLevels_cfg (ps : List Pin) : (keepLevels ps).map (·.cfg) = ({} : Events).pins.map (·.cfg) := rfl

theorem hubFresh_chipReset (s : State) (cause level : Nat) (slot : Option Nat) :
    HubFresh (chipReset s cause level slot) where
  pcie := rfl
  queues := rfl
  cmds := rfl
  highWater := rfl
  backpressure := rfl
  launches := rfl
  parts := rfl
  ctxs := rfl
  groups := rfl
  maps := rfl
  substs := rfl
  stepSt := rfl
  pwr := rfl
  procs := rfl
  rings := rfl
  evtRoutes := rfl
  pins := keepLevels_cfg s.events.pins
  hang := ⟨s.hang.capMem, s.hang.capSeq, rfl⟩
  sessions := rfl
  routes := rfl
  timeSt := rfl
  phase := rfl
  inputLost := rfl
  svn := rfl
  fwReason := rfl
  staged := rfl
  handover := rfl

/-! ## Where a hub register is -/

theorem regValue_hub {t : State} {o v m : Nat} (hw : o % 8 = 0) (ho : o < 0x1000000) (hr : hubReg t o = some (v, m)) :
    regValue t o = v := by
  have : o / 8 * 8 = o := by omega
  simp only [regValue, regWord, this, if_pos ho, hr]

theorem regValue_reserved {t : State} {o : Nat} (hw : o % 8 = 0) (ho : o < 0x1000000) (hr : hubReg t o = none) :
    regValue t o = 0 := by
  have : o / 8 * 8 = o := by omega
  simp only [regValue, regWord, this, if_pos ho, hr]

theorem hubReg_aper (t : State) (i : Nat) (hi : i < 16) :
    hubReg t (0x10000 + 8 * i) = some ((aperWin t i).toNat, 3) := by
  unfold hubReg
  repeat rw [if_neg (by omega)]
  rw [if_pos (by omega), show (0x10000 + 8 * i - 0x10000) / 8 = i by omega]

theorem hubReg_msix (t : State) (o : Nat) (ho : o < 0x10000) : hubReg t (0x20000 + o) = msixReg t o := by
  unfold hubReg
  repeat rw [if_neg (by omega)]
  rw [if_pos (by omega), show 0x20000 + o - 0x20000 = o by omega]

theorem hubReg_pwr (t : State) (o : Nat) (ho : o < 0x10000) : hubReg t (0x60000 + o) = pwrReg t o := by
  unfold hubReg
  repeat rw [if_neg (by omega)]
  rw [if_pos (by omega), show 0x60000 + o - 0x60000 = o by omega]

theorem hubReg_event (t : State) (o : Nat) (ho : o < 0x10000) : hubReg t (0x70000 + o) = eventReg t o := by
  unfold hubReg
  repeat rw [if_neg (by omega)]
  rw [if_pos (by omega), show 0x70000 + o - 0x70000 = o by omega]

theorem hubReg_part (t : State) (p o : Nat) (hp : p < 8) (ho : o < 0x40) :
    hubReg t (0x90000 + 0x40 * p + o) = partReg t p o := by
  unfold hubReg
  repeat rw [if_neg (by omega)]
  rw [if_pos (by omega), show (0x90000 + 0x40 * p + o - 0x90000) / 0x40 = p by omega,
    show (0x90000 + 0x40 * p + o) % 0x40 = o by omega]

theorem hubReg_ctx (t : State) (c o : Nat) (hc : c < 256) (ho : o < 0x40) :
    hubReg t (0xA0000 + 0x40 * c + o) = ctxReg t c o := by
  unfold hubReg
  repeat rw [if_neg (by omega)]
  rw [if_pos (by omega), show (0xA0000 + 0x40 * c + o - 0xA0000) / 0x40 = c by omega,
    show (0xA0000 + 0x40 * c + o) % 0x40 = o by omega]

theorem hubReg_group (t : State) (g o : Nat) (hg : g < 1024) (ho : o < 0x20) :
    hubReg t (0xD0000 + 0x20 * g + o) = groupReg t g o := by
  unfold hubReg
  repeat rw [if_neg (by omega)]
  rw [if_pos (by omega), show (0xD0000 + 0x20 * g + o - 0xD0000) / 0x20 = g by omega,
    show (0xD0000 + 0x20 * g + o) % 0x20 = o by omega]

theorem hubReg_subst (t : State) (i : Nat) (hi : i < 256) : hubReg t (0xD8000 + 8 * i) = some (substW t i, 3) := by
  unfold hubReg
  repeat rw [if_neg (by omega)]
  rw [if_pos (by omega), show (0xD8000 + 8 * i - 0xD8000) / 8 = i by omega]

theorem hubReg_map (t : State) (i : Nat) (hi : i < 16) : hubReg t (0xD9000 + 8 * i) = some (mapW t i, 3) := by
  unfold hubReg
  repeat rw [if_neg (by omega)]
  rw [if_pos (by omega), show (0xD9000 + 8 * i - 0xD9000) / 8 = i by omega]

theorem hubReg_step (t : State) (o : Nat) (ho : o < 0x10000) : hubReg t (0xE0000 + o) = stepReg t o := by
  unfold hubReg
  repeat rw [if_neg (by omega)]
  rw [if_pos (by omega), show 0xE0000 + o - 0xE0000 = o by omega]

theorem hubReg_hang (t : State) (o : Nat) (ho : o < 0x10000) : hubReg t (0xF0000 + o) = hangReg t o := by
  unfold hubReg
  repeat rw [if_neg (by omega)]
  rw [if_pos (by omega), show 0xF0000 + o - 0xF0000 = o by omega]

theorem hubReg_queue (t : State) (q o : Nat) (hq : q < 16384) (ho : o < 0x40) :
    hubReg t (0x400000 + 0x40 * q + o) = queueReg t q o := by
  unfold hubReg
  repeat rw [if_neg (by omega)]
  rw [if_pos (by omega), show (0x400000 + 0x40 * q + o - 0x400000) / 0x40 = q by omega,
    show (0x400000 + 0x40 * q + o) % 0x40 = o by omega]

theorem hubReg_route (t : State) (i : Nat) (hi : i < 32768) :
    hubReg t (0x600000 + 8 * i) = some ((tget 0#64 t.fab.routes i).toNat, 3) := by
  unfold hubReg
  repeat rw [if_neg (by omega)]
  rw [if_pos (by omega), show (0x600000 + 8 * i - 0x600000) / 8 = i by omega]

theorem hubReg_session (t : State) (n o : Nat) (hn : n < 4096) (ho : o < 0x20) :
    hubReg t (0x700000 + 0x20 * n + o) = sessionReg t n o := by
  unfold hubReg
  repeat rw [if_neg (by omega)]
  rw [if_pos (by omega), show (0x700000 + 0x20 * n + o - 0x700000) / 0x20 = n by omega,
    show (0x700000 + 0x20 * n + o) % 0x20 = o by omega]

/-! ## The rows of the reset table -/

/-- Every register of a row of the table reads the row's value. -/
def Reads (t : State) (e : RegRow) : Prop := ∀ i, i < e.count → regValue t (e.first + e.stride * i) = e.value

/-- A row of one register. -/
theorem Reads.single {t : State} {o v m : Nat} (hw : o % 8 = 0) (ho : o < 0x1000000)
    (hr : hubReg t o = some (v, m)) : Reads t ⟨o, 0, 1, v⟩ := by
  intro i _
  simpa using regValue_hub hw ho hr

/-- A row of registers that lie at equal distances. -/
theorem Reads.many {t : State} {o d n v m : Nat} (hw : o % 8 = 0) (hd : d % 8 = 0) (hpos : 0 < d)
    (ho : o + d * n ≤ 0x1000000) (hr : ∀ i, i < n → hubReg t (o + d * i) = some (v, m)) : Reads t ⟨o, d, n, v⟩ := by
  intro i hi
  have hlt : d * i + d ≤ d * n := by
    calc d * i + d = d * (i + 1) := (Nat.mul_succ d i).symm
      _ ≤ d * n := Nat.mul_le_mul_left d hi
  have hi' : (d * i) % 8 = 0 := by simp [Nat.mul_mod, hd]
  have hw' : (o + d * i) % 8 = 0 := by omega
  have hlt' : o + d * i < 0x1000000 := by clear hd hi' hw'; omega
  exact regValue_hub hw' hlt' (hr i hi)

/-- A row of the first aligned words of equal blocks, at a fixed place of each. -/
theorem Reads.block {t : State} {base d n r v m : Nat} (hw : (base + r) % 8 = 0) (hd : d % 8 = 0) (hpos : 0 < d)
    (ho : base + r + d * n ≤ 0x1000000) (hr : ∀ i, i < n → hubReg t (base + d * i + r) = some (v, m)) :
    Reads t ⟨base + r, d, n, v⟩ :=
  Reads.many hw hd hpos ho fun i hi => by rw [Nat.add_right_comm]; exact hr i hi

theorem getD_map_cfg (l : List Pin) (k : Nat) : (l.map (·.cfg)).getD k ({} : Pin).cfg = (l.getD k {}).cfg := by
  rw [List.getD_eq_getElem?_getD, List.getD_eq_getElem?_getD, List.getElem?_map, Option.getD_map]

section
variable {t : State} (h : HubFresh t)
include h

theorem HubFresh.identity : Reads t ⟨0, 0, 1, 0x148555A4D⟩ := .single (m := 3) rfl (by omega) rfl

theorem HubFresh.regErr : Reads t ⟨0x10, 0, 1, 0⟩ :=
  .single (m := 3) rfl (by omega) (by simp [hubReg, h.pcie])

theorem HubFresh.aperWindows : Reads t ⟨0x10000, 8, 16, 0⟩ :=
  .many (m := 3) rfl rfl (by omega) (by omega) fun i hi => by rw [hubReg_aper t i hi, aperWin, h.pcie]; simp [tget]

theorem HubFresh.aperStatus : Reads t ⟨0x10080, 0, 1, 0⟩ :=
  .single (m := 3) rfl (by omega) (by simp [hubReg, aperStatusW, h.pcie, fld])

theorem HubFresh.msixAddr : Reads t ⟨0x20000, 0x10, 64, 0⟩ :=
  .many (m := 3) rfl rfl (by omega) (by omega) fun i hi => by
    rw [hubReg_msix t (0x10 * i) (by omega), msixReg, if_pos (by omega), if_pos (by omega), h.pcie]; simp [tget]

theorem HubFresh.msixControl : Reads t ⟨0x20008, 0x10, 64, 2 ^ 32⟩ :=
  .many (m := 3) rfl rfl (by omega) (by omega) fun i hi => by
    rw [show 0x20008 + 0x10 * i = 0x20000 + (8 + 0x10 * i) by omega, hubReg_msix t _ (by omega), msixReg,
      if_pos (by omega), if_neg (by omega), h.pcie]
    simp [tget, fld]

theorem HubFresh.msixPending : Reads t ⟨0x21000, 0, 1, 0⟩ :=
  .single (m := 3) rfl (by omega) (by rw [hubReg_msix t 0x1000 (by omega), msixReg, h.pcie]; rfl)

theorem HubFresh.commandTable : Reads t ⟨0x30000, 0, 1, 0⟩ :=
  .single (m := 3) rfl (by omega) (by simp [hubReg, h.highWater, h.backpressure, h.cmds, fld, Word.b2n])

theorem HubFresh.pwrCfg : Reads t ⟨0x60000, 0, 1, 0x1E12C000140030⟩ :=
  .single (m := 3) rfl (by omega) (by rw [hubReg_pwr t 0 (by omega), pwrReg, h.pwr]; decide)

theorem HubFresh.pwrStatus : Reads t ⟨0x60008, 0, 1, 0x12C000003C00⟩ :=
  .single (m := 3) rfl (by omega) (by
    rw [hubReg_pwr t 8 (by omega), pwrReg]
    have hreq : reqOp t = 3 := by simp [reqOp, h.launches, h.pwr]; decide
    simp only [Machine.pwrStatus, effCap, limitSrc, opLimit, opLimits, hreq, thermalCode, h.pwr, h.inputLost]
    decide)

theorem HubFresh.pwrCounts : Reads t ⟨0x60010, 8, 4, 0⟩ :=
  .many (m := 3) rfl rfl (by omega) (by omega) fun i hi => by
    rw [show 0x60010 + 8 * i = 0x60000 + (0x10 + 8 * i) by omega, hubReg_pwr t _ (by omega)]
    obtain rfl | rfl | rfl | rfl : i = 0 ∨ i = 1 ∨ i = 2 ∨ i = 3 := by omega
    all_goals simp [pwrReg, clkStatus, h.pwr, fld, Word.b2n]

theorem HubFresh.pwrOper : Reads t ⟨0x60030, 0, 1, 0x12C000000000⟩ :=
  .single (m := 3) rfl (by omega) (by rw [hubReg_pwr t 0x30 (by omega), pwrReg, h.pwr]; rfl)

/-- A pin's configuration is the reset one of that pin. -/
theorem HubFresh.pin_cfg (k : Nat) : (t.events.pins.getD k {}).cfg = (({} : Events).pins.getD k {}).cfg := by
  have hk : (t.events.pins.map (·.cfg)).getD k ({} : Pin).cfg = (({} : Events).pins.map (·.cfg)).getD k ({} : Pin).cfg :=
    congrArg (fun l => l.getD k ({} : Pin).cfg) h.pins
  exact (getD_map_cfg _ k).symm.trans (hk.trans (getD_map_cfg _ k))

theorem HubFresh.pinReg (k : Nat) (hk : k < 8) :
    hubReg t (0x70000 + 8 * k) = some ((({} : Events).pins.getD k {}).cfg.toNat, 3) := by
  rw [hubReg_event t _ (by omega), eventReg, if_pos (by omega), show 8 * k / 8 = k by omega, h.pin_cfg]

theorem HubFresh.pins03 : Reads t ⟨0x70000, 0x18, 2, 0x80200000000012C⟩ :=
  .many (m := 3) rfl rfl (by omega) (by omega) fun i hi => by
    rw [show 0x70000 + 0x18 * i = 0x70000 + 8 * (3 * i) by omega, h.pinReg _ (by omega)]
    obtain rfl | rfl : i = 0 ∨ i = 1 := by omega
    all_goals rfl

theorem HubFresh.pins12 : Reads t ⟨0x70008, 8, 2, 0x80000000000012C⟩ :=
  .many (m := 3) rfl rfl (by omega) (by omega) fun i hi => by
    rw [show 0x70008 + 8 * i = 0x70000 + 8 * (1 + i) by omega, h.pinReg _ (by omega)]
    obtain rfl | rfl : i = 0 ∨ i = 1 := by omega
    all_goals rfl

theorem HubFresh.pins4to7 : Reads t ⟨0x70020, 8, 4, 0x80000000000012C⟩ :=
  .many (m := 3) rfl rfl (by omega) (by omega) fun i hi => by
    rw [show 0x70020 + 8 * i = 0x70000 + 8 * (4 + i) by omega, h.pinReg _ (by omega)]
    obtain rfl | rfl | rfl | rfl : i = 0 ∨ i = 1 ∨ i = 2 ∨ i = 3 := by omega
    all_goals rfl

theorem HubFresh.procStatus : Reads t ⟨0x70100, 0x10, 9, 0⟩ :=
  .many (m := 3) rfl rfl (by omega) (by omega) fun i hi => by
    have hproc (k : Nat) : procW t k = 0 := by
      have hget : getProc t k = {} := by rw [getProc, h.procs, tget]
      rw [procW, hget]
      decide
    rw [show 0x70100 + 0x10 * i = 0x70000 + (0x100 + 0x10 * i) by omega, hubReg_event t _ (by omega), eventReg,
      if_neg (by omega), if_neg (by omega), if_pos (by omega), if_pos (by omega), hproc]

theorem HubFresh.evtRoutesReset : Reads t ⟨0x70808, 8, 255, 0x8800000000000000⟩ :=
  .many (m := 3) rfl rfl (by omega) (by omega) fun i hi => by
    rw [show 0x70808 + 8 * i = 0x70000 + (0x808 + 8 * i) by omega, hubReg_event t _ (by omega), eventReg,
      if_neg (by omega), if_neg (by omega), if_neg (by omega), if_pos (by omega), if_neg (by omega), routeOf,
      h.evtRoutes]
    simp [tget]

/-- A ring of a fresh hub is the reset one. -/
theorem HubFresh.getRing (n : Nat) : getRing t n = {} := by simp [Machine.getRing, h.rings, tget]

/-- A word of a ring's block reads 0, or is reserved. -/
theorem HubFresh.ringWord (n k : Nat) (hk : k < 8) :
    ringReg t n (8 * k) = some (0, 3) ∨ ringReg t n (8 * k) = none := by
  obtain rfl | rfl | rfl | rfl | rfl | rfl | rfl | rfl : k = 0 ∨ k = 1 ∨ k = 2 ∨ k = 3 ∨ k = 4 ∨ k = 5 ∨ k = 6 ∨ k = 7 := by omega
  all_goals simp [ringReg, h.getRing, fld, Word.b2n, rset]

theorem HubFresh.eventRings : Reads t ⟨0x71000, 8, 512, 0⟩ := by
  intro i (hi : i < 512)
  change regValue t (0x71000 + 8 * i) = 0
  have hreg : hubReg t (0x71000 + 8 * i) = ringReg t (i / 8) (8 * (i % 8)) := by
    rw [show 0x71000 + 8 * i = 0x70000 + (0x1000 + 8 * i) by omega, hubReg_event t _ (by omega), eventReg,
      if_neg (by omega), if_neg (by omega), if_neg (by omega), if_neg (by omega), if_pos (by omega),
      show (0x1000 + 8 * i - 0x1000) / 0x40 = i / 8 by omega, show (0x1000 + 8 * i) % 0x40 = 8 * (i % 8) by omega]
  rcases h.ringWord (i / 8) (i % 8) (Nat.mod_lt _ (by omega)) with hr | hr
  · exact regValue_hub (by omega) (by omega) (hreg.trans hr)
  · exact regValue_reserved (by omega) (by omega) (hreg.trans hr)

theorem HubFresh.partCfg : Reads t ⟨0x90000, 0x40, 8, 0⟩ :=
  .many (m := 3) rfl rfl (by omega) (by omega) fun i hi => by
    have hp : getPart t i = {} := by simp [getPart, h.parts, tget]
    have hc : partContexts t i = 0 := by simp [partContexts, h.ctxs]
    rw [show 0x90000 + 0x40 * i = 0x90000 + 0x40 * i + 0 by omega, hubReg_part t i 0 hi (by omega), partReg, hp, hc]
    rfl

/-- A context of a fresh hub is the reset one. -/
theorem HubFresh.getCtx (c : Nat) : getCtx t c = {} := by simp [Machine.getCtx, h.ctxs, tget]

theorem HubFresh.ctxCfg : Reads t ⟨0xA0000 + 0, 0x40, 256, 0⟩ :=
  .block (m := 3) rfl rfl (by omega) (by omega) fun i hi => by
    rw [hubReg_ctx t i _ hi (by omega), ctxReg, h.getCtx]; rfl

theorem HubFresh.ctxSeed : Reads t ⟨0xA0000 + 8, 0x40, 256, 0⟩ :=
  .block (m := 3) rfl rfl (by omega) (by omega) fun i hi => by
    rw [hubReg_ctx t i _ hi (by omega), ctxReg, h.getCtx]; rfl

theorem HubFresh.ctxBudget : Reads t ⟨0xA0000 + 0x10, 0x40, 256, 0x20000⟩ :=
  .block (m := 3) rfl rfl (by omega) (by omega) fun i hi => by
    rw [hubReg_ctx t i _ hi (by omega), ctxReg, h.getCtx]; rfl

theorem HubFresh.ctxPeers : Reads t ⟨0xA0000 + 0x18, 0x40, 256, 0⟩ :=
  .block (m := 3) rfl rfl (by omega) (by omega) fun i hi => by
    rw [hubReg_ctx t i _ hi (by omega), ctxReg, h.getCtx]; rfl

theorem HubFresh.ctxStale : Reads t ⟨0xA0000 + 0x20, 0x40, 256, 0⟩ :=
  .block (m := 3) rfl rfl (by omega) (by omega) fun i hi => by
    rw [hubReg_ctx t i _ hi (by omega), ctxReg, h.getCtx]; rfl

theorem HubFresh.fwStatus : Reads t ⟨0xB0020, 0, 1, 0⟩ :=
  .single (m := 3) rfl (by omega) (by
    simp [hubReg, bootReg, fwStatusW, h.phase, h.fwReason, h.svn, h.staged, h.handover, fld, Word.b2n])

theorem HubFresh.timeStatus : Reads t ⟨0xC0100, 0, 1, 0⟩ :=
  .single (m := 3) rfl (by omega) (by simp [hubReg, chipReg, h.timeSt, fld])

theorem HubFresh.groupWords : Reads t ⟨0xD0000, 8, 4096, 0⟩ :=
  .many (m := 3) rfl rfl (by omega) (by omega) fun i hi => by
    have hg : getGroup t (i / 4) = {} := by simp [getGroup, h.groups, tget]
    have hr : i % 4 < 4 := Nat.mod_lt _ (by omega)
    rw [show 0xD0000 + 8 * i = 0xD0000 + 0x20 * (i / 4) + 8 * (i % 4) by omega,
      hubReg_group t _ _ (by omega) (by omega)]
    obtain hk | hk | hk | hk : i % 4 = 0 ∨ i % 4 = 1 ∨ i % 4 = 2 ∨ i % 4 = 3 := by omega
    all_goals rw [hk, groupReg, hg]; rfl

theorem HubFresh.substWords : Reads t ⟨0xD8000, 8, 256, 0⟩ :=
  .many (m := 3) rfl rfl (by omega) (by omega) fun i hi => by
    rw [hubReg_subst t i hi, substW, h.substs]; simp [tget, fld, Word.b2n]

theorem HubFresh.mapWords : Reads t ⟨0xD9000, 8, 16, 0⟩ :=
  .many (m := 3) rfl rfl (by omega) (by omega) fun i hi => by
    rw [hubReg_map t i hi, mapW, getMap, h.maps]; simp [tget, fld, Word.b2n]

theorem HubFresh.stepWords : Reads t ⟨0xE0000, 8, 7, 0⟩ :=
  .many (m := 3) rfl rfl (by omega) (by omega) fun i hi => by
    rw [hubReg_step t _ (by omega)]
    obtain rfl | rfl | rfl | rfl | rfl | rfl | rfl : i = 0 ∨ i = 1 ∨ i = 2 ∨ i = 3 ∨ i = 4 ∨ i = 5 ∨ i = 6 := by omega
    all_goals simp [stepReg, recsUp, h.stepSt, rset, fld, Word.b2n]

theorem HubFresh.hangCfg : Reads t ⟨0xF0000, 0, 1, 0x84000000000000C8⟩ := by
  obtain ⟨mem, seq, hh⟩ := h.hang
  refine .single (m := 3) rfl (by omega) ?_
  rw [hubReg_hang t 0 (by omega), hangReg, hh]
  have hv : (rset 0x84000000000000C8#64 47 40 0).toNat = 0x84000000000000C8 := by decide
  exact congrArg (fun n : Nat => some (n, 3)) hv

theorem HubFresh.hangWords : Reads t ⟨0xF0008, 8, 5, 0⟩ := by
  obtain ⟨mem, seq, hh⟩ := h.hang
  exact .many (m := 3) rfl rfl (by omega) (by omega) fun i hi => by
    rw [show 0xF0008 + 8 * i = 0xF0000 + (8 + 8 * i) by omega, hubReg_hang t _ (by omega)]
    obtain rfl | rfl | rfl | rfl | rfl : i = 0 ∨ i = 1 ∨ i = 2 ∨ i = 3 ∨ i = 4 := by omega
    all_goals simp [hangReg, escStatusW, hh, fld, Word.b2n]

/-- A queue of a fresh hub is the reset one. -/
theorem HubFresh.getQueue (q : Nat) : getQueue t q = {} := by simp [Machine.getQueue, h.queues, tget]

theorem HubFresh.queueBase : Reads t ⟨0x400000 + 0, 0x40, 16384, 0⟩ :=
  .block (m := 3) rfl rfl (by omega) (by omega) fun i hi => by
    rw [hubReg_queue t i _ hi (by omega), queueReg, h.getQueue]; rfl

theorem HubFresh.queueCfg : Reads t ⟨0x400000 + 8, 0x40, 15360, 0⟩ :=
  .block (m := 3) rfl rfl (by omega) (by omega) fun i hi => by
    rw [hubReg_queue t i _ (by omega) (by omega), queueReg, qCfgW, h.getQueue, if_neg (by omega)]; rfl

theorem HubFresh.completionQueueCfg :
    Reads t ⟨0x400008 + 0x40 * 15360, 0x40, 1024, 0x4000000000000000⟩ :=
  .many (m := 3) rfl rfl (by omega) (by omega) fun i hi => by
    rw [show 0x400008 + 0x40 * 15360 + 0x40 * i = 0x400000 + 0x40 * (15360 + i) + 8 by omega,
      hubReg_queue t _ _ (by omega) (by omega), queueReg, qCfgW, h.getQueue, if_pos (by omega)]
    rfl

theorem HubFresh.queueStatus : Reads t ⟨0x400000 + 0x10, 0x40, 16384, 0⟩ :=
  .block (m := 3) rfl rfl (by omega) (by omega) fun i hi => by
    rw [hubReg_queue t i _ hi (by omega), queueReg, qStatusW, h.getQueue, queueCmds, h.cmds]; rfl

theorem HubFresh.queueDoorbell : Reads t ⟨0x400000 + 0x18, 0x40, 16384, 0⟩ :=
  .block (m := 3) rfl rfl (by omega) (by omega) fun i hi => by
    rw [hubReg_queue t i _ hi (by omega), queueReg]

theorem HubFresh.fabricRoutes : Reads t ⟨0x600000, 8, 32768, 0⟩ :=
  .many (m := 3) rfl rfl (by omega) (by omega) fun i hi => by rw [hubReg_route t i hi, h.routes]; simp [tget]

theorem HubFresh.sessionState : Reads t ⟨0x700000 + 0, 0x20, 4096, 0⟩ :=
  .block (m := 3) rfl rfl (by omega) (by omega) fun i hi => by
    rw [hubReg_session t i _ hi (by omega), sessionReg, getSession, h.sessions]
    simp [tget, fld, unackedWords, sessUnacked]

theorem HubFresh.sessionWords : Reads t ⟨0x700000 + 8, 0x20, 4096, 0⟩ :=
  .block (m := 3) rfl rfl (by omega) (by omega) fun i hi => by
    rw [hubReg_session t i _ hi (by omega), sessionReg, getSession, h.sessions]
    simp [tget, fld, unackedWords, sessUnacked]

/-- The rows of the reset table, up to the contexts' and from them on. -/
theorem HubFresh.resets : ∀ e ∈ hubResets, Reads t e := by
  simp only [hubResets, List.forall_mem_append, List.forall_mem_cons]
  exact ⟨⟨h.identity, h.regErr, h.aperWindows, h.aperStatus, h.msixAddr, h.msixControl, h.msixPending, h.commandTable,
    h.pwrCfg, h.pwrStatus, h.pwrCounts, h.pwrOper, h.pins03, h.pins12, h.pins4to7, h.procStatus, h.evtRoutesReset,
    h.eventRings, h.partCfg, h.ctxCfg, List.forall_mem_nil _⟩,
    h.ctxSeed, h.ctxBudget, h.ctxPeers, h.ctxStale, h.fwStatus, h.timeStatus, h.groupWords, h.substWords, h.mapWords,
    h.stepWords, h.hangCfg, h.hangWords, h.queueBase, h.queueCfg, h.completionQueueCfg, h.queueStatus, h.queueDoorbell,
    h.fabricRoutes, h.sessionState, h.sessionWords, List.forall_mem_nil _⟩

end

/-- The registers that a chip-level reset may leave otherwise read the table's values at power-on. -/
theorem reset_readsOther : ∀ e ∈ hubResetsOther, Reads State.reset e := by
  unfold Reads
  decide +kernel

/-- Settles O57: power-on and every chip-level reset leave the hub fresh, and a fresh hub reads the table's values. -/
theorem resetRegisters : Obligations.ResetRegisters := by
  refine ⟨fun e he => ?_, fun s cause level slot e he => (hubFresh_chipReset s cause level slot).resets e he⟩
  rcases List.mem_append.mp he with he | he
  · exact hubFresh_reset.resets e he
  · exact reset_readsOther e he

end Sys2Proof.Machine
end

section
/-! # The Sequencer, delays and fences (06/R184-R189, 03/R88, 05/R134) -/

namespace Sys2Proof.Machine

/-! ## What clearing a hold keeps -/

@[simp] theorem coreLaunch_setHold (s : State) (core st : Nat) (h : Hold) (c : Nat) :
    coreLaunch (setHold s core st h) c = coreLaunch s c := by
  have hl : (getCore (setHold s core st h) c).launch = (getCore s c).launch := by
    rw [getCore_setHold]
    split
    · next hc => subst hc; rfl
    · rfl
  unfold coreLaunch
  rw [hl]
  rfl

@[simp] theorem tallyEpochOf_setHold (s : State) (core st : Nat) (h : Hold) (n : Nat) :
    tallyEpochOf (setHold s core st h) n = tallyEpochOf s n := rfl
@[simp] theorem tallyVal_setHold (s : State) (core st : Nat) (h : Hold) (n : Nat) :
    tallyVal (setHold s core st h) n = tallyVal s n := rfl

theorem addTally_setHold (s : State) (core st : Nat) (h : Hold) (n inc : Nat) :
    addTally (setHold s core st h) n inc = { setHold s core st h with tallies := (addTally s n inc).tallies } := by
  have ht : (setHold s core st h).tallies = s.tallies := rfl
  simp only [addTally, tallyEpochOf_setHold, tallyVal_setHold, ht]

/-- Another station of the core stands as it did. -/
theorem getStation_heldCore_ne (c : Core) (st j : Nat) (h : Hold) (hj : j ≠ st) :
    getStation (heldCore c st h) j = getStation c j :=
  (getStation_modStation c st (fun x => { x with hold := h }) j).trans (if_neg fun e => hj e.1)

/-- The station itself has its hold and nothing else changed. -/
theorem getStation_heldCore (c : Core) (st : Nat) (h : Hold) (hs : st < c.stations.length) :
    getStation (heldCore c st h) st = { getStation c st with hold := h } :=
  (getStation_modStation c st (fun x => { x with hold := h }) st).trans (if_pos ⟨rfl, hs⟩)

/-- An instruction whose body changes nothing passes, whatever held it. -/
theorem finish_passes_id {s : State} {core st op : Nat} {h : Hold} {w : W128} {bins : List Bin}
    (ha : AtIns s core st op h w) (hb : sigBins (getCore s core).bins w = some bins) (t : State)
    (ht : t = finish s core st (getStation (getCore s core) st).pc w (.done (setHold s core st .none))) :
    t = { s with cores := t.cores } ∧ Passed s t core st bins id := by
  subst ht
  have hp := finish_passes (t := setHold s core st .none) s id ha hb (by simp) (fun c hc => by simp [hc])
    (fun _ => ⟨rfl, rfl⟩) fun _ _ => rfl
  exact ⟨hp.2, hp.1⟩

/-! ## The Sequencer -/

section
variable {s : State} {core : Nat} {w : W128} {bins : List Bin}

theorem sphase_passes (ha : AtIns s core 5 0x53 .none w) (hb : sigBins (getCore s core).bins w = some bins) :
    Runs (.sphase core .clean) s (fun t => t = { s with cores := t.cores } ∧
      Passed s t core 5 bins (fun c => { c with token := Ins.bits w 87 80, hintValid := false, hintOp := 0 })) :=
  ⟨_, rfl, issue_modCore bodySphase _ ha hb rfl (fun _ => ⟨rfl, rfl⟩) fun _ _ => rfl⟩

theorem sophint_passes (ha : AtIns s core 5 0x54 .none w) (hb : sigBins (getCore s core).bins w = some bins) :
    Runs (.sophint core .clean) s (fun t => t = { s with cores := t.cores } ∧
      Passed s t core 5 bins (fun c =>
        if Ins.bit w 85 then { c with hintValid := false, hintOp := 0 }
        else { c with hintValid := true, hintOp := Ins.bits w 87 86 })) := by
  refine ⟨_, rfl, issue_modCore bodySophint _ ha hb rfl (fun c => ?_) fun c b => ?_⟩
  · cases Ins.bit w 85 <;> exact ⟨rfl, rfl⟩
  · cases Ins.bit w 85 <;> rfl

theorem srepeat_passes {st : Nat} {r : Repeat} (ha : AtIns s core 5 0x52 .none w)
    (hb : sigBins (getCore s core).bins w = some bins) (hst : st = Ins.bits w 87 85) (hlt : st < 5)
    (hr : r = { level := Ins.bits w 84 83, start := Ins.bits w 82 71, stop := Ins.bits w 70 59
                count := Ins.bits w 58 35 + 1, adv := Ins.bits w 34 3 })
    (hfree : ∀ y ∈ (getStation (getCore s core) st).repeats, y.level ≠ r.level ∧ crossing y.start y.stop r.start r.stop = false) :
    Runs (.srepeat core .clean) s (fun t => t = { s with cores := t.cores } ∧
      Passed s t core 5 bins (fun c => modStation c st (fun x => { x with repeats := insRepeat x.repeats r }))) := by
  have hsame : getStation (getCore (setHold s core 5 .none) core) st = getStation (getCore s core) st := by
    rw [getCore_setHold, if_pos rfl, getStation_heldCore_ne _ _ _ _ (by omega)]
  have hany : (getStation (getCore s core) st).repeats.any
      (fun y => y.level == r.level || crossing y.start y.stop r.start r.stop) = false := by
    rw [List.any_eq_false]
    intro y hy
    obtain ⟨hlev, hcross⟩ := hfree y hy
    simp [hlev, hcross]
  have hbody : bodySrepeat (setHold s core 5 .none) core w .clean
      = .done (modCore (setHold s core 5 .none) core fun c => modStation c st (fun x => { x with repeats := insRepeat x.repeats r })) := by
    subst hst hr
    unfold bodySrepeat
    refine if_neg ?_
    rw [hsame, hany]
    decide
  refine ⟨_, rfl, issue_modCore bodySrepeat _ ha hb hbody (fun _ => ⟨rfl, rfl⟩) fun c b => ?_⟩
  exact modStation_comm (withBins c b) st 5 (fun x => { x with repeats := insRepeat x.repeats r }) Station.next (by omega)

theorem bodySwait_reached (h : tallyEpochOf s (Ins.bits w 87 72) = launchEpoch (coreLaunch s core) (Ins.bits w 87 72))
    (hv : Ins.bits w 71 24 ≤ tallyVal s (Ins.bits w 87 72)) :
    bodySwait (setHold s core 5 .none) core w .clean = .done (setHold s core 5 .none) := by
  simp [bodySwait, h, hv]

theorem bodySwait_below (h : tallyEpochOf s (Ins.bits w 87 72) = launchEpoch (coreLaunch s core) (Ins.bits w 87 72))
    (hv : tallyVal s (Ins.bits w 87 72) < Ins.bits w 71 24) :
    bodySwait (setHold s core 5 .none) core w .clean = .hold .tally (setHold s core 5 .none) := by
  simp [bodySwait, h, Nat.not_le.mpr hv]

theorem swait_passes_or_holds (ha : AtIns s core 5 0x50 .none w) (hb : sigBins (getCore s core).bins w = some bins)
    (he : tallyEpochOf s (Ins.bits w 87 72) = launchEpoch (coreLaunch s core) (Ins.bits w 87 72)) :
    Runs (.swait core .clean) s (fun t => t = { s with cores := t.cores } ∧
      (Ins.bits w 71 24 ≤ tallyVal s (Ins.bits w 87 72) → Passed s t core 5 bins id) ∧
      (tallyVal s (Ins.bits w 87 72) < Ins.bits w 71 24 →
        (getStation (getCore t core) 5).hold = .tally ∧
        (getStation (getCore t core) 5).pc = (getStation (getCore s core) 5).pc)) := by
  refine ⟨_, rfl, ?_⟩
  rw [issue_clean _ ha]
  rcases Nat.lt_or_ge (tallyVal s (Ins.bits w 87 72)) (Ins.bits w 71 24) with hv | hv
  · rw [bodySwait_below he hv]
    obtain ⟨hst, -, -, ht⟩ := finish_hold s s core 5 (getStation (getCore s core) 5).pc w .tally .none (fetch_runs ha.fetch).2.2
    refine ⟨ht, fun h => absurd h (Nat.not_le.mpr hv), fun _ => ?_⟩
    rw [hst]
    exact ⟨rfl, rfl⟩
  · rw [bodySwait_reached he hv]
    obtain ⟨ht, hp⟩ := finish_passes_id ha hb _ rfl
    exact ⟨ht, fun _ => hp, fun h => absurd hv (Nat.not_le.mpr h)⟩

theorem swaitSatisfied_passes (ha : AtIns s core 5 0x50 .tally w) (hb : sigBins (getCore s core).bins w = some bins)
    (he : tallyEpochOf s (Ins.bits w 87 72) = launchEpoch (coreLaunch s core) (Ins.bits w 87 72))
    (hv : Ins.bits w 71 24 ≤ tallyVal s (Ins.bits w 87 72)) :
    Runs (.swaitSatisfied core) s (fun t => t = { s with cores := t.cores } ∧ Passed s t core 5 bins id) := by
  refine ⟨_, rfl, ?_⟩
  rw [resume_clean _ _ ha rfl, bodySwait_reached he hv]
  exact finish_passes_id ha hb _ rfl

/-- An instruction whose body changes the tallies only passes. -/
theorem finish_passes_tallies {st op : Nat} {h : Hold} (ha : AtIns s core st op h w)
    (hb : sigBins (getCore s core).bins w = some bins) (tallies : Tab W64) (t : State)
    (ht : t = finish s core st (getStation (getCore s core) st).pc w (.done { setHold s core st .none with tallies := tallies })) :
    t = { s with cores := t.cores, tallies := t.tallies } ∧ Passed s t core st bins id ∧ t.tallies = tallies := by
  subst ht
  obtain ⟨hp, ht⟩ := finish_passes (t := { setHold s core st .none with tallies := tallies }) s id ha hb
    (show getCore (setHold s core st .none) core = _ by simp)
    (fun c hc => show getCore (setHold s core st .none) c = _ by simp [hc]) (fun _ => ⟨rfl, rfl⟩) fun _ _ => rfl
  refine ⟨?_, hp, ?_⟩ <;> rw [ht] <;> rfl

theorem ssignalAdd_eq (s : State) (core : Nat) (w : W128) :
    ssignalAdd s core w = addTallyAt s (coreLaunch s core).ctx (Ins.bits w 87 72) (Ins.bits w 71 40)
      (launchEpoch (coreLaunch s core) (Ins.bits w 87 72)) := rfl

/-- An add in the tally's present epoch counts. -/
theorem addTallyAt_current (s : State) (ctx n inc e : Nat) (h : tallyEpochOf s n = e) :
    addTallyAt s ctx n inc e = addTally s n inc := if_pos h

/-- The tally add of an SSIGNAL whose tally is in the launch's epoch. -/
theorem ssignalAdd_setHold (he : tallyEpochOf s (Ins.bits w 87 72) = launchEpoch (coreLaunch s core) (Ins.bits w 87 72)) :
    ssignalAdd (setHold s core 5 .none) core w
      = { setHold s core 5 .none with tallies := (addTally s (Ins.bits w 87 72) (Ins.bits w 71 40)).tallies } := by
  rw [ssignalAdd_eq, addTallyAt_current, addTally_setHold]
  rw [coreLaunch_setHold]
  exact (tallyEpochOf_setHold ..).trans he

/-- An SSIGNAL whose body adds to its tally passes, and only cores and tallies change. -/
theorem ssignalAdd_passes {h : Hold} (ha : AtIns s core 5 0x51 h w) (hb : sigBins (getCore s core).bins w = some bins)
    (he : tallyEpochOf s (Ins.bits w 87 72) = launchEpoch (coreLaunch s core) (Ins.bits w 87 72)) (t : State)
    (ht : t = finish s core 5 (getStation (getCore s core) 5).pc w (.done (ssignalAdd (setHold s core 5 .none) core w))) :
    t = { s with cores := t.cores, tallies := t.tallies } ∧ Passed s t core 5 bins id ∧
      t.tallies = (addTally s (Ins.bits w 87 72) (Ins.bits w 71 40)).tallies := by
  rw [ssignalAdd_setHold he] at ht
  exact finish_passes_tallies ha hb _ t ht

theorem no_transfer_of_launch {c : Core} (h : ∀ x ∈ c.inflight, x.launch ≠ c.load) :
    c.inflight.any (fun x => x.launch == c.load) = false := by
  rw [List.any_eq_false]
  exact fun x hx => by simp [h x hx]

theorem ssignal_passes (ha : AtIns s core 5 0x51 .none w) (hb : sigBins (getCore s core).bins w = some bins)
    (hd : Ins.bit w 39 = false ∨ ∀ x ∈ (getCore s core).inflight, x.launch ≠ (getCore s core).load)
    (he : tallyEpochOf s (Ins.bits w 87 72) = launchEpoch (coreLaunch s core) (Ins.bits w 87 72)) :
    Runs (.ssignal core .clean) s (fun t => t = { s with cores := t.cores, tallies := t.tallies } ∧ Passed s t core 5 bins id ∧
      t.tallies = (addTally s (Ins.bits w 87 72) (Ins.bits w 71 40)).tallies) := by
  have hnone : (Ins.bit w 39 && (getCore s core).inflight.any (fun x => x.launch == (getCore s core).load)) = false := by
    rcases hd with hd | hd
    · rw [hd, Bool.false_and]
    · rw [no_transfer_of_launch hd, Bool.and_false]
  have hbody : bodySsignal (setHold s core 5 .none) core w .clean = .done (ssignalAdd (setHold s core 5 .none) core w) := by
    unfold bodySsignal
    rw [getCore_setHold, if_pos rfl]
    refine if_neg (Bool.eq_false_iff.mp ?_)
    exact hnone
  refine ⟨_, rfl, ?_⟩
  rw [issue_clean _ ha, hbody]
  exact ssignalAdd_passes ha hb he _ rfl

theorem ssignalDrainDone_passes (ha : AtIns s core 5 0x51 .drain w) (hb : sigBins (getCore s core).bins w = some bins)
    (hd : ∀ x ∈ (getCore s core).inflight, x.launch ≠ (getCore s core).load)
    (he : tallyEpochOf s (Ins.bits w 87 72) = launchEpoch (coreLaunch s core) (Ins.bits w 87 72)) :
    Runs (.ssignalDrainDone core) s (fun t => t = { s with cores := t.cores, tallies := t.tallies } ∧ Passed s t core 5 bins id ∧
      t.tallies = (addTally s (Ins.bits w 87 72) (Ins.bits w 71 40)).tallies) := by
  have hbody : bodyDrainDone (setHold s core 5 .none) core w .clean = .done (ssignalAdd (setHold s core 5 .none) core w) := by
    unfold bodyDrainDone
    rw [getCore_setHold, if_pos rfl]
    refine if_neg ?_
    simp only [List.any_eq_true, not_exists, not_and]
    intro x hx
    have := hd x hx
    simp [heldCore, modStation, this]
  refine ⟨_, rfl, ?_⟩
  rw [resume_clean _ _ ha rfl, hbody]
  exact ssignalAdd_passes ha hb he _ rfl

end

/-- Settles O2: each instruction of the Sequencer in turn. -/
theorem sequencer : Obligations.Sequencer :=
  ⟨fun _ _ _ _ ha hb => sphase_passes ha hb, fun _ _ _ _ ha hb => sophint_passes ha hb,
    fun _ _ _ _ _ _ ha hb hst hlt hr hfree => srepeat_passes ha hb hst hlt hr hfree,
    fun _ _ _ _ ha hb he => swait_passes_or_holds ha hb he,
    fun _ _ _ _ ha hb he hv => swaitSatisfied_passes ha hb he hv,
    fun _ _ _ _ ha hb hd he => ssignal_passes ha hb hd he,
    fun _ _ _ _ ha hb hd he => ssignalDrainDone_passes ha hb hd he⟩

end Sys2Proof.Machine
end

section
/-! # Delays and fences (03/R88, R89, 05/R134) -/

namespace Sys2Proof.Machine

/-! ## What an instruction read depends on -/

theorem coreRuns_congr {s t : State} {c : Nat} (hl : t.launches = s.launches) (hc : getCore t c = getCore s c) :
    coreRuns t c = coreRuns s c := by
  unfold coreRuns getLaunch
  rw [hc, hl]

theorem fetchIns_of_runs {s : State} {c st : Nat} (h : coreRuns s c = true) :
    fetchIns s c st = (getStation (getCore s c) st).store[(getStation (getCore s c) st).pc]?.map
      (withAdvance st (getStation (getCore s c) st).advance) := by
  unfold fetchIns
  rw [if_pos h]
  dsimp only
  split <;> simp_all

/-- Two states in which the core runs fetch the same from stations that stand alike. -/
theorem fetchIns_congr {s t : State} {c st : Nat} (hs : coreRuns s c = true) (ht : coreRuns t c = true)
    (h : getStation (getCore t c) st = getStation (getCore s c) st) : fetchIns t c st = fetchIns s c st := by
  rw [fetchIns_of_runs hs, fetchIns_of_runs ht, h]

theorem coreRuns_run {s : State} {c : Nat} (h : coreRuns s c = true) : (getCore s c).run ≠ 3 := by
  unfold coreRuns at h
  intro h3
  dsimp only at h
  rw [h3] at h
  revert h
  cases (getCore s c).launch <;> simp

/-- A core that still runs after a change that keeps its launch and its RUN. -/
theorem coreRuns_of_kept {s t : State} {c : Nat} (hs : coreRuns s c = true) (hl : t.launches = s.launches)
    (hlaunch : (getCore t c).launch = (getCore s c).launch) (hrun : (getCore t c).run = (getCore s c).run) :
    coreRuns t c = true := by
  unfold coreRuns getLaunch at hs ⊢
  dsimp only at hs ⊢
  rw [hlaunch, hrun, hl]
  exact hs

/-! ## DELAY and FENCE -/

theorem delay_passes {s : State} {core st : Nat} {w : W128} {bins : List Bin} (ha : AtIns s core st 0x00 .none w)
    (hb : sigBins (getCore s core).bins w = some bins) :
    Runs (.delay core st .clean) s (fun t => Passed s t core st bins id ∧ t = { s with cores := t.cores }) := by
  refine ⟨_, rfl, ?_⟩
  rw [issue_clean bodyDelay ha]
  exact (finish_passes_id ha hb _ rfl).symm

/-- A core with a station at a fence shows it in CORE_STATE.RUN. -/
theorem heldCore_fence_run (c : Core) (st scope seq : Nat) (hr : c.run ≠ 3) (hs : st < c.stations.length) :
    (heldCore c st (.fence scope seq)).run = 2 := by
  have hmem : getStation (heldCore c st (.fence scope seq)) st ∈ (heldCore c st (.fence scope seq)).stations := by
    have hl : st < (heldCore c st (.fence scope seq)).stations.length := by
      show st < (lset _ _ _).length
      rw [length_lset]
      exact hs
    rw [getStation, getD_of_lt _ hl]
    exact List.getElem_mem hl
  have hheld : (getStation (heldCore c st (.fence scope seq)) st).hold = .fence scope seq := by
    rw [getStation_heldCore _ _ _ hs]
  unfold heldCore
  dsimp only
  rw [if_neg (show ¬(modStation c st fun x => { x with hold := .fence scope seq }).run = 3 from hr)]
  refine if_pos (List.any_eq_true.mpr ⟨_, hmem, ?_⟩)
  rw [hheld]

theorem fence_holds {s : State} {core st : Nat} {w : W128} (ha : AtIns s core st 0x7F .none w) :
    Runs (.fence core st .clean) s (fun t =>
      (getStation (getCore t core) st).hold = .fence (Ins.bits w 17 16) (Ins.bits w 15 0) ∧
      (getStation (getCore t core) st).pc = (getStation (getCore s core) st).pc ∧
      (getCore t core).run = 2 ∧ (getCore t core).bins = (getCore s core).bins ∧
      (∀ c, c ≠ core → getCore t c = getCore s c) ∧ t = { s with cores := t.cores }) := by
  obtain ⟨-, hrun, hst⟩ := fetch_runs ha.fetch
  refine ⟨_, rfl, ?_⟩
  rw [issue_clean bodyFence ha, bodyFence]
  obtain ⟨hs, ho, hb, ht⟩ := finish_hold s s core st (getStation (getCore s core) st).pc w
    (.fence (Ins.bits w 17 16) (Ins.bits w 15 0)) .none hst
  refine ⟨by rw [hs], by rw [hs], ?_, hb, ho, ht⟩
  rw [finish, getCore_setHold, if_pos rfl, getCore_setHold, if_pos rfl]
  refine heldCore_fence_run _ _ _ _ (heldCore_run _ _ _ hrun) ?_
  show st < (lset _ _ _).length
  rw [length_lset]
  exact hst

/-! ## FENCE_RESUME -/

/-- A station as the resume edge leaves it: past its fence, or ended. -/
def resumedStation (x : Station) : Station := if x.ended then x else x.next

/-- The bins after the signals of the instruction that a station is at. -/
def resumeBins (s : State) (c : Nat) (bs : List Bin) (i : Nat) : Option (List Bin) :=
  match fetchIns s c i with
  | some w => sigBins bs w
  | none => some bs

/-- One station of a core passes its fence at the resume edge. -/
def resumeStation (core : Nat) (s : State) (st : Nat) : State :=
  match fetchIns s core st with
  | none => s
  | some w => advanceSt (signals s core st (getStation (getCore s core) st).pc w) core st

/-- The core after one station passed. -/
def resumedAt (c : Core) (st : Nat) (bins : List Bin) : Core :=
  { c with bins, stations := lset c.stations st (resumedStation (getStation c st)) }

theorem fetch_none_iff_ended {s : State} {c st : Nat} (h : coreRuns s c = true) :
    fetchIns s c st = none ↔ (getStation (getCore s c) st).ended = true := by
  rw [fetchIns_of_runs h]
  simp [Station.ended]

theorem lset_getD {α : Type} (l : List α) (i : Nat) (d : α) : lset l i (l.getD i d) = l := by
  induction l generalizing i with
  | nil => rfl
  | cons a l ih =>
    cases i with
    | zero => rfl
    | succ n => exact congrArg (a :: ·) (ih n)

theorem resumeStation_eq {s : State} {core st : Nat} {bins : List Bin} (hr : coreRuns s core = true)
    (hb : resumeBins s core (getCore s core).bins st = some bins) :
    resumeStation core s st = { s with cores := (resumeStation core s st).cores } ∧
      getCore (resumeStation core s st) core = resumedAt (getCore s core) st bins ∧
      ∀ c, c ≠ core → getCore (resumeStation core s st) c = getCore s c := by
  unfold resumeBins at hb
  unfold resumeStation
  cases hf : fetchIns s core st with
  | none =>
    rw [hf] at hb
    cases hb
    have hended := (fetch_none_iff_ended hr).mp hf
    refine ⟨rfl, ?_, fun _ _ => rfl⟩
    show getCore s core = _
    unfold resumedAt resumedStation
    rw [if_pos hended, getStation, lset_getD]
  | some w =>
    rw [hf] at hb
    have hended : (getStation (getCore s core) st).ended ≠ true := fun h => by
      rw [(fetch_none_iff_ended hr).mpr h] at hf
      cases hf
    have hrun := coreRuns_run hr
    obtain ⟨hc, ho, hs⟩ := signals_ok s core st (getStation (getCore s core) st).pc w bins hrun hb
    have hadv : (getCore (signals s core st (getStation (getCore s core) st).pc w) core).run ≠ 3 := by rw [hc]; exact hrun
    dsimp only
    rw [advanceSt, if_neg hadv]
    refine ⟨?_, ?_, fun c h => ?_⟩
    · generalize signals s core st (getStation (getCore s core) st).pc w = u at *
      rw [hs]
      rfl
    · rw [getCore_modCore, if_pos rfl, hc]
      unfold resumedAt resumedStation
      rw [if_neg hended]
      rfl
    · rw [getCore_modCore, if_neg h, ho c h]

/-- A monadic fold depends on its step at the members of the list only. -/
theorem foldlM_congr_mem {β : Type} {f g : β → Nat → Option β} (l : List Nat) (h : ∀ i ∈ l, ∀ b, f b i = g b i) (b : β) :
    l.foldlM f b = l.foldlM g b := by
  induction l generalizing b with
  | nil => rfl
  | cons i l ih =>
    rw [List.foldlM_cons, List.foldlM_cons, h i List.mem_cons_self b]
    exact congrArg ((g b i).bind ·) (funext fun b' => ih (fun j hj => h j (List.mem_cons_of_mem _ hj)) b')

/-- The stations after those of a list, all different, passed. -/
def resumedStations (xs : List Station) (l : List Nat) : List Station :=
  l.foldl (fun xs i => lset xs i (resumedStation (xs.getD i {}))) xs

/-- The stations of a list, all different, pass one after another: each fetches what it fetched at first. -/
theorem resumeStations_eq (l : List Nat) : ∀ (s : State) (core : Nat) (bins : List Bin), l.Nodup →
    (∀ i ∈ l, i < (getCore s core).stations.length) → coreRuns s core = true →
    l.foldlM (resumeBins s core) (getCore s core).bins = some bins →
    l.foldl (resumeStation core) s = { s with cores := (l.foldl (resumeStation core) s).cores } ∧
      getCore (l.foldl (resumeStation core) s) core
        = { getCore s core with bins := bins, stations := resumedStations (getCore s core).stations l } ∧
      ∀ c, c ≠ core → getCore (l.foldl (resumeStation core) s) c = getCore s c := by
  induction l with
  | nil =>
    intro s core bins _ _ _ hb
    simp only [List.foldlM_nil, Option.pure_def, Option.some.injEq] at hb
    subst hb
    exact ⟨rfl, rfl, fun _ _ => rfl⟩
  | cons i l ih =>
    intro s core bins hnd hlt hr hb
    obtain ⟨hi, hnd⟩ := List.nodup_cons.mp hnd
    simp only [List.foldlM_cons, Option.bind_eq_bind, Option.bind_eq_some_iff] at hb
    obtain ⟨bs, hbs, hb⟩ := hb
    obtain ⟨hs1, hc1, ho1⟩ := resumeStation_eq hr hbs
    rw [List.foldl_cons]
    generalize resumeStation core s i = u at *
    have hul : u.launches = s.launches := by rw [hs1]
    have hur : coreRuns u core = true := coreRuns_of_kept hr hul (by rw [hc1]; rfl) (by rw [hc1]; rfl)
    have hlater : ∀ j ∈ l, fetchIns u core j = fetchIns s core j := by
      intro j hj
      refine fetchIns_congr hr hur ?_
      have hji : ¬(j = i ∧ i < (getCore s core).stations.length) := fun e => hi (e.1 ▸ hj)
      rw [hc1]
      show (lset (getCore s core).stations i _).getD j {} = _
      rw [getD_lset, if_neg hji]
      rfl
    have hbins : l.foldlM (resumeBins u core) (getCore u core).bins = some bins := by
      rw [hc1]
      show l.foldlM (resumeBins u core) bs = some bins
      rw [← hb]
      exact foldlM_congr_mem l (fun j hj b => by unfold resumeBins; rw [hlater j hj]) bs
    obtain ⟨hs2, hc2, ho2⟩ := ih u core bins hnd
      (fun j hj => by rw [hc1]; show j < (lset _ _ _).length; rw [length_lset]; exact hlt j (List.mem_cons_of_mem _ hj)) hur hbins
    refine ⟨by rw [hs2, hs1], ?_, fun c hc => (ho2 c hc).trans (ho1 c hc)⟩
    rw [hc2, hc1]
    rfl

/-- All six stations of a core passed. -/
theorem resumedStations_range {xs : List Station} (h : xs.length = 6) :
    resumedStations xs (List.range 6) = xs.map (fun x => if x.ended then x else x.next) := by
  match xs, h with
  | [_, _, _, _, _, _], _ => rfl

/-- A core as the resume edge leaves it. -/
def resumedCore (s : State) (c : Nat) (bins : List Bin) : Core :=
  { getCore s c with
    run := 1, regionStart := s.arrayCycles, bins
    stations := (getCore s c).stations.map (fun x => if x.ended then x else x.next) }

theorem resumeCore_eq {s : State} {core : Nat} {bins : List Bin} (hr : coreRuns s core = true)
    (hlen : (getCore s core).stations.length = 6)
    (hb : (List.range 6).foldlM (resumeBins s core) (getCore s core).bins = some bins) :
    resumeCore s core = { s with cores := (resumeCore s core).cores } ∧
      getCore (resumeCore s core) core = resumedCore s core bins ∧
      ∀ c, c ≠ core → getCore (resumeCore s core) c = getCore s c := by
  obtain ⟨hs, hc, ho⟩ := resumeStations_eq (List.range 6) s core bins List.nodup_range
    (fun i hi => by rw [hlen]; exact List.mem_range.mp hi) hr hb
  rw [resumedStations_range hlen] at hc
  have heq : resumeCore s core = modCore ((List.range 6).foldl (resumeStation core) s) core fun c =>
      if c.run = 3 then c else { c with run := 1, regionStart := ((List.range 6).foldl (resumeStation core) s).arrayCycles } := rfl
  rw [heq]
  generalize (List.range 6).foldl (resumeStation core) s = u at *
  have hrun : (getCore u core).run ≠ 3 := by rw [hc]; exact coreRuns_run hr
  have hcyc : u.arrayCycles = s.arrayCycles := by rw [hs]
  refine ⟨by rw [hs]; rfl, ?_, fun c h => by rw [getCore_modCore, if_neg h, ho c h]⟩
  rw [getCore_modCore, if_pos rfl, if_neg hrun, hc, hcyc]
  rfl

/-- The cores of a scope, all different, run again from the resume edge. -/
theorem resumeCores_eq (bins : Nat → List Bin) (cs : List Nat) : ∀ s : State, cs.Nodup →
    (∀ c ∈ cs, coreRuns s c = true ∧ (getCore s c).stations.length = 6 ∧
      (List.range 6).foldlM (resumeBins s c) (getCore s c).bins = some (bins c)) →
    cs.foldl resumeCore s = { s with cores := (cs.foldl resumeCore s).cores } ∧
      (∀ c, c ∉ cs → getCore (cs.foldl resumeCore s) c = getCore s c) ∧
      ∀ c ∈ cs, getCore (cs.foldl resumeCore s) c = resumedCore s c (bins c) := by
  induction cs with
  | nil => exact fun s _ _ => ⟨rfl, fun _ _ => rfl, fun c hc => absurd hc List.not_mem_nil⟩
  | cons core cs ih =>
    intro s hnd h
    obtain ⟨hcore, hnd⟩ := List.nodup_cons.mp hnd
    obtain ⟨hr, hlen, hb⟩ := h core List.mem_cons_self
    obtain ⟨hs1, hc1, ho1⟩ := resumeCore_eq hr hlen hb
    rw [List.foldl_cons]
    generalize resumeCore s core = u at *
    have hul : u.launches = s.launches := by rw [hs1]
    have hcyc : u.arrayCycles = s.arrayCycles := by rw [hs1]
    have hlater : ∀ c ∈ cs, getCore u c = getCore s c := fun c hc => ho1 c fun e => hcore (e ▸ hc)
    have htail : ∀ c ∈ cs, coreRuns u c = true ∧ (getCore u c).stations.length = 6 ∧
        (List.range 6).foldlM (resumeBins u c) (getCore u c).bins = some (bins c) := by
      intro c hc
      obtain ⟨hrc, hlc, hbc⟩ := h c (List.mem_cons_of_mem _ hc)
      have hru : coreRuns u c = true := (coreRuns_congr hul (hlater c hc)).trans hrc
      refine ⟨hru, by rw [hlater c hc]; exact hlc, ?_⟩
      rw [hlater c hc, ← hbc]
      refine foldlM_congr_mem _ (fun j _ b => ?_) _
      unfold resumeBins
      rw [fetchIns_congr hrc hru (by rw [hlater c hc])]
    obtain ⟨hs2, ho2, hc2⟩ := ih u hnd htail
    refine ⟨by rw [hs2, hs1], fun c hc => ?_, fun c hc => ?_⟩
    · obtain ⟨hne, hc⟩ := List.ne_and_not_mem_of_not_mem_cons hc
      rw [ho2 c hc, ho1 c hne]
    · rcases List.mem_cons.mp hc with rfl | hc
      · rw [ho2 c hcore, hc1]
      · rw [hc2 c hc, resumedCore, hlater c hc, hcyc]
        rfl

/-- Settles O1: DELAY, FENCE, and the resume edge station by station and core by core. -/
theorem delaysAndFences : Obligations.DelaysAndFences := by
  refine ⟨fun _ _ _ _ _ ha hb => delay_passes ha hb, fun _ _ _ _ ha => fence_holds ha, ?_⟩
  intro s core st scope seq bins hh hr hready hnd hcs
  have heq : fenceResumeAll s core st = (fenceScope s core scope).foldl resumeCore s := by
    unfold fenceResumeAll
    rw [hh]
    exact if_pos (by rw [hr, hready]; rfl)
  refine ⟨_, rfl, ?_⟩
  rw [heq]
  exact resumeCores_eq bins _ s hnd fun c hc => hcs c hc

end Sys2Proof.Machine
end

section
/-! # The states of queues, and host backpressure (09/R286-R289, R309, R310) -/

namespace Sys2Proof.Machine

/-- A refused queue is not enabled. -/
theorem qEnabled_refused (x : Queue) (c : W64) (r : Nat) :
    qEnabled { x with cfg := rset c 63 63 0, reason := r } = false := by
  rw [qEnabled, rbit_rset_top]
  decide

section
variable {s : State} {q : Nat} {x : Queue}

/-- What an enable leaves of the queue: enabled and empty, or as it was with the reason of the refusal. -/
theorem qEnable_eq {v c : W64} (hx : x = getQueue s q) (hq : q < 16384) (hv : rbit v 63 = true) (hoff : qEnabled x = false)
    (hc : c = qCfgHeld q v) :
    (queueRefusal s q { x with cfg := c } = none → qEnable s q v = setQueue s q
      { x with cfg := c, state := 1, head := 0, tail := 0, phase := !qSubmits q { x with cfg := c }, signalled := false }) ∧
    ∀ r, queueRefusal s q { x with cfg := c } = some r →
      qEnable s q v = setQueue s q { x with cfg := rset c 63 63 0, reason := r } := by
  subst hx
  have hqv : (decide (16384 ≤ q) || !rbit v 63) = false := by simp [hv, hq]
  unfold qEnable
  dsimp only
  rw [hqv, hoff, ← hc]
  simp only [Bool.false_eq_true, if_false]
  exact ⟨fun hr => by rw [hr], fun r hr => by rw [hr]⟩

theorem qEnable_enables {v c : W64} (hx : x = getQueue s q) (hq : q < 16384) (ho : hostOpen s = true)
    (hv : rbit v 63 = true) (hoff : qEnabled x = false) (hc : c = qCfgHeld q v) {y : Queue} (hy : y = { x with cfg := c }) :
    Runs (.qEnable q v) s (fun t => t = { s with queues := t.queues } ∧ (∀ k, k ≠ q → getQueue t k = getQueue s k) ∧
      (queueRefusal s q y = none →
        getQueue t q = { y with state := 1, head := 0, tail := 0, phase := !qSubmits q y, signalled := false }) ∧
      ∀ r, queueRefusal s q y = some r → (getQueue t q).reason = r ∧ qEnabled (getQueue t q) = false ∧
        (getQueue t q).state = x.state ∧ (getQueue t q).head = x.head ∧ (getQueue t q).tail = x.tail) := by
  subst hy
  obtain ⟨hnone, hsome⟩ := qEnable_eq hx hq hv hoff hc
  cases hr : queueRefusal s q { x with cfg := c } with
  | none =>
    refine runs_host_eq ho rfl (hnone hr) ⟨rfl, fun k hk => ?_, fun _ => ?_, fun _ h => nomatch h⟩
    · rw [getQueue_setQueue, if_neg hk]
    · rw [getQueue_setQueue, if_pos rfl]
  | some r =>
    refine runs_host_eq ho rfl (hsome r hr) ⟨rfl, fun k hk => ?_, (nomatch ·), fun r' h => ?_⟩
    · rw [getQueue_setQueue, if_neg hk]
    · cases h
      rw [getQueue_setQueue, if_pos rfl]
      exact ⟨rfl, qEnabled_refused x c r, rfl, rfl, rfl⟩

theorem qDisable_drains {v : W64} (hx : x = getQueue s q) (hq : q < 16384) (ho : hostOpen s = true) (hv : rbit v 63 = false)
    (hon : qEnabled x = true) (hcfg : rset x.cfg 63 63 0 = qCfgHeld q v) (hn : qSubmits q x = true ∨ cqNamed s q = false) :
    Runs (.qDisable q v) s (fun t => t = { s with queues := t.queues } ∧ getQueue t q = { x with state := 4 } ∧
      ∀ k, k ≠ q → getQueue t k = getQueue s k) := by
  subst hx
  have hqv : (decide (16384 ≤ q) || rbit v 63) = false := by simp [hv, hq]
  have hname : (!qSubmits q (getQueue s q) && cqNamed s q) = false := by rcases hn with hn | hn <;> simp [hn]
  have heq : qDisable s q v = modQueue s q (fun x => { x with state := 4 }) := by
    unfold qDisable
    dsimp only
    rw [hqv, hon, hname]
    simp [hcfg]
  exact runs_host_eq ho rfl heq (modQueue_only s q _)

theorem queueDrainDone_disables (hx : x = getQueue s q) (hst : x.state = 4) (hnone : queueCmds s q = []) :
    Runs (.queueDrainDone q) s (fun t => t = { s with queues := t.queues } ∧
      getQueue t q = { x with state := 0, cfg := rset x.cfg 63 63 0 } ∧ ∀ k, k ≠ q → getQueue t k = getQueue s k) := by
  subst hx
  exact runs_eq rfl (if_pos ⟨hst, hnone⟩) (modQueue_only s q _)

theorem resume_leavesError {v : W64} (hx : x = getQueue s q) (ho : hostOpen s = true) (hv : rbit v 0 = true) (hst : x.state = 2) :
    Runs (.resume q v) s (fun t => t = { s with queues := t.queues } ∧ getQueue t q = { x with state := 3 } ∧
      ∀ k, k ≠ q → getQueue t k = getQueue s k) := by
  subst hx
  exact runs_host_eq ho rfl (if_pos (by simp [hv, hst])) (modQueue_only s q _)

theorem queueResumed_enables (hx : x = getQueue s q) (hst : x.state = 3) (hlate : ∀ c ∈ queueCmds s q, x.failAt ≤ c.ord) :
    Runs (.queueResumed q) s (fun t => t = { s with queues := t.queues } ∧ getQueue t q = { x with state := 1 } ∧
      ∀ k, k ≠ q → getQueue t k = getQueue s k) := by
  subst hx
  have hnone : (queueCmds s q).any (fun c => decide (c.ord < (getQueue s q).failAt)) = false := by
    rw [List.any_eq_false]
    intro c hc
    have := hlate c hc
    simp only [decide_eq_true_eq]
    omega
  exact runs_eq rfl (if_pos (by rw [hst, hnone]; rfl)) (modQueue_only s q _)

end

/-- While fetching is held the condition stands and its event is raised; it charges no step. -/
theorem hostBackpressure_stands {s : State} (h : fetchHeld s = true) :
    Runs (.hostBackpressure true) s (fun t => t.backpressure = true ∧
      t = { s with backpressure := true, events := t.events } ∧
      t.events = (raiseUnit { s with backpressure := true } 0x0E noCtx 0#64 0 none s.backpressure).events) := by
  have he : EventsOnly { s with backpressure := true } (raiseUnit { s with backpressure := true } 0x0E noCtx 0#64 0 none s.backpressure) :=
    raiseUnit_eventsOnly _ _ _ _ _ (by decide)
  refine runs_eq rfl (if_pos h) ⟨?_, he, rfl⟩
  rw [he]

/-- Settles O17: the queue's states, each by the branch its premises select. -/
theorem queuesHold : Obligations.QueuesHold := by
  refine ⟨fun s q x hx hq => ⟨fun _ _ ho hv hoff hy => qEnable_enables hx hq ho hv hoff rfl hy,
    fun _ ho hv hon hcfg hn => qDisable_drains hx hq ho hv hon hcfg hn, fun hst hnone => queueDrainDone_disables hx hst hnone,
    fun _ ho hv hst => resume_leavesError hx ho hv hst, fun hst hlate => queueResumed_enables hx hst hlate⟩, fun s => ⟨?_, ?_⟩⟩
  · exact hostBackpressure_stands
  · exact ⟨_, rfl, rfl⟩

end Sys2Proof.Machine
end

section
/-! # Event rings, interrupts and end of interrupt (17/R521, R525-R531, R539) -/

namespace Sys2Proof.Machine

/-! ## Signals of a ring -/

theorem signalMsix_frame (s : State) (v : Nat) : signalMsix s v =
    { s with out := (signalMsix s v).out, pcie := { s.pcie with msixPending := (signalMsix s v).pcie.msixPending } } := by
  unfold signalMsix
  split <;> rfl

theorem getRing_signalMsix (s : State) (v n : Nat) : getRing (signalMsix s v) n = getRing s n := by
  rw [signalMsix_frame]
  rfl

/-- The condition under which a ring's vector is signalled. -/
def ringSignals (n : Nat) (r : Ring) : Bool := 9 ≤ n && ringEnabled r && r.armed && r.head != r.tail

theorem ringSignal_eq (s : State) (n : Nat) : ringSignal s n =
    if ringSignals n (getRing s n) then
      modRing (signalMsix s (rbits (getRing s n).cfg 21 16)) n (fun r => { r with armed := false })
    else s := rfl

theorem ringSignal_frame (s : State) (n : Nat) : ringSignal s n =
    { s with events := { s.events with rings := (ringSignal s n).events.rings }, out := (ringSignal s n).out
             pcie := { s.pcie with msixPending := (ringSignal s n).pcie.msixPending } } := by
  rw [ringSignal_eq]
  split
  · rw [signalMsix_frame]
    rfl
  · rfl

theorem getRing_ringSignal_ne (s : State) {n k : Nat} (hk : k ≠ n) : getRing (ringSignal s n) k = getRing s k := by
  rw [ringSignal_eq]
  split
  · rw [getRing_modRing, if_neg hk, getRing_signalMsix]
  · rfl

/-- The ring's signal only takes the ring off its arms. -/
theorem getRing_ringSignal (s : State) (n : Nat) : getRing (ringSignal s n) n =
    { getRing s n with armed := (getRing s n).armed && !ringSignals n (getRing s n) } := by
  rw [ringSignal_eq]
  split
  · next h => rw [getRing_modRing, if_pos rfl, getRing_signalMsix, h, Bool.not_true, Bool.and_false]
  · next h => rw [Bool.not_eq_true] at h; rw [h, Bool.not_false, Bool.and_true]

/-- One ring changes and no other. -/
theorem modRing_only (s : State) (n : Nat) (f : Ring → Ring) :
    modRing s n f = { s with events := { s.events with rings := (modRing s n f).events.rings } } ∧
      (∀ k, k ≠ n → getRing (modRing s n f) k = getRing s k) ∧ getRing (modRing s n f) n = f (getRing s n) :=
  ⟨rfl, fun k hk => by simp [hk], by simp⟩

/-! ## Writing a record -/

/-- The ring after a record is written at TAIL. -/
def writtenRing (n : Nat) (r : Ring) (e : Event) : Ring :=
  { r with tail := (r.tail + 1) % ringSize r, nextSeq := (r.nextSeq + 1) % 2 ^ 16, count := r.count + 1#64
           records := if n < 9 then r.records ++ [eventBytes r.nextSeq e] else r.records }

theorem writeEvent_own {s : State} {n : Nat} (hn : n < 9) (e : Event) : writeEvent s n e =
    modProc (modRing s n fun _ => writtenRing n (getRing s n) e) n (fun x => { x with fresh := x.fresh ++ [e.prio] }.assertNow) := by
  have h9 : ¬9 ≤ n := by omega
  unfold writeEvent
  dsimp only
  rw [if_neg h9, if_neg h9]
  rfl

theorem writeEvent_host {s : State} {n : Nat} (hn : ¬n < 9) (hl : s.pcie.linkUp = true) (e : Event) : writeEvent s n e =
    ringSignal (modRing { s with hostMem := writeBytes s.hostMem ((getRing s n).base.toNat + 32 * (getRing s n).tail)
                                              (eventBytes (getRing s n).nextSeq e) } n fun _ => writtenRing n (getRing s n) e) n := by
  have h9 : 9 ≤ n := by omega
  unfold writeEvent hostWrite
  dsimp only
  rw [if_pos h9, if_pos h9, if_pos hl]
  rfl

theorem getRing_modProc (s : State) (q : Nat) (f : Proc → Proc) (n : Nat) : getRing (modProc s q f) n = getRing s n := rfl
theorem getProc_modRing (s : State) (n : Nat) (f : Ring → Ring) (q : Nat) : getProc (modRing s n f) q = getProc s q := rfl

theorem eventRecordWrite_selected {s : State} {n : Nat} {e : Event} {rest : List Event} (hn : n < 64)
    (hon : ringEnabled (getRing s n) = true) (hfree : ringBlocked s n = false)
    (hsel : selectEvent (fun e => !eventHeld s n e) (getRing s n).pend = some (e, rest)) :
    eventRecordWrite s n = writeEvent (modRing s n (fun r => { r with pend := rest })) n e := by
  have hgo : (decide (64 ≤ n) || !ringEnabled (getRing s n) || ringBlocked s n) = false := by
    simp [hon, hfree, hn]
  unfold eventRecordWrite
  dsimp only
  rw [hgo, hsel]
  rfl

/-- A host ring that is not blocked has its link. -/
theorem linkUp_of_not_blocked {s : State} {n : Nat} (hn : ¬n < 9) (h : ringBlocked s n = false) : s.pcie.linkUp = true := by
  have h9 : 9 ≤ n := by omega
  simp only [ringBlocked, h9, decide_true, Bool.true_and, Bool.or_eq_false_iff, Bool.not_eq_false', Bool.and_eq_true] at h
  exact h.2.1

theorem eventRecordWrite_writes {s : State} {n : Nat} {r : Ring} {e : Event} {rest : List Event} (hn : n < 64)
    (hr : r = getRing s n) (hon : ringEnabled r = true) (hfree : ringBlocked s n = false)
    (hsel : selectEvent (fun e => !eventHeld s n e) r.pend = some (e, rest)) :
    Runs (.eventRecordWrite n) s (fun t =>
      t = { s with events := t.events, hostMem := t.hostMem, out := t.out, pcie := { s.pcie with msixPending := t.pcie.msixPending } } ∧
      (getRing t n).tail = (r.tail + 1) % ringSize r ∧ (getRing t n).nextSeq = (r.nextSeq + 1) % 2 ^ 16 ∧
      (getRing t n).count = r.count + 1#64 ∧ (getRing t n).pend = rest ∧ (getRing t n).head = r.head ∧
      (∀ k, k ≠ n → getRing t k = getRing s k) ∧
      (if n < 9 then t.hostMem = s.hostMem ∧ (getRing t n).records = r.records ++ [eventBytes r.nextSeq e] ∧
          (getProc t n).fresh = (getProc s n).fresh ++ [e.prio]
        else t.hostMem = writeBytes s.hostMem (r.base.toNat + 32 * r.tail) (eventBytes r.nextSeq e) ∧ t.events.procs = s.events.procs)) := by
  subst hr
  have hsel' := eventRecordWrite_selected hn hon hfree hsel
  have hring : getRing (modRing s n (fun r => { r with pend := rest })) n = { getRing s n with pend := rest } := by simp
  by_cases h9 : n < 9
  · rw [writeEvent_own h9, hring] at hsel'
    refine runs_eq rfl hsel' ?_
    have hw : getRing (modProc (modRing (modRing s n (fun r => { r with pend := rest })) n
        fun _ => writtenRing n { getRing s n with pend := rest } e) n (fun x => { x with fresh := x.fresh ++ [e.prio] }.assertNow)) n
        = writtenRing n { getRing s n with pend := rest } e := by rw [getRing_modProc, getRing_modRing, if_pos rfl]
    rw [hw, if_pos h9]
    refine ⟨rfl, rfl, rfl, rfl, rfl, rfl, fun k hk => ?_, rfl, if_pos h9, ?_⟩
    · rw [getRing_modProc, getRing_modRing, if_neg hk, getRing_modRing, if_neg hk]
    · rw [getProc_modProc, if_pos rfl]
      rfl
  · have hlink : (modRing s n (fun r => { r with pend := rest })).pcie.linkUp = true :=
      (linkUp_of_not_blocked h9 hfree : s.pcie.linkUp = true)
    rw [writeEvent_host h9 hlink, hring] at hsel'
    refine runs_eq rfl hsel' ?_
    rw [getRing_ringSignal, getRing_modRing, if_pos rfl, if_neg h9]
    refine ⟨?_, rfl, rfl, rfl, rfl, rfl, fun k hk => ?_, ?_, ?_⟩
    · rw [ringSignal_frame]
      rfl
    · rw [getRing_ringSignal_ne _ hk, getRing_modRing, if_neg hk]
      exact (getRing_modRing ..).trans (if_neg hk)
    · rw [ringSignal_frame]
      rfl
    · rw [ringSignal_frame]
      rfl

/-! ## Processors -/

theorem interruptTake_takes {s : State} {q p : Nat} {x : Proc} (hq : q < 9) (hx : x = getProc s q) (ha : x.asserted = true)
    (hp : p = (x.fresh.filter x.below).foldl max 0) :
    Runs (.interruptTake q) s (fun t => t = { s with events := t.events } ∧
      getProc t q = { x with stack := Nat.lor x.stack (2 ^ p), fresh := [], asserted := false } ∧
      (getRing t q).head = (getRing s q).tail ∧ (getRing t q).records = [] ∧
      (∀ k, k ≠ q → getProc t k = getProc s k ∧ getRing t k = getRing s k)) := by
  subst hx
  have heq : interruptTake s q = modRing (modProc s q fun x => { x with stack := Nat.lor x.stack (2 ^ p), fresh := [] }.assertNow) q
      (fun r => { r with head := r.tail, records := [] }) := by
    unfold interruptTake
    dsimp only
    rw [if_neg (by simp [ha, hq]), ← hp]
  refine runs_eq rfl heq ⟨rfl, ?_, ?_, ?_, fun k hk => ⟨?_, ?_⟩⟩
  · rw [getProc_modRing, getProc_modProc, if_pos rfl]
    rfl
  · rw [getRing_modRing, if_pos rfl, getRing_modProc]
  · rw [getRing_modRing, if_pos rfl]
  · rw [getProc_modRing, getProc_modProc, if_neg hk]
  · rw [getRing_modRing, if_neg hk, getRing_modProc]

/-- A processor as an end of interrupt leaves it. -/
def afterEoi (x : Proc) : Proc :=
  if x.stack = 0 then { x with eoiErr := true } else { x with stack := x.stack - 2 ^ topPrio x.stack }.assertNow

theorem evtEoi_pops {s : State} {q : Nat} {x : Proc} {v : W64} (hq : q < 9) (hx : x = getProc s q) (hv : rbit v 0 = true) :
    Runs (.evtEoi q true v) s (fun t => t = { s with events := { s.events with procs := t.events.procs } } ∧
      (∀ k, k ≠ q → getProc t k = getProc s k) ∧
      (x.stack = 0 → getProc t q = { x with eoiErr := true }) ∧
      (x.stack ≠ 0 → (getProc t q).stack = x.stack - 2 ^ Nat.log2 x.stack ∧ (getProc t q).fresh = x.fresh ∧
        (getProc t q).asserted = x.fresh.any (fun p => decide (x.stack - 2 ^ Nat.log2 x.stack < 2 ^ p)))) := by
  subst hx
  have heq : evtEoi s q true v = modProc s q afterEoi := if_neg (by simp [hv, hq])
  have hself : getProc (modProc s q afterEoi) q = afterEoi (getProc s q) := by simp
  refine runs_eq rfl heq ⟨rfl, fun k hk => by simp [hk], fun h0 => ?_, fun h0 => ?_⟩
  · rw [hself, afterEoi, if_pos h0]
  · rw [hself, afterEoi, if_neg h0]
    exact ⟨rfl, rfl, rfl⟩

/-! ## Host rings -/

/-- Events that a disabled ring held are lost one by one. -/
theorem ringLose_fold (l : List Event) (r : Ring) :
    (l.foldl (fun r e => ringLose r e.time) r).cfg = r.cfg ∧ (l.foldl (fun r e => ringLose r e.time) r).pend = r.pend ∧
      (l.foldl (fun r e => ringLose r e.time) r).later = r.later ∧
      (l.foldl (fun r e => ringLose r e.time) r).lost = if l = [] then r.lost else min (r.lost + l.length) (2 ^ 32 - 1) := by
  induction l generalizing r with
  | nil => exact ⟨rfl, rfl, rfl, rfl⟩
  | cons e l ih =>
    obtain ⟨hcfg, hpend, hlater, hlost⟩ := ih (ringLose r e.time)
    rw [List.foldl_cons]
    refine ⟨hcfg, hpend, hlater, ?_⟩
    rw [hlost, if_neg (List.cons_ne_nil e l)]
    have hone : (ringLose r e.time).lost = min (r.lost + 1) (2 ^ 32 - 1) := rfl
    rw [hone, List.length_cons]
    split
    · next hl => subst hl; rfl
    · omega

section
variable {s : State} {n : Nat} {r : Ring}

theorem evtRingEnable_enables {v c : W64} (ho : hostOpen s = true) (h9 : 9 ≤ n) (h64 : n < 64) (hr : r = getRing s n)
    (hv : rbit v 63 = true) (hoff : ringEnabled r = false) (hc : c = v &&& ringMask) :
    Runs (.evtRingEnable n v) s (fun t => t = { s with events := { s.events with rings := t.events.rings } } ∧
        (∀ k, k ≠ n → getRing t k = getRing s k) ∧
        (ringRefusal s n { r with cfg := c } = none →
          getRing t n = { r with cfg := c, head := 0, tail := 0, nextSeq := 0, armed := true
                                 gen := if rbit c 62 then (getCtx s (rbits c 55 48)).gen else r.gen }) ∧
        ∀ x, ringRefusal s n { r with cfg := c } = some x →
          (getRing t n).reason = x ∧ ringEnabled (getRing t n) = false) := by
  subst hr
  have hgo : ¬(n < 9 ∨ 64 ≤ n) := by omega
  cases href : ringRefusal s n { getRing s n with cfg := c } with
  | none =>
    have heq : writeRingCfg s n v = modRing s n (fun r =>
        { r with cfg := c, head := 0, tail := 0, nextSeq := 0, armed := true
                 gen := if rbit c 62 then (getCtx s (rbits c 55 48)).gen else r.gen }) := by
      unfold writeRingCfg
      dsimp only
      rw [if_neg hgo, hoff, hv, ← hc, href]
      rfl
    obtain ⟨hs, ho', hn⟩ := modRing_only s n (fun r =>
        { r with cfg := c, head := 0, tail := 0, nextSeq := 0, armed := true
                 gen := if rbit c 62 then (getCtx s (rbits c 55 48)).gen else r.gen })
    exact runs_host_eq ho rfl ((if_pos hv).trans heq) ⟨hs, ho', fun _ => hn, fun _ h => nomatch h⟩
  | some x =>
    have heq : writeRingCfg s n v = modRing s n (fun r => { r with cfg := rset c 63 63 0, reason := x }) := by
      unfold writeRingCfg
      dsimp only
      rw [if_neg hgo, hoff, hv, ← hc, href]
      rfl
    obtain ⟨hs, ho', hn⟩ := modRing_only s n (fun r => { r with cfg := rset c 63 63 0, reason := x })
    refine runs_host_eq ho rfl ((if_pos hv).trans heq) ⟨hs, ho', (nomatch ·), fun y hy => ?_⟩
    cases hy
    rw [hn]
    refine ⟨rfl, ?_⟩
    rw [ringEnabled, rbit_rset_top]
    decide

theorem evtRingDisable_loses {v c : W64} (ho : hostOpen s = true) (h9 : 9 ≤ n) (h64 : n < 64) (hr : r = getRing s n)
    (hv : rbit v 63 = false) (hon : ringEnabled r = true) (hc : c = v &&& ringMask) (hcfg : rset r.cfg 63 63 0 = rset c 63 63 0) :
    Runs (.evtRingDisable n v) s (fun t => t = { s with events := { s.events with rings := t.events.rings } } ∧
        (∀ k, k ≠ n → getRing t k = getRing s k) ∧ (getRing t n).cfg = c ∧ (getRing t n).pend = [] ∧
        (getRing t n).later = [] ∧ (getRing t n).lost = if r.pend ++ r.later = [] then r.lost
          else min (r.lost + (r.pend ++ r.later).length) (2 ^ 32 - 1)) := by
  subst hr
  have hgo : ¬(n < 9 ∨ 64 ≤ n) := by omega
  have heq : writeRingCfg s n v = modRing s n (fun r => loseHeld { r with cfg := c }) := by
    unfold writeRingCfg
    dsimp only
    rw [if_neg hgo, hon, hv, ← hc, hcfg]
    simp
  obtain ⟨hs, ho', hn⟩ := modRing_only s n (fun r => loseHeld { r with cfg := c })
  have hoff : (if rbit v 63 = true then s else writeRingCfg s n v) = writeRingCfg s n v := if_neg (by simp [hv])
  refine runs_host_eq ho rfl (hoff.trans heq) ⟨hs, ho', ?_⟩
  rw [hn]
  exact ringLose_fold ((getRing s n).pend ++ (getRing s n).later) { getRing s n with cfg := c, pend := [], later := [] }

theorem evtRingHead_moves {v : BitVec 16} (ho : hostOpen s = true) (h9 : 9 ≤ n) (h64 : n < 64) (hr : r = getRing s n)
    (hon : ringEnabled r = true) (hv : v.toNat < ringSize r)
    (hin : (v.toNat + ringSize r - r.head) % ringSize r ≤ (r.tail + ringSize r - r.head) % ringSize r) :
    Runs (.evtRingHead n v) s (fun t =>
        t = { s with events := { s.events with rings := t.events.rings }, out := t.out
                     pcie := { s.pcie with msixPending := t.pcie.msixPending } } ∧
        (∀ k, k ≠ n → getRing t k = getRing s k) ∧ (getRing t n).head = v.toNat ∧ (getRing t n).tail = r.tail ∧
        (getRing t n).armed = (r.tail == v.toNat)) := by
  subst hr
  have hgo : ¬(n < 9 ∨ 64 ≤ n) := by omega
  have hin' : ¬(ringSize (getRing s n) ≤ v.toNat ∨
      ((getRing s n).tail + ringSize (getRing s n) - (getRing s n).head) % ringSize (getRing s n)
        < (v.toNat + ringSize (getRing s n) - (getRing s n).head) % ringSize (getRing s n)) := by
    rw [not_or, Nat.not_le, Nat.not_lt]
    exact ⟨hv, hin⟩
  have heq : evtRingHead s n v.toNat = ringSignal (modRing s n (fun r => { r with head := v.toNat, armed := true })) n := by
    unfold evtRingHead
    dsimp only
    rw [if_neg hgo, hon, if_neg hin']
    rfl
  refine runs_host_eq ho rfl heq ⟨?_, fun k hk => ?_, ?_, ?_, ?_⟩
  · rw [ringSignal_frame]
    rfl
  · rw [getRing_ringSignal_ne _ hk, getRing_modRing, if_neg hk]
  · rw [getRing_ringSignal, getRing_modRing, if_pos rfl]
  · rw [getRing_ringSignal, getRing_modRing, if_pos rfl]
  · rw [getRing_ringSignal, getRing_modRing, if_pos rfl]
    have hon' : ringEnabled { getRing s n with head := v.toNat, armed := true } = true := hon
    have hne : (v.toNat != (getRing s n).tail) = !((getRing s n).tail == v.toNat) := by rw [bne, BEq.comm]
    simp only [ringSignals, hon', h9, decide_true, Bool.true_and, hne, Bool.not_not]

theorem overflowClear_clears {v : W64} (ho : hostOpen s = true) (h9 : 9 ≤ n) (h64 : n < 64) (hr : r = getRing s n)
    (hv : rbit v 10 = true) :
    Runs (.overflowClear n v) s (fun t => t = { s with events := { s.events with rings := t.events.rings } } ∧
        getRing t n = { r with overflow := false } ∧ ∀ k, k ≠ n → getRing t k = getRing s k) := by
  subst hr
  obtain ⟨hs, ho', hn⟩ := modRing_only s n (fun r => { r with overflow := false })
  exact runs_host_eq ho rfl (if_pos (by simp [hv, h9, h64])) ⟨hs, hn, ho'⟩

end

/-- Settles O22: the write of a record, the processors, and the host's rings in turn. -/
theorem eventsReachRings : Obligations.EventsReachRings :=
  ⟨fun _ _ _ _ _ hn hr hon hfree hsel => eventRecordWrite_writes hn hr hon hfree hsel,
    fun _ _ _ _ hq hx ha hp => interruptTake_takes hq hx ha hp, fun _ _ _ _ hq hx hv => evtEoi_pops hq hx hv,
    fun _ _ _ ho h9 h64 hr => ⟨fun _ hv hoff => evtRingEnable_enables ho h9 h64 hr hv hoff rfl,
      fun _ hv hon hcfg => evtRingDisable_loses ho h9 h64 hr hv hon rfl hcfg,
      fun _ hon hv hin => evtRingHead_moves ho h9 h64 hr hon hv hin, fun _ hv => overflowClear_clears ho h9 h64 hr hv⟩⟩

end Sys2Proof.Machine
end

section
/-! # The aperture (09/R278-R281, 07/R212) -/

namespace Sys2Proof.Machine

/-! ## Crates that are neither cached nor faulty -/

/-- A crate without an uncorrectable word is not reported. -/
theorem reportBadIf_good {s : State} {crate : Nat} (h : ∀ y ∈ s.mem.bad, y / 64 ≠ crate) (cg : CtxGen) (core : Nat)
    (p : Nat → Bool) : reportBadIf s cg crate core p = s := by
  have hnone : s.mem.bad.filter (fun x => x / 64 == crate && p x) = [] :=
    List.filter_eq_nil_iff.mpr fun y hy => by simp [h y hy]
  unfold reportBadIf
  rw [hnone]
  rfl

/-- A crate that no cache holds touches none. -/
theorem cacheTouch_plain {m : Mem} {crate : Nat} (h : cacheHome m crate = none) (write : Bool) :
    cacheTouch m crate write = m := by
  unfold cacheTouch
  rw [h]

/-- A masked word has the bits of the mask that the word has. -/
theorem rbit_and (v m : W64) (n : Nat) : rbit (v &&& m) n = (rbit v n && rbit m n) := by
  have h (w : W64) : rbit w n = w.toNat.testBit n := by
    rw [Nat.testBit_eq_decide_div_mod_eq, rbit, Word.bitOf]
    rfl
  rw [h, h, h, BitVec.toNat_and, Nat.testBit_and]

/-! ## Windows -/

/-- A window with a new value. -/
def putWin (s : State) (i : Nat) (v : W64) : State := { s with pcie := { s.pcie with aperWin := tset 0#64 s.pcie.aperWin i v } }

theorem aperWin_putWin (s : State) (i : Nat) (v : W64) (j : Nat) :
    aperWin (putWin s i v) j = if j = i then v else aperWin s j := tget_tset ..

theorem refusedWin_frame (s : State) (i r : Nat) (v : W64) :
    aperRefused (putWin s i v) r i 0 = { s with pcie := (aperRefused (putWin s i v) r i 0).pcie } := rfl

theorem aperWin_refusedWin (s : State) (i r : Nat) (v : W64) (j : Nat) :
    aperWin (aperRefused (putWin s i v) r i 0) j = if j = i then v else aperWin s j := tget_tset ..

theorem writeAperWin_eq {s : State} {i : Nat} {v w : W64} (hi : i < 16) (hw : w = v &&& aperMask) (hv : rbit w 63 = true)
    (hold : rbit (aperWin s i) 63 = false) :
    (winRefusal s w = none → writeAperWin s i v = putWin s i w) ∧
      ∀ r, winRefusal s w = some r → writeAperWin s i v = aperRefused (putWin s i (rset w 63 63 0)) r i 0 := by
  have hgo : ¬16 ≤ i := by omega
  unfold writeAperWin
  dsimp only
  rw [if_neg hgo, ← hw, if_neg (by rw [hold, Bool.false_and]; decide), if_pos (by rw [hv, hold]; decide)]
  exact ⟨fun hr => by rw [hr, putWin], fun r hr => by rw [hr, putWin]⟩

theorem aperWinEnable_enables {s : State} {i : Nat} {v w : W64} (ho : hostOpen s = true) (hi : i < 16) (hv : rbit v 63 = true)
    (hold : rbit (aperWin s i) 63 = false) (hw : w = v &&& aperMask) :
    Runs (.aperWinEnable i v) s (fun t => t = { s with pcie := t.pcie } ∧ (∀ j, j ≠ i → aperWin t j = aperWin s j) ∧
      (winRefusal s w = none → aperWin t i = w) ∧
      ∀ r, winRefusal s w = some r → rbit (aperWin t i) 63 = false ∧ t.pcie.aperReason = r ∧ t.pcie.aperWindow = i) := by
  have hw63 : rbit w 63 = true := by
    have hm : rbit aperMask 63 = true := by decide
    rw [hw, rbit_and, hv, hm]
    rfl
  obtain ⟨hnone, hsome⟩ := writeAperWin_eq hi hw hw63 hold
  cases hr : winRefusal s w with
  | none =>
    refine runs_host_eq ho rfl ((if_pos hv).trans (hnone hr)) ⟨rfl, fun j hj => ?_, fun _ => ?_, fun _ h => nomatch h⟩
    · rw [aperWin_putWin, if_neg hj]
    · rw [aperWin_putWin, if_pos rfl]
  | some r =>
    refine runs_host_eq ho rfl ((if_pos hv).trans (hsome r hr)) ⟨refusedWin_frame .., fun j hj => ?_, (nomatch ·), fun r' h => ?_⟩
    · rw [aperWin_refusedWin, if_neg hj]
    · cases h
      refine ⟨?_, rfl, rfl⟩
      rw [aperWin_refusedWin, if_pos rfl, rbit_rset_top]
      decide

/-! ## Accesses -/

/-- An access through an enabled window to a range that nothing refuses is let through. -/
theorem aperCheck_passes {s : State} {x n a : Nat} {w : W64} (hw : w = aperWin s (x / 2 ^ 32)) (hon : rbit w 63 = true)
    (ha : a = aperOffset s x) (hr : refuseRange s .tiers (rbits w 58 56) (a / 4096) ((a + n + 4095) / 4096 - a / 4096) = none) :
    aperCheck s x n = (s, none) := by
  subst hw ha
  unfold aperCheck
  dsimp only
  rw [hon, hr]
  rfl

theorem apertureRead_reads {s : State} {x n a : Nat} {w : W64} (ho : hostOpen s = true) (hw : w = aperWin s (x / 2 ^ 32))
    (hon : rbit w 63 = true) (ha : a = aperOffset s x)
    (hr : refuseRange s .tiers (rbits w 58 56) (a / 4096) ((a + n + 4095) / 4096 - a / 4096) = none)
    (hgood : ∀ y ∈ s.mem.bad, y / 64 ≠ a / 4096) (hhome : cacheHome s.mem (a / 4096) = none) :
    Runs (.apertureRead x n) s (fun t => t = { s with out := s.out ++ [.pcieRead (readBytes s.mem.cells a n)] }) := by
  have hcheck := aperCheck_passes hw hon ha hr
  subst ha
  have heq : apertureRead s x n = emit s (.pcieRead (readBytes s.mem.cells (aperOffset s x) n)) := by
    unfold apertureRead
    rw [ho, hcheck]
    dsimp only
    rw [reportBadIf_good hgood, cacheTouch_plain hhome]
    rfl
  exact runs_eq rfl heq rfl

/-- A write of bytes into a crate that nothing caches, shares or has faulty changes those bytes only. -/
theorem patchBytes_plain {m : Mem} {a : Nat} {data : List Byte} (hb : m.bad = []) (hp : Plain m (a / 4096)) :
    patchBytes m a data = { m with cells := writeBytes m.cells a data } := by
  unfold patchBytes
  rw [preserve_plain m _ hp, cacheTouch_plain hp.2]
  dsimp only
  rw [hb, List.filter_nil, ← hb]

theorem apertureWrite_writes {s : State} {x a : Nat} {data : List Byte} {w : W64} (ho : hostOpen s = true)
    (hw : w = aperWin s (x / 2 ^ 32)) (hon : rbit w 63 = true) (ha : a = aperOffset s x)
    (hr : refuseRange s .tiers (rbits w 58 56) (a / 4096) ((a + data.length + 4095) / 4096 - a / 4096) = none)
    (hb : s.mem.bad = []) (hp : Plain s.mem (a / 4096)) (hwf : Memory.wf s.mem = true) :
    Runs (.apertureWrite x data) s (fun t => t = { s with mem := { s.mem with cells := t.mem.cells } } ∧
      readBytes t.mem.cells a data.length = data ∧
      ∀ y, (y < a ∨ a + data.length ≤ y) → readByte t.mem.cells y = readByte s.mem.cells y) := by
  have hcheck := aperCheck_passes hw hon ha hr
  obtain ⟨hcells, -, -⟩ := (wf_iff s.mem).mp hwf
  subst ha
  have heq : apertureWrite s x data
      = modMem s (fun m => { m with cells := writeBytes m.cells (aperOffset s x) data }) := by
    unfold apertureWrite
    rw [hcheck]
    dsimp only
    rw [reportBadIf_good (by rw [hb]; exact fun y hy => absurd hy List.not_mem_nil)]
    exact congrArg (setMem s) (patchBytes_plain hb hp)
  refine runs_host_eq ho rfl heq ⟨rfl, readBytes_writeBytes _ _ _ hcells, fun y hy => ?_⟩
  exact (readByte_writeBytes _ _ _ y hcells).trans (if_neg (by omega))

/-- Settles O21: windows, and accesses through them. -/
theorem aperture : Obligations.Aperture :=
  ⟨fun _ _ _ ho hi hv hold => aperWinEnable_enables ho hi hv hold rfl,
    fun _ _ _ _ _ ho hw hon ha hr hgood hhome => apertureRead_reads ho hw hon ha hr hgood hhome,
    fun _ _ _ _ _ ho hw hon ha hr hb hp hwf => apertureWrite_writes ho hw hon ha hr hb hp hwf⟩

end Sys2Proof.Machine
end

section
/-! # What the host and management read by command (09/R296, R297, 15/R470, 18/R561, 19/R570-R572) -/

namespace Sys2Proof.Machine

/-! ## Pages for the host -/

/-- A command that wrote its answer to host memory ends, and nothing else changes. -/
theorem endCmd_hostWrite {s : State} {slot op : Nat} {c : Cmd} (h : IsBegun s slot op c) (hl : s.pcie.linkUp = true)
    (a : Nat) (bs : List Byte) (e : EndWith) (he : e.cls ≤ 1) :
    endCmd (hostWrite s a bs) slot e = { s with hostMem := writeBytes s.hostMem a bs, cmds := endedCmds s slot e } := by
  rw [hostWrite, if_pos hl]
  exact endCmd_succeeds (s := { s with hostMem := writeBytes s.hostMem a bs }) h.find h.uncut he

/-- What stands in host memory after a write of it. -/
theorem hostGot_writeBytes {s t : State} {a : Nat} {bs : List Byte} (hc : cellsWf s.hostMem = true)
    (ht : t.hostMem = writeBytes s.hostMem a bs) : HostGot s t a bs := by
  refine ⟨fun i hi => ?_, fun x hx => ?_⟩
  · rw [ht, readByte_writeBytes _ _ _ _ hc, if_pos (by omega), Nat.add_sub_cancel_left]
  · rw [ht, readByte_writeBytes _ _ _ _ hc, if_neg (by omega)]

section
variable {s : State} {slot op : Nat} {c : Cmd} (hl : s.pcie.linkUp = true) (hc : cellsWf s.hostMem = true)
include hl hc

/-- A command whose whole effect is to put bytes in host memory and to end. -/
theorem runs_hostRead {cmd : Instr} {a : Nat} {bs : List Byte} {e : EndWith} (h : IsBegun s slot op c) {t : State} (he : e.cls ≤ 1)
    (hx : exec cmd s = .next t) (ht : t = endCmd (hostWrite s a bs) slot e) :
    Runs cmd s (fun t => t = { s with hostMem := t.hostMem, cmds := endedCmds s slot e } ∧ HostGot s t a bs) :=
  runs_eq hx (ht.trans (endCmd_hostWrite h hl a bs e he)) ⟨rfl, hostGot_writeBytes hc rfl⟩

theorem identify_answers (h : IsBegun s slot 0x0601 c) :
    Runs (.identify slot) s (fun t => t = { s with hostMem := t.hostMem, cmds := endedCmds s slot {} } ∧
      HostGot s t (Pkt.p0 c.packet) (identifyPage s)) := by
  refine runs_hostRead hl hc h (Nat.zero_le 1) rfl ?_
  rw [Machine.identify, h.1]

theorem telemetryRead_answers {x : Sensors} {b : List Byte} (h : IsBegun s slot 0x0602 c)
    (hb : telemetryPage s (Pkt.p1 c.packet) x = some b) :
    Runs (.telemetryRead slot x) s (fun t => t = { s with hostMem := t.hostMem, cmds := endedCmds s slot {} } ∧
      HostGot s t (Pkt.p0 c.packet) b) := by
  refine runs_hostRead hl hc h (Nat.zero_le 1) rfl ?_
  rw [Machine.telemetryRead, h.1]
  dsimp only
  rw [hb]

theorem captureRead_answers {base n : Nat} (h : IsBegun s slot 0x0706 c) (hbase : base = Pkt.p1 c.packet % 8 * 4194304)
    (hn : n = min 4194304 (leAt (readBytes s.hang.capMem base 64) 0x28 4)) :
    Runs (.captureRead slot) s (fun t => t = { s with hostMem := t.hostMem, cmds := endedCmds s slot { result := n } } ∧
      HostGot s t (Pkt.p0 c.packet) (readBytes s.hang.capMem base n)) := by
  refine runs_hostRead hl hc h (Nat.zero_le 1) rfl ?_
  have hslot : slotSize = 4194304 := rfl
  rw [Machine.captureRead, h.1]
  dsimp only
  rw [hslot, ← hbase, ← hn]

end

theorem telemetryPage_none {s : State} {page : Nat} (x : Sensors) (h : 4 < page) : telemetryPage s page x = none := by
  unfold telemetryPage
  match page, h with
  | n + 5, _ => rfl

theorem telemetryRead_refused {s : State} {slot : Nat} {c : Cmd} {x : Sensors} (h : IsBegun s slot 0x0602 c)
    (hp : 4 < Pkt.p1 c.packet) (hl : ∀ d ∈ queueCmds s c.queue, d.ord ≤ c.ord) :
    Runs (.telemetryRead slot x) s (fun t => t = { s with queues := t.queues, cmds := endedCmds s slot { cls := 2, reason := 0x03 } }) := by
  have heq : telemetryRead s slot x = refuseCmd s slot 0x03 := by
    rw [Machine.telemetryRead, h.1]
    dsimp only
    rw [telemetryPage_none x hp]
  have hend := endCmd_refused (e := { cls := 2, reason := 0x03 }) h.find h.uncut rfl (.inr (by rw [h.opcode]; decide)) hl
  exact runs_eq rfl (heq.trans hend) rfl

/-! ## Answers to management -/

section
variable {s : State} {q : Req} {body : List Byte}

theorem pageAnswer_whole {op off : Nat} (page : List Byte) (h : off + pageLen q ≤ 4096) :
    pageAnswer s q op page off = respond s q op 0 0 (pageFrom page off (pageLen q)) := by
  unfold pageAnswer
  dsimp only
  rw [if_pos (by omega)]

/-- A repeated request draws the response that is held. -/
theorem serve_held {op : Nat} {x : Served} {b : Bool} {f : State → State} {h : Held} (hr : reaches s q.source q.port = true)
    (hh : heldFor s q.source q.ident = some h) :
    serve s q op x b f = emit s (.mgmt q.source (some q.port) h.bytes) := by
  unfold serve
  rw [hr, hh]
  rfl

section
variable (hp : s.boot.phase = 6) (hf : Fresh s q)
include hp hf

theorem mgmtIdentify_answers (hb : body.length = 2) (hoff : leAt body 0 2 + pageLen q ≤ 4096) :
    Runs (.mgmtIdentify q body) s (fun t => OnlyAnswered s t q 1 0 0 (pageFrom (identifyPage s) (leAt body 0 2) (pageLen q))) := by
  have heq : execMgmtIdentify q body s = .next (respond s q 1 0 0 (pageFrom (identifyPage s) (leAt body 0 2) (pageLen q))) := by
    rw [execMgmtIdentify, show (body.length == 2) = true by simp [hb], serve_of_fresh hf (served_now hp rfl fun h => absurd h (by decide)),
      if_pos hp, pageAnswer_whole _ hoff]
  exact runs_eq heq rfl (respond_only hf.2 ..)

theorem telemetry_answers {x : Sensors} {b : List Byte} (hb : body.length = 4) (hx : telemetryPage s (leAt body 0 2) x = some b)
    (hoff : leAt body 2 2 + pageLen q ≤ 4096) :
    Runs (.telemetry q body x) s (fun t => OnlyAnswered s t q 2 0 0 (pageFrom b (leAt body 2 2) (pageLen q))) := by
  have heq : execTelemetry q body x s = .next (respond s q 2 0 0 (pageFrom b (leAt body 2 2) (pageLen q))) := by
    rw [execTelemetry, show (body.length == 4) = true by simp [hb], serve_of_fresh hf (served_now hp rfl fun h => absurd h (by decide)),
      if_pos hp, hx]
    dsimp only
    rw [pageAnswer_whole _ hoff]
  exact runs_eq heq rfl (respond_only hf.2 ..)

theorem mgmtDiscovery_answers (hb : body.length = 1) (h47 : leAt body 0 1 ≤ 47) :
    Runs (.mgmtDiscovery q body) s (fun t => OnlyAnswered s t q 3 0 0
      ((List.range' (leAt body 0 1) (min (48 - leAt body 0 1) (if q.source = 0 then 32 else 48))).flatMap (discoveryEntry s))) := by
  have heq : execMgmtDiscovery q body s = .next (respond s q 3 0 0
      ((List.range' (leAt body 0 1) (min (48 - leAt body 0 1) (if q.source = 0 then 32 else 48))).flatMap (discoveryEntry s))) := by
    rw [execMgmtDiscovery, show (body.length == 1) = true by simp [hb], serve_of_fresh hf (served_plain hp)]
    dsimp only
    rw [if_neg (by omega)]
  exact runs_eq heq rfl (respond_only hf.2 ..)

theorem mgmtLedgerRead_answers (hb : body.length = 9) (h1 : 1 ≤ leAt body 8 1) (hn : leAt body 8 1 ≤ (if q.source = 0 then 7 else 15))
    {r : LedgerRec} {rs : List LedgerRec} (hr : s.ledger.records = r :: rs) :
    Runs (.mgmtLedgerRead q body) s (fun t => OnlyAnswered s t q 9 0 0
      (Word.toLe 8 r.seq ++ (recordsFrom s (leAt body 0 8) (leAt body 8 1)).flatMap recBytes)) := by
  have heq : execMgmtLedgerRead q body s = .next (respond s q 9 0 0
      (Word.toLe 8 r.seq ++ (recordsFrom s (leAt body 0 8) (leAt body 8 1)).flatMap recBytes)) := by
    rw [execMgmtLedgerRead, show (body.length == 9) = true by simp [hb], serve_of_fresh hf (served_plain hp)]
    dsimp only
    rw [if_neg (by omega), hr]
  exact runs_eq heq rfl (respond_only hf.2 ..)

theorem totalsRead_answers {u : W64} (hb : body.length = 8) (hu : u = BitVec.ofNat 64 (leAt body 0 8)) :
    Runs (.totalsRead q body) s (fun t => OnlyAnswered s t q 0xA 0 0 (totalsBytes u (getUnit s u))) := by
  have heq : execTotalsRead q body s = .next (respond s q 0xA 0 0 (totalsBytes u (getUnit s u))) := by
    rw [execTotalsRead, show (body.length == 8) = true by simp [hb], serve_of_fresh hf (served_plain hp), hu]
  exact runs_eq heq rfl (respond_only hf.2 ..)

theorem reclaimStatus_answers (hb : body = []) :
    Runs (.reclaimStatus q body) s (fun t => OnlyAnswered s t q 8 0 0 (Word.toLe 4 s.mgmt.reclaim ++ Word.toLe 4 s.mgmt.noticeTime)) := by
  have heq : execReclaimStatus q body s = .next (respond s q 8 0 0 (reclaimBytes s)) := by
    rw [execReclaimStatus, show (body.length == 0) = true by simp [hb], serve_of_fresh hf (served_plain hp)]
  exact runs_eq heq rfl (respond_only hf.2 ..)

end

/-- Whatever a repeated request reads, its held response is sent again. -/
theorem repeated_answers {h : Held} {cmd : Instr} (hr : reaches s q.source q.port = true) (hh : heldFor s q.source q.ident = some h)
    (hcmd : cmd = .mgmtIdentify q body ∨ cmd = .mgmtDiscovery q body ∨ cmd = .mgmtLedgerRead q body ∨ cmd = .totalsRead q body ∨
      cmd = .reclaimStatus q body) :
    Runs cmd s (fun t => t = { s with out := s.out ++ [.mgmt q.source (some q.port) h.bytes] }) := by
  rcases hcmd with rfl | rfl | rfl | rfl | rfl <;> exact runs_eq rfl (serve_held hr hh) rfl

end

/-- Settles O41: the host's pages, management's, and the repeated request. -/
theorem pagesRead : Obligations.PagesRead :=
  ⟨fun _ _ _ hl hc => ⟨fun h => identify_answers hl hc h, fun _ _ h hb => telemetryRead_answers hl hc h hb,
      fun _ h hp hlast => telemetryRead_refused h hp hlast, fun _ _ h hbase hn => captureRead_answers hl hc h hbase hn⟩,
    fun _ _ _ hp => ⟨fun hf => ⟨fun hb hoff => mgmtIdentify_answers hp hf hb hoff, fun _ _ hb hx hoff => telemetry_answers hp hf hb hx hoff,
      fun hb h47 => mgmtDiscovery_answers hp hf hb h47, fun hb h1 hn _ _ hr => mgmtLedgerRead_answers hp hf hb h1 hn hr,
      fun _ hb hu => totalsRead_answers hp hf hb hu, fun hb => reclaimStatus_answers hp hf hb⟩,
      fun _ _ hr hh hcmd => repeated_answers hr hh hcmd⟩⟩

end Sys2Proof.Machine
end

section
/-! # Staging, chunks and live handover of firmware (16/R509-R511, 19/R576) -/

namespace Sys2Proof.Machine

/-! ## The banks of the boot flash -/

/-- A bank is replaced and the other is kept. -/
theorem setBank_eq (s : State) (bank : Nat) (c : List Host.Cell) : ∃ a b,
    setBank s bank c = modBoot s (fun x => { x with bankA := a, bankBB := b }) ∧
      a = (if bank = 0 then c else s.boot.bankA) ∧ b = (if bank = 0 then s.boot.bankBB else c) := by
  unfold setBank
  split
  · exact ⟨_, _, rfl, rfl, rfl⟩
  · exact ⟨_, _, rfl, rfl, rfl⟩

theorem bankCells_setBank (s : State) (bank : Nat) (c : List Host.Cell) : bankCells (setBank s bank c) bank = c := by
  unfold bankCells setBank
  split <;> rfl

theorem bankCells_setBank_other {s : State} (h : s.boot.bank ≤ 1) (c : List Host.Cell) :
    bankCells (setBank s (standbyBank s) c) s.boot.bank = bankCells s s.boot.bank := by
  unfold bankCells setBank standbyBank
  by_cases hb : s.boot.bank = 0
  · rw [hb]
    rfl
  · rw [if_neg hb, if_neg hb, if_pos (by omega)]
    rfl

/-- A bank that was programmed at `off` reads back what was programmed there. -/
theorem bankBytes_program {t : State} {bank off : Nat} {bs : List Byte} {c : List Host.Cell} (hc : cellsWf c = true)
    (ht : bankCells t bank = writeBytes c off (bs.map (fun b => ~~~b))) : bankBytes t bank off bs.length = bs := by
  have hlen : bs.length = (bs.map (fun b => ~~~b)).length := (List.length_map _).symm
  rw [bankBytes, ht, hlen, readBytes_writeBytes _ _ _ hc, List.map_map]
  exact (List.map_congr_left fun b _ => BitVec.not_not).trans (List.map_id bs)

/-- A staging step changes the boot flash and its flags only: the module runs the bank it ran. -/
structure Flashed (s t : State) : Prop where
  frame : t = { s with boot := t.boot }
  bank : t.boot.bank = s.boot.bank
  phase : t.boot.phase = s.boot.phase

theorem Flashed.trans {s t u : State} (h : Flashed s t) (g : Flashed t u) : Flashed s u :=
  ⟨by rw [g.frame, h.frame], g.bank.trans h.bank, g.phase.trans h.phase⟩

theorem Flashed.modBoot {s : State} {f : Boot → Boot} (hb : (f s.boot).bank = s.boot.bank) (hp : (f s.boot).phase = s.boot.phase) :
    Flashed s (modBoot s f) := ⟨rfl, hb, hp⟩

theorem updateDir_flashed (s : State) (f : FlashDir → FlashDir) : Flashed s (updateDir s f) := by
  obtain ⟨d0, d1, h⟩ := updateDir_boot s f
  rw [h]
  exact .modBoot rfl rfl

theorem bankCells_updateDir (s : State) (f : FlashDir → FlashDir) (b : Nat) : bankCells (updateDir s f) b = bankCells s b := by
  obtain ⟨d0, d1, h⟩ := updateDir_boot s f
  rw [h]
  rfl

theorem setBank_flashed (s : State) (bank : Nat) (c : List Host.Cell) : Flashed s (setBank s bank c) := by
  obtain ⟨a, b, h, -, -⟩ := setBank_eq s bank c
  rw [h]
  exact .modBoot rfl rfl

theorem standbyBank_flashed {s t : State} (h : Flashed s t) : standbyBank t = standbyBank s := by
  unfold standbyBank
  rw [h.bank]

/-- Clearing the standby bank keeps the one that runs. -/
theorem clearBank_cleared (s : State) :
    Flashed s (clearBank s (standbyBank s)) ∧ bankCells (clearBank s (standbyBank s)) (standbyBank s) = [] ∧
      (s.boot.bank ≤ 1 → bankCells (clearBank s (standbyBank s)) s.boot.bank = bankCells s s.boot.bank) := by
  unfold clearBank eraseBank
  have h1 : Flashed s (Machine.modBoot s (fun x => { x with staged := false })) := .modBoot rfl rfl
  generalize hd : (fun d : FlashDir => { d with banks := if Word.bitOf d.banks (standbyBank s) then d.banks - 2 ^ standbyBank s else d.banks }) = f
  have h2 := h1.trans (updateDir_flashed (Machine.modBoot s (fun x => { x with staged := false })) f)
  have hcells (b : Nat) : bankCells (updateDir (Machine.modBoot s (fun x => { x with staged := false })) f) b = bankCells s b :=
    (bankCells_updateDir _ f b).trans rfl
  generalize updateDir (Machine.modBoot s (fun x => { x with staged := false })) f = u at *
  refine ⟨h2.trans (setBank_flashed ..), bankCells_setBank .., fun hb => ?_⟩
  have hother := bankCells_setBank_other (s := u) (h2.bank ▸ hb) []
  rw [standbyBank_flashed h2, h2.bank] at hother
  rw [hother, hcells]

/-- An image that is programmed whole into the cleared standby bank and marked complete. -/
def stagedState (s : State) (image : List Byte) : State :=
  modBoot (completeBank (programBank (clearBank s (standbyBank s)) (standbyBank s) 0 image) (standbyBank s) (imgVersion image))
    (fun x => { x with staged := true })

theorem programBank_flashed (s : State) (b off : Nat) (bs : List Byte) : Flashed s (programBank s b off bs) := setBank_flashed ..

theorem bankCells_program (s : State) (b off : Nat) (bs : List Byte) :
    bankCells (programBank s b off bs) b = writeBytes (bankCells s b) off (bs.map (fun b => ~~~b)) := bankCells_setBank ..

theorem bankCells_program_other {s : State} (h : s.boot.bank ≤ 1) (off : Nat) (bs : List Byte) :
    bankCells (programBank s (standbyBank s) off bs) s.boot.bank = bankCells s s.boot.bank := bankCells_setBank_other h _

theorem stagedState_staged (s : State) (image : List Byte) :
    Flashed s (stagedState s image) ∧ (stagedState s image).boot.staged = true ∧
      bankBytes (stagedState s image) (standbyBank s) 0 image.length = image ∧
      (s.boot.bank ≤ 1 → bankCells (stagedState s image) s.boot.bank = bankCells s s.boot.bank) := by
  unfold stagedState completeBank
  obtain ⟨hclear, hempty, hother⟩ := clearBank_cleared s
  generalize clearBank s (standbyBank s) = u at *
  have hprog := programBank_flashed u (standbyBank s) 0 image
  have hcells := bankCells_program u (standbyBank s) 0 image
  have hkept (hb : s.boot.bank ≤ 1) : bankCells (programBank u (standbyBank s) 0 image) s.boot.bank = bankCells s s.boot.bank := by
    have h := bankCells_program_other (s := u) (hclear.bank ▸ hb) 0 image
    rw [standbyBank_flashed hclear, hclear.bank] at h
    rw [h, hother hb]
  generalize programBank u (standbyBank s) 0 image = v at *
  generalize (fun d : FlashDir => { d with
    banks := Nat.lor d.banks (2 ^ standbyBank s), verA := if standbyBank s = 0 then imgVersion image else d.verA
    verB := if standbyBank s = 1 then imgVersion image else d.verB }) = f
  have hdir := updateDir_flashed v f
  have hdcells := bankCells_updateDir v f
  generalize updateDir v f = w at *
  refine ⟨(hclear.trans hprog).trans (hdir.trans (.modBoot rfl rfl)), rfl, ?_, fun hb => ?_⟩
  · refine bankBytes_program (c := []) rfl ?_
    exact (hdcells _).trans (hcells.trans (by rw [hempty]))
  · exact (hdcells _).trans (hkept hb)

/-! ## FW_STAGE -/

section
variable {s : State} {slot len : Nat} {c : Cmd} {image : List Byte} (h : IsBegun s slot 0x0604 c) (hlen : len = Pkt.p1 c.packet)
  (hle : len ≤ 2 ^ 25) (hho : handingOver s = false) (hch : s.boot.chunking = false)
include h hlen hle hho hch

/-- A staging without flash failure is decided by the image's check. -/
theorem fwStage_eq : fwStage s slot image none =
    if verifyImage s (image.take len) then endCmd (stagedState s (image.take len)) slot {}
    else endCmd (fwFailed s 0xC9) slot { cls := 3, reason := 0xC9 } := by
  have hlen' : ¬2 ^ 25 < len := by omega
  unfold fwStage
  rw [h.1]
  dsimp only
  rw [← hlen, if_neg hlen', if_neg (by simp [hho, hch])]
  cases verifyImage s (image.take len) <;> rfl

theorem fwStage_stages (hv : verifyImage s (image.take len) = true) (hb : s.boot.bank ≤ 1) :
    Runs (.fwStage slot image none) s (fun t => t = { s with boot := t.boot, cmds := endedCmds s slot {} } ∧ t.boot.staged = true ∧
        t.boot.bank = s.boot.bank ∧ t.boot.phase = s.boot.phase ∧ bankCells t s.boot.bank = bankCells s s.boot.bank ∧
        bankBytes t (standbyBank s) 0 (image.take len).length = image.take len) := by
  have heq := (fwStage_eq h hlen hle hho hch (image := image)).trans (if_pos hv)
  obtain ⟨hfl, hst, hbytes, hkept⟩ := stagedState_staged s (image.take len)
  generalize stagedState s (image.take len) = u at *
  have hcmds : u.cmds = s.cmds := by rw [hfl.frame]
  have hfind : findCmd u slot = some c := by rw [findCmd, hcmds]; exact h.find
  have hended : endedCmds u slot {} = endedCmds s slot {} := by rw [hfl.frame]; rfl
  refine runs_eq rfl (heq.trans (endCmd_succeeds hfind h.uncut (Nat.zero_le 1))) ⟨?_, hst, hfl.bank, hfl.phase, hkept hb, hbytes⟩
  rw [hended, hfl.frame]

theorem fwStage_refuses (hv : verifyImage s (image.take len) = false) (hl : ∀ d ∈ queueCmds s c.queue, d.ord ≤ c.ord) :
    Runs (.fwStage slot image none) s (fun t =>
        t = { s with boot := { s.boot with fwReason := 0xC9 }, mem := t.mem, stepSt := t.stepSt, queues := t.queues
                     cmds := endedCmds s slot { cls := 3, reason := 0xC9 } }) := by
  have heq := (fwStage_eq h hlen hle hho hch (image := image)).trans (if_neg (by rw [hv]; decide))
  have hend := endCmd_failed (s := fwFailed s 0xC9) (e := { cls := 3, reason := 0xC9 }) h.find h.uncut rfl hl
  rw [chargeNow_frame] at hend
  exact runs_eq rfl (heq.trans hend) rfl

end

/-! ## FW_CHUNK and FW_COMMIT of management -/

/-- A request whose effect is on the boot flash is answered, and nothing else changes. -/
theorem respond_flashed {s u : State} (h : Flashed s u) (q : Req) (op cls reason : Nat) (body : List Byte) :
    respond u q op cls reason body = { s with
      out := (respond u q op cls reason body).out, mgmt := { s.mgmt with held := (respond u q op cls reason body).mgmt.held }
      boot := (respond u q op cls reason body).boot } := by
  rw [h.frame]
  rfl

theorem Flashed.answered {s u : State} (h : Flashed s u) {q : Req} (hf : Fresh s q) (op cls reason : Nat) (body : List Byte) :
    Answered s (respond u q op cls reason body) q op cls reason body :=
  respond_after hf.2 (by rw [h.frame]) (by rw [h.frame]; rfl) ..

section
variable {s : State} {q : Req} {body : List Byte} (hf : Fresh s q) (hp : s.boot.phase = 6)
include hf hp

theorem fwChunk_programs (hlen : body.length = 516) (hoff : leAt body 0 4 % 512 = 0) (hend : leAt body 0 4 + 512 ≤ 2 ^ 25)
    (hho : handingOver s = false) (hch : s.boot.chunking = true) (hb : s.boot.bank ≤ 1)
    (hwf : cellsWf (bankCells s (standbyBank s)) = true) :
    Runs (.fwChunk q body none) s (fun t => Answered s t q 0xB 0 0 [] ∧
      t = { s with out := t.out, mgmt := { s.mgmt with held := t.mgmt.held }, boot := t.boot } ∧
      bankCells t s.boot.bank = bankCells s s.boot.bank ∧
      bankBytes t (standbyBank s) (leAt body 0 4) 512 = body.drop 4 ∧
      ∀ a, (a < leAt body 0 4 ∨ leAt body 0 4 + 512 ≤ a) →
        readByte (bankCells t (standbyBank s)) a = readByte (bankCells s (standbyBank s)) a) := by
  have hdata : (body.drop 4).length = 512 := by rw [List.length_drop, hlen]
  have hgo : ¬(leAt body 0 4 % 512 ≠ 0 ∨ 2 ^ 25 < leAt body 0 4 + (body.drop 4).length) := by
    rw [hdata]
    omega
  have hp7 : ¬s.boot.phase = 7 := by omega
  have heq : execFwChunk q body none s
      = .next (respond (programBank s (standbyBank s) (leAt body 0 4) (body.drop 4)) q 0xB 0 0 []) := by
    rw [execFwChunk]
    dsimp only
    rw [show (body.length == 516 || (body.length == 1028 && q.source != 0)) = true by simp [hlen],
      serve_of_fresh hf (served_now hp rfl fun h => absurd h (by decide)), if_neg hgo, if_neg hp7, chunkReady, hho, hch]
    rfl
  have hfl := programBank_flashed s (standbyBank s) (leAt body 0 4) (body.drop 4)
  have hcells := bankCells_program s (standbyBank s) (leAt body 0 4) (body.drop 4)
  have hother := bankCells_program_other hb (leAt body 0 4) (body.drop 4)
  generalize programBank s (standbyBank s) (leAt body 0 4) (body.drop 4) = u at *
  refine runs_eq heq rfl ⟨hfl.answered hf .., ?_, hother, ?_, fun a ha => ?_⟩
  · exact respond_flashed hfl q 0xB 0 0 []
  · rw [← hdata]
    exact bankBytes_program hwf hcells
  · show readByte (bankCells u (standbyBank s)) a = _
    rw [hcells, readByte_writeBytes _ _ _ _ hwf, List.length_map, hdata, if_neg (by omega)]

/-- What a commit leaves of the boot state before it is answered: staged and complete, or its failure. -/
def committed (s : State) (image : List Byte) : State :=
  modBoot (completeBank (modBoot s (fun x => { x with chunking := false })) (standbyBank s) (imgVersion image))
    (fun x => { x with staged := true })

omit hf hp in
theorem committed_flashed (s : State) (image : List Byte) :
    Flashed s (committed s image) ∧ (committed s image).boot.staged = true ∧ (committed s image).boot.chunking = false := by
  unfold committed completeBank
  generalize (fun d : FlashDir => { d with
    banks := Nat.lor d.banks (2 ^ standbyBank s), verA := if standbyBank s = 0 then imgVersion image else d.verA
    verB := if standbyBank s = 1 then imgVersion image else d.verB }) = f
  have h0 : Flashed s (modBoot s (fun x => { x with chunking := false })) := .modBoot rfl rfl
  obtain ⟨d0, d1, hdir⟩ := updateDir_boot (modBoot s (fun x => { x with chunking := false })) f
  exact ⟨h0.trans ((updateDir_flashed _ f).trans (.modBoot rfl rfl)), rfl, by rw [hdir]; rfl⟩

omit hf hp in
theorem verifyImage_modBoot (s : State) (f : Boot → Boot) (b : List Byte) : verifyImage (modBoot s f) b = verifyImage s b := rfl

theorem execFwCommit_eq (hlen : body.length = 4) (hle : leAt body 0 4 ≤ 2 ^ 25) (hho : handingOver s = false) {image : List Byte}
    (hi : image = bankBytes s (standbyBank s) 0 (leAt body 0 4)) :
    execFwCommit q body none s = .next (if verifyImage s image then respond (committed s image) q 0xC 0 0 []
      else respond (modBoot s (fun x => { x with chunking := false, fwReason := 0xC9 })) q 0xC 3 0xC9 []) := by
  have hle' : ¬2 ^ 25 < leAt body 0 4 := by omega
  have hp7 : ¬s.boot.phase = 7 := by omega
  rw [execFwCommit]
  dsimp only
  rw [show (body.length == 4) = true by simp [hlen], serve_of_fresh hf (served_now hp rfl fun h => absurd h (by decide)),
    if_neg hle', if_neg hp7, commitReady, hho]
  simp only [Bool.false_eq_true, if_false]
  rw [← hi, verifyImage_modBoot]
  rfl

theorem fwCommit_commits (hlen : body.length = 4) (hle : leAt body 0 4 ≤ 2 ^ 25) (hho : handingOver s = false) {image : List Byte}
    (hi : image = bankBytes s (standbyBank s) 0 (leAt body 0 4)) (hv : verifyImage s image = true) :
    Runs (.fwCommit q body none) s (fun t => Answered s t q 0xC 0 0 [] ∧ t.boot.staged = true ∧
      t.boot.chunking = false ∧ t.boot.bank = s.boot.bank ∧
      t = { s with out := t.out, mgmt := { s.mgmt with held := t.mgmt.held }, boot := t.boot }) := by
  have heq := execFwCommit_eq hf hp hlen hle hho hi
  rw [if_pos hv] at heq
  obtain ⟨hfl, hst, hch⟩ := committed_flashed s image
  exact runs_eq heq rfl ⟨hfl.answered hf .., hst, hch, hfl.bank, respond_flashed hfl ..⟩

theorem fwCommit_refuses (hlen : body.length = 4) (hle : leAt body 0 4 ≤ 2 ^ 25) (hho : handingOver s = false) {image : List Byte}
    (hi : image = bankBytes s (standbyBank s) 0 (leAt body 0 4)) (hv : verifyImage s image = false) :
    Runs (.fwCommit q body none) s (fun t => Answered s t q 0xC 3 0xC9 [] ∧
      t = { s with out := t.out, mgmt := { s.mgmt with held := t.mgmt.held }
                   boot := { s.boot with chunking := false, fwReason := 0xC9 } }) := by
  have heq := execFwCommit_eq hf hp hlen hle hho hi
  rw [if_neg (by rw [hv]; decide)] at heq
  have hfl : Flashed s (modBoot s (fun x => { x with chunking := false, fwReason := 0xC9 })) := .modBoot rfl rfl
  exact runs_eq heq rfl ⟨hfl.answered hf .., rfl⟩

theorem mgmtFwHandover_begins (hlen : body.length = 1) (hle : leAt body 0 1 ≤ 1) (hby : s.boot.handBy = none)
    (hr : handoverRefusal s (leAt body 0 1) = none) :
    Runs (.mgmtFwHandover q body) s (fun t => t = { s with boot := { s.boot with handover := 1, handBy := some (.mgmt q) } }) := by
  have heq : execMgmtFwHandover q body s = .next (handoverBegin s (.mgmt q)) := by
    rw [execMgmtFwHandover, show (body.length == 1) = true by simp [hlen], serve_of_fresh hf (served_plain hp)]
    dsimp only
    rw [if_neg (by omega), hby, hr]
    rfl
  exact runs_eq heq rfl rfl

end

/-! ## Handover -/

section
variable {s : State} {slot : Nat} {c : Cmd} (h : IsBegun s slot 0x0605 c)
include h

theorem fwHandover_begins (hby : s.boot.handBy ≠ some (.host slot)) (hr : handoverRefusal s (Pkt.p0 c.packet) = none) :
    Runs (.fwHandover slot) s (fun t => t = { s with boot := { s.boot with handover := 1, handBy := some (.host slot) } }) := by
  have heq : fwHandover s slot = handoverBegin s (.host slot) := by
    unfold Machine.fwHandover
    rw [h.1]
    dsimp only
    rw [if_neg hby, hr]
  exact runs_eq rfl heq rfl

theorem fwHandover_refused (hby : s.boot.handBy ≠ some (.host slot)) (hr : handoverRefusal s (Pkt.p0 c.packet) = some 0xCD)
    (hl : ∀ d ∈ queueCmds s c.queue, d.ord ≤ c.ord) :
    Runs (.fwHandover slot) s (fun t =>
        t = { s with boot := { s.boot with fwReason := 0xCD }, queues := t.queues
                     cmds := endedCmds s slot { cls := 2, reason := 0xCD } }) := by
  have heq : fwHandover s slot = endCmd (fwFailed s 0xCD) slot { cls := 2, reason := 0xCD } := by
    unfold Machine.fwHandover
    rw [h.1]
    dsimp only
    rw [if_neg hby, hr]
    rfl
  have hend := endCmd_refused (s := fwFailed s 0xCD) (e := { cls := 2, reason := 0xCD }) h.find h.uncut rfl
    (.inr (by rw [h.opcode]; decide)) hl
  exact runs_eq rfl (heq.trans hend) rfl

theorem fwHandover_goes (hby : s.boot.handBy = some (.host slot)) : fwHandover s slot = handoverGo s := by
  unfold Machine.fwHandover
  rw [h.1]
  dsimp only
  rw [if_pos hby]

theorem fwHandover_waits (hby : s.boot.handBy = some (.host slot)) (h1 : s.boot.handover = 1) (hpt : handoverPoint s = false) :
    Runs (.fwHandover slot) s (fun t => t = { s with boot := { s.boot with handover := 2 } }) := by
  have heq : handoverGo s = modBoot s (fun b => { b with handover := 2 }) := by
    unfold handoverGo
    rw [if_pos (.inl h1), if_neg (by rw [hpt]; decide)]
  exact runs_eq rfl ((fwHandover_goes h hby).trans heq) rfl

/-- The processors of the dies and of the steward after the switch. -/
def switchedProcs (s : State) : Tab Nat := (List.range 9).foldl (fun t d => tset 0 t d (1 - tget 0 s.cpActive d)) s.cpActive

omit h in
theorem tget_switchedProcs (s : State) {d : Nat} (hd : d < 9) : tget 0 (switchedProcs s) d = 1 - tget 0 s.cpActive d := by
  have hfold (n : Nat) (t : Tab Nat) : tget 0 ((List.range n).foldl (fun t d => tset 0 t d (1 - tget 0 s.cpActive d)) t) d
      = if d < n then 1 - tget 0 s.cpActive d else tget 0 t d := by
    induction n with
    | zero => rfl
    | succ n ih =>
      rw [List.range_succ, List.foldl_append, List.foldl_cons, List.foldl_nil, tget_tset, ih]
      by_cases hn : d = n
      · subst hn
        simp
      · rw [if_neg hn]
        exact ite_congr (propext (by omega)) (fun _ => rfl) fun _ => rfl
  rw [switchedProcs, hfold, if_pos hd]

/-- What the switch does before whoever asked for it is answered. -/
def switchedState (s : State) : State :=
  modBoot (updateDir { s with cpActive := switchedProcs s } (fun d => { d with active := standbyBank s, tries := 0 }))
    (fun x => { x with
      bank := standbyBank s
      svn := imgSvn (bankBytes (updateDir { s with cpActive := switchedProcs s } (fun d => { d with active := standbyBank s, tries := 0 }))
        (standbyBank s) 0 512)
      staged := false, handover := 4, handBy := none })

omit h in
theorem handoverSwitch_eq (s : State) : handoverSwitch s = handoverAnswer (switchedState s) s.boot.handBy := rfl

omit h in
theorem switchedState_frame (s : State) :
    switchedState s = { s with boot := (switchedState s).boot, cpActive := switchedProcs s } ∧
      (switchedState s).boot.bank = standbyBank s ∧ (switchedState s).boot.handover = 4 ∧
      (switchedState s).boot.handBy = none ∧ (switchedState s).boot.staged = false := by
  refine ⟨?_, rfl, rfl, rfl, rfl⟩
  unfold switchedState
  generalize switchedProcs s = procs
  rw [(updateDir_flashed { s with cpActive := procs } (fun d => { d with active := standbyBank s, tries := 0 })).frame]
  rfl

theorem fwHandover_switches (hby : s.boot.handBy = some (.host slot)) (h12 : s.boot.handover = 1 ∨ s.boot.handover = 2)
    (hpt : handoverPoint s = true) :
    Runs (.fwHandover slot) s (fun t => t = { s with boot := t.boot, cpActive := t.cpActive, cmds := endedCmds s slot {} } ∧
        t.boot.bank = 1 - s.boot.bank ∧ t.boot.handover = 4 ∧ t.boot.handBy = none ∧ t.boot.staged = false ∧
        ∀ d, d < 9 → tget 0 t.cpActive d = 1 - tget 0 s.cpActive d) := by
  have heq : handoverGo s = endCmd (switchedState s) slot {} := by
    unfold handoverGo
    rw [if_pos h12, if_pos hpt, handoverSwitch_eq, hby]
    rfl
  obtain ⟨hfr, hbank, hho, hhby, hst⟩ := switchedState_frame s
  have hproc := fun d hd => tget_switchedProcs s (d := d) hd
  generalize switchedState s = u at *
  generalize switchedProcs s = procs at *
  have hcmds : u.cmds = s.cmds := by rw [hfr]
  have hfind : findCmd u slot = some c := by rw [findCmd, hcmds]; exact h.find
  have hended : endedCmds u slot {} = endedCmds s slot {} := by rw [hfr]; rfl
  have hcp : u.cpActive = procs := by rw [hfr]
  refine runs_eq rfl ((fwHandover_goes h hby).trans (heq.trans (endCmd_succeeds hfind h.uncut (Nat.zero_le 1))))
    ⟨?_, hbank, hho, hhby, hst, fun d hd => ?_⟩
  · rw [hended, hfr]
  · rw [← hproc d hd, ← hcp]

end

theorem handoverTimeout_fails {s : State} (h12 : s.boot.handover = 1 ∨ s.boot.handover = 2) (hby : s.boot.handBy = none) :
    Runs .handoverTimeout s (fun t => t = { s with boot := { s.boot with handover := 5, fwReason := 0xCD } }) := by
  have heq : handoverFail s = modBoot s (fun b => { b with handover := 5, fwReason := 0xCD, handBy := none }) := by
    unfold handoverFail
    rw [hby]
  refine runs_eq rfl ((if_pos h12).trans heq) ?_
  rw [modBoot, ← hby]

/-- Settles O42: staging, chunks, commits and the handover in turn. -/
theorem firmware : Obligations.Firmware :=
  ⟨fun _ _ _ _ _ h hlen hle hho hch => ⟨fun hv hb => fwStage_stages h hlen hle hho hch hv hb,
      fun hv hl => fwStage_refuses h hlen hle hho hch hv hl⟩,
    fun _ _ _ hf hp hlen hoff hend hho hch hb hwf => fwChunk_programs hf hp hlen hoff hend hho hch hb hwf,
    fun _ _ _ _ hf hp hlen hle hho hi => ⟨fun hv => fwCommit_commits hf hp hlen hle hho hi hv,
      fun hv => fwCommit_refuses hf hp hlen hle hho hi hv⟩,
    fun _ _ _ h => ⟨fun hby hr => fwHandover_begins h hby hr, fun hby hr hl => fwHandover_refused h hby hr hl,
      fun hby h1 hpt => fwHandover_waits h hby h1 hpt, fun hby h12 hpt => fwHandover_switches h hby h12 hpt⟩,
    fun _ _ _ hf hp hlen hle hby hr => mgmtFwHandover_begins hf hp hlen hle hby hr,
    fun _ h12 hby => handoverTimeout_fails h12 hby⟩

end Sys2Proof.Machine
end

section
/-! # Partitions are created, enabled and destroyed (10/R326-R331) -/

namespace Sys2Proof.Machine

/-! ## Crates at zero -/

/-- Nothing is listed of a crate: no byte, no tag, no open mark, no faulty word. -/
structure Blank (m : Mem) (k : Nat) : Prop where
  cells : ∀ x ∈ m.cells, ¬(k * 4096 ≤ x.1 ∧ x.1 < (k + 1) * 4096)
  tag : tget Tag.zero m.tags k = Tag.zero
  shut : k ∉ m.opened
  good : ∀ x ∈ m.bad, x / 64 ≠ k

theorem readFrom_none {a n : Nat} {c : List Host.Cell} (h : ∀ x ∈ c, ¬(a ≤ x.1 ∧ x.1 < a + n)) :
    readFrom a n c = List.replicate n 0#8 := by
  induction n generalizing a with
  | zero => cases c <;> rfl
  | succ n ih =>
    have hnext := ih (a := a + 1) fun x hx => by have := h x hx; omega
    cases c with
    | nil => rw [readFrom, hnext, List.replicate_succ]
    | cons y c =>
      obtain ⟨x, b⟩ := y
      have hx : x ≠ a := fun e => h (x, b) List.mem_cons_self ⟨Nat.le_of_eq e.symm, by simp [e]⟩
      rw [readFrom, if_neg hx, hnext, List.replicate_succ]

theorem Blank.bytes {m : Mem} {k : Nat} (h : Blank m k) : crateBytes m k = zeroPayload := by
  refine readFrom_none fun x hx hr => h.cells x ((List.dropWhile_suffix _).mem hx) ⟨hr.1, ?_⟩
  rw [Nat.add_mul, Nat.one_mul]
  exact hr.2

theorem Blank.tagZero {m : Mem} {k : Nat} (h : Blank m k) : crateTag m k = Tag.zero := by
  have hbad : crateBad m k = false := List.any_eq_false.mpr fun x hx => by simpa using h.good x hx
  have hopen : m.opened.contains k = false := by simpa using h.shut
  rw [crateTag, hopen, hbad, h.tag]
  rfl

/-- A memory that lists the same crates has the same blank ones. -/
theorem Blank.congr {m n : Mem} {k : Nat} (h : Blank m k) (hc : n.cells = m.cells) (ht : n.tags = m.tags) (ho : n.opened = m.opened)
    (hb : n.bad = m.bad) : Blank n k :=
  ⟨hc ▸ h.cells, ht ▸ h.tag, ho ▸ h.shut, hb ▸ h.good⟩

theorem Blank.zeroCrates {m : Mem} {k : Nat} (h : Blank m k) (a n : Nat) : Blank (zeroCrates m a n) k where
  cells x hx := h.cells x (List.mem_filter.mp hx).1
  tag := by
    rw [tag_zeroCrates, h.tag]
    split <;> rfl
  shut hx := h.shut (List.mem_filter.mp hx).1
  good x hx := h.good x (List.mem_filter.mp hx).1

theorem blank_zeroCrates (m : Mem) {a n k : Nat} (hk : a ≤ k ∧ k < a + n) : Blank (zeroCrates m a n) k where
  cells x hx hr := by
    have := (List.mem_filter.mp hx).2
    simp only [Bool.not_eq_true', Bool.and_eq_false_iff, decide_eq_false_iff_not] at this
    omega
  tag := by rw [tag_zeroCrates, if_pos hk]
  shut hx := by
    have := (List.mem_filter.mp hx).2
    simp only [Bool.not_eq_true', Bool.and_eq_false_iff, decide_eq_false_iff_not] at this
    omega
  good x hx he := by
    have := (List.mem_filter.mp hx).2
    simp only [Bool.not_eq_true', Bool.and_eq_false_iff, decide_eq_false_iff_not] at this
    omega

/-! ## The fill of dies -/

theorem Blank.zeroPlain {s : State} {k : Nat} (h : Blank s.mem k) (die : Nat) : Blank (zeroPlain s die).mem k :=
  (h.zeroCrates (scratchBase (die * 128) / 4096) (128 * 2048)).zeroCrates (sliceBase (die * 32) / 4096) (32 * 2048)

theorem Blank.zeroTiers {m : Mem} {k : Nat} (h : Blank m k) (die : Nat) : Blank (zeroTiers m die) k :=
  ((h.zeroCrates _ _).zeroCrates _ _).zeroCrates _ _

theorem blank_zeroTiers (m : Mem) {die k : Nat} (hk : die * 0x1000000 ≤ k ∧ k < (die + 1) * 0x1000000) : Blank (zeroTiers m die) k :=
  ((blank_zeroCrates m (by omega)).zeroCrates _ _).zeroCrates _ _

theorem Blank.withSlices {m : Mem} {k : Nat} (h : Blank m k) (x : Tab Slice) : Blank { m with slices := x } k :=
  h.congr rfl rfl rfl rfl

theorem Blank.flushDie {m : Mem} {k : Nat} (h : Blank m k) (die : Nat) : Blank (flushDie m die) k := h.withSlices _

theorem fillDie_eq (s : State) (die : Nat) :
    fillDie s die = zeroPlain (setMem s (zeroTiers (flushDie s.mem die) die)) die := rfl

theorem Blank.fillDie {s : State} {k : Nat} (h : Blank s.mem k) (die : Nat) : Blank (fillDie s die).mem k := by
  have hz := (h.flushDie die).zeroTiers die
  rw [fillDie_eq]
  generalize Machine.zeroTiers (Machine.flushDie s.mem die) die = m at hz ⊢
  exact Blank.zeroPlain (s := setMem s m) hz die

theorem blank_fillDie (s : State) {die k : Nat} (hk : die * 0x1000000 ≤ k ∧ k < (die + 1) * 0x1000000) : Blank (fillDie s die).mem k := by
  have hz := blank_zeroTiers (flushDie s.mem die) hk
  rw [fillDie_eq]
  generalize zeroTiers (flushDie s.mem die) die = m at hz ⊢
  exact Blank.zeroPlain (s := setMem s m) hz die

/-- Every die of a list is at zero after all of them are filled. -/
theorem blank_fillDies {dies : List Nat} {die k : Nat} (hd : die ∈ dies) (hk : die * 0x1000000 ≤ k ∧ k < (die + 1) * 0x1000000) :
    ∀ s : State, Blank (dies.foldl fillDie s).mem k := by
  have hkeep (l : List Nat) : ∀ s : State, Blank s.mem k → Blank (l.foldl fillDie s).mem k := by
    induction l with
    | nil => exact fun _ h => h
    | cons d l ih => exact fun s h => ih _ (h.fillDie d)
  induction dies with
  | nil => exact absurd hd List.not_mem_nil
  | cons d l ih =>
    intro s
    rcases List.mem_cons.mp hd with rfl | hd
    · exact hkeep l _ (blank_fillDie s hk)
    · exact ih hd _

/-! ## PART_CREATE -/

theorem Filled.lifecycle {s u : State} (h : Filled s u) : lifecycle u = lifecycle s := by
  rw [h]
  rfl

/-- A created partition: its block, and every crate of its dies at zero. -/
theorem makePart_made (s : State) (t i p : Nat) (dies : List Nat) : ∃ u x, Filled s u ∧ makePart s t i p dies = setPart u p x ∧
    x.state = 2 ∧ x.dies = dies ∧ x.templ = t ∧ x.inst = i ∧ x.life = lifecycle s ∧ x.enable = false ∧
    ∀ d ∈ dies, ∀ k, d * 0x1000000 ≤ k → k < (d + 1) * 0x1000000 → Blank u.mem k := by
  have hf : Filled s (dies.foldl fillDie (drawKeys s).1) := (drawKeys_filled s).trans (fillDies_filled dies _)
  exact ⟨dies.foldl fillDie (drawKeys s).1,
    { dies, inst := i, templ := t, state := 2, life := lifecycle (dies.foldl fillDie (drawKeys s).1)
      keyA := (drawKeys s).2.1, keyB := (drawKeys s).2.2 },
    hf, rfl, rfl, rfl, rfl, rfl, hf.lifecycle, rfl, fun d hd k h1 h2 => blank_fillDies hd ⟨h1, h2⟩ _⟩

section
variable {s : State} {slot t i : Nat} {c : Cmd} {dies : List Nat} {p : Nat} (h : IsBegun s slot 0x0801 c)
  (ht : t = Pkt.p0 c.packet % 8) (hi : i = Word.bitsOf (Pkt.p0 c.packet) 7 4) (hdies : dies = instDies s t i)
  (hp : dies.head? = some p)
include h ht hi hdies hp

theorem partCreate_eq : partCreate s slot =
    if s.fuse.prov = 3 then failCreate s slot 0x2B dies
    else if !templAllowed s t then failCreate s slot 0x22 dies
    else if s.parts.any (fun x => x.2.state != 0 && x.2.dies.any dies.contains) then failCreate s slot 0x23 dies
    else endCmd (makePart s t i p dies) slot { result := p } := by
  obtain ⟨rest, hrest⟩ : ∃ rest, dies = p :: rest := by
    cases dies with
    | nil => exact nomatch hp
    | cons a l => exact ⟨l, by rw [show a = p by simpa using hp]⟩
  unfold Machine.partCreate
  rw [h.1]
  dsimp only
  rw [← ht, ← hi, ← hdies, hrest]

omit h ht hi hdies hp in
/-- A partition that lives holds one of the dies. -/
theorem dies_taken_iff : s.parts.any (fun x => x.2.state != 0 && x.2.dies.any dies.contains) = true ↔
    ∃ x ∈ s.parts, x.2.state ≠ 0 ∧ ∃ d ∈ x.2.dies, d ∈ dies := by
  simp

theorem partCreate_creates (hprov : s.fuse.prov ≠ 3) (hallow : templAllowed s t = true)
    (hfree : ∀ x ∈ s.parts, x.2.state ≠ 0 → ∀ d ∈ x.2.dies, d ∉ dies) :
    Runs (.partCreate slot) s (fun u =>
        u = { s with parts := u.parts, mem := u.mem, cores := u.cores, freeCtr := u.freeCtr, cmds := endedCmds s slot { result := p } } ∧
        (getPart u p).state = 2 ∧ (getPart u p).dies = dies ∧ (getPart u p).templ = t ∧ (getPart u p).inst = i ∧
        (getPart u p).life = lifecycle s ∧ (getPart u p).enable = false ∧ (∀ q, q ≠ p → getPart u q = getPart s q) ∧
        (∀ d ∈ dies, ∀ k, d * 0x1000000 ≤ k → k < (d + 1) * 0x1000000 →
          crateBytes u.mem k = zeroPayload ∧ crateTag u.mem k = Tag.zero)) := by
  have hnot : ¬s.parts.any (fun x => x.2.state != 0 && x.2.dies.any dies.contains) = true := by
    rw [dies_taken_iff]
    rintro ⟨x, hx, h0, d, hd, hin⟩
    exact hfree x hx h0 d hd hin
  have heq := partCreate_eq h ht hi hdies hp
  rw [if_neg hprov, if_neg (by rw [hallow]; decide), if_neg hnot] at heq
  obtain ⟨u, x, hu, hm, hstate, hd, htempl, hinst, hlife, hen, hblank⟩ := makePart_made s t i p dies
  rw [hm] at heq
  have hfind : findCmd (setPart u p x) slot = some c := by
    have hc : (setPart u p x).cmds = s.cmds := by rw [setPart_cmds, hu]
    rw [findCmd, hc]
    exact h.find
  have hended : endedCmds (setPart u p x) slot { result := p } = endedCmds s slot { result := p } := by
    rw [hu]
    rfl
  have hself : getPart { setPart u p x with cmds := endedCmds s slot { result := p } } p = x := (getPart_setPart u p x p).trans (if_pos rfl)
  have hend := endCmd_succeeds (e := { result := p }) hfind h.uncut (Nat.zero_le 1)
  rw [hended] at hend
  refine runs_eq rfl (heq.trans hend) ?_
  rw [hself]
  refine ⟨?_, hstate, hd, htempl, hinst, hlife, hen, fun q hq => ?_, fun d hd k h1 h2 => ?_⟩
  · rw [hu]
    rfl
  · refine (getPart_setPart u p x q).trans ((if_neg hq).trans ?_)
    rw [hu]
    rfl
  · have hk : Blank u.mem k := hblank d hd k h1 h2
    exact ⟨hk.bytes, hk.tagZero⟩

omit h ht hi hdies hp in
theorem getPart_refused (u : State) (cmds : List Cmd) (q : Nat) (f : Queue → Queue) (k : Nat) :
    getPart (modQueue { u with cmds } q f) k = getPart u k := rfl

/-- A failed creation leaves its reason in the block it names, and ends. -/
theorem partCreate_fails {r : Nat} (heq : partCreate s slot = failCreate s slot r dies) (hl : ∀ d ∈ queueCmds s c.queue, d.ord ≤ c.ord) :
    Runs (.partCreate slot) s (fun u =>
        u = { s with parts := u.parts, queues := u.queues, cmds := endedCmds s slot { cls := 2, reason := r } } ∧
        getPart u p = { getPart s p with reason := r } ∧ ∀ q, q ≠ p → getPart u q = getPart s q) := by
  have hfail : failCreate s slot r dies = refuseCmd (modPart s p (fun x => { x with reason := r })) slot r := by
    cases dies with
    | nil => exact nomatch hp
    | cons a l =>
      have ha : a = p := by simpa using hp
      subst ha
      rfl
  have hb : IsBegun (modPart s p (fun x => { x with reason := r })) slot 0x0801 c := h
  have hend := refuseCmd_last hb (.inr (by decide)) hl r
  refine runs_eq rfl (heq.trans (hfail.trans hend)) ⟨rfl, ?_, fun q hq => ?_⟩
  · exact (getPart_refused ..).trans ((getPart_modPart s p _ p).trans (if_pos rfl))
  · exact (getPart_refused ..).trans ((getPart_modPart s p _ q).trans (if_neg hq))

theorem partCreate_refused (hl : ∀ d ∈ queueCmds s c.queue, d.ord ≤ c.ord) {r : Nat}
    (hr : s.fuse.prov = 3 ∧ r = 0x2B ∨ s.fuse.prov ≠ 3 ∧ templAllowed s t = false ∧ r = 0x22 ∨
        s.fuse.prov ≠ 3 ∧ templAllowed s t = true ∧ (∃ x ∈ s.parts, x.2.state ≠ 0 ∧ ∃ d ∈ x.2.dies, d ∈ dies) ∧ r = 0x23) :
    Runs (.partCreate slot) s (fun u =>
        u = { s with parts := u.parts, queues := u.queues, cmds := endedCmds s slot { cls := 2, reason := r } } ∧
        getPart u p = { getPart s p with reason := r } ∧ ∀ q, q ≠ p → getPart u q = getPart s q) := by
  refine partCreate_fails h ht hi hdies hp ?_ hl
  rw [partCreate_eq h ht hi hdies hp]
  rcases hr with ⟨hprov, rfl⟩ | ⟨hprov, hallow, rfl⟩ | ⟨hprov, hallow, htaken, rfl⟩
  · rw [if_pos hprov]
  · rw [if_neg hprov, if_pos (by rw [hallow]; rfl)]
  · rw [if_neg hprov, if_neg (by rw [hallow]; decide), if_pos (dies_taken_iff.mpr htaken)]

end

/-! ## PART_ENABLE -/

theorem modPart_only (s : State) (p : Nat) (f : Part → Part) :
    modPart s p f = { s with parts := (modPart s p f).parts } ∧ (∀ q, q ≠ p → getPart (modPart s p f) q = getPart s q) ∧
      getPart (modPart s p f) p = f (getPart s p) :=
  ⟨rfl, fun q hq => by simp [hq], by simp⟩

/-- The block of a partition after a write of its ENABLE. -/
def enabledPart (s : State) (x : Part) : Part :=
  if x.state ≠ 2 then { x with reason := 0x20 }
  else if !templAllowed s x.templ && x.life == lifecycle s then { x with reason := 0x22 }
  else if x.life ≠ lifecycle s then { x with reason := 0x2B }
  else { x with state := 3, enable := true }

theorem partEnable_eq {s : State} {p : Nat} {v : W64} (hp : p < 8) (hv : rbit v 63 = true) (hen : (getPart s p).enable = false) :
    partEnable s p v = modPart s p (fun _ => enabledPart s (getPart s p)) := by
  have hgo : ¬(decide (8 ≤ p) || !rbit v 63 || (getPart s p).enable) = true := by simp [hp, hv, hen]
  unfold Machine.partEnable enabledPart
  dsimp only
  rw [if_neg hgo]
  split
  · rfl
  · split
    · rfl
    · split <;> rfl

theorem partEnable_enables {s : State} {p : Nat} {v : W64} {x : Part} (ho : hostOpen s = true) (hp : p < 8) (hv : rbit v 63 = true)
    (hx : x = getPart s p) (hen : x.enable = false) :
    Runs (.partEnable p v) s (fun u => u = { s with parts := u.parts } ∧ (∀ q, q ≠ p → getPart u q = getPart s q) ∧
      (x.state ≠ 2 → getPart u p = { x with reason := 0x20 }) ∧
      (x.state = 2 → x.life = lifecycle s → templAllowed s x.templ = true → getPart u p = { x with state := 3, enable := true }) ∧
      (x.state = 2 → x.life ≠ lifecycle s → getPart u p = { x with reason := 0x2B }) ∧
      (x.state = 2 → x.life = lifecycle s → templAllowed s x.templ = false → getPart u p = { x with reason := 0x22 })) := by
  subst hx
  obtain ⟨hf, hother, hself⟩ := modPart_only s p (fun _ => enabledPart s (getPart s p))
  refine runs_host_eq ho rfl (partEnable_eq hp hv hen) ⟨hf, hother, fun h2 => ?_, fun h2 hl ha => ?_, fun h2 hl => ?_, fun h2 hl ha => ?_⟩
  · rw [hself, enabledPart, if_pos h2]
  · rw [hself, enabledPart, if_neg (Classical.not_not.mpr h2), if_neg (by simp [ha]), if_neg (Classical.not_not.mpr hl)]
  · rw [hself, enabledPart, if_neg (Classical.not_not.mpr h2), if_neg (by simp [hl]), if_pos hl]
  · rw [hself, enabledPart, if_neg (Classical.not_not.mpr h2), if_pos (by simp [ha, hl])]

/-! ## PART_DESTROY -/

/-- A window of partition `p` is closed. -/
def shutWin (p : Nat) (w : Nat × W64) : Nat × W64 := if rbit w.2 63 && rbits w.2 58 56 == p then (w.1, rset w.2 63 63 0) else w

theorem shutWin_shut (p : Nat) (w : Nat × W64) (h : rbit (shutWin p w).2 63 = true) : rbits (shutWin p w).2 58 56 ≠ p := by
  unfold shutWin at h ⊢
  split at h
  · rw [rbit_rset_top] at h
    exact absurd h (by decide)
  · next hn =>
    rw [if_neg hn]
    intro he
    exact hn (by rw [h, he]; simp)

/-- `t` is `s` but for its memory and the stores of its cores. -/
def Zeroed (s t : State) : Prop := t = { s with mem := t.mem, cores := t.cores }

theorem Zeroed.trans {s t u : State} (h : Zeroed s t) (g : Zeroed t u) : Zeroed s u := by
  unfold Zeroed at *
  rw [h] at g
  exact g

theorem Zeroed.withMem (s : State) (m : Mem) : Zeroed s { s with mem := m } := rfl
theorem Zeroed.withCores (s : State) (c : Tab Core) : Zeroed s { s with cores := c } := rfl

theorem zeroDies_zeroed (l : List Nat) (s : State) :
    Zeroed s (l.foldl (fun s d => zeroPlain (modMem s (fun m => scratchDie m d)) d) s) := by
  induction l generalizing s with
  | nil => exact rfl
  | cons d l ih => exact ((Zeroed.withMem s _).trans ((Zeroed.withMem _ _).trans (.withCores _ _))).trans (ih _)

/-- A partition that is taken down: its block is free, its dies at zero, its windows closed. -/
theorem dropPart_eq (s : State) (p : Nat) : ∃ u wins, dropPart s p = setPart u p {} ∧
    Zeroed { s with pcie := { s.pcie with aperWin := wins } } u ∧ ∀ e ∈ wins, rbit e.2 63 = true → rbits e.2 58 56 ≠ p := by
  refine ⟨_, _, rfl, zeroDies_zeroed _ _, fun e he => ?_⟩
  obtain ⟨he, -⟩ := List.mem_filter.mp he
  obtain ⟨w, -, rfl⟩ := List.mem_map.mp he
  exact shutWin_shut p w

section
variable {s : State} {slot : Nat} {c : Cmd} {p : Nat} (h : IsBegun s slot 0x0802 c) (hp : p = Pkt.p0 c.packet % 8)
include h hp

theorem partDestroy_eq : partDestroy s slot =
    if (getPart s p).state = 0 then refuseCmd s slot 0x20
    else if partContexts s p ≠ 0 then refuseCmd s slot 0x29
    else endCmd (dropPart s p) slot {} := by
  unfold Machine.partDestroy
  rw [h.1]
  dsimp only
  rw [← hp]

theorem partDestroy_destroys (hst : (getPart s p).state ≠ 0) (hctx : partContexts s p = 0) :
    Runs (.partDestroy slot) s (fun u =>
        u = { s with parts := u.parts, mem := u.mem, cores := u.cores, pcie := { s.pcie with aperWin := u.pcie.aperWin }
                     cmds := endedCmds s slot {} } ∧
        getPart u p = {} ∧ (∀ q, q ≠ p → getPart u q = getPart s q) ∧
        ∀ e ∈ u.pcie.aperWin, rbit e.2 63 = true → rbits e.2 58 56 ≠ p) := by
  have heq := partDestroy_eq h hp
  rw [if_neg hst, if_neg (by omega)] at heq
  obtain ⟨u, wins, hd, hu, hw⟩ := dropPart_eq s p
  rw [hd] at heq
  have hfind : findCmd (setPart u p {}) slot = some c := by
    have hc : (setPart u p {}).cmds = s.cmds := by rw [setPart_cmds, hu]
    rw [findCmd, hc]
    exact h.find
  have hended : endedCmds (setPart u p {}) slot {} = endedCmds s slot {} := by
    rw [hu]
    rfl
  have hend := endCmd_succeeds (e := {}) hfind h.uncut (Nat.zero_le 1)
  rw [hended] at hend
  refine runs_eq rfl (heq.trans hend) ⟨?_, (getPart_setPart u p {} p).trans (if_pos rfl), fun q hq => ?_, ?_⟩
  · rw [hu]
    rfl
  · refine (getPart_setPart u p {} q).trans ((if_neg hq).trans ?_)
    rw [hu]
    rfl
  · have hpc : u.pcie.aperWin = wins := by rw [hu]
    show ∀ e ∈ u.pcie.aperWin, _
    rw [hpc]
    exact hw

theorem partDestroy_refused (hl : ∀ d ∈ queueCmds s c.queue, d.ord ≤ c.ord) {r : Nat}
    (hr : (getPart s p).state = 0 ∧ r = 0x20 ∨ (getPart s p).state ≠ 0 ∧ partContexts s p ≠ 0 ∧ r = 0x29) :
    Runs (.partDestroy slot) s (fun u => u = { s with queues := u.queues, cmds := endedCmds s slot { cls := 2, reason := r } }) := by
  have heq : partDestroy s slot = refuseCmd s slot r := by
    rw [partDestroy_eq h hp]
    rcases hr with ⟨h0, rfl⟩ | ⟨h0, hctx, rfl⟩
    · rw [if_pos h0]
    · rw [if_neg h0, if_pos hctx]
  exact runs_eq rfl (heq.trans (refuseCmd_last h (.inr (by decide)) hl r)) rfl

end

/-- Settles O36: creation, enable and destruction, each with its refusals. -/
theorem partitions : Obligations.Partitions :=
  ⟨fun _ _ _ _ _ _ _ h ht hi hdies hp => ⟨fun hprov hallow hfree => partCreate_creates h ht hi hdies hp hprov hallow hfree,
      fun hl _ hr => partCreate_refused h ht hi hdies hp hl hr⟩,
    fun _ _ _ _ ho hp hv hx hen => partEnable_enables ho hp hv hx hen,
    fun _ _ _ _ h hp => ⟨fun hst hctx => partDestroy_destroys h hp hst hctx, fun hl _ hr => partDestroy_refused h hp hl hr⟩⟩

end Sys2Proof.Machine
end

section
/-! # What a failure changes, and how a frame is taken (11/R361, R368-R374)

A fabric failure stops launches and commands and marks collectives; `Failed` says what it never touches: contexts,
partitions, sessions, ports, the boot state. `taken` is the state in which a frame's effect begins. -/

namespace Sys2Proof.Machine

/-! ## Failures -/

/-- `t` is `s` but for what the failure of transfers, launches, commands and collectives changes. -/
def Failed (s t : State) : Prop :=
  t = { s with mem := t.mem, stepSt := t.stepSt, events := t.events, ledger := t.ledger, cores := t.cores, launches := t.launches
               cmds := t.cmds, queues := t.queues, groups := t.groups
               fab := { s.fab with ops := t.fab.ops, sendq := t.fab.sendq, bindq := t.fab.bindq } }

theorem Failed.refl (s : State) : Failed s s := rfl

theorem Failed.trans {s t u : State} (h : Failed s t) (g : Failed t u) : Failed s u := by
  unfold Failed at *
  rw [h] at g
  exact g

theorem Reported.failed {s t : State} (h : Reported s t) : Failed s t := by
  unfold Reported at h
  unfold Failed
  rw [h]

theorem Failed.ite {s t u : State} {p : Prop} [Decidable p] (h : Failed s t) (g : Failed s u) : Failed s (if p then t else u) := by
  split
  · exact h
  · exact g

theorem Failed.foldl {α : Type} {f : State → α → State} (hf : ∀ s a, Failed s (f s a)) (l : List α) (s : State) :
    Failed s (l.foldl f s) := by
  induction l generalizing s with
  | nil => exact .refl s
  | cons a l ih => exact (hf s a).trans (ih _)

theorem Failed.sessions {s t : State} (h : Failed s t) : t.fab.sessions = s.fab.sessions := by rw [h]
theorem Failed.getSession {s t : State} (h : Failed s t) (n : Nat) : getSession t n = getSession s n := by
  unfold Machine.getSession
  rw [h.sessions]

theorem Failed.withMem (s : State) (x : Mem) : Failed s { s with mem := x } := rfl
theorem Failed.withStep (s : State) (x : StepSt) : Failed s { s with stepSt := x } := rfl
theorem Failed.withCores (s : State) (x : Tab Core) : Failed s { s with cores := x } := rfl
theorem Failed.withLaunches (s : State) (x : Tab Launch) : Failed s { s with launches := x } := rfl
theorem Failed.withCmds (s : State) (x : List Cmd) : Failed s { s with cmds := x } := rfl
theorem Failed.withQueues (s : State) (x : Tab Queue) : Failed s { s with queues := x } := rfl
theorem Failed.withGroups (s : State) (x : Tab Group) : Failed s { s with groups := x } := rfl
theorem Failed.withOps (s : State) (x : Tab (Option Op)) : Failed s { s with fab := { s.fab with ops := x } } := rfl
theorem Failed.withFrames (s : State) (x y : List Item) : Failed s { s with fab := { s.fab with sendq := x, bindq := y } } := rfl

theorem modCore_failed (s : State) (c : Nat) (f : Core → Core) : Failed s (modCore s c f) := .withCores s _
theorem modLaunch_failed (s : State) (l : Nat) (f : Launch → Launch) : Failed s (modLaunch s l f) := .withLaunches s _
theorem modQueue_failed (s : State) (q : Nat) (f : Queue → Queue) : Failed s (modQueue s q f) := .withQueues s _
theorem modCmd_failed (s : State) (n : Nat) (f : Cmd → Cmd) : Failed s (modCmd s n f) := .withCmds s _
theorem modGroup_failed (s : State) (g : Nat) (f : Group → Group) : Failed s (modGroup s g f) := .withGroups s _
theorem setMem_failed (s : State) (m : Mem) : Failed s (setMem s m) := .withMem s _
theorem setOp_failed (s : State) (id : Nat) (o : Option Op) : Failed s (setOp s id o) := .withOps s _
theorem modTransfer_failed (s : State) (core id : Nat) (f : Transfer → Transfer) : Failed s (modTransfer s core id f) := modCore_failed ..
theorem enqueue_failed (s : State) (i : Item) : Failed s (enqueue s i) := .withFrames s _ _
theorem raiseEvent_failed (s : State) (e : Event) (die : Option Nat) : Failed s (raiseEvent s e die) := (raiseEvent_raised s e die).reported.failed

theorem chargeStep_failed (s : State) (n reason : Nat) : Failed s (chargeStep s n reason) := by
  rw [chargeStep_frame]
  rfl

theorem chargeIf_failed (s : State) (b : Bool) (n reason : Nat) : Failed s (if b then chargeStep s n reason else s) :=
  .ite (chargeStep_failed ..) (.refl s)

theorem stopLaunch_failed (s : State) (l cls reason : Nat) : Failed s (stopLaunch s l cls reason) :=
  (modLaunch_failed s l _).trans (.foldl (fun _ _ => modCore_failed ..) _ _)

theorem failLaunch_failed (s : State) (core st idx reason : Nat) : Failed s (failLaunch s core st idx reason) := by
  unfold failLaunch
  split
  · exact .refl s
  · exact (modLaunch_failed ..).trans (stopLaunch_failed ..)

theorem raiseFault_failed (s : State) (reason : Nat) (cg : CtxGen) (core st idx : Nat) : Failed s (raiseFault s reason cg core st idx) :=
  .ite (raiseCore_raised ..).reported.failed (.ite (raiseCrate_raised ..).reported.failed (raiseUnit_raised ..).reported.failed)

theorem stationFault_failed (s : State) (core st idx reason : Nat) : Failed s (stationFault s core st idx reason) :=
  ((modCore_failed s core _).trans (failLaunch_failed ..)).trans (raiseFault_failed ..)

theorem cutShort_failed (s : State) (c : Cmd) : Failed s (cutShort s c) := .ite (.refl s) (setMem_failed ..)

theorem setEnded_failed (s : State) (slot : Nat) (e : EndWith) : Failed s (setEnded s slot e) := by
  unfold setEnded
  dsimp only
  split
  · exact (Failed.ite (cutShort_failed ..) (.refl s)).trans (modCmd_failed ..)
  · exact modCmd_failed ..

theorem chargeEnd_failed (s : State) (c : Cmd) (e : EndWith) : Failed s (chargeEnd s c e) :=
  .ite (chargeNow_raised ..).reported.failed (.refl s)

theorem cancelFollower_failed (s : State) (c : Cmd) : Failed s (cancelFollower s c) :=
  .ite (.refl s) (.ite (stopLaunch_failed ..) (setEnded_failed ..))

theorem failQueue_failed (s : State) (c : Cmd) (reason : Nat) : Failed s (failQueue s c reason) :=
  (modQueue_failed s c.queue _).trans (.foldl cancelFollower_failed _ _)

theorem endCmd_ran (s : State) (slot : Nat) (e : EndWith) : Failed s (endCmd s slot e) := by
  unfold endCmd
  split
  · exact .refl s
  · exact ((setEnded_failed ..).trans (chargeEnd_failed ..)).trans (.ite (failQueue_failed ..) (.refl _))

theorem dropOp_failed (s : State) (id : Nat) : Failed s (dropOp s id) := (setOp_failed s id none).trans (.withFrames _ _ _)

theorem failOp_failed (s : State) (id reason far ftype crate : Nat) : Failed s (failOp s id reason far ftype crate) := by
  unfold failOp
  split
  · exact .refl s
  · refine (dropOp_failed s id).trans ?_
    generalize dropOp s id = u
    split
    · extract_lets s0 run s1 s2 s3 s4
      have h1 : Failed u s1 := raiseEvent_failed ..
      have h2 : Failed s1 s2 := chargeIf_failed ..
      have h3 : Failed s2 s3 := .foldl (fun _ _ => setMem_failed ..) _ _
      have h4 : Failed s3 s4 := modTransfer_failed ..
      exact (h1.trans (h2.trans (h3.trans h4))).trans (.ite (stationFault_failed ..) (modQueue_failed ..))
    · refine .trans ?_ (raiseStep_raised ..).reported.failed
      exact .ite (.withStep u _) (.refl u)
    · exact .withStep u _
    · exact .refl u

theorem failFrames_failed (s : State) (fs : List (Frame × Option Nat)) (reason : Nat) : Failed s (failFrames s fs reason) := by
  refine .foldl (fun s e => ?_) fs s
  split
  · exact failOp_failed ..
  · exact .refl s

theorem dropRun_failed (s : State) (g : Nat) (r : CollRun) (reason : Nat) : Failed s (dropRun s g r reason) :=
  (Failed.withFrames s _ _).trans (modGroup_failed ..)

theorem ringBell_failed (s : State) (g : Nat) (b : BellOut) : Failed s (ringBell s g b) :=
  (modGroup_failed s g _).trans (.foldl (fun _ _ => enqueue_failed ..) _ _)

theorem collFail_failed (s : State) (g reason : Nat) : Failed s (collFail s g reason) := by
  unfold collFail
  split
  · exact .refl s
  · exact ((dropRun_failed ..).trans (ringBell_failed ..)).trans (endCmd_ran ..)

theorem failColls_failed (s : State) (chip reason : Nat) (p : Group → Bool) : Failed s (failColls s chip reason p) :=
  .foldl (fun _ _ => collFail_failed ..) _ s

/-! ## Taking a frame -/

/-- The state in which the effect of frame `k` of port `p` begins. -/
def taken (s : State) (p k : Nat) (f : Frame) : State := freeWords (modPort s p (fun x => { x with rx := x.rx.eraseIdx k })) p f

section
variable {s : State} {p typ k : Nat} {f : Frame} (h : NextFrame s p typ k f)
include h

theorem takeFrame_eq : takeFrame s p typ = some (taken s p k f, f) := by
  unfold takeFrame
  rw [h]
  rfl

theorem recvCtl_eq (eff : State → Frame → State) : recvCtl s p typ eff = eff (taken s p k f) f := by
  unfold recvCtl
  rw [takeFrame_eq h]

end

theorem taken_frame (s : State) (p k : Nat) (f : Frame) :
    taken s p k f = { s with fab := { s.fab with ports := (taken s p k f).fab.ports }, out := (taken s p k f).out } := rfl

theorem getPort_taken (s : State) (p k : Nat) (f : Frame) (q : Nat) :
    getPort (taken s p k f) q = if q = p then { getPort s p with rx := (getPort s p).rx.eraseIdx k } else getPort s q :=
  getPort_modPort ..

theorem out_taken (s : State) (p k : Nat) (f : Frame) : (taken s p k f).out = s.out ++ [.credits p (frameLane f) (frameWords f)] := rfl

/-- What the effect of a frame leaves of its port and of what was put out shows that the frame was taken. -/
theorem took_of {s t : State} {p k : Nat} {f : Frame} (hp : (getPort t p).rx = (getPort (taken s p k f) p).rx)
    (ho : ∀ o ∈ (taken s p k f).out, o ∈ t.out) : Took s t p k f := by
  refine ⟨?_, ho _ ?_⟩
  · rw [hp, getPort_taken, if_pos rfl]
  · rw [out_taken]
    simp

/-- An effect that keeps ports and what was put out. -/
theorem took_of_kept {s t : State} {p k : Nat} {f : Frame} (hp : t.fab.ports = (taken s p k f).fab.ports)
    (ho : t.out = (taken s p k f).out) : Took s t p k f := by
  refine took_of ?_ fun o h => by rw [ho]; exact h
  unfold getPort
  rw [hp]

end Sys2Proof.Machine
end

section
/-! # Sessions (11/R368-R374) -/

namespace Sys2Proof.Machine

/-! ## Entries -/

theorem getSession_modSession {s : State} {n : Nat} {x : Session} (h : getSession s n = some x) (g : Session → Session) :
    getSession (modSession s n g) n = some (g x) := by
  rw [modSession, getSession_setSession, if_pos rfl, h]
  rfl

theorem modSession_frame (s : State) (n : Nat) (g : Session → Session) :
    modSession s n g = { s with fab := { s.fab with sessions := (modSession s n g).fab.sessions } } := rfl

theorem chanOf_modChanOf {x : Session} {c : Nat} (hc : c < x.chans.length) (g : SChan → SChan) :
    chanOf (modChanOf x c g) c = g (chanOf x c) := by
  rw [chanOf, modChanOf, getD_lset, if_pos ⟨rfl, hc⟩]

section
variable {s : State} {p typ k : Nat} {f : Frame}

theorem sessionOf_taken (peer : Nat) : sessionOf (taken s p k f) peer = sessionOf s peer := rfl
theorem getSession_taken (n : Nat) : getSession (taken s p k f) n = getSession s n := rfl

end

theorem freeSession_congr {s t : State} (hs : t.fab.sessions = s.fab.sessions) (ht : t.time = s.time) (hq : t.fab.sendq = s.fab.sendq) :
    freeSession t = freeSession s := by
  unfold freeSession getSession
  rw [hs, ht, hq]

/-! ## Acknowledgement -/

/-- What one acknowledged frame changes: its operation, and the transfer that waits for it. -/
def Acked (s t : State) : Prop := t = { s with cores := t.cores, fab := { s.fab with ops := t.fab.ops } }

theorem Acked.refl (s : State) : Acked s s := rfl
theorem Acked.trans {s t u : State} (h : Acked s t) (g : Acked t u) : Acked s u := by
  unfold Acked at *
  rw [h] at g
  exact g
theorem Acked.withCores (s : State) (x : Tab Core) : Acked s { s with cores := x } := rfl
theorem Acked.withOps (s : State) (x : Tab (Option Op)) : Acked s { s with fab := { s.fab with ops := x } } := rfl

theorem opDone_acked (s : State) (id : Nat) : Acked s (opDone s id) := by
  unfold opDone
  split
  · exact .refl s
  · have h : Acked s (setOp s id none) := .withOps s _
    dsimp only
    split
    · exact h.trans (.withCores _ _)
    · exact h

theorem Acked.ite {s t u : State} {p : Prop} [Decidable p] (h : Acked s t) (g : Acked s u) : Acked s (if p then t else u) := by
  split
  · exact h
  · exact g

theorem ackOne_acked (s : State) (u : Sent) : Acked s (ackOne s u) := by
  unfold ackOne
  cases u.op with
  | none => exact .refl s
  | some id =>
    dsimp only
    cases getOp s id with
    | none => exact .refl s
    | some o =>
      have h : Acked s (modOp s id (fun o => { o with left := o.left - 1 })) := .withOps s _
      exact .ite (.refl s) (.ite (h.trans (opDone_acked ..)) h)

theorem ackAll_acked (l : List Sent) (s : State) : Acked s (l.foldl ackOne s) := by
  induction l generalizing s with
  | nil => exact .refl s
  | cons u l ih => exact (ackOne_acked s u).trans (ih _)

/-- A sent frame is past when its last word is at or before the acknowledged number. -/
def sentPast (f : Frame) (u : Sent) : Bool := seqLe ((u.frame.seq + frameSpan u.frame) % 2 ^ 32) f.seq

/-- The session after an ACK that releases frames. -/
def ackedSession (x : Session) (f : Frame) (srtt : Nat) : Session :=
  { modChanOf x f.ch (fun c => { c with unacked := c.unacked.filter (fun u => !sentPast f u) }) with retries := 0, srtt }

/-- The state in which an ACK's operations are worked: the session's frames and their resends are gone. -/
def releasedState (s : State) (n : Nat) (x : Session) (f : Frame) : State :=
  let gone := (chanOf x f.ch).unacked.filter (sentPast f)
  let v := (drawFree s).1
  let t := modSession (drawFree s).2 n fun x => ackedSession x f (if gone.any (fun u => !u.again) then slice32 v 0 else x.srtt)
  modFab t fun y => { y with sendq := y.sendq.filter (fun i => !(i.resend && i.frame.dst == x.peer
    && i.frame.ch == f.ch && gone.any (fun u => u.frame.seq == i.frame.seq))) }

theorem ackEffect_eq {s : State} {f : Frame} {n : Nat} {x : Session} (hn : sessionOf s f.src = some n) (hx : getSession s n = some x)
    (hsid : x.sid = f.sid) (hst : x.state = 2) (hgone : (chanOf x f.ch).unacked.filter (sentPast f) ≠ []) :
    ackEffect s f = ((chanOf x f.ch).unacked.filter (sentPast f)).foldl ackOne (releasedState s n x f) := by
  have hgo : ¬(x.sid ≠ f.sid ∨ x.state ≠ 2) := by simp [hsid, hst]
  unfold ackEffect
  rw [hn]
  dsimp only
  rw [hx]
  dsimp only
  rw [if_neg hgo]
  exact if_neg hgone

theorem releasedState_frame (s : State) (n : Nat) (x : Session) (f : Frame) :
    releasedState s n x f = { s with freeCtr := (releasedState s n x f).freeCtr, fab := { s.fab with
      sessions := (releasedState s n x f).fab.sessions, sendq := (releasedState s n x f).fab.sendq } } := rfl

theorem getSession_releasedState {s : State} {n : Nat} {x : Session} {f : Frame} (hx : getSession s n = some x) :
    ∃ srtt, getSession (releasedState s n x f) n = some (ackedSession x f srtt) := by
  have hx' : getSession (drawFree s).2 n = some x := hx
  exact ⟨_, getSession_modSession hx' _⟩

theorem ack_releases {s : State} {p k : Nat} {f : Frame} {n : Nat} {x : Session} (h : NextFrame s p 0x10 k f)
    (hn : sessionOf s f.src = some n) (hx : getSession s n = some x) (hsid : x.sid = f.sid) (hst : x.state = 2) (hch : f.ch < 4)
    (hlen : x.chans.length = 4)
    (hpast : ∃ u ∈ (chanOf x f.ch).unacked, seqLe ((u.frame.seq + frameSpan u.frame) % 2 ^ 32) f.seq = true) :
    Runs (.ack p) s (fun t => Took s t p k f ∧ t.cmds = s.cmds ∧ t.mem = s.mem ∧ ∃ y, getSession t n = some y ∧ y.retries = 0 ∧
      (chanOf y f.ch).unacked = (chanOf x f.ch).unacked.filter (fun u => !seqLe ((u.frame.seq + frameSpan u.frame) % 2 ^ 32) f.seq) ∧
      (chanOf y f.ch).next = (chanOf x f.ch).next) := by
  have hgone : (chanOf x f.ch).unacked.filter (sentPast f) ≠ [] := by
    obtain ⟨u, hu, hp⟩ := hpast
    exact List.ne_nil_of_mem (List.mem_filter.mpr ⟨hu, hp⟩)
  have heq := (recvCtl_eq h ackEffect).trans (ackEffect_eq hn hx hsid hst hgone)
  obtain ⟨srtt, hsess⟩ := getSession_releasedState (s := taken s p k f) (f := f) hx
  have hfr := releasedState_frame (taken s p k f) n x f
  generalize releasedState (taken s p k f) n x f = u at *
  have hall := ackAll_acked ((chanOf x f.ch).unacked.filter (sentPast f)) u
  generalize ((chanOf x f.ch).unacked.filter (sentPast f)).foldl ackOne u = t at *
  have hc : chanOf (ackedSession x f srtt) f.ch
      = { chanOf x f.ch with unacked := (chanOf x f.ch).unacked.filter (fun u => !sentPast f u) } :=
    chanOf_modChanOf (hlen ▸ hch) (fun c : SChan => { c with unacked := c.unacked.filter (fun u => !sentPast f u) })
  refine runs_eq rfl heq ⟨took_of_kept ?_ ?_, ?_, ?_, ackedSession x f srtt, ?_, rfl, ?_, ?_⟩
  · rw [hall, hfr]
  · rw [hall, hfr]
  · rw [hall, hfr]
    rfl
  · rw [hall, hfr]
    rfl
  · rw [← hsess, hall]
    rfl
  · rw [hc]
    rfl
  · rw [hc]

/-! ## Sending again -/

/-- A frame of the replay buffer that is queued again. -/
def againItem (u : Sent) : Item := { frame := u.frame, ctx := u.ctx, op := u.op, resend := true }

/-- A session that has not been sent again fifteen times queues what is unacknowledged from `e` on, first of all. -/
theorem resendOrBreak_resends {s : State} {n ch e : Nat} {x : Session} (hx : getSession s n = some x) (hr : x.retries < 15) :
    resendOrBreak s n ch e = { s with fab := (resendOrBreak s n ch e).fab } ∧
      (resendOrBreak s n ch e).fab.ports = s.fab.ports ∧
      getSession (resendOrBreak s n ch e) n = some { x with retries := x.retries + 1 } ∧
      ∃ rest, (resendOrBreak s n ch e).fab.sendq = ((chanOf x ch).unacked.filter (fun u => seqLe e u.frame.seq)).map againItem ++ rest := by
  have hmod := getSession_modSession hx (fun x => { x with retries := x.retries + 1 })
  have hno : ¬15 ≤ x.retries := by omega
  have heq : resendOrBreak s n ch e
      = resendFrom (modSession s n (fun x => { x with retries := x.retries + 1 })) n ch e (fun _ => true) := by
    unfold resendOrBreak
    rw [hx]
    exact if_neg hno
  rw [heq]
  unfold resendFrom
  rw [hmod]
  dsimp only
  refine ⟨rfl, rfl, hmod, ?_⟩
  simp only [Bool.and_true]
  exact ⟨_, rfl⟩

theorem nak_resends {s : State} {p k : Nat} {f : Frame} {n : Nat} {x : Session} (h : NextFrame s p 0x11 k f)
    (hn : sessionOf s f.src = some n) (hx : getSession s n = some x) (hsid : x.sid = f.sid) (hst : x.state = 2)
    (hun : (chanOf x f.ch).unacked ≠ []) (hr : x.retries < 15) :
    Runs (.nak p) s (fun t => t = { s with fab := t.fab, out := t.out } ∧ Took s t p k f ∧
      (∃ y, getSession t n = some y ∧ y.retries = x.retries + 1 ∧ y.state = 2) ∧
      ∃ rest, t.fab.sendq = (((chanOf x f.ch).unacked.filter (fun u => seqLe f.seq u.frame.seq)).map
        (fun u => ({ frame := u.frame, ctx := u.ctx, op := u.op, resend := true } : Item))) ++ rest) := by
  have heff : nakEffect (taken s p k f) f = resendOrBreak (taken s p k f) n f.ch f.seq := by
    unfold nakEffect
    rw [sessionOf_taken, hn]
    dsimp only
    rw [getSession_taken, hx]
    exact if_neg (by simp [hsid, hst, hun])
  obtain ⟨hfr, hports, hsess, hq⟩ := resendOrBreak_resends (s := taken s p k f) (ch := f.ch) (e := f.seq) hx hr
  have htk := taken_frame s p k f
  rw [← heff] at hfr hports hsess hq
  refine runs_eq rfl (recvCtl_eq h nakEffect) ?_
  generalize nakEffect (taken s p k f) f = t at *
  refine ⟨?_, took_of_kept hports ?_, ⟨_, hsess, rfl, hst⟩, hq⟩
  · rw [hfr, htk]
  · rw [hfr]

theorem retransmitTimeout_resends {s : State} {peer ch n : Nat} {x : Session} {u : Sent} {us : List Sent}
    (hn : sessionOf s peer = some n) (hx : getSession s n = some x) (hst : x.state = 2) (hun : (chanOf x ch).unacked = u :: us)
    (hr : x.retries < 15) :
    Runs (.retransmitTimeout peer ch) s (fun t => t = { s with fab := t.fab } ∧
      (∃ y, getSession t n = some y ∧ y.retries = x.retries + 1 ∧ y.state = 2) ∧
      ∃ rest, t.fab.sendq = (((u :: us).filter (fun v => seqLe u.frame.seq v.frame.seq)).map
        (fun u => ({ frame := u.frame, ctx := u.ctx, op := u.op, resend := true } : Item))) ++ rest) := by
  have heq : retransmitTimeout s peer ch = resendOrBreak s n ch u.frame.seq := by
    unfold Machine.retransmitTimeout
    rw [hn]
    dsimp only
    rw [hx]
    dsimp only
    rw [hun]
    exact if_pos hst
  obtain ⟨hfr, -, hsess, hq⟩ := resendOrBreak_resends (s := s) (ch := ch) (e := u.frame.seq) hx hr
  rw [hun] at hq
  exact runs_eq rfl heq ⟨hfr, ⟨_, hsess, rfl, hst⟩, hq⟩

/-! ## The ACK timer -/

theorem ackTimer_acknowledges {s : State} {peer ch n : Nat} {x : Session} (hn : sessionOf s peer = some n) (hx : getSession s n = some x)
    (hd : (chanOf x ch).doneSince ≠ 0) (hch : ch < 4) (hlen : x.chans.length = 4) :
    Runs (.ackTimer peer ch) s (fun t => t = { s with fab := t.fab } ∧
      (∃ y, getSession t n = some y ∧ (chanOf y ch).doneSince = 0 ∧ (chanOf y ch).expect = (chanOf x ch).expect) ∧
      ∃ i, t.fab.sendq = s.fab.sendq ++ [i] ∧ i.frame.typ = 0x10 ∧ i.frame.dst = peer ∧ i.frame.ch = ch ∧
        i.frame.seq = (chanOf x ch).expect) := by
  have heq : ackTimer s peer ch = enqueue (modSession s n (fun x => modChanOf x ch (fun c => { c with doneSince := 0 })))
      { frame := { typ := 0x10, dst := peer, src := ownChip s, sid := x.rxSid.getD 0, ch, seq := (chanOf x ch).expect } } := by
    unfold Machine.ackTimer sendAck
    rw [hn]
    dsimp only
    rw [hx]
    exact if_neg hd
  have hsess := getSession_modSession hx (fun x => modChanOf x ch (fun c => { c with doneSince := 0 }))
  have hc := chanOf_modChanOf (x := x) (c := ch) (hlen ▸ hch) (fun c : SChan => { c with doneSince := 0 })
  exact runs_eq rfl heq ⟨rfl, ⟨_, hsess, by rw [hc], by rw [hc]⟩, _, rfl, rfl, rfl, rfl, rfl⟩

/-! ## Opening -/

/-- The receive half that an OPEN installs, with the four numbers it begins at. -/
def installHalf (sid time a b c d : Nat) (x : Session) : Session :=
  { x with rxSid := some sid, lastUse := time
           chans := x.chans.zipIdx.map (fun e => { e.1 with expect := [a, b, c, d].getD e.2 0, doneSince := 0, nak := none }) }

theorem installHalf_expect (peer sid time a b c d : Nat) :
    (chanOf (installHalf sid time a b c d { peer }) 0).expect = a ∧ (chanOf (installHalf sid time a b c d { peer }) 1).expect = b ∧
      (chanOf (installHalf sid time a b c d { peer }) 2).expect = c ∧ (chanOf (installHalf sid time a b c d { peer }) 3).expect = d :=
  ⟨rfl, rfl, rfl, rfl⟩

theorem openEffect_new {s : State} {f : Frame} {n : Nat} (hn : sessionOf s f.src = none) (hfree : freeSession s = some n) :
    openEffect s f = enqueue (modSession (setSession s n (some { peer := f.src })) n
        (installHalf f.sid s.time.toNat f.seq f.opid f.index (f.aux % 2 ^ 32)))
      { frame := { typ := 0x13, dst := f.src, src := ownChip s, sid := f.sid } } := by
  unfold openEffect
  rw [hn]
  dsimp only
  rw [hfree]
  rfl

theorem openReq_opens {s : State} {p k : Nat} {f : Frame} {n : Nat} (h : NextFrame s p 0x12 k f) (hn : sessionOf s f.src = none)
    (hfree : freeSession s = some n) :
    Runs (.openReq p) s (fun t => t = { s with fab := t.fab, out := t.out } ∧ Took s t p k f ∧
      (∃ y, getSession t n = some y ∧ y.peer = f.src ∧ y.rxSid = some f.sid ∧ (chanOf y 0).expect = f.seq ∧
        (chanOf y 1).expect = f.opid ∧ (chanOf y 2).expect = f.index ∧ (chanOf y 3).expect = f.aux % 2 ^ 32) ∧
      ∃ i, t.fab.sendq = s.fab.sendq ++ [i] ∧ i.frame.typ = 0x13 ∧ i.frame.dst = f.src ∧ i.frame.sid = f.sid) := by
  have hfree' : freeSession (taken s p k f) = some n := (freeSession_congr (s := s) (t := taken s p k f) rfl rfl rfl).trans hfree
  have heq := (recvCtl_eq h openEffect).trans (openEffect_new (s := taken s p k f) hn hfree')
  have hnew : getSession (setSession (taken s p k f) n (some { peer := f.src })) n = some { peer := f.src } :=
    (getSession_setSession ..).trans (if_pos rfl)
  obtain ⟨h0, h1, h2, h3⟩ := installHalf_expect f.src f.sid (taken s p k f).time.toNat f.seq f.opid f.index (f.aux % 2 ^ 32)
  exact runs_eq rfl heq ⟨rfl, took_of_kept rfl rfl, ⟨_, getSession_modSession hnew _, rfl, rfl, h0, h1, h2, h3⟩,
    _, rfl, rfl, rfl, rfl⟩

theorem openAck_opens {s : State} {p k : Nat} {f : Frame} {n : Nat} {x : Session} (h : NextFrame s p 0x13 k f)
    (hn : sessionOf s f.src = some n) (hx : getSession s n = some x) (hst : x.state = 1) (hsid : x.sid = f.sid) :
    Runs (.openAck p) s (fun t => t = { s with fab := t.fab, out := t.out } ∧ Took s t p k f ∧
      getSession t n = some { x with state := 2 }) := by
  have heff : openAckEffect (taken s p k f) f = modSession (taken s p k f) n (fun x => { x with state := 2 }) := by
    unfold openAckEffect
    rw [sessionOf_taken, hn]
    dsimp only
    rw [getSession_taken, hx]
    exact if_pos ⟨hst, hsid⟩
  exact runs_eq rfl ((recvCtl_eq h openAckEffect).trans heff)
    ⟨rfl, took_of_kept rfl rfl, getSession_modSession (s := taken s p k f) hx (fun x => { x with state := 2 })⟩

theorem openRetry_repeats {s : State} {peer n : Nat} {x : Session} (hn : sessionOf s peer = some n) (hx : getSession s n = some x)
    (hst : x.state = 1) (ho : x.opens < 16) :
    Runs (.openRetry peer) s (fun t => t = { s with fab := t.fab } ∧ getSession t n = some { x with opens := x.opens + 1 } ∧
      t.fab.sendq = s.fab.sendq ++ [{ frame := openFrame s x }]) := by
  have heq : openRetry s peer = enqueue (modSession s n (fun x => { x with opens := x.opens + 1 })) { frame := openFrame s x } := by
    unfold Machine.openRetry
    rw [hn]
    dsimp only
    rw [hx]
    dsimp only
    rw [if_neg (by simp [hst]), if_neg (by omega)]
  exact runs_eq rfl heq ⟨rfl, getSession_modSession hx (fun x => { x with opens := x.opens + 1 }), rfl⟩

/-- A half that closes keeps nothing unacknowledged. -/
theorem closeHalf_closed {s : State} {n : Nat} {x : Session} (hx : getSession s n = some x) (state reason : Nat) (all : Bool) :
    getSession (closeHalf s n state reason all) n
      = some { x with state, retries := 0, chans := x.chans.map (fun c => { c with unacked := [] }) } := by
  unfold closeHalf
  rw [hx]
  dsimp -zeta only
  extract_lets mine gone waiting bound fs s1 s2
  have h1 : getSession s2 n = some { x with state, retries := 0, chans := x.chans.map (fun c => { c with unacked := [] }) } :=
    show getSession s1 n = _ from (getSession_setSession ..).trans (if_pos rfl)
  rw [(failColls_failed ..).getSession, (failFrames_failed ..).getSession, h1]

theorem openRetry_closes {s : State} {peer n : Nat} {x : Session} (hn : sessionOf s peer = some n) (hx : getSession s n = some x)
    (hst : x.state = 1) (ho : 16 ≤ x.opens) :
    Runs (.openRetry peer) s (fun t => ∃ y, getSession t n = some y ∧ y.state = 0 ∧ sessUnacked y = []) := by
  have heq : openRetry s peer = closeHalf s n 0 0x60 true := by
    unfold Machine.openRetry
    rw [hn]
    dsimp only
    rw [hx]
    dsimp only
    rw [if_neg (by simp [hst]), if_pos ho]
  refine runs_eq rfl heq ⟨_, closeHalf_closed hx 0 0x60 true, rfl, ?_⟩
  simp [sessUnacked]

/-- Settles O30: what each frame and each timer of a session does. -/
theorem sessions : Obligations.Sessions :=
  ⟨fun _ _ _ _ _ _ h hn hx hsid hst hch hlen hpast => ack_releases h hn hx hsid hst hch hlen hpast,
    fun _ _ _ _ _ _ h hn hx hsid hst hun hr => nak_resends h hn hx hsid hst hun hr,
    fun _ _ _ _ _ _ _ hn hx hst hun hr => retransmitTimeout_resends hn hx hst hun hr,
    fun _ _ _ _ _ hn hx hd hch hlen => ackTimer_acknowledges hn hx hd hch hlen,
    fun _ _ _ _ _ h hn hfree => openReq_opens h hn hfree,
    fun _ _ _ _ _ _ h hn hx hst hsid => openAck_opens h hn hx hst hsid,
    fun _ _ _ _ hn hx hst ho => openRetry_repeats hn hx hst ho,
    fun _ _ _ _ hn hx hst ho => openRetry_closes hn hx hst ho⟩

end Sys2Proof.Machine
end

section
/-! # Ports and time transfer (11/R354, R355, R381-R386) -/

namespace Sys2Proof.Machine

/-! ## Ports -/

theorem getPort_modPort_same (s : State) (p : Nat) (g : Port → Port) : getPort (modPort s p g) p = g (getPort s p) := by
  rw [getPort_modPort, if_pos rfl]

theorem getPort_modPort_ne (s : State) {p q : Nat} (h : q ≠ p) (g : Port → Port) : getPort (modPort s p g) q = getPort s q := by
  rw [getPort_modPort, if_neg h]

theorem modPort_fields (s : State) (p : Nat) (g : Port → Port) :
    modPort s p g = { s with fab := { s.fab with ports := (modPort s p g).fab.ports } } := rfl

/-- Two changes of one port. -/
theorem modPort_twice_fields (s : State) (p : Nat) (g h : Port → Port) : modPort (modPort s p g) p h
    = { s with fab := { s.fab with ports := (modPort (modPort s p g) p h).fab.ports } } := rfl

theorem portOff_modPort (s : State) (p : Nat) (g : Port → Port) : portOff (modPort s p g) p = portOff s p := rfl
theorem owned_modPort (s : State) (p : Nat) (g : Port → Port) : owned (modPort s p g) = owned s := rfl

theorem getPort_congr {s t : State} (h : t.fab.ports = s.fab.ports) (q : Nat) : getPort t q = getPort s q := by
  unfold getPort
  rw [h]

/-- Setting the fields of `v` below bit 48 keeps the enable bit of a port's configuration. -/
theorem rbit_rset_below (w : W64) (v : Nat) : rbit (rset w 47 32 v) 63 = rbit w 63 := by
  have hw := w.isLt
  have h : rbit (rset w 47 32 v) 63 = true ↔ rbit w 63 = true := by
    rw [rbit_iff, rbit_iff, rset, rbits, Word.bitsOf, BitVec.toNat_ofNat]
    omega
  exact Bool.eq_iff_iff.mpr h

theorem rbit_rset_lowest (w : W64) (v : Nat) : rbit (rset w 0 0 v) 63 = rbit w 63 := by
  have hw := w.isLt
  have h : rbit (rset w 0 0 v) 63 = true ↔ rbit w 63 = true := by
    rw [rbit_iff, rbit_iff, rset, rbits, Word.bitsOf, BitVec.toNat_ofNat]
    omega
  exact Bool.eq_iff_iff.mpr h

/-! ## A port that goes down -/

/-- `t` is `s` but for the frames that wait and the time base's state. -/
def Requeued (s t : State) : Prop := t = { s with fab := { s.fab with sendq := t.fab.sendq, timeSt := t.fab.timeSt } }

theorem Requeued.refl (s : State) : Requeued s s := rfl
theorem Requeued.trans {s t u : State} (h : Requeued s t) (g : Requeued t u) : Requeued s u := by
  unfold Requeued at *
  rw [h] at g
  exact g
theorem Requeued.foldl {α : Type} {f : State → α → State} (hf : ∀ s a, Requeued s (f s a)) (l : List α) (s : State) :
    Requeued s (l.foldl f s) := by
  induction l generalizing s with
  | nil => exact .refl s
  | cons a l ih => exact (hf s a).trans (ih _)
theorem Requeued.getPort {s t : State} (h : Requeued s t) (q : Nat) : getPort t q = getPort s q := by
  refine getPort_congr ?_ q
  rw [h]

theorem resendFrom_requeued (s : State) (n ch e : Nat) (which : Sent → Bool) : Requeued s (resendFrom s n ch e which) := by
  unfold resendFrom
  split
  · exact .refl s
  · rfl

/-- A port after it went down. -/
def downPort (state : Nat) (trained : Bool) (x : Port) : Port :=
  { x with state, trained, rxSeq := none, synced := false, partialFrame := [], lanes := if trained then x.lanes else 0
           backpressure := false, credits := [1920, 1920, 1920, 1920, 128, 128, 128, 128] }

theorem portDown_requeued (s : State) (p state : Nat) (trained : Bool) :
    Requeued (modPort s p (downPort state trained)) (portDown s p state trained) := by
  unfold portDown
  extract_lets s1 s2
  have h : Requeued s1 s2 := by
    refine .foldl (fun s c => .foldl (fun s e => ?_) _ s) _ s1
    cases e.2 with
    | none => exact .refl s
    | some x =>
      dsimp only
      cases (chanOf x c).unacked with
      | nil => exact .refl s
      | cons u l => exact resendFrom_requeued ..
  refine h.trans ?_
  split
  · rfl
  · exact .refl _

theorem portDown_frame (s : State) (p state : Nat) (trained : Bool) :
    portDown s p state trained = { s with fab := (portDown s p state trained).fab } := by
  have h := portDown_requeued s p state trained
  generalize portDown s p state trained = t at *
  rw [h]
  rfl

theorem portDown_modPort_frame (s : State) (p : Nat) (g : Port → Port) (state : Nat) (trained : Bool) :
    portDown (modPort s p g) p state trained = { s with fab := (portDown (modPort s p g) p state trained).fab } :=
  portDown_frame (modPort s p g) p state trained

theorem getPort_portDown (s : State) (p state : Nat) (trained : Bool) :
    getPort (portDown s p state trained) p = downPort state trained (getPort s p) := by
  rw [(portDown_requeued ..).getPort, getPort_modPort_same]

theorem getPort_portDown_ne (s : State) {p q : Nat} (h : q ≠ p) (state : Nat) (trained : Bool) :
    getPort (portDown s p state trained) q = getPort s q := by
  rw [(portDown_requeued ..).getPort, getPort_modPort_ne s h]

/-! ## Enable and disable -/

section
variable {s : State} {p : Nat} {v : W64}

/-- A configuration with the ASYM and CHILD fields of `v`. -/
def configWith (v w : W64) : W64 := rset (rset w 47 32 (rbits v 47 32)) 0 0 (rbits v 0 0)

theorem rbit_configWith (v w : W64) : rbit (configWith v w) 63 = rbit w 63 := by
  rw [configWith, rbit_rset_lowest, rbit_rset_below]

theorem rbit_configWith_zero (v : W64) : rbit (configWith v 0#64) 63 = false := by
  rw [rbit_configWith]
  decide

theorem portEnabled_of_cfg {x : Port} {w : W64} {b : Bool} (hx : x.cfg = w) (hw : rbit w 63 = b) : portEnabled x = b := by
  rw [portEnabled, hx, hw]

/-- A port with the ASYM and CHILD fields of `v`. -/
def configured (v : W64) (x : Port) : Port := { x with cfg := configWith v x.cfg }

theorem configured_state (v : W64) (x : Port) : (configured v x).state = x.state := by
  cases x
  rfl

theorem portEnabled_configured (v : W64) (x : Port) : portEnabled (configured v x) = portEnabled x :=
  portEnabled_of_cfg rfl (rbit_configWith ..)

theorem portEnable_eq (hp : p < 48) (hv : rbit v 63 = true) (hoff : portEnabled (getPort s p) = false) :
    portEnable s p v =
      if portOff s p then modPort (modPort s p (configured v)) p (fun x => { x with reason := 0x69 })
      else if !owned s then modPort (modPort s p (configured v)) p (fun x => { x with reason := 0x2B })
      else modPort (modPort s p (configured v)) p (fun x => { x with cfg := rset x.cfg 63 63 1, state := if x.state = 0 then 1 else x.state }) := by
  have hgo : ¬(48 ≤ p || !rbit v 63) = true := by simp [hv, hp]
  have hen : ¬portEnabled (getPort (modPort s p (configured v)) p) = true := by
    rw [getPort_modPort_same, portEnabled_configured, hoff]
    decide
  have hraw : (fun x : Port => { x with cfg := rset (rset x.cfg 47 32 (rbits v 47 32)) 0 0 (rbits v 0 0) }) = configured v := rfl
  unfold Machine.portEnable
  rw [if_neg hgo, hraw]
  dsimp only
  rw [if_neg hen, portOff_modPort, owned_modPort]

theorem portEnable_judged (hh : hostOpen s = true) (hp : p < 48) (hv : rbit v 63 = true) (hoff : portEnabled (getPort s p) = false) :
    Runs (.portEnable p v) s (fun t => t = { s with fab := { s.fab with ports := t.fab.ports } } ∧
      (∀ q, q ≠ p → getPort t q = getPort s q) ∧
      (portOff s p = true → (getPort t p).reason = 0x69 ∧ portEnabled (getPort t p) = false) ∧
      (portOff s p = false → owned s = false → (getPort t p).reason = 0x2B ∧ portEnabled (getPort t p) = false) ∧
      (portOff s p = false → owned s = true → portEnabled (getPort t p) = true ∧
        (getPort t p).state = if (getPort s p).state = 0 then 1 else (getPort s p).state)) := by
  have hsame (g : Port → Port) : getPort (modPort (modPort s p (configured v)) p g) p = g (configured v (getPort s p)) := by
    rw [getPort_modPort_same, getPort_modPort_same]
  have hne (g : Port → Port) (q : Nat) (h : q ≠ p) : getPort (modPort (modPort s p (configured v)) p g) q = getPort s q := by
    rw [getPort_modPort_ne _ h, getPort_modPort_ne s h]
  have hcfg : portEnabled (configured v (getPort s p)) = false := (portEnabled_configured ..).trans hoff
  refine runs_host_eq hh rfl (portEnable_eq hp hv hoff) ?_
  split
  next hpo =>
    refine ⟨modPort_twice_fields .., hne _, fun _ => ?_, fun h => absurd (hpo.symm.trans h) (by decide), fun h => absurd (hpo.symm.trans h) (by decide)⟩
    rw [hsame]
    exact ⟨rfl, portEnabled_of_cfg (w := (configured v (getPort s p)).cfg) rfl hcfg⟩
  next hpo =>
    split
    next ho =>
      have ho' : owned s = false := by simpa using ho
      refine ⟨modPort_twice_fields .., hne _, fun h => absurd h hpo, fun _ _ => ?_, fun _ h => absurd (ho'.symm.trans h) (by decide)⟩
      rw [hsame]
      exact ⟨rfl, portEnabled_of_cfg (w := (configured v (getPort s p)).cfg) rfl hcfg⟩
    next ho =>
      have ho' : owned s = true := by simpa using ho
      refine ⟨modPort_twice_fields .., hne _, fun h => absurd h hpo, fun _ h => absurd (ho'.symm.trans h) (by decide), fun _ _ => ?_⟩
      rw [hsame]
      dsimp only
      rw [configured_state]
      exact ⟨portEnabled_of_cfg (w := rset (configured v (getPort s p)).cfg 63 63 1) rfl ((rbit_rset_top ..).trans (by decide)), rfl⟩

/-- A port whose configuration keeps ASYM and CHILD of `v` alone. -/
def unconfigured (v : W64) (x : Port) : Port := { x with cfg := configWith v 0#64 }

theorem unconfigured_state (v : W64) (x : Port) : (unconfigured v x).state = x.state := by
  cases x
  rfl

theorem portDisable_eq (hp : p < 48) (hv : rbit v 63 = false) (hen : portEnabled (getPort s p) = true) (hst : (getPort s p).state ≠ 4) :
    portDisable s p v = portDown (modPort s p (unconfigured v)) p 0 false := by
  have hgo : ¬(48 ≤ p || rbit v 63) = true := by simp [hv, hp]
  have hs : (if (getPort (modPort s p (unconfigured v)) p).state = 4 then 4 else 0) = 0 := by
    rw [getPort_modPort_same, unconfigured_state, if_neg hst]
  have hraw : (fun x : Port => { x with cfg := rset (rset 0#64 47 32 (rbits v 47 32)) 0 0 (rbits v 0 0) }) = unconfigured v := rfl
  unfold Machine.portDisable
  rw [if_neg hgo, hraw]
  dsimp only
  rw [if_pos hen, hs]

theorem portDisable_disables (hh : hostOpen s = true) (hp : p < 48) (hv : rbit v 63 = false) (hen : portEnabled (getPort s p) = true)
    (hst : (getPort s p).state ≠ 4) :
    Runs (.portDisable p v) s (fun t => t = { s with fab := t.fab } ∧ portEnabled (getPort t p) = false ∧
      (getPort t p).state = 0 ∧ (getPort t p).trained = false ∧ (∀ q, q ≠ p → getPort t q = getPort s q)) := by
  have hfr := portDown_modPort_frame s p (unconfigured v) 0 false
  have hdown := getPort_portDown (modPort s p (unconfigured v)) p 0 false
  have hne := fun q (h : q ≠ p) => getPort_portDown_ne (modPort s p (unconfigured v)) h 0 false
  refine runs_host_eq hh rfl (portDisable_eq hp hv hen hst) ?_
  generalize portDown (modPort s p (unconfigured v)) p 0 false = t at *
  rw [getPort_modPort_same] at hdown
  refine ⟨hfr, ?_, ?_, ?_, fun q h => (hne q h).trans (getPort_modPort_ne s h _)⟩
  · rw [hdown]
    exact portEnabled_of_cfg rfl (rbit_configWith_zero v)
  · rw [hdown]
    rfl
  · rw [hdown]
    rfl

end

/-! ## Training -/

section
variable {s : State} {p : Nat}

theorem portTrainingDone_eq {lanes : Nat} (hst : (getPort s p).state = 1) (hre : (getPort s p).retired = 0)
    (hl : laneCount (Nat.land lanes 511) = 8) :
    portTrainingDone s p true 0 lanes = discoverySend (modPort (modPort s p (fun x => { x with retired := 0 })) p (fun x =>
      { x with trained := true, lanes := Nat.land lanes 511, rxSeq := none, synced := false, partialFrame := [] })) p := by
  have hnew : (List.range 9).filter (fun l => Word.bitOf 0 l && !Word.bitOf (getPort s p).retired l) = [] :=
    List.filter_eq_nil_iff.mpr fun l _ => by simp [Word.bitOf]
  have hgo : ¬(getPort s p).state ≠ 1 := fun h => h hst
  have hok : ¬(!true || laneCount (511 - Nat.lor 0 (0 % 512)) < 8 || laneCount (Nat.land lanes (511 - Nat.lor 0 (0 % 512))) ≠ 8) := by
    rw [show 511 - Nat.lor 0 (0 % 512) = 511 from rfl, hl]
    decide
  unfold Machine.portTrainingDone
  dsimp only
  rw [if_neg hgo, hnew, hre]
  exact if_neg hok

theorem portTrainingDone_trains {lanes : Nat} (hst : (getPort s p).state = 1) (hre : (getPort s p).retired = 0)
    (hl : laneCount (Nat.land lanes 511) = 8) :
    Runs (.portTrainingDone p true 0 lanes) s (fun t => t = { s with fab := t.fab } ∧ (getPort t p).trained = true ∧
      (getPort t p).lanes = Nat.land lanes 511 ∧ (getPort t p).state = 1 ∧
      ∃ i, t.fab.sendq = s.fab.sendq ++ [i] ∧ i.frame.typ = 0x16 ∧ i.port = some p) := by
  refine runs_eq rfl (portTrainingDone_eq hst hre hl) ?_
  have hx (g : Port → Port) : getPort (modPort (modPort s p (fun x => { x with retired := 0 })) p g) p = g { getPort s p with retired := 0 } := by
    rw [getPort_modPort_same, getPort_modPort_same]
  have hfr (g : Port → Port) : modPort (modPort s p (fun x => { x with retired := 0 })) p g =
      { s with fab := { s.fab with ports := (modPort (modPort s p (fun x => { x with retired := 0 })) p g).fab.ports } } := rfl
  generalize hg : (fun x : Port => { x with trained := true, lanes := Nat.land lanes 511, rxSeq := none, synced := false
                                            partialFrame := [] }) = g
  have hp := hx g
  have hfr := hfr g
  generalize modPort (modPort s p (fun x => { x with retired := 0 })) p g = u at *
  have htr : (getPort u p).trained = true := by rw [hp, ← hg]
  have hsend : discoverySend u p = enqueue u { frame := discoveryFrame u p, port := some p } := if_pos htr
  rw [hsend]
  generalize hd : discoveryFrame u p = d
  have hq : getPort (enqueue u { frame := d, port := some p }) p = getPort u p := rfl
  rw [hq]
  refine ⟨?_, htr, by rw [hp, ← hg], by rw [hp, ← hg]; exact hst, { frame := d, port := some p }, ?_, by rw [← hd]; rfl, rfl⟩
  · rw [hfr]
    rfl
  · rw [hfr]
    rfl

theorem portTrainingDone_unanswered (failed lanes : Nat) (hst : (getPort s p).state = 1) :
    Runs (.portTrainingDone p false failed lanes) s (fun t => (getPort t p).state = 0 ∧ (getPort t p).lanes = 0) := by
  have hgo : ¬(getPort s p).state ≠ 1 := fun h => h hst
  refine runs_eq rfl (if_neg hgo) ?_
  rw [if_pos (by simp), getPort_modPort_same]
  exact ⟨rfl, rfl⟩

theorem portTrainingRetry_trains (hen : portEnabled (getPort s p) = true) (hst : (getPort s p).state = 0)
    (htr : (getPort s p).trained = false) :
    Runs (.portTrainingRetry p) s (fun t => t = { s with fab := { s.fab with ports := t.fab.ports } } ∧
      getPort t p = { getPort s p with state := 1 } ∧ ∀ q, q ≠ p → getPort t q = getPort s q) :=
  runs_eq rfl (if_pos (by simp [hen, hst, htr])) ⟨rfl, getPort_modPort_same .., fun _ h => getPort_modPort_ne s h _⟩

theorem portLinkLost_downs (htr : (getPort s p).trained = true) :
    Runs (.portLinkLost p) s (fun t => t = { s with fab := t.fab } ∧ (getPort t p).state = 0 ∧ (getPort t p).trained = false ∧
      (getPort t p).lanes = 0 ∧ (getPort t p).credits = [1920, 1920, 1920, 1920, 128, 128, 128, 128] ∧
      ∀ q, q ≠ p → getPort t q = getPort s q) := by
  refine runs_eq rfl (if_pos htr) ⟨portDown_frame .., ?_, ?_, ?_, ?_, fun q h => getPort_portDown_ne s h 0 false⟩ <;>
    rw [getPort_portDown] <;> rfl

/-! ## Discovery -/

theorem discoverySend_sends (htr : (getPort s p).trained = true) :
    Runs (.discoverySend p) s (fun t => t = { s with fab := t.fab } ∧
      t.fab.sendq = s.fab.sendq ++ [{ frame := discoveryFrame s p, port := some p }]) :=
  runs_eq rfl (if_pos htr) ⟨rfl, rfl⟩

theorem discoveryTimeout_downs (hst : (getPort s p).state = 2) :
    Runs (.discoveryTimeout p) s (fun t => t = { s with fab := t.fab } ∧ (getPort t p).state = 0 ∧ (getPort t p).trained = true ∧
      ∀ q, q ≠ p → getPort t q = getPort s q) := by
  refine runs_eq rfl (if_pos (by simp [portUp, hst])) ⟨portDown_frame .., ?_, ?_, fun q h => getPort_portDown_ne s h 0 true⟩ <;>
    rw [getPort_portDown] <;> rfl

/-- A port after a DISCOVERY frame. -/
def discoveredPort (f : Frame) (bad : Bool) (x : Port) : Port :=
  { x with farSerial := BitVec.ofNat 64 f.addr, farPort := f.aux % 256
           farStall := if f.aux / 2 ^ 8 % 256 ≤ 16 then f.aux / 2 ^ 8 % 256 else 0x1F, farChip := f.aux / 2 ^ 24 % 2 ^ 15
           farValid := Word.bitOf f.aux 39, miswired := bad, farResets := some f.index
           state := if x.trained && (x.state == 1 || x.state == 0) then 2 else x.state }

/-- The first DISCOVERY of a port changes that port, and may raise the event of a miswired one. -/
theorem discoveryEffect_first {f : Frame} (h : (getPort s p).farResets = none) :
    ∃ u, Reported s u ∧ discoveryEffect p s f
      = modPort u p (discoveredPort f (isMiswired s p (f.aux / 2 ^ 8 % 256) (f.aux % 256))) := by
  have hch (c : Bool) : ¬(((getPort s p).farResets.isSome && c) && (getPort s p).farValid) = true := by simp [h]
  have heq : discoveryEffect p s f = modPort
      (if isMiswired s p (f.aux / 2 ^ 8 % 256) (f.aux % 256) && !(getPort s p).miswired
        then raiseUnit s 0x6B noCtx (portUnit p) p (some (portDie p)) else s) p
      (discoveredPort f (isMiswired s p (f.aux / 2 ^ 8 % 256) (f.aux % 256))) := by
    unfold discoveryEffect
    dsimp only
    rw [if_neg (hch _)]
    rfl
  refine ⟨_, ?_, heq⟩
  split
  · exact (raiseUnit_raised ..).reported
  · exact .refl s

theorem discovery_brings_up {k : Nat} {f : Frame} (hf : NextFrame s p 0x16 k f) (hfar : (getPort s p).farResets = none)
    (htr : (getPort s p).trained = true) (hst : (getPort s p).state = 0 ∨ (getPort s p).state = 1) :
    Runs (.discovery p) s (fun t => Took s t p k f ∧ (getPort t p).state = 2 ∧ (getPort t p).farPort = f.aux % 256 ∧
      (getPort t p).farSerial = BitVec.ofNat 64 f.addr ∧ (getPort t p).farChip = f.aux / 2 ^ 24 % 2 ^ 15 ∧
      (getPort t p).farValid = Word.bitOf f.aux 39 ∧ (getPort t p).farResets = some f.index ∧
      (getPort t p).miswired = isMiswired s p (f.aux / 2 ^ 8 % 256) (f.aux % 256) ∧ t.fab.sessions = s.fab.sessions) := by
  have hx : getPort (taken s p k f) p = { getPort s p with rx := (getPort s p).rx.eraseIdx k } := (getPort_taken ..).trans (if_pos rfl)
  obtain ⟨u, hu, heff⟩ := discoveryEffect_first (s := taken s p k f) (f := f) (by rw [hx]; exact hfar)
  have hp : getPort u p = getPort (taken s p k f) p := getPort_congr (congrArg Fab.ports hu.fab) p
  have hup : getPort (modPort u p (discoveredPort f (isMiswired (taken s p k f) p (f.aux / 2 ^ 8 % 256) (f.aux % 256)))) p
      = discoveredPort f (isMiswired (taken s p k f) p (f.aux / 2 ^ 8 % 256) (f.aux % 256)) (getPort (taken s p k f) p) := by
    rw [getPort_modPort_same, hp]
  have hstate : (if (getPort s p).trained && ((getPort s p).state == 1 || (getPort s p).state == 0) then 2 else (getPort s p).state) = 2 :=
    if_pos (by simpa [htr] using hst.symm)
  refine runs_eq rfl ((recvCtl_eq hf _).trans heff) ⟨took_of ?_ ?_, ?_, ?_, ?_, ?_, ?_, ?_, ?_, ?_⟩
  · rw [hup]
    rfl
  · intro o ho
    rw [modPort_out, hu]
    exact ho
  · rw [hup, hx]
    exact hstate
  · rw [hup]
    rfl
  · rw [hup]
    rfl
  · rw [hup]
    rfl
  · rw [hup]
    rfl
  · rw [hup]
    rfl
  · rw [hup]
    rfl
  · have hfab : u.fab = (taken s p k f).fab := hu.fab
    show u.fab.sessions = _
    rw [hfab]
    rfl

/-! ## Lanes and backpressure -/

/-- The standing of a unit is kept outside memory, cores and ports. -/
theorem setStanding_mem (s : State) (u : W64) (new : Nat) (fenced : Bool) : (setStanding s u new fenced).mem = s.mem := by
  unfold setStanding
  extract_lets r s1 s2
  have h : s2.mem = s.mem := by
    have hl : LedgerOnly s s1 := logRec_ledgerOnly ..
    show s1.mem = s.mem
    rw [hl]
  split
  · exact h
  · split
    · rw [raiseUnit_eventsOnly (s := s2) noCtx u 0 (unitDie u) false (reason := 0xF8) (by decide)]
      exact h
    · split
      · rw [raiseUnit_eventsOnly (s := s2) noCtx u 0 (unitDie u) false (reason := 0xF9) (by decide)]
        exact h
      · exact h

theorem portOut_frame (s : State) (p : Nat) : (portOut s p).mem = s.mem ∧ (portOut s p).cores = s.cores ∧ (portOut s p).cmds = s.cmds ∧
    getPort (portOut s p) p = { downPort 4 false (getPort s p) with reason := 0x6B } := by
  have hfr := portDown_frame s p 4 false
  have hdown := getPort_portDown s p 4 false
  unfold portOut
  dsimp only
  generalize portDown s p 4 false = t at *
  have hset := setStanding_reported (modPort t p (fun x => { x with reason := 0x6B })) (portUnit p) 2 false
  refine ⟨(setStanding_mem ..).trans ?_, hset.cores.trans ?_, hset.cmds.trans ?_, (getPort_congr (congrArg Fab.ports hset.fab) p).trans ?_⟩
  · rw [hfr]
    rfl
  · rw [hfr]
    rfl
  · rw [hfr]
    rfl
  · rw [getPort_modPort_same, hdown]

theorem fabricLaneRetire_retires {lane : Nat} (hl : lane < 9) (htr : (getPort s p).trained = true)
    (hb : Word.bitOf (getPort s p).retired lane = false) :
    Runs (.fabricLaneRetire p lane) s (fun t => (getPort t p).retired = (getPort s p).retired + 2 ^ lane ∧ (getPort t p).trained = false ∧
      t.mem.cells = s.mem.cells ∧ t.cores = s.cores ∧ t.cmds = s.cmds ∧
      (getPort t p).state = if laneCount (511 - ((getPort s p).retired + 2 ^ lane)) < 8 then 4 else 1) := by
  have hgo : ¬(9 ≤ lane || !(getPort s p).trained || Word.bitOf (getPort s p).retired lane) = true := by simp [hl, htr, hb]
  refine runs_eq rfl (if_neg hgo) ?_
  have hlog : LedgerOnly s (logLane s (portLaneUnit p lane) 0 2 false) := logRec_ledgerOnly ..
  generalize logLane s (portLaneUnit p lane) 0 2 false = t at *
  have hp : getPort t p = getPort s p := getPort_congr (by rw [hlog]) p
  have hx : getPort (modPort t p (fun x => { x with retired := x.retired + 2 ^ lane })) p
      = { getPort s p with retired := (getPort s p).retired + 2 ^ lane } := by rw [getPort_modPort_same, hp]
  have hmod := modPort_mem t p (fun x => { x with retired := x.retired + 2 ^ lane })
  have hcore := modPort_cores t p (fun x => { x with retired := x.retired + 2 ^ lane })
  have hcmd := modPort_cmds t p (fun x => { x with retired := x.retired + 2 ^ lane })
  have hmem : t.mem = s.mem := by rw [hlog]
  have hcores : t.cores = s.cores := by rw [hlog]
  have hcmds : t.cmds = s.cmds := by rw [hlog]
  rw [hmem] at hmod
  rw [hcores] at hcore
  rw [hcmds] at hcmd
  clear hmem hcores hcmds
  generalize modPort t p (fun x => { x with retired := x.retired + 2 ^ lane }) = u at *
  rw [hx]
  dsimp only
  split
  next hfew =>
    obtain ⟨hm, hc, hk, hd⟩ := portOut_frame u p
    rw [hx] at hd
    rw [hm, hc, hk, hd]
    exact ⟨rfl, rfl, congrArg Mem.cells hmod, hcore, hcmd, rfl⟩
  next hfew =>
    have hfr := portDown_frame u p 1 false
    have hd := getPort_portDown u p 1 false
    generalize portDown u p 1 false = w at *
    rw [hd, hx]
    refine ⟨rfl, rfl, ?_, ?_, ?_, rfl⟩
    · rw [hfr]
      exact congrArg Mem.cells hmod
    · rw [hfr]
      exact hcore
    · rw [hfr]
      exact hcmd

theorem portBackpressure_holds (h : (getPort s p).credits.getD 0 0 = 0 ∨ (getPort s p).credits.getD 1 0 = 0 ∨
      (getPort s p).credits.getD 2 0 = 0 ∨ (getPort s p).credits.getD 3 0 = 0) :
    Runs (.portBackpressure p true) s (fun t => t = { s with fab := { s.fab with ports := t.fab.ports }, events := t.events } ∧
      getPort t p = { getPort s p with backpressure := true } ∧ ∀ q, q ≠ p → getPort t q = getPort s q) := by
  have hany : (List.range 4).any (fun l => (getPort s p).credits.getD l 0 == 0) = true := by
    rw [List.any_eq_true]
    rcases h with h | h | h | h
    · exact ⟨0, by decide, by rw [h]; rfl⟩
    · exact ⟨1, by decide, by rw [h]; rfl⟩
    · exact ⟨2, by decide, by rw [h]; rfl⟩
    · exact ⟨3, by decide, by rw [h]; rfl⟩
  have hev := raiseUnit_eventsOnly (s := modPort s p (fun x => { x with backpressure := true })) (reason := 0x0E) noCtx (portUnit p)
    (1 + p * 2 ^ 16) (some (portDie p)) (getPort s p).backpressure (by decide)
  refine runs_eq rfl (if_pos hany) ?_
  generalize raiseUnit (modPort s p (fun x => { x with backpressure := true })) 0x0E noCtx (portUnit p) (1 + p * 2 ^ 16)
    (some (portDie p)) (getPort s p).backpressure = t at *
  have hports (q : Nat) : getPort t q = getPort (modPort s p (fun x => { x with backpressure := true })) q := getPort_congr (by rw [hev]) q
  refine ⟨?_, (hports p).trans (getPort_modPort_same ..), fun q h => (hports q).trans (getPort_modPort_ne s h _)⟩
  rw [hev]
  rfl

theorem portBackpressure_ends (s : State) (p : Nat) :
    Runs (.portBackpressure p false) s (fun t => t = { s with fab := { s.fab with ports := t.fab.ports } } ∧
      getPort t p = { getPort s p with backpressure := false } ∧ ∀ q, q ≠ p → getPort t q = getPort s q) :=
  runs_eq (t := modPort s p fun x => { x with backpressure := false }) rfl rfl
    ⟨rfl, getPort_modPort_same .., fun _ h => getPort_modPort_ne s h _⟩

/-! ## Time transfer -/

theorem timeExchange_asks {tx : Nat} (hup : portUp s p = true) :
    Runs (.timeExchange p tx) s (fun t => t = { s with fab := t.fab } ∧ getPort t p = { getPort s p with t1 := some tx } ∧
      { frame := timeFrame 1 tx 0, port := some p } ∈ t.fab.sendq ∧
      (rbit (getPort s p).cfg 0 = false → { frame := timeFrame 3 tx 0, port := some p } ∈ t.fab.sendq)) := by
  have heq : timeExchange s p tx = if rbit (getPort s p).cfg 0
      then enqueue (modPort s p (fun x => { x with t1 := some tx })) { frame := timeFrame 1 tx 0, port := some p }
      else enqueue (enqueue (modPort s p (fun x => { x with t1 := some tx })) { frame := timeFrame 1 tx 0, port := some p })
        { frame := timeFrame 3 tx 0, port := some p } := by
    have hgo : ¬(!portUp s p) = true := by simp [hup]
    have hcfg (i : Item) : (getPort (enqueue (modPort s p (fun x => { x with t1 := some tx })) i) p).cfg = (getPort s p).cfg := by
      show (getPort (modPort s p (fun x => { x with t1 := some tx })) p).cfg = _
      rw [getPort_modPort_same]
    unfold Machine.timeExchange
    rw [if_neg hgo]
    dsimp only
    rw [hcfg]
  have hp : getPort (modPort s p (fun x => { x with t1 := some tx })) p = { getPort s p with t1 := some tx } := getPort_modPort_same ..
  refine runs_eq rfl heq ?_
  have hfr := modPort_fields s p (fun x => { x with t1 := some tx })
  generalize modPort s p (fun x => { x with t1 := some tx }) = u at *
  generalize timeFrame 1 tx 0 = f1
  generalize timeFrame 3 tx 0 = f3
  split
  next h => exact ⟨by rw [hfr]; rfl, hp, List.mem_append_right _ (List.mem_singleton.mpr rfl), fun h' => absurd (h.symm.trans h') (by decide)⟩
  next => exact ⟨by rw [hfr]; rfl, hp, List.mem_append_left _ (List.mem_append_right _ (List.mem_singleton.mpr rfl)),
    fun _ => List.mem_append_right _ (List.mem_singleton.mpr rfl)⟩

theorem time_answers {rx tx k : Nat} {f : Frame} (hf : NextFrame s p 0x15 k f) (h1 : f.opid = 1) :
    Runs (.time p rx tx) s (fun t => t = { s with fab := t.fab, out := t.out } ∧ Took s t p k f ∧
      t.fab.sendq = s.fab.sendq ++ [{ frame := timeFrame 2 tx rx, port := some p }]) :=
  runs_eq rfl ((recvCtl_eq hf _).trans (if_pos h1)) ⟨rfl, took_of_kept rfl rfl, rfl⟩

/-- The delay that a response to the request of time `t1` shows. -/
def measuredDelay (rx t1 : Nat) (f : Frame) (x : Port) : Int :=
  (((rx : Int) - t1) - (((f.addr * 65536 + f.index % 65536 : Nat) : Int)
    - ((f.aux * 65536 + f.index / 65536 % 65536 : Nat) : Int))) / 2 + asymUnits x

theorem timeEffect_response {rx tx : Nat} {f : Frame} {t1 : Nat} (h2 : f.opid = 2) (ht : (getPort s p).t1 = some t1) :
    timeEffect p rx tx s f = modPort s p (fun x => { x with delay := some (measuredDelay rx t1 f (getPort s p)), t1 := none }) := by
  unfold timeEffect
  dsimp only
  rw [if_neg (by rw [h2]; decide), if_pos h2, ht]
  rfl

theorem time_measures {rx tx k : Nat} {f : Frame} {t1 : Nat} (hf : NextFrame s p 0x15 k f) (h2 : f.opid = 2)
    (ht : (getPort s p).t1 = some t1) :
    Runs (.time p rx tx) s (fun t => t = { s with fab := { s.fab with ports := t.fab.ports }, out := t.out } ∧ Took s t p k f ∧
      (getPort t p).t1 = none ∧
      (getPort t p).delay = some ((((rx : Int) - t1) - (((f.addr * 65536 + f.index % 65536 : Nat) : Int)
        - ((f.aux * 65536 + f.index / 65536 % 65536 : Nat) : Int))) / 2 + asymUnits (getPort s p))) := by
  have hx : getPort (taken s p k f) p = { getPort s p with rx := (getPort s p).rx.eraseIdx k } := (getPort_taken ..).trans (if_pos rfl)
  have heff := timeEffect_response (s := taken s p k f) (p := p) (rx := rx) (tx := tx) (f := f) h2 (by rw [hx]; exact ht)
  have hd : measuredDelay rx t1 f (getPort (taken s p k f) p) = measuredDelay rx t1 f (getPort s p) := by
    rw [hx]
    rfl
  rw [hd] at heff
  refine runs_eq rfl ((recvCtl_eq hf _).trans heff) ?_
  have hp := getPort_modPort_same (taken s p k f) p (fun x => { x with delay := some (measuredDelay rx t1 f (getPort s p)), t1 := none })
  refine ⟨rfl, took_of ?_ fun o h => h, ?_, ?_⟩
  · rw [hp]
  · rw [hp]
  · rw [hp]
    rfl

end

/-- Settles O31: what each command of a port and of the time transfer does. -/
theorem portsAndTime : Obligations.PortsAndTime :=
  ⟨fun _ _ _ hh hp hv hoff => portEnable_judged hh hp hv hoff, fun _ _ _ hh hp hv hen hst => portDisable_disables hh hp hv hen hst,
    fun _ _ _ hst hre hl => portTrainingDone_trains hst hre hl, fun _ _ failed lanes hst => portTrainingDone_unanswered failed lanes hst,
    fun _ _ hen hst htr => portTrainingRetry_trains hen hst htr, fun _ _ htr => portLinkLost_downs htr,
    fun _ _ htr => discoverySend_sends htr, fun _ _ hst => discoveryTimeout_downs hst,
    fun _ _ _ _ _ hf hx hfar htr hst => by subst hx; exact discovery_brings_up hf hfar htr hst,
    fun _ _ _ hl htr hb => fabricLaneRetire_retires hl htr hb, fun _ _ h => portBackpressure_holds h, portBackpressure_ends,
    fun _ _ _ hup => timeExchange_asks hup, fun _ _ _ _ _ _ hf h1 => time_answers hf h1,
    fun _ _ _ _ _ _ _ hf h2 ht => time_measures hf h2 ht⟩

end Sys2Proof.Machine
end

section
/-! # The PCIe link and the function's resets (09/R275, R276, 16/R494, R499) -/

namespace Sys2Proof.Machine

/-! ## What a reset of the function leaves -/

/-- `t` keeps boot, fuses, partitions and the PCIe function of `s`, and each context its state or is torn down. -/
structure Torn (s t : State) : Prop where
  boot : t.boot = s.boot
  fuses : t.fuses = s.fuses
  parts : t.parts = s.parts
  pcie : t.pcie = s.pcie
  ctx : ∀ k, (getCtx t k).state = 3 ∨ (getCtx t k).state = (getCtx s k).state

theorem Torn.refl (s : State) : Torn s s := ⟨rfl, rfl, rfl, rfl, fun _ => .inr rfl⟩

theorem Torn.trans {s t u : State} (h : Torn s t) (g : Torn t u) : Torn s u :=
  ⟨g.boot.trans h.boot, g.fuses.trans h.fuses, g.parts.trans h.parts, g.pcie.trans h.pcie, fun k =>
    (g.ctx k).elim .inl fun e => (h.ctx k).imp e.trans e.trans⟩

theorem Torn.ite {s t u : State} {p : Prop} [Decidable p] (h : Torn s t) (g : Torn s u) : Torn s (if p then t else u) := by
  split
  · exact h
  · exact g

theorem Torn.foldl {α : Type} {f : State → α → State} (hf : ∀ s a, Torn s (f s a)) (l : List α) (s : State) : Torn s (l.foldl f s) := by
  induction l generalizing s with
  | nil => exact .refl s
  | cons a l ih => exact (hf s a).trans (ih _)

theorem Torn.of_eq {s t : State} (hb : t.boot = s.boot) (hf : t.fuses = s.fuses) (hp : t.parts = s.parts) (hl : t.pcie = s.pcie)
    (hc : t.ctxs = s.ctxs) : Torn s t :=
  ⟨hb, hf, hp, hl, fun k => .inr (by unfold getCtx; rw [hc])⟩

theorem Failed.torn {s t : State} (h : Failed s t) : Torn s t := by
  refine .of_eq ?_ ?_ ?_ ?_ ?_ <;> rw [h]

theorem Torn.withFab (s : State) (x : Fab) : Torn s { s with fab := x } := .of_eq rfl rfl rfl rfl rfl
theorem Torn.withCores (s : State) (x : Tab Core) : Torn s { s with cores := x } := .of_eq rfl rfl rfl rfl rfl
theorem Torn.withLaunches (s : State) (x : Tab Launch) : Torn s { s with launches := x } := .of_eq rfl rfl rfl rfl rfl
theorem Torn.withMem (s : State) (x : Mem) : Torn s { s with mem := x } := .of_eq rfl rfl rfl rfl rfl
theorem Torn.withStep (s : State) (x : StepSt) : Torn s { s with stepSt := x } := .of_eq rfl rfl rfl rfl rfl
theorem Torn.withLedger (s : State) (x : Ledger) : Torn s { s with ledger := x } := .of_eq rfl rfl rfl rfl rfl
theorem Torn.withCoreMap (s : State) (x : Tab MapEntry) : Torn s { s with coreMap := x } := .of_eq rfl rfl rfl rfl rfl
theorem Torn.withActive (s : State) (x : Tab Nat) : Torn s { s with cpActive := x } := .of_eq rfl rfl rfl rfl rfl

/-- A change of a context that keeps its state or tears it down. -/
theorem modCtx_torn (s : State) (c : Nat) {g : Ctx → Ctx} (h : ∀ x, (g x).state = 3 ∨ (g x).state = x.state) : Torn s (modCtx s c g) := by
  refine ⟨rfl, rfl, rfl, rfl, fun k => ?_⟩
  rw [modCtx, getCtx_setCtx]
  split
  next e => exact e ▸ h _
  next => exact .inr rfl

/-! ## A command that is cancelled -/

theorem endHeld_failed (reason : Nat) (s : State) (c : Cmd) : Failed s (endHeld reason s c) := by
  unfold endHeld
  dsimp only
  split
  · exact stopLaunch_failed ..
  · refine .trans ?_ (setEnded_failed ..)
    split
    · split
      · exact (dropRun_failed ..).trans (ringBell_failed ..)
      · exact .refl s
    · exact .refl s

/-! ## A teardown -/

theorem openHalf_torn (s : State) (n : Nat) : Torn s (openHalf s n) := by
  unfold openHalf
  dsimp -zeta only [drawFree]
  extract_lets sid s2
  have h : Torn s s2 := .of_eq rfl rfl rfl rfl rfl
  refine h.trans ?_
  split
  · exact .withFab _ _
  · exact .refl _

theorem useSession_torn (s : State) (peer : Nat) : Torn s (useSession s peer).1 := by
  unfold useSession
  split
  · split
    · split
      · exact .refl s
      · exact openHalf_torn ..
    · exact .refl s
  · split
    · exact .refl s
    · exact (Torn.withFab s _).trans (openHalf_torn ..)

theorem sendReply_torn (s : State) (f : Frame) : Torn s (sendReply s f) := by
  have h := useSession_torn s f.dst
  unfold sendReply
  generalize useSession s f.dst = r at *
  obtain ⟨t, m⟩ := r
  cases m with
  | none => exact h
  | some n => exact h.trans (.withFab t _)

/-- A peer that is asked to revoke a context is kept with the operation's number. -/
theorem revokeOp_torn (s : State) (ctx chip id : Nat) (g : Fab → Fab) :
    Torn s (modCtx (modFab s g) ctx (fun c => { c with peers := c.peers ++ [(chip, id)] })) :=
  (Torn.withFab s (g s.fab)).trans (modCtx_torn _ ctx fun _ => .inr rfl)

theorem sendRevoke_torn (ctx gen : Nat) (s : State) (u : Nat × Nat × Nat × Nat) : Torn s (sendRevoke ctx gen s u) :=
  (revokeOp_torn ..).trans (sendReply_torn ..)

theorem dropFabric_torn (s : State) (ctx gen : Nat) : Torn s (dropFabric s ctx gen) := (Torn.withFab s _).trans (.withCores _ _)
theorem dropSteps_torn (s : State) : Torn s (dropSteps s) := (Torn.withStep s _).trans (.withMem _ _)

/-- A context that is neither enabled nor open. -/
def CtxShut (s : State) (k : Nat) : Prop := (getCtx s k).state ≠ 1 ∧ (getCtx s k).state ≠ 2

theorem Torn.ctxShut {s t : State} (h : Torn s t) {k : Nat} (hs : CtxShut s k) : CtxShut t k := by
  unfold CtxShut
  rcases h.ctx k with e | e
  · rw [e]
    decide
  · rw [e]
    exact hs

theorem beginTeardown_torn (s : State) (ctx reason : Nat) (keep : Option Nat) : Torn s (beginTeardown s ctx reason keep) ∧
    CtxShut (beginTeardown s ctx reason keep) ctx := by
  unfold beginTeardown
  extract_lets x gen held n s1 s2 s3 s4
  split
  next hgo => exact ⟨.refl s, by simpa [CtxShut, x, not_or] using hgo⟩
  next =>
    have h1 : Torn s s1 := modCtx_torn s ctx fun _ => .inl rfl
    have hshut : CtxShut s1 ctx := by
      simp only [s1, CtxShut, modCtx, getCtx_setCtx, if_true]
      decide
    have h2 : Torn s1 s2 := (Failed.foldl (endHeld_failed reason) held s1).torn
    have h3 : Torn s2 s3 := dropFabric_torn s2 ctx gen
    have h4 : Torn s3 s4 := .ite (dropSteps_torn s3) (.refl s3)
    have h5 := Torn.foldl (sendRevoke_torn ctx gen) (s4.fab.used.filter (fun u => u.1 == ctx && u.2.1 == gen)) s4
    have hrest := ((h2.trans h3).trans h4).trans h5
    exact ⟨h1.trans hrest, hrest.ctxShut hshut⟩

/-! ## The end of a launch -/

theorem logRec_torn (s : State) (kind reason : Nat) (unit : W64) (data : List Byte) : Torn s (logRec s kind reason unit data) :=
  (logRec_reported ..).failed.torn

theorem raiseUnit_torn (s : State) (r cg u a d b) : Torn s (raiseUnit s r cg u a d b) := (raiseUnit_raised ..).reported.failed.torn

theorem startTest_torn (s : State) (u : W64) (test route : Nat) : Torn s (startTest s u test route) := by
  unfold startTest
  extract_lets s1
  have h : Torn s s1 := by
    simp only [s1]
    split
    · exact .withActive s _
    · exact .withActive s _
    · exact .refl s
  exact h.trans (.withLedger _ _)

theorem startAll_torn (s : State) (u : W64) (route : Nat) : Torn s (startAll s u route) := .foldl (fun _ _ => startTest_torn ..) _ s

theorem repairCore_torn (s : State) (core : Nat) : Torn s (repairCore s core) := by
  unfold repairCore
  dsimp only
  split
  · exact (logRec_torn ..).trans (.withCoreMap _ _)
  · exact (logRec_torn ..).trans (.withCoreMap _ _)

theorem swapCore_torn (s : State) (core budget : Nat) : Torn s (swapCore s core budget) := by
  unfold swapCore
  dsimp only
  split
  · exact .refl s
  · split
    · exact ((Torn.withCoreMap s _).trans (raiseUnit_torn ..)).trans (startAll_torn ..)
    · refine (raiseUnit_torn s 0xFC noCtx (coreUnit s core) 0 (some (core / 128)) false).trans ?_
      exact .foldl (fun _ _ => startTest_torn ..) _ _

theorem coreBoundary_torn (budget : Nat) (s : State) (core : Nat) : Torn s (coreBoundary budget s core) := by
  unfold coreBoundary
  dsimp only
  exact .ite (.refl s) (.ite (repairCore_torn ..) (.ite (swapCore_torn ..) (.foldl (fun _ _ => startTest_torn ..) _ s)))

theorem fwWrite_torn (s : State) (a : Nat) (bs : List Byte) : Torn s (fwWrite s a bs) :=
  (Torn.withMem s _).trans (.foldl (fun _ _ => (Torn.withMem _ _).trans (.withMem _ _)) _ _)

theorem freeCores_torn (s : State) (slot : Nat) (l : Launch) : Torn s (freeCores s slot l) :=
  .foldl (fun s k => (modCore_failed s k _).torn) _ s

theorem launchBoundary_torn (s : State) (l : Launch) : Torn s (launchBoundary s l) :=
  .ite (.refl s) (.foldl (coreBoundary_torn _) _ s)

theorem openCut_torn (s : State) (l : Launch) (cut : List Nat) : Torn s (openCut s l cut) := .ite (.refl s) (.withMem s _)

theorem launchComplete_torn (s : State) (slot : Nat) (extra : List (Nat × Nat × Nat × Nat)) (cut : List Nat) :
    Torn s (launchComplete s slot extra cut) := by
  unfold launchComplete
  split
  · exact .refl s
  · dsimp only
    refine (openCut_torn s (getLaunch s slot) cut).trans ?_
    generalize openCut s (getLaunch s slot) cut = u
    refine .ite ?_ (.ite ?_ (.refl u))
    · refine .trans ?_ (endCmd_ran ..).torn
      refine .trans ?_ (launchBoundary_torn ..)
      refine (Torn.ite (p := (getLaunch s slot).profile = 0) (.refl u) (fwWrite_torn u (getLaunch s slot).profile (profileBytes extra))).trans ?_
      exact (freeCores_torn _ slot _).trans (.withLaunches _ _)
    · exact (Torn.withLaunches u _).trans (endCmd_ran ..).torn

/-! ## The resets -/

/-- What a reset of the function does before it forgets commands and queues. -/
def flrTorn (s : State) : State :=
  let t := s.ctxs.foldl (fun s c => beginTeardown s c.1 0x0C none) s
  let u := (t.cmds.filter (fun c => c.phase != 2)).foldl (endHeld 0x0C) t
  (u.launches.map (·.1)).foldl (fun s l => launchComplete s l [] []) u

theorem flrEffects_eq (s : State) : flrEffects s = { flrTorn s with
    ctxs := (flrTorn s).ctxs.map (fun (c : Nat × Ctx) => (c.1, { c.2 with destroyCmd := none }))
    cmds := [], queues := [], rrQueue := 0, rrLeft := 0, backpressure := false, pcie := { linkUp := (flrTorn s).pcie.linkUp } } := rfl

/-- A fold of teardowns shuts each context of the list. -/
theorem foldl_beginTeardown (reason : Nat) (l : List (Nat × Ctx)) (s : State) :
    Torn s (l.foldl (fun s c => beginTeardown s c.1 reason none) s) ∧
      ∀ c ∈ l, CtxShut (l.foldl (fun s c => beginTeardown s c.1 reason none) s) c.1 := by
  induction l generalizing s with
  | nil => exact ⟨.refl s, fun _ h => nomatch h⟩
  | cons a l ih =>
    obtain ⟨ht, hshut⟩ := beginTeardown_torn s a.1 reason none
    obtain ⟨hrest, hall⟩ := ih (beginTeardown s a.1 reason none)
    refine ⟨ht.trans hrest, fun c hc => ?_⟩
    rcases List.mem_cons.mp hc with rfl | hc
    · exact hrest.ctxShut hshut
    · exact hall c hc

theorem tget_default_of_unlisted {α : Type} (d : α) (t : Tab α) (i : Nat) (h : ∀ e ∈ t, e.1 ≠ i) : tget d t i = d := by
  induction t with
  | nil => rfl
  | cons e t ih =>
    rw [tget, if_neg (h e (by simp)).symm, ih fun x hx => h x (List.mem_cons_of_mem _ hx)]

theorem tget_map {α : Type} (d : α) (g : α → α) (hd : g d = d) (t : Tab α) (i : Nat) :
    tget d (t.map fun e => (e.1, g e.2)) i = g (tget d t i) := by
  induction t with
  | nil => exact hd.symm
  | cons e t ih =>
    rw [List.map_cons, tget, tget]
    split
    · rfl
    · exact ih

theorem flrTorn_torn (s : State) : Torn s (flrTorn s) ∧ ∀ k, CtxShut (flrTorn s) k := by
  unfold flrTorn
  extract_lets t u
  obtain ⟨h1, hlisted⟩ := foldl_beginTeardown 0x0C s.ctxs s
  have h2 : Torn t u := (Failed.foldl (endHeld_failed 0x0C) _ t).torn
  have h3 := Torn.foldl (fun s l => launchComplete_torn s l [] []) (u.launches.map (·.1)) u
  refine ⟨(h1.trans h2).trans h3, fun k => (h2.trans h3).ctxShut ?_⟩
  by_cases hk : ∃ e ∈ s.ctxs, e.1 = k
  · obtain ⟨e, he, rfl⟩ := hk
    exact hlisted e he
  · have hd : getCtx s k = {} := tget_default_of_unlisted _ _ _ fun e he hek => hk ⟨e, he, hek⟩
    refine h1.ctxShut ?_
    unfold CtxShut
    rw [hd]
    decide

theorem getCtx_flrEffects (s : State) (k : Nat) : getCtx (flrEffects s) k = { getCtx (flrTorn s) k with destroyCmd := none } := by
  rw [flrEffects_eq]
  exact tget_map _ (fun x : Ctx => { x with destroyCmd := none }) rfl _ k

theorem functionLevelReset_forgets {s : State} (hb : 4 ≤ s.boot.phase) (hp : powered s = true) :
    Runs .functionLevelReset s (fun t => t.cmds = [] ∧ t.queues = [] ∧ t.pcie = { linkUp := s.pcie.linkUp } ∧ t.boot = s.boot ∧
      t.fuses = s.fuses ∧ t.parts = s.parts ∧ ∀ k, (getCtx t k).state ≠ 1 ∧ (getCtx t k).state ≠ 2 ∧ (getCtx t k).destroyCmd = none) := by
  obtain ⟨ht, hshut⟩ := flrTorn_torn s
  have hctx := getCtx_flrEffects s
  have heq := flrEffects_eq s
  refine runs_eq rfl (if_pos (by simp [hb, hp])) ?_
  refine ⟨rfl, rfl, ?_, ?_, ?_, ?_, fun k => ?_⟩
  · rw [heq, ht.pcie]
  · rw [heq, ht.boot]
  · rw [heq, ht.fuses]
  · rw [heq, ht.parts]
  · rw [hctx k]
    exact ⟨(hshut k).1, (hshut k).2, rfl⟩

theorem perst_forgets {s : State} (hp : portAlive s = true) :
    Runs .perst s (fun t => t.cmds = [] ∧ t.queues = [] ∧ t.pcie = { linkUp := false } ∧ t.boot = s.boot ∧ t.fuses = s.fuses ∧
      t.parts = s.parts) := by
  obtain ⟨ht, -⟩ := flrTorn_torn s
  have heq := flrEffects_eq s
  refine runs_eq rfl (if_pos hp) ⟨?_, ?_, rfl, ?_, ?_, ?_⟩
  · rw [heq]
  · rw [heq]
  · rw [heq, ht.boot]
  · rw [heq, ht.fuses]
  · rw [heq, ht.parts]

/-! ## Read errors -/

theorem pcieReadError_stops {s : State} {q : Nat} (he : qEnabled (getQueue s q) = true) (hs : qSubmits q (getQueue s q) = true)
    (hst : (getQueue s q).state = 1) (hne : (getQueue s q).head ≠ (getQueue s q).tail) :
    Runs (.pcieReadError q none) s (fun t => t = { s with queues := t.queues } ∧
      getQueue t q = { getQueue s q with state := 2, reason := 0x08, failAt := s.cmdOrd } ∧ ∀ k, k ≠ q → getQueue t k = getQueue s k) :=
  runs_eq rfl (if_pos (by simp [he, hs, hst, hne])) (modQueue_only ..)

/-- A command without a training context is charged to no step. -/
theorem chargeNow_untrained {s : State} (h : ∀ k, (getCtx s k).training = false) (ctx gen reason : Nat) : chargeNow s ctx gen reason = s :=
  if_neg (by simp [isTraining, h])

theorem pcieReadError_ends {s : State} {q n : Nat} {c : Cmd} (hc : IsBegun s n 0x0101 c ∨ IsBegun s n 0x0604 c)
    (hl : ∀ d ∈ queueCmds s c.queue, d.ord ≤ c.ord) :
    Runs (.pcieReadError q (some n)) s (fun t =>
      t = { s with mem := t.mem, stepSt := t.stepSt, queues := t.queues, cmds := endedCmds s n { cls := 3, reason := 0x0D } } ∧
      ((∀ k, (getCtx s k).training = false) → t.mem = s.mem ∧ t.stepSt = s.stepSt)) := by
  have hf : findCmd s n = some c := hc.elim (·.find) (·.find)
  have hg : Uncut c := hc.elim (·.uncut) (·.uncut)
  have hop : Pkt.opcode c.packet = 0x0101 ∨ Pkt.opcode c.packet = 0x0604 := hc.imp (·.opcode) (·.opcode)
  have hph : c.phase = 1 := hc.elim (fun h => (begun_iff.mp h.1).2.1) (fun h => (begun_iff.mp h.1).2.1)
  have heq : pcieReadError s q (some n) = endCmd s n { cls := 3, reason := 0x0D } := by
    unfold Machine.pcieReadError
    dsimp only
    rw [hf]
    exact if_pos ⟨hph, hop⟩
  refine runs_eq rfl (heq.trans (endCmd_failed hf hg rfl hl)) ⟨?_, fun htr => ?_⟩
  · rw [chargeNow_frame]
    rfl
  · rw [chargeNow_untrained (s := { s with cmds := endedCmds s n { cls := 3, reason := 0x0D } }) htr]
    exact ⟨rfl, rfl⟩

/-- Settles O44: what the link's changes, the function's resets and a read error do. -/
theorem pcieLink : Obligations.PcieLink :=
  ⟨fun _ => ⟨_, rfl, rfl⟩, fun _ hp => runs_eq rfl (if_pos hp) rfl, fun _ hb hp => functionLevelReset_forgets hb hp,
    fun _ hp => perst_forgets hp, fun _ _ _ hx he hs hst hne => by subst hx; exact pcieReadError_stops he hs hst hne,
    fun _ _ _ _ hc hl => pcieReadError_ends hc hl⟩

end Sys2Proof.Machine
end

section
/-! # Crates: the fields of a tag, and crates that firmware writes (08/R239-R245) -/

namespace Sys2Proof.Machine

/-! ## The fields of a tag -/

namespace Tag

theorem toNat_mk (c : W64) (fmt zmap flags lineage : Nat) : (mk c fmt zmap flags lineage).toNat
    = c.toNat + fmt % 2 ^ 8 * 2 ^ 64 + zmap % 2 ^ 8 * 2 ^ 72 + flags % 2 ^ 16 * 2 ^ 80 + lineage % 2 ^ 32 * 2 ^ 96 := by
  have hc := c.isLt
  rw [mk, BitVec.toNat_ofNat]
  refine Nat.mod_eq_of_lt ?_
  omega

theorem check_mk (c : W64) (fmt zmap flags lineage : Nat) : check (mk c fmt zmap flags lineage) = c := by
  have hc := c.isLt
  refine BitVec.eq_of_toNat_eq ?_
  rw [check, toNat_mk, BitVec.toNat_ofNat]
  omega

theorem fmt_mk (c : W64) (f zmap flags lineage : Nat) : fmt (mk c f zmap flags lineage) = f % 256 := by
  have hc := c.isLt
  rw [fmt, toNat_mk, Word.bitsOf]
  omega

theorem lineage_mk (c : W64) (fmt zmap flags l : Nat) : lineage (mk c fmt zmap flags l) = l % 2 ^ 32 := by
  have hc := c.isLt
  rw [lineage, toNat_mk, Word.bitsOf]
  omega

theorem poisoned_mk (c : W64) (fmt zmap f lineage : Nat) : poisoned (mk c fmt zmap f lineage) = decide (f / 2 ^ 7 % 2 = 1) := by
  have hc := c.isLt
  rw [poisoned, toNat_mk]
  refine decide_eq_decide.mpr ?_
  omega

end Tag

/-! ## Crates that firmware writes -/

/-- What a crate reads as does not turn on the firmware's counter nor on the channels. -/
theorem WroteCrate.congr {m m' m'' : Mem} {k : Nat} {p : List Byte} {t : W128} (h : WroteCrate m m' k p t)
    (hc : m''.cells = m'.cells) (ht : m''.tags = m'.tags) (ho : m''.opened = m'.opened) (hb : m''.bad = m'.bad) : WroteCrate m m'' k p t := by
  have hbytes (j : Nat) : crateBytes m'' j = crateBytes m' j := by
    unfold crateBytes
    rw [hc]
  have htag (j : Nat) : crateTag m'' j = crateTag m' j := by
    unfold crateTag crateBad
    rw [ht, ho, hb]
  unfold WroteCrate
  simp only [hbytes, htag]
  exact h

theorem fwCrate_wrote {m : Mem} {k : Nat} {p : List Byte} (hp : p.length = 4096) (hw : Writable m) (h : Plain m k) :
    WroteCrate m (fwCrate (preserve m k) k p) k p (Tag.computed p 6 0 0 (Tag.fwLineage m.fwSeq)) := by
  have hwrote := writeCrate_wrote m k p (Tag.computed p 6 0 0 (Tag.fwLineage m.fwSeq)) hp hw.1 hw.2 h
  rw [writeCrate, preserve_plain m k h] at hwrote
  rw [preserve_plain m k h]
  exact hwrote.congr rfl rfl rfl rfl

end Sys2Proof.Machine
end

section
/-! # The upkeep and the test state of the memory channels (07/R217-R227, R233, R234) -/

namespace Sys2Proof.Machine

/-! ## Channels -/

theorem getChan_modChan_same (s : State) (ch : Nat) (g : Chan → Chan) : getChan (modChan s ch g) ch = g (getChan s ch) := by
  rw [getChan_modChan, if_pos rfl]

theorem getChan_modChan_ne (s : State) {ch k : Nat} (h : k ≠ ch) (g : Chan → Chan) : getChan (modChan s ch g) k = getChan s k := by
  rw [getChan_modChan, if_neg h]

theorem modChan_fields (s : State) (ch : Nat) (g : Chan → Chan) :
    modChan s ch g = { s with mem := { s.mem with chans := (modChan s ch g).mem.chans } } := rfl

/-- A change of one channel. -/
theorem modChan_only (s : State) (ch : Nat) (g : Chan → Chan) :
    modChan s ch g = { s with mem := { s.mem with chans := (modChan s ch g).mem.chans } } ∧
      getChan (modChan s ch g) ch = g (getChan s ch) ∧ ∀ k, k ≠ ch → getChan (modChan s ch g) k = getChan s k :=
  ⟨modChan_fields .., getChan_modChan_same .., fun _ h => getChan_modChan_ne s h g⟩

theorem getChan_congr {s t : State} (h : t.mem.chans = s.mem.chans) (k : Nat) : getChan t k = getChan s k := by
  unfold getChan
  rw [h]

theorem modScrub_only (s : State) (d : Nat) (g : Scrub → Scrub) :
    modScrub s d g = { s with mem := { s.mem with scrub := (modScrub s d g).mem.scrub } } ∧
      tget {} (modScrub s d g).mem.scrub d = g (tget {} s.mem.scrub d) ∧
      ∀ k, k ≠ d → tget {} (modScrub s d g).mem.scrub k = tget {} s.mem.scrub k :=
  ⟨rfl, (tget_tmod ..).trans (if_pos rfl), fun _ h => (tget_tmod ..).trans (if_neg h)⟩

/-- A command that ends well after a change of the memories. -/
theorem endCmd_withMem {s : State} {slot op : Nat} {c : Cmd} (h : IsBegun s slot op c) (m : Mem) {e : EndWith} (he : e.cls ≤ 1) :
    endCmd { s with mem := m } slot e = { s with mem := m, cmds := endedCmds s slot e } :=
  endCmd_succeeds (s := { s with mem := m }) h.find h.uncut he

/-! ## Recalibration -/

/-- `t` is `s` after `n` waiting lanes of a channel were replaced as far as spares last. -/
structure Replaced (ch n : Nat) (s t : State) : Prop where
  frame : Trained s t
  retire : (getChan t ch).retire = (getChan s ch).retire
  late : (getChan t ch).recalLate = (getChan s ch).recalLate
  left : (getChan t ch).sparesLeft = (getChan s ch).sparesLeft - n
  used : (getChan t ch).sparesUsed = (getChan s ch).sparesUsed + min n (getChan s ch).sparesLeft
  state : (getChan t ch).state = (getChan s ch).state
  others : ∀ k, k ≠ ch → getChan t k = getChan s k

theorem Replaced.trans {ch n m : Nat} {s t u : State} (h : Replaced ch n s t) (g : Replaced ch m t u) : Replaced ch (n + m) s u where
  frame := h.frame.trans g.frame
  retire := g.retire.trans h.retire
  late := g.late.trans h.late
  left := by rw [g.left, h.left, Nat.sub_sub]
  used := by
    rw [g.used, h.used, h.left]
    omega
  state := g.state.trans h.state
  others k hk := (g.others k hk).trans (h.others k hk)

theorem modUnit_trained (s : State) (u : W64) (g : UnitRec → UnitRec) : Trained s (modUnit s u g) := rfl

theorem replaceLane_replaced (ch : Nat) (s : State) (lane : Nat) : Replaced ch 1 s (replaceLane ch s lane) := by
  unfold replaceLane
  extract_lets c s1 s2
  split
  next h0 => exact ⟨rfl, rfl, rfl, by rw [show (getChan s ch).sparesLeft = 0 from h0], by rw [show (getChan s ch).sparesLeft = 0 from h0]; rfl, rfl, fun _ _ => rfl⟩
  next h0 =>
    have hpos : 0 < (getChan s ch).sparesLeft := Nat.pos_of_ne_zero h0
    have h1 := getChan_modChan_same s ch (fun c => { c with sparesLeft := c.sparesLeft - 1, sparesUsed := c.sparesUsed + 1, lastTrain := 2 })
    have hlog (k : Nat) : getChan (logLane s2 (laneUnit ch lane) 0 2 false) k = getChan s1 k := getChan_logRec ..
    refine ⟨((modChan_trained s ch _).trans (modUnit_trained ..)).trans (logRec_trained ..), ?_, ?_, ?_, ?_, ?_, fun k hk => ?_⟩
    · rw [hlog, h1]
    · rw [hlog, h1]
    · rw [hlog, h1]
    · rw [hlog, h1, Nat.min_eq_left hpos]
    · rw [hlog, h1]
    · rw [hlog]
      exact getChan_modChan_ne s hk _

theorem replaceLanes_replaced (ch : Nat) (l : List Nat) (s : State) : Replaced ch l.length s (l.foldl (replaceLane ch) s) := by
  induction l generalizing s with
  | nil => exact ⟨rfl, rfl, rfl, rfl, by simp, rfl, fun _ _ => rfl⟩
  | cons a l ih =>
    rw [List.length_cons, Nat.add_comm]
    exact (replaceLane_replaced ch s a).trans (ih _)

theorem recalibration_replaces (s : State) (ch : Nat) (late : Bool) : Runs (.recalibration ch late) s (fun t =>
    t = { s with mem := { s.mem with chans := t.mem.chans }, ledger := t.ledger } ∧ (getChan t ch).retire = [] ∧
    (getChan t ch).recalLate = ((getChan s ch).recalLate || late) ∧
    (getChan t ch).sparesLeft = (getChan s ch).sparesLeft - (getChan s ch).retire.length ∧
    (getChan t ch).sparesUsed = (getChan s ch).sparesUsed + min (getChan s ch).retire.length (getChan s ch).sparesLeft ∧
    (getChan t ch).state = (getChan s ch).state ∧ ∀ k, k ≠ ch → getChan t k = getChan s k) := by
  have hmod := getChan_modChan_same s ch (fun c => { c with recalLate := c.recalLate || late, retire := [] })
  have hne := fun k (hk : k ≠ ch) => getChan_modChan_ne s hk (fun c => { c with recalLate := c.recalLate || late, retire := [] })
  have hfr : Trained s (modChan s ch (fun c => { c with recalLate := c.recalLate || late, retire := [] })) := modChan_trained ..
  refine ⟨(getChan s ch).retire.foldl (replaceLane ch) (modChan s ch (fun c => { c with recalLate := c.recalLate || late, retire := [] })),
    rfl, ?_⟩
  generalize modChan s ch (fun c => { c with recalLate := c.recalLate || late, retire := [] }) = u at *
  have h := replaceLanes_replaced ch (getChan s ch).retire u
  refine ⟨hfr.trans h.frame, ?_, ?_, ?_, ?_, ?_, fun k hk => (h.others k hk).trans (hne k hk)⟩
  · rw [h.retire, hmod]
  · rw [h.late, hmod]
  · rw [h.left, hmod]
  · rw [h.used, hmod]
  · rw [h.state, hmod]

/-! ## Scrubs -/

theorem patrolScrubStep_clean (s : State) (ch : Nat) (late passDone : Bool) : Runs (.patrolScrubStep ch late passDone .clean) s (fun t =>
    t = { s with mem := { s.mem with scrub := t.mem.scrub } } ∧
    (∀ d, d ≠ channelDie ch → tget {} t.mem.scrub d = tget {} s.mem.scrub d) ∧
    tget {} t.mem.scrub (channelDie ch) = { tget {} s.mem.scrub (channelDie ch) with
      behind := (tget {} s.mem.scrub (channelDie ch)).behind || late
      dramPasses := if passDone then min ((tget {} s.mem.scrub (channelDie ch)).dramPasses + 1) 65535
        else (tget {} s.mem.scrub (channelDie ch)).dramPasses }) := by
  obtain ⟨hfr, hsame, hne⟩ := modScrub_only s (channelDie ch) (fun x =>
    { x with behind := x.behind || late, dramPasses := if passDone then satAdd 16 x.dramPasses 1 else x.dramPasses })
  exact ⟨_, rfl, hfr, hne, hsame⟩

/-- `t` is `s` but for its channels' registers, its events and its ledger. -/
def Noted (s t : State) : Prop := t = { s with mem := { s.mem with chans := t.mem.chans }, events := t.events, ledger := t.ledger }

theorem Noted.refl (s : State) : Noted s s := rfl
theorem Noted.trans {s t u : State} (h : Noted s t) (g : Noted t u) : Noted s u := by
  unfold Noted at *
  rw [h] at g
  exact g
theorem Noted.ite {s t u : State} {p : Prop} [Decidable p] (h : Noted s t) (g : Noted s u) : Noted s (if p then t else u) := by
  split
  · exact h
  · exact g
theorem Noted.foldl {α : Type} {f : State → α → State} (hf : ∀ s a, Noted s (f s a)) (l : List α) (s : State) : Noted s (l.foldl f s) := by
  induction l generalizing s with
  | nil => exact .refl s
  | cons a l ih => exact (hf s a).trans (ih _)
theorem EventsOnly.noted {s t : State} (h : EventsOnly s t) : Noted s t := by
  unfold EventsOnly at h
  unfold Noted
  rw [h]
theorem LedgerOnly.noted {s t : State} (h : LedgerOnly s t) : Noted s t := by
  unfold LedgerOnly at h
  unfold Noted
  rw [h]

theorem modChan_noted (s : State) (ch : Nat) (g : Chan → Chan) : Noted s (modChan s ch g) := rfl
theorem modUnit_noted (s : State) (u : W64) (g : UnitRec → UnitRec) : Noted s (modUnit s u g) := rfl
theorem logRec_noted (s : State) (k r : Nat) (u : W64) (d : List Byte) : Noted s (logRec s k r u d) := (logRec_ledgerOnly ..).noted

theorem setStanding_noted (s : State) (u : W64) (new : Nat) (fenced : Bool) : Noted s (setStanding s u new fenced) := by
  unfold setStanding
  extract_lets r s1 s2
  have h : Noted s s2 := (logRec_noted ..).trans (modUnit_noted ..)
  refine h.trans (.ite (.refl s2) (.ite ?_ (.ite ?_ (.refl s2))))
  · exact (raiseUnit_eventsOnly noCtx u 0 (unitDie u) false (by decide)).noted
  · exact (raiseUnit_eventsOnly noCtx u 0 (unitDie u) false (by decide)).noted

theorem countEvent_noted (s : State) (u : W64) (reason place : Nat) : Noted s (countEvent s u reason place) := by
  unfold countEvent
  extract_lets now r cls seen s1
  have h : Noted s s1 := .ite (.refl s) (modUnit_noted ..)
  refine h.trans ?_
  split
  · exact .refl s1
  · exact .ite (.ite ((setStanding_noted s1 u 2 r.fenced).trans ((modChan_noted ..).trans (logRec_noted ..))) (setStanding_noted ..))
      (.ite (setStanding_noted ..) (.refl s1))

theorem raiseCrate_noted {s : State} {reason : Nat} (cg : CtxGen) (offset lineage core chip : Nat) (h : chargesStep reason = false) :
    Noted s (raiseCrate s reason cg offset lineage core chip) := (raiseEvent_eventsOnly _ h).noted

theorem noteUncorrectable_noted (s : State) (u : W64) (data : List Byte) (reason place : Nat) (g : UnitRec → UnitRec) :
    Noted s (countEvent (modUnit (logRec s 0x11 reason u data) u g) u reason place) :=
  ((logRec_noted ..).trans (modUnit_noted ..)).trans (countEvent_noted ..)

theorem reportBad_noted (s : State) (cg : CtxGen) (crate core : Nat) : Noted s (reportBad s cg crate core) := by
  refine .foldl (fun s x => ?_) _ s
  dsimp only
  split
  · exact (modChan_noted s _ _).trans ((raiseCrate_noted _ _ _ _ _ (by decide)).trans (noteUncorrectable_noted ..))
  · exact (raiseCrate_noted _ _ _ _ _ (by decide)).trans (noteUncorrectable_noted ..)

theorem mem_ninsert (l : List Nat) (i x : Nat) : x ∈ ninsert l i ↔ x = i ∨ x ∈ l := by
  induction l with
  | nil => simp [ninsert]
  | cons k t ih =>
    unfold ninsert
    split
    next h =>
      subst h
      simp
    next =>
      split
      · simp
      · rw [List.mem_cons, ih, List.mem_cons, or_left_comm]

theorem mem_foldl_ninsert (xs l : List Nat) (x : Nat) : x ∈ xs.foldl ninsert l ↔ x ∈ xs ∨ x ∈ l := by
  induction xs generalizing l with
  | nil => simp
  | cons a xs ih =>
    rw [List.foldl_cons, ih, mem_ninsert, List.mem_cons, or_left_comm, or_assoc]

theorem scrubFindings_uncorrectable (s : State) (xs : List Nat) :
    Noted (modMem s (fun m => markBad m xs)) (scrubFindings s (.uncorrectable xs)) :=
  .foldl (fun _ _ => reportBad_noted ..) _ _

theorem sliceScrubPass_finds {s : State} {slice : Nat} (xs : List Nat) (h : (tget {} s.mem.slices slice).cache = false) :
    Runs (.sliceScrubPass slice (.uncorrectable xs)) s (fun t =>
      (∀ x ∈ xs, x ∈ t.mem.bad) ∧ t.mem.cells = s.mem.cells ∧ t.mem.tags = s.mem.tags ∧ t.cores = s.cores ∧ t.cmds = s.cmds) := by
  have hno : ¬(tget {} s.mem.slices slice).cache = true := by simp [h]
  have hn := scrubFindings_uncorrectable s xs
  refine runs_eq rfl (if_neg hno) ?_
  generalize scrubFindings s (.uncorrectable xs) = t at *
  rw [hn]
  exact ⟨fun x hx => (mem_foldl_ninsert ..).mpr (.inl hx), rfl, rfl, rfl, rfl⟩

theorem sliceScrubPass_nothing {s : State} {slice : Nat} {f : Finding} (h : f = .clean ∨ (tget {} s.mem.slices slice).cache = true) :
    Runs (.sliceScrubPass slice f) s (fun t => t = s) := by
  rcases h with rfl | h
  · exact runs_eq rfl (ite_self s) rfl
  · exact runs_eq rfl (if_pos h) rfl

theorem scrubStarved_shows (s : State) (core : Nat) : Runs (.scrubStarved core) s (fun t =>
    t = { s with mem := { s.mem with scrub := t.mem.scrub }, events := t.events } ∧
    tget {} t.mem.scrub (core / 128) = { tget {} s.mem.scrub (core / 128) with starved := true } ∧
    ∀ d, d ≠ core / 128 → tget {} t.mem.scrub d = tget {} s.mem.scrub d) := by
  obtain ⟨hfr, hsame, hne⟩ := modScrub_only s (core / 128) (fun x => { x with starved := true })
  refine ⟨_, rfl, ?_⟩
  unfold Machine.scrubStarved
  generalize modScrub s (core / 128) (fun x => { x with starved := true }) = u at *
  have hev : EventsOnly u (raiseCore u 0x4E (coreCtx s core) core 0 0 0) := raiseEvent_eventsOnly _ (show chargesStep 0x4E = false by decide)
  generalize raiseCore u 0x4E (coreCtx s core) core 0 0 0 = t at *
  have hmem : t.mem = u.mem := by rw [hev]
  rw [hmem]
  refine ⟨?_, hsame, hne⟩
  rw [hev, hfr]

/-! ## Lanes that give way -/

theorem memoryLaneRetire_waits {s : State} {ch : Nat} (lane : Nat) (uncorr : Bool)
    (h : (getChan s ch).retire.length < (getChan s ch).sparesLeft) : Runs (.memoryLaneRetire ch lane uncorr) s (fun t =>
      t = { s with mem := { s.mem with chans := t.mem.chans } } ∧
      getChan t ch = { getChan s ch with retire := ninsert (getChan s ch).retire lane } ∧ ∀ k, k ≠ ch → getChan t k = getChan s k) :=
  runs_eq rfl (if_pos h) (modChan_only ..)

theorem memoryLaneRetire_spareless {s : State} {ch : Nat} (lane : Nat) (uncorr : Bool)
    (h : (getChan s ch).sparesLeft ≤ (getChan s ch).retire.length) : Runs (.memoryLaneRetire ch lane uncorr) s (fun t =>
      t = { s with mem := { s.mem with chans := t.mem.chans }, ledger := t.ledger } ∧ (∀ k, k ≠ ch → getChan t k = getChan s k) ∧
      (uncorr = true → lane ∈ (getChan s ch).weak → getChan t ch = { getChan s ch with state := 4 }) ∧
      (uncorr = true → lane ∉ (getChan s ch).weak → getChan t ch = { getChan s ch with weak := ninsert (getChan s ch).weak lane }) ∧
      (uncorr = false → getChan t ch = getChan s ch ∧ Recorded s t 0x10 0)) := by
  have hno : ¬(getChan s ch).retire.length < (getChan s ch).sparesLeft := by omega
  refine runs_eq rfl (if_neg hno) ?_
  have hlog := logRec_trained s 0x10 0 (laneUnit ch lane) (ldata (Word.toLe 8 1000))
  have hrec := logRec_recorded s 0x10 0 (laneUnit ch lane) (ldata (Word.toLe 8 1000))
  have hc := getChan_logRec s 0x10 0 (laneUnit ch lane) (ldata (Word.toLe 8 1000))
  generalize logRec s 0x10 0 (laneUnit ch lane) (ldata (Word.toLe 8 1000)) = u at *
  dsimp only
  split
  next hweak =>
    obtain ⟨hu, hw⟩ := Bool.and_eq_true_iff.mp hweak
    have hw' : lane ∈ (getChan s ch).weak := List.contains_iff_mem.mp hw
    refine ⟨hlog.trans ((modChan_trained ..).trans (logRec_trained ..)), fun k hk => ?_, fun _ _ => ?_, fun _ hn => absurd hw' hn,
      fun hf => absurd (hu.symm.trans hf) (by decide)⟩
    · rw [getChan_logRec, getChan_modChan_ne u hk, hc]
    · rw [getChan_logRec, getChan_modChan_same, hc]
  next hweak =>
    split
    next hu =>
      have hw' : lane ∉ (getChan s ch).weak := fun hw => hweak (by simp [hu, hw])
      refine ⟨hlog.trans (modChan_trained ..), fun k hk => ?_, fun _ hn => absurd hn hw', fun _ _ => ?_,
        fun hf => absurd (hu.symm.trans hf) (by decide)⟩
      · rw [getChan_modChan_ne u hk, hc]
      · rw [getChan_modChan_same, hc]
    next hu => exact ⟨hlog, fun k _ => hc k, fun h => absurd h hu, fun h => absurd h hu, fun _ => ⟨hc ch, hrec⟩⟩

/-! ## The test state -/

section
variable {s : State} {slot : Nat} {c : Cmd}

theorem chTestEnter_enters (h : IsBegun s slot 0x0702 c) (hd : debugAllowed s 1 = true)
    (hu : dieInUse s (channelDie (Pkt.p0 c.packet % 1024)) = false) :
    Runs (.chTestEnter slot) s (fun t => t = { s with mem := { s.mem with chans := t.mem.chans }, cmds := endedCmds s slot {} } ∧
      getChan t (Pkt.p0 c.packet % 1024) = { getChan s (Pkt.p0 c.packet % 1024) with state := 3, genRun := 0, mRun := 0 } ∧
      ∀ k, k ≠ Pkt.p0 c.packet % 1024 → getChan t k = getChan s k) := by
  obtain ⟨hfr, hsame, hne⟩ := modChan_only s (Pkt.p0 c.packet % 1024) (fun c => { c with state := 3, genRun := 0, mRun := 0 })
  have heq : chTestEnter s slot = endCmd (modChan s (Pkt.p0 c.packet % 1024) (fun c => { c with state := 3, genRun := 0, mRun := 0 })) slot {} := by
    unfold Machine.chTestEnter
    rw [h.1]
    dsimp only
    rw [if_neg (by simp [hd]), if_neg (by simp [hu])]
  generalize modChan s (Pkt.p0 c.packet % 1024) (fun c => { c with state := 3, genRun := 0, mRun := 0 }) = u at *
  rw [hfr, endCmd_withMem h _ (Nat.zero_le _)] at heq
  exact runs_eq rfl heq ⟨rfl, hsame, hne⟩

theorem chTestEnter_refused {r : Nat} (h : IsBegun s slot 0x0702 c) (hl : ∀ d ∈ queueCmds s c.queue, d.ord ≤ c.ord)
    (hr : debugAllowed s 1 = false ∧ r = 0x2A ∨
      debugAllowed s 1 = true ∧ dieInUse s (channelDie (Pkt.p0 c.packet % 1024)) = true ∧ r = 0x4A) :
    Runs (.chTestEnter slot) s (fun t => t = { s with queues := t.queues, cmds := endedCmds s slot { cls := 2, reason := r } }) := by
  have heq : chTestEnter s slot = refuseCmd s slot r := by
    unfold Machine.chTestEnter
    rw [h.1]
    dsimp only
    rcases hr with ⟨hd, rfl⟩ | ⟨hd, hu, rfl⟩
    · rw [if_pos (by simp [hd])]
    · rw [if_neg (by simp [hd]), if_pos hu]
  exact runs_eq rfl (heq.trans (refuseCmd_last h (.inr (by decide)) hl r)) rfl

theorem chTestExit_refused (h : IsBegun s slot 0x0703 c) (hst : (getChan s (Pkt.p0 c.packet % 1024)).state ≠ 3)
    (hl : ∀ d ∈ queueCmds s c.queue, d.ord ≤ c.ord) :
    Runs (.chTestExit slot) s (fun t => t = { s with queues := t.queues, cmds := endedCmds s slot { cls := 2, reason := 0x4A } }) := by
  have heq : chTestExit s slot = refuseCmd s slot 0x4A := by
    unfold Machine.chTestExit
    rw [h.1]
    exact if_pos hst
  exact runs_eq rfl (heq.trans (refuseCmd_last h (.inr (by decide)) hl 0x4A)) rfl

theorem readByte_zeroChannel (m : Mem) (ch a : Nat) :
    readByte (zeroChannel m ch).cells a = if channelOf a ≠ some ch then readByte m.cells a else 0#8 := by
  refine (readByte_filter m.cells (fun a => decide (channelOf a ≠ some ch)) a).trans ?_
  simp only [decide_eq_true_eq]

theorem chTestExit_exits (h : IsBegun s slot 0x0703 c) (hst : (getChan s (Pkt.p0 c.packet % 1024)).state = 3) :
    Runs (.chTestExit slot) s (fun t => t = { s with mem := t.mem, cmds := endedCmds s slot {} } ∧
      getChan t (Pkt.p0 c.packet % 1024) = { getChan s (Pkt.p0 c.packet % 1024) with state := 1, genRun := 0 } ∧
      (∀ k, k ≠ Pkt.p0 c.packet % 1024 → getChan t k = getChan s k) ∧
      (∀ a, channelOf a = some (Pkt.p0 c.packet % 1024) → readByte t.mem.cells a = 0#8) ∧
      ∀ a, channelOf a ≠ some (Pkt.p0 c.packet % 1024) → readByte t.mem.cells a = readByte s.mem.cells a) := by
  generalize hch : Pkt.p0 c.packet % 1024 = ch at *
  obtain ⟨hfr, hsame, hne⟩ := modChan_only s ch (fun c => { c with state := 1, genRun := 0 })
  have heq : chTestExit s slot = endCmd (modMem (modChan s ch (fun c => { c with state := 1, genRun := 0 })) (fun m => zeroChannel m ch)) slot {} := by
    unfold Machine.chTestExit
    rw [h.1]
    dsimp only
    rw [hch]
    exact if_neg fun hn => hn hst
  generalize modChan s ch (fun c => { c with state := 1, genRun := 0 }) = u at *
  have hu : modMem u (fun m => zeroChannel m ch) = { s with mem := zeroChannel u.mem ch } := by
    rw [hfr]
    rfl
  rw [hu, endCmd_withMem h _ (Nat.zero_le _)] at heq
  have hz := readByte_zeroChannel u.mem ch
  have hcells : u.mem.cells = s.mem.cells := by rw [hfr]
  refine runs_eq rfl heq ⟨rfl, hsame, hne, fun a ha => (hz a).trans (if_neg fun hn => hn ha), fun a ha => ?_⟩
  exact ((hz a).trans (if_pos ha)).trans (by rw [hcells])

end

/-! ## The generator -/

/-- A channel after a write of its generator's register with START alone. -/
def genStarted (w : W64) (c : Chan) : Chan :=
  if c.state = 3 then { c with genCtrl := w, genRun := 1, genReason := 0, genPasses := 0, genErrors := 0, lanesLo := 0#64, lanesHi := 0 }
  else { c with genCtrl := w, genRun := 3, genReason := 0x4A }

/-- A channel after a write of its generator's register with STOP alone. -/
def genStopped (w : W64) (c : Chan) : Chan :=
  if c.genRun = 1 then { c with genCtrl := w, genRun := 2, genReason := 0x4C } else { c with genCtrl := w }

section
variable {s : State} {ch : Nat} {v : W64}

theorem genWrite_start (h0 : rbit v 0 = true) (h1 : rbit v 1 = false) : genWrite s ch v = modChan s ch (genStarted (v &&& genMask)) := by
  unfold genWrite
  refine congrArg (modChan s ch) (funext fun c => ?_)
  dsimp only
  rw [h1, h0]
  exact if_neg (by decide)

theorem genWrite_stop (h0 : rbit v 0 = false) (h1 : rbit v 1 = true) : genWrite s ch v = modChan s ch (genStopped (v &&& genMask)) := by
  unfold genWrite
  refine congrArg (modChan s ch) (funext fun c => ?_)
  dsimp only
  rw [h1, h0]
  rw [if_pos (by decide), Bool.true_and]
  simp only [beq_iff_eq]
  rfl

theorem genStart_starts (ho : hostOpen s = true) (hch : ch < 640) (h0 : rbit v 0 = true) (h1 : rbit v 1 = false) :
    Runs (.genStart ch v) s (fun t => t = { s with mem := { s.mem with chans := t.mem.chans } } ∧
      (∀ k, k ≠ ch → getChan t k = getChan s k) ∧ getChan t ch = genStarted (v &&& genMask) (getChan s ch)) := by
  have heq : (if rbit v 0 && ch < 640 then genWrite s ch v else s) = modChan s ch (genStarted (v &&& genMask)) := by
    rw [if_pos (by simp [h0, hch]), genWrite_start h0 h1]
  generalize v &&& genMask = w at *
  obtain ⟨hfr, hsame, hne⟩ := modChan_only s ch (genStarted w)
  exact runs_host_eq ho rfl heq ⟨hfr, hne, hsame⟩

theorem genStop_stops (ho : hostOpen s = true) (hch : ch < 640) (h0 : rbit v 0 = false) (h1 : rbit v 1 = true) :
    Runs (.genStop ch v) s (fun t => t = { s with mem := { s.mem with chans := t.mem.chans } } ∧
      (∀ k, k ≠ ch → getChan t k = getChan s k) ∧ getChan t ch = genStopped (v &&& genMask) (getChan s ch)) := by
  have heq : (if rbit v 1 && ch < 640 then genWrite s ch v else s) = modChan s ch (genStopped (v &&& genMask)) := by
    rw [if_pos (by simp [h1, hch]), genWrite_stop h0 h1]
  generalize v &&& genMask = w at *
  obtain ⟨hfr, hsame, hne⟩ := modChan_only s ch (genStopped w)
  exact runs_host_eq ho rfl heq ⟨hfr, hne, hsame⟩

theorem genPassesDone_ends (errors : Nat) (lo : W64) (hi : Nat) (hr : (getChan s ch).genRun = 1)
    (hp : rbits (getChan s ch).genCtrl 15 8 ≠ 0) :
    Runs (.genPassesDone ch errors lo hi) s (fun t => t = { s with mem := { s.mem with chans := t.mem.chans } } ∧
      getChan t ch = { getChan s ch with genRun := 2, genPasses := rbits (getChan s ch).genCtrl 15 8, genErrors := min errors (2 ^ 32 - 1)
                                         genReason := if errors = 0 then 0 else 0x50, lanesLo := lo, lanesHi := hi % 4096 } ∧
      ∀ k, k ≠ ch → getChan t k = getChan s k) :=
  runs_eq rfl (if_pos ⟨hr, hp⟩) (modChan_only ..)

end

/-! ## Margining -/

section
variable {s : State} {slot : Nat} {c : Cmd}

theorem sweepBytes_length (channel dir dwell first lanes : Nat) (t0 t1 : W64) (xs : List SweepEntry) (drop rest : Nat) :
    (sweepBytes channel dir dwell first lanes t0 t1 xs drop rest).length = 4096 := by
  unfold sweepBytes zeroPayload
  rw [List.length_take, List.length_append, List.length_replicate]
  omega

/-- A channel after a sweep that neither failed nor was stopped. -/
def sweptChan (reason lane lanes : Nat) (c : Chan) : Chan :=
  { c with mReason := reason, mLane := lane, mLanesDone := lanes, mRun := 3, mStop := false
           state := if false then 4 else c.state, lastTrain := if false then 3 else c.lastTrain }

theorem marginSweep_measures {ch lanes k : Nat} {xs : List SweepEntry} (h : IsBegun s slot 0x0704 c)
    (h12 : Word.bitOf (Pkt.p0 c.packet) 12 = false) (hch : ch = Pkt.p0 c.packet % 1024) (hd : debugAllowed s 1 = true)
    (hst : (getChan s ch).state = 3) (hm : (getChan s ch).mStop = false) (hr : sweepCrateRefusal s (pktOff1 c.packet) = none)
    (hk : k = pktOff1 c.packet / 4096) (hplain : Plain s.mem k) (hw : Writable s.mem) (hlanes : lanes = Word.bitsOf (Pkt.p2 c.packet) 31 24) :
    Runs (.marginSweep slot xs false) s (fun t => t = { s with mem := t.mem, cmds := t.cmds } ∧
      t.cmds = endedCmds s slot { result := sweepReason lanes (xs.take lanes) 0x4B 0x4B } ∧ SameCrates s.mem t.mem (fun j => j = k) ∧
      crateBytes t.mem k = sweepBytes ch (Word.b2n (Word.bitOf (Pkt.p0 c.packet) 16)) (Pkt.p2 c.packet % 2 ^ 16)
        (Word.bitsOf (Pkt.p2 c.packet) 23 16) lanes s.time s.time (xs.take lanes) 0x4B 0x4B ∧
      Tag.check (crateTag t.mem k) = Crc.crc64 (crateBytes t.mem k) ∧ (getChan t ch).mRun = 3 ∧ (getChan t ch).mLanesDone = lanes ∧
      (getChan t ch).state = 3) := by
  have heq : ∃ lane, marginSweep s slot xs false = endCmd (modChan (modMem s (fun m => fwCrate (preserve m k) k
      (sweepBytes ch (Word.b2n (Word.bitOf (Pkt.p0 c.packet) 16)) (Pkt.p2 c.packet % 2 ^ 16)
        (Word.bitsOf (Pkt.p2 c.packet) 23 16) lanes s.time s.time (xs.take lanes) 0x4B 0x4B))) ch
      (sweptChan (sweepReason lanes (xs.take lanes) 0x4B 0x4B) lane lanes)) slot { result := sweepReason lanes (xs.take lanes) 0x4B 0x4B } := by
    refine ⟨Word.bitsOf (Pkt.p2 c.packet) 23 16 + (xs.take lanes).length - 1, ?_⟩
    unfold Machine.marginSweep
    rw [h.1]
    dsimp only
    rw [h12, if_neg (by decide)]
    unfold marginMemory
    dsimp only
    rw [← hch, ← hlanes, ← hk, hm, if_neg (by simp [hd]), if_neg fun hn => hn hst, hr]
    rfl
  obtain ⟨lane, heq⟩ := heq
  have hlen := sweepBytes_length ch (Word.b2n (Word.bitOf (Pkt.p0 c.packet) 16)) (Pkt.p2 c.packet % 2 ^ 16)
    (Word.bitsOf (Pkt.p2 c.packet) 23 16) lanes s.time s.time (xs.take lanes) 0x4B 0x4B
  generalize sweepBytes ch (Word.b2n (Word.bitOf (Pkt.p0 c.packet) 16)) (Pkt.p2 c.packet % 2 ^ 16)
    (Word.bitsOf (Pkt.p2 c.packet) 23 16) lanes s.time s.time (xs.take lanes) 0x4B 0x4B = bytes at *
  generalize sweepReason lanes (xs.take lanes) 0x4B 0x4B = reason at *
  have hwrote := fwCrate_wrote (m := s.mem) hlen hw hplain
  have hchans : (fwCrate (preserve s.mem k) k bytes).chans = s.mem.chans := by
    rw [preserve_plain _ _ hplain, fwCrate, rawCrate, cacheTouch_none _ _ _ hplain.2]
  have hu : modMem s (fun m => fwCrate (preserve m k) k bytes) = { s with mem := fwCrate (preserve s.mem k) k bytes } := rfl
  rw [hu] at heq
  generalize fwCrate (preserve s.mem k) k bytes = m at *
  have hget : getChan { s with mem := m } ch = getChan s ch := getChan_congr hchans ch
  obtain ⟨hfr, hsame, -⟩ := modChan_only { s with mem := m } ch (sweptChan reason lane lanes)
  generalize modChan { s with mem := m } ch (sweptChan reason lane lanes) = u at *
  have hmem : u = { s with mem := u.mem } := by rw [hfr]
  rw [hmem, endCmd_withMem h _ (Nat.zero_le _)] at heq
  have hbytes : WroteCrate s.mem u.mem k bytes (Tag.computed bytes 6 0 0 (Tag.fwLineage s.mem.fwSeq)) := by
    refine hwrote.congr ?_ ?_ ?_ ?_ <;> rw [hfr]
  obtain ⟨hp, ht, hother⟩ := hbytes
  have hchan : getChan { s with mem := u.mem, cmds := endedCmds s slot { result := reason } } ch = sweptChan reason lane lanes (getChan s ch) :=
    (hsame.trans (by rw [hget]) : getChan u ch = _)
  refine runs_eq rfl heq ⟨rfl, rfl, hother, hp, ?_, ?_, ?_, ?_⟩
  · show Tag.check (crateTag u.mem k) = Crc.crc64 (crateBytes u.mem k)
    rw [hp, ht, Tag.computed, Tag.check_mk]
  · rw [hchan]
    rfl
  · rw [hchan]
    rfl
  · rw [hchan]
    exact hst

theorem marginStop_eq (h : IsBegun s slot 0x0705 c) (hd : debugAllowed s 1 = true) : marginStop s slot =
    if !sweeping s (Pkt.p0 c.packet) then endCmd s slot {}
    else if Word.bitOf (Pkt.p0 c.packet) 12 then endCmd (modPort s (Pkt.p0 c.packet % 1024) (fun x => { x with mStop := true })) slot {}
    else endCmd (modChan s (Pkt.p0 c.packet % 1024) (fun x => { x with mStop := true })) slot {} := by
  unfold Machine.marginStop
  rw [h.1]
  exact if_neg (by simp [hd])

theorem marginStop_idle (h : IsBegun s slot 0x0705 c) (hd : debugAllowed s 1 = true) (hs : sweeping s (Pkt.p0 c.packet) = false) :
    Runs (.marginStop slot) s (fun t => t = { s with cmds := endedCmds s slot {} }) := by
  refine runs_eq rfl ((marginStop_eq h hd).trans (if_pos (by simp [hs]))) ?_
  exact endCmd_succeeds h.find h.uncut (Nat.zero_le _)

theorem marginStop_channel (h : IsBegun s slot 0x0705 c) (hd : debugAllowed s 1 = true) (hs : sweeping s (Pkt.p0 c.packet) = true)
    (h12 : Word.bitOf (Pkt.p0 c.packet) 12 = false) : Runs (.marginStop slot) s (fun t =>
      t = { s with mem := { s.mem with chans := t.mem.chans }, cmds := endedCmds s slot {} } ∧
      getChan t (Pkt.p0 c.packet % 1024) = { getChan s (Pkt.p0 c.packet % 1024) with mStop := true } ∧
      ∀ k, k ≠ Pkt.p0 c.packet % 1024 → getChan t k = getChan s k) := by
  have heq := (marginStop_eq h hd).trans ((if_neg (by simp [hs])).trans (if_neg (by simp [h12])))
  obtain ⟨hfr, hsame, hne⟩ := modChan_only s (Pkt.p0 c.packet % 1024) (fun x => { x with mStop := true })
  generalize modChan s (Pkt.p0 c.packet % 1024) (fun x => { x with mStop := true }) = u at *
  rw [hfr, endCmd_withMem h _ (Nat.zero_le _)] at heq
  exact runs_eq rfl heq ⟨rfl, hsame, hne⟩

theorem marginStop_port (h : IsBegun s slot 0x0705 c) (hd : debugAllowed s 1 = true) (hs : sweeping s (Pkt.p0 c.packet) = true)
    (h12 : Word.bitOf (Pkt.p0 c.packet) 12 = true) : Runs (.marginStop slot) s (fun t =>
      t = { s with fab := { s.fab with ports := t.fab.ports }, cmds := endedCmds s slot {} } ∧
      getPort t (Pkt.p0 c.packet % 1024) = { getPort s (Pkt.p0 c.packet % 1024) with mStop := true } ∧
      ∀ k, k ≠ Pkt.p0 c.packet % 1024 → getPort t k = getPort s k) := by
  have heq := (marginStop_eq h hd).trans ((if_neg (by simp [hs])).trans (if_pos h12))
  have hfr := modPort_fields s (Pkt.p0 c.packet % 1024) (fun x => { x with mStop := true })
  have hsame := getPort_modPort_same s (Pkt.p0 c.packet % 1024) (fun x => { x with mStop := true })
  have hne := fun k (hk : k ≠ Pkt.p0 c.packet % 1024) => getPort_modPort_ne s hk (fun x => { x with mStop := true })
  generalize modPort s (Pkt.p0 c.packet % 1024) (fun x => { x with mStop := true }) = u at *
  rw [hfr, endCmd_succeeds (s := { s with fab := { s.fab with ports := u.fab.ports } }) h.find h.uncut (Nat.zero_le _)] at heq
  exact runs_eq rfl heq ⟨rfl, hsame, hne⟩

end

/-- Settles O39: what each operation of the memories' upkeep and of the test state does. -/
theorem memoryChannels : Obligations.MemoryChannels :=
  ⟨fun _ _ => ⟨_, rfl, rfl⟩, fun s ch late _ hc => by subst hc; exact recalibration_replaces s ch late, patrolScrubStep_clean,
    fun _ _ _ h => sliceScrubPass_nothing h, fun _ _ xs h => sliceScrubPass_finds xs h, scrubStarved_shows,
    fun s ch lane uncorr _ hc => by
      subst hc
      exact ⟨memoryLaneRetire_waits lane uncorr, memoryLaneRetire_spareless lane uncorr⟩,
    fun s slot c _ hch => by
      subst hch
      exact ⟨chTestEnter_enters, fun _ h hl hr => chTestEnter_refused h hl hr, chTestExit_exits, chTestExit_refused⟩,
    fun s ch v _ ho hch hc => by
      subst hc
      exact ⟨genStart_starts ho hch, genStop_stops ho hch⟩,
    fun s ch errors lo hi _ hc hr hp => by subst hc; exact genPassesDone_ends errors lo hi hr hp,
    fun _ _ _ _ _ _ _ h h12 hch hd hst hm hr hk hplain hw hlanes => marginSweep_measures h h12 hch hd hst hm hr hk hplain hw hlanes,
    fun _ _ _ _ h hp hd => by
      subst hp
      exact ⟨marginStop_idle h hd, marginStop_channel h hd, marginStop_port h hd⟩⟩

end Sys2Proof.Machine
end

section
/-! # Escalations (15/R469-R480) -/

namespace Sys2Proof.Machine

/-- UNIT of slice 0 of die 0 (08/R262). -/
def slice0 : W64 := 0x0700000000000000#64

/-- A level-2 escalation of a cache-mode slice with a dirty line, while a step of a training context is open whose
record's header is a crate that the slice caches. -/
def cachedRecord : State :=
  { hang := { escs := [{ level := 2, target := slice0.toNat, cause := 0xC5 }] }
    mem := { slices := [(0, { cache := true, lines := [{ crate := 0, dirty := true }] })] }
    ctxs := [(0, { training := true, state := 2 })]
    stepSt := { recs := [{ slot := 0, step := 0 }] } }

/-- Refutes O48: the dirty line of a reset slice that cannot be written back is charged to the open step (14/R440), and the
charge writes the header of the step's record, which the slice caches again: its lines are not all gone. -/
theorem not_escalations : ¬ Obligations.Escalations := by
  intro h
  obtain ⟨-, -, -, -, -, hengine, -⟩ := h
  have hrun := (hengine cachedRecord slice0 [] [] [0] { level := 2, target := slice0.toNat, cause := 0xC5 } 7 0 0 (by decide)
    (by decide) (by decide) (by decide) (.inl (by decide))).of_exec rfl
  obtain ⟨-, -, -, -, -, -, -, hslice, -⟩ := hrun
  have hlines : (tget {} (escalationEngine cachedRecord slice0 [] [] [0]).mem.slices 0).lines.isEmpty = true := by
    rw [(hslice rfl).1]
    rfl
  exact absurd hlines (by decide)

end Sys2Proof.Machine
end

section
/-! # Launches: their start and their end (03/R84-R92, 07/R221, R222, 09/R294) -/

namespace Sys2Proof.Machine

/-! ## Changing cores one after another -/

/-- `t` is `s` but for its cores. -/
def CoresOnly (s t : State) : Prop := t = { s with cores := t.cores }

theorem CoresOnly.refl (s : State) : CoresOnly s s := rfl
theorem CoresOnly.trans {s t u : State} (h : CoresOnly s t) (g : CoresOnly t u) : CoresOnly s u := by
  unfold CoresOnly at *
  rw [h] at g
  exact g

theorem modCore_coresOnly (s : State) (k : Nat) (g : Core → Core) : CoresOnly s (modCore s k g) := rfl

theorem modCores_coresOnly {α : Type} (key : α → Nat) (g : α → Core → Core) (l : List α) (s : State) :
    CoresOnly s (l.foldl (fun s a => modCore s (key a) (g a)) s) := by
  induction l generalizing s with
  | nil => exact .refl s
  | cons a l ih => exact (modCore_coresOnly ..).trans (ih _)

theorem getCore_modCore_same (s : State) (k : Nat) (g : Core → Core) : getCore (modCore s k g) k = g (getCore s k) := by
  rw [getCore_modCore, if_pos rfl]

theorem getCore_modCore_ne (s : State) {k j : Nat} (h : j ≠ k) (g : Core → Core) : getCore (modCore s k g) j = getCore s j := by
  rw [getCore_modCore, if_neg h]

/-- Changing distinct cores changes each by its own function. -/
theorem getCore_modCores {α : Type} (key : α → Nat) (g : α → Core → Core) {l : List α} (hn : (l.map key).Nodup) (s : State) :
    (∀ a ∈ l, getCore (l.foldl (fun s a => modCore s (key a) (g a)) s) (key a) = g a (getCore s (key a))) ∧
      ∀ k, k ∉ l.map key → getCore (l.foldl (fun s a => modCore s (key a) (g a)) s) k = getCore s k := by
  induction l generalizing s with
  | nil => exact ⟨fun _ h => (nomatch h), fun _ _ => rfl⟩
  | cons b l ih =>
    rw [List.map_cons, List.nodup_cons] at hn
    obtain ⟨hin, hout⟩ := ih hn.2 (modCore s (key b) (g b))
    refine ⟨fun a ha => ?_, fun k hk => ?_⟩
    · rcases List.mem_cons.mp ha with rfl | ha
      · exact (hout _ hn.1).trans (getCore_modCore_same ..)
      · have hne : key a ≠ key b := fun e => hn.1 (e ▸ List.mem_map_of_mem ha)
        exact (hin a ha).trans (by rw [getCore_modCore_ne s hne])
    · rw [List.map_cons, List.mem_cons, not_or] at hk
      exact (hout k hk.2).trans (getCore_modCore_ne s hk.1 _)

/-- Changing cores by one idempotent function. -/
theorem getCore_modAll {g : Core → Core} (hg : ∀ x, g (g x) = g x) (l : List Nat) (s : State) (k : Nat) :
    getCore (l.foldl (fun s k => modCore s k g) s) k = if k ∈ l then g (getCore s k) else getCore s k := by
  induction l generalizing s with
  | nil => rfl
  | cons a l ih =>
    rw [List.foldl_cons, ih, getCore_modCore]
    by_cases hk : k = a
    · subst hk
      simp [hg]
    · simp [hk]

theorem modAll_coresOnly (g : Core → Core) (l : List Nat) (s : State) : CoresOnly s (l.foldl (fun s k => modCore s k g) s) :=
  modCores_coresOnly id (fun _ => g) l s

/-! ## LAUNCH -/

section
variable {s : State} {slot : Nat} {c : Cmd}

/-- The cores of an image, loaded one by one. -/
theorem foldl_zip_loadCore (s : State) (slot load : Nat) (img : Nat → ImgCore) (key : Nat → Nat) (n : Nat) :
    (((List.range n).map img).zip ((List.range n).map key)).foldl (fun s x => modCore s x.2 (loadCore slot load x.1)) s
      = (List.range n).foldl (fun s i => modCore s (key i) (loadCore slot load (img i))) s := by
  rw [List.zip_map', List.foldl_map]

/-- A launch that waits for its edge. -/
def loadedLaunch (ctx gen : Nat) (cores : List Nat) (image profile hkPeriod hkLength : Nat) (slices : List Nat) : Launch :=
  { ctx, gen, cores, image, profile, hkPeriod, hkLength, slices }

theorem loadedLaunch_fields (ctx gen : Nat) (cores : List Nat) (image profile hkPeriod hkLength : Nat) (slices : List Nat) :
    (loadedLaunch ctx gen cores image profile hkPeriod hkLength slices).ctx = ctx ∧
      (loadedLaunch ctx gen cores image profile hkPeriod hkLength slices).gen = gen ∧
      (loadedLaunch ctx gen cores image profile hkPeriod hkLength slices).cores = cores ∧
      (loadedLaunch ctx gen cores image profile hkPeriod hkLength slices).running = false ∧
      (loadedLaunch ctx gen cores image profile hkPeriod hkLength slices).stopped = none := ⟨rfl, rfl, rfl, rfl, rfl⟩

/-- A launch that no check refuses: its cores are loaded, it is entered, and its command waits for the edge. -/
theorem launchCmd_eq {h : ImgHead} {dies bound : List Nat} (hb : IsBegun s slot 0x0201 c) (haux : c.aux = 0)
    (hr : launchRefusal s (Pkt.ctx c.packet) c.packet = none) (hh : h = readHead s.mem (pktOff0 c.packet))
    (hd : dies = (getPart s (getCtx s (Pkt.ctx c.packet)).part).dies) (hbound : bound = (List.range h.n).map (bindCore dies))
    (ht : testsRunning s bound = false) : ∃ l, launchCmd s slot = modCmd (setLaunch ((List.range h.n).foldl (fun t i =>
        modCore t (bindCore dies i) (loadCore slot (c.ord + 1) (readImgCore s.mem (pktOff0 c.packet) h i))) s) slot l) slot
        (fun d => { d with aux := 1 }) ∧
      l.ctx = Pkt.ctx c.packet ∧ l.gen = (getCtx s (Pkt.ctx c.packet)).gen ∧ l.cores = bound ∧ l.running = false ∧ l.stopped = none := by
  have hno : ¬c.aux ≠ 0 := fun hn => hn haux
  have htests : ¬testsRunning s bound = true := by
    rw [ht]
    decide
  generalize hl : loadedLaunch (Pkt.ctx c.packet) (getCtx s (Pkt.ctx c.packet)).gen bound (pktOff0 c.packet)
    (Pkt.p2 c.packet % 2 ^ 49) (Pkt.p1 c.packet % 2 ^ 25) (Word.bitsOf (Pkt.p1 c.packet) 56 32)
    (imageSlices ((List.range h.n).map (readImgCore s.mem (pktOff0 c.packet) h))) = l
  refine ⟨l, ?_, hl ▸ loadedLaunch_fields ..⟩
  unfold launchCmd
  rw [hb.1]
  refine (if_neg hno).trans ?_
  extract_lets +onlyGivenNames ctx
  have hr' : launchRefusal s ctx c.packet = none := hr
  rw [hr']
  extract_lets a h' imgs bound' s1 l1
  have hh' : h' = h := hh.symm
  have hb' : bound' = bound := by rw [hbound, hd, ← hh']
  have hs1 : s1 = (List.range h.n).foldl (fun t i =>
      modCore t (bindCore dies i) (loadCore slot (c.ord + 1) (readImgCore s.mem (pktOff0 c.packet) h i))) s := by
    rw [← foldl_zip_loadCore, ← hh', hd]
  have hctx : getCtx s1 ctx = getCtx s ctx := by
    rw [hs1, modCores_coresOnly (bindCore dies) (fun i => loadCore slot (c.ord + 1) (readImgCore s.mem (pktOff0 c.packet) h i))]
    rfl
  have hl1 : l1 = l := by
    rw [← hl, ← hb', ← hh', ← hctx]
    rfl
  refine (if_neg (hb' ▸ htests)).trans ?_
  rw [hs1, hl1]

theorem launch_loads {h : ImgHead} {dies bound : List Nat} (hb : IsBegun s slot 0x0201 c) (haux : c.aux = 0)
    (hr : launchRefusal s (Pkt.ctx c.packet) c.packet = none) (hh : h = readHead s.mem (pktOff0 c.packet))
    (hd : dies = (getPart s (getCtx s (Pkt.ctx c.packet)).part).dies) (hbound : bound = (List.range h.n).map (bindCore dies))
    (hn : bound.Nodup) (ht : testsRunning s bound = false) :
    Runs (.launch slot) s (fun t => t = { s with cores := t.cores, launches := t.launches, cmds := t.cmds } ∧
      t.cmds = changedCmds s slot (fun d => { d with aux := 1 }) ∧
      (∀ i, i < h.n → getCore t (bindCore dies i) =
        loadCore slot (c.ord + 1) (readImgCore s.mem (pktOff0 c.packet) h i) (getCore s (bindCore dies i))) ∧
      (∀ k, k ∉ bound → getCore t k = getCore s k) ∧ (∀ l, l ≠ slot → getLaunch t l = getLaunch s l) ∧
      (getLaunch t slot).ctx = Pkt.ctx c.packet ∧ (getLaunch t slot).gen = (getCtx s (Pkt.ctx c.packet)).gen ∧
      (getLaunch t slot).cores = bound ∧ (getLaunch t slot).running = false ∧ (getLaunch t slot).stopped = none) := by
  obtain ⟨l, heq, hctx, hgen, hcores, hrun, hstop⟩ := launchCmd_eq hb haux hr hh hd hbound ht
  have hfr := modCores_coresOnly (bindCore dies) (fun i => loadCore slot (c.ord + 1) (readImgCore s.mem (pktOff0 c.packet) h i))
    (List.range h.n) s
  obtain ⟨hin, hout⟩ := getCore_modCores (bindCore dies)
    (fun i => loadCore slot (c.ord + 1) (readImgCore s.mem (pktOff0 c.packet) h i)) (hbound ▸ hn) s
  generalize (List.range h.n).foldl (fun t i =>
    modCore t (bindCore dies i) (loadCore slot (c.ord + 1) (readImgCore s.mem (pktOff0 c.packet) h i))) s = u at *
  have hl (j : Nat) : getLaunch (modCmd (setLaunch u slot l) slot (fun d => { d with aux := 1 })) j = if j = slot then l else getLaunch u j :=
    getLaunch_setLaunch ..
  have hsl := (hl slot).trans (if_pos rfl)
  refine runs_eq rfl heq ⟨?_, ?_, fun i hi => hin i (List.mem_range.mpr hi), fun k hk => hout k (hbound ▸ hk), fun j hj => ?_,
    ?_, ?_, ?_, ?_, ?_⟩
  · rw [hfr]
    rfl
  · rw [hfr]
    rfl
  · rw [hl, if_neg hj, hfr]
    rfl
  · rw [hsl, hctx]
  · rw [hsl, hgen]
  · rw [hsl, hcores]
  · rw [hsl, hrun]
  · rw [hsl, hstop]

/-! ## LAUNCH_EDGE -/

/-- A core from the launch edge on. -/
def startedCore (now : W64) (x : Core) : Core := { x with run := 1, regionStart := now, floor := 0 }

/-- Starting cores passes no array cycle. -/
theorem foldl_startedCore {now : W64} (l : List Nat) (u : State) (hu : u.arrayCycles = now) :
    l.foldl (fun t k => modCore t k (startedCore t.arrayCycles)) u = l.foldl (fun t k => modCore t k (startedCore now)) u := by
  induction l generalizing u with
  | nil => rfl
  | cons k l ih =>
    rw [List.foldl_cons, List.foldl_cons, hu]
    exact ih _ hu

theorem launchEdge_eq {l : Launch} (hf : findCmd s slot = some c) (hl : l = getLaunch s slot) (haux : c.aux = 1)
    (hrun : l.running = false) (hstop : l.stopped = none) (hc : l.cores ≠ []) :
    launchEdge s slot = l.cores.foldl (fun t k => modCore t k (startedCore s.arrayCycles))
      (setLaunch s slot { l with running := true, startCycle := s.arrayCycles, epochs := s.tallies }) := by
  have hgo : c.aux = 1 ∧ (!l.running) = true ∧ l.stopped = none ∧ l.cores ≠ [] := ⟨haux, by rw [hrun]; rfl, hstop, hc⟩
  unfold launchEdge
  rw [hf, ← hl]
  extract_lets +onlyGivenNames l'
  exact (if_pos hgo).trans (foldl_startedCore l.cores _ rfl)

theorem launchEdge_starts {l : Launch} (hf : findCmd s slot = some c) (hl : l = getLaunch s slot) (haux : c.aux = 1)
    (hrun : l.running = false) (hstop : l.stopped = none) (hc : l.cores ≠ []) :
    Runs (.launchEdge slot) s (fun t => t = { s with cores := t.cores, launches := t.launches } ∧
      getLaunch t slot = { l with running := true, startCycle := s.arrayCycles, epochs := s.tallies } ∧
      (∀ i, i ≠ slot → getLaunch t i = getLaunch s i) ∧
      (∀ k ∈ l.cores, getCore t k = { getCore s k with run := 1, regionStart := s.arrayCycles, floor := 0 }) ∧
      ∀ k, k ∉ l.cores → getCore t k = getCore s k) := by
  refine runs_eq rfl (launchEdge_eq hf hl haux hrun hstop hc) ?_
  have hfr := modAll_coresOnly (startedCore s.arrayCycles) l.cores
    (setLaunch s slot { l with running := true, startCycle := s.arrayCycles, epochs := s.tallies })
  have hcore := getCore_modAll (g := startedCore s.arrayCycles) (fun _ => rfl) l.cores
    (setLaunch s slot { l with running := true, startCycle := s.arrayCycles, epochs := s.tallies })
  have hlaunch := getLaunch_setLaunch s slot { l with running := true, startCycle := s.arrayCycles, epochs := s.tallies }
  have hset : setLaunch s slot { l with running := true, startCycle := s.arrayCycles, epochs := s.tallies }
    = { s with launches := (setLaunch s slot { l with running := true, startCycle := s.arrayCycles, epochs := s.tallies }).launches } := rfl
  generalize setLaunch s slot { l with running := true, startCycle := s.arrayCycles, epochs := s.tallies } = u at *
  generalize l.cores.foldl (fun t k => modCore t k (startedCore s.arrayCycles)) u = t at *
  have hl' (j : Nat) : getLaunch t j = getLaunch u j := by
    rw [hfr]
    rfl
  have hu (k : Nat) : getCore u k = getCore s k := by
    rw [hset]
    rfl
  refine ⟨?_, ?_, fun i hi => ?_, fun k hk => ?_, fun k hk => ?_⟩
  · rw [hfr, hset]
  · rw [hl', hlaunch, if_pos rfl]
  · rw [hl', hlaunch, if_neg hi]
  · rw [hcore, if_pos hk, hu]
    rfl
  · rw [hcore, if_neg hk, hu]

end

/-- Settles O11: a launch is loaded as its image says, and starts its cores at its edge. -/
theorem launchStarts : Obligations.LaunchStarts :=
  ⟨fun _ _ _ _ _ _ _ hb haux hctx hr hh hd hbound hn ht => by
      subst hctx
      exact launch_loads hb haux hr hh hd hbound hn ht,
    fun _ _ _ _ hf hl haux hrun hstop hc => launchEdge_starts hf hl haux hrun hstop hc⟩

/-! ## LAUNCH_COMPLETE -/

section
variable {s : State} {slot : Nat} {c : Cmd} {l : Launch}

/-- Nothing is due at the boundary of a quiet core. -/
theorem coreBoundary_quiet {core : Nat} (h : CoreQuiet s core) (budget : Nat) : coreBoundary budget s core = s := by
  obtain ⟨hdue, hst, hf⟩ := h
  unfold coreBoundary
  dsimp only
  rw [if_neg hst, hdue, hf]
  exact ite_self s

theorem launchBoundary_quiet (h : steppedCtx s ≠ some l.ctx → ∀ k ∈ l.cores, CoreQuiet s k) : launchBoundary s l = s := by
  unfold launchBoundary
  split
  · rfl
  next hs =>
    have hq := h hs
    generalize l.cores = ks at hq
    generalize (getCtx s l.ctx).budget * 1000 = b
    induction ks with
    | nil => rfl
    | cons k ks ih =>
      rw [List.foldl_cons, coreBoundary_quiet (hq k (by simp))]
      exact ih fun j hj => hq j (List.mem_cons_of_mem _ hj)

/-- A core that a launch frees, if it is bound to it. -/
def freedBy (slot : Nat) (x : Core) : Core := if x.launch = some slot then freeCore x else x

theorem freedBy_idem (slot : Nat) (x : Core) : freedBy slot (freedBy slot x) = freedBy slot x := by
  by_cases h : x.launch = some slot
  · have hx : freedBy slot x = freeCore x := if_pos h
    rw [hx]
    exact if_neg (by simp [freeCore])
  · have hx : freedBy slot x = x := if_neg h
    rw [hx, hx]

/-- Core, station and index of a launch's first fault, as its record says them. -/
def faultPlace (l : Launch) : Nat × Nat × Nat := match l.first with | some x => x | none => (0xFFFF, 0, 0)

/-- How a launch that was not stopped ends. -/
def endOfLaunch (s : State) (l : Launch) : EndWith :=
  { cls := if l.bubbles then 1 else 0, reason := if l.bubbles then 0xA0 else 0, detail16 := (faultPlace l).1
    detail32 := (faultPlace l).2.1 * 2 ^ 28 + (faultPlace l).2.2, result := (s.arrayCycles - l.startCycle).toNat }

theorem launchComplete_eq {extra : List (Nat × Nat × Nat × Nat)} {cut : List Nat} (hb : IsBegun s slot 0x0201 c)
    (hl : l = getLaunch s slot) (haux : c.aux = 1) (hstop : l.stopped = none) (hrun : l.running = true) (he : launchEnded s l = true)
    (hp : l.profile = 0) :
    launchComplete s slot extra cut = endCmd (launchBoundary { freeCores s slot l with launches := tdel s.launches slot } l) slot
      (endOfLaunch (launchBoundary { freeCores s slot l with launches := tdel s.launches slot } l) l) := by
  have hcut : openCut s l cut = s := if_pos (by rw [hstop]; rfl)
  have hclass : launchClass l = (if l.bubbles then 1 else 0, if l.bubbles then 0xA0 else 0) := by
    unfold launchClass
    rw [hstop]
    cases l.bubbles <;> rfl
  unfold Machine.launchComplete
  rw [hb.1]
  dsimp only
  rw [← hl, hcut, if_pos ⟨haux, .inr he⟩, if_pos hp, hclass, hrun]
  unfold endOfLaunch faultPlace
  cases l.first with
  | none => rfl
  | some x => rfl

theorem launchComplete_ends {extra : List (Nat × Nat × Nat × Nat)} {cut : List Nat} (hb : IsBegun s slot 0x0201 c)
    (hl : l = getLaunch s slot) (haux : c.aux = 1) (hstop : l.stopped = none) (hrun : l.running = true) (he : launchEnded s l = true)
    (hp : l.profile = 0) (hq : steppedCtx s ≠ some l.ctx → ∀ k ∈ l.cores, CoreQuiet s k) :
    Runs (.launchComplete slot extra cut) s (fun t =>
      t = { s with cores := t.cores, launches := tdel s.launches slot, cmds := t.cmds } ∧
      (∀ k, getCore t k = if k ∈ l.cores ∧ (getCore s k).launch = some slot then freeCore (getCore s k) else getCore s k) ∧
      ∃ d, t.cmds = endedCmds s slot { cls := if l.bubbles then 1 else 0, reason := if l.bubbles then 0xA0 else 0
                                       result := (s.arrayCycles - l.startCycle).toNat
                                       detail16 := d.1, detail32 := d.2 } ∧ (l.first = none → d = (0xFFFF, 0))) := by
  have hfr : CoresOnly s (freeCores s slot l) := modAll_coresOnly (freedBy slot) l.cores s
  have hcore (k : Nat) : getCore (freeCores s slot l) k = if k ∈ l.cores then freedBy slot (getCore s k) else getCore s k :=
    getCore_modAll (freedBy_idem slot) l.cores s k
  have heq := launchComplete_eq (extra := extra) (cut := cut) hb hl haux hstop hrun he hp
  generalize freeCores s slot l = u at *
  have hu : ({ u with launches := tdel s.launches slot } : State) = { s with cores := u.cores, launches := tdel s.launches slot } := by rw [hfr]
  have hquiet : launchBoundary { s with cores := u.cores, launches := tdel s.launches slot } l
      = { s with cores := u.cores, launches := tdel s.launches slot } := launchBoundary_quiet (s := { s with cores := u.cores, launches := _ }) hq
  have hcls : (endOfLaunch s l).cls ≤ 1 := by
    unfold endOfLaunch
    dsimp only
    split <;> decide
  have hend : endOfLaunch { s with cores := u.cores, launches := tdel s.launches slot } l = endOfLaunch s l := rfl
  rw [hu, hquiet, hend, endCmd_succeeds (s := { s with cores := u.cores, launches := tdel s.launches slot }) hb.find hb.uncut hcls] at heq
  have hd : l.first = none → ((endOfLaunch s l).detail16, (endOfLaunch s l).detail32) = (0xFFFF, 0) := fun h => by
    unfold endOfLaunch faultPlace
    rw [h]
    rfl
  refine runs_eq rfl heq ⟨rfl, fun k => (hcore k).trans ?_, ((endOfLaunch s l).detail16, (endOfLaunch s l).detail32), rfl, hd⟩
  by_cases hk : k ∈ l.cores
  · rw [if_pos hk]
    by_cases hb : (getCore s k).launch = some slot
    · rw [if_pos ⟨hk, hb⟩]
      exact if_pos hb
    · rw [if_neg fun h => hb h.2]
      exact if_neg hb
  · rw [if_neg hk, if_neg fun h => hk h.1]

/-! ## LAUNCH_ABORT -/

/-- A core that a stop makes idle, if it is bound to the launch. -/
def stoppedBy (slot : Nat) (x : Core) : Core := if x.launch = some slot then idleCore x else x

theorem idleCore_idem (x : Core) : idleCore (idleCore x) = idleCore x := by
  unfold idleCore
  dsimp only
  congr 1
  · split <;> simp_all
  · rw [List.map_map]
    rfl

theorem stoppedBy_idem (slot : Nat) (x : Core) : stoppedBy slot (stoppedBy slot x) = stoppedBy slot x := by
  by_cases h : x.launch = some slot
  · have hx : stoppedBy slot x = idleCore x := if_pos h
    have hx' : stoppedBy slot (idleCore x) = idleCore (idleCore x) := if_pos h
    rw [hx, hx', idleCore_idem]
  · have hx : stoppedBy slot x = x := if_neg h
    rw [hx, hx]

/-- A launch with a stop asked for. -/
def stoppedLaunch (cls reason : Nat) (x : Launch) : Launch :=
  { x with stopped := match x.stopped with | some y => some y | none => some (cls, reason) }

theorem stopLaunch_only (s : State) (l cls reason : Nat) :
    stopLaunch s l cls reason = { s with cores := (stopLaunch s l cls reason).cores, launches := (modLaunch s l (stoppedLaunch cls reason)).launches } ∧
      (∀ i, getLaunch (stopLaunch s l cls reason) i = if i = l then stoppedLaunch cls reason (getLaunch s l) else getLaunch s i) ∧
      ∀ k, getCore (stopLaunch s l cls reason) k = if k ∈ (getLaunch s l).cores then stoppedBy l (getCore s k) else getCore s k := by
  have hl := getLaunch_modLaunch s l (stoppedLaunch cls reason)
  have hmod : modLaunch s l (stoppedLaunch cls reason) = { s with launches := (modLaunch s l (stoppedLaunch cls reason)).launches } := rfl
  have heq : stopLaunch s l cls reason = (getLaunch (modLaunch s l (stoppedLaunch cls reason)) l).cores.foldl
      (fun s k => modCore s k (stoppedBy l)) (modLaunch s l (stoppedLaunch cls reason)) := rfl
  rw [heq]
  generalize modLaunch s l (stoppedLaunch cls reason) = u at *
  have hcores : (getLaunch u l).cores = (getLaunch s l).cores := by
    rw [hl, if_pos rfl]
    rfl
  rw [hcores]
  have hfr := modAll_coresOnly (stoppedBy l) (getLaunch s l).cores u
  have hcore := getCore_modAll (stoppedBy_idem l) (getLaunch s l).cores u
  generalize (getLaunch s l).cores.foldl (fun s k => modCore s k (stoppedBy l)) u = t at *
  have hu (k : Nat) : getCore u k = getCore s k := by
    rw [hmod]
    rfl
  have ht (i : Nat) : getLaunch t i = getLaunch u i := by
    rw [hfr]
    rfl
  refine ⟨?_, fun i => (ht i).trans (hl i), fun k => ?_⟩
  · rw [hfr, hmod]
  · rw [hcore, hu]

theorem launchAbort_stops {d : Cmd} (hb : IsBegun s slot 0x0202 c)
    (hd : s.cmds.find? (fun d => d.queue == Pkt.p0 c.packet % 2 ^ 14 && Pkt.tag d.packet == Pkt.p0 c.packet / 2 ^ 32
      && Pkt.opcode d.packet == 0x0201 && d.phase == 1 && d.aux == 1 && Pkt.ctx d.packet == Pkt.ctx c.packet) = some d)
    (hl : l = getLaunch s d.slot) :
    Runs (.launchAbort slot) s (fun t => t = { s with cores := t.cores, launches := t.launches, cmds := t.cmds } ∧
      t.cmds = endedCmds s slot {} ∧
      getLaunch t d.slot = { l with stopped := match l.stopped with | some y => some y | none => some (3, 0x17) } ∧
      (∀ i, i ≠ d.slot → getLaunch t i = getLaunch s i) ∧
      ∀ k, getCore t k = if k ∈ l.cores ∧ (getCore s k).launch = some d.slot then idleCore (getCore s k) else getCore s k) := by
  have heq : launchAbort s slot = endCmd (stopLaunch s d.slot 3 0x17) slot {} := by
    unfold Machine.launchAbort
    rw [hb.1]
    exact (congrArg (fun o => match o with | none => refuseCmd s slot 0x03 | some d => endCmd (stopLaunch s d.slot 3 0x17) slot {}) hd)
  obtain ⟨hfr, hlaunch, hcore⟩ := stopLaunch_only s d.slot 3 0x17
  generalize stopLaunch s d.slot 3 0x17 = u at *
  rw [hfr, endCmd_succeeds (s := { s with cores := u.cores, launches := (modLaunch s d.slot (stoppedLaunch 3 0x17)).launches }) hb.find hb.uncut
    (Nat.zero_le _)] at heq
  have hlaunches : u.launches = (modLaunch s d.slot (stoppedLaunch 3 0x17)).launches := by rw [hfr]
  rw [← hlaunches] at heq
  subst hl
  refine runs_eq rfl heq ⟨rfl, rfl, (hlaunch d.slot).trans (if_pos rfl), fun i hi => (hlaunch i).trans (if_neg hi), fun k => (hcore k).trans ?_⟩
  by_cases hk : k ∈ (getLaunch s d.slot).cores
  · rw [if_pos hk]
    by_cases hb : (getCore s k).launch = some d.slot
    · rw [if_pos ⟨hk, hb⟩]
      exact if_pos hb
    · rw [if_neg fun h => hb h.2]
      exact if_neg hb
  · rw [if_neg hk, if_neg fun h => hk h.1]

/-! ## HOUSEKEEPING_WINDOW -/

/-- A core after a housekeeping window. -/
def scrubbedCore (n : Nat) (x : Core) : Core := { x with windows := x.windows + 1, scrubWords := n }

theorem housekeepingWindow_eq {core : Nat} (hr : coreRuns s core = true) (hl : l = coreLaunch s core) :
    housekeepingWindow s core .clean =
      if 98304 ≤ (getCore s core).scrubWords + 4 * l.hkLength then
        modScrub (modCore s core (scrubbedCore (((getCore s core).scrubWords + 4 * l.hkLength) % 98304))) (core / 128)
          (fun x => { x with sramPasses := satAdd 32 x.sramPasses 1 })
      else modCore s core (scrubbedCore (((getCore s core).scrubWords + 4 * l.hkLength) % 98304)) := by
  have hgo : ¬(!coreRuns s core) = true := by
    rw [hr]
    decide
  subst hl
  exact if_neg hgo

theorem housekeepingWindow_scrubs {core : Nat} (hr : coreRuns s core = true) (hl : l = coreLaunch s core) :
    Runs (.housekeepingWindow core .clean) s (fun t => (∀ k, k ≠ core → getCore t k = getCore s k) ∧
      getCore t core = { getCore s core with
        windows := (getCore s core).windows + 1
        scrubWords := ((getCore s core).scrubWords + 4 * l.hkLength) % 98304 } ∧
      (if 98304 ≤ (getCore s core).scrubWords + 4 * l.hkLength then
          t = { s with cores := t.cores, mem := { s.mem with scrub := t.mem.scrub } } ∧
          (tget {} t.mem.scrub (core / 128)).sramPasses = satAdd 32 (tget {} s.mem.scrub (core / 128)).sramPasses 1
        else t = { s with cores := t.cores })) := by
  refine runs_eq rfl (housekeepingWindow_eq hr hl) ?_
  generalize (getCore s core).scrubWords + 4 * l.hkLength = n
  generalize hm : n % 98304 = m
  have hsame := getCore_modCore_same s core (scrubbedCore m)
  have hne := fun k (hk : k ≠ core) => getCore_modCore_ne s hk (scrubbedCore m)
  have hfr : CoresOnly s (modCore s core (scrubbedCore m)) := modCore_coresOnly ..
  generalize modCore s core (scrubbedCore m) = u at *
  by_cases hn : 98304 ≤ n
  · rw [if_pos hn, if_pos hn]
    obtain ⟨hs, hscrub, -⟩ := modScrub_only u (core / 128) (fun x => { x with sramPasses := satAdd 32 x.sramPasses 1 })
    generalize modScrub u (core / 128) (fun x => { x with sramPasses := satAdd 32 x.sramPasses 1 }) = t at *
    have hcore (k : Nat) : getCore t k = getCore u k := by
      rw [hs]
      rfl
    refine ⟨fun k hk => (hcore k).trans (hne k hk), (hcore core).trans hsame, ?_, ?_⟩
    · rw [hs, hfr]
    · rw [hscrub, hfr]
  · rw [if_neg hn, if_neg hn]
    exact ⟨hne, hsame, hfr⟩

end

/-- Settles O12: how a launch ends, is aborted, and is scrubbed. -/
theorem launchesEnd : Obligations.LaunchesEnd :=
  ⟨fun _ _ _ _ _ _ hb hl haux hstop hrun he hp hq => launchComplete_ends hb hl haux hstop hrun he hp hq,
    fun _ _ _ _ _ hb hd hl => launchAbort_stops hb hd hl, fun _ _ _ hr hl => housekeepingWindow_scrubs hr hl⟩

end Sys2Proof.Machine
end

section
/-! # Phase maps, groups and substitutions (12/R396-R401, R425) -/

namespace Sys2Proof.Machine

/-! ## What a session that opens changes -/

/-- `t` is `s` but for the fabric and the values drawn. -/
def FabOnly (s t : State) : Prop := t = { s with fab := t.fab, freeCtr := t.freeCtr }

theorem FabOnly.refl (s : State) : FabOnly s s := rfl
theorem FabOnly.trans {s t u : State} (h : FabOnly s t) (g : FabOnly t u) : FabOnly s u := by
  unfold FabOnly at *
  rw [h] at g
  exact g
theorem FabOnly.foldl {α : Type} {f : State → α → State} (hf : ∀ s a, FabOnly s (f s a)) (l : List α) (s : State) :
    FabOnly s (l.foldl f s) := by
  induction l generalizing s with
  | nil => exact .refl s
  | cons a l ih => exact (hf s a).trans (ih _)
theorem FabOnly.withFab (s : State) (x : Fab) : FabOnly s { s with fab := x } := rfl

theorem openHalf_fabOnly (s : State) (n : Nat) : FabOnly s (openHalf s n) := by
  unfold openHalf
  dsimp -zeta only [drawFree]
  extract_lets sid s2
  have h : FabOnly s s2 := rfl
  refine h.trans ?_
  split
  · exact .withFab _ _
  · exact .refl _

theorem useSession_fabOnly (s : State) (peer : Nat) : FabOnly s (useSession s peer).1 := by
  unfold useSession
  split
  · split
    · split
      · exact .refl s
      · exact openHalf_fabOnly ..
    · exact .refl s
  · split
    · exact .refl s
    · exact (FabOnly.withFab s _).trans (openHalf_fabOnly ..)

theorem askBind_fabOnly (s : State) (ctx gen chip ch : Nat) : FabOnly s (askBind s ctx gen chip ch) := rfl

theorem bindMembers_fabOnly (s : State) (ctx g : Nat) (m : MapGroup) : FabOnly s (bindMembers s ctx g m) := by
  refine .foldl (fun s chip => ?_) _ s
  split
  · exact .refl s
  · have h := useSession_fabOnly s chip
    generalize useSession s chip = r at *
    obtain ⟨t, n⟩ := r
    cases n with
    | none => exact h
    | some n => exact h.trans (askBind_fabOnly ..)

/-! ## PHASE_MAP_LOAD -/

section
variable {s : State} {slot : Nat} {c : Cmd}

theorem getMap_modMap_same (s : State) (n : Nat) (g : PhaseMap → PhaseMap) : getMap (modMap s n g) n = g (getMap s n) := by
  rw [getMap_modMap, if_pos rfl]

theorem getMap_modMap_ne (s : State) {n j : Nat} (h : j ≠ n) (g : PhaseMap → PhaseMap) : getMap (modMap s n g) j = getMap s j := by
  rw [getMap_modMap, if_neg h]

theorem readVerifyN_ok (s : State) (cg : CtxGen) (n first : Nat) (h : ∀ i, i < n → CrateOk s (first + i)) :
    readVerifyN cg n first s = (s, (List.range n).flatMap (fun i => crateBytes s.mem (first + i)), none) := by
  induction n generalizing first with
  | zero => rfl
  | succ n ih =>
    have ih' := ih (first + 1) fun i hi => by
      rw [Nat.add_assoc, Nat.add_comm 1 i]
      exact h (i + 1) (by omega)
    unfold readVerifyN
    rw [readVerify_ok s cg first (h 0 (by omega))]
    dsimp only
    rw [ih', List.range_succ_eq_map, List.flatMap_cons, List.flatMap_map]
    simp only [Nat.add_zero, Option.or_none, Nat.succ_eq_add_one, Nat.add_assoc, Nat.add_comm 1]

/-- A phase map as its table gives it. -/
def tableMap (c : Cmd) (b : List Byte) : PhaseMap :=
  { loaded := true, ctx := Pkt.ctx c.packet, gen := Pkt.gen c.packet, groups := (List.range (leAt b 6 2)).map (mapGroupOf b) }

/-- How many crates a table takes. -/
def tableCrates (s : State) (a : Nat) : Nat := min 5 ((0x40 + 16 * leAt (crateBytes s.mem (a / 4096)) 6 2 + 4095) / 4096)
/-- The bytes of a table. -/
def tableBytes (s : State) (a : Nat) : List Byte := (List.range (tableCrates s a)).flatMap (fun i => crateBytes s.mem (a / 4096 + i))

theorem tableCrates_pos (s : State) (a : Nat) : 0 < tableCrates s a := by
  unfold tableCrates
  omega

theorem tableBytes_eq (s : State) (a : Nat) : crateBytes s.mem (a / 4096)
    ++ (List.range (tableCrates s a - 1)).flatMap (fun i => crateBytes s.mem (a / 4096 + 1 + i)) = tableBytes s a := by
  obtain ⟨k, hk⟩ := Nat.exists_eq_succ_of_ne_zero (Nat.ne_of_gt (tableCrates_pos s a))
  unfold tableBytes
  rw [hk, List.range_succ_eq_map, List.flatMap_cons, List.flatMap_map]
  simp only [Nat.add_zero, Nat.succ_eq_add_one, Nat.add_sub_cancel, Nat.add_assoc, Nat.add_comm 1]

theorem refuseRange_none {path : Path} {part first n : Nat} (h : ∀ i, i < n → refuse s path part ((first + i) * 4096) = none) :
    refuseRange s path part first n = none := by
  unfold refuseRange
  rw [List.findSome?_eq_none_iff]
  exact fun i hi => h i (List.mem_range.mp hi)

theorem phaseMapLoad_eq (hb : IsBegun s slot 0x0401 c)
    (hr : refuse s .all (getCtx s (Pkt.ctx c.packet)).part (pktOff0 c.packet) = none)
    (hk : ∀ i, i < tableCrates s (pktOff0 c.packet) →
      refuse s .all (getCtx s (Pkt.ctx c.packet)).part ((pktOff0 c.packet / 4096 + i) * 4096) = none ∧
        CrateOk s (pktOff0 c.packet / 4096 + i))
    (hok : mapOk s (tableBytes s (pktOff0 c.packet)) = true) (hload : (getMap s (Pkt.p1 c.packet % 16)).loaded = false) :
    phaseMapLoad s slot = endCmd (modMap s (Pkt.p1 c.packet % 16) (fun _ => tableMap c (tableBytes s (pktOff0 c.packet)))) slot {} := by
  have hpos := tableCrates_pos s (pktOff0 c.packet)
  have hfirst := readVerify_ok s (Pkt.ctx c.packet, Pkt.gen c.packet) _ (hk 0 hpos).2
  have hrest := readVerifyN_ok s (Pkt.ctx c.packet, Pkt.gen c.packet) (tableCrates s (pktOff0 c.packet) - 1)
    (pktOff0 c.packet / 4096 + 1) fun i hi => by
      rw [Nat.add_assoc, Nat.add_comm 1 i]
      exact (hk (i + 1) (by omega)).2
  have hrange : refuseRange s .all (getCtx s (Pkt.ctx c.packet)).part (pktOff0 c.packet / 4096) (tableCrates s (pktOff0 c.packet)) = none :=
    refuseRange_none fun i hi => (hk i hi).1
  have hbytes := tableBytes_eq s (pktOff0 c.packet)
  rw [Nat.add_zero] at hfirst
  unfold Machine.phaseMapLoad
  rw [hb.1]
  dsimp only
  rw [hr]
  dsimp only
  rw [hfirst]
  dsimp only
  have hcrates : min 5 ((0x40 + 16 * leAt (crateBytes s.mem (pktOff0 c.packet / 4096)) 6 2 + 4095) / 4096)
    = tableCrates s (pktOff0 c.packet) := rfl
  rw [hcrates]
  simp only [hrange]
  rw [hrest]
  dsimp only
  rw [hbytes, hok, hload]
  rfl

theorem phaseMapLoad_fills (hb : IsBegun s slot 0x0401 c)
    (hr : refuse s .all (getCtx s (Pkt.ctx c.packet)).part (pktOff0 c.packet) = none)
    (hk : ∀ i, i < tableCrates s (pktOff0 c.packet) →
      refuse s .all (getCtx s (Pkt.ctx c.packet)).part ((pktOff0 c.packet / 4096 + i) * 4096) = none ∧
        CrateOk s (pktOff0 c.packet / 4096 + i))
    (hok : mapOk s (tableBytes s (pktOff0 c.packet)) = true) (hload : (getMap s (Pkt.p1 c.packet % 16)).loaded = false) :
    Runs (.phaseMapLoad slot) s (fun t => t = { s with maps := t.maps, cmds := endedCmds s slot {} } ∧
      getMap t (Pkt.p1 c.packet % 16) = tableMap c (tableBytes s (pktOff0 c.packet)) ∧
      ∀ j, j ≠ Pkt.p1 c.packet % 16 → getMap t j = getMap s j) := by
  have heq := phaseMapLoad_eq hb hr hk hok hload
  generalize Pkt.p1 c.packet % 16 = n at *
  generalize tableMap c (tableBytes s (pktOff0 c.packet)) = x at *
  have hsame := getMap_modMap_same s n (fun _ => x)
  have hne := fun j (hj : j ≠ n) => getMap_modMap_ne s hj (fun _ => x)
  have hfr : modMap s n (fun _ => x) = { s with maps := (modMap s n (fun _ => x)).maps } := rfl
  generalize modMap s n (fun _ => x) = u at *
  rw [hfr, endCmd_succeeds (s := { s with maps := u.maps }) hb.find hb.uncut (Nat.zero_le _)] at heq
  exact runs_eq rfl heq ⟨rfl, hsame, hne⟩

/-! ## PHASE_SWITCH -/

/-- A map of a context and generation other than number `n` is no longer active. -/
def deactivated (ctx gen n : Nat) (e : Nat × PhaseMap) : Nat × PhaseMap :=
  if e.2.ctx = ctx ∧ e.2.gen = gen ∧ e.1 ≠ n then (e.1, { e.2 with active := false }) else e

theorem tget_deactivated (ctx gen n : Nat) (t : Tab PhaseMap) (j : Nat) :
    tget {} (t.map (deactivated ctx gen n)) j
      = if (tget {} t j).ctx = ctx ∧ (tget {} t j).gen = gen ∧ j ≠ n then { tget {} t j with active := false } else tget {} t j := by
  induction t with
  | nil => exact (ite_self _).symm
  | cons e t ih =>
    obtain ⟨k, x⟩ := e
    have hkey : (deactivated ctx gen n (k, x)).1 = k := by
      unfold deactivated
      split <;> rfl
    rw [List.map_cons, ← Prod.eta (deactivated ctx gen n (k, x)), hkey, tget, tget]
    by_cases hj : j = k
    · subst hj
      rw [if_pos rfl, if_pos rfl]
      unfold deactivated
      dsimp only
      split <;> rfl
    · rw [if_neg hj, if_neg hj, ih]

/-- The state in which a switch has made the map of a slot the active one. -/
def switchedMaps (s : State) (ctx gen n : Nat) : State :=
  modMap { s with maps := s.maps.map (deactivated ctx gen n) } n (fun x => { x with active := true })

theorem switchedMaps_frame (s : State) (ctx gen n : Nat) : switchedMaps s ctx gen n = { s with maps := (switchedMaps s ctx gen n).maps } := rfl

theorem getMap_switchedMaps (s : State) (ctx gen n j : Nat) : getMap (switchedMaps s ctx gen n) j
    = if j = n then { getMap s n with active := true }
      else if (getMap s j).ctx = ctx ∧ (getMap s j).gen = gen then { getMap s j with active := false } else getMap s j := by
  have h (j : Nat) : getMap { s with maps := s.maps.map (deactivated ctx gen n) } j = if (getMap s j).ctx = ctx ∧ (getMap s j).gen = gen ∧ j ≠ n
      then { getMap s j with active := false } else getMap s j := tget_deactivated ctx gen n s.maps j
  rw [switchedMaps, getMap_modMap, h, h]
  by_cases hj : j = n
  · rw [if_pos hj, if_pos hj, if_neg fun hc => hc.2.2 rfl]
  · rw [if_neg hj, if_neg hj]
    by_cases hc : (getMap s j).ctx = ctx ∧ (getMap s j).gen = gen
    · rw [if_pos hc, if_pos ⟨hc.1, hc.2, hj⟩]
    · rw [if_neg hc, if_neg fun h => hc ⟨h.1, h.2.1⟩]

/-- The groups of a context that are enabled. -/
def enabledGroups (s : State) (ctx : Nat) : List (Nat × Group) := s.groups.filter (fun e => grpEnabled e.2 && grpCtx e.2 == ctx)

/-- The members of the groups of a map are bound. -/
def bindGroups (ctx : Nat) (x : PhaseMap) (s : State) (l : List (Nat × Group)) : State :=
  l.foldl (fun s e => match mapEntryOf x e.1 with
    | some m => bindMembers s ctx e.1 m
    | none => s) s

theorem bindGroups_fabOnly (ctx : Nat) (x : PhaseMap) (s : State) (l : List (Nat × Group)) : FabOnly s (bindGroups ctx x s l) := by
  refine .foldl (fun s e => ?_) l s
  split
  · exact bindMembers_fabOnly ..
  · exact .refl s

theorem phaseSwitch_eq {n ctx : Nat} {x : PhaseMap} (hb : IsBegun s slot 0x0402 c) (hn : n = Pkt.p1 c.packet % 16) (hx : x = getMap s n)
    (hctx : ctx = Pkt.ctx c.packet) (hrun : collRunning s ctx = false) (hl : x.loaded = true) (hc : x.ctx = ctx)
    (hg : x.gen = Pkt.gen c.packet) (hchunk : ∀ e ∈ s.groups, grpEnabled e.2 = true → grpCtx e.2 = ctx → ∀ m, mapEntryOf x e.1 = some m →
      chunkSize s ctx (grpShare e.2) (groupMembers s m).length ≠ 0) :
    phaseSwitch s slot = endCmd (bindGroups ctx x (switchedMaps s ctx x.gen n) (enabledGroups s ctx)) slot {} := by
  have hno : ¬(!x.loaded || x.ctx != ctx || x.gen != Pkt.gen c.packet) = true := by simp [hl, hc, hg]
  have hany : ¬(enabledGroups s ctx).any (fun e => match mapEntryOf x e.1 with
      | some m => chunkSize s ctx (grpShare e.2) (groupMembers s m).length == 0
      | none => false) = true := by
    rw [List.any_eq_true]
    rintro ⟨e, he, hbad⟩
    obtain ⟨hmem, hcond⟩ := List.mem_filter.mp he
    obtain ⟨hen, hcx⟩ := Bool.and_eq_true_iff.mp hcond
    cases hm : mapEntryOf x e.1 with
    | none => simp [hm] at hbad
    | some m =>
      rw [hm] at hbad
      exact hchunk e hmem hen (by simpa using hcx) m hm (by simpa using hbad)
  unfold Machine.phaseSwitch
  rw [hb.1]
  dsimp only
  rw [← hn, ← hctx, ← hx, hrun, if_neg (by decide), if_neg hno]
  exact if_neg hany

theorem phaseSwitch_switches {n ctx : Nat} {x : PhaseMap} (hb : IsBegun s slot 0x0402 c) (hn : n = Pkt.p1 c.packet % 16) (hx : x = getMap s n)
    (hctx : ctx = Pkt.ctx c.packet) (hrun : collRunning s ctx = false) (hl : x.loaded = true) (hc : x.ctx = ctx)
    (hg : x.gen = Pkt.gen c.packet) (hchunk : ∀ e ∈ s.groups, grpEnabled e.2 = true → grpCtx e.2 = ctx → ∀ m, mapEntryOf x e.1 = some m →
      chunkSize s ctx (grpShare e.2) (groupMembers s m).length ≠ 0) :
    Runs (.phaseSwitch slot) s (fun t =>
        t = { s with maps := t.maps, fab := t.fab, freeCtr := t.freeCtr, cmds := endedCmds s slot {} } ∧
        getMap t n = { x with active := true } ∧
        ∀ j, j ≠ n → (getMap t j).groups = (getMap s j).groups ∧ (getMap t j).loaded = (getMap s j).loaded ∧
          ((getMap s j).ctx = ctx → (getMap s j).gen = x.gen → (getMap t j).active = false) ∧
          ((getMap s j).ctx ≠ ctx → getMap t j = getMap s j)) := by
  have heq := phaseSwitch_eq hb hn hx hctx hrun hl hc hg hchunk
  have hmaps := getMap_switchedMaps s ctx x.gen n
  have hfr := switchedMaps_frame s ctx x.gen n
  generalize switchedMaps s ctx x.gen n = u at *
  have hbind := bindGroups_fabOnly ctx x u (enabledGroups s ctx)
  generalize bindGroups ctx x u (enabledGroups s ctx) = w at *
  have hw : w = { s with maps := u.maps, fab := w.fab, freeCtr := w.freeCtr } := by rw [hbind, hfr]
  rw [hw, endCmd_succeeds (s := { s with maps := u.maps, fab := w.fab, freeCtr := w.freeCtr }) hb.find hb.uncut (Nat.zero_le _)] at heq
  refine runs_eq rfl heq ⟨rfl, (hmaps n).trans ?_, fun j hj => ?_⟩
  · rw [if_pos rfl, hx]
  · have hj' := hmaps j
    rw [if_neg hj] at hj'
    show (getMap u j).groups = _ ∧ (getMap u j).loaded = _ ∧ (_ → _ → (getMap u j).active = false) ∧ (_ → getMap u j = _)
    rw [hj']
    by_cases hcg : (getMap s j).ctx = ctx ∧ (getMap s j).gen = x.gen
    · rw [if_pos hcg]
      exact ⟨rfl, rfl, fun _ _ => rfl, fun h => absurd hcg.1 h⟩
    · rw [if_neg hcg]
      exact ⟨rfl, rfl, fun h1 h2 => absurd ⟨h1, h2⟩ hcg, fun _ => rfl⟩

theorem phaseSwitch_refused {n ctx : Nat} {x : PhaseMap} (hb : IsBegun s slot 0x0402 c) (hn : n = Pkt.p1 c.packet % 16) (hx : x = getMap s n)
    (hctx : ctx = Pkt.ctx c.packet) (hrun : collRunning s ctx = false) (hl : x.loaded = false) (hlast : ∀ d ∈ queueCmds s c.queue, d.ord ≤ c.ord) :
    Runs (.phaseSwitch slot) s (fun t =>
        t = { s with maps := t.maps, queues := t.queues, cmds := endedCmds s slot { cls := 2, reason := 0x68 } } ∧
        getMap t n = { x with reason := 0x68 }) := by
  have heq : phaseSwitch s slot = refuseCmd (modMap s n (fun x => { x with reason := 0x68 })) slot 0x68 := by
    unfold Machine.phaseSwitch
    rw [hb.1]
    dsimp only
    rw [← hn, ← hctx, ← hx, hrun, if_neg (by decide)]
    exact if_pos (by simp [hl])
  have hsame := getMap_modMap_same s n (fun x => { x with reason := 0x68 })
  have hfr : modMap s n (fun x => { x with reason := 0x68 }) = { s with maps := (modMap s n (fun x => { x with reason := 0x68 })).maps } := rfl
  generalize modMap s n (fun x => { x with reason := 0x68 }) = u at *
  rw [hfr, refuseCmd_last (s := { s with maps := u.maps }) hb (.inl (by decide)) hlast] at heq
  exact runs_eq rfl heq ⟨rfl, hsame.trans (by rw [hx])⟩

end

/-! ## Groups -/

section
variable {s : State}

theorem getGroup_modGroup_same (s : State) (g : Nat) (f : Group → Group) : getGroup (modGroup s g f) g = f (getGroup s g) := by
  rw [getGroup_modGroup, if_pos rfl]

theorem getGroup_modGroup_ne (s : State) {g h : Nat} (hg : h ≠ g) (f : Group → Group) : getGroup (modGroup s g f) h = getGroup s h := by
  rw [getGroup_modGroup, if_neg hg]

theorem modGroup_fields (s : State) (g : Nat) (f : Group → Group) : modGroup s g f = { s with groups := (modGroup s g f).groups } := rfl

theorem grpEnabled_of_cfg {x : Group} {w : W64} {b : Bool} (hx : x.cfg = w) (hw : rbit w 63 = b) : grpEnabled x = b := by
  rw [grpEnabled, hx, hw]

/-- The configuration of a disabled group that takes the fields of `v`. -/
def groupCfg (v : W64) : W64 := rset 0#64 55 32 (grpFields v)

theorem rbit_groupCfg (v : W64) : rbit (groupCfg v) 63 = false := rbit_rset_zero (by decide) (by decide) (by decide)

/-- A group that takes fields. -/
def takesFields (w : W64) (x : Group) : Group := { x with cfg := w }

/-- A write of the fields of a disabled group takes them. -/
theorem writeGrpFields_disabled {g : Nat} (v : W64) (h : grpEnabled (getGroup s g) = false) :
    (∀ k, k ≠ g → getGroup (writeGrpFields s g v) k = getGroup s k) ∧
      getGroup (writeGrpFields s g v) g = takesFields (groupCfg v) (getGroup s g) ∧
      writeGrpFields s g v = { s with groups := (writeGrpFields s g v).groups } := by
  refine ⟨fun k hk => getGroup_modGroup_ne s hk _, (getGroup_modGroup_same ..).trans ?_, rfl⟩
  rw [if_neg (by simp [h])]
  rfl

theorem takesFields_with (w : W64) (x : Group) (r : Nat) : { takesFields w x with reason := r } = { x with cfg := w, reason := r } := by
  cases x
  rfl

/-! ### Enable -/

/-- What an enable does once the fields are written. -/
def grpJudged (s : State) (g : Nat) (v : W64) : State :=
  match grpRefusal s g v with
  | some r => modGroup s g (fun x => { x with reason := r })
  | none =>
    let ctx := rbits v 55 48
    let s := modGroup s g fun x => { x with cfg := rset x.cfg 63 63 1, gen := (getCtx s ctx).gen, state := 1, count := 0 }
    match activeMap s ctx with
    | some n => match mapEntryOf (getMap s n) g with
      | some m => bindMembers s ctx g m
      | none => s
    | none => s

/-- A group that passes the check. -/
def enabledGroup (gen : Nat) (x : Group) : Group := { x with cfg := rset x.cfg 63 63 1, gen, state := 1, count := 0 }

theorem enabledGroup_takesFields (w : W64) (x : Group) (gen : Nat) :
    enabledGroup gen (takesFields w x) = { x with cfg := rset w 63 63 1, gen, state := 1, count := 0 } := by
  cases x
  rfl

theorem grpJudged_passed {g : Nat} {v : W64} (h : grpRefusal s g v = none) :
    ∃ w, grpJudged s g v = w ∧ FabOnly (modGroup s g (enabledGroup (getCtx s (rbits v 55 48)).gen)) w := by
  refine ⟨_, rfl, ?_⟩
  unfold grpJudged
  rw [h]
  dsimp only
  split
  · split
    · exact bindMembers_fabOnly ..
    · exact .refl _
  · exact .refl _

theorem disableGroup_only (s : State) (g : Nat) : (∀ k, k ≠ g → getGroup (disableGroup s g) k = getGroup s k) ∧
    getGroup (disableGroup s g) g = { getGroup s g with
      cfg := rset (getGroup s g).cfg 63 63 0, state := 0, pendingBell := none, run := none, grants := [], bells := [], backpressure := false } ∧
    disableGroup s g = { s with groups := (disableGroup s g).groups } :=
  ⟨fun _ hk => getGroup_modGroup_ne s hk _, getGroup_modGroup_same .., rfl⟩

theorem grpEnable_judged (ho : hostOpen s = true) {g : Nat} {v : W64} {x : Group} (hg : g < 1024) (hv : rbit v 63 = true)
    (hx : x = getGroup s g) (hen : grpEnabled x = false) :
    Runs (.grpEnable g v) s (fun t => t = { s with groups := t.groups, fab := t.fab, freeCtr := t.freeCtr } ∧
        (∀ h, h ≠ g → getGroup t h = getGroup s h) ∧
        (∀ r, grpRefusal (writeGrpFields s g v) g v = some r →
          getGroup t g = { x with cfg := groupCfg v, reason := r } ∧ grpEnabled (getGroup t g) = false) ∧
        (grpRefusal (writeGrpFields s g v) g v = none →
          getGroup t g = { x with cfg := rset (groupCfg v) 63 63 1, gen := (getCtx s (rbits v 55 48)).gen
                                  state := 1, count := 0 } ∧ grpEnabled (getGroup t g) = true)) := by
  have hgo : ¬(1024 ≤ g || !rbit v 63) = true := by simp [hg, hv]
  have hno : ¬grpEnabled (getGroup s g) = true := by rw [← hx, hen]; decide
  obtain ⟨hw1, hw2, hw3⟩ := writeGrpFields_disabled v (hx ▸ hen)
  have heq : grpEnable s g v = grpJudged (writeGrpFields s g v) g v := by
    unfold Machine.grpEnable
    rw [if_neg hgo]
    exact if_neg hno
  rw [← hx] at hw2
  refine runs_host_eq ho rfl heq ?_
  generalize writeGrpFields s g v = u at *
  cases hr : grpRefusal u g v with
  | some r =>
    have hj : grpJudged u g v = modGroup u g (fun x => { x with reason := r }) := by
      unfold grpJudged
      rw [hr]
    have hsame := getGroup_modGroup_same u g (fun x => { x with reason := r })
    have hne := fun k (hk : k ≠ g) => getGroup_modGroup_ne u hk (fun x => { x with reason := r })
    have hfr := modGroup_fields u g (fun x => { x with reason := r })
    rw [hj]
    generalize modGroup u g (fun x => { x with reason := r }) = t at *
    rw [hw2, takesFields_with] at hsame
    refine ⟨?_, fun k hk => (hne k hk).trans (hw1 k hk), fun r' h => ?_, fun h => (nomatch h)⟩
    · rw [hfr, hw3]
    · injection h with h
      subst h
      exact ⟨hsame, grpEnabled_of_cfg (congrArg Group.cfg hsame) (rbit_groupCfg v)⟩
  | none =>
    obtain ⟨w, hj, hbind⟩ := grpJudged_passed hr
    have hsame := getGroup_modGroup_same u g (enabledGroup (getCtx u (rbits v 55 48)).gen)
    have hne := fun k (hk : k ≠ g) => getGroup_modGroup_ne u hk (enabledGroup (getCtx u (rbits v 55 48)).gen)
    have hfr := modGroup_fields u g (enabledGroup (getCtx u (rbits v 55 48)).gen)
    rw [hj]
    generalize modGroup u g (enabledGroup (getCtx u (rbits v 55 48)).gen) = y at *
    have hgrp (k : Nat) : getGroup w k = getGroup y k := by
      unfold getGroup
      rw [hbind]
    have hctx : getCtx u (rbits v 55 48) = getCtx s (rbits v 55 48) := by
      unfold getCtx
      rw [hw3]
    rw [hctx, hw2, enabledGroup_takesFields] at hsame
    refine ⟨?_, fun k hk => (hgrp k).trans ((hne k hk).trans (hw1 k hk)), fun r' h => (nomatch h), fun _ => ?_⟩
    · rw [hbind, hfr, hw3]
    · refine ⟨(hgrp g).trans hsame, grpEnabled_of_cfg (congrArg Group.cfg ((hgrp g).trans hsame)) ?_⟩
      exact (rbit_rset_top ..).trans (by decide)

/-! ### Disable -/

theorem grpDisable_judged (ho : hostOpen s = true) {g : Nat} {v : W64} {x : Group} (hg : g < 1024) (hv : rbit v 63 = false)
    (hx : x = getGroup s g) (hen : grpEnabled x = true) :
    Runs (.grpDisable g v) s (fun t => t = { s with groups := t.groups } ∧ (∀ h, h ≠ g → getGroup t h = getGroup s h) ∧
        (qEnabled (getQueue s (15360 + g)) = true → getGroup t g = { x with reason := 0x1D }) ∧
        (qEnabled (getQueue s (15360 + g)) = false →
          getGroup t g = { x with cfg := groupCfg v, state := 0, pendingBell := none, run := none, grants := []
                                  bells := [], backpressure := false })) := by
  have hgo : ¬(1024 ≤ g || rbit v 63) = true := by simp [hg, hv]
  have hno : ¬(!grpEnabled (getGroup s g)) = true := by rw [← hx, hen]; decide
  have heq : grpDisable s g v = if qEnabled (getQueue s (15360 + g)) then modGroup s g (fun x => { x with reason := 0x1D })
      else writeGrpFields (disableGroup s g) g v := by
    unfold Machine.grpDisable
    rw [if_neg hgo, if_neg hno]
  refine runs_host_eq ho rfl heq ?_
  split
  next hq =>
    have hsame := getGroup_modGroup_same s g (fun x => { x with reason := 0x1D })
    refine ⟨modGroup_fields .., fun k hk => getGroup_modGroup_ne s hk _, fun _ => hsame.trans (by rw [hx]), fun h => absurd (hq.symm.trans h) (by decide)⟩
  next hq =>
    obtain ⟨hd1, hd2, hd3⟩ := disableGroup_only s g
    generalize disableGroup s g = u at *
    have hoff : grpEnabled (getGroup u g) = false := by
      rw [hd2]
      exact grpEnabled_of_cfg rfl ((rbit_rset_top ..).trans (by decide))
    obtain ⟨hw1, hw2, hw3⟩ := writeGrpFields_disabled v hoff
    generalize writeGrpFields u g v = t at *
    refine ⟨?_, fun k hk => (hw1 k hk).trans (hd1 k hk), fun h => absurd h hq, fun _ => ?_⟩
    · rw [hw3, hd3]
    · rw [hw2, hd2, ← hx]
      rfl

/-! ### Substitutions -/

/-- Another entry in force names one of two chips. -/
def substTaken (s : State) (i lg ph : Nat) : Bool := s.substs.any (fun e => e.1 != i && e.2.enable && (e.2.logical == lg || e.2.phys == ph))

/-- An entry after an enable. -/
def judgedSubst (taken : Bool) (lg ph : Nat) (x : Subst) : Subst :=
  if taken then { x with logical := lg, phys := ph, reason := 0x68 } else { x with enable := true, logical := lg, phys := ph }

theorem writeSubst_enables {i : Nat} {v : W64} {x : Subst} {lg ph : Nat} (hi : i < 256) (hv : rbit v 63 = true)
    (hx : x = tget {} s.substs i) (hen : x.enable = false) (hlg : lg = rbits v 46 32) (hph : ph = rbits v 14 0) :
    writeSubst s i v = { s with substs := tset {} s.substs i (judgedSubst (substTaken s i lg ph) lg ph x) } := by
  have hno : ¬256 ≤ i := by omega
  have hoff : ¬x.enable = true := by rw [hen]; decide
  unfold writeSubst
  rw [if_neg hno, ← hx, ← hlg, ← hph]
  dsimp only
  rw [if_neg hoff, if_pos hv]
  unfold judgedSubst substTaken
  split <;> rfl

theorem grpSubstEnable_judged (ho : hostOpen s = true) {i : Nat} {v : W64} {x : Subst} {lg ph : Nat} (hi : i < 256) (hv : rbit v 63 = true)
    (hx : x = tget {} s.substs i) (hen : x.enable = false) (hlg : lg = rbits v 46 32) (hph : ph = rbits v 14 0) :
    Runs (.grpSubstEnable i v) s (fun t => t = { s with substs := t.substs } ∧
        (∀ j, j ≠ i → tget {} t.substs j = tget {} s.substs j) ∧
        ((∃ e ∈ s.substs, e.1 ≠ i ∧ e.2.enable = true ∧ (e.2.logical = lg ∨ e.2.phys = ph)) →
          tget {} t.substs i = { x with logical := lg, phys := ph, reason := 0x68 }) ∧
        ((∀ e ∈ s.substs, e.1 ≠ i → e.2.enable = true → e.2.logical ≠ lg ∧ e.2.phys ≠ ph) →
          tget {} t.substs i = { x with enable := true, logical := lg, phys := ph })) := by
  refine runs_host_eq ho rfl ((if_pos hv).trans (writeSubst_enables hi hv hx hen hlg hph)) ?_
  have htaken : substTaken s i lg ph = true ↔ ∃ e ∈ s.substs, e.1 ≠ i ∧ e.2.enable = true ∧ (e.2.logical = lg ∨ e.2.phys = ph) := by
    simp [substTaken, List.any_eq_true, and_assoc]
  refine ⟨rfl, fun j hj => (tget_tset ..).trans (if_neg hj), fun h => ?_, fun h => ?_⟩
  · exact (tget_tset_self ..).trans (if_pos (htaken.mpr h))
  · refine (tget_tset_self ..).trans (if_neg fun hn => ?_)
    obtain ⟨e, he, hne, hon, hbad⟩ := htaken.mp hn
    exact hbad.elim (h e he hne hon).1 (h e he hne hon).2

end

/-- Settles O24: what loads and switches of maps, and enables of groups and substitutions do. -/
theorem mapsAndGroups : Obligations.MapsAndGroups := by
  refine ⟨?_, ?_, fun s ho => ⟨?_, ?_, ?_⟩⟩
  · rintro s slot c n a part k b hb rfl rfl rfl rfl rfl hr hk hok hload
    exact phaseMapLoad_fills hb hr hk hok hload
  · exact fun s slot c n x ctx hb hn hx hctx hrun =>
      ⟨fun hl hc hg hchunk => phaseSwitch_switches hb hn hx hctx hrun hl hc hg hchunk,
        fun hl hlast => phaseSwitch_refused hb hn hx hctx hrun hl hlast⟩
  · exact fun _ _ _ hg hv hx hen => grpEnable_judged ho hg hv hx hen
  · exact fun _ _ _ hg hv hx hen => grpDisable_judged ho hg hv hx hen
  · exact fun _ _ _ _ _ hi hv hx hen hlg hph => grpSubstEnable_judged ho hi hv hx hen hlg hph

end Sys2Proof.Machine
end

section
/-! # The beginning of a collective (12/R402-R406) -/

namespace Sys2Proof.Machine

/-- A collective as its command, its group and its map define it. -/
def collRunOf (s : State) (slot op : Nat) (c : Cmd) (x : Group) (m : MapGroup) : CollRun :=
  { slot, op, red := if op = 0x0410 ∨ op = 0x0411 then Pkt.p2 c.packet / 2 ^ 24 % 4 else 0
    crates := Pkt.p2 c.packet % 2 ^ 24 + 1, root := if op = 0x0413 then Pkt.p2 c.packet / 2 ^ 32 % 1024 else 0
    p0 := pktOff0 c.packet, p1 := pktOff1 c.packet, count := x.count, members := (groupMembers s m).map (physOf s)
    ordinal := (ownOrdinal s m).getD 0, nx := (m.x.coords 0).length
    blocks := ((groupMembers s m).map (physOf s)).length / (m.x.coords 0).length
    chunkC := chunkSize s (grpCtx x) (grpShare x) ((groupMembers s m).map (physOf s)).length, mapCheck := m.check
    opCheck := opCheckOf op (if op = 0x0410 ∨ op = 0x0411 then Pkt.p2 c.packet / 2 ^ 24 % 4 else 0)
      (Pkt.p2 c.packet % 2 ^ 24 + 1) (if op = 0x0413 then Pkt.p2 c.packet / 2 ^ 32 % 1024 else 0) }

/-- A group whose count a collective has taken. -/
def countedGroup (r : CollRun) (mapN : Nat) (x : Group) : Group :=
  { x with count := (x.count + 1) % 2 ^ 32, members := r.members.length, map := mapN, chunkC := r.chunkC
           ordinal := r.ordinal, blocks := r.blocks, nx := r.nx, pendingBell := none, lastMembers := r.members
           grants := x.grants.filter (fun y => y.count == r.count || y.count == (r.count + 1) % 2 ^ 32) }

/-- A group that runs a collective. -/
def runningGroup (r : CollRun) (x : Group) : Group := { x with state := 2, run := some r }

/-- What a collective does once it has its group's count and runs. -/
def collGo (s : State) (g : Nat) (r : CollRun) : State :=
  match ((getGroup s g).grants.filter (fun y => y.count == r.count)).findSome? (grantBad r) with
  | some e => collFail s g e
  | none => pumpAll s g

section
variable {s : State} {slot op g mapN : Nat} {c : Cmd} {x : Group} {m : MapGroup}

/-- A collective whose queue's earlier commands have ended, and whose group runs none, need not wait. -/
theorem not_collWaits (hrun : x.run = none) (hq : ∀ d ∈ queueCmds s c.queue, d.ord < c.ord → d.phase = 2) :
    ¬(x.run.isSome || (queueCmds s c.queue).any (fun d => decide (d.ord < c.ord) && d.phase != 2)) = true := by
  rw [hrun, Option.isSome_none, Bool.false_or, List.any_eq_true]
  rintro ⟨d, hd, hbad⟩
  simp only [Bool.and_eq_true, decide_eq_true_eq, bne_iff_ne] at hbad
  exact hbad.2 (hq d hd hbad.1)

theorem collBegin_eq (hb : begun s slot op = some c) (hg : g = c.queue - 15360) (hx : x = getGroup s g) (hrun : x.run = none)
    (hq : ∀ d ∈ queueCmds s c.queue, d.ord < c.ord → d.phase = 2) (ha : activeMap s (grpCtx x) = some mapN)
    (hm : mapEntryOf (getMap s mapN) g = some m) (hchip : s.fab.chip ≠ none) (hchunk : (collRunOf s slot op c x m).chunkC ≠ 0)
    (hr : collRefusal s (collRunOf s slot op c x m) (getCtx s (grpCtx x)).part = none) (hbell : x.pendingBell = none) :
    collBegin s slot op = collGo (modGroup (modGroup s g (countedGroup (collRunOf s slot op c x m) mapN)) g
      (runningGroup (collRunOf s slot op c x m))) g (collRunOf s slot op c x m) := by
  unfold collBegin
  rw [hb]
  refine Eq.trans (if_neg (by rw [← hg, ← hx]; exact not_collWaits hrun hq)) ?_
  rw [← hg, ← hx, ha]
  dsimp -zeta only
  rw [hm]
  dsimp -zeta only
  rw [if_neg hchip]
  extract_lets +onlyGivenNames members nx red root r
  have hr' : r = collRunOf s slot op c x m := rfl
  rw [hr', if_neg hchunk, hr]
  dsimp -zeta only
  extract_lets +onlyGivenNames bell
  have hnone : bell = none := hbell
  rw [hnone]
  rfl

/-- Grants of the collective's own checks hold nothing back. -/
theorem collGo_pumps {s : State} {g : Nat} {r : CollRun}
    (h : ∀ y ∈ (getGroup s g).grants, y.count = r.count → y.mapCheck = r.mapCheck ∧ y.opCheck = r.opCheck) :
    collGo s g r = pumpAll s g := by
  have hn : ((getGroup s g).grants.filter (fun y => y.count == r.count)).findSome? (grantBad r) = none := by
    rw [List.findSome?_eq_none_iff]
    intro y hy
    obtain ⟨hm, hc⟩ := List.mem_filter.mp hy
    obtain ⟨h1, h2⟩ := h y hm (by simpa using hc)
    rw [grantBad, if_neg (Classical.not_not.mpr h1), if_neg (Classical.not_not.mpr h2)]
  unfold collGo
  rw [hn]

theorem collBegin_runs (hb : begun s slot op = some c) (hg : g = c.queue - 15360) (hx : x = getGroup s g) (hrun : x.run = none)
    (hq : ∀ d ∈ queueCmds s c.queue, d.ord < c.ord → d.phase = 2) (ha : activeMap s (grpCtx x) = some mapN)
    (hm : mapEntryOf (getMap s mapN) g = some m) (hchip : s.fab.chip ≠ none) (hchunk : (collRunOf s slot op c x m).chunkC ≠ 0)
    (hr : collRefusal s (collRunOf s slot op c x m) (getCtx s (grpCtx x)).part = none) (hbell : x.pendingBell = none)
    (hgr : ∀ y ∈ x.grants, y.count = x.count → y.mapCheck = m.check ∧ y.opCheck = (collRunOf s slot op c x m).opCheck) :
    ∃ s1, collBegin s slot op = pumpAll s1 g ∧ s1 = { s with groups := s1.groups } ∧
      (getGroup s1 g).run = some (collRunOf s slot op c x m) ∧ (getGroup s1 g).count = (x.count + 1) % 2 ^ 32 ∧
      (getGroup s1 g).state = 2 ∧ ∀ h, h ≠ g → getGroup s1 h = getGroup s h := by
  rw [collBegin_eq hb hg hx hrun hq ha hm hchip hchunk hr hbell]
  generalize hrr : collRunOf s slot op c x m = r at *
  have hrc : r.count = x.count := by rw [← hrr]; rfl
  have hrm : r.mapCheck = m.check := by rw [← hrr]; rfl
  have hget : getGroup (modGroup (modGroup s g (countedGroup r mapN)) g (runningGroup r)) g = runningGroup r (countedGroup r mapN x) := by
    rw [getGroup_modGroup_same, getGroup_modGroup_same, hx]
  refine ⟨_, collGo_pumps fun y hy hyc => ?_, ?_, by rw [hget]; rfl, by rw [hget]; rfl, by rw [hget]; rfl, fun h hh => ?_⟩
  · rw [hget] at hy
    rw [hrm]
    exact hgr y (List.mem_filter.mp hy).1 (hyc.trans hrc)
  · rw [modGroup_fields (modGroup s g _), modGroup_fields s]
  · rw [getGroup_modGroup_ne _ hh, getGroup_modGroup_ne _ hh]

/-- A refused collective, the last command of its queue, ends with class 2, is charged to the step, and its queue stops. -/
theorem endCmd_collRefused {s : State} {slot : Nat} {c : Cmd} {e : EndWith} (hf : findCmd s slot = some c) (hgo : Uncut c)
    (he : e.cls = 2) (hop : 0x0410 ≤ Pkt.opcode c.packet ∧ Pkt.opcode c.packet ≤ 0x0413)
    (hl : ∀ d ∈ queueCmds s c.queue, d.ord ≤ c.ord) :
    endCmd s slot e = modQueue (chargeNow { s with cmds := endedCmds s slot e } (Pkt.ctx c.packet) (Pkt.gen c.packet) e.reason)
      c.queue (failedQueue c e.reason) := by
  unfold endCmd
  rw [hf]
  dsimp only
  rw [setEnded_eq e hf hgo, if_pos (.inl he), chargeEnd, if_pos (.inr ⟨hop.1, hop.2, Nat.le_of_eq he.symm⟩), failQueue_last]
  rw [chargeNow_frame]
  exact endedCmds_last (s := s) hl

theorem collBegin_unmapped (h : IsBegun s slot op c) (hg : g = c.queue - 15360) (hx : x = getGroup s g) (hrun : x.run = none)
    (hq : ∀ d ∈ queueCmds s c.queue, d.ord < c.ord → d.phase = 2) (ha : activeMap s (grpCtx x) = none) :
    collBegin s slot op = refuseCmd s slot 0x67 := by
  unfold collBegin
  rw [h.1]
  refine Eq.trans (if_neg (by rw [← hg, ← hx]; exact not_collWaits hrun hq)) ?_
  rw [← hg, ← hx, ha]

/-- The four collective commands begin by one function. -/
theorem runs_collective {cmd : Instr} {P : State → Prop}
    (hcmd : op = 0x0410 ∧ cmd = .allReduce slot ∨ op = 0x0411 ∧ cmd = .reduceScatter slot ∨ op = 0x0412 ∧ cmd = .allGather slot ∨
      op = 0x0413 ∧ cmd = .broadcast slot) (hP : P (collBegin s slot op)) : Runs cmd s P := by
  obtain ⟨rfl, rfl⟩ | ⟨rfl, rfl⟩ | ⟨rfl, rfl⟩ | ⟨rfl, rfl⟩ := hcmd <;> exact ⟨_, rfl, hP⟩

end

/-- Settles O25: an active map gives the collective its members, by the group's entry; without one it is refused. -/
theorem Claims.collectivesBegin : Obligations.CollectivesBegin := by
  unfold Obligations.CollectivesBegin
  intro s slot c op cmd g x hcmd h hg hx hrun hq
  refine ⟨fun mapN m r ha hm hchip hr hchunk href hbell hgr => ?_, fun ha hl => ?_⟩
  · have hrr : r = collRunOf s slot op c x m := hr
    subst hrr
    exact runs_collective (P := fun t => ∃ s1, t = pumpAll s1 g ∧ _) hcmd (collBegin_runs h.1 hg hx hrun hq ha hm hchip hchunk href hbell hgr)
  · refine runs_collective hcmd ?_
    have hop : 0x0410 ≤ Pkt.opcode c.packet ∧ Pkt.opcode c.packet ≤ 0x0413 := by
      have := h.opcode
      obtain ⟨ho, _⟩ | ⟨ho, _⟩ | ⟨ho, _⟩ | ⟨ho, _⟩ := hcmd <;> omega
    rw [collBegin_unmapped h hg hx hrun hq ha, refuseCmd, endCmd_collRefused h.find h.uncut rfl hop hl]
    obtain ⟨hfr, -⟩ := modQueue_only (chargeNow { s with cmds := endedCmds s slot { cls := 2, reason := 0x67 } } (Pkt.ctx c.packet)
      (Pkt.gen c.packet) 0x67) c.queue (failedQueue c 0x67)
    refine ⟨by rw [hfr, chargeNow_frame], fun hn => ?_⟩
    rw [hfr, chargeNow_untrained (s := { s with cmds := endedCmds s slot { cls := 2, reason := 0x67 } }) hn]
    exact ⟨rfl, rfl⟩

end Sys2Proof.Machine
end

section
/-! # Sequenced frames (11/R369-R373)

`received` is the state in which the effect of a sequenced frame in order begins, and `completeFrame_only` says what its
completion leaves as it was. -/

namespace Sys2Proof.Machine

theorem firstOf_typ {typ : Nat} {fs : List Frame} : ∀ {i : Nat} {es : List Frame} {k : Nat} {f : Frame},
    firstOf typ i es fs = some (k, f) → f.typ = typ := by
  induction fs with
  | nil => exact fun h => nomatch h
  | cons a fs ih =>
    intro i es k f h
    unfold firstOf at h
    split at h
    · rename_i ha
      cases h
      simp only [Bool.and_eq_true, decide_eq_true_eq] at ha
      exact ha.1
    · exact ih h

theorem NextFrame.typ {s : State} {p typ k : Nat} {f : Frame} (h : NextFrame s p typ k f) : f.typ = typ := firstOf_typ h

/-! ## The session's entry stays the peer's -/

theorem find?_tput_key {α : Type} {P : α → Bool} {t : Tab α} {n : Nat} {d x y : α}
    (h : (t.find? (fun e => P e.2)).map (·.1) = some n) (hx : tget d t n = x) (hp : P y = P x) :
    ((tput t n y).find? (fun e => P e.2)).map (·.1) = some n := by
  induction t with
  | nil => cases h
  | cons a t ih =>
    obtain ⟨k, v⟩ := a
    unfold tput
    unfold tget at hx
    by_cases hk : n = k
    · subst hk
      rw [if_pos rfl] at hx ⊢
      subst hx
      rw [List.find?_cons] at h ⊢
      rw [hp]
      cases hv : P v with
      | true => rfl
      | false =>
        rw [hv] at h
        exact h
    · rw [if_neg hk] at hx ⊢
      by_cases hl : n < k
      · rw [if_pos hl, List.find?_cons]
        cases P y with
        | true => rfl
        | false => exact h
      · rw [if_neg hl, List.find?_cons]
        rw [List.find?_cons] at h
        cases hv : P v with
        | true =>
          rw [hv] at h
          exact absurd (Option.some.inj h).symm hk
        | false =>
          rw [hv] at h
          exact ih h hx

theorem sessionOf_modSession {s : State} {peer n : Nat} {x : Session} {g : Session → Session} (hn : sessionOf s peer = some n)
    (hx : getSession s n = some x) (hg : (g x).peer = x.peer) : sessionOf (modSession s n g) peer = some n := by
  have hset : (modSession s n g).fab.sessions = tput s.fab.sessions n (some (g x)) := by
    show tset none s.fab.sessions n ((getSession s n).map g) = _
    rw [hx, Option.map_some, tset, if_neg (Option.some_ne_none _)]
  unfold sessionOf
  rw [hset]
  exact find?_tput_key (P := fun o : Option Session => match o with | some x => x.peer == peer | none => false) hn hx (by simp only [hg])

/-! ## Completion -/

theorem chanOf_modChanOf_expect (x : Session) (c d : Nat) {g : SChan → SChan} (hg : ∀ y, (g y).expect = y.expect) :
    (chanOf (modChanOf x c g) d).expect = (chanOf x d).expect := by
  rw [chanOf, modChanOf, getD_lset]
  split
  · rename_i h
    rw [hg, ← h.1]
  · rfl

theorem getSession_modSession_expect {s : State} {n m ch : Nat} {y : Session} {g : Session → Session} (hy : getSession s m = some y)
    (hg : ∀ x, (chanOf (g x) ch).expect = (chanOf x ch).expect) :
    ∃ z, getSession (modSession s n g) m = some z ∧ (chanOf z ch).expect = (chanOf y ch).expect := by
  rw [modSession, getSession_setSession]
  split
  · rename_i h
    subst h
    exact ⟨g y, by rw [hy]; rfl, hg y⟩
  · exact ⟨y, hy, rfl⟩

/-- `t` is `s` but for entries of the sessions, whose expected numbers stand, and frames that were added to those that wait. -/
structure Completed (s t : State) : Prop where
  only : t = { s with fab := { s.fab with sessions := t.fab.sessions, sendq := t.fab.sendq } }
  sendq : ∀ i ∈ s.fab.sendq, i ∈ t.fab.sendq
  expect : ∀ n ch y, getSession s n = some y → ∃ z, getSession t n = some z ∧ (chanOf z ch).expect = (chanOf y ch).expect

theorem Completed.refl (s : State) : Completed s s := ⟨rfl, fun _ h => h, fun _ _ y h => ⟨y, h, rfl⟩⟩

theorem Completed.trans {s t u : State} (h : Completed s t) (g : Completed t u) : Completed s u := by
  refine ⟨?_, fun i hi => g.sendq i (h.sendq i hi), fun n ch y hy => ?_⟩
  · have := g.only
    rw [h.only] at this
    exact this
  · obtain ⟨z, hz, he⟩ := h.expect n ch y hy
    obtain ⟨w, hw, hf⟩ := g.expect n ch z hz
    exact ⟨w, hw, hf.trans he⟩

theorem modChanOf_completed (s : State) (n c : Nat) {g : SChan → SChan} (hg : ∀ y, (g y).expect = y.expect) :
    Completed s (modSession s n (fun x => modChanOf x c g)) :=
  ⟨modSession_frame .., fun _ h => h, fun _ _ _ hy => getSession_modSession_expect hy fun x => chanOf_modChanOf_expect x _ _ hg⟩

theorem enqueue_completed (s : State) (i : Item) : Completed s (enqueue s i) :=
  ⟨rfl, fun _ h => List.mem_append_left _ h, fun _ _ y h => ⟨y, h, rfl⟩⟩

theorem sendAck_completed (s : State) (peer ch : Nat) : Completed s (sendAck s peer ch) := by
  unfold sendAck
  split
  · exact .refl s
  · split
    · exact .refl s
    · exact (modChanOf_completed s _ ch (g := fun c => { c with doneSince := 0 }) fun _ => rfl).trans (enqueue_completed ..)

theorem completeFrame_completed (s : State) (f : Frame) : Completed s (completeFrame s f) := by
  unfold completeFrame
  split
  · exact .refl s
  · rename_i n _
    split
    · exact .refl s
    · rename_i x _
      dsimp only
      refine (modChanOf_completed s n f.ch (g := fun c => { c with doneSince := (chanOf x f.ch).doneSince + 1 }) fun _ => rfl).trans ?_
      split
      · exact sendAck_completed ..
      · exact .refl _

/-! ## Acceptance -/

/-- The receive half after a frame in order. -/
def nextExpected (time : Nat) (f : Frame) (x : Session) : Session :=
  { modChanOf x f.ch (fun c => { c with expect := (f.seq + frameSpan f) % 2 ^ 32 }) with lastUse := time }

/-- The state in which the effect of frame `k` of port `p`, in order in session entry `n`, begins. -/
def received (s : State) (p k : Nat) (f : Frame) (n : Nat) : State :=
  countAccepted (modSession (taken s p k f) n (nextExpected s.time.toNat f)) f

section
variable {s : State} {p typ k n : Nat} {f : Frame} {x : Session}

theorem acceptFrame_eq (ho : InOrder s f n x) :
    acceptFrame (taken s p k f) f = (modSession (taken s p k f) n (nextExpected s.time.toNat f), true) := by
  obtain ⟨hn, hx, hsid, hseq, -⟩ := ho
  have h0 : (2 ^ 32 + f.seq - f.seq) % 2 ^ 32 = 0 := by rw [Nat.add_sub_cancel, Nat.mod_self]
  unfold acceptFrame
  rw [sessionOf_taken, hn]
  dsimp -zeta only
  rw [getSession_taken, hx]
  dsimp -zeta only
  rw [if_neg (Classical.not_not.mpr hsid), hseq]
  dsimp only
  rw [if_pos h0]
  rfl

theorem recvSeq_eq (ho : InOrder s f n x) (h : NextFrame s p typ k f) (eff : State → Frame → State) :
    recvSeq s p typ eff = completeFrame (eff (received s p k f n) f) f := by
  unfold recvSeq
  rw [takeFrame_eq h]
  dsimp only
  rw [acceptFrame_eq ho]
  rfl

/-! ## What the effect finds -/

theorem countAccepted_frame (s : State) (f : Frame) : countAccepted s f = { s with ctxs := (countAccepted s f).ctxs } := by
  unfold countAccepted
  split <;> rfl

theorem countAccepted_idle (h : (getCtx s f.dctx).state ≠ 2 ∨ (getCtx s f.dctx).gen ≠ f.dgen) : countAccepted s f = s :=
  if_neg fun hc => h.elim (absurd hc.1) (absurd hc.2)

theorem received_frame : received s p k f n =
    { s with fab := { s.fab with ports := (taken s p k f).fab.ports, sessions := (received s p k f n).fab.sessions }
             out := (taken s p k f).out, ctxs := (received s p k f n).ctxs } := by
  unfold received
  rw [countAccepted_frame, modSession_frame]
  rfl

theorem received_idle (h : (getCtx s f.dctx).state ≠ 2 ∨ (getCtx s f.dctx).gen ≠ f.dgen) : (received s p k f n).ctxs = s.ctxs := by
  unfold received
  rw [countAccepted_idle (s := modSession (taken s p k f) n (nextExpected s.time.toNat f)) h]
  rfl

theorem getCtx_received (c : Nat) : ∃ a, getCtx (received s p k f n) c = { getCtx s c with accepted := a } := by
  unfold received countAccepted
  split
  · rw [getCtx_modCtx]
    split
    · rename_i hc
      exact ⟨(getCtx s f.dctx).accepted + 1, by rw [hc]; rfl⟩
    · exact ⟨(getCtx s c).accepted, rfl⟩
  · exact ⟨(getCtx s c).accepted, rfl⟩

theorem sessions_received : (received s p k f n).fab.sessions = (modSession s n (nextExpected s.time.toNat f)).fab.sessions := by
  unfold received
  rw [countAccepted_frame]
  rfl

theorem getSession_received (hx : getSession s n = some x) : getSession (received s p k f n) n = some (nextExpected s.time.toNat f x) := by
  unfold getSession
  rw [sessions_received]
  exact getSession_modSession hx _

theorem sessionOf_received (ho : InOrder s f n x) : sessionOf (received s p k f n) f.src = some n := by
  unfold sessionOf
  rw [sessions_received]
  exact sessionOf_modSession ho.entry ho.session rfl

/-- An effect that keeps ports, sessions and what was put out: the frame is taken and the next number is expected. -/
theorem received_done (ho : InOrder s f n x) {v : State} (hp : v.fab.ports = (received s p k f n).fab.ports)
    (hs : v.fab.sessions = (received s p k f n).fab.sessions) (hout : v.out = (received s p k f n).out) :
    Took s (completeFrame v f) p k f ∧ Expects (completeFrame v f) n f := by
  have hc := completeFrame_completed v f
  refine ⟨took_of_kept ?_ ?_, ?_⟩
  · rw [hc.only]
    show v.fab.ports = _
    rw [hp, received_frame]
  · rw [hc.only]
    show v.out = _
    rw [hout, received_frame]
  · have hv : getSession v n = some (nextExpected s.time.toNat f x) := by
      rw [← getSession_received (p := p) (k := k) (f := f) ho.session]
      unfold getSession
      rw [hs]
    obtain ⟨z, hz, he⟩ := hc.expect n f.ch _ hv
    refine ⟨z, hz, he.trans ?_⟩
    have hch : (chanOf (modChanOf x f.ch (fun c => { c with expect := (f.seq + frameSpan f) % 2 ^ 32 })) f.ch).expect =
        (f.seq + frameSpan f) % 2 ^ 32 := by
      rw [chanOf_modChanOf (by rw [ho.chans.2]; exact ho.chans.1)]
    exact hch

end

/-! ## Replies to a peer whose session stands -/

theorem useSession_stands {s : State} {peer n : Nat} {x : Session} (hn : sessionOf s peer = some n) (hx : getSession s n = some x)
    (hs : x.state = 1 ∨ x.state = 2) : useSession s peer = (s, some n) := by
  unfold useSession
  rw [hn]
  dsimp only
  rw [hx]
  dsimp only
  rw [if_pos hs]

theorem sendReply_stands {s : State} {f : Frame} {n : Nat} {x : Session} (hn : sessionOf s f.dst = some n) (hx : getSession s n = some x)
    (hs : x.state = 1 ∨ x.state = 2) : sendReply s f = enqueue s { frame := { f with src := ownChip s } } := by
  unfold sendReply
  rw [useSession_stands hn hx hs]

end Sys2Proof.Machine
end

section
/-! # Duplicates, ERROR, REVOKE and BIND frames (11/R372-R379, 10/R341) -/

namespace Sys2Proof.Machine

/-! ## Duplicates -/

section
variable {s : State} {p typ k n : Nat} {f : Frame} {x : Session}

/-- The ACK of the number expected on a frame's channel. -/
def ackOf (s : State) (f : Frame) (x : Session) : Item :=
  { frame := { typ := 0x10, dst := f.src, src := ownChip s, sid := x.rxSid.getD 0, ch := f.ch, seq := (chanOf x f.ch).expect } }

theorem sendAck_eq (hn : sessionOf s f.src = some n) (hx : getSession s n = some x) :
    sendAck s f.src f.ch = enqueue (modSession s n (fun x => modChanOf x f.ch (fun c => { c with doneSince := 0 }))) (ackOf s f x) := by
  unfold sendAck
  rw [hn]
  dsimp only
  rw [hx]
  rfl

theorem recvSeq_duplicate (h : NextFrame s p typ k f) (hn : sessionOf s f.src = some n) (hx : getSession s n = some x)
    (hsid : x.rxSid = some f.sid) (h0 : (2 ^ 32 + (chanOf x f.ch).expect - f.seq) % 2 ^ 32 ≠ 0)
    (hd : (2 ^ 32 + (chanOf x f.ch).expect - f.seq) % 2 ^ 32 ≤ 2 ^ 31) (eff : State → Frame → State) :
    recvSeq s p typ eff = sendAck (taken s p k f) f.src f.ch := by
  unfold recvSeq
  rw [takeFrame_eq h]
  dsimp only
  have ha : acceptFrame (taken s p k f) f = (sendAck (taken s p k f) f.src f.ch, false) := by
    unfold acceptFrame
    rw [sessionOf_taken, hn]
    dsimp -zeta only
    rw [getSession_taken, hx]
    dsimp -zeta only
    rw [if_neg (Classical.not_not.mpr hsid)]
    extract_lets +onlyGivenNames e d
    rw [if_neg h0, if_pos hd]
  rw [ha]

theorem duplicate_acknowledged (h : NextFrame s p typ k f) (hn : sessionOf s f.src = some n) (hx : getSession s n = some x)
    (hsid : x.rxSid = some f.sid) (h0 : (2 ^ 32 + (chanOf x f.ch).expect - f.seq) % 2 ^ 32 ≠ 0)
    (hd : (2 ^ 32 + (chanOf x f.ch).expect - f.seq) % 2 ^ 32 ≤ 2 ^ 31) (eff : State → Frame → State) :
    ∃ t, recvSeq s p typ eff = t ∧ t = { s with fab := t.fab, out := t.out } ∧ Took s t p k f ∧ t.fab.ops = s.fab.ops ∧
      t.fab.binds = s.fab.binds ∧ t.fab.peers = s.fab.peers ∧
      ∃ i, t.fab.sendq = s.fab.sendq ++ [i] ∧ i.frame.typ = 0x10 ∧ i.frame.dst = f.src ∧ i.frame.ch = f.ch ∧
        i.frame.seq = (chanOf x f.ch).expect := by
  rw [recvSeq_duplicate h hn hx hsid h0 hd, sendAck_eq (s := taken s p k f) hn hx]
  exact ⟨_, rfl, rfl, took_of_kept rfl rfl, rfl, rfl, rfl, _, rfl, rfl, rfl, rfl, rfl⟩

end

/-! ## A failed transfer of a core -/

/-- `t` is `s` but for its events, steps, memories, ledger, cores, launches and queues. -/
def Stopped (s t : State) : Prop :=
  t = { s with mem := t.mem, stepSt := t.stepSt, events := t.events, ledger := t.ledger, cores := t.cores, launches := t.launches
               queues := t.queues }

theorem Stopped.trans {s t u : State} (h : Stopped s t) (g : Stopped t u) : Stopped s u := by
  unfold Stopped at *
  rw [h] at g
  exact g

theorem Reported.stopped {s t : State} (h : Reported s t) : Stopped s t := by
  unfold Reported at h
  unfold Stopped
  rw [h]

theorem Raised.stopped {s t : State} (h : Raised s t) : Stopped s t := h.reported.stopped

theorem raiseFault_raised (s : State) (reason : Nat) (cg : CtxGen) (core st idx : Nat) : Raised s (raiseFault s reason cg core st idx) := by
  unfold raiseFault
  split
  · exact raiseCore_raised ..
  · split
    · exact raiseCrate_raised ..
    · exact raiseUnit_raised ..

/-- The move fault of a core. -/
def moveFaultOf (idx reason : Nat) : FaultReg := { valid := true, station := 4, index := idx, reason }

/-- A core that a transfer's failure stops. -/
def moveFaulted (idx reason : Nat) (c : Core) : Core := { c with run := 3, moveFault := moveFaultOf idx reason }

/-- A launch with its first fault. -/
def firstFaulted (core st idx : Nat) (x : Launch) : Launch :=
  { x with first := match x.first with | some y => some y | none => some (core, st, idx) }

theorem failLaunch_eq {s : State} {core l : Nat} (h : (getCore s core).launch = some l) (st idx reason : Nat) :
    failLaunch s core st idx reason = stopLaunch (modLaunch s l (firstFaulted core st idx)) l 3 reason := by
  unfold failLaunch
  rw [h]
  rfl

theorem failLaunch_stopped (s : State) (core st idx reason : Nat) : Stopped s (failLaunch s core st idx reason) := by
  cases h : (getCore s core).launch with
  | none =>
    unfold failLaunch
    rw [h]
    rfl
  | some l =>
    rw [failLaunch_eq h]
    obtain ⟨hfr, -⟩ := stopLaunch_only (modLaunch s l (firstFaulted core st idx)) l 3 reason
    generalize stopLaunch (modLaunch s l (firstFaulted core st idx)) l 3 reason = t at *
    unfold Stopped
    rw [hfr]
    rfl

theorem stoppedBy_faulted {x : Core} (h : x.run = 3) (l : Nat) : (stoppedBy l x).run = 3 ∧ (stoppedBy l x).moveFault = x.moveFault := by
  unfold stoppedBy
  split
  · exact ⟨if_pos h, rfl⟩
  · exact ⟨h, rfl⟩

/-- A stop leaves a core that has faulted as it is, but for its stations. -/
theorem failLaunch_faulted {s : State} {core : Nat} (h : (getCore s core).run = 3) (st idx reason : Nat) :
    (getCore (failLaunch s core st idx reason) core).run = 3 ∧
      (getCore (failLaunch s core st idx reason) core).moveFault = (getCore s core).moveFault := by
  cases hl : (getCore s core).launch with
  | none =>
    unfold failLaunch
    rw [hl]
    exact ⟨h, rfl⟩
  | some l =>
    rw [failLaunch_eq hl]
    obtain ⟨-, -, hc⟩ := stopLaunch_only (modLaunch s l (firstFaulted core st idx)) l 3 reason
    rw [hc]
    split
    · exact stoppedBy_faulted h l
    · exact ⟨h, rfl⟩

theorem fabricFault_stops (s : State) (core idx reason : Nat) :
    Stopped s (fabricFault s core idx reason) ∧ (getCore (fabricFault s core idx reason) core).run = 3 ∧
      (getCore (fabricFault s core idx reason) core).moveFault = moveFaultOf idx reason := by
  have heq : fabricFault s core idx reason = raiseFault (failLaunch (modCore s core (moveFaulted idx reason)) core 4 idx reason) reason
      (coreCtx s core) core 4 idx := rfl
  rw [heq]
  have hcore : getCore (modCore s core (moveFaulted idx reason)) core = moveFaulted idx reason (getCore s core) := getCore_modCore_same ..
  have hmod : Stopped s (modCore s core (moveFaulted idx reason)) := rfl
  generalize modCore s core (moveFaulted idx reason) = u at *
  have hf := failLaunch_stopped u core 4 idx reason
  obtain ⟨hrun, hmf⟩ := failLaunch_faulted (s := u) (core := core) (by rw [hcore]; rfl) 4 idx reason
  generalize failLaunch u core 4 idx reason = v at *
  have hr := raiseFault_raised v reason (coreCtx s core) core 4 idx
  generalize raiseFault v reason (coreCtx s core) core 4 idx = w at *
  rw [hr.reported.getCore, hrun, hmf, hcore]
  exact ⟨(hmod.trans hf).trans hr.stopped, rfl, rfl⟩

section
variable {s : State} {id core x : Nat} {o : Op}

theorem poisonAll_stopped (l : List Nat) (s : State) :
    Stopped s (l.foldl (fun s c => setMem s (setTag s.mem c (Tag.poison (crateTag s.mem c)))) s) ∧
      (l.foldl (fun s c => setMem s (setTag s.mem c (Tag.poison (crateTag s.mem c)))) s).queues = s.queues := by
  induction l generalizing s with
  | nil => exact ⟨rfl, rfl⟩
  | cons c l ih =>
    obtain ⟨h, hq⟩ := ih (setMem s (setTag s.mem c (Tag.poison (crateTag s.mem c))))
    exact ⟨Stopped.trans (t := setMem s (setTag s.mem c (Tag.poison (crateTag s.mem c)))) rfl h, hq⟩

/-- A transfer of a core fails: it is gone; a running launch stops, another's queue holds the failure. -/
theorem failOp_porter (ho : getOp s id = some o) (hp : o.owner = .porter core x) (reason far ftype crate : Nat) :
    Stopped (dropOp s id) (failOp s id reason far ftype crate) ∧
      (launchRuns s core o.launch = true → (getCore (failOp s id reason far ftype crate) core).run = 3 ∧
        (getCore (failOp s id reason far ftype crate) core).moveFault = moveFaultOf o.index reason) ∧
      (launchRuns s core o.launch = false →
        (getQueue (failOp s id reason far ftype crate) o.queue).fails = (getQueue s o.queue).fails ++ [reason]) := by
  have hrun : launchRuns (dropOp s id) core o.launch = launchRuns s core o.launch := rfl
  have hqueue : getQueue (dropOp s id) o.queue = getQueue s o.queue := rfl
  unfold failOp
  rw [ho]
  dsimp -zeta only
  generalize dropOp s id = u at *
  extract_lets +onlyGivenNames u'
  have hu : u' = u := rfl
  rw [hu]
  clear_value u'
  clear hu u'
  rw [hp]
  dsimp -zeta only
  extract_lets +onlyGivenNames run s1 s2 s3 s4
  have h1 : Raised u s1 := raiseEvent_raised ..
  have h2 : Raised s1 s2 := by
    have : Raised s1 (chargeStep s1 o.step reason) := by
      unfold Raised
      rw [chargeStep_frame]
    show Raised s1 (if _ then _ else _)
    split
    · exact this
    · exact .refl s1
  have h3 : Stopped s2 s3 := (poisonAll_stopped o.written s2).1
  have hq3 : s3.queues = s2.queues := (poisonAll_stopped o.written s2).2
  have h4 : Stopped s3 s4 := rfl
  have hq4 : s4.queues = s3.queues := rfl
  have hu4 : Stopped u s4 := ((h1.stopped.trans h2.stopped).trans h3).trans h4
  have hruns : run = launchRuns s core o.launch := hrun
  clear_value s4 s3 s2 s1 run
  subst hruns
  cases hr : launchRuns s core o.launch with
  | true =>
    rw [if_pos rfl]
    obtain ⟨hst, h3, hm⟩ := fabricFault_stops s4 core o.index reason
    exact ⟨hu4.trans hst, fun _ => ⟨h3, hm⟩, fun h => (nomatch h)⟩
  | false =>
    rw [if_neg (by decide)]
    refine ⟨hu4.trans rfl, fun h => (nomatch h), fun _ => ?_⟩
    have hk : getQueue s4 o.queue = getQueue s o.queue := by
      rw [← hqueue]
      unfold getQueue
      rw [hq4, hq3, h2.reported.queues, h1.reported.queues]
    rw [getQueue_modQueue, if_pos rfl, hk]

end

/-! ## ERROR -/

section
variable {s : State} {p k n : Nat} {f : Frame} {x : Session}

theorem errorEffect_porter {s : State} {f : Frame} {o : Op} {core id : Nat} (h0B : f.aux / 2 ^ 16 % 2 ^ 8 ≠ 0x0B)
    (h06 : f.aux / 2 ^ 16 % 2 ^ 8 ≠ 0x06) (h04 : f.aux / 2 ^ 16 % 2 ^ 8 ≠ 0x04) (ho : getOp s f.opid = some o) (hc : o.chip = f.src)
    (hp : o.owner = .porter core id) (h27 : f.aux / 2 ^ 8 % 2 ^ 8 ≠ 0x27) (h28 : f.aux / 2 ^ 8 % 2 ^ 8 ≠ 0x28) :
    errorEffect s f = failOp s f.opid (f.aux % 2 ^ 8) (f.aux / 2 ^ 8 % 2 ^ 8) (f.aux / 2 ^ 16 % 2 ^ 8) (f.addr / 4096) := by
  unfold errorEffect
  extract_lets +onlyGivenNames reason far typ
  rw [if_neg h0B, if_neg h06, ho]
  dsimp -zeta only
  rw [if_neg (fun h => h.elim (absurd hc) h04), if_neg (fun h => h.elim h27 h28)]
  extract_lets +onlyGivenNames s'
  rw [hp]

theorem launchRuns_received (core load : Nat) : launchRuns (received s p k f n) core load = launchRuns s core load := by
  rw [received_frame]
  rfl

theorem error_fails {o : Op} {core id : Nat} (ho : InOrder s f n x) (h : NextFrame s p 0x08 k f) (h0B : f.aux / 2 ^ 16 % 2 ^ 8 ≠ 0x0B)
    (h06 : f.aux / 2 ^ 16 % 2 ^ 8 ≠ 0x06) (h04 : f.aux / 2 ^ 16 % 2 ^ 8 ≠ 0x04) (hop : getOp s f.opid = some o) (hc : o.chip = f.src)
    (hp : o.owner = .porter core id) (h27 : f.aux / 2 ^ 8 % 2 ^ 8 ≠ 0x27) (h28 : f.aux / 2 ^ 8 % 2 ^ 8 ≠ 0x28) :
    Runs (.error p) s (fun t => Took s t p k f ∧ Expects t n f ∧ getOp t f.opid = none ∧
      (launchRuns s core o.launch = true → (getCore t core).run = 3 ∧
        (getCore t core).moveFault = { valid := true, station := 4, index := o.index, reason := f.aux % 2 ^ 8 }) ∧
      (launchRuns s core o.launch = false → (getQueue t o.queue).fails = (getQueue s o.queue).fails ++ [f.aux % 2 ^ 8])) := by
  have hopu : getOp (received s p k f n) f.opid = some o := by
    rw [received_frame]
    exact hop
  have hqu : getQueue (received s p k f n) o.queue = getQueue s o.queue := by
    rw [received_frame]
    rfl
  refine runs_eq rfl ((recvSeq_eq ho h errorEffect).trans (by rw [errorEffect_porter h0B h06 h04 hopu hc hp h27 h28])) ?_
  have hdone (v : State) := received_done (p := p) (k := k) (v := v) ho
  have hrs := launchRuns_received (s := s) (p := p) (k := k) (f := f) (n := n) core o.launch
  generalize received s p k f n = u at *
  obtain ⟨hst, hrun, hidle⟩ := failOp_porter hopu hp (f.aux % 2 ^ 8) (f.aux / 2 ^ 8 % 2 ^ 8) (f.aux / 2 ^ 16 % 2 ^ 8) (f.addr / 4096)
  rw [hrs] at hrun hidle
  have hops : getOp (dropOp u f.opid) f.opid = none := (getOp_setOp u f.opid none f.opid).trans (if_pos rfl)
  have hports : (dropOp u f.opid).fab.ports = u.fab.ports := rfl
  have hsess : (dropOp u f.opid).fab.sessions = u.fab.sessions := rfl
  have hout : (dropOp u f.opid).out = u.out := rfl
  generalize failOp u f.opid (f.aux % 2 ^ 8) (f.aux / 2 ^ 8 % 2 ^ 8) (f.aux / 2 ^ 16 % 2 ^ 8) (f.addr / 4096) = v at *
  generalize dropOp u f.opid = w at *
  have hfab : v.fab = w.fab := by rw [hst]
  obtain ⟨htook, hexp⟩ := hdone v (by rw [hfab, hports]) (by rw [hfab, hsess]) (by rw [hst, ← hout])
  have hc := (completeFrame_completed v f).only
  generalize completeFrame v f = t at *
  refine ⟨htook, hexp, ?_, fun hr => ?_, fun hr => ?_⟩
  · rw [hc, ← hops]
    unfold getOp
    rw [← hfab]
  · rw [hc]
    exact hrun hr
  · rw [hc]
    exact (hidle hr).trans (by rw [hqu])

/-! ## REVOKE and REVOKE_ACK -/

/-- The fabric without the peer that a REVOKE names. -/
def forgetPeer (f : Frame) (x : Fab) : Fab :=
  { x with peers := x.peers.filter (fun p => !(p.chip == f.src && p.pctx == f.aux % 2 ^ 8 && p.pgen == f.aux / 2 ^ 16 % 2 ^ 16)) }

/-- The acknowledgement of a REVOKE. -/
def revokeAckOf (s : State) (f : Frame) : Item :=
  { frame := { typ := 0x0A, last := true, dst := f.src, src := ownChip s, ch := f.ch, opid := f.opid, aux := f.aux } }

theorem revokeEffect_unbound {s : State} {f : Frame} {n : Nat} {x : Session} (hn : sessionOf s f.src = some n) (hx : getSession s n = some x)
    (hs : x.state = 1 ∨ x.state = 2)
    (hb : s.fab.binds.filter (fun b => b.chip == f.src && b.state == 1 && b.dctx == f.aux % 2 ^ 8 && b.dgen == f.aux / 2 ^ 16 % 2 ^ 16) = []) :
    revokeEffect s f = enqueue (modFab s (forgetPeer f)) (revokeAckOf s f) := by
  unfold revokeEffect
  extract_lets +onlyGivenNames pctx pgen bs
  have hbs : bs = [] := hb
  rw [hbs]
  exact sendReply_stands (s := modFab s (forgetPeer f)) hn hx hs

theorem revoke_forgets (ho : InOrder s f n x) (h : NextFrame s p 0x09 k f) (hs : x.state = 1 ∨ x.state = 2)
    (hb : s.fab.binds.filter (fun b => b.chip == f.src && b.state == 1 && b.dctx == f.aux % 2 ^ 8 && b.dgen == f.aux / 2 ^ 16 % 2 ^ 16) = []) :
    Runs (.revoke p) s (fun t => t = { s with fab := t.fab, out := t.out, ctxs := t.ctxs } ∧ Took s t p k f ∧ Expects t n f ∧
      t.fab.peers = s.fab.peers.filter (fun q => !(q.chip == f.src && q.pctx == f.aux % 2 ^ 8 && q.pgen == f.aux / 2 ^ 16 % 2 ^ 16)) ∧
      ∃ i ∈ t.fab.sendq, i.frame.typ = 0x0A ∧ i.frame.dst = f.src ∧ i.frame.opid = f.opid ∧ i.frame.aux = f.aux) := by
  have hfr := received_frame (s := s) (p := p) (k := k) (f := f) (n := n)
  have hbu : (received s p k f n).fab.binds = s.fab.binds := by rw [hfr]
  refine runs_eq rfl ((recvSeq_eq ho h revokeEffect).trans
    (by rw [revokeEffect_unbound (sessionOf_received ho) (getSession_received ho.session) hs (by rw [hbu]; exact hb)])) ?_
  have hdone (v : State) := received_done (p := p) (k := k) (v := v) ho
  generalize received s p k f n = u at *
  obtain ⟨htook, hexp⟩ := hdone (enqueue (modFab u (forgetPeer f)) (revokeAckOf u f)) rfl rfl rfl
  have hc := completeFrame_completed (enqueue (modFab u (forgetPeer f)) (revokeAckOf u f)) f
  generalize completeFrame (enqueue (modFab u (forgetPeer f)) (revokeAckOf u f)) f = t at *
  refine ⟨?_, htook, hexp, ?_, _, hc.sendq _ (List.mem_append_right _ (List.mem_singleton_self _)), rfl, rfl, rfl, rfl⟩
  · rw [hc.only, hfr]
    rfl
  · rw [hc.only, hfr]
    rfl

theorem find?_tset_ne {α : Type} [DecidableEq α] {P : Nat × α → Bool} {t : Tab α} {i : Nat} {d y : α} {e : Nat × α}
    (h : t.find? P = some e) (hi : e.1 ≠ i) (hy : P (i, y) = false) : (tset d t i y).find? P = some e := by
  have hdel : (tdel t i).find? P = some e := by
    induction t with
    | nil => cases h
    | cons a t ih =>
      obtain ⟨k, v⟩ := a
      rw [List.find?_cons] at h
      unfold tdel
      cases hv : P (k, v) with
      | true =>
        rw [hv] at h
        cases h
        rw [if_neg (Ne.symm hi), List.find?_cons, hv]
      | false =>
        rw [hv] at h
        split
        · exact ih h
        · rw [List.find?_cons, hv]
          exact ih h
  have hput : (tput t i y).find? P = some e := by
    clear hdel
    induction t with
    | nil => cases h
    | cons a t ih =>
      obtain ⟨k, v⟩ := a
      unfold tput
      split
      · rename_i hk
        subst hk
        rw [List.find?_cons] at h ⊢
        rw [hy]
        cases hv : P (i, v) with
        | true =>
          rw [hv] at h
          cases h
          exact absurd rfl hi
        | false =>
          rw [hv] at h
          exact h
      · split
        · rw [List.find?_cons, hy]
          exact h
        · rw [List.find?_cons] at h ⊢
          cases hv : P (k, v) with
          | true =>
            rw [hv] at h
            exact h
          | false =>
            rw [hv] at h
            exact ih h
  unfold tset
  split
  · exact hdel
  · exact hput

/-- A context that a REVOKE_ACK looks for is not the one whose frame was accepted. -/
theorem find?_received {P : Nat × Ctx → Bool} {m : Nat} {c : Ctx} (h : s.ctxs.find? P = some (m, c)) (hm : getCtx s m = c)
    (h3 : c.state = 3) (hP : ∀ e, e.2.state ≠ 3 → P e = false) : (received s p k f n).ctxs.find? P = some (m, c) := by
  unfold received countAccepted
  split
  · rename_i hs
    have hne : m ≠ f.dctx := by
      rintro rfl
      have h2 : (getCtx s f.dctx).state = 2 := hs.1
      rw [hm, h3] at h2
      exact absurd h2 (by decide)
    refine find?_tset_ne h hne (hP _ ?_)
    have h2 : (getCtx s f.dctx).state = 2 := hs.1
    show (getCtx s f.dctx).state ≠ 3
    rw [h2]
    decide
  · exact h

theorem revokeAck_counts {m : Nat} {c : Ctx} (ho : InOrder s f n x) (h : NextFrame s p 0x0A k f)
    (hc : s.ctxs.find? (fun c => c.2.state == 3 && c.2.peers.contains (f.src, f.opid)) = some (m, c)) (hm : getCtx s m = c) :
    Runs (.revokeAck p) s (fun t => t = { s with fab := t.fab, out := t.out, ctxs := t.ctxs } ∧ Took s t p k f ∧ Expects t n f ∧
      (getCtx t m).peers = c.peers.filter (fun q => q != (f.src, f.opid)) ∧ (getCtx t m).state = 3) := by
  have h3 : c.state = 3 := by
    have := List.find?_some hc
    simp only [Bool.and_eq_true, beq_iff_eq] at this
    exact this.1
  have hcu := find?_received (p := p) (k := k) (f := f) (n := n) hc hm h3 (fun e he => by
    rw [Bool.and_eq_false_iff]
    exact .inl (beq_eq_false_iff_ne.mpr he))
  have hfr := received_frame (s := s) (p := p) (k := k) (f := f) (n := n)
  obtain ⟨a, ha⟩ := getCtx_received (s := s) (p := p) (k := k) (f := f) (n := n) m
  have heff : revokeAckEffect (received s p k f n) f =
      modCtx (received s p k f n) m (fun c => { c with peers := c.peers.filter (fun p => p != (f.src, f.opid)) }) := by
    unfold revokeAckEffect
    rw [hcu]
  refine runs_eq rfl ((recvSeq_eq ho h revokeAckEffect).trans (by rw [heff])) ?_
  have hdone (v : State) := received_done (p := p) (k := k) (v := v) ho
  generalize received s p k f n = u at *
  obtain ⟨htook, hexp⟩ := hdone (modCtx u m (fun c => { c with peers := c.peers.filter (fun p => p != (f.src, f.opid)) })) rfl rfl rfl
  have hget : getCtx (modCtx u m (fun c => { c with peers := c.peers.filter (fun p => p != (f.src, f.opid)) })) m =
      { c with accepted := a, peers := c.peers.filter (fun p => p != (f.src, f.opid)) } := by
    rw [getCtx_modCtx, if_pos rfl, ha, hm]
  have hv : modCtx u m (fun c => { c with peers := c.peers.filter (fun p => p != (f.src, f.opid)) }) =
    { u with ctxs := (modCtx u m (fun c => { c with peers := c.peers.filter (fun p => p != (f.src, f.opid)) })).ctxs } := rfl
  generalize modCtx u m (fun c => { c with peers := c.peers.filter (fun p => p != (f.src, f.opid)) }) = v at *
  have hcf := (completeFrame_completed v f).only
  generalize completeFrame v f = t at *
  have hgt : getCtx t m = getCtx v m := by rw [hcf]; rfl
  refine ⟨?_, htook, hexp, by rw [hgt, hget], by rw [hgt, hget]; exact h3⟩
  rw [hcf, hv, hfr]

/-! ## BIND and BIND_REPLY -/

/-- The fabric with a peer known. -/
def knowPeer (q : Peer) (x : Fab) : Fab := if x.peers.contains q then x else { x with peers := x.peers ++ [q] }

theorem knowPeer_frame (q : Peer) (x : Fab) : knowPeer q x = { x with peers := (knowPeer q x).peers } := by
  unfold knowPeer
  split <;> rfl

theorem mem_knowPeer (q : Peer) (x : Fab) : q ∈ (knowPeer q x).peers := by
  unfold knowPeer
  split
  · rename_i h
    exact List.contains_iff_mem.mp h
  · exact List.mem_append_right _ (List.mem_singleton_self q)

/-- The peer that a BIND makes known. -/
def boundPeer (f : Frame) (m : Nat) (c : Ctx) : Peer :=
  { chip := f.src, pctx := f.index % 2 ^ 8, pgen := f.index / 2 ^ 16 % 2 ^ 16, ctx := m, gen := c.gen }

/-- The answer to a BIND. -/
def bindReplyOf (s : State) (f : Frame) (m : Nat) (c : Ctx) : Item :=
  { frame := { typ := 0x0C, last := true, dst := f.src, src := ownChip s, ch := f.ch, opid := f.opid, aux := m + c.gen * 2 ^ 16
               dctx := f.index % 2 ^ 8, dgen := f.index / 2 ^ 16 % 2 ^ 16 } }

theorem bindEffect_known {s : State} {f : Frame} {n m : Nat} {x : Session} {c : Ctx} (hn : sessionOf s f.src = some n)
    (hx : getSession s n = some x) (hs : x.state = 1 ∨ x.state = 2)
    (hc : s.ctxs.filter (fun c => c.2.state == 2 && c.2.seed.toNat == f.aux && f.aux != 0) = [(m, c)]) :
    bindEffect s f = enqueue (modFab s (knowPeer (boundPeer f m c))) (bindReplyOf s f m c) := by
  have hfab : (modFab s (knowPeer (boundPeer f m c))).fab = knowPeer (boundPeer f m c) s.fab := rfl
  have hn' : sessionOf (modFab s (knowPeer (boundPeer f m c))) f.src = some n := by
    unfold sessionOf
    rw [hfab, knowPeer_frame]
    exact hn
  have hx' : getSession (modFab s (knowPeer (boundPeer f m c))) n = some x := by
    unfold getSession
    rw [hfab, knowPeer_frame]
    exact hx
  have hchip : ownChip (modFab s (knowPeer (boundPeer f m c))) = ownChip s := by
    unfold ownChip
    rw [hfab, knowPeer_frame]
  have hsend := sendReply_stands (s := modFab s (knowPeer (boundPeer f m c))) (f := { (bindReplyOf s f m c).frame with src := 0 }) hn' hx' hs
  rw [hchip] at hsend
  unfold bindEffect
  rw [hc]
  exact hsend

theorem bind_binds {m : Nat} {c : Ctx} (ho : InOrder s f n x) (h : NextFrame s p 0x0B k f) (hs : x.state = 1 ∨ x.state = 2)
    (hc : s.ctxs.filter (fun c => c.2.state == 2 && c.2.seed.toNat == f.aux && f.aux != 0) = [(m, c)])
    (hd : (getCtx s f.dctx).state ≠ 2 ∨ (getCtx s f.dctx).gen ≠ f.dgen) :
    Runs (.bind p) s (fun t => t = { s with fab := t.fab, out := t.out } ∧ Took s t p k f ∧ Expects t n f ∧
      { chip := f.src, pctx := f.index % 2 ^ 8, pgen := f.index / 2 ^ 16 % 2 ^ 16, ctx := m, gen := c.gen } ∈ t.fab.peers ∧
      ∃ i ∈ t.fab.sendq, i.frame.typ = 0x0C ∧ i.frame.dst = f.src ∧ i.frame.opid = f.opid ∧ i.frame.aux = m + c.gen * 2 ^ 16) := by
  have hfr := received_frame (s := s) (p := p) (k := k) (f := f) (n := n)
  have hidle := received_idle (p := p) (k := k) (n := n) hd
  refine runs_eq rfl ((recvSeq_eq ho h bindEffect).trans
    (by rw [bindEffect_known (sessionOf_received ho) (getSession_received ho.session) hs (by rw [hidle]; exact hc)])) ?_
  have hdone (v : State) := received_done (p := p) (k := k) (v := v) ho
  generalize received s p k f n = u at *
  rw [hidle] at hfr
  have hfab : (enqueue (modFab u (knowPeer (boundPeer f m c))) (bindReplyOf u f m c)).fab =
      { u.fab with peers := (knowPeer (boundPeer f m c) u.fab).peers, sendq := u.fab.sendq ++ [bindReplyOf u f m c] } := by
    show { knowPeer (boundPeer f m c) u.fab with sendq := (knowPeer (boundPeer f m c) u.fab).sendq ++ [bindReplyOf u f m c] } = _
    rw [knowPeer_frame]
  have hv : enqueue (modFab u (knowPeer (boundPeer f m c))) (bindReplyOf u f m c) =
      { u with fab := (enqueue (modFab u (knowPeer (boundPeer f m c))) (bindReplyOf u f m c)).fab } := rfl
  have hq : bindReplyOf u f m c ∈ (enqueue (modFab u (knowPeer (boundPeer f m c))) (bindReplyOf u f m c)).fab.sendq :=
    List.mem_append_right _ (List.mem_singleton_self _)
  have hi : (bindReplyOf u f m c).frame.typ = 0x0C ∧ (bindReplyOf u f m c).frame.dst = f.src ∧ (bindReplyOf u f m c).frame.opid = f.opid ∧
    (bindReplyOf u f m c).frame.aux = m + c.gen * 2 ^ 16 := ⟨rfl, rfl, rfl, rfl⟩
  have hp : boundPeer f m c ∈ (enqueue (modFab u (knowPeer (boundPeer f m c))) (bindReplyOf u f m c)).fab.peers := by
    rw [hfab]
    exact mem_knowPeer _ _
  generalize enqueue (modFab u (knowPeer (boundPeer f m c))) (bindReplyOf u f m c) = v at *
  obtain ⟨htook, hexp⟩ := hdone v (by rw [hfab]) (by rw [hfab]) (by rw [hv])
  have hcf := completeFrame_completed v f
  generalize completeFrame v f = t at *
  refine ⟨?_, htook, hexp, ?_, _, hcf.sendq _ hq, hi⟩
  · rw [hcf.only, hv, hfr]
  · rw [hcf.only]
    exact hp

/-- The ERROR that refuses a BIND. -/
def bindErrorOf (s : State) (f : Frame) : Item :=
  { frame := { typ := 0x08, dst := f.src, src := ownChip s, ch := f.ch, last := true, opid := f.opid, addr := f.addr, index := f.index
               aux := 0x63 + 0x20 * 2 ^ 8 + f.typ * 2 ^ 16 } }

theorem bind_refused (ho : InOrder s f n x) (h : NextFrame s p 0x0B k f) (hs : x.state = 1 ∨ x.state = 2)
    (hc : s.ctxs.filter (fun c => c.2.state == 2 && c.2.seed.toNat == f.aux && f.aux != 0) = [])
    (hd : (getCtx s f.dctx).state ≠ 2 ∨ (getCtx s f.dctx).gen ≠ f.dgen) :
    Runs (.bind p) s (fun t => t = { s with fab := t.fab, out := t.out } ∧ Took s t p k f ∧ Expects t n f ∧ t.fab.peers = s.fab.peers ∧
      ∃ i ∈ t.fab.sendq, i.frame.typ = 0x08 ∧ i.frame.dst = f.src ∧ i.frame.opid = f.opid ∧
        i.frame.aux = 0x63 + 0x20 * 2 ^ 8 + 0x0B * 2 ^ 16) := by
  have hfr := received_frame (s := s) (p := p) (k := k) (f := f) (n := n)
  have hidle := received_idle (p := p) (k := k) (n := n) hd
  have heff : bindEffect (received s p k f n) f = enqueue (received s p k f n) (bindErrorOf (received s p k f n) f) := by
    have hsend := sendReply_stands (s := received s p k f n) (f := { (bindErrorOf (received s p k f n) f).frame with src := 0 }) (sessionOf_received ho)
      (getSession_received ho.session) hs
    unfold bindEffect
    rw [hidle, hc]
    exact hsend
  refine runs_eq rfl ((recvSeq_eq ho h bindEffect).trans (by rw [heff])) ?_
  have hdone (v : State) := received_done (p := p) (k := k) (v := v) ho
  clear heff
  generalize received s p k f n = u at *
  rw [hidle] at hfr
  obtain ⟨htook, hexp⟩ := hdone (enqueue u (bindErrorOf u f)) rfl rfl rfl
  have hcf := completeFrame_completed (enqueue u (bindErrorOf u f)) f
  generalize completeFrame (enqueue u (bindErrorOf u f)) f = t at *
  refine ⟨?_, htook, hexp, ?_, _, hcf.sendq _ (List.mem_append_right _ (List.mem_singleton_self _)), rfl, rfl, rfl, ?_⟩
  · rw [hcf.only, hfr]
    rfl
  · rw [hcf.only, hfr]
    rfl
  · show 0x63 + 0x20 * 2 ^ 8 + f.typ * 2 ^ 16 = _
    rw [h.typ]

/-- A frame waits for a binding. -/
def waitsFor (b : Binding) (i : Item) : Bool := i.ctx == some (b.ctx, b.gen) && i.frame.dst == b.chip

/-- A waiting frame with its binding known. -/
def boundItem (f : Frame) (i : Item) : Item :=
  { i with frame := { i.frame with dctx := f.aux % 2 ^ 8, dgen := f.aux / 2 ^ 16 % 2 ^ 16 } }

/-- The fabric after a BIND_REPLY of binding `b`. -/
def boundFab (f : Frame) (b : Binding) (x : Fab) : Fab :=
  { x with bindq := x.bindq.filter (fun i => !waitsFor b i), sendq := x.sendq ++ (x.bindq.filter (waitsFor b)).map (boundItem f)
           binds := x.binds.map (fun y => if y.ctx = b.ctx ∧ y.gen = b.gen ∧ y.chip = b.chip then
             { y with state := 1, dctx := f.aux % 2 ^ 8, dgen := f.aux / 2 ^ 16 % 2 ^ 16 } else y) }

theorem bindReplyEffect_eq {s : State} {f : Frame} {b : Binding}
    (hb : s.fab.binds.find? (fun b => b.opid == f.opid && b.chip == f.src && b.state == 0) = some b) :
    bindReplyEffect s f = modFab s (boundFab f b) := by
  unfold bindReplyEffect
  rw [hb]
  rfl

theorem bindReply_binds {b : Binding} (ho : InOrder s f n x) (h : NextFrame s p 0x0C k f)
    (hb : s.fab.binds.find? (fun b => b.opid == f.opid && b.chip == f.src && b.state == 0) = some b) :
    Runs (.bindReply p) s (fun t => t = { s with fab := t.fab, out := t.out, ctxs := t.ctxs } ∧ Took s t p k f ∧ Expects t n f ∧
      (∀ y ∈ t.fab.binds, y.ctx = b.ctx → y.gen = b.gen → y.chip = b.chip →
        y.state = 1 ∧ y.dctx = f.aux % 2 ^ 8 ∧ y.dgen = f.aux / 2 ^ 16 % 2 ^ 16) ∧
      (∀ i ∈ s.fab.bindq, i.ctx = some (b.ctx, b.gen) → i.frame.dst = b.chip →
        { i with frame := { i.frame with dctx := f.aux % 2 ^ 8, dgen := f.aux / 2 ^ 16 % 2 ^ 16 } } ∈ t.fab.sendq) ∧
      ∀ i ∈ t.fab.bindq, ¬ (i.ctx = some (b.ctx, b.gen) ∧ i.frame.dst = b.chip)) := by
  have hfr := received_frame (s := s) (p := p) (k := k) (f := f) (n := n)
  have hbinds : (received s p k f n).fab.binds = s.fab.binds := by rw [hfr]
  have hbindq : (received s p k f n).fab.bindq = s.fab.bindq := by rw [hfr]
  refine runs_eq rfl ((recvSeq_eq ho h bindReplyEffect).trans (by rw [bindReplyEffect_eq (by rw [hbinds]; exact hb)])) ?_
  have hdone (v : State) := received_done (p := p) (k := k) (v := v) ho
  generalize received s p k f n = u at *
  obtain ⟨htook, hexp⟩ := hdone (modFab u (boundFab f b)) rfl rfl rfl
  have hcf := completeFrame_completed (modFab u (boundFab f b)) f
  generalize completeFrame (modFab u (boundFab f b)) f = t at *
  have hwaits (i : Item) : waitsFor b i = true ↔ i.ctx = some (b.ctx, b.gen) ∧ i.frame.dst = b.chip := by
    rw [waitsFor, Bool.and_eq_true, beq_iff_eq, beq_iff_eq]
  refine ⟨?_, htook, hexp, fun y hy h1 h2 h3 => ?_, fun i hi h1 h2 => ?_, fun i hi => ?_⟩
  · rw [hcf.only, hfr]
    rfl
  · rw [hcf.only] at hy
    obtain ⟨z, -, hz⟩ := List.mem_map.mp hy
    split at hz
    · subst hz
      exact ⟨rfl, rfl, rfl⟩
    · rename_i hno
      subst hz
      exact absurd ⟨h1, h2, h3⟩ hno
  · refine hcf.sendq _ (List.mem_append_right _ (List.mem_map.mpr ⟨i, ?_, rfl⟩))
    rw [hbindq]
    exact List.mem_filter.mpr ⟨hi, (hwaits i).mpr ⟨h1, h2⟩⟩
  · rw [hcf.only] at hi
    obtain ⟨-, hno⟩ := List.mem_filter.mp hi
    intro hw
    rw [(hwaits i).mpr hw] at hno
    exact absurd hno (by decide)

end

/-- Settles O29: a duplicate draws an ACK before any effect; in order, each frame's effect acts on the state in which it
was taken, and its completion changes sessions and frames to be sent alone. -/
theorem framesReceived : Obligations.FramesReceived := by
  unfold Obligations.FramesReceived
  refine ⟨fun s p k f n x c typ h hn hx hsid _ _ h0 hd hc => ?_, fun s p k f n x ho => ⟨fun o core id typ reason h htyp hreason h0B h06 h04 hop hch hp h27 h28 => ?_,
    fun h hs hb => revoke_forgets ho h hs hb, fun m c h hc hm => revokeAck_counts ho h hc hm, fun m c h hs hc hd => bind_binds ho h hs hc hd,
    fun h hs hc hd => bind_refused ho h hs hc hd, fun b h hb => bindReply_binds ho h hb⟩⟩
  · have hdup (eff : State → Frame → State) := duplicate_acknowledged h hn hx hsid h0 hd eff
    obtain ⟨rfl, rfl⟩ | ⟨rfl, rfl⟩ | ⟨rfl, rfl⟩ | ⟨rfl, rfl⟩ | ⟨rfl, rfl⟩ | ⟨rfl, rfl⟩ | ⟨rfl, rfl⟩ | ⟨rfl, rfl⟩ | ⟨rfl, rfl⟩ | ⟨rfl, rfl⟩ := hc
    all_goals
      obtain ⟨t, ht, hp⟩ := hdup _
      exact runs_eq rfl ht hp
  · subst htyp hreason
    exact error_fails ho h h0B h06 h04 hop hch hp h27 h28

end Sys2Proof.Machine
end

section
/-! # Data frames (11/R377, R380, 06/R169, 10/R337) -/

namespace Sys2Proof.Machine

/-! ## What the effect of a data frame changes -/

/-- `t` is `s` but for its memories, its cores, its tallies, its transfers and the frames that wait. -/
def Moved (s t : State) : Prop :=
  t = { s with mem := t.mem, cores := t.cores, tallies := t.tallies
               fab := { s.fab with ops := t.fab.ops, sendq := t.fab.sendq, used := t.fab.used } }

theorem Moved.refl (s : State) : Moved s s := rfl

theorem Moved.trans {s t u : State} (h : Moved s t) (g : Moved t u) : Moved s u := by
  unfold Moved at *
  rw [h] at g
  exact g

section
variable {s : State} {p typ k n : Nat} {f : Frame} {x : Session}

/-- What the state after a data frame in order has of its effect. -/
structure Finished (s t v : State) (p k n : Nat) (f : Frame) : Prop where
  took : Took s t p k f
  expects : Expects t n f
  cmds : t.cmds = s.cmds
  cores : t.cores = v.cores
  mem : t.mem = v.mem
  tallies : t.tallies = v.tallies
  ops : ∀ i, getOp t i = getOp v i
  sendq : ∀ i ∈ v.fab.sendq, i ∈ t.fab.sendq

theorem finished_of {v : State} (ho : InOrder s f n x) (hm : Moved (received s p k f n) v) : Finished s (completeFrame v f) v p k n f := by
  have hc := completeFrame_completed v f
  obtain ⟨htook, hexp⟩ := received_done (p := p) (k := k) (v := v) ho (by rw [hm]) (by rw [hm]) (by rw [hm])
  have hcmds : v.cmds = s.cmds := by
    rw [hm, received_frame]
  refine ⟨htook, hexp, ?_, ?_, ?_, ?_, fun i => ?_, hc.sendq⟩
  · rw [hc.only, ← hcmds]
  · rw [hc.only]
  · rw [hc.only]
  · rw [hc.only]
  · rw [hc.only]
    rfl

theorem mem_received : (received s p k f n).mem = s.mem := by rw [received_frame]
theorem cores_received : (received s p k f n).cores = s.cores := by rw [received_frame]
theorem stepSt_received : (received s p k f n).stepSt = s.stepSt := by rw [received_frame]
theorem ctxGone_received (g : Frame) : ctxGone (received s p k f n) g = ctxGone s g := by
  obtain ⟨a, ha⟩ := getCtx_received (s := s) (p := p) (k := k) (f := f) (n := n) g.dctx
  unfold ctxGone
  rw [ha]

theorem refuse_received (path : Path) (part a : Nat) : refuse (received s p k f n) path part a = refuse s path part a := by
  rw [received_frame]
  rfl

theorem crateRefusal_received (g : Frame) : crateRefusal (received s p k f n) g = crateRefusal s g := by
  obtain ⟨a, ha⟩ := getCtx_received (s := s) (p := p) (k := k) (f := f) (n := n) g.dctx
  unfold crateRefusal
  rw [ctxGone_received, refuse_received, ha]

theorem getOp_received (i : Nat) : getOp (received s p k f n) i = getOp s i := by
  rw [received_frame]
  rfl

theorem CrateOk.received {c : Nat} (h : CrateOk s c) : CrateOk (received s p k f n) c := h.of_mem mem_received

theorem verifyRx_ok {s : State} {f g : Frame} (h : FrameOk f) (hg : g.data = f.data) : verifyRx s g = (s, frameTag f) := by
  have ht : frameTag g = frameTag f := by rw [frameTag, hg, frameTag]
  have hp : framePayload g = framePayload f := by rw [framePayload, hg, framePayload]
  unfold verifyRx
  rw [ht, hp]
  refine if_pos ?_
  rw [Bool.or_eq_true, beq_iff_eq]
  exact h.2

theorem FrameOk.payload_length {f : Frame} (h : FrameOk f) : (framePayload f).length = 4096 := by
  rw [framePayload, List.length_drop, h.1]

theorem putCrate_moved (s : State) (c : Nat) (q : List Byte) (t : W128) : Moved s (putCrate s c q t) := rfl

theorem mem_putCrate (s : State) (c : Nat) (q : List Byte) (t : W128) : (putCrate s c q t).mem = writeCrate s.mem c q t := rfl

/-! ## PUT -/

theorem putEffect_writes {s : State} (hr : crateRefusal s f = none) (hf : FrameOk f) (hd : dirOn s = false) :
    putEffect s f = putCrate s (f.addr / 4096) (framePayload f) (frameTag f) := by
  unfold putEffect
  rw [hr]
  dsimp only
  rw [verifyRx_ok hf rfl]
  refine if_pos ?_
  have hd' : dirOn (putCrate s (f.addr / 4096) (framePayload f) (frameTag f)) = false := hd
  rw [hd']
  rfl

theorem put_writes (ho : InOrder s f n x) (h : NextFrame s p 0x01 k f) (hr : crateRefusal s f = none) (hf : FrameOk f)
    (hp : Plain s.mem (f.addr / 4096)) (hw : Writable s.mem) (hd : dirOn s = false) :
    Runs (.put p) s (fun t => Took s t p k f ∧ Expects t n f ∧ t.cores = s.cores ∧ t.cmds = s.cmds ∧ t.tallies = s.tallies ∧
      WroteCrate s.mem t.mem (f.addr / 4096) (framePayload f) (frameTag f)) := by
  have hdu : dirOn (received s p k f n) = false := by
    unfold dirOn
    rw [stepSt_received]
    exact hd
  refine runs_eq rfl ((recvSeq_eq ho h putEffect).trans (by rw [putEffect_writes ((crateRefusal_received f).trans hr) hf hdu])) ?_
  obtain ⟨htook, hexp, hcmds, hcores, hmem, htal, -, -⟩ := finished_of ho (putCrate_moved (received s p k f n) (f.addr / 4096) (framePayload f) (frameTag f))
  rw [mem_putCrate, mem_received] at hmem
  refine ⟨htook, hexp, hcores.trans cores_received, hcmds, htal.trans (by rw [putCrate, setMem, received_frame]), ?_⟩
  rw [hmem]
  exact writeCrate_wrote _ _ _ _ hf.payload_length hw.1 hw.2 hp

/-! ## ACC_PUT -/

/-- The tag of a sum. -/
def sumTag (q : List Byte) (f : Frame) : W128 := Tag.computed q Fmt.fp32 0 (Tag.flagsOf 0 false false false false false) (Tag.lineage (frameTag f))

theorem sumTag_fields (q : List Byte) (f : Frame) : Tag.fmt (sumTag q f) = Fmt.fp32 ∧ Tag.check (sumTag q f) = Crc.crc64 q ∧
    Tag.poisoned (sumTag q f) = false ∧ Tag.lineage (sumTag q f) = Tag.lineage (frameTag f) := by
  unfold sumTag Tag.computed
  refine ⟨(Tag.fmt_mk ..).trans (by decide), Tag.check_mk .., (Tag.poisoned_mk ..).trans (by decide), (Tag.lineage_mk ..).trans ?_⟩
  have := (frameTag f).isLt
  rw [Tag.lineage, Word.bitsOf]
  omega

theorem length_toLe (m v : Nat) : (Word.toLe m v).length = m := by
  induction m generalizing v with
  | zero => rfl
  | succ m ih => rw [Word.toLe, List.length_cons, ih]

theorem addPayload_length (a b : List Byte) : (addPayload a b).length = 4096 := by
  unfold addPayload
  rw [List.length_flatMap, List.map_congr_left (g := fun _ => 4) fun i _ => length_toLe ..,
    List.map_const', List.sum_replicate_nat, List.length_range]

theorem accEffect_adds {s : State} (hr : crateRefusal s f = none) (hf : FrameOk f) (hpz : Tag.poisoned (frameTag f) = false)
    (hok : CrateOk s (f.addr / 4096)) (hfmt : Tag.fmt (crateTag s.mem (f.addr / 4096)) = Fmt.fp32) :
    accEffect s f = putCrate s (f.addr / 4096) (addPayload (crateBytes s.mem (f.addr / 4096)) (framePayload f))
      (sumTag (addPayload (crateBytes s.mem (f.addr / 4096)) (framePayload f)) f) := by
  unfold accEffect
  rw [hr]
  dsimp only
  rw [verifyRx_ok hf rfl]
  dsimp only
  rw [if_neg (Classical.not_not.mpr hfmt), readVerify_ok _ _ _ hok]
  dsimp only
  rw [hpz]
  rfl

theorem accPut_adds (ho : InOrder s f n x) (h : NextFrame s p 0x02 k f) (hr : crateRefusal s f = none) (hf : FrameOk f)
    (hpz : Tag.poisoned (frameTag f) = false) (hok : CrateOk s (f.addr / 4096))
    (hfmt : Tag.fmt (crateTag s.mem (f.addr / 4096)) = Fmt.fp32) (hp : Plain s.mem (f.addr / 4096)) (hw : Writable s.mem) :
    Runs (.accPut p) s (fun t => Took s t p k f ∧ Expects t n f ∧ t.cores = s.cores ∧ t.cmds = s.cmds ∧ ∃ q tg,
      WroteCrate s.mem t.mem (f.addr / 4096) q tg ∧ q = addPayload (crateBytes s.mem (f.addr / 4096)) (framePayload f) ∧
      Tag.fmt tg = Fmt.fp32 ∧ Tag.check tg = Crc.crc64 q ∧ Tag.poisoned tg = false ∧ Tag.lineage tg = Tag.lineage (frameTag f)) := by
  have heff := accEffect_adds (s := received s p k f n) ((crateRefusal_received f).trans hr) hf hpz hok.received
    (by rw [mem_received]; exact hfmt)
  rw [mem_received] at heff
  generalize hq : addPayload (crateBytes s.mem (f.addr / 4096)) (framePayload f) = q at heff
  refine runs_eq rfl ((recvSeq_eq ho h accEffect).trans (by rw [heff])) ?_
  obtain ⟨htook, hexp, hcmds, hcores, hmem, -, -, -⟩ := finished_of ho (putCrate_moved (received s p k f n) (f.addr / 4096) q (sumTag q f))
  rw [mem_putCrate, mem_received] at hmem
  refine ⟨htook, hexp, hcores.trans cores_received, hcmds, q, sumTag q f, ?_, rfl, sumTag_fields q f⟩
  rw [hmem]
  exact writeCrate_wrote _ _ _ _ (by rw [← hq]; exact addPayload_length ..) hw.1 hw.2 hp

/-! ## TALLY_ADD -/

theorem addTally_moved (s : State) (a v : Nat) : Moved s (addTally s a v) ∧ (addTally s a v).cores = s.cores ∧ (addTally s a v).mem = s.mem := by
  obtain ⟨w, hw⟩ : ∃ w, addTally s a v = { s with tallies := w } := ⟨_, rfl⟩
  rw [hw]
  exact ⟨rfl, rfl, rfl⟩

theorem addTally_received (a v : Nat) : (addTally (received s p k f n) a v).tallies = (addTally s a v).tallies := by
  rw [received_frame]
  rfl

theorem getOp_addTally (s : State) (a v i : Nat) : getOp (addTally s a v) i = getOp s i := by
  obtain ⟨w, hw⟩ : ∃ w, addTally s a v = { s with tallies := w } := ⟨_, rfl⟩
  rw [hw]
  rfl

theorem streamAcked_none {s : State} (h : getOp s f.opid = none) : streamAcked s f = s := by
  unfold streamAcked
  rw [h]

theorem tallyEffect_adds {s : State} (hc : ctxGone s f = none) (ht : tallyOk s f.dctx (f.addr % 2 ^ 16) = true) (hop : getOp s f.opid = none) :
    tallyEffect s f = addTally s (f.addr % 2 ^ 16) (f.aux % 2 ^ 48) := by
  unfold tallyEffect
  rw [hc]
  dsimp only
  rw [ht, if_neg (by decide)]
  generalize f.addr % 2 ^ 16 = a
  generalize f.aux % 2 ^ 48 = v
  exact streamAcked_none ((getOp_addTally s a v f.opid).trans hop)

theorem tallyOk_received (c t : Nat) : tallyOk (received s p k f n) c t = tallyOk s c t := by
  obtain ⟨a, ha⟩ := getCtx_received (s := s) (p := p) (k := k) (f := f) (n := n) c
  unfold tallyOk
  rw [ha]

theorem tallyAdd_adds (ho : InOrder s f n x) (h : NextFrame s p 0x05 k f) (hc : ctxGone s f = none)
    (ht : tallyOk s f.dctx (f.addr % 2 ^ 16) = true) (hop : getOp s f.opid = none) :
    Runs (.tallyAddFrame p) s (fun t => Took s t p k f ∧ Expects t n f ∧ t.cores = s.cores ∧ t.cmds = s.cmds ∧ t.mem = s.mem ∧
      t.tallies = (addTally s (f.addr % 2 ^ 16) (f.aux % 2 ^ 48)).tallies) := by
  have heff := tallyEffect_adds (s := received s p k f n) ((ctxGone_received f).trans hc) ((tallyOk_received ..).trans ht)
    ((getOp_received f.opid).trans hop)
  generalize f.addr % 2 ^ 16 = a at *
  generalize f.aux % 2 ^ 48 = v at *
  refine runs_eq rfl ((recvSeq_eq ho h tallyEffect).trans (by rw [heff])) ?_
  obtain ⟨hmoved, hcores, hmem⟩ := addTally_moved (received s p k f n) a v
  have htal := addTally_received (s := s) (p := p) (k := k) (f := f) (n := n) a v
  generalize addTally (received s p k f n) a v = u at *
  have hfin := finished_of ho hmoved
  exact ⟨hfin.took, hfin.expects, hfin.cores.trans (hcores.trans cores_received), hfin.cmds, hfin.mem.trans (hmem.trans mem_received),
    hfin.tallies.trans htal⟩

/-! ## VOID -/

theorem Tag.poisoned_poison (t : W128) : Tag.poisoned (Tag.poison t) = true := by
  have hbit : Word.bitOf (Tag.poison t).toNat 87 = (Tag.poison t).toNat.testBit 87 := by
    rw [Word.bitOf, Nat.testBit_eq_decide_div_mod_eq]
    rfl
  rw [Tag.poisoned, hbit, Tag.poison, BitVec.toNat_or, Nat.testBit_or, BitVec.toNat_ofNat,
    Nat.mod_eq_of_lt (Nat.pow_lt_pow_right (by decide) (by decide)), Nat.testBit_two_pow_self, Bool.or_true]

/-- A new tag of a plain crate changes what its tag reads as, and nothing of its bytes nor of another crate. -/
theorem setTag_plain {m : Mem} {c : Nat} (hp : Plain m c) (t : W128) :
    (∀ j, crateBytes (setTag m c t) j = crateBytes m j) ∧ crateTag (setTag m c t) c = Tag.poisonIf (m.opened.contains c || crateBad m c) t ∧
      ∀ j, j ≠ c → crateTag (setTag m c t) j = crateTag m j := by
  have heq : setTag m c t = { m with tags := tset Tag.zero m.tags c t } := by
    unfold setTag
    rw [preserve_plain m c hp, cacheTouch_none m c true hp.2]
  rw [heq]
  refine ⟨fun j => rfl, ?_, fun j hj => ?_⟩
  · unfold crateTag
    dsimp only
    rw [tget_tset_self]
    rfl
  · unfold crateTag
    dsimp only
    rw [tget_tset, if_neg hj]
    rfl

theorem voidEffect_spoils {s : State} (htyp : f.aux / 2 ^ 8 % 2 ^ 8 = 0x01 ∨ f.aux / 2 ^ 8 % 2 ^ 8 = 0x02) (hr : crateRefusal s f = none) :
    voidEffect s f = setMem s (setTag s.mem (f.addr / 4096) (Tag.poison (crateTag s.mem (f.addr / 4096)))) := by
  unfold voidEffect
  extract_lets +onlyGivenNames typ
  refine (if_pos htyp).trans ?_
  rw [hr]

theorem void_poisons (ho : InOrder s f n x) (h : NextFrame s p 0x07 k f)
    (htyp : f.aux / 2 ^ 8 % 2 ^ 8 = 0x01 ∨ f.aux / 2 ^ 8 % 2 ^ 8 = 0x02) (hr : crateRefusal s f = none) (hp : Plain s.mem (f.addr / 4096)) :
    Runs (.void p) s (fun t => Took s t p k f ∧ Expects t n f ∧ t.cores = s.cores ∧ t.cmds = s.cmds ∧
      Tag.poisoned (crateTag t.mem (f.addr / 4096)) = true ∧
      crateBytes t.mem (f.addr / 4096) = crateBytes s.mem (f.addr / 4096) ∧
      SameCrates s.mem t.mem (fun j => j = f.addr / 4096)) := by
  refine runs_eq rfl ((recvSeq_eq ho h voidEffect).trans (by rw [voidEffect_spoils htyp ((crateRefusal_received f).trans hr)])) ?_
  rw [mem_received]
  have hmoved (m : Mem) : Moved (received s p k f n) (setMem (received s p k f n) m) := rfl
  have hfin := finished_of ho (hmoved (setTag s.mem (f.addr / 4096) (Tag.poison (crateTag s.mem (f.addr / 4096)))))
  obtain ⟨hbytes, htag, hother⟩ := setTag_plain hp (Tag.poison (crateTag s.mem (f.addr / 4096)))
  have hmem := hfin.mem
  have hset (m : Mem) : (setMem (received s p k f n) m).mem = m := rfl
  rw [hset] at hmem
  refine ⟨hfin.took, hfin.expects, hfin.cores.trans cores_received, hfin.cmds, ?_, ?_, fun j hj => ?_⟩
  · rw [hmem, htag, Tag.poisonIf]
    split <;> exact Tag.poisoned_poison _
  · rw [hmem, hbytes]
  · rw [hmem, hbytes, hother j hj]
    exact ⟨rfl, rfl⟩

/-! ## GET_REQ -/

theorem MoveOk.of_mem {s t : State} {c : Nat} (h : MoveOk s c) (hm : t.mem = s.mem) : MoveOk t c where
  home := hm ▸ h.home
  bad := hm ▸ h.bad
  check := hm ▸ h.check

theorem moveRead_moveOk (s : State) (cg : CtxGen) (core : Nat) {c : Nat} (h : MoveOk s c) :
    moveRead s cg core c = (s, crateBytes s.mem c, crateTag s.mem c) := by
  unfold moveRead
  rw [reportBad_ok _ _ _ _ h.bad]
  dsimp only
  rw [cacheTouch_none _ _ _ h.home, if_pos (by rw [Bool.or_eq_true, beq_iff_eq]; exact h.check)]
  rfl

/-- `t` is `s` but for frames that were added to those that wait, and the record of bindings in use. -/
structure Queued (s t : State) : Prop where
  only : t = { s with fab := { s.fab with sendq := t.fab.sendq, used := t.fab.used } }
  sendq : ∀ i ∈ s.fab.sendq, i ∈ t.fab.sendq

theorem Queued.refl (s : State) : Queued s s := ⟨rfl, fun _ h => h⟩
theorem Queued.trans {s t u : State} (h : Queued s t) (g : Queued t u) : Queued s u := by
  refine ⟨?_, fun i hi => g.sendq i (h.sendq i hi)⟩
  have := g.only
  rw [h.only] at this
  exact this

theorem markUsed_queued (s : State) (ctx gen chip ch : Nat) : Queued s (markUsed s ctx gen chip ch) := by
  have hm : markUsed s ctx gen chip ch = { s with fab := { s.fab with used := (markUsed s ctx gen chip ch).fab.used } } := by
    unfold markUsed modFab
    dsimp only
    split <;> rfl
  refine ⟨?_, fun i hi => ?_⟩
  · rw [hm]
  · rw [hm]
    exact hi

theorem Queued.session {s t : State} (h : Queued s t) (hn : sessionOf s f.src = some n) (hx : getSession s n = some x) :
    sessionOf t f.src = some n ∧ getSession t n = some x := by
  rw [h.only]
  exact ⟨hn, hx⟩

theorem Queued.mem {s t : State} (h : Queued s t) : t.mem = s.mem := by rw [h.only]

theorem sendFrom_queued {s : State} {g : Frame} (hn : sessionOf s g.dst = some n) (hx : getSession s n = some x) (hs : x.state = 1 ∨ x.state = 2)
    (ctx gen : Nat) : Queued s (sendFrom s ctx gen g) ∧ ∃ i ∈ (sendFrom s ctx gen g).fab.sendq, ∃ c src dctx dgen,
      i = { ctx := some c, frame := { g with src := src, dctx := dctx, dgen := dgen } } := by
  unfold sendFrom
  extract_lets +onlyGivenNames peer
  rw [useSession_stands hn hx hs]
  dsimp only
  have hm := markUsed_queued s ctx gen g.dst g.ch
  generalize markUsed s ctx gen g.dst g.ch = u at *
  exact ⟨hm.trans ⟨rfl, fun _ h => List.mem_append_left _ h⟩, _, List.mem_append_right _ (List.mem_singleton_self _), _, _, _, _, rfl⟩

/-- The frame of crate `j` of `m` that a read asks for. -/
def readFrame (m : Mem) (f : Frame) (total j : Nat) : Frame :=
  { typ := 0x04, last := j + 1 == total, dst := f.src, ch := f.ch, opid := f.opid, addr := (f.addr / 4096 + j) * 4096, index := j
    data := crateData (crateTag m (f.addr / 4096 + j)) (crateBytes m (f.addr / 4096 + j)) }

/-- Crate `j` of `m` that a read asks for, as it is sent. -/
def SentCrate (m : Mem) (f : Frame) (total j : Nat) (i : Item) : Prop :=
  i.frame.typ = 0x04 ∧ i.frame.dst = f.src ∧ i.frame.opid = f.opid ∧ i.frame.index = j ∧ i.frame.last = (j + 1 == total) ∧
    i.frame.data = crateData (crateTag m (f.addr / 4096 + j)) (crateBytes m (f.addr / 4096 + j))

theorem sendCrates_sends (f : Frame) (total m : Nat) : ∀ (c : Nat) (s : State), sessionOf s f.src = some n → getSession s n = some x →
    (x.state = 1 ∨ x.state = 2) → (∀ j, c ≤ j → j < c + m → MoveOk s (f.addr / 4096 + j)) →
    Queued s (sendCrates f total m c s) ∧ ∀ j, c ≤ j → j < c + m → ∃ i ∈ (sendCrates f total m c s).fab.sendq, SentCrate s.mem f total j i := by
  induction m with
  | zero => exact fun c s _ _ _ _ => ⟨.refl s, fun j h1 h2 => by omega⟩
  | succ m ih =>
    intro c s hn hx hs hok
    have heq : sendCrates f total (m + 1) c s = sendCrates f total m (c + 1) (sendFrom s f.dctx f.dgen (readFrame s.mem f total c)) := by
      conv => lhs; unfold sendCrates
      dsimp only
      rw [moveRead_moveOk _ _ _ (hok c (Nat.le_refl c) (by omega))]
      rfl
    rw [heq]
    obtain ⟨hq, i, hi, cg, src, dctx, dgen, hitem⟩ := sendFrom_queued (g := readFrame s.mem f total c) hn hx hs f.dctx f.dgen
    generalize sendFrom s f.dctx f.dgen (readFrame s.mem f total c) = u at *
    obtain ⟨hn', hx'⟩ := hq.session hn hx
    have hmem := hq.mem
    obtain ⟨hq', hall⟩ := ih (c + 1) u hn' hx' hs fun j h1 h2 => (hok j (by omega) (by omega)).of_mem hmem
    refine ⟨hq.trans hq', fun j h1 h2 => ?_⟩
    by_cases hj : j = c
    · subst hj
      exact ⟨i, hq'.sendq i hi, by rw [hitem]; exact ⟨rfl, rfl, rfl, rfl, rfl, rfl⟩⟩
    · rw [← hmem]
      exact hall j (by omega) (by omega)

theorem readRefusal_received (g : Frame) (m : Nat) : readRefusal (received s p k f n) g m = readRefusal s g m := by
  unfold readRefusal
  simp only [crateRefusal_received]

theorem getReqEffect_sends {s : State} (hc : ctxGone s f = none) (hr : readRefusal s f (f.aux % 2048 + 1) = none) (hv : s.stepSt.vacate = none) :
    getReqEffect s f = sendCrates f (f.aux % 2048 + 1) (f.aux % 2048 + 1) 0 s := by
  unfold getReqEffect
  extract_lets +onlyGivenNames m
  rw [hc]
  dsimp -zeta only
  have hr' : readRefusal s f m = none := hr
  rw [hr']
  dsimp -zeta only
  extract_lets +onlyGivenNames me spare
  rw [hv]

theorem getReq_answers (ho : InOrder s f n x) (h : NextFrame s p 0x03 k f) (hc : ctxGone s f = none)
    (hr : readRefusal s f (f.aux % 2048 + 1) = none) (hv : s.stepSt.vacate = none) (hs : x.state = 1 ∨ x.state = 2)
    (hok : ∀ j, j ≤ f.aux % 2048 → MoveOk s (f.addr / 4096 + j)) :
    Runs (.getReq p) s (fun t => Took s t p k f ∧ Expects t n f ∧ t.cores = s.cores ∧ t.cmds = s.cmds ∧ t.mem = s.mem ∧
      ∀ j, j ≤ f.aux % 2048 → ∃ i ∈ t.fab.sendq, i.frame.typ = 0x04 ∧ i.frame.dst = f.src ∧ i.frame.opid = f.opid ∧
        i.frame.index = j ∧ i.frame.last = (j == f.aux % 2048) ∧
        i.frame.data = crateData (crateTag s.mem (f.addr / 4096 + j)) (crateBytes s.mem (f.addr / 4096 + j))) := by
  have heff := getReqEffect_sends (s := received s p k f n) ((ctxGone_received f).trans hc) ((readRefusal_received f _).trans hr)
    (by rw [stepSt_received]; exact hv)
  generalize f.aux % 2048 = m at *
  obtain ⟨hq, hall⟩ := sendCrates_sends f (m + 1) (m + 1) 0 (received s p k f n) (sessionOf_received ho) (getSession_received ho.session) hs
    fun j _ hj => (hok j (by omega)).of_mem mem_received
  refine runs_eq rfl ((recvSeq_eq ho h getReqEffect).trans (by rw [heff])) ?_
  generalize sendCrates f (m + 1) (m + 1) 0 (received s p k f n) = v at *
  have hmoved : Moved (received s p k f n) v := by
    unfold Moved
    rw [hq.only]
  have hfin := finished_of ho hmoved
  have hcores : v.cores = s.cores := by rw [hq.only, cores_received]
  refine ⟨hfin.took, hfin.expects, hfin.cores.trans hcores, hfin.cmds, hfin.mem.trans (hq.mem.trans mem_received), fun j hj => ?_⟩
  obtain ⟨i, hi, h1, h2, h3, h4, h5, h6⟩ := hall j (Nat.zero_le j) (by omega)
  rw [mem_received] at h6
  refine ⟨i, hfin.sendq i hi, h1, h2, h3, h4, h5.trans ?_, h6⟩
  rw [Bool.eq_iff_iff, beq_iff_eq, beq_iff_eq]
  omega

/-! ## GET_DATA -/

theorem getPlace_received (o : Op) (i : Nat) : getPlace (received s p k f n) o i = getPlace s o i := by
  rw [received_frame]
  rfl

theorem getPost_moved {s : State} {slot : Option (Nat × Nat)} (h : ∀ c b, slot = some (c, b) → (post (getCore s c) b).isSome = true) :
    getPost s slot = { s with cores := (getPost s slot).cores } := by
  unfold getPost
  split
  · rfl
  · rename_i c b
    obtain ⟨y, hy⟩ := Option.isSome_iff_exists.mp (h c b rfl)
    have hpost : implicitPost s c b = .ok (setCore s c y) := by
      unfold implicitPost
      rw [hy]
    rw [hpost]
    rfl

/-- A transfer with one crate more. -/
def countedOp (place : Nat) (o : Op) : Op := { o with left := o.left - 1, written := o.written ++ [place] }

theorem getCounted_counts {s : State} {id place : Nat} {o : Op} (ho : getOp s id = some o) :
    Moved s (getCounted s id (some place)) ∧ (getCounted s id (some place)).mem = s.mem ∧
      (o.left ≤ 1 → getOp (getCounted s id (some place)) id = none) ∧
      (1 < o.left → getOp (getCounted s id (some place)) id = some (countedOp place o)) := by
  have hget : getOp (modOp s id (countedOp place)) id = some (countedOp place o) := by
    rw [modOp, getOp_setOp, if_pos rfl, ho]
    rfl
  have heq : getCounted s id (some place) = if (countedOp place o).left = 0 then opDone (modOp s id (countedOp place)) id
      else modOp s id (countedOp place) := by
    unfold getCounted
    extract_lets +onlyGivenNames u
    have hu : u = modOp s id (countedOp place) := rfl
    rw [hu, hget]
  have hmod : Moved s (modOp s id (countedOp place)) ∧ (modOp s id (countedOp place)).mem = s.mem := ⟨rfl, rfl⟩
  have hleft : (countedOp place o).left = o.left - 1 := rfl
  rw [heq, hleft]
  generalize modOp s id (countedOp place) = u at *
  obtain ⟨hm, hmem⟩ := hmod
  have hdone : Moved u (opDone u id) ∧ (opDone u id).mem = u.mem ∧ getOp (opDone u id) id = none := by
    have hnone : getOp (setOp u id none) id = none := (getOp_setOp ..).trans (if_pos rfl)
    unfold opDone
    rw [hget]
    dsimp only
    split
    · exact ⟨rfl, rfl, hnone⟩
    · exact ⟨rfl, rfl, hnone⟩
  by_cases hl : o.left - 1 = 0
  · rw [if_pos hl]
    exact ⟨hm.trans hdone.1, hdone.2.1.trans hmem, fun _ => hdone.2.2, fun h => by omega⟩
  · rw [if_neg hl]
    exact ⟨hm, hmem, fun h => by omega, fun _ => hget⟩

theorem getDataEffect_writes {s : State} {o : Op} {place : Nat} {slot : Option (Nat × Nat)} (hc : ctxGone s f = none)
    (hop : getOp s f.opid = some o) (hdir : o.dir = 1) (hch : o.chip = f.src) (hpl : getPlace s o f.index = some (place, slot)) (hf : FrameOk f) :
    getDataEffect s f = getCounted (getPost (putCrate s place (framePayload f) (frameTag f)) slot) f.opid (some place) := by
  unfold getDataEffect
  rw [hc]
  dsimp only
  rw [hop]
  dsimp only
  rw [if_neg (fun h => h.elim (absurd hdir) (absurd hch)), hpl]
  dsimp only
  rw [verifyRx_ok (f := f) (g := { f with addr := place * 4096 }) hf rfl]

theorem getData_writes {o : Op} {place : Nat} {slot : Option (Nat × Nat)} (ho : InOrder s f n x) (h : NextFrame s p 0x04 k f)
    (hheld : getHeld s f = false) (hc : ctxGone s f = none)
    (hop : getOp s f.opid = some o) (hdir : o.dir = 1) (hch : o.chip = f.src) (hpl : getPlace s o f.index = some (place, slot)) (hf : FrameOk f)
    (hp : Plain s.mem place) (hw : Writable s.mem) (hpost : ∀ c b, slot = some (c, b) → (post (getCore s c) b).isSome = true) :
    Runs (.getData p) s (fun t => Took s t p k f ∧ Expects t n f ∧ t.cmds = s.cmds ∧
      WroteCrate s.mem t.mem place (framePayload f) (frameTag f) ∧
      (o.left ≤ 1 → getOp t f.opid = none) ∧
      (1 < o.left → getOp t f.opid = some { o with left := o.left - 1, written := o.written ++ [place] })) := by
  have heff := getDataEffect_writes (s := received s p k f n) ((ctxGone_received f).trans hc) ((getOp_received f.opid).trans hop) hdir hch
    ((getPlace_received o f.index).trans hpl) hf
  have hgo : getData s p = recvSeq s p 0x04 getDataEffect := by
    have h' : firstOf 0x04 0 [] (getPort s p).rx = some (k, f) := h
    unfold getData
    rw [h']
    exact if_neg (by rw [hheld]; decide)
  have hput := putCrate_moved (received s p k f n) place (framePayload f) (frameTag f)
  have hmem := mem_putCrate (received s p k f n) place (framePayload f) (frameTag f)
  rw [mem_received] at hmem
  have hcore (c : Nat) : getCore (putCrate (received s p k f n) place (framePayload f) (frameTag f)) c = getCore s c := by
    unfold getCore
    rw [putCrate, setMem, cores_received]
  have hopp : getOp (putCrate (received s p k f n) place (framePayload f) (frameTag f)) f.opid = some o := (getOp_received f.opid).trans hop
  refine runs_eq rfl (hgo.trans ((recvSeq_eq ho h getDataEffect).trans (by rw [heff]))) ?_
  generalize putCrate (received s p k f n) place (framePayload f) (frameTag f) = a at *
  have hb := getPost_moved (s := a) (slot := slot) fun c b hs => by rw [hcore]; exact hpost c b hs
  generalize getPost a slot = b at *
  obtain ⟨hmv, hm, hend, hmore⟩ := getCounted_counts (s := b) (id := f.opid) (place := place) (o := o) (by rw [hb]; exact hopp)
  generalize getCounted b f.opid (some place) = v at *
  have hmoved : Moved (received s p k f n) v := (hput.trans (by unfold Moved; rw [hb])).trans hmv
  have hfin := finished_of ho hmoved
  have hbm : b.mem = a.mem := by rw [hb]
  refine ⟨hfin.took, hfin.expects, hfin.cmds, ?_, fun hl => (hfin.ops _).trans (hend hl), fun hl => (hfin.ops _).trans (hmore hl)⟩
  rw [hfin.mem, hm, hbm, hmem]
  exact writeCrate_wrote _ _ _ _ hf.payload_length hw.1 hw.2 hp

end

/-- Settles O28: every data frame in order acts on memory, cores, tallies and transfers alone, and its completion keeps them. -/
theorem dataFrames : Obligations.DataFrames := by
  unfold Obligations.DataFrames
  intro s p k f n x ho
  exact ⟨fun h hr hf hp hw hd => put_writes ho h hr hf hp hw hd, fun h hr hf hpz hok hfmt hp hw => accPut_adds ho h hr hf hpz hok hfmt hp hw,
    fun h hc hr hv hs hok => getReq_answers ho h hc hr hv hs hok,
    fun o place slot h hheld hc hop hdir hch hpl hf hp hw hpost => getData_writes ho h hheld hc hop hdir hch hpl hf hp hw hpost,
    fun h hc ht hop => tallyAdd_adds ho h hc ht hop, fun h htyp hr hp _ => void_poisons ho h htyp hr hp⟩

end Sys2Proof.Machine
end

section
/-! # Collectives under way (12/R405, R411-R418, R422) -/

namespace Sys2Proof.Machine

/-! ## Commands that end with any class -/

/-- A command, the last of its queue, ends with any class: it is charged to the step and stops its queue at most. -/
theorem endCmd_only {s : State} {slot : Nat} {c : Cmd} (hf : findCmd s slot = some c) (hg : Uncut c)
    (hl : ∀ d ∈ queueCmds s c.queue, d.ord ≤ c.ord) (e : EndWith) :
    endCmd s slot e = { s with cmds := endedCmds s slot e, queues := (endCmd s slot e).queues, mem := (endCmd s slot e).mem
                               stepSt := (endCmd s slot e).stepSt } := by
  have hcharge : Raised { s with cmds := endedCmds s slot e } (chargeEnd { s with cmds := endedCmds s slot e } c e) ∧
      chargeEnd { s with cmds := endedCmds s slot e } c e = { s with cmds := endedCmds s slot e, mem := (chargeEnd { s with cmds := endedCmds s slot e } c e).mem, stepSt := (chargeEnd { s with cmds := endedCmds s slot e } c e).stepSt } := by
    unfold chargeEnd
    extract_lets op
    split
    · exact ⟨chargeNow_raised .., by rw [chargeNow_frame]⟩
    · exact ⟨.refl _, rfl⟩
  unfold endCmd
  rw [hf]
  dsimp only
  rw [setEnded_eq e hf hg]
  obtain ⟨-, hfr⟩ := hcharge
  generalize chargeEnd { s with cmds := endedCmds s slot e } c e = u at *
  split
  · rw [failQueue_last (by rw [hfr]; exact endedCmds_last (s := s) hl)]
    obtain ⟨hq, -⟩ := modQueue_only u c.queue (failedQueue c e.reason)
    generalize modQueue u c.queue (failedQueue c e.reason) = v at *
    rw [hq, hfr]
  · rw [hfr]

/-! ## GRANT and DATA frames -/

section
variable {s : State} {p k n g : Nat} {f : Frame} {x : Session}

/-- What the state after a COLL frame in order has of its effect. -/
structure GroupDone (s t v : State) (p k n : Nat) (f : Frame) : Prop where
  took : Took s t p k f
  expects : Expects t n f
  cores : t.cores = s.cores
  cmds : t.cmds = s.cmds
  mem : t.mem = s.mem
  groups : ∀ h, getGroup t h = getGroup v h

theorem groupDone_of {v : State} (ho : InOrder s f n x) (hv : v = { received s p k f n with groups := v.groups }) :
    GroupDone s (completeFrame v f) v p k n f := by
  have hc := (completeFrame_completed v f).only
  obtain ⟨htook, hexp⟩ := received_done (p := p) (k := k) (v := v) ho (by rw [hv]) (by rw [hv]) (by rw [hv])
  have hvs : v.cores = s.cores ∧ v.cmds = s.cmds ∧ v.mem = s.mem := by
    rw [hv, received_frame]
    exact ⟨rfl, rfl, rfl⟩
  obtain ⟨h1, h2, h3⟩ := hvs
  generalize completeFrame v f = t at *
  exact ⟨htook, hexp, by rw [hc, ← h1], by rw [hc, ← h2], by rw [hc, ← h3], fun h => by rw [hc]; rfl⟩

theorem getGroup_received (h : Nat) : getGroup (received s p k f n) h = getGroup s h := by
  rw [received_frame]
  rfl

theorem frameGroup_received : frameGroup (received s p k f n) f = frameGroup s f := by
  obtain ⟨a, ha⟩ := getCtx_received (s := s) (p := p) (k := k) (f := f) (n := n) f.dctx
  unfold frameGroup
  dsimp only
  rw [getGroup_received, ha]

theorem recvColl_eq {kind : Nat} (h : NextFrame s p 0x06 k f) (hk : f.aux / 2 ^ 10 % 4 = kind) :
    recvColl s p kind = recvSeq s p 0x06 collEffect := by
  have h' : firstOf 0x06 0 [] (getPort s p).rx = some (k, f) := h
  unfold recvColl
  rw [h']
  exact if_pos (by rw [hk, beq_self_eq_true])

theorem collEffect_grant {s : State} (hk : f.aux / 2 ^ 10 % 4 = 0) (hc : ctxGone s f = none) (hg : frameGroup s f = some g) :
    collEffect s f = takeGrant s g f := by
  unfold collEffect
  rw [hc, hg]
  exact if_pos hk

theorem collEffect_data {s : State} (hk : f.aux / 2 ^ 10 % 4 = 1) (hc : ctxGone s f = none) (hg : frameGroup s f = some g) :
    collEffect s f = takeData s g f := by
  unfold collEffect
  rw [hc, hg]
  dsimp only
  rw [hk, if_neg (by decide), if_pos rfl]

/-- A group that holds one grant more. -/
def withGrant (y : Grant) (x : Group) : Group := { x with grants := if x.grants.contains y then x.grants else x.grants ++ [y] }

theorem takeGrant_holds {s : State} {y : Grant} (hrun : (getGroup s g).run = none) (hid : f.opid = (getGroup s g).count)
    (hy : y = { count := f.opid, stage := f.aux / 2 ^ 12 % 4, chunk := f.aux / 2 ^ 14 % 2 ^ 24, ordinal := f.aux / 2 ^ 38 % 2 ^ 14
                mapCheck := f.addr % 2 ^ 32, opCheck := f.addr / 2 ^ 32 }) :
    takeGrant s g f = modGroup s g (withGrant y) := by
  unfold takeGrant
  extract_lets +onlyGivenNames a b keep
  have ha : a.run = none := hrun
  have hb : b = y := hy.symm
  rw [ha]
  dsimp -zeta only
  rw [if_pos (show f.opid = a.count from hid)]
  show modGroup s g (withGrant b) = _
  rw [hb]

theorem grant_held {y : Grant} (ho : InOrder s f n x) (h : NextFrame s p 0x06 k f) (hk : f.aux / 2 ^ 10 % 4 = 0) (hc : ctxGone s f = none)
    (hg : frameGroup s f = some g) (hrun : (getGroup s g).run = none) (hid : f.opid = (getGroup s g).count)
    (hy : y = { count := f.opid, stage := f.aux / 2 ^ 12 % 4, chunk := f.aux / 2 ^ 14 % 2 ^ 24, ordinal := f.aux / 2 ^ 38 % 2 ^ 14
                mapCheck := f.addr % 2 ^ 32, opCheck := f.addr / 2 ^ 32 }) (hnew : y ∉ (getGroup s g).grants) :
    Runs (.collGrant p) s (fun t => Took s t p k f ∧ Expects t n f ∧ t.cores = s.cores ∧ t.cmds = s.cmds ∧ t.mem = s.mem ∧
      getGroup t g = { getGroup s g with grants := (getGroup s g).grants ++ [y] } ∧
      ∀ h, h ≠ g → getGroup t h = getGroup s h) := by
  have heff := (collEffect_grant (s := received s p k f n) hk ((ctxGone_received f).trans hc) (frameGroup_received.trans hg)).trans
    (takeGrant_holds ((congrArg Group.run (getGroup_received g)).trans hrun) (hid.trans (congrArg Group.count (getGroup_received g)).symm) hy)
  refine runs_eq rfl (((recvColl_eq h hk).trans (recvSeq_eq ho h collEffect)).trans (by rw [heff])) ?_
  have hd := groupDone_of (p := p) (k := k) (v := modGroup (received s p k f n) g (withGrant y)) ho (modGroup_fields ..)
  have hno : (getGroup s g).grants.contains y = false := by
    rw [Bool.eq_false_iff]
    exact fun hc => hnew (List.contains_iff_mem.mp hc)
  refine ⟨hd.took, hd.expects, hd.cores, hd.cmds, hd.mem, ?_, fun i hi => ?_⟩
  · rw [hd.groups, getGroup_modGroup_same, getGroup_received, withGrant, if_neg (by rw [hno]; decide)]
  · rw [hd.groups, getGroup_modGroup_ne _ hi, getGroup_received]

/-- A contribution with a crate more. -/
def withCrate (f : Frame) (old : Contrib) : Contrib :=
  { old with crates := old.crates ++ [{ j := f.index, tag := frameTag f, payload := framePayload f }], complete := false }

/-- A run with a contribution replaced. -/
def withContrib (st ch a : Nat) (new : Contrib) (r : CollRun) : CollRun :=
  { r with contribs := r.contribs.filter (fun c => !(c.stage == st && c.chunk == ch && c.ordinal == a)) ++ [new] }

theorem contrib_withContrib_same {st ch a : Nat} {new : Contrib} (hn : new.stage = st ∧ new.chunk = ch ∧ new.ordinal = a) (r : CollRun) :
    (withContrib st ch a new r).contrib st ch a = some new := by
  obtain ⟨h1, h2, h3⟩ := hn
  rw [CollRun.contrib, withContrib, List.find?_append, List.find?_filter, List.find?_eq_none.mpr (by simp; omega), Option.none_or,
    List.find?_cons, h1, h2, h3]
  simp only [beq_self_eq_true, Bool.and_self]

theorem contrib_withContrib_ne {st ch a st' ch' a' : Nat} {new : Contrib} (hn : new.stage = st ∧ new.chunk = ch ∧ new.ordinal = a)
    (hne : (st', ch', a') ≠ (st, ch, a)) (r : CollRun) : (withContrib st ch a new r).contrib st' ch' a' = r.contrib st' ch' a' := by
  obtain ⟨h1, h2, h3⟩ := hn
  have hkey (i j l : Nat) (hi : i = st' ∧ j = ch' ∧ l = a') : ¬(i = st ∧ j = ch ∧ l = a) := by
    rintro ⟨rfl, rfl, rfl⟩
    obtain ⟨rfl, rfl, rfl⟩ := hi
    exact hne rfl
  have hlast : ¬(new.stage == st' && new.chunk == ch' && new.ordinal == a') = true := by
    rw [Bool.and_eq_true, Bool.and_eq_true, beq_iff_eq, beq_iff_eq, beq_iff_eq]
    exact fun h => hkey _ _ _ ⟨h.1.1, h.1.2, h.2⟩ ⟨h1, h2, h3⟩
  rw [CollRun.contrib, withContrib, List.find?_append, List.find?_filter, List.find?_singleton, if_neg hlast, Option.or_none, CollRun.contrib]
  congr 1
  funext c
  rw [Bool.eq_iff_iff]
  simp only [Bool.and_eq_true, Bool.not_eq_true', beq_iff_eq, decide_eq_true_eq]
  constructor
  · exact fun h => h.2
  · intro h
    refine ⟨?_, h⟩
    rw [Bool.eq_false_iff]
    simp only [ne_eq, Bool.and_eq_true, beq_iff_eq]
    exact fun hc => hkey _ _ _ ⟨h.1.1, h.1.2, h.2⟩ ⟨hc.1.1, hc.1.2, hc.2⟩

theorem verifyColl_ok {s : State} (r : CollRun) (cg : CtxGen) (st : Nat) (hf : FrameOk f) (hp : Tag.poisoned (frameTag f) = false) :
    verifyColl s r cg st f = (s, frameTag f) := by
  have hgood : (Tag.check (frameTag f) == Crc.crc64 (framePayload f)) = true := by
    rw [beq_iff_eq]
    exact hf.2.resolve_left (by rw [hp]; decide)
  unfold verifyColl
  dsimp only
  rw [hp, hgood]
  split <;> rfl

theorem takeData_takes {s : State} {r : CollRun} {st ch a : Nat} {old : Contrib} (hrun : (getGroup s g).run = some r) (hid : f.opid = r.count)
    (hst : st = f.aux / 2 ^ 12 % 4) (hch : ch = f.aux / 2 ^ 14 % 2 ^ 24) (ha : a = f.aux / 2 ^ 38 % 2 ^ 14)
    (hold : old = (r.contrib st ch a).getD { stage := st, chunk := ch, ordinal := a }) (hmem : st ∈ r.stages)
    (hidx : (r.contribution st ch a r.ordinal)[old.crates.length]? = some f.index) (hlast : f.last = false)
    (hmore : old.crates.length + 1 < (r.contribution st ch a r.ordinal).length) (hf : FrameOk f) (hp : Tag.poisoned (frameTag f) = false)
    (hfmt : st < 2 → Tag.fmt (frameTag f) = Fmt.fp32) :
    takeData s g f = modRun s g (withContrib st ch a (withCrate f old)) := by
  have hnotlast : (old.crates.length + 1 == (r.contribution st ch a r.ordinal).length) = false := by
    rw [beq_eq_false_iff_ne]
    omega
  have hdata : f.data.isEmpty = false := by
    rw [List.isEmpty_eq_false_iff, ← List.length_pos_iff, hf.1]
    decide
  have hfmt' : ¬(decide (st < 2) && Tag.fmt (frameTag f) != Fmt.fp32) = true := by
    simp only [Bool.and_eq_true, decide_eq_true_eq, bne_iff_ne]
    exact fun h => h.2 (hfmt h.1)
  have hgo : ¬(!r.stages.contains st || (r.contribution st ch a r.ordinal)[old.crates.length]? != some f.index || f.last != false || f.data.isEmpty) = true := by
    rw [hidx, hlast, hdata, List.contains_iff_mem.mpr hmem]
    simp
  unfold takeData getRun
  rw [hrun]
  dsimp -zeta only
  rw [if_neg (Classical.not_not.mpr hid), ← hst, ← hch, ← ha]
  extract_lets +onlyGivenNames st' ch' a' x' old' js i last
  have hl : last = false := by
    show ((old').crates.length + 1 == _) = false
    have ho' : old' = old := hold.symm
    rw [ho']
    exact hnotlast
  have ho' : old' = old := hold.symm
  have hgo' : ¬(!r.stages.contains st' || js[i]? != some f.index || f.last != last || f.data.isEmpty) = true := by
    rw [hl]
    show ¬(!r.stages.contains st || (r.contribution st ch a r.ordinal)[old'.crates.length]? != some f.index || f.last != false || f.data.isEmpty) = true
    rw [ho']
    exact hgo
  rw [if_neg hgo', if_neg (show ¬(decide (st' < 2) && Tag.fmt (frameTag f) != Fmt.fp32) = true from hfmt'), verifyColl_ok r _ st' hf hp]
  dsimp -zeta only
  rw [hl, ho']
  rfl

theorem data_taken {r : CollRun} {st ch a : Nat} {old : Contrib} (ho : InOrder s f n x) (h : NextFrame s p 0x06 k f)
    (hk : f.aux / 2 ^ 10 % 4 = 1) (hc : ctxGone s f = none) (hg : frameGroup s f = some g)
    (hrun : (getGroup s g).run = some r) (hid : f.opid = r.count)
    (hst : st = f.aux / 2 ^ 12 % 4) (hch : ch = f.aux / 2 ^ 14 % 2 ^ 24) (ha : a = f.aux / 2 ^ 38 % 2 ^ 14)
    (hold : old = (r.contrib st ch a).getD { stage := st, chunk := ch, ordinal := a }) (hmem : st ∈ r.stages)
    (hidx : (r.contribution st ch a r.ordinal)[old.crates.length]? = some f.index) (hlast : f.last = false)
    (hmore : old.crates.length + 1 < (r.contribution st ch a r.ordinal).length) (hf : FrameOk f) (hp : Tag.poisoned (frameTag f) = false)
    (hfmt : st < 2 → Tag.fmt (frameTag f) = Fmt.fp32) :
    Runs (.collData p) s (fun t => Took s t p k f ∧ Expects t n f ∧ t.cores = s.cores ∧ t.cmds = s.cmds ∧ t.mem = s.mem ∧
      (∃ r', (getGroup t g).run = some r' ∧
        r'.contrib st ch a = some { old with crates := old.crates ++ [{ j := f.index, tag := frameTag f, payload := framePayload f }]
                                             complete := false } ∧
        ∀ st' ch' a', (st', ch', a') ≠ (st, ch, a) → r'.contrib st' ch' a' = r.contrib st' ch' a') ∧
      ∀ h, h ≠ g → getGroup t h = getGroup s h) := by
  have heff := (collEffect_data (s := received s p k f n) hk ((ctxGone_received f).trans hc) (frameGroup_received.trans hg)).trans
    (takeData_takes ((congrArg Group.run (getGroup_received g)).trans hrun) hid hst hch ha hold hmem hidx hlast hmore hf hp hfmt)
  have hkeys : (withCrate f old).stage = st ∧ (withCrate f old).chunk = ch ∧ (withCrate f old).ordinal = a := by
    show old.stage = st ∧ old.chunk = ch ∧ old.ordinal = a
    cases hcon : r.contrib st ch a with
    | none =>
      rw [hcon] at hold
      rw [hold]
      exact ⟨rfl, rfl, rfl⟩
    | some c =>
      rw [hcon] at hold
      have hfound := List.find?_some hcon
      simp only [Bool.and_eq_true, beq_iff_eq] at hfound
      rw [hold]
      exact ⟨hfound.1.1, hfound.1.2, hfound.2⟩
  refine runs_eq rfl (((recvColl_eq (kind := 1) h hk).trans (recvSeq_eq ho h collEffect)).trans (by rw [heff])) ?_
  have hd := groupDone_of (p := p) (k := k) (v := modRun (received s p k f n) g (withContrib st ch a (withCrate f old))) ho (modGroup_fields ..)
  refine ⟨hd.took, hd.expects, hd.cores, hd.cmds, hd.mem, ⟨withContrib st ch a (withCrate f old) r, ?_, contrib_withContrib_same hkeys r,
    fun st' ch' a' hne => contrib_withContrib_ne hkeys hne r⟩, fun i hi => ?_⟩
  · rw [hd.groups, modRun, getGroup_modGroup_same, getGroup_received, hrun]
    rfl
  · rw [hd.groups, modRun, getGroup_modGroup_ne _ hi, getGroup_received]

end

/-! ## COLLECTIVE_COMPLETE -/

section
variable {s : State} {slot g : Nat} {x : Group} {r : CollRun} {c : Cmd}

/-- A group whose collective has ended. -/
def collEnded (r : CollRun) (x : Group) : Group :=
  { x with run := none, state := if x.pendingBell.isSome then 3 else 1, grants := x.grants.filter (fun y => y.count != r.count) }

/-- How a collective that has its result ends. -/
def collResult (s : State) (r : CollRun) : EndWith :=
  { cls := Word.b2n r.poisonedOut, reason := if r.poisonedOut then 0xE1 else 0, detail32 := (collDigests s r).2.toNat % 2 ^ 32
    result := if r.op = 0x0411 then r.share else r.total }

theorem appendDigest_untrained {ctx gen : Nat} (h : isTraining s ctx gen = false) (entry : List Byte) : appendDigest s ctx gen entry = s := by
  unfold appendDigest
  exact if_pos (by rw [h]; rfl)

theorem collectiveComplete_eq
    (hg : s.groups.find? (fun e => match e.2.run with | some r => r.slot == slot | none => false) = some (g, x))
    (hrun : x.run = some r) (hf : findCmd s slot = some c)
    (hdone : r.chunks ≤ r.chunksDone.length) (hout : collOutstanding s g r.count = false) (htr : isTraining s (grpCtx x) x.gen = false) :
    collectiveComplete s slot = endCmd (modGroup s g (collEnded r)) slot (collResult s r) := by
  have hgo : ¬(decide (r.chunksDone.length < r.chunks) || collOutstanding s g r.count) = true := by
    rw [hout, Bool.or_false, decide_eq_true_eq]
    omega
  unfold collectiveComplete
  split
  · rename_i hnone
    exact absurd (hnone.symm.trans hg) (by simp)
  · rename_i g' x' hsome
    obtain ⟨rfl, rfl⟩ := Prod.mk.inj (Option.some.inj (hsome.symm.trans hg))
    rw [hrun, hf]
    refine (if_neg hgo).trans ?_
    dsimp -zeta only
    extract_lets +onlyGivenNames entry s1
    have hs1 : s1 = s := appendDigest_untrained htr entry
    rw [hs1]
    rfl

theorem collectiveComplete_ends
    (hg : s.groups.find? (fun e => match e.2.run with | some r => r.slot == slot | none => false) = some (g, x))
    (hx : getGroup s g = x) (hrun : x.run = some r) (hf : findCmd s slot = some c) (hgather : c.gather = [])
    (hdone : r.chunks ≤ r.chunksDone.length) (hout : collOutstanding s g r.count = false) (htr : isTraining s (grpCtx x) x.gen = false) :
    Runs (.collectiveComplete slot) s (fun t => t = { s with groups := t.groups, cmds := t.cmds } ∧
      getGroup t g = { x with run := none, state := if x.pendingBell.isSome then 3 else 1
                              grants := x.grants.filter (fun y => y.count != r.count) } ∧
      (∀ h, h ≠ g → getGroup t h = getGroup s h) ∧
      t.cmds = endedCmds s slot { cls := Word.b2n r.poisonedOut, reason := if r.poisonedOut then 0xE1 else 0
                                  detail32 := (collDigests s r).2.toNat % 2 ^ 32
                                  result := if r.op = 0x0411 then r.share else r.total }) := by
  have hcls : (collResult s r).cls ≤ 1 := by
    show Word.b2n r.poisonedOut ≤ 1
    cases r.poisonedOut <;> decide
  have hres : ({ cls := Word.b2n r.poisonedOut, reason := if r.poisonedOut then 0xE1 else 0, detail32 := (collDigests s r).2.toNat % 2 ^ 32
                 result := if r.op = 0x0411 then r.share else r.total } : EndWith) = collResult s r := rfl
  refine runs_eq rfl (collectiveComplete_eq hg hrun hf hdone hout htr) ?_
  rw [hres]
  generalize collResult s r = e at *
  rw [endCmd_succeeds (s := modGroup s g (collEnded r)) hf (fun _ => hgather) hcls]
  have hsame := getGroup_modGroup_same s g (collEnded r)
  have hne (h : Nat) (hh : h ≠ g) := getGroup_modGroup_ne s hh (collEnded r)
  have hfr := modGroup_fields s g (collEnded r)
  generalize modGroup s g (collEnded r) = u at *
  refine ⟨?_, ?_, hne, ?_⟩
  · rw [hfr]
  · refine Eq.trans (b := getGroup u g) rfl ?_
    rw [hsame, hx]
    rfl
  · show endedCmds u slot e = endedCmds s slot e
    rw [hfr]
    rfl

end

/-! ## Bells -/

section
variable {s : State} {g : Nat}

/-- The BELL to one chip. -/
def BellFrame (b : BellOut) (i : Item) : Prop := i.frame.typ = 0x14 ∧ i.frame.opid = b.count

/-- The BELL of group `x`, number `g`, to a chip. -/
def bellItem (s : State) (g : Nat) (b : BellOut) (x : Group) (chip : Nat) : Item :=
  let bd := (findBind s (grpCtx x) x.gen chip).getD { ctx := 0, gen := 0, chip := 0 }
  { frame := { typ := 0x14, dst := chip, src := ownChip s, ch := g % 4, dctx := bd.dctx, dgen := bd.dgen
               opid := b.count, aux := g + b.reason * 2 ^ 16 + b.ordinal * 2 ^ 24, index := b.chip } }

theorem bellItems_queued (g : Nat) (b : BellOut) (x : Group) (ms : List Nat) (s : State) : ∃ is : List Item,
    ms.foldl (fun s chip => enqueue s (bellItem s g b x chip)) s = { s with fab := { s.fab with sendq := s.fab.sendq ++ is } } ∧
      is.map (fun i => i.frame.dst) = ms ∧ ∀ i ∈ is, BellFrame b i := by
  induction ms generalizing s with
  | nil => exact ⟨[], by rw [List.append_nil]; rfl, rfl, fun _ h => (nomatch h)⟩
  | cons m ms ih =>
    rw [List.foldl_cons]
    have hdst : (bellItem s g b x m).frame.dst = m := rfl
    have hbell : BellFrame b (bellItem s g b x m) := ⟨rfl, rfl⟩
    generalize bellItem s g b x m = i at *
    obtain ⟨is, heq, hdsts, hall⟩ := ih (enqueue s i)
    refine ⟨i :: is, ?_, ?_, ?_⟩
    · refine heq.trans ?_
      rw [show i :: is = [i] ++ is from rfl, ← List.append_assoc]
      rfl
    · rw [List.map_cons, hdsts, hdst]
    · rintro j (_ | ⟨_, hj⟩)
      · exact hbell
      · exact hall j hj

theorem sendBells_sends (s : State) (g : Nat) (b : BellOut) : ∃ is : List Item,
    sendBells s g b = { s with fab := { s.fab with sendq := s.fab.sendq ++ is } } ∧ is.map (fun i => i.frame.dst) = b.members ∧
      ∀ i ∈ is, BellFrame b i :=
  bellItems_queued g b (getGroup s g) b.members s

/-- A group whose bell rings. -/
def rungGroup (b : BellOut) (x : Group) : Group :=
  { x with bellValid := true, bellChip := b.chip, bellOrdinal := b.ordinal, bellCount := b.count, bells := x.bells ++ [{ b with left := 3 }] }

theorem ringBell_rings (s : State) (g : Nat) (b : BellOut) : ∃ is : List Item,
    ringBell s g b = { modGroup s g (rungGroup b) with fab := { s.fab with sendq := s.fab.sendq ++ is } } := by
  obtain ⟨is, heq, -⟩ := sendBells_sends (modGroup s g (rungGroup b)) g b
  exact ⟨is, heq⟩

/-- A group whose run has been dropped. -/
def droppedGroup (r : CollRun) (reason : Nat) (x : Group) : Group :=
  { x with run := none, state := if x.pendingBell.isSome then 3 else 1, lastReason := reason, lastMembers := r.members, backpressure := false
           grants := x.grants.filter (fun y => y.count != r.count) }

/-- A run that is dropped, with its bell. -/
theorem dropAndRing (s : State) (g : Nat) (r : CollRun) (reason : Nat) (b : BellOut) :
    ringBell (dropRun s g r reason) g b = { s with groups := (ringBell (dropRun s g r reason) g b).groups
                                                   fab := (ringBell (dropRun s g r reason) g b).fab } ∧
      (ringBell (dropRun s g r reason) g b).fab.ports = s.fab.ports ∧
      getGroup (ringBell (dropRun s g r reason) g b) g = rungGroup b (droppedGroup r reason (getGroup s g)) ∧
      ∀ h, h ≠ g → getGroup (ringBell (dropRun s g r reason) g b) h = getGroup s h := by
  obtain ⟨F, hF, hports⟩ : ∃ F : Fab, dropRun s g r reason = modGroup { s with fab := F } g (droppedGroup r reason) ∧ F.ports = s.fab.ports :=
    ⟨_, rfl, rfl⟩
  rw [hF]
  generalize hv : modGroup { s with fab := F } g (droppedGroup r reason) = v
  have hsame : getGroup v g = droppedGroup r reason (getGroup s g) := by
    rw [← hv]
    exact getGroup_modGroup_same ..
  have hne (h : Nat) (hh : h ≠ g) : getGroup v h = getGroup s h := by
    rw [← hv]
    exact getGroup_modGroup_ne _ hh _
  have hfr : v = { s with fab := F, groups := v.groups } := by
    rw [← hv, modGroup_fields]
  obtain ⟨is, heq⟩ := ringBell_rings v g b
  have hsame' := getGroup_modGroup_same v g (rungGroup b)
  have hne' (h : Nat) (hh : h ≠ g) := getGroup_modGroup_ne v hh (rungGroup b)
  have hfr' := modGroup_fields v g (rungGroup b)
  generalize modGroup v g (rungGroup b) = w at *
  rw [heq]
  refine ⟨?_, ?_, ?_, fun h hh => ?_⟩
  · dsimp only
    rw [hfr', hfr]
  · dsimp only
    rw [hfr]
    exact hports
  · refine Eq.trans (b := getGroup w g) rfl ?_
    rw [hsame', hsame]
  · refine Eq.trans (b := getGroup w h) rfl ?_
    rw [hne' h hh, hne h hh]

/-! ## Silence -/

theorem collectiveSilence_eq {r : CollRun} {a : Nat} (hrun : (getGroup s g).run = some r) (ha : a ≠ r.ordinal)
    (hb : memberBegun (getGroup s g) r a = true) (haw : memberAwaited (getGroup s g) r a = true) :
    collectiveSilence s g a = collFailNaming s g 0x66 a := by
  unfold collectiveSilence
  extract_lets x
  have hx : x.run = some r := hrun
  rw [hx]
  refine if_pos ?_
  rw [hb, haw, bne_iff_ne.mpr ha]
  rfl

theorem collFail_ends {r : CollRun} {c : Cmd} (hrun : (getGroup s g).run = some r) (hf : findCmd s r.slot = some c) (hgather : c.gather = [])
    (hl : ∀ d ∈ queueCmds s c.queue, d.ord ≤ c.ord) (reason : Nat) :
    collFail s g reason = { s with groups := (collFail s g reason).groups, fab := (collFail s g reason).fab
                                   queues := (collFail s g reason).queues, mem := (collFail s g reason).mem
                                   stepSt := (collFail s g reason).stepSt
                                   cmds := endedCmds s r.slot { cls := 3, reason } } ∧
      (∃ b : BellOut, b.count = r.count ∧ b.chip = ownChip s ∧
        getGroup (collFail s g reason) g = rungGroup b (droppedGroup r reason (getGroup s g))) ∧
      ∀ h, h ≠ g → getGroup (collFail s g reason) h = getGroup s h := by
  obtain ⟨b, hcount, hchip, heq⟩ : ∃ b : BellOut, b.count = r.count ∧ b.chip = ownChip s ∧
      collFail s g reason = endCmd (ringBell (dropRun s g r reason) g b) r.slot { cls := 3, reason } := by
    refine ⟨{ count := r.count, reason, ordinal := r.ordinal, chip := ownChip s, left := 3, members := r.others }, rfl, rfl, ?_⟩
    unfold collFail
    rw [hrun]
    rfl
  rw [heq]
  obtain ⟨hfr, -, hsame, hne⟩ := dropAndRing s g r reason b
  generalize ringBell (dropRun s g r reason) g b = u at *
  have hfu : findCmd u r.slot = some c := by
    rw [hfr]
    exact hf
  have hlu : ∀ d ∈ queueCmds u c.queue, d.ord ≤ c.ord := by
    rw [hfr]
    exact hl
  have hend := endCmd_only hfu (fun _ => hgather) hlu { cls := 3, reason }
  have hcmds : endedCmds u r.slot { cls := 3, reason } = endedCmds s r.slot { cls := 3, reason } := by
    rw [hfr]
    rfl
  rw [hcmds] at hend
  generalize endCmd u r.slot { cls := 3, reason } = t at *
  have hg (h : Nat) : getGroup t h = getGroup u h := by
    rw [hend]
    rfl
  refine ⟨?_, ⟨b, hcount, hchip, by rw [hg, hsame]⟩, fun h hh => by rw [hg, hne h hh]⟩
  rw [hend, hfr]

theorem silence_fails {r : CollRun} {c : Cmd} {a : Nat} (hrun : (getGroup s g).run = some r) (ha : a ≠ r.ordinal)
    (hb : memberBegun (getGroup s g) r a = true) (haw : memberAwaited (getGroup s g) r a = true) (hf : findCmd s r.slot = some c)
    (hgather : c.gather = []) (hl : ∀ d ∈ queueCmds s c.queue, d.ord ≤ c.ord) :
    Runs (.collectiveSilence g a) s (fun t =>
      t = { s with groups := t.groups, fab := t.fab, queues := t.queues, mem := t.mem, stepSt := t.stepSt, events := t.events
                   cmds := endedCmds s r.slot { cls := 3, reason := 0x66 } } ∧
      (getGroup t g).run = none ∧ (getGroup t g).lastReason = 0x66 ∧ (getGroup t g).bellValid = true ∧
      (getGroup t g).bellCount = r.count ∧ (getGroup t g).bellChip = ownChip s ∧ (∀ h, h ≠ g → getGroup t h = getGroup s h)) := by
  obtain ⟨u, hu, heq⟩ : ∃ u, Raised s u ∧ collectiveSilence s g a = collFail u g 0x66 := by
    refine ⟨raiseColl s 0x66 (grpCtx (getGroup s g), (getGroup s g).gen) g a (r.members.getD a 0) r.count, raiseColl_raised ..,
      (collectiveSilence_eq hrun ha hb haw).trans ?_⟩
    unfold collFailNaming
    rw [hrun]
    rfl
  have hget (h : Nat) : getGroup u h = getGroup s h := by
    rw [hu]
    rfl
  have hcmds : endedCmds u r.slot { cls := 3, reason := 0x66 } = endedCmds s r.slot { cls := 3, reason := 0x66 } := by
    rw [hu]
    rfl
  have hchip : ownChip u = ownChip s := by
    rw [hu]
    rfl
  obtain ⟨hfr, ⟨b, hcount, hbchip, hsame⟩, hne⟩ := collFail_ends (s := u) (g := g) (r := r) (c := c) (by rw [hget]; exact hrun)
    (by rw [hu]; exact hf) hgather (by rw [hu]; exact hl) 0x66
  refine runs_eq rfl heq ?_
  generalize collFail u g 0x66 = t at *
  rw [hcmds] at hfr
  refine ⟨?_, ?_, ?_, ?_, ?_, ?_, fun h hh => by rw [hne h hh, hget]⟩
  · rw [hfr, hu]
  all_goals rw [hsame]
  · rfl
  · rfl
  · rfl
  · exact hcount
  · exact hbchip.trans hchip

/-! ## BELL frames -/

variable {p k : Nat} {f : Frame}

/-- The bell of a BELL frame. -/
def bellOf (f : Frame) (members : List Nat) : BellOut :=
  { count := f.opid, reason := f.aux / 2 ^ 16 % 2 ^ 8, ordinal := f.aux / 2 ^ 24 % 2 ^ 14, chip := f.index % 2 ^ 15, left := 3, members }

theorem bell_repeated (h : NextFrame s p 0x14 k f) (hg : frameGroup s f = some g) (hv : (getGroup s g).bellValid = true)
    (hc : (getGroup s g).bellCount = f.opid) :
    Runs (.bell p) s (fun t => t = { s with fab := t.fab, out := t.out } ∧ Took s t p k f ∧ t.fab.sendq = s.fab.sendq) := by
  have heff : bellEffect (taken s p k f) f = taken s p k f := by
    have hg' : frameGroup (taken s p k f) f = some g := hg
    unfold bellEffect
    rw [hg']
    exact if_pos (show ((getGroup s g).bellValid && (getGroup s g).bellCount == f.opid) = true by rw [hv, hc, beq_self_eq_true]; rfl)
  refine runs_eq rfl ((recvCtl_eq h bellEffect).trans heff) ⟨rfl, took_of_kept rfl rfl, rfl⟩

theorem bellEffect_running {s : State} {r : CollRun} (hg : frameGroup s f = some g) (hv : (getGroup s g).bellValid = false)
    (hrun : (getGroup s g).run = some r) (hid : r.count = f.opid) :
    bellEffect s f = endCmd (ringBell (dropRun s g r 0x65) g (bellOf f r.others)) r.slot { cls := 4, reason := 0x65 } := by
  unfold bellEffect
  rw [hg]
  dsimp -zeta only
  extract_lets +onlyGivenNames x m b others
  have hx : x.bellValid = false := hv
  have hr : x.run = some r := hrun
  rw [hx, Bool.false_and, if_neg (by decide), hr]
  exact if_pos hid

theorem bell_ends {r : CollRun} {c : Cmd} (h : NextFrame s p 0x14 k f) (hg : frameGroup s f = some g) (hv : (getGroup s g).bellValid = false)
    (hrun : (getGroup s g).run = some r) (hid : r.count = f.opid) (hf : findCmd s r.slot = some c) (hgather : c.gather = [])
    (hl : ∀ d ∈ queueCmds s c.queue, d.ord ≤ c.ord) :
    Runs (.bell p) s (fun t => Took s t p k f ∧ t.cores = s.cores ∧ t.cmds = endedCmds s r.slot { cls := 4, reason := 0x65 } ∧
      (getGroup t g).run = none ∧ (getGroup t g).lastReason = 0x65 ∧ (getGroup t g).bellValid = true ∧
      (getGroup t g).bellCount = r.count ∧ ∀ h, h ≠ g → getGroup t h = getGroup s h) := by
  refine runs_eq rfl ((recvCtl_eq h bellEffect).trans (bellEffect_running (s := taken s p k f) hg hv hrun hid)) ?_
  obtain ⟨hfr, hports, hsame, hne⟩ := dropAndRing (taken s p k f) g r 0x65 (bellOf f r.others)
  generalize ringBell (dropRun (taken s p k f) g r 0x65) g (bellOf f r.others) = u at *
  have hfu : findCmd u r.slot = some c := by
    rw [hfr]
    exact hf
  have hlu : ∀ d ∈ queueCmds u c.queue, d.ord ≤ c.ord := by
    rw [hfr]
    exact hl
  have hend := endCmd_only hfu (fun _ => hgather) hlu { cls := 4, reason := 0x65 }
  have hcmds : endedCmds u r.slot { cls := 4, reason := 0x65 } = endedCmds s r.slot { cls := 4, reason := 0x65 } := by
    rw [hfr]
    rfl
  generalize endCmd u r.slot { cls := 4, reason := 0x65 } = t at *
  have hgt (i : Nat) : getGroup t i = getGroup u i := by
    rw [hend]
    rfl
  refine ⟨took_of_kept ?_ ?_, ?_, ?_, ?_, ?_, ?_, ?_, fun i hi => by rw [hgt, hne i hi]; rfl⟩
  · rw [hend]
    exact hports
  · rw [hend, hfr]
  · rw [hend, hfr]
    rfl
  · rw [hend]
    exact hcmds
  all_goals rw [hgt, hsame]
  · rfl
  · rfl
  · rfl
  · exact hid.symm

/-- A group that a bell for its next collective waits at. -/
def bellWaits (reason : Nat) (x : Group) : Group :=
  { x with pendingBell := some reason, state := if x.run.isSome then x.state else 3 }

theorem bellEffect_waits {s : State} (hg : frameGroup s f = some g) (hv : (getGroup s g).bellValid = false)
    (hrun : (getGroup s g).run = none) (hid : (getGroup s g).count = f.opid) :
    ∃ ms, bellEffect s f = ringBell (modGroup s g (bellWaits (f.aux / 2 ^ 16 % 2 ^ 8))) g (bellOf f ms) := by
  have hd : (2 ^ 32 + (getGroup s g).count - f.opid) % 2 ^ 32 = 0 := by
    rw [hid, Nat.add_sub_cancel, Nat.mod_self]
  unfold bellEffect
  rw [hg]
  dsimp -zeta only
  extract_lets +onlyGivenNames x m b others
  have hx : x.bellValid = false := hv
  have hr : x.run = none := hrun
  rw [hx, Bool.false_and, if_neg (by decide), hr]
  unfold bellEffect.rest
  dsimp -zeta only
  extract_lets +onlyGivenNames d
  rw [if_pos (show d = 0 from hd)]
  extract_lets +onlyGivenNames ms
  exact ⟨ms, rfl⟩

theorem bell_waits (h : NextFrame s p 0x14 k f) (hg : frameGroup s f = some g) (hv : (getGroup s g).bellValid = false)
    (hrun : (getGroup s g).run = none) (hid : (getGroup s g).count = f.opid) :
    Runs (.bell p) s (fun t => Took s t p k f ∧ t.cores = s.cores ∧ t.cmds = s.cmds ∧ t.mem = s.mem ∧
      (getGroup t g).pendingBell = some (f.aux / 2 ^ 16 % 2 ^ 8) ∧ (getGroup t g).state = 3 ∧
      ∀ h, h ≠ g → getGroup t h = getGroup s h) := by
  obtain ⟨ms, heff⟩ := bellEffect_waits (s := taken s p k f) hg hv hrun hid
  refine runs_eq rfl ((recvCtl_eq h bellEffect).trans heff) ?_
  generalize f.aux / 2 ^ 16 % 2 ^ 8 = reason
  generalize bellOf f ms = b
  have hsame := getGroup_modGroup_same (taken s p k f) g (bellWaits reason)
  have hne (i : Nat) (hi : i ≠ g) := getGroup_modGroup_ne (taken s p k f) hi (bellWaits reason)
  have hfr := modGroup_fields (taken s p k f) g (bellWaits reason)
  generalize modGroup (taken s p k f) g (bellWaits reason) = v at *
  obtain ⟨is, heq⟩ := ringBell_rings v g b
  have hsame' := getGroup_modGroup_same v g (rungGroup b)
  have hne' (i : Nat) (hi : i ≠ g) := getGroup_modGroup_ne v hi (rungGroup b)
  have hfr' := modGroup_fields v g (rungGroup b)
  generalize modGroup v g (rungGroup b) = w at *
  rw [heq]
  have hg' : getGroup (taken s p k f) g = getGroup s g := rfl
  have hgt (i : Nat) : getGroup { w with fab := { v.fab with sendq := v.fab.sendq ++ is } } i = getGroup w i := rfl
  refine ⟨took_of_kept ?_ ?_, ?_, ?_, ?_, ?_, ?_, fun i hi => ?_⟩
  · rw [hfr]
  · dsimp only
    rw [hfr', hfr]
  · dsimp only
    rw [hfr', hfr]
    rfl
  · dsimp only
    rw [hfr', hfr]
    rfl
  · dsimp only
    rw [hfr', hfr]
    rfl
  · rw [hgt, hsame', hsame]
    rfl
  · rw [hgt, hsame', hsame]
    show (if (getGroup (taken s p k f) g).run.isSome then _ else 3) = 3
    rw [hg', hrun]
    rfl
  · rw [hgt, hne' i hi, hne i hi]
    rfl

/-! ## Bells again, and backpressure -/

theorem bellResend_sends {b : BellOut} {u : List BellOut} (hb : (getGroup s g).bells = b :: u) :
    Runs (.bellResend g) s (fun t => t = { s with groups := t.groups, fab := { s.fab with sendq := t.fab.sendq } } ∧
      getGroup t g = { getGroup s g with bells := if b.left = 1 then u else if b.left = 0 then u else u ++ [{ b with left := b.left - 1 }] } ∧
      (∀ h, h ≠ g → getGroup t h = getGroup s h) ∧
      ∃ is : List Item, t.fab.sendq = s.fab.sendq ++ is ∧ is.map (fun i => i.frame.dst) = b.members ∧
        ∀ i ∈ is, i.frame.typ = 0x14 ∧ i.frame.opid = b.count) := by
  have hbells : (if b.left - 1 = 0 then u else u ++ [{ b with left := b.left - 1 }]) =
      if b.left = 1 then u else if b.left = 0 then u else u ++ [{ b with left := b.left - 1 }] := by
    by_cases h1 : b.left = 1
    · rw [if_pos h1, if_pos (by omega)]
    · rw [if_neg h1]
      by_cases h0 : b.left = 0
      · rw [if_pos h0, if_pos (by omega)]
      · rw [if_neg h0, if_neg (by omega)]
  have heq : bellResend s g = sendBells (modGroup s g (fun x => { x with bells := if b.left - 1 = 0 then u else u ++ [{ b with left := b.left - 1 }] })) g b := by
    unfold bellResend
    rw [hb]
  refine runs_eq rfl heq ?_
  rw [hbells]
  generalize (if b.left = 1 then u else if b.left = 0 then u else u ++ [{ b with left := b.left - 1 }]) = bs
  have hsame := getGroup_modGroup_same s g (fun x => { x with bells := bs })
  have hne (i : Nat) (hi : i ≠ g) := getGroup_modGroup_ne s hi (fun x => { x with bells := bs })
  have hfr := modGroup_fields s g (fun x => { x with bells := bs })
  generalize modGroup s g (fun x => { x with bells := bs }) = v at *
  obtain ⟨is, heq, hdst, hall⟩ := sendBells_sends v g b
  rw [heq]
  refine ⟨?_, hsame, hne, is, ?_, hdst, hall⟩
  · rw [hfr]
  · dsimp only
    rw [hfr]

theorem groupBackpressure_set (hrun : (getGroup s g).run ≠ none) :
    Runs (.groupBackpressure g true) s (fun t => t = { s with groups := t.groups, mem := t.mem, stepSt := t.stepSt, events := t.events } ∧
      getGroup t g = { getGroup s g with backpressure := true } ∧ ∀ h, h ≠ g → getGroup t h = getGroup s h) := by
  obtain ⟨u, hu, heq⟩ : ∃ u, Raised (modGroup s g (fun x => { x with backpressure := true })) u ∧ groupBackpressure s g true = u := by
    refine ⟨raiseUnit (modGroup s g (fun x => { x with backpressure := true })) 0x0E (grpCtx (getGroup s g), (getGroup s g).gen) 0#64
      (2 + g * 2 ^ 16) none (getGroup s g).backpressure, raiseUnit_raised .., ?_⟩
    unfold groupBackpressure
    exact if_pos (Option.isSome_iff_ne_none.mpr hrun)
  refine runs_eq rfl heq ?_
  have hsame := getGroup_modGroup_same s g (fun x => { x with backpressure := true })
  have hne (i : Nat) (hi : i ≠ g) := getGroup_modGroup_ne s hi (fun x => { x with backpressure := true })
  have hfr := modGroup_fields s g (fun x => { x with backpressure := true })
  generalize modGroup s g (fun x => { x with backpressure := true }) = v at *
  have hgt (i : Nat) : getGroup u i = getGroup v i := by
    rw [hu]
    rfl
  refine ⟨?_, by rw [hgt, hsame], fun h hh => by rw [hgt, hne h hh]⟩
  rw [hu, hfr]

theorem groupBackpressure_clears :
    Runs (.groupBackpressure g false) s (fun t => t = { s with groups := t.groups } ∧
      getGroup t g = { getGroup s g with backpressure := false } ∧ ∀ h, h ≠ g → getGroup t h = getGroup s h) := by
  have heq : groupBackpressure s g false = modGroup s g (fun x => { x with backpressure := false }) := rfl
  exact runs_eq rfl heq ⟨modGroup_fields .., getGroup_modGroup_same .., fun h hh => getGroup_modGroup_ne s hh _⟩

end

/-- Settles O26: a grant or a crate changes its group alone; a collective that ends drops its run, rings its bell and ends its
command as any command ends. -/
theorem collectivesProceed : Obligations.CollectivesProceed := by
  unfold Obligations.CollectivesProceed
  refine ⟨fun s p k f n x g y ho h hk hc hg hrun hid hy hnew => grant_held ho h hk hc hg hrun hid hy hnew,
    fun s p k f n x g r st ch a old ho h hk hc hg hrun hid hst hch ha hold hmem hidx hlast hmore hf hp hfmt =>
      data_taken ho h hk hc hg hrun hid hst hch ha hold hmem hidx hlast hmore hf hp hfmt,
    fun s slot g x r c hg hx hrun hf hgather _ hdone hout htr => collectiveComplete_ends hg hx hrun hf hgather hdone hout htr,
    fun s g a r c hrun ha hb haw hf hgather _ hl => silence_fails hrun ha hb haw hf hgather hl,
    fun s p k f g x h hg hx => ?_, fun s g b u hb => bellResend_sends hb, fun s g => ⟨groupBackpressure_set, groupBackpressure_clears⟩⟩
  subst hx
  exact ⟨bell_repeated h hg, fun r c hv hrun hid hf hgather _ hl => bell_ends h hg hv hrun hid hf hgather hl, bell_waits h hg⟩

end Sys2Proof.Machine
end

section
/-! # FRAME_SEND and FLIT_RECEIVE (11/R356-R362, R371, R374) -/

namespace Sys2Proof.Machine

/-! ## FRAME_SEND -/

section
variable {s : State} {p lane k w : Nat} {i : Item} {x : Port}

/-- The state without frame `k` of those that wait. -/
def withoutFrame (s : State) (k : Nat) : State := modFab s (fun f => { f with sendq := f.sendq.eraseIdx k })

/-- A port that spends credits of a lane on a frame. -/
def spentPort (lane w : Nat) (resend : Bool) (x : Port) : Port :=
  { x with credits := lset x.credits lane (x.credits.getD lane 0 - w), retransmits := if resend then satAdd 32 x.retransmits 1 else x.retransmits }

/-- The state in which a frame leaves. -/
def leavesState (s : State) (p lane k w : Nat) (resend : Bool) : State := modPort (withoutFrame s k) p (spentPort lane w resend)

theorem leavesState_frame (resend : Bool) : leavesState s p lane k w resend =
    { s with fab := { s.fab with sendq := s.fab.sendq.eraseIdx k, ports := (leavesState s p lane k w resend).fab.ports } } := rfl

theorem leavesState_port (resend : Bool) : getPort (leavesState s p lane k w resend) p = spentPort lane w resend (getPort s p) := by
  rw [leavesState, getPort_modPort_same]
  rfl

theorem spentPort_credits (resend : Bool) (hl : lane < x.credits.length) : (spentPort lane w resend x).credits.getD lane 0 = x.credits.getD lane 0 - w := by
  show (lset x.credits lane (x.credits.getD lane 0 - w)).getD lane 0 = _
  rw [getD_lset, if_pos ⟨rfl, hl⟩]

/-- What a frame that may leave does. -/
def leaves (s : State) (p k lane : Nat) (i : Item) : State :=
  let s := leavesState s p lane k (frameWords i.frame) i.resend
  match i.relay with
  | some r => emit (emit s (.frame p i.frame)) (.credits r.port r.lane (frameWords i.frame))
  | none =>
    if !frameSeq i.frame.typ then emit s (.frame p i.frame)
    else match sessionOf s i.frame.dst with
      | none => s
      | some n =>
        let i := if i.resend && itemDead s i.ctx then { i with frame := voidOf i.frame } else i
        emit (takeSeq s n p i).1 (.frame p (takeSeq s n p i).2)

theorem frameSend_leaves (h : nextFrame s p lane 0 [] s.fab.sendq = some (k, i)) (he : (egress s i).isSome = true)
    (ht : (getPort s p).trained = true) (hst : (getPort s p).state = 2 ∨ i.port.isSome = true)
    (hw : frameWords i.frame ≤ (getPort s p).credits.getD lane 0)
    (hb : i.relay = none → frameSeq i.frame.typ = true → i.resend = false → replayBytes s p + 64 * frameWords i.frame ≤ 2097152) :
    frameSend s p lane = leaves s p k lane i := by
  obtain ⟨q, hq⟩ := Option.isSome_iff_exists.mp he
  have hgo : ¬(!((getPort s p).trained && ((getPort s p).state == 2 || i.port.isSome)) || decide ((getPort s p).credits.getD lane 0 < frameWords i.frame) ||
      ((i.relay.isNone && frameSeq i.frame.typ) && !i.resend && decide (2097152 < replayBytes s p + 64 * frameWords i.frame))) = true := by
    have hup : ((getPort s p).state == 2 || i.port.isSome) = true := by
      rw [Bool.or_eq_true, beq_iff_eq]
      exact hst
    rw [ht, hup, Bool.and_self, Bool.not_true, Bool.false_or, Bool.or_eq_true, decide_eq_true_eq, Bool.and_eq_true, Bool.and_eq_true,
      Bool.and_eq_true, decide_eq_true_eq, Option.isNone_iff_eq_none, Bool.not_eq_true']
    rintro (hlt | ⟨⟨⟨h1, h2⟩, h3⟩, h4⟩)
    · omega
    · have := hb h1 h2 h3
      omega
  unfold frameSend
  rw [h]
  dsimp -zeta only
  extract_lets +onlyGivenNames x w own drop
  rw [hq]
  dsimp -zeta only
  refine (if_neg hgo).trans ?_
  unfold leaves
  cases hrel : i.relay with
  | some r => rfl
  | none =>
    have hown : own = frameSeq i.frame.typ := by
      show (i.relay.isNone && frameSeq i.frame.typ) = _
      rw [hrel]
      rfl
    rw [hown]
    rfl

/-- A frame as its session numbers it. -/
def numbered (y : Session) (f : Frame) : Frame := { f with sid := y.sid, seq := (chanOf y f.ch).next }

/-- A channel that sends a frame. -/
def sentOn (i : Item) (f : Frame) (p time : Nat) (c : SChan) : SChan :=
  { c with next := (c.next + frameWords f) % 2 ^ 32, unacked := c.unacked ++ [{ frame := f, ctx := i.ctx, op := i.op, port := p, time }] }

/-- A session that sends a frame on one of its channels. -/
def sentSession (i : Item) (f : Frame) (p time : Nat) (y : Session) : Session :=
  { modChanOf y f.ch (sentOn i f p time) with lastUse := time }

theorem takeSeq_new {s : State} {n : Nat} {y : Session} (hy : getSession s n = some y) (hr : i.resend = false) :
    takeSeq s n p i = (modSession s n (sentSession i (numbered y i.frame) p s.time.toNat), numbered y i.frame) := by
  unfold takeSeq
  rw [hy]
  dsimp -zeta only
  extract_lets +onlyGivenNames c
  refine (if_neg (by rw [hr]; decide)).trans ?_
  refine Prod.ext ?_ rfl
  show modSession s n _ = modSession s n _
  unfold modSession
  rw [hy]
  rfl

theorem leaves_sequenced {n : Nat} {y : Session} (hrel : i.relay = none) (hseq : frameSeq i.frame.typ = true) (hr : i.resend = false)
    (hn : sessionOf s i.frame.dst = some n) (hy : getSession s n = some y) :
    leaves s p k lane i = emit (modSession (leavesState s p lane k (frameWords i.frame) false) n
      (sentSession i (numbered y i.frame) p s.time.toNat)) (.frame p (numbered y i.frame)) := by
  unfold leaves
  rw [hrel, hr, hseq]
  dsimp -zeta only
  extract_lets +onlyGivenNames v
  have hv : sessionOf v i.frame.dst = some n := hn
  have hvy : getSession v n = some y := hy
  rw [hv]
  dsimp only
  rw [Bool.false_and, if_neg (by decide), if_neg (by decide), takeSeq_new hvy hr]
  rfl

theorem frameSend_sequenced {n : Nat} {y : Session} (h : nextFrame s p lane 0 [] s.fab.sendq = some (k, i)) (he : (egress s i).isSome = true)
    (hw : w = frameWords i.frame) (hx : x = getPort s p)
    (ht : x.trained = true) (hst : x.state = 2 ∨ i.port.isSome = true)
    (hwl : w ≤ x.credits.getD lane 0) (hl : lane < x.credits.length)
    (hrel : i.relay = none) (hseq : frameSeq i.frame.typ = true) (hr : i.resend = false)
    (hn : sessionOf s i.frame.dst = some n) (hy : getSession s n = some y) (hch : i.frame.ch < y.chans.length)
    (hbytes : replayBytes s p + 64 * w ≤ 2097152) :
    Runs (.frameSend p lane) s (fun t => t = { s with fab := t.fab, out := t.out } ∧
      t.fab.sendq = s.fab.sendq.eraseIdx k ∧
      t.out = s.out ++ [.frame p { i.frame with sid := y.sid, seq := (chanOf y i.frame.ch).next }] ∧
      (getPort t p).credits.getD lane 0 = x.credits.getD lane 0 - w ∧
      ∃ z, getSession t n = some z ∧ (chanOf z i.frame.ch).next = ((chanOf y i.frame.ch).next + w) % 2 ^ 32 ∧
        ∃ u, (chanOf z i.frame.ch).unacked = (chanOf y i.frame.ch).unacked ++ [u] ∧
          u.frame = { i.frame with sid := y.sid, seq := (chanOf y i.frame.ch).next } ∧ u.port = p) := by
  subst hx hw
  refine runs_eq rfl ((frameSend_leaves h he ht hst hwl fun _ _ _ => hbytes).trans (leaves_sequenced hrel hseq hr hn hy)) ?_
  have hfr := leavesState_frame (s := s) (p := p) (lane := lane) (k := k) (w := frameWords i.frame) false
  have hport := leavesState_port (s := s) (p := p) (lane := lane) (k := k) (w := frameWords i.frame) false
  have hcred := spentPort_credits (w := frameWords i.frame) false hl
  generalize leavesState s p lane k (frameWords i.frame) false = v at *
  have hvy : getSession v n = some y := by
    rw [hfr]
    exact hy
  have hz := getSession_modSession hvy (sentSession i (numbered y i.frame) p s.time.toNat)
  have hchan : chanOf (sentSession i (numbered y i.frame) p s.time.toNat y) i.frame.ch =
      sentOn i (numbered y i.frame) p s.time.toNat (chanOf y i.frame.ch) := chanOf_modChanOf hch _
  have hws : frameWords (numbered y i.frame) = frameWords i.frame := rfl
  have hnum : numbered y i.frame = { i.frame with sid := y.sid, seq := (chanOf y i.frame.ch).next } := rfl
  rw [← hnum]
  generalize numbered y i.frame = f at *
  generalize hzz : sentSession i f p s.time.toNat = g at *
  have hvf := modSession_frame v n g
  generalize modSession v n g = u at *
  refine ⟨?_, ?_, ?_, ?_, g y, hz, ?_, ?_⟩
  · show { u with out := u.out ++ [Out.frame p f] } = _
    rw [hvf, hfr]
    rfl
  · show u.fab.sendq = _
    rw [hvf, hfr]
  · show u.out ++ [Out.frame p f] = _
    rw [hvf, hfr]
  · have hpu : getPort (emit u (.frame p f)) p = getPort v p := by
      show tget {} u.fab.ports p = tget {} v.fab.ports p
      rw [hvf]
    rw [hpu, hport]
    exact hcred
  · rw [hchan, sentOn, hws]
  · rw [hchan]
    exact ⟨_, rfl, rfl, rfl⟩

theorem frameSend_unsequenced (h : nextFrame s p lane 0 [] s.fab.sendq = some (k, i)) (he : (egress s i).isSome = true)
    (hw : w = frameWords i.frame) (hx : x = getPort s p)
    (ht : x.trained = true) (hst : x.state = 2 ∨ i.port.isSome = true)
    (hwl : w ≤ x.credits.getD lane 0) (hl : lane < x.credits.length) (hun : i.relay.isSome = true ∨ frameSeq i.frame.typ = false) :
    Runs (.frameSend p lane) s (fun t => t = { s with fab := t.fab, out := t.out } ∧
      t.fab.sendq = s.fab.sendq.eraseIdx k ∧ Out.frame p i.frame ∈ t.out ∧
      (getPort t p).credits.getD lane 0 = x.credits.getD lane 0 - w ∧
      ∀ r, i.relay = some r → Out.credits r.port r.lane w ∈ t.out) := by
  subst hx hw
  have hgo := frameSend_leaves h he ht hst hwl fun h1 h2 _ => by
    rw [h1, h2] at hun
    exact hun.elim (nomatch ·) (nomatch ·)
  have hport := leavesState_port (s := s) (p := p) (lane := lane) (k := k) (w := frameWords i.frame) i.resend
  have hcred := spentPort_credits (w := frameWords i.frame) i.resend hl
  unfold leaves at hgo
  cases hrel : i.relay with
  | some r =>
    rw [hrel] at hgo
    refine runs_eq rfl hgo ⟨rfl, rfl, ?_, (congrArg (fun x : Port => x.credits.getD lane 0) hport).trans hcred, fun r' hr' => ?_⟩
    · exact List.mem_append_left _ (List.mem_append_right _ (List.mem_singleton_self _))
    · cases hr'
      exact List.mem_append_right _ (List.mem_singleton_self _)
  | none =>
    rw [hrel] at hun hgo
    have hseq : frameSeq i.frame.typ = false := hun.resolve_left (nomatch ·)
    rw [hseq] at hgo
    refine runs_eq rfl hgo ⟨rfl, rfl, ?_, (congrArg (fun x : Port => x.credits.getD lane 0) hport).trans hcred, fun r' hr' => (nomatch hr')⟩
    exact List.mem_append_right _ (List.mem_singleton_self _)

end

/-! ## FLIT_RECEIVE -/

section
variable {s : State} {p : Nat} {b : List Byte} {x : Port}

/-- A port with a flit that cannot be corrected. -/
def uncorrected (x : Port) : Port := { x with uncorrCw := satAdd 32 x.uncorrCw 1 }
/-- A port that loses a flit. -/
def lostFlit (x : Port) : Port :=
  { x with flitFail := satAdd 16 x.flitFail 1, synced := false, partialFrame := [], rxSeq := x.rxSeq.map (fun n => (n + 1) % 2 ^ 16) }

theorem lostFlit_uncorrected (x : Port) : lostFlit (uncorrected x) =
    { x with uncorrCw := min (x.uncorrCw + 1) (2 ^ 32 - 1), flitFail := min (x.flitFail + 1) (2 ^ 16 - 1)
             synced := false, partialFrame := [], rxSeq := x.rxSeq.map (fun n => (n + 1) % 2 ^ 16) } := by
  simp only [lostFlit, uncorrected, satAdd]

/-- A port serves a flit of its length. -/
theorem flit_served (ht : (getPort s p).trained = true) (hl : b.length = 640) : ¬(!(getPort s p).trained || b.length != 640) = true := by
  rw [ht, hl]
  decide

theorem flitReceive_uncorrectable (hx : x = getPort s p) (ht : x.trained = true) (hl : b.length = 640) :
    Runs (.flitReceive p none b) s (fun t => t = { s with fab := { s.fab with ports := t.fab.ports }, out := s.out ++ [.discarded p] } ∧
      (∀ q, q ≠ p → getPort t q = getPort s q) ∧
      getPort t p = { x with uncorrCw := min (x.uncorrCw + 1) (2 ^ 32 - 1), flitFail := min (x.flitFail + 1) (2 ^ 16 - 1)
                             synced := false, partialFrame := [], rxSeq := x.rxSeq.map (fun n => (n + 1) % 2 ^ 16) }) := by
  subst hx
  have heq : flitReceive s p none b = emit (modPort (modPort s p uncorrected) p lostFlit) (.discarded p) := by
    unfold flitReceive
    extract_lets +onlyGivenNames y
    exact if_neg (flit_served ht hl)
  refine runs_eq rfl heq ?_
  rw [← lostFlit_uncorrected]
  generalize uncorrected = g
  generalize lostFlit = h
  have hport (q : Nat) : getPort (emit (modPort (modPort s p g) p h) (.discarded p)) q = getPort (modPort (modPort s p g) p h) q := rfl
  refine ⟨rfl, fun q hq => ?_, ?_⟩
  · rw [hport, getPort_modPort_ne _ hq, getPort_modPort_ne _ hq]
  · rw [hport, getPort_modPort_same, getPort_modPort_same]

/-- A port whose flit was corrected. -/
def correctedPort (n : Nat) (x : Port) : Port := { x with corrSymbols := satAdd 32 x.corrSymbols n }
/-- A port that takes a flit with its credits. -/
def creditedPort (fseq lane cr : Nat) (x : Port) : Port :=
  { x with rxSeq := some ((fseq + 1) % 2 ^ 16), credits := lset x.credits lane (x.credits.getD lane 0 + cr) }
/-- A port in whose flit no frame begins. -/
def quietPort (x : Port) : Port := { x with partialFrame := [], synced := true && (x.synced || false) }

theorem flitReceive_good {n : Nat} (ht : (getPort s p).trained = true) (hl : b.length = 640) (hn : n ≤ 15)
    (hcrc : leAt b 632 8 = (Crc.crc64 (b.take 632)).toNat) (hseq : (getPort s p).rxSeq = none ∨ (getPort s p).rxSeq = some (leAt b 0 2))
    (hsync : (getPort s p).synced = false) (hfirst : 624 ≤ leAt b 6 2) :
    flitReceive s p (some n) b = modPort (modPort (modPort s p (correctedPort n)) p
      (creditedPort (leAt b 0 2) (leAt b 4 2 / 2 ^ 12 % 8) (leAt b 4 2 % 2 ^ 12))) p quietPort := by
  have hnum : ¬(match (getPort s p).rxSeq with | some n => n != leAt b 0 2 | none => false) = true := by
    obtain h | h := hseq <;> simp [h]
  unfold flitReceive
  extract_lets +onlyGivenNames y
  rw [if_neg (flit_served ht hl)]
  dsimp -zeta only
  rw [if_neg (show ¬15 < n by omega)]
  extract_lets +onlyGivenNames v fseq
  rw [if_neg (Classical.not_not.mpr hcrc)]
  refine (if_neg hnum).trans ?_
  extract_lets +onlyGivenNames first lane cr area buf u
  have hbuf : buf = [] := by
    show (if y.synced then _ else if first < 624 then _ else []) = []
    rw [show y.synced = false from hsync, if_neg (by decide), if_neg (show ¬first < 624 from Nat.not_lt.mpr hfirst)]
  have hcut : cutFrames p 80 buf u = (u, [], true) := by
    rw [hbuf]
    rfl
  rw [hcut]
  dsimp -zeta only
  rw [decide_eq_false (Nat.not_lt.mpr hfirst)]
  rfl

theorem flitReceive_credits {n lane cr : Nat} (hx : x = getPort s p) (ht : x.trained = true) (hl : b.length = 640) (hn : n ≤ 15)
    (hcrc : leAt b 632 8 = (Crc.crc64 (b.take 632)).toNat) (hseq : x.rxSeq = none ∨ x.rxSeq = some (leAt b 0 2))
    (hsync : x.synced = false) (hfirst : 624 ≤ leAt b 6 2) (hlane : lane = leAt b 4 2 / 2 ^ 12 % 8) (hcr : cr = leAt b 4 2 % 2 ^ 12)
    (hlen : x.credits.length = 8) :
    Runs (.flitReceive p (some n) b) s (fun t => t = { s with fab := { s.fab with ports := t.fab.ports } } ∧
      (∀ q, q ≠ p → getPort t q = getPort s q) ∧
      (getPort t p).rxSeq = some ((leAt b 0 2 + 1) % 2 ^ 16) ∧ (getPort t p).rx = x.rx ∧
      (getPort t p).credits.getD lane 0 = x.credits.getD lane 0 + cr ∧
      (getPort t p).corrSymbols = min (x.corrSymbols + n) (2 ^ 32 - 1)) := by
  subst hx
  have heq := flitReceive_good ht hl hn hcrc hseq hsync hfirst
  rw [← hlane, ← hcr] at heq
  have hlt : lane < (getPort s p).credits.length := by omega
  generalize leAt b 0 2 = fseq at *
  have hget : getPort (modPort (modPort (modPort s p (correctedPort n)) p (creditedPort fseq lane cr)) p quietPort) p =
      quietPort (creditedPort fseq lane cr (correctedPort n (getPort s p))) := by
    rw [getPort_modPort_same, getPort_modPort_same, getPort_modPort_same]
  refine runs_eq rfl heq ?_
  rw [hget]
  refine ⟨?_, fun q hq => by rw [getPort_modPort_ne _ hq, getPort_modPort_ne _ hq, getPort_modPort_ne _ hq], rfl, rfl, ?_, ?_⟩
  · generalize correctedPort n = g
    generalize creditedPort fseq lane cr = h
    rfl
  · show (lset (getPort s p).credits lane ((getPort s p).credits.getD lane 0 + cr)).getD lane 0 = _
    rw [getD_lset, if_pos ⟨rfl, hlt⟩]
  · show satAdd 32 (getPort s p).corrSymbols n = _
    rw [satAdd]

end

end Sys2Proof.Machine
end

section
/-! # PFABRIC (06/R181, R182) -/

namespace Sys2Proof.Machine

/-! ## A frame of a transfer towards a bound chip -/

section
variable {s : State} {ctx gen n : Nat} {op : Option Nat} {f : Frame} {x : Session} {b : Binding}

/-- The frame of a bound context as it waits. -/
def boundFrame (s : State) (ctx gen : Nat) (op : Option Nat) (b : Binding) (f : Frame) : Item :=
  { frame := { f with src := ownChip s, dctx := b.dctx, dgen := b.dgen }, ctx := some (ctx, gen), op }

theorem sendCtx_bound (hc : s.fab.chip.isSome = true) (hb : findBind s ctx gen f.dst = some b) (hst : b.state = 1)
    (hn : sessionOf s f.dst = some n) (hx : getSession s n = some x) (hs : x.state = 1 ∨ x.state = 2) :
    sendCtx s ctx gen op f = (enqueue (markUsed s ctx gen f.dst f.ch) (boundFrame s ctx gen op b f), none) := by
  have hchip : ¬s.fab.chip = none := by
    intro h
    rw [h] at hc
    cases hc
  have hown : ownChip (markUsed s ctx gen f.dst f.ch) = ownChip s := by
    unfold ownChip
    rw [(markUsed_queued s ctx gen f.dst f.ch).only]
  unfold sendCtx
  rw [if_neg hchip]
  extract_lets +onlyGivenNames f'
  have hdst : f'.dst = f.dst := rfl
  rw [hdst, hb]
  dsimp -zeta only
  rw [if_neg (by rw [hst]; decide), useSession_stands hn hx hs]
  dsimp -zeta only
  extract_lets +onlyGivenNames u
  rw [if_pos hst]
  rfl

theorem sendCtx_sends (hc : s.fab.chip.isSome = true) (hb : findBind s ctx gen f.dst = some b) (hst : b.state = 1)
    (hn : sessionOf s f.dst = some n) (hx : getSession s n = some x) (hs : x.state = 1 ∨ x.state = 2) :
    ∃ t, sendCtx s ctx gen op f = (t, none) ∧ t = { s with fab := { s.fab with used := t.fab.used, sendq := t.fab.sendq } } ∧
      t.fab.sendq = s.fab.sendq ++ [boundFrame s ctx gen op b f] := by
  refine ⟨_, sendCtx_bound hc hb hst hn hx hs, ?_, ?_⟩
  · have hm : markUsed s ctx gen f.dst f.ch = { s with fab := { s.fab with used := (markUsed s ctx gen f.dst f.ch).fab.used } } := by
      unfold markUsed modFab
      dsimp only
      split <;> rfl
    generalize boundFrame s ctx gen op b f = i
    generalize markUsed s ctx gen f.dst f.ch = u at *
    show { u with fab := { u.fab with sendq := u.fab.sendq ++ [i] } } = _
    rw [hm]
    rfl
  · have hq : (markUsed s ctx gen f.dst f.ch).fab.sendq = s.fab.sendq := by
      unfold markUsed modFab
      dsimp only
      split <;> rfl
    show (markUsed s ctx gen f.dst f.ch).fab.sendq ++ _ = _
    rw [hq]

end

/-! ## A transfer in flight -/

/-- The transfers in flight have the entry `x` of the instruction `w` with the operation `id`. -/
def HasEntry (w : W128) (x id : Nat) (moved : Bool) (l : List Transfer) : Prop :=
  ∃ y ∈ l, y.id = x ∧ y.instr = w ∧ y.moved = moved ∧ y.ops = [id]

theorem HasEntry.map {w : W128} {x id : Nat} {m m' : Bool} {l : List Transfer} (h : HasEntry w x id m l) {g : Transfer → Transfer}
    (hg : ∀ y, (g y).id = y.id ∧ (g y).instr = y.instr ∧ (g y).ops = y.ops) (hm : ∀ y, (g y).moved = m') :
    HasEntry w x id m' (l.map (fun t => if t.id = x then g t else t)) := by
  obtain ⟨y, hy, h1, h2, h3, h4⟩ := h
  obtain ⟨g1, g2, g3⟩ := hg y
  exact ⟨g y, List.mem_map.mpr ⟨y, hy, if_pos h1⟩, by rw [g1, h1], by rw [g2, h2], hm y, by rw [g3, h4]⟩

/-- `t` is `s` with the transfer `x` of the instruction `w` in flight on a core, as the operation `id`. -/
structure Flight (s t : State) (core : Nat) (w : W128) (x id : Nat) (moved : Bool) (bins : List Bin) : Prop where
  only : t = { s with cores := t.cores, fab := { s.fab with ops := t.fab.ops, nextOp := t.fab.nextOp, used := t.fab.used, sendq := t.fab.sendq } }
  others : ∀ k, k ≠ core → getCore t k = getCore s k
  bins : (getCore t core).bins = bins
  entry : HasEntry w x id moved (getCore t core).inflight

section
variable {s t : State} {core x id : Nat} {w : W128} {m : Bool} {bins : List Bin} {o : Op}

theorem Flight.mem (h : Flight s t core w x id m bins) : t.mem = s.mem := by rw [h.only]

theorem Flight.withOps (h : Flight s t core w x id m bins) (y : Option Op) : Flight s (setOp t id y) core w x id m bins :=
  ⟨by rw [h.only]; rfl, h.others, h.bins, h.entry⟩

theorem getOp_modOp {s : State} {id : Nat} {o : Op} (h : getOp s id = some o) (g : Op → Op) : getOp (modOp s id g) id = some (g o) := by
  rw [modOp, getOp_setOp, if_pos rfl, h]
  rfl

theorem Flight.sent {n : Nat} {y : Session} {b : Binding} {f : Frame} {ctx gen : Nat} (h : Flight s t core w x id m bins)
    (ho : getOp t id = some o) (hc : s.fab.chip.isSome = true) (hb : findBind s ctx gen f.dst = some b) (hst : b.state = 1)
    (hn : sessionOf s f.dst = some n) (hy : getSession s n = some y) (hs : y.state = 1 ∨ y.state = 2) (g : Op → Op) :
    ∃ r, sendCtx (modOp t id g) ctx gen (some id) f = (r, none) ∧ Flight s r core w x id m bins ∧ getOp r id = some (g o) ∧
      r.fab.sendq = t.fab.sendq ++ [boundFrame s ctx gen (some id) b f] := by
  have hg : Flight s (modOp t id g) core w x id m bins := h.withOps _
  have hgo := getOp_modOp ho g
  have hsendq : (modOp t id g).fab.sendq = t.fab.sendq := rfl
  generalize modOp t id g = v at *
  have hchip : v.fab.chip = s.fab.chip := by rw [hg.only]
  have hbinds : v.fab.binds = s.fab.binds := by rw [hg.only]
  have hsess : v.fab.sessions = s.fab.sessions := by rw [hg.only]
  have hframe : boundFrame v ctx gen (some id) b f = boundFrame s ctx gen (some id) b f := by
    unfold boundFrame ownChip
    rw [hchip]
  obtain ⟨r, heq, hr, hq⟩ := sendCtx_sends (s := v) (op := some id) (by rw [hchip]; exact hc) (by unfold findBind; rw [hbinds]; exact hb) hst
    (by unfold sessionOf; rw [hsess]; exact hn) (by unfold getSession; rw [hsess]; exact hy) hs
  refine ⟨r, heq, ⟨?_, fun k hk => ?_, ?_, ?_⟩, ?_, ?_⟩
  · rw [hr, hg.only]
  · rw [hr]
    exact hg.others k hk
  · rw [hr]
    exact hg.bins
  · rw [hr]
    exact hg.entry
  · rw [hr]
    exact hgo
  · rw [hq, hframe, hsendq]

theorem handedOver_eq (ho : getOp t id = some o) (hl : o.left ≠ 0) :
    handedOver t core x id = modOp (modTransfer t core x (fun t => { t with moved := true })) id (fun o => { o with all := true }) := by
  have ho' : getOp (modTransfer t core x (fun t => { t with moved := true })) id = some o := ho
  unfold handedOver
  extract_lets +onlyGivenNames v
  have hv : getOp v id = some o := ho'
  rw [hv]
  exact if_neg hl

theorem getCore_modTransfer (s : State) (core x : Nat) (g : Transfer → Transfer) :
    (getCore (modTransfer s core x g) core).bins = (getCore s core).bins ∧
      (getCore (modTransfer s core x g) core).inflight = (getCore s core).inflight.map (fun t => if t.id = x then g t else t) ∧
      ∀ k, k ≠ core → getCore (modTransfer s core x g) k = getCore s k := by
  unfold modTransfer
  refine ⟨?_, ?_, fun k hk => getCore_modCore_ne s hk _⟩
  · rw [getCore_modCore_same]
  · rw [getCore_modCore_same]

theorem Flight.handed (h : Flight s t core w x id m bins) (ho : getOp t id = some o) (hl : o.left ≠ 0) :
    Flight s (handedOver t core x id) core w x id true bins ∧ getOp (handedOver t core x id) id = some { o with all := true } ∧
      (handedOver t core x id).fab.sendq = t.fab.sendq := by
  rw [handedOver_eq ho hl]
  obtain ⟨hb, hi, hk⟩ := getCore_modTransfer t core x (fun t => { t with moved := true })
  have ho' : getOp (modTransfer t core x (fun t => { t with moved := true })) id = some o := ho
  have hfr : modTransfer t core x (fun t => { t with moved := true }) =
    { t with cores := (modTransfer t core x (fun t => { t with moved := true })).cores } := rfl
  generalize modTransfer t core x (fun t => { t with moved := true }) = v at *
  have hv : Flight s v core w x id true bins := by
    refine ⟨?_, fun k hk' => (hk k hk').trans (h.others k hk'), hb.trans h.bins, ?_⟩
    · rw [hfr, h.only]
    · rw [hi]
      exact h.entry.map (fun _ => ⟨rfl, rfl, rfl⟩) (fun _ => rfl)
  refine ⟨hv.withOps _, getOp_modOp ho' _, ?_⟩
  show v.fab.sendq = _
  rw [hfr]

/-- A core that releases a slot of a bin. -/
def releasedCore (b : Nat) (c : Core) : Core := { c with bins := releasedBins b 1 c.bins }

theorem release_eq {c : Core} {b : Nat} (h : 1 ≤ (getBin c b).occ) : release c b = some (releasedCore b c) := by
  unfold release
  dsimp only
  rw [if_neg (by omega)]
  rfl

theorem Flight.released {b : Nat} (h : Flight s t core w x id m bins) (ho : getOp t id = some o) (hb : 1 ≤ (bins.getD b {}).occ) :
    ∃ r, implicitRelease t core b = .ok r ∧ Flight s r core w x id m (releasedBins b 1 bins) ∧ getOp r id = some o ∧
      r.fab.sendq = t.fab.sendq := by
  have hrel : release (getCore t core) b = some (releasedCore b (getCore t core)) := release_eq (by rw [getBin, h.bins]; exact hb)
  refine ⟨setCore t core (releasedCore b (getCore t core)), ?_, ⟨?_, fun k hk => ?_, ?_, ?_⟩, ho, rfl⟩
  · unfold implicitRelease
    rw [hrel]
  · generalize releasedCore b (getCore t core) = c
    rw [h.only]
    rfl
  · rw [getCore_setCore, if_neg hk]
    exact h.others k hk
  · rw [getCore_setCore, if_pos rfl, releasedCore, h.bins]
  · rw [getCore_setCore, if_pos rfl]
    exact h.entry

/-! ## What is sent -/

theorem fabricGo_one {n : Nat} {y : Session} {b : Binding} {ctx gen left : Nat} {f : Frame} (h : Flight s t core w x id false bins)
    (ho : getOp t id = some o) (hdir : Ins.bits w 87 86 = 1 ∧ left = Ins.bits w 79 69 + 1 ∧ f = { typ := 0x03, addr := Ins.bits w 51 22 * 4096, aux := Ins.bits w 79 69 } ∨
      Ins.bits w 87 86 = 3 ∧ left = 1 ∧ f = { typ := 0x05, addr := Ins.bits w 37 22, aux := Ins.bits w 79 69 + 1 })
    (hc : s.fab.chip.isSome = true) (hb : findBind s ctx gen (Ins.bits w 66 52) = some b) (hst : b.state = 1)
    (hn : sessionOf s (Ins.bits w 66 52) = some n) (hy : getSession s n = some y) (hs : y.state = 1 ∨ y.state = 2) :
    ∃ r, fabricGo t core x id 0 w (ctx, gen) = .all r ∧ Flight s r core w x id true bins ∧
      getOp r id = some { o with left := left, all := true } ∧ r.fab.sendq = t.fab.sendq ++ [boundFrame s ctx gen (some id) b
        { f with last := true, dst := Ins.bits w 66 52, ch := Ins.bits w 68 67, opid := id }] := by
  have hleft : left ≠ 0 := by
    obtain ⟨-, h, -⟩ | ⟨-, h, -⟩ := hdir <;> omega
  obtain ⟨v, heq, hv, hov, hqv⟩ := h.sent (f := { f with last := true, dst := Ins.bits w 66 52, ch := Ins.bits w 68 67, opid := id }) ho hc hb hst hn hy hs
    (fun o => { o with left := left })
  obtain ⟨hr, hor, hqr⟩ := hv.handed hov hleft
  refine ⟨handedOver v core x id, ?_, hr, hor, hqr.trans hqv⟩
  unfold fabricGo
  extract_lets +onlyGivenNames n' dir one
  have hone : one f left = .all (handedOver v core x id) := by
    show (match sendCtx _ _ _ _ _ with | (s, some r) => FabRun.failed r 0 s | (s, none) => .all (handedOver s core x id)) = _
    rw [heq]
  obtain ⟨hd, hl, hf⟩ | ⟨hd, hl, hf⟩ := hdir
  · rw [if_pos (show dir = 1 from hd)]
    subst hl hf
    exact hone
  · rw [if_neg (show ¬dir = 1 by rw [show dir = 3 from hd]; decide), if_pos (show dir = 3 from hd)]
    subst hl hf
    exact hone

/-- The frame of the one crate of a put. -/
def putFrame (m : Mem) (w : W128) (id loc : Nat) : Frame :=
  { typ := if Ins.bits w 87 86 = 2 then 0x02 else 0x01, last := true, dst := Ins.bits w 66 52, ch := Ins.bits w 68 67, opid := id
    addr := (Ins.bits w 51 22 + 0) * 4096, index := 0, data := crateData (crateTag m loc) (crateBytes m loc) }

theorem putCrates_one {n loc : Nat} {y : Session} {b : Binding} {ctx gen : Nat} (h : Flight s t core w x id m bins)
    (ho : getOp t id = some o) (hok : MoveOk s loc) (hfmt : Ins.bits w 87 86 = 2 → Tag.fmt (crateTag s.mem loc) = Fmt.fp32)
    (hc : s.fab.chip.isSome = true) (hb : findBind s ctx gen (Ins.bits w 66 52) = some b) (hst : b.state = 1)
    (hn : sessionOf s (Ins.bits w 66 52) = some n) (hy : getSession s n = some y) (hs : y.state = 1 ∨ y.state = 2) :
    ∃ r, putCrates (ctx, gen) core id w 1 1 loc 0 t = .all r ∧ Flight s r core w x id m bins ∧ getOp r id = some { o with left := o.left + 1 } ∧
      r.fab.sendq = t.fab.sendq ++ [boundFrame s ctx gen (some id) b (putFrame s.mem w id loc)] := by
  obtain ⟨v, heq, hv, hov, hqv⟩ := h.sent (f := putFrame s.mem w id loc) ho hc hb hst hn hy hs (fun o => { o with left := o.left + 1 })
  refine ⟨v, ?_, hv, hov, hqv⟩
  unfold putCrates
  rw [h.mem, if_neg (fun hbad => hbad.2 (hfmt hbad.1)), moveRead_moveOk t (ctx, gen) core (hok.of_mem h.mem), h.mem]
  dsimp -zeta only
  extract_lets +onlyGivenNames u
  have hsend : sendCtx u ctx gen (some id) (putFrame s.mem w id loc) = (v, none) := heq
  show (match sendCtx u ctx gen (some id) (putFrame s.mem w id loc) with
    | (s, some r) => FabRun.failed r 0 s
    | (s, none) => putCrates (ctx, gen) core id w 1 0 (loc + 1) (0 + 1) s) = _
  rw [hsend]
  rfl

theorem putSlots_one {n loc : Nat} {y : Session} {b : Binding} {ctx gen : Nat} (h : Flight s t core w x id m bins)
    (ho : getOp t id = some o) (hocc : 1 ≤ (bins.getD (Ins.bits w 85 80) {}).occ) (hcr : 1 ≤ (bins.getD (Ins.bits w 85 80) {}).slotCrates)
    (hloc : loc = slotCrate core (bins.getD (Ins.bits w 85 80) {}) (bins.getD (Ins.bits w 85 80) {}).emptySlot 0)
    (hok : MoveOk s loc) (hfmt : Ins.bits w 87 86 = 2 → Tag.fmt (crateTag s.mem loc) = Fmt.fp32)
    (hc : s.fab.chip.isSome = true) (hb : findBind s ctx gen (Ins.bits w 66 52) = some b) (hst : b.state = 1)
    (hn : sessionOf s (Ins.bits w 66 52) = some n) (hy : getSession s n = some y) (hs : y.state = 1 ∨ y.state = 2) :
    ∃ r, putSlots (ctx, gen) core id w 1 2 0 t = .all r ∧ Flight s r core w x id m (releasedBins (Ins.bits w 85 80) 1 bins) ∧
      getOp r id = some { o with left := o.left + 1 } ∧
      r.fab.sendq = t.fab.sendq ++ [boundFrame s ctx gen (some id) b (putFrame s.mem w id loc)] := by
  obtain ⟨v, heq, hv, hov, hqv⟩ := putCrates_one h ho hok hfmt hc hb hst hn hy hs
  obtain ⟨r, hreq, hr, hor, hqr⟩ := hv.released hov hocc
  refine ⟨r, ?_, hr, hor, hqr.trans hqv⟩
  have hdata : Bin.dataOk (bins.getD (Ins.bits w 85 80) {}) = true := decide_eq_true hocc
  have hbin : getBin (getCore t core) (Ins.bits w 85 80) = bins.getD (Ins.bits w 85 80) {} := by rw [getBin, h.bins]
  unfold putSlots
  rw [if_neg (by decide)]
  extract_lets +onlyGivenNames bn bin
  have hbin' : bin = bins.getD (Ins.bits w 85 80) {} := hbin
  rw [hbin', hdata, if_neg (by decide)]
  extract_lets +onlyGivenNames k
  have hk : k = 1 := by
    show min _ (1 - 0) = 1
    omega
  rw [hk, ← hloc, heq]
  dsimp -zeta only
  have hreq' : implicitRelease v core bn = .ok r := hreq
  rw [hreq']
  rfl

theorem fabricGo_put {n loc : Nat} {y : Session} {b : Binding} {ctx gen : Nat} (h : Flight s t core w x id false bins)
    (ho : getOp t id = some o) (hdir : Ins.bits w 87 86 = 0 ∨ Ins.bits w 87 86 = 2) (hcount : Ins.bits w 79 69 = 0)
    (hocc : 1 ≤ (bins.getD (Ins.bits w 85 80) {}).occ) (hcr : 1 ≤ (bins.getD (Ins.bits w 85 80) {}).slotCrates)
    (hloc : loc = slotCrate core (bins.getD (Ins.bits w 85 80) {}) (bins.getD (Ins.bits w 85 80) {}).emptySlot 0)
    (hok : MoveOk s loc) (hfmt : Ins.bits w 87 86 = 2 → Tag.fmt (crateTag s.mem loc) = Fmt.fp32)
    (hc : s.fab.chip.isSome = true) (hb : findBind s ctx gen (Ins.bits w 66 52) = some b) (hst : b.state = 1)
    (hn : sessionOf s (Ins.bits w 66 52) = some n) (hy : getSession s n = some y) (hs : y.state = 1 ∨ y.state = 2) :
    ∃ r, fabricGo t core x id 0 w (ctx, gen) = .all r ∧ Flight s r core w x id true (releasedBins (Ins.bits w 85 80) 1 bins) ∧
      getOp r id = some { o with left := o.left + 1, all := true } ∧
      r.fab.sendq = t.fab.sendq ++ [boundFrame s ctx gen (some id) b (putFrame s.mem w id loc)] := by
  obtain ⟨v, heq, hv, hov, hqv⟩ := putSlots_one h ho hocc hcr hloc hok hfmt hc hb hst hn hy hs
  obtain ⟨hr, hor, hqr⟩ := hv.handed hov (Nat.succ_ne_zero o.left)
  refine ⟨handedOver v core x id, ?_, hr, hor, hqr.trans hqv⟩
  unfold fabricGo
  extract_lets +onlyGivenNames n' dir one
  have hn' : n' = 1 := by
    show Ins.bits w 79 69 + 1 = 1
    rw [hcount]
  have h1 : ¬dir = 1 := by
    show ¬Ins.bits w 87 86 = 1
    omega
  have h3 : ¬dir = 3 := by
    show ¬Ins.bits w 87 86 = 3
    omega
  rw [if_neg h1, if_neg h3, hn', heq]

/-! ## The instruction -/

/-- The state in which a transfer has its entry and its operation. -/
def flightState (s : State) (core : Nat) (w : W128) (o : Op) : State :=
  modTransfer (newOp (addTransfer s core w 0 false) o).1 core (getCore s core).nextTransfer (fun t => { t with ops := [s.fab.nextOp] })

theorem flightState_flight (s : State) (core : Nat) (w : W128) (o : Op) :
    Flight s (flightState s core w o) core w (getCore s core).nextTransfer s.fab.nextOp false (getCore s core).bins ∧
      getOp (flightState s core w o) s.fab.nextOp = some o ∧ (flightState s core w o).fab.sendq = s.fab.sendq := by
  obtain ⟨g, hadd, hgb, tr, hgi, htr⟩ : ∃ g : Core → Core, addTransfer s core w 0 false = modCore s core g ∧ (∀ c, (g c).bins = c.bins) ∧
      ∃ tr : Transfer, (g (getCore s core)).inflight = (getCore s core).inflight ++ [tr] ∧
        (tr.id = (getCore s core).nextTransfer ∧ tr.instr = w ∧ tr.moved = false) :=
    ⟨_, rfl, fun _ => rfl, _, rfl, rfl, rfl, rfl⟩
  unfold flightState
  rw [hadd]
  obtain ⟨h1, h2, h3⟩ := htr
  have hc := getCore_modCore_same s core g
  have hne (k : Nat) (hk : k ≠ core) := getCore_modCore_ne s hk g
  have hfr : modCore s core g = { s with cores := (modCore s core g).cores } := rfl
  generalize modCore s core g = u at *
  have hop : getOp (newOp u o).1 u.fab.nextOp = some o := (getOp_setOp ..).trans (if_pos rfl)
  have hnew : (newOp u o).1 = { u with fab := { u.fab with ops := (newOp u o).1.fab.ops, nextOp := (newOp u o).1.fab.nextOp } } := rfl
  have hnext : u.fab.nextOp = s.fab.nextOp := by rw [hfr]
  rw [hnext] at hop
  generalize (newOp u o).1 = v at *
  have hcv (k : Nat) : getCore v k = getCore u k := by
    rw [hnew]
    rfl
  obtain ⟨hb, hi, hk⟩ := getCore_modTransfer v core (getCore s core).nextTransfer (fun t => { t with ops := [s.fab.nextOp] })
  have hov : getOp (modTransfer v core (getCore s core).nextTransfer (fun t => { t with ops := [s.fab.nextOp] })) s.fab.nextOp = some o := hop
  have hmf : modTransfer v core (getCore s core).nextTransfer (fun t => { t with ops := [s.fab.nextOp] }) =
    { v with cores := (modTransfer v core (getCore s core).nextTransfer (fun t => { t with ops := [s.fab.nextOp] })).cores } := rfl
  generalize modTransfer v core (getCore s core).nextTransfer (fun t => { t with ops := [s.fab.nextOp] }) = r at *
  refine ⟨⟨?_, fun k hk' => ?_, ?_, ?_⟩, hov, ?_⟩
  · rw [hmf, hnew, hfr]
  · rw [hk k hk', hcv, hne k hk']
  · rw [hb, hcv, hc, hgb]
  · rw [hi, hcv, hc, hgi]
    refine ⟨{ tr with ops := [s.fab.nextOp] }, List.mem_map.mpr ⟨tr, List.mem_append_right _ (List.mem_singleton_self _), if_pos h1⟩, h1, h2, h3, rfl⟩
  · rw [hmf, hnew, hfr]

/-- A slot is ready for the transfer. -/
def SlotReady (c : Core) (w : W128) : Prop :=
  (Ins.bits w 87 86 = 1 → (getBin c (Ins.bits w 85 80)).spaceOk = true) ∧
    (Ins.bits w 87 86 = 0 ∨ Ins.bits w 87 86 = 2 → (getBin c (Ins.bits w 85 80)).dataOk = true)

theorem bodyPfabric_flies {u : State} (hin : (getCore u core).inflight.length < 64) (hready : SlotReady (getCore u core) w) :
    ∃ o, o.left = 0 ∧ ∀ r, fabricGo (flightState u core w o) core (getCore u core).nextTransfer u.fab.nextOp 0 w (coreCtx u core) = .all r →
      bodyPfabric u core w .clean = .issued r := by
  refine ⟨{ dir := Ins.bits w 87 86, chip := Ins.bits w 66 52, ch := Ins.bits w 68 67, ctx := (coreLaunch u core).ctx, gen := (coreLaunch u core).gen
            owner := .porter core (getCore u core).nextTransfer
            tag := ((findCmd u ((getCore u core).launch.getD 0)).map (fun c => Pkt.tag c.packet)).getD 0
            queue := ((findCmd u ((getCore u core).launch.getD 0)).map (·.queue)).getD 0
            launch := (getCore u core).load, core, index := (getStation (getCore u core) 4).pc
            step := u.stepSt.cur, crate := goalCrate w 0 }, rfl, fun r hr => ?_⟩
  have hfree : inflightFree (getCore u core) = true := decide_eq_true hin
  have hwait : (if Ins.bits w 87 86 = 3 then none else implicitWait u w
      (if Ins.bits w 87 86 = 1 then (getBin (getCore u core) (Ins.bits w 85 80)).spaceOk else (getBin (getCore u core) (Ins.bits w 85 80)).dataOk)
      (if Ins.bits w 87 86 = 1 then 0xEA else 0xE9) (Ins.bits w 85 80)) = none := by
    split
    · rfl
    · rename_i h3
      refine if_pos ?_
      split
      · rename_i h1
        exact hready.1 h1
      · rename_i h1
        refine hready.2 ?_
        have hlt : Ins.bits w 87 86 < 4 := Nat.mod_lt _ (by decide)
        omega
  unfold bodyPfabric
  extract_lets +onlyGivenNames b dir bin
  rw [hfree, if_neg (by decide)]
  have hwait' : (if dir = 3 then none else implicitWait u w (if dir = 1 then bin.spaceOk else bin.dataOk) (if dir = 1 then 0xEA else 0xE9) b) = none := hwait
  rw [hwait']
  dsimp -zeta only
  extract_lets +onlyGivenNames l cg x cmd
  extract_lets +onlyGivenNames v
  split
  case _ a ha =>
    cases ha.symm.trans hr
    rfl
  all_goals
    rename_i ha
    cases ha.symm.trans hr

/-- A core's transfers, bins and launch do not turn on the hold of a station. -/
theorem setHold_same (s : State) (core st : Nat) (h : Hold) :
    setHold s core st h = { s with cores := (setHold s core st h).cores } ∧ (∀ k, k ≠ core → getCore (setHold s core st h) k = getCore s k) ∧
      (getCore (setHold s core st h) core).bins = (getCore s core).bins ∧
      (getCore (setHold s core st h) core).inflight = (getCore s core).inflight ∧
      coreCtx (setHold s core st h) core = coreCtx s core := by
  have hc : getCore (setHold s core st h) core = heldCore (getCore s core) st h := by rw [getCore_setHold, if_pos rfl]
  refine ⟨rfl, fun k hk => by rw [getCore_setHold, if_neg hk], by rw [hc]; rfl, by rw [hc]; rfl, ?_⟩
  unfold coreCtx
  rw [hc]
  rfl

/-- A transfer that was issued leaves its core's bins and transfers as its body left them. -/
theorem advanceSt_same (s : State) (core st : Nat) :
    advanceSt s core st = { s with cores := (advanceSt s core st).cores } ∧ (∀ k, k ≠ core → getCore (advanceSt s core st) k = getCore s k) ∧
      (getCore (advanceSt s core st) core).bins = (getCore s core).bins ∧
      (getCore (advanceSt s core st) core).inflight = (getCore s core).inflight := by
  unfold advanceSt
  split
  · exact ⟨rfl, fun _ _ => rfl, rfl, rfl⟩
  · refine ⟨rfl, fun k hk => getCore_modCore_ne s hk _, ?_, ?_⟩
    · rw [getCore_modCore_same, modStation_bins]
    · rw [getCore_modCore_same]
      rfl

/-- A PFABRIC whose frames are handed over at once. -/
theorem pfabric_issues {s : State} {core : Nat} {w : W128} {bins : List Bin} {left : Nat} {fr : Frame} {b : Binding}
    (h : AtIns s core 4 0x44 .none w) (hin : (getCore s core).inflight.length < 64) (hready : SlotReady (getCore s core) w)
    (hgo : ∀ u v o, u = { s with cores := u.cores } → Flight u v core w (getCore u core).nextTransfer s.fab.nextOp false (getCore s core).bins →
      o.left = 0 → getOp v s.fab.nextOp = some o →
      ∃ r, fabricGo v core (getCore u core).nextTransfer s.fab.nextOp 0 w (coreCtx s core) = .all r ∧
        Flight u r core w (getCore u core).nextTransfer s.fab.nextOp true bins ∧
        getOp r s.fab.nextOp = some { o with left := left, all := true } ∧
        r.fab.sendq = v.fab.sendq ++ [boundFrame s (coreCtx s core).1 (coreCtx s core).2 (some s.fab.nextOp) b fr]) :
    Runs (.pfabric core .clean) s (fun t => t = { s with cores := t.cores, fab := t.fab } ∧
      (∀ k, k ≠ core → getCore t k = getCore s k) ∧ (getCore t core).bins = bins ∧
      (∃ y ∈ (getCore t core).inflight, y.instr = w ∧ y.moved = true ∧ y.ops = [s.fab.nextOp]) ∧
      (∃ o, getOp t s.fab.nextOp = some o ∧ o.left = left ∧ o.all = true) ∧
      t.fab.sendq = s.fab.sendq ++ [boundFrame s (coreCtx s core).1 (coreCtx s core).2 (some s.fab.nextOp) b fr]) := by
  obtain ⟨hu, hoth, hbins, hinf, hcg⟩ := setHold_same s core 4 .none
  generalize hset : setHold s core 4 .none = u at *
  have hnext : u.fab.nextOp = s.fab.nextOp := by rw [hu]
  obtain ⟨o, ho, hbody⟩ := bodyPfabric_flies (u := u) (core := core) (w := w) (by rw [hinf]; exact hin)
    (by unfold SlotReady getBin; rw [hbins]; exact hready)
  obtain ⟨hfl, hop, hq⟩ := flightState_flight u core w o
  rw [hnext] at hfl hop
  obtain ⟨r, hr, hfr, hor, hqr⟩ := hgo u (flightState u core w o) o hu (by rw [← hbins]; exact hfl) ho hop
  have heq : issue s core 4 0x44 .clean bodyPfabric = advanceSt r core 4 := by
    rw [issue_clean _ h, hset, hbody r (by rw [hcg, hnext]; exact hr)]
    rfl
  refine runs_eq rfl heq ?_
  obtain ⟨ha, hak, hab, hai⟩ := advanceSt_same r core 4
  generalize advanceSt r core 4 = t at *
  have hfab : t.fab = r.fab := by rw [ha]
  obtain ⟨y, hy, -, h2, h3, h4⟩ := hfr.entry
  refine ⟨?_, fun k hk => ?_, hab.trans hfr.bins, ⟨y, by rw [hai]; exact hy, h2, h3, h4⟩, ⟨{ o with left := left, all := true }, ?_, rfl, rfl⟩, ?_⟩
  · rw [ha, hfr.only, hu]
  · rw [hak k hk, hfr.others k hk, hoth k hk]
  · rw [← hor]
    unfold getOp
    rw [hfab]
  · rw [hfab, hqr, hq, hu]

end

section
variable {s : State} {core dir n : Nat} {w : W128} {x : Session} {b : Binding} (h : AtIns s core 4 0x44 .none w)
  (hdir : dir = Ins.bits w 87 86) (hin : (getCore s core).inflight.length < 64) (hc : s.fab.chip.isSome = true)
  (hn : sessionOf s (Ins.bits w 66 52) = some n) (hx : getSession s n = some x) (hs : x.state = 1 ∨ x.state = 2)
  (hb : findBind s (coreCtx s core).1 (coreCtx s core).2 (Ins.bits w 66 52) = some b) (hst : b.state = 1)
include h hdir hin hc hn hx hs hb hst

theorem pfabric_requests (hd : dir = 1 ∨ dir = 3) (hspace : dir = 1 → (getBin (getCore s core) (Ins.bits w 85 80)).occ < (getBin (getCore s core) (Ins.bits w 85 80)).slotCount) :
    Runs (.pfabric core .clean) s (fun t => t = { s with cores := t.cores, fab := t.fab } ∧
      (∀ k, k ≠ core → getCore t k = getCore s k) ∧ (getCore t core).bins = (getCore s core).bins ∧
      (∃ y ∈ (getCore t core).inflight, y.instr = w ∧ y.moved = true ∧ y.ops = [s.fab.nextOp]) ∧
      (∃ o, getOp t s.fab.nextOp = some o ∧ o.left = (if dir = 1 then Ins.bits w 79 69 + 1 else 1) ∧ o.all = true) ∧
      ∃ i, t.fab.sendq = s.fab.sendq ++ [i] ∧ i.frame.typ = (if dir = 1 then 0x03 else 0x05) ∧
        i.frame.dst = Ins.bits w 66 52 ∧ i.frame.ch = Ins.bits w 68 67 ∧ i.frame.opid = s.fab.nextOp ∧ i.frame.last = true ∧
        i.frame.dctx = b.dctx ∧ i.frame.dgen = b.dgen ∧
        i.frame.addr = (if dir = 1 then Ins.bits w 51 22 * 4096 else Ins.bits w 37 22) ∧
        i.frame.aux = (if dir = 1 then Ins.bits w 79 69 else Ins.bits w 79 69 + 1)) := by
  subst hdir
  have hready : SlotReady (getCore s core) w := ⟨fun h1 => decide_eq_true (hspace h1), fun h0 => by omega⟩
  have hgo (fr : Frame) (left : Nat)
      (hfr : Ins.bits w 87 86 = 1 ∧ left = Ins.bits w 79 69 + 1 ∧ fr = { typ := 0x03, addr := Ins.bits w 51 22 * 4096, aux := Ins.bits w 79 69 } ∨
        Ins.bits w 87 86 = 3 ∧ left = 1 ∧ fr = { typ := 0x05, addr := Ins.bits w 37 22, aux := Ins.bits w 79 69 + 1 }) :=
    pfabric_issues (bins := (getCore s core).bins) (left := left) (b := b)
      (fr := { fr with last := true, dst := Ins.bits w 66 52, ch := Ins.bits w 68 67, opid := s.fab.nextOp }) h hin hready fun u v o hu hfl ho hop => by
      obtain ⟨r, hr, hfr, hor, hqr⟩ := fabricGo_one hfl hop hfr (ctx := (coreCtx s core).1) (gen := (coreCtx s core).2) (by rw [hu]; exact hc)
        (by rw [hu]; exact hb) hst (by rw [hu]; exact hn) (by rw [hu]; exact hx) hs
      rw [hu] at hqr
      exact ⟨r, hr, hfr, hor, hqr⟩
  obtain h1 | h3 := hd
  · obtain ⟨t, ht, h2, h3, h4, h5, h6, h7⟩ := hgo { typ := 0x03, addr := Ins.bits w 51 22 * 4096, aux := Ins.bits w 79 69 } _ (.inl ⟨h1, rfl, rfl⟩)
    refine ⟨t, ht, h2, h3, h4, h5, ?_, _, h7, ?_⟩
    · rw [if_pos h1]
      exact h6
    · rw [if_pos h1, if_pos h1, if_pos h1]
      exact ⟨rfl, rfl, rfl, rfl, rfl, rfl, rfl, rfl, rfl⟩
  · obtain ⟨t, ht, h2, h3', h4, h5, h6, h7⟩ := hgo { typ := 0x05, addr := Ins.bits w 37 22, aux := Ins.bits w 79 69 + 1 } _ (.inr ⟨h3, rfl, rfl⟩)
    have h1 : ¬Ins.bits w 87 86 = 1 := by rw [h3]; decide
    refine ⟨t, ht, h2, h3', h4, h5, ?_, _, h7, ?_⟩
    · rw [if_neg h1]
      exact h6
    · rw [if_neg h1, if_neg h1, if_neg h1]
      exact ⟨rfl, rfl, rfl, rfl, rfl, rfl, rfl, rfl, rfl⟩

theorem pfabric_puts {k : Nat} (hd : dir = 0 ∨ dir = 2) (hcount : Ins.bits w 79 69 = 0)
    (hocc : 1 ≤ (getBin (getCore s core) (Ins.bits w 85 80)).occ) (hcr : 1 ≤ (getBin (getCore s core) (Ins.bits w 85 80)).slotCrates)
    (hk : k = slotCrate core (getBin (getCore s core) (Ins.bits w 85 80)) (getBin (getCore s core) (Ins.bits w 85 80)).emptySlot 0)
    (hok : MoveOk s k) (hfmt : dir = 2 → Tag.fmt (crateTag s.mem k) = Fmt.fp32) :
    Runs (.pfabric core .clean) s (fun t => t = { s with cores := t.cores, fab := t.fab } ∧
      (∀ j, j ≠ core → getCore t j = getCore s j) ∧ (getCore t core).bins = releasedBins (Ins.bits w 85 80) 1 (getCore s core).bins ∧
      (∃ y ∈ (getCore t core).inflight, y.instr = w ∧ y.moved = true ∧ y.ops = [s.fab.nextOp]) ∧
      (∃ o, getOp t s.fab.nextOp = some o ∧ o.left = 1 ∧ o.all = true) ∧
      ∃ i, t.fab.sendq = s.fab.sendq ++ [i] ∧ i.frame.typ = (if dir = 0 then 0x01 else 0x02) ∧
        i.frame.dst = Ins.bits w 66 52 ∧ i.frame.ch = Ins.bits w 68 67 ∧ i.frame.opid = s.fab.nextOp ∧ i.frame.last = true ∧
        i.frame.dctx = b.dctx ∧ i.frame.dgen = b.dgen ∧ i.frame.addr = Ins.bits w 51 22 * 4096 ∧ i.frame.index = 0 ∧
        i.frame.data = crateData (crateTag s.mem k) (crateBytes s.mem k)) := by
  subst hdir
  have hready : SlotReady (getCore s core) w := ⟨fun h1 => by omega, fun _ => decide_eq_true hocc⟩
  obtain ⟨t, ht, h2, h3, h4, h5, h6, h7⟩ := pfabric_issues (bins := releasedBins (Ins.bits w 85 80) 1 (getCore s core).bins) (left := 1) (b := b)
    (fr := putFrame s.mem w s.fab.nextOp k) h hin hready fun u v o hu hfl ho hop => by
      have hmem : u.mem = s.mem := by rw [hu]
      obtain ⟨r, hr, hfr, hor, hqr⟩ := fabricGo_put hfl hop hd hcount hocc hcr hk (hok.of_mem hmem) (by rw [hmem]; exact hfmt)
        (ctx := (coreCtx s core).1) (gen := (coreCtx s core).2) (by rw [hu]; exact hc)
        (by rw [hu]; exact hb) hst (by rw [hu]; exact hn) (by rw [hu]; exact hx) hs
      rw [ho] at hor
      rw [hmem, hu] at hqr
      exact ⟨r, hr, hfr, hor, hqr⟩
  refine ⟨t, ht, h2, h3, h4, h5, h6, _, h7, ?_, rfl, rfl, rfl, rfl, rfl, rfl, rfl, rfl, rfl⟩
  show (if Ins.bits w 87 86 = 2 then 0x02 else 0x01) = if Ins.bits w 87 86 = 0 then 0x01 else 0x02
  obtain h0 | h2 := hd
  · rw [h0]
    rfl
  · rw [h2]
    rfl

end

/-- Settles O27: PFABRIC hands its frames over to a bound peer and waits for their transfer; FRAME_SEND spends the lane's credits and
numbers what a session keeps; a flit changes its port alone. -/
theorem fabricSends : Obligations.FabricSends := by
  unfold Obligations.FabricSends
  refine ⟨fun s core w c dir bin cg n x b h hcore hdir hbin hin hcg hc hn hx hs hb hst => ?_, fun s p lane k i w x h he hw hx ht hst hwl hl => ?_,
    fun s p b x hx ht hl => flitReceive_uncorrectable hx ht hl,
    fun s p b x n lane cr hx ht hl hn hcrc hseq hsync hfirst hlane hcr hlen =>
      flitReceive_credits hx ht hl hn hcrc hseq hsync hfirst hlane hcr hlen⟩
  · subst hcore hbin hcg
    exact ⟨fun hd hspace => pfabric_requests h hdir hin hc hn hx hs hb hst hd hspace,
      fun k hd hcount hocc hcr hk hok hfmt => pfabric_puts h hdir hin hc hn hx hs hb hst hd hcount hocc hcr hk hok hfmt⟩
  · exact ⟨fun n y hrel hseq hr hn hy hch hbytes => frameSend_sequenced h he hw hx ht hst hwl hl hrel hseq hr hn hy hch hbytes,
      fun hun => frameSend_unsequenced h he hw hx ht hst hwl hl hun⟩

end Sys2Proof.Machine
end

section
/-! # The host's memory commands (09/R294, 08/R244, R245, 07/R206, 06/R180) -/

namespace Sys2Proof.Machine

/-! ## A command in one piece -/

/-- Crate after crate, none refused and none poisoned, keeps an invariant to the last. -/
theorem overCrates_all {I : Nat → State → Prop} {f : State → Nat → Except Nat (State × Bool)} {n : Nat}
    (hstep : ∀ i u, i < n → I i u → ∃ v, f u i = .ok (v, false) ∧ I (i + 1) v) (m : Nat) :
    ∀ i u, i + m = n → I i u → ∃ t, overCrates f m { s := u, n := i, poisoned := 0 } = { s := t, n := n, poisoned := 0 } ∧ I n t := by
  induction m with
  | zero =>
    intro i u hi hI
    subst hi
    exact ⟨u, rfl, hI⟩
  | succ m ih =>
    intro i u hi hI
    obtain ⟨v, hv, hIv⟩ := hstep i u (by omega) hI
    obtain ⟨t, ht, hIt⟩ := ih (i + 1) v (by omega) hIv
    refine ⟨t, ?_, hIt⟩
    unfold overCrates
    dsimp only
    rw [hv]
    exact ht

section
variable {s : State} {slot op n : Nat} {c : Cmd}

theorem IsBegun.slot_eq (h : IsBegun s slot op c) : c.slot = slot := by
  have hf := List.find?_some h.find
  exact beq_iff_eq.mp hf

/-- A command that has opened no crate has none to drop. -/
theorem modCmd_ungathered (h : IsBegun s slot op c) : modCmd s slot (fun c => { c with gather := [] }) = s := by
  have hid : s.cmds.map (fun c => if c.slot = slot then { c with gather := [] } else c) = s.cmds := by
    refine (List.map_congr_left fun d hd => ?_).trans (List.map_id s.cmds)
    by_cases hs : d.slot = slot
    · rw [if_pos hs, h.2.2 d hd hs]
      have hg := h.2.1
      obtain ⟨⟩ := c
      dsimp only at hg
      rw [hg]
      rfl
    · rw [if_neg hs]
      rfl
  unfold modCmd
  rw [hid]

/-- A memory command that runs to its end in one piece. -/
theorem runPiece_done (h : IsBegun s slot op c) (hn : n = pktCrates c.packet) (haux : c.aux = 0) (hfound : c.found = 0) {x : Piece}
    (hx : n ≤ x.crates) {I : Nat → State → Prop} {f : State → Nat → Except Nat (State × Bool)} (h0 : I 0 s)
    (hstep : ∀ i u, i < n → I i u → ∃ v, f u i = .ok (v, false) ∧ I (i + 1) v)
    (next : State → Nat → Nat → List Byte) (fin : Nat → EndWith) :
    ∃ t, I n t ∧ runPiece s c x f next fin = endCmd t slot { fin 0 with result := n } := by
  obtain ⟨t, ht, hI⟩ := overCrates_all hstep n 0 s (Nat.zero_add n) h0
  refine ⟨t, hI, ?_⟩
  have hmin : min x.crates (pktCrates c.packet - c.aux) = n := by
    rw [← hn, haux, Nat.sub_zero]
    exact Nat.min_eq_right hx
  unfold runPiece
  rw [h.slot_eq, modCmd_ungathered h]
  extract_lets +onlyGivenNames total u p
  have hp : p = { s := t, n := n, poisoned := 0 } := by
    show overCrates f (min x.crates (pktCrates c.packet - c.aux)) { s := s, n := c.aux, poisoned := c.found } = _
    rw [hmin, haux, hfound, ht]
  rw [hp]
  exact if_pos (Nat.le_of_eq hn.symm)

end

/-! ## Crates laid one after another -/

/-- `m'` is `m` with `n` crates from `k` written, `P i` and `T i` the payload and tag of each. -/
structure Laid (m m' : Mem) (k n : Nat) (P : Nat → List Byte) (T : Nat → W128) : Prop where
  only : m' = { m with cells := m'.cells, tags := m'.tags, opened := m'.opened, bad := m'.bad }
  bad : ∀ x ∈ m'.bad, x ∈ m.bad
  opened : ∀ x ∈ m'.opened, x ∈ m.opened
  writable : Writable m'
  laid : ∀ i, i < n → crateBytes m' (k + i) = P i ∧ crateTag m' (k + i) = T i
  same : SameCrates m m' (fun j => k ≤ j ∧ j < k + n)

section
variable {m m' : Mem} {k n : Nat} {P : Nat → List Byte} {T : Nat → W128}

theorem Laid.refl (h : Writable m) : Laid m m k 0 P T :=
  ⟨rfl, fun _ h => h, fun _ h => h, h, fun _ hi => absurd hi (Nat.not_lt_zero _), fun _ _ => ⟨rfl, rfl⟩⟩

theorem Laid.plain (h : Laid m m' k n P T) {j : Nat} (hp : Plain m j) : Plain m' j := by
  rw [h.only]
  exact hp

/-- One crate more, whatever wrote it. -/
theorem Laid.succ {m'' : Mem} (h : Laid m m' k n P T) (honly : m'' = { m' with cells := m''.cells, tags := m''.tags, opened := m''.opened, bad := m''.bad })
    (hbad : ∀ x ∈ m''.bad, x ∈ m'.bad) (hopened : ∀ x ∈ m''.opened, x ∈ m'.opened) (hw : Writable m'')
    (hb : WroteCrate m' m'' (k + n) (P n) (T n)) : Laid m m'' k (n + 1) P T := by
  obtain ⟨h1, h2, h3⟩ := hb
  refine ⟨?_, fun x hx => h.bad x (hbad x hx), fun x hx => h.opened x (hopened x hx), hw, fun i hi => ?_, fun j hj => ?_⟩
  · rw [honly, h.only]
  · by_cases hin : i = n
    · subst hin
      exact ⟨h1, h2⟩
    · obtain ⟨hb, ht⟩ := h3 (k + i) (by omega)
      rw [hb, ht]
      exact h.laid i (by omega)
  · obtain ⟨hb, ht⟩ := h3 j (by omega)
    rw [hb, ht]
    exact h.same j (by omega)

theorem pairwise_nerase {l : List Nat} (h : l.Pairwise (· < ·)) (i : Nat) : (nerase l i).Pairwise (· < ·) := by
  induction l with
  | nil => exact .nil
  | cons a l ih =>
    obtain ⟨ha, hl⟩ := List.pairwise_cons.mp h
    unfold nerase
    split
    · exact hl
    · exact List.pairwise_cons.mpr ⟨fun x hx => ha x ((mem_nerase l i x hl).mp hx).1, ih hl⟩

theorem writeCrate_only {c : Nat} (hp : Plain m c) (p : List Byte) (t : W128) : writeCrate m c p t =
    { m with cells := writeBytes m.cells (c * 4096) p, tags := tset Tag.zero m.tags c t, opened := nerase m.opened c
             bad := m.bad.filter (fun x => x / 64 != c) } := by
  unfold writeCrate
  rw [preserve_plain _ _ hp]
  unfold rawCrate
  rw [cacheTouch_none _ _ _ hp.2]

theorem Laid.write (h : Laid m m' k n P T) (hp : Plain m (k + n)) (hl : (P n).length = 4096) :
    Laid m (writeCrate m' (k + n) (P n) (T n)) k (n + 1) P T := by
  obtain ⟨hwf, hsorted⟩ := h.writable
  have hwrote := writeCrate_wrote m' (k + n) (P n) (T n) hl hwf hsorted (h.plain hp)
  have hwf' := wf_writeCrate m' (k + n) (P n) (T n) hwf
  have honly := writeCrate_only (h.plain hp) (P n) (T n)
  refine h.succ (by rw [honly]) ?_ ?_ ⟨hwf', ?_⟩ hwrote
  · rw [honly]
    exact fun x hx => (List.mem_filter.mp hx).1
  · rw [honly]
    exact fun x hx => ((mem_nerase _ _ _ hsorted).mp hx).1
  · rw [honly]
    exact pairwise_nerase hsorted _

end

/-! ## The commands -/

section
variable {s : State} {slot op part k n : Nat} {c : Cmd} {P : Nat → List Byte} {T : Nat → W128}

/-- What a crate's access is refused for turns on neither bytes, tags nor bad sectors. -/
theorem Laid.refuse {u : State} {j : Nat} {P : Nat → List Byte} {T : Nat → W128} (hu : u = { s with mem := u.mem }) (h : Laid s.mem u.mem k j P T)
    (path : Path) (p a : Nat) : Machine.refuse u path p a = Machine.refuse s path p a := by
  have honly := h.only
  generalize u.mem = m at *
  rw [hu, honly]
  rfl

/-- A memory command that lays one crate after another. -/
theorem runPiece_lays (h : IsBegun s slot op c) (hn : n = pktCrates c.packet) (haux : c.aux = 0) (hfound : c.found = 0) {x : Piece}
    (hx : n ≤ x.crates) (hw : Writable s.mem) {f : State → Nat → Except Nat (State × Bool)}
    (hstep : ∀ i u, i < n → u = { s with mem := u.mem } → Laid s.mem u.mem k i P T →
      ∃ m, f u i = .ok (setMem u m, false) ∧ Laid s.mem m k (i + 1) P T)
    (next : State → Nat → Nat → List Byte) {fin : Nat → EndWith} (hfin : fin 0 = {}) :
    ∃ t, runPiece s c x f next fin = t ∧ t = { s with mem := t.mem, cmds := t.cmds } ∧ t.cmds = endedCmds s slot { result := n } ∧
      SameCrates s.mem t.mem (fun j => k ≤ j ∧ j < k + n) ∧
      ∀ i, i < n → crateBytes t.mem (k + i) = P i ∧ crateTag t.mem (k + i) = T i := by
  obtain ⟨t, ⟨ht, hlaid⟩, heq⟩ := runPiece_done h hn haux hfound hx (I := fun i u => u = { s with mem := u.mem } ∧ Laid s.mem u.mem k i P T)
    ⟨rfl, .refl hw⟩ (fun i u hi hI => by
      obtain ⟨m, hm, hl⟩ := hstep i u hi hI.1 hI.2
      refine ⟨setMem u m, hm, ?_, hl⟩
      rw [hI.1]
      rfl) next fin
  rw [hfin] at heq
  rw [ht] at heq
  generalize t.mem = m at *
  rw [endCmd_succeeds (s := { s with mem := m }) h.find h.uncut (Nat.zero_le 1)] at heq
  exact ⟨_, heq, rfl, rfl, hlaid.same, hlaid.laid⟩

/-- The tag that a host command computes. -/
def hostTag (c : Cmd) (p : List Byte) : W128 :=
  Tag.computed p (Pkt.p1 c.packet / 2 ^ 56) 0 0 (Tag.hostLineage c.queue (Pkt.tag c.packet))

theorem leNat_lt (l : List Byte) : Word.leNat l < 256 ^ l.length := by
  induction l with
  | nil => exact Nat.one_pos
  | cons b l ih =>
    have hb := b.isLt
    rw [Word.leNat, List.length_cons, Nat.pow_succ]
    omega

theorem p1_format (b : List Byte) : Pkt.p1 b / 2 ^ 56 % 256 = Pkt.p1 b / 2 ^ 56 := by
  have hl : ((b.drop 0x30).take 8).length ≤ 8 := List.length_take_le ..
  have hp : 256 ^ ((b.drop 0x30).take 8).length ≤ 256 ^ 8 := Nat.pow_le_pow_right (by decide) hl
  exact Nat.mod_eq_of_lt (Nat.div_lt_of_lt_mul (Nat.lt_of_lt_of_le (leNat_lt _) (Nat.le_trans hp (by decide))))

theorem hostTag_fields (c : Cmd) (p : List Byte) : Tag.check (hostTag c p) = Crc.crc64 p ∧ Tag.fmt (hostTag c p) = Pkt.p1 c.packet / 2 ^ 56 ∧
    Tag.poisoned (hostTag c p) = false := by
  unfold hostTag Tag.computed
  exact ⟨Tag.check_mk .., (Tag.fmt_mk ..).trans (p1_format _), (Tag.poisoned_mk ..).trans (by decide)⟩

/-- A new tag of a sound crate is written and changes nothing else. -/
theorem setTag_wrote {m : Mem} {j : Nat} (hp : Plain m j) (ho : j ∉ m.opened) (hb : ∀ x ∈ m.bad, x / 64 ≠ j) (t : W128) :
    WroteCrate m (setTag m j t) j (crateBytes m j) t := by
  obtain ⟨hbytes, htag, hother⟩ := setTag_plain hp t
  refine ⟨hbytes j, ?_, fun i hi => ⟨hbytes i, hother i hi⟩⟩
  rw [htag]
  have h1 : m.opened.contains j = false := by
    rw [Bool.eq_false_iff]
    exact fun h => ho (List.contains_iff_mem.mp h)
  have h2 : crateBad m j = false := by
    unfold crateBad
    rw [List.any_eq_false]
    exact fun x hx => by simpa using hb x hx
  rw [h1, h2]
  rfl

/-- A crate of a MEM_WRITE. -/
theorem memWriteCrate_lays {x : Piece} {data : List Byte} (hk : k = Pkt.p1 c.packet % 2 ^ 49 / 4096) (hn : n = pktCrates c.packet) (haux : c.aux = 0)
    (hx : n ≤ x.crates) {u : State} {i : Nat} (hr : Machine.refuse u .all (cmdPart u c) ((k + i) * 4096) = none)
    (ht : Word.bitOf (Pkt.p2 c.packet) 32 = false ∧ T i = hostTag c ((data.drop (i * 4096)).take 4096) ∨
      Word.bitOf (Pkt.p2 c.packet) 32 = true ∧ T i = Tag.ofBytes ((data.drop (n * 4096 + 16 * i)).take 16) ∧
        Tag.check (T i) = Crc.crc64 ((data.drop (i * 4096)).take 4096)) :
    memWriteCrate c x data u i = .ok (setMem u (writeCrate u.mem (k + i) ((data.drop (i * 4096)).take 4096) (T i)), false) := by
  have hlen : pieceLen c x = n := by
    unfold pieceLen
    rw [← hn, haux, Nat.sub_zero]
    exact Nat.min_eq_right hx
  have hcut : pieceCut c x = 0 := by
    unfold pieceCut
    rw [hlen, haux, ← hn]
    exact if_neg (by omega)
  unfold memWriteCrate
  extract_lets +onlyGivenNames a j
  have ha : a = k + i := by rw [hk]; rfl
  have hj : j = i := by
    show i - c.aux = i
    rw [haux]
    rfl
  rw [ha, hj, hr]
  dsimp -zeta only
  extract_lets +onlyGivenNames p
  obtain ⟨hbit, htag⟩ | ⟨hbit, htag, hcheck⟩ := ht
  · rw [hbit, if_neg (by decide), htag]
    rfl
  · rw [hbit, if_pos rfl, hlen, hcut, Nat.add_zero, ← htag]
    refine if_pos ?_
    rw [beq_iff_eq]
    exact hcheck

variable (hpart : part = (getCtx s (Pkt.ctx c.packet)).part) (hk : k = Pkt.p1 c.packet % 2 ^ 49 / 4096) (hn : n = pktCrates c.packet)
  (haux : c.aux = 0) (hfound : c.found = 0) (hw : Writable s.mem)
  (hto : ∀ i, i < n → Machine.refuse s .all part ((k + i) * 4096) = none ∧ Plain s.mem (k + i))
include hpart hk hn haux hfound hw hto

omit hk hn haux hfound hw in
/-- Crate `i` of the command may be written whatever of it has been laid. -/
theorem laid_allowed {i j : Nat} {u : State} (hi : i < n) (hu : u = { s with mem := u.mem }) (hl : Laid s.mem u.mem k j P T) :
    Machine.refuse u .all (cmdPart u c) ((k + i) * 4096) = none := by
  have hp : cmdPart u c = part := by
    rw [hpart, hu]
    rfl
  rw [hp, hl.refuse hu]
  exact (hto i hi).1

/-- MEM_WRITE of payloads with their tags. -/
theorem memWrite_lays {crates sectors : Nat} {data : List Byte} (h : IsBegun s slot 0x0101 c) (hx : n ≤ crates) (hd : n * 4096 ≤ data.length)
    (ht : ∀ i, i < n → Word.bitOf (Pkt.p2 c.packet) 32 = false ∧ T i = hostTag c ((data.drop (i * 4096)).take 4096) ∨
      Word.bitOf (Pkt.p2 c.packet) 32 = true ∧ T i = Tag.ofBytes ((data.drop (n * 4096 + 16 * i)).take 16) ∧
        Tag.check (T i) = Crc.crc64 ((data.drop (i * 4096)).take 4096)) :
    ∃ t, memWrite s slot { crates, sectors } data = t ∧ t = { s with mem := t.mem, cmds := t.cmds } ∧ t.cmds = endedCmds s slot { result := n } ∧
      SameCrates s.mem t.mem (fun j => k ≤ j ∧ j < k + n) ∧
      ∀ i, i < n → crateBytes t.mem (k + i) = (data.drop (i * 4096)).take 4096 ∧ crateTag t.mem (k + i) = T i := by
  unfold memWrite
  rw [h.1]
  refine runPiece_lays h hn haux hfound (x := { crates, sectors }) hx hw (P := fun i => (data.drop (i * 4096)).take 4096) (fun i u hi hu hl => ?_) _ (by decide)
  refine ⟨_, memWriteCrate_lays hk hn haux hx (laid_allowed hpart hto hi hu hl) (ht i hi), hl.write (P := fun i => (data.drop (i * 4096)).take 4096) (hto i hi).2 ?_⟩
  rw [List.length_take, List.length_drop]
  have := Nat.mul_le_mul_right 4096 hi
  omega

theorem memWrite_computes {crates sectors : Nat} {data : List Byte} (h : IsBegun s slot 0x0101 c) (hx : n ≤ crates) (hd : n * 4096 ≤ data.length)
    (hbit : Word.bitOf (Pkt.p2 c.packet) 32 = false) :
    Runs (.memWrite slot crates sectors data) s (fun t => t = { s with mem := t.mem, cmds := t.cmds } ∧
      t.cmds = endedCmds s slot { result := n } ∧ SameCrates s.mem t.mem (fun j => k ≤ j ∧ j < k + n) ∧
      ∀ i, i < n → crateBytes t.mem (k + i) = (data.drop (i * 4096)).take 4096 ∧
        Tag.check (crateTag t.mem (k + i)) = Crc.crc64 (crateBytes t.mem (k + i)) ∧
        Tag.fmt (crateTag t.mem (k + i)) = Pkt.p1 c.packet / 2 ^ 56 ∧ Tag.poisoned (crateTag t.mem (k + i)) = false) := by
  obtain ⟨t, ht, hfr, hcmds, hsame, hall⟩ := memWrite_lays (T := fun i => hostTag c ((data.drop (i * 4096)).take 4096)) (sectors := sectors)
    hpart hk hn haux hfound hw hto h hx hd fun i _ => .inl ⟨hbit, rfl⟩
  refine runs_eq rfl ht ⟨hfr, hcmds, hsame, fun i hi => ?_⟩
  obtain ⟨hb, htag⟩ := hall i hi
  rw [htag, hb]
  exact ⟨rfl, hostTag_fields c _⟩

theorem memWrite_supplied {crates sectors : Nat} {data : List Byte} (h : IsBegun s slot 0x0101 c) (hx : n ≤ crates) (hd : n * 4096 ≤ data.length)
    (hbit : Word.bitOf (Pkt.p2 c.packet) 32 = true) (hcheck : ∀ i, i < n → Tag.check (Tag.ofBytes ((data.drop (n * 4096 + 16 * i)).take 16))
      = Crc.crc64 ((data.drop (i * 4096)).take 4096)) :
    Runs (.memWrite slot crates sectors data) s (fun t => t = { s with mem := t.mem, cmds := t.cmds } ∧
      t.cmds = endedCmds s slot { result := n } ∧ SameCrates s.mem t.mem (fun j => k ≤ j ∧ j < k + n) ∧
      ∀ i, i < n → crateBytes t.mem (k + i) = (data.drop (i * 4096)).take 4096 ∧
        crateTag t.mem (k + i) = Tag.ofBytes ((data.drop (n * 4096 + 16 * i)).take 16)) := by
  obtain ⟨t, ht, hp⟩ := memWrite_lays (T := fun i => Tag.ofBytes ((data.drop (n * 4096 + 16 * i)).take 16)) (sectors := sectors)
    hpart hk hn haux hfound hw hto h hx hd fun i hi => .inr ⟨hbit, rfl, hcheck i hi⟩
  exact runs_eq rfl ht hp

theorem memCopy_moves {crates sectors a : Nat} (h : IsBegun s slot 0x0103 c) (hx : n ≤ crates) (ha : a = Pkt.p0 c.packet % 2 ^ 49 / 4096)
    (hdis : a + n ≤ k ∨ k + n ≤ a) (hfrom : ∀ i, i < n → Machine.refuse s .all part ((a + i) * 4096) = none ∧ MoveOk s (a + i)) :
    Runs (.memCopy slot crates sectors .clean) s (fun t => t = { s with mem := t.mem, cmds := t.cmds } ∧
      t.cmds = endedCmds s slot { result := n } ∧ SameCrates s.mem t.mem (fun j => k ≤ j ∧ j < k + n) ∧
      ∀ i, i < n → crateBytes t.mem (k + i) = crateBytes s.mem (a + i) ∧
        crateTag t.mem (k + i) = crateTag s.mem (a + i)) := by
  have hgo : ∃ t, memCopy s slot { crates, sectors } .clean = t ∧ t = { s with mem := t.mem, cmds := t.cmds } ∧ t.cmds = endedCmds s slot { result := n } ∧
      SameCrates s.mem t.mem (fun j => k ≤ j ∧ j < k + n) ∧
      ∀ i, i < n → crateBytes t.mem (k + i) = crateBytes s.mem (a + i) ∧ crateTag t.mem (k + i) = crateTag s.mem (a + i) := by
    unfold memCopy
    rw [h.1]
    refine runPiece_lays h hn haux hfound (x := { crates, sectors }) hx hw (P := fun i => crateBytes s.mem (a + i)) (T := fun i => crateTag s.mem (a + i))
      (fun i u hi hu hl => ?_) _ rfl
    refine ⟨_, ?_, hl.write (hto i hi).2 (length_readBytes ..)⟩
    have hp : cmdPart u c = part := by
      rw [hpart, hu]
      rfl
    obtain ⟨hb, htg⟩ := hl.same (a + i) (by omega)
    obtain ⟨hrf, hok⟩ := hfrom i hi
    have hoku : MoveOk u (a + i) := by
      refine ⟨?_, fun x hx => hok.bad x (hl.bad x hx), by rw [hb, htg]; exact hok.check⟩
      rw [hl.only]
      exact hok.home
    unfold memCopyCrate
    extract_lets +onlyGivenNames a' b'
    have ha' : a' = a + i := by rw [ha]; rfl
    have hb' : b' = k + i := by rw [hk]; rfl
    rw [ha', hb', hp, hl.refuse hu, hl.refuse hu, hrf, (hto i hi).1]
    dsimp -zeta only [Option.or]
    rw [moveRead_moveOk u (cmdCg c) 0xFFFF hoku, hb, htg]
    rfl
  obtain ⟨t, ht, hp⟩ := hgo
  exact runs_eq rfl ht hp

theorem memFill_zeroes {crates sectors : Nat} (h : IsBegun s slot 0x0104 c) (hx : n ≤ crates) :
    Runs (.memFill slot crates sectors) s (fun t => t = { s with mem := t.mem, cmds := t.cmds } ∧
      t.cmds = endedCmds s slot { result := n } ∧ SameCrates s.mem t.mem (fun j => k ≤ j ∧ j < k + n) ∧
      ∀ i, i < n → crateBytes t.mem (k + i) = zeroPayload ∧ crateTag t.mem (k + i) = Tag.zero) := by
  have hgo : ∃ t, memFill s slot { crates, sectors } = t ∧ t = { s with mem := t.mem, cmds := t.cmds } ∧ t.cmds = endedCmds s slot { result := n } ∧
      SameCrates s.mem t.mem (fun j => k ≤ j ∧ j < k + n) ∧ ∀ i, i < n → crateBytes t.mem (k + i) = zeroPayload ∧ crateTag t.mem (k + i) = Tag.zero := by
    unfold memFill
    rw [h.1]
    refine runPiece_lays h hn haux hfound (x := { crates, sectors }) hx hw (P := fun _ => zeroPayload) (T := fun _ => Tag.zero) (fun i u hi hu hl => ?_) _ rfl
    refine ⟨_, ?_, hl.write (hto i hi).2 (List.length_replicate ..)⟩
    unfold memFillCrate
    extract_lets +onlyGivenNames b'
    have hb' : b' = k + i := by rw [hk]; rfl
    rw [hb', laid_allowed hpart hto hi hu hl]
    rfl
  obtain ⟨t, ht, hp⟩ := hgo
  exact runs_eq rfl ht hp

theorem memRetag_tags {crates : Nat} (h : IsBegun s slot 0x0105 c) (hx : n ≤ crates)
    (hsound : ∀ i, i < n → (k + i) ∉ s.mem.opened ∧ ∀ x ∈ s.mem.bad, x / 64 ≠ k + i) :
    Runs (.memRetag slot crates .clean) s (fun t => t = { s with mem := t.mem, cmds := t.cmds } ∧
      t.cmds = endedCmds s slot { result := n } ∧ SameCrates s.mem t.mem (fun j => k ≤ j ∧ j < k + n) ∧
      ∀ i, i < n → crateBytes t.mem (k + i) = crateBytes s.mem (k + i) ∧
        Tag.check (crateTag t.mem (k + i)) = Crc.crc64 (crateBytes s.mem (k + i)) ∧
        Tag.fmt (crateTag t.mem (k + i)) = Pkt.p1 c.packet / 2 ^ 56 ∧ Tag.poisoned (crateTag t.mem (k + i)) = false) := by
  have hgo : ∃ t, memRetag s slot crates .clean = t ∧ t = { s with mem := t.mem, cmds := t.cmds } ∧ t.cmds = endedCmds s slot { result := n } ∧
      SameCrates s.mem t.mem (fun j => k ≤ j ∧ j < k + n) ∧
      ∀ i, i < n → crateBytes t.mem (k + i) = crateBytes s.mem (k + i) ∧ crateTag t.mem (k + i) = hostTag c (crateBytes s.mem (k + i)) := by
    unfold memRetag
    rw [h.1]
    refine runPiece_lays h hn haux hfound (x := { crates }) hx hw (P := fun i => crateBytes s.mem (k + i))
      (T := fun i => hostTag c (crateBytes s.mem (k + i))) (fun i u hi hu hl => ?_) _ rfl
    obtain ⟨ho, hbad⟩ := hsound i hi
    have hbadu : ∀ x ∈ u.mem.bad, x / 64 ≠ k + i := fun x hx => hbad x (hl.bad x hx)
    obtain ⟨hb, -⟩ := hl.same (k + i) (by omega)
    have hplain := hl.plain (hto i hi).2
    have honly : setTag u.mem (k + i) (hostTag c (crateBytes s.mem (k + i))) =
        { u.mem with tags := (setTag u.mem (k + i) (hostTag c (crateBytes s.mem (k + i)))).tags } := by
      unfold setTag
      rw [preserve_plain _ _ hplain, cacheTouch_none _ _ _ hplain.2]
    have hwrote := setTag_wrote hplain (fun hx => ho (hl.opened _ hx)) hbadu (hostTag c (crateBytes s.mem (k + i)))
    rw [hb] at hwrote
    have hwf := wf_setTag u.mem (k + i) (hostTag c (crateBytes s.mem (k + i))) hl.writable.1
    refine ⟨setTag u.mem (k + i) (hostTag c (crateBytes s.mem (k + i))), ?_, ?_⟩
    · unfold memRetagCrate
      extract_lets +onlyGivenNames b'
      have hb' : b' = k + i := by rw [hk]; rfl
      rw [hb', laid_allowed hpart hto hi hu hl, reportBad_ok u (cmdCg c) (k + i) 0xFFFF hbadu]
      dsimp -zeta only
      extract_lets +onlyGivenNames u' tg
      have htg : tg = hostTag c (crateBytes s.mem (k + i)) := by
        rw [← hb]
        rfl
      rw [htg]
      rfl
    · generalize setTag u.mem (k + i) (hostTag c (crateBytes s.mem (k + i))) = m at *
      refine hl.succ (by rw [honly]) ?_ ?_ ⟨hwf, ?_⟩ hwrote
      · rw [honly]
        exact fun _ h => h
      · rw [honly]
        exact fun _ h => h
      · rw [honly]
        exact hl.writable.2
  obtain ⟨t, ht, hfr, hcmds, hsame, hall⟩ := hgo
  refine runs_eq rfl ht ⟨hfr, hcmds, hsame, fun i hi => ?_⟩
  obtain ⟨hb, htag⟩ := hall i hi
  rw [htag]
  exact ⟨hb, hostTag_fields c _⟩

end

/-- Settles O18: a memory command that may write all its crates lays them one after another and ends. -/
theorem memoryCommands : Obligations.MemoryCommands := by
  unfold Obligations.MemoryCommands
  intro s slot c part k n hpart hk hn haux hfound hw hto
  exact ⟨fun crates sectors data h hx hd hbit => memWrite_computes hpart hk hn haux hfound hw hto h hx hd hbit,
    fun crates sectors data h hx hd hbit hcheck => memWrite_supplied hpart hk hn haux hfound hw hto h hx hd hbit hcheck,
    fun crates sectors a h hx ha hdis hfrom => memCopy_moves hpart hk hn haux hfound hw hto h hx ha hdis hfrom,
    fun crates sectors h hx => memFill_zeroes hpart hk hn haux hfound hw hto h hx,
    fun crates h hx hsound => memRetag_tags hpart hk hn haux hfound hw hto h hx hsound⟩

end Sys2Proof.Machine
end

section
/-! # MEM_READ (09/R294, 08/R244) -/

namespace Sys2Proof.Machine

/-- Host memory `h` is `h0` with the first `i` of `n` crates delivered from `a` on, and with `tags` their tags behind all `n`. -/
structure Delivered (h0 h : List Host.Cell) (a n i : Nat) (tags : Bool) (P : Nat → List Byte) (T : Nat → W128) : Prop where
  wf : cellsWf h = true
  payloads : ∀ j, j < i → readBytes h (a + j * 4096) 4096 = P j
  tagged : tags = true → ∀ j, j < i → readBytes h (a + n * 4096 + 16 * j) 16 = Tag.bytes (T j)
  same : ∀ x, (x < a ∨ a + n * 4096 + (if tags then n * 16 else 0) ≤ x) → readByte h x = readByte h0 x

section
variable {h0 h : List Host.Cell} {a n i : Nat} {tags : Bool} {P : Nat → List Byte} {T : Nat → W128}

theorem Delivered.refl (hw : cellsWf h0 = true) : Delivered h0 h0 a n 0 tags P T :=
  ⟨hw, fun _ h => absurd h (Nat.not_lt_zero _), fun _ _ h => absurd h (Nat.not_lt_zero _), fun _ _ => rfl⟩

theorem Tag.length_bytes (t : W128) : (Tag.bytes t).length = 16 := length_toLe ..

/-- The payload of the next crate. -/
theorem Delivered.payload (hd : Delivered h0 h a n i tags P T) (hi : i < n) (hl : (P i).length = 4096) :
    cellsWf (writeBytes h (a + i * 4096) (P i)) = true ∧
      (∀ j, j < i + 1 → readBytes (writeBytes h (a + i * 4096) (P i)) (a + j * 4096) 4096 = P j) ∧
      (tags = true → ∀ j, j < i → readBytes (writeBytes h (a + i * 4096) (P i)) (a + n * 4096 + 16 * j) 16 = Tag.bytes (T j)) ∧
      ∀ x, (x < a ∨ a + n * 4096 ≤ x) → readByte (writeBytes h (a + i * 4096) (P i)) x = readByte h x := by
  have hin : (i + 1) * 4096 ≤ n * 4096 := Nat.mul_le_mul_right 4096 hi
  refine ⟨cellsWf_writeBytes _ _ _ hd.wf, fun j hj => ?_, fun ht j hj => ?_, fun x hx => ?_⟩
  · by_cases hji : j = i
    · subst hji
      have := readBytes_writeBytes h (a + j * 4096) (P j) hd.wf
      rw [hl] at this
      exact this
    · have hji' : (j + 1) * 4096 ≤ i * 4096 := Nat.mul_le_mul_right 4096 (by omega)
      rw [readBytes_writeBytes_of_disjoint _ _ _ _ _ hd.wf (.inl (by omega))]
      exact hd.payloads j (by omega)
  · rw [readBytes_writeBytes_of_disjoint _ _ _ _ _ hd.wf (.inr (by omega))]
    exact hd.tagged ht j hj
  · rw [readByte_writeBytes _ _ _ _ hd.wf, if_neg (by omega)]

theorem Delivered.untagged (hd : Delivered h0 h a n i false P T) (hi : i < n) (hl : (P i).length = 4096) :
    Delivered h0 (writeBytes h (a + i * 4096) (P i)) a n (i + 1) false P T := by
  obtain ⟨hw, hp, -, hs⟩ := hd.payload hi hl
  refine ⟨hw, hp, fun h => (nomatch h), fun x hx => ?_⟩
  rw [if_neg (by decide), Nat.add_zero] at hx
  rw [hs x hx, hd.same x (by rw [if_neg (by decide), Nat.add_zero]; exact hx)]

theorem Delivered.withTag (hd : Delivered h0 h a n i true P T) (hi : i < n) (hl : (P i).length = 4096) :
    Delivered h0 (writeBytes (writeBytes h (a + i * 4096) (P i)) (a + n * 4096 + 16 * i) (Tag.bytes (T i))) a n (i + 1) true P T := by
  obtain ⟨hw, hp, ht, hs⟩ := hd.payload hi hl
  have hsame := hd.same
  rw [if_pos rfl] at hsame
  have hlen := Tag.length_bytes (T i)
  refine ⟨cellsWf_writeBytes _ _ _ hw, fun j hj => ?_, fun _ j hj => ?_, fun x hx => ?_⟩
  · have hjn : (j + 1) * 4096 ≤ n * 4096 := Nat.mul_le_mul_right 4096 (by omega)
    rw [readBytes_writeBytes_of_disjoint _ _ _ _ _ hw (.inl (by omega))]
    exact hp j hj
  · by_cases hji : j = i
    · subst hji
      have := readBytes_writeBytes (writeBytes h (a + j * 4096) (P j)) (a + n * 4096 + 16 * j) (Tag.bytes (T j)) hw
      rw [hlen] at this
      exact this
    · rw [readBytes_writeBytes_of_disjoint _ _ _ _ _ hw (.inl (by omega))]
      exact ht rfl j (by omega)
  · rw [if_pos rfl] at hx
    rw [readByte_writeBytes _ _ _ _ hw, if_neg (by omega), hs x (by omega), hsame x hx]

end

section
variable {s : State} {slot part k n crates a : Nat} {c : Cmd}

theorem hostWrite_up {s : State} (h : s.pcie.linkUp = true) (a : Nat) (bs : List Byte) :
    hostWrite s a bs = { s with hostMem := writeBytes s.hostMem a bs } := if_pos h

theorem hostWrite_twice {s : State} (h : s.pcie.linkUp = true) (a a' : Nat) (bs bs' : List Byte) :
    hostWrite (hostWrite s a bs) a' bs' = { s with hostMem := writeBytes (writeBytes s.hostMem a bs) a' bs' } := by
  rw [hostWrite_up h]
  exact hostWrite_up (s := { s with hostMem := writeBytes s.hostMem a bs }) h a' bs'

/-- A good crate of a MEM_READ is delivered. -/
theorem memReadCrate_delivers {u : State} {i : Nat} (hk : k = Pkt.p1 c.packet % 2 ^ 49 / 4096) (hn : n = pktCrates c.packet) (ha : a = Pkt.p0 c.packet)
    (hr : refuse u .all (cmdPart u c) ((k + i) * 4096) = none) (hok : CrateOk u (k + i)) (hl : u.pcie.linkUp = true) :
    memReadCrate c u i = .ok (if Word.bitOf (Pkt.p2 c.packet) 32 then
        hostWrite (hostWrite u (a + i * 4096) (crateBytes u.mem (k + i))) (a + n * 4096 + 16 * i) (Tag.bytes (crateTag u.mem (k + i)))
      else hostWrite u (a + i * 4096) (crateBytes u.mem (k + i)), false) := by
  have htag : Tag.poisonIf (Tag.check (crateTag u.mem (k + i)) != Crc.crc64 (crateBytes u.mem (k + i))) (crateTag u.mem (k + i)) = crateTag u.mem (k + i) := by
    rw [hok.check, bne_self_eq_false]
    rfl
  unfold memReadCrate
  extract_lets +onlyGivenNames j m
  have hj : j = k + i := by rw [hk]; rfl
  have hm : m = n := hn.symm
  rw [hj, hr, hm]
  dsimp -zeta only
  rw [reportBad_ok u (cmdCg c) (k + i) 0xFFFF hok.bad, cacheTouch_none _ _ _ hok.home, ← ha]
  extract_lets +onlyGivenNames t0 p0 v t1
  have ht1 : t1 = crateTag u.mem (k + i) := htag
  have hv : v = u := rfl
  rw [ht1, hok.poison]
  rfl

theorem memRead_delivers (h : IsBegun s slot 0x0102 c) (hpart : part = (getCtx s (Pkt.ctx c.packet)).part)
    (hk : k = Pkt.p1 c.packet % 2 ^ 49 / 4096) (hn : n = pktCrates c.packet) (haux : c.aux = 0) (hfound : c.found = 0) (hx : n ≤ crates)
    (ha : a = Pkt.p0 c.packet) (hl : s.pcie.linkUp = true) (hw : cellsWf s.hostMem = true)
    (hfrom : ∀ i, i < n → refuse s .all part ((k + i) * 4096) = none ∧ CrateOk s (k + i)) :
    ∃ t, memRead s slot crates .clean = t ∧ t = { s with hostMem := t.hostMem, cmds := endedCmds s slot { result := n } } ∧
      Delivered s.hostMem t.hostMem a n n (Word.bitOf (Pkt.p2 c.packet) 32) (fun i => crateBytes s.mem (k + i)) (fun i => crateTag s.mem (k + i)) := by
  have hgo : ∃ t, (t = { s with hostMem := t.hostMem } ∧ Delivered s.hostMem t.hostMem a n n (Word.bitOf (Pkt.p2 c.packet) 32)
      (fun i => crateBytes s.mem (k + i)) (fun i => crateTag s.mem (k + i))) ∧ memRead s slot crates .clean = endCmd t slot { result := n } := by
    unfold memRead
    rw [h.1]
    refine runPiece_done h hn haux hfound (x := { crates }) hx (I := fun i u => u = { s with hostMem := u.hostMem } ∧
      Delivered s.hostMem u.hostMem a n i (Word.bitOf (Pkt.p2 c.packet) 32) (fun i => crateBytes s.mem (k + i)) (fun i => crateTag s.mem (k + i)))
      ⟨rfl, .refl hw⟩ (fun i u hi hI => ?_) _ _
    obtain ⟨hu, hd⟩ := hI
    obtain ⟨hrf, hok⟩ := hfrom i hi
    have hm : u.mem = s.mem := by rw [hu]
    have hlu : u.pcie.linkUp = true := by
      rw [hu]
      exact hl
    have hru : refuse u .all (cmdPart u c) ((k + i) * 4096) = none := by
      rw [hu]
      rw [hpart] at hrf
      exact hrf
    refine ⟨_, memReadCrate_delivers hk hn ha hru (hok.of_mem hm) hlu, ?_⟩
    rw [hm]
    cases hbit : Word.bitOf (Pkt.p2 c.packet) 32 with
    | false =>
      rw [hbit] at hd
      rw [if_neg (by decide), hostWrite_up hlu]
      refine ⟨?_, hd.untagged hi (length_readBytes ..)⟩
      rw [hu]
    | true =>
      rw [hbit] at hd
      rw [if_pos rfl, hostWrite_twice hlu]
      refine ⟨?_, hd.withTag hi (length_readBytes ..)⟩
      rw [hu]
  obtain ⟨t, ⟨ht, hd⟩, heq⟩ := hgo
  rw [ht] at heq
  generalize t.hostMem = m at *
  rw [endCmd_succeeds (s := { s with hostMem := m }) h.find h.uncut (Nat.zero_le 1)] at heq
  exact ⟨_, heq, rfl, hd⟩

end

/-- Settles O19: each good crate goes to its own place of host memory, its tag to the place behind all crates. -/
theorem memoryRead : Obligations.MemoryRead := by
  unfold Obligations.MemoryRead
  intro s slot c part k n crates a h hpart hk hn haux hfound hx ha hl hw hfrom
  obtain ⟨t, ht, hfr, hd⟩ := memRead_delivers h hpart hk hn haux hfound hx ha hl hw hfrom
  refine runs_eq rfl ht ⟨?_, ?_, hd.payloads, hd.tagged, hd.same⟩
  · rw [hfr]
  · rw [hfr]

end Sys2Proof.Machine
end

section
/-! # The Vector station (05/R155-R159) -/

namespace Sys2Proof.Machine

/-! ## Register instructions -/

theorem modCore_congr {s : State} {core : Nat} {g h : Core → Core} (hgh : g (getCore s core) = h (getCore s core)) :
    modCore s core g = modCore s core h := by
  have hg (f : Core → Core) : modCore s core f = setCore s core (f (getCore s core)) := rfl
  rw [hg, hg, hgh]

/-- A clean instruction whose body changes its own core by `g`, a change of the registers alone, passes. -/
theorem runs_own {i : Instr} {s : State} {core st op : Nat} {w : W128} {bins : List Bin} {body : State → Nat → W128 → Finding → Run}
    {g h : Core → Core} (hi : exec i s = .next (issue s core st op .clean body))
    (ha : AtIns s core st op .none w) (hb : sigBins (getCore s core).bins w = some bins)
    (hbody : body (setHold s core st .none) core w .clean = .done (modCore (setHold s core st .none) core h))
    (hh : h (heldCore (getCore s core) st .none) = g (heldCore (getCore s core) st .none))
    (hg : ∀ c, (g c).bins = c.bins ∧ (g c).run = c.run)
    (hc : ∀ c b, modStation (withBins (g c) b) st Station.next = g (modStation (withBins c b) st Station.next)) :
    Runs i s (fun t => t = { s with cores := t.cores } ∧ Passed s t core st bins g) := by
  refine ⟨_, hi, issue_modCore body g ha hb (hbody.trans ?_) hg hc⟩
  have hgh : h (getCore (setHold s core st .none) core) = g (getCore (setHold s core st .none) core) := by
    rw [getCore_setHold, if_pos rfl]
    exact hh
  rw [modCore_congr hgh]

theorem setMem_with (v : State) (m : Mem) (c : Tab Core) :
    ({ setMem v m with cores := c } : State) = setMem { v with cores := c } m := rfl

theorem setMem_eq (s : State) (m : Mem) (c : Tab Core) : setMem { s with cores := c } m = { s with cores := c, mem := m } := rfl

theorem setMem_own_with (s : State) (core st : Nat) (h : Hold) (g : Core → Core) (m : Mem) (c : Tab Core) :
    ({ setMem (modCore (setHold s core st h) core g) m with cores := c } : State) = { s with cores := c, mem := m } := by
  rw [setMem_with, modCore_with, setHold_with, setMem_eq]

/-- A clean instruction whose body changes its core by `g` and makes the memories `m` passes. -/
theorem runs_writes {i : Instr} {s : State} {core st op : Nat} {w : W128} {bins : List Bin} {body : State → Nat → W128 → Finding → Run}
    {m : Mem} {g : Core → Core} (hi : exec i s = .next (issue s core st op .clean body))
    (ha : AtIns s core st op .none w) (hb : sigBins (getCore s core).bins w = some bins)
    (hbody : body (setHold s core st .none) core w .clean = .done (setMem (modCore (setHold s core st .none) core g) m))
    (hg : ∀ c, (g c).bins = c.bins ∧ (g c).run = c.run)
    (hc : ∀ c b, modStation (withBins (g c) b) st Station.next = g (modStation (withBins c b) st Station.next)) :
    Runs i s (fun t => t = { s with cores := t.cores, mem := t.mem } ∧ Passed s t core st bins g ∧ t.mem = m) := by
  have hcores (v : State) (c : Nat) : getCore (setMem v m) c = getCore v c := rfl
  obtain ⟨hp, hfr⟩ := finish_passes (t := setMem (modCore (setHold s core st .none) core g) m) s g ha hb
    (by rw [hcores, getCore_modCore_same, getCore_setHold, if_pos rfl])
    (fun c hc => by rw [hcores, getCore_modCore_ne _ hc, getCore_setHold, if_neg hc]) hg hc
  have hfr' := hfr.trans (setMem_own_with s core st .none g m _)
  refine ⟨finish s core st (getStation (getCore s core) st).pc w (.done (setMem (modCore (setHold s core st .none) core g) m)), hi.trans (congrArg Host.Outcome.next ((issue_clean body ha).trans (congrArg _ hbody))), ?_, hp, congrArg State.mem hfr'⟩
  rw [congrArg State.mem hfr']
  exact hfr'

section
variable {s : State} {core : Nat} {w : W128} {bins : List Bin} {a b c : VReg}

theorem vsplat_writes (ha : AtIns s core 3 0x33 .none w) (hb : sigBins (getCore s core).bins w = some bins) :
    Runs (.vsplat core .clean) s (fun t => t = { s with cores := t.cores } ∧
      Passed s t core 3 bins (fun c => setV c (Ins.bits w 87 83)
        { lanes := List.replicate 256 (Num.canon (BitVec.ofNat 32 (Ins.bits w 31 0))), poison := false })) :=
  runs_own rfl ha hb rfl rfl (fun _ => ⟨rfl, rfl⟩) fun _ _ => rfl

theorem vbcast_writes (ha : AtIns s core 3 0x37 .none w) (hb : sigBins (getCore s core).bins w = some bins)
    (hA : a = getV (getCore s core) (Ins.bits w 82 78)) :
    Runs (.vbcast core .clean) s (fun t => t = { s with cores := t.cores } ∧
      Passed s t core 3 bins (fun c => setV c (Ins.bits w 87 83)
        { lanes := List.replicate 256 (a.lanes.getD (Ins.bits w 63 56) 0#32), poison := a.poison })) := by
  subst hA
  exact runs_own rfl ha hb rfl rfl (fun _ => ⟨rfl, rfl⟩) fun _ _ => rfl

theorem lanes3_get (g : F32 → F32 → F32 → F32) : ∀ {n : Nat} {as bs cs : List F32}, as.length = n → bs.length = n → cs.length = n →
    (lanes3 g as bs cs).length = n ∧ ∀ i, i < n → (lanes3 g as bs cs).getD i 0#32 = g (as.getD i 0#32) (bs.getD i 0#32) (cs.getD i 0#32)
  | 0, as, bs, cs, ha, hb, hc => by
    obtain rfl := List.length_eq_zero_iff.mp ha
    exact ⟨rfl, fun i hi => absurd hi (Nat.not_lt_zero i)⟩
  | n + 1, a :: as, b :: bs, c :: cs, ha, hb, hc => by
    obtain ⟨hl, hg⟩ := lanes3_get g (n := n) (Nat.succ.inj ha) (Nat.succ.inj hb) (Nat.succ.inj hc)
    refine ⟨congrArg Nat.succ hl, fun i hi => ?_⟩
    cases i with
    | zero => rfl
    | succ i => exact hg i (Nat.lt_of_succ_lt_succ hi)

theorem varith_writes (ha : AtIns s core 3 0x34 .none w) (hb : sigBins (getCore s core).bins w = some bins)
    (hA : a = getV (getCore s core) (Ins.bits w 82 78)) (hB : b = getV (getCore s core) (Ins.bits w 77 73))
    (hC : c = getV (getCore s core) (Ins.bits w 72 68)) (hla : a.lanes.length = 256) (hlb : b.lanes.length = 256) (hlc : c.lanes.length = 256) :
    Runs (.varith core .clean) s (fun t => t = { s with cores := t.cores } ∧ ∃ v : VReg,
      Passed s t core 3 bins (fun k => setV k (Ins.bits w 87 83) v) ∧ v.lanes.length = 256 ∧
      (∀ i, i < 256 → v.lanes.getD i 0#32
        = arith (Ins.bits w 67 64) (a.lanes.getD i 0#32) (b.lanes.getD i 0#32) (c.lanes.getD i 0#32)) ∧
      v.poison = (a.poison || (readsB (Ins.bits w 67 64) && b.poison) || (readsC (Ins.bits w 67 64) && c.poison))) := by
  subst hA hB hC
  obtain ⟨t, ht, hfr, hp⟩ := runs_own (i := .varith core .clean) (g := fun k => setV k (Ins.bits w 87 83)
    { lanes := lanes3 (arith (Ins.bits w 67 64)) _ _ _
      poison := (getV (getCore s core) (Ins.bits w 82 78)).poison || (readsB (Ins.bits w 67 64) && (getV (getCore s core) (Ins.bits w 77 73)).poison) || (readsC (Ins.bits w 67 64) && (getV (getCore s core) (Ins.bits w 72 68)).poison) })
    rfl ha hb rfl rfl (fun _ => ⟨rfl, rfl⟩) fun _ _ => rfl
  obtain ⟨hl, hg⟩ := lanes3_get (arith (Ins.bits w 67 64)) hla hlb hlc
  exact ⟨t, ht, hfr, _, hp, hl, hg, rfl⟩

theorem vfunc_writes (ha : AtIns s core 3 0x35 .none w) (hb : sigBins (getCore s core).bins w = some bins)
    (hA : a = getV (getCore s core) (Ins.bits w 82 78)) (hla : a.lanes.length = 256) :
    Runs (.vfunc core .clean) s (fun t => t = { s with cores := t.cores } ∧ ∃ v : VReg,
      Passed s t core 3 bins (fun k => setV k (Ins.bits w 87 83) v) ∧ v.lanes.length = 256 ∧
      (∀ i, i < 256 → v.lanes.getD i 0#32 = funcOf (Ins.bits w 67 64) (a.lanes.getD i 0#32)) ∧ v.poison = a.poison) := by
  subst hA
  obtain ⟨t, ht, hfr, hp⟩ := runs_own (i := .vfunc core .clean) (g := fun k => setV k (Ins.bits w 87 83)
    { lanes := (getV (getCore s core) (Ins.bits w 82 78)).lanes.map (funcOf (Ins.bits w 67 64)), poison := (getV (getCore s core) (Ins.bits w 82 78)).poison }) rfl ha hb rfl rfl (fun _ => ⟨rfl, rfl⟩) fun _ _ => rfl
  refine ⟨t, ht, hfr, _, hp, (List.length_map ..).trans hla, fun i hi => ?_, rfl⟩
  have hi' := Nat.lt_of_lt_of_le hi (Nat.le_of_eq hla.symm)
  rw [getD_of_lt _ (by rw [List.length_map]; exact hi'), getD_of_lt _ hi', List.getElem_map]

theorem vred_writes (ha : AtIns s core 3 0x36 .none w) (hb : sigBins (getCore s core).bins w = some bins)
    (hA : a = getV (getCore s core) (Ins.bits w 82 78)) (hC : c = getV (getCore s core) (Ins.bits w 72 68)) :
    Runs (.vred core .clean) s (fun t => t = { s with cores := t.cores } ∧ ∃ r : F32,
      Passed s t core 3 bins (fun k => setV k (Ins.bits w 87 83)
        { lanes := List.replicate 256 r, poison := a.poison || (Ins.bit w 63 && c.poison) }) ∧
      (Ins.bit w 63 = false → r = redTree (Ins.bits w 67 64) (Ins.bits w 62 55 + 1) a.lanes) ∧
      (Ins.bit w 63 = true → r = redOp (Ins.bits w 67 64) (c.lanes.headD 0#32)
        (redTree (Ins.bits w 67 64) (Ins.bits w 62 55 + 1) a.lanes))) := by
  subst hA hC
  obtain ⟨t, ht, hfr, hp⟩ := runs_own (i := .vred core .clean) (g := fun k => setV k (Ins.bits w 87 83)
    { lanes := List.replicate 256 (if Ins.bit w 63 then redOp (Ins.bits w 67 64) ((getV (getCore s core) (Ins.bits w 72 68)).lanes.headD 0#32)
        (redTree (Ins.bits w 67 64) (Ins.bits w 62 55 + 1) (getV (getCore s core) (Ins.bits w 82 78)).lanes) else redTree (Ins.bits w 67 64) (Ins.bits w 62 55 + 1) (getV (getCore s core) (Ins.bits w 82 78)).lanes)
      poison := (getV (getCore s core) (Ins.bits w 82 78)).poison || (Ins.bit w 63 && (getV (getCore s core) (Ins.bits w 72 68)).poison) }) rfl ha hb rfl rfl (fun _ => ⟨rfl, rfl⟩) fun _ _ => rfl
  exact ⟨t, ht, hfr, _, hp, fun h => if_neg (by rw [h]; decide), fun h => if_pos h⟩

end

/-! ## Lines into registers -/

theorem setPairs_frame : ∀ (l : List DLine) (c : Core) (vd : Nat), setPairs c vd l = { c with vregs := (setPairs c vd l).vregs }
  | [], _, _ => rfl
  | [_], _, _ => rfl
  | a :: b :: l, c, vd => by
    have h := setPairs_frame l (setV c vd { lanes := a.vals ++ b.vals, poison := a.poison || b.poison }) (vd + 1)
    unfold setPairs
    rw [h]
    rfl

/-- Registers do not turn on what else the core holds. -/
theorem setPairs_vregs : ∀ (l : List DLine) {c d : Core} (vd : Nat), c.vregs = d.vregs → (setPairs c vd l).vregs = (setPairs d vd l).vregs
  | [], _, _, _, h => h
  | [a], c, d, vd, h => by
    unfold setPairs setV
    rw [h]
  | a :: b :: l, c, d, vd, h => by
    unfold setPairs
    refine setPairs_vregs l (vd + 1) ?_
    unfold setV
    rw [h]

theorem setPairs_passes (l : List DLine) (vd : Nat) (c : Core) (b : List Bin) (st : Nat) :
    modStation (withBins (setPairs c vd l) b) st Station.next = setPairs (modStation (withBins c b) st Station.next) vd l := by
  rw [setPairs_frame l c vd, setPairs_frame l (modStation (withBins c b) st Station.next) vd,
    setPairs_vregs l (c := modStation (withBins c b) st Station.next) (d := c) vd rfl]
  rfl

section
variable {s : State} {core : Nat} {w : W128} {bins : List Bin}

theorem vrecv_takes {n : Nat} {ls : List DLine} (ha : AtIns s core 3 0x32 .none w) (hb : sigBins (getCore s core).bins w = some bins)
    (hn : n = Ins.bits w 82 77 + 1) (hls : ls = (getCore s core).drainVec) (hle : n ≤ ls.length) :
    Runs (.vrecv core .clean) s (fun t => t = { s with cores := t.cores } ∧
      Passed s t core 3 bins (fun k => setPairs { k with drainVec := ls.drop n } (Ins.bits w 87 83) (ls.take n))) := by
  subst hn hls
  have hbody : bodyVrecv (setHold s core 3 .none) core w .clean = .done (modCore (setHold s core 3 .none) core
      (fun c => setPairs { c with drainVec := c.drainVec.drop (Ins.bits w 82 77 + 1) } (Ins.bits w 87 83) (c.drainVec.take (Ins.bits w 82 77 + 1)))) := by
    have hheld : (getCore (setHold s core 3 .none) core).drainVec = (getCore s core).drainVec := by
      rw [getCore_setHold, if_pos rfl]
      rfl
    unfold bodyVrecv
    extract_lets +onlyGivenNames n c
    exact if_neg (by rw [show c.drainVec = _ from hheld]; exact Nat.not_lt.mpr hle)
  refine runs_own rfl ha hb hbody rfl (fun c => ?_) fun c b => ?_
  · rw [setPairs_frame]
    exact ⟨rfl, rfl⟩
  · exact setPairs_passes _ _ { c with drainVec := _ } b 3

theorem inputRefusal_good {k : Nat} (hf : Tag.fmt (crateTag s.mem k) = Fmt.fp32 ∨ Tag.fmt (crateTag s.mem k) = Fmt.bf16) :
    inputRefusal (goodCrate s k) (fun f => f == Fmt.fp32 || f == Fmt.bf16) = none := by
  have ht : (goodCrate s k).tag = crateTag s.mem k := rfl
  unfold inputRefusal
  rw [ht]
  rcases hf with h | h <;> rw [h] <;> rfl

theorem vloadc_takes {k f : Nat} (ha : AtIns s core 3 0x30 .none w) (hb : sigBins (getCore s core).bins w = some bins)
    (hk : k = vecCrate (getCore s core) core w false) (hok : CrateOk s k) (hf : f = Tag.fmt (crateTag s.mem k))
    (hfmt : f = Fmt.fp32 ∨ f = Fmt.bf16 ∧ Ins.bits w 87 83 % 8 = 0) :
    Runs (.vloadc core .clean) s (fun t => t = { s with cores := t.cores } ∧
      Passed s t core 3 bins (fun c => setPairs c (Ins.bits w 87 83)
        ((List.range (Fmt.lines f)).map fun l =>
          { vals := (Fmt.lineF32 f (crateBytes s.mem k) l).map Num.canon, poison := false }))) := by
  subst hf
  have hbody : bodyVloadc (setHold s core 3 .none) core w .clean = .done (modCore (setHold s core 3 .none) core
      (fun c => setPairs c (Ins.bits w 87 83) ((List.range (Fmt.lines (Tag.fmt (crateTag s.mem k)))).map fun l =>
        { vals := (Fmt.lineF32 (Tag.fmt (crateTag s.mem k)) (crateBytes s.mem k) l).map Num.canon, poison := false }))) := by
    have hkk : vecCrate (getCore (setHold s core 3 .none) core) core w false = k := by
      rw [getCore_setHold, if_pos rfl, hk]
      rfl
    have hgood : goodCrate (setHold s core 3 .none) k = goodCrate s k := rfl
    unfold bodyVloadc
    rw [hkk]
    have hread := takeCrate_ok (setHold s core 3 .none) core k (hok.of_mem rfl)
    rw [hgood] at hread
    dsimp only
    rw [hread]
    dsimp only
    rw [inputRefusal_good (hfmt.imp id And.left)]
    refine if_neg ?_
    show ¬ (Tag.fmt (crateTag s.mem k) = Fmt.bf16 && Ins.bits w 87 83 % 8 != 0) = true
    rcases hfmt with h | ⟨_, h⟩
    · rw [h]
      exact Bool.false_ne_true
    · rw [h, Bool.and_eq_true]
      exact fun hx => absurd hx.2 (by decide)
  refine runs_own rfl ha hb hbody rfl (fun c => ?_) fun c b => setPairs_passes _ _ c b 3
  rw [setPairs_frame]
  exact ⟨rfl, rfl⟩

/-! ## Registers into a crate -/

/-- The payload of registers stored in `f` (05/R159). -/
def storedBytes (f : Nat) (regs : List VReg) : List Byte :=
  (regs.flatMap (·.lanes)).flatMap fun v => if f = Fmt.bf16 then Word.toLe 2 (Num.toBf16 v).toNat else Word.toLe 4 v.toNat

theorem length_storedBytes {f : Nat} {regs : List VReg} (hr : ∀ r ∈ regs, r.lanes.length = 256) :
    (storedBytes f regs).length = regs.length * 256 * (if f = Fmt.bf16 then 2 else 4) := by
  have hlanes : (regs.flatMap (·.lanes)).length = regs.length * 256 := by
    rw [List.length_flatMap, List.map_congr_left hr, List.map_const', List.sum_replicate_nat]
  have hword (v : F32) : (if f = Fmt.bf16 then Word.toLe 2 (Num.toBf16 v).toNat else Word.toLe 4 v.toNat).length
      = if f = Fmt.bf16 then 2 else 4 := by
    split
    · exact length_toLe ..
    · exact length_toLe ..
  rw [storedBytes, List.length_flatMap, List.map_congr_left fun v _ => hword v, List.map_const', List.sum_replicate_nat, hlanes]

theorem length_stored {f : Nat} {g : Nat → VReg} (hf : f = Fmt.fp32 ∨ f = Fmt.bf16)
    (hr : ∀ r ∈ (List.range (if f = Fmt.bf16 then 8 else 4)).map g, r.lanes.length = 256) :
    (storedBytes f ((List.range (if f = Fmt.bf16 then 8 else 4)).map g)).length = 4096 := by
  rw [length_storedBytes hr, List.length_map, List.length_range]
  rcases hf with rfl | rfl <;> rfl

/-- The tag of a crate that a core stores. -/
theorem storedTag_fields (p : List Byte) {f : Nat} (core seq : Nat) (poison : Bool) (hf : f = Fmt.fp32 ∨ f = Fmt.bf16) :
    let tg := Tag.computed p f 0 (Tag.flagsOf 0 poison false false false false) (Tag.coreLineage core seq)
    Tag.fmt tg = f ∧ Tag.check tg = Crc.crc64 p ∧ Tag.poisoned tg = poison ∧ Tag.lineage tg = Tag.coreLineage core seq := by
  refine ⟨(Tag.fmt_mk ..).trans ?_, Tag.check_mk .., (Tag.poisoned_mk ..).trans ?_, (Tag.lineage_mk ..).trans (Nat.mod_eq_of_lt ?_)⟩
  · rcases hf with rfl | rfl <;> rfl
  · cases poison <;> rfl
  · unfold Tag.coreLineage
    omega

/-- What VSTOREC does, over the registers and the crate its word names. -/
theorem bodyVstorec_eq (v : State) (f k : Nat) (regs : List VReg) (hf : f = Ins.bits w 53 51)
    (hk : vecCrate (getCore v core) core w true = k)
    (hregs : (List.range (if f = Fmt.bf16 then 8 else 4)).map (fun i => getV (getCore v core) (Ins.bits w 87 83 + i)) = regs) :
    bodyVstorec v core w .clean = .done (setMem (modCore v core fun c => { c with crateSeq := (c.crateSeq + 1) % 2 ^ 20 })
      (writeCrate v.mem k (storedBytes f regs)
        (Tag.computed (storedBytes f regs) f 0 (Tag.flagsOf 0 (regs.any (·.poison)) false false false false)
          (Tag.coreLineage core (getCore v core).crateSeq)))) := by
  subst hf hk hregs
  have hpay (l : List F32) : (if Ins.bits w 53 51 = Fmt.bf16 then l.flatMap (fun v => Word.toLe 2 (Num.toBf16 v).toNat)
      else l.flatMap fun v => Word.toLe 4 v.toNat)
      = l.flatMap fun v => if Ins.bits w 53 51 = Fmt.bf16 then Word.toLe 2 (Num.toBf16 v).toNat else Word.toLe 4 v.toNat := by
    split <;> rfl
  unfold bodyVstorec storedBytes
  dsimp only
  rw [hpay]
  rfl

theorem vstorec_stores {k f : Nat} {regs : List VReg} (ha : AtIns s core 3 0x31 .none w) (hb : sigBins (getCore s core).bins w = some bins)
    (hk : k = vecCrate (getCore s core) core w true) (hpl : Plain s.mem k) (hw : Writable s.mem)
    (hf : f = Ins.bits w 53 51) (hfmt : f = Fmt.fp32 ∨ f = Fmt.bf16)
    (hregs : regs = (List.range (if f = Fmt.bf16 then 8 else 4)).map (fun i => getV (getCore s core) (Ins.bits w 87 83 + i)))
    (hlen : ∀ r ∈ regs, r.lanes.length = 256) :
    Runs (.vstorec core .clean) s (fun t => t = { s with cores := t.cores, mem := t.mem } ∧
      Passed s t core 3 bins (fun c => { c with crateSeq := (c.crateSeq + 1) % 2 ^ 20 }) ∧
      ∃ p tg, WroteCrate s.mem t.mem k p tg ∧ p = storedBytes f regs ∧
        Tag.fmt tg = f ∧ Tag.check tg = Crc.crc64 p ∧ Tag.poisoned tg = regs.any (·.poison) ∧
        Tag.lineage tg = Tag.coreLineage core (getCore s core).crateSeq) := by
  have hheld : getCore (setHold s core 3 .none) core = heldCore (getCore s core) 3 .none := by rw [getCore_setHold, if_pos rfl]
  have hseq : (getCore (setHold s core 3 .none) core).crateSeq = (getCore s core).crateSeq := by rw [hheld]; rfl
  have hbody := bodyVstorec_eq (setHold s core 3 .none) (w := w) (core := core) f k regs hf
    (by rw [hheld, hk]; rfl) (by rw [hheld, hregs]; rfl)
  rw [hseq] at hbody
  have htag := storedTag_fields (storedBytes f regs) core (getCore s core).crateSeq (regs.any (·.poison)) hfmt
  have hlp : (storedBytes f regs).length = 4096 := by
    rw [hregs] at hlen ⊢
    exact length_stored hfmt hlen
  generalize hT : Tag.computed (storedBytes f regs) f 0 _ _ = T at hbody
  rw [hT] at htag
  obtain ⟨t, ht, hfr, hp, hm⟩ := runs_writes (i := .vstorec core .clean) rfl ha hb hbody (fun _ => ⟨rfl, rfl⟩) fun _ _ => rfl
  refine ⟨t, ht, hfr, hp, _, T, ?_, rfl, htag⟩
  rw [hm]
  exact writeCrate_wrote s.mem k _ T hlp hw.1 hw.2 hpl

end

/-- Settles O3: a register instruction is its body, which writes one register of its core; a load is the pairs of lines of
a good crate; a store is one write of a crate whose bytes are the registers' lanes. -/
theorem vectorStation : Obligations.VectorStation := by
  unfold Obligations.VectorStation
  refine ⟨fun _ _ _ _ ha hb => vsplat_writes ha hb, fun _ _ _ _ _ ha hb hA => vbcast_writes ha hb hA,
    fun _ _ _ _ _ _ _ ha hb hA hB hC la lb lc => varith_writes ha hb hA hB hC la lb lc,
    fun _ _ _ _ _ ha hb hA la => vfunc_writes ha hb hA la, fun _ _ _ _ _ _ ha hb hA hC => vred_writes ha hb hA hC,
    fun _ _ _ _ _ _ ha hb hn hls hle => vrecv_takes ha hb hn hls hle,
    fun _ _ _ _ _ _ ha hb hk hok hf hfmt => vloadc_takes ha hb hk hok hf hfmt,
    fun _ _ _ _ _ _ _ ha hb hk hpl hw hf hfmt hregs hlen => vstorec_stores ha hb hk hpl hw hf hfmt hregs hlen⟩

end Sys2Proof.Machine
end

section
/-! # The Matrix station's diagonal, drain and activity (05/R148, 04/R108, R112, R113) -/

namespace Sys2Proof.Machine

/-! ## Diagonal lines -/

theorem diagLines_frame (op : Nat) : ∀ (fs : List Feed) (n : Nat) (c : Core), diagLines op fs n c = { c with bench := (diagLines op fs n c).bench }
  | [], _, _ => rfl
  | f :: fs, n, c => by
    have h := diagLines_frame op fs (n + 1) (setLine c n (diagLine op c.diag c.diagPoison f (getLine c n)))
    unfold diagLines
    rw [h]
    rfl

theorem getLine_setLine (c : Core) (n k : Nat) (l : BenchLine) : getLine (setLine c n l) k = if k = n then l else getLine c k := tget_tset ..

/-- Each line met is worked on as it stood, and the others stay. -/
theorem getLine_diagLines (op : Nat) : ∀ (fs : List Feed) (n : Nat) (c : Core),
    (∀ i f, fs[i]? = some f → getLine (diagLines op fs n c) (n + i) = diagLine op c.diag c.diagPoison f (getLine c (n + i))) ∧
      ∀ k, k < n ∨ n + fs.length ≤ k → getLine (diagLines op fs n c) k = getLine c k
  | [], _, _ => ⟨fun _ _ h => (nomatch h), fun _ _ => rfl⟩
  | g :: fs, n, c => by
    obtain ⟨hin, hout⟩ := getLine_diagLines op fs (n + 1) (setLine c n (diagLine op c.diag c.diagPoison g (getLine c n)))
    refine ⟨fun i f hf => ?_, fun k hk => ?_⟩
    · cases i with
      | zero =>
        obtain rfl := Option.some.inj hf
        refine (hout n (.inl n.lt_succ_self)).trans ?_
        rw [getLine_setLine, if_pos rfl]
        rfl
      | succ i =>
        have h := hin i f hf
        rw [getLine_setLine, if_neg (by omega)] at h
        rw [show n + (i + 1) = n + 1 + i by omega]
        exact h
    · rw [List.length_cons] at hk
      refine (hout k (by omega)).trans ?_
      rw [getLine_setLine, if_neg (by omega)]

section
variable {s : State} {core : Nat} {w : W128} {bins : List Bin}

theorem bodyMdiag_clean {v : State} (hlen : Ins.bits w 76 66 + 1 ≤ (getCore v core).feeder.length)
    (hfmt : ∀ f ∈ (getCore v core).feeder.take (Ins.bits w 76 66 + 1), f.fmt = Fmt.fp32) :
    bodyMdiag v core w .clean = .done (modCore v core fun c => diagLines (Ins.bits w 65 64) (c.feeder.take (Ins.bits w 76 66 + 1)) (Ins.bits w 87 77)
      { c with feeder := c.feeder.drop (Ins.bits w 76 66 + 1), pass := (c.pass + 1) % 2 ^ 32, diagMode := true }) := by
  unfold bodyMdiag
  extract_lets +onlyGivenNames c count fs
  have hl : ¬ fs.length < count := by
    rw [show fs.length = _ from List.length_take_of_le hlen]
    exact Nat.lt_irrefl _
  have hf : (fs.any fun x => x.fmt != Fmt.fp32) = false := by
    rw [List.any_eq_false]
    intro x hx
    rw [hfmt x hx]
    decide
  rw [if_neg hl, hf]
  exact if_neg Bool.false_ne_true

theorem mdiag_works {c : Core} {fs : List Feed} {base : Nat} (ha : AtIns s core 1 0x11 .none w) (hb : sigBins (getCore s core).bins w = some bins)
    (hc : c = getCore s core) (hfs : fs = c.feeder.take (Ins.bits w 76 66 + 1)) (hbase : base = Ins.bits w 87 77)
    (hlen : Ins.bits w 76 66 + 1 ≤ c.feeder.length) (hfmt : ∀ f ∈ fs, f.fmt = Fmt.fp32) :
    Runs (.mdiag core .clean) s (fun t => t = { s with cores := t.cores } ∧ (∀ k, k ≠ core → getCore t k = getCore s k) ∧
      ∃ r b, r ≠ 3 ∧ getCore t core = { passedCore c 1 bins r with
          feeder := c.feeder.drop (Ins.bits w 76 66 + 1), pass := (c.pass + 1) % 2 ^ 32, diagMode := true, bench := b } ∧
        (∀ i f, fs[i]? = some f →
          tget {} b (base + i) = diagLine (Ins.bits w 65 64) c.diag c.diagPoison f (getLine c (base + i))) ∧
        ∀ n, n < base ∨ base + fs.length ≤ n → tget {} b n = getLine c n) := by
  have hfeed : (getCore (setHold s core 1 .none) core).feeder = c.feeder := by
    rw [getCore_setHold, if_pos rfl, hc]
    rfl
  have hbody := bodyMdiag_clean (w := w) (v := setHold s core 1 .none) (core := core) (hfeed ▸ hlen) (by rw [hfeed, ← hfs]; exact hfmt)
  obtain ⟨hin, hout⟩ := getLine_diagLines (Ins.bits w 65 64) fs base
    { heldCore c 1 .none with feeder := c.feeder.drop (Ins.bits w 76 66 + 1), pass := (c.pass + 1) % 2 ^ 32, diagMode := true }
  obtain ⟨t, ht, hfr, ⟨r, hr, hcore⟩, hne⟩ := runs_own (i := .mdiag core .clean) (g := fun k => { k with
      feeder := c.feeder.drop (Ins.bits w 76 66 + 1), pass := (k.pass + 1) % 2 ^ 32, diagMode := true
      bench := (diagLines (Ins.bits w 65 64) fs base
        { heldCore c 1 .none with feeder := c.feeder.drop (Ins.bits w 76 66 + 1), pass := (c.pass + 1) % 2 ^ 32, diagMode := true }).bench })
    rfl ha hb hbody
    (by
      subst hc hfs hbase
      exact diagLines_frame ..)
    (fun _ => ⟨rfl, rfl⟩) fun _ _ => rfl
  rw [← hc] at hcore
  exact ⟨t, ht, hfr, hne, r, _, hr, hcore, fun i f hf => hin i f hf, fun n hn => hout n hn⟩

/-! ## Draining lines -/

/-- The lines that MDRAIN names, as it takes them. -/
def drained (w : W128) (c : Core) : List DLine :=
  (List.range (Ins.bits w 76 66 + 1)).map fun i => drainLine (Ins.bit w 64) (getLine c (Ins.bits w 87 77 + i))

theorem bodyMdrain_clean {v : State} (hecc : ∀ i, i ≤ Ins.bits w 76 66 → (getLine (getCore v core) (Ins.bits w 87 77 + i)).ecc = []) :
    bodyMdrain v core w .clean = .done (modCore v core fun c =>
      if Ins.bit w 65 then { c with drainVec := c.drainVec ++ drained w c } else { c with drainPack := c.drainPack ++ drained w c }) := by
  unfold bodyMdrain
  extract_lets +onlyGivenNames base count c ls out d u
  have hls : (ls.any fun b => !b.ecc.isEmpty) = false := by
    rw [List.any_eq_false]
    intro b hb
    obtain ⟨i, hi, rfl⟩ := List.mem_map.mp hb
    rw [show getLine c (base + i) = _ from rfl, show (getLine c (base + i)).ecc = [] from hecc i (Nat.le_of_lt_succ (List.mem_range.mp hi))]
    decide
  have hout : out = (List.range count).map fun i => drainLine (Ins.bit w 64) (getLine c (base + i)) := List.map_map ..
  rw [hls]
  refine congrArg Run.done ((if_neg Bool.false_ne_true).trans ?_)
  have hd : d = if Ins.bit w 65 then { c with drainVec := c.drainVec ++ out } else { c with drainPack := c.drainPack ++ out } := rfl
  show setCore v core d = setCore v core _
  rw [hd, hout]
  rfl

theorem mdrain_appends {c : Core} {out : List DLine} (ha : AtIns s core 1 0x12 .none w) (hb : sigBins (getCore s core).bins w = some bins)
    (hc : c = getCore s core)
    (hout : out = (List.range (Ins.bits w 76 66 + 1)).map (fun i => drainLine (Ins.bit w 64) (getLine c (Ins.bits w 87 77 + i))))
    (hecc : ∀ i, i ≤ Ins.bits w 76 66 → (getLine c (Ins.bits w 87 77 + i)).ecc = []) :
    Runs (.mdrain core .clean) s (fun t => t = { s with cores := t.cores } ∧
      Passed s t core 1 bins (fun k => if Ins.bit w 65 then { k with drainVec := k.drainVec ++ out }
        else { k with drainPack := k.drainPack ++ out })) := by
  have hline (n : Nat) : getLine (getCore (setHold s core 1 .none) core) n = getLine c n := by
    rw [getCore_setHold, if_pos rfl, hc]
    rfl
  refine runs_own rfl ha hb (bodyMdrain_clean fun i hi => (congrArg BenchLine.ecc (hline _)).trans (hecc i hi)) ?_ (fun c => ?_) fun c b => ?_
  · subst hout hc
    rfl
  · cases Ins.bit w 65 <;> exact ⟨rfl, rfl⟩
  · cases Ins.bit w 65 <;> rfl

theorem mfloor_sets (ha : AtIns s core 1 0x13 .none w) (hb : sigBins (getCore s core).bins w = some bins) :
    Runs (.mfloor core .clean) s (fun t => t = { s with cores := t.cores } ∧
      Passed s t core 1 bins (fun c => { c with floor := Ins.bits w 8 0 })) :=
  runs_own rfl ha hb rfl rfl (fun _ => ⟨rfl, rfl⟩) fun _ _ => rfl

end

/-! ## The activity of a frame -/

/-- The cycles from `c` on, `n` of them, in which an operation is due. -/
def dueIn (due : List Nat) (c n : Nat) : Nat := ((List.range' c n).filter due.contains).length

theorem dueIn_le (due : List Nat) (c n : Nat) : dueIn due c n ≤ n := Nat.le_trans (List.length_filter_le ..) (Nat.le_of_eq List.length_range')

theorem dueIn_succ (due : List Nat) (c n : Nat) : dueIn due c (n + 1) = dueIn due (c + 1) n + if due.contains c then 1 else 0 := by
  unfold dueIn
  rw [List.range'_succ, List.filter_cons]
  split
  · rfl
  · rfl

/-- A dummy operation comes only where the target needs every cycle that is left (04/R113). -/
theorem frameOps_counts (due : List Nat) (t : Nat) : ∀ n c ops dum, c + n = 256 →
    ∃ d, frameOps due t n c ops dum = (ops + dueIn due c n + d, dum + d) ∧ (t ≤ ops + n → t ≤ ops + dueIn due c n + d) ∧
      ops + dueIn due c n + d ≤ max (ops + dueIn due c n) t
  | 0, c, ops, dum, _ => ⟨0, rfl, fun h => h, Nat.le_max_left ..⟩
  | n + 1, c, ops, dum, hc => by
    have hle := dueIn_le due (c + 1) n
    rw [dueIn_succ]
    unfold frameOps
    by_cases hdue : due.contains c = true
    · obtain ⟨d, heq, hlow, hhigh⟩ := frameOps_counts due t n (c + 1) (ops + 1) dum (by omega)
      refine ⟨d, ?_, ?_, ?_⟩
      · rw [if_pos hdue, if_pos hdue, heq, Prod.mk.injEq]
        omega
      · rw [if_pos hdue]
        omega
      · rw [if_pos hdue]
        omega
    · rw [if_neg hdue, if_neg hdue]
      by_cases hneed : 256 - c ≤ t - ops
      · obtain ⟨d, heq, hlow, hhigh⟩ := frameOps_counts due t n (c + 1) (ops + 1) (dum + 1) (by omega)
        refine ⟨d + 1, ?_, by omega, by omega⟩
        rw [if_pos hneed, heq, Prod.mk.injEq]
        omega
      · obtain ⟨d, heq, hlow, hhigh⟩ := frameOps_counts due t n (c + 1) ops dum (by omega)
        refine ⟨d, ?_, by omega, by omega⟩
        rw [if_neg hneed, heq]
        rfl

theorem dueIn_frame {due : List Nat} (hn : due.Nodup) (hlt : ∀ x ∈ due, x < 256) : dueIn due 0 256 = due.length := by
  refine ((List.perm_ext_iff_of_nodup (List.Pairwise.filter _ List.nodup_range') hn).mpr fun x => ?_).length_eq
  rw [List.mem_filter, List.mem_range'_1, List.contains_iff_mem]
  exact ⟨And.right, fun h => ⟨⟨Nat.zero_le x, by have := hlt x h; omega⟩, h⟩⟩

theorem frameTarget_le (a floor quiet : Nat) : frameTarget a floor quiet ≤ a + 4 ∧ frameTarget a floor quiet ≤ 256 := by
  have hlow : (if quiet < 14 then a else a - 4) ≤ a := by
    split
    · exact Nat.le_refl _
    · exact Nat.sub_le ..
  unfold frameTarget
  dsimp only
  omega

theorem take_filter_nil (due : List Nat) (a : Nat) : (due.filter (· < 256)).take (a + 4) = [] ↔ ∀ x ∈ due, 256 ≤ x := by
  rw [List.take_eq_nil_iff, List.filter_eq_nil_iff]
  constructor
  · rintro (h | h) x hx
    · exact absurd h (Nat.succ_ne_zero _)
    · have := h x hx
      rw [decide_eq_true_eq] at this
      omega
  · refine fun h => .inr fun x hx => ?_
    have := h x hx
    rw [decide_eq_true_eq]
    omega

theorem activityFrame_counts {c : Core} {due : List Nat} (hd : due.Nodup) :
    ∃ a d, activityFrame c due = { c with
        activity := a, quiet := (if (∀ x ∈ due, 256 ≤ x) then c.quiet + 1 else 0)
        dummyCycles := c.dummyCycles + BitVec.ofNat 64 d } ∧
      a = min (due.filter (· < 256)).length (c.activity + 4) + d ∧
      frameTarget c.activity c.floor c.quiet ≤ a ∧ a ≤ c.activity + 4 ∧ a ≤ 256 := by
  have hsub : ((due.filter (· < 256)).take (c.activity + 4)).Sublist (due.filter (· < 256)) := List.take_sublist ..
  have hreal : dueIn ((due.filter (· < 256)).take (c.activity + 4)) 0 256 = min (due.filter (· < 256)).length (c.activity + 4) := by
    rw [dueIn_frame ((hd.filter _).sublist hsub) fun x hx => of_decide_eq_true (List.mem_filter.mp (hsub.subset hx)).2, List.length_take, Nat.min_comm]
  obtain ⟨d, heq, hlow, hhigh⟩ := frameOps_counts ((due.filter (· < 256)).take (c.activity + 4)) (frameTarget c.activity c.floor c.quiet) 256 0 0 0 rfl
  have hle := dueIn_le ((due.filter (· < 256)).take (c.activity + 4)) 0 256
  rw [hreal] at heq hlow hhigh hle
  obtain ⟨ht4, ht256⟩ := frameTarget_le c.activity c.floor c.quiet
  refine ⟨_, d, ?_, rfl, by omega, by omega, by omega⟩
  unfold activityFrame
  dsimp only
  rw [heq]
  dsimp only
  rw [Nat.zero_add, Nat.zero_add, ite_congr (propext (take_filter_nil due c.activity)) (fun _ => rfl) fun _ => rfl]

theorem activityFrame_runs {s : State} {core : Nat} {due : List Nat} {c : Core} (hc : c = getCore s core) (hd : due.Nodup) :
    Runs (.activityFrame core due) s (fun t => t = { s with cores := t.cores } ∧ (∀ k, k ≠ core → getCore t k = getCore s k) ∧
      ∃ a d, getCore t core = { c with
          activity := a, quiet := (if (∀ x ∈ due, 256 ≤ x) then c.quiet + 1 else 0)
          dummyCycles := c.dummyCycles + BitVec.ofNat 64 d } ∧
        a = min (due.filter (· < 256)).length (c.activity + 4) + d ∧
        frameTarget c.activity c.floor c.quiet ≤ a ∧ a ≤ c.activity + 4 ∧ a ≤ 256) := by
  obtain ⟨a, d, heq, hcounts⟩ := activityFrame_counts (c := c) hd
  refine ⟨modCore s core fun c => activityFrame c due, rfl, rfl, fun k hk => getCore_modCore_ne _ hk _, a, d, ?_, hcounts⟩
  rw [getCore_modCore_same, ← hc, heq]

/-- Settles O6: MDIAG works on each line once, as it stood; MDRAIN and MFLOOR change one field; the cycles of a frame are its
operations and the dummies its target needs. -/
theorem matrixArray : Obligations.MatrixArray := by
  unfold Obligations.MatrixArray
  exact ⟨fun _ _ _ _ _ _ _ ha hb hc hfs hbase hlen hfmt => mdiag_works ha hb hc hfs hbase hlen hfmt,
    fun _ _ _ _ _ _ ha hb hc hout hecc => mdrain_appends ha hb hc hout hecc,
    fun _ _ _ _ ha hb => mfloor_sets ha hb, fun _ _ _ _ hc _ hd => activityFrame_runs hc hd⟩

end Sys2Proof.Machine
end

section
/-! # The Packer (05/R149-R152) -/

namespace Sys2Proof.Machine

/-! ## Payload and tag of a packed crate -/

theorem length_zeros (n : Nat) : (Pack.zeros n).length = n := List.length_replicate

theorem length_take_padded (l : List Byte) (n : Nat) : ((l ++ Pack.zeros n).take n).length = n := by
  rw [List.length_take, List.length_append, length_zeros]
  omega

theorem length_payload (f : Nat) (o : F32) (ls : List Pack.PLine) : (Pack.payload f o ls).length = 4096 := by
  unfold Pack.payload
  dsimp only
  split
  · rw [List.length_append, List.length_append, List.length_append, length_take_padded, length_take_padded, length_toLe, length_zeros]
  · exact length_take_padded _ 4096

/-- The tag of a crate that the Packer fills, without re-weighing or prediction. -/
def packedTag (f : Nat) (p : List Byte) (sat : Nat) (bad : Bool) (lin : Nat) : W128 :=
  Tag.computed p f (if f != Fmt.fp32 then Pack.zmap f p else 0) (Tag.flagsOf sat bad false false (f != Fmt.fp32) false) lin

theorem flagsOf_poisoned (sat : Nat) (bad z : Bool) : decide (Tag.flagsOf sat bad false false z false / 2 ^ 7 % 2 = 1) = bad := by
  have hb (x : Bool) : Word.b2n x = if x = true then 1 else 0 := by cases x <;> rfl
  unfold Tag.flagsOf
  rw [hb, hb, hb]
  generalize min sat 255 = m
  cases bad <;> cases z <;> simp only [if_true, Bool.false_eq_true, if_false, decide_eq_true_eq, decide_eq_false_iff_not] <;> omega

theorem packedTag_fields {f : Nat} (p : List Byte) (sat : Nat) (bad : Bool) (core seq : Nat) (hf : f ≤ 5) :
    Tag.fmt (packedTag f p sat bad (Tag.coreLineage core seq)) = f ∧ Tag.check (packedTag f p sat bad (Tag.coreLineage core seq)) = Crc.crc64 p ∧
      Tag.poisoned (packedTag f p sat bad (Tag.coreLineage core seq)) = bad ∧
      Tag.lineage (packedTag f p sat bad (Tag.coreLineage core seq)) = Tag.coreLineage core seq := by
  refine ⟨(Tag.fmt_mk ..).trans (Nat.mod_eq_of_lt (by omega)), Tag.check_mk .., (Tag.poisoned_mk ..).trans (flagsOf_poisoned ..),
    (Tag.lineage_mk ..).trans (Nat.mod_eq_of_lt ?_)⟩
  unfold Tag.coreLineage
  omega

/-! ## One core at work -/

/-- Of `s`, only the core `core`, now `c`, the memories and the tallies may have changed. -/
structure AtWork (s : State) (core : Nat) (c : Core) (t : State) : Prop where
  only : t = { s with cores := t.cores, mem := t.mem, tallies := t.tallies }
  own : getCore t core = c
  others : ∀ k, k ≠ core → getCore t k = getCore s k

section
variable {s t : State} {core : Nat} {c : Core}

theorem AtWork.held (s : State) (core st : Nat) (h : Hold) : AtWork s core (heldCore (getCore s core) st h) (setHold s core st h) :=
  ⟨rfl, by rw [getCore_setHold, if_pos rfl], fun k hk => by rw [getCore_setHold, if_neg hk]⟩

theorem AtWork.modCore (h : AtWork s core c t) (g : Core → Core) : AtWork s core (g c) (modCore t core g) := by
  refine ⟨?_, ?_, fun k hk => (getCore_modCore_ne t hk g).trans (h.others k hk)⟩
  · obtain ⟨x, hx⟩ : ∃ x, Machine.modCore t core g = { t with cores := x } := ⟨_, rfl⟩
    rw [hx, h.only]
  · rw [getCore_modCore_same, h.own]

theorem AtWork.withMem (h : AtWork s core c t) (m : Mem) : AtWork s core c { t with mem := m } := by
  refine ⟨?_, h.own, h.others⟩
  rw [h.only]

theorem AtWork.withTallies (h : AtWork s core c t) (x : Tab W64) : AtWork s core c { t with tallies := x } := by
  refine ⟨?_, h.own, h.others⟩
  rw [h.only]

theorem AtWork.only_cores (h : AtWork s core c t) (x : Tab Core) :
    { t with cores := x } = { s with cores := x, mem := t.mem, tallies := t.tallies } := by
  rw [h.only]

theorem AtWork.launch_eq (h : AtWork s core c t) (hc : c.launch = (getCore s core).launch) : coreLaunch t core = coreLaunch s core := by
  have hl : t.launches = s.launches := by rw [h.only]
  unfold coreLaunch getLaunch
  rw [h.own, hc, hl]

theorem AtWork.packIds_eq (h : AtWork s core c t) (hc : c.launch = (getCore s core).launch) (hp : c.params = (getCore s core).params)
    (o : PackOp) (u : Nat) : packIds t core o u = packIds s core o u := by
  have hctx : t.ctxs = s.ctxs := by rw [h.only]
  have hst : t.stepSt = s.stepSt := by rw [h.only]
  unfold packIds getCtx
  rw [h.launch_eq hc, h.own, hp, hctx, hst]

end

/-! ## A unit of one crate -/

/-- A core that has counted a unit. -/
def countedCore (cnt : Pack.Counts) (c : Core) : Core :=
  { c with packCnt :=
      [c.packCnt.getD 0 0 + cnt.clipped, c.packCnt.getD 1 0 + cnt.under, c.packCnt.getD 2 0 + cnt.nans, c.packCnt.getD 3 0 + 0] }

theorem countedCore_zero (cnt : Pack.Counts) {c : Core} (h : c.packCnt = [0, 0, 0, 0]) :
    (countedCore cnt c).packCnt = [cnt.clipped, cnt.under, cnt.nans, 0] := by
  unfold countedCore
  simp [h]

/-- A core after a unit packed without re-weighing: one crate more and the unit's counts. -/
def packedCore (cnt : Pack.Counts) (c : Core) : Core := countedCore cnt { c with crateSeq := (c.crateSeq + 1) % 2 ^ 20 }

theorem packUnit_plain {s v : State} {core k : Nat} {c : Core} {o : PackOp} {ls : List DLine} {out : List Pack.PLine} {p : List Byte}
    (h : AtWork s core c v) (hrw : o.rw = none) (hpred : o.pred = none)
    (hout : out = Pack.packLines o.target o.rule0 o.stoch (packIds v core o 0) c.params.outer 0 (ls.map (·.vals)))
    (hp : p = Pack.payload o.target c.params.outer out) :
    AtWork s core (packedCore (Pack.countLines out) c) (packUnit v core o 0 k ls) ∧
      (packUnit v core o 0 k ls).mem = writeCrate v.mem k p
        (packedTag o.target p (Pack.countLines out).clipped (ls.any (·.poison)) (Tag.coreLineage core c.crateSeq)) ∧
      (packUnit v core o 0 k ls).tallies = v.tallies := by
  subst hp
  have hpredict : predictUnit v core o 0 c.params.outer ls = (v, false) := by
    unfold predictUnit
    rw [hpred]
  have hunit : packUnit v core o 0 k ls
      = addCounts (packCrate v core k o.target c.params.outer out (ls.any (·.poison)) false false) core (Pack.countLines out) 0 := by
    unfold packUnit
    rw [h.own, hrw]
    dsimp only
    rw [hpredict, hout]
  have hcrate : packCrate v core k o.target c.params.outer out (ls.any (·.poison)) false false
      = { modCore v core (fun c => { c with crateSeq := (c.crateSeq + 1) % 2 ^ 20 }) with
          mem := writeCrate v.mem k (Pack.payload o.target c.params.outer out)
            (packedTag o.target (Pack.payload o.target c.params.outer out) (Pack.countLines out).clipped (ls.any (·.poison))
              (Tag.coreLineage core (getCore v core).crateSeq)) } := rfl
  rw [h.own] at hcrate
  rw [hunit, hcrate]
  have h1 := (h.modCore fun c => { c with crateSeq := (c.crateSeq + 1) % 2 ^ 20 }).withMem (writeCrate v.mem k
    (Pack.payload o.target c.params.outer out) (packedTag o.target (Pack.payload o.target c.params.outer out)
      (Pack.countLines out).clipped (ls.any (·.poison)) (Tag.coreLineage core c.crateSeq)))
  exact ⟨h1.modCore (countedCore (Pack.countLines out)), rfl, rfl⟩

/-! ## The tallies of a PPACK -/

theorem satAdd_lt (n k : Nat) : satAdd 48 n k < 2 ^ 48 := by
  unfold satAdd
  omega

/-- Adds to a run of tallies, each in the launch's epoch. -/
theorem coreTallies_add (s : State) (core b : Nat) (inc : Nat → Nat) (n : Nat)
    (he : ∀ i, i < n → tallyEpochOf s (b + i) = launchEpoch (coreLaunch s core) (b + i)) :
    ∃ x, (List.range n).foldl (fun s i => coreTally s core (b + i) (inc i)) s = { s with tallies := x } ∧
      (∀ i, i < n → (tget 0#64 x (b + i)).toNat % 2 ^ 48 = satAdd 48 (tallyVal s (b + i)) (inc i)) ∧
      ∀ j, b + n ≤ j → tget 0#64 x j = tget 0#64 s.tallies j := by
  induction n with
  | zero => exact ⟨s.tallies, rfl, fun i hi => absurd hi (Nat.not_lt_zero i), fun _ _ => rfl⟩
  | succ n ih =>
    obtain ⟨x, hx, hin, hout⟩ := ih fun i hi => he i (Nat.lt_succ_of_lt hi)
    have hlast := hout (b + n) (Nat.le_refl _)
    have hepoch : tallyEpochOf { s with tallies := x } (b + n) = launchEpoch (coreLaunch s core) (b + n) := by
      rw [← he n n.lt_succ_self]
      show (tget 0#64 x (b + n)).toNat / _ = _
      rw [hlast]
      rfl
    have hval : tallyVal { s with tallies := x } (b + n) = tallyVal s (b + n) := by
      show (tget 0#64 x (b + n)).toNat % _ = _
      rw [hlast]
      rfl
    obtain ⟨y, hy, hsame, hother⟩ := addTally_put { s with tallies := x } (b + n) (inc n)
    refine ⟨y, ?_, fun i hi => ?_, fun j hj => ?_⟩
    · rw [List.range_succ, List.foldl_append, hx]
      exact (addTallyAt_current _ _ _ _ _ hepoch).trans hy
    · rcases Nat.lt_succ_iff_lt_or_eq.mp hi with hlt | rfl
      · rw [hother _ (by omega)]
        exact hin i hlt
      · rw [hsame, tallyW_val, hval]
        exact Nat.mod_eq_of_lt (satAdd_lt ..)
    · rw [hother _ (by omega)]
      exact hout j (by omega)

/-! ## PSET and PPACK -/

section
variable {s : State} {core : Nat} {w : W128} {bins : List Bin}

theorem pset_latches (ha : AtIns s core 2 0x20 .none w) (hb : sigBins (getCore s core).bins w = some bins)
    (hok : Fmt.outerOk (BitVec.ofNat 32 (Ins.bits w 87 56)) = true) :
    Runs (.pset core .clean) s (fun t => t = { s with cores := t.cores } ∧
      Passed s t core 2 bins (fun c => { c with params :=
        { outer := BitVec.ofNat 32 (Ins.bits w 87 56), th := Ins.bits w 55 40, layer := Ins.bits w 39 24,
          countBase := Ins.bits w 23 8, cbEn := Ins.bit w 7 } })) :=
  runs_own rfl ha hb (if_pos hok) rfl (fun _ => ⟨rfl, rfl⟩) fun _ _ => rfl

/-- The core after a post of bin `b`. -/
def postedCore (b : Nat) (c : Core) : Core := { c with bins := lset c.bins b { getBin c b with fill := ((getBin c b).fill + 1) % 2 ^ 32 } }

theorem implicitPost_posts {t : State} {b : Nat} (hs : (getBin (getCore t core) b).spaceOk = true) (hp : (getBin (getCore t core) b).producer ≠ 7) :
    implicitPost t core b = .ok (modCore t core (postedCore b)) := by
  have hocc := of_decide_eq_true hs
  have hpost : post (getCore t core) b = some (postedCore b (getCore t core)) := by
    unfold post
    exact if_neg fun h => h.elim (Nat.ne_of_lt hocc) hp
  unfold implicitPost
  rw [hpost]
  rfl

/-- A single unit waits for a slot that is there, is packed and posted. -/
theorem packUnits_one {v : State} {o : PackOp} {ls : List DLine} {k : Nat} {b : Bin} {c : Core} (h : AtWork s core c v)
    (hlen : ls.length ≤ Fmt.lines o.target)
    (hb : b = getBin c o.dst) (hspace : b.spaceOk = true) (hprod : b.producer ≠ 7) (hk : k = slotCrate core b b.fillSlot 0)
    (hbins : ∀ u, u = packUnit v core o 0 k ls → (getCore u core).bins = c.bins) :
    packUnits core w o 1 ls 1 0 v = .ok (modCore (packUnit v core o 0 k ls) core (postedCore o.dst)) := by
  have hbin : getBin (getCore v core) o.dst = b := by rw [h.own, hb]
  generalize hu : packUnit v core o 0 k ls = u
  have hbin' : getBin (getCore u core) o.dst = b := by
    rw [hb, getBin, hbins u hu.symm, getBin]
  have hpost : implicitPost u core o.dst = .ok (modCore u core (postedCore o.dst)) :=
    implicitPost_posts (by rw [hbin']; exact hspace) (by rw [hbin']; exact hprod)
  unfold packUnits
  rw [if_neg (by decide)]
  dsimp only
  rw [hbin, Nat.zero_mod, if_pos rfl, implicitWait, if_pos hspace]
  dsimp only
  rw [ite_self, Nat.zero_mul, List.drop_zero, List.take_of_length_le hlen, ← hk, hu, if_pos (.inr rfl), hpost]
  rfl

/-- The tallies get their counts, and the counts start again. -/
theorem packTallies_adds {v : State} {c : Core} (h : AtWork s core c v) (hl : c.launch = (getCore s core).launch)
    (hts : v.tallies = s.tallies)
    (he : c.params.cbEn = true → ∀ i, i < 4 →
      tallyEpochOf s (c.params.countBase + i) = launchEpoch (coreLaunch s core) (c.params.countBase + i)) :
    AtWork s core { c with packIn := [], packCnt := [0, 0, 0, 0] } (packTallies v core) ∧ (packTallies v core).mem = v.mem ∧
      (c.params.cbEn = false → (packTallies v core).tallies = s.tallies) ∧
      (c.params.cbEn = true → ∀ i, i < 4 → tallyVal (packTallies v core) (c.params.countBase + i)
        = satAdd 48 (tallyVal s (c.params.countBase + i)) (c.packCnt.getD i 0)) := by
  have h1 := h.modCore fun c => { c with packIn := [], packCnt := [0, 0, 0, 0] }
  have hl1 := h1.launch_eq hl
  unfold packTallies
  rw [h.own]
  dsimp only
  generalize hu : modCore v core _ = u at *
  have hum : u.mem = v.mem := by rw [← hu]; rfl
  have hut : u.tallies = s.tallies := by rw [← hu]; exact hts
  have hval (k : Nat) : tallyVal u k = tallyVal s k := by unfold tallyVal; rw [hut]
  by_cases hcb : c.params.cbEn = true
  · obtain ⟨x, hx, hin, -⟩ := coreTallies_add u core c.params.countBase (fun i => c.packCnt.getD i 0) 4 fun i hi => by
      rw [hl1, ← he hcb i hi]
      unfold tallyEpochOf
      rw [hut]
    rw [if_pos hcb, hx]
    exact ⟨h1.withTallies x, hum, fun h => absurd hcb (by rw [h]; decide), fun _ i hi => (hin i hi).trans (by rw [hval])⟩
  · rw [if_neg hcb]
    exact ⟨h1, hum, fun _ => hut, fun h => absurd h hcb⟩

theorem prog_heldCore (c : Core) (st : Nat) (h : Hold) : (getStation (heldCore c st h) st).prog = (getStation c st).prog := by
  have hst := getStation_modStation c st (fun x => { x with hold := h }) st
  have hheld : getStation (heldCore c st h) st = getStation (modStation c st fun x => { x with hold := h }) st := rfl
  rw [hheld, hst]
  split
  · rfl
  · rfl

/-- The core when the lines of a PPACK are in. -/
def takenIn (n : Nat) (ls : List DLine) (c : Core) : Core := { c with drainPack := c.drainPack.drop n, packIn := ls }

theorem packInput_drained {v : State} {o : PackOp} (hsrc : o.srcBin = none) (hone : 1 ≤ o.count)
    (hlen : o.count ≤ (getCore v core).drainPack.length) (hin : (getCore v core).packIn = []) :
    packInput v core w o = .ok (modCore v core fun c => { c with drainPack := c.drainPack.drop o.count }, (getCore v core).drainPack.take o.count) := by
  unfold packInput
  dsimp only
  rw [hin, List.length_nil, if_neg (Nat.not_le.mpr hone), hsrc]
  exact if_neg (Nat.not_lt.mpr hlen)

theorem one_unit {count n : Nat} (h1 : 1 ≤ count) (hn : count ≤ n) : (count + n - 1) / n = 1 := by
  rw [Nat.div_eq_iff (by omega)]
  omega

/-- A PPACK of one crate packs its lines as one unit and adds its counts. -/
theorem bodyPpack_one {v : State} {o : PackOp} {c : Core} {ls : List DLine} {k : Nat} {b : Bin} (h : AtWork s core c v) (ho : o = packOp w)
    (hsrc : o.srcBin = none) (htr : o.transpose = false) (hone : 1 ≤ o.count)
    (hlines : o.count ≤ Fmt.lines o.target) (hlen : o.count ≤ c.drainPack.length) (hin : c.packIn = []) (hprog : (getStation c 2).prog = 0)
    (hb : b = getBin c o.dst) (hspace : b.spaceOk = true) (hprod : b.producer ≠ 7) (hk : k = slotCrate core b b.fillSlot 0)
    (hls : ls = c.drainPack.take o.count) :
    ∃ u, AtWork s core (takenIn o.count ls c) u ∧ u.mem = v.mem ∧ u.tallies = v.tallies ∧
      ((getCore (packUnit u core o 0 k ls) core).bins = c.bins →
        bodyPpack v core w .clean = .done (packTallies (modCore (packUnit u core o 0 k ls) core (postedCore o.dst)) core)) := by
  have hlsn : ls.length = o.count := by rw [hls, List.length_take_of_le hlen]
  have hin' := packInput_drained (w := w) (v := v) (core := core) hsrc hone (by rw [h.own]; exact hlen) (by rw [h.own]; exact hin)
  rw [h.own, ← hls] at hin'
  have hu : AtWork s core (takenIn o.count ls c) (keepIn (modCore v core fun c => { c with drainPack := c.drainPack.drop o.count }) core ls) :=
    (h.modCore fun c => { c with drainPack := c.drainPack.drop o.count }).modCore fun c => { c with packIn := ls }
  refine ⟨_, hu, rfl, rfl, fun hbins => ?_⟩
  have hunits := packUnits_one (w := w) hu (hlsn ▸ hlines) hb hspace hprod hk fun _ h => h ▸ hbins
  have hprog' : (getStation (getCore (keepIn (modCore v core fun c => { c with drainPack := c.drainPack.drop o.count }) core ls) core) 2).prog = 0 := by
    rw [hu.own]
    exact hprog
  have htake : ls.take o.count = ls := List.take_of_length_le (Nat.le_of_eq hlsn)
  unfold bodyPpack
  rw [← ho]
  dsimp only
  rw [hin']
  dsimp only
  rw [htake, htr, if_neg Bool.false_ne_true, hprog', one_unit hone hlines, hunits]

/-- A station passes from the core at which its instruction's work ended. -/
theorem AtWork.finished {st : Nat} {d : Core} {y : State} {f : Core → Core} (h : AtWork s core d y)
    (hb : sigBins d.bins w = some bins) (hr : d.run ≠ 3)
    (hf : modStation (withBins d bins) st Station.next = f (passedCore (getCore s core) st bins d.run)) :
    Passed s (finish s core st (getStation (getCore s core) st).pc w (.done y)) core st bins f ∧
      finish s core st (getStation (getCore s core) st).pc w (.done y)
        = { y with cores := (finish s core st (getStation (getCore s core) st).pc w (.done y)).cores } := by
  have hr' : (getCore y core).run ≠ 3 := by rw [h.own]; exact hr
  have hb' : sigBins (getCore y core).bins w = some bins := by rw [h.own]; exact hb
  exact ⟨passed_of_done s s y core st w bins f hr' hb' h.others (by rw [h.own]; exact hf), (finish_done s y core st _ w bins hr' hb').2.2⟩

/-- What a PPACK leaves of its core passes as the core at which it began, with its lines taken and its crate counted. -/
theorem packed_passes {c : Core} {n q : Nat} {bs : List Bin} (hst : 2 < c.stations.length) (hin : c.packIn = []) (hcnt : c.packCnt = [0, 0, 0, 0]) :
    modStation (withBins { heldCore c 2 .none with
        drainPack := c.drainPack.drop n, crateSeq := q, bins := bs, packIn := [], packCnt := [0, 0, 0, 0] } bins) 2 Station.next
      = { passedCore c 2 bins (heldCore c 2 .none).run with drainPack := c.drainPack.drop n, crateSeq := q } := by
  have hnext := next_held c 2 .none bins hst
  have heta (r x y) (hx : x = c.packIn) (hy : y = c.packCnt) :
      { passedCore c 2 bins r with drainPack := c.drainPack.drop n, crateSeq := q, packIn := x, packCnt := y }
        = { passedCore c 2 bins r with drainPack := c.drainPack.drop n, crateSeq := q } := by
    subst hx hy
    rfl
  rw [← heta _ _ _ hin.symm hcnt.symm, ← hnext]
  rfl

theorem ppack_packs {c : Core} {o : PackOp} {b : Bin} {k : Nat} {ls : List DLine} {out : List Pack.PLine} {p : List Byte}
    (ha : AtIns s core 2 0x21 .none w) (hc : c = getCore s core) (ho : o = packOp w)
    (hsrc : o.srcBin = none) (hrw : o.rw = none) (htr : o.transpose = false) (hpred : o.pred = none) (htg : o.target ≤ 5)
    (hlines : o.count ≤ Fmt.lines o.target) (hlen : o.count ≤ c.drainPack.length)
    (hin : c.packIn = []) (hcnt : c.packCnt = [0, 0, 0, 0]) (hprog : (getStation c 2).prog = 0)
    (hb : b = getBin c o.dst) (hspace : b.spaceOk = true) (hprod : b.producer ≠ 7)
    (hk : k = slotCrate core b b.fillSlot 0) (hpl : Plain s.mem k) (hw : Writable s.mem)
    (hls : ls = c.drainPack.take o.count)
    (hout : out = Pack.packLines o.target o.rule0 o.stoch (packIds s core o 0) c.params.outer 0 (ls.map (·.vals)))
    (hp : p = Pack.payload o.target c.params.outer out)
    (he : c.params.cbEn = true → ∀ i, i < 4 →
      tallyEpochOf s (c.params.countBase + i) = launchEpoch (coreLaunch s core) (c.params.countBase + i))
    (hbins : sigBins (lset c.bins o.dst { b with fill := (b.fill + 1) % 2 ^ 32 }) w = some bins) :
    Runs (.ppack core .clean) s (fun t => t = { s with cores := t.cores, mem := t.mem, tallies := t.tallies } ∧
      Passed s t core 2 bins (fun c => { c with
        drainPack := c.drainPack.drop o.count, crateSeq := (c.crateSeq + 1) % 2 ^ 20 }) ∧
      (∃ tg, WroteCrate s.mem t.mem k p tg ∧ Tag.fmt tg = o.target ∧ Tag.check tg = Crc.crc64 p ∧
        Tag.poisoned tg = ls.any (·.poison) ∧ Tag.lineage tg = Tag.coreLineage core c.crateSeq) ∧
      (c.params.cbEn = false → t.tallies = s.tallies) ∧
      (c.params.cbEn = true → ∀ i, i < 4 → tallyVal t (c.params.countBase + i) = satAdd 48 (tallyVal s (c.params.countBase + i))
        ([(Pack.countLines out).clipped, (Pack.countLines out).under, (Pack.countLines out).nans, 0].getD i 0))) := by
  have hone : 1 ≤ o.count := by rw [ho]; exact Nat.succ_pos _
  obtain ⟨-, hrun, hst⟩ := fetch_runs ha.fetch
  have hheld := AtWork.held s core 2 .none
  rw [← hc] at hheld hrun hst
  obtain ⟨u, hu, hum, hut, hbody⟩ := bodyPpack_one hheld ho hsrc htr hone hlines hlen hin
    ((prog_heldCore c 2 .none).trans hprog) hb hspace hprod hk hls
  obtain ⟨hv, hvm, hvt⟩ := packUnit_plain (k := k) hu hrw hpred
    (hout.trans (by rw [hu.packIds_eq (by rw [← hc]; rfl) (by rw [← hc]; rfl)]; rfl)) hp
  replace hbody := hbody ((congrArg Core.bins hv.own).trans rfl)
  have hx := hv.modCore (postedCore o.dst)
  have hmem : (modCore (packUnit u core o 0 k ls) core (postedCore o.dst)).mem = (packUnit u core o 0 k ls).mem := rfl
  have htal : (modCore (packUnit u core o 0 k ls) core (postedCore o.dst)).tallies = (packUnit u core o 0 k ls).tallies := rfl
  obtain ⟨hy, hym, hyf, hyt⟩ := packTallies_adds hx (by rw [← hc]; rfl) (htal.trans (hvt.trans hut)) he
  have hym' := hym.trans (hmem.trans (hvm.trans (congrArg (writeCrate · k p _) hum)))
  generalize packTallies (modCore (packUnit u core o 0 k ls) core (postedCore o.dst)) core = y at *
  obtain ⟨hpass, hfr⟩ := hy.finished (bins := bins) (f := fun c => { c with
      drainPack := c.drainPack.drop o.count, crateSeq := (c.crateSeq + 1) % 2 ^ 20 }) (by rw [hb] at hbins; exact hbins)
    (heldCore_run c 2 .none hrun) (by rw [← hc]; exact packed_passes hst hin hcnt)
  refine ⟨_, congrArg Host.Outcome.next ((issue_clean bodyPpack ha).trans (congrArg _ hbody)), ?_⟩
  generalize finish s core 2 (getStation (getCore s core) 2).pc w (.done y) = t at *
  have htm : t.mem = y.mem := by rw [hfr]
  have htt : t.tallies = y.tallies := by rw [hfr]
  have hval (k : Nat) : tallyVal t k = tallyVal y k := by unfold tallyVal; rw [htt]
  refine ⟨?_, hpass, ⟨_, ?_, packedTag_fields p (Pack.countLines out).clipped (ls.any (·.poison)) core c.crateSeq htg⟩,
    fun h => htt.trans (hyf h), fun h i hi => ?_⟩
  · rw [htm, htt, hfr]
    exact hy.only_cores _
  · rw [htm, hym']
    exact writeCrate_wrote s.mem k p _ ((congrArg List.length hp).trans (length_payload ..)) hw.1 hw.2 hpl
  · rw [hval]
    refine (hyt h i hi).trans (congrArg (satAdd 48 _ <| ·.getD i 0) (countedCore_zero (Pack.countLines out) ?_))
    exact hcnt

end

/-- Settles O7: PSET is its body, and a PPACK whose lines fit one crate is one unit: a write of the crate, a post of its
slot, and four adds. -/
theorem packer : Obligations.Packer := by
  unfold Obligations.Packer
  exact ⟨fun _ _ _ _ ha hb hok => pset_latches ha hb hok,
    fun _ _ _ _ _ _ _ _ _ _ _ ha hc ho hsrc hrw htr hpred _ htg hlines hlen hin hcnt hprog hb hspace hprod _ hk hpl hw hls hout hp he hbins =>
      ppack_packs ha hc ho hsrc hrw htr hpred htg hlines hlen hin hcnt hprog hb hspace hprod hk hpl hw hls hout hp he hbins⟩

end Sys2Proof.Machine
end

section
/-! # Block passes (05/R147, 04/R104-R107, R119, R128) -/

namespace Sys2Proof.Machine

/-! ## The lines of a pass -/

/-- A core after one line of a pass: a skip entry leaves its bench line, any other changes and may weigh it. -/
def metLine (clear skip : Bool) (level : Nat) (t : Tile) (f : Feed) (n : Nat) (c : Core) : Core :=
  if f.skip && skip && !clear then c
  else
    let c' := setLine c n (benchLineAfter clear level t f (getLine c n))
    if weighs level f.fmt then { c' with weighChecks := c'.weighChecks + 8#64 } else c'

theorem passLines_cons (clear skip : Bool) (level : Nat) (t : Tile) (f : Feed) (fs : List Feed) (n : Nat) (c : Core) :
    (passLines clear skip level t (f :: fs) n c).1 = (passLines clear skip level t fs (n + 1) (metLine clear skip level t f n c)).1 ∧
      (sigmaClash clear t f (getLine c n) = false → (passLines clear skip level t (f :: fs) n c).2
        = (passLines clear skip level t fs (n + 1) (metLine clear skip level t f n c)).2) := by
  rw [passLines, metLine]
  split
  · exact ⟨rfl, fun _ => rfl⟩
  · refine ⟨rfl, fun h => ?_⟩
    dsimp only
    rw [h, Bool.false_or]

theorem getLine_metLine (clear skip : Bool) (level : Nat) (t : Tile) (f : Feed) (n : Nat) (c : Core) (k : Nat) :
    getLine (metLine clear skip level t f n c) k = if k = n then
      (if f.skip && skip && !clear then getLine c n else benchLineAfter clear level t f (getLine c n)) else getLine c k := by
  have hset (l : BenchLine) : getLine (setLine c n l) k = if k = n then l else getLine c k := getLine_setLine ..
  unfold metLine
  by_cases hs : (f.skip && skip && !clear) = true
  · rw [if_pos hs, if_pos hs]
    split
    · rename_i h
      rw [h]
    · rfl
  · rw [if_neg hs, if_neg hs]
    dsimp only
    split
    · exact hset _
    · exact hset _

/-- The block checks of a line (04/R119, R128). -/
def lineChecks (clear skip : Bool) (level : Nat) (f : Feed) : Bool := !(f.skip && skip && !clear) && weighs level f.fmt

theorem metLine_frame (clear skip : Bool) (level : Nat) (t : Tile) (f : Feed) (n : Nat) (c : Core) :
    ∃ b, metLine clear skip level t f n c = { c with
      bench := b, weighChecks := c.weighChecks + BitVec.ofNat 64 (8 * (if lineChecks clear skip level f then 1 else 0)) } := by
  have hzero : c.weighChecks + BitVec.ofNat 64 (8 * 0) = c.weighChecks := BitVec.add_zero _
  unfold metLine lineChecks
  by_cases hs : (f.skip && skip && !clear) = true
  · refine ⟨c.bench, ?_⟩
    rw [if_pos hs, hs, if_neg (by simp), hzero]
  · refine ⟨tset {} c.bench n (benchLineAfter clear level t f (getLine c n)), ?_⟩
    rw [if_neg hs, Bool.eq_false_iff.mpr hs]
    by_cases hw : weighs level f.fmt = true
    · rw [hw]
      rfl
    · rw [Bool.eq_false_iff.mpr hw, if_neg Bool.false_ne_true, if_neg (show ¬ (!false && false) = true by decide), hzero]
      rfl

theorem passLines_frame (clear skip : Bool) (level : Nat) (t : Tile) : ∀ (fs : List Feed) (n : Nat) (c : Core),
    ∃ b, (passLines clear skip level t fs n c).1 = { c with
      bench := b, weighChecks := c.weighChecks + BitVec.ofNat 64 (8 * (fs.filter (lineChecks clear skip level)).length) }
  | [], _, c => ⟨c.bench, by
      rw [show c.weighChecks + BitVec.ofNat 64 (8 * ([].filter (lineChecks clear skip level)).length) = c.weighChecks from BitVec.add_zero _]
      rfl⟩
  | f :: fs, n, c => by
    obtain ⟨b, hb⟩ := metLine_frame clear skip level t f n c
    obtain ⟨d, hd⟩ := passLines_frame clear skip level t fs (n + 1) (metLine clear skip level t f n c)
    have hlen : ((f :: fs).filter (lineChecks clear skip level)).length
        = (if lineChecks clear skip level f then 1 else 0) + (fs.filter (lineChecks clear skip level)).length := by
      rw [List.filter_cons]
      split
      · exact Nat.add_comm ..
      · exact (Nat.zero_add _).symm
    refine ⟨d, (passLines_cons ..).1.trans (hd.trans ?_)⟩
    rw [hb, hlen, Nat.mul_add, BitVec.ofNat_add, ← BitVec.add_assoc]

/-- Each line met is changed by the line that streams, as it stood; the others stay; without a clash none is told. -/
theorem getLine_passLines (clear skip : Bool) (level : Nat) (t : Tile) : ∀ (fs : List Feed) (n : Nat) (c : Core),
    (∀ i f, fs[i]? = some f → getLine (passLines clear skip level t fs n c).1 (n + i) = if f.skip && skip && !clear then getLine c (n + i)
      else benchLineAfter clear level t f (getLine c (n + i))) ∧
    (∀ k, k < n ∨ n + fs.length ≤ k → getLine (passLines clear skip level t fs n c).1 k = getLine c k) ∧
    ((∀ i f, fs[i]? = some f → sigmaClash clear t f (getLine c (n + i)) = false) → (passLines clear skip level t fs n c).2 = false)
  | [], _, _ => ⟨fun _ _ h => (nomatch h), fun _ _ => rfl, fun _ => rfl⟩
  | g :: fs, n, c => by
    obtain ⟨hin, hout, hclash⟩ := getLine_passLines clear skip level t fs (n + 1) (metLine clear skip level t g n c)
    obtain ⟨h1, h2⟩ := passLines_cons clear skip level t g fs n c
    refine ⟨fun i f hf => ?_, fun k hk => ?_, fun h => (h2 (h 0 g rfl)).trans (hclash fun i f hf => ?_)⟩
    · rw [h1]
      cases i with
      | zero =>
        obtain rfl := Option.some.inj hf
        refine (hout n (.inl n.lt_succ_self)).trans ?_
        rw [getLine_metLine, if_pos rfl]
        rfl
      | succ i =>
        have h := hin i f hf
        rw [getLine_metLine, if_neg (show n + 1 + i ≠ n by omega)] at h
        rw [show n + (i + 1) = n + 1 + i by omega]
        exact h
    · rw [List.length_cons] at hk
      rw [h1]
      refine (hout k (by omega)).trans ?_
      rw [getLine_metLine, if_neg (by omega)]
    · rw [getLine_metLine, if_neg (by omega), show n + 1 + i = n + (i + 1) by omega]
      exact h (i + 1) f hf

/-! ## A pass -/

/-- A core whose pass begins to stream. -/
def passStart (w : W128) (c : Core) : Core :=
  { c with
    active := if Ins.bit w 64 then c.shadow else c.active
    shadow := if Ins.bit w 64 then { c.active with loaded := false } else c.shadow
    feeder := c.feeder.drop (Ins.bits w 76 66 + 1), pass := (c.pass + 1) % 2 ^ 32, level := Ins.bits w 63 62, diagMode := false }

/-- The lines of a pass over a core that has begun it, and whether a σ clashed. -/
def passOver (w : W128) (fs : List Feed) (c : Core) : Core × Bool :=
  passLines (Ins.bit w 65) (Ins.bit w 61) (Ins.bits w 63 62) c.active fs (Ins.bits w 87 77) c

/-- A whole pass of a core. -/
def passRun (w : W128) (fs : List Feed) (c : Core) : Core × Bool := passOver w fs (passStart w c)

section
variable {s : State} {core : Nat} {w : W128} {bins : List Bin}

theorem passStart_swap (c : Core) :
    ({ (if Ins.bit w 64 then swapTiles c else c) with
      feeder := (if Ins.bit w 64 then swapTiles c else c).feeder.drop (Ins.bits w 76 66 + 1)
      pass := ((if Ins.bit w 64 then swapTiles c else c).pass + 1) % 2 ^ 32, level := Ins.bits w 63 62, diagMode := false } : Core) = passStart w c := by
  unfold passStart
  cases Ins.bit w 64
  · rfl
  · rfl

/-- The state after the lines of a pass, a σ that clashed having been told (04/R107). -/
def passTold (v : State) (core : Nat) (c : Core) (clash : Bool) : State :=
  if clash then raiseCore (setCore v core c) 0xEF (coreCtx (setCore v core c) core) core 1 (getStation c 1).pc 0 else setCore v core c

theorem passTold_raised (v : State) (core : Nat) (c : Core) (clash : Bool) : Raised (setCore v core c) (passTold v core c clash) := by
  unfold passTold
  split
  · exact raiseCore_raised ..
  · exact Raised.refl _

theorem bodyMpass_clean {v : State} {fs : List Feed} (hfs : (getCore v core).feeder.take (Ins.bits w 76 66 + 1) = fs)
    (hr : mpassRefusal (getCore v core) w fs (Ins.bits w 76 66 + 1) = none) :
    bodyMpass v core w .clean = .done (passTold v core (passRun w fs (getCore v core)).1 (passRun w fs (getCore v core)).2) := by
  rw [passRun, ← passStart_swap]
  unfold bodyMpass
  dsimp only
  rw [hfs, hr]
  rfl

/-- The core after a pass, with the bench lines `b` and `m` lines weighed. -/
def passedWith (w : W128) (c0 : Core) (b : Tab BenchLine) (m : Nat) (c : Core) : Core :=
  { c with
    active := if Ins.bit w 64 then c0.shadow else c0.active
    shadow := if Ins.bit w 64 then { c0.active with loaded := false } else c0.shadow
    feeder := c0.feeder.drop (Ins.bits w 76 66 + 1), pass := (c0.pass + 1) % 2 ^ 32, level := Ins.bits w 63 62
    diagMode := false, bench := b, weighChecks := c0.weighChecks + BitVec.ofNat 64 (8 * m) }

theorem passRun_core (fs : List Feed) (c : Core) : ∃ b, (passRun w fs c).1
    = passedWith w c b (fs.filter (lineChecks (Ins.bit w 65) (Ins.bit w 61) (Ins.bits w 63 62))).length c := by
  obtain ⟨b, hb⟩ := passLines_frame (Ins.bit w 65) (Ins.bit w 61) (Ins.bits w 63 62) (passStart w c).active fs (Ins.bits w 87 77) (passStart w c)
  exact ⟨b, hb⟩

theorem mpass_passes {c : Core} {fs : List Feed} {base : Nat} {tile : Tile} {clear skip : Bool} (ha : AtIns s core 1 0x10 .none w)
    (hb : sigBins (getCore s core).bins w = some bins)
    (hc : c = getCore s core) (hfs : fs = c.feeder.take (Ins.bits w 76 66 + 1)) (hbase : base = Ins.bits w 87 77)
    (hr : mpassRefusal c w fs (Ins.bits w 76 66 + 1) = none)
    (htile : tile = (if Ins.bit w 64 then c.shadow else c.active)) (hclear : clear = Ins.bit w 65) (hskip : skip = Ins.bit w 61) :
    Runs (.mpass core .clean) s (fun t =>
      t = { s with cores := t.cores, mem := t.mem, stepSt := t.stepSt, events := t.events } ∧
      ((∀ i f, fs[i]? = some f → sigmaClash clear tile f (getLine c (base + i)) = false) → t = { s with cores := t.cores }) ∧
      (∀ k, k ≠ core → getCore t k = getCore s k) ∧
      ∃ r b, r ≠ 3 ∧ getCore t core =
        { passedCore c 1 bins r with
          active := tile, shadow := (if Ins.bit w 64 then { c.active with loaded := false } else c.shadow)
          feeder := c.feeder.drop (Ins.bits w 76 66 + 1), pass := (c.pass + 1) % 2 ^ 32, level := Ins.bits w 63 62
          diagMode := false, bench := b
          weighChecks := c.weighChecks + BitVec.ofNat 64 (8 * (fs.filter fun f =>
            !(f.skip && skip && !clear) && weighs (Ins.bits w 63 62) f.fmt).length) } ∧
        (∀ i f, fs[i]? = some f → tget {} b (base + i) =
          if f.skip && skip && !clear then getLine c (base + i)
          else benchLineAfter clear (Ins.bits w 63 62) tile f (getLine c (base + i))) ∧
        ∀ n, n < base ∨ base + fs.length ≤ n → tget {} b n = getLine c n) := by
  subst hbase htile hclear hskip
  have hheld := AtWork.held s core 1 .none
  rw [← hc] at hheld
  have hbody := bodyMpass_clean (v := setHold s core 1 .none) (core := core) (fs := fs) (by rw [hheld.own, hfs]; rfl) (by rw [hheld.own]; exact hr)
  rw [hheld.own] at hbody
  obtain ⟨hin, hout, hclash⟩ := getLine_passLines (Ins.bit w 65) (Ins.bit w 61) (Ins.bits w 63 62) (passStart w (heldCore c 1 .none)).active fs
    (Ins.bits w 87 77) (passStart w (heldCore c 1 .none))
  obtain ⟨b, hrun⟩ := passRun_core (w := w) fs (heldCore c 1 .none)
  have htold := passTold_raised (setHold s core 1 .none) core (passRun w fs (heldCore c 1 .none)).1 (passRun w fs (heldCore c 1 .none)).2
  have hquiet : (passRun w fs (heldCore c 1 .none)).2 = false →
      passTold (setHold s core 1 .none) core (passRun w fs (heldCore c 1 .none)).1 (passRun w fs (heldCore c 1 .none)).2
        = setCore (setHold s core 1 .none) core (passRun w fs (heldCore c 1 .none)).1 := fun h => by rw [h]; rfl
  have hset := hheld.modCore fun _ => (passRun w fs (heldCore c 1 .none)).1
  obtain ⟨x, hx⟩ : ∃ x, setCore (setHold s core 1 .none) core (passRun w fs (heldCore c 1 .none)).1 = { s with cores := x } := ⟨_, rfl⟩
  have hlines (n : Nat) : getLine (passRun w fs (heldCore c 1 .none)).1 n = tget {} b n := by rw [hrun]; rfl
  rw [hx] at htold hquiet
  have hown : getCore ({ s with cores := x } : State) core = (passRun w fs (heldCore c 1 .none)).1 := by rw [← hx]; exact hset.own
  have hothers (k : Nat) (hk : k ≠ core) : getCore ({ s with cores := x } : State) k = getCore s k := by rw [← hx]; exact hset.others k hk
  generalize passTold (setHold s core 1 .none) core (passRun w fs (heldCore c 1 .none)).1 (passRun w fs (heldCore c 1 .none)).2 = u at *
  have hcores (k : Nat) : getCore u k = getCore ({ s with cores := x } : State) k := by
    unfold getCore
    rw [htold]
  obtain ⟨⟨⟨r, hr3, hcore⟩, hne⟩, hfr⟩ := finish_passes s
    (passedWith w c b (fs.filter (lineChecks (Ins.bit w 65) (Ins.bit w 61) (Ins.bits w 63 62))).length) ha hb
    (by rw [hcores, hown, hrun, ← hc]; rfl) (fun k hk => (hcores k).trans (hothers k hk)) (fun _ => ⟨rfl, rfl⟩) fun _ _ => rfl
  refine ⟨_, congrArg Host.Outcome.next ((issue_clean bodyMpass ha).trans (congrArg _ hbody)), ?_⟩
  generalize finish s core 1 (getStation (getCore s core) 1).pc w (.done u) = t at *
  rw [← hc] at hcore
  refine ⟨?_, fun h => ?_, hne, r, b, hr3, hcore, fun i f hf => (hlines _).symm.trans (hin i f hf), fun n hn => (hlines n).symm.trans (hout n hn)⟩
  · rw [hfr, htold]
  · rw [hfr, hquiet (hclash h)]

end

/-- Settles O5: a pass streams its lines one by one, each over the bench line it meets, and raises an event only for a σ that
clashed. -/
theorem blockPass : Obligations.BlockPass := by
  unfold Obligations.BlockPass
  exact fun _ _ _ _ _ _ _ _ _ _ ha hb hc hfs hbase hr htile hclear hskip => mpass_passes ha hb hc hfs hbase hr htile hclear hskip

end Sys2Proof.Machine
end

section
/-! # No instruction changes how many stations a core has -/

namespace Sys2Proof.Machine

/-- Every core of `t` has as many stations as in `s`. -/
structure AsLong (s t : State) : Prop where
  len : ∀ k, (getCore t k).stations.length = (getCore s k).stations.length

/-- A way for an instruction to end other than by completing. -/
def Run.Stops : Run → Prop
  | .done _ => False
  | _ => True

/-- What an operation that may stop its instruction leaves when it does not: `st` is the state of its result, `run` how its
error stops. -/
def ExceptAsLong {ε α : Type} (run : ε → Run) (st : α → State) (s : State) : Except ε α → Prop
  | .ok a => AsLong s (st a)
  | .error e => (run e).Stops

theorem AsLong.refl (s : State) : AsLong s s := ⟨fun _ => rfl⟩
theorem AsLong.trans {s t u : State} (h : AsLong s t) (g : AsLong t u) : AsLong s u := ⟨fun k => (g.len k).trans (h.len k)⟩
theorem AsLong.ite {s t u : State} {p : Prop} [Decidable p] (h : AsLong s t) (g : AsLong s u) : AsLong s (if p then t else u) := by
  split
  · exact h
  · exact g
theorem AsLong.pair {α : Type} {s u : State} {p : State × α} {x : α} (h : AsLong s p.1) (hp : p = (u, x)) : AsLong s u := by
  rw [hp] at h
  exact h
theorem AsLong.foldl {α : Type} {f : State → α → State} (hf : ∀ s a, AsLong s (f s a)) (l : List α) (s : State) : AsLong s (l.foldl f s) := by
  induction l generalizing s with
  | nil => exact .refl s
  | cons a l ih => exact (hf s a).trans (ih (f s a))
theorem AsLong.of_cores {s t : State} (h : t.cores = s.cores) : AsLong s t := by
  refine ⟨fun k => ?_⟩
  unfold getCore
  rw [h]

theorem Raised.asLong {s t : State} (h : Raised s t) : AsLong s t := .of_cores (by rw [h])
theorem Noted.asLong {s t : State} (h : Noted s t) : AsLong s t := .of_cores (by rw [h])
theorem Reported.asLong {s t : State} (h : Reported s t) : AsLong s t := .of_cores h.cores

theorem modCore_asLong (s : State) (k : Nat) {g : Core → Core} (hg : ∀ c, (g c).stations.length = c.stations.length) :
    AsLong s (modCore s k g) := by
  refine ⟨fun j => ?_⟩
  by_cases h : j = k
  · rw [h, getCore_modCore_same, hg]
  · rw [getCore_modCore_ne s h]

theorem setCore_asLong {s : State} {k : Nat} {c : Core} (hc : c.stations.length = (getCore s k).stations.length) : AsLong s (setCore s k c) := by
  refine ⟨fun j => ?_⟩
  have hset := getCore_setCore s k c j
  rw [hset]
  split
  next h => rw [h, hc]
  next => rfl

theorem length_modStation (c : Core) (st : Nat) (g : Station → Station) : (modStation c st g).stations.length = c.stations.length := length_lset ..

/-! ## Crates -/

theorem countCheckFail_noted (s : State) (a lineage chip reason : Nat) : Noted s (countCheckFail s a lineage chip reason) := by
  have hbump (s : State) (u : W64) (g : UnitRec → UnitRec) : Noted s (countEvent (modUnit s u g) u 0xE0 0) := (modUnit_noted ..).trans (countEvent_noted ..)
  unfold countCheckFail
  exact .ite ((logRec_noted ..).trans ((hbump _ _ _).trans (hbump _ _ _))) ((logRec_noted ..).trans (hbump _ _ _))

theorem setMem_asLong (s : State) (m : Mem) : AsLong s (setMem s m) := .of_cores rfl

theorem moveRead_asLong (s : State) (cg : CtxGen) (core crate : Nat) : AsLong s (moveRead s cg core crate).1 := by
  have hread : AsLong s (setMem (reportBad s cg crate core) (cacheTouch (reportBad s cg crate core).mem crate false)) :=
    (reportBad_noted ..).asLong.trans (setMem_asLong ..)
  unfold moveRead
  dsimp only
  split
  · exact hread
  · exact hread.trans ((raiseCrate_raised ..).asLong.trans (countCheckFail_noted ..).asLong)

theorem consume_asLong (s : State) (cg : CtxGen) (core crate : Nat) : AsLong s (consume s cg core crate).1 := by
  have hread : AsLong s (setMem (reportBad s cg crate core) (cacheTouch (reportBad s cg crate core).mem crate false)) :=
    (reportBad_noted ..).asLong.trans (setMem_asLong ..)
  have hmark (u : State) : AsLong u (modCore u core fun c => { c with seen := ninsert c.seen crate }) := modCore_asLong u core fun _ => rfl
  unfold consume
  extract_lets t p s1 s2 seen mark
  split
  · exact .ite hread (hread.trans ((raiseCrate_raised ..).asLong.trans ((logRec_noted ..).asLong.trans (hmark _))))
  · split
    · exact hread
    · exact .ite hread (hread.trans ((raiseCrate_raised ..).asLong.trans ((countCheckFail_noted ..).asLong.trans (hmark _))))

theorem takeCrate_asLong (s : State) (core crate : Nat) : AsLong s (takeCrate s core crate).1 := consume_asLong ..

theorem putCrate_asLong (s : State) (crate : Nat) (p : List Byte) (t : W128) : AsLong s (putCrate s crate p t) := setMem_asLong ..

theorem moveCrate_asLong (s : State) (cg : CtxGen) (core a b : Nat) : AsLong s (moveCrate s cg core a b) :=
  (moveRead_asLong s cg core a).trans (putCrate_asLong ..)

theorem coreLineageNext_asLong (s : State) (core : Nat) : AsLong s (coreLineageNext s core).1 :=
  modCore_asLong s core (g := fun c => { c with crateSeq := (c.crateSeq + 1) % 2 ^ 20 }) fun _ => rfl

/-! ## Bins -/

theorem implicitWait_stops {s : State} {w : W128} {ok : Bool} {reason bin : Nat} {r : Run} (h : implicitWait s w ok reason bin = some r) : r.Stops := by
  unfold implicitWait at h
  split at h
  · exact nomatch h
  · split at h
    · exact Option.some.inj h ▸ trivial
    · exact Option.some.inj h ▸ trivial

theorem post_length {c d : Core} {b : Nat} (h : post c b = some d) : d.stations.length = c.stations.length := by
  unfold post at h
  dsimp only at h
  split at h
  · exact nomatch h
  · exact Option.some.inj h ▸ rfl

theorem release_length {c d : Core} {b : Nat} (h : release c b = some d) : d.stations.length = c.stations.length := by
  unfold release at h
  dsimp only at h
  split at h
  · exact nomatch h
  · exact Option.some.inj h ▸ rfl

theorem implicitPost_asLong (s : State) (core b : Nat) : ExceptAsLong id id s (implicitPost s core b) := by
  unfold implicitPost
  split
  next c h => exact setCore_asLong (post_length h)
  next => trivial

theorem implicitRelease_asLong (s : State) (core b : Nat) : ExceptAsLong id id s (implicitRelease s core b) := by
  unfold implicitRelease
  split
  next c h => exact setCore_asLong (release_length h)
  next => trivial

section
variable {ε α : Type} {run : ε → Run} {st : α → State} {s t : State} {r : Except ε α}

theorem ExceptAsLong.after (h : AsLong s t) (g : ExceptAsLong run st t r) : ExceptAsLong run st s r := by
  cases r with
  | ok u => exact h.trans g
  | error r => exact g

theorem ExceptAsLong.ok {a : α} (h : ExceptAsLong run st s r) (hr : r = .ok a) : AsLong s (st a) := by
  rw [hr] at h
  exact h

theorem ExceptAsLong.error {e : ε} (h : ExceptAsLong run st s r) (hr : r = .error e) : (run e).Stops := by
  rw [hr] at h
  exact h

theorem ExceptAsLong.ite {p : Prop} [Decidable p] {q : Except ε α} (h : ExceptAsLong run st s r) (g : ExceptAsLong run st s q) :
    ExceptAsLong run st s (if p then r else q) := by
  split
  · exact h
  · exact g

end

theorem releaseN_asLong (core b : Nat) : ∀ n s, ExceptAsLong id id s (releaseN core b n s)
  | 0, s => AsLong.refl s
  | n + 1, s => by
    unfold releaseN
    split
    next t ht => exact .after ((implicitRelease_asLong s core b).ok ht) (releaseN_asLong core b n t)
    next r hr => exact (implicitRelease_asLong s core b).error hr

/-! ## The Loader -/

theorem gatherCrate_asLong (core : Nat) (skip rw vt : Bool) (lines crate : Nat) (g : Gather) :
    ExceptAsLong id Gather.s g.s (gatherCrate core skip rw vt lines crate g) := by
  have h := takeCrate_asLong g.s core crate
  unfold gatherCrate
  dsimp only
  split
  next => trivial
  next =>
    refine .ite ?_ (.ite trivial (.ite trivial (.ite h h)))
    split <;> trivial

theorem gatherSlot_asLong (core : Nat) (skip rw vt : Bool) (lines : Nat) : ∀ n c g,
    ExceptAsLong id Gather.s g.s (gatherSlot core skip rw vt lines n c g)
  | 0, _, g => AsLong.refl g.s
  | n + 1, c, g => by
    have h := gatherCrate_asLong core skip rw vt lines c g
    unfold gatherSlot
    refine .ite (AsLong.refl g.s) ?_
    split
    next g' hg => exact .ite (h.ok hg) (.after (h.ok hg) (gatherSlot_asLong core skip rw vt lines n (c + 1) g'))
    next r hr => exact h.error hr

theorem gatherSlots_asLong (core : Nat) (w : W128) (b : Nat) (keep : Bool) (slot0 lines : Nat) : ∀ n k g,
    ExceptAsLong Prod.fst Gather.s g.s (gatherSlots core w b keep slot0 lines n k g)
  | 0, _, g => AsLong.refl g.s
  | n + 1, k, g => by
    unfold gatherSlots
    refine .ite (AsLong.refl g.s) ?_
    dsimp only
    refine .ite (by split <;> trivial) ?_
    split
    next r hr => exact (gatherSlot_asLong _ _ _ _ _ _ _ g).error hr
    next g' hg =>
      have h := (gatherSlot_asLong _ _ _ _ _ _ _ g).ok hg
      refine .ite (.after h (gatherSlots_asLong core w b keep slot0 lines n (k + 1) g')) ?_
      split
      next r hr => exact (implicitRelease_asLong g'.s core b).error hr
      next s' hs => exact .after (h.trans ((implicitRelease_asLong g'.s core b).ok hs)) (gatherSlots_asLong core w b keep slot0 lines n (k + 1) _)

/-- Of what a body ends in, a completed instruction's state has the stations it began with. -/
def Run.AsLong (s : State) : Run → Prop
  | .done t => Machine.AsLong s t
  | _ => True

theorem Run.Stops.asLong {s : State} {r : Run} (h : r.Stops) : r.AsLong s := by
  cases r with
  | done t => exact h.elim
  | _ => trivial

theorem Run.AsLong.after {s t : State} {r : Run} (h : Machine.AsLong s t) (g : r.AsLong t) : r.AsLong s := by
  cases r with
  | done u => exact h.trans g
  | _ => trivial

theorem Run.AsLong.ite {s : State} {p : Prop} [Decidable p] {r q : Run} (h : r.AsLong s) (g : q.AsLong s) : (if p then r else q).AsLong s := by
  split
  · exact h
  · exact g

section
variable (s : State) (core : Nat) (w : W128)

theorem bodyLstream_asLong (f : Finding) : (bodyLstream s core w f).AsLong s := by
  unfold bodyLstream
  dsimp only
  split
  next g hg => exact ((gatherSlots_asLong ..).ok hg).trans (modCore_asLong g.s core fun _ => rfl)
  next => split <;> trivial
  next r g _ hr => exact Run.Stops.asLong ((gatherSlots_asLong ..).error hr)

theorem takeCrates_asLong : ∀ (l : List Nat) (s : State), AsLong s (takeCrates core l s).1
  | [], s => .refl s
  | c :: l, s => (takeCrate_asLong s core c).trans (takeCrates_asLong l _)

theorem some_stops {r q : Run} (h : r.Stops) (hq : some r = some q) : q.Stops := Option.some.inj hq ▸ h

theorem ite_stops {p : Prop} [Decidable p] {a b : Option Run} (ha : ∀ r, a = some r → r.Stops) (hb : ∀ r, b = some r → r.Stops) :
    ∀ r, (if p then a else b) = some r → r.Stops := by
  split
  · exact ha
  · exact hb

theorem weightRefusal_stops (xs : List InCrate) (n : Nat) : ∀ r, weightRefusal s w xs n = some r → r.Stops := by
  have hf (k : Nat) : ∀ r, some (Run.fault k s) = some r → r.Stops := fun r => some_stops trivial
  unfold weightRefusal
  dsimp only
  split
  next => exact hf _
  next =>
    refine ite_stops (fun r => some_stops ?_) (ite_stops (hf _) (ite_stops (hf _) (ite_stops (hf _) (ite_stops (hf _) fun r h => nomatch h))))
    split <;> trivial

theorem keepWait_stops {p : Bool} {s : State} {w : W128} {ok : Bool} {reason bin : Nat} {r : Run}
    (h : (if p = true then none else implicitWait s w ok reason bin) = some r) : r.Stops := by
  split at h
  · exact nomatch h
  · exact implicitWait_stops h

/-- A body whose last act is an operation that may stop it. -/
theorem ExceptAsLong.run {s : State} {r : Except Run State} (h : ExceptAsLong id id s r) :
    (match r with | Except.ok s => Run.done s | Except.error r => r).AsLong s := by
  cases r with
  | ok t => exact h
  | error r => exact Run.Stops.asLong h

theorem bodyLweight_asLong (f : Finding) : (bodyLweight s core w f).AsLong s := by
  unfold bodyLweight
  extract_lets b n rw keep bin slots slot0
  split
  next r hr => exact (keepWait_stops hr).asLong
  next =>
    split
    next u xs hp =>
      have h1 : AsLong s u := (takeCrates_asLong core _ s).pair hp
      split
      next r hr => exact (weightRefusal_stops _ _ _ _ r hr).asLong
      next =>
        have h2 : AsLong u (modCore u core fun c => { c with shadow := tileOf xs (Ins.bit w 77) (Ins.bits w 76 75) (Ins.bits w 74 72) }) :=
          modCore_asLong u core fun _ => rfl
        refine .after (h1.trans (h2.trans ?_)) (ExceptAsLong.run (releaseN_asLong ..))
        exact .ite (raiseCore_raised ..).asLong (.refl _)

theorem bodyLdiag_asLong (f : Finding) : (bodyLdiag s core w f).AsLong s := by
  unfold bodyLdiag
  extract_lets b keep bin slot
  split
  next r hr => exact (keepWait_stops hr).asLong
  next =>
    have h1 := takeCrate_asLong s core (slotCrate core bin slot (Ins.bits w 66 56))
    generalize takeCrate s core (slotCrate core bin slot (Ins.bits w 66 56)) = p at *
    obtain ⟨u, x⟩ := p
    dsimp only
    split
    next => trivial
    next => exact 
      .after (h1.trans (modCore_asLong u core (g := fun c => { c with
        diag := Fmt.lineF32 Fmt.fp32 x.bytes (Ins.bits w 81 79), diagPoison := x.poison }) fun _ => rfl)) (ExceptAsLong.run (releaseN_asLong ..))

/-! ## The Matrix station -/

theorem mpassRefusal_stops {c : Core} {fs : List Feed} {n : Nat} {g : State → Run} (h : mpassRefusal c w fs n = some g) : (g s).Stops := by
  have hmap : ∀ r, (mpassRefusal c w fs n).map (· s) = some r → r.Stops := by
    unfold mpassRefusal
    dsimp only
    simp only [apply_ite (Option.map fun g : State → Run => g s), Option.map_some, Option.map_none]
    have hf (k : Nat) : ∀ r, some (Run.fault k s) = some r → r.Stops := fun r => some_stops trivial
    refine ite_stops (hf _) (ite_stops (hf _) (ite_stops (hf _) (ite_stops (fun r => some_stops ?_)
      (ite_stops (fun r => some_stops trivial) (ite_stops (hf _) fun r h => nomatch h)))))
    split <;> trivial
  exact hmap (g s) (by rw [h]; rfl)

theorem passOver_length (fs : List Feed) (c : Core) : (passOver w fs c).1.stations.length = c.stations.length := by
  obtain ⟨b, hb⟩ := passLines_frame (Ins.bit w 65) (Ins.bit w 61) (Ins.bits w 63 62) c.active fs (Ins.bits w 87 77) c
  exact congrArg (fun c => c.stations.length) hb

theorem bodyMpass_asLong : (bodyMpass s core w .clean).AsLong s := by
  cases hr : mpassRefusal (getCore s core) w ((getCore s core).feeder.take (Ins.bits w 76 66 + 1)) (Ins.bits w 76 66 + 1) with
  | some g =>
    unfold bodyMpass
    dsimp only
    rw [hr]
    exact (mpassRefusal_stops s w hr).asLong
  | none =>
    rw [bodyMpass_clean rfl hr]
    exact (setCore_asLong (passOver_length w _ (passStart w (getCore s core)))).trans (passTold_raised ..).asLong

theorem bodyMdiag_asLong : (bodyMdiag s core w .clean).AsLong s := by
  unfold bodyMdiag
  dsimp only
  refine .ite (by split <;> trivial) (.ite trivial (setCore_asLong ?_))
  rw [diagLines_frame]
  rfl

theorem bodyMdrain_asLong : (bodyMdrain s core w .clean).AsLong s := by
  unfold bodyMdrain
  dsimp only
  refine AsLong.ite (.trans (setCore_asLong ?_) (raiseCrate_raised ..).asLong) (setCore_asLong ?_)
  · split
    · rfl
    · rfl
  · split
    · rfl
    · rfl

theorem bodyMfloor_asLong (f : Finding) : (bodyMfloor s core w f).AsLong s := modCore_asLong s core (g := fun c => { c with floor := Ins.bits w 8 0 }) fun _ => rfl

/-! ## The Vector station -/

theorem setPairs_length (c : Core) (vd : Nat) (l : List DLine) : (setPairs c vd l).stations.length = c.stations.length := by
  rw [setPairs_frame]

theorem bodyVloadc_asLong (f : Finding) : (bodyVloadc s core w f).AsLong s := by
  unfold bodyVloadc
  dsimp only
  split
  next => trivial
  next => exact .ite trivial ((takeCrate_asLong ..).trans (modCore_asLong _ core fun c => setPairs_length ..))

theorem bodyVstorec_asLong (f : Finding) : (bodyVstorec s core w f).AsLong s := by
  unfold bodyVstorec
  exact (coreLineageNext_asLong s core).trans (putCrate_asLong ..)

theorem bodyVrecv_asLong (f : Finding) : (bodyVrecv s core w f).AsLong s := by
  unfold bodyVrecv
  exact .ite trivial (setCore_asLong (setPairs_length ..))

/-! ## The Packer -/

theorem keepIn_asLong (ls : List DLine) : AsLong s (keepIn s core ls) := modCore_asLong s core (g := fun c => { c with packIn := ls }) fun _ => rfl

theorem packSlot_asLong : ∀ (k c n : Nat) (s : State) (acc : List DLine), ExceptAsLong id Prod.fst s (packSlot core k c n s acc)
  | 0, _, _, s, _ => AsLong.refl s
  | k + 1, c, n, s, acc => by
    unfold packSlot
    refine .ite (AsLong.refl s) ?_
    dsimp only
    split
    next => trivial
    next => exact .after (takeCrate_asLong ..) (packSlot_asLong k (c + 1) n _ _)

theorem packFromBin_asLong (b n : Nat) : ∀ (k : Nat) (s : State) (acc : List DLine),
    ExceptAsLong id Prod.fst s (packFromBin core w b n k s acc)
  | 0, s, _ => AsLong.refl s
  | k + 1, s, acc => by
    unfold packFromBin
    refine .ite (AsLong.refl s) ?_
    dsimp only
    split
    next r hr => exact implicitWait_stops hr
    next =>
      split
      next r hr => exact (packSlot_asLong core _ _ n s acc).error hr
      next t acc' ht =>
        have h := (packSlot_asLong core _ _ n s acc).ok ht
        split
        next r hr => exact (implicitRelease_asLong t core b).error hr
        next u hu => exact .after (h.trans ((implicitRelease_asLong t core b).ok hu)) (packFromBin_asLong b n k u acc')

theorem packInput_asLong (o : PackOp) : ExceptAsLong id Prod.fst s (packInput s core w o) := by
  unfold packInput
  refine .ite (AsLong.refl s) ?_
  split
  next => exact .ite trivial (modCore_asLong s core (g := fun c => { c with drainPack := c.drainPack.drop o.count }) fun _ => rfl)
  next => exact packFromBin_asLong ..

theorem predictUnit_asLong (o : PackOp) (u : Nat) (t : F32) (ls : List DLine) : AsLong s (predictUnit s core o u t ls).1 := by
  unfold predictUnit
  split
  · exact .refl s
  · split
    · exact .refl s
    · exact .of_cores (modMem_cores ..)

theorem packCrate_asLong (crate fmt : Nat) (t : F32) (ls : List Pack.PLine) (bad rw pred : Bool) :
    AsLong s (packCrate s core crate fmt t ls bad rw pred) := (coreLineageNext_asLong s core).trans (putCrate_asLong ..)

theorem addCounts_asLong (c : Pack.Counts) (rw : Nat) : AsLong s (addCounts s core c rw) := by
  unfold addCounts
  exact modCore_asLong s core fun _ => rfl

theorem packUnit_asLong (o : PackOp) (u crate : Nat) (ls : List DLine) : AsLong s (packUnit s core o u crate ls) := by
  have h := predictUnit_asLong s core o u (getCore s core).params.outer ls
  unfold packUnit
  extract_lets t ids vs
  split
  next v predicted hp =>
    have hv := h.pair hp
    split
    · exact .ite (hv.trans ((packCrate_asLong ..).trans ((packCrate_asLong ..).trans (addCounts_asLong ..))))
        (hv.trans ((packCrate_asLong ..).trans (addCounts_asLong ..)))
    · exact hv.trans ((packCrate_asLong ..).trans (addCounts_asLong ..))

theorem packUnits_asLong (o : PackOp) (total : Nat) (ls : List DLine) : ∀ (k u : Nat) (s : State),
    ExceptAsLong id id s (packUnits core w o total ls k u s)
  | 0, _, s => AsLong.refl s
  | k + 1, u, s => by
    unfold packUnits
    refine .ite (AsLong.refl s) ?_
    dsimp only
    split
    next r hr =>
      by_cases hu : u % (if o.rw.isSome = true then 1 else (getBin (getCore s core) o.dst).slotCrates) = 0
      · rw [if_pos hu] at hr
        exact implicitWait_stops hr
      · rw [if_neg hu] at hr
        exact nomatch hr
    next =>
      refine .ite ?_ (.after (packUnit_asLong ..) (packUnits_asLong o total ls k (u + 1) _))
      split
      next r hr => exact (implicitPost_asLong _ core o.dst).error hr
      next t ht => exact .after ((packUnit_asLong ..).trans ((implicitPost_asLong _ core o.dst).ok ht)) (packUnits_asLong o total ls k (u + 1) t)

theorem addTallyAt_asLong (ctx t inc epoch : Nat) : AsLong s (addTallyAt s ctx t inc epoch) := by
  obtain ⟨x, hx, -⟩ := addTally_put s t inc
  unfold addTallyAt
  refine .ite ?_ (.of_cores (modCtx_cores ..))
  rw [hx]
  exact .of_cores rfl

theorem packTallies_asLong : AsLong s (packTallies s core) := by
  have h : AsLong s (modCore s core fun c => { c with packIn := [], packCnt := [0, 0, 0, 0] }) := modCore_asLong s core fun _ => rfl
  unfold packTallies
  exact .ite (h.trans (.foldl (fun s _ => addTallyAt_asLong s _ _ _ _) _ _)) h

theorem bodyPpack_asLong (f : Finding) : (bodyPpack s core w f).AsLong s := by
  unfold bodyPpack
  extract_lets o
  split
  next r hr => exact Run.Stops.asLong ((packInput_asLong s core w o).error hr)
  next t ins ht =>
    have h := ((packInput_asLong s core w o).ok ht).trans (keepIn_asLong t core (ins.take o.count))
    dsimp only
    split
    next r hr => exact Run.Stops.asLong ((packUnits_asLong core w o _ _ _ _ _).error hr)
    next u hu => exact h.trans (((packUnits_asLong core w o _ _ _ _ _).ok hu).trans (packTallies_asLong u core))

/-! ## The Porter -/

theorem stopLaunch_asLong (l cls reason : Nat) : AsLong s (stopLaunch s l cls reason) := by
  obtain ⟨-, -, hc⟩ := stopLaunch_only s l cls reason
  refine ⟨fun k => ?_⟩
  rw [hc]
  split
  · unfold stoppedBy
    split
    · exact List.length_map _
    · rfl
  · rfl

theorem failLaunch_asLong (st idx reason : Nat) : AsLong s (failLaunch s core st idx reason) := by
  unfold failLaunch
  split
  · exact .refl s
  · exact (AsLong.of_cores (modLaunch_cores ..)).trans (stopLaunch_asLong ..)

theorem scheduleBroken_asLong (st idx reason object cond : Nat) : AsLong s (scheduleBroken s core st idx reason object cond) := by
  unfold scheduleBroken
  extract_lets cg img s1 s2 s3 s4 s5
  have h1 : AsLong s s1 := modCore_asLong s core fun _ => rfl
  have h2 : AsLong s1 s2 := failLaunch_asLong ..
  have h3 : Reported s2 s3 := (raiseCore_raised ..).reported
  have h4 : Reported s3 s4 := logRec_reported ..
  have h5 : Reported s4 s5 := modUnit_reported ..
  exact h1.trans (h2.trans (h3.trans (h4.trans (h5.trans ((addDue_reported ..).trans (addDue_reported ..))))).asLong)

theorem makeRemote_asLong (load : Nat) (read : Bool) (x : Option (Nat × Nat)) : AsLong s (makeRemote s load read x) := by
  unfold makeRemote
  split
  next => exact .refl s
  next c b =>
    refine .ite (.refl s) ?_
    split
    next d hd =>
      refine setCore_asLong ?_
      split at hd
      · exact release_length hd
      · exact post_length hd
    next => exact scheduleBroken_asLong ..

theorem makeTally_asLong (ctx epoch : Nat) : AsLong s (makeTally s ctx epoch w) := by
  unfold makeTally
  split
  · exact addTallyAt_asLong ..
  · exact .refl s

theorem accCrate_asLong (cg : CtxGen) (loc far : Nat) : AsLong s (accCrate s cg core loc far).1 := by
  unfold accCrate
  split
  · exact .refl s
  · exact (consume_asLong ..).trans ((consume_asLong ..).trans ((coreLineageNext_asLong ..).trans (putCrate_asLong ..)))

theorem moveSlot_asLong (cg : CtxGen) : ∀ (n loc far : Nat) (s : State), ExceptAsLong id id s (moveSlot core cg w n loc far s)
  | 0, _, _, s => AsLong.refl s
  | n + 1, loc, far, s => by
    unfold moveSlot
    refine .ite ?_ (.ite (.after (moveCrate_asLong ..) (moveSlot_asLong cg n _ _ _)) (.after (moveCrate_asLong ..) (moveSlot_asLong cg n _ _ _)))
    split
    next t ht => exact .after ((accCrate_asLong s core cg loc far).pair ht) (moveSlot_asLong cg n _ _ t)
    next => trivial

theorem moveSlots_asLong (cg : CtxGen) (far total : Nat) : ∀ (fuel k : Nat) (s : State),
    ExceptAsLong Prod.fst id s (moveSlots core cg w far total fuel k s)
  | 0, _, s => AsLong.refl s
  | fuel + 1, k, s => by
    unfold moveSlots
    refine .ite (AsLong.refl s) ?_
    extract_lets b keep write bin slot
    split
    next r hr => exact keepWait_stops hr
    next =>
      split
      next r hr => exact (moveSlot_asLong core w cg _ _ _ s).error hr
      next t ht =>
        have h := (moveSlot_asLong core w cg _ _ _ s).ok ht
        refine .ite (.after h (moveSlots_asLong cg far total fuel _ t)) ?_
        have hend : ExceptAsLong id id t (if write = true then implicitPost t core b else implicitRelease t core b) :=
          .ite (implicitPost_asLong ..) (implicitRelease_asLong ..)
        split
        next r hr => exact hend.error hr
        next u hu => exact .after (h.trans (hend.ok hu)) (moveSlots_asLong cg far total fuel _ u)

theorem bodyMove_asLong : (bodyMove s core w).AsLong s := by
  unfold bodyMove
  extract_lets l n
  refine .ite trivial ?_
  split
  next => trivial
  next =>
    split
    next t ht =>
      have h := (moveSlots_asLong core w _ _ _ _ _ s).ok ht
      exact .ite trivial (h.trans ((makeRemote_asLong ..).trans (makeTally_asLong ..)))
    next => trivial
    next r k _ hr => exact Run.Stops.asLong ((moveSlots_asLong core w _ _ _ _ _ s).error hr)

theorem idxCrates_asLong (cg : CtxGen) (part : Nat) (idx : List Byte) (n : Nat) (scatter : Bool) : ∀ (fuel i : Nat) (s : State),
    ExceptAsLong Prod.fst id s (idxCrates core cg part w idx n scatter fuel i s)
  | 0, _, s => AsLong.refl s
  | fuel + 1, i, s => by
    unfold idxCrates
    refine .ite (AsLong.refl s) ?_
    extract_lets b bin pos
    split
    next r hr =>
      split at hr
      · exact nomatch hr
      · exact implicitWait_stops hr
    next =>
      split
      next => trivial
      next =>
        have h (far loc : Nat) : AsLong s (if scatter = true then moveCrate s cg core loc far else moveCrate s cg core far loc) :=
          .ite (moveCrate_asLong ..) (moveCrate_asLong ..)
        have hend (t : State) : ExceptAsLong id id t (if scatter = true then implicitRelease t core b else implicitPost t core b) :=
          .ite (implicitRelease_asLong ..) (implicitPost_asLong ..)
        refine .ite ?_ (.after (h _ _) (idxCrates_asLong cg part idx n scatter fuel (i + 1) _))
        split
        next r hr => exact (hend _).error hr
        next u hu => exact .after ((h _ _).trans ((hend _).ok hu)) (idxCrates_asLong cg part idx n scatter fuel (i + 1) u)

theorem gatherSectors_asLong (part : Nat) (idx : List Byte) (n : Nat) : ∀ (fuel j : Nat) (s : State),
    ExceptAsLong Prod.fst id s (gatherSectors core part w idx n fuel j s)
  | 0, _, s => AsLong.refl s
  | fuel + 1, j, s => by
    unfold gatherSectors
    dsimp only
    refine .ite (AsLong.refl s) ?_
    split
    next => trivial
    next => exact .after ((coreLineageNext_asLong ..).trans (putCrate_asLong ..)) (gatherSectors_asLong part idx n fuel (j + 1) _)

theorem idxRun_asLong (cg : CtxGen) (part : Nat) (idx : List Byte) (i : Nat) : ExceptAsLong Prod.fst id s (idxRun core cg part w idx i s) := by
  unfold idxRun
  dsimp only
  refine .ite ?_ (idxCrates_asLong ..)
  split
  next r hr => exact implicitWait_stops hr
  next =>
    split
    next r hr => exact (gatherSectors_asLong core w _ _ _ _ _ s).error hr
    next t ht =>
      split
      next u hu => exact ((gatherSectors_asLong core w _ _ _ _ _ s).ok ht).trans ((implicitPost_asLong t core _).ok hu)
      next r hr => exact (implicitPost_asLong t core _).error hr

theorem bodyIdx_asLong : (bodyIdx s core w).AsLong s := by
  unfold bodyIdx
  extract_lets l ib ibin
  refine .ite trivial ?_
  split
  next r hr => exact (implicitWait_stops hr).asLong
  next =>
    dsimp only
    refine .ite trivial (.ite trivial ?_)
    split
    next => trivial
    next => trivial
    next r k _ hr => exact Run.Stops.asLong ((idxRun_asLong _ core w _ _ _ _).error hr)

end

/-- A fabric transfer that ends as an instruction does not complete it. -/
def FabRun.Stops : FabRun → Prop
  | .stop r => r.Stops
  | _ => True

theorem putCrates_stops (cg : CtxGen) (core id : Nat) (w : W128) (total : Nat) : ∀ (n loc k : Nat) (s : State),
    (putCrates cg core id w total n loc k s).Stops
  | 0, _, _, _ => trivial
  | n + 1, loc, k, s => by
    unfold putCrates
    split
    · split <;> trivial
    · dsimp only
      split
      · trivial
      · exact putCrates_stops cg core id w total n (loc + 1) (k + 1) _

theorem putSlots_stops (cg : CtxGen) (core id : Nat) (w : W128) (total : Nat) : ∀ (fuel k : Nat) (s : State),
    (putSlots cg core id w total fuel k s).Stops
  | 0, _, _ => trivial
  | fuel + 1, k, s => by
    unfold putSlots
    split
    · trivial
    · dsimp only
      split
      · trivial
      · have h := putCrates_stops cg core id w total (min (getBin (getCore s core) (Ins.bits w 85 80)).slotCrates (total - k))
          (slotCrate core (getBin (getCore s core) (Ins.bits w 85 80)) (getBin (getCore s core) (Ins.bits w 85 80)).emptySlot 0) k s
        split
        next t ht =>
          split
          next u hu => exact putSlots_stops cg core id w total fuel _ u
          next r hr => exact (implicitRelease_asLong t core _).error hr
        next => exact h

theorem fabricGo_stops (s : State) (core x id k : Nat) (w : W128) (cg : CtxGen) : (fabricGo s core x id k w cg).Stops := by
  unfold fabricGo
  dsimp only
  split
  · split <;> trivial
  · split
    · split <;> trivial
    · have h := putSlots_stops cg core id w (Ins.bits w 79 69 + 1) (Ins.bits w 79 69 + 1 + 1) k s
      split
      · trivial
      · exact h

theorem bodyPfabric_stops (s : State) (core : Nat) (w : W128) (f : Finding) : (bodyPfabric s core w f).Stops := by
  unfold bodyPfabric
  extract_lets b dir bin
  split
  · trivial
  · split
    next r hr => exact (by
      split at hr
      · exact nomatch hr
      · exact implicitWait_stops hr)
    next =>
      dsimp only
      split
      next => trivial
      next => trivial
      next => trivial
      next r hr => exact (congrArg FabRun.Stops hr).mp (fabricGo_stops ..)

end Sys2Proof.Machine
end

section
/-! # The ends of holds (03/R79, 04/R118) -/

namespace Sys2Proof.Machine

section
variable {s u : State} {core st op : Nat} {w : W128}

theorem bodyPset_asLong : (bodyPset s core w .clean).AsLong s := by
  unfold bodyPset
  exact .ite (modCore_asLong s core fun _ => rfl) trivial

theorem bodySwait_asLong : (bodySwait s core w .clean).AsLong s := by
  unfold bodySwait
  exact .ite trivial (.ite (.refl s) trivial)

theorem bodySsignal_asLong : (bodySsignal s core w .clean).AsLong s := by
  unfold bodySsignal
  exact .ite trivial (addTallyAt_asLong ..)

theorem bodySrepeat_asLong : (bodySrepeat s core w .clean).AsLong s := by
  unfold bodySrepeat
  exact .ite trivial (modCore_asLong s core fun _ => length_modStation ..)

theorem bodySophint_asLong : (bodySophint s core w .clean).AsLong s := by
  unfold bodySophint
  refine modCore_asLong s core fun c => ?_
  split <;> rfl

/-- Every instruction that completes leaves its core's stations as many as they were. -/
theorem bodyOf_asLong {body : State → Nat → W128 → Finding → Run} (h : bodyOf st op = some body) : (body s core w .clean).AsLong s := by
  unfold bodyOf at h
  split at h
  next => exact Option.some.inj h ▸ AsLong.refl s
  split at h
  next => exact Option.some.inj h ▸ trivial
  split at h
  next => exact nomatch h
  split at h
  next => exact Option.some.inj h ▸ bodyLstream_asLong s core w _
  next => exact Option.some.inj h ▸ bodyLweight_asLong s core w _
  next => exact Option.some.inj h ▸ bodyLdiag_asLong s core w _
  next => exact Option.some.inj h ▸ bodyMpass_asLong s core w
  next => exact Option.some.inj h ▸ bodyMdiag_asLong s core w
  next => exact Option.some.inj h ▸ bodyMdrain_asLong s core w
  next => exact Option.some.inj h ▸ bodyMfloor_asLong s core w _
  next => exact Option.some.inj h ▸ bodyPset_asLong
  next => exact Option.some.inj h ▸ bodyPpack_asLong s core w _
  next => exact Option.some.inj h ▸ bodyVloadc_asLong s core w _
  next => exact Option.some.inj h ▸ bodyVstorec_asLong s core w _
  next => exact Option.some.inj h ▸ bodyVrecv_asLong s core w _
  next => exact Option.some.inj h ▸ modCore_asLong s core fun _ => rfl
  next => exact Option.some.inj h ▸ modCore_asLong s core fun _ => rfl
  next => exact Option.some.inj h ▸ modCore_asLong s core fun _ => rfl
  next => exact Option.some.inj h ▸ modCore_asLong s core fun _ => rfl
  next => exact Option.some.inj h ▸ modCore_asLong s core fun _ => rfl
  next => exact Option.some.inj h ▸ bodyMove_asLong s core w
  next => exact Option.some.inj h ▸ bodyIdx_asLong s core w
  next => exact Option.some.inj h ▸ bodyIdx_asLong s core w
  next => exact Option.some.inj h ▸ bodyMove_asLong s core w
  next => exact Option.some.inj h ▸ (bodyPfabric_stops s core w _).asLong
  next => exact Option.some.inj h ▸ bodySwait_asLong
  next => exact Option.some.inj h ▸ bodySsignal_asLong
  next => exact Option.some.inj h ▸ bodySrepeat_asLong
  next => exact Option.some.inj h ▸ modCore_asLong s core fun _ => rfl
  next => exact Option.some.inj h ▸ bodySophint_asLong
  next => exact nomatch h

/-- An instruction that completes in `u` takes its station on from where `u` left it. -/
theorem finish_moves {h : Hold} {bins : List Bin} (s0 : State) (ha : AtIns s core st op h w) (hlen : AsLong s u) (hr : (getCore u core).run ≠ 3)
    (hb : sigBins (getCore u core).bins w = some bins) (idx : Nat) :
    let t := finish s0 core st idx w (.done u)
    t = { u with cores := t.cores } ∧ (∀ j, j ≠ core → getCore t j = getCore u j) ∧ (getCore t core).bins = bins ∧
      getStation (getCore t core) st = Station.next (getStation (getCore u core) st) := by
  obtain ⟨hcore, hne, hfr⟩ := finish_done s0 u core st idx w bins hr hb
  have hst : st < (withBins (getCore u core) bins).stations.length := by
    show st < (getCore u core).stations.length
    rw [hlen.len]
    exact (fetch_runs ha.fetch).2.2
  refine ⟨hfr, hne, by rw [hcore]; rfl, ?_⟩
  rw [hcore, getStation_modStation, if_pos ⟨rfl, hst⟩]
  rfl

theorem setHold_asLong (s : State) (core st : Nat) (h : Hold) : AsLong s (setHold s core st h) := by
  refine ⟨fun k => ?_⟩
  rw [getCore_setHold]
  split
  next hk =>
    rw [hk]
    exact length_modStation (getCore s core) st fun x => { x with hold := h }
  next => rfl

theorem endHold_finishes {h : Hold} {held : Hold → Bool} {body : State → Nat → W128 → Finding → Run} (ha : AtIns s core st op h w)
    (hbody : bodyOf st op = some body) (hheld : held h = true) :
    endHold s core st held .clean = finish s core st (getStation (getCore s core) st).pc w (body (setHold s core st .none) core w .clean) := by
  unfold endHold
  rw [ha.fetch]
  dsimp only
  rw [ha.opcode, hbody]
  exact resume_clean held body ha hheld

end

/-- Settles O10: an ended hold runs the instruction's body, which keeps its core's stations, and a completed body signals and
takes the station on. -/
theorem holdsEnd : Obligations.HoldsEnd := by
  unfold Obligations.HoldsEnd
  intro s core st op h w body u bins ha hbody hdone hr hb c hc
  have hlen : AsLong s u := by
    have hruns := bodyOf_asLong (s := setHold s core st .none) (core := core) (w := w) hbody
    rw [hdone] at hruns
    exact (setHold_asLong ..).trans hruns
  have hmoves := finish_moves s ha hlen hr hb (getStation (getCore s core) st).pc
  have hend (held : Hold → Bool) (hheld : held h = true) := endHold_finishes ha hbody hheld
  rw [hdone] at hend
  rcases hc with ⟨rfl, rfl⟩ | ⟨rfl, n, rfl⟩
  · exact ⟨_, congrArg Host.Outcome.next (hend _ rfl), hmoves⟩
  · exact ⟨_, congrArg Host.Outcome.next (hend _ rfl), hmoves⟩

end Sys2Proof.Machine
end

section
/-! # Gathers, scatters and the completion of marked transfers (06/R170, R171, R177, R178) -/

namespace Sys2Proof.Machine

/-! ## Crates copied to places of their own -/

/-- `m'` is `m` with the crates `D i` written over by the crates `S i` of `m`, for the first `n` places. -/
structure Copied (m m' : Mem) (S D : Nat → Nat) (n : Nat) : Prop where
  only : m' = { m with cells := m'.cells, tags := m'.tags, opened := m'.opened, bad := m'.bad }
  bad : ∀ x ∈ m'.bad, x ∈ m.bad
  writable : Writable m'
  copied : ∀ i, i < n → crateBytes m' (D i) = crateBytes m (S i) ∧ crateTag m' (D i) = crateTag m (S i)
  same : SameCrates m m' (fun k => ∃ i, i < n ∧ k = D i)

section
variable {m m' : Mem} {S D : Nat → Nat} {n : Nat}

theorem Copied.refl (h : Writable m) : Copied m m S D 0 :=
  ⟨rfl, fun _ h => h, h, fun _ hi => absurd hi (Nat.not_lt_zero _), fun _ _ => ⟨rfl, rfl⟩⟩

theorem Copied.plain (h : Copied m m' S D n) {j : Nat} (hp : Plain m j) : Plain m' j := by
  rw [h.only]
  exact hp

/-- A crate that no place so far names stands as it stood. -/
theorem Copied.source (h : Copied m m' S D n) {k : Nat} (hk : ∀ i, i < n → k ≠ D i) :
    crateBytes m' k = crateBytes m k ∧ crateTag m' k = crateTag m k :=
  h.same k fun ⟨i, hi, he⟩ => hk i hi he

theorem Copied.succ (h : Copied m m' S D n) (hp : Plain m (D n)) (hd : ∀ i, i < n → D i ≠ D n) :
    Copied m (writeCrate m' (D n) (crateBytes m (S n)) (crateTag m (S n))) S D (n + 1) := by
  obtain ⟨hwf, hsorted⟩ := h.writable
  obtain ⟨hbytes, htag, hother⟩ := writeCrate_wrote m' (D n) (crateBytes m (S n)) (crateTag m (S n)) (length_readBytes ..) hwf hsorted (h.plain hp)
  have hwf' := wf_writeCrate m' (D n) (crateBytes m (S n)) (crateTag m (S n)) hwf
  have honly := writeCrate_only (h.plain hp) (crateBytes m (S n)) (crateTag m (S n))
  refine ⟨by rw [honly, h.only], ?_, ⟨hwf', ?_⟩, fun i hi => ?_, fun k hk => ?_⟩
  · rw [honly]
    exact fun x hx => h.bad x (List.mem_filter.mp hx).1
  · rw [honly]
    exact pairwise_nerase hsorted _
  · rcases Nat.lt_succ_iff_lt_or_eq.mp hi with hlt | rfl
    · obtain ⟨hb, ht⟩ := hother (D i) (hd i hlt)
      rw [hb, ht]
      exact h.copied i hlt
    · exact ⟨hbytes, htag⟩
  · obtain ⟨hb, ht⟩ := hother k fun he => hk ⟨n, n.lt_succ_self, he⟩
    rw [hb, ht]
    exact h.source fun i hi he => hk ⟨i, Nat.lt_succ_of_lt hi, he⟩

theorem Copied.refuse {s u : State} (hu : u = { s with mem := u.mem }) (h : Copied s.mem u.mem S D n) (path : Path) (p a : Nat) :
    Machine.refuse u path p a = Machine.refuse s path p a := by
  have honly := h.only
  generalize u.mem = m at *
  rw [hu, honly]
  rfl

theorem Copied.moveOk {s u : State} (h : Copied s.mem u.mem S D n) {k : Nat} (hok : MoveOk s k) (hk : ∀ i, i < n → k ≠ D i) : MoveOk u k := by
  obtain ⟨hb, ht⟩ := h.source hk
  refine ⟨?_, fun x hx => hok.bad x (h.bad x hx), by rw [hb, ht]; exact hok.check⟩
  rw [h.only]
  exact hok.home

/-- The next crate moves. -/
theorem Copied.move {s u : State} (h : Copied s.mem u.mem S D n) (cg : CtxGen) (core : Nat) (hok : MoveOk s (S n)) (hp : Plain s.mem (D n))
    (hs : ∀ i, i < n → S n ≠ D i) (hd : ∀ i, i < n → D i ≠ D n) :
    ∃ m, moveCrate u cg core (S n) (D n) = setMem u m ∧ Copied s.mem m S D (n + 1) := by
  refine ⟨_, ?_, h.succ hp hd⟩
  obtain ⟨hb, ht⟩ := h.source hs
  unfold moveCrate
  rw [moveRead_moveOk _ _ _ (h.moveOk hok hs), hb, ht]
  rfl

end

/-! ## Gathers and scatters of one slot -/

/-- The crate that entry `i` of an index list names. -/
def idxFar (w : W128) (p : List Byte) (i : Nat) : Nat := Ins.bits w 64 28 + idxOf p i

section
variable {s : State} {core part n loc : Nat} {w : W128} {b : Bin} {p : List Byte} {scatter : Bool} {cg : CtxGen}

theorem slotCrate_add (core : Nat) (b : Bin) (slot i : Nat) : slotCrate core b slot i = slotCrate core b slot 0 + i := by
  unfold slotCrate
  rw [Nat.add_zero]

/-- What ends a slot's work: its release, or its post. -/
theorem slotEnd_ok {u : State} {k : Nat} (hb : getBin (getCore u core) k = b) (hready : (if scatter = true then b.dataOk else b.spaceOk) = true)
    (hprod : scatter = false → b.producer ≠ 7) :
    ∃ t, (if scatter = true then implicitRelease u core k else implicitPost u core k) = .ok t ∧ t.mem = u.mem := by
  cases scatter with
  | true =>
    have hocc : 1 ≤ (getBin (getCore u core) k).occ := by
      rw [hb]
      exact of_decide_eq_true hready
    refine ⟨setCore u core (releasedCore k (getCore u core)), ?_, rfl⟩
    rw [if_pos rfl]
    unfold implicitRelease
    rw [release_eq hocc]
  | false =>
    refine ⟨modCore u core (postedCore k), ?_, rfl⟩
    rw [if_neg Bool.false_ne_true]
    exact implicitPost_posts (by rw [hb]; exact hready) (by rw [hb]; exact hprod rfl)

/-- The source and the place of entry `i`. -/
def idxFrom (scatter : Bool) (loc : Nat) (w : W128) (p : List Byte) (i : Nat) : Nat := if scatter then loc + i else idxFar w p i
def idxTo (scatter : Bool) (loc : Nat) (w : W128) (p : List Byte) (i : Nat) : Nat := if scatter then idxFar w p i else loc + i

theorem idxCrates_copies (hb : b = getBin (getCore s core) (Ins.bits w 81 76)) (hn : n ≤ b.slotCrates)
    (href : ∀ i, i < n → refuse s .tiers part (idxFar w p i * 4096) = none)
    (hloc : loc = slotCrate core b (if scatter then b.emptySlot else b.fillSlot) 0)
    (hready : (if scatter = true then b.dataOk else b.spaceOk) = true) (hprod : scatter = false → b.producer ≠ 7)
    (hok : ∀ i, i < n → MoveOk s (idxFrom scatter loc w p i) ∧ Plain s.mem (idxTo scatter loc w p i))
    (hsep : ∀ i j, i < n → j < n → idxFrom scatter loc w p i ≠ idxTo scatter loc w p j)
    (hinj : ∀ i j, i < n → j < i → idxTo scatter loc w p j ≠ idxTo scatter loc w p i) (m : Nat) :
    ∀ i u, i + m = n → u = { s with mem := u.mem } → Copied s.mem u.mem (idxFrom scatter loc w p) (idxTo scatter loc w p) i →
      ∃ t, idxCrates core cg part w p n scatter m i u = .ok t ∧ Copied s.mem t.mem (idxFrom scatter loc w p) (idxTo scatter loc w p) n := by
  induction m with
  | zero =>
    intro i u hi _ hc
    rw [Nat.add_zero] at hi
    exact ⟨u, rfl, hi ▸ hc⟩
  | succ m ih =>
    intro i u hi hu hc
    have hlt : i < n := by omega
    have hcore : getCore u core = getCore s core := by rw [hu]; rfl
    obtain ⟨hmove, hplain⟩ := hok i hlt
    obtain ⟨x, hx, hcx⟩ := hc.move cg core hmove hplain (fun j hj => hsep i j hlt (Nat.lt_trans hj hlt)) (fun j hj => hinj i j hlt hj)
    have hpos : i % b.slotCrates = i := Nat.mod_eq_of_lt (Nat.lt_of_lt_of_le hlt hn)
    have hwait (k : Nat) : (if i ≠ 0 then none else implicitWait u w (if scatter = true then b.dataOk else b.spaceOk) k (Ins.bits w 81 76)) = none := by
      rw [hready]
      split <;> rfl
    have hgo : (if scatter = true then moveCrate u cg core (loc + i) (idxFar w p i) else moveCrate u cg core (idxFar w p i) (loc + i)) = setMem u x := by
      rw [← hx]
      unfold idxFrom idxTo
      cases scatter <;> rfl
    have hloci : slotCrate core b (if scatter = true then b.emptySlot else b.fillSlot) i = loc + i := by rw [hloc, slotCrate_add]
    unfold idxCrates
    rw [if_neg (Nat.not_le.mpr hlt)]
    extract_lets +onlyGivenNames k bin pos
    have hbin : bin = b := by
      rw [hb, ← hcore]
    have hp : pos = i := by
      show i % bin.slotCrates = i
      rw [hbin, hpos]
    rw [hp, hbin, hwait]
    dsimp only
    rw [hloci, show Ins.bits w 64 28 + idxOf p i = idxFar w p i from rfl, hc.refuse hu, href i hlt]
    dsimp only
    rw [hgo]
    have hux : setMem u x = { s with mem := x } := by
      rw [hu]
      rfl
    by_cases hlast : i + 1 = b.slotCrates
    · obtain ⟨t, ht, hmem⟩ := slotEnd_ok (u := setMem u x) (k := Ins.bits w 81 76) (scatter := scatter) (b := b)
        (by rw [hux, hb]; rfl) hready hprod
      have hm : m = 0 := by omega
      have hin : i + 1 = n := by omega
      refine ⟨t, ?_, ?_⟩
      · rw [if_pos hlast]
        have hk : k = Ins.bits w 81 76 := rfl
        rw [hk, ht, hm]
        rfl
      · rw [hmem, ← hin]
        exact hcx
    · rw [if_neg hlast]
      exact ih (i + 1) (setMem u x) (by omega) hux hcx

theorem idxRun_crates (h : Ins.op w = 0x42 ∨ Ins.bit w 65 = false) :
    idxRun core cg part w p 0 s = idxCrates core cg part w p (Ins.bits w 75 66 + 1) (Ins.op w == 0x42) (Ins.bits w 75 66 + 1) 0 s := by
  unfold idxRun
  dsimp only
  refine if_neg ?_
  rcases h with h | h
  · rw [h]
    exact Bool.false_ne_true
  · rw [h, Bool.and_false]
    exact Bool.false_ne_true

theorem gather_copies (hb : b = getBin (getCore s core) (Ins.bits w 81 76)) (hnw : n = Ins.bits w 75 66 + 1) (hn : n ≤ b.slotCrates)
    (href : ∀ i, i < n → refuse s .tiers part ((Ins.bits w 64 28 + idxOf p i) * 4096) = none) (hw : Writable s.mem)
    (hop : Ins.op w = 0x41) (hbit : Ins.bit w 65 = false) (hloc : loc = slotCrate core b b.fillSlot 0) (hocc : b.occ < b.slotCount)
    (hprod : b.producer ≠ 7)
    (hall : ∀ i, i < n → MoveOk s (Ins.bits w 64 28 + idxOf p i) ∧ Plain s.mem (loc + i) ∧
      (Ins.bits w 64 28 + idxOf p i < loc ∨ loc + n ≤ Ins.bits w 64 28 + idxOf p i)) :
    ∃ u, idxRun core cg part w p 0 s = .ok u ∧ (∀ i, i < n →
      crateBytes u.mem (loc + i) = crateBytes s.mem (Ins.bits w 64 28 + idxOf p i) ∧
      crateTag u.mem (loc + i) = crateTag s.mem (Ins.bits w 64 28 + idxOf p i)) ∧
      SameCrates s.mem u.mem (fun k => loc ≤ k ∧ k < loc + n) := by
  obtain ⟨u, hu, hc⟩ := idxCrates_copies (scatter := false) (cg := cg) (p := p) hb hn href hloc (decide_eq_true hocc) (fun _ => hprod)
    (fun i hi => ⟨(hall i hi).1, (hall i hi).2.1⟩)
    (fun i j hi hj he => by
      have hfar := (hall i hi).2.2
      have he' : Ins.bits w 64 28 + idxOf p i = loc + j := he
      omega)
    (fun i j _ hj he => by
      have he' : loc + j = loc + i := he
      omega) n 0 s (Nat.zero_add n) rfl (.refl hw)
  refine ⟨u, ?_, hc.copied, fun k hk => hc.source fun i hi he => hk ?_⟩
  · rw [idxRun_crates (.inr hbit), hop, ← hnw]
    exact hu
  · have he' : k = loc + i := he
    omega

theorem scatter_copies (hb : b = getBin (getCore s core) (Ins.bits w 81 76)) (hnw : n = Ins.bits w 75 66 + 1) (hn : n ≤ b.slotCrates)
    (href : ∀ i, i < n → refuse s .tiers part ((Ins.bits w 64 28 + idxOf p i) * 4096) = none) (hw : Writable s.mem)
    (hop : Ins.op w = 0x42) (hloc : loc = slotCrate core b b.emptySlot 0) (hocc : 1 ≤ b.occ)
    (hall : ∀ i, i < n → MoveOk s (loc + i) ∧ Plain s.mem (Ins.bits w 64 28 + idxOf p i) ∧
      (Ins.bits w 64 28 + idxOf p i < loc ∨ loc + n ≤ Ins.bits w 64 28 + idxOf p i) ∧ ∀ j, j < i → idxOf p j ≠ idxOf p i) :
    ∃ u, idxRun core cg part w p 0 s = .ok u ∧ (∀ i, i < n →
      crateBytes u.mem (Ins.bits w 64 28 + idxOf p i) = crateBytes s.mem (loc + i) ∧
      crateTag u.mem (Ins.bits w 64 28 + idxOf p i) = crateTag s.mem (loc + i)) ∧
      SameCrates s.mem u.mem (fun k => ∃ i, i < n ∧ k = Ins.bits w 64 28 + idxOf p i) := by
  obtain ⟨u, hu, hc⟩ := idxCrates_copies (scatter := true) (cg := cg) (p := p) hb hn href hloc (decide_eq_true hocc) (fun h => nomatch h)
    (fun i hi => ⟨(hall i hi).1, (hall i hi).2.1⟩)
    (fun i j hi hj he => by
      have hfar := (hall j hj).2.2.1
      have he' : loc + i = Ins.bits w 64 28 + idxOf p j := he
      omega)
    (fun i j hi hj he => (hall i hi).2.2.2 j hj (Nat.add_left_cancel he)) n 0 s (Nat.zero_add n) rfl (.refl hw)
  refine ⟨u, ?_, hc.copied, hc.same⟩
  rw [idxRun_crates (.inl hop), hop, ← hnw]
  exact hu

/-! ## Going in flight -/

theorem bodyIdx_issues {v u : State} {c : Core} {k : Nat} (hc : c = getCore v core) (hfree : c.inflight.length < 64)
    (hocc : 1 ≤ (getBin c (Ins.bits w 87 82)).occ)
    (hk : k = slotCrate core (getBin c (Ins.bits w 87 82)) (getBin c (Ins.bits w 87 82)).emptySlot 0) (hok : CrateOk v k)
    (hfmt : Tag.fmt (crateTag v.mem k) = Fmt.untyped)
    (hrun : idxRun core (coreCtx v core) (getCtx v (coreLaunch v core).ctx).part w (crateBytes v.mem k) 0 v = .ok u) :
    bodyIdx v core w = .issued (addTransfer u core w (Ins.bits w 75 66 + 1) true) := by
  have hin : inflightFree (getCore v core) = true := by
    rw [← hc]
    exact decide_eq_true hfree
  have hdata : (getBin (getCore v core) (Ins.bits w 87 82)).dataOk = true := by
    rw [← hc]
    exact decide_eq_true hocc
  rw [hc] at hk
  unfold bodyIdx
  dsimp only
  rw [hin, ← hk, consume_ok _ _ _ _ hok, implicitWait, if_pos hdata, if_neg (by decide)]
  dsimp only
  rw [hfmt, if_neg (by decide), if_neg (by decide), hrun]

/-- An issued instruction takes its station on. -/
theorem finish_issued {t : State} {idx : Nat} {st : Nat} (s0 : State) (hr : (getCore t core).run ≠ 3) :
    finish s0 core st idx w (.issued t) = modCore t core fun c => modStation c st Station.next := by
  unfold finish advanceSt
  exact if_neg hr

/-- A core with one more transfer in flight. -/
def inFlightCore (x : Transfer) (c : Core) : Core := { c with nextTransfer := c.nextTransfer + 1, inflight := c.inflight ++ [x] }

theorem addTransfer_flies (u : State) (core : Nat) (w : W128) (k : Nat) :
    ∃ x, addTransfer u core w k true = modCore u core (inFlightCore x) ∧ x.instr = w ∧ x.moved = true := ⟨_, rfl, rfl, rfl⟩

theorem coreCtx_setHold (s : State) (core st : Nat) (h : Hold) (k : Nat) : coreCtx (setHold s core st h) k = coreCtx s k := by
  have hl : (getCore (setHold s core st h) k).launch = (getCore s k).launch := by
    rw [getCore_setHold]
    split
    next hk =>
      rw [hk]
      rfl
    next => rfl
  unfold coreCtx
  rw [hl]
  rfl

/-- A gather or scatter whose words all moved at its issue. -/
theorem idx_issues {i : Instr} {op k : Nat} {u : State} {c : Core}
    (hi : exec i s = .next (issue s core 4 op .clean fun s core w _ => bodyIdx s core w)) (ha : AtIns s core 4 op .none w) (hc : c = getCore s core)
    (hfree : c.inflight.length < 64) (hocc : 1 ≤ (getBin c (Ins.bits w 87 82)).occ)
    (hk : k = slotCrate core (getBin c (Ins.bits w 87 82)) (getBin c (Ins.bits w 87 82)).emptySlot 0) (hok : CrateOk s k)
    (hfmt : Tag.fmt (crateTag s.mem k) = Fmt.untyped)
    (hrun : idxRun core (coreCtx s core) (getCtx s (coreLaunch s core).ctx).part w (crateBytes s.mem k) 0 (setHold s core 4 .none) = .ok u)
    (hr : (getCore u core).run ≠ 3) :
    Runs i s (fun t => t = { u with cores := t.cores } ∧ (∀ j, j ≠ core → getCore t j = getCore u j) ∧
      getStation (getCore t core) 4 = Station.next (getStation (getCore u core) 4) ∧
      (getCore t core).bins = (getCore u core).bins ∧
      ∃ x, (getCore t core).inflight = (getCore u core).inflight ++ [x] ∧ x.instr = w ∧ x.moved = true) := by
  have hheld : getCore (setHold s core 4 .none) core = heldCore c 4 .none := by rw [getCore_setHold, if_pos rfl, hc]
  have hbody : bodyIdx (setHold s core 4 .none) core w = .issued (addTransfer u core w (Ins.bits w 75 66 + 1) true) := by
    refine bodyIdx_issues (c := heldCore c 4 .none) (k := k) hheld.symm hfree hocc hk (hok.of_mem rfl) hfmt ?_
    rw [coreCtx_setHold, coreLaunch_setHold]
    exact hrun
  obtain ⟨x, hx, hinstr, hmoved⟩ := addTransfer_flies u core w (Ins.bits w 75 66 + 1)
  rw [hx] at hbody
  have hcore : getCore (modCore u core (inFlightCore x)) core = inFlightCore x (getCore u core) := getCore_modCore_same ..
  have hlen : 4 < (inFlightCore x (getCore u core)).stations.length := by
    have hlong : AsLong s u := (setHold_asLong ..).trans ((idxRun_asLong ..).ok hrun)
    show 4 < (getCore u core).stations.length
    rw [hlong.len]
    exact (fetch_runs ha.fetch).2.2
  have hfin := finish_issued (w := w) (idx := (getStation (getCore s core) 4).pc) (st := 4) s (t := modCore u core (inFlightCore x)) (core := core)
    (by rw [hcore]; exact hr)
  refine ⟨_, hi.trans (congrArg Host.Outcome.next ((issue_clean _ ha).trans ((congrArg _ hbody).trans hfin))), rfl, fun j hj => ?_, ?_, ?_, x, ?_, hinstr, hmoved⟩
  · rw [getCore_modCore_ne _ hj, getCore_modCore_ne _ hj]
  · rw [getCore_modCore_same, hcore, getStation_modStation, if_pos ⟨rfl, hlen⟩]
    rfl
  · rw [getCore_modCore_same, hcore]
    rfl
  · rw [getCore_modCore_same, hcore]
    rfl

/-! ## Completion -/

/-- A transfer is off its core's list. -/
def droppedCore (id : Nat) (c : Core) : Core := { c with inflight := c.inflight.filter (fun y => y.id != id) }

/-- The bins once a transfer has made the release of its index list (06/R177). -/
def listReleased (w : W128) (bs : List Bin) : List Bin :=
  if Ins.op w = 0x41 ∨ Ins.op w = 0x42 then releasedBins (Ins.bits w 87 82) 1 bs else bs

/-- The release of the index list of a gather or scatter, where the core still holds its bins. -/
def releaseList (s : State) (core load : Nat) (w : W128) : State :=
  if coreHolds s core load && (Ins.op w == 0x41 || Ins.op w == 0x42) then
    (match implicitRelease s core (Ins.bits w 87 82) with | .ok s => s | .error _ => s) else s

theorem releaseList_releases {load : Nat} (hh : coreHolds s core load = true)
    (hocc : (Ins.op w = 0x41 ∨ Ins.op w = 0x42) → 1 ≤ (getBin (getCore s core) (Ins.bits w 87 82)).occ) :
    AtWork s core { getCore s core with bins := listReleased w (getCore s core).bins } (releaseList s core load w) ∧
      (releaseList s core load w).mem = s.mem ∧ (releaseList s core load w).tallies = s.tallies := by
  have hself : AtWork s core (getCore s core) s := ⟨rfl, rfl, fun _ _ => rfl⟩
  unfold releaseList listReleased
  rw [hh, Bool.true_and]
  by_cases hop : Ins.op w = 0x41 ∨ Ins.op w = 0x42
  · have hbool : (Ins.op w == 0x41 || Ins.op w == 0x42) = true := by
      rw [Bool.or_eq_true, beq_iff_eq, beq_iff_eq]
      exact hop
    have hrel : implicitRelease s core (Ins.bits w 87 82) = .ok (modCore s core (releasedCore (Ins.bits w 87 82))) := by
      unfold implicitRelease
      rw [release_eq (hocc hop)]
      rfl
    rw [hbool, if_pos rfl, if_pos hop, hrel]
    exact ⟨hself.modCore (releasedCore (Ins.bits w 87 82)), rfl, rfl⟩
  · have hbool : (Ins.op w == 0x41 || Ins.op w == 0x42) = false := by
      rw [Bool.eq_false_iff]
      intro h
      rw [Bool.or_eq_true, beq_iff_eq, beq_iff_eq] at h
      exact hop h
    rw [hbool, if_neg Bool.false_ne_true, if_neg hop]
    exact ⟨hself, rfl, rfl⟩

theorem AtWork.trans {t u : State} {c d : Core} (h : AtWork s core c t) (g : AtWork t core d u) : AtWork s core d u := by
  refine ⟨?_, g.own, fun k hk => (g.others k hk).trans (h.others k hk)⟩
  have hg := g.only
  rw [h.only] at hg
  exact hg

/-- The tally add of a transfer whose tally is in the transfer's epoch. -/
theorem makeTally_adds {u : State} {ctx epoch : Nat} (hts : u.tallies = s.tallies) (he : ∀ k, porterTally w = some k → tallyEpochOf s k = epoch) :
    makeTally u ctx epoch w = { u with tallies := match porterTally w with | some k => (addTally s k 1).tallies | none => s.tallies } := by
  unfold makeTally
  cases hk : porterTally w with
  | none =>
    dsimp only
    rw [← hts]
  | some k =>
    have hadd : (addTally u k 1).tallies = (addTally s k 1).tallies := by
      unfold addTally tallyEpochOf tallyVal
      rw [hts]
    have hep : tallyEpochOf u k = epoch := by
      rw [← he k hk]
      unfold tallyEpochOf
      rw [hts]
    refine (addTallyAt_current u ctx k 1 epoch hep).trans ?_
    dsimp only
    rw [← hadd]
    rfl

theorem completeTransfer_completes {x : Transfer} {id : Nat} {bins : List Bin} (hid : x.id = id) (hremote : x.remote = none)
    (hload : (getCore s core).load = x.launch) (hr : (getCore s core).run ≠ 3)
    (hocc : (Ins.op x.instr = 0x41 ∨ Ins.op x.instr = 0x42) → 1 ≤ (getBin (getCore s core) (Ins.bits x.instr 87 82)).occ)
    (he : ∀ k, porterTally x.instr = some k → tallyEpochOf s k = x.epoch)
    (hb : sigBins (listReleased x.instr (getCore s core).bins) x.instr = some bins) :
    AtWork s core { droppedCore id (getCore s core) with bins } (completeTransfer s core x) ∧ (completeTransfer s core x).mem = s.mem ∧
      (completeTransfer s core x).tallies = match porterTally x.instr with | some k => (addTally s k 1).tallies | none => s.tallies := by
  have hself : AtWork s core (getCore s core) s := ⟨rfl, rfl, fun _ _ => rfl⟩
  have hdrop := hself.modCore (droppedCore id)
  have hholds {t : State} (hl : (getCore t core).load = x.launch) (hrun : (getCore t core).run ≠ 3) : coreHolds t core x.launch = true := by
    unfold coreHolds
    rw [hl, beq_self_eq_true, Bool.true_and, bne_iff_ne]
    exact hrun
  have hdropped : coreHolds (modCore s core (droppedCore id)) core x.launch = true :=
    hholds (by rw [hdrop.own]; exact hload) (by rw [hdrop.own]; exact hr)
  obtain ⟨hrel, hrelm, hrelt⟩ := releaseList_releases (w := x.instr) hdropped (by rw [hdrop.own]; exact hocc)
  rw [hdrop.own] at hrel
  have hat := hdrop.trans hrel
  have heq : completeTransfer s core x = if coreHolds (makeTally (releaseList (modCore s core (droppedCore id)) core x.launch x.instr) x.ctx x.epoch x.instr) core x.launch
      then signals (makeTally (releaseList (modCore s core (droppedCore id)) core x.launch x.instr) x.ctx x.epoch x.instr) core 4 x.index x.instr
      else makeTally (releaseList (modCore s core (droppedCore id)) core x.launch x.instr) x.ctx x.epoch x.instr := by
    have hstop : ((getCore (dropTransfer s core x.id) core).run == 3) = false := by
      rw [beq_eq_false_iff_ne]
      exact fun h => hr ((congrArg Core.run hdrop.own).symm.trans (by rw [← hid]; exact h))
    unfold completeTransfer
    dsimp only
    rw [hstop, Bool.and_false, Bool.false_and, if_neg Bool.false_ne_true, hremote, ← hid]
    rfl
  rw [makeTally_adds (s := s) (hrelt.trans rfl) he] at heq
  generalize releaseList (modCore s core (droppedCore id)) core x.launch x.instr = u at *
  have hmem : u.mem = s.mem := hrelm.trans rfl
  have hv := hat.withTallies (match porterTally x.instr with | some k => (addTally s k 1).tallies | none => s.tallies)
  generalize hvu : ({ u with tallies := match porterTally x.instr with | some k => (addTally s k 1).tallies | none => s.tallies } : State) = v at *
  have hvm : v.mem = s.mem := by rw [← hvu]; exact hmem
  have hvt : v.tallies = match porterTally x.instr with | some k => (addTally s k 1).tallies | none => s.tallies := by rw [← hvu]
  rw [if_pos (hholds (by rw [hv.own]; exact hload) (by rw [hv.own]; exact hr))] at heq
  obtain ⟨hcore, hne, hfr⟩ := signals_ok v core 4 x.index x.instr bins (by rw [hv.own]; exact hr) (by rw [hv.own]; exact hb)
  rw [heq]
  generalize signals v core 4 x.index x.instr = t at *
  refine ⟨⟨?_, ?_, fun k hk => (hne k hk).trans (hv.others k hk)⟩, ?_, ?_⟩
  · rw [hfr]
    exact hv.only_cores _
  · rw [hcore, hv.own]
    rfl
  · rw [hfr]
    exact hvm
  · rw [hfr]
    exact hvt

theorem markedTransferComplete_completes {x : Transfer} {id : Nat} {bins : List Bin}
    (hfind : (getCore s core).inflight.find? (fun t => t.id == id) = some x) (hfail : x.failed = false) (hmoved : x.moved = true)
    (hstate : (getCtx s x.ctx).state = 2) (hgen : (getCtx s x.ctx).gen = x.gen) (hops : Ins.op x.instr = 0x44 → x.ops = [])
    (hremote : x.remote = none) (hload : (getCore s core).load = x.launch) (hr : (getCore s core).run ≠ 3)
    (hocc : (Ins.op x.instr = 0x41 ∨ Ins.op x.instr = 0x42) → 1 ≤ (getBin (getCore s core) (Ins.bits x.instr 87 82)).occ)
    (he : ∀ k, porterTally x.instr = some k → tallyEpochOf s k = x.epoch)
    (hb : sigBins (listReleased x.instr (getCore s core).bins) x.instr = some bins) :
    Runs (.markedTransferComplete core id .clean) s (fun t =>
      t = { s with cores := t.cores, tallies := t.tallies } ∧ (∀ j, j ≠ core → getCore t j = getCore s j) ∧
      getCore t core = { getCore s core with inflight := (getCore s core).inflight.filter (fun y => y.id != id), bins } ∧
      t.tallies = match porterTally x.instr with | some k => (addTally s k 1).tallies | none => s.tallies) := by
  have hid := List.find?_some hfind
  obtain ⟨hat, hmem, htal⟩ := completeTransfer_completes (beq_iff_eq.mp hid) hremote hload hr hocc he hb
  have hgo : markedComplete s core id .clean = completeTransfer s core x := by
    have hnot : (Ins.op x.instr = 0x44 && !x.moved && !x.failed && coreHolds s core x.launch) = false := by
      rw [hmoved, Bool.not_true, Bool.and_false, Bool.false_and, Bool.false_and]
    have hcomplete : transferComplete s core id .clean = completeTransfer s core x := by
      unfold transferComplete
      rw [hfind]
      dsimp only
      rw [hfail, if_neg Bool.false_ne_true]
      by_cases hop : Ins.op x.instr = 0x44
      · rw [if_pos hop, hops hop, hmoved]
        rfl
      · rw [if_neg hop, hmoved]
        rfl
    unfold markedComplete
    rw [hfind]
    dsimp only
    rw [if_neg (fun h => h.elim (· hstate) (· hgen)), hnot, if_neg Bool.false_ne_true, hcomplete]
  refine runs_eq rfl hgo ⟨?_, hat.others, hat.own, htal⟩
  have honly := hat.only
  rw [hmem] at honly
  exact honly

end

/-- Settles O9: a gather or scatter of one slot is a walk that copies crate after crate; at its issue the transfer joins the
list, and its completion takes it off, releases, adds and signals. -/
theorem porterTransfers : Obligations.PorterTransfers := by
  unfold Obligations.PorterTransfers
  refine ⟨fun s core w k u op c hop ha hc hfree hocc hk hok hfmt hrun hr => ?_, fun s core w b n loc hb hnw hn p cg part href hw => ⟨?_, ?_⟩,
    fun _ _ _ _ _ hfind hfail hmoved hstate hgen hops hremote hload hr hocc he hb =>
      markedTransferComplete_completes hfind hfail hmoved hstate hgen hops hremote hload hr hocc he hb⟩
  · rcases hop with rfl | rfl
    · exact idx_issues rfl ha hc hfree hocc hk hok hfmt hrun hr
    · exact idx_issues rfl ha hc hfree hocc hk hok hfmt hrun hr
  · exact fun hop hbit hloc hocc hprod hall => gather_copies hb hnw hn href hw hop hbit hloc hocc hprod hall
  · exact fun hop hloc hocc hall => scatter_copies hb hnw hn href hw hop hloc hocc hall

end Sys2Proof.Machine
end

section
/-! # STEP_BEGIN (14/R441-R443) -/

namespace Sys2Proof.Machine

/-! ## Sends that leave the operations alone -/

/-- `t` is `s` but for what sending a frame changes: its operations stand. -/
structure Handed (s t : State) : Prop where
  only : FabOnly s t
  ops : t.fab.ops = s.fab.ops

theorem Handed.refl (s : State) : Handed s s := ⟨rfl, rfl⟩
theorem Handed.trans {s t u : State} (h : Handed s t) (g : Handed t u) : Handed s u := ⟨h.only.trans g.only, g.ops.trans h.ops⟩
theorem Handed.ite {s t u : State} {p : Prop} [Decidable p] (h : Handed s t) (g : Handed s u) : Handed s (if p then t else u) := by
  split
  · exact h
  · exact g

theorem openHalf_handed (s : State) (n : Nat) : Handed s (openHalf s n) := by
  unfold openHalf
  dsimp -zeta only [drawFree]
  extract_lets sid s2
  have h : Handed s s2 := ⟨rfl, rfl⟩
  split
  · exact h.trans ⟨rfl, rfl⟩
  · exact h

theorem useSession_handed (s : State) (peer : Nat) : Handed s (useSession s peer).1 := by
  have hset (n : Nat) : Handed s (setSession s n (some { peer })) := ⟨rfl, rfl⟩
  unfold useSession
  split
  · split
    · split
      · exact .refl s
      · exact openHalf_handed ..
    · exact .refl s
  · split
    · exact .refl s
    · exact (hset _).trans (openHalf_handed ..)

theorem markUsed_handed (s : State) (ctx gen chip ch : Nat) : Handed s (markUsed s ctx gen chip ch) := by
  unfold markUsed modFab
  dsimp only
  split
  · exact ⟨rfl, rfl⟩
  · exact ⟨rfl, rfl⟩

theorem askBind_handed (s : State) (ctx gen chip ch : Nat) : Handed s (askBind s ctx gen chip ch) := by
  unfold askBind
  extract_lets s1 s2
  have h1 : Handed s s1 := ⟨rfl, rfl⟩
  have h2 : Handed s1 s2 := markUsed_handed ..
  exact h1.trans (h2.trans ⟨rfl, rfl⟩)

theorem sendCtx_handed (s : State) (ctx gen : Nat) (op : Option Nat) (f : Frame) : Handed s (sendCtx s ctx gen op f).1 := by
  unfold sendCtx
  split
  · exact .refl s
  · extract_lets g
    have h := useSession_handed s g.dst
    generalize useSession s g.dst = r at *
    obtain ⟨u, n⟩ := r
    split
    · split
      · exact .refl s
      · cases n with
        | none => exact h
        | some n =>
          dsimp only
          split
          · exact h.trans ((markUsed_handed ..).trans ⟨rfl, rfl⟩)
          · exact h.trans ((markUsed_handed ..).trans ⟨rfl, rfl⟩)
    · split
      · exact .refl s
      · cases n with
        | none => exact h
        | some n => exact h.trans ((askBind_handed ..).trans ⟨rfl, rfl⟩)

/-! ## What sending a step's streams changes -/

/-- `t` is `s` but for the fabric, the memories and the events. -/
def Streamed (s t : State) : Prop := t = { s with fab := t.fab, freeCtr := t.freeCtr, mem := t.mem, events := t.events }

theorem Streamed.refl (s : State) : Streamed s s := rfl
theorem Streamed.trans {s t u : State} (h : Streamed s t) (g : Streamed t u) : Streamed s u := by
  unfold Streamed at *
  rw [h] at g
  exact g
theorem Streamed.foldl {α : Type} {f : State → α → State} (hf : ∀ s a, Streamed s (f s a)) (l : List α) (s : State) :
    Streamed s (l.foldl f s) := by
  induction l generalizing s with
  | nil => exact .refl s
  | cons a l ih => exact (hf s a).trans (ih _)
theorem FabOnly.streamed {s t : State} (h : FabOnly s t) : Streamed s t := by
  unfold FabOnly at h
  unfold Streamed
  rw [h]
theorem EventsOnly.streamed {s t : State} (h : EventsOnly s t) : Streamed s t := by
  unfold EventsOnly at h
  unfold Streamed
  rw [h]

/-- A stream of a step, other than a checkpoint's, that fails is only told. -/
theorem failOp_streamed {s : State} {id step what : Nat} {o : Op} (ho : getOp s id = some o) (hown : o.owner = .stream step what) (hw : what ≠ 3)
    (reason far ftype crate : Nat) : Streamed s (failOp s id reason far ftype crate) := by
  unfold failOp
  rw [ho]
  dsimp only
  rw [hown]
  dsimp only
  rw [if_neg hw]
  have hdrop : FabOnly s (dropOp s id) := rfl
  exact hdrop.streamed.trans (EventsOnly.streamed (raiseEvent_eventsOnly _ rfl))

/-- One frame of a stream, unless one failed already. -/
def streamOne {α : Type} (cg : CtxGen) (id : Nat) (f : α → Frame) (crate : α → Nat) (acc : State × Bool) (e : α) : State × Bool :=
  if acc.2 then acc
  else match sendCtx acc.1 cg.1 cg.2 (some id) (f e) with
    | (s, none) => (s, false)
    | (s, some r) => (failOp s id r 0 0x01 (crate e), true)

/-- The operation stays the stream's own until a frame fails it. -/
theorem streamAll_streamed {α : Type} {cg : CtxGen} {id step what : Nat} {f : α → Frame} {crate : α → Nat} {o : Op}
    (hown : o.owner = .stream step what) (hw : what ≠ 3) : ∀ (l : List α) (s : State), getOp s id = some o →
    Streamed s (l.foldl (streamOne cg id f crate) (s, false)).1
  | [], s, _ => .refl s
  | e :: l, s, ho => by
    have hfailed : ∀ (l : List α) (u : State), l.foldl (streamOne cg id f crate) (u, true) = (u, true) := by
      intro l
      induction l with
      | nil => exact fun u => rfl
      | cons a l ih => exact ih
    have h := sendCtx_handed s cg.1 cg.2 (some id) (f e)
    rw [List.foldl_cons, streamOne, if_neg Bool.false_ne_true]
    dsimp only
    generalize sendCtx s cg.1 cg.2 (some id) (f e) = r at *
    obtain ⟨u, _ | r⟩ := r
    · exact h.only.streamed.trans (streamAll_streamed hown hw l u ((congrArg (fun t => tget none t id) h.ops).trans ho))
    · dsimp only
      rw [hfailed]
      exact h.only.streamed.trans (failOp_streamed ((congrArg (fun t => tget none t id) h.ops).trans ho) hown hw _ _ _ _)

theorem newOp_handed (s : State) (o : Op) : Streamed s (newOp s o).1 ∧ getOp (newOp s o).1 (newOp s o).2 = some o := by
  refine ⟨rfl, ?_⟩
  exact tget_tset_self none s.fab.ops s.fab.nextOp (some o)

theorem sendPuts_streamed {what : Nat} (hw : what ≠ 3) (s : State) (cg : CtxGen) (chip step : Nat) (xs : List (Nat × List Byte × W128)) :
    Streamed s (sendPuts s cg chip (.stream step what) xs) := by
  obtain ⟨hs, ho⟩ := newOp_handed s { dir := 0, chip, ch := 3, ctx := cg.1, gen := cg.2, owner := .stream step what, left := xs.length
                                      all := true, step := s.stepSt.cur }
  unfold sendPuts
  generalize newOp s _ = r at *
  obtain ⟨u, id⟩ := r
  exact hs.trans (streamAll_streamed rfl hw _ u ho)

theorem tagAll_streamed : ∀ (l : List (Nat × List Byte)) (s : State), Streamed s (tagAll l s).1
  | [], s => .refl s
  | (c, p) :: l, s => by
    have h : Streamed s (fwTag s p).1 := rfl
    exact h.trans (tagAll_streamed l _)

theorem sendStream_streamed {what : Nat} (hw : what ≠ 3) (s : State) (k chip step : Nat) (x : List Byte × List (List Byte)) :
    Streamed s (sendStream s k chip step what x) := by
  unfold sendStream
  extract_lets +onlyGivenNames base
  exact (tagAll_streamed ..).trans (sendPuts_streamed hw ..)

theorem sendInputs_streamed (s : State) (r : StepRec) : Streamed s (sendInputs s r) :=
  .foldl (fun s _ => sendPuts_streamed (by decide) s ..) _ s

theorem sendDelta_streamed (s : State) (r : StepRec) : Streamed s (sendDelta s r) :=
  .foldl (fun s _ => sendStream_streamed (by decide) s ..) _ s

theorem sendSync_streamed (s : State) : Streamed s (sendSync s) := by
  unfold sendSync
  split
  · exact .refl s
  · exact .foldl (fun s _ => sendStream_streamed (by decide) s ..) _ s

/-! ## The records of steps -/

/-- `t` is `s` but for what opening and ending steps and sending their streams change. -/
def Stepped (s t : State) : Prop := t = { s with fab := t.fab, freeCtr := t.freeCtr, mem := t.mem, events := t.events, stepSt := t.stepSt }

theorem Stepped.refl (s : State) : Stepped s s := rfl
theorem Stepped.trans {s t u : State} (h : Stepped s t) (g : Stepped t u) : Stepped s u := by
  unfold Stepped at *
  rw [h] at g
  exact g
theorem Streamed.stepped {s t : State} (h : Streamed s t) : Stepped s t := by
  unfold Streamed at h
  unfold Stepped
  rw [h]

theorem Streamed.stepSt {s t : State} (h : Streamed s t) : t.stepSt = s.stepSt := by rw [h]

/-- A record of a step that ended at `time`. -/
def endedRec (time : W64) (r : StepRec) : StepRec := { r with endT := time, state := 2 }

/-- The records once the step `q` has ended. -/
def endedRecs (recs : List StepRec) (q : StepRec) (time : W64) : List StepRec :=
  recs.map fun r => if r.step = q.step then endedRec time r else r

section
variable {s : State} {q r : StepRec} {n : Nat}

theorem recState_only (s : State) (r : StepRec) (state : Nat) : ∃ m, recState s r state = { s with mem := m, stepSt := { s.stepSt with
    recs := s.stepSt.recs.map fun x => if x.step = r.step then { x with state } else x } } := by
  unfold recState
  generalize patchFw s.mem (recordHeader s r.slot) 6 [BitVec.ofNat 8 state] = m
  exact ⟨m, rfl⟩

theorem endedRecs_eq (recs : List StepRec) (q : StepRec) (time : W64) : (recs.map fun r => if r.step = q.step then { r with endT := time } else r).map
    (fun r => if r.step = q.step then { r with state := 2 } else r) = endedRecs recs q time := by
  rw [List.map_map]
  refine List.map_congr_left fun r _ => ?_
  by_cases h : r.step = q.step
  · simp only [Function.comp_apply, if_pos h, endedRec]
  · simp only [Function.comp_apply, if_neg h]

theorem endOpen_ends (hq : openRec s = some q) :
    ∃ m, endOpen s = { s with mem := m, stepSt := { s.stepSt with recs := endedRecs s.stepSt.recs q s.time } } := by
  unfold endOpen
  rw [hq]
  dsimp only
  generalize patchFw s.mem (recordHeader s q.slot) 32 (Word.toLe 8 s.time.toNat) = m
  have hrec : modRec (setMem s m) q.step (fun x => { x with endT := s.time }) = { s with mem := m, stepSt := { s.stepSt with
      recs := s.stepSt.recs.map fun r => if r.step = q.step then { r with endT := s.time } else r } } := rfl
  rw [show (setMem s m).time = s.time from rfl, hrec]
  obtain ⟨m', hm'⟩ := recState_only { s with mem := m, stepSt := { s.stepSt with
      recs := s.stepSt.recs.map fun r => if r.step = q.step then { r with endT := s.time } else r } } q 2
  rw [hm', endedRecs_eq]
  exact ⟨_, rfl⟩

/-- The state in which the step before `n` has ended, if one was open. -/
def endedBefore (s : State) (n : Nat) : State :=
  if (match openRec s with | some r => r.step != n | none => false) then endOpen s else s

theorem endedBefore_ends (s : State) (n : Nat) : ∃ m rs, endedBefore s n = { s with mem := m, stepSt := { s.stepSt with recs := rs } } ∧
    (∀ r ∈ s.stepSt.recs, ∃ p ∈ rs, p.step = r.step) ∧
    ∀ q, openRec s = some q → q.step ≠ n → ∃ p ∈ rs, p.slot = q.slot ∧ p.step = q.step ∧ p.state = 2 ∧ p.endT = s.time := by
  unfold endedBefore
  cases hq : openRec s with
  | none => exact ⟨s.mem, s.stepSt.recs, rfl, fun r hr => ⟨r, hr, rfl⟩, fun q h => nomatch h⟩
  | some q =>
    dsimp only
    by_cases hn : q.step = n
    · rw [if_neg (by rw [hn, bne_self_eq_false]; exact Bool.false_ne_true)]
      exact ⟨s.mem, s.stepSt.recs, rfl, fun r hr => ⟨r, hr, rfl⟩, fun p hp hne => absurd (Option.some.inj hp ▸ hn) hne⟩
    · obtain ⟨m, hm⟩ := endOpen_ends hq
      rw [if_pos (bne_iff_ne.mpr hn), hm]
      refine ⟨m, _, rfl, fun r hr => ⟨_, List.mem_map_of_mem hr, ?_⟩, fun p hp _ => ?_⟩
      · split
        · rfl
        · rfl
      · obtain rfl := Option.some.inj hp
        refine ⟨_, List.mem_map_of_mem (List.mem_of_find?_eq_some hq), ?_⟩
        rw [if_pos rfl]
        exact ⟨rfl, rfl, rfl, rfl⟩

/-- The record of a step that opens. -/
def openedRec (s : State) (n : Nat) (digest : W64) : StepRec :=
  { slot := slotOfStep s n, step := n, seed := (getCtx s (stepCg s).1).seed, beginT := s.time, inputDigest := digest }

theorem modStep_modMem (s : State) (f g : Mem → Mem) (k : StepSt → StepSt) :
    modStep (modMem (modMem s f) g) k = { s with mem := g (f s.mem), stepSt := k s.stepSt } := rfl

theorem openStep_opens (s : State) (n : Nat) : ∃ m digest, openStep s n = { s with mem := m, stepSt := { s.stepSt with
    cur := n, act := 1, recs := s.stepSt.recs.filter (fun r => r.slot != slotOfStep s n) ++ [openedRec s n digest] } } := by
  unfold openStep
  exact ⟨_, _, modStep_modMem ..⟩

theorem stepBoundary_quiet (h : ∀ core, CoreQuiet s core) : stepBoundary s = s := by
  unfold stepBoundary
  dsimp only
  generalize ((getPart s _).dies.flatMap _) = l
  induction l with
  | nil => rfl
  | cons core l ih =>
    rw [List.foldl_cons, coreBoundary_quiet (h core), ite_self]
    exact ih

theorem Stepped.quiet {t : State} (h : Stepped s t) {core : Nat} (hq : CoreQuiet s core) : CoreQuiet t core := by
  rw [h]
  exact hq

theorem Stepped.parts {t : State} (h : Stepped s t) : t.cores = s.cores ∧ t.queues = s.queues ∧ t.tallies = s.tallies ∧ t.cmds = s.cmds ∧ t.time = s.time := by
  rw [h]
  exact ⟨rfl, rfl, rfl, rfl, rfl⟩

/-- The inputs of the open step go out. -/
def inputsOut (s : State) : State := match openRec s with | some r => sendInputs s r | none => s

/-- The delta of the step before `n` goes out. -/
def deltaOut (s : State) (n : Nat) : State :=
  match s.stepSt.recs.find? (fun r => r.step + 1 == n && r.state == 2) with
  | some r => sendDelta s r
  | none => s

/-- A synchronisation that is owed goes out. -/
def syncOut (s : State) : State := if s.stepSt.syncOwed then modStep (sendSync s) (fun x => { x with syncOwed := false }) else s

/-- The streams that go out as step `n` begins (14/R443). -/
def stepStreams (s : State) (n : Nat) : State := syncOut (deltaOut (inputsOut s) n)

theorem inputsOut_streamed (s : State) : Streamed s (inputsOut s) := by
  unfold inputsOut
  split
  · exact sendInputs_streamed ..
  · exact .refl s

theorem deltaOut_streamed (s : State) (n : Nat) : Streamed s (deltaOut s n) := by
  unfold deltaOut
  split
  · exact sendDelta_streamed ..
  · exact .refl s

theorem syncOut_streams (s : State) : Stepped s (syncOut s) ∧ ∃ owed, (syncOut s).stepSt = { s.stepSt with syncOwed := owed } := by
  have hsync := sendSync_streamed s
  unfold syncOut
  split
  · refine ⟨hsync.stepped.trans rfl, false, ?_⟩
    rw [← hsync.stepSt]
    rfl
  · exact ⟨.refl s, s.stepSt.syncOwed, rfl⟩

theorem stepStreams_streams (s : State) (n : Nat) : Stepped s (stepStreams s n) ∧
    ∃ owed, (stepStreams s n).stepSt = { s.stepSt with syncOwed := owed } := by
  have h := (inputsOut_streamed s).trans (deltaOut_streamed (inputsOut s) n)
  obtain ⟨hsync, owed, howed⟩ := syncOut_streams (deltaOut (inputsOut s) n)
  refine ⟨h.stepped.trans hsync, owed, ?_⟩
  rw [← h.stepSt]
  exact howed

/-- A step that seals nothing and needs nothing ends the one before and opens its own. -/
theorem stepBegin_opens {slot : Nat} {c : Cmd} (h : IsBegun s slot 0x0501 c) (hn : n = Pkt.p0 c.packet) (hf : fromTraining s c = true)
    (hnext : s.stepSt.recs = [] ∨ n = s.stepSt.cur + 1) (hd : dirOn s = true) (hr : s.stepSt.replay = none) (ht : s.stepSt.takeover = none)
    (hold : s.stepSt.recs.find? (fun r => r.step + deadline s + 1 == n) = none) :
    ∃ g : StepSt → Nat, stepBegin s slot = endCmd (stepBoundary (stepStreams (openStep (modStep (endedBefore s n) fun x => { x with prevDur := g x }) n) n)) slot {} := by
  have hnot : ¬ (s.stepSt.recs ≠ [] ∧ Pkt.p0 c.packet ≠ s.stepSt.cur + 1) := fun ⟨h1, h2⟩ => hnext.elim h1 (hn ▸ h2)
  unfold stepBegin
  rw [h.1]
  dsimp only
  rw [hf, if_neg (by decide), if_neg hnot, hd, if_neg (by decide), hr, ht, if_neg (by decide), ← hn, hold]
  dsimp only
  rw [if_neg (by decide)]
  exact ⟨fun x => match openRec s with | some r => ((endedBefore s n).time - r.beginT).toNat | none => x.prevDur, rfl⟩

/-- What stands once a step has begun. -/
theorem stepBegin_begins {slot : Nat} {c : Cmd} (h : IsBegun s slot 0x0501 c) (hn : n = Pkt.p0 c.packet) (hf : fromTraining s c = true)
    (hnext : s.stepSt.recs = [] ∨ n = s.stepSt.cur + 1) (hd : dirOn s = true) (hr : s.stepSt.replay = none) (ht : s.stepSt.takeover = none)
    (hold : s.stepSt.recs.find? (fun r => r.step + deadline s + 1 == n) = none) (hquiet : ∀ core, CoreQuiet s core) :
    Runs (.stepBegin slot) s (fun t => t.stepSt.cur = n ∧ t.stepSt.act = 1 ∧ t.cores = s.cores ∧ t.queues = s.queues ∧
      t.tallies = s.tallies ∧ t.cmds = endedCmds s slot {} ∧
      (∃ r ∈ t.stepSt.recs, r.step = n ∧ r.slot = slotOfStep s n ∧ r.state = 1 ∧ r.beginT = s.time ∧
        r.seed = (getCtx s (stepCg s).1).seed) ∧
      ∀ q, openRec s = some q → q.step ≠ n → q.slot ≠ slotOfStep s n →
        ∃ r ∈ t.stepSt.recs, r.step = q.step ∧ r.state = 2 ∧ r.endT = s.time) := by
  obtain ⟨g, hg⟩ := stepBegin_opens h hn hf hnext hd hr ht hold
  obtain ⟨m, rs, hm, -, hended⟩ := endedBefore_ends s n
  rw [hm] at hg
  obtain ⟨w, hw⟩ : ∃ w, modStep { s with mem := m, stepSt := { s.stepSt with recs := rs } } (fun x => { x with prevDur := g x })
    = { s with mem := m, stepSt := { s.stepSt with recs := rs, prevDur := w } } := ⟨_, rfl⟩
  rw [hw] at hg
  obtain ⟨m', digest, hopen⟩ := openStep_opens { s with mem := m, stepSt := { s.stepSt with recs := rs, prevDur := w } } n
  obtain ⟨hstep, owed, howed⟩ := stepStreams_streams (openStep { s with mem := m, stepSt := { s.stepSt with recs := rs, prevDur := w } } n) n
  have hstepped : Stepped s (openStep { s with mem := m, stepSt := { s.stepSt with recs := rs, prevDur := w } } n) := by
    rw [hopen]
    rfl
  replace hstep := hstepped.trans hstep
  generalize stepStreams (openStep { s with mem := m, stepSt := { s.stepSt with recs := rs, prevDur := w } } n) n = u at *
  rw [stepBoundary_quiet fun core => hstep.quiet (hquiet core)] at hg
  obtain ⟨hcores, hqueues, htallies, hcmds, htime⟩ := hstep.parts
  have hfind : findCmd u slot = some c := by
    unfold findCmd
    rw [hcmds]
    exact h.find
  have hends : endedCmds u slot {} = endedCmds s slot {} := by
    unfold endedCmds
    rw [hcmds, htime]
  rw [endCmd_succeeds hfind h.uncut (Nat.zero_le _), hends] at hg
  rw [hopen] at howed
  have hrecs : u.stepSt.recs = rs.filter (fun r => r.slot != slotOfStep s n) ++ [openedRec s n digest] := congrArg StepSt.recs howed
  refine runs_eq rfl hg ⟨congrArg StepSt.cur howed, congrArg StepSt.act howed, hcores, hqueues, htallies, rfl, ⟨openedRec s n digest, ?_, rfl, rfl, rfl, rfl, rfl⟩,
    fun q hq hne hslot => ?_⟩
  · show _ ∈ u.stepSt.recs
    rw [hrecs]
    exact List.mem_append_right _ (List.mem_singleton_self _)
  · obtain ⟨p, hp, hps, hpstep, hpstate, hpend⟩ := hended q hq hne
    refine ⟨p, ?_, hpstep, hpstate, hpend⟩
    show _ ∈ u.stepSt.recs
    rw [hrecs]
    exact List.mem_append_left _ (List.mem_filter.mpr ⟨hp, bne_iff_ne.mpr (hps ▸ hslot)⟩)

section
variable {slot : Nat} {c : Cmd} (h : IsBegun s slot 0x0501 c) (hn : n = Pkt.p0 c.packet) (hf : fromTraining s c = true)
include h hn hf

theorem stepBegin_not_next (hrecs : s.stepSt.recs ≠ []) (hnext : n ≠ s.stepSt.cur + 1) : stepBegin s slot = stepEnd s slot 2 0x80 := by
  unfold stepBegin
  rw [h.1]
  dsimp only
  rw [hf, if_neg (by decide), if_pos ⟨hrecs, hn ▸ hnext⟩]

theorem stepBegin_without_dir (hnext : s.stepSt.recs = [] ∨ n = s.stepSt.cur + 1) (hd : dirOn s = false) :
    stepBegin s slot = stepEnd s slot 2 0x81 := by
  have hnot : ¬ (s.stepSt.recs ≠ [] ∧ Pkt.p0 c.packet ≠ s.stepSt.cur + 1) := fun ⟨h1, h2⟩ => hnext.elim h1 (hn ▸ h2)
  unfold stepBegin
  rw [h.1]
  dsimp only
  rw [hf, if_neg (by decide), if_neg hnot, hd]
  rfl

variable (hnext : s.stepSt.recs = [] ∨ n = s.stepSt.cur + 1) (hd : dirOn s = true) (hr : s.stepSt.replay = none) (ht : s.stepSt.takeover = none)
  (hold : s.stepSt.recs.find? (fun r => r.step + deadline s + 1 == n) = some r)
include hnext hd hr ht hold

theorem stepBegin_waits (hans : sealAnswer s r = .waits) : stepBegin s slot = s := by
  have hnot : ¬ (s.stepSt.recs ≠ [] ∧ Pkt.p0 c.packet ≠ s.stepSt.cur + 1) := fun ⟨h1, h2⟩ => hnext.elim h1 (hn ▸ h2)
  unfold stepBegin
  rw [h.1]
  dsimp only
  rw [hf, if_neg (by decide), if_neg hnot, hd, if_neg (by decide), hr, ht, if_neg (by decide), ← hn, hold]
  exact if_pos hans

theorem stepBegin_fails (hans : sealAnswer s r = .fails 0x82) : stepBegin s slot = stepEnd (recState (endedBefore s n) r 4) slot 3 0x82 := by
  have hnot : ¬ (s.stepSt.recs ≠ [] ∧ Pkt.p0 c.packet ≠ s.stepSt.cur + 1) := fun ⟨h1, h2⟩ => hnext.elim h1 (hn ▸ h2)
  unfold stepBegin
  rw [h.1]
  dsimp only
  rw [hf, if_neg (by decide), if_neg hnot, hd, if_neg (by decide), hr, ht, if_neg (by decide), ← hn, hold]
  have hne : sealAnswer s r ≠ .waits := fun hw => by cases hans.symm.trans hw
  refine (if_neg hne).trans ?_
  split
  next e p he hp =>
    obtain rfl := SealAns.fails.inj (hans.symm.trans he)
    obtain rfl := Option.some.inj hp
    rfl
  next hne => exact (hne _ _ hans rfl).elim

end

/-- A charge changes the fault of records and nothing else of the steps. -/
theorem chargeNow_steps (s : State) (ctx gen reason : Nat) : ∃ g : StepRec → StepRec, (∀ r, (g r).step = r.step ∧ (g r).state = r.state) ∧
    (chargeNow s ctx gen reason).stepSt = { s.stepSt with recs := s.stepSt.recs.map g } := by
  unfold chargeNow
  split
  · refine ⟨_, fun r => ?_, rfl⟩
    split
    · exact ⟨rfl, rfl⟩
    · exact ⟨rfl, rfl⟩
  · refine ⟨id, fun r => ⟨rfl, rfl⟩, ?_⟩
    rw [List.map_id]

/-- A step command that fails in a state whose memories and records alone are not those of `s`. -/
theorem stepEnd_fails {slot op : Nat} {c : Cmd} (h : IsBegun s slot op c) (hl : ∀ d ∈ queueCmds s c.queue, d.ord ≤ c.ord) (m : Mem)
    (rs : List StepRec) (reason : Nat) :
    let t := stepEnd { s with mem := m, stepSt := { s.stepSt with recs := rs } } slot 3 reason
    t = { s with mem := t.mem, stepSt := t.stepSt, queues := t.queues, cmds := endedCmds s slot { cls := 3, reason } } ∧
      t.stepSt.reason = reason ∧ t.stepSt.cur = s.stepSt.cur ∧
      ∃ g : StepRec → StepRec, (∀ r, (g r).step = r.step ∧ (g r).state = r.state) ∧ t.stepSt.recs = rs.map g := by
  have hend := endCmd_failed (s := { s with mem := m, stepSt := { s.stepSt with recs := rs, reason } }) (slot := slot) (c := c)
    (e := { cls := 3, reason }) h.find h.uncut rfl hl
  have hends : endedCmds { s with mem := m, stepSt := { s.stepSt with recs := rs, reason } } slot { cls := 3, reason }
    = endedCmds s slot { cls := 3, reason } := rfl
  rw [hends] at hend
  obtain ⟨g, hg, hst⟩ := chargeNow_steps { s with mem := m, stepSt := { s.stepSt with recs := rs, reason }, cmds := endedCmds s slot { cls := 3, reason } }
    (Pkt.ctx c.packet) (Pkt.gen c.packet) reason
  have hfr := chargeNow_frame { s with mem := m, stepSt := { s.stepSt with recs := rs, reason }, cmds := endedCmds s slot { cls := 3, reason } }
    (Pkt.ctx c.packet) (Pkt.gen c.packet) reason
  have heq : stepEnd { s with mem := m, stepSt := { s.stepSt with recs := rs } } slot 3 reason = modQueue (chargeNow
      { s with mem := m, stepSt := { s.stepSt with recs := rs, reason }, cmds := endedCmds s slot { cls := 3, reason } }
      (Pkt.ctx c.packet) (Pkt.gen c.packet) reason) c.queue (failedQueue c reason) := hend
  rw [heq]
  generalize chargeNow _ (Pkt.ctx c.packet) (Pkt.gen c.packet) reason = u at *
  have hu : (modQueue u c.queue (failedQueue c reason)).stepSt = u.stepSt := rfl
  refine ⟨?_, ?_, ?_, g, hg, ?_⟩
  · obtain ⟨hx, -, -⟩ := modQueue_only u c.queue (failedQueue c reason)
    rw [hx, hfr]
  · rw [hu, hst]
  · rw [hu, hst]
  · rw [hu, hst]

theorem sealAnswer_waits {x : CrossWeigh} (hx : s.stepSt.weigh = some x) (hs : x.step = r.step) : sealAnswer s r = .waits := by
  unfold sealAnswer
  rw [hx]
  exact if_pos (beq_iff_eq.mpr hs)

theorem sealAnswer_faulted (hx : s.stepSt.weigh = none) (hfault : r.fault ≠ 0) : sealAnswer s r = .fails 0x82 := by
  unfold sealAnswer
  rw [hx]
  exact (if_neg Bool.false_ne_true).trans (if_pos (.inl hfault))

/-- A step whose slot holds a faulted step fails, the step before it having ended, and the faulted one may be replayed. -/
theorem stepBegin_faulted {slot : Nat} {c : Cmd} (h : IsBegun s slot 0x0501 c) (hn : n = Pkt.p0 c.packet) (hf : fromTraining s c = true)
    (hl : ∀ d ∈ queueCmds s c.queue, d.ord ≤ c.ord) (hnext : s.stepSt.recs = [] ∨ n = s.stepSt.cur + 1) (hd : dirOn s = true)
    (hr : s.stepSt.replay = none) (ht : s.stepSt.takeover = none)
    (hold : s.stepSt.recs.find? (fun r => r.step + deadline s + 1 == n) = some r) (hans : sealAnswer s r = .fails 0x82) :
    Runs (.stepBegin slot) s (fun t => t = { s with mem := t.mem, stepSt := t.stepSt, queues := t.queues
                                                    cmds := endedCmds s slot { cls := 3, reason := 0x82 } } ∧
      t.stepSt.reason = 0x82 ∧ t.stepSt.cur = s.stepSt.cur ∧ ∃ q ∈ t.stepSt.recs, q.step = r.step ∧ q.state = 4) := by
  have hgo := stepBegin_fails h hn hf hnext hd hr ht hold hans
  obtain ⟨m, rs, hm, hkept, -⟩ := endedBefore_ends s n
  rw [hm] at hgo
  obtain ⟨m', hm'⟩ := recState_only { s with mem := m, stepSt := { s.stepSt with recs := rs } } r 4
  rw [hm'] at hgo
  obtain ⟨p, hp, hpstep⟩ := hkept r (List.mem_of_find?_eq_some hold)
  obtain ⟨hfr, hreason, hcur, g, hg, hrecs⟩ := stepEnd_fails h hl m' (rs.map fun x => if x.step = r.step then { x with state := 4 } else x) 0x82
  refine runs_eq rfl hgo ⟨hfr, hreason, hcur, _, hrecs ▸ List.mem_map_of_mem (List.mem_map_of_mem hp), ?_⟩
  obtain ⟨hstep, hstate⟩ := hg (if p.step = r.step then { p with state := 4 } else p)
  rw [hstep, hstate, if_pos hpstep]
  exact ⟨hpstep, rfl⟩

end

/-- Settles O33: what stands in the way of a step answers first; otherwise the open step ends, the next opens its record, and
the streams that go out touch the fabric, the memories and the events alone. -/
theorem stepBegins : Obligations.StepBegins := by
  unfold Obligations.StepBegins
  intro s slot c n h hn hf hl
  refine ⟨fun hrecs hnext => runs_eq rfl (stepBegin_not_next h hn hf hrecs hnext) (stepEnd_refused h (by decide) hl _), fun hnext => ⟨fun hd =>
    runs_eq rfl (stepBegin_without_dir h hn hf hnext hd) (stepEnd_refused h (by decide) hl _), fun hd hr ht => ⟨fun hold hquiet =>
    stepBegin_begins h hn hf hnext hd hr ht hold hquiet, fun r w hold hw hs => ?_, fun r hold hw hfault => ?_⟩⟩⟩
  · exact runs_eq rfl (stepBegin_waits h hn hf hnext hd hr ht hold (sealAnswer_waits hw hs)) rfl
  · exact stepBegin_faulted h hn hf hl hnext hd hr ht hold (sealAnswer_faulted hw hfault)

end Sys2Proof.Machine
end
